-- ==== Sys2Proof/Word.lean ====
section
/-! DEFINITION. The word types and the plainest arithmetic on them.
Every quantity that the manual treats as bits and that software reads is held as a `Nat` below a stated
bound inside the register store, and as a `BitVec` where it is an operand field of an encoding. -/

namespace Sys2Proof

/-- A register word of the control space (R361). -/
abbrev Word := BitVec 32

/-- A byte of a memory (R4). -/
abbrev Byte := BitVec 8

/-- Ceiling division: the manual's ⌈a/b⌉. -/
def cdiv (a b : Nat) : Nat := (a + b - 1) / b

/-- Increment of a counter that saturates at `top` (as R58, R79, R118 and most counters do). -/
def satAdd (top n k : Nat) : Nat := min top (n + k)

/-- The two's complement reading of the low `w` bits of `n`. -/
def sgn (w n : Nat) : Int :=
  let m := n % 2 ^ w
  if m < 2 ^ (w - 1) then (m : Int) else (m : Int) - (2 ^ w : Nat)

/-- The low `w` bits of the two's complement of `z`. -/
def unsgn (w : Nat) (z : Int) : Nat := (z % ((2 ^ w : Nat) : Int)).toNat

/-- Bits `lsb + w - 1` down to `lsb` of `n` (R4: bit 0 is the least significant). -/
def bits (n lsb w : Nat) : Nat := n / 2 ^ lsb % 2 ^ w

/-- How many of the low `fuel` bits of `n` are 1. -/
def popc : Nat → Nat → Nat
  | 0, _ => 0
  | fuel + 1, n => n % 2 + popc fuel (n / 2)

/-- The lowest 1 bit of `n` among its low bits, counted from `k`. -/
def lowBit : Nat → Nat → Nat → Nat
  | 0, k, _ => k
  | fuel + 1, k, n => if n % 2 = 1 then k else lowBit fuel (k + 1) (n / 2)

/-- A fold of `f` over 0, 1, …, n − 1. -/
def upTo {α : Type} (n : Nat) (f : α → Nat → α) (a : α) : α := (List.range n).foldl f a

end Sys2Proof
end

