-- ==== Sys2Proof/Syntax.lean ====
section
/-! DEFINITION. The commands: one constructor per row of the table of operations and events, with its operands. -/

namespace Sys2Proof

/-- R6, R28: core `n` of physical site `site`. -/
structure CoreId where
  site : Nat
  n : Nat
  deriving DecidableEq, Repr

/-- R148, R149: the issue fields of a bundle's header. -/
structure Hdr where
  delta : BitVec 16
  fa : Bool
  deriving DecidableEq, Repr

/-- R82: every bit of a VX slot but its opcode. -/
structure VxArgs where
  flags : BitVec 8
  count : BitVec 14
  dst : BitVec 16
  srca : BitVec 16
  srcb : BitVec 16
  imm : BitVec 32
  ty : BitVec 8
  rsv : BitVec 10
  deriving DecidableEq, Repr

/-- R158: the MVCP, MVCR, MVCW, MVXR, MVXW, MVWR, MVWW and KICK fields: bank, line and bits [63:20] of the slot. -/
structure MvArgs where
  bank : BitVec 5
  line : BitVec 7
  rest : BitVec 44
  deriving DecidableEq, Repr

/-- R162: every bit of an LK slot but its opcode. -/
structure LkArgs where
  hopId : BitVec 12
  bb : BitVec 5
  nb : BitVec 5
  line0 : BitVec 7
  rl : BitVec 7
  rsv : BitVec 20
  deriving DecidableEq, Repr

/-- R43, R44, R101, R202: physical upsets that strike before a step, as the environment supplies them: word indices of
the panel's memories with a new correctable (`false`) or uncorrectable (`true`) error. -/
abbrev Upsets := List (Nat × Bool)

/-- R43, R44: what goes wrong in the array during one MXMUL, as the environment supplies it: (row, groups) in which a lane
fault makes the check columns mismatch, rows with a parity error of the activations and of the exponent registers, and
(row, groups) with a parity error of the group scales. -/
structure ArrayUpset where
  lanes : List (Nat × Nat) := []
  act : List Nat := []
  exp : List Nat := []
  scale : List (Nat × Nat) := []
  deriving DecidableEq, Repr

/-- R287, R288: whose power domain an event names. -/
inductive PowerUnit where
  | site (i : Nat)
  | hub (h : Nat)
  deriving DecidableEq, Repr

/-- R303: a condition that has a thermal level, with its reading. -/
inductive ThermCond where
  /-- The four junction sensors of a site, in 0.5 °C units. -/
  | site (i : Nat) (t0 t1 t2 t3 : Int)
  /-- Higher of the panel and tray inlet readings, in 0.01 °C. -/
  | inlet (t : Int)
  /-- Higher of the outlet readings, in 0.01 °C. -/
  | outlet (t : Int)
  /-- Flow from the tray, in 0.01 L/min. -/
  | flow (f : Nat)
  /-- Panel and tray readings: inlet pair and outlet pair, in 0.01 °C. -/
  | disagree (ip it op ot : Int)
  /-- Input voltage, in 25 mV units (R285). -/
  | input (v : Nat)
  deriving DecidableEq, Repr

/-! ### The control space and the Postmaster -/

/-- R361, R376: a register access: its function (0 PF0, r + 1 VF r), the hub whose port carries it (none: the management
port), its address in the function's BAR0, whether it is one aligned 32-bit access with all byte enables, and how many
accesses of its party wait already (R348). -/
structure HostAcc where
  fn : Nat
  port : Option (BitVec 4)
  addr : BitVec 32
  dw : Bool := true
  waiting : Nat := 0
  deriving DecidableEq, Repr

/-- R391, R133: what LANES measures at port `port` (order of DOWN_PORTS) of a site: lanes that fail training, and the
latency in cc, rounded up, of the hop that leaves by it. -/
structure LanePort where
  site : BitVec 8
  port : BitVec 4
  bad : BitVec 72 := 0
  lat : BitVec 8 := 0
  deriving DecidableEq, Repr

/-- R388: how a bring-up step ends: a failure that the hardware reports (its k of 16 n + k, and the unit named), the sites
that fail in it, and what it measures. -/
structure StepRep where
  fail : Option (BitVec 4 × BitVec 8) := none
  bad : List (BitVec 8) := []
  /-- DISCOVER, LANES: sites whose link repeater does not work. -/
  mute : List (BitVec 8) := []
  /-- FENCE: die slots admitted, per hub. -/
  dies : List (BitVec 4 × BitVec 6) := []
  lanes : List LanePort := []
  /-- LANES: x16 ports that have trained, with width and speed code, and the mapped GiB of a DEEP port. -/
  x16 : List (BitVec 4 × BitVec 5 × BitVec 3 × BitVec 13) := []
  /-- CLOCK_MESH: MARK_COMP per site. -/
  comp : List (BitVec 8 × BitVec 24) := []
  deriving DecidableEq, Repr

/-- R422: a firmware image as the Postmaster finds it: its header, and whether CRC and signature verify. -/
structure FwImage where
  magic : BitVec 32
  fmtVer : BitVec 8
  keyId : BitVec 8
  /-- A reserved field is not zero. -/
  rsv : Bool
  seq : BitVec 32
  length : BitVec 32
  version : BitVec 32
  svn : BitVec 32
  /-- Lowest and highest supported version of the eight interfaces of R429. -/
  ranges : List (Nat × Nat)
  crcOk : Bool
  sigOk : Bool
  deriving DecidableEq, Repr

/-- R176: an envelope: its header fields and its 48-byte payload. -/
structure Env where
  kind : BitVec 4
  vc : BitVec 3 := 0
  poison : Bool := false
  dst : BitVec 8
  src : BitVec 8
  sort : BitVec 8 := 0
  stream : BitVec 9
  region : BitVec 4 := 0
  sepoch : BitVec 3 := 0
  seq : BitVec 24 := 0
  words : BitVec 3 := 0
  last : Bool := false
  circ : Bool := false
  rsv : BitVec 3 := 0
  mask : BitVec 16 := 0
  data : BitVec 384 := 0
  deriving DecidableEq, Repr

/-- R228: a fabric tag. -/
structure Tag where
  dpanel : BitVec 12
  spanel : BitVec 12
  ttl : BitVec 6
  fclass : Bool
  upper : Bool
  plane : BitVec 4
  attempt : BitVec 2
  rsv : BitVec 26 := 0
  deriving DecidableEq, Repr

/-- What the OPEN of a transfer to a hub names (R182, R189): fabric data, host memory (with the bus mastering of the
region's function, R241), or the deep tier. The envelope itself does not tell (log entry 15). -/
inductive HubSpace where
  | fabric
  | host (master : Bool)
  | deep
  deriving DecidableEq, Repr

/-- R227, R228: a fabric word as it arrives: tag, envelope, whether the envelope's CRC-32C holds, and whether it concerns
the response direction of its stream. -/
structure FWord where
  t : Tag
  e : Env
  crcOk : Bool := true
  resp : Bool := false
  deriving DecidableEq, Repr

/-- R232: the content of an IDENT block. -/
structure PeerIdent where
  serial : BitVec 64
  hub : BitVec 4
  port : BitVec 3
  id : BitVec 12
  idValid : Bool
  vers : BitVec 8
  cap : BitVec 32
  shelf : BitVec 32
  loop : BitVec 32
  rack : BitVec 32
  deriving DecidableEq, Repr

/-- R239: a TIME block: the master's serial and the sender's hops from it, t1, and in a reply t2 and t3 (ns). -/
structure TimeBlk where
  serial : BitVec 64
  hops : Nat
  t1 : Int
  reply : Option (Int × Int)
  deriving DecidableEq, Repr

/-- R244: what a third-party die asks for. -/
inductive FwReq where
  /-- A PHY command addressed to the die's own lanes. -/
  | phy
  /-- The die's own mailbox page. -/
  | mailbox
  /-- The hub's PAGE_ID, the die's PORT_STATE, panel time [31:0], the manifold inlet temperature. -/
  | pageId
  | portState
  | time
  | inlet
  /-- Anything else. -/
  | other
  deriving DecidableEq, Repr

/-- R245 to R247: what a twin sends over a TB port. -/
inductive TwinMsg where
  /-- TWIN_STATE, sequence number, configuration epoch, panel time, and whether the Postmaster restarts (R408). -/
  | heartbeat (twinState seq epoch time : Nat) (updating : Bool)
  /-- PAIR written on the twin, naming a serial; its OVERRIDE. -/
  | pair (target : BitVec 64) (ovr : Bool)
  | unpair
  | detach
  | ready
  | busy
  | shrunk
  | shadow
  | attach
  | abort
  /-- Comparison of the digests of one frame (R247 step 7). -/
  | digest (same : Bool)
  deriving DecidableEq, Repr

/-- R140: what a received beat decodes to. -/
inductive BeatKind where
  | clean
  | corrected
  | stomped
  | uncorrectable
  deriving DecidableEq, Repr

/-- R131: what a beat slot brings: nothing, or a beat. -/
inductive Beat where
  | idle
  | word (k : BeatKind) (data : BitVec 512)
  deriving DecidableEq, Repr



/-- A command of the block. -/
inductive Instr where
  /-- BUNDLE_DUE: R150: the sequencer of core `c` reaches its next bundle's due cycle, after the upsets `ups`; `arr` strikes the array if the bundle holds an MXMUL. -/
  | bundleDue (c : CoreId) (ups : Upsets) (arr : ArrayUpset)
  /-- MXLOAD: R47: load a tile into a weight buffer. -/
  | mxload (c : CoreId) (h : Hdr) (wbuf : BitVec 1) (wmode dq : BitVec 3) (doff : BitVec 7) (sq : BitVec 3) (soff : BitVec 7) (fine : BitVec 1) (rsv : BitVec 63)
  /-- MXEXP: R48: load an exponent register. -/
  | mxexp (c : CoreId) (h : Hdr) (xsel : BitVec 1) (bank : BitVec 5) (line : BitVec 7) (rsv : BitVec 75)
  /-- MXMUL: R49: stream activation rows, of which `arr` says what goes wrong (R43, R44). -/
  | mxmul (c : CoreId) (h : Hdr) (wbuf acc amode : BitVec 1) (aq : BitVec 3) (aoff mcnt slot : BitVec 7) (xsel : BitVec 1) (xidx : BitVec 7) (pshift : BitVec 6) (rsv : BitVec 47) (arr : ArrayUpset)
  /-- MXDRAIN: R50: write accumulator slots to scratchpad. -/
  | mxdrain (c : CoreId) (h : Hdr) (fmt clr : BitVec 1) (slot scnt : BitVec 7) (dq : BitVec 3) (doff : BitVec 7) (rsv : BitVec 62)
  /-- VMOV: R83. -/
  | vmov (c : CoreId) (h : Hdr) (a : VxArgs)
  /-- VADD: R83. -/
  | vadd (c : CoreId) (h : Hdr) (a : VxArgs)
  /-- VSUB: R83. -/
  | vsub (c : CoreId) (h : Hdr) (a : VxArgs)
  /-- VMUL: R83. -/
  | vmul (c : CoreId) (h : Hdr) (a : VxArgs)
  /-- VFMA: R83. -/
  | vfma (c : CoreId) (h : Hdr) (a : VxArgs)
  /-- VMAX: R83. -/
  | vmax (c : CoreId) (h : Hdr) (a : VxArgs)
  /-- VMIN: R83. -/
  | vmin (c : CoreId) (h : Hdr) (a : VxArgs)
  /-- VABS: R83. -/
  | vabs (c : CoreId) (h : Hdr) (a : VxArgs)
  /-- VNEG: R83. -/
  | vneg (c : CoreId) (h : Hdr) (a : VxArgs)
  /-- VSCALE: R83. -/
  | vscale (c : CoreId) (h : Hdr) (a : VxArgs)
  /-- VRSUM: R87. -/
  | vrsum (c : CoreId) (h : Hdr) (a : VxArgs)
  /-- VRSUMSQ: R87. -/
  | vrsumsq (c : CoreId) (h : Hdr) (a : VxArgs)
  /-- VRMAX: R87. -/
  | vrmax (c : CoreId) (h : Hdr) (a : VxArgs)
  /-- VRMAXABS: R87. -/
  | vrmaxabs (c : CoreId) (h : Hdr) (a : VxArgs)
  /-- VEXP2: R88. -/
  | vexp2 (c : CoreId) (h : Hdr) (a : VxArgs)
  /-- VEXP: R88. -/
  | vexp (c : CoreId) (h : Hdr) (a : VxArgs)
  /-- VLOG2: R88. -/
  | vlog2 (c : CoreId) (h : Hdr) (a : VxArgs)
  /-- VRCP: R88. -/
  | vrcp (c : CoreId) (h : Hdr) (a : VxArgs)
  /-- VRSQRT: R88. -/
  | vrsqrt (c : CoreId) (h : Hdr) (a : VxArgs)
  /-- VSQRT: R88. -/
  | vsqrt (c : CoreId) (h : Hdr) (a : VxArgs)
  /-- VTANH: R88. -/
  | vtanh (c : CoreId) (h : Hdr) (a : VxArgs)
  /-- VSIGMOID: R88. -/
  | vsigmoid (c : CoreId) (h : Hdr) (a : VxArgs)
  /-- CONVERT: R68 to R76, R90. -/
  | convert (c : CoreId) (h : Hdr) (a : VxArgs)
  /-- VSEED: R70, R91. -/
  | vseed (c : CoreId) (h : Hdr) (a : VxArgs)
  /-- VRMAXRD: R91. -/
  | vrmaxrd (c : CoreId) (h : Hdr) (a : VxArgs)
  /-- VRMAXRR: R91. -/
  | vrmaxrr (c : CoreId) (h : Hdr) (a : VxArgs)
  /-- VCSTAT: R91. -/
  | vcstat (c : CoreId) (h : Hdr) (a : VxArgs)
  /-- VLOAD: R92. -/
  | vload (c : CoreId) (h : Hdr) (a : VxArgs)
  /-- VSTORE: R92. -/
  | vstore (c : CoreId) (h : Hdr) (a : VxArgs)
  /-- MVCP: R158: copy lines inside the scratchpad. -/
  | mvcp (c : CoreId) (h : Hdr) (a : MvArgs)
  /-- MVCR: R158: cistern to scratchpad. -/
  | mvcr (c : CoreId) (h : Hdr) (a : MvArgs)
  /-- MVCW: R158: scratchpad to cistern. -/
  | mvcw (c : CoreId) (h : Hdr) (a : MvArgs)
  /-- MVXR: R158: another core's scratchpad to this core's. -/
  | mvxr (c : CoreId) (h : Hdr) (a : MvArgs)
  /-- MVXW: R158: this core's scratchpad to another core's. -/
  | mvxw (c : CoreId) (h : Hdr) (a : MvArgs)
  /-- MVWR: R158, R207: well to scratchpad. -/
  | mvwr (c : CoreId) (h : Hdr) (a : MvArgs)
  /-- MVWW: R158, R207: scratchpad to well. -/
  | mvww (c : CoreId) (h : Hdr) (a : MvArgs)
  /-- KICK: R161: hand a waybill to a pump. -/
  | kick (c : CoreId) (h : Hdr) (a : MvArgs)
  /-- LKSEND: R162: bind a send entry for the frame. -/
  | lksend (c : CoreId) (h : Hdr) (a : LkArgs)
  /-- LKRECV: R162: bind a receive entry for the frame. -/
  | lkrecv (c : CoreId) (h : Hdr) (a : LkArgs)
  /-- LOOP: R153. -/
  | loop (c : CoreId) (h : Hdr) (count : BitVec 16) (len : BitVec 12) (rsv : BitVec 36)
  /-- JUMP: R154. -/
  | jump (c : CoreId) (h : Hdr) (target : BitVec 12) (rsv : BitVec 52)
  /-- STOP: R154. -/
  | stop (c : CoreId) (h : Hdr)
  /-- NOTE: R154. -/
  | note (c : CoreId) (h : Hdr) (tag : BitVec 32) (rsv : BitVec 32)
  /-- TSTART: R152. -/
  | tstart (c : CoreId) (h : Hdr) (t : BitVec 4)
  /-- TSTOP: R152. -/
  | tstop (c : CoreId) (h : Hdr) (t : BitVec 4)
  /-- ARM: R151: the host writes 1 to SEQ_CTL.ARM of core `c`. -/
  | arm (c : CoreId)
  /-- DISARM: R173: the host writes 1 to SEQ_CTL.DISARM. -/
  | disarm (c : CoreId)
  /-- PROGRAM_START: R151: the site of an armed core has begun its starting frame. -/
  | programStart (c : CoreId)
  /-- MARK_GENERATE: R122, R306: the mark generator of region `r` emits its next mark; `power` is the region's measured power in W over 64 frames (R307). -/
  | markGenerate (r : Nat) (power : Nat)
  /-- MARK_MESSAGE: R271: site `i` receives the mark message of region `r`: frame count and RCNT value. -/
  | markMessage (i : Nat) (r fc t : Nat)
  /-- FRAME_MARK: R123: site `i`, at frame cycle `cyc`, presents its mark; the next frame begins with lag `lag`. `slackT` is the RCNT value at which the slack window opened (R418). -/
  | frameMark (i : Nat) (cyc : Nat) (lag : Nat) (slackT : Nat)
  /-- LATE: R127: the lag of site `i`, at frame cycle `cyc`. -/
  | late (i : Nat) (cyc : Nat) (lag : Nat)
  /-- DROOP_STRETCH: R276, R277: VLOGIC of site `i` in 2.5 mV units, and the core time lost in 1/16 cc. -/
  | droopStretch (i : Nat) (v : Nat) (loss : Nat)
  /-- FR_GO: R380: party `p` (0 PF0, r + 1 VF r) writes FR_GO. -/
  | frGo (p : Nat)
  /-- FRAME_REQUEST_CANCEL: R143, R303: the count of region `r` reaches target − 16 of slot `k`; `missing` says that a site has not acknowledged. -/
  | frameRequestCancel (r k : Nat) (missing : Bool)
  /-- FREQ: R279: the target frame of slot `k` of region `r` begins. -/
  | freq (r k : Nat)
  /-- FREQ_RAMP_UP: R279: the mark of frame target − 48. -/
  | freqRampUp (r k : Nat)
  /-- FREQ_RAMP_DOWN: R279: cycle 0 of frame target + 2. -/
  | freqRampDown (r : Nat)
  /-- FRAME_CFG: R142: the target frame of slot `k` begins. -/
  | frameCfg (r k : Nat)
  /-- SCHED_SWAP: R139: the target frame of slot `k` begins. -/
  | schedSwap (r k : Nat)
  /-- DORMANT_ENTER: R297: the target frame of slot `k` begins. -/
  | dormantEnter (r k : Nat)
  /-- DORMANT_EXIT: R299: the wake of slot `k` begins, or its target frame does. -/
  | dormantExit (r k : Nat)
  /-- WAKE_FAIL: R299: 45 µs after the wake of site `i` began. -/
  | wakeFail (i : Nat) (wellReady : Bool)
  /-- REASSIGN: R354: the change point of region `r`: the target frame of slot `k`, or the scheduled mark of an assignment from FREE. -/
  | reassign (r : Nat) (k : Option Nat)
  /-- REGION_CLEAR_DONE: R354: the clearing of every site of the region's change has ended. -/
  | regionClearDone (r : Nat)
  /-- ASSIGN_GO: R353: the host writes ASSIGN_GO. -/
  | assignGo (r : Nat)
  /-- WB_POST: R200: the host writes POST_PUMP with POST_GO. -/
  | wbPost (i pump : Nat)
  /-- WAYBILL_TAKE: R190: pump `pump` of site `i` takes its oldest waybill; `master` tells the bus mastering of the region's function on the port that a host end names (R241). -/
  | waybillTake (i pump : Nat) (master : Bool)
  /-- WAYBILL_START: R190: the pump starts the first waybill that can start. -/
  | waybillStart (i pump : Nat)
  /-- WAYBILL_COMPLETE: R191: the pump writes the completion record of transfer `num` at frame cycle `cyc`. -/
  | waybillComplete (i num cyc : Nat)
  /-- ENVELOPE_SEND: R184: endpoint `ep` sends the next envelope of outbound stream `k`, or of the response direction of inbound context `k`; `opp` counts the opportunities of its egress (R344). -/
  | envelopeSend (ep k : Nat) (resp : Bool) (opp : Nat)
  /-- OPEN_WR: R187: endpoint `ep` receives an OPEN_WR. -/
  | openWr (ep : Nat) (space : HubSpace) (e : Env)
  /-- OPEN_RD: R187: endpoint `ep` receives an OPEN_RD. -/
  | openRd (ep : Nat) (space : HubSpace) (e : Env)
  /-- DATA: R187: endpoint `ep` receives a DATA envelope (or one of a reserved KIND, R183), of the response direction when `resp`. -/
  | data (ep : Nat) (resp : Bool) (e : Env)
  /-- DONE: R187: endpoint `ep` receives a DONE. -/
  | done (ep : Nat) (e : Env)
  /-- ACK: R184: endpoint `ep` receives an ACK, of the response direction when `resp`. -/
  | ack (ep : Nat) (resp : Bool) (e : Env)
  /-- NOTICE: R185: endpoint `ep` receives a NOTICE, for the response direction when `resp`. -/
  | notice (ep : Nat) (resp : Bool) (e : Env)
  /-- ACK_TIMEOUT: R185, R446: a direction of outbound stream (or, when `resp`, inbound context) `k` has waited ACK_TIMEOUT. -/
  | ackTimeout (ep k : Nat) (resp : Bool)
  /-- OPEN_RETRY: R184: 4,096 cc after a BUSY answer. -/
  | openRetry (ep k : Nat)
  /-- CTX_IDLE: R175: no envelope for context `k` for 2^CTX_IDLE cc. -/
  | ctxIdle (ep k : Nat)
  /-- LINK_REPLAY: R179: a replay on courier port `port` of site `i`; `fails` counts the consecutive failed replays of the envelope, and `lost` holds what a failed link discards (with its direction). -/
  | linkReplay (i port fails : Nat) (lost : List (Bool × Env))
  /-- REPLAY_TIMEOUT: R179: a replay request has gone unanswered for 1,024 cc. -/
  | replayTimeout (i port : Nat) (lost : List (Bool × Env))
  /-- STREAM_RESET: R186: the host writes RESET_STREAM with GO. -/
  | streamReset (i : Nat) (k : BitVec 9)
  /-- DRAIN: R381: the host writes DRAIN. -/
  | drain (r : Nat)
  /-- DRAIN_DONE: R197: the Postmaster has compared the sums twice, 1,024 cc apart. -/
  | drainDone (r : Nat)
  /-- DRAIN_TIMEOUT: R197: DRAIN_LIMIT has passed. -/
  | drainTimeout (r : Nat)
  /-- SWAP: R381: the host writes SWAP. -/
  | swap (r : Nat)
  /-- DRAIN_ABORT: R381: the host writes ABORT. -/
  | drainAbort (r : Nat)
  /-- OPEN_GRANT: R106: the open-cycle port of core `c` at frame cycle `cyc`; the request granted has waited `wait` cc. -/
  | openGrant (c : CoreId) (cyc wait : Nat) (ups : Upsets)
  /-- SLICE_OPEN_GRANT: R113: the open-cycle port of a cistern slice. -/
  | sliceOpenGrant (i slice cyc wait : Nat) (ups : Upsets)
  /-- SCRUB_STEP: R108: a step of the core's scrubber, at `line` of `bank` unless a write-back waits. -/
  | scrubStep (c : CoreId) (cyc bank line : Nat) (ups : Upsets)
  /-- CISTERN_SCRUB: R113: a step of the cistern scrubber at a slice. -/
  | cisternScrub (i slice cyc : Nat) (ups : Upsets)
  /-- WELL_OPEN_SERVICE: R209: a well slot that starts at frame cycle `cyc` serves open traffic in channel `ch`; the request served has waited `wait` cc. -/
  | wellOpenService (i ch cyc wait : Nat) (ups : Upsets)
  /-- WELL_SCRUB: R210: a step of the well scrubber in the slot that starts at frame cycle `cyc`. -/
  | wellScrub (i cyc : Nat) (ups : Upsets)
  /-- WELL_REFRESH: R204, R206: the slot that starts at frame cycle `cyc` refreshes. -/
  | wellRefresh (i cyc : Nat)
  /-- WST_CHECK: R205: the host writes WST_CFG with CHECK and SH_PW `pw`. -/
  | wstCheck (i : Nat) (pw : BitVec 3)
  /-- LAND_CLR: R222: the host writes LAND_CLR. -/
  | landClr (i : Nat) (z : BitVec 5)
  /-- TT_BEAT_RECEIVE: R138: slot `sl` of window `w` arrives at site `i` from logical direction `d`. -/
  | ttBeatReceive (i d w sl : Nat) (b : Beat)
  /-- EFL_DATA_BLOCK: R235: port `p` of hub `h` (4: TB) receives a DATA block, with `fec` uncorrectable codewords since the last block. -/
  | eflDataBlock (h p : Nat) (hdr : BitVec 128) (ws : List FWord) (fec : Nat)
  /-- EFL_IDLE_BLOCK: R227: port `p` receives an IDLE block. -/
  | eflIdleBlock (h p : Nat) (hdr : BitVec 128) (fec : Nat)
  /-- IDENT: R232: port `p` receives its peer's IDENT; `ok` tells that its header and reserved bytes are as they must be. -/
  | ident (h p : Nat) (ok : Bool) (i : PeerIdent)
  /-- IDENT_SEND: R232: the IDENT timer of port `p` expires. -/
  | identSend (h p : Nat)
  /-- TIME: R239: port `p` receives a TIME block. -/
  | time (h p : Nat) (b : TimeBlk)
  /-- TIME_EXCHANGE: R239: the 1 ms of the exchanges of port `p` have passed. -/
  | timeExchange (h p : Nat)
  /-- REPLAY_REQ: R229: port `p` receives a REPLAY_REQ that names block `seq`. -/
  | replayReq (h p : Nat) (seq : BitVec 32)
  /-- TRAIN: R230: port `p` receives a TRAIN request. -/
  | train (h p : Nat)
  /-- RETRAIN: R230: the host writes RETRAIN of port `p`. -/
  | retrain (h p : Nat)
  /-- RETRAIN_DONE: R230: training of port `p` ends with `lanes` working lanes; the peer's ASEQ, and the measured round trip in ns. -/
  | retrainDone (h p lanes aseq rtt : Nat)
  /-- RETRAIN_TIMEOUT: R230: 50 ms have passed since training of port `p` began. -/
  | retrainTimeout (h p : Nat)
  /-- HOLD_END: R231: the hold of port `p` ends. -/
  | holdEnd (h p : Nat)
  /-- HOLD_CLR: R231: the host writes HOLD_CLR of port `p`. -/
  | holdClr (h p : Nat)
  /-- HOLD_LEVEL_RESET: R231: an hour has passed without a hold of port `p`. -/
  | holdLevelReset (h p : Nat)
  /-- FRT_CHECK: R234: the host writes FRT_CHECK of hub `h`. -/
  | frtCheck (h : Nat)
  /-- FRT_SWAP: R234: the host writes FRT_SWAP of hub `h`. -/
  | frtSwap (h : Nat)
  /-- FAB_STALL: R236: fabric VC `vc` of port `p` has made no progress for FAB_STALL. -/
  | fabStall (h p vc : Nat)
  /-- FIREWALL_REQUEST: R244: third-party die `slot` of hub `h` makes a request at address `addr`. -/
  | firewallRequest (h slot : Nat) (write : Bool) (addr : BitVec 24) (r : FwReq)
  /-- DEEP_LINK_DOWN: R242: the device behind DEEP port `h` drops its link. -/
  | deepLinkDown (h : Nat)
  /-- HEARTBEAT: R245: the Postmaster's millisecond has passed. -/
  | heartbeat
  /-- HB_LOSS: R245: TB port `b` (0 hub 0, 1 hub 15) has received no heartbeat for HB_LOSS ms. -/
  | hbLoss (b : Nat)
  /-- PAIR: R246: the host writes PAIR. -/
  | pair (ovr : Bool)
  /-- PAIR_TIMEOUT: R246: 1 s has passed since PAIR. -/
  | pairTimeout
  /-- UNPAIR: R250: the host writes UNPAIR. -/
  | unpair
  /-- REQ_DETACH: R247: the host writes REQ_DETACH. -/
  | reqDetach
  /-- DETACH_TIMEOUT: R247: 100 ms have passed since REQ_DETACH. -/
  | detachTimeout
  /-- SHRUNK: R247: the host writes SHRUNK. -/
  | shrunk
  /-- REQ_ATTACH: R247: the host writes REQ_ATTACH. -/
  | reqAttach
  /-- ATTACH: R247: the host writes ATTACH. -/
  | attach
  /-- TWIN_ABORT: R247: the host writes ABORT. -/
  | twinAbort
  /-- COLL_POST: R255: the host writes POST_GO of hub `h`. -/
  | collPost (h : Nat)
  /-- COLL_START: R255: the operation at the head of slot `g` may start. -/
  | collStart (h g : Nat)
  /-- COLL_COMMIT: R260: segment `q` is committed, after `tries` transfers of it that ended BROKEN; a fourth loses it. -/
  | collCommit (h g q tries : Nat)
  /-- COLL_TIMEOUT: R262: COLL_TIMEOUT has passed since the running operation of slot `g` started. -/
  | collTimeout (h g : Nat)
  /-- COLL_ABORT: R265: the host writes ABORT for slot `g`. -/
  | collAbort (h g : Nat)
  /-- MESH_LOCK: R274: the coupled ports of site `i` have stayed within ±25 ps for 4,096 root periods. -/
  | meshLock (i : Nat)
  /-- LOCK_LOST: R275: the coupled port in logical direction `d` has exceeded ±40 ps for 16 root periods; `phase` in ps. -/
  | lockLost (i d : Nat) (phase : Int)
  /-- REF_LOSS: R281: hub `h` loses the reference for 64 periods. -/
  | refLoss (h : Nat)
  /-- HOLDOVER_EXPIRY: R281: 1 s without the reference. -/
  | holdoverExpiry (h : Nat)
  /-- JITTER_SAMPLE: R282: a sampled deviation in 1/64 period. -/
  | jitterSample (i : Nat) (dev : Int)
  /-- DUTY_WINDOW: R282: high fraction minus 50 %, in 0.1 % units, of a root (or core) window. -/
  | dutyWindow (i : Nat) (core : Bool) (frac : Int)
  /-- JIT_CLR: R284: the host writes JIT_CLR. -/
  | jitClr (i : Nat)
  /-- HIST_CLR: R145: the host writes HIST_CLR. -/
  | histClr (i : Nat)
  /-- POWER_ON: R437, R286: the input passes 30 V and precharge completes. -/
  | powerOn
  /-- INPUT_LOW: R285: the averaged input in 25 mV units. -/
  | inputLow (v : Nat)
  /-- BROWNOUT: R285: the averaged input in 25 mV units. -/
  | brownout (v : Nat)
  /-- INPUT_HIGH: R285: the averaged input in 25 mV units. -/
  | inputHigh (v : Nat)
  /-- INPUT_OV: R285: the averaged input in 25 mV units. -/
  | inputOv (v : Nat)
  /-- DOMAIN_TIMEOUT: R289: domain `d` of unit `u` is not up within 100 µs. -/
  | domainTimeout (u : PowerUnit) (d : Nat)
  /-- OC_LOGIC: R290: the VLOGIC limit of site `i` has held for 20 µs. -/
  | ocLogic (i : Nat)
  /-- RAIL_OVERCURRENT: R290: a rail's limit has been exceeded for 20 µs. -/
  | railOvercurrent (u : PowerUnit) (d : Nat)
  /-- RAIL_SHORT: R290: a rail is short, or over its set value by 100 mV. -/
  | railShort (u : PowerUnit) (d : Nat) (ov : Bool)
  /-- VSET_UPDATE: R293, R311, R291: the currents over the last 1 µs in 0.25 A units, and the rails' samples (rail, 2.5 mV units). -/
  | vsetUpdate (i : Nat) (iLogic iArray iLink iMem : Nat) (samples : List (Nat × Nat))
  /-- MIN_CLR: R291: the host writes MIN_CLR. -/
  | minClr (i : Nat) (mask : BitVec 4)
  /-- THERMAL_LEVEL_CHANGE: R303: a condition's reading. -/
  | thermalLevelChange (c : ThermCond)
  /-- THERMAL_LEVEL_EXIT: R303: a condition's reading has stood for 1 s. -/
  | thermalLevelExit (c : ThermCond)
  /-- JUNCTION_TRIP: R304: a valid sensor of site `i` is at 115 °C or above. -/
  | junctionTrip (i : Nat)
  /-- PANEL_SHUTDOWN: R304: flow below 20 L/min or outlet above 75 °C for 1 s. -/
  | panelShutdown
  /-- TRAY_REPORT: R302: a block with command 0x40. -/
  | trayReport (inlet outlet : Int) (flow seq rsv : Nat) (pecOk : Bool)
  /-- TRAY_LOST: R302: no valid report for 500 ms. -/
  | trayLost
  /-- SMB_TAGS: R441: a block write with command 0x41. -/
  | smbTags (shelf loop rack : BitVec 32) (pecOk : Bool)
  /-- PANEL_FACTOR_UPDATE: R308, R312: the input power averaged over 1 ms in W, the input in 25 mV units, and the manifold sensors in 0.01 °C. -/
  | panelFactorUpdate (pin vin : Nat) (inlet outlet : Int)
  /-- SIDEBAND_LOSS: R321: 200 ms without sideband contact with site `i`. -/
  | sidebandLoss (i : Nat)
  /-- VOTE_FIX: R322: a copy of voted field `f` (0 ROLE, 1 region number, 2 DOM_EN, 3 FSTATE) of site `i` differs; `allDiffer` when no two agree. -/
  | voteFix (i f : Nat) (allDiffer : Bool)
  /-- PROBE_ITEM: R329: core `c` issues its next probe item; `good` when the result equals the expected value. -/
  | probeItem (c : CoreId) (good : Bool)
  /-- SHADOW_ENTER: R332: the host writes SHADOW_CTL with ENTER. -/
  | shadowEnter (i : Nat) (buddy : BitVec 8) (port : BitVec 4)
  /-- SHADOW_ABORT: R335: the host writes SHADOW_CTL with ABORT. -/
  | shadowAbort (i : Nat)
  /-- REGISTER_WRITE: R371: a host write. -/
  | registerWrite (a : HostAcc) (v : BitVec 32)
  /-- BUS_TIMEOUT: R376: an access (a write of `v`, or a read) is not answered within 50 µs. -/
  | busTimeout (a : HostAcc) (v : Option (BitVec 32))
  /-- APPLY: R373: the host writes 1 to APPLY of the page at `a`. -/
  | apply (a : HostAcc)
  /-- APPLY_DISCARD: R367: the host writes 2 to APPLY_CTL of the page at `a`. -/
  | applyDiscard (a : HostAcc)
  /-- MBX_SEL: R375: a write of MBX_SEL of the page at `a`. -/
  | mbxSel (a : HostAcc) (v : BitVec 32)
  /-- MBX_DATA3_READ: R375: a read of MBX_DATA3 of the page at `a`. -/
  | mbxData3Read (a : HostAcc)
  /-- IND_DATA: R374: an access to IND_DATA of the page at `a`: a write of `v`, or a read. -/
  | indData (a : HostAcc) (v : Option (BitVec 32))
  /-- QUEUE_ENABLE: R383: PF0 writes word 2 of queue `q` (0 to 15 event queues, 16 + n ring n) with ENABLE set. -/
  | queueEnable (q : Nat) (v : BitVec 32)
  /-- POWER_BASE: R386: the host requests step 1. -/
  | powerBase
  /-- CLOCK_ROOT: R388: the host requests step 2. -/
  | clockRoot
  /-- DISCOVER: R388: the host requests step 3. -/
  | discover
  /-- FENCE: R388: the host requests step 4. -/
  | fence
  /-- LANES: R391: the host requests step 5. -/
  | lanes
  /-- MAP: R394: the host requests step 6. -/
  | map
  /-- POWER_SITES: R289: the host requests step 7. -/
  | powerSites
  /-- CLOCK_MESH: R388: the host requests step 8. -/
  | clockMesh
  /-- MEMORY: R388: the host requests step 9. -/
  | memory
  /-- LICENCE: R397: the host requests step 10 through the HOST port of hub `via`, or the management port. -/
  | licence (via : Option (BitVec 4))
  /-- FABRIC: R388: the host requests step 11. -/
  | fabric
  /-- READY: R388: the host requests step 12. -/
  | ready
  /-- STEP_TIMEOUT: R388: the running step passes its timeout. -/
  | stepTimeout
  /-- INSTALL: R399: the host writes LIC_CTL.INSTALL; `flashOk` says whether the record write succeeds. -/
  | install (flashOk : Bool)
  /-- REMOVE: R399: the host writes LIC_CTL.REMOVE. -/
  | remove (slot : BitVec 3) (flashOk : Bool)
  /-- LICENCE_DATE_CHECK: R398: a second has passed. -/
  | licenceDateCheck
  /-- REMAP_GO: R402: the host writes GO. -/
  | remapGo (kind : BitVec 2) (site : BitVec 8)
  /-- REMAP_PROPOSED: R402: the Postmaster answers the GO. -/
  | remapProposed
  /-- COMMIT: R403: the host writes COMMIT. -/
  | commit
  /-- CANCEL: R401: the host writes CANCEL. -/
  | cancel
  /-- SET_GO: R412: the host writes SET_GO. -/
  | setGo
  /-- CAL_GO: R412: the host writes CAL_GO. -/
  | calGo
  /-- LOG_FLASH_COPY: R414: the firmware copies the next `n` records; `fail` when the flash write fails. -/
  | logFlashCopy (n : Nat) (fail : Bool)
  /-- TIMER_CLR: R421: the host writes CLR of timer `t` of core `n` of site `i`. -/
  | timerClr (i n t : Nat)
  /-- FETCH: R424: the host writes FW_CTL.FETCH. -/
  | fetch
  /-- FW_STAGE_DONE: R424: the image has been fetched, written and verified. -/
  | fwStageDone (img : FwImage) (hostErr flashErr : Bool)
  /-- ACTIVATE: R425: the host writes FW_CTL.ACTIVATE. -/
  | activate
  /-- FW_BOOT_TIMEOUT: R426: 100 ms without ALIVE. -/
  | fwBootTimeout
  /-- CONFIRM: R427: the host writes FW_CTL.CONFIRM. -/
  | confirm
  /-- REVERT: R425: the host writes FW_CTL.REVERT. -/
  | revert
  /-- FW_DISCARD: R427: the host writes FW_CTL.DISCARD. -/
  | fwDiscard
  /-- REC_WRITE: R428: the host writes REC_WRITE; `flashOk` says whether the flash write succeeds. -/
  | recWrite (flashOk : Bool)
  /-- MOD_RESET_N: R440: MOD_RESET_N returns high after 10 ms or more. -/
  | modResetN
  /-- LEAK_DET_N: R440: LEAK_DET_N has been low for 100 ms. -/
  | leakDetN
  /-- MGMT_PERST_N: R445: MGMT_PERST_N is asserted; `w` is a write in flight: its address and value. -/
  | mgmtPerstN (w : Option (BitVec 32 × BitVec 32))
  /-- LOSS_OF_BLOCK_ALIGNMENT: R230: the receiver of port `p` loses block alignment. -/
  | lossOfBlockAlignment (h p : Nat)
  /-- STRETCH_END: R276: VLOGIC of site `i` is back above V_th. -/
  | stretchEnd (i : Nat)
  /-- REFERENCE_RELOCK: R281: the reference returns to hub `h` within 1 s. -/
  | referenceRelock (h : Nat)
  /-- ROOT_FAULT: R321, R413: the Postmaster's clock root fails. -/
  | rootFault
  /-- ALWAYS_ON_STAGE_LOSS: R410, R286: the input falls below 30 V. -/
  | alwaysOnStageLoss
  /-- FW_ALIVE: R426: the firmware sets ALIVE. -/
  | fwAlive
  /-- STEP_DONE: R388: the running step ends. -/
  | stepDone (d : StepRep)
  /-- REMAP_DONE: R403: the commit ends: whether the drain finished, whether the record was written, and what LANES measured on the changed hops. -/
  | remapDone (drained flashOk : Bool) (lanes : List LanePort)
  /-- PERIOD_BOUNDARY: R343: free site `i` reaches a 4,096-cycle boundary. -/
  | periodBoundary (i : Nat)
  /-- HEARTBEAT_RECEIPT: R245: TB port `b` receives the twin's heartbeat or a message of its Postmaster. -/
  | heartbeatReceipt (b : Nat) (m : TwinMsg)
  /-- HOST_COMPLETION: R241, R242: a completion or response for context `k` of hub `h`, with the poison marks of its words, or an error. -/
  | hostCompletion (h k : Nat) (err : Bool) (data poison : Nat)
  /-- HOT_RESET: R241: HOST port `h` receives a hot reset. -/
  | hotReset (h : Nat)
  /-- SETTLING_END: R279: the oscillator of site `i` reaches the nominal frequency. -/
  | settlingEnd (i : Nat)
  deriving DecidableEq, Repr

end Sys2Proof
end

