-- ==== Sys2Proof/Decode.lean ====
section
/-! DEFINITION. The command that a word spells. No row of the command table gives bits (log entry 1), so no word spells one. -/

namespace Sys2Proof

/-- The command whose row gives `nbits` bits and whose word is `w`: none, for no row gives bits. -/
def decodeTableWord (_nbits _w : Nat) : Option Instr := none

end Sys2Proof
end

