-- ==== Sys2Proof/Config.lean ====
section
/-! DEFINITION. What an implementation fixes and the manual leaves open: free values with no body. -/

namespace Sys2Proof.Config

/-- R88: how many FP32 steps a transcendental result lies from the correctly rounded one. The step is used only
where it keeps the result inside the manual's error bound (log entry 10). The arguments are the opcode and the
FP32 code of the input: a fixed function of its input on every site (R88). -/
opaque fnStep : Nat → BitVec 32 → Int

/-- A fresh free number: `fresh n w` is the n-th value the manual leaves open, of `w` bits (log entry 5). -/
opaque fresh : Nat → (w : Nat) → BitVec w

/-- R232, R377: the serial number of the panel. -/
opaque serial : BitVec 64

/-- R395: the signature of a licence, its 160 bytes as one number, verifies under the key that it names; the manual does not
give the keys (log entry 19). -/
opaque licSig : Nat → Bool

end Sys2Proof.Config
end

