-- ==== Sys2Proof/Machine/Formats.lean ====
section
/-! DEFINITION. Number formats (R59 to R67) and rounding (R69 to R71): codes are decoded to exact values,
arithmetic is exact on those values, and each result is rounded once into its destination. -/

namespace Sys2Proof.Machine

/-- An exact finite value `z * 2^e`, or a special (R67). `neg0` keeps the sign of a zero. -/
inductive Val where
  /-- Any NaN: the panel treats all alike (R67). -/
  | nan
  /-- An infinity; the flag is its sign. -/
  | inf (neg : Bool)
  /-- A zero with its sign. -/
  | zero (neg : Bool)
  /-- A non-zero finite value `(-1)^neg * m * 2^e`. -/
  | fin (neg : Bool) (m : Nat) (e : Int)
  deriving DecidableEq, Repr

/-- Exact finite numbers `z * 2^e` used inside arithmetic. -/
structure Dy where
  z : Int
  e : Int
  deriving DecidableEq, Repr

namespace Dy

/-- The mantissa of `d` at the exponent `e ≤ d.e`. -/
def at_ (d : Dy) (e : Int) : Int := d.z * (2 ^ (d.e - e).toNat : Nat)

/-- Exact sum. -/
def add (a b : Dy) : Dy :=
  let e := min a.e b.e
  ⟨a.at_ e + b.at_ e, e⟩

/-- Exact product. -/
def mul (a b : Dy) : Dy := ⟨a.z * b.z, a.e + b.e⟩

/-- Exact comparison `a < b`. -/
def lt (a b : Dy) : Bool :=
  let e := min a.e b.e
  decide (a.at_ e < b.at_ e)

/-- Exact comparison `a ≤ b`. -/
def le (a b : Dy) : Bool := !(b.lt a)

/-- Magnitude. -/
def abs (a : Dy) : Dy := ⟨(a.z.natAbs : Int), a.e⟩

end Dy

/-- The exact number of a finite value. -/
def Val.dy : Val → Dy
  | .fin neg m e => ⟨if neg then -(m : Int) else m, e⟩
  | _ => ⟨0, 0⟩

/-- The value of an exact number; an exact zero takes the sign `negZero`. -/
def Dy.val (negZero : Bool) (d : Dy) : Val :=
  if d.z = 0 then .zero negZero else .fin (decide (d.z < 0)) d.z.natAbs d.e

/-- Sign of a value; a NaN counts as positive. -/
def Val.isNeg : Val → Bool
  | .nan => false
  | .inf n => n
  | .zero n => n
  | .fin n _ _ => n

/-- Magnitude of a value. -/
def Val.abs : Val → Val
  | .nan => .nan
  | .inf _ => .inf false
  | .zero _ => .zero false
  | .fin _ m e => .fin false m e

/-- Negation of a value (a NaN stays NaN). -/
def Val.neg : Val → Val
  | .nan => .nan
  | .inf n => .inf (!n)
  | .zero n => .zero (!n)
  | .fin n m e => .fin (!n) m e

/-- A finite value: zero or non-zero finite. -/
def Val.isFinite : Val → Bool
  | .zero _ => true
  | .fin _ _ _ => true
  | _ => false

/-- The floating formats of R66. -/
inductive Fp where
  | fp32 | fp16 | bf16 | e4m3 | e5m2
  deriving DecidableEq, Repr

namespace Fp

/-- Exponent field width. -/
def ebits : Fp → Nat
  | fp32 => 8 | fp16 => 5 | bf16 => 8 | e4m3 => 4 | e5m2 => 5

/-- Fraction field width. -/
def fbits : Fp → Nat
  | fp32 => 23 | fp16 => 10 | bf16 => 7 | e4m3 => 3 | e5m2 => 2

/-- Exponent bias. -/
def bias : Fp → Nat
  | fp32 => 127 | fp16 => 15 | bf16 => 127 | e4m3 => 7 | e5m2 => 15

/-- Bytes of an element (R59). -/
def bytes : Fp → Nat
  | fp32 => 4 | fp16 => 2 | bf16 => 2 | e4m3 => 1 | e5m2 => 1

/-- Canonical NaN (R66). -/
def nan : Fp → Nat
  | fp32 => 0x7FC00000 | fp16 => 0x7E00 | bf16 => 0x7FC0 | e4m3 => 0x7F | e5m2 => 0x7E

/-- Largest finite code of positive sign (R66). -/
def maxFin : Fp → Nat
  | fp32 => 0x7F7FFFFF | fp16 => 0x7BFF | bf16 => 0x7F7F | e4m3 => 0x7E | e5m2 => 0x7B

/-- Whether the format has infinities: every format but E4M3 (R66). -/
def hasInf : Fp → Bool
  | e4m3 => false
  | _ => true

/-- The sign bit's weight. -/
def signBit (f : Fp) : Nat := 2 ^ (f.ebits + f.fbits)

/-- Code of +∞ in a format that has one (R66). -/
def infCode (f : Fp) : Nat := (2 ^ f.ebits - 1) * 2 ^ f.fbits

/-- The exponent of the smallest subnormal step. -/
def qmin (f : Fp) : Int := 1 - (f.bias : Int) - f.fbits

/-- R67: decoding of a floating code. -/
def decode (f : Fp) (code : Nat) : Val :=
  let s := decide (code / f.signBit % 2 = 1)
  let ex := code / 2 ^ f.fbits % 2 ^ f.ebits
  let m := code % 2 ^ f.fbits
  if f = e4m3 then
    if ex = 15 ∧ m = 7 then .nan
    else if ex = 0 then (if m = 0 then .zero s else .fin s m f.qmin)
    else .fin s (8 + m) (f.qmin + ex - 1)
  else if ex = 2 ^ f.ebits - 1 then
    (if m = 0 then .inf s else .nan)
  else if ex = 0 then (if m = 0 then .zero s else .fin s m f.qmin)
  else .fin s (2 ^ f.fbits + m) (f.qmin + ex - 1)

/-- A code with a sign applied. -/
def withSign (f : Fp) (neg : Bool) (mag : Nat) : Nat := if neg then f.signBit + mag else mag

end Fp

/-- The rounding of a conversion: nearest-even, or stochastic with the 16-bit number U (R69, R70). -/
inductive Rnd where
  | nearest
  | stochastic (u : Nat)
  deriving DecidableEq, Repr

/-- R69, R70: the magnitude `m * 2^e` in whole steps of `2^q`, rounded once. -/
def roundMag (r : Rnd) (m : Nat) (e q : Int) : Nat :=
  if q ≤ e then m * 2 ^ (e - q).toNat
  else
    let d := (q - e).toNat
    let base := m / 2 ^ d
    let rem := m % 2 ^ d
    match r with
    | .nearest =>
      if 2 * rem < 2 ^ d then base
      else if 2 ^ d < 2 * rem then base + 1
      else if base % 2 = 0 then base else base + 1
    | .stochastic u =>
      let f := rem * 65536 / 2 ^ d
      if 65536 ≤ f + u then base + 1 else base

/-- Outcome of rounding a magnitude into a floating format, before the overflow rule. -/
structure Rounded where
  /-- Code of the magnitude, taken with unbounded exponent range (R69). -/
  code : Nat
  /-- The rounded magnitude exceeds the largest finite magnitude (R71). -/
  ovf : Bool
  deriving DecidableEq, Repr

/-- R68, R69: the magnitude `m * 2^e` rounded once into format `f`. -/
def roundFp (f : Fp) (r : Rnd) (m : Nat) (e : Int) : Rounded :=
  if m = 0 then ⟨0, false⟩
  else
    let k : Int := (Nat.log2 m : Int) + e
    let q : Int := max (k - f.fbits) f.qmin
    let c := roundMag r m e q
    let code := (q - f.qmin).toNat * 2 ^ f.fbits + c
    ⟨code, decide (f.maxFin < code)⟩

/-- Result of an IEEE-style operation: its code, and whether finite inputs overflowed (R39, R86). -/
structure FpRes where
  code : Nat
  ovf : Bool := false
  invalid : Bool := false
  deriving DecidableEq, Repr

/-- R39, R86: rounding of an exact value into `f`, to nearest even, overflow to ±∞. -/
def encodeNear (f : Fp) : Val → FpRes
  | .nan => { code := f.nan }
  | .inf n => { code := f.withSign n f.infCode }
  | .zero n => { code := f.withSign n 0 }
  | .fin n m e =>
    let r := roundFp f .nearest m e
    if r.ovf then { code := f.withSign n f.infCode, ovf := true }
    else { code := f.withSign n r.code }

/-- Exact sum of two values, with the special cases of R40 and R86. The second component marks ∞ − ∞. -/
def Val.add (a b : Val) : Val × Bool :=
  match a, b with
  | .nan, _ => (.nan, false)
  | _, .nan => (.nan, false)
  | .inf x, .inf y => if x = y then (.inf x, false) else (.nan, true)
  | .inf x, _ => (.inf x, false)
  | _, .inf y => (.inf y, false)
  | .zero x, .zero y => (.zero (x && y), false)
  | .zero _, v => (v, false)
  | v, .zero _ => (v, false)
  | v, w => ((v.dy.add w.dy).val false, false)

/-- Exact product of two values; the second component marks 0 × ∞. -/
def Val.mul (a b : Val) : Val × Bool :=
  match a, b with
  | .nan, _ => (.nan, false)
  | _, .nan => (.nan, false)
  | .inf _, .zero _ => (.nan, true)
  | .zero _, .inf _ => (.nan, true)
  | .inf x, w => (.inf (x != w.isNeg), false)
  | v, .inf y => (.inf (v.isNeg != y), false)
  | .zero x, w => (.zero (x != w.isNeg), false)
  | v, .zero y => (.zero (v.isNeg != y), false)
  | .fin x m e, .fin y n f => (.fin (x != y) (m * n) (e + f), false)

/-- R86: `a < b` on non-NaN values, with −0 below +0. -/
def Val.lt (a b : Val) : Bool :=
  match a, b with
  | .nan, _ => false
  | _, .nan => false
  | .inf true, .inf true => false
  | .inf true, _ => true
  | _, .inf true => false
  | .inf false, _ => false
  | _, .inf false => true
  | .zero x, .zero y => x && !y
  | v, w => v.dy.lt w.dy

/-- R86: maximum of two values; NaN if either is NaN; max(+0, −0) is +0. -/
def Val.max (a b : Val) : Val :=
  if a = .nan ∨ b = .nan then .nan else if a.lt b then b else a

/-- R86: minimum of two values; NaN if either is NaN; min(+0, −0) is −0. -/
def Val.min (a b : Val) : Val :=
  if a = .nan ∨ b = .nan then .nan else if b.lt a then b else a

/-- R63: the E8 exponent of a byte other than 0x80. -/
def e8 (b : Nat) : Int := sgn 8 b

/-- Block-scaled formats (R64). -/
inductive Bs where
  | bs8 | bs16 | bs24
  deriving DecidableEq, Repr

namespace Bs

/-- Piece bytes of an element. -/
def pieces : Bs → Nat
  | bs8 => 1 | bs16 => 2 | bs24 => 3

/-- Largest mantissa (R64). -/
def hi : Bs → Nat
  | bs8 => 127 | bs16 => 32767 | bs24 => 8388607

/-- Magnitude of the smallest mantissa (R64). -/
def lo : Bs → Nat
  | bs8 => 127 | bs16 => 32512 | bs24 => 8323072

/-- R73: the shift of the first guess. -/
def shift : Bs → Nat
  | bs8 => 6 | bs16 => 14 | bs24 => 22

/-- R64: piece bytes of a mantissa, from the top piece down. -/
def split (f : Bs) (z : Int) : List Nat :=
  match f with
  | bs8 => [unsgn 8 z]
  | bs16 => [unsgn 8 (z / 256), unsgn 8 z]
  | bs24 => [unsgn 8 (z / 65536), unsgn 8 (z / 256), unsgn 8 z]

/-- R64: the mantissa of piece bytes; `none` is the NaN marker. -/
def join : List Nat → Option Int
  | top :: rest =>
    if top = 0x80 then none
    else some (rest.foldl (fun (acc : Int) (b : Nat) => acc * 256 + b) (sgn 8 top))
  | [] => some 0

/-- The NaN marker's pieces. -/
def nanPieces (f : Bs) : List Nat := 0x80 :: List.replicate (f.pieces - 1) 0

end Bs

/-- Formats that CONVERT accepts (R59): codes 0 to 7. -/
inductive Fmt where
  | fp (f : Fp)
  | bs (f : Bs)
  deriving DecidableEq, Repr

/-- R59: the format of a code 0x0 to 0x7. -/
def Fmt.ofCode : Nat → Option Fmt
  | 0 => some (.fp .fp32)
  | 1 => some (.fp .fp16)
  | 2 => some (.fp .bf16)
  | 3 => some (.fp .e4m3)
  | 4 => some (.fp .e5m2)
  | 5 => some (.bs .bs8)
  | 6 => some (.bs .bs16)
  | 7 => some (.bs .bs24)
  | _ => none

/-- R70: one advance of the generator. -/
def lfsrStep (s : Nat) : Nat :=
  if s % 2 = 1 then (s / 2) ^^^ 0x80200003 else s / 2

/-- R70: `n` advances of the generator. -/
def lfsr : Nat → Nat → Nat
  | 0, s => s
  | n + 1, s => lfsr n (lfsrStep s)

/-- R73: the exponent of an automatic block; `r` is the largest counted magnitude. -/
def chooseExp (f : Bs) (stoch : Bool) (r : Val) : Int :=
  match r with
  | .fin _ m e =>
    let k : Int := (Nat.log2 m : Int) + e
    let e0 := k - f.shift
    let rd : Dy := ⟨m, e⟩
    let up := if stoch then Dy.lt ⟨f.lo, e0⟩ rd else Dy.le ⟨2 * f.lo + 1, e0 - 1⟩ rd
    let e1 := if up then e0 + 1 else e0
    max (-127) (min 127 e1)
  | .inf _ => 127
  | _ => 0

/-- R71, R75: an element converted into a floating format. `sat` and `nanOvf` mark a counted overflow. -/
structure ConvRes where
  pieces : List Nat
  ovf : Bool := false
  deriving DecidableEq, Repr

/-- R71, R75: one element into a floating destination; the code stands in `pieces` as one number. -/
def convFp (f : Fp) (r : Rnd) (nanOnOvf : Bool) (v : Val) : ConvRes :=
  let lim (n : Bool) : ConvRes :=
    if nanOnOvf then ⟨[f.nan], true⟩ else ⟨[f.withSign n f.maxFin], true⟩
  match v with
  | .nan => { pieces := [f.nan] }
  | .inf n => if f.hasInf then { pieces := [f.withSign n f.infCode] } else lim n
  | .zero n => { pieces := [f.withSign n 0] }
  | .fin n m e =>
    let x := roundFp f r m e
    if x.ovf then lim n else { pieces := [f.withSign n x.code] }

/-- R71, R72, R75: one element into a block-scaled destination of block exponent `eb`. -/
def convBs (f : Bs) (r : Rnd) (nanOnOvf : Bool) (eb : Int) (v : Val) : ConvRes :=
  let lim (n : Bool) : ConvRes :=
    if nanOnOvf then ⟨f.nanPieces, true⟩
    else ⟨f.split (if n then -(f.lo : Int) else f.hi), true⟩
  match v with
  | .nan => { pieces := f.nanPieces }
  | .inf n => lim n
  | .zero _ => { pieces := f.split 0 }
  | .fin n m e =>
    let c := roundMag r m e eb
    if (if n then f.lo else f.hi) < c then lim n
    else { pieces := f.split (if n then -(c : Int) else c) }

/-- R77: the FP32 code recorded for a magnitude: exact up to the largest finite value, else +∞. -/
def rmaxCode (v : Val) : Nat :=
  match v.abs with
  | .fin _ m e =>
    let r := roundFp .fp32 .nearest m e
    if r.ovf then Fp.infCode .fp32 else r.code
  | .inf _ => Fp.infCode .fp32
  | _ => 0

end Sys2Proof.Machine
end

