-- ==== Sys2Proof/Machine/Table.lean ====
section
/-! DEFINITION. Sparse tables as plain data: lists of (key, value) pairs in one canonical form (keys strictly
rising, no entry equal to the default of its key), with a total read and a write that keeps the form. -/

namespace Sys2Proof.Machine

/-- A sparse table. -/
abbrev Tab (α : Type) := List (Nat × α)

/-- The entry listed at `k`, if any. -/
def tabFind {α : Type} : Tab α → Nat → Option α
  | [], _ => none
  | (k', v) :: t, k => if k' = k then some v else tabFind t k

/-- Reads `k`; an unlisted key reads as its default. -/
def tabGet {α : Type} (d : Nat → α) (t : Tab α) (k : Nat) : α := (tabFind t k).getD (d k)

/-- Drops the entry at `k`. -/
def tabErase {α : Type} (t : Tab α) (k : Nat) : Tab α := t.filter (fun p => p.1 != k)

/-- Lists `v` at `k`, before the first larger key. -/
def tabInsert {α : Type} : Tab α → Nat → α → Tab α
  | [], k, v => [(k, v)]
  | (k', v') :: t, k, v => if k < k' then (k, v) :: (k', v') :: t else (k', v') :: tabInsert t k v

/-- Writes `v` at `k`: writing the default removes the entry. -/
def tabSet {α : Type} [DecidableEq α] (d : Nat → α) (t : Tab α) (k : Nat) (v : α) : Tab α :=
  if v = d k then tabErase t k else tabInsert (tabErase t k) k v

/-- Canonical form: keys strictly rising, no default listed. -/
def tabWf {α : Type} [DecidableEq α] (d : Nat → α) (t : Tab α) : Bool :=
  decide (t.Pairwise (fun a b => a.1 < b.1)) && t.all (fun p => decide (p.2 ≠ d p.1))

/-- A set of keys: rising, no repeats. -/
abbrev KeySet := List Nat

/-- Membership. -/
def keyHas (t : KeySet) (k : Nat) : Bool := t.contains k

/-- Adds a key before the first larger one. -/
def keyInsert : KeySet → Nat → KeySet
  | [], k => [k]
  | a :: t, k => if k < a then k :: a :: t else a :: keyInsert t k

/-- Adds a key. -/
def keyAdd (t : KeySet) (k : Nat) : KeySet := keyInsert (t.filter (fun a => a != k)) k

/-- Drops a key. -/
def keyDel (t : KeySet) (k : Nat) : KeySet := t.filter (fun a => a != k)

/-- Sets or clears a key. -/
def keyPut (t : KeySet) (k : Nat) (on : Bool) : KeySet := if on then keyAdd t k else keyDel t k

/-- Canonical form of a set. -/
def keyWf (t : KeySet) : Bool := decide (t.Pairwise (· < ·))

end Sys2Proof.Machine
end

