-- ==== Sys2Proof/Machine/Mem.lean ====
section
/-! DEFINITION. The panel's memories as one sparse byte memory with marks on 64-bit words: poison (R101, R315),
a latent correctable error, and a latent uncorrectable error.
Keys are `site * 2^40 + offset`, with the offsets of R25. The memories that have no data address (R25: accumulator
store, program buffer; R80: vector file; R28: weight buffers and exponent registers) stand at offsets that R25 leaves
reserved (log entry 6). -/

namespace Sys2Proof.Machine

/-- Bytes and word marks of every memory of the panel. -/
structure Mem where
  /-- Bytes that are not zero, addresses strictly rising. -/
  cells : List Host.Cell := []
  /-- 64-bit words stored with poison (R101). -/
  poison : KeySet := []
  /-- Words with a latent correctable error. -/
  ce : KeySet := []
  /-- Words with a latent uncorrectable error. -/
  ue : KeySet := []
  deriving DecidableEq, Repr

/-- What a byte that nothing has written reads as: zero (log entry 3). -/
def memUnset : Byte := 0

/-- Reads one byte of a cell list. -/
def cellGet : List Host.Cell → Nat → Byte
  | [], _ => memUnset
  | (k, v) :: t, a => if k = a then v else cellGet t a

/-- Reads one byte. -/
def memByte (m : Mem) (a : Nat) : Byte := cellGet m.cells a

/-- Reads `n` bytes at `a`, little-endian (R4). -/
def memRead (m : Mem) (a n : Nat) : Nat :=
  m.cells.foldl (fun acc c => if a ≤ c.1 ∧ c.1 < a + n then acc + c.2.toNat * 256 ^ (c.1 - a) else acc) 0

/-- The listed cells of `n` bytes of the number `v` at `a`. -/
def cellsOf : Nat → Nat → Nat → List Host.Cell
  | 0, _, _ => []
  | n + 1, a, v =>
    if v % 256 = 0 then cellsOf n (a + 1) (v / 256)
    else (a, BitVec.ofNat 8 v) :: cellsOf n (a + 1) (v / 256)

/-- Replaces the bytes `a` to `a + n - 1` by those of `v`. -/
def cellsPut (c : List Host.Cell) (a n v : Nat) : List Host.Cell :=
  c.filter (fun p => decide (p.1 < a)) ++ cellsOf n a v ++ c.filter (fun p => decide (a + n ≤ p.1))

/-- The words `w` to `w + n - 1` selected by the bits of `mask`. -/
def wordsOf : Nat → Nat → Nat → KeySet
  | 0, _, _ => []
  | n + 1, w, mask => if mask % 2 = 1 then w :: wordsOf n (w + 1) (mask / 2) else wordsOf n (w + 1) (mask / 2)

/-- Replaces the marks of the words `w` to `w + n - 1` by `mask`. -/
def marksPut (t : KeySet) (w n mask : Nat) : KeySet :=
  t.filter (fun k => decide (k < w)) ++ wordsOf n w mask ++ t.filter (fun k => decide (w + n ≤ k))

/-- The marks of the words `w` to `w + n - 1`, bit i for word w + i. -/
def marksGet (t : KeySet) (w n : Nat) : Nat :=
  t.foldl (fun acc k => if w ≤ k ∧ k < w + n then acc + 2 ^ (k - w) else acc) 0

/-- The poison a reader of the words at byte address `a` sees: stored poison or an uncorrectable word (R101). -/
def memPoison (m : Mem) (a words : Nat) : Nat :=
  marksGet m.poison (a / 8) words ||| marksGet m.ue (a / 8) words

/-- Writes `words` whole 64-bit words at byte address `a`, with poison marks `pm` (R101): latent errors end. -/
def memWrite (m : Mem) (a words v pm : Nat) : Mem :=
  { cells := cellsPut m.cells a (8 * words) v
    poison := marksPut m.poison (a / 8) words pm
    ce := marksPut m.ce (a / 8) words 0
    ue := marksPut m.ue (a / 8) words 0 }

/-- Writes `n` bytes inside words and leaves every mark (R84, R98: a tail write keeps the word's poison). -/
def memTail (m : Mem) (a n v : Nat) : Mem := { m with cells := cellsPut m.cells a n v }

/-- Adds poison to the words selected by `mask`. -/
def memMark (m : Mem) (a words mask : Nat) : Mem :=
  { m with poison := marksPut m.poison (a / 8) words (marksGet m.poison (a / 8) words ||| mask) }

/-- Zeroes the bytes `a` to `a + n - 1` and every mark of their words (R116). -/
def memClear (m : Mem) (a n : Nat) : Mem :=
  { cells := m.cells.filter (fun p => decide (p.1 < a) || decide (a + n ≤ p.1))
    poison := m.poison.filter (fun k => decide (k < a / 8) || decide ((a + n) / 8 ≤ k))
    ce := m.ce.filter (fun k => decide (k < a / 8) || decide ((a + n) / 8 ≤ k))
    ue := m.ue.filter (fun k => decide (k < a / 8) || decide ((a + n) / 8 ≤ k)) }

/-- Cells in canonical form: addresses strictly rising, no entry equal to what an unlisted address reads as. -/
def cellsWf (c : List Host.Cell) : Bool :=
  decide (c.Pairwise (fun a b => a.1 < b.1)) && c.all (fun p => decide (p.2 ≠ memUnset))

/-- Canonical form of the whole memory. -/
def Memory.wf (m : Mem) : Bool := cellsWf m.cells && keyWf m.poison && keyWf m.ce && keyWf m.ue

/-! ### Where each memory lies -/

/-- Base of physical site `i`. -/
def siteBase (i : Nat) : Nat := i * 2 ^ 40

/-- R25: the cistern of a site. -/
def cisBase (i : Nat) : Nat := siteBase i + 0x8000000000

/-- R25: the window of core `n`. -/
def coreBase (i n : Nat) : Nat := siteBase i + 0x8100000000 + n * 0x100000

/-- R30: line `l` of scratchpad bank `b` (banks 20 to 23 lie where R25 leaves the window reserved). -/
def spAddr (i n b l : Nat) : Nat := coreBase i n + b * 0x4000 + l * 0x80

/-- R80: the vector file, 64 KiB (model window). -/
def vfBase (i n : Nat) : Nat := coreBase i n + 0x80000

/-- R147: the program buffer, 128 KiB (model window). -/
def pbBase (i n : Nat) : Nat := coreBase i n + 0xA0000

/-- R28: the accumulator store, 256 KiB: slot m, column c at 2048 m + 4 c (model window). -/
def accBase (i n : Nat) : Nat := coreBase i n + 0xC0000

/-- R28: weight buffer `x`: data line k at 128 k, side line k at 0x4000 + 128 k (model window). -/
def wbufBase (i n x : Nat) : Nat := siteBase i + 0x8200000000 + n * 0x100000 + x * 0x8000

/-- R28: exponent register `x`, 128 bytes (model window). -/
def xregBase (i n x : Nat) : Nat := siteBase i + 0x8200000000 + n * 0x100000 + 0x10000 + x * 0x80

/-- R109: line `l` of cistern slice `s`. -/
def cisAddr (i s l : Nat) : Nat := cisBase i + l * 2048 + s * 128

/-- R201: well line `w`. -/
def wellAddr (i w : Nat) : Nat := siteBase i + w * 128

/-- R134: entry `e` of hop table `t` of a site (model window). -/
def hopAddr (i t e : Nat) : Nat := siteBase i + 0x8300000000 + t * 0x10000 + e * 16

end Sys2Proof.Machine
end

