-- ==== Sys2Proof/Machine/Regs.lean ====
section
/-! DEFINITION. The registers of the control space, one descriptor per field, from the register tables of the
manual: offset in its page, lowest bit, width, reset value, type and flags (R370). -/

namespace Sys2Proof.Machine

/-- R370: what a write does to a field. -/
inductive FTy where
  /-- Reads and writes. -/
  | rw
  /-- Written by the panel alone. -/
  | ro
  /-- A 1 clears the bit. -/
  | w1c
  /-- Write with mask (R372). -/
  | wm
  deriving DecidableEq, Repr

/-- A field of a register, or of an IX entry when `ix` holds (R374). -/
structure Fld where
  off : Nat
  lsb : Nat
  w : Nat
  rst : Nat
  ty : FTy
  /-- R373: boundary-applied. -/
  ba : Bool := false
  /-- R322: kept in three voted copies. -/
  tv : Bool := false
  /-- R20: value with complement. -/
  cp : Bool := false
  ix : Bool := false
  /-- An error bit or an event counter, part of an event record's snapshot (R415). -/
  ev : Bool := false
  deriving DecidableEq, Repr

/-- A field, or an array of `cnt` of them `stride` apart. -/
structure RegDef where
  fld : Fld
  cnt : Nat
  stride : Nat
  deriving DecidableEq, Repr

/-- The array member that lies at offset `o`, if one does. -/
def RegDef.find (d : RegDef) (o : Nat) : Option Fld :=
  if d.fld.off ≤ o ∧ (o - d.fld.off) % d.stride = 0 ∧ (o - d.fld.off) / d.stride < d.cnt then
    some { d.fld with off := o }
  else none

/-- The fields at offset `o` of a table. -/
def fieldsAt (t : List RegDef) (o : Nat) : List Fld := t.filterMap (fun d => d.find o)

namespace Reg

/-! ### site common (R20) -/
/-- R20: ROLE. -/
def Sc.ROLE : Fld := { off := 0x40, lsb := 0, w := 2, rst := 1, ty := .rw, tv := true }
/-- R20: LOG_INDEX. -/
def Sc.LOG_INDEX : Fld := { off := 0x44, lsb := 0, w := 8, rst := 0xFF, ty := .rw, cp := true }
/-- R20: LOG_U. -/
def Sc.LOG_U : Fld := { off := 0x44, lsb := 8, w := 4, rst := 0xF, ty := .rw, cp := true }
/-- R20: LOG_COMPL. -/
def Sc.LOG_COMPL : Fld := { off := 0x44, lsb := 16, w := 16, rst := 0xF000, ty := .rw }
/-- R20: PORT_N. -/
def Sc.PORT_N : Fld := { off := 0x48, lsb := 0, w := 4, rst := 0, ty := .rw, cp := true }
/-- R20: PORT_E. -/
def Sc.PORT_E : Fld := { off := 0x4C, lsb := 0, w := 4, rst := 2, ty := .rw, cp := true }
/-- R20: PORT_S. -/
def Sc.PORT_S : Fld := { off := 0x50, lsb := 0, w := 4, rst := 4, ty := .rw, cp := true }
/-- R20: PORT_W. -/
def Sc.PORT_W : Fld := { off := 0x54, lsb := 0, w := 4, rst := 6, ty := .rw, cp := true }
/-- R20: KIND_N. -/
def Sc.KIND_N : Fld := { off := 0x48, lsb := 4, w := 2, rst := 0, ty := .rw, cp := true }
/-- R20: KIND_E. -/
def Sc.KIND_E : Fld := { off := 0x4C, lsb := 4, w := 2, rst := 0, ty := .rw, cp := true }
/-- R20: KIND_S. -/
def Sc.KIND_S : Fld := { off := 0x50, lsb := 4, w := 2, rst := 0, ty := .rw, cp := true }
/-- R20: KIND_W. -/
def Sc.KIND_W : Fld := { off := 0x54, lsb := 4, w := 2, rst := 0, ty := .rw, cp := true }
/-- R20: EDGE_N. -/
def Sc.EDGE_N : Fld := { off := 0x48, lsb := 6, w := 1, rst := 0, ty := .rw, cp := true }
/-- R20: EDGE_E. -/
def Sc.EDGE_E : Fld := { off := 0x4C, lsb := 6, w := 1, rst := 0, ty := .rw, cp := true }
/-- R20: EDGE_S. -/
def Sc.EDGE_S : Fld := { off := 0x50, lsb := 6, w := 1, rst := 0, ty := .rw, cp := true }
/-- R20: EDGE_W. -/
def Sc.EDGE_W : Fld := { off := 0x54, lsb := 6, w := 1, rst := 0, ty := .rw, cp := true }
/-- R20: HOP_LAT_N. -/
def Sc.HOP_LAT_N : Fld := { off := 0x48, lsb := 8, w := 8, rst := 0, ty := .rw, cp := true }
/-- R20: HOP_LAT_E. -/
def Sc.HOP_LAT_E : Fld := { off := 0x4C, lsb := 8, w := 8, rst := 0, ty := .rw, cp := true }
/-- R20: HOP_LAT_S. -/
def Sc.HOP_LAT_S : Fld := { off := 0x50, lsb := 8, w := 8, rst := 0, ty := .rw, cp := true }
/-- R20: HOP_LAT_W. -/
def Sc.HOP_LAT_W : Fld := { off := 0x54, lsb := 8, w := 8, rst := 0, ty := .rw, cp := true }
/-- R20: DIR_COMPL_N. -/
def Sc.DIR_COMPL_N : Fld := { off := 0x48, lsb := 16, w := 16, rst := 0xFFFF, ty := .rw }
/-- R20: DIR_COMPL_E. -/
def Sc.DIR_COMPL_E : Fld := { off := 0x4C, lsb := 16, w := 16, rst := 0xFFFD, ty := .rw }
/-- R20: DIR_COMPL_S. -/
def Sc.DIR_COMPL_S : Fld := { off := 0x50, lsb := 16, w := 16, rst := 0xFFFB, ty := .rw }
/-- R20: DIR_COMPL_W. -/
def Sc.DIR_COMPL_W : Fld := { off := 0x54, lsb := 16, w := 16, rst := 0xFFF9, ty := .rw }
/-- R20: SPARE_X. -/
def Sc.SPARE_X : Fld := { off := 0x58, lsb := 0, w := 4, rst := 0xF, ty := .rw, cp := true }
/-- R20: SPARE2_X. -/
def Sc.SPARE2_X : Fld := { off := 0x58, lsb := 4, w := 4, rst := 0, ty := .rw, cp := true }
/-- R20: SPARE2_VALID. -/
def Sc.SPARE2_VALID : Fld := { off := 0x58, lsb := 8, w := 1, rst := 0, ty := .rw, cp := true }
/-- R20: ROW_COMPL. -/
def Sc.ROW_COMPL : Fld := { off := 0x58, lsb := 16, w := 16, rst := 0xFFF0, ty := .rw }
/-- R20: MAP_SEQ. -/
def Sc.MAP_SEQ : Fld := { off := 0x5C, lsb := 0, w := 32, rst := 0, ty := .ro }
/-- R20: MAP_WR_REJECT. -/
def Sc.MAP_WR_REJECT : Fld := { off := 0x60, lsb := 0, w := 16, rst := 0, ty := .ro }
/-- R20: NI_STATE. -/
def Sc.NI_STATE : Fld := { off := 0x64, lsb := 0, w := 2, rst := 0, ty := .ro }
/-- Registers of the site common (R20) page. -/
def Sc.regs : List RegDef :=
  [⟨Sc.ROLE, 1, 4⟩, ⟨Sc.LOG_INDEX, 1, 4⟩, ⟨Sc.LOG_U, 1, 4⟩, ⟨Sc.LOG_COMPL, 1, 4⟩, ⟨Sc.PORT_N, 1, 4⟩, ⟨Sc.PORT_E, 1, 4⟩] ++
  [⟨Sc.PORT_S, 1, 4⟩, ⟨Sc.PORT_W, 1, 4⟩, ⟨Sc.KIND_N, 1, 4⟩, ⟨Sc.KIND_E, 1, 4⟩, ⟨Sc.KIND_S, 1, 4⟩, ⟨Sc.KIND_W, 1, 4⟩] ++
  [⟨Sc.EDGE_N, 1, 4⟩, ⟨Sc.EDGE_E, 1, 4⟩, ⟨Sc.EDGE_S, 1, 4⟩, ⟨Sc.EDGE_W, 1, 4⟩, ⟨Sc.HOP_LAT_N, 1, 4⟩, ⟨Sc.HOP_LAT_E, 1, 4⟩] ++
  [⟨Sc.HOP_LAT_S, 1, 4⟩, ⟨Sc.HOP_LAT_W, 1, 4⟩, ⟨Sc.DIR_COMPL_N, 1, 4⟩, ⟨Sc.DIR_COMPL_E, 1, 4⟩, ⟨Sc.DIR_COMPL_S, 1, 4⟩, ⟨Sc.DIR_COMPL_W, 1, 4⟩] ++
  [⟨Sc.SPARE_X, 1, 4⟩, ⟨Sc.SPARE2_X, 1, 4⟩, ⟨Sc.SPARE2_VALID, 1, 4⟩, ⟨Sc.ROW_COMPL, 1, 4⟩, ⟨Sc.MAP_SEQ, 1, 4⟩, ⟨Sc.MAP_WR_REJECT, 1, 4⟩] ++
  [⟨Sc.NI_STATE, 1, 4⟩]

/-! ### core (R58, R79, R100, R118, R173) -/
/-- R58: LOAD_BUSY. -/
def Co.LOAD_BUSY : Fld := { off := 0x200, lsb := 0, w := 1, rst := 0, ty := .ro }
/-- R58: STREAM_BUSY. -/
def Co.STREAM_BUSY : Fld := { off := 0x200, lsb := 1, w := 1, rst := 0, ty := .ro }
/-- R58: DRAIN_BUSY. -/
def Co.DRAIN_BUSY : Fld := { off := 0x200, lsb := 2, w := 1, rst := 0, ty := .ro }
/-- R58: BUF_A_VALID. -/
def Co.BUF_A_VALID : Fld := { off := 0x200, lsb := 3, w := 1, rst := 0, ty := .ro }
/-- R58: BUF_B_VALID. -/
def Co.BUF_B_VALID : Fld := { off := 0x200, lsb := 4, w := 1, rst := 0, ty := .ro }
/-- R58: BUF_A_MODE. -/
def Co.BUF_A_MODE : Fld := { off := 0x200, lsb := 5, w := 3, rst := 1, ty := .ro }
/-- R58: BUF_B_MODE. -/
def Co.BUF_B_MODE : Fld := { off := 0x200, lsb := 8, w := 3, rst := 1, ty := .ro }
/-- R58: CHECK. -/
def Co.CHECK : Fld := { off := 0x204, lsb := 0, w := 1, rst := 0, ty := .w1c, ev := true }
/-- R58: ACT_PARITY. -/
def Co.ACT_PARITY : Fld := { off := 0x204, lsb := 1, w := 1, rst := 0, ty := .w1c, ev := true }
/-- R58: XREG_PARITY. -/
def Co.XREG_PARITY : Fld := { off := 0x204, lsb := 2, w := 1, rst := 0, ty := .w1c, ev := true }
/-- R58: SCALE_PARITY. -/
def Co.SCALE_PARITY : Fld := { off := 0x204, lsb := 3, w := 1, rst := 0, ty := .w1c, ev := true }
/-- R58: W2T_CODE. -/
def Co.W2T_CODE : Fld := { off := 0x204, lsb := 4, w := 1, rst := 0, ty := .w1c, ev := true }
/-- R58: SCALE_POISON. -/
def Co.SCALE_POISON : Fld := { off := 0x204, lsb := 5, w := 1, rst := 0, ty := .w1c, ev := true }
/-- R58: ACC_CE. -/
def Co.ACC_CE : Fld := { off := 0x204, lsb := 6, w := 1, rst := 0, ty := .w1c, ev := true }
/-- R58: ACC_UE. -/
def Co.ACC_UE : Fld := { off := 0x204, lsb := 7, w := 1, rst := 0, ty := .w1c, ev := true }
/-- R58: ACC_INF. -/
def Co.ACC_INF : Fld := { off := 0x204, lsb := 8, w := 1, rst := 0, ty := .w1c, ev := true }
/-- R58: CLR_LOST. -/
def Co.CLR_LOST : Fld := { off := 0x204, lsb := 9, w := 1, rst := 0, ty := .w1c, ev := true }
/-- R58: GROUPS. -/
def Co.GROUPS : Fld := { off := 0x208, lsb := 0, w := 8, rst := 0, ty := .ro }
/-- R58: SLOT. -/
def Co.SLOT : Fld := { off := 0x208, lsb := 8, w := 7, rst := 0, ty := .ro }
/-- R58: CYCLE. -/
def Co.CYCLE_208 : Fld := { off := 0x208, lsb := 16, w := 15, rst := 0, ty := .ro }
/-- R58: CHECK_CNT. -/
def Co.CHECK_CNT : Fld := { off := 0x20C, lsb := 0, w := 16, rst := 0, ty := .ro, ev := true }
/-- R58: PARITY_CNT. -/
def Co.PARITY_CNT : Fld := { off := 0x20C, lsb := 16, w := 16, rst := 0, ty := .ro, ev := true }
/-- R58: CE_CNT. -/
def Co.CE_CNT : Fld := { off := 0x210, lsb := 0, w := 16, rst := 0, ty := .ro, ev := true }
/-- R58: INF_CNT. -/
def Co.INF_CNT : Fld := { off := 0x210, lsb := 16, w := 16, rst := 0, ty := .ro, ev := true }
/-- R58: ROWS_FRAME. -/
def Co.ROWS_FRAME : Fld := { off := 0x214, lsb := 0, w := 16, rst := 0, ty := .ro }
/-- R58: POISON_W. -/
def Co.POISON_W (k : Nat) : Fld := { off := 0x10000 + 1 * k, lsb := 0, w := 32, rst := 0, ty := .ro, ix := true }
/-- R79: SAT. -/
def Co.SAT : Fld := { off := 0x240, lsb := 0, w := 1, rst := 0, ty := .w1c, ev := true }
/-- R79: NAN_OVF. -/
def Co.NAN_OVF : Fld := { off := 0x240, lsb := 1, w := 1, rst := 0, ty := .w1c, ev := true }
/-- R79: INF_IN. -/
def Co.INF_IN : Fld := { off := 0x240, lsb := 2, w := 1, rst := 0, ty := .w1c, ev := true }
/-- R79: NAN_IN. -/
def Co.NAN_IN : Fld := { off := 0x240, lsb := 3, w := 1, rst := 0, ty := .w1c, ev := true }
/-- R79: POISON_IN. -/
def Co.POISON_IN : Fld := { off := 0x240, lsb := 4, w := 1, rst := 0, ty := .w1c, ev := true }
/-- R79: CONV_SAT_CNT. -/
def Co.CONV_SAT_CNT : Fld := { off := 0x244, lsb := 0, w := 32, rst := 0, ty := .ro, ev := true }
/-- R79: CONV_POISON_CNT. -/
def Co.CONV_POISON_CNT : Fld := { off := 0x248, lsb := 0, w := 32, rst := 0, ty := .ro, ev := true }
/-- R79: RNG_STATE. -/
def Co.RNG_STATE : Fld := { off := 0x24C, lsb := 0, w := 32, rst := 1, ty := .ro }
/-- R79: RMAXs. -/
def Co.RMAX (k : Nat) : Fld := { off := 0x250 + 4 * k, lsb := 0, w := 32, rst := 0, ty := .ro }
/-- R100: COMPUTE_BUSY. -/
def Co.COMPUTE_BUSY : Fld := { off := 0x280, lsb := 0, w := 1, rst := 0, ty := .ro }
/-- R100: CH0_BUSY. -/
def Co.CH0_BUSY : Fld := { off := 0x280, lsb := 1, w := 1, rst := 0, ty := .ro }
/-- R100: CH1_BUSY. -/
def Co.CH1_BUSY : Fld := { off := 0x280, lsb := 2, w := 1, rst := 0, ty := .ro }
/-- R100: INF_OUT. -/
def Co.INF_OUT : Fld := { off := 0x284, lsb := 0, w := 1, rst := 0, ty := .w1c, ev := true }
/-- R100: NAN_OUT. -/
def Co.NAN_OUT : Fld := { off := 0x284, lsb := 1, w := 1, rst := 0, ty := .w1c, ev := true }
/-- R100: POISON_PROP. -/
def Co.POISON_PROP : Fld := { off := 0x284, lsb := 2, w := 1, rst := 0, ty := .w1c, ev := true }
/-- R100: VF_CE. -/
def Co.VF_CE : Fld := { off := 0x284, lsb := 3, w := 1, rst := 0, ty := .w1c, ev := true }
/-- R100: VF_UE. -/
def Co.VF_UE : Fld := { off := 0x284, lsb := 4, w := 1, rst := 0, ty := .w1c, ev := true }
/-- R100: VF_WR_CLASH. -/
def Co.VF_WR_CLASH : Fld := { off := 0x284, lsb := 5, w := 1, rst := 0, ty := .w1c, ev := true }
/-- R100: VX_INF_CNT. -/
def Co.VX_INF_CNT : Fld := { off := 0x288, lsb := 0, w := 16, rst := 0, ty := .ro, ev := true }
/-- R100: VX_NAN_CNT. -/
def Co.VX_NAN_CNT : Fld := { off := 0x288, lsb := 16, w := 16, rst := 0, ty := .ro, ev := true }
/-- R100: VX_POISON_CNT. -/
def Co.VX_POISON_CNT : Fld := { off := 0x28C, lsb := 0, w := 16, rst := 0, ty := .ro, ev := true }
/-- R100: VF_CE_CNT. -/
def Co.VF_CE_CNT : Fld := { off := 0x28C, lsb := 16, w := 16, rst := 0, ty := .ro, ev := true }
/-- R100: BEATS_FRAME. -/
def Co.BEATS_FRAME : Fld := { off := 0x290, lsb := 0, w := 16, rst := 0, ty := .ro }
/-- R118: OPEN_BUSY. -/
def Co.OPEN_BUSY : Fld := { off := 0x2C0, lsb := 0, w := 1, rst := 0, ty := .ro }
/-- R118: CLEARING. -/
def Co.CLEARING : Fld := { off := 0x2C0, lsb := 1, w := 1, rst := 0, ty := .ro }
/-- R118: CLEAR_DONE. -/
def Co.CLEAR_DONE : Fld := { off := 0x2C0, lsb := 2, w := 1, rst := 0, ty := .ro }
/-- R118: CE. -/
def Co.CE : Fld := { off := 0x2C4, lsb := 0, w := 1, rst := 0, ty := .w1c, ev := true }
/-- R118: UE. -/
def Co.UE : Fld := { off := 0x2C4, lsb := 1, w := 1, rst := 0, ty := .w1c, ev := true }
/-- R118: CONFLICT. -/
def Co.CONFLICT : Fld := { off := 0x2C4, lsb := 2, w := 1, rst := 0, ty := .w1c, ev := true }
/-- R118: OWNER_ONLY. -/
def Co.OWNER_ONLY : Fld := { off := 0x2C4, lsb := 3, w := 1, rst := 0, ty := .w1c, ev := true }
/-- R118: OPEN_REFUSED. -/
def Co.OPEN_REFUSED : Fld := { off := 0x2C4, lsb := 4, w := 1, rst := 0, ty := .w1c, ev := true }
/-- R118: SP_CE_CNT. -/
def Co.SP_CE_CNT : Fld := { off := 0x2C8, lsb := 0, w := 16, rst := 0, ty := .ro, ev := true }
/-- R118: SP_UE_CNT. -/
def Co.SP_UE_CNT : Fld := { off := 0x2C8, lsb := 16, w := 16, rst := 0, ty := .ro, ev := true }
/-- R118: BANK. -/
def Co.BANK : Fld := { off := 0x2CC, lsb := 0, w := 5, rst := 0, ty := .ro }
/-- R118: WINNER. -/
def Co.WINNER : Fld := { off := 0x2CC, lsb := 5, w := 3, rst := 0, ty := .ro }
/-- R118: LOSER. -/
def Co.LOSER : Fld := { off := 0x2CC, lsb := 8, w := 3, rst := 0, ty := .ro }
/-- R118: CYCLE. -/
def Co.CYCLE_2CC : Fld := { off := 0x2CC, lsb := 12, w := 15, rst := 0, ty := .ro }
/-- R118: OPEN_GRANTS. -/
def Co.OPEN_GRANTS : Fld := { off := 0x2D0, lsb := 0, w := 16, rst := 0, ty := .ro }
/-- R118: OPEN_WAIT_MAX. -/
def Co.OPEN_WAIT_MAX : Fld := { off := 0x2D0, lsb := 16, w := 16, rst := 0, ty := .ro }
/-- R118: UE_BANK. -/
def Co.UE_BANK : Fld := { off := 0x2D4, lsb := 0, w := 5, rst := 0, ty := .ro }
/-- R118: UE_LINE. -/
def Co.UE_LINE : Fld := { off := 0x2D4, lsb := 5, w := 7, rst := 0, ty := .ro }
/-- R118: UE_WORD. -/
def Co.UE_WORD : Fld := { off := 0x2D4, lsb := 12, w := 4, rst := 0, ty := .ro }
/-- R173: ARM. -/
def Co.ARM : Fld := { off := 0x40, lsb := 0, w := 1, rst := 0, ty := .rw }
/-- R173: DISARM. -/
def Co.DISARM : Fld := { off := 0x40, lsb := 1, w := 1, rst := 0, ty := .rw }
/-- R173: START_PC. -/
def Co.START_PC : Fld := { off := 0x44, lsb := 0, w := 12, rst := 0, ty := .rw }
/-- R173: START_FC_LO. -/
def Co.START_FC_LO : Fld := { off := 0x48, lsb := 0, w := 32, rst := 0, ty := .rw }
/-- R173: START_FC_HI. -/
def Co.START_FC_HI : Fld := { off := 0x4C, lsb := 0, w := 16, rst := 0, ty := .rw }
/-- R173: STATE. -/
def Co.STATE : Fld := { off := 0x50, lsb := 0, w := 3, rst := 0, ty := .ro }
/-- R173: LOOP_DEPTH. -/
def Co.LOOP_DEPTH : Fld := { off := 0x50, lsb := 3, w := 3, rst := 0, ty := .ro }
/-- R173: WINDOW_OPEN. -/
def Co.WINDOW_OPEN : Fld := { off := 0x50, lsb := 6, w := 1, rst := 0, ty := .ro }
/-- R173: PC. -/
def Co.PC : Fld := { off := 0x54, lsb := 0, w := 12, rst := 0, ty := .ro }
/-- R173: TRAP_TYPE. -/
def Co.TRAP_TYPE : Fld := { off := 0x58, lsb := 0, w := 8, rst := 0, ty := .ro }
/-- R173: TRAP_CAUSE. -/
def Co.TRAP_CAUSE : Fld := { off := 0x58, lsb := 8, w := 8, rst := 0, ty := .ro }
/-- R173: TRAP_SLOT. -/
def Co.TRAP_SLOT : Fld := { off := 0x58, lsb := 16, w := 3, rst := 7, ty := .ro }
/-- R173: SEQ_TRAP_SUPP. -/
def Co.SEQ_TRAP_SUPP : Fld := { off := 0x5C, lsb := 0, w := 16, rst := 0, ty := .ro }
/-- R173: NOTE_DROP_CNT. -/
def Co.NOTE_DROP_CNT : Fld := { off := 0x5C, lsb := 16, w := 16, rst := 0, ty := .ro, ev := true }
/-- R173: BUNDLES_FRAME. -/
def Co.BUNDLES_FRAME : Fld := { off := 0x60, lsb := 0, w := 16, rst := 0, ty := .ro }
/-- R173: KICKS_OUT. -/
def Co.KICKS_OUT : Fld := { off := 0x64, lsb := 0, w := 8, rst := 0, ty := .ro }
/-- R173: ARM_REFUSED. -/
def Co.ARM_REFUSED : Fld := { off := 0x68, lsb := 0, w := 1, rst := 0, ty := .w1c, ev := true }
/-- R173: START_MISSED. -/
def Co.START_MISSED : Fld := { off := 0x68, lsb := 1, w := 1, rst := 0, ty := .w1c, ev := true }
/-- R173: NOTE_DROPPED. -/
def Co.NOTE_DROPPED : Fld := { off := 0x68, lsb := 2, w := 1, rst := 0, ty := .w1c, ev := true }
/-- R173: RECORD_SEQ. -/
def Co.RECORD_SEQ : Fld := { off := 0x6C, lsb := 0, w := 32, rst := 0, ty := .ro }
/-- Registers of the core (R58, R79, R100, R118, R173) page. -/
def Co.regs : List RegDef :=
  [⟨Co.LOAD_BUSY, 1, 4⟩, ⟨Co.STREAM_BUSY, 1, 4⟩, ⟨Co.DRAIN_BUSY, 1, 4⟩, ⟨Co.BUF_A_VALID, 1, 4⟩, ⟨Co.BUF_B_VALID, 1, 4⟩, ⟨Co.BUF_A_MODE, 1, 4⟩] ++
  [⟨Co.BUF_B_MODE, 1, 4⟩, ⟨Co.CHECK, 1, 4⟩, ⟨Co.ACT_PARITY, 1, 4⟩, ⟨Co.XREG_PARITY, 1, 4⟩, ⟨Co.SCALE_PARITY, 1, 4⟩, ⟨Co.W2T_CODE, 1, 4⟩] ++
  [⟨Co.SCALE_POISON, 1, 4⟩, ⟨Co.ACC_CE, 1, 4⟩, ⟨Co.ACC_UE, 1, 4⟩, ⟨Co.ACC_INF, 1, 4⟩, ⟨Co.CLR_LOST, 1, 4⟩, ⟨Co.GROUPS, 1, 4⟩] ++
  [⟨Co.SLOT, 1, 4⟩, ⟨Co.CYCLE_208, 1, 4⟩, ⟨Co.CHECK_CNT, 1, 4⟩, ⟨Co.PARITY_CNT, 1, 4⟩, ⟨Co.CE_CNT, 1, 4⟩, ⟨Co.INF_CNT, 1, 4⟩] ++
  [⟨Co.ROWS_FRAME, 1, 4⟩, ⟨Co.SAT, 1, 4⟩, ⟨Co.NAN_OVF, 1, 4⟩, ⟨Co.INF_IN, 1, 4⟩, ⟨Co.NAN_IN, 1, 4⟩, ⟨Co.POISON_IN, 1, 4⟩] ++
  [⟨Co.CONV_SAT_CNT, 1, 4⟩, ⟨Co.CONV_POISON_CNT, 1, 4⟩, ⟨Co.RNG_STATE, 1, 4⟩, ⟨Co.RMAX 0, 8, 4⟩, ⟨Co.COMPUTE_BUSY, 1, 4⟩, ⟨Co.CH0_BUSY, 1, 4⟩] ++
  [⟨Co.CH1_BUSY, 1, 4⟩, ⟨Co.INF_OUT, 1, 4⟩, ⟨Co.NAN_OUT, 1, 4⟩, ⟨Co.POISON_PROP, 1, 4⟩, ⟨Co.VF_CE, 1, 4⟩, ⟨Co.VF_UE, 1, 4⟩] ++
  [⟨Co.VF_WR_CLASH, 1, 4⟩, ⟨Co.VX_INF_CNT, 1, 4⟩, ⟨Co.VX_NAN_CNT, 1, 4⟩, ⟨Co.VX_POISON_CNT, 1, 4⟩, ⟨Co.VF_CE_CNT, 1, 4⟩, ⟨Co.BEATS_FRAME, 1, 4⟩] ++
  [⟨Co.OPEN_BUSY, 1, 4⟩, ⟨Co.CLEARING, 1, 4⟩, ⟨Co.CLEAR_DONE, 1, 4⟩, ⟨Co.CE, 1, 4⟩, ⟨Co.UE, 1, 4⟩, ⟨Co.CONFLICT, 1, 4⟩] ++
  [⟨Co.OWNER_ONLY, 1, 4⟩, ⟨Co.OPEN_REFUSED, 1, 4⟩, ⟨Co.SP_CE_CNT, 1, 4⟩, ⟨Co.SP_UE_CNT, 1, 4⟩, ⟨Co.BANK, 1, 4⟩, ⟨Co.WINNER, 1, 4⟩] ++
  [⟨Co.LOSER, 1, 4⟩, ⟨Co.CYCLE_2CC, 1, 4⟩, ⟨Co.OPEN_GRANTS, 1, 4⟩, ⟨Co.OPEN_WAIT_MAX, 1, 4⟩, ⟨Co.UE_BANK, 1, 4⟩, ⟨Co.UE_LINE, 1, 4⟩] ++
  [⟨Co.UE_WORD, 1, 4⟩, ⟨Co.ARM, 1, 4⟩, ⟨Co.DISARM, 1, 4⟩, ⟨Co.START_PC, 1, 4⟩, ⟨Co.START_FC_LO, 1, 4⟩, ⟨Co.START_FC_HI, 1, 4⟩] ++
  [⟨Co.STATE, 1, 4⟩, ⟨Co.LOOP_DEPTH, 1, 4⟩, ⟨Co.WINDOW_OPEN, 1, 4⟩, ⟨Co.PC, 1, 4⟩, ⟨Co.TRAP_TYPE, 1, 4⟩, ⟨Co.TRAP_CAUSE, 1, 4⟩] ++
  [⟨Co.TRAP_SLOT, 1, 4⟩, ⟨Co.SEQ_TRAP_SUPP, 1, 4⟩, ⟨Co.NOTE_DROP_CNT, 1, 4⟩, ⟨Co.BUNDLES_FRAME, 1, 4⟩, ⟨Co.KICKS_OUT, 1, 4⟩, ⟨Co.ARM_REFUSED, 1, 4⟩] ++
  [⟨Co.START_MISSED, 1, 4⟩, ⟨Co.NOTE_DROPPED, 1, 4⟩, ⟨Co.RECORD_SEQ, 1, 4⟩]
/-- IX entries of the core (R58, R79, R100, R118, R173) page (R374). -/
def Co.ixs : List RegDef :=
  [⟨Co.POISON_W 0, 32, 1⟩]

/-! ### cistern (R119) -/
/-- R119: CLEARING. -/
def Ci.CLEARING : Fld := { off := 0x40, lsb := 0, w := 1, rst := 0, ty := .ro }
/-- R119: CLEAR_DONE. -/
def Ci.CLEAR_DONE : Fld := { off := 0x40, lsb := 1, w := 1, rst := 0, ty := .ro }
/-- R119: SCRUB_ACTIVE. -/
def Ci.SCRUB_ACTIVE : Fld := { off := 0x40, lsb := 2, w := 1, rst := 0, ty := .ro }
/-- R119: CE. -/
def Ci.CE : Fld := { off := 0x44, lsb := 0, w := 1, rst := 0, ty := .w1c, ev := true }
/-- R119: UE. -/
def Ci.UE : Fld := { off := 0x44, lsb := 1, w := 1, rst := 0, ty := .w1c, ev := true }
/-- R119: CONFLICT. -/
def Ci.CONFLICT : Fld := { off := 0x44, lsb := 2, w := 1, rst := 0, ty := .w1c, ev := true }
/-- R119: OPEN_REFUSED. -/
def Ci.OPEN_REFUSED : Fld := { off := 0x44, lsb := 3, w := 1, rst := 0, ty := .w1c, ev := true }
/-- R119: CIS_CE_CNT. -/
def Ci.CIS_CE_CNT : Fld := { off := 0x48, lsb := 0, w := 16, rst := 0, ty := .ro, ev := true }
/-- R119: CIS_UE_CNT. -/
def Ci.CIS_UE_CNT : Fld := { off := 0x48, lsb := 16, w := 16, rst := 0, ty := .ro, ev := true }
/-- R119: SLICE. -/
def Ci.SLICE : Fld := { off := 0x4C, lsb := 0, w := 4, rst := 0, ty := .ro }
/-- R119: WINNER. -/
def Ci.WINNER : Fld := { off := 0x4C, lsb := 4, w := 3, rst := 0, ty := .ro }
/-- R119: LOSER. -/
def Ci.LOSER : Fld := { off := 0x4C, lsb := 7, w := 3, rst := 0, ty := .ro }
/-- R119: CYCLE. -/
def Ci.CYCLE : Fld := { off := 0x4C, lsb := 10, w := 15, rst := 0, ty := .ro }
/-- R119: SCRUB_EN. -/
def Ci.SCRUB_EN : Fld := { off := 0x50, lsb := 0, w := 1, rst := 1, ty := .rw }
/-- R119: SCRUB_POS. -/
def Ci.SCRUB_POS : Fld := { off := 0x54, lsb := 0, w := 15, rst := 0, ty := .ro }
/-- R119: SCRUB_PASSES. -/
def Ci.SCRUB_PASSES : Fld := { off := 0x58, lsb := 0, w := 32, rst := 0, ty := .ro }
/-- R119: UE_SLICE. -/
def Ci.UE_SLICE : Fld := { off := 0x5C, lsb := 0, w := 4, rst := 0, ty := .ro }
/-- R119: UE_LINE. -/
def Ci.UE_LINE : Fld := { off := 0x5C, lsb := 4, w := 15, rst := 0, ty := .ro }
/-- R119: UE_WORD. -/
def Ci.UE_WORD : Fld := { off := 0x5C, lsb := 19, w := 4, rst := 0, ty := .ro }
/-- R119: OPEN_GRANTS. -/
def Ci.OPEN_GRANTS : Fld := { off := 0x60, lsb := 0, w := 16, rst := 0, ty := .ro }
/-- R119: OPEN_WAIT_MAX. -/
def Ci.OPEN_WAIT_MAX : Fld := { off := 0x60, lsb := 16, w := 16, rst := 0, ty := .ro }
/-- Registers of the cistern (R119) page. -/
def Ci.regs : List RegDef :=
  [⟨Ci.CLEARING, 1, 4⟩, ⟨Ci.CLEAR_DONE, 1, 4⟩, ⟨Ci.SCRUB_ACTIVE, 1, 4⟩, ⟨Ci.CE, 1, 4⟩, ⟨Ci.UE, 1, 4⟩, ⟨Ci.CONFLICT, 1, 4⟩] ++
  [⟨Ci.OPEN_REFUSED, 1, 4⟩, ⟨Ci.CIS_CE_CNT, 1, 4⟩, ⟨Ci.CIS_UE_CNT, 1, 4⟩, ⟨Ci.SLICE, 1, 4⟩, ⟨Ci.WINNER, 1, 4⟩, ⟨Ci.LOSER, 1, 4⟩] ++
  [⟨Ci.CYCLE, 1, 4⟩, ⟨Ci.SCRUB_EN, 1, 4⟩, ⟨Ci.SCRUB_POS, 1, 4⟩, ⟨Ci.SCRUB_PASSES, 1, 4⟩, ⟨Ci.UE_SLICE, 1, 4⟩, ⟨Ci.UE_LINE, 1, 4⟩] ++
  [⟨Ci.UE_WORD, 1, 4⟩, ⟨Ci.OPEN_GRANTS, 1, 4⟩, ⟨Ci.OPEN_WAIT_MAX, 1, 4⟩]

/-! ### timetable NI (R145) -/
/-- R145: FL_CODE. -/
def Tn.FL_CODE : Fld := { off := 0x40, lsb := 0, w := 3, rst := 2, ty := .rw, cp := true }
/-- R145: SL. -/
def Tn.SL : Fld := { off := 0x40, lsb := 3, w := 7, rst := 0xA, ty := .rw, cp := true }
/-- R145: CFG_COMPL. -/
def Tn.CFG_COMPL : Fld := { off := 0x40, lsb := 16, w := 16, rst := 0xFFAD, ty := .rw }
/-- R145: TABLE_ACTIVE. -/
def Tn.TABLE_ACTIVE : Fld := { off := 0x44, lsb := 0, w := 1, rst := 0, ty := .ro }
/-- R145: SHADOW_VALID. -/
def Tn.SHADOW_VALID : Fld := { off := 0x44, lsb := 1, w := 1, rst := 0, ty := .ro }
/-- R145: IN_SLACK. -/
def Tn.IN_SLACK : Fld := { off := 0x44, lsb := 2, w := 1, rst := 0, ty := .ro }
/-- R145: EXT_NOW. -/
def Tn.EXT_NOW : Fld := { off := 0x44, lsb := 3, w := 2, rst := 0, ty := .ro }
/-- R145: TRANSITION. -/
def Tn.TRANSITION : Fld := { off := 0x44, lsb := 5, w := 1, rst := 0, ty := .ro }
/-- R145: LAG_NOW. -/
def Tn.LAG_NOW : Fld := { off := 0x48, lsb := 0, w := 16, rst := 0, ty := .ro }
/-- R145: LAG_MAX_PREV. -/
def Tn.LAG_MAX_PREV : Fld := { off := 0x48, lsb := 16, w := 16, rst := 0, ty := .ro }
/-- R145: LATE_CNT. -/
def Tn.LATE_CNT : Fld := { off := 0x4C, lsb := 0, w := 32, rst := 0, ty := .ro, ev := true }
/-- R145: EXT_ONE. -/
def Tn.EXT_ONE : Fld := { off := 0x50, lsb := 0, w := 16, rst := 0, ty := .ro }
/-- R145: EXT_TWO. -/
def Tn.EXT_TWO : Fld := { off := 0x50, lsb := 16, w := 16, rst := 0, ty := .ro }
/-- R145: HIST_SHIFT. -/
def Tn.HIST_SHIFT : Fld := { off := 0x54, lsb := 0, w := 3, rst := 4, ty := .rw }
/-- R145: HIST_CLR. -/
def Tn.HIST_CLR : Fld := { off := 0x54, lsb := 3, w := 1, rst := 0, ty := .rw }
/-- R145: UNCORR. -/
def Tn.UNCORR : Fld := { off := 0x58, lsb := 0, w := 1, rst := 0, ty := .w1c, ev := true }
/-- R145: STOMP_IN. -/
def Tn.STOMP_IN : Fld := { off := 0x58, lsb := 1, w := 1, rst := 0, ty := .w1c, ev := true }
/-- R145: MISSING. -/
def Tn.MISSING : Fld := { off := 0x58, lsb := 2, w := 1, rst := 0, ty := .w1c, ev := true }
/-- R145: UNCLAIMED. -/
def Tn.UNCLAIMED : Fld := { off := 0x58, lsb := 3, w := 1, rst := 0, ty := .w1c, ev := true }
/-- R145: LATE. -/
def Tn.LATE : Fld := { off := 0x58, lsb := 4, w := 1, rst := 0, ty := .w1c, ev := true }
/-- R145: EXT. -/
def Tn.EXT : Fld := { off := 0x58, lsb := 5, w := 1, rst := 0, ty := .w1c, ev := true }
/-- R145: SCHED_REFUSED. -/
def Tn.SCHED_REFUSED : Fld := { off := 0x58, lsb := 6, w := 1, rst := 0, ty := .w1c, ev := true }
/-- R145: LINK_DOWN. -/
def Tn.LINK_DOWN : Fld := { off := 0x58, lsb := 7, w := 1, rst := 0, ty := .w1c, ev := true }
/-- R145: TT_CE_CNT. -/
def Tn.TT_CE_CNT : Fld := { off := 0x5C, lsb := 0, w := 16, rst := 0, ty := .ro, ev := true }
/-- R145: TT_UE_CNT. -/
def Tn.TT_UE_CNT : Fld := { off := 0x5C, lsb := 16, w := 16, rst := 0, ty := .ro, ev := true }
/-- R145: TT_MISSING. -/
def Tn.TT_MISSING : Fld := { off := 0x60, lsb := 0, w := 16, rst := 0, ty := .ro }
/-- R145: TT_UNCLAIMED. -/
def Tn.TT_UNCLAIMED : Fld := { off := 0x60, lsb := 16, w := 16, rst := 0, ty := .ro }
/-- R145: UE_LIMIT. -/
def Tn.UE_LIMIT : Fld := { off := 0x64, lsb := 0, w := 8, rst := 0x10, ty := .rw }
/-- R145: REFUSE_CODE. -/
def Tn.REFUSE_CODE : Fld := { off := 0x68, lsb := 0, w := 4, rst := 0, ty := .ro }
/-- R145: REFUSE_INDEX. -/
def Tn.REFUSE_INDEX : Fld := { off := 0x68, lsb := 4, w := 12, rst := 0, ty := .ro }
/-- R145: TT_LANES. -/
def Tn.TT_LANES (k : Nat) : Fld := { off := 0x70 + 4 * k, lsb := 0, w := 6, rst := 0x30, ty := .ro }
/-- R145: B. -/
def Tn.B (k : Nat) : Fld := { off := 0x70 + 4 * k, lsb := 6, w := 7, rst := 0x3C, ty := .ro }
/-- R145: LAG_HIST_b. -/
def Tn.LAG_HIST (k : Nat) : Fld := { off := 0x20000 + 1 * k, lsb := 0, w := 32, rst := 0, ty := .ro, ix := true }
/-- Registers of the timetable NI (R145) page. -/
def Tn.regs : List RegDef :=
  [⟨Tn.FL_CODE, 1, 4⟩, ⟨Tn.SL, 1, 4⟩, ⟨Tn.CFG_COMPL, 1, 4⟩, ⟨Tn.TABLE_ACTIVE, 1, 4⟩, ⟨Tn.SHADOW_VALID, 1, 4⟩, ⟨Tn.IN_SLACK, 1, 4⟩] ++
  [⟨Tn.EXT_NOW, 1, 4⟩, ⟨Tn.TRANSITION, 1, 4⟩, ⟨Tn.LAG_NOW, 1, 4⟩, ⟨Tn.LAG_MAX_PREV, 1, 4⟩, ⟨Tn.LATE_CNT, 1, 4⟩, ⟨Tn.EXT_ONE, 1, 4⟩] ++
  [⟨Tn.EXT_TWO, 1, 4⟩, ⟨Tn.HIST_SHIFT, 1, 4⟩, ⟨Tn.HIST_CLR, 1, 4⟩, ⟨Tn.UNCORR, 1, 4⟩, ⟨Tn.STOMP_IN, 1, 4⟩, ⟨Tn.MISSING, 1, 4⟩] ++
  [⟨Tn.UNCLAIMED, 1, 4⟩, ⟨Tn.LATE, 1, 4⟩, ⟨Tn.EXT, 1, 4⟩, ⟨Tn.SCHED_REFUSED, 1, 4⟩, ⟨Tn.LINK_DOWN, 1, 4⟩, ⟨Tn.TT_CE_CNT, 1, 4⟩] ++
  [⟨Tn.TT_UE_CNT, 1, 4⟩, ⟨Tn.TT_MISSING, 1, 4⟩, ⟨Tn.TT_UNCLAIMED, 1, 4⟩, ⟨Tn.UE_LIMIT, 1, 4⟩, ⟨Tn.REFUSE_CODE, 1, 4⟩, ⟨Tn.REFUSE_INDEX, 1, 4⟩] ++
  [⟨Tn.TT_LANES 0, 4, 4⟩, ⟨Tn.B 0, 4, 4⟩]
/-- IX entries of the timetable NI (R145) page (R374). -/
def Tn.ixs : List RegDef :=
  [⟨Tn.LAG_HIST 0, 32, 1⟩]

/-! ### courier NI (R200) -/
/-- R200: INJ_STOPPED. -/
def Cn.INJ_STOPPED : Fld := { off := 0x40, lsb := 0, w := 1, rst := 1, ty := .ro }
/-- R200: SHADOW_VALID. -/
def Cn.SHADOW_VALID : Fld := { off := 0x40, lsb := 1, w := 1, rst := 0, ty := .ro }
/-- R200: TABLE_ACTIVE. -/
def Cn.TABLE_ACTIVE : Fld := { off := 0x40, lsb := 2, w := 1, rst := 0, ty := .ro }
/-- R200: REPLAY. -/
def Cn.REPLAY : Fld := { off := 0x44, lsb := 0, w := 1, rst := 0, ty := .w1c, ev := true }
/-- R200: LINK_DOWN. -/
def Cn.LINK_DOWN : Fld := { off := 0x44, lsb := 1, w := 1, rst := 0, ty := .w1c, ev := true }
/-- R200: BAD_ENV. -/
def Cn.BAD_ENV : Fld := { off := 0x44, lsb := 2, w := 1, rst := 0, ty := .w1c, ev := true }
/-- R200: BROKEN. -/
def Cn.BROKEN : Fld := { off := 0x44, lsb := 3, w := 1, rst := 0, ty := .w1c, ev := true }
/-- R200: REORDER_DROP. -/
def Cn.REORDER_DROP : Fld := { off := 0x44, lsb := 4, w := 1, rst := 0, ty := .w1c, ev := true }
/-- R200: BUSY_SENT. -/
def Cn.BUSY_SENT : Fld := { off := 0x44, lsb := 5, w := 1, rst := 0, ty := .w1c, ev := true }
/-- R200: REPLAY_CNT. -/
def Cn.REPLAY_CNT : Fld := { off := 0x48, lsb := 0, w := 16, rst := 0, ty := .ro, ev := true }
/-- R200: RETRANS_CNT. -/
def Cn.RETRANS_CNT : Fld := { off := 0x48, lsb := 16, w := 16, rst := 0, ty := .ro, ev := true }
/-- R200: DUP_CNT. -/
def Cn.DUP_CNT : Fld := { off := 0x4C, lsb := 0, w := 16, rst := 0, ty := .ro, ev := true }
/-- R200: BAD_ENV_CNT. -/
def Cn.BAD_ENV_CNT : Fld := { off := 0x4C, lsb := 16, w := 16, rst := 0, ty := .ro, ev := true }
/-- R200: INJ_TOTAL. -/
def Cn.INJ_TOTAL : Fld := { off := 0x50, lsb := 0, w := 32, rst := 0, ty := .ro }
/-- R200: EJ_TOTAL. -/
def Cn.EJ_TOTAL : Fld := { off := 0x54, lsb := 0, w := 32, rst := 0, ty := .ro }
/-- R200: DOWN_PORTS. -/
def Cn.DOWN_PORTS : Fld := { off := 0x58, lsb := 0, w := 9, rst := 0, ty := .ro }
/-- R200: OUT_BUSY. -/
def Cn.OUT_BUSY : Fld := { off := 0x58, lsb := 9, w := 10, rst := 0, ty := .ro }
/-- R200: IN_BUSY. -/
def Cn.IN_BUSY : Fld := { off := 0x58, lsb := 19, w := 10, rst := 0, ty := .ro }
/-- R200: ACK_TIMEOUT. -/
def Cn.ACK_TIMEOUT : Fld := { off := 0x5C, lsb := 0, w := 16, rst := 0x40, ty := .rw }
/-- R200: CTX_IDLE. -/
def Cn.CTX_IDLE : Fld := { off := 0x5C, lsb := 16, w := 5, rst := 0x14, ty := .rw }
/-- R200: RESET_STREAM. -/
def Cn.RESET_STREAM : Fld := { off := 0x60, lsb := 0, w := 9, rst := 0, ty := .rw }
/-- R200: GO. -/
def Cn.GO : Fld := { off := 0x60, lsb := 9, w := 1, rst := 0, ty := .rw }
/-- R200: SH_RECT. -/
def Cn.SH_RECT : Fld := { off := 0x80, lsb := 0, w := 16, rst := 0, ty := .rw, cp := true }
/-- R200: RECT_COMPL. -/
def Cn.RECT_COMPL : Fld := { off := 0x80, lsb := 16, w := 16, rst := 0xFFFF, ty := .rw }
/-- R200: SH_SALT. -/
def Cn.SH_SALT : Fld := { off := 0x84, lsb := 0, w := 16, rst := 0, ty := .rw, cp := true }
/-- R200: SALT_COMPL. -/
def Cn.SALT_COMPL : Fld := { off := 0x84, lsb := 16, w := 16, rst := 0xFFFF, ty := .rw }
/-- R200: SH_FLAGS. -/
def Cn.SH_FLAGS : Fld := { off := 0x88, lsb := 0, w := 6, rst := 0, ty := .rw, cp := true }
/-- R200: FLAGS_COMPL. -/
def Cn.FLAGS_COMPL : Fld := { off := 0x88, lsb := 16, w := 16, rst := 0xFFFF, ty := .rw }
/-- R200: SH_GATE. -/
def Cn.SH_GATE (k : Nat) : Fld := { off := 0x8C + 4 * k, lsb := 0, w := 8, rst := 0xFF, ty := .rw, cp := true }
/-- R200: EGRESS. -/
def Cn.EGRESS (k : Nat) : Fld := { off := 0x8C + 4 * k, lsb := 8, w := 1, rst := 0, ty := .rw, cp := true }
/-- R200: GATE_COMPL. -/
def Cn.GATE_COMPL (k : Nat) : Fld := { off := 0x8C + 4 * k, lsb := 16, w := 16, rst := 0xFF00, ty := .rw }
/-- R200: ACT_RECT. -/
def Cn.ACT_RECT : Fld := { off := 0x100, lsb := 0, w := 16, rst := 0, ty := .ro }
/-- R200: ACT_RECT_COMPL. -/
def Cn.ACT_RECT_COMPL : Fld := { off := 0x100, lsb := 16, w := 16, rst := 0xFFFF, ty := .ro }
/-- R200: ACT_SALT. -/
def Cn.ACT_SALT : Fld := { off := 0x104, lsb := 0, w := 16, rst := 0, ty := .ro }
/-- R200: ACT_SALT_COMPL. -/
def Cn.ACT_SALT_COMPL : Fld := { off := 0x104, lsb := 16, w := 16, rst := 0xFFFF, ty := .ro }
/-- R200: ACT_FLAGS. -/
def Cn.ACT_FLAGS : Fld := { off := 0x108, lsb := 0, w := 16, rst := 0, ty := .ro }
/-- R200: ACT_FLAGS_COMPL. -/
def Cn.ACT_FLAGS_COMPL : Fld := { off := 0x108, lsb := 16, w := 16, rst := 0xFFFF, ty := .ro }
/-- R200: ACT_GATE. -/
def Cn.ACT_GATE (k : Nat) : Fld := { off := 0x10C + 4 * k, lsb := 0, w := 16, rst := 0xFF, ty := .ro }
/-- R200: ACT_GATE_COMPL. -/
def Cn.ACT_GATE_COMPL (k : Nat) : Fld := { off := 0x10C + 4 * k, lsb := 16, w := 16, rst := 0xFF00, ty := .ro }
/-- R200: STREAM_OUT_SEQ. -/
def Cn.STREAM_OUT_SEQ (k : Nat) : Fld := { off := 0x40000 + 1 * k, lsb := 0, w := 24, rst := 0, ty := .ro, ix := true }
/-- R200: STREAM_STATE. -/
def Cn.STREAM_STATE (k : Nat) : Fld := { off := 0x40000 + 1 * k, lsb := 24, w := 3, rst := 0, ty := .ro, ix := true }
/-- R200: ATTEMPT. -/
def Cn.ATTEMPT (k : Nat) : Fld := { off := 0x40000 + 1 * k, lsb := 27, w := 2, rst := 0, ty := .ro, ix := true }
/-- R200: SEPOCH. -/
def Cn.SEPOCH (k : Nat) : Fld := { off := 0x40000 + 1 * k, lsb := 29, w := 3, rst := 0, ty := .ro, ix := true }
/-- R200: STREAM_IN_SEQ. -/
def Cn.STREAM_IN_SEQ (k : Nat) : Fld := { off := 0x50000 + 1 * k, lsb := 0, w := 24, rst := 0, ty := .ro, ix := true }
/-- R200: IN_SRC. -/
def Cn.IN_SRC (k : Nat) : Fld := { off := 0x50000 + 1 * k, lsb := 24, w := 8, rst := 0xFF, ty := .ro, ix := true }
/-- Registers of the courier NI (R200) page. -/
def Cn.regs : List RegDef :=
  [⟨Cn.INJ_STOPPED, 1, 4⟩, ⟨Cn.SHADOW_VALID, 1, 4⟩, ⟨Cn.TABLE_ACTIVE, 1, 4⟩, ⟨Cn.REPLAY, 1, 4⟩, ⟨Cn.LINK_DOWN, 1, 4⟩, ⟨Cn.BAD_ENV, 1, 4⟩] ++
  [⟨Cn.BROKEN, 1, 4⟩, ⟨Cn.REORDER_DROP, 1, 4⟩, ⟨Cn.BUSY_SENT, 1, 4⟩, ⟨Cn.REPLAY_CNT, 1, 4⟩, ⟨Cn.RETRANS_CNT, 1, 4⟩, ⟨Cn.DUP_CNT, 1, 4⟩] ++
  [⟨Cn.BAD_ENV_CNT, 1, 4⟩, ⟨Cn.INJ_TOTAL, 1, 4⟩, ⟨Cn.EJ_TOTAL, 1, 4⟩, ⟨Cn.DOWN_PORTS, 1, 4⟩, ⟨Cn.OUT_BUSY, 1, 4⟩, ⟨Cn.IN_BUSY, 1, 4⟩] ++
  [⟨Cn.ACK_TIMEOUT, 1, 4⟩, ⟨Cn.CTX_IDLE, 1, 4⟩, ⟨Cn.RESET_STREAM, 1, 4⟩, ⟨Cn.GO, 1, 4⟩, ⟨Cn.SH_RECT, 1, 4⟩, ⟨Cn.RECT_COMPL, 1, 4⟩] ++
  [⟨Cn.SH_SALT, 1, 4⟩, ⟨Cn.SALT_COMPL, 1, 4⟩, ⟨Cn.SH_FLAGS, 1, 4⟩, ⟨Cn.FLAGS_COMPL, 1, 4⟩, ⟨Cn.SH_GATE 0, 16, 4⟩, ⟨Cn.EGRESS 0, 16, 4⟩] ++
  [⟨Cn.GATE_COMPL 0, 16, 4⟩, ⟨Cn.ACT_RECT, 1, 4⟩, ⟨Cn.ACT_RECT_COMPL, 1, 4⟩, ⟨Cn.ACT_SALT, 1, 4⟩, ⟨Cn.ACT_SALT_COMPL, 1, 4⟩, ⟨Cn.ACT_FLAGS, 1, 4⟩] ++
  [⟨Cn.ACT_FLAGS_COMPL, 1, 4⟩, ⟨Cn.ACT_GATE 0, 16, 4⟩, ⟨Cn.ACT_GATE_COMPL 0, 16, 4⟩]
/-- IX entries of the courier NI (R200) page (R374). -/
def Cn.ixs : List RegDef :=
  [⟨Cn.STREAM_OUT_SEQ 0, 512, 1⟩, ⟨Cn.STREAM_STATE 0, 512, 1⟩, ⟨Cn.ATTEMPT 0, 512, 1⟩, ⟨Cn.SEPOCH 0, 512, 1⟩, ⟨Cn.STREAM_IN_SEQ 0, 512, 1⟩, ⟨Cn.IN_SRC 0, 512, 1⟩]

/-! ### pumps (R200) -/
/-- R200: PUMP_BUSY. -/
def Pu.PUMP_BUSY : Fld := { off := 0x40, lsb := 0, w := 4, rst := 0, ty := .ro }
/-- R200: POST_FULL. -/
def Pu.POST_FULL : Fld := { off := 0x40, lsb := 4, w := 4, rst := 0, ty := .ro }
/-- R200: WB_FORMAT. -/
def Pu.WB_FORMAT : Fld := { off := 0x44, lsb := 0, w := 1, rst := 0, ty := .w1c, ev := true }
/-- R200: RING_REDIRECT. -/
def Pu.RING_REDIRECT : Fld := { off := 0x44, lsb := 1, w := 1, rst := 0, ty := .w1c, ev := true }
/-- R200: IMAGE. -/
def Pu.IMAGE : Fld := { off := 0x44, lsb := 2, w := 1, rst := 0, ty := .w1c, ev := true }
/-- R200: POST_REFUSED. -/
def Pu.POST_REFUSED : Fld := { off := 0x44, lsb := 3, w := 1, rst := 0, ty := .w1c, ev := true }
/-- R200: WB_DONE_CNT. -/
def Pu.WB_DONE_CNT : Fld := { off := 0x48, lsb := 0, w := 32, rst := 0, ty := .ro, ev := true }
/-- R200: WB_FAIL_CNT. -/
def Pu.WB_FAIL_CNT : Fld := { off := 0x4C, lsb := 0, w := 16, rst := 0, ty := .ro, ev := true }
/-- R200: RING_REDIRECT_CNT. -/
def Pu.RING_REDIRECT_CNT : Fld := { off := 0x4C, lsb := 16, w := 16, rst := 0, ty := .ro, ev := true }
/-- R200: WB_POST_DATAk. -/
def Pu.WB_POST_DATA (k : Nat) : Fld := { off := 0x50 + 4 * k, lsb := 0, w := 32, rst := 0, ty := .rw }
/-- R200: POST_PUMP. -/
def Pu.POST_PUMP : Fld := { off := 0x90, lsb := 0, w := 2, rst := 0, ty := .rw }
/-- R200: POST_GO. -/
def Pu.POST_GO : Fld := { off := 0x90, lsb := 2, w := 1, rst := 0, ty := .rw }
/-- R200: PUMP_BYTES_FRAME. -/
def Pu.PUMP_BYTES_FRAME : Fld := { off := 0x94, lsb := 0, w := 32, rst := 0, ty := .ro }
/-- Registers of the pumps (R200) page. -/
def Pu.regs : List RegDef :=
  [⟨Pu.PUMP_BUSY, 1, 4⟩, ⟨Pu.POST_FULL, 1, 4⟩, ⟨Pu.WB_FORMAT, 1, 4⟩, ⟨Pu.RING_REDIRECT, 1, 4⟩, ⟨Pu.IMAGE, 1, 4⟩, ⟨Pu.POST_REFUSED, 1, 4⟩] ++
  [⟨Pu.WB_DONE_CNT, 1, 4⟩, ⟨Pu.WB_FAIL_CNT, 1, 4⟩, ⟨Pu.RING_REDIRECT_CNT, 1, 4⟩, ⟨Pu.WB_POST_DATA 0, 16, 4⟩, ⟨Pu.POST_PUMP, 1, 4⟩, ⟨Pu.POST_GO, 1, 4⟩] ++
  [⟨Pu.PUMP_BYTES_FRAME, 1, 4⟩]

/-! ### well controller (R222) -/
/-- R222: TABLE_ACTIVE. -/
def We.TABLE_ACTIVE : Fld := { off := 0x40, lsb := 0, w := 1, rst := 0, ty := .ro }
/-- R222: SHADOW_VALID. -/
def We.SHADOW_VALID : Fld := { off := 0x40, lsb := 1, w := 1, rst := 0, ty := .ro }
/-- R222: CLEARING. -/
def We.CLEARING : Fld := { off := 0x40, lsb := 2, w := 1, rst := 0, ty := .ro }
/-- R222: CLEAR_DONE. -/
def We.CLEAR_DONE : Fld := { off := 0x40, lsb := 3, w := 1, rst := 0, ty := .ro }
/-- R222: SELF_REFRESH. -/
def We.SELF_REFRESH : Fld := { off := 0x40, lsb := 4, w := 1, rst := 0, ty := .ro }
/-- R222: SH_PW. -/
def We.SH_PW : Fld := { off := 0x44, lsb := 0, w := 3, rst := 4, ty := .rw }
/-- R222: CHECK. -/
def We.CHECK : Fld := { off := 0x44, lsb := 3, w := 1, rst := 0, ty := .rw }
/-- R222: ACT_PW. -/
def We.ACT_PW : Fld := { off := 0x44, lsb := 4, w := 3, rst := 0, ty := .ro }
/-- R222: REFUSE_CODE. -/
def We.REFUSE_CODE : Fld := { off := 0x48, lsb := 0, w := 4, rst := 0, ty := .ro }
/-- R222: REFUSE_ENTRY. -/
def We.REFUSE_ENTRY : Fld := { off := 0x48, lsb := 4, w := 9, rst := 0, ty := .ro }
/-- R222: CE. -/
def We.CE : Fld := { off := 0x4C, lsb := 0, w := 1, rst := 0, ty := .w1c, ev := true }
/-- R222: UE. -/
def We.UE : Fld := { off := 0x4C, lsb := 1, w := 1, rst := 0, ty := .w1c, ev := true }
/-- R222: LANDING. -/
def We.LANDING : Fld := { off := 0x4C, lsb := 2, w := 1, rst := 0, ty := .w1c, ev := true }
/-- R222: SLOT_REFUSED. -/
def We.SLOT_REFUSED : Fld := { off := 0x4C, lsb := 3, w := 1, rst := 0, ty := .w1c, ev := true }
/-- R222: LAND_FULL. -/
def We.LAND_FULL : Fld := { off := 0x4C, lsb := 4, w := 1, rst := 0, ty := .w1c, ev := true }
/-- R222: IMAGE_FAIL. -/
def We.IMAGE_FAIL : Fld := { off := 0x4C, lsb := 5, w := 1, rst := 0, ty := .w1c, ev := true }
/-- R222: WELL_CE_CNT. -/
def We.WELL_CE_CNT : Fld := { off := 0x50, lsb := 0, w := 16, rst := 0, ty := .ro, ev := true }
/-- R222: WELL_UE_CNT. -/
def We.WELL_UE_CNT : Fld := { off := 0x50, lsb := 16, w := 16, rst := 0, ty := .ro, ev := true }
/-- R222: LAND_HIT_CNT. -/
def We.LAND_HIT_CNT : Fld := { off := 0x54, lsb := 0, w := 16, rst := 0, ty := .ro, ev := true }
/-- R222: LAND_USED. -/
def We.LAND_USED : Fld := { off := 0x54, lsb := 16, w := 6, rst := 0, ty := .ro }
/-- R222: OPEN_LINES. -/
def We.OPEN_LINES : Fld := { off := 0x58, lsb := 0, w := 16, rst := 0, ty := .ro }
/-- R222: OPEN_WAIT_MAX. -/
def We.OPEN_WAIT_MAX : Fld := { off := 0x58, lsb := 16, w := 16, rst := 0, ty := .ro }
/-- R222: SCRUB_EN. -/
def We.SCRUB_EN : Fld := { off := 0x5C, lsb := 0, w := 1, rst := 1, ty := .rw }
/-- R222: SCRUB_POS. -/
def We.SCRUB_POS : Fld := { off := 0x60, lsb := 0, w := 29, rst := 0, ty := .ro }
/-- R222: SCRUB_PASSES. -/
def We.SCRUB_PASSES : Fld := { off := 0x64, lsb := 0, w := 32, rst := 0, ty := .ro }
/-- R222: LAND_CLR_ENTRY. -/
def We.LAND_CLR_ENTRY : Fld := { off := 0x68, lsb := 0, w := 5, rst := 0, ty := .rw }
/-- R222: LAND_CLR. -/
def We.LAND_CLR : Fld := { off := 0x68, lsb := 5, w := 1, rst := 0, ty := .rw }
/-- R222: UE_LINE. -/
def We.UE_LINE : Fld := { off := 0x6C, lsb := 0, w := 29, rst := 0, ty := .ro }
/-- R222: UE_HALF. -/
def We.UE_HALF : Fld := { off := 0x6C, lsb := 29, w := 1, rst := 0, ty := .ro }
/-- R222: WST_SH_e. -/
def We.WST_SH (k : Nat) : Fld := { off := 0x30000 + 1 * k, lsb := 0, w := 32, rst := 0, ty := .rw, ix := true }
/-- R222: WST_ACT_e. -/
def We.WST_ACT0 : Fld := { off := 0x30040, lsb := 0, w := 32, rst := 0x900000, ty := .ro, ix := true }
/-- R222: WST_ACT_e. -/
def We.WST_ACT (k : Nat) : Fld := { off := 0x30041 + 1 * k, lsb := 0, w := 32, rst := 0, ty := .ro, ix := true }
/-- R222: LAND_START_z. -/
def We.LAND_START (k : Nat) : Fld := { off := 0x30100 + 2 * k, lsb := 0, w := 29, rst := 0, ty := .ro, ix := true }
/-- R222: LAND_STATE_z. -/
def We.LAND_STATE (k : Nat) : Fld := { off := 0x30100 + 2 * k, lsb := 29, w := 2, rst := 0, ty := .ro, ix := true }
/-- R222: LAND_END_z. -/
def We.LAND_END (k : Nat) : Fld := { off := 0x30101 + 2 * k, lsb := 0, w := 29, rst := 0, ty := .ro, ix := true }
/-- Registers of the well controller (R222) page. -/
def We.regs : List RegDef :=
  [⟨We.TABLE_ACTIVE, 1, 4⟩, ⟨We.SHADOW_VALID, 1, 4⟩, ⟨We.CLEARING, 1, 4⟩, ⟨We.CLEAR_DONE, 1, 4⟩, ⟨We.SELF_REFRESH, 1, 4⟩, ⟨We.SH_PW, 1, 4⟩] ++
  [⟨We.CHECK, 1, 4⟩, ⟨We.ACT_PW, 1, 4⟩, ⟨We.REFUSE_CODE, 1, 4⟩, ⟨We.REFUSE_ENTRY, 1, 4⟩, ⟨We.CE, 1, 4⟩, ⟨We.UE, 1, 4⟩] ++
  [⟨We.LANDING, 1, 4⟩, ⟨We.SLOT_REFUSED, 1, 4⟩, ⟨We.LAND_FULL, 1, 4⟩, ⟨We.IMAGE_FAIL, 1, 4⟩, ⟨We.WELL_CE_CNT, 1, 4⟩, ⟨We.WELL_UE_CNT, 1, 4⟩] ++
  [⟨We.LAND_HIT_CNT, 1, 4⟩, ⟨We.LAND_USED, 1, 4⟩, ⟨We.OPEN_LINES, 1, 4⟩, ⟨We.OPEN_WAIT_MAX, 1, 4⟩, ⟨We.SCRUB_EN, 1, 4⟩, ⟨We.SCRUB_POS, 1, 4⟩] ++
  [⟨We.SCRUB_PASSES, 1, 4⟩, ⟨We.LAND_CLR_ENTRY, 1, 4⟩, ⟨We.LAND_CLR, 1, 4⟩, ⟨We.UE_LINE, 1, 4⟩, ⟨We.UE_HALF, 1, 4⟩]
/-- IX entries of the well controller (R222) page (R374). -/
def We.ixs : List RegDef :=
  [⟨We.WST_SH 0, 48, 1⟩, ⟨We.WST_ACT0, 1, 1⟩, ⟨We.WST_ACT 0, 47, 1⟩, ⟨We.LAND_START 0, 32, 2⟩, ⟨We.LAND_STATE 0, 32, 2⟩, ⟨We.LAND_END 0, 32, 2⟩]

/-! ### hub common (R249, R360) -/
/-- R249: RING_UP. -/
def Hu.RING_UP : Fld := { off := 0x40, lsb := 0, w := 1, rst := 0, ty := .ro }
/-- R249: FRT_ACTIVE. -/
def Hu.FRT_ACTIVE : Fld := { off := 0x40, lsb := 1, w := 1, rst := 0, ty := .ro }
/-- R249: FRT_SH_VALID. -/
def Hu.FRT_SH_VALID : Fld := { off := 0x40, lsb := 2, w := 1, rst := 0, ty := .ro }
/-- R249: FRT_CHECK. -/
def Hu.FRT_CHECK : Fld := { off := 0x44, lsb := 0, w := 1, rst := 0, ty := .rw }
/-- R249: FRT_SWAP. -/
def Hu.FRT_SWAP : Fld := { off := 0x44, lsb := 1, w := 1, rst := 0, ty := .rw }
/-- R249: FAB_TTL. -/
def Hu.FAB_TTL : Fld := { off := 0x44, lsb := 2, w := 6, rst := 0x20, ty := .rw }
/-- R249: FAB_VER_MAX. -/
def Hu.FAB_VER_MAX : Fld := { off := 0x44, lsb := 8, w := 3, rst := 4, ty := .rw }
/-- R249: NOROUTE. -/
def Hu.NOROUTE : Fld := { off := 0x48, lsb := 0, w := 1, rst := 0, ty := .w1c, ev := true }
/-- R249: TTL. -/
def Hu.TTL : Fld := { off := 0x48, lsb := 1, w := 1, rst := 0, ty := .w1c, ev := true }
/-- R249: STALL. -/
def Hu.STALL : Fld := { off := 0x48, lsb := 2, w := 1, rst := 0, ty := .w1c, ev := true }
/-- R249: XPLANE. -/
def Hu.XPLANE : Fld := { off := 0x48, lsb := 3, w := 1, rst := 0, ty := .w1c, ev := true }
/-- R249: ID_CONFLICT. -/
def Hu.ID_CONFLICT : Fld := { off := 0x48, lsb := 4, w := 1, rst := 0, ty := .w1c, ev := true }
/-- R249: NOROUTE_CNT. -/
def Hu.NOROUTE_CNT : Fld := { off := 0x4C, lsb := 0, w := 16, rst := 0, ty := .ro, ev := true }
/-- R249: TTL_CNT. -/
def Hu.TTL_CNT : Fld := { off := 0x4C, lsb := 16, w := 16, rst := 0, ty := .ro, ev := true }
/-- R249: STALL_CNT. -/
def Hu.STALL_CNT : Fld := { off := 0x50, lsb := 0, w := 16, rst := 0, ty := .ro, ev := true }
/-- R249: FAB_STALL. -/
def Hu.FAB_STALL : Fld := { off := 0x50, lsb := 16, w := 16, rst := 0x64, ty := .rw }
/-- R249: OUT_Q. -/
def Hu.OUT_Q (k : Nat) : Fld := { off := 0x54 + 4 * k, lsb := 0, w := 10, rst := 0, ty := .rw, ba := true }
/-- R249: IN_Q. -/
def Hu.IN_Q (k : Nat) : Fld := { off := 0x54 + 4 * k, lsb := 10, w := 10, rst := 0, ty := .rw, ba := true }
/-- R249: FAB_IN. -/
def Hu.FAB_IN (k : Nat) : Fld := { off := 0x54 + 4 * k, lsb := 20, w := 1, rst := 0, ty := .rw, ba := true }
/-- R249: CAP_WORD. -/
def Hu.CAP_WORD : Fld := { off := 0x94, lsb := 0, w := 32, rst := 0, ty := .ro }
/-- R249: FRT_SH_i. -/
def Hu.FRT_SH (k : Nat) : Fld := { off := 0x60000 + 1 * k, lsb := 0, w := 32, rst := 0, ty := .rw, ix := true }
/-- R249: FRT_ACT_i. -/
def Hu.FRT_ACT (k : Nat) : Fld := { off := 0x70000 + 1 * k, lsb := 0, w := 32, rst := 0, ty := .ro, ix := true }
/-- R360: MGMT_Q. -/
def Hu.MGMT_Q : Fld := { off := 0x98, lsb := 0, w := 4, rst := 4, ty := .rw }
/-- R360: SHARE_e_w. -/
def Hu.SHARE (k : Nat) : Fld := { off := 0x90000 + 1 * k, lsb := 0, w := 32, rst := 0x10101010, ty := .rw, ba := true, ix := true }
/-- Registers of the hub common (R249, R360) page. -/
def Hu.regs : List RegDef :=
  [⟨Hu.RING_UP, 1, 4⟩, ⟨Hu.FRT_ACTIVE, 1, 4⟩, ⟨Hu.FRT_SH_VALID, 1, 4⟩, ⟨Hu.FRT_CHECK, 1, 4⟩, ⟨Hu.FRT_SWAP, 1, 4⟩, ⟨Hu.FAB_TTL, 1, 4⟩] ++
  [⟨Hu.FAB_VER_MAX, 1, 4⟩, ⟨Hu.NOROUTE, 1, 4⟩, ⟨Hu.TTL, 1, 4⟩, ⟨Hu.STALL, 1, 4⟩, ⟨Hu.XPLANE, 1, 4⟩, ⟨Hu.ID_CONFLICT, 1, 4⟩] ++
  [⟨Hu.NOROUTE_CNT, 1, 4⟩, ⟨Hu.TTL_CNT, 1, 4⟩, ⟨Hu.STALL_CNT, 1, 4⟩, ⟨Hu.FAB_STALL, 1, 4⟩, ⟨Hu.OUT_Q 0, 16, 4⟩, ⟨Hu.IN_Q 0, 16, 4⟩] ++
  [⟨Hu.FAB_IN 0, 16, 4⟩, ⟨Hu.CAP_WORD, 1, 4⟩, ⟨Hu.MGMT_Q, 1, 4⟩]
/-- IX entries of the hub common (R249, R360) page (R374). -/
def Hu.ixs : List RegDef :=
  [⟨Hu.FRT_SH 0, 4096, 1⟩, ⟨Hu.FRT_ACT 0, 4096, 1⟩, ⟨Hu.SHARE 0, 128, 1⟩]

/-! ### fabric or TB port (R249) -/
/-- R249: PORT_STATE. -/
def Fa.PORT_STATE : Fld := { off := 0x40, lsb := 0, w := 3, rst := 0, ty := .ro }
/-- R249: LANES. -/
def Fa.LANES : Fld := { off := 0x40, lsb := 3, w := 4, rst := 0, ty := .ro }
/-- R249: VER. -/
def Fa.VER : Fld := { off := 0x40, lsb := 7, w := 3, rst := 0, ty := .ro }
/-- R249: REFUSE_CODE. -/
def Fa.REFUSE_CODE : Fld := { off := 0x40, lsb := 10, w := 4, rst := 0, ty := .ro }
/-- R249: RETRAIN. -/
def Fa.RETRAIN : Fld := { off := 0x44, lsb := 0, w := 1, rst := 0, ty := .rw }
/-- R249: HOLD_CLR. -/
def Fa.HOLD_CLR : Fld := { off := 0x44, lsb := 1, w := 1, rst := 0, ty := .rw }
/-- R249: DISABLE. -/
def Fa.DISABLE : Fld := { off := 0x44, lsb := 2, w := 1, rst := 0, ty := .rw }
/-- R249: PORT_ERR. -/
def Fa.PORT_ERR : Fld := { off := 0x48, lsb := 0, w := 6, rst := 0, ty := .w1c, ev := true }
/-- R249: REPLAY_CNT. -/
def Fa.REPLAY_CNT : Fld := { off := 0x4C, lsb := 0, w := 16, rst := 0, ty := .ro, ev := true }
/-- R249: RETRAIN_CNT. -/
def Fa.RETRAIN_CNT : Fld := { off := 0x4C, lsb := 16, w := 16, rst := 0, ty := .ro, ev := true }
/-- R249: HOLD_LEVEL. -/
def Fa.HOLD_LEVEL : Fld := { off := 0x50, lsb := 0, w := 4, rst := 0, ty := .ro }
/-- R249: RETRAINS_60S. -/
def Fa.RETRAINS_60S : Fld := { off := 0x50, lsb := 4, w := 4, rst := 0, ty := .ro }
/-- R249: HOLD_LEFT. -/
def Fa.HOLD_LEFT : Fld := { off := 0x50, lsb := 8, w := 24, rst := 0, ty := .ro }
/-- R249: FEC_UNCORR_CNT. -/
def Fa.FEC_UNCORR_CNT : Fld := { off := 0x54, lsb := 0, w := 32, rst := 0, ty := .ro, ev := true }
/-- R249: RTT_NS. -/
def Fa.RTT_NS : Fld := { off := 0x58, lsb := 0, w := 32, rst := 0, ty := .ro }
/-- R249: PEER_ID. -/
def Fa.PEER_ID : Fld := { off := 0x5C, lsb := 0, w := 12, rst := 0, ty := .ro }
/-- R249: PEER_ID_VALID. -/
def Fa.PEER_ID_VALID : Fld := { off := 0x5C, lsb := 12, w := 1, rst := 0, ty := .ro }
/-- R249: PEER_HUB. -/
def Fa.PEER_HUB : Fld := { off := 0x5C, lsb := 13, w := 4, rst := 0, ty := .ro }
/-- R249: PEER_PORT. -/
def Fa.PEER_PORT : Fld := { off := 0x5C, lsb := 17, w := 3, rst := 0, ty := .ro }
/-- Registers of the fabric or TB port (R249) page. -/
def Fa.regs : List RegDef :=
  [⟨Fa.PORT_STATE, 1, 4⟩, ⟨Fa.LANES, 1, 4⟩, ⟨Fa.VER, 1, 4⟩, ⟨Fa.REFUSE_CODE, 1, 4⟩, ⟨Fa.RETRAIN, 1, 4⟩, ⟨Fa.HOLD_CLR, 1, 4⟩] ++
  [⟨Fa.DISABLE, 1, 4⟩, ⟨Fa.PORT_ERR, 1, 4⟩, ⟨Fa.REPLAY_CNT, 1, 4⟩, ⟨Fa.RETRAIN_CNT, 1, 4⟩, ⟨Fa.HOLD_LEVEL, 1, 4⟩, ⟨Fa.RETRAINS_60S, 1, 4⟩] ++
  [⟨Fa.HOLD_LEFT, 1, 4⟩, ⟨Fa.FEC_UNCORR_CNT, 1, 4⟩, ⟨Fa.RTT_NS, 1, 4⟩, ⟨Fa.PEER_ID, 1, 4⟩, ⟨Fa.PEER_ID_VALID, 1, 4⟩, ⟨Fa.PEER_HUB, 1, 4⟩] ++
  [⟨Fa.PEER_PORT, 1, 4⟩]

/-! ### x16 port (R249) -/
/-- R249: X16_ROLE. -/
def Xp.X16_ROLE : Fld := { off := 0x40, lsb := 0, w := 2, rst := 0, ty := .rw }
/-- R249: LINK_WIDTH. -/
def Xp.LINK_WIDTH : Fld := { off := 0x40, lsb := 2, w := 5, rst := 0, ty := .ro }
/-- R249: LINK_SPEED. -/
def Xp.LINK_SPEED : Fld := { off := 0x40, lsb := 7, w := 3, rst := 0, ty := .ro }
/-- R249: LINK_UP. -/
def Xp.LINK_UP : Fld := { off := 0x40, lsb := 10, w := 1, rst := 0, ty := .ro }
/-- R249: X16_ERR. -/
def Xp.X16_ERR : Fld := { off := 0x44, lsb := 0, w := 4, rst := 0, ty := .w1c, ev := true }
/-- R249: DT_BASE. -/
def Xp.DT_BASE (k : Nat) : Fld := { off := 0x48 + 4 * k, lsb := 0, w := 12, rst := 0, ty := .rw, ba := true }
/-- R249: DT_SIZE. -/
def Xp.DT_SIZE (k : Nat) : Fld := { off := 0x48 + 4 * k, lsb := 12, w := 13, rst := 0, ty := .rw, ba := true }
/-- R249: DT_MAPPED. -/
def Xp.DT_MAPPED : Fld := { off := 0x88, lsb := 0, w := 13, rst := 0, ty := .ro }
/-- Registers of the x16 port (R249) page. -/
def Xp.regs : List RegDef :=
  [⟨Xp.X16_ROLE, 1, 4⟩, ⟨Xp.LINK_WIDTH, 1, 4⟩, ⟨Xp.LINK_SPEED, 1, 4⟩, ⟨Xp.LINK_UP, 1, 4⟩, ⟨Xp.X16_ERR, 1, 4⟩, ⟨Xp.DT_BASE 0, 16, 4⟩] ++
  [⟨Xp.DT_SIZE 0, 16, 4⟩, ⟨Xp.DT_MAPPED, 1, 4⟩]

/-! ### firewall (R249) -/
/-- R249: FW_ERR. -/
def Fw.FW_ERR : Fld := { off := 0x40, lsb := 0, w := 6, rst := 0, ty := .w1c, ev := true }
/-- R249: FW_DROP_CNT. -/
def Fw.FW_DROP_CNT : Fld := { off := 0x44, lsb := 0, w := 16, rst := 0, ty := .ro, ev := true }
/-- R249: ISOLATED. -/
def Fw.ISOLATED : Fld := { off := 0x44, lsb := 16, w := 6, rst := 0, ty := .ro }
/-- R249: LAST_DIE. -/
def Fw.LAST_DIE : Fld := { off := 0x48, lsb := 0, w := 3, rst := 0, ty := .ro }
/-- R249: LAST_WRITE. -/
def Fw.LAST_WRITE : Fld := { off := 0x48, lsb := 3, w := 1, rst := 0, ty := .ro }
/-- R249: LAST_ADDR. -/
def Fw.LAST_ADDR : Fld := { off := 0x48, lsb := 4, w := 24, rst := 0, ty := .ro }
/-- Registers of the firewall (R249) page. -/
def Fw.regs : List RegDef :=
  [⟨Fw.FW_ERR, 1, 4⟩, ⟨Fw.FW_DROP_CNT, 1, 4⟩, ⟨Fw.ISOLATED, 1, 4⟩, ⟨Fw.LAST_DIE, 1, 4⟩, ⟨Fw.LAST_WRITE, 1, 4⟩, ⟨Fw.LAST_ADDR, 1, 4⟩]

/-! ### twin (R250) -/
/-- R250: TWIN_STATE. -/
def Tw.TWIN_STATE : Fld := { off := 0x40, lsb := 0, w := 4, rst := 0, ty := .ro }
/-- R250: LEAVER. -/
def Tw.LEAVER : Fld := { off := 0x40, lsb := 4, w := 1, rst := 0, ty := .ro }
/-- R250: BRIDGE_UP. -/
def Tw.BRIDGE_UP : Fld := { off := 0x40, lsb := 5, w := 2, rst := 0, ty := .ro }
/-- R250: CMD. -/
def Tw.CMD : Fld := { off := 0x44, lsb := 0, w := 4, rst := 0, ty := .rw }
/-- R250: OVERRIDE. -/
def Tw.OVERRIDE : Fld := { off := 0x44, lsb := 4, w := 1, rst := 0, ty := .rw }
/-- R250: PEER_SERIAL_LO. -/
def Tw.PEER_SERIAL_LO : Fld := { off := 0x48, lsb := 0, w := 32, rst := 0, ty := .rw }
/-- R250: PEER_SERIAL_HI. -/
def Tw.PEER_SERIAL_HI : Fld := { off := 0x4C, lsb := 0, w := 32, rst := 0, ty := .rw }
/-- R250: TWIN_ERR. -/
def Tw.TWIN_ERR : Fld := { off := 0x50, lsb := 0, w := 7, rst := 0, ty := .w1c, ev := true }
/-- R250: HB_LOSS. -/
def Tw.HB_LOSS : Fld := { off := 0x54, lsb := 0, w := 8, rst := 0xA, ty := .rw }
/-- R250: CLEAN_FRAMES. -/
def Tw.CLEAN_FRAMES : Fld := { off := 0x58, lsb := 0, w := 13, rst := 0, ty := .ro }
/-- R250: HB_MISSED_CNT. -/
def Tw.HB_MISSED_CNT : Fld := { off := 0x5C, lsb := 0, w := 32, rst := 0, ty := .ro, ev := true }
/-- R250: TIME_MASTER. -/
def Tw.TIME_MASTER : Fld := { off := 0x60, lsb := 0, w := 1, rst := 0, ty := .rw }
/-- R250: TIME_HOPS. -/
def Tw.TIME_HOPS : Fld := { off := 0x60, lsb := 1, w := 5, rst := 0x1F, ty := .ro }
/-- R250: PARENT_PORT. -/
def Tw.PARENT_PORT : Fld := { off := 0x60, lsb := 6, w := 7, rst := 0x7F, ty := .ro }
/-- R250: TIME_LOCKED. -/
def Tw.TIME_LOCKED : Fld := { off := 0x60, lsb := 13, w := 1, rst := 0, ty := .ro }
/-- R250: TIME_OFFSET. -/
def Tw.TIME_OFFSET : Fld := { off := 0x64, lsb := 0, w := 32, rst := 0, ty := .ro }
/-- R250: TIME_STEP_CNT. -/
def Tw.TIME_STEP_CNT : Fld := { off := 0x68, lsb := 0, w := 32, rst := 0, ty := .ro, ev := true }
/-- Registers of the twin (R250) page. -/
def Tw.regs : List RegDef :=
  [⟨Tw.TWIN_STATE, 1, 4⟩, ⟨Tw.LEAVER, 1, 4⟩, ⟨Tw.BRIDGE_UP, 1, 4⟩, ⟨Tw.CMD, 1, 4⟩, ⟨Tw.OVERRIDE, 1, 4⟩, ⟨Tw.PEER_SERIAL_LO, 1, 4⟩] ++
  [⟨Tw.PEER_SERIAL_HI, 1, 4⟩, ⟨Tw.TWIN_ERR, 1, 4⟩, ⟨Tw.HB_LOSS, 1, 4⟩, ⟨Tw.CLEAN_FRAMES, 1, 4⟩, ⟨Tw.HB_MISSED_CNT, 1, 4⟩, ⟨Tw.TIME_MASTER, 1, 4⟩] ++
  [⟨Tw.TIME_HOPS, 1, 4⟩, ⟨Tw.PARENT_PORT, 1, 4⟩, ⟨Tw.TIME_LOCKED, 1, 4⟩, ⟨Tw.TIME_OFFSET, 1, 4⟩, ⟨Tw.TIME_STEP_CNT, 1, 4⟩]

/-! ### collective engine (R267, R360) -/
/-- R267: RUNNING. -/
def Cl.RUNNING : Fld := { off := 0x40, lsb := 0, w := 16, rst := 0, ty := .ro }
/-- R267: STAGING_FREE. -/
def Cl.STAGING_FREE : Fld := { off := 0x40, lsb := 16, w := 9, rst := 0x100, ty := .ro }
/-- R267: COLL_VER_OWN. -/
def Cl.COLL_VER_OWN : Fld := { off := 0x40, lsb := 25, w := 3, rst := 2, ty := .ro }
/-- R267: FORMAT. -/
def Cl.FORMAT : Fld := { off := 0x44, lsb := 0, w := 1, rst := 0, ty := .w1c, ev := true }
/-- R267: STALE. -/
def Cl.STALE : Fld := { off := 0x44, lsb := 1, w := 1, rst := 0, ty := .w1c, ev := true }
/-- R267: BACKUP_USED. -/
def Cl.BACKUP_USED : Fld := { off := 0x44, lsb := 2, w := 1, rst := 0, ty := .w1c, ev := true }
/-- R267: FAILED. -/
def Cl.FAILED : Fld := { off := 0x44, lsb := 3, w := 1, rst := 0, ty := .w1c, ev := true }
/-- R267: VERSION. -/
def Cl.VERSION : Fld := { off := 0x44, lsb := 4, w := 1, rst := 0, ty := .w1c, ev := true }
/-- R267: QUEUE_FULL. -/
def Cl.QUEUE_FULL : Fld := { off := 0x44, lsb := 5, w := 1, rst := 0, ty := .w1c, ev := true }
/-- R267: STALE_CNT. -/
def Cl.STALE_CNT : Fld := { off := 0x48, lsb := 0, w := 16, rst := 0, ty := .ro, ev := true }
/-- R267: BACKUP_CNT. -/
def Cl.BACKUP_CNT : Fld := { off := 0x48, lsb := 16, w := 16, rst := 0, ty := .ro, ev := true }
/-- R267: FAILED_CNT. -/
def Cl.FAILED_CNT : Fld := { off := 0x4C, lsb := 0, w := 16, rst := 0, ty := .ro, ev := true }
/-- R267: COLL_TIMEOUT. -/
def Cl.COLL_TIMEOUT : Fld := { off := 0x4C, lsb := 16, w := 16, rst := 0x64, ty := .rw }
/-- R267: POST_DATAk. -/
def Cl.POST_DATA (k : Nat) : Fld := { off := 0x50 + 4 * k, lsb := 0, w := 32, rst := 0, ty := .rw }
/-- R267: POST_GO. -/
def Cl.POST_GO : Fld := { off := 0x90, lsb := 0, w := 1, rst := 0, ty := .rw }
/-- R267: GROUP_ID. -/
def Cl.GROUP_ID (k : Nat) : Fld := { off := 0x100 + 16 * k, lsb := 0, w := 16, rst := 0, ty := .rw }
/-- R267: EPOCH. -/
def Cl.EPOCH (k : Nat) : Fld := { off := 0x100 + 16 * k, lsb := 16, w := 16, rst := 0, ty := .rw }
/-- R267: M_MINUS_1. -/
def Cl.M_MINUS_1 (k : Nat) : Fld := { off := 0x104 + 16 * k, lsb := 0, w := 8, rst := 1, ty := .rw }
/-- R267: POS. -/
def Cl.POS (k : Nat) : Fld := { off := 0x104 + 16 * k, lsb := 8, w := 8, rst := 0, ty := .rw }
/-- R267: COLL_VER. -/
def Cl.COLL_VER (k : Nat) : Fld := { off := 0x104 + 16 * k, lsb := 16, w := 4, rst := 1, ty := .rw }
/-- R267: REGION. -/
def Cl.REGION (k : Nat) : Fld := { off := 0x104 + 16 * k, lsb := 20, w := 4, rst := 0, ty := .rw }
/-- R267: ENABLE. -/
def Cl.ENABLE (k : Nat) : Fld := { off := 0x104 + 16 * k, lsb := 24, w := 1, rst := 0, ty := .rw }
/-- R267: QUEUED. -/
def Cl.QUEUED (k : Nat) : Fld := { off := 0x108 + 16 * k, lsb := 0, w := 4, rst := 0, ty := .ro }
/-- R267: LAST_COLL_ID. -/
def Cl.LAST_COLL_ID (k : Nat) : Fld := { off := 0x108 + 16 * k, lsb := 4, w := 24, rst := 0, ty := .ro }
/-- R267: ABORT. -/
def Cl.ABORT (k : Nat) : Fld := { off := 0x10C + 16 * k, lsb := 0, w := 1, rst := 0, ty := .rw }
/-- R267: PANEL. -/
def Cl.PANEL (k : Nat) : Fld := { off := 0x80000 + 1 * k, lsb := 0, w := 12, rst := 0, ty := .rw, ix := true }
/-- R267: PPORT. -/
def Cl.PPORT (k : Nat) : Fld := { off := 0x80000 + 1 * k, lsb := 12, w := 2, rst := 0, ty := .rw, ix := true }
/-- R267: BPORT. -/
def Cl.BPORT (k : Nat) : Fld := { off := 0x80000 + 1 * k, lsb := 14, w := 2, rst := 0, ty := .rw, ix := true }
/-- R267: RING_COMPL. -/
def Cl.RING_COMPL (k : Nat) : Fld := { off := 0x80000 + 1 * k, lsb := 16, w := 16, rst := 0xFFFF, ty := .rw, ix := true }
/-- R360: STAGE_Q. -/
def Cl.STAGE_Q (k : Nat) : Fld := { off := 0x200 + 4 * k, lsb := 0, w := 9, rst := 0x10, ty := .rw, ba := true }
/-- Registers of the collective engine (R267, R360) page. -/
def Cl.regs : List RegDef :=
  [⟨Cl.RUNNING, 1, 4⟩, ⟨Cl.STAGING_FREE, 1, 4⟩, ⟨Cl.COLL_VER_OWN, 1, 4⟩, ⟨Cl.FORMAT, 1, 4⟩, ⟨Cl.STALE, 1, 4⟩, ⟨Cl.BACKUP_USED, 1, 4⟩] ++
  [⟨Cl.FAILED, 1, 4⟩, ⟨Cl.VERSION, 1, 4⟩, ⟨Cl.QUEUE_FULL, 1, 4⟩, ⟨Cl.STALE_CNT, 1, 4⟩, ⟨Cl.BACKUP_CNT, 1, 4⟩, ⟨Cl.FAILED_CNT, 1, 4⟩] ++
  [⟨Cl.COLL_TIMEOUT, 1, 4⟩, ⟨Cl.POST_DATA 0, 16, 4⟩, ⟨Cl.POST_GO, 1, 4⟩, ⟨Cl.GROUP_ID 0, 16, 16⟩, ⟨Cl.EPOCH 0, 16, 16⟩, ⟨Cl.M_MINUS_1 0, 16, 16⟩] ++
  [⟨Cl.POS 0, 16, 16⟩, ⟨Cl.COLL_VER 0, 16, 16⟩, ⟨Cl.REGION 0, 16, 16⟩, ⟨Cl.ENABLE 0, 16, 16⟩, ⟨Cl.QUEUED 0, 16, 16⟩, ⟨Cl.LAST_COLL_ID 0, 16, 16⟩] ++
  [⟨Cl.ABORT 0, 16, 16⟩, ⟨Cl.STAGE_Q 0, 16, 4⟩]
/-- IX entries of the collective engine (R267, R360) page (R374). -/
def Cl.ixs : List RegDef :=
  [⟨Cl.PANEL 0, 4096, 1⟩, ⟨Cl.PPORT 0, 4096, 1⟩, ⟨Cl.BPORT 0, 4096, 1⟩, ⟨Cl.RING_COMPL 0, 4096, 1⟩]

/-! ### site clock (R284) -/
/-- R284: FSTATE. -/
def Ck.FSTATE : Fld := { off := 0x40, lsb := 0, w := 2, rst := 3, ty := .ro, tv := true }
/-- R284: MESH_LOCKED. -/
def Ck.MESH_LOCKED : Fld := { off := 0x40, lsb := 2, w := 1, rst := 0, ty := .ro }
/-- R284: ANCHOR. -/
def Ck.ANCHOR : Fld := { off := 0x40, lsb := 3, w := 1, rst := 0, ty := .ro }
/-- R284: FREE_RUN. -/
def Ck.FREE_RUN : Fld := { off := 0x40, lsb := 4, w := 1, rst := 1, ty := .ro }
/-- R284: SETTLING. -/
def Ck.SETTLING : Fld := { off := 0x40, lsb := 5, w := 1, rst := 0, ty := .ro }
/-- R284: STRETCHING. -/
def Ck.STRETCHING : Fld := { off := 0x40, lsb := 6, w := 1, rst := 0, ty := .ro }
/-- R284: LOCK_LOST. -/
def Ck.LOCK_LOST : Fld := { off := 0x44, lsb := 0, w := 1, rst := 0, ty := .w1c, ev := true }
/-- R284: JIT_ROOT. -/
def Ck.JIT_ROOT : Fld := { off := 0x44, lsb := 1, w := 1, rst := 0, ty := .w1c, ev := true }
/-- R284: JIT_CORE. -/
def Ck.JIT_CORE : Fld := { off := 0x44, lsb := 2, w := 1, rst := 0, ty := .w1c, ev := true }
/-- R284: DUTY_ROOT. -/
def Ck.DUTY_ROOT : Fld := { off := 0x44, lsb := 3, w := 1, rst := 0, ty := .w1c, ev := true }
/-- R284: DUTY_CORE. -/
def Ck.DUTY_CORE : Fld := { off := 0x44, lsb := 4, w := 1, rst := 0, ty := .w1c, ev := true }
/-- R284: REF_HOLDOVER. -/
def Ck.REF_HOLDOVER : Fld := { off := 0x44, lsb := 5, w := 1, rst := 0, ty := .w1c, ev := true }
/-- R284: STRETCH_MAX. -/
def Ck.STRETCH_MAX : Fld := { off := 0x44, lsb := 6, w := 1, rst := 0, ty := .w1c, ev := true }
/-- R284: MARK_LATE. -/
def Ck.MARK_LATE : Fld := { off := 0x44, lsb := 7, w := 1, rst := 0, ty := .w1c, ev := true }
/-- R284: DROOP_TH. -/
def Ck.DROOP_TH : Fld := { off := 0x48, lsb := 0, w := 8, rst := 0xC, ty := .rw, ba := true }
/-- R284: DROOP_STEP. -/
def Ck.DROOP_STEP : Fld := { off := 0x48, lsb := 8, w := 4, rst := 4, ty := .rw, ba := true }
/-- R284: STRETCH_CC_PREV. -/
def Ck.STRETCH_CC_PREV : Fld := { off := 0x4C, lsb := 0, w := 16, rst := 0, ty := .ro }
/-- R284: DEPTH_MAX_PREV. -/
def Ck.DEPTH_MAX_PREV : Fld := { off := 0x4C, lsb := 16, w := 4, rst := 0, ty := .ro }
/-- R284: STRETCH_FRAMES. -/
def Ck.STRETCH_FRAMES : Fld := { off := 0x50, lsb := 0, w := 32, rst := 0, ty := .ro }
/-- R284: COUPLED. -/
def Ck.COUPLED : Fld := { off := 0x54, lsb := 0, w := 4, rst := 0, ty := .ro }
/-- R284: PHASE. -/
def Ck.PHASE : Fld := { off := 0x58, lsb := 0, w := 32, rst := 0, ty := .ro }
/-- R284: PHASE_MAX_PREV. -/
def Ck.PHASE_MAX_PREV : Fld := { off := 0x5C, lsb := 0, w := 8, rst := 0, ty := .ro }
/-- R284: LOCK_LOST_CNT. -/
def Ck.LOCK_LOST_CNT : Fld := { off := 0x5C, lsb := 16, w := 16, rst := 0, ty := .ro, ev := true }
/-- R284: JIT_SRC. -/
def Ck.JIT_SRC : Fld := { off := 0x60, lsb := 0, w := 2, rst := 0, ty := .rw }
/-- R284: JIT_LIMIT. -/
def Ck.JIT_LIMIT : Fld := { off := 0x60, lsb := 2, w := 5, rst := 8, ty := .rw }
/-- R284: JIT_CLR. -/
def Ck.JIT_CLR : Fld := { off := 0x60, lsb := 7, w := 1, rst := 0, ty := .rw }
/-- R284: DUTY_ROOT_LAST. -/
def Ck.DUTY_ROOT_LAST : Fld := { off := 0x64, lsb := 0, w := 8, rst := 0, ty := .ro }
/-- R284: DUTY_CORE_LAST. -/
def Ck.DUTY_CORE_LAST : Fld := { off := 0x64, lsb := 8, w := 8, rst := 0, ty := .ro }
/-- R284: DUTY_ALARM_CNT. -/
def Ck.DUTY_ALARM_CNT : Fld := { off := 0x64, lsb := 16, w := 16, rst := 0, ty := .ro, ev := true }
/-- R284: MARK_COMP. -/
def Ck.MARK_COMP : Fld := { off := 0x68, lsb := 0, w := 24, rst := 0, ty := .ro }
/-- R284: JIT_HIST_b. -/
def Ck.JIT_HIST (k : Nat) : Fld := { off := 0x60000 + 1 * k, lsb := 0, w := 32, rst := 0, ty := .ro, ix := true }
/-- Registers of the site clock (R284) page. -/
def Ck.regs : List RegDef :=
  [⟨Ck.FSTATE, 1, 4⟩, ⟨Ck.MESH_LOCKED, 1, 4⟩, ⟨Ck.ANCHOR, 1, 4⟩, ⟨Ck.FREE_RUN, 1, 4⟩, ⟨Ck.SETTLING, 1, 4⟩, ⟨Ck.STRETCHING, 1, 4⟩] ++
  [⟨Ck.LOCK_LOST, 1, 4⟩, ⟨Ck.JIT_ROOT, 1, 4⟩, ⟨Ck.JIT_CORE, 1, 4⟩, ⟨Ck.DUTY_ROOT, 1, 4⟩, ⟨Ck.DUTY_CORE, 1, 4⟩, ⟨Ck.REF_HOLDOVER, 1, 4⟩] ++
  [⟨Ck.STRETCH_MAX, 1, 4⟩, ⟨Ck.MARK_LATE, 1, 4⟩, ⟨Ck.DROOP_TH, 1, 4⟩, ⟨Ck.DROOP_STEP, 1, 4⟩, ⟨Ck.STRETCH_CC_PREV, 1, 4⟩, ⟨Ck.DEPTH_MAX_PREV, 1, 4⟩] ++
  [⟨Ck.STRETCH_FRAMES, 1, 4⟩, ⟨Ck.COUPLED, 1, 4⟩, ⟨Ck.PHASE, 1, 4⟩, ⟨Ck.PHASE_MAX_PREV, 1, 4⟩, ⟨Ck.LOCK_LOST_CNT, 1, 4⟩, ⟨Ck.JIT_SRC, 1, 4⟩] ++
  [⟨Ck.JIT_LIMIT, 1, 4⟩, ⟨Ck.JIT_CLR, 1, 4⟩, ⟨Ck.DUTY_ROOT_LAST, 1, 4⟩, ⟨Ck.DUTY_CORE_LAST, 1, 4⟩, ⟨Ck.DUTY_ALARM_CNT, 1, 4⟩, ⟨Ck.MARK_COMP, 1, 4⟩]
/-- IX entries of the site clock (R284) page (R374). -/
def Ck.ixs : List RegDef :=
  [⟨Ck.JIT_HIST 0, 32, 1⟩]

/-! ### site power (R311) -/
/-- R311: DOM_EN. -/
def Sp.DOM_EN : Fld := { off := 0x40, lsb := 0, w := 4, rst := 0, ty := .ro, tv := true }
/-- R311: ARR_MODE. -/
def Sp.ARR_MODE : Fld := { off := 0x40, lsb := 4, w := 2, rst := 0, ty := .ro }
/-- R311: SITE_PSTATE. -/
def Sp.SITE_PSTATE : Fld := { off := 0x40, lsb := 6, w := 2, rst := 0, ty := .ro }
/-- R311: V_SET. -/
def Sp.V_SET : Fld := { off := 0x44, lsb := 0, w := 10, rst := 0, ty := .ro }
/-- R311: I_LOGIC. -/
def Sp.I_LOGIC : Fld := { off := 0x44, lsb := 10, w := 10, rst := 0, ty := .ro }
/-- R311: I_ARRAY. -/
def Sp.I_ARRAY : Fld := { off := 0x44, lsb := 20, w := 10, rst := 0, ty := .ro }
/-- R311: I_LINK. -/
def Sp.I_LINK : Fld := { off := 0x48, lsb := 0, w := 10, rst := 0, ty := .ro }
/-- R311: I_MEMIF. -/
def Sp.I_MEMIF : Fld := { off := 0x48, lsb := 10, w := 10, rst := 0, ty := .ro }
/-- R311: MARGIN. -/
def Sp.MARGIN : Fld := { off := 0x4C, lsb := 0, w := 2, rst := 0, ty := .rw, ba := true }
/-- R311: CAL_CEIL. -/
def Sp.CAL_CEIL : Fld := { off := 0x4C, lsb := 2, w := 2, rst := 3, ty := .ro }
/-- R311: TL_SITE. -/
def Sp.TL_SITE : Fld := { off := 0x4C, lsb := 4, w := 2, rst := 0, ty := .ro }
/-- R311: OC_LOGIC. -/
def Sp.OC_LOGIC : Fld := { off := 0x50, lsb := 0, w := 1, rst := 0, ty := .w1c, ev := true }
/-- R311: OC_OTHER. -/
def Sp.OC_OTHER : Fld := { off := 0x50, lsb := 1, w := 1, rst := 0, ty := .w1c, ev := true }
/-- R311: SHORT. -/
def Sp.SHORT : Fld := { off := 0x50, lsb := 2, w := 1, rst := 0, ty := .w1c, ev := true }
/-- R311: OV. -/
def Sp.OV : Fld := { off := 0x50, lsb := 3, w := 1, rst := 0, ty := .w1c, ev := true }
/-- R311: VSET_CLAMP. -/
def Sp.VSET_CLAMP : Fld := { off := 0x50, lsb := 4, w := 1, rst := 0, ty := .w1c, ev := true }
/-- R311: CAL_LIGHT_ONLY. -/
def Sp.CAL_LIGHT_ONLY : Fld := { off := 0x50, lsb := 5, w := 1, rst := 0, ty := .w1c, ev := true }
/-- R311: THERM_TRIP. -/
def Sp.THERM_TRIP : Fld := { off := 0x50, lsb := 6, w := 1, rst := 0, ty := .w1c, ev := true }
/-- R311: SENSOR_BAD. -/
def Sp.SENSOR_BAD : Fld := { off := 0x50, lsb := 7, w := 1, rst := 0, ty := .w1c, ev := true }
/-- R311: WAKE_RELOAD. -/
def Sp.WAKE_RELOAD : Fld := { off := 0x50, lsb := 8, w := 1, rst := 0, ty := .w1c, ev := true }
/-- R311: WAKE_FAIL. -/
def Sp.WAKE_FAIL : Fld := { off := 0x50, lsb := 9, w := 1, rst := 0, ty := .w1c, ev := true }
/-- R311: TJ. -/
def Sp.TJ : Fld := { off := 0x54, lsb := 0, w := 32, rst := 0, ty := .ro }
/-- R311: SENSOR_VALID. -/
def Sp.SENSOR_VALID : Fld := { off := 0x58, lsb := 0, w := 4, rst := 0xF, ty := .ro }
/-- R311: TJ_MAX_PREV. -/
def Sp.TJ_MAX_PREV : Fld := { off := 0x58, lsb := 16, w := 16, rst := 0, ty := .ro }
/-- R311: CFG_EPOCH. -/
def Sp.CFG_EPOCH : Fld := { off := 0x5C, lsb := 0, w := 32, rst := 0, ty := .ro }
/-- R311: RET_EPOCH. -/
def Sp.RET_EPOCH : Fld := { off := 0x60, lsb := 0, w := 32, rst := 0, ty := .ro }
/-- R311: MIN_CLR. -/
def Sp.MIN_CLR : Fld := { off := 0x64, lsb := 0, w := 4, rst := 0, ty := .rw }
/-- Registers of the site power (R311) page. -/
def Sp.regs : List RegDef :=
  [⟨Sp.DOM_EN, 1, 4⟩, ⟨Sp.ARR_MODE, 1, 4⟩, ⟨Sp.SITE_PSTATE, 1, 4⟩, ⟨Sp.V_SET, 1, 4⟩, ⟨Sp.I_LOGIC, 1, 4⟩, ⟨Sp.I_ARRAY, 1, 4⟩] ++
  [⟨Sp.I_LINK, 1, 4⟩, ⟨Sp.I_MEMIF, 1, 4⟩, ⟨Sp.MARGIN, 1, 4⟩, ⟨Sp.CAL_CEIL, 1, 4⟩, ⟨Sp.TL_SITE, 1, 4⟩, ⟨Sp.OC_LOGIC, 1, 4⟩] ++
  [⟨Sp.OC_OTHER, 1, 4⟩, ⟨Sp.SHORT, 1, 4⟩, ⟨Sp.OV, 1, 4⟩, ⟨Sp.VSET_CLAMP, 1, 4⟩, ⟨Sp.CAL_LIGHT_ONLY, 1, 4⟩, ⟨Sp.THERM_TRIP, 1, 4⟩] ++
  [⟨Sp.SENSOR_BAD, 1, 4⟩, ⟨Sp.WAKE_RELOAD, 1, 4⟩, ⟨Sp.WAKE_FAIL, 1, 4⟩, ⟨Sp.TJ, 1, 4⟩, ⟨Sp.SENSOR_VALID, 1, 4⟩, ⟨Sp.TJ_MAX_PREV, 1, 4⟩] ++
  [⟨Sp.CFG_EPOCH, 1, 4⟩, ⟨Sp.RET_EPOCH, 1, 4⟩, ⟨Sp.MIN_CLR, 1, 4⟩]

/-! ### panel power (R312) -/
/-- R312: VIN. -/
def Pp.VIN : Fld := { off := 0x40, lsb := 0, w := 12, rst := 0, ty := .ro }
/-- R312: PIN. -/
def Pp.PIN : Fld := { off := 0x44, lsb := 0, w := 16, rst := 0, ty := .ro }
/-- R312: PANEL_FACTOR. -/
def Pp.PANEL_FACTOR : Fld := { off := 0x44, lsb := 16, w := 6, rst := 0, ty := .ro }
/-- R312: INLET_PANEL. -/
def Pp.INLET_PANEL : Fld := { off := 0x48, lsb := 0, w := 16, rst := 0, ty := .ro }
/-- R312: OUTLET_PANEL. -/
def Pp.OUTLET_PANEL : Fld := { off := 0x48, lsb := 16, w := 16, rst := 0, ty := .ro }
/-- R312: INLET_TRAY. -/
def Pp.INLET_TRAY : Fld := { off := 0x4C, lsb := 0, w := 16, rst := 0, ty := .ro }
/-- R312: OUTLET_TRAY. -/
def Pp.OUTLET_TRAY : Fld := { off := 0x4C, lsb := 16, w := 16, rst := 0, ty := .ro }
/-- R312: FLOW_TRAY. -/
def Pp.FLOW_TRAY : Fld := { off := 0x50, lsb := 0, w := 16, rst := 0, ty := .ro }
/-- R312: TRAY_SEQ. -/
def Pp.TRAY_SEQ : Fld := { off := 0x50, lsb := 16, w := 8, rst := 0, ty := .ro }
/-- R312: TRAY_BAD_CNT. -/
def Pp.TRAY_BAD_CNT : Fld := { off := 0x50, lsb := 24, w := 8, rst := 0, ty := .ro, ev := true }
/-- R312: TL_PANEL. -/
def Pp.TL_PANEL : Fld := { off := 0x54, lsb := 0, w := 2, rst := 0, ty := .ro }
/-- R312: PWR_ERR. -/
def Pp.PWR_ERR : Fld := { off := 0x58, lsb := 0, w := 12, rst := 0, ty := .w1c, ev := true }
/-- R312: PANEL_CAP. -/
def Pp.PANEL_CAP : Fld := { off := 0x5C, lsb := 0, w := 16, rst := 0x7530, ty := .rw }
/-- R312: PCAP. -/
def Pp.PCAP (k : Nat) : Fld := { off := 0x80 + 8 * k, lsb := 0, w := 16, rst := 0, ty := .rw, ba := true }
/-- R312: DILATION. -/
def Pp.DILATION (k : Nat) : Fld := { off := 0x84 + 8 * k, lsb := 0, w := 16, rst := 0, ty := .ro }
/-- R312: DUTY_EFF. -/
def Pp.DUTY_EFF (k : Nat) : Fld := { off := 0x84 + 8 * k, lsb := 16, w := 11, rst := 0x400, ty := .ro }
/-- R312: TL. -/
def Pp.TL (k : Nat) : Fld := { off := 0x84 + 8 * k, lsb := 27, w := 2, rst := 0, ty := .ro }
/-- Registers of the panel power (R312) page. -/
def Pp.regs : List RegDef :=
  [⟨Pp.VIN, 1, 4⟩, ⟨Pp.PIN, 1, 4⟩, ⟨Pp.PANEL_FACTOR, 1, 4⟩, ⟨Pp.INLET_PANEL, 1, 4⟩, ⟨Pp.OUTLET_PANEL, 1, 4⟩, ⟨Pp.INLET_TRAY, 1, 4⟩] ++
  [⟨Pp.OUTLET_TRAY, 1, 4⟩, ⟨Pp.FLOW_TRAY, 1, 4⟩, ⟨Pp.TRAY_SEQ, 1, 4⟩, ⟨Pp.TRAY_BAD_CNT, 1, 4⟩, ⟨Pp.TL_PANEL, 1, 4⟩, ⟨Pp.PWR_ERR, 1, 4⟩] ++
  [⟨Pp.PANEL_CAP, 1, 4⟩, ⟨Pp.PCAP 0, 16, 8⟩, ⟨Pp.DILATION 0, 16, 8⟩, ⟨Pp.DUTY_EFF 0, 16, 8⟩, ⟨Pp.TL 0, 16, 8⟩]

/-! ### site reliability (R338) -/
/-- R338: SUSPECT. -/
def Re.SUSPECT : Fld := { off := 0x40, lsb := 0, w := 1, rst := 0, ty := .ro }
/-- R338: SHADOW_STATE. -/
def Re.SHADOW_STATE : Fld := { off := 0x40, lsb := 1, w := 3, rst := 0, ty := .ro }
/-- R338: VOTE_FIX. -/
def Re.VOTE_FIX : Fld := { off := 0x44, lsb := 0, w := 1, rst := 0, ty := .w1c, ev := true }
/-- R338: PROBE_FAIL. -/
def Re.PROBE_FAIL : Fld := { off := 0x44, lsb := 1, w := 1, rst := 0, ty := .w1c, ev := true }
/-- R338: PROBE_SHORT. -/
def Re.PROBE_SHORT : Fld := { off := 0x44, lsb := 2, w := 1, rst := 0, ty := .w1c, ev := true }
/-- R338: POISON_TRAP. -/
def Re.POISON_TRAP : Fld := { off := 0x44, lsb := 3, w := 1, rst := 0, ty := .w1c, ev := true }
/-- R338: SHADOW_FAIL. -/
def Re.SHADOW_FAIL : Fld := { off := 0x44, lsb := 4, w := 1, rst := 0, ty := .w1c, ev := true }
/-- R338: SHADOW_OVERRUN. -/
def Re.SHADOW_OVERRUN : Fld := { off := 0x44, lsb := 5, w := 1, rst := 0, ty := .w1c, ev := true }
/-- R338: CE_LIMIT_HIT. -/
def Re.CE_LIMIT_HIT : Fld := { off := 0x44, lsb := 6, w := 1, rst := 0, ty := .w1c, ev := true }
/-- R338: MARGIN_STEP. -/
def Re.MARGIN_STEP : Fld := { off := 0x44, lsb := 7, w := 1, rst := 0, ty := .w1c, ev := true }
/-- R338: PB_CE. -/
def Re.PB_CE : Fld := { off := 0x44, lsb := 8, w := 1, rst := 0, ty := .w1c, ev := true }
/-- R338: VOTE_CNT. -/
def Re.VOTE_CNT : Fld := { off := 0x48, lsb := 0, w := 16, rst := 0, ty := .ro, ev := true }
/-- R338: SUSPECT_CNT. -/
def Re.SUSPECT_CNT : Fld := { off := 0x48, lsb := 16, w := 16, rst := 0, ty := .ro, ev := true }
/-- R338: PROBE_ITEMS. -/
def Re.PROBE_ITEMS : Fld := { off := 0x4C, lsb := 0, w := 4, rst := 4, ty := .rw }
/-- R338: CE_LIMIT. -/
def Re.CE_LIMIT : Fld := { off := 0x4C, lsb := 4, w := 12, rst := 0x40, ty := .rw }
/-- R338: PROBE_PASSES. -/
def Re.PROBE_PASSES : Fld := { off := 0x50, lsb := 0, w := 32, rst := 0, ty := .ro }
/-- R338: FAIL_CORE. -/
def Re.FAIL_CORE : Fld := { off := 0x54, lsb := 0, w := 3, rst := 0, ty := .ro }
/-- R338: FAIL_ITEM. -/
def Re.FAIL_ITEM : Fld := { off := 0x54, lsb := 3, w := 9, rst := 0, ty := .ro }
/-- R338: VOUCHED_FC_LO. -/
def Re.VOUCHED_FC_LO : Fld := { off := 0x58, lsb := 0, w := 32, rst := 0, ty := .ro }
/-- R338: VOUCHED_FC_HI. -/
def Re.VOUCHED_FC_HI : Fld := { off := 0x5C, lsb := 0, w := 16, rst := 0, ty := .ro }
/-- R338: POISON_EGRESS. -/
def Re.POISON_EGRESS : Fld := { off := 0x60, lsb := 0, w := 8, rst := 0, ty := .rw }
/-- R338: BUDDY. -/
def Re.BUDDY : Fld := { off := 0x64, lsb := 0, w := 8, rst := 0xFF, ty := .rw }
/-- R338: MIRROR_PORT. -/
def Re.MIRROR_PORT : Fld := { off := 0x64, lsb := 8, w := 4, rst := 0xF, ty := .rw }
/-- R338: ENTER. -/
def Re.ENTER : Fld := { off := 0x64, lsb := 12, w := 1, rst := 0, ty := .rw }
/-- R338: ABORT. -/
def Re.ABORT : Fld := { off := 0x64, lsb := 13, w := 1, rst := 0, ty := .rw }
/-- R338: CLEAN_FRAMES. -/
def Re.CLEAN_FRAMES : Fld := { off := 0x68, lsb := 0, w := 13, rst := 0, ty := .ro }
/-- R338: END_REASON. -/
def Re.END_REASON : Fld := { off := 0x68, lsb := 13, w := 3, rst := 0, ty := .ro }
/-- R338: MISMATCH_FC. -/
def Re.MISMATCH_FC : Fld := { off := 0x6C, lsb := 0, w := 32, rst := 0, ty := .ro }
/-- Registers of the site reliability (R338) page. -/
def Re.regs : List RegDef :=
  [⟨Re.SUSPECT, 1, 4⟩, ⟨Re.SHADOW_STATE, 1, 4⟩, ⟨Re.VOTE_FIX, 1, 4⟩, ⟨Re.PROBE_FAIL, 1, 4⟩, ⟨Re.PROBE_SHORT, 1, 4⟩, ⟨Re.POISON_TRAP, 1, 4⟩] ++
  [⟨Re.SHADOW_FAIL, 1, 4⟩, ⟨Re.SHADOW_OVERRUN, 1, 4⟩, ⟨Re.CE_LIMIT_HIT, 1, 4⟩, ⟨Re.MARGIN_STEP, 1, 4⟩, ⟨Re.PB_CE, 1, 4⟩, ⟨Re.VOTE_CNT, 1, 4⟩] ++
  [⟨Re.SUSPECT_CNT, 1, 4⟩, ⟨Re.PROBE_ITEMS, 1, 4⟩, ⟨Re.CE_LIMIT, 1, 4⟩, ⟨Re.PROBE_PASSES, 1, 4⟩, ⟨Re.FAIL_CORE, 1, 4⟩, ⟨Re.FAIL_ITEM, 1, 4⟩] ++
  [⟨Re.VOUCHED_FC_LO, 1, 4⟩, ⟨Re.VOUCHED_FC_HI, 1, 4⟩, ⟨Re.POISON_EGRESS, 1, 4⟩, ⟨Re.BUDDY, 1, 4⟩, ⟨Re.MIRROR_PORT, 1, 4⟩, ⟨Re.ENTER, 1, 4⟩] ++
  [⟨Re.ABORT, 1, 4⟩, ⟨Re.CLEAN_FRAMES, 1, 4⟩, ⟨Re.END_REASON, 1, 4⟩, ⟨Re.MISMATCH_FC, 1, 4⟩]

/-! ### panel reliability (R339) -/
/-- R339: PANEL_ERR. -/
def Pr.PANEL_ERR : Fld := { off := 0x40, lsb := 0, w := 1, rst := 0, ty := .ro }
/-- R339: PANEL_ERR_CODE. -/
def Pr.PANEL_ERR_CODE : Fld := { off := 0x40, lsb := 1, w := 3, rst := 0, ty := .ro }
/-- R339: SRC_IS_HUB. -/
def Pr.SRC_IS_HUB : Fld := { off := 0x40, lsb := 4, w := 1, rst := 0, ty := .ro }
/-- R339: SRC_INDEX. -/
def Pr.SRC_INDEX : Fld := { off := 0x40, lsb := 5, w := 8, rst := 0, ty := .ro }
/-- R339: SUSPECT_REGIONS. -/
def Pr.SUSPECT_REGIONS : Fld := { off := 0x44, lsb := 0, w := 16, rst := 0, ty := .ro }
/-- R339: CFG_USE. -/
def Pr.CFG_USE : Fld := { off := 0x48, lsb := 0, w := 8, rst := 0, ty := .ro }
/-- Registers of the panel reliability (R339) page. -/
def Pr.regs : List RegDef :=
  [⟨Pr.PANEL_ERR, 1, 4⟩, ⟨Pr.PANEL_ERR_CODE, 1, 4⟩, ⟨Pr.SRC_IS_HUB, 1, 4⟩, ⟨Pr.SRC_INDEX, 1, 4⟩, ⟨Pr.SUSPECT_REGIONS, 1, 4⟩, ⟨Pr.CFG_USE, 1, 4⟩]

/-! ### budgets (R358) -/
/-- R358: BUD_SCRUB_SRAM. -/
def Bu.BUD_SCRUB_SRAM : Fld := { off := 0x40, lsb := 0, w := 16, rst := 0x200, ty := .rw, ba := true, cp := true }
/-- R358: COMPL. -/
def Bu.COMPL_40 : Fld := { off := 0x40, lsb := 16, w := 16, rst := 0xFDFF, ty := .rw }
/-- R358: BUD_SCRUB_WELL. -/
def Bu.BUD_SCRUB_WELL : Fld := { off := 0x44, lsb := 0, w := 16, rst := 0x100, ty := .rw, ba := true, cp := true }
/-- R358: COMPL. -/
def Bu.COMPL_44 : Fld := { off := 0x44, lsb := 16, w := 16, rst := 0xFEFF, ty := .rw }
/-- R358: BUD_RECAL. -/
def Bu.BUD_RECAL : Fld := { off := 0x48, lsb := 0, w := 16, rst := 4, ty := .rw, ba := true, cp := true }
/-- R358: COMPL. -/
def Bu.COMPL_48 : Fld := { off := 0x48, lsb := 16, w := 16, rst := 0xFFFB, ty := .rw }
/-- R358: BUD_TELEM. -/
def Bu.BUD_TELEM : Fld := { off := 0x4C, lsb := 0, w := 16, rst := 8, ty := .rw, ba := true, cp := true }
/-- R358: COMPL. -/
def Bu.COMPL_4C : Fld := { off := 0x4C, lsb := 16, w := 16, rst := 0xFFF7, ty := .rw }
/-- R358: BUD_SIDEBAND. -/
def Bu.BUD_SIDEBAND : Fld := { off := 0x50, lsb := 0, w := 16, rst := 0x20, ty := .rw, ba := true, cp := true }
/-- R358: COMPL. -/
def Bu.COMPL_50 : Fld := { off := 0x50, lsb := 16, w := 16, rst := 0xFFDF, ty := .rw }
/-- R358: BUD_COURIER. -/
def Bu.BUD_COURIER : Fld := { off := 0x54, lsb := 0, w := 16, rst := 0, ty := .rw, ba := true, cp := true }
/-- R358: COMPL. -/
def Bu.COMPL_54 : Fld := { off := 0x54, lsb := 16, w := 16, rst := 0xFFFF, ty := .rw }
/-- R358: BUD_HUB_h. -/
def Bu.BUD_HUB (k : Nat) : Fld := { off := 0x58 + 4 * k, lsb := 0, w := 16, rst := 0, ty := .rw, ba := true, cp := true }
/-- R358: COMPL. -/
def Bu.COMPL_58 (k : Nat) : Fld := { off := 0x58 + 4 * k, lsb := 16, w := 16, rst := 0xFFFF, ty := .rw }
/-- R358: USED_SCRUB_SRAM. -/
def Bu.USED_SCRUB_SRAM : Fld := { off := 0xA0, lsb := 0, w := 16, rst := 0, ty := .ro }
/-- R358: USED_SCRUB_WELL. -/
def Bu.USED_SCRUB_WELL : Fld := { off := 0xA0, lsb := 16, w := 16, rst := 0, ty := .ro }
/-- R358: USED_RECAL. -/
def Bu.USED_RECAL : Fld := { off := 0xA4, lsb := 0, w := 8, rst := 0, ty := .ro }
/-- R358: USED_TELEM. -/
def Bu.USED_TELEM : Fld := { off := 0xA4, lsb := 8, w := 8, rst := 0, ty := .ro }
/-- R358: USED_SIDEBAND. -/
def Bu.USED_SIDEBAND : Fld := { off := 0xA4, lsb := 16, w := 16, rst := 0, ty := .ro }
/-- R358: USED_COURIER. -/
def Bu.USED_COURIER : Fld := { off := 0xA8, lsb := 0, w := 32, rst := 0, ty := .ro }
/-- R358: BUD_HIT. -/
def Bu.BUD_HIT : Fld := { off := 0xAC, lsb := 0, w := 8, rst := 0, ty := .w1c, ev := true }
/-- R358: HUB_HIT. -/
def Bu.HUB_HIT : Fld := { off := 0xAC, lsb := 16, w := 16, rst := 0, ty := .w1c, ev := true }
/-- Registers of the budgets (R358) page. -/
def Bu.regs : List RegDef :=
  [⟨Bu.BUD_SCRUB_SRAM, 1, 4⟩, ⟨Bu.COMPL_40, 1, 4⟩, ⟨Bu.BUD_SCRUB_WELL, 1, 4⟩, ⟨Bu.COMPL_44, 1, 4⟩, ⟨Bu.BUD_RECAL, 1, 4⟩, ⟨Bu.COMPL_48, 1, 4⟩] ++
  [⟨Bu.BUD_TELEM, 1, 4⟩, ⟨Bu.COMPL_4C, 1, 4⟩, ⟨Bu.BUD_SIDEBAND, 1, 4⟩, ⟨Bu.COMPL_50, 1, 4⟩, ⟨Bu.BUD_COURIER, 1, 4⟩, ⟨Bu.COMPL_54, 1, 4⟩] ++
  [⟨Bu.BUD_HUB 0, 16, 4⟩, ⟨Bu.COMPL_58 0, 16, 4⟩, ⟨Bu.USED_SCRUB_SRAM, 1, 4⟩, ⟨Bu.USED_SCRUB_WELL, 1, 4⟩, ⟨Bu.USED_RECAL, 1, 4⟩, ⟨Bu.USED_TELEM, 1, 4⟩] ++
  [⟨Bu.USED_SIDEBAND, 1, 4⟩, ⟨Bu.USED_COURIER, 1, 4⟩, ⟨Bu.BUD_HIT, 1, 4⟩, ⟨Bu.HUB_HIT, 1, 4⟩]

/-! ### regions (R359) -/
/-- R359: RECT. -/
def Rg.RECT (k : Nat) : Fld := { off := 0x40 + 32 * k, lsb := 0, w := 16, rst := 0, ty := .ro }
/-- R359: RECT_COMPL. -/
def Rg.RECT_COMPL (k : Nat) : Fld := { off := 0x40 + 32 * k, lsb := 16, w := 16, rst := 0xFFFF, ty := .ro }
/-- R359: TENANT. -/
def Rg.TENANT (k : Nat) : Fld := { off := 0x44 + 32 * k, lsb := 0, w := 16, rst := 0, ty := .ro }
/-- R359: TENANT_COMPL. -/
def Rg.TENANT_COMPL (k : Nat) : Fld := { off := 0x44 + 32 * k, lsb := 16, w := 16, rst := 0xFFFF, ty := .ro }
/-- R359: PEND_RECT. -/
def Rg.PEND_RECT (k : Nat) : Fld := { off := 0x48 + 32 * k, lsb := 0, w := 16, rst := 0, ty := .rw, cp := true }
/-- R359: COMPL. -/
def Rg.COMPL_48 (k : Nat) : Fld := { off := 0x48 + 32 * k, lsb := 16, w := 16, rst := 0xFFFF, ty := .rw }
/-- R359: PEND_TENANT. -/
def Rg.PEND_TENANT (k : Nat) : Fld := { off := 0x4C + 32 * k, lsb := 0, w := 16, rst := 0, ty := .rw, cp := true }
/-- R359: COMPL. -/
def Rg.COMPL_4C (k : Nat) : Fld := { off := 0x4C + 32 * k, lsb := 16, w := 16, rst := 0xFFFF, ty := .rw }
/-- R359: PEND_VALID. -/
def Rg.PEND_VALID (k : Nat) : Fld := { off := 0x50 + 32 * k, lsb := 0, w := 1, rst := 0, ty := .rw, cp := true }
/-- R359: WELL_KEEP. -/
def Rg.WELL_KEEP (k : Nat) : Fld := { off := 0x50 + 32 * k, lsb := 1, w := 1, rst := 0, ty := .rw, cp := true }
/-- R359: PEND_FL_CODE. -/
def Rg.PEND_FL_CODE (k : Nat) : Fld := { off := 0x50 + 32 * k, lsb := 2, w := 3, rst := 2, ty := .rw, cp := true }
/-- R359: PEND_SL. -/
def Rg.PEND_SL (k : Nat) : Fld := { off := 0x50 + 32 * k, lsb := 5, w := 7, rst := 0xA, ty := .rw, cp := true }
/-- R359: COMPL. -/
def Rg.COMPL_50 (k : Nat) : Fld := { off := 0x50 + 32 * k, lsb := 16, w := 16, rst := 0xFEB7, ty := .rw }
/-- R359: STATE. -/
def Rg.STATE (k : Nat) : Fld := { off := 0x54 + 32 * k, lsb := 0, w := 3, rst := 0, ty := .ro }
/-- R359: CLEAR_DONE. -/
def Rg.CLEAR_DONE (k : Nat) : Fld := { off := 0x54 + 32 * k, lsb := 3, w := 1, rst := 0, ty := .ro }
/-- R359: ASSIGN_ERR. -/
def Rg.ASSIGN_ERR (k : Nat) : Fld := { off := 0x54 + 32 * k, lsb := 4, w := 4, rst := 0, ty := .ro }
/-- R359: ASSIGN_GO. -/
def Rg.ASSIGN_GO (k : Nat) : Fld := { off := 0x58 + 32 * k, lsb := 0, w := 1, rst := 0, ty := .rw }
/-- Registers of the regions (R359) page. -/
def Rg.regs : List RegDef :=
  [⟨Rg.RECT 0, 16, 32⟩, ⟨Rg.RECT_COMPL 0, 16, 32⟩, ⟨Rg.TENANT 0, 16, 32⟩, ⟨Rg.TENANT_COMPL 0, 16, 32⟩, ⟨Rg.PEND_RECT 0, 16, 32⟩, ⟨Rg.COMPL_48 0, 16, 32⟩] ++
  [⟨Rg.PEND_TENANT 0, 16, 32⟩, ⟨Rg.COMPL_4C 0, 16, 32⟩, ⟨Rg.PEND_VALID 0, 16, 32⟩, ⟨Rg.WELL_KEEP 0, 16, 32⟩, ⟨Rg.PEND_FL_CODE 0, 16, 32⟩, ⟨Rg.PEND_SL 0, 16, 32⟩] ++
  [⟨Rg.COMPL_50 0, 16, 32⟩, ⟨Rg.STATE 0, 16, 32⟩, ⟨Rg.CLEAR_DONE 0, 16, 32⟩, ⟨Rg.ASSIGN_ERR 0, 16, 32⟩, ⟨Rg.ASSIGN_GO 0, 16, 32⟩]

/-! ### identity (R377) -/
/-- R377: PART. -/
def Id.PART : Fld := { off := 0x40, lsb := 0, w := 4, rst := 1, ty := .ro }
/-- R377: STEPPING. -/
def Id.STEPPING : Fld := { off := 0x40, lsb := 4, w := 4, rst := 0xB, ty := .ro }
/-- R377: PANEL_ID. -/
def Id.PANEL_ID : Fld := { off := 0x44, lsb := 0, w := 12, rst := 0, ty := .rw }
/-- R377: ID_VALID. -/
def Id.ID_VALID : Fld := { off := 0x44, lsb := 12, w := 1, rst := 0, ty := .rw }
/-- R377: BUSERR_CNT. -/
def Id.BUSERR_CNT : Fld := { off := 0x48, lsb := 0, w := 16, rst := 0, ty := .ro, ev := true }
/-- R377: PF_INT_EN. -/
def Id.PF_INT_EN : Fld := { off := 0x4C, lsb := 0, w := 16, rst := 0, ty := .wm }
/-- R377: PANEL_ERR. -/
def Id.PANEL_ERR : Fld := { off := 0x50, lsb := 0, w := 1, rst := 0, ty := .w1c, ev := true }
/-- R377: BRINGUP. -/
def Id.BRINGUP : Fld := { off := 0x50, lsb := 1, w := 1, rst := 0, ty := .w1c, ev := true }
/-- R377: FRAME_REQ. -/
def Id.FRAME_REQ : Fld := { off := 0x50, lsb := 2, w := 1, rst := 0, ty := .w1c, ev := true }
/-- R377: DRAIN. -/
def Id.DRAIN : Fld := { off := 0x50, lsb := 3, w := 1, rst := 0, ty := .w1c, ev := true }
/-- R377: BUS_ERR. -/
def Id.BUS_ERR : Fld := { off := 0x50, lsb := 4, w := 1, rst := 0, ty := .w1c, ev := true }
/-- R377: THERMAL. -/
def Id.THERMAL : Fld := { off := 0x50, lsb := 5, w := 1, rst := 0, ty := .w1c, ev := true }
/-- R377: TWIN. -/
def Id.TWIN : Fld := { off := 0x50, lsb := 6, w := 1, rst := 0, ty := .w1c, ev := true }
/-- R377: REGION_FAULT. -/
def Id.REGION_FAULT : Fld := { off := 0x50, lsb := 7, w := 1, rst := 0, ty := .w1c, ev := true }
/-- R377: PF_INT_HUB. -/
def Id.PF_INT_HUB : Fld := { off := 0x54, lsb := 0, w := 4, rst := 0, ty := .rw }
/-- Registers of the identity (R377) page. -/
def Id.regs : List RegDef :=
  [⟨Id.PART, 1, 4⟩, ⟨Id.STEPPING, 1, 4⟩, ⟨Id.PANEL_ID, 1, 4⟩, ⟨Id.ID_VALID, 1, 4⟩, ⟨Id.BUSERR_CNT, 1, 4⟩, ⟨Id.PF_INT_EN, 1, 4⟩] ++
  [⟨Id.PANEL_ERR, 1, 4⟩, ⟨Id.BRINGUP, 1, 4⟩, ⟨Id.FRAME_REQ, 1, 4⟩, ⟨Id.DRAIN, 1, 4⟩, ⟨Id.BUS_ERR, 1, 4⟩, ⟨Id.THERMAL, 1, 4⟩] ++
  [⟨Id.TWIN, 1, 4⟩, ⟨Id.REGION_FAULT, 1, 4⟩, ⟨Id.PF_INT_HUB, 1, 4⟩]

/-! ### bring-up (R378) -/
/-- R378: STEP. -/
def Br.STEP : Fld := { off := 0x40, lsb := 0, w := 4, rst := 0, ty := .rw }
/-- R378: CUR_STEP. -/
def Br.CUR_STEP : Fld := { off := 0x44, lsb := 0, w := 4, rst := 0, ty := .ro }
/-- R378: STATE. -/
def Br.STATE : Fld := { off := 0x44, lsb := 4, w := 2, rst := 0, ty := .ro }
/-- R378: FAIL_CODE. -/
def Br.FAIL_CODE : Fld := { off := 0x44, lsb := 8, w := 8, rst := 0, ty := .ro }
/-- R378: ATTEMPT. -/
def Br.ATTEMPT : Fld := { off := 0x44, lsb := 16, w := 8, rst := 0, ty := .ro }
/-- R378: DONE_MASK. -/
def Br.DONE_MASK : Fld := { off := 0x48, lsb := 1, w := 12, rst := 0, ty := .ro }
/-- R378: ELAPSED. -/
def Br.ELAPSED : Fld := { off := 0x4C, lsb := 0, w := 32, rst := 0, ty := .ro }
/-- Registers of the bring-up (R378) page. -/
def Br.regs : List RegDef :=
  [⟨Br.STEP, 1, 4⟩, ⟨Br.CUR_STEP, 1, 4⟩, ⟨Br.STATE, 1, 4⟩, ⟨Br.FAIL_CODE, 1, 4⟩, ⟨Br.ATTEMPT, 1, 4⟩, ⟨Br.DONE_MASK, 1, 4⟩] ++
  [⟨Br.ELAPSED, 1, 4⟩]

/-- R390: FAILED_w. -/
def Br.FAILED (k : Nat) : Fld := { off := 0x10000 + 1 * k, lsb := 0, w := 32, rst := 0, ty := .ro, ix := true }
/-- IX entries of the bring-up page (R374). -/
def Br.ixs : List RegDef := [⟨Br.FAILED 0, 8, 1⟩]

/-! ### map and remap (R379, R401) -/
/-- R379: MAP_CLASS. -/
def Ma.MAP_CLASS : Fld := { off := 0x40, lsb := 0, w := 2, rst := 3, ty := .ro }
/-- R379: W. -/
def Ma.W : Fld := { off := 0x40, lsb := 2, w := 4, rst := 0, ty := .ro }
/-- R379: LOG_SITES. -/
def Ma.LOG_SITES : Fld := { off := 0x40, lsb := 6, w := 8, rst := 0, ty := .ro }
/-- R379: MAP_SEQ. -/
def Ma.MAP_SEQ : Fld := { off := 0x44, lsb := 0, w := 32, rst := 0, ty := .ro }
/-- R379: RETIRED. -/
def Ma.RETIRED (k : Nat) : Fld := { off := 0x10000 + 1 * k, lsb := 0, w := 16, rst := 0, ty := .ro, ix := true }
/-- R379: SPARE_X. -/
def Ma.SPARE_X (k : Nat) : Fld := { off := 0x10000 + 1 * k, lsb := 16, w := 4, rst := 0xF, ty := .ro, ix := true }
/-- R379: SPARE2_X. -/
def Ma.SPARE2_X (k : Nat) : Fld := { off := 0x10000 + 1 * k, lsb := 20, w := 4, rst := 0, ty := .ro, ix := true }
/-- R379: SPARE2_VALID. -/
def Ma.SPARE2_VALID (k : Nat) : Fld := { off := 0x10000 + 1 * k, lsb := 24, w := 1, rst := 0, ty := .ro, ix := true }
/-- R401: KIND. -/
def Ma.KIND : Fld := { off := 0x60, lsb := 0, w := 2, rst := 0, ty := .rw }
/-- R401: SITE. -/
def Ma.SITE : Fld := { off := 0x60, lsb := 2, w := 8, rst := 0, ty := .rw }
/-- R401: GO. -/
def Ma.GO : Fld := { off := 0x60, lsb := 10, w := 1, rst := 0, ty := .rw }
/-- R401: COMMIT. -/
def Ma.COMMIT : Fld := { off := 0x60, lsb := 11, w := 1, rst := 0, ty := .rw }
/-- R401: CANCEL. -/
def Ma.CANCEL : Fld := { off := 0x60, lsb := 12, w := 1, rst := 0, ty := .rw }
/-- R401: RM_STATE. -/
def Ma.RM_STATE : Fld := { off := 0x64, lsb := 0, w := 3, rst := 0, ty := .ro }
/-- R401: RM_CODE. -/
def Ma.RM_CODE : Fld := { off := 0x64, lsb := 8, w := 4, rst := 0, ty := .ro }
/-- R401: RM_REGIONS. -/
def Ma.RM_REGIONS : Fld := { off := 0x64, lsb := 12, w := 16, rst := 0, ty := .ro }
/-- R401: RM_IN. -/
def Ma.RM_IN : Fld := { off := 0x68, lsb := 0, w := 8, rst := 0xFF, ty := .ro }
/-- R401: RM_SEQ. -/
def Ma.RM_SEQ : Fld := { off := 0x6C, lsb := 0, w := 32, rst := 0, ty := .ro }
/-- R401: PROP_ROW_y. -/
def Ma.PROP_ROW (k : Nat) : Fld := { off := 0x20000 + 1 * k, lsb := 0, w := 32, rst := 0, ty := .ro, ix := true }
/-- R401: MOVED_y. -/
def Ma.MOVED (k : Nat) : Fld := { off := 0x30000 + 1 * k, lsb := 0, w := 16, rst := 0, ty := .ro, ix := true }
/-- Registers of the map and remap (R379, R401) page. -/
def Ma.regs : List RegDef :=
  [⟨Ma.MAP_CLASS, 1, 4⟩, ⟨Ma.W, 1, 4⟩, ⟨Ma.LOG_SITES, 1, 4⟩, ⟨Ma.MAP_SEQ, 1, 4⟩, ⟨Ma.KIND, 1, 4⟩, ⟨Ma.SITE, 1, 4⟩] ++
  [⟨Ma.GO, 1, 4⟩, ⟨Ma.COMMIT, 1, 4⟩, ⟨Ma.CANCEL, 1, 4⟩, ⟨Ma.RM_STATE, 1, 4⟩, ⟨Ma.RM_CODE, 1, 4⟩, ⟨Ma.RM_REGIONS, 1, 4⟩] ++
  [⟨Ma.RM_IN, 1, 4⟩, ⟨Ma.RM_SEQ, 1, 4⟩]
/-- IX entries of the map and remap (R379, R401) page (R374). -/
def Ma.ixs : List RegDef :=
  [⟨Ma.RETIRED 0, 16, 1⟩, ⟨Ma.SPARE_X 0, 16, 1⟩, ⟨Ma.SPARE2_X 0, 16, 1⟩, ⟨Ma.SPARE2_VALID 0, 16, 1⟩, ⟨Ma.PROP_ROW 0, 16, 1⟩, ⟨Ma.MOVED 0, 16, 1⟩]

/-! ### frame requests (R380) -/
/-- R380: REGION. -/
def Fr.REGION : Fld := { off := 0x40, lsb := 0, w := 4, rst := 0, ty := .rw }
/-- R380: ACTIONS. -/
def Fr.ACTIONS : Fld := { off := 0x40, lsb := 4, w := 6, rst := 0, ty := .rw }
/-- R380: FSTATE. -/
def Fr.FSTATE : Fld := { off := 0x40, lsb := 10, w := 2, rst := 0, ty := .rw }
/-- R380: FR_TARGET_LO. -/
def Fr.FR_TARGET_LO : Fld := { off := 0x44, lsb := 0, w := 32, rst := 0, ty := .rw }
/-- R380: FR_TARGET_HI. -/
def Fr.FR_TARGET_HI : Fld := { off := 0x48, lsb := 0, w := 16, rst := 0, ty := .rw }
/-- R380: FR_CFG. -/
def Fr.FR_CFG : Fld := { off := 0x4C, lsb := 0, w := 16, rst := 0x52, ty := .rw, cp := true }
/-- R380: CFG_COMPL. -/
def Fr.CFG_COMPL : Fld := { off := 0x4C, lsb := 16, w := 16, rst := 0xFFAD, ty := .rw }
/-- R380: FR_GO. -/
def Fr.FR_GO : Fld := { off := 0x50, lsb := 0, w := 1, rst := 0, ty := .rw }
/-- R380: BUSY. -/
def Fr.BUSY : Fld := { off := 0x54, lsb := 0, w := 1, rst := 0, ty := .ro }
/-- R380: RESULT. -/
def Fr.RESULT : Fld := { off := 0x54, lsb := 1, w := 3, rst := 0, ty := .ro }
/-- R380: SLOT. -/
def Fr.SLOT : Fld := { off := 0x54, lsb := 4, w := 2, rst := 0, ty := .ro }
/-- R380: SLOT_TARGET_LO. -/
def Fr.SLOT_TARGET_LO (k : Nat) : Fld := { off := 0x20000 + 2 * k, lsb := 0, w := 32, rst := 0, ty := .ro, ix := true }
/-- R380: SLOT_TARGET_HI. -/
def Fr.SLOT_TARGET_HI (k : Nat) : Fld := { off := 0x20001 + 2 * k, lsb := 0, w := 16, rst := 0, ty := .ro, ix := true }
/-- R380: SLOT_ACTIONS. -/
def Fr.SLOT_ACTIONS (k : Nat) : Fld := { off := 0x20001 + 2 * k, lsb := 16, w := 6, rst := 0, ty := .ro, ix := true }
/-- R380: SLOT_FSTATE. -/
def Fr.SLOT_FSTATE (k : Nat) : Fld := { off := 0x20001 + 2 * k, lsb := 22, w := 2, rst := 0, ty := .ro, ix := true }
/-- R380: SLOT_STATE. -/
def Fr.SLOT_STATE (k : Nat) : Fld := { off := 0x20001 + 2 * k, lsb := 24, w := 3, rst := 0, ty := .ro, ix := true }
/-- Registers of the frame requests (R380) page. -/
def Fr.regs : List RegDef :=
  [⟨Fr.REGION, 1, 4⟩, ⟨Fr.ACTIONS, 1, 4⟩, ⟨Fr.FSTATE, 1, 4⟩, ⟨Fr.FR_TARGET_LO, 1, 4⟩, ⟨Fr.FR_TARGET_HI, 1, 4⟩, ⟨Fr.FR_CFG, 1, 4⟩] ++
  [⟨Fr.CFG_COMPL, 1, 4⟩, ⟨Fr.FR_GO, 1, 4⟩, ⟨Fr.BUSY, 1, 4⟩, ⟨Fr.RESULT, 1, 4⟩, ⟨Fr.SLOT, 1, 4⟩]
/-- IX entries of the frame requests (R380) page (R374). -/
def Fr.ixs : List RegDef :=
  [⟨Fr.SLOT_TARGET_LO 0, 64, 2⟩, ⟨Fr.SLOT_TARGET_HI 0, 64, 2⟩, ⟨Fr.SLOT_ACTIONS 0, 64, 2⟩, ⟨Fr.SLOT_FSTATE 0, 64, 2⟩, ⟨Fr.SLOT_STATE 0, 64, 2⟩]

/-! ### drain (R381) -/
/-- R381: DRAIN. -/
def Dr.DRAIN (k : Nat) : Fld := { off := 0x40 + 16 * k, lsb := 0, w := 1, rst := 0, ty := .rw }
/-- R381: SWAP. -/
def Dr.SWAP (k : Nat) : Fld := { off := 0x40 + 16 * k, lsb := 1, w := 1, rst := 0, ty := .rw }
/-- R381: ABORT. -/
def Dr.ABORT (k : Nat) : Fld := { off := 0x40 + 16 * k, lsb := 2, w := 1, rst := 0, ty := .rw }
/-- R381: DRAINING. -/
def Dr.DRAINING (k : Nat) : Fld := { off := 0x44 + 16 * k, lsb := 0, w := 1, rst := 0, ty := .ro }
/-- R381: DRAIN_DONE. -/
def Dr.DRAIN_DONE (k : Nat) : Fld := { off := 0x44 + 16 * k, lsb := 1, w := 1, rst := 0, ty := .ro }
/-- R381: DRAIN_TIMEOUT. -/
def Dr.DRAIN_TIMEOUT (k : Nat) : Fld := { off := 0x44 + 16 * k, lsb := 2, w := 1, rst := 0, ty := .w1c, ev := true }
/-- R381: SWAPPED. -/
def Dr.SWAPPED (k : Nat) : Fld := { off := 0x44 + 16 * k, lsb := 3, w := 1, rst := 0, ty := .w1c, ev := true }
/-- R381: DRAIN_LIMIT. -/
def Dr.DRAIN_LIMIT (k : Nat) : Fld := { off := 0x48 + 16 * k, lsb := 0, w := 16, rst := 0x14, ty := .rw }
/-- Registers of the drain (R381) page. -/
def Dr.regs : List RegDef :=
  [⟨Dr.DRAIN 0, 16, 16⟩, ⟨Dr.SWAP 0, 16, 16⟩, ⟨Dr.ABORT 0, 16, 16⟩, ⟨Dr.DRAINING 0, 16, 16⟩, ⟨Dr.DRAIN_DONE 0, 16, 16⟩, ⟨Dr.DRAIN_TIMEOUT 0, 16, 16⟩] ++
  [⟨Dr.SWAPPED 0, 16, 16⟩, ⟨Dr.DRAIN_LIMIT 0, 16, 16⟩, ⟨{ off := 0x4C, lsb := 0, w := 32, rst := 0, ty := .ro }, 16, 16⟩]

/-! ### queues (R382) -/
/-- R382: BASE_LO. -/
def Qu.BASE_LO (k : Nat) : Fld := { off := 0x100 + 4 * k, lsb := 0, w := 32, rst := 0, ty := .rw, ix := true }
/-- R382: BASE_HI. -/
def Qu.BASE_HI (k : Nat) : Fld := { off := 0x101 + 4 * k, lsb := 0, w := 32, rst := 0, ty := .rw, ix := true }
/-- R382: LOG2_N. -/
def Qu.LOG2_N (k : Nat) : Fld := { off := 0x102 + 4 * k, lsb := 0, w := 5, rst := 4, ty := .rw, ix := true }
/-- R382: OWNER. -/
def Qu.OWNER (k : Nat) : Fld := { off := 0x102 + 4 * k, lsb := 5, w := 4, rst := 0, ty := .rw, ix := true }
/-- R382: ENABLE. -/
def Qu.ENABLE (k : Nat) : Fld := { off := 0x102 + 4 * k, lsb := 9, w := 1, rst := 0, ty := .rw, ix := true }
/-- R382: HOST. -/
def Qu.HOST (k : Nat) : Fld := { off := 0x102 + 4 * k, lsb := 10, w := 1, rst := 0, ty := .rw, ix := true }
/-- R382: INT_EN. -/
def Qu.INT_EN (k : Nat) : Fld := { off := 0x102 + 4 * k, lsb := 11, w := 1, rst := 0, ty := .rw, ix := true }
/-- R382: INT_VEC. -/
def Qu.INT_VEC (k : Nat) : Fld := { off := 0x102 + 4 * k, lsb := 12, w := 4, rst := 0, ty := .rw, ix := true }
/-- R382: INT_HUB. -/
def Qu.INT_HUB (k : Nat) : Fld := { off := 0x102 + 4 * k, lsb := 16, w := 4, rst := 0, ty := .rw, ix := true }
/-- R382: HEAD. -/
def Qu.HEAD (k : Nat) : Fld := { off := 0x103 + 4 * k, lsb := 0, w := 16, rst := 0, ty := .ro, ix := true }
/-- R382: TAIL. -/
def Qu.TAIL (k : Nat) : Fld := { off := 0x103 + 4 * k, lsb := 16, w := 16, rst := 0, ty := .rw, ix := true }
/-- R382: EVQ_DROP_r. -/
def Qu.EVQ_DROP (k : Nat) : Fld := { off := 0x40 + 4 * k, lsb := 0, w := 16, rst := 0, ty := .ro }
/-- Registers of the queues (R382) page. -/
def Qu.regs : List RegDef :=
  [⟨Qu.EVQ_DROP 0, 16, 4⟩]
/-- IX entries of the queues (R382) page (R374). -/
def Qu.ixs : List RegDef :=
  [⟨Qu.BASE_LO 0, 16, 4⟩, ⟨Qu.BASE_HI 0, 16, 4⟩, ⟨Qu.LOG2_N 0, 16, 4⟩, ⟨Qu.OWNER 0, 16, 4⟩, ⟨Qu.ENABLE 0, 16, 4⟩, ⟨Qu.HOST 0, 16, 4⟩] ++
  [⟨Qu.INT_EN 0, 16, 4⟩, ⟨Qu.INT_VEC 0, 16, 4⟩, ⟨Qu.INT_HUB 0, 16, 4⟩, ⟨Qu.HEAD 0, 16, 4⟩, ⟨Qu.TAIL 0, 16, 4⟩]

/-! ### licences (R400) -/
/-- R400: EFF_REGIONS. -/
def Li.EFF_REGIONS : Fld := { off := 0x40, lsb := 0, w := 5, rst := 1, ty := .ro, cp := true }
/-- R400: EFF_HOST. -/
def Li.EFF_HOST : Fld := { off := 0x40, lsb := 5, w := 3, rst := 1, ty := .ro, cp := true }
/-- R400: EFF_DEEP. -/
def Li.EFF_DEEP : Fld := { off := 0x40, lsb := 8, w := 4, rst := 0, ty := .ro, cp := true }
/-- R400: EFF_FEATURES. -/
def Li.EFF_FEATURES : Fld := { off := 0x40, lsb := 12, w := 2, rst := 0, ty := .ro, cp := true }
/-- R400: EFF_COMPL. -/
def Li.EFF_COMPL : Fld := { off := 0x40, lsb := 16, w := 16, rst := 0xFFDE, ty := .ro }
/-- R400: EFF_FABRIC. -/
def Li.EFF_FABRIC : Fld := { off := 0x44, lsb := 0, w := 7, rst := 0x10, ty := .ro, cp := true }
/-- R400: FAB_COMPL. -/
def Li.FAB_COMPL : Fld := { off := 0x44, lsb := 16, w := 16, rst := 0xFFEF, ty := .ro }
/-- R400: SLOT_USED. -/
def Li.SLOT_USED : Fld := { off := 0x48, lsb := 0, w := 8, rst := 0, ty := .ro }
/-- R400: SLOT_VALID. -/
def Li.SLOT_VALID : Fld := { off := 0x48, lsb := 8, w := 8, rst := 0, ty := .ro }
/-- R400: LAST_SLOT. -/
def Li.LAST_SLOT : Fld := { off := 0x48, lsb := 16, w := 3, rst := 0, ty := .ro }
/-- R400: INSTALL_RESULT. -/
def Li.INSTALL_RESULT : Fld := { off := 0x48, lsb := 19, w := 4, rst := 0, ty := .ro }
/-- R400: BUSY. -/
def Li.BUSY : Fld := { off := 0x48, lsb := 23, w := 1, rst := 0, ty := .ro }
/-- R400: INSTALL. -/
def Li.INSTALL : Fld := { off := 0x4C, lsb := 0, w := 1, rst := 0, ty := .rw }
/-- R400: REMOVE. -/
def Li.REMOVE : Fld := { off := 0x4C, lsb := 1, w := 1, rst := 0, ty := .rw }
/-- R400: SLOT. -/
def Li.SLOT : Fld := { off := 0x4C, lsb := 2, w := 3, rst := 0, ty := .rw }
/-- R400: EXPIRED. -/
def Li.EXPIRED : Fld := { off := 0x50, lsb := 0, w := 1, rst := 0, ty := .w1c, ev := true }
/-- R400: REDUCED. -/
def Li.REDUCED : Fld := { off := 0x50, lsb := 1, w := 1, rst := 0, ty := .w1c, ev := true }
/-- R400: HELD_PORT. -/
def Li.HELD_PORT : Fld := { off := 0x50, lsb := 2, w := 1, rst := 0, ty := .w1c, ev := true }
/-- R400: STAGE_w. -/
def Li.STAGE (k : Nat) : Fld := { off := 0x10000 + 1 * k, lsb := 0, w := 32, rst := 0, ty := .rw, ix := true }
/-- R400: SLOT_s_w. -/
def Li.SLOT_W (k : Nat) : Fld := { off := 0x20000 + 1 * k, lsb := 0, w := 32, rst := 0, ty := .ro, ix := true }
/-- Registers of the licences (R400) page. -/
def Li.regs : List RegDef :=
  [⟨Li.EFF_REGIONS, 1, 4⟩, ⟨Li.EFF_HOST, 1, 4⟩, ⟨Li.EFF_DEEP, 1, 4⟩, ⟨Li.EFF_FEATURES, 1, 4⟩, ⟨Li.EFF_COMPL, 1, 4⟩, ⟨Li.EFF_FABRIC, 1, 4⟩] ++
  [⟨Li.FAB_COMPL, 1, 4⟩, ⟨Li.SLOT_USED, 1, 4⟩, ⟨Li.SLOT_VALID, 1, 4⟩, ⟨Li.LAST_SLOT, 1, 4⟩, ⟨Li.INSTALL_RESULT, 1, 4⟩, ⟨Li.BUSY, 1, 4⟩] ++
  [⟨Li.INSTALL, 1, 4⟩, ⟨Li.REMOVE, 1, 4⟩, ⟨Li.SLOT, 1, 4⟩, ⟨Li.EXPIRED, 1, 4⟩, ⟨Li.REDUCED, 1, 4⟩, ⟨Li.HELD_PORT, 1, 4⟩]
/-- IX entries of the licences (R400) page (R374). -/
def Li.ixs : List RegDef :=
  [⟨Li.STAGE 0, 40, 1⟩, ⟨Li.SLOT_W 0, 40, 1⟩, ⟨Li.SLOT_W 64, 40, 1⟩, ⟨Li.SLOT_W 128, 40, 1⟩] ++
  [⟨Li.SLOT_W 192, 40, 1⟩, ⟨Li.SLOT_W 256, 40, 1⟩, ⟨Li.SLOT_W 320, 40, 1⟩, ⟨Li.SLOT_W 384, 40, 1⟩, ⟨Li.SLOT_W 448, 40, 1⟩]

/-! ### time (R413) -/
/-- R413: TIME_VALID. -/
def Ti.TIME_VALID : Fld := { off := 0x40, lsb := 0, w := 1, rst := 0, ty := .ro }
/-- R413: SET_BY. -/
def Ti.SET_BY : Fld := { off := 0x40, lsb := 1, w := 1, rst := 0, ty := .ro }
/-- R413: CAL_RANGE. -/
def Ti.CAL_RANGE : Fld := { off := 0x40, lsb := 2, w := 1, rst := 0, ty := .ro }
/-- R413: ROOT_LOCKED. -/
def Ti.ROOT_LOCKED : Fld := { off := 0x40, lsb := 3, w := 1, rst := 0, ty := .ro }
/-- R413: REF_OK. -/
def Ti.REF_OK : Fld := { off := 0x40, lsb := 4, w := 1, rst := 0, ty := .ro }
/-- R413: DATE_INVALID. -/
def Ti.DATE_INVALID : Fld := { off := 0x44, lsb := 0, w := 1, rst := 0, ty := .w1c, ev := true }
/-- R413: SET_REFUSED. -/
def Ti.SET_REFUSED : Fld := { off := 0x44, lsb := 1, w := 1, rst := 0, ty := .w1c, ev := true }
/-- R413: ROOT_FAULT. -/
def Ti.ROOT_FAULT : Fld := { off := 0x44, lsb := 2, w := 1, rst := 0, ty := .w1c, ev := true }
/-- R413: SET_LO. -/
def Ti.SET_LO : Fld := { off := 0x48, lsb := 0, w := 32, rst := 0, ty := .rw }
/-- R413: SET_HI. -/
def Ti.SET_HI : Fld := { off := 0x4C, lsb := 0, w := 32, rst := 0, ty := .rw }
/-- R413: SET_GO. -/
def Ti.SET_GO : Fld := { off := 0x50, lsb := 0, w := 1, rst := 0, ty := .rw }
/-- R413: CAL_GO. -/
def Ti.CAL_GO : Fld := { off := 0x50, lsb := 1, w := 1, rst := 0, ty := .rw }
/-- R413: YEAR. -/
def Ti.YEAR : Fld := { off := 0x54, lsb := 0, w := 12, rst := 0x7D0, ty := .rw }
/-- R413: MONTH. -/
def Ti.MONTH : Fld := { off := 0x54, lsb := 12, w := 4, rst := 1, ty := .rw }
/-- R413: DAY. -/
def Ti.DAY : Fld := { off := 0x54, lsb := 16, w := 5, rst := 1, ty := .rw }
/-- R413: HOUR. -/
def Ti.HOUR : Fld := { off := 0x58, lsb := 0, w := 5, rst := 0, ty := .rw }
/-- R413: MINUTE. -/
def Ti.MINUTE : Fld := { off := 0x58, lsb := 5, w := 6, rst := 0, ty := .rw }
/-- R413: SECOND. -/
def Ti.SECOND : Fld := { off := 0x58, lsb := 11, w := 6, rst := 0, ty := .rw }
/-- R413: TIME_SET_CNT. -/
def Ti.TIME_SET_CNT : Fld := { off := 0x5C, lsb := 0, w := 16, rst := 0, ty := .ro, ev := true }
/-- R413: HOLDOVER_CNT. -/
def Ti.HOLDOVER_CNT : Fld := { off := 0x5C, lsb := 16, w := 16, rst := 0, ty := .ro, ev := true }
/-- Registers of the time (R413) page. -/
def Ti.regs : List RegDef :=
  [⟨Ti.TIME_VALID, 1, 4⟩, ⟨Ti.SET_BY, 1, 4⟩, ⟨Ti.CAL_RANGE, 1, 4⟩, ⟨Ti.ROOT_LOCKED, 1, 4⟩, ⟨Ti.REF_OK, 1, 4⟩, ⟨Ti.DATE_INVALID, 1, 4⟩] ++
  [⟨Ti.SET_REFUSED, 1, 4⟩, ⟨Ti.ROOT_FAULT, 1, 4⟩, ⟨Ti.SET_LO, 1, 4⟩, ⟨Ti.SET_HI, 1, 4⟩, ⟨Ti.SET_GO, 1, 4⟩, ⟨Ti.CAL_GO, 1, 4⟩] ++
  [⟨Ti.YEAR, 1, 4⟩, ⟨Ti.MONTH, 1, 4⟩, ⟨Ti.DAY, 1, 4⟩, ⟨Ti.HOUR, 1, 4⟩, ⟨Ti.MINUTE, 1, 4⟩, ⟨Ti.SECOND, 1, 4⟩] ++
  [⟨Ti.TIME_SET_CNT, 1, 4⟩, ⟨Ti.HOLDOVER_CNT, 1, 4⟩]

/-! ### event log (R417) -/
/-- R417: LOG_NEXT_SEQ. -/
def Lo.LOG_NEXT_SEQ : Fld := { off := 0x40, lsb := 0, w := 32, rst := 0, ty := .ro }
/-- R417: LOG_OLDEST_SEQ. -/
def Lo.LOG_OLDEST_SEQ : Fld := { off := 0x44, lsb := 0, w := 32, rst := 0, ty := .ro }
/-- R417: LOG_FLASHED_SEQ. -/
def Lo.LOG_FLASHED_SEQ : Fld := { off := 0x48, lsb := 0, w := 32, rst := 0, ty := .ro }
/-- R417: LOG_RD_SEQ. -/
def Lo.LOG_RD_SEQ : Fld := { off := 0x4C, lsb := 0, w := 32, rst := 0, ty := .rw }
/-- R417: LOG_DROP_CNT. -/
def Lo.LOG_DROP_CNT : Fld := { off := 0x50, lsb := 0, w := 16, rst := 0, ty := .ro, ev := true }
/-- R417: DROP. -/
def Lo.DROP : Fld := { off := 0x54, lsb := 0, w := 1, rst := 0, ty := .w1c, ev := true }
/-- R417: FLASH_FAIL. -/
def Lo.FLASH_FAIL : Fld := { off := 0x54, lsb := 1, w := 1, rst := 0, ty := .w1c, ev := true }
/-- R417: WRAPPED. -/
def Lo.WRAPPED : Fld := { off := 0x54, lsb := 2, w := 1, rst := 0, ty := .w1c, ev := true }
/-- Registers of the event log (R417) page. -/
def Lo.regs : List RegDef :=
  [⟨Lo.LOG_NEXT_SEQ, 1, 4⟩, ⟨Lo.LOG_OLDEST_SEQ, 1, 4⟩, ⟨Lo.LOG_FLASHED_SEQ, 1, 4⟩, ⟨Lo.LOG_RD_SEQ, 1, 4⟩, ⟨Lo.LOG_DROP_CNT, 1, 4⟩, ⟨Lo.DROP, 1, 4⟩] ++
  [⟨Lo.FLASH_FAIL, 1, 4⟩, ⟨Lo.WRAPPED, 1, 4⟩]

/-! ### interval timers (R421) -/
/-- R421: RUNNING. -/
def Tm.RUNNING (k : Nat) : Fld := { off := 0x40 + 4 * k, lsb := 0, w := 16, rst := 0, ty := .ro }
/-- R421: ENABLE. -/
def Tm.ENABLE (k : Nat) : Fld := { off := 0x10000 + 8 * k, lsb := 0, w := 1, rst := 0, ty := .rw, ix := true }
/-- R421: START_SRC. -/
def Tm.START_SRC (k : Nat) : Fld := { off := 0x10000 + 8 * k, lsb := 1, w := 2, rst := 0, ty := .rw, ix := true }
/-- R421: STOP_SRC. -/
def Tm.STOP_SRC (k : Nat) : Fld := { off := 0x10000 + 8 * k, lsb := 3, w := 2, rst := 0, ty := .rw, ix := true }
/-- R421: CLR. -/
def Tm.CLR (k : Nat) : Fld := { off := 0x10000 + 8 * k, lsb := 5, w := 1, rst := 0, ty := .rw, ix := true }
/-- R421: RUN. -/
def Tm.RUN (k : Nat) : Fld := { off := 0x10001 + 8 * k, lsb := 0, w := 1, rst := 0, ty := .ro, ix := true }
/-- R421: LAST_COINCIDENT. -/
def Tm.LAST_COINCIDENT (k : Nat) : Fld := { off := 0x10001 + 8 * k, lsb := 1, w := 1, rst := 0, ty := .ro, ix := true }
/-- R421: LAST_CC. -/
def Tm.LAST_CC (k : Nat) : Fld := { off := 0x10002 + 8 * k, lsb := 0, w := 32, rst := 0, ty := .ro, ix := true }
/-- R421: LAST_NS. -/
def Tm.LAST_NS (k : Nat) : Fld := { off := 0x10003 + 8 * k, lsb := 0, w := 32, rst := 0, ty := .ro, ix := true }
/-- R421: COUNT. -/
def Tm.COUNT (k : Nat) : Fld := { off := 0x10004 + 8 * k, lsb := 0, w := 32, rst := 0, ty := .ro, ix := true }
/-- R421: MIN_CC. -/
def Tm.MIN_CC (k : Nat) : Fld := { off := 0x10005 + 8 * k, lsb := 0, w := 32, rst := 0xFFFFFFFF, ty := .ro, ix := true }
/-- R421: MAX_CC. -/
def Tm.MAX_CC (k : Nat) : Fld := { off := 0x10006 + 8 * k, lsb := 0, w := 32, rst := 0, ty := .ro, ix := true }
/-- R421: ORPHAN_CNT. -/
def Tm.ORPHAN_CNT (k : Nat) : Fld := { off := 0x10007 + 8 * k, lsb := 0, w := 16, rst := 0, ty := .ro, ix := true }
/-- R421: DOUBLE_CNT. -/
def Tm.DOUBLE_CNT (k : Nat) : Fld := { off := 0x10007 + 8 * k, lsb := 16, w := 16, rst := 0, ty := .ro, ix := true }
/-- Registers of the interval timers (R421) page. -/
def Tm.regs : List RegDef :=
  [⟨Tm.RUNNING 0, 8, 4⟩]
/-- IX entries of the interval timers (R421) page (R374). -/
def Tm.ixs : List RegDef :=
  [⟨Tm.ENABLE 0, 128, 8⟩, ⟨Tm.START_SRC 0, 128, 8⟩, ⟨Tm.STOP_SRC 0, 128, 8⟩, ⟨Tm.CLR 0, 128, 8⟩, ⟨Tm.RUN 0, 128, 8⟩, ⟨Tm.LAST_COINCIDENT 0, 128, 8⟩] ++
  [⟨Tm.LAST_CC 0, 128, 8⟩, ⟨Tm.LAST_NS 0, 128, 8⟩, ⟨Tm.COUNT 0, 128, 8⟩, ⟨Tm.MIN_CC 0, 128, 8⟩, ⟨Tm.MAX_CC 0, 128, 8⟩, ⟨Tm.ORPHAN_CNT 0, 128, 8⟩] ++
  [⟨Tm.DOUBLE_CNT 0, 128, 8⟩]

/-! ### Postmaster common (R432) -/
/-- R432: RUN_SLOT. -/
def Pm.RUN_SLOT : Fld := { off := 0x40, lsb := 0, w := 1, rst := 0, ty := .ro }
/-- R432: FW_STATE. -/
def Pm.FW_STATE : Fld := { off := 0x40, lsb := 1, w := 3, rst := 0, ty := .ro }
/-- R432: ALIVE. -/
def Pm.ALIVE : Fld := { off := 0x40, lsb := 4, w := 1, rst := 0, ty := .ro }
/-- R432: VER_FW. -/
def Pm.VER_FW : Fld := { off := 0x44, lsb := 0, w := 32, rst := 0, ty := .ro }
/-- R432: SVN_FLOOR. -/
def Pm.SVN_FLOOR : Fld := { off := 0x48, lsb := 0, w := 32, rst := 0, ty := .ro }
/-- R432: FW_SRC_LO. -/
def Pm.FW_SRC_LO : Fld := { off := 0x4C, lsb := 0, w := 32, rst := 0, ty := .rw }
/-- R432: FW_SRC_HI. -/
def Pm.FW_SRC_HI : Fld := { off := 0x50, lsb := 0, w := 32, rst := 0, ty := .rw }
/-- R432: FW_LEN. -/
def Pm.FW_LEN : Fld := { off := 0x54, lsb := 0, w := 25, rst := 0, ty := .rw }
/-- R432: FW_CTL. -/
def Pm.FW_CTL : Fld := { off := 0x58, lsb := 0, w := 5, rst := 0, ty := .rw }
/-- R432: STAGE_RESULT. -/
def Pm.STAGE_RESULT : Fld := { off := 0x5C, lsb := 0, w := 4, rst := 0, ty := .ro }
/-- R432: ACT_RESULT. -/
def Pm.ACT_RESULT : Fld := { off := 0x5C, lsb := 4, w := 4, rst := 0, ty := .ro }
/-- R432: BUSY_CAUSE. -/
def Pm.BUSY_CAUSE : Fld := { off := 0x5C, lsb := 8, w := 6, rst := 0, ty := .ro }
/-- R432: REVERTED. -/
def Pm.REVERTED : Fld := { off := 0x60, lsb := 0, w := 1, rst := 0, ty := .w1c, ev := true }
/-- R432: STAGE_FAIL. -/
def Pm.STAGE_FAIL : Fld := { off := 0x60, lsb := 1, w := 1, rst := 0, ty := .w1c, ev := true }
/-- R432: ACT_REFUSED. -/
def Pm.ACT_REFUSED : Fld := { off := 0x60, lsb := 2, w := 1, rst := 0, ty := .w1c, ev := true }
/-- R432: BOOT_CNT. -/
def Pm.BOOT_CNT : Fld := { off := 0x64, lsb := 0, w := 32, rst := 0, ty := .ro, ev := true }
/-- R432: VER_IF. -/
def Pm.VER_IF : Fld := { off := 0x68, lsb := 0, w := 32, rst := 0x11111243, ty := .ro }
/-- R432: VER_BLOCK. -/
def Pm.VER_BLOCK : Fld := { off := 0x6C, lsb := 0, w := 16, rst := 0x100, ty := .ro }
/-- R432: REC_TYPE. -/
def Pm.REC_TYPE : Fld := { off := 0x70, lsb := 0, w := 3, rst := 1, ty := .rw }
/-- R432: REC_COPY. -/
def Pm.REC_COPY : Fld := { off := 0x70, lsb := 3, w := 1, rst := 0, ty := .rw }
/-- R432: REC_WRITE. -/
def Pm.REC_WRITE : Fld := { off := 0x70, lsb := 4, w := 1, rst := 0, ty := .rw }
/-- R432: REC_BUSY. -/
def Pm.REC_BUSY : Fld := { off := 0x70, lsb := 5, w := 1, rst := 0, ty := .ro }
/-- R432: REC_LEN. -/
def Pm.REC_LEN : Fld := { off := 0x74, lsb := 0, w := 16, rst := 0, ty := .rw }
/-- R432: REC_RESULT. -/
def Pm.REC_RESULT : Fld := { off := 0x78, lsb := 0, w := 4, rst := 0, ty := .ro }
/-- Registers of the Postmaster common (R432) page. -/
def Pm.regs : List RegDef :=
  [⟨Pm.RUN_SLOT, 1, 4⟩, ⟨Pm.FW_STATE, 1, 4⟩, ⟨Pm.ALIVE, 1, 4⟩, ⟨Pm.VER_FW, 1, 4⟩, ⟨Pm.SVN_FLOOR, 1, 4⟩, ⟨Pm.FW_SRC_LO, 1, 4⟩] ++
  [⟨Pm.FW_SRC_HI, 1, 4⟩, ⟨Pm.FW_LEN, 1, 4⟩, ⟨Pm.FW_CTL, 1, 4⟩, ⟨Pm.STAGE_RESULT, 1, 4⟩, ⟨Pm.ACT_RESULT, 1, 4⟩, ⟨Pm.BUSY_CAUSE, 1, 4⟩] ++
  [⟨Pm.REVERTED, 1, 4⟩, ⟨Pm.STAGE_FAIL, 1, 4⟩, ⟨Pm.ACT_REFUSED, 1, 4⟩, ⟨Pm.BOOT_CNT, 1, 4⟩, ⟨Pm.VER_IF, 1, 4⟩, ⟨Pm.VER_BLOCK, 1, 4⟩] ++
  [⟨Pm.REC_TYPE, 1, 4⟩, ⟨Pm.REC_COPY, 1, 4⟩, ⟨Pm.REC_WRITE, 1, 4⟩, ⟨Pm.REC_BUSY, 1, 4⟩, ⟨Pm.REC_LEN, 1, 4⟩, ⟨Pm.REC_RESULT, 1, 4⟩]

/-- R428: word w of the record copy that REC_TYPE and REC_COPY select. -/
def Pm.REC_WORD (k : Nat) : Fld := { off := 0x40000 + 1 * k, lsb := 0, w := 32, rst := 0, ty := .ro, ix := true }
/-- R428: word w of the body to write. -/
def Pm.REC_BODY (k : Nat) : Fld := { off := 0x50000 + 1 * k, lsb := 0, w := 32, rst := 0, ty := .rw, ix := true }
/-- IX entries of the Postmaster common page (R374). -/
def Pm.ixs : List RegDef := [⟨Pm.REC_WORD 0, 8197, 1⟩, ⟨Pm.REC_BODY 0, 8192, 1⟩]

end Reg

end Sys2Proof.Machine
end

