-- ==== Sys2Proof/Machine/State.lean ====
section
/-! DEFINITION. The state of the panel as plain data: registers, memories, what its units hold beside them, what it
has sent, and the queue of commands that wait. -/

namespace Sys2Proof.Machine

/-- Why the machine stops. -/
inductive Fault where
  /-- A command names a unit that no panel has (a site above 255, a core above 7, a hub above 15, a port that a hub lacks): raised by the
  dispatch of every command that is not well formed. Safe: the hardware has no such unit to act. -/
  | noSuchUnit
  deriving DecidableEq, Repr

/-- Why a command has no meaning. -/
inductive Refusal where
  /-- Raised by a dispatch arm whose command is not modelled yet. Safe: nothing is claimed of it. -/
  | notModelled (mnemonic : String)
  deriving DecidableEq, Repr

/-! ### Cores -/

/-- One access that a core of a site has been granted a cycle for (R103, R104, R160). -/
structure Access where
  /-- Cycle, counted over the frames of the site (Site.base). -/
  cyc : Nat
  /-- Port: `32 n + b` bank b of core n; `256 + s` cistern slice s; `512 + 2 n` and `513 + 2 n` the outbound and
  inbound crossbar port of core n. -/
  port : Nat
  /-- Issuing core. -/
  own : Nat
  /-- Unit code of R118. -/
  unit : Nat
  /-- Line, and the halves of it touched (bit 0 low, bit 1 high): two half-line accesses share a cycle (R160). -/
  line : Nat := 0
  halves : Nat := 3
  /-- Slot code, bundle position and slot image for a trap record (R171). -/
  slot : Nat := 3
  pc : Nat := 0
  img : Nat := 0
  /-- What the access's destination held, so that a discarded access leaves it (R105): address, words, data, poison. -/
  undoAt : Nat := 0
  undoWords : Nat := 0
  undoData : Nat := 0
  undoPoison : Nat := 0
  deriving DecidableEq, Repr

/-- A loop on the sequencer's stack (R153): body positions and iterations still to start. -/
structure LoopEnt where
  first : Nat
  last : Nat
  left : Nat
  deriving DecidableEq, Repr

/-- An LK binding of the current frame (R164). -/
structure Bind where
  hop : Nat
  recv : Bool
  bb : Nat
  nb : Nat
  line0 : Nat
  rl : Nat
  pc : Nat
  img : Nat
  deriving DecidableEq, Repr

/-- An open program-buffer write window (R165): rows, the cycle from which a fetch meets it, and its pump. -/
structure Window where
  lo : Nat
  hi : Nat
  opens : Nat
  pump : Nat
  deriving DecidableEq, Repr

/-- What a core holds beside its registers and memories. Cycles count over the frames of the site (Site.base). -/
structure Core where
  /-- Position of the next bundle (R147). -/
  nextPc : Nat := 0
  /-- The cycle after the previous issue, and the frame count of that issue (R149). -/
  prev : Nat := 0
  prevFc : Nat := 0
  /-- Frame cycle and frame count at which a bundle fell due in a frame that did not execute (R149). -/
  skipped : Option (Nat × Nat) := none
  loops : List LoopEnt := []
  /-- Bundles issued since the start (R171). -/
  issued : Nat := 0
  /-- Counts of the current frame, copied to the registers at the mark: R173, R58, R100, R118. -/
  bundles : Nat := 0
  rows : Nat := 0
  beats : Nat := 0
  grants : Nat := 0
  waitMax : Nat := 0
  /-- R54: end of the load unit's reading, per buffer the cycle from which it is usable and the cycle after its last
  row, the stream unit's end and mode class, the drain unit's end. -/
  ldEnd : Nat := 0
  useA : Nat := 0
  useB : Nat := 0
  rowsA : Nat := 0
  rowsB : Nat := 0
  mulEnd : Nat := 0
  mulClass : Nat := 0
  drEnd : Nat := 0
  /-- R55: streams and drains that may meet at a slot: (first write cycle, slot, rows). -/
  muls : List (Nat × Nat × Nat) := []
  /-- Whether the buffer's tile carries fine scales, and the column groups that MXLOAD marked (R40, R315). -/
  fineA : Bool := false
  fineB : Bool := false
  badA : Nat := 0
  badB : Nat := 0
  /-- R95: end of the compute unit's beats, its accepted vector-file write cycles (first, last), the two channels. -/
  vxEnd : Nat := 0
  vxWr : List (Nat × Nat) := []
  ch0 : Nat := 0
  ch1 : Nat := 0
  binds : List Bind := []
  window : Option Window := none
  /-- R169: the last cycle at which a bundle may still issue after a run-time trap. -/
  lastCyc : Nat := 0
  /-- The first trap record since the last arm, 64 bytes as one number (R173). -/
  trapRec : Option Nat := none
  /-- R108: a scrub write-back that waits: bank, line, and the data, correctable and uncorrectable words read. -/
  scrub : Option (Nat × Nat × Nat × Nat × Nat) := none
  deriving DecidableEq, Repr

/-! ### Records and what the panel sends -/

/-- A record of the event log (R414, R415): sequence, tag and 64 bytes as one number. -/
structure LogRec where
  seq : Nat
  tag : Nat
  body : Nat
  deriving DecidableEq, Repr


/-! ### Regions and pumps -/

/-- A waybill that a core has kicked and a pump has not finished (R161): what waits for the pump's take. -/
structure Kick where
  core : Nat
  pump : Nat
  wb : Nat
  /-- Bundle position of the KICK. -/
  pc : Nat := 0
  /-- The KICK opened the core's write window (R165). -/
  win : Bool := false
  deriving DecidableEq, Repr

/-! ### The courier plane (R174 to R200) -/

/-- A piece of data on its way through open accesses: words gathered, poison marks, and accesses outstanding. -/
structure Piece where
  /-- Words of the piece. -/
  n : Nat := 0
  got : Nat := 0
  poison : Nat := 0
  left : Nat := 0
  deriving DecidableEq, Repr

/-- R106, R113, R209: a request at an open-cycle port or at the well controller. -/
structure OpenReq where
  /-- Requester: pumps 0 to 3, 4 the courier NI. -/
  who : Nat
  /-- Cycle of arrival, counted as Site.base does. -/
  arr : Nat
  /-- Offset in the site of the first word (R25), and words, all in one line. -/
  off : Nat
  n : Nat
  wr : Bool
  data : Nat := 0
  poison : Nat := 0
  /-- R209: the read of a partial half-line write has been made. -/
  half : Bool := false
  /-- Whose piece it is: 1 a held waybill, 2 an inbound context, 3 an outbound stream; its number; first word's place
  in the piece. -/
  job : Nat
  key : Nat
  at_ : Nat
  deriving DecidableEq, Repr

/-- R189 to R195: a waybill that a pump holds. -/
structure Held where
  /-- Transfer number. -/
  num : Nat
  wb : Nat
  pump : Nat
  /-- Kicking core, 8 for a host post. -/
  core : Nat
  /-- Region that it belongs to (R190). -/
  region : Nat
  win : Bool := false
  run : Bool := false
  /-- Bytes read or asked for, and bytes written or confirmed. -/
  rd : Nat := 0
  pos : Nat := 0
  piece : Piece := {}
  /-- The piece is being written (a local waybill, or a circular's own bit). -/
  wr : Bool := false
  /-- Status once the waybill has ended (R192), and whether a far end gave it. -/
  status : Option Nat := none
  remote : Bool := false
  poison : Bool := false
  seq : Nat := 0
  attempts : Nat := 0
  retried : Bool := false
  /-- Landing entry (R214). -/
  land : Option Nat := none
  /-- R219: IMAGE_ID, IMAGE_VER and CHUNK_INDEX of the last good chunk, and bytes verified. -/
  img : Option (Nat × Nat × Nat) := none
  good : Nat := 0
  /-- R195: reason code by target. -/
  reasons : Tab Nat := []
  deriving DecidableEq, Repr

/-- What an envelope of a transfer will carry, before it is sent. -/
structure Pay where
  kind : Nat
  words : Nat
  last : Bool
  poison : Bool
  data : Nat
  deriving DecidableEq, Repr

/-- R184: the sending side of one direction of a stream. -/
structure Tx where
  next : Nat := 0
  queue : List Pay := []
  /-- Sent and not acknowledged, oldest first. -/
  win : List Env := []
  attempt : Nat := 0
  broken : Bool := false
  /-- A BUSY answer is waited out. -/
  wait : Bool := false
  /-- The envelope sent last (R446). -/
  sent : Option Env := none
  deriving DecidableEq, Repr

/-- R184: the receiving side of one direction. -/
structure Rx where
  last : Nat := 0
  /-- Received and not yet delivered, beyond those handed on. -/
  held : List Env := []
  /-- Envelopes handed on and not yet delivered, the words of each, and what has been delivered since the last ACK. -/
  fwd : Nat := 0
  since : Nat := 0
  deriving DecidableEq, Repr

/-- R175, R187: the transfer of an outbound stream. Its next sequence, state, attempt and epoch stand in the IX
registers of R200. -/
structure Stream where
  /-- 1 a waybill, 2 a relay leg of an inbound context, 3 a slice of a collective; the number of what it serves. -/
  job : Nat := 0
  ref : Nat := 0
  write : Bool := true
  /-- Destination endpoint code, and destination panel of a fabric leg (4096: on this panel). -/
  dst : Nat := 0
  panel : Nat := 4096
  region : Nat := 0
  direct : Bool := false
  addr : Nat := 0
  len : Nat := 0
  num : Nat := 0
  space : HubSpace := .fabric
  /-- R253: first port of a collective's slice. -/
  via : Option Nat := none
  tx : Tx := {}
  rx : Rx := {}
  piece : Piece := {}
  /-- Bytes of read data written. -/
  pos : Nat := 0
  /-- Sequence of the OPEN, and BUSY answers to it. -/
  s0 : Nat := 0
  busy : Nat := 0
  retried : Bool := false
  /-- R193: targets of a circular, and per target its last acknowledged sequence and reason code. -/
  circ : Bool := false
  mask : Nat := 0
  tAck : Tab Nat := []
  tEnd : Tab Nat := []
  deriving DecidableEq, Repr

/-- R175: an inbound context. Its last delivered sequence and source code stand in the IX registers of R200. -/
structure Ctx where
  /-- Panel, endpoint code and stream of the source (4096: this panel), with its epoch and fabric plane. -/
  panel : Nat := 4096
  src : Nat := 0
  stream : Nat := 0
  epoch : Nat := 0
  region : Nat := 0
  circ : Bool := false
  write : Bool := true
  addr : Nat := 0
  len : Nat := 0
  num : Nat := 0
  /-- 0 this site's memory, 1 the x16 port, 2 a relay over the outbound stream `onto`, 3 the collective engine. -/
  act : Nat := 0
  onto : Nat := 0
  space : HubSpace := .fabric
  /-- Position of the OPEN, bytes handed to memory, and bytes read for a response. -/
  s0 : Nat := 0
  pos : Nat := 0
  rd : Nat := 0
  piece : Piece := {}
  rx : Rx := {}
  tx : Tx := {}
  land : Option Nat := none
  /-- The DONE given, once it is. -/
  done : Option Nat := none
  live : Bool := false
  deriving DecidableEq, Repr

/-- What leaves the panel. -/
inductive Out where
  /-- R447, R382: an MSI-X vector through the host port of `hub`: function 0 is PF0, r + 1 is VF r. -/
  | msix (hub fn vec : Nat)
  /-- R189, R319: a write to host memory; `poison` sets EP. -/
  | hostWrite (hub fn addr bytes data : Nat) (poison : Bool)
  /-- R131, R140: a timetable beat that leaves `site` in direction `dir`, window and slot as given; `poison` stomps. -/
  | beat (site dir win slot data : Nat) (poison : Bool)
  /-- R271: a mark message of a region that the Postmaster or a site sends on. -/
  | mark (region fc t : Nat)
  /-- R321, R245: a message to the twin over the bridge: kind and value. -/
  | twin (kind value : Nat)
  /-- R176: an envelope that endpoint `ep` injects; `resp` when it belongs to the response direction of its transfer. -/
  | env (ep : Nat) (resp : Bool) (e : Env)
  /-- R227: an EFL block that hub `hub` sends by port `port` (4: TB): its 16-byte header, its words, and the content of
  one that carries its own. -/
  | efl (hub port hdr : Nat) (words : List FWord) (content : Nat)
  /-- R239: a TIME block. -/
  | time (hub port : Nat) (b : TimeBlk)
  /-- R244: the answer to a die's read. -/
  | die (hub slot value : Nat)
  /-- R245 to R247: a heartbeat or message to the twin by TB port `b` (0 hub 0, 1 hub 15). -/
  | tb (b : Nat) (m : TwinMsg)
  /-- R241: a read of host memory through the function of a region. -/
  | hostRead (hub fn addr bytes ctx : Nat)
  /-- R242: an access to the device behind an x16 port; words and poison of a write. -/
  | deep (hub : Nat) (wr : Bool) (addr words data : Nat) (poison : Bool) (ctx : Nat)
  /-- R361, R376: data returned by a read of the control space of function `fn`. -/
  | hostData (fn addr data : Nat)
  /-- R376: a read that completes with Completer Abort status, or a discarded write reported by AER. -/
  | abort (fn addr : Nat) (write : Bool)
  deriving DecidableEq, Repr

/-- R333: an item mirrored to a shadow site: buddy frame and frame cycle, kind (0 memory write, 1 accumulator store,
3 shadow hop table, 4 well line), core, offset in the site or space, words, data and poison. -/
structure Mirror where
  fc : Nat
  cyc : Nat
  kind : Nat
  core : Nat
  off : Nat
  words : Nat
  data : Nat
  poison : Nat
  deriving DecidableEq, Repr

/-- R334: a contribution to a core's digest: cycle, unit code, bytes, and their value. -/
structure DigItem where
  cyc : Nat
  unit : Nat
  n : Nat
  v : Nat
  deriving DecidableEq, Repr

/-- R293, R307: the calibration of one frequency state in a site's record. -/
structure Cal where
  vCal : Nat
  iCal : Nat
  load : Nat
  pIdle : Nat
  pArray : Nat
  deriving DecidableEq, Repr

/-- What a site holds beside its registers and memories. -/
structure Site where
  /-- Region that owns the site; 16 when it is free (R340). -/
  region : Nat := 16
  /-- R272, R333: the region whose island and marks a shadow site has joined; 16 for none. -/
  join : Nat := 16
  /-- Cycle number of cycle 0 of the current frame, counted over the frames of its region, Dormant frames included (R149, R420). -/
  base : Nat := 0
  /-- The latest cycle that a command has named on the site, counted as base is. -/
  now : Nat := 0
  /-- Frame count of the current frame (R122). -/
  fc : Nat := 0
  /-- The current frame executes (it is no Dormant frame). -/
  exec : Bool := true
  /-- R271: the mark message kept: frame count, and T in RCNT units. -/
  mark : Option (Nat × Nat) := none
  /-- R126, R127: largest lag of the current frame, LATE raised in it, the histogram clears that wait (R145, R284). -/
  lagMax : Nat := 0
  lateMine : Bool := false
  /-- R418: cores with a kick completion that waits for the next executed frame. -/
  kickLate : Nat := 0
  histClr : Bool := false
  jitClr : Bool := false
  /-- R277: loss of the current frame in 1/16 cc, the whole cycles it has added, and the largest depth. -/
  loss : Nat := 0
  lost : Nat := 0
  depth : Nat := 0
  phaseMax : Nat := 0
  tjMax : Nat := 0
  /-- R142: transition frames still to run, the current one included. -/
  trans : Nat := 0
  /-- Accesses granted a cycle (R104). -/
  acc : List Access := []
  /-- Entries held by the two hop tables (R134, R166). -/
  hopN0 : Nat := 0
  hopN1 : Nat := 0
  /-- Words of the hop-table section loaded so far and the count its word 0 announced (R166). -/
  loadAt : Nat := 0
  loadN : Nat := 0
  /-- R349: what each budget has counted in the current frame; uHub per hub. -/
  uSram : Nat := 0
  uWell : Nat := 0
  uRecal : Nat := 0
  uTelem : Nat := 0
  uSide : Nat := 0
  uCour : Nat := 0
  uHub : Tab Nat := []
  /-- Waybills kicked and not yet taken (R161), in kick order. -/
  kicks : List Kick := []
  /-- R200: waybills in the pumps' post slots; R190: waybills the pumps hold, in the order taken; transfers so far. -/
  posts : List (Nat × Nat) := []
  wbs : List Held := []
  wbNum : Nat := 0
  /-- R349: bytes the pumps have moved in the current frame. -/
  moved : Nat := 0
  /-- R106, R113, R209: open requests that wait, oldest first; lines served and the longest wait at the well. -/
  opens : List OpenReq := []
  openLines : Nat := 0
  openWait : Nat := 0
  /-- R119: grants and longest wait at the slices' ports; R113: slices scrubbed at the current line index, and their
  write-backs that wait (line, data, correctable and uncorrectable words). -/
  cisGrants : Nat := 0
  cisWait : Nat := 0
  cisSeen : Nat := 0
  cisScrub : Tab (Nat × Nat × Nat × Nat) := []
  /-- R210: the well scrubber's write-back that waits. R206: per channel, the time of its last refresh. -/
  wellScrub : Option (Nat × Nat × Nat × Nat) := none
  refreshed : Tab Nat := []
  /-- R197: ACK and DONE envelopes that wait for injection to resume; R185: the down cache (site index, port code). -/
  waiting : List (Bool × Env) := []
  down : List (Nat × Nat) := []
  /-- R200: shadow route registers written since the last swap. -/
  shWritten : Nat := 0
  /-- R141: uncorrectable beats of the frame per direction, directions that logged one, and lane groups out of use. -/
  ttUe : Tab Nat := []
  ttLogged : Nat := 0
  ttDown : Nat := 0
  /-- R322: fields whose voted correction this frame has logged. R282: alarms it has logged. -/
  voteLogged : Nat := 0
  clkLogged : Nat := 0
  /-- R326: frames left in the hold-off, corrected errors and frames of the running 2^20-frame count. -/
  holdOff : Nat := 0
  ceSeen : Nat := 0
  ceLast : Nat := 0
  ceFrames : Nat := 0
  /-- R329 to R331: per core the probe items issued in this cycle, the cycle's first frame, its length so far, whether
  it is clean, and the frame of the last failure. -/
  probeAt : Tab Nat := []
  probeNow : Tab Nat := []
  probeFc : Nat := 0
  probeLen : Nat := 0
  probeClean : Bool := true
  probeFail : Option Nat := none
  /-- R332 to R335: digests on, this frame's items per core (key 8 n), the last frame's site digest, a digest that the
  buddy has sent with its frame, and the items mirrored to this shadow. -/
  digOn : Bool := false
  digs : List (Nat × DigItem) := []
  mirDig : List (Nat × Nat) := []
  mirror : List Mirror := []
  /-- The shadow that this site is the buddy of; 256 for none. -/
  mirTo : Nat := 256
  /-- R335: bytes that the mirror port has still to carry. -/
  mirLoad : Nat := 0
  misBuddy : Nat := 0
  misShadow : Nat := 0
  /-- R310: retention was lost in Dormant. -/
  retLost : Bool := false
  /-- R292: the calibration record in effect. -/
  cal : List Cal := []
  rSite : Nat := 0
  fullCeil : Nat := 0
  /-- R291: minimum-voltage record per rail: value (0xFFF none), postmark, frame count. -/
  vmin : Tab (Nat × Nat × Nat) := []
  /-- R303: the site's own junction level and valid-sensor count aside; R354: cleared parts awaited. -/
  failed : Bool := false
  /-- R354: the SRAM and well clearing of a region change is not finished. -/
  clearing : Bool := false
  /-- The region whose change clears the site. -/
  clearOf : Nat := 16
  /-- R188, R354: injection is stopped until the next boundary after clearing. -/
  held : Bool := false
  /-- R402: when (see `up`) the site last left the grid with its well off, and whether it was off for 1 s before its
  shadow run. -/
  leftAt : Option Nat := none
  rested : Bool := true
  deriving DecidableEq, Repr

/-- What the Postmaster keeps of a region beside its registers. -/
structure Region where
  /-- Frame count of the mark generator (R122), and the exact time of its last mark in thirds of an RCNT unit. -/
  fc : Nat := 0
  markAt : Nat := 0
  running : Bool := false
  /-- The dilation that the next mark uses (R305). -/
  dilation : Nat := 0
  /-- R306: the largest ROWS_FRAME of each of the last 64 frames, latest first. -/
  rowsHist : List Nat := []
  /-- R170: frame at whose cycle 0 the region fault takes effect, with the trap records since the last fault. -/
  faultAt : Option Nat := none
  /-- R381: frame count at which a written SWAP takes effect. -/
  swapAt : Option Nat := none
  traps : Nat := 0
  /-- R130: single extensions and frames since the last summary. -/
  extSum : Nat := 0
  extFrames : Nat := 0
  /-- R326: FSTATE when the region was marked suspect. -/
  suspFs : Nat := 0
  /-- R303: highest level of the region's sites, of the coolant and input. -/
  level : Nat := 0
  /-- R143: the FR_CFG value of each armed slot. -/
  reqCfg : Tab Nat := []
  /-- Actions of the slot's request that have taken effect. -/
  reqDone : Tab Nat := []
  /-- R122: frequency state and FL_CODE of the frame that the generator has last marked. -/
  genFs : Nat := 3
  genFl : Nat := 2
  /-- R408: the last DUTY_EFF. -/
  duty : Nat × Nat := (1, 1)
  /-- R353, R354: an accepted assignment waits for its scheduled mark. -/
  assign : Bool := false
  /-- R279: a raise is ramping to this state; a lowering will ramp at this frame. -/
  rampUp : Option Nat := none
  rampDown : Option (Nat × Nat) := none
  deriving DecidableEq, Repr

/-- R256: a segment of a running collective at one member: its value and poison marks by word, slices received in the
two halves, slices whose DONE has come, whether its value is final, and whether its commit has ended. -/
structure CSeg where
  val : Nat := 0
  poison : Nat := 0
  red : Nat := 0
  gat : Nat := 0
  acked : Nat := 0
  fin : Bool := false
  ended : Bool := false
  deriving DecidableEq, Repr

/-- R255 to R262: a running collective operation. -/
structure CRun where
  desc : Nat
  segs : Tab CSeg := []
  /-- Slices that wait for a stream: segment, slice, half (2: ALL_TO_ALL), receiving position. -/
  sends : List (Nat × Nat × Nat × Nat) := []
  backup : Bool := false
  cut : Bool := false
  lost : Bool := false
  pois : Bool := false
  /-- Its record has been written; slices may still be on their way to other members. -/
  closed : Bool := false
  doneMap : Nat := 0
  fail : Nat := 0
  deriving DecidableEq, Repr

/-- R252: a group slot of a collective engine: the queue, the running operation, whether an epoch has been taken, and
the operations completed. -/
structure CSlot where
  queue : List Nat := []
  run : Option CRun := none
  epochSet : Bool := false
  doneIds : List Nat := []
  deriving DecidableEq, Repr

/-- What a hub holds beside its registers (R223). -/
structure Hub where
  /-- ACK and DONE envelopes that wait for injection to resume, and the down cache. -/
  waiting : List (Bool × Env) := []
  down : List (Nat × Nat) := []
  /-- R345: per egress, the class that was last lent an opportunity. -/
  lent : Tab Nat := []
  /-- R235: request streams for which a discarded word has sent a NOTICE. -/
  noted : KeySet := []
  /-- R252: the group slots of the collective engine. -/
  coll : Tab CSlot := []
  /-- R244: per die slot, times (see `up`) of the drops of the last second, latest first. -/
  drops : Tab (List Nat) := []
  deriving DecidableEq, Repr

/-- A fabric word that waits at a port, with the port and VC whose place it holds (R229). -/
structure QWord where
  w : FWord
  back : Option (Nat × Nat × Nat)
  deriving DecidableEq, Repr

/-- R229: a block of the retry buffer. -/
structure EBlock where
  seq : Nat
  btype : Nat
  cvc : Nat
  credits : Nat
  words : List FWord
  deriving DecidableEq, Repr

/-- What an optical port holds beside its registers (R229 to R239). -/
structure Port where
  /-- BSEQ expected next, and BSEQ of the next block sent. -/
  rx : Nat := 0
  tx : Nat := 0
  /-- The retry buffer, oldest first; the block whose replay has failed last, and how often in a row. -/
  sent : List EBlock := []
  failSeq : Nat := 0
  fails : Nat := 0
  /-- Per fabric VC: word places used at the peer. -/
  used : Tab Nat := []
  /-- Words that wait, oldest first. -/
  queue : List QWord := []
  /-- Times (see `up`) of the counted retrains of the last 60 s, and of the first of the uncorrectable codewords of the
  running millisecond, with their number. -/
  retrains : List Nat := []
  fecAt : Nat := 0
  fecN : Nat := 0
  /-- The peer's IDENT, once received. -/
  peer : Option PeerIdent := none
  /-- R239: the peer's master serial and hops. -/
  clock : Option (Nat × Nat) := none
  deriving DecidableEq, Repr

/-- R245 to R247: what the Postmaster keeps of the twin beside its registers. -/
structure Twin where
  /-- Heartbeats sent. -/
  seq : Nat := 0
  /-- TB ports without heartbeats, and the twin's last state. -/
  lost : KeySet := []
  state : Nat := 0
  /-- The twin's PAIR: the serial that it named, its OVERRIDE, and when (see `up`). -/
  wants : Option (Nat × Bool × Nat) := none
  ovr : Bool := false
  /-- The carrier has recorded its twin absent. -/
  absent : Bool := false
  deriving DecidableEq, Repr

/-- R422: a firmware slot: its image and its status word. -/
structure FwSlot where
  img : Option FwImage := none
  verified : Bool := false
  confirmed : Bool := false
  trialFailed : Bool := false
  deriving DecidableEq, Repr

/-- What the Postmaster keeps of bring-up beside R378: start of the current step; per step its requests and the time of its
last failure; the unit that the failure names and the sites entered in the failed-site list by this run (R390); the HOST
port that carried the LICENCE request (R397); hubs that have swapped a checked table since FABRIC began. -/
structure Bring where
  startAt : Nat := 0
  tries : Tab Nat := []
  failAt : Tab Nat := []
  unit : Nat := 0
  entered : Nat := 0
  via : Option Nat := none
  swapped : KeySet := []
  deriving DecidableEq, Repr

/-- R426: a restart of the management processor: the slot being booted, the slot to fall back to, and what it serves: 0 an
ACTIVATE, 1 a REVERT, 2 the fall back, 3 a REVERT in TRIAL. -/
structure Restart where
  slot : Nat
  back : Nat
  kind : Nat
  deriving DecidableEq, Repr


/-- The machine. -/
structure State where
  /-- Commands that wait, first in first out. -/
  pending : List Instr := []
  /-- Fields written since reset, keyed by page address, offset and lowest bit. -/
  regs : Tab Nat := []
  mem : Mem := {}
  cores : Tab Core := []
  sites : Tab Site := []
  regions : Tab Region := []
  /-- Starts of running interval timers: schedule cycle and RCNT (R419). -/
  timers : Tab (Nat × Nat) := []
  /-- R409: panel time in tenths of a ns. -/
  tenths : Nat := 0
  /-- R271: the reference counter, in 1/64 reference periods (tenths of a ns). -/
  rcnt : Nat := 0
  /-- R437, R410: the always-on stage is up. R281: the clock root runs. -/
  alwaysOn : Bool := false
  rootOn : Bool := false
  /-- R308: the panel factor as an exact fraction, and ms that the average has stood below the cap. -/
  pfNum : Nat := 1
  pfDen : Nat := 1
  pfMs : Nat := 0
  /-- R285, R304: the stages are stopped by input overvoltage; the panel is shut down; out of service (R321). -/
  inputOv : Bool := false
  shutdown : Bool := false
  outOfService : Bool := false
  /-- R288: domains of each hub that are on: bit 0 logic, 1 links, 2 optics, 3 x16 PHY. -/
  hubDom : Tab Nat := []
  /-- R377: address, word 1 of the mailbox, and postmark of the last bus error. -/
  busErr : Option (Nat × Nat × Nat) := none
  /-- R281: hubs in holdover. -/
  holdover : KeySet := []
  /-- R303: levels of the coolant and input conditions, by condition number. -/
  coolant : Tab Nat := []
  /-- R373: pending BA writes: page, region that the field is indexed by (16: none), field key, value; oldest first. -/
  pendBa : List (Nat × Nat × Nat × Nat) := []
  /-- R414: the RAM ring, oldest first, the flash ring, and the records dropped since the last gap record. -/
  logRam : List LogRec := []
  logFlash : List LogRec := []
  logLost : Nat := 0
  /-- Everything the panel has sent, oldest first. -/
  out : List Out := []
  /-- How many free values have been drawn (log entry 5). -/
  drawn : Nat := 0
  /-- R175: outbound streams and inbound contexts in use, keyed 512 × endpoint + index; endpoints are sites 0 to 255
  and 256 + h for hub h. -/
  streams : Tab Stream := []
  ctxs : Tab Ctx := []
  hubs : Tab Hub := []
  /-- R223: optical ports, keyed 8 h + p, p = 4 the TB port. -/
  optics : Tab Port := []
  twin : Twin := {}
  /-- R441: the shelf, loop and rack tags. -/
  shelfTag : Nat := 0
  loopTag : Nat := 0
  rackTag : Nat := 0
  /-- Time since the always-on stage came up, in tenths of a ns: what the Postmaster measures its waits with. -/
  up : Nat := 0
  /-- R323: the copies of the configuration records in module flash, as 32-bit words, keyed 2 × type + copy. -/
  flash : Tab (List Nat) := []
  /-- R422: the firmware slots A and B, and a restart that is under way. -/
  fwA : FwSlot := {}
  fwB : FwSlot := {}
  restart : Option Restart := none
  bring : Bring := {}
  /-- R391, R133: what LANES has found, keyed 16 × site + port: lanes that are bad, and the latency. -/
  lanes : Tab (Nat × Nat) := []
  /-- R17: sites whose link repeater does not work. -/
  mute : KeySet := []
  /-- R397: x16 ports held with their link down by the licence. -/
  heldX16 : KeySet := []
  /-- R398: licences (their 160 bytes as one number) whose expiry has been logged. -/
  expired : KeySet := []
  /-- R402: the failed sites that the standing REGION proposal covers. -/
  remapSites : List Nat := []
  deriving DecidableEq, Repr

/-- R409: panel time in ns. -/
def State.time (s : State) : Nat := s.tenths / 10

/-- The registers whose reset value differs by unit (R250, R388): hubs 0, 3, 12 and 15 come up as
HOST ports; event queue r belongs to region r (R382). -/
def resetRegs : Tab Nat :=
  [0, 3, 12, 15].map (fun h => ((0x1006040 + h * 0x100000) * 32, 1)) ++
    (List.range 15).map (fun r => (2 ^ 80 + (0x5000 * 2 ^ 32 + 0x106 + 4 * r) * 32 + 5, r + 1))

/-- R429: the versions that stepping B firmware supports, in the order of that table. -/
def shippedRanges : List (Nat × Nat) := [(3, 4), (1, 2), (1, 1), (1, 1), (1, 1), (1, 1), (1, 1), (1, 1)]

/-- The firmware that a module is shipped with (log entry 18). -/
def shippedImg : FwImage :=
  { magic := 0x57464D50, fmtVer := 1, keyId := 0, rsv := false, seq := 0, length := 0, version := 0x10000, svn := 0
    ranges := shippedRanges, crcOk := true, sigOk := true }

/-- Slot A as shipped. -/
def shippedFw : FwSlot := { img := some shippedImg, verified := true, confirmed := true }

/-- The machine right after reset (log entry 4). -/
def State.reset : State := { regs := resetRegs, fwA := shippedFw }

end Sys2Proof.Machine
end

