-- ==== Sys2Proof/Machine/Ops.lean ====
section
/-! DEFINITION. The named operations over registers, memories and units that the meanings share. -/

namespace Sys2Proof.Machine

/-! ### Where each page lies (R249, R362 to R364) -/

/-- Site page at offset `o` of the group of physical site `i` (R364). -/
def siteP (i o : Nat) : Nat := 0x10000000 + i * 0x100000 + o

/-- R364: the page of core `n`. -/
def coreP (c : CoreId) : Nat := siteP c.site (0x1000 + c.n * 0x1000)

def commonP (i : Nat) : Nat := siteP i 0
def cisP (i : Nat) : Nat := siteP i 0x10000
def wellP (i : Nat) : Nat := siteP i 0x11000
def tniP (i : Nat) : Nat := siteP i 0x12000
def cniP (i : Nat) : Nat := siteP i 0x13000
def pumpP (i : Nat) : Nat := siteP i 0x14000
def spowP (i : Nat) : Nat := siteP i 0x15000
def sclkP (i : Nat) : Nat := siteP i 0x16000
def relP (i : Nat) : Nat := siteP i 0x17000
def budP (i : Nat) : Nat := siteP i 0x18000
def timP (i : Nat) : Nat := siteP i 0x19000

/-- R249: page at offset `o` of hub `h`. -/
def hubP (h o : Nat) : Nat := 0x1000000 + h * 0x100000 + o

/-- R249: the page of port `p` of hub `h`: 0 to 3 the fabric ports, 4 the TB port. -/
def portP (h p : Nat) : Nat := hubP h (0x1000 + p * 0x1000)

def x16P (h : Nat) : Nat := hubP h 0x6000
def fwP (h : Nat) : Nat := hubP h 0x7000
def collP (h : Nat) : Nat := hubP h 0x8000

/-- R362: panel-common pages. -/
def idP : Nat := 0
def bringP : Nat := 0x1000
def mapP : Nat := 0x2000
def freqP : Nat := 0x3000
def drainP : Nat := 0x4000
def queueP : Nat := 0x5000

/-- R363: Postmaster pages. -/
def pmP : Nat := 0x100000
def logP : Nat := 0x110000
def timeP : Nat := 0x120000
def licP : Nat := 0x130000
def twinP : Nat := 0x140000
def ppowP : Nat := 0x150000
def prelP : Nat := 0x160000
def regionP : Nat := 0x170000

/-! ### Registers -/

/-- The key of a field in the register store; an IX entry lies beyond every direct register (R374). -/
def fldKey (page : Nat) (f : Fld) : Nat :=
  if f.ix then 2 ^ 80 + (page * 2 ^ 32 + f.off) * 32 + f.lsb else (page + f.off) * 32 + f.lsb

/-- Reads a field; one that nothing has written holds its reset value. -/
def State.rd (s : State) (page : Nat) (f : Fld) : Nat := (tabFind s.regs (fldKey page f)).getD f.rst

/-- Writes a field, cut to its width. -/
def State.wr (s : State) (page : Nat) (f : Fld) (v : Nat) : State :=
  { s with regs := tabInsert (tabErase s.regs (fldKey page f)) (fldKey page f) (v % 2 ^ f.w) }

/-- Sets a one-bit field. -/
def State.setBit (s : State) (page : Nat) (f : Fld) : State := s.wr page f 1

/-- Adds `k` to a counter that saturates at all ones. -/
def State.bump (s : State) (page : Nat) (f : Fld) (k : Nat) : State :=
  if k = 0 then s else s.wr page f (satAdd (2 ^ f.w - 1) (s.rd page f) k)

/-- Adds `k` to a counter that wraps. -/
def State.wrap (s : State) (page : Nat) (f : Fld) (k : Nat) : State := s.wr page f (s.rd page f + k)

/-- ORs a bitmap into a field. -/
def State.orBits (s : State) (page : Nat) (f : Fld) (m : Nat) : State := s.wr page f (s.rd page f ||| m)

/-- Writes a value together with its complement (R320). -/
def State.wrPair (s : State) (page : Nat) (f g : Fld) (v : Nat) : State :=
  (s.wr page f v).wr page g (0xFFFF - v % 65536)

/-! ### Units -/

def coreKey (c : CoreId) : Nat := c.site * 8 + c.n

def State.core (s : State) (c : CoreId) : Core := tabGet (fun _ => {}) s.cores (coreKey c)

def State.setCore (s : State) (c : CoreId) (v : Core) : State :=
  { s with cores := tabSet (fun _ => {}) s.cores (coreKey c) v }

def State.site (s : State) (i : Nat) : Site := tabGet (fun _ => {}) s.sites i

def State.setSite (s : State) (i : Nat) (v : Site) : State :=
  { s with sites := tabSet (fun _ => {}) s.sites i v }

def State.region (s : State) (r : Nat) : Region := tabGet (fun _ => {}) s.regions r

def State.setRegion (s : State) (r : Nat) (v : Region) : State :=
  { s with regions := tabSet (fun _ => {}) s.regions r v }

/-- Draws a free value of `w` bits (log entry 5). -/
def State.draw (s : State) (w : Nat) : BitVec w × State :=
  (Config.fresh s.drawn w, { s with drawn := s.drawn + 1 })

/-! ### Frame parameters of a site (R120, R121) -/

/-- FRAME_LEN of a site. -/
def State.frameLen (s : State) (i : Nat) : Nat := 1024 * 2 ^ s.rd (tniP i) Reg.Tn.FL_CODE

/-- SLACK_LEN of a site. -/
def State.slackLen (s : State) (i : Nat) : Nat := 16 * s.rd (tniP i) Reg.Tn.SL

/-- The cycle at which the site's slack window opens, counted as its base is. -/
def State.slackAt (s : State) (i : Nat) : Nat := (s.site i).base + s.frameLen i - s.slackLen i

/-! ### Lines of memory -/

/-- A line of up to 128 bytes with the poison marks of its words. -/
structure Line where
  data : Nat
  poison : Nat
  deriving DecidableEq, Repr

/-- R30: read latency of a bank. -/
def bankLat (b : Nat) : Nat := if b < 12 then 3 else 5

/-- R101, R118: what reading `words` words of a scratchpad line notes: corrected and uncorrectable words. -/
def State.noteSp (s : State) (c : CoreId) (b l w0 words : Nat) : State :=
  let a := spAddr c.site c.n b l + 8 * w0
  let ce := marksGet s.mem.ce (a / 8) words
  let ue := marksGet s.mem.ue (a / 8) words
  let p := coreP c
  let s := if ce = 0 then s else (s.setBit p Reg.Co.CE).bump p Reg.Co.SP_CE_CNT (popc words ce)
  if ue = 0 then s
  else
    (((((s.setBit p Reg.Co.UE).bump p Reg.Co.SP_UE_CNT (popc words ue)).wr p Reg.Co.UE_BANK b).wr p
      Reg.Co.UE_LINE l).wr p Reg.Co.UE_WORD (w0 + Nat.log2 ue))

/-- A scheduled read of a whole scratchpad line. -/
def State.spLine (s : State) (c : CoreId) (b l : Nat) : Line :=
  ⟨memRead s.mem (spAddr c.site c.n b l) 128, memPoison s.mem (spAddr c.site c.n b l) 16⟩

/-- Writes whole words of any memory. -/
def State.put (s : State) (a words : Nat) (l : Line) : State :=
  { s with mem := memWrite s.mem a words l.data l.poison }

/-- Reads whole words of any memory. -/
def State.take (s : State) (a words : Nat) : Line := ⟨memRead s.mem a (8 * words), memPoison s.mem a words⟩

end Sys2Proof.Machine
end

