-- ==== Sys2Proof/Machine/Matrix.lean ====
section
/-! DEFINITION. The matrix array (R28 to R58): what an accepted MX operation does to buffers, exponent registers,
accumulator slots and scratchpad. -/

namespace Sys2Proof.Machine

/-! ### Tiles -/

/-- R29: pair modes W4 and W4U. -/
def isPair (mode : Nat) : Bool := mode = 3 || mode = 4

/-- R29: mode class: 0 1-bit, 1 2-bit, 2 4-bit. -/
def modeClass (mode : Nat) : Nat := if mode = 0 then 0 else if mode ≤ 2 then 1 else 2

/-- R34: side lines of a tile. -/
def sideLines (mode fine : Nat) : Nat := (if mode = 0 then 26 else 22) + 8 * fine

/-- R60: the two parts of the weight of column `n` in K row `k` of a stored tile: the whole value in the first
component, or high and low parts in a pair mode. `line` gives data line i as a number. -/
def weightOf (mode : Nat) (line : Nat → Nat) (k n : Nat) : Int × Int :=
  match mode with
  | 0 =>
    let b := if k < 128 then bits (line k) n 1 else bits (line (k - 128)) (512 + n) 1
    (if b = 0 then 1 else -1, 0)
  | 3 =>
    let c := bits (line (2 * k + n / 256)) (4 * (n % 256)) 4
    (sgn 2 (c / 4), (c % 4 : Nat))
  | 4 =>
    let c := bits (line (2 * k + n / 256)) (4 * (n % 256)) 4
    ((c / 4 : Nat), (c % 4 : Nat))
  | _ => (sgn 2 (bits (line k) (2 * n) 2), 0)

/-- R60: the integer weight of its parts: `4 h + l` in a pair mode. -/
def weightInt (mode : Nat) (p : Int × Int) : Int := if isPair mode then 4 * p.1 + p.2 else p.1

/-- R315: column groups with a column in word `w` of data line `i`. -/
def wordGroups (mode i w : Nat) : Nat :=
  match mode with
  | 0 => 2 ^ (w % 8)
  | 3 | 4 => 2 ^ (4 * (i % 2) + w / 4)
  | _ => 2 ^ (w / 2)

/-- R315: groups that the poisoned words `pm` of data line `i` mark. -/
def lineGroups (mode i pm : Nat) : Nat :=
  upTo 16 (fun acc w => if bits pm w 1 = 1 then acc ||| wordGroups mode i w else acc) 0

/-- R40: groups of a W2T data line that hold code 0b10. -/
def w2tGroups (line : Nat) : Nat :=
  upTo 512 (fun acc n => if bits line (2 * n) 2 = 2 then acc ||| 2 ^ (n / 64) else acc) 0

/-- R33, R34: copies a tile into buffer `x` and answers the marked groups and those found by the W2T check. -/
def loadTile (s : State) (c : CoreId) (x mode dq doff sq soff fine : Nat) : State × Nat × Nat :=
  let wb := wbufBase c.site c.n x
  let r := upTo 128 (fun (acc : State × Nat × Nat) i =>
    let b := 4 * dq + i % 4
    let l := doff + i / 4
    let ln := acc.1.spLine c b l
    let s := (acc.1.noteSp c b l 0 16).put (wb + 128 * i) 16 ⟨ln.data, 0⟩
    let w2t := if mode = 2 then w2tGroups ln.data else 0
    (s, acc.2.1 ||| lineGroups mode i ln.poison ||| w2t, acc.2.2 ||| w2t)) (s, 0, 0)
  upTo (sideLines mode fine) (fun (acc : State × Nat × Nat) k =>
    let b := 4 * sq + k % 4
    let l := soff + k / 4
    let ln := acc.1.spLine c b l
    let s := (acc.1.noteSp c b l 0 16).put (wb + 0x4000 + 128 * k) 16 ⟨ln.data, 0⟩
    (s, if ln.poison = 0 then acc.2.1 else 0xFF, acc.2.2)) r

/-- MXLOAD (R33, R34, R53): the tile stands in the buffer, valid, in its mode. -/
def mxLoad (s : State) (c : CoreId) (x mode dq doff sq soff fine : Nat) : State :=
  let (s, bad, w2t) := loadTile s c x mode dq doff sq soff fine
  let p := coreP c
  let k := s.core c
  let k := if x = 0 then { k with fineA := fine = 1, badA := bad } else { k with fineB := fine = 1, badB := bad }
  let s := s.setCore c k
  let s := if w2t = 0 then s else s.setBit p Reg.Co.W2T_CODE
  if x = 0 then (s.setBit p Reg.Co.BUF_A_VALID).wr p Reg.Co.BUF_A_MODE mode
  else (s.setBit p Reg.Co.BUF_B_VALID).wr p Reg.Co.BUF_B_MODE mode

/-- R315: a line's bytes with those of poisoned words replaced by 0x80. -/
def poisonBytes (l : Line) : Nat :=
  upTo 16 (fun acc w => if bits l.poison w 1 = 1 then
    acc - bits acc (64 * w) 64 * 2 ^ (64 * w) + 0x8080808080808080 * 2 ^ (64 * w) else acc) l.data

/-- MXEXP (R36): one line into an exponent register. -/
def mxExp (s : State) (c : CoreId) (xsel bank line : Nat) : State :=
  let l := s.spLine c bank line
  (s.noteSp c bank line 0 16).put (xregBase c.site c.n xsel) 16 ⟨poisonBytes l, 0⟩

/-! ### Rows -/

/-- R35: the activation bytes of row `i` (element k in byte k; 256 elements in W1) and whether a word read is
poisoned. -/
def actRow (s : State) (c : CoreId) (mode aq aoff i : Nat) : Nat × Bool :=
  match mode with
  | 0 =>
    let lo := s.spLine c (4 * aq + i % 4) (aoff + i / 4)
    let hi := s.spLine c (4 * aq + (i + 2) % 4) (aoff + 32 + i / 4)
    (lo.data + hi.data * 2 ^ 1024, lo.poison != 0 || hi.poison != 0)
  | 3 | 4 =>
    let j := i / 2
    let l := s.spLine c (4 * aq + 2 * (j % 2)) (aoff + j / 2)
    (bits l.data (512 * (i % 2)) 512, bits l.poison (8 * (i % 2)) 8 != 0)
  | _ =>
    let l := s.spLine c (4 * aq + i % 4) (aoff + i / 4)
    (l.data, l.poison != 0)

/-- Notes the scratchpad errors of the lines that hold row `i`. -/
def noteRow (s : State) (c : CoreId) (mode aq aoff i : Nat) : State :=
  match mode with
  | 0 => (s.noteSp c (4 * aq + i % 4) (aoff + i / 4) 0 16).noteSp c (4 * aq + (i + 2) % 4) (aoff + 32 + i / 4) 0 16
  | 3 | 4 => s.noteSp c (4 * aq + 2 * (i / 2 % 2)) (aoff + i / 4) (8 * (i % 2)) 8
  | _ => s.noteSp c (4 * aq + i % 4) (aoff + i / 4) 0 16

/-- Elements of a row that are not zero, with their K row; the NaN marker enters as 0 (R40). -/
def rowElems (amode bytes from_ n : Nat) : List (Nat × Int) :=
  (List.range n).filterMap (fun k =>
    let b := bits bytes (8 * (from_ + k)) 8
    let v : Int := if amode = 1 then b else if b = 0x80 then 0 else sgn 8 b
    if v = 0 then none else some (from_ + k, v))

/-- R40: whether a row holds the NaN marker in its first `n` elements. -/
def rowNan (amode bytes n : Nat) : Bool :=
  amode = 0 && (List.range n).any (fun k => bits bytes (8 * k) 8 = 0x80)

/-- R37: a partial dot over the listed elements; in a pair mode the dots of the high and of the low parts. -/
def dotParts (mode : Nat) (line : Nat → Nat) (es : List (Nat × Int)) (n : Nat) : Int × Int :=
  es.foldl (fun acc e =>
    let w := weightOf mode line e.1 n
    (acc.1 + w.1 * e.2, acc.2 + w.2 * e.2)) (0, 0)

/-- R34: check sum entry (g, k, h) of a check block given as one number. -/
def checkEntry (blk g k h : Nat) : Int := sgn 9 (bits blk (((g * 128 + k) * 2 + h) * 9) 9)

/-- R42: the check dot of group `g` over the listed elements with the entries of `h`. -/
def checkDot (blk g h : Nat) (es : List (Nat × Int)) : Int :=
  es.foldl (fun acc e => acc + checkEntry blk g (e.1 % 128) h * e.2) 0

/-- R42: the groups in which the check columns disagree; `ds` gives the dots of each column. -/
def mismatch (mode blk h : Nat) (es : List (Nat × Int)) (ds : List (Int × Int)) : Nat :=
  upTo 8 (fun acc g =>
    let cols := (ds.drop (64 * g)).take 64
    let hi := (cols.map Prod.fst).sum
    let lo := (cols.map Prod.snd).sum
    let bad := if isPair mode then checkDot blk g 0 es != hi || checkDot blk g 1 es != lo
      else checkDot blk g h es != hi
    if bad then acc ||| 2 ^ g else acc) 0

/-- One column update of the accumulate stage (R38, R39): the new FP32 code and whether finite operands gave ±∞. -/
def accStep (acc : Nat) (d : Int) (ex : Int) (f : Val) : Nat × Bool :=
  let dv : Val := Dy.val false ⟨d, ex⟩
  let p := encodeNear .fp32 (dv.mul f).1
  let a := Fp.decode .fp32 acc
  let r := (a.add (Fp.decode .fp32 p.code)).1
  let e := encodeNear .fp32 r
  (e.code, p.ovf || e.ovf)

/-- What one row does to its slot (R38, R40 to R44). -/
structure RowRes where
  /-- The slot's 512 FP32 codes, column n at bit 32 n. -/
  codes : Nat
  /-- Group poison bits that the row adds. -/
  poison : Nat
  /-- Groups that mismatch. -/
  groups : Nat
  /-- Column updates that produced ±∞ from finite operands. -/
  infs : Nat
  /-- A group scale of 0x80 was used. -/
  scalePoison : Bool
  deriving DecidableEq, Repr

/-- R38: the row's additions for one half: `base` gives the slot's codes before. -/
def rowHalf (mode : Nat) (ds : List (Int × Int)) (ea : Int) (psh : Int) (scale fine : Nat → Nat) (hasFine : Bool)
    (base : Nat) : Nat × Nat × Nat × Bool :=
  (List.range 512).foldl (fun (acc : Nat × Nat × Nat × Bool) n =>
    let d := weightInt mode (ds.getD n (0, 0))
    let sb := scale n
    let ew : Int := if sb = 0x80 then 0 else e8 sb
    let f : Val := if hasFine then Fp.decode .fp16 (fine n) else .fin false 1 0
    let r := accStep (bits base (32 * n) 32) d (ea + ew + psh) f
    (acc.1 + r.1 * 2 ^ (32 * n), if sb = 0x80 then acc.2.1 ||| 2 ^ (n / 64) else acc.2.1,
      acc.2.2.1 + (if r.2 then 1 else 0), acc.2.2.2 || sb = 0x80)) (0, 0, 0, false)

/-- R37 to R44: row `i` of an MXMUL on buffer `x` over the slot codes `base`. -/
def rowStep (s : State) (c : CoreId) (x amode aq aoff xsel xidx : Nat) (psh : Int) (bad : Nat) (i base : Nat) : RowRes :=
  let p := coreP c
  let k := s.core c
  let mode := if x = 0 then s.rd p Reg.Co.BUF_A_MODE else s.rd p Reg.Co.BUF_B_MODE
  let hasFine := if x = 0 then k.fineA else k.fineB
  let marked := if x = 0 then k.badA else k.badB
  let wb := wbufBase c.site c.n x
  let line := fun j => memRead s.mem (wb + 128 * j) 128
  let blk := memRead s.mem (wb + 0x4000) 2304
  let scales := memRead s.mem (wb + 0x4000 + 2304) (if mode = 0 then 1024 else 512)
  let fines := memRead s.mem (wb + 0x4000 + 2304 + (if mode = 0 then 1024 else 512)) 1024
  let fine := fun n => bits fines (16 * n) 16
  let act := actRow s c mode aq aoff i
  let exb (r : Nat) := memRead s.mem (xregBase c.site c.n r + xidx + i) 1
  let exOf (b : Nat) : Int := if b = 0x80 then 0 else e8 b
  let es0 := rowElems amode act.1 0 (if mode = 0 then 128 else if isPair mode then 64 else 128)
  let tab := (es0.map (fun e => e.1)).foldl (fun (t : Tab Nat) j =>
    if isPair mode then tabInsert (tabInsert t (2 * j) (line (2 * j))) (2 * j + 1) (line (2 * j + 1))
    else tabInsert t j (line j)) []
  let es1 := if mode = 0 then rowElems amode act.1 128 128 else []
  let tab := (es1.map (fun e => e.1 - 128)).foldl (fun (t : Tab Nat) j => tabInsert t j (line j)) tab
  let look := fun j => tabGet (fun _ => 0) tab j
  let d0 := (List.range 512).map (dotParts mode look es0)
  let d1 := (List.range 512).map (dotParts mode look es1)
  let g0 := mismatch mode blk 0 es0 d0
  let g1 := if mode = 0 then mismatch mode blk 1 es1 d1 else 0
  let h0 := rowHalf mode d0 (exOf (exb xsel)) psh (fun n => bits scales (8 * n) 8) fine hasFine base
  let h1 := if mode = 0 then
      rowHalf mode d1 (exOf (exb (1 - xsel))) psh (fun n => bits scales (8 * (512 + n)) 8) fine hasFine h0.1
    else (h0.1, 0, 0, false)
  let nan := rowNan amode act.1 (if mode = 0 then 256 else if isPair mode then 64 else 128)
  let pExp := exb xsel = 0x80 || (mode = 0 && exb (1 - xsel) = 0x80)
  let groups := (g0 ||| g1 ||| bad) % 256
  let poison := h0.2.1 ||| h1.2.1 ||| marked ||| groups ||| (if act.2 || pExp then 0xFF else 0)
  { codes := if nan then upTo 512 (fun acc n => acc + Fp.nan .fp32 * 2 ^ (32 * n)) 0 else h1.1
    poison := poison, groups := groups
    infs := if nan then 0 else h0.2.2.1 + h1.2.2.1
    scalePoison := h0.2.2.2 || h1.2.2.2 }

/-! ### Slots -/

/-- Address of slot `m`. -/
def slotAddr (c : CoreId) (m : Nat) : Nat := accBase c.site c.n + 2048 * m

/-- The eight group poison bits of slot `m`: the mark of the first word of each group (R28). -/
def slotPoison (s : State) (c : CoreId) (m : Nat) : Nat :=
  upTo 8 (fun acc g => if keyHas s.mem.poison (slotAddr c m / 8 + 32 * g) then acc + 2 ^ g else acc) 0

/-- The marks of a slot's 256 words for group poison bits `g`. -/
def slotMarks (g : Nat) : Nat := upTo 8 (fun acc k => acc + bits g k 1 * 2 ^ (32 * k)) 0

/-- R45: notes latent errors of a slot that is read; answers the groups of uncorrectable words. -/
def noteSlot (s : State) (c : CoreId) (m : Nat) : State × Nat :=
  let w := slotAddr c m / 8
  let ce := marksGet s.mem.ce w 256
  let ue := marksGet s.mem.ue w 256
  let p := coreP c
  let s := if ce = 0 then s else (s.setBit p Reg.Co.ACC_CE).bump p Reg.Co.CE_CNT (popc 256 ce)
  let s := if ue = 0 then s else s.setBit p Reg.Co.ACC_UE
  (s, upTo 8 (fun acc g => if bits ue (32 * g) 32 = 0 then acc else acc + 2 ^ g) 0)

/-- What an MXMUL leaves behind for the trap logic: the first mismatching row (R43). -/
structure MulRes where
  st : State
  /-- Row, groups and slot of the first mismatch. -/
  check : Option (Nat × Nat × Nat)
  deriving DecidableEq, Repr

/-- One row of an MXMUL into slot `slot + i` (R38, R43, R44). -/
def mulRow (c : CoreId) (x accm amode aq aoff slot xsel xidx : Nat) (psh : Int) (arr : ArrayUpset) (r : MulRes) (i : Nat) : MulRes :=
  let m := slot + i
  let p := coreP c
  let mode := if x = 0 then r.st.rd p Reg.Co.BUF_A_MODE else r.st.rd p Reg.Co.BUF_B_MODE
  let s := noteRow r.st c mode aq aoff i
  let (s, ueg) := if accm = 1 then (s, 0) else noteSlot s c m
  let base := if accm = 1 then 0 else memRead s.mem (slotAddr c m) 2048
  let old := if accm = 1 then 0 else slotPoison s c m ||| ueg
  let at_ := fun (l : List (Nat × Nat)) => (l.filter (fun b => b.1 = i)).foldl (fun a b => a ||| b.2) 0
  let q := rowStep s c x amode aq aoff xsel xidx psh (at_ arr.lanes) i base
  let pAct := arr.act.contains i
  let pExp := arr.exp.contains i
  let pScale := at_ arr.scale % 256
  let poison := old ||| q.poison ||| (if pAct || pExp then 0xFF else 0) ||| pScale
  let s := s.put (slotAddr c m) 256 ⟨q.codes, slotMarks poison⟩
  let s := if q.scalePoison then s.setBit p Reg.Co.SCALE_POISON else s
  let s := if q.infs = 0 then s else (s.setBit p Reg.Co.ACC_INF).bump p Reg.Co.INF_CNT q.infs
  let s := if pAct then (s.setBit p Reg.Co.ACT_PARITY).bump p Reg.Co.PARITY_CNT 1 else s
  let s := if pExp then (s.setBit p Reg.Co.XREG_PARITY).bump p Reg.Co.PARITY_CNT 1 else s
  let s := if pScale = 0 then s else (s.setBit p Reg.Co.SCALE_PARITY).bump p Reg.Co.PARITY_CNT 1
  let s := if q.groups = 0 then s else s.bump p Reg.Co.CHECK_CNT 1
  ⟨s, if q.groups = 0 then r.check else match r.check with
    | some x => some x
    | none => some (i, q.groups, m)⟩

/-- MXMUL (R37 to R44): `m` rows from entry cycle `e0`; the CHECK registers take the first mismatch (R58). -/
def mxMul (s : State) (c : CoreId) (x accm amode aq aoff m slot xsel xidx : Nat) (psh : Int) (arr : ArrayUpset) (e0 : Nat) : MulRes :=
  let r := upTo m (mulRow c x accm amode aq aoff slot xsel xidx psh arr) ⟨s, none⟩
  let p := coreP c
  match r.check with
  | none => r
  | some (i, g, sl) =>
    ⟨(((r.st.setBit p Reg.Co.CHECK).wr p Reg.Co.GROUPS g).wr p Reg.Co.SLOT sl).wr p Reg.Co.CYCLE_208
      (e0 + i - (s.site c.site).base), r.check⟩

/-- R50: the BF16 codes of 64 columns of a slot from column `n0`. -/
def drainBf16 (codes n0 : Nat) : Nat :=
  upTo 64 (fun acc n =>
    let v := Fp.decode .fp32 (bits codes (32 * (n0 + n)) 32)
    acc + ((convFp .bf16 .nearest false v).pieces.headD 0) * 2 ^ (16 * n)) 0

/-- R50: the drain lines of slot `m`. -/
def drainSlot (s : State) (c : CoreId) (fmt m dq doff i0 : Nat) : State :=
  let (s, ueg) := noteSlot s c m
  let codes := memRead s.mem (slotAddr c m) 2048
  let pois := slotPoison s c m ||| ueg
  let per := if fmt = 0 then 16 else 8
  upTo per (fun s j =>
    let i := i0 + j
    let g := if fmt = 0 then j / 2 else j
    let d := if fmt = 0 then bits codes (1024 * j) 1024 else drainBf16 codes (64 * j)
    s.put (spAddr c.site c.n (4 * dq + i % 4) (doff + i / 4)) 16 ⟨d, if bits pois g 1 = 1 then 0xFFFF else 0⟩) s

/-- MXDRAIN (R50, R55): `cnt` slots from `slot`; `keep` lists slots whose clear is lost. -/
def mxDrain (s : State) (c : CoreId) (fmt clr slot cnt dq doff : Nat) (keep : List Nat) : State :=
  let per := if fmt = 0 then 16 else 8
  let s := upTo cnt (fun s q => drainSlot s c fmt (slot + q) dq doff (per * q)) s
  if clr = 0 then s
  else
    let s := if keep = [] then s else s.setBit (coreP c) Reg.Co.CLR_LOST
    upTo cnt (fun s q => if keep.contains (slot + q) then s else s.put (slotAddr c (slot + q)) 256 ⟨0, 0⟩) s

end Sys2Proof.Machine
end

