-- ==== Sys2Proof/Machine/Records.lean ====
section
/-! DEFINITION. Records, the event log, the event queues and completion rings (R171, R382, R383, R414 to R416). -/

namespace Sys2Proof.Machine

/-- R171: one byte of CRC-32C, reflected polynomial 0x82F63B78. -/
def crcByte (crc b : Nat) : Nat :=
  (List.range 8).foldl (fun c _ => if c % 2 = 1 then (c / 2) ^^^ 0x82F63B78 else c / 2) (crc ^^^ b)

/-- CRC-32C of the low `n` bytes of a number. -/
def crc32c (v n : Nat) : Nat := ((List.range n).foldl (fun c i => crcByte c (bits v (8 * i) 8)) 0xFFFFFFFF) ^^^ 0xFFFFFFFF

/-- Packs fields (byte offset, bytes, value) into one little-endian number (R4). -/
def packRec (fs : List (Nat × Nat × Nat)) : Nat :=
  fs.foldl (fun acc f => acc + f.2.2 % 256 ^ f.2.1 * 256 ^ f.1) 0

/-- A 64-byte record with its CRC over bytes 0 to 59. -/
def sealRec (fs : List (Nat × Nat × Nat)) : Nat :=
  let v := packRec fs
  v + crc32c v 60 * 256 ^ 60

/-- R16: physical column of logical column `u` in row `y` of the map in use (R379). -/
def physCol (s : State) (y u : Nat) : Nat :=
  let s1 := s.rd mapP (Reg.Ma.SPARE_X y)
  let s2 := s.rd mapP (Reg.Ma.SPARE2_X y)
  if s.rd mapP (Reg.Ma.SPARE2_VALID y) = 1 then
    if u < s1 then u else if u + 1 < s2 then u + 1 else u + 2
  else if u < s1 then u else u + 1

/-- R6: physical site of logical site `j`, if the map in use has it. -/
def physOf (s : State) (j : Nat) : Option Nat :=
  let w := s.rd mapP Reg.Ma.W
  if w = 0 ∨ 16 * w ≤ j then none else some (16 * (j / w) + physCol s (j / w) (j % w))

/-- R25, R27: the memory key of a panel-local data address in the well or cistern. -/
def dataKey (s : State) (a : Nat) : Option Nat := (physOf s (bits a 40 8)).map (fun i => siteBase i + a % 2 ^ 40)

/-- R382: field `f` of the queue whose IX words begin at `q`. -/
def qFld (f : Fld) (q : Nat) : Fld := { f with off := q + (f.off - 0x100) }

/-- R382: IX words of event queue `r`. -/
def evqIx (r : Nat) : Nat := 0x100 + 4 * r

/-- R382: IX words of completion ring `c` of site `i`. -/
def ringIx (i c : Nat) : Nat := 0x10000 + 4 * (256 * i + c)

/-- Entries of a queue. -/
def qLen (s : State) (q : Nat) : Nat := 2 ^ s.rd queueP (qFld (Reg.Qu.LOG2_N 0) q)

/-- R383: a queue takes a record unless it is disabled or full. -/
def qRoom (s : State) (q : Nat) : Bool :=
  s.rd queueP (qFld (Reg.Qu.ENABLE 0) q) = 1 &&
    (s.rd queueP (qFld (Reg.Qu.HEAD 0) q) + 1) % qLen s q != s.rd queueP (qFld (Reg.Qu.TAIL 0) q)

/-- Sends `o`. -/
def State.emit (s : State) (o : Out) : State := { s with out := s.out ++ [o] }

/-- R383: writes a record into a queue that has room; HEAD then advances and the interrupt follows. -/
def qPut (s : State) (q rec : Nat) : State :=
  let head := s.rd queueP (qFld (Reg.Qu.HEAD 0) q)
  let owner := s.rd queueP (qFld (Reg.Qu.OWNER 0) q)
  let a := s.rd queueP (qFld (Reg.Qu.BASE_LO 0) q) + s.rd queueP (qFld (Reg.Qu.BASE_HI 0) q) * 2 ^ 32 + 64 * head
  let s :=
    if s.rd queueP (qFld (Reg.Qu.HOST 0) q) = 1 then
      s.emit (.hostWrite (bits a 60 4) (owner + 1) (a % 2 ^ 60) 64 rec false)
    else match dataKey s (a % 2 ^ 48) with
      | some k => s.put k 8 ⟨rec, 0⟩
      | none => s
  let s := s.wr queueP (qFld (Reg.Qu.HEAD 0) q) ((head + 1) % qLen s q)
  if s.rd queueP (qFld (Reg.Qu.INT_EN 0) q) = 1 then
    s.emit (.msix (s.rd queueP (qFld (Reg.Qu.INT_HUB 0) q)) (owner + 1) (s.rd queueP (qFld (Reg.Qu.INT_VEC 0) q)))
  else s

/-- R383: a record for event queue `r`; one that finds no room is lost and counted. -/
def evqPut (s : State) (r rec : Nat) : State :=
  if 16 ≤ r then s
  else if qRoom s (evqIx r) then qPut s (evqIx r) rec else s.bump queueP (Reg.Qu.EVQ_DROP r) 1

/-- R415: the tag of a record of class `cls` of region `r` (16: none). -/
def logTag (cls r : Nat) : Nat := cls + (if r < 16 then r * 256 else 0x1000)

/-- R414: enters a record under the next sequence. -/
def logEnter (s : State) (tag rec : Nat) : State :=
  let n := s.rd logP Reg.Lo.LOG_NEXT_SEQ
  let ram := s.logRam ++ [({ seq := n, tag := tag, body := rec } : LogRec)]
  let s := { s with logRam := ram.drop (ram.length - 16384) }
  s.wr logP Reg.Lo.LOG_NEXT_SEQ (n + 1)

/-- R414: records in RAM that are not in flash yet. -/
def logWaiting (s : State) : Nat :=
  unsgn 32 ((s.rd logP Reg.Lo.LOG_NEXT_SEQ : Int) - s.rd logP Reg.Lo.LOG_FLASHED_SEQ)

/-- R370: the word that register offset `o` of a page holds, from a table of its fields. -/
def wordOf (s : State) (page : Nat) (t : List RegDef) (o : Nat) : Nat :=
  (fieldsAt t o).foldl (fun acc f => acc ||| s.rd page f * 2 ^ f.lsb) 0

/-- R415: the snapshot of a page's error and counter registers, in offset order, cut to 34 bytes. -/
def eventDetail (s : State) (page : Nat) (t : List RegDef) : Nat :=
  let offs := (t.filter (fun d => d.fld.ev)).foldl (fun (l : List Nat) d => if l.contains d.fld.off then l else l ++ [d.fld.off]) []
  (offs.take 9).zipIdx.foldl (fun acc o => acc + wordOf s page t o.1 * 2 ^ (32 * o.2)) 0 % 256 ^ 34

/-- The source of an event record (R415). -/
structure EvSrc where
  kind : Nat := 0
  index : Nat := 0
  /-- Region, 16 for none. -/
  region : Nat := 16
  frame : Nat := 0
  page : Nat := 0
  table : List RegDef := []
  deriving DecidableEq, Repr

/-- R415: the bytes of an event record. -/
def eventRec (s : State) (code sev : Nat) (src : EvSrc) (count sub : Nat) : Nat :=
  sealRec [(0, 8, s.time), (8, 2, code), (10, 1, sev), (11, 1, src.kind), (12, 2, src.index), (14, 6, src.frame),
    (20, 4, count), (24, 2, sub), (26, 34, eventDetail s src.page src.table)]

/-- R414: adds a record to the log; a full RAM ring drops it, and the drops are told first when room returns. -/
def logAdd (s : State) (tag rec : Nat) : State :=
  if 16384 ≤ logWaiting s then
    ({ s with logLost := s.logLost + 1 }.bump logP Reg.Lo.LOG_DROP_CNT 1).setBit logP Reg.Lo.DROP
  else if s.logLost = 0 then logEnter s tag rec
  else
    let gap := eventRec s 0x1D 1 { page := logP, table := Reg.Lo.regs } s.logLost 0
    let s := logEnter { s with logLost := 0 } (logTag 4 16) gap
    if 16384 ≤ logWaiting s then
      ({ s with logLost := 1 }.bump logP Reg.Lo.LOG_DROP_CNT 1).setBit logP Reg.Lo.DROP
    else logEnter s tag rec

/-- R415: logs an event record. -/
def logEvent (s : State) (code sev : Nat) (src : EvSrc) (count : Nat := 1) (sub : Nat := 0) : State :=
  logAdd s (logTag 4 src.region) (eventRec s code sev src count sub)

/-- R447: sends PF0's vector `b` through the host port that carries PF0's interrupts, if any host link is up. -/
def pfVector (s : State) (b : Nat) : State :=
  let up := fun h => s.rd (x16P h) Reg.Xp.X16_ROLE = 1 && s.rd (x16P h) Reg.Xp.LINK_UP = 1
  let h0 := s.rd idP Reg.Id.PF_INT_HUB
  match if up h0 then some h0 else (List.range 16).find? up with
  | some h => s.emit (.msix h 0 b)
  | none => s

/-- R377: the PF_INT_STAT bits. -/
def pfBit (b : Nat) : Fld := { Reg.Id.PANEL_ERR with lsb := b }

/-- R447: hardware sets PF_INT_STAT bit `b`. -/
def pfSet (s : State) (b : Nat) : State :=
  let was := s.rd idP (pfBit b)
  let s := s.wr idP (pfBit b) 1
  if was = 0 ∧ bits (s.rd idP Reg.Id.PF_INT_EN) b 1 = 1 then pfVector s b else s

end Sys2Proof.Machine
end

