-- ==== Sys2Proof/Machine/Timers.lean ====
section
/-! DEFINITION. Interval timers (R418 to R420). -/

namespace Sys2Proof.Machine

/-- R421: field `f` (of word w, with `f.off` the word's index for timer 0 of core 0) of timer `t` of core `n`. -/
def tmFld (f : Fld) (n t : Nat) : Fld := { f with off := f.off + 8 * (16 * n + t) }

/-- Key of a timer's last start while it runs, or of its last stop while it is idle: schedule cycle and RCNT. -/
def timerKey (c : CoreId) (t : Nat) : Nat := coreKey c * 16 + t

/-- R419, R420: records an interval of `cc` cycles and `ns` ns; both saturate. -/
def timerRecord (s : State) (c : CoreId) (t cc ns : Nat) (co : Bool) : State :=
  let p := timP c.site
  let cc := min cc 0xFFFFFFFF
  let s := s.wr p (tmFld (Reg.Tm.LAST_CC 0) c.n t) cc
  let s := s.wr p (tmFld (Reg.Tm.LAST_NS 0) c.n t) (min ns 0xFFFFFFFF)
  let s := s.wr p (tmFld (Reg.Tm.LAST_COINCIDENT 0) c.n t) (if co then 1 else 0)
  let s := s.bump p (tmFld (Reg.Tm.COUNT 0) c.n t) 1
  let s := s.wr p (tmFld (Reg.Tm.MIN_CC 0) c.n t) (min (s.rd p (tmFld (Reg.Tm.MIN_CC 0) c.n t)) cc)
  s.wr p (tmFld (Reg.Tm.MAX_CC 0) c.n t) (max (s.rd p (tmFld (Reg.Tm.MAX_CC 0) c.n t)) cc)

/-- Starts or stops the running mark of a timer, in its own word and in the page's bitmap (R421). -/
def timerRun (s : State) (c : CoreId) (t : Nat) (on : Bool) (cc ns : Nat) : State :=
  let p := timP c.site
  let s := s.wr p (tmFld (Reg.Tm.RUN 0) c.n t) (if on then 1 else 0)
  let old := s.rd p (Reg.Tm.RUNNING c.n)
  let s := s.wr p (Reg.Tm.RUNNING c.n) (if on then old ||| 2 ^ t else old - bits old t 1 * 2 ^ t)
  { s with timers := tabSet (fun _ => (0, 0)) s.timers (timerKey c t) (cc, ns) }

/-- R419: events (log entry 12: two sources of one cycle arrive one after the other) at timer `t` of core `c`; `cc` and `ns` are the cycle's schedule count and RCNT. -/
def timerEvent (s : State) (c : CoreId) (t : Nat) (start stop : Bool) (cc ns : Nat) : State :=
  let p := timP c.site
  if s.rd p (tmFld (Reg.Tm.ENABLE 0) c.n t) = 0 then s
  else
    let run := decide (s.rd p (tmFld (Reg.Tm.RUN 0) c.n t) = 1)
    let c0 := tabGet (fun _ => (0, 0)) s.timers (timerKey c t)
    match run, start, stop with
    | _, false, false => s
    | false, true, false =>
      let s := if c0 = (cc, ns) ∧ c0 ≠ (0, 0) then s.wr p (tmFld (Reg.Tm.LAST_COINCIDENT 0) c.n t) 1 else s
      timerRun s c t true cc ns
    | false, false, true => s.bump p (tmFld (Reg.Tm.ORPHAN_CNT 0) c.n t) 1
    | false, true, true => timerRecord s c t 0 0 true
    | true, false, true => timerRun (timerRecord s c t (cc - c0.1) ((ns - c0.2) / 10) (cc = c0.1)) c t false cc ns
    | true, true, false => s.bump p (tmFld (Reg.Tm.DOUBLE_CNT 0) c.n t) 1
    | true, true, true => timerRun (timerRecord s c t (cc - c0.1) ((ns - c0.2) / 10) true) c t true cc ns

/-- R418: a source event (`src` 1 frame start, 2 kick completion, 3 slack start; 0 the CTL operation on timer `only`)
reaches the timers of core `c`. -/
def timerSource (s : State) (c : CoreId) (src : Nat) (only : Option Nat) (isStart isStop : Bool) (cc ns : Nat) : State :=
  upTo 16 (fun s t =>
    let p := timP c.site
    let mine := only = none || only = some t
    let st := isStart && s.rd p (tmFld (Reg.Tm.START_SRC 0) c.n t) = src
    let sp := isStop && s.rd p (tmFld (Reg.Tm.STOP_SRC 0) c.n t) = src
    if mine && (st || sp) then timerEvent s c t st sp cc ns else s) s

/-- R418: cycle 0 of an executed frame: its own event, and the kick completions that waited for it. -/
def timerFrame (s : State) (c : CoreId) (late : Bool) (cc ns : Nat) : State :=
  upTo 16 (fun s t =>
    let mine := fun (f : Nat → Fld) =>
      let x := s.rd (timP c.site) (tmFld (f 0) c.n t)
      x = 1 || (late && x = 2)
    if mine Reg.Tm.START_SRC || mine Reg.Tm.STOP_SRC then timerEvent s c t (mine Reg.Tm.START_SRC) (mine Reg.Tm.STOP_SRC) cc ns else s) s

end Sys2Proof.Machine
end

