-- ==== Sys2Proof/Machine/Units.lean ====
section
/-! DEFINITION. What the units share: writes that are not taken (R371), buffered writes (R373), regions and their sites
(R340, R16), region faults (R170), failures (R24, R321, R326). -/

namespace Sys2Proof.Machine

/-- Answers a next state when the units a command names exist, and stops otherwise. -/
def onUnit (ok : Bool) (s : State) : Host.Outcome State Fault Refusal := if ok then .next s else .fault .noSuchUnit

/-- R6, R28: the core exists on a panel. -/
def coreOk (c : CoreId) : Bool := c.site < 256 && c.n < 8

/-- The unit numbers of the panel (R6, R9). -/
def siteOk (i : Nat) : Bool := decide (i < 256)
def hubOk (h : Nat) : Bool := decide (h < 16)
def regionOk (r : Nat) : Bool := decide (r < 16)

/-! ### The page header (R367) -/

def Reg.Hd.BAD_VALUE : Fld := { off := 0xC, lsb := 0, w := 1, rst := 0, ty := .w1c }
def Reg.Hd.BUS_ERR : Fld := { off := 0xC, lsb := 1, w := 1, rst := 0, ty := .w1c }
def Reg.Hd.LAST_OFFSET : Fld := { off := 0xC, lsb := 16, w := 12, rst := 0, ty := .ro }
def Reg.Hd.IND_ADDR : Fld := { off := 0x10, lsb := 0, w := 32, rst := 0, ty := .rw }
def Reg.Hd.MBX_SEL : Fld := { off := 0x18, lsb := 0, w := 8, rst := 0, ty := .rw }
def Reg.Hd.VALID : Fld := { off := 0x1C, lsb := 0, w := 1, rst := 0, ty := .ro }
def Reg.Hd.SEL : Fld := { off := 0x1C, lsb := 8, w := 8, rst := 0, ty := .ro }
def Reg.Hd.MBX_DATA (k : Nat) : Fld := { off := 0x20 + 4 * k, lsb := 0, w := 32, rst := 0, ty := .ro }
def Reg.Hd.LAST_BY : Fld := { off := 0x34, lsb := 1, w := 1, rst := 0, ty := .ro }
def Reg.Hd.APPLY_CNT : Fld := { off := 0x34, lsb := 16, w := 16, rst := 0, ty := .ro }

/-- R369: the page address under which party `p` (0 PF0, r + 1 VF r) keeps its copy of the indirect and mailbox registers. -/
def partyP (p page : Nat) : Nat := page + (p + 1) * 2 ^ 40

/-- R384: the region control page of VF `r`, at an address of its own beside the PF0 map. -/
def vfP (r : Nat) : Nat := 0x40000000 + r * 0x1000000

/-- R371: a write to offset `off` of a page is not taken. -/
def badValue (s : State) (page off : Nat) : State :=
  (s.setBit page Reg.Hd.BAD_VALUE).wr page Reg.Hd.LAST_OFFSET off

/-- R371: the state after a write that triggers an action: the action's, or the refusal. -/
def takenOr (s : State) (page off : Nat) (r : Option State) : State := r.getD (badValue s page off)

/-! ### Domains and bus errors (R364, R376) -/

/-- Hub domains that are on. -/
def State.hubOn (s : State) (h : Nat) : Nat := tabGet (fun _ => 0) s.hubDom h

def State.setHubDom (s : State) (h v : Nat) : State := { s with hubDom := tabSet (fun _ => 0) s.hubDom h v }

/-- R364, R367: DOMAIN of a page: 0 always-on, 1 site VLINK, 2 site VLOGIC, 3 hub logic. -/
def pageDomain (page : Nat) : Nat :=
  if page < 0x1000000 ∨ 0x20000000 ≤ page then 0
  else if page < 0x2000000 then 3
  else
    let o := page % 0x100000
    if o = 0 ∨ o = 0x12000 ∨ o = 0x13000 ∨ o = 0x15000 ∨ o = 0x16000 then 1 else 2

/-- R367: POWERED of a page. -/
def powered (s : State) (page : Nat) : Bool :=
  match pageDomain page with
  | 0 => s.alwaysOn
  | 1 => bits (s.rd (spowP (page / 0x100000 - 0x100)) Reg.Sp.DOM_EN) 2 1 = 1
  | 2 => bits (s.rd (spowP (page / 0x100000 - 0x100)) Reg.Sp.DOM_EN) 0 1 = 1
  | _ => bits (s.hubOn (page / 0x100000 - 0x10)) 0 1 = 1

/-- R376, R348: an access of party `p` through the port of hub `h` to `addr` meets a bus error. -/
def busErrorAt (s : State) (p h addr reason : Nat) (write : Bool) : State :=
  let s := s.bump idP Reg.Id.BUSERR_CNT 1
  let s := { s with busErr := some (addr, reason + (if write then 8 else 0) + p * 16 + h * 512, s.time) }
  let s := logEvent s (if reason = 6 then 0x1E else 3) 1 { page := idP, table := Reg.Id.regs } 1 0
  (pfSet s 4).emit (.abort p addr write)

/-- R376: the same for a command that names no port (log entry 17). -/
def busError (s : State) (p addr reason : Nat) (write : Bool) : State :=
  busErrorAt s p (s.rd idP Reg.Id.PF_INT_HUB) addr reason write

/-- R376: the page at `addr`, and whether it lies off at offset 0x040 and above, or wholly. -/
def domainOff (s : State) (page off : Nat) : Bool :=
  if 0x10000000 ≤ page ∧ page < 0x20000000 ∧ bits (s.rd (spowP (page / 0x100000 - 0x100)) Reg.Sp.DOM_EN) 2 1 = 0 then true
  else decide (0x40 ≤ off) && !(powered s page)

/-- R385, R426: the Postmaster serves host accesses. -/
def serves (s : State) : Bool := s.rd pmP Reg.Pm.ALIVE = 1

/-- R376: after a time-out nobody knows whether a write took effect: `t` is the state if it did. -/
def unknownWrite (s t : State) : State :=
  let on := (Config.fresh t.drawn 1).toNat = 1
  { (if on then t else s) with drawn := t.drawn + 1 }

/-- R349: a register access to a site's pages is counted in its SIDEBAND budget. -/
def sideCount (s : State) (page : Nat) : State :=
  if page < 0x10000000 ∨ 0x20000000 ≤ page then s
  else
    let i := page / 0x100000 - 0x100
    let st := s.site i
    let lim := s.rd (budP i) Reg.Bu.BUD_SIDEBAND
    let s := s.setSite i { st with uSide := st.uSide + 1 }
    if lim ≠ 0 ∧ lim ≤ st.uSide then s.orBits (budP i) Reg.Bu.BUD_HIT 16 else s

/-- A host write by PF0, or by a VF to its region control page, that would leave `t`: what it leaves when the panel is off, when nobody serves it, when its block
is off, and otherwise (R376). -/
def hostPath (s : State) (page off : Nat) (t : State) : State :=
  let vf := decide (0x40000000 ≤ page)
  let p := if vf then (page - 0x40000000) / 0x1000000 + 1 else 0
  let a := (if vf then 0 else page) + off
  if !s.alwaysOn then s
  else if !(serves s) then busError (unknownWrite s t) p a 5 true
  else if domainOff s page off then busError s p a 3 true
  else sideCount t page

/-- A host write of PF0 with a row of its own: the action, or its refusal (R371). -/
def hostAct (s : State) (page off : Nat) (r : Option State) : State := hostPath s page off (takenOr s page off r)

/-! ### Buffered writes (R373) -/

/-- Holds a BA write of field `f` pending; `r` is the region that indexes it, 16 for none. -/
def baWrite (s : State) (page r : Nat) (f : Fld) (v : Nat) : State :=
  { s with pendBa := s.pendBa ++ [(page, r, fldKey page f, v % 2 ^ f.w)] }

/-- R370: a BA field reads as the value most recently written. -/
def baRead (s : State) (page : Nat) (f : Fld) : Nat :=
  match (s.pendBa.filter (fun b => b.1 = page && b.2.2.1 = fldKey page f)).getLast? with
  | some b => b.2.2.2
  | none => s.rd page f

/-- R367: notes an application that applied something; `host` when APPLY_CTL caused it. -/
def noteApply (s : State) (page : Nat) (host : Bool) : State :=
  (s.wr page Reg.Hd.LAST_BY (if host then 1 else 0)).wrap page Reg.Hd.APPLY_CNT 1

/-- Applies the pending writes that `sel` picks. -/
def applyBa (s : State) (host : Bool) (sel : Nat × Nat × Nat × Nat → Bool) : State :=
  let now := s.pendBa.filter sel
  let pages := now.foldl (fun (l : List Nat) b => if l.contains b.1 then l else l ++ [b.1]) []
  let s := { s with
    regs := now.foldl (fun t b => tabInsert (tabErase t b.2.2.1) b.2.2.1 b.2.2.2) s.regs
    pendBa := s.pendBa.filter (fun b => !(sel b)) }
  pages.foldl (fun s p => noteApply s p host) s

/-- R373: a page belongs to the page group of site `i`. -/
def pageOfSite (i page : Nat) : Bool := decide (siteP i 0 ≤ page) && decide (page < siteP (i + 1) 0)

/-- R373: applies what waits for a boundary of site `i`. -/
def applySite (s : State) (i : Nat) : State := applyBa s false (fun b => pageOfSite i b.1)

/-- R373: applies what waits for cycle 0 of region `r`'s next frame. -/
def applyRegion (s : State) (r : Nat) : State := applyBa s false (fun b => decide (b.2.1 = r) && decide (r < 16))

/-! ### Regions and the logical grid (R8, R10, R16, R340) -/

/-- Sites of region `r`. -/
def regionSites (s : State) (r : Nat) : List Nat := (List.range 256).filter (fun i => (s.site i).region = r)

/-- Every core of the sites. -/
def coresOf (is : List Nat) : List CoreId := is.flatMap (fun i => (List.range 8).map (fun n => (⟨i, n⟩ : CoreId)))

/-- Logical columns. -/
def gridW (s : State) : Nat := s.rd mapP Reg.Ma.W

/-- R20: logical site of physical site `i` by its map entry, if it is in the grid. -/
def logOf (s : State) (i : Nat) : Option Nat :=
  let j := s.rd (commonP i) Reg.Sc.LOG_INDEX
  if j = 0xFF ∨ gridW s = 0 then none else some j

/-- R10: hub adjacent to physical site `i`, if any. -/
def hubOf (i : Nat) : Option Nat :=
  let y := i / 16
  let x := i % 16
  if (y % 4 = 1 ∨ y % 4 = 2) ∧ (x % 4 = 1 ∨ x % 4 = 2) then some (y / 4 * 4 + x / 4) else none

/-- R11: hub of the block of physical site `i`. -/
def blockHub (i : Nat) : Nat := i / 16 / 4 * 4 + i % 16 / 4

/-- A rectangle in the layout of SH_RECT (R200). -/
structure Rect where
  y0 : Nat
  u0 : Nat
  h : Nat
  v : Nat
  deriving DecidableEq, Repr

def rectOf (w : Nat) : Rect := ⟨bits w 0 4, bits w 4 4, bits w 8 4 + 1, bits w 12 4 + 1⟩

/-- R181: position of logical site `j` relative to a rectangle. -/
def relOf (s : State) (q : Rect) (j : Nat) : Nat × Nat :=
  let w := gridW s
  ((j / w + 16 - q.y0) % 16, (j % w + w - q.u0 % w) % w)

/-- R340: whether logical site `j` lies in a rectangle. -/
def inRect (s : State) (q : Rect) (j : Nat) : Bool :=
  decide (gridW s ≠ 0) && decide ((relOf s q j).1 < q.h) && decide ((relOf s q j).2 < q.v)

/-- Physical sites of a rectangle. -/
def rectSites (s : State) (q : Rect) : List Nat := ((List.range (16 * gridW s)).filter (inRect s q)).filterMap (physOf s)

/-- R8: logical neighbour of `j` in direction `d` (0 N, 1 E, 2 S, 3 W). -/
def logNext (s : State) (j d : Nat) : Nat :=
  let w := gridW s
  match d with
  | 0 => (j / w + 15) % 16 * w + j % w
  | 1 => j / w * w + (j % w + 1) % w
  | 2 => (j / w + 1) % 16 * w + j % w
  | _ => j / w * w + (j % w + w - 1) % w

/-- R181: whether the hop of `j` in direction `d` stays inside the rectangle, wrap links only where it spans. -/
def hopInside (s : State) (q : Rect) (j d : Nat) : Bool :=
  let p := relOf s q j
  match d with
  | 0 => decide (0 < p.1) || decide (q.h = 16)
  | 1 => decide (p.2 + 1 < q.v) || decide (q.v = gridW s)
  | 2 => decide (p.1 + 1 < q.h) || decide (q.h = 16)
  | _ => decide (0 < p.2) || decide (q.v = gridW s)

/-- The active rectangle of region `r`. -/
def regionRect (s : State) (r : Nat) : Rect := rectOf (s.rd regionP (Reg.Rg.RECT r))

/-- R359: STATE of region `r`: 0 FREE, 1 CLEARING, 2 ACTIVE, 3 FAULT, 4 DORMANT. -/
def regionState (s : State) (r : Nat) : Nat := s.rd regionP (Reg.Rg.STATE r)

/-- R122: serial difference of frame counts, how far `a` lies ahead of `b`. -/
def fcAhead (a b : Nat) : Nat := (a + 2 ^ 48 - b % 2 ^ 48) % 2 ^ 48

/-! ### Events -/

/-- R415: an event record whose source is a page of site `i`. -/
def siteEvent (s : State) (i code sev page : Nat) (table : List RegDef) (sub : Nat := 0) (count : Nat := 1) : State :=
  logEvent s code sev { kind := 1, index := i, region := (s.site i).region, frame := (s.site i).fc, page := page, table := table } count sub

/-- R415: an event record of hub `h`. -/
def hubEvent (s : State) (h code sev page : Nat) (table : List RegDef) (sub : Nat := 0) : State :=
  logEvent s code sev { kind := 2, index := h, page := page, table := table } 1 sub

/-- R415: an event record of region `r`. -/
def regionEvent (s : State) (r code sev page : Nat) (table : List RegDef) (count : Nat := 1) (sub : Nat := 0) : State :=
  logEvent s code sev { kind := 5, index := r, region := r, frame := (s.region r).fc, page := page, table := table } count sub

/-- R415: an event record of the panel. -/
def panelEvent (s : State) (code sev page : Nat) (table : List RegDef) (sub : Nat := 0) (count : Nat := 1) : State :=
  logEvent s code sev { page := page, table := table } count sub

/-- Bits of PF_INT_STAT (R377). -/
def intPanelErr : Nat := 0
def intBringup : Nat := 1
def intFrameReq : Nat := 2
def intDrain : Nat := 3
def intBusErr : Nat := 4
def intThermal : Nat := 5
def intTwin : Nat := 6
def intFault : Nat := 7

/-! ### Faults and failures -/

/-- R170: region `r` takes a region fault at cycle 0 of the frame after frame `fc`; `k` trap records are counted. -/
def faultRegion (s : State) (r fc k : Nat) : State :=
  if 16 ≤ r then s
  else
    let g := s.region r
    s.setRegion r { g with
      faultAt := match g.faultAt with
        | some f => if fcAhead f fc = 0 ∨ 2 ^ 47 ≤ fcAhead f fc then some ((fc + 1) % 2 ^ 48) else some f
        | none => some ((fc + 1) % 2 ^ 48)
      traps := g.traps + k }

/-- The region of site `i` takes a fault at the end of the site's frame. -/
def faultSite (s : State) (i : Nat) : State := faultRegion s (s.site i).region (s.site i).fc 0

/-- Region `r` takes a fault at the end of its current frame. -/
def faultNow (s : State) (r : Nat) : State := faultRegion s r (s.region r).fc 0

/-- R169: a core stops issuing, as after a trap, with no record of its own. -/
def haltCore (s : State) (c : CoreId) : State :=
  if s.rd (coreP c) Reg.Co.STATE = 2 then s.wr (coreP c) Reg.Co.STATE 4 else s

/-- Every core that runs stops issuing and every region takes a fault (R285, R321). -/
def haltPanel (s : State) : State :=
  let s := (coresOf (List.range 256)).foldl haltCore s
  upTo 16 (fun s r => if regionState s r = 0 then s else faultNow s r) s

/-- R321: a panel-level error from hub or site `idx`. -/
def panelError (s : State) (code : Nat) (hub : Bool) (idx : Nat) : State :=
  let s := haltPanel s
  let s := (((s.wr prelP Reg.Pr.PANEL_ERR 1).wr prelP Reg.Pr.PANEL_ERR_CODE code).wr prelP Reg.Pr.SRC_IS_HUB
    (if hub then 1 else 0)).wr prelP Reg.Pr.SRC_INDEX idx
  let s := { s with outOfService := true }
  let s := logEvent s 2 3 { kind := if code = 3 then 0 else if hub then 2 else 1, index := idx, page := prelP, table := Reg.Pr.regs } 1 0
  (pfSet s intPanelErr).emit (.twin 0 code)

/-- Every region that has a site in row `y` takes a fault at the end of the frame (R24). -/
def faultRow (s : State) (y : Nat) : State :=
  (List.range 16).foldl (fun s x => faultSite s (16 * y + x)) s

/-- R15: the row has a spare site with a working repeater. -/
def rowSpare (s : State) (y : Nat) : Bool :=
  (List.range 16).any (fun x =>
    let i := 16 * y + x
    s.rd (commonP i) Reg.Sc.ROLE = 1 && !((s.site i).failed) && bits (s.rd (spowP i) Reg.Sp.DOM_EN) 2 1 = 1)

/-- R407: a failure in a row that a standing REGION proposal changes refuses the proposal. -/
def remapRefuse (s : State) (i : Nat) : State :=
  let mine := s.rd mapP Reg.Ma.RM_STATE = 2 && s.remapSites.any (fun j => j / 16 = i / 16)
  if mine ∧ !(s.remapSites.contains i) ∧ (s.rd (commonP i) Reg.Sc.ROLE = 0 ∨ s.rd mapP Reg.Ma.RM_IN = i) then
    { ((s.wr mapP Reg.Ma.RM_STATE 5).wr mapP Reg.Ma.RM_CODE 1) with remapSites := [] }
  else s

/-- R24: site `i` has failed; `link` when its link domain has. -/
def siteFail (s : State) (i : Nat) (link : Bool) : State :=
  let y := i / 16
  let st := s.site i
  let again := (List.range 16).any (fun x =>
    16 * y + x != i && (s.site (16 * y + x)).failed && s.rd (commonP (16 * y + x)) Reg.Sc.ROLE = 0)
  let role := s.rd (commonP i) Reg.Sc.ROLE
  let s := remapRefuse (s.setSite i { st with failed := true }) i
  let s := s.orBits bringP (Reg.Br.FAILED (i / 32)) (2 ^ (i % 32))
  if role = 0 then
    let s := faultRow s y
    if again || link || !(rowSpare s y) then { s with outOfService := true } else s
  else
    let s := s.wr (commonP i) Reg.Sc.ROLE 2
    let s := s.orBits mapP (Reg.Ma.RETIRED y) (2 ^ (i % 16))
    if link then { (faultRow s y) with outOfService := true }
    else
      let s := if role = 1 ∧ s.rd mapP Reg.Ma.MAP_CLASS = 0 then s.wr mapP Reg.Ma.MAP_CLASS 1 else s
      siteEvent s i 0x12 1 (commonP i) Reg.Sc.regs

/-- R326: a suspect event on site `i`. -/
def suspect (s : State) (i : Nat) : State :=
  let p := relP i
  let s := (s.setBit p Reg.Re.SUSPECT).bump p Reg.Re.SUSPECT_CNT 1
  let st := s.site i
  let r := st.region
  if 0 < st.holdOff then s
  else
    let act := fun (s : State) => s.setSite i { (s.site i) with holdOff := 64 }
    let m := baRead s (spowP i) Reg.Sp.MARGIN
    if m < 3 then
      let s := (baWrite s (spowP i) 16 Reg.Sp.MARGIN (m + 1)).setBit p Reg.Re.MARGIN_STEP
      act (siteEvent s i 0x12 1 p Reg.Re.regs 7)
    else if 16 ≤ r then s
    else if bits (s.rd prelP Reg.Pr.SUSPECT_REGIONS) r 1 = 0 then
      let s := s.orBits prelP Reg.Pr.SUSPECT_REGIONS (2 ^ r)
      let s := s.setRegion r { (s.region r) with suspFs := s.rd (sclkP i) Reg.Ck.FSTATE }
      act (siteEvent s i 0x12 1 p Reg.Re.regs)
    else if (s.region r).suspFs < s.rd (sclkP i) Reg.Ck.FSTATE then act (siteFail s i false)
    else s

/-- R121, R418: the slack window of the executed frame opens, at RCNT value `t`. -/
def enterSlack (s : State) (i t : Nat) : State :=
  if !(s.site i).exec ∨ s.rd (tniP i) Reg.Tn.IN_SLACK = 1 then s
  else
    let cc := s.slackAt i
    (coresOf [i]).foldl (fun s c => timerSource s c 3 none true true cc t) (s.wr (tniP i) Reg.Tn.IN_SLACK 1)

/-! ### Clearing (R116, R56, R77, R78, R99) -/

/-- R116: every SRAM of site `i`: the cisterns, the core windows, the weight buffers and exponent registers. -/
def clearSram (s : State) (i : Nat) : State :=
  let s := { s with mem := memClear s.mem (siteBase i + 0x8000000000) 0x300000000 }
  upTo 8 (fun s n =>
    let p := coreP ⟨i, n⟩
    let s := (s.wr p Reg.Co.BUF_A_VALID 0).wr p Reg.Co.BUF_B_VALID 0
    let k := s.core ⟨i, n⟩
    let s := s.setCore ⟨i, n⟩ { k with fineA := false, fineB := false, badA := 0, badB := 0 }
    upTo 8 (fun s q => s.wr p (Reg.Co.RMAX q) 0) (s.wr p Reg.Co.RNG_STATE 1)) s

/-- Writes a list of fields to one value. -/
def State.wrAll (s : State) (page v : Nat) (fs : List Fld) : State := fs.foldl (fun s f => s.wr page f v) s

/-- R420: every interval timer of site `i` at its reset values. -/
def clearTimers (s : State) (i : Nat) : State :=
  let p := timP i
  let s := upTo 8 (fun s n => s.wr p (Reg.Tm.RUNNING n) 0) s
  let s := { s with regs := s.regs.filter (fun e => !(decide (fldKey p (tmFld (Reg.Tm.ENABLE 0) 0 0) ≤ e.1) && decide (e.1 < fldKey p (tmFld (Reg.Tm.ENABLE 0) 8 0)))) }
  { s with timers := s.timers.filter (fun e => e.1 / 128 != i) }

/-- Counters and error bits that region clearing sets to zero. -/
def clearCounts (s : State) (i : Nat) : State :=
  let s := upTo 8 (fun s n => s.wrAll (coreP ⟨i, n⟩) 0
    [Reg.Co.CHECK_CNT, Reg.Co.PARITY_CNT, Reg.Co.CE_CNT, Reg.Co.INF_CNT, Reg.Co.SAT, Reg.Co.NAN_OVF, Reg.Co.INF_IN, Reg.Co.NAN_IN,
      Reg.Co.POISON_IN, Reg.Co.CONV_SAT_CNT, Reg.Co.CONV_POISON_CNT, Reg.Co.INF_OUT, Reg.Co.NAN_OUT, Reg.Co.POISON_PROP, Reg.Co.VF_CE,
      Reg.Co.VF_UE, Reg.Co.VF_WR_CLASH, Reg.Co.VX_INF_CNT, Reg.Co.VX_NAN_CNT, Reg.Co.VX_POISON_CNT, Reg.Co.VF_CE_CNT,
      Reg.Co.SP_CE_CNT, Reg.Co.SP_UE_CNT, Reg.Co.NOTE_DROP_CNT]) s
  let s := s.wrAll (cisP i) 0 [Reg.Ci.CIS_CE_CNT, Reg.Ci.CIS_UE_CNT]
  let s := s.wrAll (tniP i) 0 [Reg.Tn.TT_CE_CNT, Reg.Tn.TT_UE_CNT, Reg.Tn.TT_MISSING, Reg.Tn.TT_UNCLAIMED]
  let s := s.wrAll (wellP i) 0 [Reg.We.WELL_CE_CNT, Reg.We.WELL_UE_CNT, Reg.We.LAND_HIT_CNT]
  clearTimers s i

/-- R332: the site runs or waits as a shadow. -/
def isShadow (s : State) (i : Nat) : Bool :=
  let x := s.rd (relP i) Reg.Re.SHADOW_STATE
  x = 1 || x = 2

/-- R335: a shadow run of site `i` ends in state `st` with reason `why`; an end that is not CLEAN clears its memories
and returns its domains to the spare state (R288). -/
def shadowEnd (s : State) (i st why : Nat) : State :=
  if !(isShadow s i) then s
  else
    let p := relP i
    let s := (s.wr p Reg.Re.SHADOW_STATE st).wr p Reg.Re.END_REASON why
    let s := if st = 4 then s.setBit p Reg.Re.SHADOW_FAIL else s
    let s := if why = 3 then s.setBit p Reg.Re.SHADOW_OVERRUN else s
    let s := siteEvent s i 0x14 1 p Reg.Re.regs (if st = 4 then 4 else if why = 3 then 5 else 0)
    let s := if st = 4 then suspect s i else s
    if st = 3 then s
    else
      let s := clearSram s i
      let s := (coresOf [i]).foldl (fun s c => s.wr (coreP c) Reg.Co.STATE 0) s
      let s := (s.wr (spowP i) Reg.Sp.DOM_EN 4).wr (spowP i) Reg.Sp.ARR_MODE 0
      let s := s.wr (spowP i) Reg.Sp.SITE_PSTATE 0
      let s := upTo 256 (fun s b => if (s.site b).mirTo = i then s.setSite b { (s.site b) with mirTo := 256, digOn := false } else s) s
      s.setSite i { (s.site i) with leftAt := if (s.site i).rested then none else some s.up, join := 16, digOn := false, digs := [], mirDig := [], mirror := [] }

/-- R335: a trap or a region fault of the buddy ends the shadow run. -/
def buddyEnds (s : State) (b : Nat) : State :=
  if (s.site b).mirTo < 256 then shadowEnd s (s.site b).mirTo 5 4 else s

end Sys2Proof.Machine
end

