-- ==== Sys2Proof/Machine/Clock.lean ====
section
/-! DEFINITION. Clocking (R268 to R284): stretch and lag, coupling, reference loss, monitors. -/

namespace Sys2Proof.Machine

/-! ### Coupling (R272 to R275) -/

/-- The region whose island site `i` belongs to; 16 for none. -/
def islandOf (s : State) (i : Nat) : Nat := if (s.site i).join < 16 then (s.site i).join else (s.site i).region

/-- R272: the directions in which site `i` couples: neighbours of its own region, wrap links only where R181 allows. -/
def couplesOf (s : State) (i : Nat) : Nat :=
  match logOf s i with
  | none => 0
  | some j =>
    let r := (s.site i).region
    if 16 ≤ r then 0
    else
      let q := regionRect s r
      upTo 4 (fun m d => match physOf s (logNext s j d) with
        | some k => if k ≠ i && (s.site k).region = r && hopInside s q j d then m + 2 ^ d else m
        | none => m) 0

/-- R272, R275, R284: FREE_RUN shows a site with no coupling and no anchor. -/
def showFree (s : State) (i : Nat) : State :=
  s.wr (sclkP i) Reg.Ck.FREE_RUN
    (if s.rd (sclkP i) Reg.Ck.COUPLED = 0 ∧ s.rd (sclkP i) Reg.Ck.ANCHOR = 0 then 1 else 0)

/-- R272, R274: enables coupling on site `i`. -/
def couple (s : State) (i : Nat) : State :=
  let s := s.wr (sclkP i) Reg.Ck.COUPLED (couplesOf s i)
  let s := s.wr (sclkP i) Reg.Ck.MESH_LOCKED 0
  let s := match hubOf i with
    | some h => s.wr (sclkP i) Reg.Ck.ANCHOR (if keyHas s.holdover h then s.rd (sclkP i) Reg.Ck.ANCHOR else 1)
    | none => s.wr (sclkP i) Reg.Ck.ANCHOR 0
  showFree s i

/-- R272: a site that belongs to no region couples to nothing; a hub-adjacent one follows its synthesizer. -/
def uncouple (s : State) (i : Nat) : State :=
  let s := (s.wr (sclkP i) Reg.Ck.COUPLED 0).wr (sclkP i) Reg.Ck.MESH_LOCKED 0
  showFree (s.wr (sclkP i) Reg.Ck.PHASE 0) i

/-- R274: MESH_LOCK. -/
def meshLock (s : State) (i : Nat) : State :=
  if islandOf s i < 16 ∧ s.rd (sclkP i) Reg.Ck.FREE_RUN = 0 then s.wr (sclkP i) Reg.Ck.MESH_LOCKED 1 else s

/-- R275: LOCK_LOST on direction `d`; a port that does not couple, or holds within ±40 ps, loses nothing. -/
def lockLost (s : State) (i d : Nat) (phase : Int) : State :=
  let p := sclkP i
  let cp := s.rd p Reg.Ck.COUPLED
  if 4 ≤ d ∨ bits cp d 1 = 0 ∨ phase.natAbs ≤ 40 then s
  else
    let s := (s.setBit p Reg.Ck.LOCK_LOST).bump p Reg.Ck.LOCK_LOST_CNT 1
    let s := (s.wr p Reg.Ck.MESH_LOCKED 0).wr p Reg.Ck.COUPLED (cp - 2 ^ d)
    let ph := s.rd p Reg.Ck.PHASE
    let s := s.wr p Reg.Ck.PHASE (ph - bits ph (8 * d) 8 * 2 ^ (8 * d))
    let st := s.site i
    let s := s.setSite i { st with phaseMax := max st.phaseMax phase.natAbs }
    let s := siteEvent (showFree s i) i 0x10 2 p Reg.Ck.regs 0
    suspect (faultSite s i) i

/-! ### Stretch and lag (R126, R276, R277) -/

/-- R126: site `i` adds `k` cycles to its lag. -/
def addLag (s : State) (i k : Nat) : State :=
  let now := min 0xFFFF (s.rd (tniP i) Reg.Tn.LAG_NOW + k)
  let st := s.site i
  (s.setSite i { st with lagMax := max st.lagMax now }).wr (tniP i) Reg.Tn.LAG_NOW now

/-- R277: site `i` loses `u` sixteenths of a cycle at depth `d`. -/
def addLoss (s : State) (i u d : Nat) : State :=
  let st := s.site i
  let whole := (st.loss + u) / 16 - st.loss / 16
  let s := s.setSite i { st with loss := st.loss + u, lost := min 0xFFFF (st.lost + whole), depth := max st.depth d }
  addLag s i whole

/-- R276: depth of the stretch at VLOGIC `v`, 0 at or above V_th. -/
def stretchDepth (s : State) (i v : Nat) : Nat :=
  let vth := s.rd (spowP i) Reg.Sp.V_SET - s.rd (sclkP i) Reg.Ck.DROOP_TH
  if vth ≤ v then 0 else min 8 (1 + (vth - v) / max 1 (s.rd (sclkP i) Reg.Ck.DROOP_STEP))

/-- R276, R277: a droop on site `i`; the whole island loses the cycles. -/
def droop (s : State) (i v loss : Nat) : State :=
  let d := stretchDepth s i v
  if d = 0 then s
  else
    let s := s.setBit (sclkP i) Reg.Ck.STRETCHING
    let s := if d = 8 then s.setBit (sclkP i) Reg.Ck.STRETCH_MAX else s
    let r := islandOf s i
    let is := if r < 16 then (List.range 256).filter (fun k => islandOf s k = r) else [i]
    is.foldl (fun s k => addLoss s k loss d) s

/-! ### Reference (R281) -/

/-- R10: the four sites of hub `h`. -/
def hubSites (h : Nat) : List Nat := [(1, 1), (1, 2), (2, 1), (2, 2)].map (fun p => 16 * (4 * (h / 4) + p.1) + 4 * (h % 4) + p.2)

/-- R281: REF_LOSS. -/
def refLoss (s : State) (h : Nat) : State :=
  if keyHas s.holdover h then s
  else
    let s := { s with holdover := keyAdd s.holdover h }
    let s := (hubSites h).foldl (fun s i => if s.rd (sclkP i) Reg.Ck.ANCHOR = 1 then s.setBit (sclkP i) Reg.Ck.REF_HOLDOVER else s) s
    hubEvent (s.bump timeP Reg.Ti.HOLDOVER_CNT 1) h 0x10 1 timeP Reg.Ti.regs

/-- R281: the reference returns within 1 s. -/
def refRelock (s : State) (h : Nat) : State := { s with holdover := keyDel s.holdover h }

/-- R281: HOLDOVER_EXPIRY: the hub's anchors stop, and a region anchored only there faults. -/
def holdoverExpiry (s : State) (h : Nat) : State :=
  if !(keyHas s.holdover h) then s
  else
    let mine := (hubSites h).filter (fun i => s.rd (sclkP i) Reg.Ck.ANCHOR = 1)
    let rs := (List.range 16).filter (fun r => mine.any (fun i => (s.site i).region = r))
    let s := mine.foldl (fun s i => showFree (s.wr (sclkP i) Reg.Ck.ANCHOR 0) i) s
    rs.foldl (fun s r => if (regionSites s r).any (fun i => s.rd (sclkP i) Reg.Ck.ANCHOR = 1) then s else faultNow s r) s

/-! ### Monitors (R282) -/

/-- R282: an alarm bit is logged once a frame; the site is then suspect. -/
def clockAlarm (s : State) (i : Nat) (f : Fld) : State :=
  let p := sclkP i
  let s := s.setBit p f
  let st := s.site i
  let s := if bits st.clkLogged f.lsb 1 = 1 then s
    else siteEvent (s.setSite i { st with clkLogged := st.clkLogged + 2 ^ f.lsb }) i 0x10 1 p Reg.Ck.regs f.lsb
  suspect s i

/-- R282: JITTER_SAMPLE; stretched and settling periods are not sampled. -/
def jitterSample (s : State) (i : Nat) (dev : Int) : State :=
  let p := sclkP i
  if s.rd p Reg.Ck.STRETCHING = 1 ∨ s.rd p Reg.Ck.SETTLING = 1 then s
  else
    let b := (min 31 (max 0 (dev + 16))).toNat
    let s := s.bump p (Reg.Ck.JIT_HIST b) 1
    if dev.natAbs ≤ s.rd p Reg.Ck.JIT_LIMIT then s
    else clockAlarm s i (if s.rd p Reg.Ck.JIT_SRC = 0 then Reg.Ck.JIT_ROOT else Reg.Ck.JIT_CORE)

/-- R282: DUTY_WINDOW. -/
def dutyWindow (s : State) (i : Nat) (core : Bool) (frac : Int) : State :=
  let p := sclkP i
  let s := s.wr p (if core then Reg.Ck.DUTY_CORE_LAST else Reg.Ck.DUTY_ROOT_LAST) (unsgn 8 frac)
  if frac.natAbs ≤ 20 then s
  else clockAlarm (s.bump p Reg.Ck.DUTY_ALARM_CNT 1) i (if core then Reg.Ck.DUTY_CORE else Reg.Ck.DUTY_ROOT)

/-! ### Meanings -/

/-- R276, R277: DROOP_STRETCH. -/
def execDroopStretch (i v loss : Nat) (s : State) : Host.Outcome State Fault Refusal := onUnit (siteOk i) (droop s i v loss)

/-- R276: STRETCH_END. -/
def execStretchEnd (i : Nat) (s : State) : Host.Outcome State Fault Refusal := onUnit (siteOk i) (s.wr (sclkP i) Reg.Ck.STRETCHING 0)

/-- R279: SETTLING_END. -/
def execSettlingEnd (i : Nat) (s : State) : Host.Outcome State Fault Refusal := onUnit (siteOk i) (s.wr (sclkP i) Reg.Ck.SETTLING 0)

/-- R281: REF_LOSS. -/
def execRefLoss (h : Nat) (s : State) : Host.Outcome State Fault Refusal := onUnit (hubOk h) (refLoss s h)

/-- R281: REFERENCE_RELOCK. -/
def execReferenceRelock (h : Nat) (s : State) : Host.Outcome State Fault Refusal := onUnit (hubOk h) (refRelock s h)

/-- R281: HOLDOVER_EXPIRY. -/
def execHoldoverExpiry (h : Nat) (s : State) : Host.Outcome State Fault Refusal := onUnit (hubOk h) (holdoverExpiry s h)

/-- R274: MESH_LOCK. -/
def execMeshLock (i : Nat) (s : State) : Host.Outcome State Fault Refusal := onUnit (siteOk i) (meshLock s i)

/-- R275: LOCK_LOST. -/
def execLockLost (i d : Nat) (phase : Int) (s : State) : Host.Outcome State Fault Refusal := onUnit (siteOk i) (lockLost s i d phase)

/-- R282: JITTER_SAMPLE. -/
def execJitterSample (i : Nat) (dev : Int) (s : State) : Host.Outcome State Fault Refusal := onUnit (siteOk i) (jitterSample s i dev)

/-- R282: DUTY_WINDOW. -/
def execDutyWindow (i : Nat) (core : Bool) (frac : Int) (s : State) : Host.Outcome State Fault Refusal :=
  onUnit (siteOk i) (dutyWindow s i core frac)

/-- R284: JIT_CLR. -/
def execJitClr (i : Nat) (s : State) : Host.Outcome State Fault Refusal :=
  onUnit (siteOk i) (hostAct s (sclkP i) 0x60 (some (s.setSite i { (s.site i) with jitClr := true })))

/-- R145: HIST_CLR. -/
def execHistClr (i : Nat) (s : State) : Host.Outcome State Fault Refusal :=
  onUnit (siteOk i) (hostAct s (tniP i) 0x54 (some (s.setSite i { (s.site i) with histClr := true })))

/-- R321, R413: ROOT_FAULT. -/
def execRootFault (s : State) : Host.Outcome State Fault Refusal :=
  .next (panelError ((s.setBit timeP Reg.Ti.ROOT_FAULT).wr timeP Reg.Ti.ROOT_LOCKED 0) 3 false 0)

end Sys2Proof.Machine
end

