-- ==== Sys2Proof/Machine/Power.lean ====
section
/-! DEFINITION. Power delivery and cooling (R285 to R312). -/

namespace Sys2Proof.Machine

/-- R312: a bit of PWR_ERR. -/
def pwrErr (s : State) (b : Nat) : State := s.orBits ppowP Reg.Pp.PWR_ERR (2 ^ b)

/-- An event of the panel power page. -/
def powEvent (s : State) (code sev b : Nat) : State := panelEvent s code sev ppowP Reg.Pp.regs b

/-! ### Thermal levels (R301 to R303) -/

/-- R303: recomputes TL_r; a change is told. -/
def showLevel (s : State) (r : Nat) : State :=
  let cool := s.coolant.foldl (fun m e => max m e.2) 0
  let l := (regionSites s r).foldl (fun m i => max m (s.rd (spowP i) Reg.Sp.TL_SITE)) cool
  if s.rd ppowP (Reg.Pp.TL r) = l then s
  else
    let s := s.wr ppowP (Reg.Pp.TL r) l
    pfSet (regionEvent s r 0x0E 1 ppowP Reg.Pp.regs) intThermal

/-- R312: TL_PANEL, and the level of every region. -/
def showLevels (s : State) : State :=
  let s := s.wr ppowP Reg.Pp.TL_PANEL (s.coolant.foldl (fun m e => max m e.2) 0)
  upTo 16 (fun s r => if regionState s r = 0 then s else showLevel s r) s

/-- R301: the median of four readings, doubled (the mean of the two middle ones). -/
def median2 (l : List Int) : Int :=
  let s := l.foldl (fun (acc : List Int) x => acc.filter (· ≤ x) ++ [x] ++ acc.filter (x < ·)) []
  (s.drop 1).head?.getD 0 + (s.drop 2).head?.getD 0

/-- R301: a valid reading, in 0.5 °C units. -/
def sensorOk (all : List Int) (t : Int) : Bool :=
  decide (-40 ≤ t) && decide (t ≤ 300) && decide ((2 * t - median2 all).natAbs ≤ 60)

/-- R301, R311: takes the junction readings of site `i`. -/
def noteSensors (s : State) (i : Nat) (ts : List Int) : State :=
  let p := spowP i
  let ok := ts.map (sensorOk ts)
  let mask := ok.zipIdx.foldl (fun m b => if b.1 then m + 2 ^ b.2 else m) 0
  let s := s.wr p Reg.Sp.SENSOR_VALID mask
  let s := s.wr p Reg.Sp.TJ (ts.zipIdx.foldl (fun m t => m + unsgn 8 (t.1 / 2) * 256 ^ t.2) 0)
  let st := s.site i
  let hot := (ts.filter (sensorOk ts)).foldl (fun m t => max m t.toNat) st.tjMax
  let s := s.setSite i { st with tjMax := hot }
  if mask = 15 then s else s.setBit p Reg.Sp.SENSOR_BAD

/-- The highest of three rising conditions that holds. -/
def level3 (a b c : Bool) : Nat := if c then 3 else if b then 2 else if a then 1 else 0

/-- R303: the level of a condition; `h` true applies the hysteresis of leaving a level. -/
def condLevel (c : ThermCond) (h : Bool) : Nat :=
  match c with
  | .site _ t0 t1 t2 t3 =>
    let ts := [t0, t1, t2, t3]
    let good := ts.filter (sensorOk ts)
    let m : Int := good.foldl max (-1000)
    let d : Int := if h then 6 else 0
    let l := level3 (190 - d ≤ m) (200 - d ≤ m) (210 - d ≤ m)
    if good.length ≤ 2 then 2 else l
  | .inlet t => let d : Int := if h then 300 else 0; level3 (4000 - d < t) (4300 - d < t) (4600 - d < t)
  | .outlet t => let d : Int := if h then 300 else 0; level3 (5500 - d < t) (6000 - d < t) (6500 - d < t)
  | .flow f => let d := if h then 200 else 0; level3 (f < 4500 + d) (f < 4000 + d) (f < 3500 + d)
  | .disagree ip it op ot => if 300 < (ip - it).natAbs ∨ 300 < (op - ot).natAbs then 1 else 0
  | .input v => if v < 1600 then 3 else 0

/-- The number under which a coolant or input condition is kept. -/
def condKey (c : ThermCond) : Nat :=
  match c with
  | .site .. => 0
  | .inlet _ => 1
  | .outlet _ => 2
  | .flow _ => 3
  | .disagree .. => 4
  | .input _ => 5

/-- Present level of a condition. -/
def condNow (s : State) (c : ThermCond) : Nat :=
  match c with
  | .site i .. => s.rd (spowP i) Reg.Sp.TL_SITE
  | .disagree .. => max (tabGet (fun _ => 0) s.coolant 4) (tabGet (fun _ => 0) s.coolant 6)
  | _ => tabGet (fun _ => 0) s.coolant (condKey c)

/-- Sets the level of a condition; the regions follow. -/
def setCond (s : State) (c : ThermCond) (l : Nat) : State :=
  match c with
  | .site i .. => let s := s.wr (spowP i) Reg.Sp.TL_SITE l; if (s.site i).region < 16 then showLevel s (s.site i).region else s
  | .disagree .. => showLevels { s with coolant := tabSet (fun _ => 0) (tabErase s.coolant 6) 4 l }
  | _ => showLevels { s with coolant := tabSet (fun _ => 0) s.coolant (condKey c) l }

/-- R303: what a reading notes beside its level. -/
def noteCond (s : State) (c : ThermCond) : State :=
  match c with
  | .site i t0 t1 t2 t3 => noteSensors s i [t0, t1, t2, t3]
  | .inlet t => if t < 1700 then pwrErr s 6 else s
  | .disagree .. => if condLevel c false = 1 then pwrErr s 4 else s
  | _ => s

/-- R303: THERMAL_LEVEL_CHANGE: a reading that reaches a higher level. -/
def thermalUp (s : State) (c : ThermCond) : State :=
  let s := noteCond s c
  let l := condLevel c false
  if condNow s c < l then setCond s c l else s

/-- R303: THERMAL_LEVEL_EXIT: a reading that has stood clear for 1 s. -/
def thermalDown (s : State) (c : ThermCond) : State :=
  let s := noteCond s c
  let l := condLevel c true
  if l < condNow s c then setCond s c l else s

/-- The site that a condition names exists. -/
def condOk (c : ThermCond) : Bool :=
  match c with
  | .site i .. => siteOk i
  | _ => true

/-! ### Domains (R288 to R290, R304) -/

/-- Bits of DOM_EN: 0 logic, 1 arrays, 2 links, 3 memory interface. -/
def domOff (s : State) (i d : Nat) : State :=
  let on := s.rd (spowP i) Reg.Sp.DOM_EN
  let s := s.wr (spowP i) Reg.Sp.DOM_EN (on - bits on d 1 * 2 ^ d)
  if d = 1 then s.wr (spowP i) Reg.Sp.ARR_MODE 0 else s

/-- R285, R304: every site and hub domain other than VLINK is switched off. -/
def allOff (s : State) : State :=
  let s := upTo 256 (fun s i =>
    let on := s.rd (spowP i) Reg.Sp.DOM_EN
    if on = 0 then s
    else
      let s := (domOff (domOff (domOff s i 3) i 0) i 1).wr (spowP i) Reg.Sp.SITE_PSTATE 0
      s.setSite i { (s.site i) with retLost := true }) s
  { s with hubDom := [] }

/-- R304: JUNCTION_TRIP. -/
def junctionTrip (s : State) (i : Nat) : State :=
  let p := spowP i
  let waking := s.rd p Reg.Sp.SITE_PSTATE = 3
  let s := s.setBit p Reg.Sp.THERM_TRIP
  let s := siteEvent (domOff (domOff s i 0) i 1) i 0x0E 2 p Reg.Sp.regs 6
  let s := if waking then s.setBit p Reg.Sp.WAKE_FAIL else s
  siteFail s i false

/-- R290: a rail of site `i` or hub is switched off for cause `f`. -/
def railOff (s : State) (u : PowerUnit) (d : Nat) (f : Fld) : State :=
  match u with
  | .site i =>
    let s := siteEvent (s.setBit (spowP i) f) i 0x0F 2 (spowP i) Reg.Sp.regs f.lsb
    siteFail (domOff s i d) i (d = 2)
  | .hub h =>
    let on := s.hubOn h
    hubEvent (s.setHubDom h (on - bits on d 1 * 2 ^ d)) h 0x0F 2 (hubP h 0) Reg.Hu.regs f.lsb

/-- A power unit that exists, and a domain of it. -/
def unitOk (u : PowerUnit) (d : Nat) : Bool :=
  (match u with
    | .site i => siteOk i
    | .hub h => hubOk h) && decide (d < 4)

/-! ### VLOGIC (R291 to R295) -/

/-- R293: the set voltage in 2.5 mV units before clamping, rounded up; none without a calibration record in effect. -/
def vsetOf (s : State) (i iNow : Nat) : Option Int :=
  let st := s.site i
  let g := s.region st.region
  let fs := match g.rampUp, g.rampDown with
    | some f, _ => f
    | none, some q => q.1
    | none, none => s.rd (sclkP i) Reg.Ck.FSTATE
  match st.cal[fs]? with
  | none => none
  | some c =>
    let q : Int := (c.vCal : Int) * 10000 + ((iNow : Int) - (c.iCal : Int)) * (st.rSite : Int) + (s.rd (spowP i) Reg.Sp.MARGIN : Int) * 40000
    some ((q + 9999) / 10000)

/-- R293: VSET_UPDATE: the set voltage moves toward the clamped result by at most 10 mV. -/
def vsetUpdate (s : State) (i iNow : Nat) : State :=
  match vsetOf s i iNow with
  | none => s
  | some v =>
    let p := spowP i
    let goal := (min 360 (max 220 v)).toNat
    let s := if 360 < v then suspect (siteEvent (s.setBit p Reg.Sp.VSET_CLAMP) i 0x0F 1 p Reg.Sp.regs 4) i else s
    let old := s.rd p Reg.Sp.V_SET
    s.wr p Reg.Sp.V_SET (if old = 0 then goal else if old < goal then min goal (old + 4) else max goal (old - 4))

/-- R291: a sample of a rail. -/
def railSample (s : State) (i rail v : Nat) : State :=
  let st := s.site i
  let old := tabGet (fun _ => (0xFFF, 0, 0)) st.vmin rail
  if rail < 4 ∧ v < old.1 then
    s.setSite i { st with vmin := tabSet (fun _ => (0xFFF, 0, 0)) st.vmin rail (v, s.time, st.fc) }
  else s

/-- R311: the currents over the last 1 µs. -/
def noteCurrents (s : State) (i iLogic iArray iLink iMem : Nat) : State :=
  let p := spowP i
  (((s.wr p Reg.Sp.I_LOGIC iLogic).wr p Reg.Sp.I_ARRAY iArray).wr p Reg.Sp.I_LINK iLink).wr p Reg.Sp.I_MEMIF iMem

/-- R291: MIN_CLR. -/
def minClear (s : State) (i m : Nat) : State :=
  let st := s.site i
  s.setSite i { st with vmin := st.vmin.filter (fun e => bits m e.1 1 = 0) }

/-! ### Caps and dilation (R305 to R308) -/

/-- The smaller of two fractions. -/
def minFrac (a b : Nat × Nat) : Nat × Nat := if a.1 * b.2 ≤ b.1 * a.2 then a else b

/-- R303: array duty ceiling of a thermal level. -/
def levelDuty (l : Nat) : Nat × Nat :=
  match l with
  | 0 => (1, 1)
  | 1 => (4, 5)
  | 2 => (1, 2)
  | _ => (1, 4)

/-- R307: sums of P_IDLE (0.25 W) and, per core, P_ARRAY (0.05 W) over the region's sites at their state. -/
def powerSums (s : State) (r : Nat) : Nat × Nat :=
  (regionSites s r).foldl (fun a i =>
    match (s.site i).cal[s.rd (sclkP i) Reg.Ck.FSTATE]? with
    | some c => (a.1 + c.pIdle, a.2 + 8 * c.pArray)
    | none => a) (0, 0)

/-- R307: the duty that the region's power cap gives. -/
def capDuty (s : State) (r : Nat) : Nat × Nat :=
  let cap := s.rd ppowP (Reg.Pp.PCAP r)
  let q := powerSums s r
  if cap = 0 ∨ q.2 = 0 then (1, 1) else minFrac (1, 1) (cap * 20 - q.1 * 5, q.2)

/-- R306: DUTY_EFF_r. -/
def dutyEff (s : State) (r : Nat) : Nat × Nat :=
  let l := levelDuty (s.rd ppowP (Reg.Pp.TL r))
  minFrac (minFrac l (capDuty s r)) (l.1 * s.pfNum, l.2 * s.pfDen)

/-- R306: the dilation for a largest row count, and whether the cap binds. -/
def dilationOf (rows fl : Nat) (d : Nat × Nat) : Nat × Bool :=
  if rows = 0 then (0, false)
  else if d.1 = 0 then (3 * fl, true)
  else
    let need := 64 * cdiv (rows * d.2) (64 * d.1) - fl
    (min need (3 * fl), decide (3 * fl < need))

/-- R308: PANEL_FACTOR_UPDATE. -/
def panelFactor (s : State) (pin : Nat) : State :=
  if s.rd ppowP Reg.Pp.PANEL_CAP < pin then pwrErr { s with pfNum := s.pfNum * 63, pfDen := s.pfDen * 64, pfMs := 0 } 8
  else if s.pfMs + 1 < 100 then { s with pfMs := s.pfMs + 1 }
  else
    let up := (s.pfNum * 64 + s.pfDen, s.pfDen * 64)
    if up.2 ≤ up.1 then { s with pfNum := 1, pfDen := 1, pfMs := 0 } else { s with pfNum := up.1, pfDen := up.2, pfMs := 0 }

/-- R312: what the sensor hub shows each millisecond. -/
def notePanel (s : State) (pin vin : Nat) (inlet outlet : Int) : State :=
  let s := (s.wr ppowP Reg.Pp.PIN pin).wr ppowP Reg.Pp.VIN vin
  let s := (s.wr ppowP Reg.Pp.INLET_PANEL (unsgn 16 inlet)).wr ppowP Reg.Pp.OUTLET_PANEL (unsgn 16 outlet)
  s.wr ppowP Reg.Pp.PANEL_FACTOR (s.pfNum * 64 / s.pfDen - 1)

/-! ### Input (R285) -/

/-- R285: BROWNOUT. -/
def brownout (s : State) : State := powEvent (pwrErr (allOff (haltPanel s)) 3) 0x0D 3 3

/-- R304: PANEL_SHUTDOWN. -/
def panelShutdown (s : State) : State :=
  let s := upTo 16 (fun s r => if regionState s r = 0 then s else faultNow s r) s
  let s := upTo 16 (fun s r => s.setRegion r { (s.region r) with rampUp := none, rampDown := none }) s
  { (powEvent (pwrErr (allOff s) 7) 0x0D 3 7) with shutdown := true }

/-- R285: INPUT_OV: every stage except the always-on stage stops. -/
def inputOver (s : State) : State :=
  let s := upTo 256 (fun s i => (s.wr (spowP i) Reg.Sp.DOM_EN 0).wr (spowP i) Reg.Sp.ARR_MODE 0) s
  { (powEvent (pwrErr { s with hubDom := [] } 2) 0x0D 3 2) with inputOv := true, outOfService := true }

/-! ### Tray reports (R302) -/

/-- R302: TRAY_REPORT. -/
def trayReport (s : State) (inlet outlet : Int) (flow seq rsv : Nat) (pecOk : Bool) : State :=
  let okT := fun t : Int => decide (-2000 ≤ t) && decide (t ≤ 10000)
  if !s.alwaysOn then s
  else if !pecOk || rsv != 0 || !(okT inlet) || !(okT outlet) || decide (20000 < flow) then s.bump ppowP Reg.Pp.TRAY_BAD_CNT 1
  else
    let s := (s.wr ppowP Reg.Pp.INLET_TRAY (unsgn 16 inlet)).wr ppowP Reg.Pp.OUTLET_TRAY (unsgn 16 outlet)
    (s.wr ppowP Reg.Pp.FLOW_TRAY flow).wr ppowP Reg.Pp.TRAY_SEQ seq

/-- R302, R303: TRAY_LOST is a level-1 condition. -/
def trayLost (s : State) : State :=
  let s := powEvent (pwrErr s 5) 0x0E 1 5
  showLevels { s with coolant := tabSet (fun _ => 0) s.coolant 6 1 }

/-! ### Meanings -/

/-- R285: INPUT_LOW. -/
def execInputLow (v : Nat) (s : State) : Host.Outcome State Fault Refusal :=
  .next (if 1440 ≤ v ∧ v < 1600 then thermalUp (powEvent (pwrErr s 0) 0x0D 1 0) (.input v) else s)

/-- R285: BROWNOUT. -/
def execBrownout (v : Nat) (s : State) : Host.Outcome State Fault Refusal := .next (if v < 1440 then brownout s else s)

/-- R285: INPUT_HIGH. -/
def execInputHigh (v : Nat) (s : State) : Host.Outcome State Fault Refusal :=
  .next (if 2320 < v ∧ v ≤ 2480 then powEvent (pwrErr s 1) 0x0D 1 1 else s)

/-- R285: INPUT_OV. -/
def execInputOv (v : Nat) (s : State) : Host.Outcome State Fault Refusal := .next (if 2480 < v then inputOver s else s)

/-- R290: OC_LOGIC. -/
def execOcLogic (i : Nat) (s : State) : Host.Outcome State Fault Refusal :=
  onUnit (siteOk i) (suspect (siteEvent (s.setBit (spowP i) Reg.Sp.OC_LOGIC) i 0x0F 1 (spowP i) Reg.Sp.regs 0) i)

/-- R290: RAIL_OVERCURRENT; VLOGIC is limited, not switched off. -/
def execRailOvercurrent (u : PowerUnit) (d : Nat) (s : State) : Host.Outcome State Fault Refusal :=
  onUnit (unitOk u d) (match u, d with
    | .site _, 0 => s
    | _, _ => railOff s u d Reg.Sp.OC_OTHER)

/-- R290: RAIL_SHORT. -/
def execRailShort (u : PowerUnit) (d : Nat) (ov : Bool) (s : State) : Host.Outcome State Fault Refusal :=
  onUnit (unitOk u d) (railOff s u d (if ov then Reg.Sp.OV else Reg.Sp.SHORT))

/-- R293: VSET_UPDATE. -/
def execVsetUpdate (i iLogic iArray iLink iMem : Nat) (samples : List (Nat × Nat)) (s : State) : Host.Outcome State Fault Refusal :=
  onUnit (siteOk i) (samples.foldl (fun s q => railSample s i q.1 q.2)
    (vsetUpdate (noteCurrents s i iLogic iArray iLink iMem) i iLogic))

/-- R291: MIN_CLR. -/
def execMinClr (i : Nat) (mask : BitVec 4) (s : State) : Host.Outcome State Fault Refusal :=
  onUnit (siteOk i) (hostAct s (spowP i) 0x64 (some (minClear s i mask.toNat)))

/-- R303: THERMAL_LEVEL_CHANGE. -/
def execThermalLevelChange (c : ThermCond) (s : State) : Host.Outcome State Fault Refusal := onUnit (condOk c) (thermalUp s c)

/-- R303: THERMAL_LEVEL_EXIT. -/
def execThermalLevelExit (c : ThermCond) (s : State) : Host.Outcome State Fault Refusal := onUnit (condOk c) (thermalDown s c)

/-- R304: JUNCTION_TRIP. -/
def execJunctionTrip (i : Nat) (s : State) : Host.Outcome State Fault Refusal := onUnit (siteOk i) (junctionTrip s i)

/-- R304: PANEL_SHUTDOWN. -/
def execPanelShutdown (s : State) : Host.Outcome State Fault Refusal := .next (panelShutdown s)

/-- R302: TRAY_REPORT. -/
def execTrayReport (inlet outlet : Int) (flow seq rsv : Nat) (pecOk : Bool) (s : State) : Host.Outcome State Fault Refusal :=
  .next (trayReport s inlet outlet flow seq rsv pecOk)

/-- R302: TRAY_LOST. -/
def execTrayLost (s : State) : Host.Outcome State Fault Refusal := .next (trayLost s)

/-- R308: PANEL_FACTOR_UPDATE. -/
def execPanelFactorUpdate (pin vin : Nat) (inlet outlet : Int) (s : State) : Host.Outcome State Fault Refusal :=
  .next (notePanel (panelFactor s pin) pin vin inlet outlet)

end Sys2Proof.Machine
end

