-- ==== Sys2Proof/Machine/Errors.lean ====
section
/-! DEFINITION. Voted fields, suspect sites, probes and shadow runs (R320 to R337). -/

namespace Sys2Proof.Machine

/-! ### Critical values (R320) -/

/-- The word at `off` of a page holds a value with its complement. -/
def pairOk (s : State) (page : Nat) (t : List RegDef) (off : Nat) : Bool :=
  let w := wordOf s page t off
  w % 65536 + w / 65536 = 0xFFFF

/-- R320: the critical values of site `i` that frame boundaries check. -/
def siteCritical (s : State) (i : Nat) : Bool :=
  [0x44, 0x48, 0x4C, 0x50, 0x54, 0x58].all (pairOk s (commonP i) Reg.Sc.regs) && pairOk s (tniP i) Reg.Tn.regs 0x40 &&
    ((List.range 22).map (fun k => 0x40 + 4 * k)).all (pairOk s (budP i) Reg.Bu.regs) &&
    ((List.range 19).flatMap (fun k => [0x80 + 4 * k, 0x100 + 4 * k])).all (pairOk s (cniP i) Reg.Cn.regs)

/-! ### Votes (R322) -/

/-- R322: VOTE_FIX on field `f` of site `i`. -/
def voteFix (s : State) (i f : Nat) (allDiffer : Bool) : State :=
  if allDiffer then panelError s 2 false i
  else
    let p := relP i
    let s := (s.setBit p Reg.Re.VOTE_FIX).bump p Reg.Re.VOTE_CNT 1
    let st := s.site i
    let s := if bits st.voteLogged f 1 = 1 then s
      else siteEvent (s.setSite i { st with voteLogged := st.voteLogged + 2 ^ f }) i 0x11 1 p Reg.Re.regs 0
    suspect s i

/-! ### Probes (R328 to R331) -/

/-- R331: a probe cycle of site `i` has ended; the next begins in the present frame. -/
def probeCycle (s : State) (i : Nat) : State :=
  let st := s.site i
  let p := relP i
  let s := if st.probeClean then
      ((s.wrap p Reg.Re.PROBE_PASSES 1).wr p Reg.Re.VOUCHED_FC_LO st.probeFc).wr p Reg.Re.VOUCHED_FC_HI (st.probeFc / 2 ^ 32)
    else s
  s.setSite i { st with probeAt := [], probeFc := st.fc, probeLen := 0, probeClean := true }

/-- R330: item `k` of core `c` has failed. -/
def probeFailed (s : State) (c : CoreId) (k : Nat) : State :=
  let i := c.site
  let p := relP i
  let st := s.site i
  let twice := match st.probeFail with
    | some f => decide (fcAhead st.fc f < 2 ^ 24)
    | none => false
  let s := s.setSite i { st with probeClean := false, probeFail := some st.fc }
  let s := ((s.setBit p Reg.Re.PROBE_FAIL).wr p Reg.Re.FAIL_CORE c.n).wr p Reg.Re.FAIL_ITEM k
  let s := faultSite (suspect (siteEvent s i 0x13 2 p Reg.Re.regs 1) i) i
  if twice then siteFail s i false else s

/-- R329: PROBE_ITEM: the next item in cyclic order, at most PROBE_ITEMS a frame, where the site takes marks. -/
def probeItem (s : State) (c : CoreId) (good : Bool) : State :=
  let i := c.site
  let st := s.site i
  let now := tabGet (fun _ => 0) st.probeNow c.n
  let k := tabGet (fun _ => 0) st.probeAt c.n
  if (16 ≤ st.region ∧ 16 ≤ st.join) ∨ !st.exec ∨ s.rd (relP i) Reg.Re.PROBE_ITEMS ≤ now ∨ 512 ≤ k then s
  else
    let s := s.setSite i { st with probeNow := tabSet (fun _ => 0) st.probeNow c.n (now + 1), probeAt := tabSet (fun _ => 0) st.probeAt c.n (k + 1) }
    let s := if good then s else probeFailed s c k
    if (List.range 8).all (fun n => tabGet (fun _ => 0) (s.site i).probeAt n = 512) then probeCycle s i else s

/-- R331: region value of VOUCHED_FC: the least over its sites. -/
def vouched (s : State) (r : Nat) : Nat :=
  match (regionSites s r).map (fun i => s.rd (relP i) Reg.Re.VOUCHED_FC_LO + s.rd (relP i) Reg.Re.VOUCHED_FC_HI * 2 ^ 32) with
  | [] => 0
  | a :: t => t.foldl min a

/-! ### Shadow runs (R332 to R335) -/

/-- R334: one byte of CRC-64. -/
def crc64Byte (crc b : Nat) : Nat :=
  (List.range 8).foldl (fun c _ => if 2 ^ 63 ≤ c then (c % 2 ^ 63 * 2) ^^^ 0x42F0E1EBA9EA3693 else c * 2) (crc ^^^ (b * 2 ^ 56))

/-- CRC-64 of the low `n` bytes of `v`, continuing from `crc`. -/
def crc64 (crc v n : Nat) : Nat := (List.range n).foldl (fun c i => crc64Byte c (bits v (8 * i) 8)) crc

/-- R334: bytes of a digest item: its header, and each word followed by its poison byte. -/
def digestItem (cyc unit bank line words data poison : Nat) : DigItem :=
  { cyc := cyc, unit := unit, n := 8 + 9 * words
    v := cyc + unit * 2 ^ 16 + bank * 2 ^ 19 + line * 2 ^ 24 +
      upTo words (fun acc w => acc + (bits data (64 * w) 64 + bits poison w 1 * 2 ^ 64) * 256 ^ (8 + 9 * w)) 0 }

/-- R334: cycle order, and within a cycle unit-code order. -/
def digInsert : List DigItem → DigItem → List DigItem
  | [], x => [x]
  | a :: t, x => if x.cyc < a.cyc ∨ (x.cyc = a.cyc ∧ x.unit < a.unit) then x :: a :: t else a :: digInsert t x

/-- R334: the digest of a core's items. -/
def coreDigest (xs : List DigItem) : Nat :=
  (xs.foldl digInsert []).foldl (fun c x => crc64 c x.v x.n) (2 ^ 64 - 1) ^^^ (2 ^ 64 - 1)

/-- R334: the site digest. -/
def siteDigest (xs : List (Nat × DigItem)) : Nat :=
  (List.range 8).foldl (fun c n => crc64 c (coreDigest ((xs.filter (fun x => x.1 = n)).map Prod.snd)) 8) (2 ^ 64 - 1) ^^^ (2 ^ 64 - 1)

/-- R17, R332: physical neighbour of site `i` through port code `p` (N, NE, E, SE, S, SW, W, NW), with R14's edge links. -/
def portNext (i p : Nat) : Option Nat :=
  let y := i / 16
  let x := i % 16
  let dn := (y + 1) % 16
  let up := (y + 15) % 16
  match p with
  | 0 => some (16 * up + x)
  | 1 => if x = 15 then none else some (16 * up + x + 1)
  | 2 => some (16 * y + (x + 1) % 16)
  | 3 => if x = 15 then none else some (16 * dn + x + 1)
  | 4 => some (16 * dn + x)
  | 5 => if x = 0 then none else some (16 * dn + x - 1)
  | 6 => some (16 * y + (x + 15) % 16)
  | 7 => if x = 0 then none else some (16 * up + x - 1)
  | _ => none

/-- R332: whether SHADOW_CTL.ENTER is taken. -/
def shadowOk (s : State) (i buddy port : Nat) : Bool :=
  let st := s.rd (relP i) Reg.Re.SHADOW_STATE
  match physOf s buddy with
  | none => false
  | some b =>
    s.rd (commonP i) Reg.Sc.ROLE = 1 && (st = 0 || st = 4 || st = 5) && decide ((s.site b).region < 16) && !((s.site b).failed) &&
      [0, 1, 3, 4, 5, 7].contains port && portNext i port = some b &&
      (List.range 8).all (fun n => [0, 3, 5].contains (s.rd (coreP ⟨b, n⟩) Reg.Co.STATE))

/-- R332, R333: SHADOW_ENTER. -/
def shadowEnter (s : State) (i buddy port : Nat) : Option State :=
  if !(shadowOk s i buddy port) then none
  else match physOf s buddy with
  | none => none
  | some b =>
    let p := relP i
    let s := (s.wr p Reg.Re.BUDDY buddy).wr p Reg.Re.MIRROR_PORT port
    let s := clearSram s i
    let st := s.site i
    let s := s.setSite i { st with rested := st.leftAt.all (fun t => decide (t + 10000000000 ≤ s.up)), leftAt := none }
    let s := ((s.wr (spowP i) Reg.Sp.DOM_EN 15).wr (spowP i) Reg.Sp.ARR_MODE 1).wr (spowP i) Reg.Sp.SITE_PSTATE 1
    let act := s.rd (tniP b) Reg.Tn.TABLE_ACTIVE
    let s := s.put (hopAddr i 0 0) 8192 (s.take (hopAddr b act 0) 8192)
    let s := s.wr (tniP i) Reg.Tn.TABLE_ACTIVE 0
    let s := ((s.wr (tniP i) Reg.Tn.FL_CODE (s.rd (tniP b) Reg.Tn.FL_CODE)).wr (tniP i) Reg.Tn.SL (s.rd (tniP b) Reg.Tn.SL)).wr
      (tniP i) Reg.Tn.CFG_COMPL (s.rd (tniP b) Reg.Tn.CFG_COMPL)
    let s := (s.wr (wellP i) Reg.We.ACT_PW (s.rd (wellP b) Reg.We.ACT_PW)).wr (wellP i) Reg.We.WST_ACT0 (s.rd (wellP b) Reg.We.WST_ACT0)
    let s := upTo 47 (fun s e => s.wr (wellP i) (Reg.We.WST_ACT e) (s.rd (wellP b) (Reg.We.WST_ACT e))) s
    let s := upTo 4 (fun s d => s.wr (tniP i) (Reg.Tn.B d) (s.rd (tniP b) (Reg.Tn.B d))) s
    let sb := s.site b
    let s := s.setSite i { (s.site i) with
      join := sb.region, base := sb.base, fc := sb.fc, digOn := true, digs := [], mirDig := [], mirror := []
      hopN0 := if act = 0 then sb.hopN0 else sb.hopN1 }
    let s := s.setSite b { sb with mirTo := i, digOn := true, digs := [] }
    let s := (s.wr (sclkP i) Reg.Ck.FSTATE (s.rd (sclkP b) Reg.Ck.FSTATE)).wr (sclkP i) Reg.Ck.FREE_RUN 0
    some (((s.wr p Reg.Re.SHADOW_STATE 1).wr p Reg.Re.CLEAN_FRAMES 0).wr p Reg.Re.END_REASON 0)

/-- R334, R335: at the end of a shadow frame, the digest of the buddy's frame before it is compared. -/
def shadowCompare (s : State) (i : Nat) : State :=
  let st := s.site i
  let mine := siteDigest st.digs
  match st.mirDig with
  | [] => s
  | (fc, d) :: rest =>
    if s.rd (relP i) Reg.Re.SHADOW_STATE ≠ 2 ∨ fcAhead st.fc fc ≠ 1 then
      if fcAhead st.fc fc = 0 then s else s.setSite i { st with mirDig := rest }
    else
      let p := relP i
      let s := s.setSite i { st with mirDig := rest }
      if mine = d then
        let n := s.rd p Reg.Re.CLEAN_FRAMES + 1
        let s := s.wr p Reg.Re.CLEAN_FRAMES n
        if 4096 ≤ n then shadowEnd s i 3 0 else s
      else
        let s := s.setSite i { (s.site i) with misBuddy := d, misShadow := mine }
        shadowEnd (s.wr p Reg.Re.MISMATCH_FC st.fc) i 4 1

/-- R333, R334: at the end of its frame a buddy sends its digest. -/
def buddyDigest (s : State) (b : Nat) : State :=
  let st := s.site b
  if 256 ≤ st.mirTo then s
  else
    let t := s.site st.mirTo
    s.setSite st.mirTo { t with mirDig := t.mirDig ++ [(st.fc, siteDigest st.digs)] }

/-- R335: bytes that the mirror port from shadow `t` carries in `cyc` cycles. -/
def mirrorRate (s : State) (t cyc : Nat) : Nat := 64 * (if s.rd (relP t) Reg.Re.MIRROR_PORT % 4 = 0 then 80 else 40) * (cyc / 16)

/-- R333, R335: buddy `b` mirrors an item of its current cycle to its shadow; 1 MiB absorbs bursts. -/
def mirrorPut (s : State) (b kind core off words data poison : Nat) : State :=
  let st := s.site b
  let t := st.mirTo
  if 256 ≤ t then s
  else
    let x : Mirror := { fc := st.fc, cyc := st.now - st.base, kind := kind, core := core, off := off, words := words, data := data, poison := poison }
    let v := s.site t
    let n := v.mirLoad + 64 * cdiv words 8
    let s := s.setSite t { v with mirror := v.mirror ++ [x], mirLoad := n }
    if 0x100000 + mirrorRate s t x.cyc < n then shadowEnd s t 5 3 else s

/-- R335: SHADOW_ABORT. -/
def shadowAbort (s : State) (i : Nat) : State := shadowEnd s i 5 5

/-! ### Meanings -/

/-- R322: VOTE_FIX. -/
def execVoteFix (i f : Nat) (allDiffer : Bool) (s : State) : Host.Outcome State Fault Refusal :=
  onUnit (siteOk i && decide (f < 4)) (voteFix s i f allDiffer)

/-- R329: PROBE_ITEM. -/
def execProbeItem (c : CoreId) (good : Bool) (s : State) : Host.Outcome State Fault Refusal := onUnit (coreOk c) (probeItem s c good)

/-- R332: SHADOW_ENTER. -/
def execShadowEnter (i : Nat) (buddy : BitVec 8) (port : BitVec 4) (s : State) : Host.Outcome State Fault Refusal :=
  onUnit (siteOk i) (hostAct s (relP i) 0x64 (shadowEnter s i buddy.toNat port.toNat))

/-- R335: SHADOW_ABORT. -/
def execShadowAbort (i : Nat) (s : State) : Host.Outcome State Fault Refusal :=
  onUnit (siteOk i) (hostAct s (relP i) 0x64 (some (shadowAbort s i)))

/-- R321: SIDEBAND_LOSS. -/
def execSidebandLoss (i : Nat) (s : State) : Host.Outcome State Fault Refusal := onUnit (siteOk i) (panelError s 4 false i)

end Sys2Proof.Machine
end

