-- ==== Sys2Proof/Machine/Issue.lean ====
section
/-! DEFINITION. What decode, banks and slices share (R31, R103 to R105, R112, R155, R160): accesses and the cycles
they take, failed checks, run-time conflicts, and core traps (R167 to R171). -/

namespace Sys2Proof.Machine

/-! ### Core traps -/

/-- The fields of a trap record that the trap decides (R171). `cyc` counts as Site.base does. -/
structure TrapInfo where
  ty : Nat
  cause : Nat := 0
  slot : Nat := 7
  failed : Nat := 0
  lsb : Nat := 0
  width : Nat := 0
  d0 : Nat := 0
  d1 : Nat := 0
  img : Nat := 0
  pc : Nat := 0
  cyc : Nat := 0
  deriving DecidableEq, Repr

/-- R171: the 64 bytes of a trap, STOP or NOTE record with number `seq`. -/
def trapBytes (s : State) (c : CoreId) (t : TrapInfo) (seq : Nat) : Nat :=
  let st := s.site c.site
  sealRec [(0, 8, s.time), (8, 6, st.fc), (14, 2, t.cyc - st.base), (16, 1, t.ty), (17, 1, t.cause),
    (18, 1, s.rd (commonP c.site) Reg.Sc.LOG_INDEX), (19, 1, c.n + 16 * (st.region % 16)), (20, 2, t.pc), (22, 1, t.slot),
    (23, 1, t.failed), (24, 1, t.lsb), (25, 1, t.width), (26, 2, s.rd (coreP c) Reg.Co.SEQ_TRAP_SUPP), (28, 4, t.d0),
    (32, 4, t.d1), (36, 16, t.img), (52, 4, seq)]

/-- R171: writes a record to the region's event queue and to the event log. -/
def coreRecord (s : State) (c : CoreId) (t : TrapInfo) : State × Nat :=
  let seq := (s.rd (coreP c) Reg.Co.RECORD_SEQ + 1) % 2 ^ 32
  let b := trapBytes s c t seq
  let r := (s.site c.site).region
  let s := s.wr (coreP c) Reg.Co.RECORD_SEQ seq
  (logAdd (evqPut s r b) (logTag 1 r) b, b)

/-- R169: a core trap. A running core is stopped and its first trap is recorded; a later trap before the region fault
is counted only. A run-time trap at cycle c lets a bundle due at c issue. -/
def coreTrap (s : State) (c : CoreId) (t : TrapInfo) (runtime : Bool) : State :=
  let p := coreP c
  let st := s.rd p Reg.Co.STATE
  if st = 4 ∨ st = 5 then s.bump p Reg.Co.SEQ_TRAP_SUPP 1
  else
    let (s, b) := coreRecord s c t
    let s := s.wr p Reg.Co.STATE 4
    let s := if s.rd p Reg.Co.TRAP_TYPE = 0 then
        ((s.wr p Reg.Co.TRAP_TYPE t.ty).wr p Reg.Co.TRAP_CAUSE t.cause).wr p Reg.Co.TRAP_SLOT t.slot
      else s
    let k := s.core c
    let s := s.setCore c { k with
      lastCyc := if runtime then t.cyc else 0
      trapRec := match k.trapRec with
        | some x => some x
        | none => some b }
    let s := if t.ty = 5 then s.setBit p Reg.Co.OWNER_ONLY else s
    let s := if t.ty = 7 then siteEvent s c.site 4 2 (tniP c.site) Reg.Tn.regs else s
    let s := if t.ty = 8 then s.setBit (relP c.site) Reg.Re.POISON_TRAP else s
    let s := if t.ty = 9 then suspect s c.site else s
    if isShadow s c.site then shadowEnd s c.site 4 2
    else faultRegion (buddyEnds s c.site) (s.site c.site).region (s.site c.site).fc 1

/-! ### Failed decode checks -/

/-- One failed check of R155: class 2 to 8, slot code of R171, and what the record carries. -/
structure Bad where
  cls : Nat
  slot : Nat
  lsb : Nat := 0
  width : Nat := 0
  cause : Nat := 0
  d0 : Nat := 0
  d1 : Nat := 0
  deriving DecidableEq, Repr

/-- R155: order of the slots within a class: header, argument, MX, VX, MV, LK. -/
def slotRank (slot : Nat) : Nat :=
  match slot with
  | 0 => 0 | 5 => 1 | 1 => 2 | 2 => 3 | 3 => 4 | _ => 5

/-- R167: the trap type of a check class. -/
def classTrap (cls : Nat) : Nat := if cls = 8 ∨ cls = 1 then 7 else cls - 1

/-- R155: the failure that decides: lowest class, then slot order, then order of discovery. -/
def firstBad (bs : List Bad) : Option Bad :=
  bs.foldl (fun acc b => match acc with
    | none => some b
    | some a => if b.cls < a.cls ∨ (b.cls = a.cls ∧ slotRank b.slot < slotRank a.slot) then some b else some a) none

/-- R171: the FAILED byte. -/
def failedMask (bs : List Bad) : Nat := bs.foldl (fun acc b => acc ||| 2 ^ b.slot) 0

/-- R7: a reserved field that is not zero. -/
def rsvBad (v slot lsb w : Nat) : List Bad := if bits v lsb w = 0 then [] else [{ cls := 3, slot := slot, lsb := lsb, width := w }]

/-- A field whose value is reserved. -/
def codeBad (b : Bool) (slot lsb w : Nat) : List Bad := if b then [{ cls := 3, slot := slot, lsb := lsb, width := w }] else []

/-- A check of class `cls` on a field. -/
def fieldBad (b : Bool) (cls slot lsb w : Nat) : List Bad := if b then [{ cls := cls, slot := slot, lsb := lsb, width := w }] else []

/-! ### Accesses -/

/-- R31, R112: an access on an open cycle of its bank (0 to 19) or slice. -/
def onOpen (a : Access) : Bool :=
  if a.port < 256 then decide (a.port % 32 < 20) && decide (a.cyc % 4 = a.port % 32 % 4)
  else if a.port < 512 then decide (a.cyc % 4 = a.port % 4)
  else false

/-- Two accesses that need one port in one cycle; the two halves of one line make a single access (R160). -/
def meet (a b : Access) : Bool :=
  a.port = b.port && a.cyc = b.cyc &&
    !(a.port < 256 && a.own = b.own && a.unit = 1 && b.unit = 1 && a.line = b.line && a.halves + b.halves = 3 && a.halves != 3 && b.halves != 3)

/-- R155 class 7: the first access of `new` on an open cycle, or that meets an access of `old`, as a failed check. -/
def bankBad (slot : Nat) (new old : List Access) : List Bad :=
  match new.find? (fun a => onOpen a || old.any (meet a)) with
  | none => []
  | some a =>
    let w := match old.find? (meet a) with
      | some o => o.unit
      | none => a.unit
    [{ cls := 7, slot := slot, d0 := a.port % 32 + w * 32 + a.unit * 256, d1 := a.cyc }]

/-- Meetings inside one operation's own accesses. -/
def selfMeet : List Access → Bool
  | [] => false
  | a :: t => t.any (meet a) || selfMeet t

/-- R125: an effect at or after the slack window's first cycle `slack` (class 8, cause 2). -/
def slackBad (slot last slack due : Nat) (fc : Nat) : List Bad :=
  if last < slack then [] else [{ cls := 8, slot := slot, cause := 2, d0 := due, d1 := fc % 2 ^ 32 }]

/-- R171: what a discarded access leaves as it was: the destination before the operation. -/
def withUndo (s : State) (at_ words : Nat) (a : Access) : Access :=
  let l := s.take at_ words
  { a with undoAt := at_, undoWords := words, undoData := l.data, undoPoison := l.poison }

/-! ### Run-time conflicts -/

/-- R105, R112: priority of an access at its port: lower completes. -/
def accPrio (a : Access) : Nat :=
  if a.port < 256 then (if a.own = a.port / 32 then a.unit else 10 + a.own) else a.own

/-- R118: the unit code under which the bank's core sees an access. -/
def unitCode (a : Access) : Nat := if a.port < 256 ∧ a.own ≠ a.port / 32 then 4 else a.unit

/-- Restores what a discarded access would have changed (R105). -/
def undoAcc (s : State) (a : Access) : State :=
  if a.undoWords = 0 then s else s.put a.undoAt a.undoWords ⟨a.undoData, a.undoPoison⟩

/-- R105, R112, R118, R119: the losing access `l` is discarded in favour of `w`; its core traps. -/
def loseTo (s : State) (site : Nat) (w l : Access) : State :=
  let s := undoAcc s l
  let bank := l.port < 256
  let fcyc := l.cyc - (s.site site).base
  let s :=
    if bank then
      let p := coreP ⟨site, l.port / 32⟩
      (((((s.setBit p Reg.Co.CONFLICT).wr p Reg.Co.BANK (l.port % 32)).wr p Reg.Co.WINNER (unitCode w)).wr p Reg.Co.LOSER
        (unitCode l)).wr p Reg.Co.CYCLE_2CC fcyc)
    else
      let p := cisP site
      (((((s.setBit p Reg.Ci.CONFLICT).wr p Reg.Ci.SLICE (l.port % 16)).wr p Reg.Ci.WINNER w.own).wr p Reg.Ci.LOSER
        l.own).wr p Reg.Ci.CYCLE fcyc)
  let d0 := (if bank then l.port % 32 else l.port - 256) + unitCode w * 32 + unitCode l * 256 + (if bank then 0 else w.own * 2048)
  coreTrap s ⟨site, l.own⟩
    { ty := 6, cause := if bank then 1 else 2, slot := l.slot, failed := 0, d0 := d0, d1 := fcyc, img := l.img, pc := l.pc, cyc := l.cyc } true

/-- The state after new accesses are placed among those of the site, and which of them were discarded. -/
structure Placed where
  st : State
  lost : List Access
  deriving DecidableEq, Repr

/-- R105: places one new access. -/
def placeAcc (site : Nat) (r : Placed) (a : Access) : Placed :=
  let v := r.st.site site
  let olds := v.acc.filter (fun o => decide (o.port < 512) && decide (a.port < 512) && meet a o &&
    !(decide (o.own = a.own) && decide (o.unit = a.unit)))
  match olds.find? (fun o => decide (accPrio o < accPrio a)) with
  | some w => ⟨loseTo r.st site w a, r.lost ++ [a]⟩
  | none =>
    let st := olds.foldl (fun s o => loseTo s site a o) r.st
    let v := st.site site
    ⟨st.setSite site { v with acc := v.acc.filter (fun o => !(olds.contains o)) ++ [a] }, r.lost⟩

/-- R105: places the accesses of an issued operation, dropping accesses long past. -/
def placeAll (s : State) (site now : Nat) (as : List Access) : Placed :=
  let v := s.site site
  let s := s.setSite site { v with acc := v.acc.filter (fun o => decide (now < o.cyc + 4096)) }
  as.foldl (placeAcc site) ⟨s, []⟩

end Sys2Proof.Machine
end

