-- ==== Sys2Proof/Machine/Func.lean ====
section
/-! DEFINITION. The function unit (R88, R89): each result is the correctly rounded value moved by a free step that
keeps it inside the manual's error bound. The reference value is computed with integers to about 2^-90 relative. -/

namespace Sys2Proof.Machine

/-- The functions of opcodes 0x20 to 0x27 (R83). -/
inductive Fn where
  | exp2 | exp | log2 | rcp | rsqrt | sqrt | tanh | sigmoid
  deriving DecidableEq, Repr

/-- R83: the opcode of a function. -/
def Fn.code : Fn → Nat
  | .exp2 => 0x20 | .exp => 0x21 | .log2 => 0x22 | .rcp => 0x23
  | .rsqrt => 0x24 | .sqrt => 0x25 | .tanh => 0x26 | .sigmoid => 0x27

/-- R88: the error bound in ulps of the correctly rounded FP32 result. -/
def Fn.bound : Fn → Nat
  | .exp2 => 1 | .exp => 2 | .log2 => 1 | .rcp => 1
  | .rsqrt => 1 | .sqrt => 0 | .tanh => 2 | .sigmoid => 2

/-- Working precision in bits. -/
def fnP : Nat := 160

/-- ln 2 scaled by 2^160. -/
def fnLn2 : Nat := 1013035739299659071135698605846798551586536899366

/-- log2 e scaled by 2^160. -/
def fnLog2e : Nat := 2108501164428393954197770173035669514763056903505

/-- Taylor sum of e^y from term `k`; `y`, `term` scaled by 2^fnP. -/
def expTaylor (y : Nat) : Nat → Nat → Nat → Nat
  | 0, _, _ => 0
  | fuel + 1, k, term => term + expTaylor y fuel (k + 1) (term * y / 2 ^ fnP / (k + 1))

/-- 2^x for an exact x, as a number of about fnP bits; far arguments give a number beyond any FP32 range. -/
def exp2Dy (x : Dy) : Dy :=
  let fx : Int := if 0 ≤ x.e + fnP then x.z * (2 ^ (x.e + fnP).toNat : Nat) else x.z / (2 ^ (-(x.e + fnP)).toNat : Nat)
  let n : Int := fx / (2 ^ fnP : Nat)
  let f : Nat := (fx % (2 ^ fnP : Nat)).toNat
  if n < -400 then ⟨1, -400⟩
  else if 400 < n then ⟨1, 400⟩
  else ⟨(expTaylor (f * fnLn2 / 2 ^ fnP) 45 0 (2 ^ fnP) : Nat), n - fnP⟩

/-- e^x, by x · log2 e. -/
def expDy (x : Dy) : Dy := exp2Dy (x.mul ⟨fnLog2e, -fnP⟩)

/-- Fraction bits of log2 t by repeated squaring; `t` in [1, 2) scaled by 2^fnP. -/
def log2Bits : Nat → Nat → Nat → Nat
  | 0, _, acc => acc
  | fuel + 1, t, acc =>
    let t2 := t * t / 2 ^ fnP
    if 2 ^ (fnP + 1) ≤ t2 then log2Bits fuel (t2 / 2) (2 * acc + 1) else log2Bits fuel t2 (2 * acc)

/-- log2 (m · 2^e) for m > 0. -/
def log2Dy (m : Nat) (e : Int) : Dy :=
  let k : Int := (Nat.log2 m : Int) + e
  ⟨k * (2 ^ 100 : Nat) + log2Bits 100 (m * 2 ^ fnP / 2 ^ Nat.log2 m) 0, -100⟩

/-- Integer square root, bit `b` downward. -/
def isqrtGo (n : Nat) : Nat → Nat → Nat
  | 0, r => if (r + 1) * (r + 1) ≤ n then r + 1 else r
  | b + 1, r =>
    let c := r + 2 ^ (b + 1)
    isqrtGo n b (if c * c ≤ n then c else r)

/-- Integer square root. -/
def isqrt (n : Nat) : Nat := isqrtGo n (Nat.log2 n / 2 + 1) 0

/-- √(m · 2^e), with a sticky last bit so that one rounding is correct (R88: VSQRT is correctly rounded). -/
def sqrtDy (m : Nat) (e : Int) : Dy :=
  let odd := decide (e % 2 = 1)
  let m2 := (if odd then 2 * m else m) * 2 ^ 80
  let e2 : Int := (if odd then e - 1 else e) / 2
  let r := isqrt m2
  ⟨(2 * r + (if r * r = m2 then 0 else 1) : Nat), e2 - 41⟩

/-- 1 / √(m · 2^e). -/
def rsqrtDy (m : Nat) (e : Int) : Dy :=
  let odd := decide (e % 2 = 1)
  let m2 := if odd then 2 * m else m
  let e2 : Int := (if odd then e - 1 else e) / 2
  let q := 100 + Nat.log2 m2
  ⟨(isqrt (2 ^ (2 * q) / m2) : Nat), -e2 - q⟩

/-- 1 / (m · 2^e). -/
def rcpDy (m : Nat) (e : Int) : Dy :=
  let q := 100 + Nat.log2 m
  ⟨(2 ^ q / m : Nat), -e - q⟩

/-- tanh of a positive exact number. -/
def tanhDy (m : Nat) (e : Int) : Dy :=
  let k : Int := (Nat.log2 m : Int) + e
  if k < -40 then ⟨m, e⟩
  else if 5 ≤ k then ⟨2 ^ 64 - 1, -64⟩
  else
    let ex := expDy ⟨m, e + 1⟩
    let ei := (ex.at_ (-fnP)).toNat
    ⟨((ei - 2 ^ fnP) * 2 ^ 100 / (ei + 2 ^ fnP) : Nat), -100⟩

/-- 1 / (1 + e^-x) of an exact number. -/
def sigmoidDy (x : Dy) : Dy :=
  if 0 ≤ x.z then
    let ex := expDy ⟨-x.z, x.e⟩
    let ei := if ex.e < -fnP - 200 then 0 else (ex.z.toNat * 2 ^ (ex.e + fnP + 200).toNat) / 2 ^ 200
    ⟨(2 ^ (2 * fnP) / (2 ^ fnP + ei) : Nat), -fnP⟩
  else
    let ex := expDy x
    let ei := if ex.e < -fnP - 200 then 0 else (ex.z.toNat * 2 ^ (ex.e + fnP + 200).toNat) / 2 ^ 200
    ⟨ex.z * (2 ^ (2 * fnP) / (2 ^ fnP + ei) : Nat), ex.e - fnP⟩

/-- R88: the reference value of a function at a non-zero finite input in its domain. -/
def fnRef (fn : Fn) (neg : Bool) (m : Nat) (e : Int) : Dy :=
  let x : Dy := ⟨if neg then -(m : Int) else m, e⟩
  match fn with
  | .exp2 => exp2Dy x
  | .exp => expDy x
  | .log2 => log2Dy m e
  | .rcp => let r := rcpDy m e; if neg then ⟨-r.z, r.e⟩ else r
  | .rsqrt => rsqrtDy m e
  | .sqrt => sqrtDy m e
  | .tanh => let r := tanhDy m e; if neg then ⟨-r.z, r.e⟩ else r
  | .sigmoid => sigmoidDy x

/-- R88: the exact cases, in which the result is the exact value. -/
def fnExact (fn : Fn) (m : Nat) (e : Int) : Bool :=
  let pow2 := decide (m = 2 ^ Nat.log2 m)
  let k : Int := (Nat.log2 m : Int) + e
  match fn with
  | .exp2 => decide (0 ≤ e) || decide (m % 2 ^ (-e).toNat = 0)
  | .log2 => pow2
  | .rcp => pow2
  | .rsqrt => pow2 && decide (k % 2 = 0)
  | .sqrt => true
  | _ => false

/-- R88: moves the correctly rounded magnitude by the free step where the bound allows it. -/
def fnMove (fn : Fn) (x : BitVec 32) (ref : Dy) (code : Nat) : Nat :=
  let cand := ((code : Int) + Config.fnStep fn.code x).toNat
  if Fp.maxFin .fp32 < cand then code
  else
    let val (c : Nat) : Dy := (Fp.decode .fp32 c).dy
    let q : Int := max ((Nat.log2 (val code).z.toNat : Int) + (val code).e - 23) (Fp.qmin .fp32)
    let d := ((val cand).add ⟨-ref.z, ref.e⟩).abs
    if d.le ⟨fn.bound, q⟩ then cand else code

/-- R88, R89: a function of an FP32 code. `ovf` marks an infinite result from a finite input, `invalid` a NaN from a
non-NaN input. -/
def fnApply (fn : Fn) (x : BitVec 32) : FpRes :=
  let one := 0x3F800000
  let ninf := 0xFF800000
  let pinf := 0x7F800000
  let bad : FpRes := { code := Fp.nan .fp32, invalid := true }
  match Fp.decode .fp32 x.toNat with
  | .nan => { code := Fp.nan .fp32 }
  | .zero n =>
    match fn with
    | .exp2 | .exp => { code := one }
    | .log2 => { code := ninf, ovf := true }
    | .rcp | .rsqrt => { code := if n then ninf else pinf, ovf := true }
    | .sqrt | .tanh => { code := Fp.withSign .fp32 n 0 }
    | .sigmoid => { code := 0x3F000000 }
  | .inf n =>
    match fn with
    | .exp2 | .exp => { code := if n then 0 else pinf }
    | .log2 | .sqrt => if n then bad else { code := pinf }
    | .rcp => { code := Fp.withSign .fp32 n 0 }
    | .rsqrt => if n then bad else { code := 0 }
    | .tanh => { code := Fp.withSign .fp32 n one }
    | .sigmoid => { code := if n then 0 else one }
  | .fin n m e =>
    if n && (fn = .log2 || fn = .rsqrt || fn = .sqrt) then bad
    else
      let ref := fnRef fn n m e
      let r := roundFp .fp32 .nearest ref.z.natAbs ref.e
      let neg := decide (ref.z < 0)
      if r.ovf then { code := Fp.withSign .fp32 neg pinf, ovf := true }
      else if fnExact fn m e then { code := Fp.withSign .fp32 neg r.code }
      else { code := Fp.withSign .fp32 neg (fnMove fn x ref.abs r.code) }

end Sys2Proof.Machine
end

