-- ==== Sys2Proof/Machine/Vector.lean ====
section
/-! DEFINITION. The vector engine (R80 to R99) and CONVERT (R68 to R78): what an accepted VX operation does. -/

namespace Sys2Proof.Machine

/-! ### The vector file -/

/-- R81: byte of the vector file that operand address `a` names. -/
def vfOff (a : Nat) : Nat := 8 * (a - 0xC000)

/-- R98: notes latent errors of the words that hold `n` bytes at file offset `o`; an uncorrectable word becomes
poisoned in the file. -/
def noteVf (s : State) (c : CoreId) (o n : Nat) : State :=
  let a := vfBase c.site c.n + o / 8 * 8
  let words := cdiv (o % 8 + n) 8
  let ce := marksGet s.mem.ce (a / 8) words
  let ue := marksGet s.mem.ue (a / 8) words
  let p := coreP c
  let s := if ce = 0 then s else (s.setBit p Reg.Co.VF_CE).bump p Reg.Co.VF_CE_CNT (popc words ce)
  if ue = 0 then s
  else
    let s := s.setBit p Reg.Co.VF_UE
    let m := memMark s.mem a words ue
    { s with mem := { m with ue := marksPut m.ue (a / 8) words 0 } }

/-- `n` bytes of the vector file at offset `o`. -/
def vfBytes (s : State) (c : CoreId) (o n : Nat) : Nat := memRead s.mem (vfBase c.site c.n + o) n

/-- Whether the byte at offset `o` lies in a poisoned word. -/
def vfPoison (s : State) (c : CoreId) (o : Nat) : Bool := memPoison s.mem (vfBase c.site c.n + o / 8 * 8) 1 != 0

/-- R84, R98: writes `n` bytes at a word-aligned offset; `pm` marks the words that take poison. Whole words take
their new mark; a word written in part keeps its old mark as well. -/
def vfWrite (s : State) (c : CoreId) (o n v pm : Nat) : State :=
  let a := vfBase c.site c.n + o
  let full := n / 8
  let m := memWrite s.mem a full (v % 256 ^ (8 * full)) (pm % 2 ^ full)
  let m := if n % 8 = 0 then m
    else memMark (memTail m (a + 8 * full) (n % 8) (v / 256 ^ (8 * full))) (a + 8 * full) 1 (pm / 2 ^ full)
  { s with mem := m }

/-- R59: the floating type of TYPE[3:0] in operations that allow codes 0 to 2. -/
def vxType (t : Nat) : Fp := if t = 0 then .fp32 else if t = 1 then .fp16 else .bf16

/-- An element read from a run: its code and its poison. -/
structure Elem where
  code : Nat
  poison : Bool
  deriving DecidableEq, Repr

/-- Element `e` of the run at operand address `a`. -/
def vfElem (s : State) (c : CoreId) (sz a e : Nat) : Elem :=
  ⟨vfBytes s c (vfOff a + sz * e) sz, vfPoison s c (vfOff a + sz * e)⟩

/-- The `n` elements at file offset `o`, a whole word's. -/
def vfRun (s : State) (c : CoreId) (sz o n : Nat) : List Elem :=
  let all := vfBytes s c o (sz * n)
  let pm := memPoison s.mem (vfBase c.site c.n + o) (cdiv (sz * n) 8)
  (List.range n).map (fun e => ⟨bits all (8 * sz * e) (8 * sz), bits pm (sz * e / 8) 1 = 1⟩)

/-- An element to be written. -/
structure OutElem where
  code : Nat
  poison : Bool := false
  ovf : Bool := false
  invalid : Bool := false
  deriving DecidableEq, Repr

/-- Writes elements at file offset `o` and counts what R86 and R98 count. -/
def vfPutRun (s : State) (c : CoreId) (sz o : Nat) (es : List OutElem) : State :=
  let v := es.foldr (fun e acc => acc * 256 ^ sz + e.code) 0
  let pm := (es.zipIdx).foldl (fun acc e => if e.1.poison then acc ||| 2 ^ (sz * e.2 / 8) else acc) 0
  let s := vfWrite s c o (sz * es.length) v pm
  let p := coreP c
  let infs := (es.filter (fun e => e.ovf)).length
  let nans := (es.filter (fun e => e.invalid)).length
  let pois := (es.filter (fun e => e.poison)).length
  let s := if infs = 0 then s else (s.setBit p Reg.Co.INF_OUT).bump p Reg.Co.VX_INF_CNT infs
  let s := if nans = 0 then s else (s.setBit p Reg.Co.NAN_OUT).bump p Reg.Co.VX_NAN_CNT nans
  if pois = 0 then s else (s.setBit p Reg.Co.POISON_PROP).bump p Reg.Co.VX_POISON_CNT pois

/-! ### Beats (R93, R96) -/

/-- The elements of beat `k` of a run of `cnt`, at `n` a beat. -/
def beatLen (n cnt k : Nat) : Nat := min n (cnt - n * k)

/-- The oldest beat that waits is written when beat `k` is read, if `d` beats have passed. -/
def beatPop {β : Type} (d : Nat) (write : State → Nat → β → State) (acc : State × List (Nat × β)) (k : Nat) :
    State × List (Nat × β) :=
  match acc.2 with
  | p :: rest => if p.1 + d ≤ k then (write acc.1 p.1 p.2, rest) else acc
  | [] => acc

/-- The `kk` beats of an operation issued at t: beat k reads at t + 1 + k, its result is written at t + d + k, and a beat
reads what has been written by then. -/
def beats {β : Type} (kk d : Nat) (read : State → Nat → β) (write : State → Nat → β → State) (s : State) : State :=
  let r := upTo kk (fun (acc : State × List (Nat × β)) k =>
    let acc := beatPop d write acc k
    (acc.1, acc.2 ++ [(k, read acc.1 k)])) (s, [])
  r.2.foldl (fun s p => write s p.1 p.2) r.1

/-! ### Element-wise operations -/

/-- The element-wise opcodes 0x01 to 0x0A (R83). -/
inductive Ew where
  | mov | add | sub | mul | fma | max | min | abs | neg | scale
  deriving DecidableEq, Repr

/-- Rounds an exact result and keeps the invalid mark (R86). -/
def ewRes (f : Fp) (r : Val × Bool) : OutElem :=
  let e := encodeNear f r.1
  { code := e.code, ovf := e.ovf, invalid := r.2 }

/-- R86: one element. `a`, `b`, `d` are the codes of A, B and DST; `k` the power of VSCALE. -/
def ewElem (op : Ew) (f : Fp) (a b d : Nat) (k : Int) : OutElem :=
  let va := f.decode a
  let vb := f.decode b
  match op with
  | .mov => if va = .nan then { code := f.nan } else { code := a }
  | .add => ewRes f (va.add vb)
  | .sub => ewRes f (va.add vb.neg)
  | .mul => ewRes f (va.mul vb)
  | .fma =>
    let p := va.mul vb
    let r := p.1.add (f.decode d)
    if f.decode d = .nan then { code := f.nan } else ewRes f (r.1, p.2 || r.2)
  | .max => ewRes f (va.max vb, false)
  | .min => ewRes f (va.min vb, false)
  | .abs => if va = .nan then { code := f.nan } else { code := a % f.signBit }
  | .neg => if va = .nan then { code := f.nan } else { code := (a + f.signBit) % (2 * f.signBit) }
  | .scale => ewRes f (match va with
      | .fin n m e => (.fin n m (e + k), false)
      | v => (v, false))

/-- R83: the element-wise operations with a B operand. -/
def Ew.hasB (op : Ew) : Bool := op = .add || op = .sub || op = .mul || op = .fma || op = .max || op = .min

/-- R82, R86, R98: the results of `m` elements from element `e0` of an element-wise operation. -/
def ewBeat (s : State) (c : CoreId) (op : Ew) (f : Fp) (dst srca srcb imm : Nat) (sb : Bool) (e0 m : Nat) : List OutElem :=
  let sz := f.bytes
  let as := vfRun s c sz (vfOff srca + sz * e0) m
  let bs := if op.hasB && !sb then vfRun s c sz (vfOff srcb + sz * e0) m else List.replicate m ⟨imm % 256 ^ sz, false⟩
  let ds := if op = .fma then vfRun s c sz (vfOff dst + sz * e0) m else List.replicate m ⟨0, false⟩
  (as.zip (bs.zip ds)).map (fun e =>
    if e.1.poison || e.2.1.poison || e.2.2.poison then { code := f.nan, poison := true }
    else ewElem op f e.1.code e.2.1.code e.2.2.code (sgn 8 imm))

/-- R82, R86, R93, R98: an element-wise operation over `cnt` elements. -/
def vxEw (s : State) (c : CoreId) (op : Ew) (ty cnt dst srca srcb imm : Nat) (sb : Bool) : State :=
  let f := vxType ty
  let sz := f.bytes
  let n := if ty = 0 then 256 else 512
  let s := noteVf s c (vfOff srca) (sz * cnt)
  let s := if op.hasB && !sb then noteVf s c (vfOff srcb) (sz * cnt) else s
  let s := if op = .fma then noteVf s c (vfOff dst) (sz * cnt) else s
  beats (cdiv cnt n) (if op = .fma then 6 else 5)
    (fun s k => ewBeat s c op f dst srca srcb imm sb (n * k) (beatLen n cnt k))
    (fun s k es => vfPutRun s c sz (vfOff dst + sz * (n * k)) es) s

/-! ### Reductions -/

/-- The reductions 0x10 to 0x13 (R83). -/
inductive Rd where
  | sum | sumsq | max | maxabs
  deriving DecidableEq, Repr

/-- A partial of a reduction: an FP32 value, overflows counted, and whether +∞ and −∞ met. -/
structure Part where
  v : Val
  ovf : Nat := 0
  invalid : Bool := false
  deriving DecidableEq, Repr

/-- One rounded FP32 step (R87). -/
def partRound (r : Val × Bool) (ovf : Nat) (inv : Bool) : Part :=
  let e := encodeNear .fp32 r.1
  ⟨Fp.decode .fp32 e.code, ovf + (if e.ovf then 1 else 0), inv || r.2⟩

/-- R87: start value of a lane. -/
def rdStart (op : Rd) : Part :=
  match op with
  | .sum | .sumsq => ⟨.zero false, 0, false⟩
  | .max | .maxabs => ⟨.inf true, 0, false⟩

/-- R87: a lane takes one element. -/
def rdTake (op : Rd) (p : Part) (a : Val) : Part :=
  match op with
  | .sum => partRound (a.add p.v) p.ovf p.invalid
  | .sumsq =>
    let q := a.mul a
    partRound (q.1.add p.v) p.ovf p.invalid
  | .max => { p with v := p.v.max a }
  | .maxabs => { p with v := p.v.max a.abs }

/-- R87: two partials meet in the tree. -/
def rdJoin (op : Rd) (a b : Part) : Part :=
  match op with
  | .sum | .sumsq =>
    partRound (a.v.add b.v) (a.ovf + b.ovf) (a.invalid || b.invalid)
  | .max | .maxabs => { v := a.v.max b.v, ovf := 0, invalid := false }

/-- R87: one level of the tree combines partials 2i and 2i + 1. -/
def rdLevel (op : Rd) : List Part → List Part
  | a :: b :: t => rdJoin op a b :: rdLevel op t
  | t => t

/-- R87: the 256 lane partials of a list of elements. -/
def rdLanes (op : Rd) (vs : List Val) : List Part :=
  (List.range 256).map (fun l =>
    ((vs.zipIdx).filter (fun e => e.2 % 256 = l)).foldl (fun p e => rdTake op p e.1) (rdStart op))

/-- R87: the whole reduction; a NaN input counts nothing (R86). -/
def rdAll (op : Rd) (vs : List Val) : Part :=
  let r := (List.range 8).foldl (fun ps _ => rdLevel op ps) (rdLanes op vs)
  if vs.any (fun v => v = .nan) then { v := .nan } else r.headD (rdStart op)

/-- R87, R98: a reduction writes `copies` FP32 copies of its result. -/
def vxRd (s : State) (c : CoreId) (op : Rd) (ty cnt dst srca copies : Nat) : State :=
  let f := vxType ty
  let s := noteVf s c (vfOff srca) (f.bytes * cnt)
  let es := vfRun s c f.bytes (vfOff srca) cnt
  let pois := (es.filter (fun e => e.poison)).length
  let r := rdAll op (es.map (fun e => f.decode e.code))
  let code := if pois = 0 then (encodeNear .fp32 r.v).code else Fp.nan .fp32
  let s := vfWrite s c (vfOff dst) (4 * copies) (upTo copies (fun acc e => acc + code * 2 ^ (32 * e)) 0)
    (if pois = 0 then 0 else 2 ^ cdiv (4 * copies) 8 - 1)
  let p := coreP c
  if pois = 0 then
    let s := if r.ovf = 0 then s else (s.setBit p Reg.Co.INF_OUT).bump p Reg.Co.VX_INF_CNT r.ovf
    if r.invalid then (s.setBit p Reg.Co.NAN_OUT).bump p Reg.Co.VX_NAN_CNT 1 else s
  else (s.setBit p Reg.Co.POISON_PROP).bump p Reg.Co.VX_POISON_CNT pois

/-! ### Functions -/

/-- R88, R89: one element of a function: widened, computed in FP32, rounded once into the type. -/
def fnElem (fn : Fn) (f : Fp) (a : Nat) : OutElem :=
  let v := f.decode a
  let r := fnApply fn (BitVec.ofNat 32 (encodeNear .fp32 v).code)
  if f = .fp32 then { code := r.code, ovf := r.ovf, invalid := r.invalid }
  else
    let e := encodeNear f (Fp.decode .fp32 r.code)
    { code := e.code, ovf := r.ovf || e.ovf, invalid := r.invalid }

/-- R88, R98: the results of `m` elements from element `e0` of a function. -/
def fnBeat (s : State) (c : CoreId) (fn : Fn) (f : Fp) (srca e0 m : Nat) : List OutElem :=
  (vfRun s c f.bytes (vfOff srca + f.bytes * e0) m).map (fun e =>
    if e.poison then { code := f.nan, poison := true } else fnElem fn f e.code)

/-- R88, R93, R98: a function over `cnt` elements. -/
def vxFn (s : State) (c : CoreId) (fn : Fn) (ty cnt dst srca : Nat) : State :=
  let f := vxType ty
  let s := noteVf s c (vfOff srca) (f.bytes * cnt)
  beats (cdiv cnt 64) 15 (fun s k => fnBeat s c fn f srca (64 * k) (beatLen 64 cnt k))
    (fun s k es => vfPutRun s c f.bytes (vfOff dst + f.bytes * (64 * k)) es) s

/-! ### CONVERT -/

/-- A decoded source element of a CONVERT. -/
structure SrcElem where
  v : Val
  poison : Bool
  deriving DecidableEq, Repr

/-- R90: bytes that a block-scaled run of `cnt` elements occupies, in lines of 128. -/
def bsLines (f : Bs) (cnt : Nat) : Nat := f.pieces * cdiv cnt 128 + cdiv (cdiv cnt 128) 128

/-- Bytes that an operand of `cnt` elements occupies (R84). -/
def fmtExtent (f : Fmt) (cnt : Nat) : Nat :=
  match f with
  | .fp f => f.bytes * cnt
  | .bs f => 128 * bsLines f cnt

/-- R64, R65, R76: element `e` of a block-scaled run at file offset `o`. -/
def bsElem (s : State) (c : CoreId) (f : Bs) (o cnt e : Nat) : SrcElem :=
  let blocks := cdiv cnt 128
  let b := e / 128
  let eo := o + 128 * (f.pieces * blocks) + b
  let eb := vfBytes s c eo 1
  let at_ := fun p => o + 128 * (p * blocks + b) + e % 128
  let ps := (List.range f.pieces).map (fun p => vfBytes s c (at_ p) 1)
  let pois := (List.range f.pieces).any (fun p => vfPoison s c (at_ p))
  if eb = 0x80 || vfPoison s c eo || pois then ⟨.nan, true⟩
  else match Bs.join ps with
    | none => ⟨.nan, false⟩
    | some z => ⟨Dy.val false ⟨z, e8 eb⟩, false⟩

/-- R67, R76: `m` elements from element `e0` of a source run of `cnt`. -/
def convSrc (s : State) (c : CoreId) (f : Fmt) (a cnt e0 m : Nat) : List SrcElem :=
  match f with
  | .fp f => (vfRun s c f.bytes (vfOff a + f.bytes * e0) m).map (fun e => ⟨f.decode e.code, e.poison⟩)
  | .bs f => (List.range m).map (fun i => bsElem s c f (vfOff a) cnt (e0 + i))

/-- R70: the rounding of element `e` when the generator stood at `g` at issue. -/
def convRnd (stoch : Bool) (g e : Nat) : Rnd :=
  if stoch then .stochastic (lfsr (16 * (e + 1)) g % 65536) else .nearest

/-- R68 to R76: the elements from element `e0` of a CONVERT into a floating format, and how many overflowed. -/
def convToFp (s : State) (c : CoreId) (f : Fp) (stoch nanOvf : Bool) (g dst e0 : Nat) (es : List SrcElem) : State × Nat :=
  let out : List (OutElem × Bool) := (es.zipIdx).map (fun e =>
    if e.1.poison then ({ code := f.nan, poison := true }, false)
    else
      let r := convFp f (convRnd stoch g (e0 + e.2)) nanOvf e.1.v
      ({ code := r.pieces.headD 0 }, r.ovf))
  let v := out.foldr (fun e acc => acc * 256 ^ f.bytes + e.1.code) 0
  let pm := (out.zipIdx).foldl (fun acc e => if e.1.1.poison then acc ||| 2 ^ (f.bytes * e.2 / 8) else acc) 0
  (vfWrite s c (vfOff dst + f.bytes * e0) (f.bytes * es.length) v pm, (out.filter (fun e => e.2)).length)

/-- R72, R73, R76: one block of a CONVERT into a block-scaled format: its elements from element `e0`. -/
def convBlock (s : State) (c : CoreId) (f : Bs) (stoch nanOvf xauto : Bool) (g exp dst cnt b : Nat)
    (es : List SrcElem) : State × Nat :=
  let blocks := cdiv cnt 128
  let o := vfOff dst
  let pois := es.any (fun e => e.poison)
  let big := es.foldl (fun (m : Val) e => if e.poison || e.v = .nan then m else m.max e.v.abs) (.zero false)
  let eb : Nat := if pois then 0x80 else if xauto then unsgn 8 (chooseExp f stoch big) else exp
  let rs := (es.zipIdx).map (fun e =>
    if eb = 0x80 then ({ pieces := List.replicate f.pieces 0 } : ConvRes)
    else convBs f (convRnd stoch g (128 * b + e.2)) nanOvf (e8 eb) e.1.v)
  let s := (List.range f.pieces).foldl (fun s p =>
    vfWrite s c (o + 128 * (p * blocks + b)) es.length
      (rs.foldr (fun r acc => acc * 256 + r.pieces.getD p 0) 0) 0) s
  let a := vfBase c.site c.n + o + 128 * (f.pieces * blocks) + b
  ({ s with mem := memTail s.mem a 1 eb }, (rs.filter (fun r => r.ovf)).length)

/-- R77: the running maximum takes the magnitudes of a list. -/
def rmaxTake (cur : Nat) (es : List SrcElem) : Nat :=
  es.foldl (fun m e => if e.poison || e.v = .nan then m else Nat.max m (rmaxCode e.v)) cur

/-- What a CONVERT has fixed at issue: its destination format, modes, generator and operands. -/
structure Conv where
  dst_ : Fmt
  stoch : Bool
  nanOvf : Bool
  xauto : Bool
  g : Nat
  imm : Nat
  cnt : Nat
  dst : Nat
  deriving DecidableEq, Repr

/-- R68 to R79: the elements `es` from element `e0` are converted, written and counted. -/
def convBeat (s : State) (c : CoreId) (q : Conv) (e0 : Nat) (es : List SrcElem) : State :=
  let p := coreP c
  let live := es.filter (fun e => !e.poison)
  let r : State × Nat := match q.dst_ with
    | .fp f => convToFp s c f q.stoch q.nanOvf q.g q.dst e0 es
    | .bs f => (List.range (cdiv es.length 128)).foldl (fun (acc : State × Nat) b =>
        let x := convBlock acc.1 c f q.stoch q.nanOvf q.xauto q.g (q.imm % 256) q.dst q.cnt (e0 / 128 + b) ((es.drop (128 * b)).take 128)
        (x.1, acc.2 + x.2)) (s, 0)
  let s := r.1
  let s := if r.2 = 0 then s else
    (s.setBit p (if q.nanOvf then Reg.Co.NAN_OVF else Reg.Co.SAT)).bump p Reg.Co.CONV_SAT_CNT r.2
  let npois := es.length - live.length
  let s := if npois = 0 then s else (s.setBit p Reg.Co.POISON_IN).bump p Reg.Co.CONV_POISON_CNT npois
  let s := if live.any (fun e => e.v = .nan) then s.setBit p Reg.Co.NAN_IN else s
  let s := if live.any (fun e => e.v = .inf true || e.v = .inf false) then s.setBit p Reg.Co.INF_IN else s
  match q.dst_ with
  | .fp _ => s
  | .bs _ => s.wr p (Reg.Co.RMAX (bits q.imm 8 3)) (rmaxTake (s.rd p (Reg.Co.RMAX (bits q.imm 8 3))) es)

/-- CONVERT (R68 to R78, R90, R93): values, counts, running maximum and generator. `mode` is CMODE: RND, OVF, XAUTO. -/
def vxConvert (s : State) (c : CoreId) (src dst_ : Fmt) (cnt dst srca imm mode : Nat) : State :=
  let p := coreP c
  let s := noteVf s c (vfOff srca) (fmtExtent src cnt)
  let g := s.rd p Reg.Co.RNG_STATE
  let q : Conv := ⟨dst_, bits mode 0 1 = 1, bits mode 1 1 = 1, bits mode 2 1 = 1, g, imm, cnt, dst⟩
  let s := beats (cdiv cnt 256) (if q.xauto then 9 else 7) (fun s k => convSrc s c src srca cnt (256 * k) (beatLen 256 cnt k))
    (fun s k es => convBeat s c q (256 * k) es) s
  if q.stoch then s.wr p Reg.Co.RNG_STATE (lfsr (16 * cnt) g) else s

/-! ### Seed, status and moves -/

/-- VSEED (R70, R91). -/
def vxSeed (s : State) (c : CoreId) (imm : Nat) : State := s.wr (coreP c) Reg.Co.RNG_STATE (if imm = 0 then 1 else imm)

/-- R91: byte address that a status operation's DST names, in the scratchpad or in the vector file. -/
def statusAddr (c : CoreId) (dst : Nat) : Nat :=
  if dst < 0xC000 then coreBase c.site c.n + 8 * dst else vfBase c.site c.n + vfOff dst

/-- R91: a status write of `n` bytes at DST; a part of a word keeps the rest of the word and its mark. -/
def statusPut (s : State) (c : CoreId) (dst n v : Nat) : State :=
  let a := statusAddr c dst
  if n % 8 = 0 then { s with mem := memWrite s.mem a (n / 8) v 0 } else { s with mem := memTail s.mem a n v }

/-- VRMAXRD (R91). -/
def vxRmaxRd (s : State) (c : CoreId) (k dst : Nat) : State := statusPut s c dst 4 (s.rd (coreP c) (Reg.Co.RMAX k))

/-- VRMAXRR (R91): read, then reset to +0. -/
def vxRmaxRr (s : State) (c : CoreId) (k dst : Nat) : State := (vxRmaxRd s c k dst).wr (coreP c) (Reg.Co.RMAX k) 0

/-- CONV_ERR as a word (R79). -/
def convErr (s : State) (c : CoreId) : Nat :=
  let p := coreP c
  s.rd p Reg.Co.SAT + 2 * s.rd p Reg.Co.NAN_OVF + 4 * s.rd p Reg.Co.INF_IN + 8 * s.rd p Reg.Co.NAN_IN +
    16 * s.rd p Reg.Co.POISON_IN

/-- VCSTAT (R91): CONV_ERR, CONV_SAT_CNT, CONV_POISON_CNT and RNG_STATE. -/
def vxCstat (s : State) (c : CoreId) (dst : Nat) : State :=
  let p := coreP c
  statusPut s c dst 16 (convErr s c + s.rd p Reg.Co.CONV_SAT_CNT * 2 ^ 32 + s.rd p Reg.Co.CONV_POISON_CNT * 2 ^ 64 +
    s.rd p Reg.Co.RNG_STATE * 2 ^ 96)

/-- R92: bank and line of stream line `i` from scratchpad operand address `a`. -/
def moveBank (a i : Nat) : Nat × Nat :=
  let b0 := 8 * a / 0x4000
  let l0 := 8 * a % 0x4000 / 128
  (4 * (b0 / 4) + (b0 + i) % 4, l0 + (b0 % 4 + i) / 4)

/-- R92, R98: one line of a VLOAD. -/
def vxLoadLine (s : State) (c : CoreId) (dst srca i : Nat) : State :=
  let bl := moveBank srca i
  let l := s.spLine c bl.1 bl.2
  (s.noteSp c bl.1 bl.2 0 16).put (vfBase c.site c.n + vfOff dst + 128 * i) 16 l

/-- R92, R98: one line of a VSTORE. -/
def vxStoreLine (s : State) (c : CoreId) (dst srca i : Nat) : State :=
  let bl := moveBank dst i
  let s := noteVf s c (vfOff srca + 128 * i) 128
  s.put (spAddr c.site c.n bl.1 bl.2) 16 (s.take (vfBase c.site c.n + vfOff srca + 128 * i) 16)

end Sys2Proof.Machine
end

