-- ==== Sys2Proof/Machine/Operands.lean ====
section
/-! DEFINITION. The operand forms of the MX and VX slots: the checks of decode (R46 to R51, R54, R81 to R85, R90 to
R92, R95, R97), the bank accesses of an operation, and its last effect (R52, R53, R93, R94, R125). -/

namespace Sys2Proof.Machine

/-! ### The MX slot -/

/-- R30: latency of quad `q`. -/
def quadLat (q : Nat) : Nat := if q < 3 then 3 else 5

/-- R53: mode of the buffer that an MXMUL meets. -/
def bufMode (s : State) (c : CoreId) (x : Nat) : Nat :=
  if x = 0 then s.rd (coreP c) Reg.Co.BUF_A_MODE else s.rd (coreP c) Reg.Co.BUF_B_MODE

/-- R52, R53: the accesses of an MX operation issued at `t`. -/
def mxAcc (s : State) (c : CoreId) (mx t : Nat) : List Access :=
  let acc := fun (cyc b : Nat) => ({ cyc := cyc, port := 32 * c.n + b, own := c.n, unit := 0, slot := 1, img := mx } : Access)
  match bits mx 0 8 with
  | 1 =>
    let dq := bits mx 12 3
    let sq := bits mx 22 3
    (List.range 128).map (fun i => acc (t + 1 + i) (4 * dq + i % 4)) ++
      (List.range (sideLines (bits mx 9 3) (bits mx 32 1))).map (fun k => acc (t + 1 + k) (4 * sq + k % 4))
  | 2 => [acc (t + 1) (bits mx 9 5)]
  | 3 =>
    let aq := bits mx 11 3
    let m := bits mx 21 7 + 1
    let mode := bufMode s c (bits mx 8 1)
    if mode = 0 then
      (List.range m).map (fun j => acc (t + 1 + j) (4 * aq + j % 4)) ++
        (List.range m).map (fun j => acc (t + 1 + j) (4 * aq + (j + 2) % 4))
    else if isPair mode then (List.range (cdiv m 2)).map (fun j => acc (t + 1 + 2 * j) (4 * aq + 2 * (j % 2)))
    else (List.range m).map (fun j => acc (t + 1 + j) (4 * aq + j % 4))
  | 4 =>
    let dq := bits mx 24 3
    (List.range ((bits mx 17 7 + 1) * (if bits mx 8 1 = 0 then 16 else 8))).map (fun i => acc (t + 2 + i) (4 * dq + i % 4))
  | _ => []

/-- R52, R53: the last effect of an MX operation issued at `t`. -/
def mxLast (mx t : Nat) : Nat :=
  match bits mx 0 8 with
  | 1 => t + 128 + quadLat (bits mx 12 3)
  | 2 => t + 1 + bankLat (bits mx 9 5)
  | 3 => t + quadLat (bits mx 11 3) + bits mx 21 7 + 1 + 10
  | 4 => t + 1 + (bits mx 17 7 + 1) * (if bits mx 8 1 = 0 then 16 else 8)
  | _ => t

/-- R54: whether the array's units refuse the operation at `t`. -/
def mxBusy (s : State) (c : CoreId) (mx t : Nat) : Bool :=
  let k := s.core c
  let x := bits mx 8 1
  match bits mx 0 8 with
  | 1 =>
    let rows := if x = 0 then k.rowsA else k.rowsB
    decide (t < k.ldEnd) || decide (t + 1 + quadLat (bits mx 12 3) < rows)
  | 3 =>
    let e0 := t + 1 + quadLat (bits mx 11 3)
    let ready := if x = 0 then k.useA else k.useB
    let gap := if k.mulClass = modeClass (bufMode s c x) then 0 else 2
    decide (e0 < ready) || (decide (k.mulEnd ≠ 0) && decide (e0 < k.mulEnd + gap))
  | 4 => decide (t < k.drEnd)
  | _ => false

/-- R51: the checks of the MX slot at `t` against the site's accepted accesses. -/
def mxBad (s : State) (c : CoreId) (mx t : Nat) : List Bad :=
  let op := bits mx 0 8
  let x := bits mx 8 1
  let own := (s.site c.site).acc.filter (fun a => a.own = c.n && a.unit = 0 && a.port / 32 = c.n && a.port < 256)
  let bank := bankBad 1 (mxAcc s c mx t) own
  let occ := if mxBusy s c mx t then [({ cls := 7, slot := 1 } : Bad)] else []
  let slack := slackBad 1 (mxLast mx t) (s.slackAt c.site) (t - (s.site c.site).base) (s.site c.site).fc
  match op with
  | 0 => rsvBad mx 1 8 88
  | 1 =>
    let mode := bits mx 9 3
    codeBad (4 < mode) 1 9 3 ++ codeBad (5 < bits mx 12 3) 1 12 3 ++ codeBad (5 < bits mx 22 3) 1 22 3 ++ rsvBad mx 1 33 63 ++
      fieldBad (128 < bits mx 15 7 + 32) 5 1 15 7 ++
      fieldBad (128 < bits mx 25 7 + cdiv (sideLines mode (bits mx 32 1)) 4) 5 1 25 7 ++
      fieldBad (bits mx 12 3 = bits mx 22 3) 7 1 22 3 ++ bank ++ occ ++ slack
  | 2 => codeBad (23 < bits mx 9 5) 1 9 5 ++ rsvBad mx 1 21 75 ++ bank ++ slack
  | 3 =>
    let m := bits mx 21 7 + 1
    let off := if bufMode s c x = 0 then 32 else 0
    codeBad (5 < bits mx 11 3) 1 11 3 ++ rsvBad mx 1 49 47 ++ fieldBad (128 < bits mx 14 7 + off + cdiv m 4) 5 1 14 7 ++
      fieldBad (128 < bits mx 28 7 + m) 5 1 28 7 ++ fieldBad (128 < bits mx 36 7 + m) 5 1 36 7 ++ bank ++ occ ++ slack
  | 4 =>
    let n := bits mx 17 7 + 1
    let ld := n * (if bits mx 8 1 = 0 then 16 else 8)
    codeBad (5 < bits mx 24 3) 1 24 3 ++ rsvBad mx 1 34 62 ++ fieldBad (128 < bits mx 10 7 + n) 5 1 17 7 ++
      fieldBad (128 < bits mx 27 7 + cdiv ld 4) 5 1 27 7 ++ bank ++ occ ++ slack
  | _ => [{ cls := 2, slot := 1, lsb := 0, width := 8 }]

/-- R43: the trap of an MXMUL's first mismatching row. -/
def checkTrap (s : State) (c : CoreId) (mx pc e0 : Nat) (chk : Option (Nat × Nat × Nat)) : State :=
  match chk with
  | none => s
  | some (i, g, sl) =>
    let d1 := e0 + i - (s.site c.site).base
    coreTrap s c { ty := 9, slot := 1, d0 := g + sl * 256, d1 := d1, img := mx, pc := pc, cyc := e0 + i + 7 } true

/-- R55: the slots of a clearing MXDRAIN issued at `t` whose clear meets an accumulate write. -/
def lostClears (k : Core) (t slot cnt per : Nat) : List Nat :=
  (List.range cnt).filterMap (fun q =>
    let at_ := t + 1 + (q + 1) * per
    if k.muls.any (fun m => m.2.1 ≤ slot + q && slot + q < m.2.1 + m.2.2 && at_ = m.1 + (slot + q - m.2.1)) then
      some (slot + q) else none)

/-- The effect of an accepted MX slot issued at `t` (R47 to R50), with the upsets of R43 and R44. -/
def mxEffect (s : State) (c : CoreId) (mx t pc : Nat) (arr : ArrayUpset) : State :=
  let x := bits mx 8 1
  match bits mx 0 8 with
  | 1 =>
    let s := mxLoad s c x (bits mx 9 3) (bits mx 12 3) (bits mx 15 7) (bits mx 22 3) (bits mx 25 7) (bits mx 32 1)
    let k := s.core c
    let ready := t + quadLat (bits mx 12 3) + 129
    s.setCore c (if x = 0 then { k with ldEnd := t + 128, useA := ready } else { k with ldEnd := t + 128, useB := ready })
  | 2 => mxExp s c x (bits mx 9 5) (bits mx 14 7)
  | 3 =>
    let m := bits mx 21 7 + 1
    let e0 := t + 1 + quadLat (bits mx 11 3)
    let r := mxMul s c x (bits mx 9 1) (bits mx 10 1) (bits mx 11 3) (bits mx 14 7) m (bits mx 28 7) (bits mx 35 1)
      (bits mx 36 7) (sgn 6 (bits mx 43 6)) arr e0
    let k := r.st.core c
    let k := { k with mulEnd := e0 + m, mulClass := modeClass (bufMode s c x), rows := k.rows + m,
                      muls := (e0 + 10, bits mx 28 7, m) :: k.muls.take 3 }
    let s := r.st.setCore c (if x = 0 then { k with rowsA := e0 + m } else { k with rowsB := e0 + m })
    checkTrap s c mx pc e0 r.check
  | 4 =>
    let n := bits mx 17 7 + 1
    let per := if bits mx 8 1 = 0 then 16 else 8
    let k := s.core c
    let keep := if bits mx 9 1 = 0 then [] else lostClears k t (bits mx 10 7) n per
    let s := mxDrain s c (bits mx 8 1) (bits mx 9 1) (bits mx 10 7) n (bits mx 24 3) (bits mx 27 7) keep
    let k := s.core c
    s.setCore c { k with drEnd := t + n * per }
  | _ => s

/-! ### The VX slot -/

/-- R83: opcodes that exist. -/
def vxKnown (op : Nat) : Bool :=
  op ≤ 0x0A || (0x10 ≤ op && op ≤ 0x13) || (0x20 ≤ op && op ≤ 0x27) || (0x30 ≤ op && op ≤ 0x34) || op = 0x40 || op = 0x41

/-- R83: element-wise opcodes with a B operand. -/
def vxHasB (op : Nat) : Bool := 2 ≤ op && op ≤ 7

/-- R83: opcodes whose TYPE[3:0] is used. -/
def vxTyped (op : Nat) : Bool := op ≠ 0 && (op ≤ 0x13 || (0x20 ≤ op && op ≤ 0x27) || op = 0x30)

/-- R85, R97 step 2: reserved fields and codes of the VX slot. -/
def vxRsv (vx : Nat) : List Bad :=
  let op := bits vx 0 8
  let sb := bits vx 8 1
  let ty := bits vx 110 4
  let sd := bits vx 114 4
  let isEw := 1 ≤ op && op ≤ 0x0A
  let usesA := isEw || (0x10 ≤ op && op ≤ 0x13) || (0x20 ≤ op && op ≤ 0x27) || op = 0x30 || op = 0x40 || op = 0x41
  let usesD := usesA || op = 0x32 || op = 0x33 || op = 0x34
  (if vxHasB op then [] else rsvBad vx 2 8 1) ++
    (if op = 0x30 then [] else rsvBad vx 2 9 3) ++ rsvBad vx 2 12 4 ++
    (if usesD then [] else rsvBad vx 2 30 16) ++ (if usesA then [] else rsvBad vx 2 46 16) ++
    (if vxHasB op && sb = 0 then [] else rsvBad vx 2 62 16) ++
    (if op = 0x0A then rsvBad vx 2 86 24
     else if 0x10 ≤ op && op ≤ 0x13 then rsvBad vx 2 92 18
     else if op = 0x30 then
       (if 5 ≤ sd && sd ≤ 7 then (if bits vx 11 1 = 1 then rsvBad vx 2 78 8 else []) else rsvBad vx 2 78 11) ++
         (if 5 ≤ sd && sd ≤ 7 then rsvBad vx 2 89 21 else rsvBad vx 2 89 21)
     else if op = 0x31 then []
     else if op = 0x32 || op = 0x33 then rsvBad vx 2 81 29
     else if vxHasB op && sb = 1 then (if ty = 0 then [] else rsvBad vx 2 94 16)
     else rsvBad vx 2 78 32) ++
    (if op = 0x30 then
       codeBad (7 < ty) 2 110 4 ++ codeBad (7 < sd) 2 114 4 ++ codeBad (bits vx 11 1 = 1 && !(5 ≤ sd && sd ≤ 7)) 2 9 3
     else if vxTyped op then codeBad (2 < ty) 2 110 4 ++ rsvBad vx 2 114 4
     else rsvBad vx 2 110 8) ++ rsvBad vx 2 118 10

/-- R84, R85: count rules. -/
def vxCount (vx : Nat) : List Bad :=
  let op := bits vx 0 8
  let cnt := bits vx 16 14
  fieldBad (cnt = 0 || 8192 < cnt || (0x31 ≤ op && op ≤ 0x34 && cnt ≠ 1)) 4 2 16 14 ++
    (if 0x10 ≤ op && op ≤ 0x13 then fieldBad (bits vx 78 14 = 0 || 8192 < bits vx 78 14) 4 2 78 14 else [])

/-- R59: source and destination formats of a CONVERT. -/
def cvFmt (code : Nat) : Fmt := (Fmt.ofCode code).getD (.fp .fp32)

/-- R81, R84: whether an operand of `ext` bytes at address `a` lies wholly in the vector file. -/
def vfFits (a ext : Nat) : Bool := 0xC000 ≤ a && a < 0xE000 && 8 * (a - 0xC000) + ext ≤ 65536

/-- R92: whether a stream of `n` lines from scratchpad address `a` stays in its quad. -/
def moveFits (a n : Nat) : Bool :=
  a < 0xC000 && (moveBank a (n - 1)).2 < 128

/-- R81, R84, R90 to R92: address and alignment rules. -/
def vxAddr (vx : Nat) : List Bad :=
  let op := bits vx 0 8
  let cnt := bits vx 16 14
  let dst := bits vx 30 16
  let a := bits vx 46 16
  let b := bits vx 62 16
  let sz := (vxType (bits vx 110 4)).bytes
  if op = 0x40 then
    fieldBad (!(vfFits dst (128 * cnt)) || dst % 16 ≠ 0) 5 2 30 16 ++ fieldBad (!(moveFits a cnt) || a % 16 ≠ 0) 5 2 46 16
  else if op = 0x41 then
    fieldBad (!(moveFits dst cnt) || dst % 16 ≠ 0) 5 2 30 16 ++ fieldBad (!(vfFits a (128 * cnt)) || a % 16 ≠ 0) 5 2 46 16
  else if op = 0x30 then
    let one := fun (fm : Fmt) (ad lsb : Nat) =>
      fieldBad (!(vfFits ad (fmtExtent fm cnt)) || (match fm with
        | .bs _ => decide (ad % 16 ≠ 0)
        | .fp _ => false)) 5 2 lsb 16
    one (cvFmt (bits vx 114 4)) dst 30 ++ one (cvFmt (bits vx 110 4)) a 46
  else if op = 0x31 then []
  else if op = 0x34 then
    fieldBad (!(dst < 0xC000 || vfFits dst 16) || dst % 2 ≠ 0) 5 2 30 16
  else if op = 0x32 || op = 0x33 then fieldBad (!(dst < 0xC000 || vfFits dst 4)) 5 2 30 16
  else if 0x10 ≤ op && op ≤ 0x13 then
    fieldBad (!(vfFits dst (4 * bits vx 78 14))) 5 2 30 16 ++ fieldBad (!(vfFits a (sz * cnt))) 5 2 46 16
  else
    fieldBad (!(vfFits dst (sz * cnt))) 5 2 30 16 ++ fieldBad (!(vfFits a (sz * cnt))) 5 2 46 16 ++
      (if vxHasB op && bits vx 8 1 = 0 then fieldBad (!(vfFits b (sz * cnt))) 5 2 62 16 else [])

/-- R92, R95: scratchpad accesses of a VX operation issued at `t`. -/
def vxAcc (c : CoreId) (vx t : Nat) : List Access :=
  let op := bits vx 0 8
  let cnt := bits vx 16 14
  let dst := bits vx 30 16
  let a := bits vx 46 16
  let acc := fun (cyc b l u : Nat) => ({ cyc := cyc, port := 32 * c.n + b, own := c.n, unit := u, line := l, slot := 2, img := vx } : Access)
  if op = 0x40 then (List.range cnt).map (fun i => acc (t + 1 + i) (moveBank a i).1 (moveBank a i).2 2)
  else if op = 0x41 then (List.range cnt).map (fun i => acc (t + 2 + i) (moveBank dst i).1 (moveBank dst i).2 2)
  else if 0x32 ≤ op && op ≤ 0x34 && dst < 0xC000 then [acc (t + 2) (8 * dst / 0x4000) (8 * dst % 0x4000 / 128) 3]
  else []

/-- The accesses with what a discarded one leaves (R105). -/
def vxUndo (s : State) (c : CoreId) (vx : Nat) (as : List Access) : List Access :=
  let op := bits vx 0 8
  as.zipIdx.map (fun p =>
    if op = 0x40 then withUndo s (vfBase c.site c.n + vfOff (bits vx 30 16) + 128 * p.2) 16 p.1
    else if op = 0x41 then withUndo s (spAddr c.site c.n (p.1.port % 32) p.1.line) 16 p.1
    else withUndo s (statusAddr c (bits vx 30 16) / 8 * 8) (if op = 0x34 then 2 else 1) p.1)

/-- R93: elements per beat. -/
def vxPerBeat (op ty : Nat) : Nat :=
  if op ≤ 0x0A then (if ty = 0 then 256 else 512) else if 0x20 ≤ op && op ≤ 0x27 then 64 else 256

/-- R93: beats of a compute-class operation. -/
def vxBeats (vx : Nat) : Nat :=
  let op := bits vx 0 8
  if 0x31 ≤ op then 1 else cdiv (bits vx 16 14) (vxPerBeat op (bits vx 110 4))

/-- R93: first and last vector-file write cycle of a compute-class operation, if it writes there. -/
def vxWrites (vx t : Nat) : Option (Nat × Nat) :=
  let op := bits vx 0 8
  let k := vxBeats vx
  if op = 0x31 then none
  else if 0x32 ≤ op && op ≤ 0x34 then (if bits vx 30 16 < 0xC000 then none else some (t + 2, t + 2))
  else if 0x10 ≤ op && op ≤ 0x13 then some (t + k + 12, t + k + 12 + (cdiv (bits vx 78 14) 256 - 1))
  else
    let d := if op = 5 then 6 else if op ≤ 0x0A then 5 else if op = 0x30 then (if bits vx 11 1 = 1 then 9 else 7) else 15
    some (t + d, t + d + (k - 1))

/-- R93, R94: the last effect of a VX operation issued at `t`. -/
def vxLast (vx t : Nat) : Nat :=
  let op := bits vx 0 8
  let cnt := bits vx 16 14
  if op = 0 then t
  else if op = 0x40 then t + 1 + bankLat (moveBank (bits vx 46 16) 0).1 + (cnt - 1)
  else if op = 0x41 then t + 2 + (cnt - 1)
  else if op = 0x31 then t + 1
  else match vxWrites vx t with
    | some w => w.2
    | none => t + 2

/-- R95: whether the engine's units refuse the operation at `t`. -/
def vxBusy (s : State) (c : CoreId) (vx t : Nat) : Bool :=
  let k := s.core c
  let op := bits vx 0 8
  if op = 0 then false
  else if op = 0x40 || op = 0x41 then decide (t < k.ch0) && decide (t < k.ch1)
  else decide (t < k.vxEnd) || (match vxWrites vx t with
    | some w => k.vxWr.any (fun o => o.1 ≤ w.2 && w.1 ≤ o.2)
    | none => false)

/-- R97: the checks of the VX slot at `t`; `mx` gives the accesses of the bundle's own MX slot (R156). -/
def vxBad (s : State) (c : CoreId) (vx t : Nat) (mx : List Access) : List Bad :=
  let op := bits vx 0 8
  if vx = 0 then []
  else if !(vxKnown op) then [{ cls := 2, slot := 2, lsb := 0, width := 8 }]
  else if op = 0 then rsvBad vx 2 8 120
  else
    let cb := vxCount vx
    let ab := if cb = [] then vxAddr vx else []
    let as := if cb = [] && ab = [] then vxAcc c vx t else []
    let old := mx ++ (s.site c.site).acc.filter (fun a =>
      a.own = c.n && a.port / 32 = c.n && a.port < 256 && (a.unit = 2 || a.unit = 3 || (a.unit = 0 && (op = 0x40 || op = 0x41))))
    vxRsv vx ++ cb ++ ab ++ bankBad 2 as old ++ (if vxBusy s c vx t then [({ cls := 7, slot := 2 } : Bad)] else []) ++
      (if cb = [] && ab = [] then slackBad 2 (vxLast vx t) (s.slackAt c.site) (t - (s.site c.site).base) (s.site c.site).fc else [])

/-- R83: what an accepted VX operation does to data and registers. -/
def vxData (s : State) (c : CoreId) (vx : Nat) : State :=
  let cnt := bits vx 16 14
  let dst := bits vx 30 16
  let a := bits vx 46 16
  let b := bits vx 62 16
  let imm := bits vx 78 32
  let ty := bits vx 110 4
  let sb := bits vx 8 1 = 1
  match bits vx 0 8 with
  | 0x01 => vxEw s c .mov ty cnt dst a b imm sb
  | 0x02 => vxEw s c .add ty cnt dst a b imm sb
  | 0x03 => vxEw s c .sub ty cnt dst a b imm sb
  | 0x04 => vxEw s c .mul ty cnt dst a b imm sb
  | 0x05 => vxEw s c .fma ty cnt dst a b imm sb
  | 0x06 => vxEw s c .max ty cnt dst a b imm sb
  | 0x07 => vxEw s c .min ty cnt dst a b imm sb
  | 0x08 => vxEw s c .abs ty cnt dst a b imm sb
  | 0x09 => vxEw s c .neg ty cnt dst a b imm sb
  | 0x0A => vxEw s c .scale ty cnt dst a b imm sb
  | 0x10 => vxRd s c .sum ty cnt dst a (bits imm 0 14)
  | 0x11 => vxRd s c .sumsq ty cnt dst a (bits imm 0 14)
  | 0x12 => vxRd s c .max ty cnt dst a (bits imm 0 14)
  | 0x13 => vxRd s c .maxabs ty cnt dst a (bits imm 0 14)
  | 0x20 => vxFn s c .exp2 ty cnt dst a
  | 0x21 => vxFn s c .exp ty cnt dst a
  | 0x22 => vxFn s c .log2 ty cnt dst a
  | 0x23 => vxFn s c .rcp ty cnt dst a
  | 0x24 => vxFn s c .rsqrt ty cnt dst a
  | 0x25 => vxFn s c .sqrt ty cnt dst a
  | 0x26 => vxFn s c .tanh ty cnt dst a
  | 0x27 => vxFn s c .sigmoid ty cnt dst a
  | 0x30 => vxConvert s c (cvFmt ty) (cvFmt (bits vx 114 4)) cnt dst a imm (bits vx 9 3)
  | 0x31 => vxSeed s c imm
  | 0x32 => vxRmaxRd s c (bits imm 0 3) dst
  | 0x33 => vxRmaxRr s c (bits imm 0 3) dst
  | 0x34 => vxCstat s c dst
  | 0x40 => upTo cnt (fun s i => vxLoadLine s c dst a i) s
  | 0x41 => upTo cnt (fun s i => vxStoreLine s c dst a i) s
  | _ => s

/-- R93 to R95: the occupancy that an accepted VX operation leaves. -/
def vxOccupy (s : State) (c : CoreId) (vx t : Nat) : State :=
  let k := s.core c
  let op := bits vx 0 8
  if op = 0 then s
  else if op = 0x40 || op = 0x41 then
    let e := vxLast vx t + 1
    s.setCore c (if k.ch0 ≤ t then { k with ch0 := e } else { k with ch1 := e })
  else
    s.setCore c { k with
      vxEnd := t + vxBeats vx, beats := k.beats + vxBeats vx
      vxWr := (match vxWrites vx t with
        | some w => [w]
        | none => []) ++ k.vxWr.filter (fun w => decide (t ≤ w.2)) }

end Sys2Proof.Machine
end

