-- ==== Sys2Proof/Machine/Mover.lean ====
section
/-! DEFINITION. The MV slot (R157 to R161, R207, R208) and the LK slot (R162 to R164): checks, accesses, effects. -/

namespace Sys2Proof.Machine

/-! ### Cistern and well lines -/

/-- R110: cistern latency of core `n` to slice `sl`. -/
def cisLat (n sl : Nat) : Nat :=
  let p := n % 4
  let h := n / 4
  let q := sl % 8 / 2
  let k := sl / 8
  14 + 2 * ((max p q - min p q) + (max h k - min h k))

/-- R110: crossbar transit each way. -/
def cisT (n sl : Nat) : Nat := (cisLat n sl - 4) / 2

/-- R159: spacing of line `i`. -/
def spacing (i : Nat) : Nat := 4 * (i / 3) + i % 3

/-- R109, R119: notes latent errors of a cistern line that is read. -/
def noteCis (s : State) (i sl l : Nat) : State :=
  let a := cisAddr i sl l
  let ce := marksGet s.mem.ce (a / 8) 16
  let ue := marksGet s.mem.ue (a / 8) 16
  let p := cisP i
  let s := if ce = 0 then s else (s.setBit p Reg.Ci.CE).bump p Reg.Ci.CIS_CE_CNT (popc 16 ce)
  if ue = 0 then s
  else ((((s.setBit p Reg.Ci.UE).bump p Reg.Ci.CIS_UE_CNT (popc 16 ue)).wr p Reg.Ci.UE_SLICE sl).wr p Reg.Ci.UE_LINE l).wr p
    Reg.Ci.UE_WORD (Nat.log2 ue)

/-- R202: poison of a well line at half-line granularity. -/
def halfPoison (m : Nat) : Nat := (if m % 256 = 0 then 0 else 0xFF) + (if m / 256 % 256 = 0 then 0 else 0xFF00)

/-- R202, R222: notes latent errors of a well line, one per half-line. -/
def noteWell (s : State) (i w : Nat) : State :=
  let a := wellAddr i w
  let ce := marksGet s.mem.ce (a / 8) 16
  let ue := marksGet s.mem.ue (a / 8) 16
  let halves := fun m : Nat => (if m % 256 = 0 then 0 else 1) + (if m / 256 = 0 then 0 else 1)
  let p := wellP i
  let s := if ce = 0 then s else (s.setBit p Reg.We.CE).bump p Reg.We.WELL_CE_CNT (halves ce)
  if ue = 0 then s
  else (((s.setBit p Reg.We.UE).bump p Reg.We.WELL_UE_CNT (halves ue)).wr p Reg.We.UE_LINE w).wr p Reg.We.UE_HALF
    (if ue / 256 = 0 then 0 else 1)

/-- R202: a well line as it is delivered. -/
def wellLine (s : State) (i w : Nat) : Line :=
  ⟨memRead s.mem (wellAddr i w) 128, halfPoison (memPoison s.mem (wellAddr i w) 16)⟩

/-- R204: owner code of slot `k` of window `w`. -/
def wellOwner (s : State) (i w k : Nat) : Nat :=
  let x := w % 2 ^ s.rd (wellP i) Reg.We.ACT_PW * 6 + k
  let word := if x / 8 = 0 then s.rd (wellP i) Reg.We.WST_ACT0 else s.rd (wellP i) (Reg.We.WST_ACT (x / 8 - 1))
  bits word (4 * (x % 8)) 4

/-- R203: the slot of a window that starts at cycle `r` of it. -/
def slotStart (r : Nat) : Option Nat :=
  match r with
  | 0 => some 0 | 3 => some 1 | 6 => some 2 | 9 => some 3 | 12 => some 4 | 14 => some 5 | _ => none

/-- R207: whether a slot of core `n` starts at frame cycle `fcyc`. -/
def wellSlotOf (s : State) (i n fcyc : Nat) : Bool :=
  match slotStart (fcyc % 16) with
  | some k => wellOwner s i (fcyc / 16) k = n + 1
  | none => false

/-- R215: whether well line `w` lies in a PENDING or FAILED landing entry. -/
def inLanding (s : State) (i w : Nat) : Bool :=
  (List.range 32).any (fun z =>
    s.rd (wellP i) (Reg.We.LAND_STATE z) ≠ 0 && s.rd (wellP i) (Reg.We.LAND_START z) ≤ w && w ≤ s.rd (wellP i) (Reg.We.LAND_END z))

/-! ### MV fields -/

def mvBank (mv : Nat) : Nat := bits mv 8 5
def mvLine (mv : Nat) : Nat := bits mv 13 7

/-- R158: line count of an MV operation. -/
def mvC (mv : Nat) : Nat :=
  match bits mv 0 8 with
  | 1 => bits mv 32 6 + 1
  | 2 | 3 => bits mv 39 6 + 1
  | 4 | 5 => bits mv 35 6 + 1
  | 6 | 7 => bits mv 49 4 + 1
  | _ => 1

/-- R159, R207: the accesses of an MV operation issued at `t`, each with what a discarded one leaves. -/
def mvAcc (s : State) (c : CoreId) (mv t pc : Nat) : List Access :=
  let n := c.n
  let b := mvBank mv
  let l := mvLine mv
  let lat := bankLat b
  let acc := fun (cyc port line : Nat) => ({ cyc := cyc, port := port, own := n, unit := 1, line := line, slot := 3, img := mv, pc := pc } : Access)
  let lines := List.range (mvC mv)
  match bits mv 0 8 with
  | 1 =>
    let db := bits mv 20 5
    let dl := bits mv 25 7
    lines.flatMap (fun i =>
      let d := spAddr c.site n db (dl + i)
      [withUndo s d 16 (acc (t + 1 + spacing i) (32 * n + b) (l + i)),
        withUndo s d 16 (acc (t + 2 + lat + spacing i) (32 * n + db) (dl + i))])
  | 2 =>
    let sl := bits mv 20 4
    lines.flatMap (fun i =>
      let r := t + 1 + spacing i
      let d := spAddr c.site n b (l + i)
      [acc r (512 + 2 * n) 0, withUndo s d 16 (acc (r + cisT n sl) (256 + sl) (bits mv 24 15 + i)),
        acc (r + cisLat n sl) (513 + 2 * n) 0, withUndo s d 16 (acc (r + cisLat n sl) (32 * n + b) (l + i))])
  | 3 =>
    let sl := bits mv 20 4
    lines.flatMap (fun i =>
      let r := t + 1 + spacing i + lat
      let d := cisAddr c.site sl (bits mv 24 15 + i)
      [withUndo s d 16 (acc (t + 1 + spacing i) (32 * n + b) (l + i)), acc r (512 + 2 * n) 0,
        withUndo s d 16 (acc (r + cisT n sl) (256 + sl) (bits mv 24 15 + i))])
  | 4 =>
    let x := bits mv 20 3
    let xb := bits mv 23 5
    lines.flatMap (fun i =>
      let r := t + 1 + spacing i
      let d := spAddr c.site n b (l + i)
      [acc r (512 + 2 * n) 0, withUndo s d 16 (acc (r + 4) (32 * x + xb) (bits mv 28 7 + i)),
        acc (r + 8 + bankLat xb) (513 + 2 * n) 0, withUndo s d 16 (acc (r + 8 + bankLat xb) (32 * n + b) (l + i))])
  | 5 =>
    let x := bits mv 20 3
    let xb := bits mv 23 5
    lines.flatMap (fun i =>
      let r := t + 1 + spacing i + lat
      let d := spAddr c.site x xb (bits mv 28 7 + i)
      [withUndo s d 16 (acc (t + 1 + spacing i) (32 * n + b) (l + i)), acc r (512 + 2 * n) 0,
        withUndo s d 16 (acc (r + 4) (32 * x + xb) (bits mv 28 7 + i))])
  | 6 => lines.flatMap (fun i =>
      let r := t + 900 + spacing i
      [acc r (513 + 2 * n) 0, withUndo s (spAddr c.site n b (l + i)) 16 (acc r (32 * n + b) (l + i))])
  | 7 => lines.flatMap (fun i =>
      [withUndo s (wellAddr c.site (bits mv 20 29 + i)) 16 (acc (t + 1 + spacing i) (32 * n + b) (l + i)),
        acc (t + 1 + lat + spacing i) (512 + 2 * n) 0])
  | 8 => [{ acc (t + 1) (32 * n + b) l with halves := bits mv 20 1 + 1 }]
  | _ => []

/-- R159, R207: the last effect of an MV operation issued at `t`. -/
def mvLast (mv t : Nat) (as : List Access) : Nat :=
  let m := as.foldl (fun m a => max m a.cyc) t
  match bits mv 0 8 with
  | 7 => max m (t + 64)
  | 8 => t + 2 + bankLat (mvBank mv)
  | _ => m

/-- R158, R160, R161, R207: the checks of the MV slot at `t`. -/
def mvBad (s : State) (c : CoreId) (mv t : Nat) : List Bad :=
  let op := bits mv 0 8
  let cnt := mvC mv
  let st := s.site c.site
  if mv = 0 then []
  else if op = 0 then rsvBad mv 3 8 56
  else if 8 < op then [{ cls := 2, slot := 3, lsb := 0, width := 8 }]
  else
    let rsv := codeBad (23 < mvBank mv) 3 8 5 ++ (match op with
      | 1 => codeBad (23 < bits mv 20 5) 3 20 5 ++ rsvBad mv 3 38 26
      | 2 | 3 => rsvBad mv 3 45 19
      | 4 | 5 => codeBad (bits mv 20 3 = c.n) 3 20 3 ++ codeBad (23 < bits mv 23 5) 3 23 5 ++ rsvBad mv 3 41 23
      | 6 | 7 => rsvBad mv 3 53 11
      | _ => rsvBad mv 3 23 41)
    let addr := fieldBad (128 < mvLine mv + cnt) 5 3 13 7 ++ (match op with
      | 1 => fieldBad (128 < bits mv 25 7 + cnt) 5 3 25 7
      | 2 | 3 => fieldBad (24576 < bits mv 24 15 + cnt) 5 3 20 19
      | 4 | 5 => fieldBad (128 < bits mv 28 7 + cnt) 5 3 28 7
      | 6 | 7 => fieldBad (335544320 < bits mv 20 29 + cnt) 5 3 20 29
      | _ => [])
    let owner := if op = 4 || op = 5 then fieldBad (20 ≤ bits mv 23 5 && bits mv 23 5 ≤ 23) 6 3 23 5 else []
    if rsv ++ addr ++ owner ≠ [] then rsv ++ addr ++ owner
    else
      let as := mvAcc s c mv t 0
      let old := st.acc.filter (fun a => a.own = c.n && a.unit = 1)
      let slot := if (op = 6 || op = 7) && !(wellSlotOf s c.site c.n (t - st.base)) then [({ cls := 7, slot := 3, d0 := 1 * 256, d1 := t } : Bad)] else []
      let self := if selfMeet as then [({ cls := 7, slot := 3, d0 := mvBank mv + 1 * 32 + 1 * 256, d1 := t } : Bad)] else []
      let kick := if op = 8 && bits (s.rd (coreP c) Reg.Co.KICKS_OUT) (2 * bits mv 21 2) 2 = 2 then
          [({ cls := 8, slot := 3, lsb := 21, width := 2, cause := 5, d0 := bits mv 21 2, d1 := st.fc % 2 ^ 32 } : Bad)] else []
      bankBad 3 as old ++ self ++ slot ++ slackBad 3 (mvLast mv t as) (s.slackAt c.site) (t - st.base) st.fc ++ kick

/-! ### MV effects -/

/-- R316: the trap of a consumed word: the first poisoned word of a line read at `cyc`. -/
def poisonTrap (s : State) (c : CoreId) (point bank line pm slot img pc cyc : Nat) : State :=
  coreTrap s c { ty := 8, slot := slot, d0 := point, d1 := bank + line * 32 + lowBit 16 0 pm * 4096, img := img, pc := pc, cyc := cyc } true

/-- R316, R317: POISON_EGRESS of the core. -/
def egressStops (s : State) (c : CoreId) : Bool := bits (s.rd (relP c.site) Reg.Re.POISON_EGRESS) c.n 1 = 1

/-- R215, R222: notes that a scheduled well access met a landing entry. -/
def noteLanding (s : State) (i : Nat) (hit : Bool) : State :=
  let s := s.setBit (wellP i) Reg.We.LANDING
  if hit then s.bump (wellP i) Reg.We.LAND_HIT_CNT 1 else s

/-- R333: the next mirrored well line of the buddy's MVWR, delivered at the shadow. -/
def mirrorLine (s : State) (c : CoreId) (own : Nat) : State :=
  let st := s.site c.site
  let mine := fun (x : Mirror) => x.kind = 4 && x.core = c.n && x.off = own - siteBase c.site && fcAhead st.fc x.fc = 1
  match st.mirror.find? mine with
  | none => s
  | some x =>
    let s := s.setSite c.site { st with mirror := st.mirror.erase x }
    s.put own 16 ⟨x.data, x.poison⟩

/-- R159, R207, R208, R215: one line of an MV transfer that was issued in state `s0`: an MVCP whose lines lie in one bank reads
each of them before it writes any, for with more lines two of its accesses would meet. -/
def mvLineEffect (c : CoreId) (mv t pc : Nat) (s0 s : State) (i : Nat) : State :=
  let b := mvBank mv
  let l := mvLine mv + i
  let own := spAddr c.site c.n b l
  let egress := fun (s : State) (ln : Line) =>
    if ln.poison ≠ 0 && egressStops s c then poisonTrap s c 3 b l ln.poison 3 mv pc (t + 1 + spacing i) else s
  match bits mv 0 8 with
  | 1 =>
    let ln := s0.spLine c b l
    (s.noteSp c b l 0 16).put (spAddr c.site c.n (bits mv 20 5) (bits mv 25 7 + i)) 16 ln
  | 2 =>
    let sl := bits mv 20 4
    let cl := bits mv 24 15 + i
    let ln := s.take (cisAddr c.site sl cl) 16
    (noteCis s c.site sl cl).put own 16 ln
  | 3 =>
    let ln := s.spLine c b l
    egress ((s.noteSp c b l 0 16).put (cisAddr c.site (bits mv 20 4) (bits mv 24 15 + i)) 16 ln) ln
  | 4 =>
    let x : CoreId := ⟨c.site, bits mv 20 3⟩
    let xb := bits mv 23 5
    let xl := bits mv 28 7 + i
    let ln := s.spLine x xb xl
    (s.noteSp x xb xl 0 16).put own 16 ln
  | 5 =>
    let ln := s.spLine c b l
    egress ((s.noteSp c b l 0 16).put (spAddr c.site (bits mv 20 3) (bits mv 23 5) (bits mv 28 7 + i)) 16 ln) ln
  | 6 =>
    let w := bits mv 20 29 + i
    if isShadow s c.site then mirrorLine s c own
    else
      let ln := wellLine s c.site w
      let hit := inLanding s c.site w
      let ln : Line := ⟨ln.data, if hit then 0xFFFF else ln.poison⟩
      let s := (if hit then noteLanding s c.site true else noteWell s c.site w).put own 16 ln
      mirrorPut s c.site 4 c.n (own - siteBase c.site) 16 ln.data ln.poison
  | 7 =>
    let w := bits mv 20 29 + i
    let ln := s.spLine c b l
    let s := s.noteSp c b l 0 16
    if isShadow s c.site then egress s ln
    else
    let s := s.put (wellAddr c.site w) 16 ⟨ln.data, halfPoison ln.poison⟩
    egress (if inLanding s c.site w then noteLanding s c.site false else s) ln
  | _ => s

/-- R165: the write window that a kicked waybill to this core's program buffer opens. -/
def kickWindow (s : State) (c : CoreId) (wb pump t : Nat) : State :=
  let k := s.core c
  if bits wb 12 4 = 2 ∧ bits wb 24 3 = c.n ∧ k.window = none then
    let lo := bits wb 128 64 / 128
    let hi := min 1023 ((bits wb 128 64 + bits wb 192 32 - 1) / 128)
    (s.setCore c { k with window := some ⟨lo, hi, t + 1, pump⟩ }).wr (coreP c) Reg.Co.WINDOW_OPEN 1
  else s

/-- R161: a KICK whose read stands hands the half-line to the pump; a poisoned half-line traps (R316). -/
def kickEffect (s : State) (c : CoreId) (mv t pc : Nat) : State :=
  let b := mvBank mv
  let h := bits mv 20 1
  let a := spAddr c.site c.n b (mvLine mv) + 64 * h
  let pm := memPoison s.mem a 8
  let wb := memRead s.mem a 64
  let s := s.noteSp c b (mvLine mv) (8 * h) 8
  if pm ≠ 0 then poisonTrap s c 2 b (mvLine mv) (pm * 2 ^ (8 * h)) 3 mv pc (t + 1 + bankLat b)
  else if isShadow s c.site then s
  else
    let pump := bits mv 21 2
    let st := s.site c.site
    let opens := decide (bits wb 12 4 = 2 ∧ bits wb 24 3 = c.n ∧ (s.core c).window = none)
    let k : Kick := { core := c.n, pump := pump, wb := wb, pc := pc, win := opens }
    let s := s.setSite c.site { st with kicks := st.kicks ++ [k] }
    let s := s.wr (coreP c) Reg.Co.KICKS_OUT (s.rd (coreP c) Reg.Co.KICKS_OUT + 4 ^ pump)
    kickWindow s c wb pump t

/-- R157: what an accepted MV operation does; its accesses are placed first, and a discarded line changes nothing. -/
def mvEffect (s : State) (c : CoreId) (mv t pc : Nat) : State :=
  let as := mvAcc s c mv t pc
  if bits mv 0 8 = 8 then
    let r := placeAll s c.site t as
    if r.lost = [] then kickEffect r.st c mv t pc else r.st
  else
    let s := upTo (if bits mv 0 8 = 0 then 0 else mvC mv) (mvLineEffect c mv t pc s) s
    (placeAll s c.site t as).st

/-! ### The LK slot -/

/-- R134: field of a hop entry. -/
def hopType (e : Nat) : Nat := bits e 0 2
def hopIn (e : Nat) : Nat := bits e 2 3
def hopOut (e : Nat) : Nat := bits e 5 3
def hopId (e : Nat) : Nat := bits e 8 12
def hopBeats (e : Nat) : Nat := bits e 60 14 + 1

/-- R139: the active hop table's number and length. -/
def hopTable (s : State) (i : Nat) : Nat × Nat :=
  let t := s.rd (tniP i) Reg.Tn.TABLE_ACTIVE
  (t, if t = 0 then (s.site i).hopN0 else (s.site i).hopN1)

/-- The entry of table `t` at index `e`. -/
def hopEntry (s : State) (i t e : Nat) : Nat := memRead s.mem (hopAddr i t e) 16

/-- The entry of the active table with the given HOP_ID. -/
def hopFind (s : State) (i id : Nat) : Option Nat :=
  let t := hopTable s i
  ((List.range t.2).map (hopEntry s i t.1)).find? (fun e => hopId e = id)

/-- R20: locked latency of logical direction `d`. -/
def hopLat (s : State) (i d : Nat) : Nat :=
  match d with
  | 0 => s.rd (commonP i) Reg.Sc.HOP_LAT_N
  | 1 => s.rd (commonP i) Reg.Sc.HOP_LAT_E
  | 2 => s.rd (commonP i) Reg.Sc.HOP_LAT_S
  | _ => s.rd (commonP i) Reg.Sc.HOP_LAT_W

/-- R131: the cycle of slot `sl` of window `w` with `b` slots per window. -/
def slotCycle (w sl b : Nat) : Nat := 16 * w + 16 * sl / b

/-- R134: window and slot of beat `j` on the outbound side. -/
def outSlot (e j : Nat) : Nat × Nat := (bits e 37 11 + j / (bits e 54 6 + 1), bits e 48 6 + j % (bits e 54 6 + 1))

/-- R134: window and slot of beat `j` on the inbound side. -/
def inSlot (e j : Nat) : Nat × Nat := (bits e 20 11 + j / (bits e 54 6 + 1), bits e 31 6 + j % (bits e 54 6 + 1))

/-- R131, R134: frame cycle at which beat `j` leaves the site. -/
def departAt (s : State) (i e j : Nat) : Nat := slotCycle (outSlot e j).1 (outSlot e j).2 (s.rd (tniP i) (Reg.Tn.B (hopOut e)))

/-- R133: frame cycle at which beat `j` is delivered at the site. -/
def deliverAt (s : State) (i e j : Nat) : Nat :=
  slotCycle (inSlot e j).1 (inSlot e j).2 (s.rd (tniP i) (Reg.Tn.B (hopIn e))) + hopLat s i (hopIn e)

/-- R163: bank and line of beat `j` of an LK operand; the half is `j mod 2`. -/
def ringPlace (bb nb line0 rl j : Nat) : Nat × Nat :=
  let k := j / 2
  (bb + k % (nb + 1), line0 + k / (nb + 1) % (rl + 1))

/-- R135: the scratchpad access of beat `j` of entry `e` bound by LK slot `lk`. -/
def beatAcc (s : State) (c : CoreId) (lk e pc j : Nat) : Access :=
  let pl := ringPlace (bits lk 20 5) (bits lk 25 5) (bits lk 30 7) (bits lk 37 7) j
  let base := (s.site c.site).base
  let cyc := if bits lk 0 8 = 1 then departAt s c.site e j - bankLat pl.1 - 2 else deliverAt s c.site e j + 2
  { cyc := base + cyc, port := 32 * c.n + pl.1, own := c.n, unit := 1, line := pl.2, halves := j % 2 + 1, slot := 4, img := lk, pc := pc }

/-- R135: all beat accesses of an LK operation. -/
def lkAcc (s : State) (c : CoreId) (lk e pc : Nat) : List Access := (List.range (hopBeats e)).map (beatAcc s c lk e pc)

/-- R162, R164: the checks of the LK slot at `t`; `mv` gives the accesses of the bundle's MV slot (R156). -/
def lkBad (s : State) (c : CoreId) (lk t : Nat) (mv : List Access) : List Bad :=
  let op := bits lk 0 8
  let st := s.site c.site
  if lk = 0 then []
  else if op = 0 then rsvBad lk 4 8 56
  else if 2 < op then [{ cls := 2, slot := 4, lsb := 0, width := 8 }]
  else
    let rsv := codeBad (23 < bits lk 20 5) 4 20 5 ++ rsvBad lk 4 44 20
    let ent := hopFind s c.site (bits lk 8 12)
    let wrong := match ent with
      | none => true
      | some e => if op = 1 then hopType e ≠ 0 else hopType e = 0 || hopType e = 1
    let addr := fieldBad wrong 5 4 8 12 ++ fieldBad (24 < bits lk 20 5 + bits lk 25 5 + 1) 5 4 25 5 ++
      fieldBad (128 < bits lk 30 7 + bits lk 37 7 + 1) 5 4 37 7
    match rsv ++ addr, ent with
    | [], some e =>
      let as := lkAcc s c lk e 0
      let first := as.foldl (fun m a => min m a.cyc) (match as with
        | a :: _ => a.cyc
        | [] => t)
      let last := as.foldl (fun m a => max m a.cyc) t
      let late := first < t + 4
      let mk := fun cause => ({ cls := 8, slot := 4, lsb := 8, width := 12, cause := cause, d0 := bits lk 8 12, d1 := st.fc % 2 ^ 32 } : Bad)
      let bound := (s.core c).binds.any (fun b => b.hop = bits lk 8 12) ||
        (List.range 8).any (fun n => (s.core ⟨c.site, n⟩).binds.any (fun b => b.hop = bits lk 8 12))
      let old := mv ++ st.acc.filter (fun a => a.own = c.n && a.unit = 1)
      (if late then [] else bankBad 4 as old ++ (if selfMeet as then [({ cls := 7, slot := 4, d0 := bits lk 20 5 + 32 + 256, d1 := t } : Bad)] else [])) ++
        (if bound then [({ cls := 7, slot := 4, lsb := 8, width := 12, d0 := bits lk 20 5 + 32 + 256, d1 := t } : Bad)] else []) ++
        slackBad 4 (if op = 1 then st.base + departAt s c.site e (hopBeats e - 1) else last) (s.slackAt c.site) (t - st.base) st.fc ++
        (if s.rd (tniP c.site) Reg.Tn.TRANSITION = 1 then [mk 3] else []) ++ (if late then [mk 6] else [])
    | bs, _ => bs

/-- R135, R138, R140, R316: beat `j` of a bound send leaves, stomped when a word is poisoned or its read was
discarded. -/
def sendBeat (c : CoreId) (lk e pc : Nat) (lost : List Access) (s : State) (j : Nat) : State :=
  let a := beatAcc s c lk e pc j
  let pl := ringPlace (bits lk 20 5) (bits lk 25 5) (bits lk 30 7) (bits lk 37 7) j
  let ad := spAddr c.site c.n pl.1 pl.2 + 64 * (j % 2)
  let pm := memPoison s.mem ad 8
  let data := memRead s.mem ad 64
  let gone := lost.any (fun l => l.port = a.port && l.cyc = a.cyc)
  let s := s.noteSp c pl.1 pl.2 (8 * (j % 2)) 8
  let s := if isShadow s c.site then s else s.emit (.beat c.site (hopOut e) (outSlot e j).1 (outSlot e j).2 data (gone || pm ≠ 0))
  if !gone && pm ≠ 0 && egressStops s c then poisonTrap s c 4 pl.1 pl.2 (pm * 2 ^ (8 * (j % 2))) 4 lk pc a.cyc else s

/-- R164: an accepted LK operation binds its entry for the frame; a send's beats leave in their slots. -/
def lkEffect (s : State) (c : CoreId) (lk t pc : Nat) : State :=
  match bits lk 0 8, hopFind s c.site (bits lk 8 12) with
  | 0, _ => s
  | _, none => s
  | op, some e =>
    let k := s.core c
    let b : Bind := { hop := bits lk 8 12, recv := op = 2, bb := bits lk 20 5, nb := bits lk 25 5, line0 := bits lk 30 7, rl := bits lk 37 7, pc := pc, img := lk }
    let s := s.setCore c { k with binds := k.binds ++ [b] }
    let r := placeAll s c.site t (lkAcc s c lk e pc)
    if op = 1 then upTo (hopBeats e) (sendBeat c lk e pc r.lost) r.st else r.st

end Sys2Proof.Machine
end

