-- ==== Sys2Proof/Machine/Net.lean ====
section
/-! DEFINITION. Courier and fabric routing: endpoints and contexts (R174, R175), sorting hops and legs (R180 to R182),
route tables (R196), injection (R178, R184, R197), and the forwarding of fabric words (R228, R234, R235). -/

namespace Sys2Proof.Machine

/-! ### Endpoints -/

/-- Endpoints: sites 0 to 255, hub h as 256 + h. -/
def epOk (ep : Nat) : Bool := decide (ep < 272)

/-- The page that holds an endpoint's stream registers: R200 for a site; a hub's stand where R249 leaves its control
space reserved (log entry 6). -/
def epPage (ep : Nat) : Nat := if ep < 256 then cniP ep else hubP (ep - 256) 0xF000

def State.hub (s : State) (h : Nat) : Hub := tabGet (fun _ => {}) s.hubs h

def State.setHub (s : State) (h : Nat) (v : Hub) : State := { s with hubs := tabSet (fun _ => {}) s.hubs h v }

def State.stream (s : State) (ep k : Nat) : Stream := tabGet (fun _ => {}) s.streams (512 * ep + k)

def State.setStream (s : State) (ep k : Nat) (v : Stream) : State :=
  { s with streams := tabSet (fun _ => {}) s.streams (512 * ep + k) v }

def State.ctx (s : State) (ep k : Nat) : Ctx := tabGet (fun _ => {}) s.ctxs (512 * ep + k)

def State.setCtx (s : State) (ep k : Nat) (v : Ctx) : State :=
  { s with ctxs := tabSet (fun _ => {}) s.ctxs (512 * ep + k) v }

/-- R200: STREAM_STATE of an outbound stream: 0 idle, 1 active, 2 broken. -/
def streamState (s : State) (ep k : Nat) : Nat := s.rd (epPage ep) (Reg.Cn.STREAM_STATE k)

/-- Sets STREAM_STATE; OUT_BUSY follows. -/
def setStreamState (s : State) (ep k v : Nat) : State :=
  let p := epPage ep
  let was := streamState s ep k
  let n := s.rd p Reg.Cn.OUT_BUSY
  let s := s.wr p (Reg.Cn.STREAM_STATE k) v
  if was ≠ 1 ∧ v = 1 then s.wr p Reg.Cn.OUT_BUSY (n + 1) else if was = 1 ∧ v ≠ 1 then s.wr p Reg.Cn.OUT_BUSY (n - 1) else s

/-- R174: the endpoint code of an endpoint. -/
def epCode (s : State) (ep : Nat) : Nat := if ep < 256 then (logOf s ep).getD 0xFF else 0xF0 + (ep - 256)

/-- R174: the endpoint that a code names. -/
def codeEp (s : State) (c : Nat) : Option Nat :=
  if c < 16 * gridW s then physOf s c else if 0xF0 ≤ c ∧ c < 256 then some (c - 0xF0 + 256) else none

/-! ### Route tables (R196, R200) -/

/-- The active table of the NI of site `i`. -/
def actRect (s : State) (i : Nat) : Rect := rectOf (s.rd (cniP i) Reg.Cn.ACT_RECT)
def actFullX (s : State) (i : Nat) : Bool := bits (s.rd (cniP i) Reg.Cn.ACT_FLAGS) 0 1 = 1
def actFullY (s : State) (i : Nat) : Bool := bits (s.rd (cniP i) Reg.Cn.ACT_FLAGS) 1 1 = 1
def actRegion (s : State) (i : Nat) : Nat := bits (s.rd (cniP i) Reg.Cn.ACT_FLAGS) 2 4

/-- R182: G(h), 0xFF for none, and the EGRESS mark. -/
def gateCode (s : State) (i h : Nat) : Nat := bits (s.rd (cniP i) (Reg.Cn.ACT_GATE h)) 0 8
def isEgress (s : State) (i h : Nat) : Bool := bits (s.rd (cniP i) (Reg.Cn.ACT_GATE h)) 8 1 = 1

/-- R182: the physical gate site of region `r` at hub `h`. -/
def gateOf (s : State) (r h : Nat) : Option Nat :=
  (regionSites s r).find? (fun i => hubOf i = some h && logOf s i = some (gateCode s i h))

/-- The NI that injects for an endpoint (R180): its own, or the gate site's for a hub. -/
def niOf (s : State) (ep r : Nat) : Option Nat := if ep < 256 then some ep else gateOf s r (ep - 256)

/-! ### Sorting hops and legs (R180, R181) -/

/-- The index that stands for an endpoint code in sort_hop: a hub's is its gate site's. -/
def codeIx (s : State) (i c : Nat) : Nat := if 0xF0 ≤ c then gateCode s i (c - 0xF0) else c

/-- R180: s of sort_hop. -/
def sortSeed (s : State) (i src dst stream attempt : Nat) : Nat :=
  (181 * codeIx s i src + 59 * codeIx s i dst + 17 * stream + 101 * attempt + s.rd (cniP i) Reg.Cn.ACT_SALT) % 65536

/-- R180: sort_hop by the active table of NI `i`. -/
def sortHop (s : State) (i src dst stream attempt : Nat) : Nat :=
  let q := actRect s i
  let k := sortSeed s i src dst stream attempt % (q.h * q.v)
  (q.y0 + k / q.v) % 16 * gridW s + (q.u0 + k % q.v) % max 1 (gridW s)

/-- `n` hops from `j` in direction `d`: the links taken. -/
def walk (s : State) (j d n : Nat) : List (Nat × Nat) :=
  ((List.range n).foldl (fun (a : List (Nat × Nat) × Nat) _ => (a.1 ++ [(a.2, d)], logNext s a.2 d)) ([], j)).1

/-- R181: direction and length along a ring of `n` (forward first on a tie) or along a mesh. -/
def along (ring : Bool) (n a b ra rb fwd back : Nat) : Nat × Nat :=
  if ring then
    let e := (b + n - a) % n
    if e ≤ n - e then (fwd, e) else (back, n - e)
  else if ra ≤ rb then (fwd, rb - ra) else (back, ra - rb)

/-- R180, R181: the links of a leg, first E–W, then N–S. -/
def legPath (s : State) (i a b : Nat) : List (Nat × Nat) :=
  let q := actRect s i
  let w := gridW s
  let pa := relOf s q a
  let pb := relOf s q b
  let x := along (actFullX s i) w (a % w) (b % w) pa.2 pb.2 1 3
  let y := along (actFullY s i) 16 (a / w) (b / w) pa.1 pb.1 2 0
  walk s a x.1 x.2 ++ walk s (a / w * w + b % w) y.1 y.2

/-- R20: the physical port code of logical site `j` in direction `d`. -/
def portOf (s : State) (j d : Nat) : Nat :=
  match physOf s j with
  | none => 0xF
  | some i => match d with
    | 0 => s.rd (commonP i) Reg.Sc.PORT_N
    | 1 => s.rd (commonP i) Reg.Sc.PORT_E
    | 2 => s.rd (commonP i) Reg.Sc.PORT_S
    | _ => s.rd (commonP i) Reg.Sc.PORT_W

/-- R185: a leg avoids every link of a down cache. -/
def legClear (s : State) (i : Nat) (down : List (Nat × Nat)) (a b : Nat) : Bool :=
  (legPath s i a b).all (fun l => !(down.contains (l.1, portOf s l.1 l.2)))

/-- The sorting hop that an envelope takes (R180). -/
def hopFor (s : State) (i src dst stream attempt : Nat) (direct : Bool) : Nat :=
  if direct then codeIx s i src else sortHop s i src dst stream attempt

/-- R185: both legs, and the hub port of a hub endpoint, are clear. -/
def routeClear (s : State) (i : Nat) (down : List (Nat × Nat)) (src dst stream attempt : Nat) (direct : Bool) : Bool :=
  let m := hopFor s i src dst stream attempt direct
  legClear s i down (codeIx s i src) m && legClear s i down m (codeIx s i dst) &&
    (decide (dst < 0xF0) || !(down.contains (codeIx s i dst, 8))) && (decide (src < 0xF0) || !(down.contains (codeIx s i src, 8)))

/-- R185: the next attempt whose route is clear. -/
def nextAttempt (s : State) (i : Nat) (down : List (Nat × Nat)) (src dst stream a : Nat) (direct : Bool) : Option Nat :=
  ((List.range 4).filter (fun k => decide (a < k))).find? (fun k => routeClear s i down src dst stream k direct)

/-- R182: the egress hub of a fabric transfer. -/
def egressHub (s : State) (i dst stream : Nat) : Option Nat :=
  let hs := (List.range 16).filter (isEgress s i)
  match hs with
  | [] => none
  | _ => hs[sortSeed s i ((logOf s i).getD 0) dst stream 0 % hs.length]?

/-! ### Injection (R176, R178, R181, R197) -/

/-- R176, R177: class of an envelope: 1 response. -/
def classOf (kind : Nat) (resp : Bool) : Nat := if kind = 1 ∨ kind = 2 ∨ (kind = 3 ∧ !resp) then 0 else 1

/-- R180, R181: SORT and VC of an envelope that NI `i` injects. -/
def dress (s : State) (i : Nat) (resp direct : Bool) (attempt : Nat) (e : Env) : Env :=
  let src := e.src.toNat
  let m := if e.circ then codeIx s i src else hopFor s i src e.dst.toNat e.stream.toNat attempt (direct && !resp)
  let leg := if m = codeIx s i src then 1 else 0
  { e with sort := BitVec.ofNat 8 m, vc := BitVec.ofNat 3 (4 * classOf e.kind.toNat resp + 2 * leg) }

/-- R188, R197, R354: injection is stopped at the NI of site `i`. -/
def injStopped (s : State) (i : Nat) : Bool := s.rd (cniP i) Reg.Cn.INJ_STOPPED = 1 || (s.site i).held

/-- R200: an envelope leaves NI `i`. -/
def countInj (s : State) (i : Nat) : State := s.wrap (cniP i) Reg.Cn.INJ_TOTAL 1

/-- R200: an envelope ends at NI `i`. -/
def countEj (s : State) (i : Nat) : State := s.wrap (cniP i) Reg.Cn.EJ_TOTAL 1

/-- Injects an envelope of region `r` from endpoint `ep`; one that has no gate site goes nowhere. -/
def sendEnv (s : State) (ep r : Nat) (resp direct : Bool) (attempt : Nat) (e : Env) : State :=
  match niOf s ep r with
  | none => s
  | some i => (countInj s i).emit (.env ep resp (dress s i resp direct attempt e))

/-- R197: an ACK or DONE leaves at once, or waits while injection is stopped. -/
def sendBack (s : State) (ep r : Nat) (resp : Bool) (attempt : Nat) (e : Env) : State :=
  match niOf s ep r with
  | none => s
  | some i =>
    if injStopped s i then
      if ep < 256 then s.setSite ep { (s.site ep) with waiting := (s.site ep).waiting ++ [(resp, e)] }
      else s.setHub (ep - 256) { (s.hub (ep - 256)) with waiting := (s.hub (ep - 256)).waiting ++ [(resp, e)] }
    else sendEnv s ep r resp false attempt e

/-- R197 step 6: what waited at an endpoint leaves. -/
def flushWaiting (s : State) (ep : Nat) : State :=
  let l := if ep < 256 then (s.site ep).waiting else (s.hub (ep - 256)).waiting
  let s := if ep < 256 then s.setSite ep { (s.site ep) with waiting := [] }
    else s.setHub (ep - 256) { (s.hub (ep - 256)) with waiting := [] }
  l.foldl (fun s x => sendBack s ep x.2.region.toNat x.1 0 x.2) s

/-! ### Fabric words (R228, R234, R235) -/

/-- R234: active routing entry of hub `h` for a panel. -/
def frtEntry (s : State) (h d : Nat) : Nat := s.rd (hubP h 0) (Reg.Hu.FRT_ACT d)

/-- R223: the hub has port `p`: TB on hubs 0 and 15 only. -/
def hasPort (h p : Nat) : Bool := decide (p < 4) || (p = 4 && (h = 0 || h = 15))

/-- R249: port `p` is up. -/
def portUp (s : State) (h p : Nat) : Bool := hasPort h p && s.rd (portP h p) Reg.Fa.PORT_STATE = 3

/-- R361: the panel's own ID. -/
def ownPanel (s : State) : Nat := s.rd idP Reg.Id.PANEL_ID

/-- R235: a tag that the panel originates at hub `h`. -/
def newTag (s : State) (h panel : Nat) (cls attempt : Nat) : Tag :=
  { dpanel := BitVec.ofNat 12 panel, spanel := BitVec.ofNat 12 (ownPanel s), ttl := BitVec.ofNat 6 (s.rd (hubP h 0) Reg.Hu.FAB_TTL)
    fclass := cls = 1, upper := false, plane := BitVec.ofNat 4 h, attempt := BitVec.ofNat 2 attempt }

/-! ### Optical ports (R227, R229) -/

def State.optic (s : State) (h p : Nat) : Port := tabGet (fun _ => {}) s.optics (8 * h + p)

def State.setOptic (s : State) (h p : Nat) (v : Port) : State := { s with optics := tabSet (fun _ => {}) s.optics (8 * h + p) v }

/-- R227: one byte of CRC-16, polynomial 0x1021. -/
def crc16Byte (crc b : Nat) : Nat :=
  (List.range 8).foldl (fun c _ => if 0x8000 ≤ c then (c % 0x8000 * 2) ^^^ 0x1021 else c * 2) (crc ^^^ (b * 256))

/-- R227: HCRC of a header's bytes 0 to 13. -/
def hcrc (v : Nat) : Nat := (List.range 14).foldl (fun c i => crc16Byte c (bits v (8 * i) 8)) 0xFFFF

/-- R227: a block header. -/
def eflHdr (bseq aseq btype cvc credits valid : Nat) : Nat :=
  let v := packRec [(0, 4, bseq), (4, 4, aseq), (8, 1, btype), (9, 1, cvc), (10, 2, credits), (12, 2, valid)]
  v + hcrc v * 256 ^ 14

/-- R227: the header of a block of the retry buffer as port `p` sends it now. -/
def blockHdr (s : State) (h p : Nat) (b : EBlock) : Nat :=
  eflHdr b.seq (((s.optic h p).rx + 2 ^ 32 - 1) % 2 ^ 32) b.btype b.cvc b.credits (2 ^ b.words.length - 1)

/-- R227, R229: a block that takes the next BSEQ leaves and enters the retry buffer. -/
def sendBlock (s : State) (h p btype cvc credits : Nat) (ws : List FWord) : State :=
  let o := s.optic h p
  let b : EBlock := { seq := o.tx, btype := btype, cvc := cvc, credits := credits, words := ws }
  let sent := o.sent ++ [b]
  (s.setOptic h p { o with tx := (o.tx + 1) % 2 ^ 32, sent := sent.drop (sent.length - 512) }).emit (.efl h p (blockHdr s h p b) ws 0)

/-- R227: a block that takes no BSEQ leaves with a content of its own. -/
def sendPlain (s : State) (h p btype content : Nat) : State :=
  s.emit (.efl h p (eflHdr 0 (((s.optic h p).rx + 2 ^ 32 - 1) % 2 ^ 32) btype 0 0 0) [] content)

/-- R228: the fabric VC of a tag. -/
def tagVc (t : Tag) : Nat := (if t.fclass then 2 else 0) + (if t.upper then 1 else 0)

/-- R229: the peer has a place for a word of a VC: 64 places of each, and 6,912 for all. -/
def creditFor (o : Port) (vc : Nat) : Bool :=
  let u := fun (v : Nat) => tabGet (fun _ => 0) o.used v
  decide (u vc < 64) || decide ((List.range 4).foldl (fun n v => n + (u v - 64)) 0 < 7168 - 256)

/-- R229: the place that a word held in a receive pool is returned by an IDLE block. -/
def creditBack (s : State) (back : Option (Nat × Nat × Nat)) : State :=
  match back with
  | some (h, p, vc) => if portUp s h p then sendBlock s h p 2 vc 1 [] else s
  | none => s

/-- R229: what waits at a port leaves, oldest first, as far as places and the retry buffer allow. -/
def drainPort (s : State) (h p : Nat) : State :=
  let o := s.optic h p
  if !(portUp s h p) then s
  else o.queue.foldl (fun s x =>
    let o := s.optic h p
    let vc := tagVc x.w.t
    if creditFor o vc ∧ o.sent.length < 512 then
      let s := s.setOptic h p { o with used := tabSet (fun _ => 0) o.used vc (tabGet (fun _ => 0) o.used vc + 1) }
      creditBack (sendBlock s h p 1 0 0 [x.w]) x.back
    else s.setOptic h p { o with queue := o.queue ++ [x] }) (s.setOptic h p { o with queue := [] })

/-- R235 step 5: a word leaves by port `p`. -/
def leaveBy (s : State) (h p ent : Nat) (back : Option (Nat × Nat × Nat)) (w : FWord) : State :=
  let v3 := s.rd (portP h p) Reg.Fa.VER = 3
  let t := { w.t with ttl := w.t.ttl - 1, upper := w.t.upper || bits ent (5 + p) 1 = 1, attempt := if v3 then 0 else w.t.attempt }
  let o := s.optic h p
  drainPort (s.setOptic h p { o with queue := o.queue ++ [⟨{ w with t := t }, back⟩] }) h p

/-- What the routing of a word at a hub decides (R235). -/
inductive Hop where
  | deliver
  | expired
  | noRoute
  | leave (p : Nat)
  | ring (h : Nat)
  deriving DecidableEq, Repr

/-- R235 steps 1 to 4. -/
def fabHop (s : State) (h : Nat) (t : Tag) (e : Env) : Hop :=
  let ent := frtEntry s h t.dpanel.toNat
  let ps := (List.range 5).filter (fun p => bits ent p 1 = 1 && portUp s h p)
  if t.dpanel.toNat = ownPanel s then .deliver
  else if t.ttl = 0 then .expired
  else if bits ent 15 1 = 0 ∨ (ps = [] ∧ bits ent 10 1 = 0) then .noRoute
  else match ps[(e.stream.toNat + 31 * t.spanel.toNat + t.attempt.toNat) % max 1 ps.length]? with
    | some p => .leave p
    | none => .ring (bits ent 11 4)

/-- R177, R179, R230: the NOTICE for a discarded word, from hub `h`. -/
def noticeFor (h : Nat) (w : FWord) : Env :=
  { kind := 6, dst := w.e.src, src := BitVec.ofNat 8 (0xF0 + h), stream := w.e.stream, region := w.e.region
    sepoch := w.e.sepoch, data := BitVec.ofNat 384 (8 + w.e.seq.toNat * 256) }

/-- R235 steps 1 to 5 at hub `h` and, over the ring, at the hubs after it; the hub that delivers the word, if any. A
NOTICE to a stream of this panel is an envelope to its hub. -/
def fabForward : Nat → State → Nat → Option (Nat × Nat × Nat) → FWord → State × Option Nat
  | 0, s, _, back, _ => (creditBack s back, none)
  | fuel + 1, s, h, back, w =>
    match fabHop s h w.t w.e with
    | .deliver => (creditBack s back, some h)
    | .expired => (creditBack ((s.setBit (hubP h 0) Reg.Hu.TTL).bump (hubP h 0) Reg.Hu.TTL_CNT 1) back, none)
    | .leave p => (leaveBy s h p (frtEntry s h w.t.dpanel.toNat) back w, none)
    | .ring k => fabForward fuel s k back w
    | .noRoute =>
      let s := creditBack ((s.setBit (hubP h 0) Reg.Hu.NOROUTE).bump (hubP h 0) Reg.Hu.NOROUTE_CNT 1) back
      let key := (w.t.spanel.toNat * 16 + w.t.plane.toNat) * 4096 + w.e.stream.toNat * 8 + w.e.sepoch.toNat
      if w.t.fclass ∨ keyHas (s.hub h).noted key then (s, none)
      else
        let s := s.setHub h { (s.hub h) with noted := keyAdd (s.hub h).noted key }
        let n := noticeFor h w
        if w.t.spanel.toNat = ownPanel s then (s.emit (.env (256 + h) false n), none)
        else fabForward fuel s h none { t := newTag s h w.t.spanel.toNat 1 0, e := n }

/-- The panel originates a word at hub `h`. -/
def fabSend (s : State) (h panel : Nat) (resp : Bool) (attempt : Nat) (e : Env) : State × Option Nat :=
  fabForward 20 s h none { t := newTag s h panel (classOf e.kind.toNat resp) attempt, e := e, resp := resp }

end Sys2Proof.Machine
end

