-- ==== Sys2Proof/Machine/Open.lean ====
section
/-! DEFINITION. Open accesses (R106, R107, R113, R209): targets of data addresses (R25), requests, and what a granted
request reads or writes; the landing entries of the wells (R214, R222). -/

namespace Sys2Proof.Machine

/-! ### Targets (R25) -/

/-- R25: what an offset lies in. -/
inductive Target where
  | well
  | cistern
  | scratchpad (n : Nat)
  deriving DecidableEq, Repr

/-- R25: the target that holds `len` bytes at offset `off`, if one does. -/
def targetOf (off len : Nat) : Option Target :=
  if off + len ≤ 0xA00000000 then some .well
  else if 0x8000000000 ≤ off ∧ off + len ≤ 0x8003000000 then some .cistern
  else if 0x8100000000 ≤ off ∧ off < 0x8100800000 ∧ (off - 0x8100000000) % 0x100000 + len ≤ 0x50000 then
    some (.scratchpad ((off - 0x8100000000) / 0x100000))
  else none

/-- R30: bank of a scratchpad offset. -/
def offBank (off : Nat) : Nat := off % 0x100000 / 0x4000

/-- Line inside the bank of a scratchpad offset. -/
def offLine (off : Nat) : Nat := off % 0x4000 / 128

/-- R109: slice of a cistern offset. -/
def offSlice (off : Nat) : Nat := off / 128 % 16

/-! ### Requests -/

/-- R106: the line-sized parts of `n` ≤ 16 words at `off`: (offset, words, place). -/
def lineParts (off n : Nat) : List (Nat × Nat × Nat) :=
  let w0 := 16 - off / 8 % 16
  if n ≤ w0 then [(off, n, 0)] else [(off, w0, 0), (off + 8 * w0, n - w0, w0)]

/-- R118: OPEN_BUSY of the cores of site `i`. -/
def showOpen (s : State) (i : Nat) : State :=
  upTo 8 (fun s n => s.wr (coreP ⟨i, n⟩) Reg.Co.OPEN_BUSY
    (if (s.site i).opens.any (fun r => targetOf r.off (8 * r.n) = some (.scratchpad n)) then 1 else 0)) s

/-- Files the accesses of a piece at site `i` for requester `who`. -/
def askOpen (s : State) (i who job key : Nat) (wr : Bool) (off n data poison : Nat) : State :=
  let st := s.site i
  let reqs := (lineParts off n).map (fun p => ({
    who := who, arr := s.tenths, off := p.1, n := p.2.1, wr := wr, data := bits data (64 * p.2.2) (64 * p.2.1)
    poison := bits poison p.2.2 p.2.1, job := job, key := key, at_ := p.2.2 } : OpenReq))
  showOpen (s.setSite i { st with opens := st.opens ++ reqs }) i

/-- How many accesses a piece takes. -/
def partsOf (off n : Nat) : Nat := (lineParts off n).length

/-! ### What a granted request does -/

/-- R101, R106: corrected and uncorrectable words that an open read of a cistern line meets. -/
def noteCisWords (s : State) (i off n : Nat) : State :=
  let a := siteBase i + off
  let ce := marksGet s.mem.ce (a / 8) n
  let ue := marksGet s.mem.ue (a / 8) n
  let p := cisP i
  let s := if ce = 0 then s else (s.setBit p Reg.Ci.CE).bump p Reg.Ci.CIS_CE_CNT (popc n ce)
  if ue = 0 then s
  else ((((s.setBit p Reg.Ci.UE).bump p Reg.Ci.CIS_UE_CNT (popc n ue)).wr p Reg.Ci.UE_SLICE (offSlice off)).wr p Reg.Ci.UE_LINE
    (off % 0x8000000000 / 2048)).wr p Reg.Ci.UE_WORD (off / 8 % 16 + Nat.log2 ue)

/-- R202: what reading the half-lines of `mask` of well line `w` notes. -/
def noteWellHalves (s : State) (i w mask : Nat) : State :=
  let a := wellAddr i w
  let sel := fun (m : Nat) => (if bits mask 0 1 = 1 ∧ m % 256 ≠ 0 then 1 else 0) + (if bits mask 1 1 = 1 ∧ m / 256 ≠ 0 then 2 else 0)
  let ce := sel (marksGet s.mem.ce (a / 8) 16)
  let ue := sel (marksGet s.mem.ue (a / 8) 16)
  let p := wellP i
  let s := if ce = 0 then s else (s.setBit p Reg.We.CE).bump p Reg.We.WELL_CE_CNT (popc 2 ce)
  if ue = 0 then s
  else (((s.setBit p Reg.We.UE).bump p Reg.We.WELL_UE_CNT (popc 2 ue)).wr p Reg.We.UE_LINE w).wr p Reg.We.UE_HALF (Nat.log2 ue)

/-- Half-lines that words `w0` to `w0 + n - 1` of a line touch. -/
def halvesOf (w0 n : Nat) : Nat := (if w0 < 8 then 1 else 0) + (if 8 < w0 + n then 2 else 0)

/-- R106, R202: the words that an open read delivers, and the state that notes what it met. -/
def openRead (s : State) (i off n : Nat) : State × Line :=
  let a := siteBase i + off
  match targetOf off (8 * n) with
  | some .well =>
    let w := off / 128
    let l := wellLine s i w
    (noteWellHalves s i w (halvesOf (off / 8 % 16) n), ⟨memRead s.mem a (8 * n), bits l.poison (off / 8 % 16) n⟩)
  | some .cistern => (noteCisWords s i off n, s.take a n)
  | some (.scratchpad c) => (s.noteSp ⟨i, c⟩ (offBank off) (offLine off) (off / 8 % 16) n, s.take a n)
  | none => (s, ⟨0, 0⟩)

/-- R202: poison of the half-lines of a well line after words `w0` to `w0 + n - 1` are written with marks `pm`; a
half-line written in part keeps the poison it held. -/
def wellMarks (old w0 n pm : Nat) : Nat :=
  let one := fun (h : Nat) =>
    let whole := decide (w0 ≤ 8 * h) && decide (8 * h + 8 ≤ w0 + n)
    let touched := decide (w0 < 8 * h + 8) && decide (8 * h < w0 + n)
    let new := bits (pm * 2 ^ w0) (8 * h) 8
    let was := bits old (8 * h) 8
    if !touched then was else if new ≠ 0 ∨ (!whole ∧ was ≠ 0) then 0xFF else 0
  one 0 + one 1 * 256

/-- R106, R202: an open write of whole words. -/
def openWrite (s : State) (i off n : Nat) (l : Line) : State :=
  let a := siteBase i + off
  match targetOf off (8 * n) with
  | some .well =>
    let b := wellAddr i (off / 128)
    let w0 := off / 8 % 16
    let old := (wellLine s i (off / 128)).poison
    let s := s.put a n ⟨l.data, 0⟩
    let pm := wellMarks old w0 n l.poison
    { s with mem := { s.mem with
        poison := marksPut s.mem.poison (b / 8) 16 pm
        ue := marksPut s.mem.ue (b / 8) 16 (bits (marksGet s.mem.ue (b / 8) 16) 0 16 &&& (0xFFFF - (if halvesOf w0 n = 3 then 0xFFFF else if halvesOf w0 n = 1 then 0xFF else 0xFF00))) } }
  | some _ => mirrorPut (s.put a n l) i 0 0 off n l.data l.poison
  | none => s

/-! ### Landing entries (R214, R222) -/

/-- Entries in use. -/
def landCount (s : State) (i : Nat) : State :=
  s.wr (wellP i) Reg.We.LAND_USED (((List.range 32).filter (fun z => s.rd (wellP i) (Reg.We.LAND_STATE z) ≠ 0)).length)

/-- R214: makes a PENDING entry for well bytes `off` to `off + len - 1`, if one is free. -/
def landMake (s : State) (i off len : Nat) : State × Option Nat :=
  let p := wellP i
  match (List.range 32).find? (fun z => s.rd p (Reg.We.LAND_STATE z) = 0) with
  | none => (s.setBit p Reg.We.LAND_FULL, none)
  | some z =>
    let s := ((s.wr p (Reg.We.LAND_START z) (off / 128)).wr p (Reg.We.LAND_END z) ((off + len - 1) / 128)).wr p (Reg.We.LAND_STATE z) 1
    (landCount s i, some z)

/-- R214: frees an entry. -/
def landFree (s : State) (i z : Nat) : State := landCount (s.wr (wellP i) (Reg.We.LAND_STATE z) 0) i

/-- R214: the transfer of entry `z` ends; `done` bytes were delivered. -/
def landEnd (s : State) (i z off done : Nat) (ok : Bool) : State :=
  let p := wellP i
  if ok then
    let a := s.rd p (Reg.We.LAND_START z)
    let b := s.rd p (Reg.We.LAND_END z)
    upTo 32 (fun s y =>
      if s.rd p (Reg.We.LAND_STATE y) = 2 ∧ a ≤ s.rd p (Reg.We.LAND_START y) ∧ s.rd p (Reg.We.LAND_END y) ≤ b then landFree s i y else s)
      (landFree s i z)
  else if s.rd p (Reg.We.LAND_END z) < (off + done) / 128 then landFree s i z
  else (s.wr p (Reg.We.LAND_START z) ((off + done) / 128)).wr p (Reg.We.LAND_STATE z) 2

/-- R221: clearing frees every entry. -/
def landClear (s : State) (i : Nat) : State :=
  landCount (upTo 32 (fun s z => s.wr (wellP i) (Reg.We.LAND_STATE z) 0) s) i

end Sys2Proof.Machine
end

