-- ==== Sys2Proof/Machine/Image.lean ====
section
/-! DEFINITION. Weight images (R216 to R220): the format checks of a chunk and its SHA-256 digest. -/

namespace Sys2Proof.Machine

/-! ### SHA-256 (FIPS 180-4, R220) -/

/-- Round constants. -/
def shaK : List Nat :=
  [0x428A2F98, 0x71374491, 0xB5C0FBCF, 0xE9B5DBA5, 0x3956C25B, 0x59F111F1, 0x923F82A4, 0xAB1C5ED5,
    0xD807AA98, 0x12835B01, 0x243185BE, 0x550C7DC3, 0x72BE5D74, 0x80DEB1FE, 0x9BDC06A7, 0xC19BF174,
    0xE49B69C1, 0xEFBE4786, 0x0FC19DC6, 0x240CA1CC, 0x2DE92C6F, 0x4A7484AA, 0x5CB0A9DC, 0x76F988DA,
    0x983E5152, 0xA831C66D, 0xB00327C8, 0xBF597FC7, 0xC6E00BF3, 0xD5A79147, 0x06CA6351, 0x14292967] ++
  [0x27B70A85, 0x2E1B2138, 0x4D2C6DFC, 0x53380D13, 0x650A7354, 0x766A0ABB, 0x81C2C92E, 0x92722C85,
    0xA2BFE8A1, 0xA81A664B, 0xC24B8B70, 0xC76C51A3, 0xD192E819, 0xD6990624, 0xF40E3585, 0x106AA070,
    0x19A4C116, 0x1E376C08, 0x2748774C, 0x34B0BCB5, 0x391C0CB3, 0x4ED8AA4A, 0x5B9CCA4F, 0x682E6FF3,
    0x748F82EE, 0x78A5636F, 0x84C87814, 0x8CC70208, 0x90BEFFFA, 0xA4506CEB, 0xBEF9A3F7, 0xC67178F2]

/-- Initial hash value. -/
def shaInit : List Nat :=
  [0x6A09E667, 0xBB67AE85, 0x3C6EF372, 0xA54FF53A, 0x510E527F, 0x9B05688C, 0x1F83D9AB, 0x5BE0CD19]

/-- Rotation of a 32-bit word to the right. -/
def rotr (x n : Nat) : Nat := x / 2 ^ n + x % 2 ^ n * 2 ^ (32 - n)

/-- The message schedule from the 16 words of a block. -/
def shaSchedule (w : List Nat) : List Nat :=
  (List.range 48).foldl (fun (w : List Nat) t =>
    let g := fun (k : Nat) => w.getD (16 + t - k) 0
    let s0 := rotr (g 15) 7 ^^^ rotr (g 15) 18 ^^^ (g 15 / 2 ^ 3)
    let s1 := rotr (g 2) 17 ^^^ rotr (g 2) 19 ^^^ (g 2 / 2 ^ 10)
    w ++ [(g 16 + s0 + g 7 + s1) % 2 ^ 32]) w

/-- One round. -/
def shaRound (v : List Nat) (kw : Nat) : List Nat :=
  match v with
  | [a, b, c, d, e, f, g, h] =>
    let s1 := rotr e 6 ^^^ rotr e 11 ^^^ rotr e 25
    let ch := (e &&& f) ^^^ ((0xFFFFFFFF - e) &&& g)
    let t1 := h + s1 + ch + kw
    let s0 := rotr a 2 ^^^ rotr a 13 ^^^ rotr a 22
    let mj := (a &&& b) ^^^ (a &&& c) ^^^ (b &&& c)
    [(t1 + s0 + mj) % 2 ^ 32, a, b, c, (d + t1) % 2 ^ 32, e, f, g]
  | _ => v

/-- Big-endian words of the 64 bytes of a little-endian number. -/
def shaWords (x : Nat) : List Nat :=
  (List.range 16).map (fun t => (List.range 4).foldl (fun a j => a * 256 + bits x (8 * (4 * t + j)) 8) 0)

/-- Folds one 64-byte block into the hash. -/
def shaBlock (h : List Nat) (x : Nat) : List Nat :=
  let kws := List.zipWith (· + ·) shaK (shaSchedule (shaWords x))
  List.zipWith (fun a b => (a + b) % 2 ^ 32) h (kws.foldl shaRound h)

/-- The digest as a number whose byte i is output byte i. -/
def shaBytes (h : List Nat) : Nat :=
  h.zipIdx.foldl (fun acc p => acc + ((List.range 4).foldl (fun a j => a + bits p.1 (8 * (3 - j)) 8 * 256 ^ j) 0) * 256 ^ (4 * p.2)) 0

/-! ### Chunks (R216, R217, R219) -/

/-- Line `l` of the chunk at memory key `base`. -/
def chunkLine (s : State) (base l : Nat) : Nat := memRead s.mem (base + 128 * l) 128

/-- R220: the digest of a chunk. -/
def chunkDigest (s : State) (base : Nat) : Nat :=
  let h := (List.range 16383).foldl (fun h b => shaBlock h (memRead s.mem (base + 64 * b) 64)) shaInit
  let tail := memRead s.mem (base + 64 * 16383) 32 + 0x80 * 256 ^ 32 +
    (List.range 8).foldl (fun a j => a + bits (8 * 1048544) (8 * (7 - j)) 8 * 256 ^ (56 + j)) 0
  shaBytes (shaBlock h tail)

/-- R217: a field of a trailer. -/
def trField (t b n : Nat) : Nat := bits t (8 * b) (8 * n)

/-- R219 check 3. -/
def imageFmtOk (tf wf piece : Nat) : Bool :=
  if 8 ≤ wf ∧ wf ≤ 11 then tf = wf && piece = 0
  else if wf = 13 then decide (piece ≤ 1) && tf = (if piece = 0 then 11 else 12)
  else if wf = 14 then decide (piece ≤ 2) && tf = (if piece = 0 then 11 else 12)
  else false

/-- R216: record line of side line `k` of a tile with `ns` side lines. -/
def sideAt (ns k : Nat) : Nat := 128 + (List.range (k % 4)).foldl (fun a b => a + cdiv (ns - b) 4) 0 + k / 4

/-- R219 checks 6 to 8 on the tile record at line `r` of a chunk. -/
def tileOk (s : State) (base r mode ns : Nat) : Bool :=
  (mode != 2 || (List.range 128).all (fun l =>
    let x := chunkLine s base (r + l)
    (List.range 512).all (fun n => bits x (2 * n) 2 != 2))) &&
  (List.range (if mode = 0 then 8 else 4)).all (fun k =>
    let x := chunkLine s base (r + sideAt ns (18 + k))
    (List.range 128).all (fun b => bits x (8 * b) 8 != 0x80)) &&
  (mode < 3 || (List.range 8).all (fun g => (List.range 64).all (fun k =>
    let b := ((g * 128 + 64 + k) * 2) * 9
    let at_ := fun (p : Nat) => bits (chunkLine s base (r + sideAt ns (p / 1024))) (p % 1024) 1
    (List.range 18).all (fun j => at_ (b + j) = 0))))

/-- R219: what a trailer tells of its chunk's image: IMAGE_ID, IMAGE_VER and CHUNK_INDEX. -/
def chunkId (s : State) (base : Nat) : Nat × Nat × Nat :=
  let t := chunkLine s base 8191
  (trField t 8 4, trField t 12 4, trField t 16 4)

/-- R219, R220: the status of a chunk: 0, IMAGE_FORMAT or IMAGE_DIGEST; `prev` is the waybill's chunk before it. -/
def chunkStatus (s : State) (base : Nat) (prev : Option (Nat × Nat × Nat)) : Nat :=
  let t := chunkLine s base 8191
  let id := chunkId s base
  let tf := trField t 24 1 % 16
  let fine := bits t (24 * 8 + 4) 1
  let wf := trField t 25 1 % 16
  let piece := bits t (25 * 8 + 4) 2
  let tiles := trField t 26 2
  let mode := tf - 8
  let ns := sideLines mode fine
  let len := 128 + ns
  let follows := match prev with
    | none => true
    | some p => p.1 = id.1 && p.2.1 = id.2.1 && p.2.2 + 1 = id.2.2
  let good :=
    trField t 0 4 = 0x45474957 && trField t 4 2 = 1 && trField t 20 4 != 0 && decide (id.2.2 < trField t 20 4) && follows &&
      decide (8 ≤ tf) && decide (tf ≤ 12) && decide (8 ≤ wf) && decide (wf ≤ 14) && imageFmtOk tf wf piece &&
      tiles != 0 && decide (tiles * len ≤ 8191) &&
      trField t 6 2 = 0 && bits t (24 * 8 + 5) 3 = 0 && bits t (25 * 8 + 6) 2 = 0 && trField t 28 68 = 0 &&
      (List.range tiles).all (fun k => tileOk s base (k * len) mode ns) &&
      (List.range (8191 - tiles * len)).all (fun k => chunkLine s base (tiles * len + k) = 0)
  if !good then 7 else if chunkDigest s base = trField t 96 32 then 0 else 8

end Sys2Proof.Machine
end

