-- ==== Sys2Proof/Machine/Streams.lean ====
section
/-! DEFINITION. The two sides of a stream's direction (R175, R184): opening a transfer, sending its envelopes,
acknowledgement, reordering, and retransmission (R185). -/

namespace Sys2Proof.Machine

/-- Serial arithmetic modulo 2^24: how far `a` lies after `b`. -/
def seqAfter (a b : Nat) : Nat := (a + 2 ^ 24 - b % 2 ^ 24) % 2 ^ 24

/-- R177: the payload of an OPEN. -/
def openData (addr len num : Nat) : Nat := addr % 2 ^ 64 + len % 2 ^ 32 * 2 ^ 64 + num % 2 ^ 32 * 2 ^ 96

/-- R177: the payload of a DONE: status, bytes delivered, last sequence delivered, transfer number. -/
def doneData (st bytes seq num : Nat) : Nat := st % 256 + bytes % 2 ^ 32 * 2 ^ 32 + seq % 2 ^ 24 * 2 ^ 64 + num % 2 ^ 32 * 2 ^ 96

/-! ### Sending -/

/-- R188: the region whose number an endpoint's envelopes carry: the NI's own, or that of a hub's transfer. -/
def envRegion (s : State) (ep r : Nat) : Nat := if ep < 256 then actRegion s ep else r

/-- R176: the envelope of outbound stream `k` at the stream's next sequence. -/
def streamEnv (s : State) (ep k : Nat) (m : Stream) (p : Pay) : Env :=
  { kind := BitVec.ofNat 4 p.kind, poison := p.poison, dst := BitVec.ofNat 8 m.dst, src := BitVec.ofNat 8 (epCode s ep)
    stream := BitVec.ofNat 9 k, region := BitVec.ofNat 4 (envRegion s ep m.region)
    sepoch := BitVec.ofNat 3 (s.rd (epPage ep) (Reg.Cn.SEPOCH k)), seq := BitVec.ofNat 24 (s.rd (epPage ep) (Reg.Cn.STREAM_OUT_SEQ k))
    words := BitVec.ofNat 3 (p.words - 1), last := p.last, circ := m.circ, mask := if m.circ then BitVec.ofNat 16 m.mask else 0
    data := BitVec.ofNat 384 p.data }

/-- R176: the envelope of the response direction of context `k`. -/
def ctxEnv (s : State) (ep : Nat) (c : Ctx) (seq : Nat) (p : Pay) : Env :=
  { kind := BitVec.ofNat 4 p.kind, poison := p.poison, dst := BitVec.ofNat 8 c.src, src := BitVec.ofNat 8 (epCode s ep)
    stream := BitVec.ofNat 9 c.stream, region := BitVec.ofNat 4 (envRegion s ep c.region), sepoch := BitVec.ofNat 3 c.epoch
    seq := BitVec.ofNat 24 seq, words := BitVec.ofNat 3 (p.words - 1), last := p.last, data := BitVec.ofNat 384 p.data }

/-- R193: the targets of a circular that its two branches serve: east or south, west or north. -/
def circBranches (s : State) (i axis mask : Nat) : Nat × Nat :=
  let q := actRect s i
  let w := gridW s
  let j := (logOf s i).getD 0
  let ring := if axis = 0 then actFullX s i else actFullY s i
  let n := if axis = 0 then w else 16
  let me := if axis = 0 then j % w else j / w
  let pick := fun (east : Bool) => upTo n (fun a t =>
    if bits mask t 1 = 0 ∨ t = me then a
    else
      let jt := if axis = 0 then j / w * w + t else t * w + j % w
      let rel := if axis = 0 then (relOf s q j).2 else (relOf s q j).1
      let rt := if axis = 0 then (relOf s q jt).2 else (relOf s q jt).1
      let e := if ring then decide ((t + n - me) % n ≤ cdiv (n - 1) 2) else decide (rel < rt)
      if e = east then a + 2 ^ t else a) 0
  (pick true, pick false)

/-- R193: a circular's envelope leaves in its two branches. -/
def sendCirc (s : State) (i r axis : Nat) (e : Env) : State :=
  let b := circBranches s i axis e.mask.toNat
  let one := fun (s : State) (m : Nat) => if m = 0 then s else sendEnv s i r false false 0 { e with mask := BitVec.ofNat 16 m }
  one (one s b.1) b.2

/-- R237, R261: an envelope of outbound stream `m` leaves: on the panel, or as a fabric word. A collective's slice
leaves by its ring's first port (R253). -/
def emitOut (s : State) (ep : Nat) (m : Stream) (axis attempt : Nat) (e : Env) : State :=
  if m.panel = 4096 then
    if m.circ then sendCirc s ep m.region axis e else sendEnv s ep m.region false m.direct attempt e
  else
    let h := ep - 256
    match m.via with
    | some p =>
      if portUp s h p then leaveBy s h p (frtEntry s h m.panel) none { t := newTag s h m.panel (classOf e.kind.toNat false) attempt, e := e } else s
    | none => (fabSend s h m.panel false attempt e).1

/-- R237: an envelope that endpoint `ep` returns to the source of context `c`. -/
def emitBack (s : State) (ep : Nat) (c : Ctx) (e : Env) : State :=
  if c.panel = 4096 then sendBack s ep c.region true c.tx.attempt e
  else (fabSend s (ep - 256) c.panel true c.tx.attempt e).1

/-- R184: an ACK of the request direction of context `c`. -/
def ctxAck (s : State) (ep : Nat) (c : Ctx) (seq : Nat) (busy : Bool) : State :=
  let e := { (ctxEnv s ep c seq { kind := 5, words := 1, last := false, poison := false, data := 0 }) with mask := if busy then 1 else 0 }
  let s := if busy && decide (ep < 256) then s.setBit (cniP ep) Reg.Cn.BUSY_SENT else s
  emitBack s ep c e

/-- R184: an ACK of the response direction of outbound stream `k`. -/
def streamAck (s : State) (ep k : Nat) (m : Stream) (seq : Nat) : State :=
  let e := { (streamEnv s ep k m { kind := 5, words := 1, last := false, poison := false, data := 0 }) with seq := BitVec.ofNat 24 seq }
  if m.panel = 4096 then sendBack s ep m.region false 0 e else (fabSend s (ep - 256) m.panel true 0 e).1

/-- R188, R349: whether the budgets of site `i` let an envelope toward `dst` leave, and what it counts. `bytes` count
against the hub. -/
def charge (s : State) (i dst bytes : Nat) : State × Bool :=
  let p := budP i
  let st := s.site i
  let lim := s.rd p Reg.Bu.BUD_COURIER * 16
  let h := dst - 0xF0
  let hl := if 0xF0 ≤ dst then s.rd p (Reg.Bu.BUD_HUB h) * 4096 else 0
  let uh := tabGet (fun _ => 0) st.uHub h
  if lim ≠ 0 ∧ lim ≤ st.uCour then (s.orBits p Reg.Bu.BUD_HIT 32, false)
  else if hl ≠ 0 ∧ hl < uh + bytes then ((s.orBits p Reg.Bu.BUD_HIT 64).orBits p Reg.Bu.HUB_HIT (2 ^ h), false)
  else
    (s.setSite i { st with
      uCour := st.uCour + 1
      uHub := if 0xF0 ≤ dst then tabSet (fun _ => 0) st.uHub h (uh + bytes) else st.uHub }, true)

/-- R349: bytes that an envelope of stream `m` counts against its hub. -/
def hubBytes (m : Stream) (p : Pay) : Nat := if p.kind = 3 then 8 * p.words else if p.kind = 2 then m.len else 0

/-- R189, R193: axis of the waybill that a stream carries. -/
def axisOf (s : State) (ep : Nat) (m : Stream) : Nat :=
  if m.job ≠ 1 then 0 else ((s.site ep).wbs.find? (fun w => w.num = m.ref)).elim 0 (fun w => bits w.wb 17 1)

/-- R184: the next envelope of outbound stream `k` leaves, if window, injection and budgets allow. -/
def sendNext (s : State) (ep k : Nat) : State :=
  let m := s.stream ep k
  match m.tx.queue with
  | [] => s
  | p :: rest =>
    let ni := if m.panel = 4096 then niOf s ep m.region else some 0
    match ni with
    | none => s
    | some i =>
      if streamState s ep k ≠ 1 ∨ m.tx.wait ∨ m.tx.broken ∨ 64 ≤ m.tx.win.length ∨ (m.panel = 4096 ∧ injStopped s i) then s
      else
        let r := if ep < 256 then charge s ep m.dst (hubBytes m p)
          else if m.job = 3 then
            match gateOf s m.region (ep - 256) with
            | some g => charge s g (ep - 256 + 0xF0) (hubBytes m p)
            | none => (s, true)
          else (s, true)
        let s := r.1
        if !r.2 then s
        else
          let e := streamEnv s ep k m p
          let s := emitOut s ep m (axisOf s ep m) (s.rd (epPage ep) (Reg.Cn.ATTEMPT k)) e
          let s := s.wr (epPage ep) (Reg.Cn.STREAM_OUT_SEQ k) (s.rd (epPage ep) (Reg.Cn.STREAM_OUT_SEQ k) + 1)
          s.setStream ep k { m with tx := { m.tx with queue := rest, win := m.tx.win ++ [e], sent := some e } }

/-- R185, R187: the next envelope of the response direction of context `k` leaves. -/
def sendResp (s : State) (ep k : Nat) : State :=
  let c := s.ctx ep k
  match c.tx.queue with
  | [] => s
  | p :: rest =>
    let ni := if c.panel = 4096 then niOf s ep c.region else some 0
    match ni with
    | none => s
    | some i =>
      if !c.live ∨ c.tx.broken ∨ 64 ≤ c.tx.win.length ∨ (c.panel = 4096 ∧ injStopped s i) then s
      else
        let r := if p.kind = 3 ∧ ep < 256 then charge s ep c.src 0 else (s, true)
        let s := r.1
        if !r.2 then s
        else
          let e := ctxEnv s ep c c.tx.next p
          let s := emitBack s ep c e
          s.setCtx ep k { c with tx := { c.tx with queue := rest, win := c.tx.win ++ [e], next := (c.tx.next + 1) % 2 ^ 24 } }

/-! ### Acknowledgement and order (R184) -/

/-- R184: drops what an ACK of `seq` covers from a window; how many it was. -/
def txAck (t : Tx) (seq : Nat) : Tx × Nat :=
  let rest := t.win.filter (fun e => decide (0 < seqAfter e.seq.toNat seq) && decide (seqAfter e.seq.toNat seq < 2 ^ 23))
  ({ t with win := rest }, t.win.length - rest.length)

/-- What becomes of a received envelope (R184). -/
inductive Got where
  | fresh
  | dup
  | beyond
  deriving DecidableEq, Repr

/-- R184: where a sequence falls in a reorder window. -/
def rxGot (x : Rx) (seq : Nat) : Got :=
  let d := seqAfter seq x.last
  if d = 0 ∨ 2 ^ 23 ≤ d ∨ x.held.any (fun e => e.seq.toNat = seq) then .dup else if 64 < d then .beyond else .fresh

/-- Files a fresh envelope in sequence order. -/
def rxHold (x : Rx) (e : Env) : Rx :=
  let d := fun (y : Env) => seqAfter y.seq.toNat x.last
  { x with held := x.held.filter (fun y => decide (d y < d e)) ++ [e] ++ x.held.filter (fun y => decide (d e < d y)) }

/-- R184: the next envelope to hand on, if it has come. -/
def rxNext (x : Rx) : Option Env :=
  match x.held[x.fwd]? with
  | some e => if seqAfter e.seq.toNat x.last = x.fwd + 1 then some e else none
  | none => none

/-- R184: the oldest envelope handed on is delivered. -/
def rxDone (x : Rx) : Rx :=
  match x.held with
  | [] => x
  | e :: t => { x with last := e.seq.toNat, held := t, fwd := x.fwd - 1, since := x.since + 1 }

/-! ### Retransmission (R185) -/

/-- R185: notes `n` resent envelopes. -/
def countRetrans (s : State) (ep n : Nat) : State := if ep < 256 then s.bump (cniP ep) Reg.Cn.RETRANS_CNT n else s

/-- The down cache of an endpoint. -/
def downOf (s : State) (ep : Nat) : List (Nat × Nat) := if ep < 256 then (s.site ep).down else (s.hub (ep - 256)).down

/-- R185: enters a link in the down cache of 16 links. -/
def noteDown (s : State) (ep : Nat) (l : Nat × Nat) : State :=
  let d := ((downOf s ep).filter (fun x => x != l) ++ [l])
  let d := d.drop (d.length - 16)
  if ep < 256 then s.setSite ep { (s.site ep) with down := d } else s.setHub (ep - 256) { (s.hub (ep - 256)) with down := d }

/-- R185: the next attempt of a direction whose first NI is `i`; fabric legs take the next number. -/
def attemptAfter (s : State) (ep panel r src dst stream a : Nat) (direct : Bool) : Option Nat :=
  if panel ≠ 4096 then (if a < 3 then some (a + 1) else none)
  else match niOf s ep r with
    | none => none
    | some i => nextAttempt s i (downOf s ep) src dst stream a direct

/-- R185 steps 2 and 3 for the request direction; `none` when no attempt is left. -/
def resend (s : State) (ep k : Nat) : Option State :=
  let m := s.stream ep k
  let p := epPage ep
  match attemptAfter s ep m.panel m.region (epCode s ep) m.dst k (s.rd p (Reg.Cn.ATTEMPT k)) m.direct with
  | none => none
  | some a =>
    let s := s.wr p (Reg.Cn.ATTEMPT k) a
    let s := m.tx.win.foldl (fun s e => emitOut s ep m 0 a e) s
    some ((countRetrans s ep m.tx.win.length).setStream ep k { m with retried := true, tx := { m.tx with wait := false } })

/-- R185 for the response direction of context `k`. -/
def resendBack (s : State) (ep k : Nat) : Option State :=
  let c := s.ctx ep k
  match attemptAfter s ep c.panel c.region (epCode s ep) c.src c.stream c.tx.attempt false with
  | none => none
  | some a =>
    let c := { c with tx := { c.tx with attempt := a } }
    let s := s.setCtx ep k c
    let s := c.tx.win.foldl (fun s e =>
      if c.panel = 4096 then sendEnv s ep c.region true false a e else (fabSend s (ep - 256) c.panel true a e).1) s
    some (countRetrans s ep c.tx.win.length)

/-! ### Opening (R180, R187) -/

/-- R186, R187: outbound stream `k` takes a transfer: its OPEN waits to be sent. -/
def openStream (s : State) (ep k : Nat) (m : Stream) : State :=
  let p := epPage ep
  let s := (setStreamState s ep k 1).wr p (Reg.Cn.ATTEMPT k) 0
  let s0 := s.rd p (Reg.Cn.STREAM_OUT_SEQ k)
  let o : Pay := { kind := if m.write then 1 else 2, words := 6, last := !m.write, poison := false, data := openData m.addr m.len m.num }
  s.setStream ep k { m with s0 := s0, tx := { queue := [o] }, rx := { last := s0 } }

/-- R185: bytes of a write that the sequences up to `seq` carry. -/
def bytesUpTo (m : Stream) (seq : Nat) : Nat :=
  let d := seqAfter seq m.s0
  if 2 ^ 23 ≤ d then 0 else min m.len (48 * d)

/-- R185: the last sequence that the destination has acknowledged. -/
def ackedSeq (s : State) (ep k : Nat) : Nat :=
  match (s.stream ep k).tx.win with
  | e :: _ => (e.seq.toNat + 2 ^ 24 - 1) % 2 ^ 24
  | [] => (s.rd (epPage ep) (Reg.Cn.STREAM_OUT_SEQ k) + 2 ^ 24 - 1) % 2 ^ 24

/-- R224: outbound contexts that region `r` has in use at hub `h`, and inbound ones. -/
def outUsed (s : State) (h r : Nat) : Nat :=
  (s.streams.filter (fun x => x.1 / 512 = 256 + h && x.2.job != 0 && x.2.region = r)).length
def inUsed (s : State) (h r : Nat) : Nat :=
  (s.ctxs.filter (fun x => x.1 / 512 = 256 + h && x.2.live && x.2.region = r)).length

/-- R224: an idle outbound context of hub `h` within region `r`'s quota. -/
def hubStream (s : State) (h r : Nat) : Option Nat :=
  if s.rd (hubP h 0) (Reg.Hu.OUT_Q r) ≤ outUsed s h r then none
  else (List.range 512).find? (fun k => streamState s (256 + h) k = 0 && (s.stream (256 + h) k).job = 0)

end Sys2Proof.Machine
end

