-- ==== Sys2Proof/Machine/CollCore.lean ====
section
/-! DEFINITION. The collective engine's data (R252 to R261): descriptors, segments and slices, what a member sends
next, and what it makes of a slice it receives. -/

namespace Sys2Proof.Machine

/-! ### Descriptors (R254) -/

def dOp (d : Nat) : Nat := bits d 4 4
def dRed (d : Nat) : Nat := bits d 8 4
def dType (d : Nat) : Nat := bits d 12 4
def dGroup (d : Nat) : Nat := bits d 16 4
def dRoot (d : Nat) : Nat := bits d 24 8
def dLen (d : Nat) : Nat := bits d 32 32
def dSrc (d : Nat) : Nat := bits d 64 64
def dDst (d : Nat) : Nat := bits d 128 64
def dFc (d : Nat) : Nat := bits d 192 48
def dCq (d : Nat) : Nat := bits d 240 8
def dTag (d : Nat) : Nat := bits d 256 64
def dId (d : Nat) : Nat := bits d 320 24

/-! ### Groups (R253) -/

def State.slot (s : State) (h g : Nat) : CSlot := tabGet (fun _ => {}) (s.hub h).coll g

def State.setSlot (s : State) (h g : Nat) (v : CSlot) : State :=
  s.setHub h { (s.hub h) with coll := tabSet (fun _ => {}) (s.hub h).coll g v }

def grpM (s : State) (h g : Nat) : Nat := s.rd (collP h) (Reg.Cl.M_MINUS_1 g) + 1
def grpPos (s : State) (h g : Nat) : Nat := s.rd (collP h) (Reg.Cl.POS g)
def grpRegion (s : State) (h g : Nat) : Nat := s.rd (collP h) (Reg.Cl.REGION g)
def grpPanel (s : State) (h g q : Nat) : Nat := s.rd (collP h) (Reg.Cl.PANEL (256 * g + q))

/-- R256: members that follow and precede this one. -/
def grpNext (s : State) (h g : Nat) : Nat := (grpPos s h g + 1) % grpM s h g
def grpPrev (s : State) (h g : Nat) : Nat := (grpPos s h g + grpM s h g - 1) % grpM s h g

/-- R256: bytes of SRC and DST. -/
def srcLen (s : State) (h g d : Nat) : Nat := if dOp d = 2 then dLen d else grpM s h g * dLen d
def dstLen (s : State) (h g d : Nat) : Nat := if dOp d = 1 then dLen d else grpM s h g * dLen d

/-- R256, R346: staging that an operation needs, in 64 KiB units. -/
def stagingOf (d : Nat) : Nat := cdiv ((if dOp d = 5 then 8 else 3) * dLen d) 65536

/-! ### Slices (R258) -/

def sliceBytes : Nat := 16384
def slices (l : Nat) : Nat := cdiv l sliceBytes
def sliceLen (l j : Nat) : Nat := min sliceBytes (l - sliceBytes * j)
def allSlices (l : Nat) : Nat := 2 ^ slices l - 1

def CRun.seg (r : CRun) (k : Nat) : CSeg := tabGet (fun _ => {}) r.segs k
def CRun.setSeg (r : CRun) (k : Nat) (v : CSeg) : CRun := { r with segs := tabSet (fun _ => {}) r.segs k v }

/-- Bytes of segment `k` of the operation's SRC. -/
def srcSeg (s : State) (r : CRun) (k : Nat) : Line :=
  match dataKey s (dSrc r.desc + k * dLen r.desc) with
  | some a => s.take a (dLen r.desc / 8)
  | none => ⟨0, 0⟩

/-- Replaces slice `j` of a segment. -/
def putSlice (v : CSeg) (l j data poison : Nat) : CSeg :=
  let n := sliceLen l j
  let o := sliceBytes * j
  { v with
    val := v.val - bits v.val (8 * o) (8 * n) * 2 ^ (8 * o) + data % 2 ^ (8 * n) * 2 ^ (8 * o)
    poison := v.poison - bits v.poison (o / 8) (n / 8) * 2 ^ (o / 8) + poison % 2 ^ (n / 8) * 2 ^ (o / 8) }

/-- R257: element type. -/
def collFp (t : Nat) : Fp := if t = 0 then .fp32 else if t = 1 then .fp16 else .bf16

/-- R257: ⊕ on two codes. -/
def collElem (red : Nat) (f : Fp) (a b : Nat) : Nat :=
  (ewElem (if red = 0 then .add else if red = 1 then .max else .min) f a b 0 0).code

/-- R257: ⊕ over `n` bytes: the received partial, then this member's contribution. -/
def collCombine (red t a b n : Nat) : Nat :=
  let f := collFp t
  let w := 8 * f.bytes
  (List.range (n / f.bytes)).foldr (fun e acc => acc * 2 ^ w + collElem red f (bits a (w * e) w) (bits b (w * e) w)) 0

/-- R176, R257: a poisoned word poisons its envelope's six words. -/
def envMarks (pm n : Nat) : Nat :=
  (List.range (cdiv (n / 8) 6)).foldl (fun acc j => if bits pm (6 * j) 6 = 0 then acc else acc ||| (2 ^ 6 - 1) * 2 ^ (6 * j)) 0

/-- R177: the DATA envelopes of a slice. -/
def slicePays (data poison n : Nat) : List Pay :=
  (List.range (cdiv n 48)).map (fun j =>
    let w := min 6 (n / 8 - 6 * j)
    { kind := 3, words := w, last := decide (cdiv n 48 = j + 1), poison := bits poison (6 * j) w != 0, data := bits data (384 * j) (64 * w) })

/-- The number under which a slice's stream is kept: slot, segment, slice, half, receiver. -/
def sliceRef (g k j half q : Nat) : Nat := (((g * 256 + k) * 128 + j) * 4 + half) * 256 + q

def refSlot (x : Nat) : Nat := x / 256 / 4 / 128 / 256
def refSeg (x : Nat) : Nat := x / 256 / 4 / 128 % 256
def refSlice (x : Nat) : Nat := x / 256 / 4 % 128
def refHalf (x : Nat) : Nat := x / 256 % 4
def refTo (x : Nat) : Nat := x % 256

/-- R258: opens the stream of one slice. -/
def sendSlice (s : State) (h g : Nat) (r : CRun) (x : Nat × Nat × Nat × Nat) (k : Nat) : State :=
  let (seg, j, half, q) := x
  let ep := 256 + h
  let d := r.desc
  let l := dLen d
  let own := grpPos s h g
  let v := if half = 2 then srcSeg s r seg else ⟨(r.seg seg).val, (r.seg seg).poison⟩
  let n := sliceLen l j
  let tag := if half = 2 then own else seg
  let panel := grpPanel s h g q
  let ix := 256 * g + own
  let port := if r.backup then s.rd (collP h) (Reg.Cl.BPORT ix) else s.rd (collP h) (Reg.Cl.PPORT ix)
  let addr := panel * 2 ^ 48 + 0xFF * 2 ^ 40 + tag * 2 ^ 32 + s.rd (collP h) (Reg.Cl.EPOCH g) * 2 ^ 16 + s.rd (collP h) (Reg.Cl.GROUP_ID g)
  let m : Stream := {
    job := 3, ref := sliceRef g seg j half q, write := true, dst := 0xF0 + h, panel := panel, region := grpRegion s h g
    addr := addr, len := n, num := dId d * 256 + j, via := if half = 2 then none else some port }
  let s := openStream s ep k m
  let s := if r.backup && half != 2 then s.wr (epPage ep) (Reg.Cn.ATTEMPT k) 1 else s
  let m := s.stream ep k
  s.setStream ep k { m with tx := { m.tx with
    queue := m.tx.queue ++ slicePays (bits v.data (8 * sliceBytes * j) (8 * n)) (bits v.poison (sliceBytes * j / 8) (n / 8)) n } }

/-- R258: opens streams for the slices that wait, at most 128 at once. -/
def collPump (s : State) (h g : Nat) : State :=
  upTo 128 (fun s _ =>
    match (s.slot h g).run with
    | none => s
    | some r =>
      let live := (s.streams.filter (fun x => x.1 / 512 = 256 + h && x.2.job = 3 && refSlot x.2.ref = g)).length
      match r.sends, hubStream s h (grpRegion s h g) with
      | x :: rest, some k =>
        if r.cut || decide (128 ≤ live) then s
        else
          let r := { r with sends := rest }
          sendSlice (s.setSlot h g { (s.slot h g) with run := some r }) h g r x k
      | _, _ => s) s

/-- Adds every slice of segment `k` to what waits. -/
def queueSeg (r : CRun) (k half q : Nat) : CRun :=
  { r with sends := r.sends ++ (List.range (slices (dLen r.desc))).map (fun j => (k, j, half, q)) }

/-- R256: what an operation does at its start. -/
def collBegin (s : State) (h g : Nat) (r : CRun) : CRun :=
  let p := grpPos s h g
  let m := grpM s h g
  let q := grpNext s h g
  let fin := fun (r : CRun) (k : Nat) (l : Line) => r.setSeg k { (r.seg k) with val := l.data, poison := l.poison, fin := true }
  match dOp r.desc with
  | 1 | 3 =>
    let k := grpPrev s h g
    let l := srcSeg s r k
    queueSeg (r.setSeg k { (r.seg k) with val := l.data, poison := l.poison }) k 0 q
  | 2 => queueSeg (fin r p (srcSeg s r 0)) p 1 q
  | 4 => if dRoot r.desc = p then upTo m (fun r k => queueSeg (fin r k (srcSeg s r k)) k 1 q) r else r
  | _ => upTo m (fun r k => if k = p then fin r p (srcSeg s r p) else queueSeg r k 2 k) r

/-- R259: the half that a slice of segment `k` belongs to now. -/
def sliceHalf (s : State) (h g : Nat) (r : CRun) (k : Nat) : Nat :=
  let v := r.seg k
  let full := allSlices (dLen r.desc)
  match dOp r.desc with
  | 1 => 0
  | 3 => if k = grpPrev s h g ∨ (v.red = full ∧ (k = grpPos s h g ∨ v.acked = full)) then 1 else 0
  | _ => 1

/-- R256: takes a whole received slice. -/
def collSliceIn (s : State) (h g k j half data poison : Nat) : State :=
  match (s.slot h g).run with
  | none => s
  | some r =>
    let l := dLen r.desc
    let n := sliceLen l j
    let p := grpPos s h g
    let q := grpNext s h g
    let v := r.seg k
    let r :=
      if half = 0 then
        let own := srcSeg s r k
        let mine := bits own.data (8 * sliceBytes * j) (8 * n)
        let pm := envMarks (poison ||| bits own.poison (sliceBytes * j / 8) (n / 8)) n
        let v := { putSlice v l j (collCombine (dRed r.desc) (dType r.desc) data mine n) pm with red := v.red ||| 2 ^ j }
        if v.red = allSlices l then
          if k = p then
            let r := r.setSeg k { v with fin := true }
            if dOp r.desc = 3 then queueSeg r k 1 q else r
          else queueSeg (r.setSeg k v) k 0 q
        else r.setSeg k v
      else
        let v := { putSlice v l j data poison with gat := v.gat ||| 2 ^ j }
        if v.gat = allSlices l then
          let r := r.setSeg k { v with fin := true }
          let stop := if dOp r.desc = 4 then q = dRoot r.desc else if dOp r.desc = 5 then true else q = k
          if stop then r else queueSeg r k 1 q
        else r.setSeg k v
    collPump (s.setSlot h g { (s.slot h g) with run := some r }) h g

/-- What a member answers to a collective OPEN_WR (R259). -/
inductive CollAns where
  | refuse (st : Nat)
  | stale
  | busy
  | accept (ref : Nat)
  deriving DecidableEq, Repr

/-- R259: checks 1 to 5 on an OPEN_WR from panel `spanel`. -/
def collOpen (s : State) (h spanel addr len num : Nat) : CollAns :=
  let c := collP h
  match (List.range 16).find? (fun g => s.rd c (Reg.Cl.ENABLE g) = 1 && s.rd c (Reg.Cl.GROUP_ID g) = addr % 65536) with
  | none => .refuse 9
  | some g =>
    let d := (bits addr 16 16 + 65536 - s.rd c (Reg.Cl.EPOCH g)) % 65536
    let id := bits num 8 24
    let j := num % 256
    let k := bits addr 32 8
    if 32768 ≤ d then .stale
    else if d ≠ 0 then .busy
    else if (s.slot h g).doneIds.contains id then .refuse 0
    else match (s.slot h g).run with
      | none => .busy
      | some r =>
        if dId r.desc ≠ id then .busy
        else
          let p := grpPos s h g
          let half := sliceHalf s h g r k
          let v := r.seg k
          let have_ := if half = 0 then v.red else v.gat
          let due := decide (k < grpM s h g) && decide (j < slices (dLen r.desc)) && len = sliceLen (dLen r.desc) j && (match dOp r.desc with
            | 1 => k != grpPrev s h g && spanel = grpPanel s h g (grpPrev s h g)
            | 2 => k != p && spanel = grpPanel s h g (grpPrev s h g)
            | 4 => p != dRoot r.desc && spanel = grpPanel s h g (grpPrev s h g)
            | 5 => k != p && spanel = grpPanel s h g k
            | _ => (half = 0 || k != p) && spanel = grpPanel s h g (grpPrev s h g))
          if bits have_ j 1 = 1 then .refuse 0 else if !due then .refuse 0x0C else .accept (sliceRef g k j half 0)

/-- R261: the hop to the successor has failed: its slices move to the backup ring, or stop. -/
def collHopFail (s : State) (h g : Nat) : State :=
  match (s.slot h g).run with
  | none => s
  | some r =>
    if dOp r.desc = 5 then s
    else if r.backup then s.setSlot h g { (s.slot h g) with run := some { r with cut := true } }
    else
      let c := collP h
      let s := (s.setBit c Reg.Cl.BACKUP_USED).bump c Reg.Cl.BACKUP_CNT 1
      let ep := 256 + h
      let mine := s.streams.filter (fun x => x.1 / 512 = ep && x.2.job = 3 && refSlot x.2.ref = g)
      let again := mine.map (fun x => (refSeg x.2.ref, refSlice x.2.ref, refHalf x.2.ref, refTo x.2.ref))
      let s := mine.foldl (fun s x =>
        let k := x.1 % 512
        let s := setStreamState s ep k 0
        let s := s.wr (epPage ep) (Reg.Cn.SEPOCH k) (s.rd (epPage ep) (Reg.Cn.SEPOCH k) + 1)
        s.setStream ep k {}) s
      collPump (s.setSlot h g { (s.slot h g) with run := some { r with backup := true, sends := again ++ r.sends } }) h g

/-! ### What an engine shows (R267) -/

/-- The running operation of a slot. -/
def State.run (s : State) (h g : Nat) : Option CRun := (s.slot h g).run

/-- Staging in use at a hub, of the slots that `sel` picks. -/
def stagingUsed (s : State) (h : Nat) (sel : Nat → Bool) : Nat :=
  (List.range 16).foldl (fun n g => match s.run h g with
    | some r => if sel g then n + stagingOf r.desc else n
    | none => n) 0

/-- RUNNING, STAGING_FREE and QUEUED. -/
def showColl (s : State) (h g : Nat) : State :=
  let c := collP h
  let run := (List.range 16).foldl (fun m k => if (s.run h k).isSome then m + 2 ^ k else m) 0
  let s := (s.wr c Reg.Cl.RUNNING run).wr c Reg.Cl.STAGING_FREE (256 - stagingUsed s h (fun _ => true))
  s.wr c (Reg.Cl.QUEUED g) (s.slot h g).queue.length

/-- R262: an operation whose record is written leaves its slot once its slices have all been taken. -/
def collReap (s : State) (h g : Nat) : State :=
  match (s.slot h g).run with
  | none => s
  | some r =>
    if r.closed && r.sends = [] && !(s.streams.any (fun x => x.1 / 512 = 256 + h && x.2.job = 3 && refSlot x.2.ref = g)) then
      showColl (s.setSlot h g { (s.slot h g) with run := none }) h g
    else s

/-- R258, R261: the stream of a slice has ended with a status. -/
def collSliceEnd (s : State) (h ref st : Nat) : State :=
  let g := refSlot ref
  match (s.slot h g).run with
  | none => s
  | some r =>
    if st = 0 then
      let v := r.seg (refSeg ref)
      let r := if refHalf ref = 0 then r.setSeg (refSeg ref) { v with acked := v.acked ||| 2 ^ refSlice ref } else r
      collReap (collPump (s.setSlot h g { (s.slot h g) with run := some r }) h g) h g
    else if st = 5 then
      if refHalf ref = 2 then s
      else collHopFail (s.setSlot h g { (s.slot h g) with run := some { r with sends := (refSeg ref, refSlice ref, refHalf ref, refTo ref) :: r.sends } }) h g
    else s.setSlot h g { (s.slot h g) with run := some { r with fail := if st = 9 ∨ st = 0x0C then st else r.fail } }

end Sys2Proof.Machine
end

