-- ==== Sys2Proof/Machine/Spaces.lean ====
section
/-! DEFINITION. The waybill spaces beside the data space: the accumulator store (R114), the program buffer (R115,
R165), and the shadow hop table with the checks of its entries (R134, R136, R137, R166). -/

namespace Sys2Proof.Machine

/-! ### Hop entries (R134 to R137) -/

def hopInW (e : Nat) : Nat := bits e 20 11
def hopInS (e : Nat) : Nat := bits e 31 6
def hopOutW (e : Nat) : Nat := bits e 37 11
def hopOutS (e : Nat) : Nat := bits e 48 6
def hopSpw (e : Nat) : Nat := bits e 54 6

/-- The side of an entry that a check reads: inbound or outbound window and slot. -/
def hopW (e : Nat) (out : Bool) : Nat := if out then hopOutW e else hopInW e
def hopS (e : Nat) (out : Bool) : Nat := if out then hopOutS e else hopInS e
def hopDir (e : Nat) (out : Bool) : Nat := if out then hopOut e else hopIn e

/-- R134: the entry uses a lane group on that side. -/
def hopSide (e : Nat) (out : Bool) : Bool := if out then hopType e != 2 else hopType e != 0

/-- Windows that an entry touches. -/
def hopWindows (e : Nat) : Nat := cdiv (hopBeats e) (hopSpw e + 1)

/-- Slots that an entry uses in window `w` of a side: how many, from its first slot. -/
def slotsIn (e : Nat) (out : Bool) (w : Nat) : Nat :=
  if w < hopW e out ∨ hopW e out + hopWindows e ≤ w then 0
  else min (hopSpw e + 1) (hopBeats e - (w - hopW e out) * (hopSpw e + 1))

/-- R137 code 4: two entries use one slot of one window of a lane group. Only an entry's last window can hold fewer
slots, so the first common window decides. -/
def hopClash (a b : Nat) (out : Bool) : Bool :=
  let w := max (hopW a out) (hopW b out)
  let na := slotsIn a out w
  let nb := slotsIn b out w
  hopSide a out && hopSide b out && hopDir a out = hopDir b out && na != 0 && nb != 0 &&
    decide (hopS a out < hopS b out + nb) && decide (hopS b out < hopS a out + na)

/-- R137 code 6: beats that relay entries `es` hold for one outbound lane group just after cycle `t`. -/
def relayHeld (s : State) (i : Nat) (es : List Nat) (t : Nat) : Nat :=
  es.foldl (fun n e => n + ((List.range (hopBeats e)).filter (fun j => deliverAt s i e j ≤ t && t < departAt s i e j)).length) 0

/-- R137: the first failing check of entry `e`, 0 for none; `old` are the entries of the table and `old.length` its
index. -/
def hopCheck (s : State) (i : Nat) (old : List Nat) (e : Nat) : Nat :=
  let ty := hopType e
  let b := fun (d : Nat) => s.rd (tniP i) (Reg.Tn.B d)
  let lim := s.frameLen i - s.slackLen i
  let n := hopBeats e
  let relay := decide (ty = 1) || decide (ty = 3)
  let q := actRect s i
  let j := (logOf s i).getD 0
  let okIn := if ty = 0 then hopIn e = 4 && hopInW e = 0 && hopInS e = 0 else decide (hopIn e < 4)
  let okOut := if ty = 2 then hopOut e = 4 && hopOutW e = 0 && hopOutS e = 0 else decide (hopOut e < 4)
  let sideBad := fun (out : Bool) => hopSide e out && decide (b (hopDir e out) ≤ hopS e out + hopSpw e)
  if !okIn || !okOut || bits e 74 54 != 0 then 1
  else if old.any (fun x => hopId x = hopId e) then 2
  else if sideBad true || sideBad false then 3
  else if old.any (fun x => hopClash x e true || hopClash x e false) then 4
  else if (hopSide e true && decide (lim ≤ departAt s i e (n - 1))) || (hopSide e false && decide (lim ≤ deliverAt s i e (n - 1) + 2)) then 5
  else if relay && ((List.range n).any (fun k => decide (departAt s i e k < deliverAt s i e k + 2)) ||
      (let es := old.filter (fun x => (hopType x = 1 || hopType x = 3) && hopOut x = hopOut e) ++ [e]
       es.any (fun x => (List.range (hopBeats x)).any (fun k => decide (128 < relayHeld s i es (deliverAt s i x k)))))) then 6
  else if ty = 3 && hopOut e != (hopIn e + 2) % 4 then 7
  else if 4096 ≤ old.length then 8
  else if (hopSide e true && !(hopInside s q j (hopOut e))) || (hopSide e false && !(hopInside s q j (hopIn e))) then 9
  else 0

/-! ### The shadow hop table (R166) -/

/-- The shadow table's number. -/
def shadowTable (s : State) (i : Nat) : Nat := 1 - s.rd (tniP i) Reg.Tn.TABLE_ACTIVE

def hopCount (s : State) (i t : Nat) : Nat := if t = 0 then (s.site i).hopN0 else (s.site i).hopN1

def setHopCount (s : State) (i t n : Nat) : State :=
  s.setSite i (if t = 0 then { (s.site i) with hopN0 := n } else { (s.site i) with hopN1 := n })

/-- R137: an entry or word is refused. -/
def hopRefuse (s : State) (i code ix : Nat) : State :=
  let p := tniP i
  let s := if s.rd p Reg.Tn.REFUSE_CODE = 0 then (s.wr p Reg.Tn.REFUSE_CODE code).wr p Reg.Tn.REFUSE_INDEX ix else s
  (s.wr p Reg.Tn.SHADOW_VALID 0).setBit p Reg.Tn.SCHED_REFUSED

/-- R166: word `k` of a hop-table section. -/
def hopWord (s : State) (i k w : Nat) : State :=
  let p := tniP i
  let t := shadowTable s i
  if k = 0 then
    let s := setHopCount { s with mem := memClear s.mem (hopAddr i t 0) 0x10000 } i t 0
    let s := (s.wr p Reg.Tn.SHADOW_VALID 0).wr p Reg.Tn.REFUSE_CODE 0
    let n := bits w 0 13
    let bad := bits w 13 115 ≠ 0 ∨ n = 0 ∨ 4096 < n
    let s := s.setSite i { (s.site i) with loadAt := 0, loadN := if bad then 0 else n }
    if bad then hopRefuse s i 1 0 else s
  else
    let n := (s.site i).loadN
    if n < k then hopRefuse s i 8 (k - 1)
    else
      let old := (List.range (hopCount s i t)).map (hopEntry s i t)
      let code := hopCheck s i old w
      if code ≠ 0 then hopRefuse s i code (k - 1)
      else
        let s := setHopCount (s.put (hopAddr i t old.length) 2 ⟨w, 0⟩) i t (old.length + 1)
        if k = n ∧ s.rd p Reg.Tn.REFUSE_CODE = 0 then s.setBit p Reg.Tn.SHADOW_VALID else s

/-- R166: a SCHED_SWAP is armed for region `r`. -/
def swapArmed (s : State) (r : Nat) : Bool :=
  (List.range 4).any (fun k => s.rd freqP (Reg.Fr.SLOT_STATE (4 * r + k)) = 1 && bits (s.rd freqP (Reg.Fr.SLOT_ACTIONS (4 * r + k))) 2 1 = 1)

/-! ### Reading and writing the spaces -/

/-- R114, R115: the core issues no bundles. -/
def coreQuiet (s : State) (c : CoreId) : Bool := s.rd (coreP c) Reg.Co.STATE != 2

/-- R114: words of the accumulator store with the poison of their groups; offset `o` in bytes, `n` words. -/
def accRead (s : State) (c : CoreId) (o n : Nat) : Line :=
  let pm := (List.range n).foldl (fun m w =>
    let a := (o + 8 * w) / 256 * 32
    if keyHas s.mem.poison (accBase c.site c.n / 8 + a) then m + 2 ^ w else m) 0
  ⟨memRead s.mem (accBase c.site c.n + o) (8 * n), pm⟩

/-- R114: a pump's write sets the poison bit of a group that receives a poisoned word, and clears none. -/
def accWrite (s : State) (c : CoreId) (o n : Nat) (l : Line) : State :=
  let a := accBase c.site c.n + o
  let s := { s with mem := { (memTail s.mem a (8 * n) l.data) with
    ce := marksPut s.mem.ce (a / 8) n 0, ue := marksPut s.mem.ue (a / 8) n 0 } }
  upTo n (fun s w => if bits l.poison w 1 = 1 then
    { s with mem := { s.mem with poison := keyAdd s.mem.poison (accBase c.site c.n / 8 + (o + 8 * w) / 256 * 32) } } else s) s

/-- R115, R165, R166: writes `n` words at offset `o` of a space of this site; `win` when the waybill's KICK opened the
core's write window. None where the write is not permitted. -/
def spaceWrite (s : State) (i space core o n : Nat) (win : Bool) (l : Line) : Option State :=
  let c : CoreId := ⟨i, core⟩
  match space with
  | 1 => if coreQuiet s c then some (accWrite s c o n l) else none
  | 2 => if coreQuiet s c || win then some (s.put (pbBase i core + o) n l) else none
  | _ =>
    if o = 0 && (s.site i).region < 16 && swapArmed s (s.site i).region then none
    else some (upTo (n / 2) (fun s k => hopWord s i (o / 16 + k) (bits l.data (128 * k) 128)) s)

/-- R333: a pump's write, mirrored to a shadow. -/
def spacePut (s : State) (i space core o n : Nat) (win : Bool) (l : Line) : Option State :=
  (spaceWrite s i space core o n win l).map (fun s =>
    if space = 2 then mirrorPut s i 0 0 (pbBase i core + o - siteBase i) n l.data l.poison
    else mirrorPut s i space core o n l.data l.poison)

/-- R114: reads `n` words of the accumulator store. -/
def spaceRead (s : State) (i core o n : Nat) : Option Line :=
  let c : CoreId := ⟨i, core⟩
  if coreQuiet s c then some (accRead s c o n) else none

end Sys2Proof.Machine
end

