-- ==== Sys2Proof/Machine/Courier.lean ====
section
/-! DEFINITION. The courier plane at work (R183 to R187, R193 to R195, R446): pieces of data, contexts, what each kind
of envelope does at its receiver, and the relays of the hubs (R237). -/

namespace Sys2Proof.Machine

/-! ### Waybills held by pumps (R189) -/

def wbVer (w : Nat) : Nat := bits w 0 4
def wbOp (w : Nat) : Nat := bits w 4 4
def wbSrcSp (w : Nat) : Nat := bits w 8 4
def wbDstSp (w : Nat) : Nat := bits w 12 4
def wbVerify (w : Nat) : Bool := bits w 16 1 = 1
def wbAxis (w : Nat) : Nat := bits w 17 1
def wbDirect (w : Nat) : Bool := bits w 18 1 = 1
def wbCore (w : Nat) : Nat := bits w 24 3
def wbStream (w : Nat) : Nat := bits w 32 9
def wbMask (w : Nat) : Nat := bits w 48 16
def wbSrc (w : Nat) : Nat := bits w 64 64
def wbDst (w : Nat) : Nat := bits w 128 64
def wbLen (w : Nat) : Nat := bits w 192 32
def wbCq (w : Nat) : Nat := bits w 224 8
def wbTag (w : Nat) : Nat := bits w 256 64

/-- R189: an end lies in site `i`: spaces 1 to 3, or a data address of this panel that names the site. -/
def inSite (s : State) (i space a : Nat) : Bool :=
  if space = 0 then bits a 48 12 = ownPanel s && physOf s (bits a 40 8) = some i else decide (1 ≤ space) && decide (space ≤ 3)

/-- Which way a waybill moves: 0 both ends in the site, 1 out of it, 2 into it, 3 neither. -/
def wbWay (s : State) (i w : Nat) : Nat :=
  match inSite s i (wbSrcSp w) (wbSrc w), inSite s i (wbDstSp w) (wbDst w) with
  | true, true => 0
  | true, false => 1
  | false, true => 2
  | false, false => 3

/-- The waybill with transfer number `num` that site `i` holds. -/
def wbFind (s : State) (i num : Nat) : Option Held := (s.site i).wbs.find? (fun w => w.num = num)

/-- Replaces a held waybill. -/
def wbSet (s : State) (i : Nat) (v : Held) : State :=
  let st := s.site i
  s.setSite i { st with wbs := st.wbs.map (fun w => if w.num = v.num then v else w) }

/-- Removes open requests of a job. -/
def dropOpens (s : State) (i job key : Nat) : State :=
  let st := s.site i
  showOpen (s.setSite i { st with opens := st.opens.filter (fun r => !(r.job = job && r.key = key)) }) i

/-- R190, R191: the waybill ends with a status; its completion is still to be written. -/
def wbEnd (s : State) (i num st : Nat) (remote : Bool) : State :=
  match wbFind s i num with
  | none => s
  | some w => if w.status.isSome then s else wbSet (dropOpens s i 1 num) i { w with status := some st, remote := remote }

/-- R195, R340: a logical site of a circular's row or column: its physical site when it exists and is not retired. -/
def circSite (s : State) (i axis t : Nat) : Option (Nat × Nat) :=
  let w := gridW s
  let j := (logOf s i).getD 0
  if axis = 0 ∧ w ≤ t then none
  else
    let jt := if axis = 0 then j / w * w + t else t * w + j % w
    match physOf s jt with
    | some k => if s.rd (commonP k) Reg.Sc.ROLE = 2 then none else some (jt, k)
    | none => none

/-- R195: codes 1 to 3 of a circular's bit positions. -/
def circReasons (s : State) (i axis mask : Nat) : Tab Nat :=
  upTo 16 (fun a t =>
    let c := if bits mask t 1 = 0 then 1 else match circSite s i axis t with
      | none => 3
      | some x => if inRect s (actRect s i) x.1 then 0 else 2
    tabSet (fun _ => 0) a t c) []

/-- R193: bits of a circular that are sent: those with code 0. -/
def circMask (r : Tab Nat) : Nat := upTo 16 (fun m t => if tabGet (fun _ => 0) r t = 0 then m + 2 ^ t else m) 0

/-- R193: a site's own bit in a row or column. -/
def circMe (s : State) (i axis : Nat) : Nat :=
  let j := (logOf s i).getD 0
  if axis = 0 then j % gridW s else j / gridW s

/-! ### Pieces of a waybill -/

/-- Words of the next piece of a waybill: a line's worth on the site, an envelope's on the courier plane. -/
def pieceLen (way op : Nat) (w : Held) : Nat :=
  let left := (wbLen w.wb - w.rd) / 8
  if way = 0 ∧ op = 1 then
    let a := 16 - (wbSrc w.wb + w.rd) / 8 % 16
    let b := 16 - (wbDst w.wb + w.rd) / 8 % 16
    min left (min a b)
  else min 6 left

/-- R177: puts a piece on the stream as a DATA envelope. -/
def pushData (s : State) (ep k n : Nat) (last : Bool) (l : Line) : State :=
  let m := s.stream ep k
  s.setStream ep k { m with tx := { m.tx with queue := m.tx.queue ++ [{ kind := 3, words := n, last := last, poison := l.poison != 0, data := l.data }] } }

/-- R161, R165: the write window of a waybill's KICK closes. -/
def closeWindow (s : State) (i : Nat) (w : Held) : State :=
  let c : CoreId := ⟨i, w.core⟩
  if w.win then (s.setCore c { (s.core c) with window := none }).wr (coreP c) Reg.Co.WINDOW_OPEN 0 else s

/-- R219, R220: after a whole chunk of a verified COPY has been written, its checks. -/
def verifyChunk (s : State) (i num : Nat) : State :=
  match wbFind s i num with
  | none => s
  | some w =>
    if !(wbVerify w.wb) || wbOp w.wb != 1 || w.pos % 2 ^ 20 != 0 || decide (w.pos ≤ w.good) then s
    else
      let base := siteBase i + (wbDst w.wb + w.good) % 2 ^ 40
      let st := chunkStatus s base w.img
      if st = 0 then wbSet s i { w with img := some (chunkId s base), good := w.pos } else wbEnd s i num st false

/-- R349: bytes moved by the pumps. -/
def countMoved (s : State) (i n : Nat) : State := s.setSite i { (s.site i) with moved := (s.site i).moved + n }

/-- The read piece of a waybill is whole: a local piece is written, an outgoing one joins its stream. -/
def wbGot (s : State) (i : Nat) (w : Held) (l : Line) : State :=
  let way := wbWay s i w.wb
  let n := w.piece.n
  let own := wbOp w.wb = 2 && bits (wbMask w.wb) (circMe s i (wbAxis w.wb)) 1 = 1
  let w := { w with poison := w.poison || l.poison != 0, piece := { w.piece with got := l.data, poison := l.poison } }
  if wbOp w.wb = 1 ∧ way = 0 ∧ wbDstSp w.wb ≠ 0 then
    match spacePut s i (wbDstSp w.wb) (wbCore w.wb) (wbDst w.wb + w.rd) n w.win l with
    | none => wbEnd (wbSet s i w) i w.num 3 false
    | some s => countMoved (wbSet s i { w with rd := w.rd + 8 * n, pos := w.rd + 8 * n, piece := {} }) i (8 * n)
  else if (wbOp w.wb = 1 ∧ way = 0) ∨ (wbOp w.wb = 2 ∧ own) then
    let off := (wbDst w.wb + w.rd) % 2 ^ 40
    let w := { w with wr := true, piece := { w.piece with left := partsOf off n } }
    askOpen (wbSet s i w) i w.pump 1 w.num true off n l.data l.poison
  else
    let s := countMoved (wbSet s i { w with rd := w.rd + 8 * n, piece := {} }) i (8 * n)
    pushData s i (wbStream w.wb) n (decide (wbLen w.wb ≤ w.rd + 8 * n)) l

/-- R218: whether a verified circular may send the chunk at `rd` (it is checked before its first byte leaves). -/
def circVerify (s : State) (i : Nat) (w : Held) : State × Bool :=
  if wbOp w.wb ≠ 2 ∨ !(wbVerify w.wb) ∨ w.rd % 2 ^ 20 ≠ 0 ∨ w.rd < w.good then (s, true)
  else
    let base := siteBase i + (wbSrc w.wb + w.rd) % 2 ^ 40
    let st := chunkStatus s base w.img
    if st = 0 then (wbSet s i { w with img := some (chunkId s base), good := w.rd + 2 ^ 20 }, true) else (wbEnd s i w.num st false, false)

/-- R190: moves a running waybill on: its next piece is read, at once from the accumulator store, else by open
accesses. `fuel` bounds the pieces that need no open access. -/
def wbStep : Nat → State → Nat → Nat → State
  | 0, s, _, _ => s
  | fuel + 1, s, i, num =>
    match wbFind s i num with
    | none => s
    | some w =>
      let way := wbWay s i w.wb
      if !w.run || w.status.isSome || w.wr || w.piece.n != 0 || way = 2 then s
      else if wbLen w.wb ≤ w.rd then (if way = 0 ∧ wbOp w.wb = 1 then wbEnd (closeWindow s i w) i num 0 false else s)
      else
        let r := circVerify s i w
        if !r.2 then r.1
        else match wbFind r.1 i num with
        | none => r.1
        | some w =>
          let s := r.1
          let n := pieceLen way (wbOp w.wb) w
          let w := { w with piece := { n := n } }
          if wbSrcSp w.wb = 1 then
            match spaceRead s i (wbCore w.wb) (wbSrc w.wb + w.rd) n with
            | none => wbEnd s i num 3 false
            | some l => wbStep fuel (wbGot s i w l) i num
          else
            let off := (wbSrc w.wb + w.rd) % 2 ^ 40
            askOpen (wbSet s i { w with piece := { n := n, left := partsOf off n } }) i w.pump 1 num false off n 0 0

/-- Bound on pieces moved without an open access: the rows of the largest space. -/
def wbFuel : Nat := 8192

/-- A local write of a waybill's piece is done. -/
def wbWrote (s : State) (i : Nat) (w : Held) : State :=
  let n := w.piece.n
  let l : Line := ⟨w.piece.got, w.piece.poison⟩
  let rd := w.rd + 8 * n
  let s := countMoved (wbSet s i { w with rd := rd, pos := if wbOp w.wb = 1 then rd else w.pos, wr := false, piece := {} }) i (8 * n)
  let s := if wbOp w.wb = 2 ∧ (s.stream i (wbStream w.wb)).mask ≠ 0 then
      pushData s i (wbStream w.wb) n (decide (wbLen w.wb ≤ rd)) l
    else s
  wbStep wbFuel (verifyChunk s i w.num) i w.num

/-! ### The end of a transfer at its source -/

/-- R224: IN_BUSY, STREAM_IN_SEQ and IN_SRC of an endpoint's contexts. -/
def showCtx (s : State) (ep k : Nat) : State :=
  let c := s.ctx ep k
  let p := epPage ep
  let s := (s.wr p (Reg.Cn.STREAM_IN_SEQ k) (if c.live then c.rx.last else 0)).wr p (Reg.Cn.IN_SRC k) (if c.live then c.src else 0xFF)
  if ep < 256 then s.wr p Reg.Cn.IN_BUSY ((s.ctxs.filter (fun x => x.1 / 512 = ep && x.2.live)).length) else s

/-- R184, R187: DONE of a transfer whose context is `k`: after a write at once, after a read in sequence. -/
def giveDone (s : State) (ep k st : Nat) : State :=
  let c := s.ctx ep k
  let d := doneData st c.pos c.rx.last c.num
  if c.write then
    let e := ctxEnv s ep c c.rx.last { kind := 4, words := 2, last := true, poison := false, data := d }
    emitBack (s.setCtx ep k { c with done := some st }) ep c e
  else
    s.setCtx ep k { c with done := some st, tx := { c.tx with
      queue := c.tx.queue ++ [{ kind := 4, words := 2, last := true, poison := false, data := d }] } }

/-- R214: the landing entry of a context's transfer ends with it. -/
def ctxLand (s : State) (ep k : Nat) (ok : Bool) : State :=
  let c := s.ctx ep k
  match c.land with
  | none => s
  | some z => landEnd (s.setCtx ep k { c with land := none }) ep z (c.addr % 2 ^ 40) c.pos ok

/-- The transfer of a context ends with a status. -/
def ctxFinish (s : State) (ep k st : Nat) : State :=
  if (s.ctx ep k).done.isSome then s else giveDone (ctxLand s ep k (st = 0)) ep k st

/-- R185, R187, R237, R258: the transfer of outbound stream `k` ends; `bytes` were confirmed. -/
def finish (s : State) (ep k st : Nat) (remote : Bool) (bytes : Nat) : State :=
  let m := s.stream ep k
  let seq := if m.write then ackedSeq s ep k else m.rx.last
  let att := s.rd (epPage ep) (Reg.Cn.ATTEMPT k)
  let s := if streamState s ep k = 2 then s else setStreamState s ep k 0
  let s := s.setStream ep k {}
  match m.job with
  | 1 =>
    let s := dropOpens s ep 3 k
    match wbFind s ep m.ref with
    | none => s
    | some w => wbEnd (wbSet s ep { w with pos := bytes, seq := seq, attempts := att, retried := m.retried }) ep m.ref st remote
  | 2 => ctxFinish (s.setCtx ep m.ref { (s.ctx ep m.ref) with pos := bytes }) ep m.ref st
  | 3 => collSliceEnd s (ep - 256) m.ref st
  | _ => s

/-- R185: outbound stream `k` becomes broken. -/
def breakStream (s : State) (ep k : Nat) : State :=
  let m := s.stream ep k
  let seq := ackedSeq s ep k
  let s := setStreamState s ep k 2
  let s := if ep < 256 then s.setBit (cniP ep) Reg.Cn.BROKEN else s
  finish s ep k 5 false (if m.write then bytesUpTo m seq else m.pos)

/-- R185: a retransmission of the request direction, or its end. -/
def retry (s : State) (ep k : Nat) : State := (resend s ep k).getD (breakStream s ep k)

/-- R185: a retransmission of a response direction, or its break, which ends the transfer BROKEN at its source. -/
def retryBack (s : State) (ep k : Nat) : State :=
  match resendBack s ep k with
  | some s => s
  | none =>
    let c := s.ctx ep k
    let s := s.setCtx ep k { c with tx := { c.tx with broken := true } }
    match codeEp s c.src with
    | some a =>
      if c.panel = 4096 ∧ streamState s a c.stream = 1 ∧ !((s.stream a c.stream).write) ∧ (s.stream a c.stream).dst = epCode s ep
      then breakStream s a c.stream else s
    | none => s

/-! ### Circulars at their source (R193 to R195) -/

/-- R195: the status of a circular from its reason codes and MASK. -/
def circStatus (mask : Nat) (r : Tab Nat) : Nat :=
  let cs := (List.range 16).filterMap (fun t => if bits mask t 1 = 1 then some (tabGet (fun _ => 0) r t) else none)
  let stOf := fun c => if c = 4 then 4 else if c = 6 then 3 else if c = 2 ∨ c = 3 then 2 else 5
  if cs.all (· = 0) then 0
  else if cs.any (· = 0) then 0x0B
  else match cs.find? (· ≠ 0) with
    | some c => stOf c
    | none => 0

/-- R193: the window of a circular follows its least acknowledged live target; when every target has ended and the
own bit is served, the transfer ends. -/
def circAdvance (s : State) (ep k : Nat) : State :=
  let m := s.stream ep k
  let open_ := (List.range 16).filter (fun t => bits m.mask t 1 = 1 && (tabFind m.tEnd t).isNone)
  let least := open_.foldl (fun (a : Option Nat) t =>
    let v := tabGet (fun _ => (m.s0 + 2 ^ 24 - 1) % 2 ^ 24) m.tAck t
    match a with
    | none => some v
    | some x => if seqAfter x v < 2 ^ 23 then some v else some x) none
  let s := match least with
    | some v => s.setStream ep k { m with tx := (txAck m.tx v).1 }
    | none => s
  match wbFind s ep m.ref with
  | none => s
  | some w =>
    if open_ = [] ∧ wbLen w.wb ≤ w.rd ∧ !w.wr then
      let reasons := upTo 16 (fun r t => match tabFind m.tEnd t with
        | some c => tabSet (fun _ => 0) r t c
        | none => r) w.reasons
      let s := wbSet s ep { w with reasons := reasons }
      let st := circStatus (wbMask w.wb) reasons
      finish s ep k st (m.mask != 0) (if st = 0 ∨ st = 0x0B then wbLen w.wb else 0)
    else s

/-- R195: a target of a circular ends with a reason code, unless it has ended. -/
def circEnd (s : State) (ep k t code : Nat) : State :=
  let m := s.stream ep k
  if (tabFind m.tEnd t).isSome then s
  else circAdvance (s.setStream ep k { m with tEnd := tabInsert m.tEnd t code }) ep k

/-- R195: reason code of a DONE status. -/
def doneReason (st : Nat) : Nat := if st = 0 then 0 else if st = 4 then 4 else 6

/-! ### Read data at the source (R187) -/

/-- R184: what the source acknowledges of the response direction. -/
def streamDelivered (s : State) (ep k : Nat) : State :=
  let m := s.stream ep k
  match m.rx.held with
  | [] => s
  | e :: _ =>
    let x := rxDone m.rx
    let n := if e.kind = 3 then 8 * (e.words.toNat + 1) else 0
    let ack := decide (16 ≤ x.since) || e.last
    let m := { m with rx := { x with since := if ack then 0 else x.since }, pos := m.pos + n, piece := {} }
    let s := s.setStream ep k m
    let s := if m.job = 1 ∧ n ≠ 0 then countMoved s ep n else s
    let s := if ack then streamAck s ep k m x.last else s
    if m.job ≠ 1 ∨ n = 0 then s
    else match wbFind s ep m.ref with
    | none => s
    | some w =>
      let s := verifyChunk (wbSet s ep { w with pos := m.pos }) ep m.ref
      let s := if wbDstSp w.wb = 2 ∧ wbLen w.wb ≤ m.pos then closeWindow s ep w else s
      match (wbFind s ep m.ref).bind (fun w => w.status) with
      | some st => finish s ep k st false m.pos
      | none => s

/-- R187, R237: hands on what has come in sequence on the response direction of outbound stream `k`. -/
def streamPump : Nat → State → Nat → Nat → State
  | 0, s, _, _ => s
  | fuel + 1, s, ep, k =>
    let m := s.stream ep k
    match rxNext m.rx with
    | none => s
    | some e =>
      let n := e.words.toNat + 1
      let fwd := { m with rx := { m.rx with fwd := m.rx.fwd + 1 } }
      if e.kind = 4 then
        if m.rx.fwd ≠ 0 then s
        else
          let s := streamDelivered (s.setStream ep k fwd) ep k
          finish s ep k (bits e.data.toNat 0 8) true (bits e.data.toNat 32 32)
      else match m.job with
      | 1 =>
        if m.rx.fwd ≠ 0 then s
        else
          let pm := if e.poison then 2 ^ n - 1 else 0
          let l : Line := ⟨bits e.data.toNat 0 (64 * n), pm⟩
          match wbFind s ep m.ref with
          | none => s
          | some w =>
            let s := wbSet s ep { w with poison := w.poison || e.poison }
            if wbDstSp w.wb = 0 then
              let off := (wbDst w.wb + m.pos) % 2 ^ 40
              askOpen (s.setStream ep k { fwd with piece := { n := n, left := partsOf off n } }) ep 4 3 k true off n l.data l.poison
            else match spacePut s ep (wbDstSp w.wb) (wbCore w.wb) (wbDst w.wb + m.pos) n w.win l with
            | none => finish s ep k 3 false m.pos
            | some s => streamPump fuel (streamDelivered (s.setStream ep k fwd) ep k) ep k
      | 2 =>
        let c := s.ctx ep m.ref
        let s := s.setCtx ep m.ref { c with tx := { c.tx with
          queue := c.tx.queue ++ [{ kind := 3, words := n, last := e.last, poison := e.poison, data := e.data.toNat }] } }
        streamPump fuel (s.setStream ep k fwd) ep k
      | _ => s

/-! ### Contexts (R175, R184, R187) -/

/-- R175: the live context of a source's stream at an endpoint. -/
def ctxFind (s : State) (ep panel src stream : Nat) : Option Nat :=
  (s.ctxs.find? (fun x => x.1 / 512 = ep && x.2.live && x.2.panel = panel && x.2.src = src && x.2.stream = stream)).map (fun x => x.1 % 512)

/-- R175, R224: a free context index of an endpoint for region `r`. -/
def ctxFree (s : State) (ep r : Nat) : Option Nat :=
  if 256 ≤ ep ∧ s.rd (hubP (ep - 256) 0) (Reg.Hu.IN_Q r) ≤ inUsed s (ep - 256) r then none
  else (List.range 512).find? (fun k => !((s.ctx ep k).live))

/-- R175: frees a context. -/
def ctxDrop (s : State) (ep k : Nat) : State :=
  let s := if ep < 256 then dropOpens s ep 2 k else s
  showCtx (s.setCtx ep k {}) ep k

/-- R184: the oldest envelope handed on at context `k` is delivered: the ACK rule, and DONE after the last. -/
def ctxDelivered (s : State) (ep k : Nat) : State :=
  let c := s.ctx ep k
  match c.rx.held with
  | [] => s
  | e :: _ =>
    let x := rxDone c.rx
    let n := if e.kind = 3 ∧ c.done = none then 8 * (e.words.toNat + 1) else 0
    let ack := decide (16 ≤ x.since) || e.last
    let got := c.piece
    let c := { c with rx := { x with since := if ack then 0 else x.since }, pos := c.pos + n, piece := {} }
    let s := showCtx (s.setCtx ep k c) ep k
    let s := if ack then ctxAck s ep c x.last false else s
    if e.kind = 3 ∧ e.last ∧ c.done = none ∧ c.act ≠ 2 then
      let s := if c.act = 3 then
          collSliceIn s (ep - 256) (refSlot c.onto) (refSeg c.onto) (refSlice c.onto) (refHalf c.onto) got.got got.poison
        else s
      ctxFinish s ep k 0
    else s

/-- R187: what site `i` answers to the target of an OPEN: 0 or a status (R25, R26, R102, R116). -/
def openStatus (s : State) (i addr len : Nat) (circ : Bool) : Nat :=
  let here := if circ then addr / 2 ^ 40 = 0 else bits addr 60 4 = 0 && bits addr 48 12 = ownPanel s && physOf s (bits addr 40 8) = some i
  if !here || len = 0 || len % 8 != 0 || addr % 8 != 0 || (targetOf (addr % 2 ^ 40) len).isNone then 2
  else if (s.site i).clearing then 4
  else 0

/-- R187: the responder reads its next piece, or ends its data with DONE. -/
def respStep (s : State) (ep k : Nat) : State :=
  let c := s.ctx ep k
  if c.write || c.done.isSome || c.piece.n != 0 || c.act = 2 then s
  else if c.len ≤ c.rd then giveDone (s.setCtx ep k { c with pos := c.len }) ep k 0
  else
    let n := min 6 ((c.len - c.rd) / 8)
    match c.act with
    | 0 =>
      let off := (c.addr + c.rd) % 2 ^ 40
      askOpen (s.setCtx ep k { c with piece := { n := n, left := partsOf off n } }) ep 4 2 k false off n 0 0
    | _ =>
      let h := ep - 256
      let s := s.setCtx ep k { c with piece := { n := n, left := 1 } }
      if c.space = .deep then s.emit (.deep h false (c.addr % 2 ^ 42 + c.rd) n 0 false k)
      else s.emit (.hostRead h (c.region + 1) (c.addr % 2 ^ 60 + c.rd) (8 * n) k)

/-- A piece that a responder has read joins its response direction. -/
def respGot (s : State) (ep k : Nat) (l : Line) : State :=
  let c := s.ctx ep k
  let n := c.piece.n
  let c := { c with rd := c.rd + 8 * n, piece := {}, tx := { c.tx with
    queue := c.tx.queue ++ [{ kind := 3, words := n, last := false, poison := l.poison != 0, data := l.data }] } }
  respStep (s.setCtx ep k c) ep k

/-- R12: the order of the hubs on the ring. -/
def ringOrder : List Nat := [13, 12, 8, 9, 5, 4, 0, 1, 2, 3, 7, 6, 10, 11, 15, 14]

/-- R225, R12: segments between two hubs on the ring, the shorter way (the Postmaster stands between 14 and 13). -/
def ringAway (a b : Nat) : Nat :=
  let x := ringOrder.findIdx (· = a)
  let y := ringOrder.findIdx (· = b)
  let d := (y + 17 - x) % 17
  min d (17 - d)

/-- R237 step 4: the hub nearest to `h` with a gate site of region `r`; a tie goes to the higher hub. -/
def gateHub (s : State) (h r : Nat) : Option Nat :=
  ((List.range 16).filter (fun k => (gateOf s r k).isSome)).foldl (fun (a : Option Nat) k =>
    match a with
    | none => some k
    | some b => if ringAway h k ≤ ringAway h b then some k else some b) none

/-- What an endpoint does with an OPEN (R183 to R187, R224, R237, R241 to R243). -/
inductive Opening where
  | refuse (st : Nat)
  | busy
  /-- Accepted: action of the context, its number, and the relay leg to open. -/
  | take (act onto : Nat) (leg : Option Stream)
  deriving DecidableEq, Repr

/-- The relay leg of context `k` at hub `h` for the OPEN `e`. -/
def legOf (k dst panel region : Nat) (e : Env) : Stream :=
  { job := 2, ref := k, write := e.kind = 1, dst := dst, panel := panel, region := region, addr := bits e.data.toNat 0 64
    len := bits e.data.toNat 64 32, num := bits e.data.toNat 96 32 }

/-- R237, R241, R242: what hub `h` does with an OPEN in its context `k`; region `r`. -/
def hubOpening (s : State) (h k panel r : Nat) (space : HubSpace) (e : Env) : Opening × State :=
  let addr := bits e.data.toNat 0 64
  let len := bits e.data.toNat 64 32
  let role := s.rd (x16P h) Reg.Xp.X16_ROLE
  if panel = 4096 then
    match space with
    | .host master => if role ≠ 1 then (.refuse 9, s) else if !master then (.refuse 3, s) else (.take 1 0 none, s)
    | .deep => if role ≠ 2 then (.refuse 9, s) else (.take 1 0 none, s)
    | .fabric => match hubStream s h r with
      | none => (.busy, s)
      | some x => (.take 2 x (some (legOf k (0xF0 + h) (bits addr 48 12) r e)), s)
  else if bits addr 40 8 = 0xFF then
    match collOpen s h panel addr len (bits e.data.toNat 96 32) with
    | .refuse st => (.refuse st, if st = 0x0C then s.setBit (collP h) Reg.Cl.FORMAT else s)
    | .stale =>
      let v := s.draw 8
      (.refuse v.1.toNat, (v.2.setBit (collP h) Reg.Cl.STALE).bump (collP h) Reg.Cl.STALE_CNT 1)
    | .busy => (.busy, s)
    | .accept x => (.take 3 x none, s)
  else
    match physOf s (bits addr 40 8) with
    | none => (.refuse 2, s)
    | some i =>
      let tr := (s.site i).region
      if 16 ≤ tr then (.refuse 9, s)
      else if s.rd (hubP h 0) (Reg.Hu.FAB_IN tr) = 0 then (.refuse 3, s)
      else if (gateOf s tr h).isNone then (.refuse 9, s)
      else match hubStream s h tr with
        | none => (.busy, s)
        | some x => (.take 2 x (some (legOf k (bits addr 40 8) 4096 tr e)), s)

/-- R187, R214: what an endpoint does with an OPEN. -/
def opening (s : State) (ep k : Nat) (c : Ctx) (space : HubSpace) (e : Env) : Opening × State × Option Nat :=
  if 256 ≤ ep then
    let r := hubOpening s (ep - 256) k c.panel c.region space e
    (r.1, r.2, none)
  else
    let addr := bits e.data.toNat 0 64
    let len := bits e.data.toNat 64 32
    let st := openStatus s ep addr len e.circ
    if st ≠ 0 then (.refuse st, s, none)
    else if e.kind = 1 ∧ targetOf (addr % 2 ^ 40) len = some .well then
      match landMake s ep (addr % 2 ^ 40) len with
      | (s, none) => (.busy, s, none)
      | (s, some z) => (.take 0 0 none, s, some z)
    else (.take 0 0 none, s, none)

/-- R187: a new transfer in context `k` by the OPEN `e`, which is now in sequence. False when it was answered BUSY. -/
def ctxOpen (s : State) (ep k : Nat) (e : Env) : State × Bool :=
  let c := s.ctx ep k
  let (o, s, z) := opening s ep k c c.space e
  let fresh : Ctx := { c with
    write := e.kind = 1, addr := bits e.data.toNat 0 64, len := bits e.data.toNat 64 32, num := bits e.data.toNat 96 32
    s0 := e.seq.toNat, pos := 0, rd := 0, piece := {}, land := z, done := none, act := 0, onto := 0
    tx := { next := (e.seq.toNat + 1) % 2 ^ 24 }, rx := { c.rx with fwd := c.rx.fwd + 1 } }
  match o with
  | .busy => (ctxAck s ep c e.seq.toNat true, false)
  | .refuse st => (giveDone (ctxDelivered (s.setCtx ep k fresh) ep k) ep k st, true)
  | .take act onto leg =>
    let c := { fresh with act := act, onto := onto }
    let s := s.setCtx ep k c
    let s := match leg with
      | some m => openStream s ep onto m
      | none => s
    if act = 2 then (s, true) else (respStep (ctxDelivered s ep k) ep k, true)

/-- R184, R187: hands on what has come in sequence at context `k`. -/
def ctxPump : Nat → State → Nat → Nat → State
  | 0, s, _, _ => s
  | fuel + 1, s, ep, k =>
    let c := s.ctx ep k
    match rxNext c.rx with
    | none => s
    | some e =>
      let n := e.words.toNat + 1
      let fwd := { c with rx := { c.rx with fwd := c.rx.fwd + 1 } }
      let l : Line := ⟨bits e.data.toNat 0 (64 * n), if e.poison then 2 ^ n - 1 else 0⟩
      if e.kind ≠ 3 then
        if c.rx.fwd ≠ 0 then s
        else
          let r := ctxOpen s ep k e
          if r.2 then ctxPump fuel r.1 ep k
          else
            let c := r.1.ctx ep k
            r.1.setCtx ep k { c with rx := { c.rx with held := c.rx.held.filter (fun y => y.seq != e.seq) } }
      else if c.done.isSome then ctxPump fuel (ctxDelivered (s.setCtx ep k fwd) ep k) ep k
      else match c.act with
      | 0 =>
        if c.rx.fwd ≠ 0 then s
        else
          let off := (c.addr + 48 * (seqAfter e.seq.toNat c.s0 - 1)) % 2 ^ 40
          if (targetOf off (8 * n)).isNone then ctxPump fuel (ctxFinish (ctxDelivered (s.setCtx ep k fwd) ep k) ep k 2) ep k
          else askOpen (s.setCtx ep k { fwd with piece := { n := n, left := partsOf off n } }) ep 4 2 k true off n l.data l.poison
      | 1 =>
        let h := ep - 256
        let a := c.addr + 48 * (seqAfter e.seq.toNat c.s0 - 1)
        if c.space = .deep then
          if c.rx.fwd ≠ 0 then s
          else (s.setCtx ep k fwd).emit (.deep h true (a % 2 ^ 42) n l.data e.poison k)
        else
          let s := (s.setCtx ep k fwd).emit (.hostWrite h (c.region + 1) (a % 2 ^ 60) (8 * n) l.data e.poison)
          ctxPump fuel (ctxDelivered s ep k) ep k
      | 2 =>
        let m := s.stream ep c.onto
        let s := s.setStream ep c.onto { m with tx := { m.tx with
          queue := m.tx.queue ++ [{ kind := 3, words := n, last := e.last, poison := e.poison, data := e.data.toNat }] } }
        ctxPump fuel (s.setCtx ep k fwd) ep k
      | _ =>
        let o := 48 * (seqAfter e.seq.toNat c.s0 - 1)
        let c := { fwd with piece := { c.piece with got := c.piece.got + l.data * 2 ^ (8 * o), poison := c.piece.poison + l.poison * 2 ^ (o / 8) } }
        let keep := c.piece
        let s := ctxDelivered (s.setCtx ep k c) ep k
        let c := s.ctx ep k
        ctxPump fuel (s.setCtx ep k { c with piece := keep }) ep k

/-! ### Envelopes received (R183 to R187, R446) -/

/-- R183: an envelope that the receiver discards, as received by NI `i`. -/
def badEnv (s : State) (e : Env) : Bool :=
  let k := e.kind.toNat
  let d := e.data.toNat
  k = 0 || decide (7 ≤ k) || decide (6 ≤ e.words.toNat) || e.rsv != 0 ||
    (e.mask != 0 && !e.circ && !(k = 5 && e.mask.toNat = 1)) ||
    ((k = 1 || k = 2) && bits d 128 256 != 0) || (k = 4 && (bits d 8 24 != 0 || bits d 88 8 != 0 || bits d 128 256 != 0)) ||
    (k = 6 && bits d 32 352 != 0) || (codeEp s e.dst.toNat).isNone

/-- The NI at which an envelope ends. -/
def endNi (s : State) (ep : Nat) (e : Env) : Option Nat := niOf s ep e.region.toNat

/-- R184, R185: an ACK of the request direction of outbound stream `k`. -/
def onAck (s : State) (ep k : Nat) (e : Env) : State :=
  let m := s.stream ep k
  if streamState s ep k ≠ 1 then s
  else if bits e.mask.toNat 0 1 = 1 then
    match m.tx.win with
    | o :: _ =>
      if o.kind ≠ 1 ∧ o.kind ≠ 2 then s
      else if 1024 ≤ m.busy + 1 then finish s ep k 6 false 0
      else s.setStream ep k { m with busy := m.busy + 1, tx := { m.tx with wait := true } }
    | [] => s
  else if m.circ then
    let t := match codeEp s e.src.toNat with
      | some i => circMe s i (axisOf s ep m)
      | none => 16
    let old := tabGet (fun _ => (m.s0 + 2 ^ 24 - 1) % 2 ^ 24) m.tAck t
    if seqAfter e.seq.toNat old < 2 ^ 23 then
      circAdvance (s.setStream ep k { m with tAck := tabInsert (tabErase m.tAck t) t e.seq.toNat }) ep k
    else s
  else
    let r := txAck m.tx e.seq.toNat
    let s := s.setStream ep k { m with tx := { r.1 with wait := false } }
    if m.job = 2 then ctxPump 80 (upTo r.2 (fun s _ => ctxDelivered s ep m.ref) s) ep m.ref
    else s

/-- R184, R185: an ACK of the response direction of context `k`. -/
def onAckBack (s : State) (ep k : Nat) (e : Env) : State :=
  let c := s.ctx ep k
  let r := txAck c.tx e.seq.toNat
  let s := s.setCtx ep k { c with tx := r.1 }
  if c.act = 2 then upTo r.2 (fun s _ => streamDelivered s ep c.onto) s else s

/-- R187: a DONE of a write reaches the source. A read's comes in the response direction. -/
def onDone (s : State) (ep k : Nat) (e : Env) : State :=
  let m := s.stream ep k
  let d := e.data.toNat
  if streamState s ep k ≠ 1 ∨ bits d 96 32 ≠ m.num then s
  else if m.circ then
    match codeEp s e.src.toNat with
    | some i => circEnd s ep k (circMe s i (axisOf s ep m)) (doneReason (bits d 0 8))
    | none => s
  else if m.write then
    let s := s.setStream ep k { m with tx := (txAck m.tx (bits d 64 24)).1 }
    finish s ep k (bits d 0 8) true (bits d 32 32)
  else s

/-- R184: files an envelope of the response direction at the source. -/
def onResponse (s : State) (ep k : Nat) (e : Env) : State :=
  let m := s.stream ep k
  if streamState s ep k ≠ 1 ∨ m.write then s
  else match rxGot m.rx e.seq.toNat with
    | .dup => streamAck (if ep < 256 then s.bump (cniP ep) Reg.Cn.DUP_CNT 1 else s) ep k m m.rx.last
    | .beyond => if ep < 256 then s.setBit (cniP ep) Reg.Cn.REORDER_DROP else s
    | .fresh => streamPump 80 (s.setStream ep k { m with rx := rxHold m.rx e }) ep k

/-- R184, R446: a duplicate at a context: counted, acknowledged, and the DONE of a write given again at LAST. -/
def onDup (s : State) (ep k : Nat) (e : Env) : State :=
  let c := s.ctx ep k
  let s := if ep < 256 then s.bump (cniP ep) Reg.Cn.DUP_CNT 1 else s
  let s := ctxAck s ep c c.rx.last false
  match c.done with
  | some st => if e.last ∧ c.write then giveDone s ep k st else s
  | none => s

/-- R184: a request envelope of an inbound stream, by its place in the sequence. -/
def requestGot (s : State) (ep k : Nat) (c : Ctx) (e : Env) (g : Got) : State :=
  match g with
  | .dup => onDup s ep k e
  | .beyond => if ep < 256 then s.setBit (cniP ep) Reg.Cn.REORDER_DROP else s
  | .fresh => ctxPump 80 (s.setCtx ep k { c with rx := rxHold c.rx e }) ep k

/-- R184 to R187: files an envelope of the request direction at context `k`. An OPEN after the end of the context's
last transfer begins anew at its own sequence. -/
def onRequest (s : State) (ep k : Nat) (e : Env) : State :=
  let c := s.ctx ep k
  let opens := e.kind = 1 || e.kind = 2
  let rebase := opens && c.done.isSome && decide (0 < seqAfter e.seq.toNat c.rx.last) && decide (seqAfter e.seq.toNat c.rx.last < 2 ^ 23)
  let c := if rebase then { c with rx := { last := (e.seq.toNat + 2 ^ 24 - 1) % 2 ^ 24 } } else c
  requestGot (s.setCtx ep k c) ep k c e (rxGot c.rx e.seq.toNat)

/-- R175, R184, R186: an OPEN at an endpoint: its context is found, reset by a new epoch, or taken. -/
def takeOpen (s : State) (ep panel : Nat) (space : HubSpace) (e : Env) : State :=
  let src := e.src.toNat
  let r := e.region.toNat
  let fresh : Ctx := { panel := panel, src := src, stream := e.stream.toNat, epoch := e.sepoch.toNat, region := r, circ := e.circ
                       space := space, live := true, rx := { last := (e.seq.toNat + 2 ^ 24 - 1) % 2 ^ 24 } }
  match ctxFind s ep panel src e.stream.toNat with
  | some k =>
    if (s.ctx ep k).epoch = e.sepoch.toNat then onRequest s ep k e
    else
      let s := if (s.ctx ep k).done = none then ctxLand s ep k false else s
      let s := if ep < 256 then dropOpens s ep 2 k else s
      onRequest (showCtx (s.setCtx ep k fresh) ep k) ep k e
  | none =>
    match ctxFree s ep r with
    | none => ctxAck s ep fresh e.seq.toNat true
    | some k =>
      let s := onRequest (showCtx (s.setCtx ep k fresh) ep k) ep k e
      if (s.ctx ep k).num = 0 ∧ (s.ctx ep k).len = 0 ∧ (s.ctx ep k).done = none then ctxDrop s ep k else s

/-- R184, R186: a DATA envelope of the request direction; one with no context, or of another epoch, is dropped. -/
def onData (s : State) (ep panel : Nat) (e : Env) : State :=
  match ctxFind s ep panel e.src.toNat e.stream.toNat with
  | some k => if (s.ctx ep k).epoch = e.sepoch.toNat then onRequest s ep k e else s
  | none => s

/-- R193: targets of a circular cut off by a failed link at logical site `j`, port code `p`. -/
def circCut (s : State) (ep k j p : Nat) : State :=
  let m := s.stream ep k
  let axis := axisOf s ep m
  let i := ep
  let me := (logOf s i).getD 0
  let b := circBranches s i axis m.mask
  let d := (List.range 4).find? (fun d => portOf s j d = p)
  let east := d = some (if axis = 0 then 1 else 2)
  let n := if axis = 0 then gridW s else 16
  let pos := fun x => if axis = 0 then x % gridW s else x / gridW s
  let far := fun x => if east then (pos x + n - pos me) % n else (pos me + n - pos x) % n
  upTo 16 (fun s t =>
    if bits (if east then b.1 else b.2) t 1 = 0 then s
    else
      let jt := if axis = 0 then me / gridW s * gridW s + t else t * gridW s + me % gridW s
      if far j < far jt then circEnd s ep k t 5 else s) s

/-- R185, R194, R261: a NOTICE for a direction that this endpoint sends. -/
def onNotice (s : State) (ep panel : Nat) (resp : Bool) (e : Env) : State :=
  let d := e.data.toNat
  let s := if panel = 4096 then noteDown s ep (codeIx s (ep % 256) e.src.toNat, bits d 0 8) else s
  let k := e.stream.toNat
  if resp then
    match s.ctxs.find? (fun x => x.1 / 512 = ep && x.2.live && x.2.stream = k && x.2.tx.win.any (fun y => y.seq.toNat = bits d 8 24)) with
    | some x => retryBack s ep (x.1 % 512)
    | none => s
  else
    let m := s.stream ep k
    if streamState s ep k ≠ 1 then s
    else if m.circ then circCut s ep k e.src.toNat (bits d 0 8)
    else if m.job = 3 ∧ refHalf m.ref ≠ 2 then collHopFail s (ep - 256) (refSlot m.ref)
    else retry s ep k

/-- R183 to R187: endpoint `ep` receives an envelope; `panel` 4096 for one of this panel, else the sending panel;
`resp` says, where the kind does not, that it concerns the response direction. -/
def receive (s : State) (ep panel : Nat) (resp : Bool) (space : HubSpace) (e : Env) : State :=
  let mine := e.circ || panel != 4096 || e.dst.toNat = epCode s ep
  let other := ep < 256 && e.region.toNat != actRegion s ep
  if badEnv s e ∨ (mine ∧ other) then
    match endNi s ep e with
    | some i => ((countEj s i).setBit (cniP i) Reg.Cn.BAD_ENV).bump (cniP i) Reg.Cn.BAD_ENV_CNT 1
    | none => s
  else if !mine then s
  else
    let s := if panel = 4096 then (match endNi s ep e with
      | some i => countEj s i
      | none => s) else s
    let k := e.stream.toNat
    match e.kind.toNat with
    | 1 | 2 => takeOpen s ep panel space e
    | 3 => if resp then onResponse s ep k e else onData s ep panel e
    | 4 => if (s.stream ep k).write then onDone s ep k e else onResponse s ep k e
    | 5 =>
      if resp then match ctxFind s ep panel e.src.toNat k with
        | some x => onAckBack s ep x e
        | none => s
      else onAck s ep k e
    | _ => onNotice s ep panel resp e

end Sys2Proof.Machine
end

