-- ==== Sys2Proof/Machine/Waybill.lean ====
section
/-! DEFINITION. Waybills (R189 to R195, R218): what a pump checks when it takes one, how it starts it, and the completion
record. -/

namespace Sys2Proof.Machine

/-! ### Checks at take (R190) -/

/-- R190 check 1, R193: the form of a waybill. -/
def wbFormatBad (s : State) (i region w : Nat) : Bool :=
  let op := wbOp w
  let src := wbSrcSp w
  let dst := wbDstSp w
  let len := wbLen w
  let local3 := fun (sp : Nat) => decide (1 ≤ sp) && decide (sp ≤ 3)
  bits w 480 32 != crc32c w 60 || wbVer w != 1 || !(op = 1 || op = 2) || decide (5 < src) || decide (5 < dst) ||
    bits w 19 5 != 0 || bits w 27 5 != 0 || bits w 41 7 != 0 || bits w 232 24 != 0 || bits w 320 160 != 0 ||
    len = 0 || decide (2 ^ 30 < len) || len % 8 != 0 || ((local3 src || local3 dst) && len % 128 != 0) ||
    s.rd queueP (qFld (Reg.Qu.OWNER 0) (ringIx i (wbCq w))) != region || src = 2 || src = 3 || (op = 1 && wbMask w != 0) ||
    (op = 2 && (!(inSite s i src (wbSrc w)) || dst != 0 || bits (wbDst w) 40 24 != 0))

/-- R190 check 2, R211: one end of a waybill lies outside its space. `circ` marks the destination of a circular. -/
def wbEndBad (s : State) (space a len : Nat) (circ : Bool) : Bool :=
  match space with
  | 0 =>
    if circ then a % 8 != 0 || (targetOf a len).isNone
    else a % 8 != 0 || bits a 60 4 != 0 || (targetOf (a % 2 ^ 40) len).isNone ||
      (bits a 48 12 = ownPanel s && (physOf s (bits a 40 8)).isNone)
  | 1 => a % 128 != 0 || decide (0x40000 < a + len)
  | 2 => a % 128 != 0 || decide (0x20000 < a + len)
  | 3 => a != 0
  | 4 => decide (2 ^ 60 < a % 2 ^ 60 + len)
  | _ =>
    let h := bits a 60 4
    a % 64 != 0 || bits a 42 18 != 0 ||
      (s.rd (x16P h) Reg.Xp.X16_ROLE = 2 && decide (s.rd (x16P h) Reg.Xp.DT_MAPPED * 2 ^ 30 < a % 2 ^ 42 + len))

/-- R243: a deep-tier range lies in the region's grant. -/
def inGrant (s : State) (r a len : Nat) : Bool :=
  let h := bits a 60 4
  let b := s.rd (x16P h) (Reg.Xp.DT_BASE r) * 2 ^ 30
  let n := s.rd (x16P h) (Reg.Xp.DT_SIZE r) * 2 ^ 30
  decide (r < 16) && decide (b ≤ a % 2 ^ 42) && decide (a % 2 ^ 42 + len ≤ b + n)

/-- R190 check 3: a breach of R114, R115, R165, R166, R241 or R243, or no end in this site. `core` is 8 for a post. -/
def wbBarred (s : State) (i region core w : Nat) (win master : Bool) : Bool :=
  let deep := fun (sp a : Nat) => sp = 5 && s.rd (x16P (bits a 60 4)) Reg.Xp.X16_ROLE = 2 && !(inGrant s region a (wbLen w))
  let host := fun (sp a : Nat) => sp = 4 && s.rd (x16P (bits a 60 4)) Reg.Xp.X16_ROLE = 1 && !master
  let acc := (wbSrcSp w = 1 || wbDstSp w = 1) && !(coreQuiet s ⟨i, wbCore w⟩)
  let pb := wbDstSp w = 2 && (if core < 8 then wbCore w != core || !win else !(coreQuiet s ⟨i, wbCore w⟩))
  let hop := wbDstSp w = 3 && decide (region < 16) && swapArmed s region
  wbWay s i w = 3 || deep (wbSrcSp w) (wbSrc w) || deep (wbDstSp w) (wbDst w) || host (wbSrcSp w) (wbSrc w) || host (wbDstSp w) (wbDst w) ||
    acc || pb || hop

/-- R182, R189: the far end of a waybill: space and address. -/
def wbFar (s : State) (i w : Nat) : Nat × Nat :=
  if wbWay s i w = 1 then (wbDstSp w, wbDst w) else (wbSrcSp w, wbSrc w)

/-- R182: the hub that a waybill's far end is reached through, if it is not a site of this panel. -/
def wbHub (s : State) (i w : Nat) : Option (Option Nat) :=
  let f := wbFar s i w
  if wbWay s i w = 0 ∨ wbOp w = 2 then none
  else if f.1 = 0 then
    (if bits f.2 48 12 = ownPanel s then none else some (egressHub s i (bits f.2 40 8) (wbStream w)))
  else some (some (bits f.2 60 4))

/-- R190 check 4. -/
def wbNoRoute (s : State) (i w : Nat) : Bool :=
  let f := wbFar s i w
  let role := s.rd (x16P (bits f.2 60 4)) Reg.Xp.X16_ROLE
  match wbHub s i w with
  | none => false
  | some none => true
  | some (some h) => gateCode s i h = 0xFF || (f.1 = 4 && role != 1) || (f.1 = 5 && role != 2)

/-- R218: a waybill with VERIFY has one of the allowed forms. -/
def wbVerifyBad (s : State) (i w : Nat) : Bool :=
  let well := fun (sp a : Nat) => sp = 0 && inSite s i 0 a && targetOf (a % 2 ^ 40) (wbLen w) = some .well && a % 2 ^ 20 = 0
  wbVerify w && (wbLen w % 2 ^ 20 != 0 || !(if wbOp w = 1 then well (wbDstSp w) (wbDst w) else well (wbSrcSp w) (wbSrc w)))

/-- R190, R218: the first failing check of a waybill; 0 for none. -/
def wbCheck (s : State) (i region core w : Nat) (win master : Bool) : Nat :=
  if wbFormatBad s i region w then 1
  else if wbEndBad s (wbSrcSp w) (wbSrc w) (wbLen w) false || wbEndBad s (wbDstSp w) (wbDst w) (wbLen w) (wbOp w = 2) then 2
  else if wbBarred s i region core w win master then 3
  else if wbNoRoute s i w then 9
  else if (s.site i).clearing then 4
  else if streamState s i (wbStream w) = 2 then 5
  else if wbVerifyBad s i w then 7
  else 0

/-- R200: PUMP_BUSY and POST_FULL of a site. -/
def showPumps (s : State) (i : Nat) : State :=
  let st := s.site i
  let bit := fun (f : Nat → Bool) => (List.range 4).foldl (fun m p => if f p then m + 2 ^ p else m) 0
  (s.wr (pumpP i) Reg.Pu.PUMP_BUSY (bit (fun p => st.wbs.any (fun w => w.pump = p)))).wr (pumpP i) Reg.Pu.POST_FULL
    (bit (fun p => st.posts.any (fun w => w.1 = p)))

/-- R190: a pump that holds fewer than 8 waybills takes the oldest kick, else the post, that waits for it. -/
def takeWb (s : State) (i pump : Nat) (master : Bool) : State :=
  let st := s.site i
  if 8 ≤ (st.wbs.filter (fun w => w.pump = pump)).length then s
  else
    let put := fun (s : State) (core w : Nat) (win : Bool) =>
      let st := s.site i
      let c := wbCheck s i st.region core w win master
      let v : Held := { num := st.wbNum, wb := w, pump := pump, core := core, region := st.region, win := win
                        status := if c = 0 then none else some c }
      showPumps (s.setSite i { st with wbs := st.wbs ++ [v], wbNum := (st.wbNum + 1) % 2 ^ 32 }) i
    match st.kicks.find? (fun k => k.pump = pump) with
    | some k => put (s.setSite i { st with kicks := st.kicks.eraseP (fun k => k.pump = pump) }) k.core k.wb k.win
    | none => match st.posts.find? (fun p => p.1 = pump) with
      | some p => put (s.setSite i { st with posts := st.posts.filter (fun p => p.1 != pump) }) 8 p.2 false
      | none => s

/-- R200: a host post. -/
def wbPost (s : State) (i pump : Nat) : State :=
  let p := pumpP i
  let st := s.site i
  if st.posts.any (fun x => x.1 = pump % 4) then (badValue s p 0x90).setBit p Reg.Pu.POST_REFUSED
  else
    let w := (List.range 16).foldl (fun a k => a + s.rd p (Reg.Pu.WB_POST_DATA k) * 2 ^ (32 * k)) 0
    showPumps ((s.wr p Reg.Pu.POST_PUMP pump).setSite i { st with posts := st.posts ++ [(pump % 4, w)] }) i

/-! ### Starting (R190, R193, R214) -/

/-- R190: moves a running waybill on; a circular whose bytes have all left may end. -/
def wbMove (s : State) (i num : Nat) : State :=
  let s := wbStep wbFuel s i num
  match wbFind s i num with
  | some w => if wbOp w.wb = 2 ∧ w.status.isNone then circAdvance s i (wbStream w.wb) else s
  | none => s

/-- R190: whether a held waybill may start: its stream is free, and no earlier one waits for it. -/
def wbReady (s : State) (i : Nat) (w : Held) : Bool :=
  let st := s.site i
  let k := wbStream w.wb
  !w.run && w.status.isNone && streamState s i k != 1 &&
    !(st.wbs.any (fun v => decide (v.num < w.num) && v.status.isNone && !v.run && wbStream v.wb = k))

/-- R214: bytes of this site's well that a waybill writes here, if any: offset. -/
def wbLands (s : State) (i : Nat) (w : Held) : Option Nat :=
  let way := wbWay s i w.wb
  let off := wbDst w.wb % 2 ^ 40
  let here := (wbOp w.wb = 1 && wbDstSp w.wb = 0 && (way = 0 || way = 2)) ||
    (wbOp w.wb = 2 && bits (wbMask w.wb) (circMe s i (wbAxis w.wb)) 1 = 1)
  if here && targetOf off (wbLen w.wb) = some .well then some off else none

/-- R182, R187, R189: the outbound stream of a courier COPY. -/
def copyStream (s : State) (i : Nat) (w : Held) : Stream :=
  let f := wbFar s i w.wb
  let dst := match wbHub s i w.wb with
    | some (some h) => 0xF0 + h
    | _ => bits f.2 40 8
  { job := 1, ref := w.num, write := wbWay s i w.wb = 1, dst := dst, region := w.region, direct := wbDirect w.wb, addr := f.2
    len := wbLen w.wb, num := w.num
    space := if f.1 = 4 then .host true else if f.1 = 5 then .deep else .fabric }

/-- R193: a circular starts; one with nothing to send and no own bit ends at once. -/
def startCirc (s : State) (i : Nat) (w : Held) : State :=
  let reasons := circReasons s i (wbAxis w.wb) (wbMask w.wb)
  let me := circMe s i (wbAxis w.wb)
  let m := circMask reasons
  let own := bits m me 1 = 1
  let far := if own then m - 2 ^ me else m
  let w := { w with run := true, reasons := reasons }
  if m = 0 then wbEnd (wbSet s i w) i w.num (circStatus (wbMask w.wb) reasons) false
  else
    let k := wbStream w.wb
    let st : Stream := { job := 1, ref := w.num, write := true, dst := epCode s i, region := w.region, addr := wbDst w.wb, len := wbLen w.wb
                         num := w.num, circ := true, mask := far }
    let s := openStream (wbSet s i w) i k st
    let s := if far = 0 then s.setStream i k { (s.stream i k) with tx := {} } else s
    wbMove s i w.num

/-- R190: starts a waybill. -/
def startWb (s : State) (i : Nat) (w : Held) : State :=
  if streamState s i (wbStream w.wb) = 2 then wbEnd s i w.num 5 false
  else
    let r : State × Option (Option Nat) := match wbLands s i w with
      | none => (s, some none)
      | some off => match landMake s i off (wbLen w.wb) with
        | (s, none) => (s, none)
        | (s, some z) => (s, some (some z))
    match r with
    | (s, none) => s
    | (s, some z) =>
      let w := { w with land := z, run := true }
      if wbOp w.wb = 2 then startCirc s i w
      else
        let s := wbSet s i w
        let s := if wbWay s i w.wb = 0 then s else openStream s i (wbStream w.wb) (copyStream s i w)
        wbMove s i w.num

/-- R190: the first waybill of a pump that can start, in the order of taking. -/
def startNext (s : State) (i pump : Nat) : State :=
  match (s.site i).wbs.find? (fun w => w.pump = pump && wbReady s i w) with
  | some w => startWb s i w
  | none => s

/-! ### Completion (R191) -/

/-- R195: reason codes of a circular that ended with a status before its targets answered. -/
def endReasons (s : State) (i : Nat) (w : Held) (st : Nat) : Tab Nat :=
  if wbOp w.wb ≠ 2 then []
  else if w.reasons = [] ∨ (st ≠ 0 ∧ st ≠ 0x0B ∧ !w.remote ∧ w.rd < wbLen w.wb) then
    let c := if st = 4 then 4 else if st = 5 then 5 else 6
    let r := circReasons s i (wbAxis w.wb) (wbMask w.wb)
    upTo 16 (fun a t => if tabGet (fun _ => 0) r t = 0 then tabSet (fun _ => 0) a t c else a) r
  else w.reasons

/-- R418: the timer event of a kick's completion; one in an extension cycle or a hold waits for the next frame. -/
def kickEvent (s : State) (c : CoreId) (cyc : Nat) : State :=
  let st := s.site c.site
  let fl := s.frameLen c.site
  if !st.exec ∨ fl ≤ cyc then s.setSite c.site { st with kickLate := st.kickLate ||| 2 ^ c.n }
  else
    let s := if fl - s.slackLen c.site ≤ cyc then enterSlack s c.site s.rcnt else s
    timerSource s c 2 none true true (st.base + cyc) s.rcnt

/-- R191: BYTES_DONE. -/
def wbBytes (w : Held) (st : Nat) : Nat :=
  if st = 0 then wbLen w.wb else if st = 7 ∨ st = 8 then w.good else w.pos

/-- R191: the completion record. -/
def wbRecord (s : State) (i : Nat) (w : Held) (st : Nat) (redirected : Bool) : Nat :=
  let rs := endReasons s i w st
  let code := fun (t : Nat) => tabGet (fun _ => 0) rs t
  let circ := decide (wbOp w.wb = 2)
  let reasons := if circ then (List.range 16).foldl (fun a t => a + code t * 8 ^ t) 0 else 0
  let given := if circ then (List.range 16).foldl (fun a t => if code t = 0 then a + 2 ^ t else a) 0 else 0
  let bit := fun (b : Bool) (k : Nat) => if b then 2 ^ k else 0
  let flags := bit w.poison 0 + bit w.remote 1 + bit (wbVerify w.wb && st = 0) 2 + bit w.retried 3 + bit redirected 4
  sealRec [(0, 8, s.time), (8, 8, wbTag w.wb), (16, 1, st), (17, 1, flags), (18, 1, w.pump + 4 * w.core), (19, 1, w.attempts),
    (20, 4, wbBytes w st), (24, 3, w.seq), (28, 2, wbStream w.wb), (30, 2, given), (32, 6, reasons), (38, 6, (s.site i).fc), (44, 4, w.num)]

/-- R191, R383, R415: writes the record to its ring, or to the event queue and the log. -/
def wbFile (s : State) (i : Nat) (w : Held) (st : Nat) : State :=
  let q := ringIx i (wbCq w.wb)
  if st = 1 ∨ !(qRoom s q) then
    let rec_ := wbRecord s i w st true
    let s := (s.setBit (pumpP i) Reg.Pu.RING_REDIRECT).bump (pumpP i) Reg.Pu.RING_REDIRECT_CNT 1
    evqPut (logAdd s (logTag 2 w.region) rec_) w.region rec_
  else qPut s q (wbRecord s i w st false)

/-- R161, R191, R214: a waybill that has ended is completed. -/
def completeWb (s : State) (i num cyc : Nat) : State :=
  match wbFind s i num with
  | none => s
  | some w => match w.status with
    | none => s
    | some st =>
      let p := pumpP i
      let s := wbFile s i w st
      let s := s.wrap p Reg.Pu.WB_DONE_CNT 1
      let s := if st = 0 then s else s.bump p Reg.Pu.WB_FAIL_CNT 1
      let s := if st = 1 then s.setBit p Reg.Pu.WB_FORMAT else s
      let s := if st = 7 ∨ st = 8 then
          let s := s.setBit p Reg.Pu.IMAGE
          if wbOp w.wb = 1 then s.setBit (wellP i) Reg.We.IMAGE_FAIL else s
        else s
      let s := match w.land with
        | none => s
        | some z => landEnd s i z (wbDst w.wb % 2 ^ 40) (if wbOp w.wb = 2 then w.rd else wbBytes w st) (st = 0)
      let st' := s.site i
      let s := s.setSite i { st' with wbs := st'.wbs.filter (fun v => v.num != num) }
      let s := if w.core < 8 then
          let c : CoreId := ⟨i, w.core⟩
          let s := s.wr (coreP c) Reg.Co.KICKS_OUT (s.rd (coreP c) Reg.Co.KICKS_OUT - 4 ^ w.pump)
          kickEvent (closeWindow s i w) c cyc
        else s
      showPumps s i

/-! ### The commands -/

/-- R200: WB_POST. -/
def execWbPost (i pump : Nat) (s : State) : Host.Outcome State Fault Refusal := onUnit (siteOk i) (hostPath s (pumpP i) 0x90 (wbPost s i pump))

/-- R190: WAYBILL_TAKE. -/
def execWaybillTake (i pump : Nat) (master : Bool) (s : State) : Host.Outcome State Fault Refusal :=
  onUnit (siteOk i && decide (pump < 4)) (takeWb s i pump master)

/-- R190: WAYBILL_START. -/
def execWaybillStart (i pump : Nat) (s : State) : Host.Outcome State Fault Refusal :=
  onUnit (siteOk i && decide (pump < 4)) (startNext s i pump)

/-- R191: WAYBILL_COMPLETE. -/
def execWaybillComplete (i num cyc : Nat) (s : State) : Host.Outcome State Fault Refusal := onUnit (siteOk i) (completeWb s i num cyc)

end Sys2Proof.Machine
end

