-- ==== Sys2Proof/Machine/CourierRows.lean ====
section
/-! DEFINITION. Commands of the courier plane: sending and receiving envelopes, timeouts, link failure (R179), the egress
shares of the hubs (R344, R345), stream reset (R186), and drain and swap (R197, R381). -/

namespace Sys2Proof.Machine

/-! ### Egress shares (R344, R345) -/

/-- R12, R344: ring direction toward another hub: 6 the order of R12, 7 against it. -/
def ringDir (a b : Nat) : Nat :=
  let x := ringOrder.findIdx (· = a)
  let y := ringOrder.findIdx (· = b)
  let d := (y + 17 - x) % 17
  if d < 17 - d then 6 else 7

/-- R235, R344: the egress of hub `h` that a fabric envelope takes. -/
def egressOf (s : State) (h panel stream attempt : Nat) (via : Option Nat) : Option Nat :=
  match via with
  | some p => some p
  | none =>
    match fabHop s h (newTag s h panel 0 attempt) { kind := 3, dst := 0, src := 0, stream := BitVec.ofNat 9 stream } with
    | .leave p => some p
    | .ring k => some (ringDir h k)
    | _ => none

/-- R345: region `r` has a word waiting at egress `e` of hub `h`. -/
def egressWaits (s : State) (h e r : Nat) : Bool :=
  let ep := 256 + h
  s.streams.any (fun x =>
    let m := x.2
    x.1 / 512 = ep && m.region = r && m.panel != 4096 && m.tx.queue != [] && !m.tx.wait && !m.tx.broken && decide (m.tx.win.length < 64) &&
      egressOf s h m.panel (x.1 % 512) (s.rd (epPage ep) (Reg.Cn.ATTEMPT (x.1 % 512))) m.via = some e) ||
  s.ctxs.any (fun x =>
    let c := x.2
    x.1 / 512 = ep && c.live && c.region = r && c.panel != 4096 && c.tx.queue != [] && !c.tx.broken && decide (c.tx.win.length < 64) &&
      egressOf s h c.panel c.stream c.tx.attempt none = some e)

/-- R344: owner of opportunity `n` of an egress. -/
def shareOwner (s : State) (h e n : Nat) : Nat := bits (s.rd (hubP h 0) (Reg.Hu.SHARE (16 * e + n % 64 / 4))) (8 * (n % 4)) 8

/-- R345: the region that round-robin serves next at an egress after class `last`. -/
def lendNext (s : State) (h e last : Nat) : Option Nat :=
  ((List.range 18).map (fun k => (last + 1 + k) % 18)).find? (fun r => decide (r < 16) && egressWaits s h e r)

/-- R345: whether opportunity `n` of egress `e` serves region `r`; the state keeps the class last lent to. -/
def mayLeave (s : State) (h e n r : Nat) : Bool × State :=
  let o := shareOwner s h e n
  let key := if o = 0x10 then 16 + e else e
  let last := tabGet (fun _ => 17) (s.hub h).lent key
  if o < 16 ∧ egressWaits s h e o then (o = r, s)
  else if lendNext s h e last = some r then
    (true, s.setHub h { (s.hub h) with lent := tabSet (fun _ => 17) (s.hub h).lent key r })
  else (false, s)

/-- R184, R345: endpoint `ep` sends the next envelope of a stream or of a context's response direction. -/
def sendOne (s : State) (ep k : Nat) (resp : Bool) (opp : Nat) : State :=
  let panel := if resp then (s.ctx ep k).panel else (s.stream ep k).panel
  let go := fun (s : State) => if resp then sendResp s ep k else sendNext s ep k
  if ep < 256 ∨ panel = 4096 then go s
  else
    let h := ep - 256
    let r := if resp then (s.ctx ep k).region else (s.stream ep k).region
    let e := if resp then egressOf s h panel (s.ctx ep k).stream (s.ctx ep k).tx.attempt none
      else egressOf s h panel k (s.rd (epPage ep) (Reg.Cn.ATTEMPT k)) (s.stream ep k).via
    match e with
    | none => go s
    | some e => let m := mayLeave s h e opp r; if m.1 then go m.2 else s

/-! ### Timeouts (R185, R194, R446) -/

/-- R194, R195: targets of a circular that have been silent for ACK_TIMEOUT. -/
def circSilent (s : State) (ep k : Nat) : State :=
  let m := s.stream ep k
  let open_ := (List.range 16).filter (fun t => bits m.mask t 1 = 1 && (tabFind m.tEnd t).isNone)
  let silent := match m.tx.win with
    | [] => if m.tx.queue = [] then open_ else []
    | e :: _ => open_.filter (fun t =>
      2 ^ 23 ≤ seqAfter (tabGet (fun _ => (m.s0 + 2 ^ 24 - 1) % 2 ^ 24) m.tAck t) e.seq.toNat)
  silent.foldl (fun s t => circEnd s ep k t 7) s

/-- R185, R446: ACK_TIMEOUT of a direction. With every envelope of a write acknowledged and no DONE, LAST is sent again. -/
def ackTimeout (s : State) (ep k : Nat) (resp : Bool) : State :=
  if resp then (if (s.ctx ep k).live && (s.ctx ep k).tx.win != [] && !(s.ctx ep k).tx.broken then retryBack s ep k else s)
  else
    let m := s.stream ep k
    if streamState s ep k ≠ 1 ∨ m.tx.wait then s
    else if m.circ then circSilent s ep k
    else match m.tx.win, m.tx.queue, m.tx.sent with
      | [], [], some e => if m.write && e.last then retry (s.setStream ep k { m with tx := { m.tx with win := [e] } }) ep k else s
      | [], _, _ => s
      | _, _, _ => retry s ep k

/-- R184: the OPEN is sent again after a BUSY answer. -/
def openRetry (s : State) (ep k : Nat) : State :=
  let m := s.stream ep k
  match m.tx.win with
  | e :: _ =>
    if streamState s ep k = 1 ∧ m.tx.wait then
      let s := s.setStream ep k { m with tx := { m.tx with wait := false } }
      countRetrans (emitOut s ep m (axisOf s ep m) (s.rd (epPage ep) (Reg.Cn.ATTEMPT k)) e) ep 1
    else s
  | [] => s

/-- R175: a context is freed; a write that had not ended leaves its landing range FAILED. -/
def ctxIdle (s : State) (ep k : Nat) : State :=
  if (s.ctx ep k).live then ctxDrop (if (s.ctx ep k).done.isNone then ctxLand s ep k false else s) ep k else s

/-! ### Link failure (R179) -/

/-- R179: the NOTICE for a discarded envelope of direction `resp`. -/
def noticeOf (s : State) (i port : Nat) (resp : Bool) (e : Env) : State :=
  let n : Env := { kind := 6, dst := e.src, src := BitVec.ofNat 8 (epCode s i), stream := e.stream, region := e.region, sepoch := e.sepoch
                   data := BitVec.ofNat 384 (port + e.seq.toNat * 256) }
  sendEnv s i e.region.toNat resp false 0 n

/-- R335: a port of site `i` goes down that mirrors to it, or from it. -/
def mirrorDown (s : State) (i port : Nat) : State :=
  let t := (s.site i).mirTo
  let s := if s.rd (relP i) Reg.Re.MIRROR_PORT = port then shadowEnd s i 5 6 else s
  if t < 256 ∧ portNext i port = some t then shadowEnd s t 5 6 else s

/-- R179: courier lane group `port` of site `i` fails and discards `lost`. -/
def linkFail (s : State) (i port : Nat) (lost : List (Bool × Env)) : State :=
  let p := cniP i
  let s := (s.setBit p Reg.Cn.LINK_DOWN).orBits p Reg.Cn.DOWN_PORTS (2 ^ port)
  let s := s.wrap p Reg.Cn.EJ_TOTAL lost.length
  let s := siteEvent s i 7 1 p Reg.Cn.regs 1
  let mine := lost.filter (fun x => decide (1 ≤ x.2.kind.toNat) && decide (x.2.kind.toNat ≤ 3))
  let same := fun (x y : Bool × Env) => x.1 = y.1 && x.2.src = y.2.src && x.2.stream = y.2.stream
  let firsts := mine.foldl (fun (l : List (Bool × Env)) x => if l.any (same x) then l else l ++ [x]) []
  let s := firsts.foldl (fun s x => noticeOf s i port x.1 x.2) s
  mirrorDown s i port

/-- R179: a replay; the 16th failed replay of one envelope fails the lane group. -/
def linkReplay (s : State) (i port fails : Nat) (lost : List (Bool × Env)) : State :=
  let s := (s.setBit (cniP i) Reg.Cn.REPLAY).bump (cniP i) Reg.Cn.REPLAY_CNT 1
  if 16 ≤ fails then linkFail s i port lost else s

/-! ### Stream reset (R186) -/

/-- R186: a stream that is broken or idle takes the next epoch. -/
def streamReset (s : State) (i k : Nat) : Option State :=
  if streamState s i k = 1 then none
  else
    let p := cniP i
    let s := (setStreamState s i k 0).wr p (Reg.Cn.ATTEMPT k) 0
    let s := s.wr p (Reg.Cn.SEPOCH k) (s.rd p (Reg.Cn.SEPOCH k) + 1)
    some ((s.wr p Reg.Cn.RESET_STREAM k).setStream i k {})

/-! ### Drain and swap (R197, R381) -/

/-- R196, R200: the NI of a site exchanges its route tables. -/
def swapRoutes (s : State) (i : Nat) : State :=
  let p := cniP i
  let g := fun (h : Nat) => s.rd p (Reg.Cn.SH_GATE h) + 256 * s.rd p (Reg.Cn.EGRESS h)
  let t := ((s.wrPair p Reg.Cn.ACT_RECT Reg.Cn.ACT_RECT_COMPL (s.rd p Reg.Cn.SH_RECT)).wrPair p Reg.Cn.ACT_SALT Reg.Cn.ACT_SALT_COMPL
    (s.rd p Reg.Cn.SH_SALT)).wrPair p Reg.Cn.ACT_FLAGS Reg.Cn.ACT_FLAGS_COMPL (s.rd p Reg.Cn.SH_FLAGS)
  let t := ((t.wrPair p Reg.Cn.SH_RECT Reg.Cn.RECT_COMPL (s.rd p Reg.Cn.ACT_RECT)).wrPair p Reg.Cn.SH_SALT Reg.Cn.SALT_COMPL
    (s.rd p Reg.Cn.ACT_SALT)).wrPair p Reg.Cn.SH_FLAGS Reg.Cn.FLAGS_COMPL (s.rd p Reg.Cn.ACT_FLAGS)
  let t := upTo 16 (fun t h =>
    let a := s.rd p (Reg.Cn.ACT_GATE h)
    let t := t.wrPair p (Reg.Cn.ACT_GATE h) (Reg.Cn.ACT_GATE_COMPL h) (g h)
    ((t.wr p (Reg.Cn.SH_GATE h) a).wr p (Reg.Cn.EGRESS h) (a / 256)).wr p (Reg.Cn.GATE_COMPL h) (0xFFFF - a)) t
  let t := (t.wr p Reg.Cn.SHADOW_VALID 0).wr p Reg.Cn.TABLE_ACTIVE (1 - s.rd p Reg.Cn.TABLE_ACTIVE)
  let t := t.setSite i { (t.site i) with down := [], shWritten := 0 }
  match hubOf i with
  | some h => t.setHub h { (t.hub h) with down := [] }
  | none => t

/-- R197 step 6: injection resumes at the NI of a site, and at the hub that it is the gate of. -/
def resumeNi (s : State) (i : Nat) : State :=
  let s := flushWaiting (s.wr (cniP i) Reg.Cn.INJ_STOPPED 0) i
  match hubOf i with
  | some h => flushWaiting s (256 + h)
  | none => s

/-- R381: a region's drain ends. -/
def drainEnd (s : State) (r : Nat) : State :=
  let s := (s.wr drainP (Reg.Dr.DRAINING r) 0).wr drainP (Reg.Dr.DRAIN_DONE r) 0
  s.setRegion r { (s.region r) with swapAt := none }

/-- R381: DRAIN. -/
def drainGo (s : State) (r : Nat) : Option State :=
  if s.rd drainP (Reg.Dr.DRAINING r) = 1 then none
  else some ((regionSites s r).foldl (fun s i => s.wr (cniP i) Reg.Cn.INJ_STOPPED 1) (s.wr drainP (Reg.Dr.DRAINING r) 1))

/-- R197 step 4: the sums of a region's NIs. -/
def drainSums (s : State) (r : Nat) : Nat × Nat :=
  (regionSites s r).foldl (fun a i => ((a.1 + s.rd (cniP i) Reg.Cn.INJ_TOTAL) % 2 ^ 32, (a.2 + s.rd (cniP i) Reg.Cn.EJ_TOTAL) % 2 ^ 32)) (0, 0)

/-- R197 step 4: the region is drained. -/
def drainDone (s : State) (r : Nat) : State :=
  let t := drainSums s r
  if s.rd drainP (Reg.Dr.DRAINING r) = 1 ∧ s.rd drainP (Reg.Dr.DRAIN_DONE r) = 0 ∧ t.1 = t.2 then
    pfSet (s.wr drainP (Reg.Dr.DRAIN_DONE r) 1) intDrain
  else s

/-- R197: DRAIN_LIMIT passes. -/
def drainTimeout (s : State) (r : Nat) : State :=
  if s.rd drainP (Reg.Dr.DRAINING r) = 1 ∧ s.rd drainP (Reg.Dr.DRAIN_DONE r) = 0 then
    pfSet (s.wr drainP (Reg.Dr.DRAIN_TIMEOUT r) 1) intDrain
  else s

/-- R381: SWAP, for the next frame boundary. -/
def swapGo (s : State) (r : Nat) : Option State :=
  if s.rd drainP (Reg.Dr.DRAIN_DONE r) = 0 then none
  else some (s.setRegion r { (s.region r) with swapAt := some (((s.region r).fc + 1) % 2 ^ 48) })

/-- R381: ABORT. -/
def drainAbort (s : State) (r : Nat) : Option State :=
  if s.rd drainP (Reg.Dr.DRAINING r) = 0 then none
  else some ((regionSites s r).foldl resumeNi (drainEnd s r))

/-- R197 step 5: what a boundary does to the route tables of site `i`, whose new frame count is `fc`. -/
def swapAtMark (s : State) (i fc : Nat) : State :=
  let r := (s.site i).region
  if 16 ≤ r then s
  else match (s.region r).swapAt with
    | none => s
    | some f =>
      if f ≠ fc then s
      else
        let s := resumeNi (swapRoutes s i) i
        let s := (s.wr drainP (Reg.Dr.DRAINING r) 0).wr drainP (Reg.Dr.DRAIN_DONE r) 0
        let s := s.setBit drainP (Reg.Dr.SWAPPED r)
        if (regionSites s r).all (fun k => k = i || (s.site k).fc = fc) then s.setRegion r { (s.region r) with swapAt := none } else s

/-! ### The commands -/

def drainOff (r k : Nat) : Nat := 0x40 + 0x10 * r + k

/-- R176, R184, R345: ENVELOPE_SEND. -/
def execEnvelopeSend (ep k : Nat) (resp : Bool) (opp : Nat) (s : State) : Host.Outcome State Fault Refusal :=
  onUnit (epOk ep && decide (k < 512)) (sendOne s ep k resp opp)

/-- An envelope of kind `n` arrives from this panel's courier plane; another kind is no such command. -/
def arrive (s : State) (ep n : Nat) (resp : Bool) (space : HubSpace) (e : Env) : Host.Outcome State Fault Refusal :=
  onUnit (epOk ep) (if e.kind.toNat = n then receive s ep 4096 resp space e else s)

/-- R187: OPEN_WR. -/
def execOpenWr (ep : Nat) (space : HubSpace) (e : Env) (s : State) : Host.Outcome State Fault Refusal := arrive s ep 1 false space e

/-- R187: OPEN_RD. -/
def execOpenRd (ep : Nat) (space : HubSpace) (e : Env) (s : State) : Host.Outcome State Fault Refusal := arrive s ep 2 false space e

/-- R187, R183: DATA, and envelopes of reserved kinds. -/
def execData (ep : Nat) (resp : Bool) (e : Env) (s : State) : Host.Outcome State Fault Refusal :=
  onUnit (epOk ep) (if e.kind = 3 ∨ e.kind = 0 ∨ 6 < e.kind.toNat then receive s ep 4096 resp .fabric e else s)

/-- R187: DONE. -/
def execDone (ep : Nat) (e : Env) (s : State) : Host.Outcome State Fault Refusal := arrive s ep 4 false .fabric e

/-- R184: ACK. -/
def execAck (ep : Nat) (resp : Bool) (e : Env) (s : State) : Host.Outcome State Fault Refusal := arrive s ep 5 resp .fabric e

/-- R185: NOTICE. -/
def execNotice (ep : Nat) (resp : Bool) (e : Env) (s : State) : Host.Outcome State Fault Refusal := arrive s ep 6 resp .fabric e

/-- R185, R446: ACK_TIMEOUT. -/
def execAckTimeout (ep k : Nat) (resp : Bool) (s : State) : Host.Outcome State Fault Refusal :=
  onUnit (epOk ep && decide (k < 512)) (ackTimeout s ep k resp)

/-- R184: OPEN_RETRY. -/
def execOpenRetry (ep k : Nat) (s : State) : Host.Outcome State Fault Refusal := onUnit (epOk ep && decide (k < 512)) (openRetry s ep k)

/-- R175: CTX_IDLE. -/
def execCtxIdle (ep k : Nat) (s : State) : Host.Outcome State Fault Refusal := onUnit (epOk ep && decide (k < 512)) (ctxIdle s ep k)

/-- R179: LINK_REPLAY. -/
def execLinkReplay (i port fails : Nat) (lost : List (Bool × Env)) (s : State) : Host.Outcome State Fault Refusal :=
  onUnit (siteOk i && decide (port < 9)) (linkReplay s i port fails lost)

/-- R179: REPLAY_TIMEOUT. -/
def execReplayTimeout (i port : Nat) (lost : List (Bool × Env)) (s : State) : Host.Outcome State Fault Refusal :=
  onUnit (siteOk i && decide (port < 9)) (linkFail s i port lost)

/-- R186: STREAM_RESET. -/
def execStreamReset (i : Nat) (k : BitVec 9) (s : State) : Host.Outcome State Fault Refusal :=
  onUnit (siteOk i) (hostAct s (cniP i) 0x60 (streamReset s i k.toNat))

/-- R381: DRAIN. -/
def execDrain (r : Nat) (s : State) : Host.Outcome State Fault Refusal :=
  onUnit (regionOk r) (hostAct s drainP (drainOff r 0) (drainGo s r))

/-- R197: DRAIN_DONE. -/
def execDrainDone (r : Nat) (s : State) : Host.Outcome State Fault Refusal := onUnit (regionOk r) (drainDone s r)

/-- R197: DRAIN_TIMEOUT. -/
def execDrainTimeout (r : Nat) (s : State) : Host.Outcome State Fault Refusal := onUnit (regionOk r) (drainTimeout s r)

/-- R381: SWAP. -/
def execSwap (r : Nat) (s : State) : Host.Outcome State Fault Refusal :=
  onUnit (regionOk r) (hostAct s drainP (drainOff r 0) (swapGo s r))

/-- R381: ABORT. -/
def execDrainAbort (r : Nat) (s : State) : Host.Outcome State Fault Refusal :=
  onUnit (regionOk r) (hostAct s drainP (drainOff r 0) (drainAbort s r))

end Sys2Proof.Machine
end

