-- ==== Sys2Proof/Machine/Shadow.lean ====
section
/-! DEFINITION. What a shadow site and its buddy keep in step (R333, R334): mirrored writes at their cycles, and the
digests of the scheduled writes and sends of an issued bundle. -/

namespace Sys2Proof.Machine

/-! ### Mirrored writes at the shadow -/

/-- R333: the memory writes of `xs`, as the shadow applies them. -/
def mirrorWrites (s : State) (i : Nat) (xs : List Mirror) : State :=
  xs.foldl (fun s x => if x.kind = 0 then s.put (siteBase i + x.off) x.words ⟨x.data, x.poison⟩ else s) s

/-- R333: a memory write of the buddy's frame falls due at the shadow by frame cycle `cyc` of the frame one later. -/
def mirrorReady (fc cyc : Nat) (x : Mirror) : Bool :=
  x.kind = 0 && (decide (fcAhead fc x.fc = 1) && decide (x.cyc ≤ cyc))

/-- R333: applies what falls due at cycle `t` of shadow `i`. -/
def mirrorNow (s : State) (i t : Nat) : State :=
  let st := s.site i
  let due := mirrorReady st.fc (t - st.base)
  mirrorWrites (s.setSite i { st with mirror := st.mirror.filter (fun x => !(due x)) }) i (st.mirror.filter due)

/-- The latest cycle named on site `i` (Site.now). -/
def atCycle (s : State) (i t : Nat) : State := s.setSite i { (s.site i) with now := t }

/-! ### Digests (R334) -/

/-- One line or half-line at cycle `t`: its place, and what memory holds there now. -/
def digLine (s : State) (c : CoreId) (t unit b l w0 words : Nat) : Nat × DigItem :=
  let a := spAddr c.site c.n b l + 8 * w0
  (c.n, digestItem (t - (s.site c.site).base) unit b l words (memRead s.mem a (8 * words)) (memPoison s.mem a words))

/-- R50: the lines that a drain writes. -/
def digMx (s : State) (c : CoreId) (mx t : Nat) : List (Nat × DigItem) :=
  if bits mx 0 8 ≠ 4 then []
  else
    let dq := bits mx 24 3
    (List.range ((bits mx 17 7 + 1) * (if bits mx 8 1 = 0 then 16 else 8))).map (fun i =>
      digLine s c (t + 2 + i) 0 (4 * dq + i % 4) (bits mx 27 7 + i / 4) 0 16)

/-- R92, R91: the scratchpad writes of VSTORE and of status operations; `as` are its accesses. -/
def digVx (s : State) (c : CoreId) (vx : Nat) (as : List Access) : List (Nat × DigItem) :=
  if bits vx 0 8 = 0x40 then []
  else as.filterMap (fun a =>
    let o := a.undoAt - coreBase c.site c.n
    if a.undoWords = 0 ∨ vfBase c.site c.n ≤ a.undoAt then none
    else some (digLine s c a.cyc a.unit (o / 0x4000) (o % 0x4000 / 128) (o / 8 % 16) a.undoWords))

/-- R158: lines that an MV operation writes to scratchpads, and lines that it sends. -/
def digMv (s : State) (c : CoreId) (mv t : Nat) : List (Nat × DigItem) :=
  let b := mvBank mv
  let l := mvLine mv
  let lat := bankLat b
  let lines := List.range (mvC mv)
  let own := fun (i d : Nat) => digLine s c (t + d + spacing i) 1 b (l + i) 0 16
  match bits mv 0 8 with
  | 1 => lines.map (fun i => digLine s c (t + 2 + lat + spacing i) 1 (bits mv 20 5) (bits mv 25 7 + i) 0 16)
  | 2 => lines.map (fun i => own i (1 + cisLat c.n (bits mv 20 4)))
  | 3 | 7 => lines.map (fun i => own i 1)
  | 4 => lines.map (fun i => own i (9 + bankLat (bits mv 23 5)))
  | 5 => lines.flatMap (fun i => [own i 1,
      digLine s ⟨c.site, bits mv 20 3⟩ (t + 5 + lat + spacing i) 4 (bits mv 23 5) (bits mv 28 7 + i) 0 16])
  | 6 => lines.map (fun i => own i 900)
  | _ => []

/-- R162: the beats that a bound send sends. -/
def digLk (s : State) (c : CoreId) (lk : Nat) : List (Nat × DigItem) :=
  match bits lk 0 8, hopFind s c.site (bits lk 8 12) with
  | 1, some e => (List.range (hopBeats e)).map (fun j =>
      let a := beatAcc s c lk e 0 j
      digLine s c a.cyc 1 (a.port % 32) a.line (8 * (j % 2)) 8)
  | _, _ => []

/-- R334: adds contributions to the digests that a buddy or a shadow keeps. -/
def digAdd (s : State) (i : Nat) (xs : List (Nat × DigItem)) : State :=
  let st := s.site i
  if st.digOn then s.setSite i { st with digs := st.digs ++ xs } else s

end Sys2Proof.Machine
end

