-- ==== Sys2Proof/Machine/Sequencer.lean ====
section
/-! DEFINITION. The sequencer of a core (R146 to R156, R164 to R173): fetch, the due cycle, the checks of decode, issue,
control operations, arming and starting. -/

namespace Sys2Proof.Machine

/-! ### The bundle (R146 to R148) -/

/-- Bundle positions. -/
def ringLen : Nat := 2730

/-- R146: builds the 384 bits of a bundle from its six parts. -/
def bundleOf (hdr mx vx mv lk : Nat) : Nat :=
  hdr % 2 ^ 32 + mx % 2 ^ 96 * 2 ^ 32 + vx % 2 ^ 128 * 2 ^ 128 + mv % 2 ^ 64 * 2 ^ 256 + lk % 2 ^ 64 * 2 ^ 320

def bundleHdr (b : Nat) : Nat := bits b 0 32
def bundleMx (b : Nat) : Nat := bits b 32 96
def bundleVx (b : Nat) : Nat := bits b 128 128
def bundleMv (b : Nat) : Nat := bits b 256 64
def bundleLk (b : Nat) : Nat := bits b 320 64

/-- R148: header fields. -/
def hdrDelta (h : Nat) : Nat := bits h 0 16
def hdrArg (h : Nat) : Bool := bits h 16 1 = 1
def hdrFa (h : Nat) : Bool := bits h 17 1 = 1
def hdrCtl (h : Nat) : Nat := bits h 24 8

/-- R152: control opcodes that exist. -/
def ctlKnown (op : Nat) : Bool := op ≤ 4 || (0x10 ≤ op && op ≤ 0x2F)

/-- R152: control opcodes that take an argument. -/
def ctlArg (op : Nat) : Bool := op = 1 || op = 2 || op = 4

/-! ### The due cycle (R149) -/

/-- When the next bundle falls due: its cycle counted as Site.base does, and why it cannot issue there. -/
structure Due where
  cyc : Nat
  /-- LATE_FRAME cause 2 or 7, or 0. -/
  cause : Nat
  /-- Frame cycle and frame count at which it was due (R171). -/
  dueCyc : Nat
  dueFc : Nat
  deriving DecidableEq, Repr

/-- R149, R125: the due cycle of a bundle with header `h` on core `c`, if it falls in the frame that the site executes. -/
def dueOf (s : State) (c : CoreId) (h : Nat) : Option Due :=
  let k := s.core c
  let st := s.site c.site
  let fl := s.frameLen c.site
  let sl := s.slackLen c.site
  if !st.exec then none
  else match k.skipped with
    | some d => some ⟨st.base, 7, d.1, d.2⟩
    | none =>
      if hdrFa h then
        if st.fc = k.prevFc then none
        else if fl - sl ≤ hdrDelta h then some ⟨st.base + (fl - sl), 2, hdrDelta h, st.fc⟩
        else some ⟨st.base + hdrDelta h, 0, hdrDelta h, st.fc⟩
      else
        let t := k.prev + hdrDelta h - 1
        if st.base + fl ≤ t then none
        else some ⟨t, if st.base + (fl - sl) ≤ t then 2 else 0, t - st.base, st.fc⟩

/-! ### Fetch (R147, R150, R165, R316) -/

/-- R147: first and last program-buffer row of the bundle at position `p`. -/
def fetchRows (p : Nat) : Nat × Nat := (48 * p / 128, (48 * p + 47) / 128)

/-- The bundle at position `p`. -/
def bundleAt (s : State) (c : CoreId) (p : Nat) : Nat := memRead s.mem (pbBase c.site c.n + 48 * p) 48

/-- R165: the fetched row that lies in a write window open at the fetch cycle `t - 3`. -/
def windowRow (s : State) (c : CoreId) (p t : Nat) : Option Nat :=
  match (s.core c).window with
  | none => none
  | some w =>
    let r := fetchRows p
    if t < w.opens + 3 then none
    else if w.lo ≤ r.1 ∧ r.1 ≤ w.hi then some r.1
    else if w.lo ≤ r.2 ∧ r.2 ≤ w.hi then some r.2
    else none

/-- R316: poison of the words of the fetched rows, bit i for word i from the first row. -/
def fetchPoison (s : State) (c : CoreId) (p : Nat) : Nat :=
  let r := fetchRows p
  memPoison s.mem (pbBase c.site c.n + 128 * r.1) (16 * (r.2 - r.1 + 1))

/-- R314: a fetch notes corrected words. -/
def noteFetch (s : State) (c : CoreId) (p : Nat) : State :=
  let r := fetchRows p
  if marksGet s.mem.ce ((pbBase c.site c.n + 128 * r.1) / 8) (16 * (r.2 - r.1 + 1)) = 0 then s
  else s.setBit (relP c.site) Reg.Re.PB_CE

/-- Latent errors that strike memories before a step: word indices with a correctable or uncorrectable error (R101). -/
def strike (s : State) (ups : Upsets) : State :=
  { s with mem := ups.foldl (fun m u =>
      if u.2 then { m with ue := keyAdd m.ue u.1, ce := keyDel m.ce u.1 }
      else if keyHas m.ue u.1 then m else { m with ce := keyAdd m.ce u.1 }) s.mem }

/-! ### Control operations (R152 to R154) -/

/-- Distance from `a` to `b` around the ring. -/
def ringDist (a b : Nat) : Nat := (b + ringLen - a) % ringLen

/-- R152 to R154: the checks of the header and of the argument. -/
def ctlBad (k : Core) (p h lk : Nat) : List Bad :=
  let op := hdrCtl h
  let hdr :=
    fieldBad (!(ctlKnown op)) 2 0 24 8 ++ rsvBad h 0 18 6 ++
      (if ctlKnown op then fieldBad (hdrArg h != ctlArg op) 3 0 16 1 else []) ++
      fieldBad (hdrDelta h = 0 && !(hdrFa h)) 3 0 0 16
  let arg :=
    if !(hdrArg h) then []
    else match op with
      | 1 =>
        let len := bits lk 16 12
        let outside := match k.loops with
          | [] => false
          | e :: _ => decide (ringDist e.first e.last < ringDist e.first ((p + 1) % ringLen) + len)
        rsvBad lk 5 28 36 ++ fieldBad (decide (4 ≤ k.loops.length)) 4 5 0 0 ++
          fieldBad (decide (2728 < len) || outside) 5 5 16 12
      | 2 => rsvBad lk 5 12 52 ++ fieldBad (decide (ringLen ≤ bits lk 0 12) || !(k.loops.isEmpty)) 5 5 0 12
      | 4 => rsvBad lk 5 32 32
      | _ => []
  hdr ++ arg

/-- R153: where the sequencer continues after the bundle at `p`, and the loops that remain. -/
def afterBundle (p : Nat) : List LoopEnt → Nat × List LoopEnt
  | [] => ((p + 1) % ringLen, [])
  | e :: rest =>
    if p = e.last then
      if 0 < e.left then (e.first, { e with left := e.left - 1 } :: rest) else afterBundle p rest
    else ((p + 1) % ringLen, e :: rest)

/-- R149, R153, R154: moves the sequencer past the bundle at `p`. -/
def advance (k : Core) (p h lk : Nat) : Core :=
  match hdrCtl h with
  | 1 =>
    let e : LoopEnt := ⟨(p + 1) % ringLen, (p + 1 + bits lk 16 12) % ringLen, bits lk 0 16⟩
    { k with loops := e :: k.loops, nextPc := (p + 1) % ringLen }
  | 2 => { k with nextPc := bits lk 0 12 }
  | _ => { k with nextPc := (afterBundle p k.loops).1, loops := (afterBundle p k.loops).2 }

/-- R154, R349: a NOTE record, or its drop when the telemetry budget is spent. -/
def noteEffect (s : State) (c : CoreId) (t p tag : Nat) : State :=
  let st := s.site c.site
  let lim := s.rd (budP c.site) Reg.Bu.BUD_TELEM
  if lim ≤ st.uTelem then
    ((s.setBit (coreP c) Reg.Co.NOTE_DROPPED).bump (coreP c) Reg.Co.NOTE_DROP_CNT 1).orBits (budP c.site) Reg.Bu.BUD_HIT 8
  else
    let s := s.setSite c.site { st with uTelem := st.uTelem + 1 }
    (coreRecord s c { ty := 0x0A, d0 := tag, pc := p, cyc := t }).1

/-- R154: the program ends. -/
def stopEffect (s : State) (c : CoreId) (t p : Nat) : State :=
  let k := s.core c
  let s := s.setCore c { k with lastCyc := 0 }
  let s := if s.rd (coreP c) Reg.Co.STATE = 2 then s.wr (coreP c) Reg.Co.STATE 3 else s
  (coreRecord s c { ty := 0, d0 := k.issued % 2 ^ 32, pc := p, cyc := t }).1

/-- R152: the effect of the control operation of an issued bundle. -/
def ctlEffect (s : State) (c : CoreId) (t p h lk : Nat) : State :=
  let op := hdrCtl h
  if op = 3 then stopEffect s c t p
  else if op = 4 then noteEffect s c t p (bits lk 0 32)
  else if 0x10 ≤ op ∧ op ≤ 0x1F then timerSource s c 0 (some (op - 0x10)) true false t s.rcnt
  else if 0x20 ≤ op ∧ op ≤ 0x2F then timerSource s c 0 (some (op - 0x20)) false true t s.rcnt
  else s

/-! ### Issue (R150, R155, R156, R169) -/

/-- R155: every failed check of a bundle due at `t`. -/
def bundleBad (s : State) (c : CoreId) (t p b : Nat) : List Bad :=
  let h := bundleHdr b
  let mv := bundleMv b
  let mx := bundleMx b
  ctlBad (s.core c) p h (bundleLk b) ++ mxBad s c mx t ++ vxBad s c (bundleVx b) t (mxAcc s c mx t) ++ mvBad s c mv t ++
    (if hdrArg h then [] else lkBad s c (bundleLk b) t (mvAcc s c mv t p))

/-- R171: the image of the slot with code `slot`. -/
def slotImage (b slot : Nat) : Nat :=
  match slot with
  | 0 => bundleHdr b
  | 1 => bundleMx b
  | 2 => bundleVx b
  | 3 => bundleMv b
  | 4 | 5 => bundleLk b
  | _ => 0

/-- R169, R171: the trap of a bundle that failed checks. -/
def decodeTrap (s : State) (c : CoreId) (t p b : Nat) (bs : List Bad) (x : Bad) : State :=
  coreTrap s c
    { ty := classTrap x.cls, cause := x.cause, slot := x.slot, failed := failedMask bs, lsb := x.lsb, width := x.width
      d0 := x.d0, d1 := if x.cls = 7 then x.d1 - (s.site c.site).base else x.d1, img := slotImage b x.slot, pc := p, cyc := t } false

/-- R168, R171: LATE_FRAME of a bundle that cannot issue at its due cycle. -/
def lateTrap (s : State) (c : CoreId) (cause p d0 d1 cyc : Nat) : State :=
  coreTrap s c { ty := 7, cause := cause, d0 := d0, d1 := d1 % 2 ^ 32, pc := p, cyc := cyc } false

/-- R54, R94, R173: the status bits of the core's units at cycle `t`. -/
def showBusy (s : State) (c : CoreId) (t : Nat) : State :=
  let k := s.core c
  let p := coreP c
  let b := fun (s : State) (f : Fld) (on : Bool) => s.wr p f (if on then 1 else 0)
  let s := b s Reg.Co.LOAD_BUSY (t < k.ldEnd)
  let s := b s Reg.Co.STREAM_BUSY (t < k.mulEnd)
  let s := b s Reg.Co.DRAIN_BUSY (t < k.drEnd)
  let s := b s Reg.Co.COMPUTE_BUSY (t < k.vxEnd)
  let s := b s Reg.Co.CH0_BUSY (t < k.ch0)
  b s Reg.Co.CH1_BUSY (t < k.ch1)

/-- R150: the effects of a bundle that issues at `t`. -/
def bundleEffect (s : State) (c : CoreId) (t p b : Nat) (arr : ArrayUpset) : State :=
  let h := bundleHdr b
  let mx := bundleMx b
  let vx := bundleVx b
  let mv := bundleMv b
  let as := mxAcc s c mx t
  let undo := vxUndo s c vx (if vx = 0 then [] else vxAcc c vx t)
  let s := mxEffect s c mx t p arr
  let s := vxOccupy (vxData s c vx) c vx t
  let s := (placeAll s c.site t (as ++ undo)).st
  let s := if mv = 0 then s else mvEffect s c mv t p
  let s := if hdrArg h || bundleLk b = 0 then s else lkEffect s c (bundleLk b) t p
  let s := if (s.site c.site).digOn then digAdd s c.site (digMx s c mx t ++ (if vx = 0 then [] else digVx s c vx undo) ++
      digMv s c mv t ++ (if hdrArg h then [] else digLk s c (bundleLk b))) else s
  let k := s.core c
  let s := s.setCore c { (advance k p h (bundleLk b)) with
    prev := t + 1, prevFc := (s.site c.site).fc, issued := k.issued + 1, bundles := k.bundles + 1 }
  let s := (s.wr (coreP c) Reg.Co.PC p).wr (coreP c) Reg.Co.LOOP_DEPTH (s.core c).loops.length
  showBusy (ctlEffect s c t p h (bundleLk b)) c t

/-- R169: whether the core may still issue at cycle `t`. -/
def mayIssue (s : State) (c : CoreId) (t : Nat) : Bool :=
  let st := s.rd (coreP c) Reg.Co.STATE
  st = 2 || (st = 4 && decide (t ≤ (s.core c).lastCyc))

/-- R150, R155: the bundle `b` at position `p` reaches its due cycle; `fetched` is false for a bundle that an
operation's own row supplies, whose fetch is not judged (log entry 13). -/
def issue (s : State) (c : CoreId) (b : Nat) (fetched : Bool) (arr : ArrayUpset) : State :=
  let p := (s.core c).nextPc
  match dueOf s c (bundleHdr b) with
  | none => s
  | some d =>
    if !(mayIssue s c d.cyc) then s
    else
      let s := atCycle s c.site d.cyc
      let s := if isShadow s c.site then mirrorNow s c.site d.cyc else s
      let late := fun (s : State) => lateTrap s c d.cause p d.dueCyc d.dueFc d.cyc
      match if fetched then windowRow s c p d.cyc else none with
      | some r => if d.cause ≠ 0 then late s else lateTrap s c 4 p r d.dueFc d.cyc
      | none =>
        let s := if fetched then noteFetch s c p else s
        let pm := if fetched then fetchPoison s c p else 0
        if pm ≠ 0 then
          let w := lowBit 32 0 pm
          coreTrap s c { ty := 8, d0 := 1, d1 := (fetchRows p).1 + w / 16 + w % 16 * 1024, pc := p, cyc := d.cyc - 1 } false
        else if d.cause ≠ 0 then late s
        else
          let bs := bundleBad s c d.cyc p b
          match firstBad bs with
          | some x => decodeTrap s c d.cyc p b bs x
          | none => bundleEffect s c d.cyc p b arr

/-! ### Operation rows: a bundle of one operation (log entry 13) -/

/-- R148: a header without control operation. -/
def hdrOf (h : Hdr) (arg : Bool) (ctl : Nat) : Nat :=
  h.delta.toNat + (if arg then 2 ^ 16 else 0) + (if h.fa then 2 ^ 17 else 0) + ctl * 2 ^ 24

/-- Fields at their places in a slot. -/
def packBits (fs : List (Nat × Nat)) : Nat := fs.foldl (fun acc f => acc + f.2 * 2 ^ f.1) 0

/-- R82: a VX slot. -/
def vxOf (op : Nat) (a : VxArgs) : Nat :=
  packBits [(0, op), (8, a.flags.toNat), (16, a.count.toNat), (30, a.dst.toNat), (46, a.srca.toNat), (62, a.srcb.toNat),
    (78, a.imm.toNat), (110, a.ty.toNat), (118, a.rsv.toNat)]

/-- R158: an MV slot. -/
def mvOf (op : Nat) (a : MvArgs) : Nat := packBits [(0, op), (8, a.bank.toNat), (13, a.line.toNat), (20, a.rest.toNat)]

/-- R162: an LK slot. -/
def lkOf (op : Nat) (a : LkArgs) : Nat :=
  packBits [(0, op), (8, a.hopId.toNat), (20, a.bb.toNat), (25, a.nb.toNat), (30, a.line0.toNat), (37, a.rl.toNat), (44, a.rsv.toNat)]

/-- R47 to R50: MX slots. -/
def mxloadOf (wbuf : BitVec 1) (wmode dq : BitVec 3) (doff : BitVec 7) (sq : BitVec 3) (soff : BitVec 7) (fine : BitVec 1) (rsv : BitVec 63) : Nat :=
  packBits [(0, 1), (8, wbuf.toNat), (9, wmode.toNat), (12, dq.toNat), (15, doff.toNat), (22, sq.toNat), (25, soff.toNat),
    (32, fine.toNat), (33, rsv.toNat)]

def mxexpOf (xsel : BitVec 1) (bank : BitVec 5) (line : BitVec 7) (rsv : BitVec 75) : Nat :=
  packBits [(0, 2), (8, xsel.toNat), (9, bank.toNat), (14, line.toNat), (21, rsv.toNat)]

def mxmulOf (wbuf acc amode : BitVec 1) (aq : BitVec 3) (aoff mcnt slot : BitVec 7) (xsel : BitVec 1) (xidx : BitVec 7)
    (pshift : BitVec 6) (rsv : BitVec 47) : Nat :=
  packBits [(0, 3), (8, wbuf.toNat), (9, acc.toNat), (10, amode.toNat), (11, aq.toNat), (14, aoff.toNat), (21, mcnt.toNat),
    (28, slot.toNat), (35, xsel.toNat), (36, xidx.toNat), (43, pshift.toNat), (49, rsv.toNat)]

def mxdrainOf (fmt clr : BitVec 1) (slot scnt : BitVec 7) (dq : BitVec 3) (doff : BitVec 7) (rsv : BitVec 62) : Nat :=
  packBits [(0, 4), (8, fmt.toNat), (9, clr.toNat), (10, slot.toNat), (17, scnt.toNat), (24, dq.toNat), (27, doff.toNat), (34, rsv.toNat)]

/-- R153, R154: the arguments of LOOP, JUMP and NOTE. -/
def loopArg (count : BitVec 16) (len : BitVec 12) (rsv : BitVec 36) : Nat := packBits [(0, count.toNat), (16, len.toNat), (28, rsv.toNat)]

def jumpArg (target : BitVec 12) (rsv : BitVec 52) : Nat := packBits [(0, target.toNat), (12, rsv.toNat)]

def noteArg (tag rsv : BitVec 32) : Nat := packBits [(0, tag.toNat), (32, rsv.toNat)]

/-- R82: a VX operation's row. -/
def vxRow (c : CoreId) (h : Hdr) (op : Nat) (a : VxArgs) (s : State) : Host.Outcome State Fault Refusal :=
  onUnit (coreOk c) (issue s c (bundleOf (hdrOf h false 0) 0 (vxOf op a) 0 0) false {})

/-- R157: an MV operation's row. -/
def mvRow (c : CoreId) (h : Hdr) (op : Nat) (a : MvArgs) (s : State) : Host.Outcome State Fault Refusal :=
  onUnit (coreOk c) (issue s c (bundleOf (hdrOf h false 0) 0 0 (mvOf op a) 0) false {})

/-- R162: an LK operation's row. -/
def lkRow (c : CoreId) (h : Hdr) (op : Nat) (a : LkArgs) (s : State) : Host.Outcome State Fault Refusal :=
  onUnit (coreOk c) (issue s c (bundleOf (hdrOf h false 0) 0 0 0 (lkOf op a)) false {})

/-- R46: an MX operation's row. -/
def mxRow (c : CoreId) (h : Hdr) (mx : Nat) (arr : ArrayUpset) (s : State) : Host.Outcome State Fault Refusal :=
  onUnit (coreOk c) (issue s c (bundleOf (hdrOf h false 0) mx 0 0 0) false arr)

/-- R152: a control operation's row, with its argument. -/
def ctlRow (c : CoreId) (h : Hdr) (op arg : Nat) (s : State) : Host.Outcome State Fault Refusal :=
  onUnit (coreOk c) (issue s c (bundleOf (hdrOf h (ctlArg op) op) 0 0 0 arg) false {})

/-! ### Meanings -/

/-- R150: BUNDLE_DUE. -/
def execBundleDue (c : CoreId) (ups : Upsets) (arr : ArrayUpset) (s : State) : Host.Outcome State Fault Refusal :=
  onUnit (coreOk c) (issue (strike s ups) c (bundleAt s c (s.core c).nextPc) true arr)

/-- R47: MXLOAD. -/
def execMxload (c : CoreId) (h : Hdr) (wbuf : BitVec 1) (wmode dq : BitVec 3) (doff : BitVec 7) (sq : BitVec 3) (soff : BitVec 7)
    (fine : BitVec 1) (rsv : BitVec 63) (s : State) : Host.Outcome State Fault Refusal :=
  mxRow c h (mxloadOf wbuf wmode dq doff sq soff fine rsv) {} s

/-- R48: MXEXP. -/
def execMxexp (c : CoreId) (h : Hdr) (xsel : BitVec 1) (bank : BitVec 5) (line : BitVec 7) (rsv : BitVec 75) (s : State) :
    Host.Outcome State Fault Refusal :=
  mxRow c h (mxexpOf xsel bank line rsv) {} s

/-- R49: MXMUL. -/
def execMxmul (c : CoreId) (h : Hdr) (wbuf acc amode : BitVec 1) (aq : BitVec 3) (aoff mcnt slot : BitVec 7) (xsel : BitVec 1)
    (xidx : BitVec 7) (pshift : BitVec 6) (rsv : BitVec 47) (arr : ArrayUpset) (s : State) :
    Host.Outcome State Fault Refusal :=
  mxRow c h (mxmulOf wbuf acc amode aq aoff mcnt slot xsel xidx pshift rsv) arr s

/-- R50: MXDRAIN. -/
def execMxdrain (c : CoreId) (h : Hdr) (fmt clr : BitVec 1) (slot scnt : BitVec 7) (dq : BitVec 3) (doff : BitVec 7) (rsv : BitVec 62)
    (s : State) : Host.Outcome State Fault Refusal :=
  mxRow c h (mxdrainOf fmt clr slot scnt dq doff rsv) {} s

/-- R83, R86: VMOV. -/
def execVmov (c : CoreId) (h : Hdr) (a : VxArgs) (s : State) : Host.Outcome State Fault Refusal := vxRow c h 0x01 a s

/-- R83, R86: VADD. -/
def execVadd (c : CoreId) (h : Hdr) (a : VxArgs) (s : State) : Host.Outcome State Fault Refusal := vxRow c h 0x02 a s

/-- R83, R86: VSUB. -/
def execVsub (c : CoreId) (h : Hdr) (a : VxArgs) (s : State) : Host.Outcome State Fault Refusal := vxRow c h 0x03 a s

/-- R83, R86: VMUL. -/
def execVmul (c : CoreId) (h : Hdr) (a : VxArgs) (s : State) : Host.Outcome State Fault Refusal := vxRow c h 0x04 a s

/-- R83, R86: VFMA. -/
def execVfma (c : CoreId) (h : Hdr) (a : VxArgs) (s : State) : Host.Outcome State Fault Refusal := vxRow c h 0x05 a s

/-- R83, R86: VMAX. -/
def execVmax (c : CoreId) (h : Hdr) (a : VxArgs) (s : State) : Host.Outcome State Fault Refusal := vxRow c h 0x06 a s

/-- R83, R86: VMIN. -/
def execVmin (c : CoreId) (h : Hdr) (a : VxArgs) (s : State) : Host.Outcome State Fault Refusal := vxRow c h 0x07 a s

/-- R83, R86: VABS. -/
def execVabs (c : CoreId) (h : Hdr) (a : VxArgs) (s : State) : Host.Outcome State Fault Refusal := vxRow c h 0x08 a s

/-- R83, R86: VNEG. -/
def execVneg (c : CoreId) (h : Hdr) (a : VxArgs) (s : State) : Host.Outcome State Fault Refusal := vxRow c h 0x09 a s

/-- R83, R86: VSCALE. -/
def execVscale (c : CoreId) (h : Hdr) (a : VxArgs) (s : State) : Host.Outcome State Fault Refusal := vxRow c h 0x0A a s

/-- R83, R87: VRSUM. -/
def execVrsum (c : CoreId) (h : Hdr) (a : VxArgs) (s : State) : Host.Outcome State Fault Refusal := vxRow c h 0x10 a s

/-- R83, R87: VRSUMSQ. -/
def execVrsumsq (c : CoreId) (h : Hdr) (a : VxArgs) (s : State) : Host.Outcome State Fault Refusal := vxRow c h 0x11 a s

/-- R83, R87: VRMAX. -/
def execVrmax (c : CoreId) (h : Hdr) (a : VxArgs) (s : State) : Host.Outcome State Fault Refusal := vxRow c h 0x12 a s

/-- R83, R87: VRMAXABS. -/
def execVrmaxabs (c : CoreId) (h : Hdr) (a : VxArgs) (s : State) : Host.Outcome State Fault Refusal := vxRow c h 0x13 a s

/-- R83, R88: VEXP2. -/
def execVexp2 (c : CoreId) (h : Hdr) (a : VxArgs) (s : State) : Host.Outcome State Fault Refusal := vxRow c h 0x20 a s

/-- R83, R88: VEXP. -/
def execVexp (c : CoreId) (h : Hdr) (a : VxArgs) (s : State) : Host.Outcome State Fault Refusal := vxRow c h 0x21 a s

/-- R83, R88: VLOG2. -/
def execVlog2 (c : CoreId) (h : Hdr) (a : VxArgs) (s : State) : Host.Outcome State Fault Refusal := vxRow c h 0x22 a s

/-- R83, R88: VRCP. -/
def execVrcp (c : CoreId) (h : Hdr) (a : VxArgs) (s : State) : Host.Outcome State Fault Refusal := vxRow c h 0x23 a s

/-- R83, R88: VRSQRT. -/
def execVrsqrt (c : CoreId) (h : Hdr) (a : VxArgs) (s : State) : Host.Outcome State Fault Refusal := vxRow c h 0x24 a s

/-- R83, R88: VSQRT. -/
def execVsqrt (c : CoreId) (h : Hdr) (a : VxArgs) (s : State) : Host.Outcome State Fault Refusal := vxRow c h 0x25 a s

/-- R83, R88: VTANH. -/
def execVtanh (c : CoreId) (h : Hdr) (a : VxArgs) (s : State) : Host.Outcome State Fault Refusal := vxRow c h 0x26 a s

/-- R83, R88: VSIGMOID. -/
def execVsigmoid (c : CoreId) (h : Hdr) (a : VxArgs) (s : State) : Host.Outcome State Fault Refusal := vxRow c h 0x27 a s

/-- R68 to R76, R90: CONVERT. -/
def execConvert (c : CoreId) (h : Hdr) (a : VxArgs) (s : State) : Host.Outcome State Fault Refusal := vxRow c h 0x30 a s

/-- R70, R91: VSEED. -/
def execVseed (c : CoreId) (h : Hdr) (a : VxArgs) (s : State) : Host.Outcome State Fault Refusal := vxRow c h 0x31 a s

/-- R91: VRMAXRD. -/
def execVrmaxrd (c : CoreId) (h : Hdr) (a : VxArgs) (s : State) : Host.Outcome State Fault Refusal := vxRow c h 0x32 a s

/-- R91: VRMAXRR. -/
def execVrmaxrr (c : CoreId) (h : Hdr) (a : VxArgs) (s : State) : Host.Outcome State Fault Refusal := vxRow c h 0x33 a s

/-- R91: VCSTAT. -/
def execVcstat (c : CoreId) (h : Hdr) (a : VxArgs) (s : State) : Host.Outcome State Fault Refusal := vxRow c h 0x34 a s

/-- R92: VLOAD. -/
def execVload (c : CoreId) (h : Hdr) (a : VxArgs) (s : State) : Host.Outcome State Fault Refusal := vxRow c h 0x40 a s

/-- R92: VSTORE. -/
def execVstore (c : CoreId) (h : Hdr) (a : VxArgs) (s : State) : Host.Outcome State Fault Refusal := vxRow c h 0x41 a s

/-- R158, R159: MVCP. -/
def execMvcp (c : CoreId) (h : Hdr) (a : MvArgs) (s : State) : Host.Outcome State Fault Refusal := mvRow c h 1 a s

/-- R158, R159: MVCR. -/
def execMvcr (c : CoreId) (h : Hdr) (a : MvArgs) (s : State) : Host.Outcome State Fault Refusal := mvRow c h 2 a s

/-- R158, R159: MVCW. -/
def execMvcw (c : CoreId) (h : Hdr) (a : MvArgs) (s : State) : Host.Outcome State Fault Refusal := mvRow c h 3 a s

/-- R158, R159: MVXR. -/
def execMvxr (c : CoreId) (h : Hdr) (a : MvArgs) (s : State) : Host.Outcome State Fault Refusal := mvRow c h 4 a s

/-- R158, R159: MVXW. -/
def execMvxw (c : CoreId) (h : Hdr) (a : MvArgs) (s : State) : Host.Outcome State Fault Refusal := mvRow c h 5 a s

/-- R158, R207: MVWR. -/
def execMvwr (c : CoreId) (h : Hdr) (a : MvArgs) (s : State) : Host.Outcome State Fault Refusal := mvRow c h 6 a s

/-- R158, R207: MVWW. -/
def execMvww (c : CoreId) (h : Hdr) (a : MvArgs) (s : State) : Host.Outcome State Fault Refusal := mvRow c h 7 a s

/-- R161: KICK. -/
def execKick (c : CoreId) (h : Hdr) (a : MvArgs) (s : State) : Host.Outcome State Fault Refusal := mvRow c h 8 a s

/-- R162, R164: LKSEND. -/
def execLksend (c : CoreId) (h : Hdr) (a : LkArgs) (s : State) : Host.Outcome State Fault Refusal := lkRow c h 1 a s

/-- R162, R164: LKRECV. -/
def execLkrecv (c : CoreId) (h : Hdr) (a : LkArgs) (s : State) : Host.Outcome State Fault Refusal := lkRow c h 2 a s

/-- R153: LOOP. -/
def execLoop (c : CoreId) (h : Hdr) (count : BitVec 16) (len : BitVec 12) (rsv : BitVec 36) (s : State) : Host.Outcome State Fault Refusal :=
  ctlRow c h 1 (loopArg count len rsv) s

/-- R154: JUMP. -/
def execJump (c : CoreId) (h : Hdr) (target : BitVec 12) (rsv : BitVec 52) (s : State) : Host.Outcome State Fault Refusal :=
  ctlRow c h 2 (jumpArg target rsv) s

/-- R154: STOP. -/
def execStop (c : CoreId) (h : Hdr) (s : State) : Host.Outcome State Fault Refusal := ctlRow c h 3 0 s

/-- R154: NOTE. -/
def execNote (c : CoreId) (h : Hdr) (tag : BitVec 32) (rsv : BitVec 32) (s : State) : Host.Outcome State Fault Refusal :=
  ctlRow c h 4 (noteArg tag rsv) s

/-- R152: TSTART. -/
def execTstart (c : CoreId) (h : Hdr) (t : BitVec 4) (s : State) : Host.Outcome State Fault Refusal := ctlRow c h (0x10 + t.toNat) 0 s

/-- R152: TSTOP. -/
def execTstop (c : CoreId) (h : Hdr) (t : BitVec 4) (s : State) : Host.Outcome State Fault Refusal := ctlRow c h (0x20 + t.toNat) 0 s

end Sys2Proof.Machine
end

