-- ==== Sys2Proof/Machine/OpenPorts.lean ====
section
/-! DEFINITION. Open-cycle ports and the well controller at work (R106, R108, R113, R204 to R210), clearing of what is
under way (R116, R199, R221), and beats received on the timetable plane (R138 to R141). -/

namespace Sys2Proof.Machine

/-! ### Granting (R106, R113, R209) -/

/-- R106: the request that a port grants: each requester's first one, then the oldest, then the lower number. -/
def portPick (s : State) (i : Nat) (mine ready : OpenReq → Bool) : Option OpenReq :=
  let l := (List.range 5).filterMap (fun w => (s.site i).opens.find? (fun r => r.who = w && mine r))
  (l.filter ready).foldl (fun (a : Option OpenReq) r =>
    match a with
    | none => some r
    | some b => if r.arr < b.arr ∨ (r.arr = b.arr ∧ r.who < b.who) then some r else some b) none

/-- A waybill's piece has one access fewer to come. -/
def jobWaybill (s : State) (i : Nat) (q : OpenReq) (l : Line) : State :=
  match wbFind s i q.key with
  | none => s
  | some w =>
    let pc := w.piece
    if w.wr then
      let w := { w with piece := { pc with left := pc.left - 1 } }
      if pc.left ≤ 1 then wbMove (wbWrote (wbSet s i w) i w) i w.num else wbSet s i w
    else
      let pc : Piece := { pc with left := pc.left - 1, got := pc.got + l.data * 2 ^ (64 * q.at_), poison := pc.poison + l.poison * 2 ^ q.at_ }
      let w := { w with piece := pc }
      if pc.left = 0 then wbMove (wbGot s i w ⟨pc.got, pc.poison⟩) i w.num else wbSet s i w

/-- A context's piece has one access fewer to come. -/
def jobCtx (s : State) (i : Nat) (q : OpenReq) (l : Line) : State :=
  let c := s.ctx i q.key
  let pc : Piece := { c.piece with
    left := c.piece.left - 1, got := c.piece.got + l.data * 2 ^ (64 * q.at_), poison := c.piece.poison + l.poison * 2 ^ q.at_ }
  if c.write then
    let s := s.setCtx i q.key { c with piece := { c.piece with left := pc.left } }
    if pc.left = 0 then ctxPump 80 (ctxDelivered s i q.key) i q.key else s
  else
    let s := s.setCtx i q.key { c with piece := pc }
    if pc.left = 0 then respGot s i q.key ⟨pc.got, pc.poison⟩ else s

/-- Read data at its source has one access fewer to come. -/
def jobStream (s : State) (i : Nat) (q : OpenReq) : State :=
  let m := s.stream i q.key
  let s := s.setStream i q.key { m with piece := { m.piece with left := m.piece.left - 1 } }
  if m.piece.left ≤ 1 then streamPump 80 (streamDelivered s i q.key) i q.key else s

/-- R106: makes a granted access and hands on its outcome. -/
def serveOpen (s : State) (i : Nat) (q : OpenReq) : State :=
  let st := s.site i
  let s := showOpen (s.setSite i { st with opens := st.opens.erase q }) i
  let r := if q.wr then (openWrite s i q.off q.n ⟨q.data, q.poison⟩, (⟨0, 0⟩ : Line)) else openRead s i q.off q.n
  match q.job with
  | 1 => jobWaybill r.1 i q r.2
  | 2 => jobCtx r.1 i q r.2
  | _ => jobStream r.1 i q

/-- R31: bank or slice `b` is open at frame cycle `cyc`. -/
def openAt (b cyc : Nat) : Bool := b % 4 = cyc % 4

/-- R106: what waits at the open-cycle port of core `n`. -/
def atCore (n : Nat) (q : OpenReq) : Bool := targetOf q.off (8 * q.n) = some (.scratchpad n)

/-- R113: what waits at the port of slice `sl`. -/
def atSlice (sl : Nat) (q : OpenReq) : Bool := targetOf q.off (8 * q.n) = some .cistern && offSlice q.off = sl

/-- R209: what waits for channel `ch` of the well. -/
def atChannel (ch : Nat) (q : OpenReq) : Bool := targetOf q.off (8 * q.n) = some .well && q.off / 128 % 16 = ch

/-- R118: notes a grant of the open-cycle port of a core. -/
def noteGrant (s : State) (c : CoreId) (wait : Nat) : State :=
  let k := s.core c
  s.setCore c { k with grants := k.grants + 1, waitMax := max k.waitMax wait }

/-- Site `i` is at frame cycle `cyc`. -/
def atFrame (s : State) (i cyc : Nat) : State := atCycle s i ((s.site i).base + cyc)

/-- R106: OPEN_GRANT. -/
def openGrant (s : State) (c : CoreId) (cyc wait : Nat) : State :=
  if (s.site c.site).clearing then s
  else match portPick s c.site (atCore c.n) (fun q => openAt (offBank q.off) cyc) with
    | none => s
    | some q => serveOpen (noteGrant (atFrame s c.site cyc) c wait) c.site q

/-- R119: notes a grant of a slice's port. -/
def noteSlice (s : State) (i wait : Nat) : State :=
  let st := s.site i
  s.setSite i { st with cisGrants := st.cisGrants + 1, cisWait := max st.cisWait wait }

/-- R113: SLICE_OPEN_GRANT. -/
def sliceGrant (s : State) (i sl cyc wait : Nat) : State :=
  if (s.site i).clearing ∨ !(openAt sl cyc) then s
  else match portPick s i (atSlice sl) (fun _ => true) with
    | none => s
    | some q => serveOpen (noteSlice (atFrame s i cyc) i wait) i q

/-! ### Scrub (R108, R113) -/

/-- R349: one more SRAM scrub access, if the budget allows. -/
def chargeSram (s : State) (i : Nat) : Option State :=
  let st := s.site i
  if st.uSram < s.rd (budP i) Reg.Bu.BUD_SCRUB_SRAM then some (s.setSite i { st with uSram := st.uSram + 1 }) else none

/-- R349: one more well scrub line, if the budget allows. -/
def chargeWell (s : State) (i : Nat) : Option State :=
  let st := s.site i
  if st.uWell < s.rd (budP i) Reg.Bu.BUD_SCRUB_WELL then some (s.setSite i { st with uWell := st.uWell + 1 }) else none

/-- What a scrub read keeps of the line at `a`: data, correctable words, uncorrectable words. -/
def scrubSnap (s : State) (a : Nat) : Nat × Nat × Nat :=
  (memRead s.mem a 128, marksGet s.mem.ce (a / 8) 16, marksGet s.mem.ue (a / 8) 16)

/-- R108: rewrites the words that a scrub read found: corrected ones clean, uncorrectable ones poisoned (`half` spreads
the poison over a well half-line, R210). -/
def scrubWrite (s : State) (a ue : Nat) (half : Bool) : State :=
  let pm := if half then halfPoison ue else ue
  { s with mem := { s.mem with
      ce := marksPut s.mem.ce (a / 8) 16 0, ue := marksPut s.mem.ue (a / 8) 16 0
      poison := marksPut s.mem.poison (a / 8) 16 (marksGet s.mem.poison (a / 8) 16 ||| pm) } }

/-- R108: SCRUB_STEP: a write-back that waits, or a read of `line` of `bank`. -/
def scrubStep (s : State) (c : CoreId) (cyc bank line : Nat) : State :=
  let k := s.core c
  let b := match k.scrub with
    | some x => x.1
    | none => bank
  let free := if b < 20 then
      openAt b cyc && (portPick s c.site (atCore c.n) (fun q => openAt (offBank q.off) cyc)).isNone
    else decide (b < 24) && coreQuiet s c
  if (s.site c.site).clearing ∨ !free ∨ 128 ≤ line then s
  else match chargeSram s c.site with
    | none => s.orBits (budP c.site) Reg.Bu.BUD_HIT 1
    | some s =>
      let s := if b < 20 then noteGrant s c 0 else s
      match k.scrub with
      | some x =>
        let a := spAddr c.site c.n x.1 x.2.1
        let s := if scrubSnap s a = x.2.2 then scrubWrite s a x.2.2.2.2 false else s
        s.setCore c { (s.core c) with scrub := none }
      | none =>
        let v := scrubSnap s (spAddr c.site c.n bank line)
        let s := s.noteSp c bank line 0 16
        if v.2 = (0, 0) then s else s.setCore c { (s.core c) with scrub := some (bank, line, v) }

/-- R113: the cistern scrubber's line is finished in every slice. -/
def cisAdvance (s : State) (i : Nat) : State :=
  let st := s.site i
  let p := cisP i
  if st.cisSeen = 0xFFFF ∧ st.cisScrub = [] then
    let n := s.rd p Reg.Ci.SCRUB_POS + 1
    let s := (s.setSite i { st with cisSeen := 0 }).wr p Reg.Ci.SCRUB_ACTIVE 0
    if n = 24576 then (s.wr p Reg.Ci.SCRUB_POS 0).wrap p Reg.Ci.SCRUB_PASSES 1 else s.wr p Reg.Ci.SCRUB_POS n
  else s.wr p Reg.Ci.SCRUB_ACTIVE (if st.cisSeen = 0 then 0 else 1)

/-- R113: CISTERN_SCRUB at slice `sl`. -/
def cisternScrub (s : State) (i sl cyc : Nat) : State :=
  let st := s.site i
  let p := cisP i
  let wb := tabFind st.cisScrub sl
  let idle := wb.isNone && (bits st.cisSeen sl 1 = 1 || (st.cisSeen = 0 && s.rd p Reg.Ci.SCRUB_EN = 0))
  if st.clearing ∨ !(openAt sl cyc) ∨ idle ∨ (portPick s i (atSlice sl) (fun _ => true)).isSome then s
  else match chargeSram s i with
    | none => s.orBits (budP i) Reg.Bu.BUD_HIT 1
    | some s =>
      let s := noteSlice s i 0
      match wb with
      | some x =>
        let a := cisAddr i sl x.1
        let s := if scrubSnap s a = x.2 then scrubWrite s a x.2.2.2 false else s
        let st := s.site i
        cisAdvance (s.setSite i { st with cisScrub := tabErase st.cisScrub sl }) i
      | none =>
        let l := s.rd p Reg.Ci.SCRUB_POS
        let v := scrubSnap s (cisAddr i sl l)
        let s := noteCisWords s i (0x8000000000 + l * 2048 + sl * 128) 16
        let st := s.site i
        let st := { st with cisSeen := st.cisSeen ||| 2 ^ sl, cisScrub := if v.2 = (0, 0) then st.cisScrub else tabInsert st.cisScrub sl (l, v) }
        cisAdvance (s.setSite i st) i

/-! ### The well (R203 to R210) -/

/-- R206: refresh of a channel falls due 122 ns after its last. -/
def refreshDue (s : State) (i ch : Nat) : Bool := decide (tabGet (fun _ => 0) (s.site i).refreshed ch + 1220 ≤ s.tenths)

/-- R204, R206: whether the slot that starts at frame cycle `cyc` serves open traffic in channel `ch`. -/
def slotOpen (s : State) (i ch cyc : Nat) : Bool :=
  match slotStart (cyc % 16) with
  | none => false
  | some k =>
    let o := wellOwner s i (cyc / 16) k
    let slack := decide ((s.site i).region < 16) && decide (s.frameLen i - s.slackLen i ≤ cyc)
    o = 0 || (decide (1 ≤ o) && decide (o ≤ 8) && slack && !(refreshDue s i ch))

/-- R206: WELL_REFRESH. -/
def wellRefresh (s : State) (i cyc : Nat) : State :=
  match slotStart (cyc % 16) with
  | none => s
  | some k =>
    let o := wellOwner s i (cyc / 16) k
    let slack := decide ((s.site i).region < 16) && decide (s.frameLen i - s.slackLen i ≤ cyc)
    upTo 16 (fun s ch =>
      if o = 9 ∨ (1 ≤ o ∧ o ≤ 8 ∧ slack ∧ refreshDue s i ch) then
        s.setSite i { (s.site i) with refreshed := tabSet (fun _ => 0) (s.site i).refreshed ch s.tenths }
      else s) s

/-- R209: a write that covers part of a half-line. -/
def partHalf (q : OpenReq) : Bool :=
  let w0 := q.off / 8 % 16
  let cut := fun (h : Nat) => decide (w0 < 8 * h + 8) && decide (8 * h < w0 + q.n) && !(decide (w0 ≤ 8 * h) && decide (8 * h + 8 ≤ w0 + q.n))
  q.wr && (cut 0 || cut 1)

/-- R222: notes a line served in an OPEN slot. -/
def noteWellSlot (s : State) (i wait : Nat) : State :=
  let st := s.site i
  s.setSite i { st with openLines := st.openLines + 1, openWait := max st.openWait wait }

/-- R209: WELL_OPEN_SERVICE: a partial half-line write takes a read first. -/
def wellService (s : State) (i ch cyc wait : Nat) : State :=
  if (s.site i).clearing ∨ !(slotOpen s i ch cyc) then s
  else match portPick s i (atChannel ch) (fun _ => true) with
    | none => s
    | some q =>
      if partHalf q && !q.half then
        let s := noteWellSlot s i 0
        let st := s.site i
        let s := s.setSite i { st with opens := st.opens.map (fun r => if r = q then { q with half := true } else r) }
        noteWellHalves s i (q.off / 128) (halvesOf (q.off / 8 % 16) q.n)
      else serveOpen (noteWellSlot s i wait) i q

/-- R210: the well scrubber moves on. -/
def wellAdvance (s : State) (i : Nat) : State :=
  let p := wellP i
  let n := s.rd p Reg.We.SCRUB_POS + 1
  if n = 335544320 then (s.wr p Reg.We.SCRUB_POS 0).wrap p Reg.We.SCRUB_PASSES 1 else s.wr p Reg.We.SCRUB_POS n

/-- R210: WELL_SCRUB. -/
def wellScrub (s : State) (i cyc : Nat) : State :=
  let st := s.site i
  let p := wellP i
  let l := s.rd p Reg.We.SCRUB_POS
  let ch := l % 16
  let idle := st.wellScrub.isNone && s.rd p Reg.We.SCRUB_EN = 0
  if st.clearing ∨ idle ∨ !(slotOpen s i ch cyc) ∨ (portPick s i (atChannel ch) (fun _ => true)).isSome then s
  else match chargeWell s i with
    | none => s.orBits (budP i) Reg.Bu.BUD_HIT 2
    | some s =>
      let s := noteWellSlot s i 0
      let a := wellAddr i l
      match st.wellScrub with
      | some x =>
        let s := if scrubSnap s a = x.2 then scrubWrite s a x.2.2.2 true else s
        wellAdvance (s.setSite i { (s.site i) with wellScrub := none }) i
      | none =>
        let v := scrubSnap s a
        let s := noteWellHalves s i l 3
        if v.2 = (0, 0) then wellAdvance s i else s.setSite i { (s.site i) with wellScrub := some (l, v) }

/-- R205: owner in entry `x` of the shadow table. -/
def shadowOwner (s : State) (i x : Nat) : Nat := bits (s.rd (wellP i) (Reg.We.WST_SH (x / 8))) (4 * (x % 8)) 4

/-- R205: the first failing condition of a shadow table of period code `pw`, with its entry. -/
def wstRefusal (s : State) (i pw : Nat) : Option (Nat × Nat) :=
  let n := 2 ^ pw
  let lacks := fun (o w : Nat) => (List.range 4).all (fun d => (List.range 6).all (fun k => shadowOwner s i ((w + d) % n * 6 + k) != o))
  match (List.range (6 * n)).find? (fun x => decide (9 < shadowOwner s i x)) with
  | some x => some (1, x)
  | none => match (List.range n).find? (lacks 9) with
    | some w => some (2, 6 * w)
    | none => ((List.range n).find? (lacks 0)).map (fun w => (3, 6 * w))

/-- R205: WST_CHECK. -/
def wstCheck (s : State) (i pw : Nat) : Option State :=
  let p := wellP i
  if 6 < pw then none
  else
    let s := s.wr p Reg.We.SH_PW pw
    match wstRefusal s i pw with
    | none => some (s.wr p Reg.We.SHADOW_VALID 1)
    | some x => some ((((s.wr p Reg.We.SHADOW_VALID 0).wr p Reg.We.REFUSE_CODE x.1).wr p Reg.We.REFUSE_ENTRY x.2).setBit p Reg.We.SLOT_REFUSED)

/-- R214, R222: LAND_CLR. -/
def landClr (s : State) (i z : Nat) : Option State :=
  if s.rd (wellP i) (Reg.We.LAND_STATE z) = 2 then some (landFree (s.wr (wellP i) Reg.We.LAND_CLR_ENTRY z) i z) else none

/-! ### Clearing (R116, R199, R221, R248) -/

/-- R116: requests that wait are refused when a site begins to clear. -/
def refuseOpens (s : State) (i : Nat) : State :=
  let l := (s.site i).opens
  let s := l.foldl (fun s q => match targetOf q.off (8 * q.n) with
    | some (.scratchpad n) => s.setBit (coreP ⟨i, n⟩) Reg.Co.OPEN_REFUSED
    | some .cistern => s.setBit (cisP i) Reg.Ci.OPEN_REFUSED
    | _ => s) s
  showOpen (s.setSite i { (s.site i) with opens := [] }) i

/-- R199: what an endpoint has under way for region `r` ends with REGION_CLEARING. -/
def endAt (s : State) (ep r : Nat) : State :=
  let mine := s.streams.filter (fun x => x.1 / 512 = ep && x.2.job != 0 && x.2.job != 3 && (decide (ep < 256) || x.2.region = r))
  let s := mine.foldl (fun s x => if streamState s ep (x.1 % 512) = 1 then
    finish s ep (x.1 % 512) 4 false (if x.2.write then bytesUpTo x.2 (ackedSeq s ep (x.1 % 512)) else x.2.pos) else s) s
  let cs := s.ctxs.filter (fun x => x.1 / 512 = ep && x.2.live && x.2.done.isNone && (decide (ep < 256) || x.2.region = r))
  cs.foldl (fun s x => ctxFinish (s.setCtx ep (x.1 % 512) { (s.ctx ep (x.1 % 512)) with land := none }) ep (x.1 % 512) 4) s

/-- R116, R199, R221: transfers, requests and landing entries of a site that begins to clear. -/
def endTransfers (s : State) (i : Nat) : State :=
  let s := refuseOpens s i
  let s := endAt s i 16
  let s := (s.site i).wbs.foldl (fun s w => wbEnd s i w.num 4 false) s
  let st := s.site i
  let s := s.setSite i { st with wbs := st.wbs.map (fun w => { w with land := none }), wellScrub := none, cisScrub := [] }
  landClear s i

/-! ### Beats received (R138, R140, R141) -/

/-- R134: the beat of entry `e` that arrives in slot `sl` of window `w` from direction `d`. -/
def beatAt (e d w sl : Nat) : Option Nat :=
  let n := hopSpw e + 1
  if hopType e = 0 ∨ hopIn e ≠ d ∨ w < hopInW e ∨ sl < hopInS e ∨ hopInS e + n ≤ sl then none
  else
    let j := (w - hopInW e) * n + (sl - hopInS e)
    if j < hopBeats e then some j else none

/-- R164: the core that has bound a receive of the entry this frame. -/
def boundBy (s : State) (i id : Nat) : Option (CoreId × Bind) :=
  (List.range 8).findSome? (fun n => ((s.core ⟨i, n⟩).binds.find? (fun b => b.recv && b.hop = id)).map (fun b => ((⟨i, n⟩ : CoreId), b)))

/-- R140, R141: counts what a received word decodes to, on lane group `d`. -/
def noteBeat (s : State) (i d : Nat) (k : BeatKind) : State :=
  let p := tniP i
  match k with
  | .clean => s
  | .corrected => s.bump p Reg.Tn.TT_CE_CNT 1
  | .stomped => s.setBit p Reg.Tn.STOMP_IN
  | .uncorrectable =>
    let s := (s.setBit p Reg.Tn.UNCORR).bump p Reg.Tn.TT_UE_CNT 1
    let st := s.site i
    let n := tabGet (fun _ => 0) st.ttUe d + 1
    let first := bits st.ttLogged d 1 = 0
    let s := s.setSite i { st with ttUe := tabSet (fun _ => 0) st.ttUe d n, ttLogged := st.ttLogged ||| 2 ^ d }
    let s := if first then siteEvent s i 6 2 p Reg.Tn.regs 0 else s
    let lim := s.rd p Reg.Tn.UE_LIMIT
    if lim ≠ 0 ∧ n = lim then
      let s := (s.setBit p Reg.Tn.LINK_DOWN).setSite i { (s.site i) with ttDown := (s.site i).ttDown ||| 2 ^ d }
      faultSite (siteEvent s i 7 2 p Reg.Tn.regs 7) i
    else s

/-- R135: writes a delivered beat where its receive is bound, unless the bank discarded the access (R105). -/
def beatWrite (s : State) (c : CoreId) (b : Bind) (e j : Nat) (data : Nat) (poison : Bool) : State :=
  let a := beatAcc s c b.img e b.pc j
  if (s.site c.site).acc.any (fun x => x.port = a.port && x.cyc = a.cyc && x.own = c.n && x.unit = 1) then
    let pl := ringPlace b.bb b.nb b.line0 b.rl j
    let at_ := spAddr c.site c.n pl.1 pl.2 + 64 * (j % 2)
    let pm := if poison then 0xFF else 0
    let s := atCycle (s.put at_ 8 ⟨data, pm⟩) c.site a.cyc
    let s := digAdd s c.site [digLine s c a.cyc 1 pl.1 pl.2 (8 * (j % 2)) 8]
    mirrorPut s c.site 0 0 (at_ - siteBase c.site) 8 data pm
  else s

/-- R136, R138: what entry `e` does with its beat `j`. -/
def beatTake (s : State) (i e j : Nat) (b : Beat) : State :=
  let p := tniP i
  let bound := if hopType e = 1 then none else boundBy s i (hopId e)
  match b with
  | .idle => match bound with
    | none => s
    | some x =>
      let v := s.draw 512
      beatWrite ((v.2.setBit p Reg.Tn.MISSING).bump p Reg.Tn.TT_MISSING 1) x.1 x.2 e j v.1.toNat true
  | .word k data =>
    let bad := decide (k = .stomped) || decide (k = .uncorrectable)
    let s := if hopType e = 2 then s
      else s.emit (.beat i (hopOut e) (outSlot e j).1 (outSlot e j).2 data.toNat bad)
    match bound with
    | some x => beatWrite s x.1 x.2 e j data.toNat bad
    | none => if hopType e = 2 then (s.setBit p Reg.Tn.UNCLAIMED).bump p Reg.Tn.TT_UNCLAIMED 1 else s

/-- R138: TT_BEAT_RECEIVE. A lane group out of use brings nothing (R141). -/
def beatReceive (s : State) (i d w sl : Nat) (b : Beat) : State :=
  if bits (s.site i).ttDown d 1 = 1 then s
  else
    let t := hopTable s i
    let hit := ((List.range t.2).map (hopEntry s i t.1)).findSome? (fun e => (beatAt e d w sl).map (fun j => (e, j)))
    let s := match b with
      | .idle => s
      | .word k _ => noteBeat s i d k
    match hit, b with
    | some x, _ => beatTake s i x.1 x.2 b
    | none, .idle => s
    | none, .word _ _ => (s.setBit (tniP i) Reg.Tn.UNCLAIMED).bump (tniP i) Reg.Tn.TT_UNCLAIMED 1

/-! ### The commands -/

/-- R106: OPEN_GRANT. -/
def execOpenGrant (c : CoreId) (cyc wait : Nat) (ups : Upsets) (s : State) : Host.Outcome State Fault Refusal :=
  onUnit (coreOk c) (openGrant (strike s ups) c cyc wait)

/-- R113: SLICE_OPEN_GRANT. -/
def execSliceOpenGrant (i slice cyc wait : Nat) (ups : Upsets) (s : State) : Host.Outcome State Fault Refusal :=
  onUnit (siteOk i && decide (slice < 16)) (sliceGrant (strike s ups) i slice cyc wait)

/-- R108: SCRUB_STEP. -/
def execScrubStep (c : CoreId) (cyc bank line : Nat) (ups : Upsets) (s : State) : Host.Outcome State Fault Refusal :=
  onUnit (coreOk c) (scrubStep (strike s ups) c cyc bank line)

/-- R113: CISTERN_SCRUB. -/
def execCisternScrub (i slice cyc : Nat) (ups : Upsets) (s : State) : Host.Outcome State Fault Refusal :=
  onUnit (siteOk i && decide (slice < 16)) (cisternScrub (strike s ups) i slice cyc)

/-- R209: WELL_OPEN_SERVICE. -/
def execWellOpenService (i ch cyc wait : Nat) (ups : Upsets) (s : State) : Host.Outcome State Fault Refusal :=
  onUnit (siteOk i && decide (ch < 16)) (wellService (strike s ups) i ch cyc wait)

/-- R210: WELL_SCRUB. -/
def execWellScrub (i cyc : Nat) (ups : Upsets) (s : State) : Host.Outcome State Fault Refusal :=
  onUnit (siteOk i) (wellScrub (strike s ups) i cyc)

/-- R204, R206: WELL_REFRESH. -/
def execWellRefresh (i cyc : Nat) (s : State) : Host.Outcome State Fault Refusal := onUnit (siteOk i) (wellRefresh s i cyc)

/-- R205: WST_CHECK. -/
def execWstCheck (i : Nat) (pw : BitVec 3) (s : State) : Host.Outcome State Fault Refusal :=
  onUnit (siteOk i) (hostAct s (wellP i) 0x44 (wstCheck s i pw.toNat))

/-- R214, R222: LAND_CLR. -/
def execLandClr (i : Nat) (z : BitVec 5) (s : State) : Host.Outcome State Fault Refusal :=
  onUnit (siteOk i) (hostAct s (wellP i) 0x68 (landClr s i z.toNat))

/-- R138: TT_BEAT_RECEIVE. -/
def execTtBeatReceive (i d w sl : Nat) (b : Beat) (s : State) : Host.Outcome State Fault Refusal :=
  onUnit (siteOk i && decide (d < 4)) (beatReceive s i d w sl b)

end Sys2Proof.Machine
end

