-- ==== Sys2Proof/Machine/Frames.lean ====
section
/-! DEFINITION. Frames: arming and starting programs (R151, R173), marks (R122 to R124, R271), the start of a frame
(R123, R145, R349, R373), region faults (R170), LATE and extension (R127 to R130). -/

namespace Sys2Proof.Machine

/-! ### Frame requests in their slots (R143, R380) -/

/-- Slot `k` of region `r`, as IX words count it. -/
def slotNo (r k : Nat) : Nat := 4 * r + k

def slotState (s : State) (r k : Nat) : Nat := s.rd freqP (Reg.Fr.SLOT_STATE (slotNo r k))
def slotActs (s : State) (r k : Nat) : Nat := s.rd freqP (Reg.Fr.SLOT_ACTIONS (slotNo r k))
def slotFs (s : State) (r k : Nat) : Nat := s.rd freqP (Reg.Fr.SLOT_FSTATE (slotNo r k))
def slotTarget (s : State) (r k : Nat) : Nat :=
  s.rd freqP (Reg.Fr.SLOT_TARGET_LO (slotNo r k)) + s.rd freqP (Reg.Fr.SLOT_TARGET_HI (slotNo r k)) * 2 ^ 32

/-- Bits of ACTIONS (R380). -/
def actFreq : Nat := 0
def actCfg : Nat := 1
def actSwap : Nat := 2
def actEnter : Nat := 3
def actExit : Nat := 4
def actReassign : Nat := 5

/-- The slot's request is armed with action `a`. -/
def slotArmed (s : State) (r k a : Nat) : Bool := slotState s r k = 1 && bits (slotActs s r k) a 1 = 1

/-- R380, R377: a slot leaves ARMED. -/
def slotLeave (s : State) (r k st : Nat) : State :=
  if slotState s r k = 1 then pfSet (s.wr freqP (Reg.Fr.SLOT_STATE (slotNo r k)) st) intFrameReq else s

/-- R143, R279: a request is cancelled; a raise under way ramps back. -/
def slotCancel (s : State) (r k : Nat) : State :=
  let s := if slotArmed s r k actFreq then s.setRegion r { (s.region r) with rampUp := none } else s
  slotLeave s r k 3

/-- A site of the region is waking (R299). -/
def waking (s : State) (r : Nat) : Bool := (regionSites s r).any (fun i => s.rd (spowP i) Reg.Sp.SITE_PSTATE = 3)

/-- The state of frequency and the length code that the region's sites hold. -/
def regionFs (s : State) (r : Nat) : Nat := s.rd (sclkP ((regionSites s r).headD 0)) Reg.Ck.FSTATE
def regionFl (s : State) (r : Nat) : Nat := s.rd (tniP ((regionSites s r).headD 0)) Reg.Tn.FL_CODE

/-! ### Arming and starting (R151, R173) -/

/-- START_FC. -/
def startFc (s : State) (c : CoreId) : Nat := s.rd (coreP c) Reg.Co.START_FC_LO + s.rd (coreP c) Reg.Co.START_FC_HI * 2 ^ 32

/-- R151, R354: whether an arm write is taken. -/
def armOk (s : State) (c : CoreId) : Bool :=
  let r := (s.site c.site).region
  let d := fcAhead (startFc s c) (s.region r).fc
  [0, 3, 5].contains (s.rd (coreP c) Reg.Co.STATE) && decide (s.rd (coreP c) Reg.Co.START_PC < ringLen) &&
    decide (1 ≤ d) && decide (d < 2 ^ 47) && decide (r < 16) && regionState s r != 1

/-- An armed core: its record of the last run is cleared. -/
def armCore (s : State) (c : CoreId) : State :=
  let p := coreP c
  let s := (((s.wr p Reg.Co.STATE 1).wr p Reg.Co.ARM 1).wr p Reg.Co.TRAP_TYPE 0).wr p Reg.Co.TRAP_CAUSE 0
  let s := (s.wr p Reg.Co.TRAP_SLOT 7).wr p Reg.Co.SEQ_TRAP_SUPP 0
  s.setCore c { (s.core c) with trapRec := none }

/-- R151: ARM. -/
def arm (s : State) (c : CoreId) : Option State := if armOk s c then some (armCore s c) else none

/-- R151, R173: the host writes ARM. -/
def armWrite (s : State) (c : CoreId) : State := (arm s c).getD ((badValue s (coreP c) 0x40).setBit (coreP c) Reg.Co.ARM_REFUSED)

/-- R173: DISARM. -/
def disarm (s : State) (c : CoreId) : State :=
  if s.rd (coreP c) Reg.Co.STATE = 1 then (s.wr (coreP c) Reg.Co.STATE 0).wr (coreP c) Reg.Co.ARM 0 else s

/-- R170: region `r` leaves the fault state; cores that are not armed are idle again. -/
def leaveFault (s : State) (r : Nat) : State :=
  if regionState s r ≠ 3 then s
  else (coresOf (regionSites s r)).foldl (fun s c => if s.rd (coreP c) Reg.Co.STATE = 5 then s.wr (coreP c) Reg.Co.STATE 0 else s)
    (s.wr regionP (Reg.Rg.STATE r) 2)

/-- R333: the shadow's core starts one frame later at the same position. -/
def shadowStart (s : State) (c : CoreId) : State :=
  let t := (s.site c.site).mirTo
  if 256 ≤ t then s
  else
    let d : CoreId := ⟨t, c.n⟩
    let fc := startFc s c + 1
    let s := s.wr (coreP d) Reg.Co.START_PC (s.rd (coreP c) Reg.Co.START_PC)
    armCore ((s.wr (coreP d) Reg.Co.START_FC_LO fc).wr (coreP d) Reg.Co.START_FC_HI (fc / 2 ^ 32)) d

/-- R149, R172: cycle and frame at which the first bundle of a start in a frame that does not execute was due. -/
def firstDue (s : State) (c : CoreId) : Nat × Nat :=
  let h := bundleHdr (bundleAt s c (s.core c).nextPc)
  let fl := s.frameLen c.site
  let fc := (s.site c.site).fc
  if hdrFa h then (hdrDelta h, fc) else ((hdrDelta h - 1) % fl, fc + (hdrDelta h - 1) / fl)

/-- R151: PROGRAM_START. -/
def programStart (s : State) (c : CoreId) : State :=
  let st := s.site c.site
  let p := coreP c
  if s.rd p Reg.Co.STATE ≠ 1 ∨ st.fc ≠ startFc s c then s
  else
    let s := (s.wr p Reg.Co.STATE 2).wr p Reg.Co.ARM 0
    let s := s.wr p Reg.Co.LOOP_DEPTH 0
    let s := s.setCore c { (s.core c) with
      nextPc := s.rd p Reg.Co.START_PC, prev := st.base, prevFc := (st.fc + 2 ^ 48 - 1) % 2 ^ 48, loops := [], issued := 0, lastCyc := 0, skipped := none }
    let s := if st.exec then s else s.setCore c { (s.core c) with skipped := some (firstDue s c) }
    if isShadow s c.site then s.wr (relP c.site) Reg.Re.SHADOW_STATE 2
    else shadowStart (if st.region < 16 then leaveFault s st.region else s) c

/-! ### The mark generator (R122, R306, R307) -/

/-- R122: a third of an RCNT unit counts 20, 24, 30 or 40 to a nominal cycle at F0 to F3. -/
def cycleThirds (fs : Nat) : Nat :=
  match fs with
  | 0 => 20
  | 1 => 24
  | 2 => 30
  | _ => 40

/-- The requests that the generator's frame `f` puts into effect: frequency state and length code. -/
def genAt (s : State) (r f fs fl : Nat) : Nat × Nat :=
  upTo 4 (fun a k =>
    if (slotState s r k ≠ 1 ∧ slotState s r k ≠ 2) ∨ slotTarget s r k ≠ f then a
    else
      let acts := slotActs s r k
      (if bits acts actFreq 1 = 1 then slotFs s r k else a.1,
        if bits acts actCfg 1 = 1 then bits (tabGet (fun _ => 0) (s.region r).reqCfg k) 0 3 else a.2)) (fs, fl)

/-- R306: ROWS_max, and D for the next mark. -/
def nextDilation (s : State) (r : Nat) : State :=
  let g := s.region r
  let d := if s.rd pmP Reg.Pm.ALIVE = 1 then dutyEff s r else g.duty
  let q := dilationOf (g.rowsHist.foldl max 0) (1024 * 2 ^ g.genFl) d
  let s := s.setRegion r { g with dilation := q.1, duty := d }
  let s := (s.wr ppowP (Reg.Pp.DILATION r) q.1).wr ppowP (Reg.Pp.DUTY_EFF r) (d.1 * 1024 / d.2)
  if q.2 then pwrErr s 10 else s

/-- R130: the summary record of single extensions, every 2^24 frames. -/
def extSummary (s : State) (r : Nat) : State :=
  let g := s.region r
  let n := g.extFrames + 1
  if n < 2 ^ 24 then s.setRegion r { g with extFrames := n }
  else
    let s := s.setRegion r { g with extFrames := 0, extSum := 0 }
    if g.extSum = 0 then s else regionEvent s r 5 0 regionP Reg.Rg.regs g.extSum

/-- R307: the comparison of measured power with the cap, made by firmware. -/
def capCheck (s : State) (r power : Nat) : State :=
  let cap := s.rd ppowP (Reg.Pp.PCAP r)
  if s.rd pmP Reg.Pm.ALIVE = 1 ∧ cap ≠ 0 ∧ cap * 21 < power * 20 then pwrErr s 9 else s

/-- R122: MARK_GENERATE. -/
def markGenerate (s : State) (r power : Nat) : State :=
  let g := s.region r
  if !g.running then s
  else
    let f := (g.fc + 1) % 2 ^ 48
    let at_ := g.markAt + (1024 * 2 ^ g.genFl + g.dilation) * cycleThirds g.genFs
    let rows := (coresOf (regionSites s r)).foldl (fun m c => max m (s.rd (coreP c) Reg.Co.ROWS_FRAME)) 0
    let q := genAt s r f g.genFs g.genFl
    let s := s.setRegion r { g with fc := f, markAt := at_, rowsHist := (rows :: g.rowsHist).take 64, genFs := q.1, genFl := q.2 }
    let s := capCheck (extSummary (nextDilation s r) r) r power
    s.emit (.mark r f (at_ / 3))

/-- R271: MARK_MESSAGE: every site relays it; the sites of the region's island keep it. -/
def markMessage (s : State) (i r fc t : Nat) : State :=
  let s := s.emit (.mark r fc t)
  if islandOf s i ≠ r ∨ 16 ≤ r then s
  else
    let s := s.setSite i { (s.site i) with mark := some (fc % 2 ^ 48, t) }
    if t < s.rcnt then s.setBit (sclkP i) Reg.Ck.MARK_LATE else s

/-! ### The end of a frame -/

/-- R149, R172: a bundle that fell due in a frame that does not execute is remembered. -/
def noteSkipped (s : State) (c : CoreId) : State :=
  let st := s.site c.site
  let k := s.core c
  if st.exec ∨ s.rd (coreP c) Reg.Co.STATE ≠ 2 ∨ k.skipped ≠ none then s
  else
    match dueOf (s.setSite c.site { st with exec := true }) c (bundleHdr (bundleAt s c k.nextPc)) with
    | none => s
    | some d => s.setCore c { k with skipped := some (d.dueCyc, d.dueFc) }

/-- R58, R100, R118, R173: the core's counts of the frame that ends. -/
def coreFrameEnd (s : State) (c : CoreId) : State :=
  let s := noteSkipped s c
  let k := s.core c
  let p := coreP c
  let s := (s.wr p Reg.Co.BUNDLES_FRAME (min k.bundles 0xFFFF)).wr p Reg.Co.ROWS_FRAME (min k.rows 0xFFFF)
  let s := s.wr p Reg.Co.BEATS_FRAME (min k.beats 0xFFFF)
  let s := (s.wr p Reg.Co.OPEN_GRANTS (min k.grants 0xFFFF)).wr p Reg.Co.OPEN_WAIT_MAX (min k.waitMax 0xFFFF)
  s.setCore c { k with bundles := 0, rows := 0, beats := 0, grants := 0, waitMax := 0, binds := [] }

/-- R349, R358, R200: the budget counts of the frame or period that ends. -/
def budgetEnd (s : State) (i : Nat) : State :=
  let st := s.site i
  let p := budP i
  let s := (s.wr p Reg.Bu.USED_SCRUB_SRAM (min st.uSram 0xFFFF)).wr p Reg.Bu.USED_SCRUB_WELL (min st.uWell 0xFFFF)
  let s := (s.wr p Reg.Bu.USED_RECAL (min st.uRecal 0xFF)).wr p Reg.Bu.USED_TELEM (min st.uTelem 0xFF)
  let s := (s.wr p Reg.Bu.USED_SIDEBAND (min st.uSide 0xFFFF)).wr p Reg.Bu.USED_COURIER (min st.uCour 0xFFFFFFFF)
  let s := s.wr (pumpP i) Reg.Pu.PUMP_BYTES_FRAME (min st.moved 0xFFFFFFFF)
  s.setSite i { st with uSram := 0, uWell := 0, uRecal := 0, uTelem := 0, uSide := 0, uCour := 0, uHub := [], moved := 0 }

/-- R119, R222: the cistern's and well's counts. -/
def portsEnd (s : State) (i : Nat) : State :=
  let st := s.site i
  let s := (s.wr (cisP i) Reg.Ci.OPEN_GRANTS (min st.cisGrants 0xFFFF)).wr (cisP i) Reg.Ci.OPEN_WAIT_MAX (min st.cisWait 0xFFFF)
  let s := (s.wr (wellP i) Reg.We.OPEN_LINES (min st.openLines 0xFFFF)).wr (wellP i) Reg.We.OPEN_WAIT_MAX (min st.openWait 0xFFFF)
  s.setSite i { st with cisGrants := 0, cisWait := 0, openLines := 0, openWait := 0 }

/-- R130, R145: the lag, the extensions and the histogram. -/
def lagEnd (s : State) (i : Nat) : State :=
  let st := s.site i
  let p := tniP i
  let s := s.wr p Reg.Tn.LAG_MAX_PREV st.lagMax
  let s := match s.rd p Reg.Tn.EXT_NOW with
    | 0 => s
    | 1 => s.bump p Reg.Tn.EXT_ONE 1
    | _ => s.bump p Reg.Tn.EXT_TWO 1
  let s := s.bump p (Reg.Tn.LAG_HIST (min 31 (st.lagMax / 2 ^ s.rd p Reg.Tn.HIST_SHIFT))) 1
  let s := if st.histClr then s.wrAll p 0 ((List.range 32).map Reg.Tn.LAG_HIST) else s
  (s.wr p Reg.Tn.EXT_NOW 0).wr p Reg.Tn.IN_SLACK 0

/-- R277, R284, R311: stretch, phase and temperature of the frame that ends. -/
def clockEnd (s : State) (i : Nat) : State :=
  let st := s.site i
  let p := sclkP i
  let s := (s.wr p Reg.Ck.STRETCH_CC_PREV st.lost).wr p Reg.Ck.DEPTH_MAX_PREV st.depth
  let s := if st.loss = 0 then s else s.bump p Reg.Ck.STRETCH_FRAMES 1
  let s := s.wr p Reg.Ck.PHASE_MAX_PREV (min st.phaseMax 0xFF)
  let s := if st.jitClr then s.wrAll p 0 ((List.range 32).map Reg.Ck.JIT_HIST) else s
  s.wr (spowP i) Reg.Sp.TJ_MAX_PREV (min st.tjMax 0xFFFF)

/-- R326: corrected errors counted by the site's memories. -/
def siteCe (s : State) (i : Nat) : Nat :=
  (coresOf [i]).foldl (fun n c => n + s.rd (coreP c) Reg.Co.CE_CNT + s.rd (coreP c) Reg.Co.VF_CE_CNT + s.rd (coreP c) Reg.Co.SP_CE_CNT)
    (s.rd (cisP i) Reg.Ci.CIS_CE_CNT + s.rd (wellP i) Reg.We.WELL_CE_CNT)

/-- R326: CE_LIMIT over periods of 2^20 frames. -/
def ceEnd (s : State) (i : Nat) : State :=
  let st := s.site i
  let now := siteCe s i
  let lim := s.rd (relP i) Reg.Re.CE_LIMIT
  let seen := st.ceSeen + (now - st.ceLast)
  let hit := decide (st.ceSeen ≤ lim) && decide (lim < seen)
  let last := decide (2 ^ 20 ≤ st.ceFrames + 1)
  let s := s.setSite i { st with ceLast := now, ceSeen := if last then 0 else seen, ceFrames := if last then 0 else st.ceFrames + 1 }
  if hit then suspect (s.setBit (relP i) Reg.Re.CE_LIMIT_HIT) i else s

/-- R329: a probe cycle that lasts more than 256 frames. -/
def probeEnd (s : State) (i : Nat) : State :=
  let st := s.site i
  let n := st.probeLen + 1
  let s := s.setSite i { st with probeNow := [], probeLen := n }
  if n = 257 ∧ s.rd (relP i) Reg.Re.PROBE_ITEMS ≠ 0 then s.setBit (relP i) Reg.Re.PROBE_SHORT else s

/-- R333: what a shadow still has to apply of the buddy frame that it has replayed, or of its slack window. -/
def mirrorEnd (s : State) (i : Nat) : State :=
  let st := s.site i
  let due := fun (x : Mirror) => decide (fcAhead st.fc x.fc ≠ 0)
  let late := st.mirror.filter due
  let s := s.setSite i { st with mirror := st.mirror.filter (fun x => !(due x)), mirLoad := st.mirLoad - mirrorRate s i (s.frameLen i) }
  let s := mirrorWrites s i late
  late.foldl (fun s x => if x.kind = 1 ∨ x.kind = 3 then (spaceWrite s i x.kind x.core x.off x.words true ⟨x.data, x.poison⟩).getD s else s) s

/-- R333, R334: the digests of the frame that ends. -/
def digestEnd (s : State) (i : Nat) : State :=
  if !(s.site i).digOn then s
  else
    let s := if isShadow s i then shadowCompare (mirrorEnd s i) i else buddyDigest s i
    s.setSite i { (s.site i) with digs := [] }

/-- What a site does as its frame ends. -/
def frameEnd (s : State) (i : Nat) : State :=
  let s := digestEnd s i
  let s := (coresOf [i]).foldl coreFrameEnd s
  let s := ceEnd (clockEnd (lagEnd (portsEnd (budgetEnd s i) i) i) i) i
  if (s.site i).exec then probeEnd s i else s

/-! ### Region faults (R170) -/

/-- R170, R172: the fault at the cores of site `i`. -/
def faultCores (s : State) (i : Nat) : State :=
  buddyEnds ((coresOf [i]).foldl (fun s c =>
    let p := coreP c
    let s := if s.rd p Reg.Co.STATE = 1 then (s.setBit p Reg.Co.START_MISSED).wr p Reg.Co.ARM 0 else s
    s.wr p Reg.Co.STATE 5) s) i

/-- R170, R144: the fault at the Postmaster; a request whose wake has begun is not undone. -/
def faultPanel (s : State) (r : Nat) : State :=
  let wk := waking s r
  let s := upTo 4 (fun s k => if slotState s r k = 1 ∧ !(wk && slotArmed s r k actExit) then slotCancel s r k else s) s
  let g := s.region r
  let s := regionEvent s r 1 2 regionP Reg.Rg.regs g.traps
  let s := s.setRegion r { g with traps := 0, rampUp := none, genFs := regionFs s r, genFl := regionFl s r }
  let s := if regionState s r = 1 then s else s.wr regionP (Reg.Rg.STATE r) 3
  pfSet s intFault

/-- R170: what frame `f` brings to site `i`; `first` at the first of the region's sites to reach it. -/
def faultAtMark (s : State) (i f : Nat) (first : Bool) : State :=
  let r := (s.site i).region
  if 16 ≤ r ∨ (s.region r).faultAt ≠ some f then s
  else
    let s := faultCores s i
    if first then faultPanel s r else s

/-! ### The start of a frame (R123) -/

/-- R354 step 7: injection resumes at the first boundary after the region's clearing has ended. -/
def resumeAfterClear (s : State) (i : Nat) : State :=
  let st := s.site i
  if !st.held ∨ st.clearing then s else resumeNi (s.setSite i { st with held := false }) i

/-- R142: transition frames. -/
def transAtMark (s : State) (i : Nat) : State :=
  let st := s.site i
  let n := st.trans - 1
  (s.setSite i { st with trans := n }).wr (tniP i) Reg.Tn.TRANSITION (if n = 0 then 0 else 1)

/-- R418: the timers at cycle 0 of an executed frame. -/
def timersAtMark (s : State) (i : Nat) : State :=
  let st := s.site i
  if !st.exec then s
  else (coresOf [i]).foldl (fun s c => timerFrame s c (bits st.kickLate c.n 1 = 1) st.base s.rcnt) (s.setSite i { st with kickLate := 0 })

/-- Frame `f` of site `i` begins, with lag `lag`. -/
def frameStart (s : State) (i f lag : Nat) : State :=
  let st := s.site i
  let r := st.region
  let first := decide (r < 16) && (regionSites s r).all (fun k => k = i || (s.site k).fc ≠ f)
  let base := st.base + s.frameLen i
  let s := s.setSite i { st with
    fc := f, base := base, mark := none, exec := decide (s.rd (spowP i) Reg.Sp.SITE_PSTATE = 1), lagMax := lag, lateMine := false
    histClr := false, jitClr := false, loss := 0, lost := 0, depth := 0, phaseMax := 0, tjMax := 0
    acc := st.acc.filter (fun a => decide (base ≤ a.cyc)), ttUe := [], ttLogged := 0, voteLogged := 0, clkLogged := 0, holdOff := st.holdOff - 1 }
  let s := transAtMark (s.wr (tniP i) Reg.Tn.LAG_NOW lag) i
  let s := (coresOf [i]).foldl (fun s c => showBusy s c base) s
  let s := applySite s i
  let s := if first then applyRegion s r else s
  let s := if siteCritical s i then s else panelError s 1 false i
  let s := faultAtMark s i f first
  let s := resumeAfterClear (swapAtMark s i f) i
  timersAtMark s i

/-- R123, R128: the mark may be presented: after its arrival, deferred by 32 cc for each extension, and in an executed
frame on a cycle numbered 3 mod 4. -/
def markDue (s : State) (i cyc t : Nat) : Bool :=
  let n := s.rd (tniP i) Reg.Tn.EXT_NOW
  decide (3 * t + 32 * n * cycleThirds (s.rd (sclkP i) Reg.Ck.FSTATE) ≤ 3 * s.rcnt) && (!(s.site i).exec || cyc % 4 = 3)

/-- R123: FRAME_MARK. -/
def frameMark (s : State) (i cyc lag slackT : Nat) : State :=
  match (s.site i).mark with
  | none => s
  | some (f, t) =>
    if !(markDue s i cyc t) then s else frameStart (frameEnd (enterSlack s i slackT) i) i f (min lag 0xFFFF)

/-! ### LATE (R127 to R130) -/

/-- R127: the threshold of lag with `n` extensions. -/
def lateAt (s : State) (i n : Nat) : Nat := s.slackLen i - 16 + 32 * n

/-- R127: the cutoff of the presentation has not passed. -/
def beforeCutoff (s : State) (i n : Nat) : Bool :=
  match (s.site i).mark with
  | none => true
  | some (_, t) =>
    let cc := cycleThirds (s.rd (sclkP i) Reg.Ck.FSTATE)
    decide (3 * s.rcnt + 16 * cc ≤ 3 * t + 32 * n * cc)

/-- R129: the extension limit: LATE_FRAME with cause 1 in every core of the region. -/
def lateLimit (s : State) (r cyc lag : Nat) : State :=
  (coresOf (regionSites s r)).foldl (fun s c =>
    let st := s.site c.site
    coreTrap s c { ty := 7, cause := 1, d0 := lag, d1 := st.fc % 2 ^ 32, pc := s.rd (coreP c) Reg.Co.PC, cyc := st.base + cyc } true) s

/-- R128, R130: every site of the region's island receives the extension. -/
def extendFrame (s : State) (r : Nat) (n : Nat) : State :=
  let is := (List.range 256).filter (fun k => islandOf s k = r)
  let s := is.foldl (fun s k => (s.wr (tniP k) Reg.Tn.EXT_NOW (n + 1)).setBit (tniP k) Reg.Tn.EXT) s
  let g := s.region r
  if n = 0 then s.setRegion r { g with extSum := g.extSum + 1 }
  else regionEvent (s.setRegion r { g with extSum := g.extSum - 1 }) r 4 1 regionP Reg.Rg.regs

/-- R127: LATE. -/
def late (s : State) (i cyc lag : Nat) : State :=
  let st := s.site i
  let r := islandOf s i
  let p := tniP i
  let n := s.rd p Reg.Tn.EXT_NOW
  if 16 ≤ r ∨ !st.exec ∨ lag < lateAt s i n ∨ !(beforeCutoff s i n) then s
  else
    let s := s.wr p Reg.Tn.LAG_NOW (min lag 0xFFFF)
    let s := s.setSite i { st with lagMax := max st.lagMax (min lag 0xFFFF), lateMine := true }
    let s := if st.lateMine then s else s.bump p Reg.Tn.LATE_CNT 1
    let s := s.setBit p Reg.Tn.LATE
    if 2 ≤ n then lateLimit s r cyc lag else extendFrame s r n

/-! ### Free sites (R343) -/

/-- R343, R373: PERIOD_BOUNDARY. -/
def periodBoundary (s : State) (i : Nat) : State :=
  if (s.site i).region < 16 then s else applySite (budgetEnd s i) i

/-! ### Meanings -/

/-- R151: ARM. -/
def execArm (c : CoreId) (s : State) : Host.Outcome State Fault Refusal :=
  onUnit (coreOk c) (hostPath s (coreP c) 0x40 (armWrite s c))

/-- R173: DISARM. -/
def execDisarm (c : CoreId) (s : State) : Host.Outcome State Fault Refusal :=
  onUnit (coreOk c) (hostAct s (coreP c) 0x40 (some (disarm s c)))

/-- R151: PROGRAM_START. -/
def execProgramStart (c : CoreId) (s : State) : Host.Outcome State Fault Refusal := onUnit (coreOk c) (programStart s c)

/-- R122: MARK_GENERATE. -/
def execMarkGenerate (r power : Nat) (s : State) : Host.Outcome State Fault Refusal := onUnit (regionOk r) (markGenerate s r power)

/-- R271: MARK_MESSAGE. -/
def execMarkMessage (i r fc t : Nat) (s : State) : Host.Outcome State Fault Refusal := onUnit (siteOk i) (markMessage s i r fc t)

/-- R123: FRAME_MARK. -/
def execFrameMark (i cyc lag slackT : Nat) (s : State) : Host.Outcome State Fault Refusal := onUnit (siteOk i) (frameMark s i cyc lag slackT)

/-- R127: LATE. -/
def execLate (i cyc lag : Nat) (s : State) : Host.Outcome State Fault Refusal := onUnit (siteOk i) (late s i cyc lag)

/-- R343: PERIOD_BOUNDARY. -/
def execPeriodBoundary (i : Nat) (s : State) : Host.Outcome State Fault Refusal := onUnit (siteOk i) (periodBoundary s i)

end Sys2Proof.Machine
end

