-- ==== Sys2Proof/Machine/CollRows.lean ====
section
/-! DEFINITION. The commands of the collective engine (R254, R255, R260 to R267): posting, starting, committing, and the
ends of operations. -/

namespace Sys2Proof.Machine

/-! ### Checks at the post (R255) -/

/-- R255 check 1. -/
def collFormatBad (s : State) (h g d : Nat) : Bool :=
  let op := dOp d
  bits d 480 32 != crc32c d 60 || bits d 0 4 != 1 || op = 0 || decide (5 < op) || decide (2 < dRed d) ||
    (dRed d != 0 && (op = 2 || op = 4 || op = 5)) || decide (2 < dType d) || bits d 20 4 != 0 ||
    (if op = 4 then decide (grpM s h g ≤ dRoot d) else dRoot d != 0) ||
    dLen d % 4096 != 0 || decide (dLen d < 4096) || decide (2 ^ 21 < dLen d) || bits d 112 16 != 0 || bits d 176 16 != 0 ||
    bits d 248 8 != 0 || bits d 344 136 != 0 || s.rd (collP h) (Reg.Cl.ENABLE g) = 0 || decide (256 < stagingOf d)

/-- R255 check 2. -/
def collVersionBad (s : State) (h g d : Nat) : Bool :=
  s.rd (collP h) (Reg.Cl.COLL_VER g) = 1 && (dOp d = 5 || dType d != 0)

/-- R256: this member reads SRC. -/
def usesSrc (s : State) (h g d : Nat) : Bool := dOp d != 4 || dRoot d = grpPos s h g

/-- R25, R255 check 3: an address range lies in one logical site's target. -/
def rangeBad (s : State) (a len : Nat) : Bool :=
  a % 8 != 0 || (targetOf (a % 2 ^ 40) len).isNone || (physOf s (bits a 40 8)).isNone

/-- R255 check 3. -/
def collRangeBad (s : State) (h g d : Nat) : Bool :=
  let n := srcLen s h g d
  let m := dstLen s h g d
  rangeBad s (dDst d) m || (usesSrc s h g d && (rangeBad s (dSrc d) n ||
    (dSrc d != dDst d && decide (dSrc d < dDst d + m) && decide (dDst d < dSrc d + n))))

/-- R255 check 4. -/
def collBarred (s : State) (h g d : Nat) : Bool :=
  let out := fun (a : Nat) => match physOf s (bits a 40 8) with
    | some i => (s.site i).region != grpRegion s h g
    | none => true
  out (dDst d) || (usesSrc s h g d && out (dSrc d))

/-- R255: the status of the first check that fails, 0 for none. -/
def collCheck (s : State) (h g d : Nat) : Nat :=
  if collFormatBad s h g d then 0x0C
  else if collVersionBad s h g d then 0x0F
  else if collRangeBad s h g d then 2
  else if collBarred s h g d then 3
  else 0

/-! ### Completion (R262, R263) -/

/-- R262: the completion record. -/
def collRecord (s : State) (h g d st flags done : Nat) : Nat :=
  let c := collP h
  sealRec [(0, 8, s.time), (8, 8, dTag d), (16, 1, st), (17, 1, flags), (18, 1, 0x24), (19, 1, dOp d), (20, 3, dId d),
    (23, 1, grpPos s h g), (24, 2, s.rd c (Reg.Cl.EPOCH g)), (26, 2, s.rd c (Reg.Cl.GROUP_ID g)), (28, 32, done)]

/-- R262, R415: files a record in ring CQ of the gate site, else in the region's event queue. -/
def collFile (s : State) (h g d rec_ : Nat) : State :=
  let r := grpRegion s h g
  let s := logAdd s (logTag 3 r) rec_
  match gateOf s r h with
  | none => evqPut s r rec_
  | some i =>
    let q := ringIx i (dCq d)
    if qRoom s q && s.rd queueP (qFld (Reg.Qu.OWNER 0) q) = r then qPut s q rec_
    else evqPut ((s.setBit (pumpP i) Reg.Pu.RING_REDIRECT).bump (pumpP i) Reg.Pu.RING_REDIRECT_CNT 1) r rec_

/-- R262, R263: an operation ends with a status. -/
def collClose (s : State) (h g d st flags done : Nat) : State :=
  let c := collP h
  let s := collFile s h g d (collRecord s h g d st flags done)
  let s := s.wr c (Reg.Cl.LAST_COLL_ID g) (dId d)
  let s := if st = 0 then s else s.bump c Reg.Cl.FAILED_CNT 1
  if st = 0x0C then s.setBit c Reg.Cl.FORMAT
  else if st = 0x0D then s.setBit c Reg.Cl.FAILED
  else if st = 0x0F then s.setBit c Reg.Cl.VERSION
  else s

/-- FLAGS of a started operation. -/
def runFlags (r : CRun) (timed : Bool) : Nat :=
  (if r.backup then 1 else 0) + (if r.pois then 2 else 0) + (if r.lost then 4 else 0) + (if timed then 8 else 0)

/-- Notes an operation that has completed here (R259 check 4). -/
def noteDone (s : State) (h g id : Nat) : State :=
  let v := s.slot h g
  s.setSlot h g { v with doneIds := keyAdd v.doneIds id }

/-- R262: sends and receives of slot `g` still in progress are abandoned. -/
def collStop (s : State) (h g : Nat) : State :=
  let ep := 256 + h
  let out := s.streams.filter (fun x => x.1 / 512 = ep && x.2.job = 3 && refSlot x.2.ref = g)
  let s := out.foldl (fun s x =>
    let k := x.1 % 512
    let s := setStreamState s ep k 0
    (s.wr (epPage ep) (Reg.Cn.SEPOCH k) (s.rd (epPage ep) (Reg.Cn.SEPOCH k) + 1)).setStream ep k {}) s
  let ins := s.ctxs.filter (fun x => x.1 / 512 = ep && x.2.live && x.2.act = 3 && x.2.done.isNone && refSlot x.2.onto = g)
  ins.foldl (fun s x => ctxDrop s ep (x.1 % 512)) s

/-- The running operation of a slot ends with a status, its transfers abandoned. -/
def collEndRun (s : State) (h g st : Nat) (timed : Bool) : State :=
  match s.run h g with
  | none => s
  | some r =>
    let s := if r.closed then s else noteDone (collClose s h g r.desc st (runFlags r timed) r.doneMap) h g (dId r.desc)
    let s := collStop s h g
    showColl (s.setSlot h g { (s.slot h g) with run := none }) h g

/-- R265, R266: every operation of a slot, running or queued, ends with a status. -/
def collEndAll (s : State) (h g st : Nat) : State :=
  let s := collEndRun s h g st false
  let q := (s.slot h g).queue
  let s := q.foldl (fun s d => collClose s h g d st 0 0) s
  showColl (s.setSlot h g { (s.slot h g) with queue := [] }) h g

/-- R266: region `r` begins clearing. -/
def collRegionEnd (s : State) (r : Nat) : State :=
  upTo 16 (fun s h => upTo 16 (fun s g =>
    if grpRegion s h g = r ∧ ((s.run h g).isSome ∨ (s.slot h g).queue ≠ []) then collEndAll s h g 4 else s) s) s

/-! ### Posting and starting -/

/-- R255: COLL_POST. -/
def collPost (s : State) (h : Nat) : State :=
  let c := collP h
  let d := (List.range 16).foldl (fun a k => a + s.rd c (Reg.Cl.POST_DATA k) * 2 ^ (32 * k)) 0
  let g := dGroup d
  let v := s.slot h g
  if 8 ≤ v.queue.length then (badValue s c 0x90).setBit c Reg.Cl.QUEUE_FULL
  else
    let st := collCheck s h g d
    if st ≠ 0 then collClose s h g d st 0 0 else showColl (s.setSlot h g { v with queue := v.queue ++ [d] }) h g

/-- R255, R346: COLL_START. -/
def collStart (s : State) (h g : Nat) : State :=
  let v := s.slot h g
  let r := grpRegion s h g
  match v.queue, v.run, gateOf s r h with
  | d :: rest, none, some i =>
    let need := stagingOf d
    let quota := s.rd (collP h) (Reg.Cl.STAGE_Q r)
    if 2 ^ 47 ≤ fcAhead (s.site i).fc (dFc d) then s
    else if quota < need then
      showColl (collClose (s.setSlot h g { v with queue := rest }) h g d 0x0C 0 0) h g
    else if quota < stagingUsed s h (fun k => grpRegion s h k = r) + need ∨ 256 < stagingUsed s h (fun _ => true) + need then s
    else
      let run := collBegin s h g { desc := d }
      let s := s.setSlot h g { v with queue := rest, run := some run, doneIds := keyDel v.doneIds (dId d) }
      collPump (showColl s h g) h g
  | _, _, _ => s

/-! ### Commits (R260) -/

/-- R256: segments of DST written at this member. -/
def dueSegs (s : State) (h g : Nat) (r : CRun) : List Nat :=
  if dOp r.desc = 1 then [grpPos s h g] else List.range (grpM s h g)

/-- Writes `n` words at an offset of site `i`, line by line. -/
def putWords (s : State) (i off n : Nat) (l : Line) : State :=
  let w0 := 16 - off / 8 % 16
  upTo (n / 16 + 2) (fun s k =>
    let a := if k = 0 then 0 else w0 + 16 * (k - 1)
    let m := min (if k = 0 then w0 else 16) (n - a)
    if m = 0 then s else openWrite s i (off + 8 * a) m ⟨bits l.data (64 * a) (64 * m), bits l.poison a m⟩) s

/-- R214: the transfer of a commit, to the well or elsewhere; none while the well's landing entries are all in use. -/
def commitWrite (s : State) (i off n : Nat) (l : Line) (ok : Bool) : Option State :=
  if targetOf off (8 * n) = some .well then
    match landMake s i off (8 * n) with
    | (_, none) => none
    | (s, some z) => some (landEnd (putWords s i off n l) i z off (if ok then 8 * n else 0) ok)
  else some (putWords s i off n l)

/-- R260: segment `q` after its commit, and the operation's end when it was the last. -/
def committed (s : State) (h g q : Nat) (r : CRun) (ok : Bool) : State :=
  let v := r.seg q
  let bit := if dOp r.desc = 1 then grpPos s h g else q
  let r := { r.setSeg q { v with ended := true } with
    doneMap := if ok then r.doneMap ||| 2 ^ bit else r.doneMap
    lost := r.lost || !ok
    pois := r.pois || (ok && v.poison != 0) }
  let s := s.setSlot h g { (s.slot h g) with run := some r }
  if (dueSegs s h g r).all (fun k => (r.seg k).ended) then
    let s := collClose s h g r.desc (if r.lost then 0x0D else 0) (runFlags r false) r.doneMap
    let s := noteDone s h g (dId r.desc)
    let s := s.setSlot h g { (s.slot h g) with run := some { r with closed := true } }
    collReap (showColl s h g) h g
  else s

/-- R260: COLL_COMMIT: segment `q`, after `tries` transfers that ended BROKEN. -/
def collCommit (s : State) (h g q tries : Nat) : State :=
  match s.run h g with
  | none => s
  | some r =>
    let l := dLen r.desc
    let v := r.seg q
    let a := dDst r.desc + (if dOp r.desc = 1 then 0 else q * l)
    match gateOf s (grpRegion s h g) h, physOf s (bits a 40 8) with
    | some i, some t =>
      if r.closed ∨ !v.fin ∨ v.ended ∨ !((dueSegs s h g r).contains q) ∨ injStopped s i then s
      else
        let c := charge s i (bits a 40 8) 0
        if !c.2 then c.1
        else
          let s := countMoved (c.1.setSite i { (c.1.site i) with uCour := (c.1.site i).uCour + cdiv l 48 }) i l
          let off := a % 2 ^ 40
          if tries ≤ 3 then
            match commitWrite s t off (l / 8) ⟨v.val, v.poison⟩ true with
            | some s => committed s h g q r true
            | none => s.setBit (wellP t) Reg.We.LAND_FULL
          else
            let f := s.draw (8 * l)
            match commitWrite f.2 t off (l / 8) ⟨f.1.toNat, 0⟩ false with
            | some s => faultNow (committed s h g q r false) (grpRegion s h g)
            | none => s.setBit (wellP t) Reg.We.LAND_FULL
    | _, _ => s

/-- R262: COLL_TIMEOUT. -/
def collTimeout (s : State) (h g : Nat) : State :=
  match s.run h g with
  | none => s
  | some r => collEndRun s h g (if r.fail = 0 then 0x0D else r.fail) true

/-- R265 step 1: COLL_ABORT. -/
def collAbort (s : State) (h g : Nat) : State := collEndAll s h g 0x0E

/-! ### Meanings -/

/-- R255: COLL_POST. -/
def execCollPost (h : Nat) (s : State) : Host.Outcome State Fault Refusal := onUnit (hubOk h) (hostPath s (collP h) 0x90 (collPost s h))

/-- R255: COLL_START. -/
def execCollStart (h g : Nat) (s : State) : Host.Outcome State Fault Refusal := onUnit (hubOk h && decide (g < 16)) (collStart s h g)

/-- R260: COLL_COMMIT. -/
def execCollCommit (h g q tries : Nat) (s : State) : Host.Outcome State Fault Refusal :=
  onUnit (hubOk h && decide (g < 16)) (collCommit s h g q tries)

/-- R262: COLL_TIMEOUT. -/
def execCollTimeout (h g : Nat) (s : State) : Host.Outcome State Fault Refusal := onUnit (hubOk h && decide (g < 16)) (collTimeout s h g)

/-- R265: COLL_ABORT. -/
def execCollAbort (h g : Nat) (s : State) : Host.Outcome State Fault Refusal :=
  onUnit (hubOk h && decide (g < 16)) (hostAct s (collP h) (0x10C + 0x10 * g) (some (collAbort s h g)))

end Sys2Proof.Machine
end

