-- ==== Sys2Proof/Machine/Flash.lean ====
section
/-! DEFINITION. The configuration records in module flash (R323 to R325), the licences of the licence set record (R395, R396),
and registers that a switched domain brings up (R288). -/

namespace Sys2Proof.Machine

/-! ### Records -/

/-- R323: CRC-32C over a list of 32-bit words. -/
def crcWords (ws : List Nat) : Nat :=
  (ws.foldl (fun c w => (List.range 4).foldl (fun c i => crcByte c (bits w (8 * i) 8)) c) 0xFFFFFFFF) ^^^ 0xFFFFFFFF

/-- R323: MAGIC of a record, and the FMT_VER in which records are written. -/
def recMagic : Nat := 0x43464752
def recFmt : Nat := 1

/-- The words of copy `c` (0 A, 1 B) of the record of type `t`. -/
def recCopy (s : State) (t c : Nat) : List Nat := tabGet (fun _ => []) s.flash (2 * t + c)

/-- R323: the copy is valid. -/
def recValid (t : Nat) (ws : List Nat) : Bool :=
  decide (5 ≤ ws.length) && ws.getD 0 0 = recMagic && ws.getD 1 0 = t + recFmt * 256 && ws.getD 3 0 = 4 * (ws.length - 5) &&
    ws.getD (ws.length - 1) 0 = crcWords (ws.take (ws.length - 1))

/-- SEQ of a copy, and its body. -/
def recSeq (ws : List Nat) : Nat := ws.getD 2 0
def recBody (ws : List Nat) : List Nat := (ws.drop 4).take (ws.length - 5)

/-- Distance of serial numbers modulo 2^32. -/
def serialGap (a b : Nat) : Nat := (a + 2 ^ 32 - b % 2 ^ 32) % 2 ^ 32

/-- R325: 0 copy A, 1 copy B, 2 CFG_NONE, 3 CFG_CONFLICT. -/
def recPick (s : State) (t : Nat) : Nat :=
  let a := recCopy s t 0
  let b := recCopy s t 1
  match recValid t a, recValid t b with
  | true, false => 0
  | false, true => 1
  | false, false => 2
  | true, true =>
    let g := serialGap (recSeq a) (recSeq b)
    if g = 0 then (if recBody a = recBody b then 0 else 3)
    else if g = 2 ^ 31 then 3
    else if g < 2 ^ 31 then 0 else 1

/-- The body in use, if there is one. -/
def recUse (s : State) (t : Nat) : Option (List Nat) :=
  let c := recPick s t
  if c < 2 then some (recBody (recCopy s t c)) else none

/-- R339: CFG_USE shows the choice made for type `t`. -/
def showUse (s : State) (t : Nat) : State :=
  let v := s.rd prelP Reg.Pr.CFG_USE
  s.wr prelP Reg.Pr.CFG_USE (v - bits v (2 * t - 2) 2 * 4 ^ (t - 1) + recPick s t * 4 ^ (t - 1))

/-- R325, R416: a step reads the record of type `t`; CFG_NONE and CFG_CONFLICT are logged. -/
def recRead (s : State) (t : Nat) : State :=
  let s := showUse s t
  if recPick s t < 2 then s else panelEvent s 0x19 1 prelP Reg.Pr.regs

/-- R324: the copy that a write replaces. -/
def recTarget (s : State) (t : Nat) : Nat :=
  let a := recCopy s t 0
  let b := recCopy s t 1
  if !(recValid t a) then 0
  else if !(recValid t b) then 1
  else if serialGap (recSeq a) (recSeq b) < 2 ^ 31 ∧ recSeq a ≠ recSeq b then 1
  else if recSeq a = recSeq b then 1 else 0

/-- R324: SEQ of the next copy: the newest SEQ plus 1; with no valid copy a free value. -/
def recNext (s : State) (t : Nat) : Nat :=
  let a := recCopy s t 0
  let b := recCopy s t 1
  match recValid t a, recValid t b with
  | true, true => ((if serialGap (recSeq a) (recSeq b) < 2 ^ 31 then recSeq a else recSeq b) + 1) % 2 ^ 32
  | true, false => (recSeq a + 1) % 2 ^ 32
  | false, true => (recSeq b + 1) % 2 ^ 32
  | false, false => (s.draw 32).1.toNat

/-- R324: writes a record; a write that fails leaves an invalid copy (log entry 20). The twin receives both copies (R245). -/
def recPut (s : State) (t : Nat) (body : List Nat) (ok : Bool) : State :=
  let c := recTarget s t
  let head := [recMagic, t + recFmt * 256, recNext s t, 4 * body.length] ++ body
  let ws := if ok then head ++ [crcWords head] else []
  let s := { s with flash := tabSet (fun _ => []) s.flash (2 * t + c) ws, drawn := s.drawn + 1 }
  if ok then ((panelEvent (showUse s t) 0x19 0 prelP Reg.Pr.regs).emit (.twin 1 (2 * t))).emit (.twin 1 (2 * t + 1)) else s

/-- Byte `k` of a body. -/
def bodyByte (ws : List Nat) (k : Nat) : Nat := bits (ws.getD (k / 4) 0) (8 * (k % 4)) 8

/-- `n` bytes of a body from byte `k`, little-endian (R4). -/
def bodyNum (ws : List Nat) (k n : Nat) : Nat :=
  (List.range n).foldl (fun a i => a + bodyByte ws (k + i) * 256 ^ i) 0

/-! ### Licences -/

/-- R395: the words of slot `k` of the licence set, as one number. -/
def licSlot (s : State) (k : Nat) : Nat := bodyNum ((recUse s 4).getD []) (160 * k) 160

/-- R395: fields of a licence. -/
def licField (l off n : Nat) : Nat := bits l (8 * off) (8 * n)
def licId (l : Nat) : Nat := licField l 6 2
def licSeq (l : Nat) : Nat := licField l 8 4
def licFrom (l : Nat) : Nat := licField l 20 8
def licUntil (l : Nat) : Nat := licField l 28 8
def licRegions (l : Nat) : Nat := licField l 36 1
def licHosts (l : Nat) : Nat := licField l 37 1
def licDeeps (l : Nat) : Nat := licField l 38 1
def licFabrics (l : Nat) : Nat := licField l 39 1
def licFeatures (l : Nat) : Nat := licField l 40 1

/-- R396 order 1: a licence whose format is wrong. -/
def licBad (l : Nat) : Bool :=
  licField l 0 4 != 0x4E43494C || licField l 4 1 != 1 || decide (1 < licField l 5 1) || decide (16 < licRegions l) ||
    decide (4 < licHosts l) || decide (12 < licDeeps l) || decide (64 < licFabrics l) || decide (3 < licFeatures l) ||
    licField l 41 23 != 0 || (licUntil l != 0 && decide (licUntil l ≤ licFrom l))

/-- R396: the state of a licence among the others of its set: 1 VALID, 2 NOT_YET, 3 EXPIRED, 4 SUPERSEDED, 5 FORMAT,
6 SIGNATURE, 7 SERIAL. -/
def licState (s : State) (others : List Nat) (l : Nat) : Nat :=
  if licBad l then 5
  else if !(Config.licSig l) then 6
  else if licField l 12 8 ≠ Config.serial.toNat then 7
  else if others.any (fun o => licId o = licId l && decide (0 < serialGap (licSeq o) (licSeq l)) &&
      decide (serialGap (licSeq o) (licSeq l) < 2 ^ 31)) then 4
  else if licUntil l ≠ 0 ∧ licUntil l ≤ s.time then 3
  else if s.time < licFrom l then 2
  else 1

/-- The licences of the set, slot by slot; an empty slot is 0. -/
def licSet (s : State) : List Nat := (List.range 8).map (licSlot s)

/-- R400: the state of slot `k`: 0 empty. -/
def licSlotState (s : State) (k : Nat) : Nat :=
  let l := licSlot s k
  if l = 0 then 0 else licState s ((licSet s).filter (fun o => o != 0 && o != l)) l

/-- R400: SLOT_USED and SLOT_VALID. -/
def showLics (s : State) : State :=
  let mask := fun (p : Nat → Bool) => (List.range 8).foldl (fun m k => if p k then m + 2 ^ k else m) 0
  (s.wr licP Reg.Li.SLOT_USED (mask (fun k => licSlot s k != 0))).wr licP Reg.Li.SLOT_VALID (mask (fun k => licSlotState s k = 1))

/-- R397: the effective entitlement of the licence set: regions, host, deep and fabric ports, features. -/
def entitlement (s : State) : Nat × Nat × Nat × Nat × Nat :=
  ((List.range 8).filter (fun k => licSlotState s k = 1)).foldl (fun a k =>
    let l := licSlot s k
    (max a.1 (licRegions l), max a.2.1 (licHosts l), max a.2.2.1 (licDeeps l), max a.2.2.2.1 (licFabrics l), a.2.2.2.2 ||| licFeatures l))
    (1, 1, 0, 16, 0)

/-- R398: an assignment evaluates REGIONS alone. -/
def evalRegions (s : State) : State :=
  let e := (entitlement s).1
  let old := s.rd licP Reg.Li.EFF_REGIONS
  let c := s.rd licP Reg.Li.EFF_COMPL
  let s := (s.wr licP Reg.Li.EFF_REGIONS e).wr licP Reg.Li.EFF_COMPL (c + old - e)
  if e < old then panelEvent (s.setBit licP Reg.Li.REDUCED) 0x0C 1 licP Reg.Li.regs 1 else s

/-! ### Firmware slots -/

/-- R422, R423: an image verifies: format, CRC and signature. -/
def fwVerifies (m : FwImage) : Bool :=
  m.magic = 0x57464D50 && m.fmtVer = 1 && decide (m.keyId.toNat ≤ 1) && !m.rsv && m.crcOk && m.sigOk

/-- R423: a slot is bootable. -/
def fwBootable (f : FwSlot) (floor : Nat) : Bool :=
  match f.img with
  | some m => fwVerifies m && decide (floor ≤ m.svn.toNat) && f.confirmed && !f.trialFailed
  | none => false

/-- Slot 0 A or 1 B. -/
def State.fw (s : State) (k : Nat) : FwSlot := if k = 0 then s.fwA else s.fwB

def State.setFw (s : State) (k : Nat) (f : FwSlot) : State := if k = 0 then { s with fwA := f } else { s with fwB := f }

/-! ### Registers of a domain that is switched on -/

/-- The page of a register key. -/
def keyPage (k : Nat) : Nat := if k < 2 ^ 80 then k / 32 % 2 ^ 40 / 0x1000 * 0x1000 else (k - 2 ^ 80) / 32 / 2 ^ 32 % 2 ^ 40

/-- The registers of the pages that `p` picks hold their reset values again (log entry 21). -/
def regsReset (s : State) (p : Nat → Bool) : State :=
  let kept := s.regs.filter (fun e => !(p (keyPage e.1)))
  let back := resetRegs.filter (fun e => p (keyPage e.1))
  { s with regs := back.foldl (fun t e => tabInsert t e.1 e.2) kept }

/-- R364: the page lies in the VLOGIC domain of site `i`. -/
def logicPage (i page : Nat) : Bool := pageOfSite i page && pageDomain page = 2

/-- R364: the page lies in the VLINK domain of site `i`; the site power page keeps the domain states. -/
def linkPage (i page : Nat) : Bool := pageOfSite i page && pageDomain page = 1 && page != spowP i

end Sys2Proof.Machine
end

