-- ==== Sys2Proof/Machine/Requests.lean ====
section
/-! DEFINITION. Frame requests (R142, R143, R380): submission, cancellation, and what FREQ, FRAME_CFG, SCHED_SWAP and the
Dormant actions do (R139, R205, R278, R279, R296 to R300); assignment and clearing of regions (R341, R353 to R356). -/

namespace Sys2Proof.Machine

/-! ### Checks (R120, R143, R278, R296, R309, R341) -/

/-- R120: a FRAME_CFG value that is not taken. -/
def cfgBad (v : Nat) : Bool :=
  let fl := bits v 0 3
  let sl := bits v 3 7
  decide (4 < fl) || decide (sl < 4) || decide (64 < sl) || bits v 10 6 != 0 || decide (1024 * 2 ^ fl < 4 * (16 * sl))

/-- R309: the fastest state that region `r` may use. -/
def freqCeiling (s : State) (r : Nat) : Nat :=
  let cal := (regionSites s r).foldl (fun m i => max m (s.rd (spowP i) Reg.Sp.CAL_CEIL)) 0
  let d := if s.rd ppowP (Reg.Pp.DILATION r) = 0 then 0 else regionFs s r
  max (max cal (s.rd ppowP (Reg.Pp.TL r))) d

/-- R296: a region that may not enter Dormant. -/
def dormantBarred (s : State) (r : Nat) : Bool :=
  s.rd drainP (Reg.Dr.DRAIN_DONE r) != 1 || (regionSites s r).any (fun i => s.rd (cniP i) Reg.Cn.INJ_STOPPED != 1 || (s.site i).wbs != []) ||
    (List.range 16).any (fun h => (List.range 16).any (fun g =>
      grpRegion s h g = r && ((s.run h g).isSome || (s.slot h g).queue != []))) ||
    (List.range 4).any (fun k => slotArmed s r k actFreq)

/-- R341 check 2: region `q` has the logical site `j`, or awaits it. -/
def claims (s : State) (q j : Nat) : Bool :=
  let pend := (s.region q).assign || (List.range 4).any (fun k => slotArmed s q k actReassign)
  (match physOf s j with
    | some i => (s.site i).region = q
    | none => false) ||
    (pend && s.rd regionP (Reg.Rg.PEND_VALID q) = 1 && inRect s (rectOf (s.rd regionP (Reg.Rg.PEND_RECT q))) j)

/-- R341: the pending configuration of region `r`. -/
def pendCfg (s : State) (r : Nat) : Nat := s.rd regionP (Reg.Rg.PEND_FL_CODE r) + 8 * s.rd regionP (Reg.Rg.PEND_SL r)

/-- R341: the code of the first condition that fails, 0 for none; `ready` is the condition on the region's state. -/
def assignCode (s : State) (r : Nat) (ready : Bool) : Nat :=
  let w := s.rd regionP (Reg.Rg.PEND_RECT r)
  let q := rectOf w
  let js := (List.range (16 * gridW s)).filter (inRect s q)
  let is := js.filterMap (physOf s)
  let rel := s.rd regionP (Reg.Rg.PEND_VALID r) = 0
  let cps := [0x48, 0x4C, 0x50].all (fun o => pairOk s regionP Reg.Rg.regs (o + 0x20 * r))
  if !rel && (decide (gridW s ≤ q.u0) || decide (gridW s < q.v)) then 1
  else if !rel && js.any (fun j => (List.range 16).any (fun p => p != r && claims s p j)) then 2
  else if !rel && is.all (fun i => (hubOf i).isNone) then 3
  else if !rel && decide ((entitlement s).1 ≤ r) then 4
  else if !rel && is.any (fun i => s.rd (cniP i) Reg.Cn.SHADOW_VALID != 1 || s.rd (cniP i) Reg.Cn.SH_RECT != w ||
      bits (s.rd (cniP i) Reg.Cn.SH_FLAGS) 2 4 != r) then 5
  else if !cps then 6
  else if !ready then 7
  else if !rel && cfgBad (pendCfg s r) then 8
  else 0

/-- R142: the allowed action sets. -/
def comboOk (a : Nat) : Bool := (decide (0 < a) && decide (a < 8)) || a = 8 || a = 16 || a = 20 || a = 32

/-- R143 check 4, R278, R296, R353: a request that is refused. -/
def reqRefused (s : State) (r a fs cfg : Nat) : Bool :=
  let has := fun (b : Nat) => bits a b 1 = 1
  let st := regionState s r
  st = 0 ||
    (has actSwap && (regionSites s r).any (fun i => s.rd (tniP i) Reg.Tn.SHADOW_VALID != 1 || s.rd (wellP i) Reg.We.SHADOW_VALID != 1)) ||
    (has actCfg && cfgBad cfg) || (has actFreq && decide (fs < freqCeiling s r)) || (has actEnter && dormantBarred s r) ||
    (has actReassign && assignCode s r (st = 2 || st = 3 || st = 4) != 0)

/-! ### FR_GO (R380, R384) -/

/-- A field of the request as party `p` sees it: VF pages hold it 8 bytes on. -/
def frFld (p : Nat) (f : Fld) : Fld := if p = 0 then f else { f with off := f.off + 8 }

/-- The page of party `p`'s request. -/
def frPage (p : Nat) : Nat := if p = 0 then freqP else vfP (p - 1)

/-- A request as submitted: region, actions, state, target and configuration. -/
structure FrReq where
  r : Nat
  acts : Nat
  fs : Nat
  target : Nat
  cfg : Nat
  deriving DecidableEq, Repr

/-- R380, R384: what party `p` has written. -/
def frRead (s : State) (p : Nat) : FrReq :=
  let g := fun (f : Fld) => s.rd (frPage p) (frFld p f)
  { r := if p = 0 then g Reg.Fr.REGION else p - 1, acts := g Reg.Fr.ACTIONS, fs := g Reg.Fr.FSTATE
    target := g Reg.Fr.FR_TARGET_LO + g Reg.Fr.FR_TARGET_HI * 2 ^ 32, cfg := g Reg.Fr.FR_CFG }

/-- R143: the result code of a request and its slot: 1 ARMED, 2 to 5 the refusals. -/
def frJudge (s : State) (q : FrReq) : Nat × Nat :=
  let lead := fcAhead q.target (s.region q.r).fc
  let armed := (List.range 4).filter (fun k => slotState s q.r k = 1)
  if lead < 64 ∨ 2 ^ 47 ≤ lead then (2, 0)
  else if !(comboOk q.acts) then (3, 0)
  else if armed.any (fun k => slotTarget s q.r k = q.target) then (4, 0)
  else match (List.range 4).find? (fun k => slotState s q.r k != 1) with
    | none => (4, 0)
    | some k => if reqRefused s q.r q.acts q.fs q.cfg then (5, 0) else (1, k)

/-- R143, R380: FR_GO of party `p`. -/
def frGo (s : State) (p : Nat) : State :=
  let q := frRead s p
  let j := frJudge s q
  let put := fun (s : State) (f : Fld) (v : Nat) => s.wr (frPage p) (frFld p f) v
  let s := put (put (put s Reg.Fr.BUSY 0) Reg.Fr.RESULT j.1) Reg.Fr.SLOT j.2
  let s := if bits q.acts actReassign 1 = 1 ∧ (j.1 = 5 ∨ j.1 = 1) then
      let st := regionState s q.r
      let c := assignCode s q.r (st = 2 || st = 3 || st = 4)
      (if s.rd regionP (Reg.Rg.PEND_VALID q.r) = 0 then s else evalRegions s).wr regionP (Reg.Rg.ASSIGN_ERR q.r) c
    else s
  if j.1 ≠ 1 then s
  else
    let n := slotNo q.r j.2
    let s := (s.wr freqP (Reg.Fr.SLOT_TARGET_LO n) q.target).wr freqP (Reg.Fr.SLOT_TARGET_HI n) (q.target / 2 ^ 32)
    let s := ((s.wr freqP (Reg.Fr.SLOT_ACTIONS n) q.acts).wr freqP (Reg.Fr.SLOT_FSTATE n) q.fs).wr freqP (Reg.Fr.SLOT_STATE n) 1
    let g := s.region q.r
    s.setRegion q.r { g with reqCfg := tabSet (fun _ => 0) g.reqCfg j.2 q.cfg, reqDone := tabSet (fun _ => 0) g.reqDone j.2 0 }

/-- R143, R303: FRAME_REQUEST_CANCEL at target − 16. -/
def requestCancel (s : State) (r k : Nat) (missing : Bool) : State :=
  let fast := slotArmed s r k actFreq && decide (slotFs s r k < s.rd ppowP (Reg.Pp.TL r))
  if slotState s r k = 1 ∧ fcAhead (slotTarget s r k) (s.region r).fc ≤ 16 ∧ (missing || fast) then slotCancel s r k else s

/-! ### Actions at the target frame -/

/-- Every site of the region is in the slot's target frame, and its action `a` has still to take effect. -/
def actDue (s : State) (r k a : Nat) : Bool :=
  (slotState s r k = 1 || slotState s r k = 2) && bits (slotActs s r k) a 1 = 1 &&
    bits (tabGet (fun _ => 0) (s.region r).reqDone k) a 1 = 0 &&
    (regionSites s r).all (fun i => (s.site i).fc = slotTarget s r k)

/-- The action has taken effect; the slot is APPLIED. -/
def actDone (s : State) (r k a : Nat) : State :=
  let g := s.region r
  let d := tabGet (fun _ => 0) g.reqDone k
  slotLeave (s.setRegion r { g with reqDone := tabSet (fun _ => 0) g.reqDone k (d ||| 2 ^ a) }) r k 2

/-- R300: the configuration epoch of a site moves on. -/
def nextEpoch (s : State) (i : Nat) : State := s.wrap (spowP i) Reg.Sp.CFG_EPOCH 1

/-- R279 step 3: FREQ at a site. -/
def freqSite (s : State) (fs : Nat) (i : Nat) : State :=
  let was := s.rd (sclkP i) Reg.Ck.FSTATE
  let s := s.wr (sclkP i) Reg.Ck.FSTATE fs
  let s := if was = fs then s else s.wr (sclkP i) Reg.Ck.SETTLING 1
  (s.setSite i { (s.site i) with trans := 2 }).wr (tniP i) Reg.Tn.TRANSITION 1

/-- R279: FREQ. -/
def freq (s : State) (r k : Nat) : State :=
  if !(actDue s r k actFreq) then s
  else
    let fs := slotFs s r k
    let was := regionFs s r
    let s := (regionSites s r).foldl (fun s i => freqSite s fs i) s
    let g := s.region r
    let down := if was < fs then some (was, (slotTarget s r k + 2) % 2 ^ 48) else none
    actDone (s.setRegion r { g with rampUp := none, rampDown := down }) r k actFreq

/-- R279 step 1: FREQ_RAMP_UP. -/
def freqRampUp (s : State) (r k : Nat) : State :=
  if slotArmed s r k actFreq && decide (fcAhead (slotTarget s r k) (s.region r).fc ≤ 48) && decide (slotFs s r k < regionFs s r) then
    s.setRegion r { (s.region r) with rampUp := some (slotFs s r k) }
  else s

/-- R279 step 6: FREQ_RAMP_DOWN. -/
def freqRampDown (s : State) (r : Nat) : State :=
  let g := s.region r
  match g.rampDown with
  | some (_, f) => if (regionSites s r).all (fun i => (s.site i).fc = f) then s.setRegion r { g with rampDown := none } else s
  | none => s

/-- R120, R142: a site takes frame parameters. -/
def setCfg (s : State) (v i : Nat) : State :=
  let p := tniP i
  ((s.wr p Reg.Tn.FL_CODE (bits v 0 3)).wr p Reg.Tn.SL (bits v 3 7)).wr p Reg.Tn.CFG_COMPL (0xFFFF - v % 65536)

/-- R142: FRAME_CFG. -/
def frameCfg (s : State) (r k : Nat) : State :=
  if !(actDue s r k actCfg) then s
  else
    let v := tabGet (fun _ => 0) (s.region r).reqCfg k
    actDone ((regionSites s r).foldl (fun s i => nextEpoch (setCfg s v i) i) s) r k actCfg

/-- R222: word `k` of the active well slot table. -/
def wstAct (k : Nat) : Fld := if k = 0 then Reg.We.WST_ACT0 else Reg.We.WST_ACT (k - 1)

/-- R139, R205: a site exchanges its hop tables and its well slot tables. -/
def swapSite (s : State) (i : Nat) : State :=
  let t := tniP i
  let w := wellP i
  let u := (s.wr t Reg.Tn.TABLE_ACTIVE (1 - s.rd t Reg.Tn.TABLE_ACTIVE)).wr t Reg.Tn.SHADOW_VALID 0
  let u := upTo 48 (fun u k => (u.wr w (wstAct k) (s.rd w (Reg.We.WST_SH k))).wr w (Reg.We.WST_SH k) (s.rd w (wstAct k))) u
  let u := (u.wr w Reg.We.ACT_PW (s.rd w Reg.We.SH_PW)).wr w Reg.We.SH_PW (s.rd w Reg.We.ACT_PW)
  (u.wr w Reg.We.TABLE_ACTIVE (1 - s.rd w Reg.We.TABLE_ACTIVE)).wr w Reg.We.SHADOW_VALID 0

/-- R139: SCHED_SWAP; one carried with a DORMANT_EXIT leaves the epoch (R300). -/
def schedSwap (s : State) (r k : Nat) : State :=
  if !(actDue s r k actSwap) then s
  else
    let wake := bits (slotActs s r k) actExit 1 = 1
    actDone ((regionSites s r).foldl (fun s i => if wake then swapSite s i else nextEpoch (swapSite s i) i) s) r k actSwap

/-! ### Dormant (R297 to R300) -/

/-- R297: a site enters Dormant. -/
def dormantSite (s : State) (i : Nat) : State :=
  let p := spowP i
  let s := s.wr p Reg.Sp.RET_EPOCH (s.rd p Reg.Sp.CFG_EPOCH)
  let s := s.wr (wellP i) Reg.We.SELF_REFRESH 1
  let on := s.rd p Reg.Sp.DOM_EN
  let s := ((s.wr p Reg.Sp.DOM_EN (on - bits on 0 1)).wr p Reg.Sp.ARR_MODE 2).wr p Reg.Sp.SITE_PSTATE 2
  uncouple (s.setSite i { (s.site i) with exec := false, retLost := false }) i

/-- R297: DORMANT_ENTER. -/
def dormantEnter (s : State) (r k : Nat) : State :=
  if !(actDue s r k actEnter) then s
  else actDone ((regionSites s r).foldl dormantSite (s.wr regionP (Reg.Rg.STATE r) 4)) r k actEnter

/-- The well of a site is zeroed. -/
def clearWell (s : State) (i : Nat) : State := { s with mem := memClear s.mem (siteBase i) 0xA00000000 }

/-- R298: what a site loses in Dormant. -/
def wakeLost (s : State) (i : Nat) : State :=
  let s := { s with mem := memClear s.mem (siteBase i + 0x8200000000) 0x100000000 }
  upTo 8 (fun s n =>
    let c : CoreId := ⟨i, n⟩
    let s := (s.wr (coreP c) Reg.Co.BUF_A_VALID 0).wr (coreP c) Reg.Co.BUF_B_VALID 0
    s.setCore c { (s.core c) with fineA := false, fineB := false, badA := 0, badB := 0 }) s

/-- R300: a site that does not resume. -/
def wakeReload (s : State) (r f i : Nat) : State :=
  let s := siteEvent (s.setBit (spowP i) Reg.Sp.WAKE_RELOAD) i 0x0F 2 (spowP i) Reg.Sp.regs 8
  let s := (coresOf [i]).foldl (fun s c => (s.wr (coreP c) Reg.Co.STATE 0).wr (coreP c) Reg.Co.ARM 0) s
  faultRegion (landClear (clearWell (clearSram s i) i) i) r ((f + 2 ^ 48 - 1) % 2 ^ 48) 0

/-- R299: the wake of a site begins; `clear` when a REASSIGN takes it (R356). -/
def wakeSite (s : State) (r f : Nat) (clear : Bool) (i : Nat) : State :=
  let p := spowP i
  let st := s.site i
  let lost := st.retLost || s.rd p Reg.Sp.RET_EPOCH != s.rd p Reg.Sp.CFG_EPOCH
  let on := s.rd p Reg.Sp.DOM_EN
  let s := ((s.wr p Reg.Sp.DOM_EN (on ||| 1)).wr p Reg.Sp.ARR_MODE 1).wr p Reg.Sp.SITE_PSTATE 3
  let s := s.wr (wellP i) Reg.We.SELF_REFRESH 0
  let s := if clear then s else if lost then wakeReload s r f i else wakeLost s i
  couple (s.setSite i { (s.site i) with retLost := false }) i

/-- R299: a woken site in its target frame. -/
def wakeEnd (s : State) (i : Nat) : State :=
  resumeNi ((s.wr (spowP i) Reg.Sp.SITE_PSTATE 1).setSite i { (s.site i) with exec := true }) i

/-- R299, R356: DORMANT_EXIT: the wake, and then cycle 0 of the target frame. -/
def dormantExit (s : State) (r k : Nat) : State :=
  let f := slotTarget s r k
  let move := slotArmed s r k actReassign
  if regionState s r = 4 ∧ (slotArmed s r k actExit ∨ move) ∧ !(waking s r) then
    (regionSites s r).foldl (fun s i => wakeSite s r f move i) s
  else if !(actDue s r k actExit) then s
  else
    let up := waking s r
    let s := if up then
        let s := drainEnd ((regionSites s r).foldl wakeEnd s) r
        if regionState s r = 4 then
          let bad := (coresOf (regionSites s r)).any (fun c => s.rd (coreP c) Reg.Co.STATE = 5)
          s.wr regionP (Reg.Rg.STATE r) (if bad then 3 else 2)
        else s
      else s
    actDone s r k actExit

/-- R299: WAKE_FAIL. -/
def wakeFail (s : State) (i : Nat) (wellReady : Bool) : State :=
  let r := (s.site i).region
  if s.rd (spowP i) Reg.Sp.SITE_PSTATE ≠ 3 ∨ 16 ≤ r ∨ (s.rd (sclkP i) Reg.Ck.MESH_LOCKED = 1 ∧ wellReady) then s
  else
    let s := siteEvent (s.setBit (spowP i) Reg.Sp.WAKE_FAIL) i 0x0F 2 (spowP i) Reg.Sp.regs 9
    match (List.range 4).find? (fun k => slotArmed s r k actExit || slotArmed s r k actReassign) with
    | some k => faultRegion s r ((slotTarget s r k + 2 ^ 48 - 1) % 2 ^ 48) 0
    | none => faultNow s r

/-! ### Assignment and clearing (R353 to R355) -/

/-- R353: ASSIGN_GO. -/
def assignGo (s : State) (r : Nat) : State :=
  let c := assignCode s r (regionState s r = 0 && !((s.region r).assign))
  let s := (if s.rd regionP (Reg.Rg.PEND_VALID r) = 0 then s else evalRegions s).wr regionP (Reg.Rg.ASSIGN_ERR r) c
  if c ≠ 0 then badValue s regionP (0x58 + 0x20 * r) else s.setRegion r { (s.region r) with assign := true }

/-- R383: every queue of a region is disabled. -/
def queuesEnd (s : State) (r : Nat) : State :=
  let off := fun (s : State) (q : Nat) => (s.wr queueP (qFld (Reg.Qu.ENABLE 0) q) 0).wrAll queueP 0 [qFld (Reg.Qu.HEAD 0) q, qFld (Reg.Qu.TAIL 0) q]
  let s := off s (evqIx r)
  upTo 65536 (fun s n =>
    let q := 0x10000 + 4 * n
    if s.rd queueP (qFld (Reg.Qu.ENABLE 0) q) = 1 ∧ s.rd queueP (qFld (Reg.Qu.OWNER 0) q) = r then off s q else s) s

/-- R172, R354 step 1: a core stops; an armed start is abandoned. -/
def coreStop (s : State) (c : CoreId) : State :=
  let p := coreP c
  let s := if s.rd p Reg.Co.STATE = 1 then s.setBit p Reg.Co.START_MISSED else s
  (s.wr p Reg.Co.STATE 0).wr p Reg.Co.ARM 0

/-- R354 step 2: a site begins clearing for region `r`. -/
def clearBegin (s : State) (r : Nat) (keep : Bool) (i : Nat) : State :=
  let s := (coresOf [i]).foldl coreStop (buddyEnds s i)
  let s := swapRoutes (endTransfers s i) i
  let t := s.rd (tniP i) Reg.Tn.TABLE_ACTIVE
  let s := setHopCount { s with mem := memClear s.mem (hopAddr i t 0) 0x10000 } i t 0
  let w := wellP i
  let s := s.wrAll w 0 (Reg.We.ACT_PW :: (List.range 47).map Reg.We.WST_ACT)
  let s := s.wr w Reg.We.WST_ACT0 0x900000
  let s := clearCounts (clearSram s i) i
  let s := if keep then s else clearWell s i
  let s := upTo 8 (fun s n => (s.wr (coreP ⟨i, n⟩) Reg.Co.CLEARING 1).wr (coreP ⟨i, n⟩) Reg.Co.CLEAR_DONE 0) s
  let s := (s.wr (cisP i) Reg.Ci.CLEARING 1).wr (cisP i) Reg.Ci.CLEAR_DONE 0
  let s := (s.wr w Reg.We.CLEARING 1).wr w Reg.We.CLEAR_DONE 0
  let s := s.wr w Reg.We.SELF_REFRESH 0
  let on := s.rd (spowP i) Reg.Sp.DOM_EN
  let s := ((s.wr (spowP i) Reg.Sp.DOM_EN (on ||| 1)).wr (spowP i) Reg.Sp.ARR_MODE 1).wr (spowP i) Reg.Sp.SITE_PSTATE 1
  nextEpoch (s.setSite i { (s.site i) with clearing := true, clearOf := r, held := true, retLost := false }) i

/-- R354 step 3: a site of the new rectangle begins frame 0. -/
def joinSite (s : State) (r cfg i : Nat) : State :=
  let s := setCfg s cfg i
  let s := ((s.wr (sclkP i) Reg.Ck.FSTATE 3).wr (tniP i) Reg.Tn.TRANSITION 0).wr (tniP i) Reg.Tn.EXT_NOW 0
  s.setSite i { (s.site i) with region := r, fc := 0, exec := true, mark := none, trans := 0 }

/-- R354 step 3: a site leaves its region. -/
def quitSite (s : State) (i : Nat) : State := uncouple (s.setSite i { (s.site i) with region := 16, mark := none, exec := true }) i

/-- R354 steps 1 to 3: the change point of region `r`. -/
def regionChange (s : State) (r : Nat) : State :=
  let rel := s.rd regionP (Reg.Rg.PEND_VALID r) = 0
  let old := regionSites s r
  let new := if rel then [] else rectSites s (rectOf (s.rd regionP (Reg.Rg.PEND_RECT r)))
  let keep := s.rd regionP (Reg.Rg.WELL_KEEP r) = 1 && s.rd regionP (Reg.Rg.TENANT r) = s.rd regionP (Reg.Rg.PEND_TENANT r)
  let cfg := pendCfg s r
  let s := collRegionEnd s r
  let s := upTo 16 (fun s h => endAt s (256 + h) r) s
  let s := queuesEnd (drainEnd s r) r
  let s := (old ++ new.filter (fun i => !(old.contains i))).foldl (fun s i => clearBegin s r (keep && old.contains i && new.contains i) i) s
  let s := (old.filter (fun i => !(new.contains i))).foldl quitSite s
  let s := new.foldl (fun s i => joinSite s r cfg i) s
  let s := new.foldl couple s
  let s := if rel then s
    else (s.wrPair regionP (Reg.Rg.RECT r) (Reg.Rg.RECT_COMPL r) (s.rd regionP (Reg.Rg.PEND_RECT r))).wrPair regionP (Reg.Rg.TENANT r)
      (Reg.Rg.TENANT_COMPL r) (s.rd regionP (Reg.Rg.PEND_TENANT r))
  let s := (s.wr regionP (Reg.Rg.STATE r) 1).wr regionP (Reg.Rg.CLEAR_DONE r) 0
  let m := s.rd prelP Reg.Pr.SUSPECT_REGIONS
  let s := s.wr prelP Reg.Pr.SUSPECT_REGIONS (m - bits m r 1 * 2 ^ r)
  let g := s.region r
  let s := s.setRegion r { level := g.level, reqCfg := g.reqCfg, reqDone := g.reqDone, markAt := 3 * s.rcnt, running := !rel, genFs := 3, genFl := cfg % 8 }
  if rel then s else s.emit (.mark r 0 s.rcnt)

/-- R144, R354: REASSIGN: the request's target frame, or the scheduled mark of an assignment from FREE. -/
def reassign (s : State) (r : Nat) (k : Option Nat) : State :=
  match k with
  | none => if (s.region r).assign then regionChange s r else s
  | some k =>
    if !(actDue s r k actReassign) then s
    else
      let s := upTo 4 (fun s x => if x ≠ k ∧ slotState s r x = 1 then slotCancel s r x else s) s
      actDone (regionChange s r) r k actReassign

/-- R354 steps 4 to 7: a site's clearing has ended; a free site waits for no boundary. -/
def clearEnd (s : State) (i : Nat) : State :=
  let s := upTo 8 (fun s n => (s.wr (coreP ⟨i, n⟩) Reg.Co.CLEARING 0).wr (coreP ⟨i, n⟩) Reg.Co.CLEAR_DONE 1) s
  let s := (s.wr (cisP i) Reg.Ci.CLEARING 0).wr (cisP i) Reg.Ci.CLEAR_DONE 1
  let s := (s.wr (wellP i) Reg.We.CLEARING 0).wr (wellP i) Reg.We.CLEAR_DONE 1
  let st := s.site i
  if st.region < 16 then s.setSite i { st with clearing := false }
  else resumeNi (s.setSite i { st with clearing := false, held := false }) i

/-- R354 step 6: REGION_CLEAR_DONE. -/
def regionClearDone (s : State) (r : Nat) : State :=
  let is := (List.range 256).filter (fun i => (s.site i).clearing && (s.site i).clearOf = r)
  if regionState s r ≠ 1 then s
  else
    let s := (is.foldl clearEnd s).wr regionP (Reg.Rg.CLEAR_DONE r) 1
    s.wr regionP (Reg.Rg.STATE r) (if regionSites s r = [] then 0 else 2)

/-! ### Meanings -/

/-- R380: FR_GO. -/
def execFrGo (p : Nat) (s : State) : Host.Outcome State Fault Refusal :=
  onUnit (decide (p ≤ 16)) (hostAct s (frPage p) (if p = 0 then 0x50 else 0x58) (some (frGo s p)))

/-- R143: FRAME_REQUEST_CANCEL. -/
def execFrameRequestCancel (r k : Nat) (missing : Bool) (s : State) : Host.Outcome State Fault Refusal :=
  onUnit (regionOk r && decide (k < 4)) (requestCancel s r k missing)

/-- R279: FREQ. -/
def execFreq (r k : Nat) (s : State) : Host.Outcome State Fault Refusal := onUnit (regionOk r && decide (k < 4)) (freq s r k)

/-- R279: FREQ_RAMP_UP. -/
def execFreqRampUp (r k : Nat) (s : State) : Host.Outcome State Fault Refusal := onUnit (regionOk r && decide (k < 4)) (freqRampUp s r k)

/-- R279: FREQ_RAMP_DOWN. -/
def execFreqRampDown (r : Nat) (s : State) : Host.Outcome State Fault Refusal := onUnit (regionOk r) (freqRampDown s r)

/-- R142: FRAME_CFG. -/
def execFrameCfg (r k : Nat) (s : State) : Host.Outcome State Fault Refusal := onUnit (regionOk r && decide (k < 4)) (frameCfg s r k)

/-- R139: SCHED_SWAP. -/
def execSchedSwap (r k : Nat) (s : State) : Host.Outcome State Fault Refusal := onUnit (regionOk r && decide (k < 4)) (schedSwap s r k)

/-- R297: DORMANT_ENTER. -/
def execDormantEnter (r k : Nat) (s : State) : Host.Outcome State Fault Refusal := onUnit (regionOk r && decide (k < 4)) (dormantEnter s r k)

/-- R299: DORMANT_EXIT. -/
def execDormantExit (r k : Nat) (s : State) : Host.Outcome State Fault Refusal := onUnit (regionOk r && decide (k < 4)) (dormantExit s r k)

/-- R299: WAKE_FAIL. -/
def execWakeFail (i : Nat) (wellReady : Bool) (s : State) : Host.Outcome State Fault Refusal := onUnit (siteOk i) (wakeFail s i wellReady)

/-- R354: REASSIGN. -/
def execReassign (r : Nat) (k : Option Nat) (s : State) : Host.Outcome State Fault Refusal :=
  onUnit (regionOk r && k.all (fun k => decide (k < 4))) (reassign s r k)

/-- R354: REGION_CLEAR_DONE. -/
def execRegionClearDone (r : Nat) (s : State) : Host.Outcome State Fault Refusal := onUnit (regionOk r) (regionClearDone s r)

/-- R353: ASSIGN_GO. -/
def execAssignGo (r : Nat) (s : State) : Host.Outcome State Fault Refusal :=
  onUnit (regionOk r) (hostAct s regionP (0x58 + 0x20 * r) (some (assignGo s r)))

end Sys2Proof.Machine
end

