-- ==== Sys2Proof/Machine/Fabric.lean ====
section
/-! DEFINITION. Optical ports (R226 to R233, R236), routing tables (R234), fabric words received (R235, R237) and panel
time across the fabric (R239). -/

namespace Sys2Proof.Machine

/-! ### Words that arrive (R237) -/

/-- R237: the hub at which a word of this panel is received: its own for a response, the hub that holds its stream's
context, and for a new transfer the nearest hub with a gate site of the target's region. -/
def arrivalHub (s : State) (h : Nat) (w : FWord) : Nat :=
  let e := w.e
  let k := e.kind.toNat
  let p := w.t.spanel.toNat
  let holds := (h :: List.range 16).find? (fun x => (ctxFind s (256 + x) p e.src.toNat e.stream.toNat).isSome)
  let mine := if 0xF0 ≤ e.dst.toNat then e.dst.toNat - 0xF0 else h
  if k = 1 ∨ k = 2 then
    match holds with
    | some x => x
    | none =>
      let a := bits e.data.toNat 0 64
      if bits a 40 8 = 0xFF then h
      else match physOf s (bits a 40 8) with
        | none => h
        | some i =>
          let r := (s.site i).region
          if 16 ≤ r ∨ s.rd (hubP h 0) (Reg.Hu.FAB_IN r) = 0 then h else (gateHub s h r).getD h
  else if (k = 3 ∧ !w.resp) ∨ ((k = 5 ∨ k = 6) ∧ w.resp) then holds.getD h
  else mine

/-- R235 step 1, R237: a word that a hub receives. -/
def fabIn (s : State) (h : Nat) (back : Option (Nat × Nat × Nat)) (w : FWord) : State :=
  match fabForward 20 s h back w with
  | (s, none) => s
  | (s, some x) => receive s (256 + arrivalHub s x w) w.t.spanel.toNat w.resp .fabric w.e

/-! ### A port's errors and state (R230, R231, R249) -/

/-- PORT_ERR bit `b`. -/
def portErr (s : State) (h p b : Nat) : State := s.orBits (portP h p) Reg.Fa.PORT_ERR (2 ^ b)

/-- R416: an optical port event; the source is the panel-wide port index (R239). -/
def portIx (h p : Nat) : Nat := if p = 4 then (if h = 0 then 64 else 65) else 4 * h + p

def portEvent (s : State) (h p sub : Nat) : State :=
  logEvent s 8 1 { kind := 4, index := portIx h p, page := portP h p, table := Reg.Fa.regs } 1 sub

/-- Port state of hub `h`'s port. -/
def portState (s : State) (h p : Nat) : Nat := s.rd (portP h p) Reg.Fa.PORT_STATE

/-- R250: BRIDGE_UP follows the TB ports. -/
def showBridge (s : State) : State :=
  let up := fun (h : Nat) => if portUp s h 4 then 1 else 0
  s.wr twinP Reg.Tw.BRIDGE_UP (up 0 + 2 * up 15)

/-- R239: the parent port: least master serial, then least hops, then least index. -/
def timeParent (s : State) : Option (Nat × Nat × Nat) :=
  let all := (List.range 16).flatMap (fun h => (List.range 5).filterMap (fun p =>
    if portUp s h p then (s.optic h p).clock.map (fun c => (c.1, c.2, portIx h p)) else none))
  let less := fun (a b : Nat × Nat × Nat) => decide (a.1 < b.1) || (a.1 = b.1 && (decide (a.2.1 < b.2.1) || (a.2.1 = b.2.1 && decide (a.2.2 < b.2.2))))
  (all.filter (fun c => decide (c.2.1 < 30))).foldl (fun m c => match m with
    | none => some c
    | some x => if less c x then some c else some x) none

/-- R239, R250: TIME_HOPS and PARENT_PORT; with no parent, TIME_LOCKED is clear. -/
def showParent (s : State) : State :=
  if s.rd twinP Reg.Tw.TIME_MASTER = 1 then s
  else match timeParent s with
    | some c => (s.wr twinP Reg.Tw.TIME_HOPS (c.2.1 + 1)).wr twinP Reg.Tw.PARENT_PORT c.2.2
    | none => ((s.wr twinP Reg.Tw.TIME_HOPS 31).wr twinP Reg.Tw.PARENT_PORT 127).wr twinP Reg.Tw.TIME_LOCKED 0

/-- R179, R230: words discarded at a port: a NOTICE for the first OPEN or DATA of each stream and direction, addressed to
its SPANEL. -/
def discardWords (s : State) (h : Nat) (ws : List QWord) : State :=
  let s := ws.foldl (fun s x => creditBack s x.back) s
  let mine := (ws.map QWord.w).filter (fun w => decide (1 ≤ w.e.kind.toNat) && decide (w.e.kind.toNat ≤ 3))
  let same := fun (x y : FWord) => x.resp = y.resp && x.t.spanel = y.t.spanel && x.t.plane = y.t.plane && x.e.stream = y.e.stream
  let firsts := mine.foldl (fun (l : List FWord) x => if l.any (same x) then l else l ++ [x]) []
  firsts.foldl (fun s w =>
    if w.t.spanel.toNat = ownPanel s then s.emit (.env (256 + w.t.plane.toNat) w.resp (noticeFor h w))
    else fabIn s h none { t := newTag s h w.t.spanel.toNat 1 0, e := noticeFor h w, resp := w.resp }) s

/-- R261: collectives whose hop leaves by port `p` of hub `h`. -/
def collPortDown (s : State) (h p : Nat) : State :=
  upTo 16 (fun s g => match s.run h g with
    | none => s
    | some r =>
      let ix := 256 * g + grpPos s h g
      let now := if r.backup then s.rd (collP h) (Reg.Cl.BPORT ix) else s.rd (collP h) (Reg.Cl.PPORT ix)
      if now = p then collHopFail s h g else s) s

/-- R230: a port goes down, into state `st` (0 DOWN, 4 HELD, 5 REFUSED). -/
def portDown (s : State) (h p st : Nat) : State :=
  let o := s.optic h p
  let q := portP h p
  let s := ((s.wr q Reg.Fa.PORT_STATE st).wr q Reg.Fa.LANES 0).wr q Reg.Fa.VER 0
  let s := portEvent (portErr s h p 4) h p 4
  let s := s.setOptic h p { retrains := o.retrains, peer := none }
  let old := o.queue ++ (o.sent.flatMap (fun b => b.words)).map (fun w => ⟨w, none⟩)
  let s := collPortDown (discardWords s h old) h p
  showParent (showBridge s)

/-- R231: the counted retrains of the last 60 s, at panel time `now`. -/
def retrains60 (o : Port) (now : Nat) : List Nat := o.retrains.filter (fun t => decide (now < t + 600000000000))

/-- R230: training begins; a TRAIN tells the peer of one that it has not asked for. -/
def trainStart (s : State) (h p : Nat) (tell : Bool) : State :=
  let s := if tell ∧ portState s h p ≠ 0 then sendBlock s h p 6 0 0 [] else s
  showBridge (portErr (s.wr (portP h p) Reg.Fa.PORT_STATE 1) h p 1)

/-- R230, R231: a counted retrain; the fifth of a window holds the port down instead. -/
def retrainPort (s : State) (h p : Nat) (tell : Bool) : State :=
  let q := portP h p
  let o := s.optic h p
  let w := retrains60 o s.up
  if 4 ≤ w.length then
    let k := s.rd q Reg.Fa.HOLD_LEVEL
    let s := portErr (portDown s h p 4) h p 3
    let s := (s.wr q Reg.Fa.HOLD_LEFT (1000 * 2 ^ k)).wr q Reg.Fa.HOLD_LEVEL (min 10 (k + 1))
    (s.setOptic h p { (s.optic h p) with retrains := [] }).wr q Reg.Fa.RETRAINS_60S 0
  else
    let s := s.setOptic h p { o with retrains := w ++ [s.up] }
    let s := (s.wr q Reg.Fa.RETRAINS_60S (w.length + 1)).bump q Reg.Fa.RETRAIN_CNT 1
    portEvent (trainStart s h p tell) h p 1

/-- The port's lanes are trained. -/
def portLive (s : State) (h p : Nat) : Bool := [2, 3, 5].contains (portState s h p)

/-- R230: a retrain whose cause lies in the link. -/
def portTrouble (s : State) (h p : Nat) (tell : Bool) : State := if portLive s h p then retrainPort s h p tell else s

/-- R230: RETRAIN, written by the host. -/
def retrainHost (s : State) (h p : Nat) : State :=
  if s.rd (portP h p) Reg.Fa.DISABLE = 1 ∨ portState s h p = 4 then s else trainStart s h p true

/-- R230: the width that `lanes` working lanes give at version `v`; 0 for none. -/
def portWidth (v lanes : Nat) : Nat :=
  if 8 ≤ lanes then 8 else if 6 ≤ lanes then (if v = 3 then 4 else 6) else if 4 ≤ lanes then 4 else 0

/-- R229, R230: the retry buffer is sent again from a block on. -/
def replayFrom (s : State) (h p seq : Nat) : State :=
  ((s.optic h p).sent.filter (fun b => decide ((b.seq + 2 ^ 32 - seq) % 2 ^ 32 < 2 ^ 31))).foldl (fun s b =>
    s.emit (.efl h p (blockHdr s h p b) b.words 0)) s

/-- R229: what an acknowledgement covers leaves the retry buffer. -/
def acked (o : Port) (aseq : Nat) : Port :=
  { o with sent := o.sent.filter (fun b => decide (0 < (b.seq + 2 ^ 32 - aseq) % 2 ^ 32) && decide ((b.seq + 2 ^ 32 - aseq) % 2 ^ 32 < 2 ^ 31)) }

/-- R238, R397: the highest version that a port of hub `h` offers. -/
def verMax (s : State) (h : Nat) : Nat :=
  if bits (s.rd licP Reg.Li.EFF_FEATURES) 1 1 = 1 then s.rd (hubP h 0) Reg.Hu.FAB_VER_MAX else 3

/-- R230: RETRAIN_DONE: `lanes` work, the peer's ASEQ and the round trip in ns. -/
def retrainDone (s : State) (h p lanes aseq rtt : Nat) : State :=
  let q := portP h p
  if portState s h p ≠ 1 then s
  else
    let v := s.rd q Reg.Fa.VER
    let w := portWidth (if v = 0 then verMax s h else v) lanes
    if w = 0 then portDown s h p 0
    else
      let s := (s.wr q Reg.Fa.LANES w).wr q Reg.Fa.RTT_NS rtt
      let s := if w < 8 then portErr s h p 2 else s
      if v = 0 then s.wr q Reg.Fa.PORT_STATE 2
      else
        let s := s.setOptic h p (acked (s.optic h p) aseq)
        let s := showBridge (s.wr q Reg.Fa.PORT_STATE 3)
        drainPort (replayFrom s h p (aseq + 1)) h p

/-- R230: RETRAIN_TIMEOUT. -/
def retrainTimeout (s : State) (h p : Nat) : State := if portState s h p = 1 then portDown s h p 0 else s

/-- R231: a hold ends, and the port retrains once. -/
def holdEnd (s : State) (h p : Nat) : State :=
  if portState s h p ≠ 4 then s
  else retrainPort ((s.wr (portP h p) Reg.Fa.HOLD_LEFT 0).wr (portP h p) Reg.Fa.PORT_STATE 0) h p false

/-- R231, R248: HOLD_CLR. -/
def holdClr (s : State) (h p : Nat) : State := (holdEnd s h p).wr (portP h p) Reg.Fa.HOLD_LEVEL 0

/-- R249: DISABLE is written. -/
def portDisable (s : State) (h p : Nat) (on : Bool) : State :=
  if on then (if portState s h p = 0 then s else portDown s h p 0) else if portState s h p = 0 then trainStart s h p false else s

/-! ### Blocks received (R227, R229) -/

/-- R227: a header is as it must be, with BTYPE `t`. -/
def hdrOk (v t : Nat) : Bool := bits v 64 4 = t && bits v 68 4 = 0 && bits v 74 6 = 0 && bits v 110 2 = 0 && bits v 112 16 = hcrc v

/-- R249, R230: uncorrectable codewords; more than 1,024 within 1 ms retrain the port. -/
def fecNote (s : State) (h p n : Nat) : State :=
  if n = 0 then s
  else
    let o := s.optic h p
    let s := s.bump (portP h p) Reg.Fa.FEC_UNCORR_CNT n
    let new := decide (o.fecAt + 10000000 ≤ s.up) || o.fecN = 0
    let m := if new then n else o.fecN + n
    let s := s.setOptic h p { o with fecAt := if new then s.up else o.fecAt, fecN := m }
    if 1024 < m then portTrouble (s.setOptic h p { (s.optic h p) with fecN := 0 }) h p true else s

/-- R229: what a block's header acknowledges and returns. -/
def hdrTake (s : State) (h p hdr : Nat) : State :=
  let o := acked (s.optic h p) (bits hdr 32 32)
  let vc := bits hdr 72 2
  drainPort (s.setOptic h p { o with used := tabSet (fun _ => 0) o.used vc (tabGet (fun _ => 0) o.used vc - bits hdr 80 16) }) h p

/-- R229: the receiver asks for a replay from the block it expects. -/
def askReplay (s : State) (h p : Nat) : State := sendPlain s h p 5 (s.optic h p).rx

/-- R227, R229: a block of type `t` that takes a BSEQ arrives, with `fec` uncorrectable codewords since the last. -/
def blockIn (s : State) (h p t hdr : Nat) (ws : List FWord) (fec : Nat) : State :=
  let s := fecNote s h p fec
  if portState s h p ≠ 3 then s
  else
    let o := s.optic h p
    let d := (bits hdr 0 32 + 2 ^ 32 - o.rx) % 2 ^ 32
    let valid := bits hdr 96 14
    if !(hdrOk hdr t) then askReplay s h p
    else if 2 ^ 31 ≤ d then s
    else if d ≠ 0 ∨ popc 14 valid ≠ ws.length ∨ ws.any (fun w => !w.crcOk) then askReplay s h p
    else
      let s := hdrTake (s.setOptic h p { o with rx := (o.rx + 1) % 2 ^ 32 }) h p hdr
      ws.foldl (fun s w => fabIn s h (some (h, p, tagVc w.t)) w) s

/-- R229, R230: REPLAY_REQ for block `seq`; 16 failed replays of one block in a row retrain the port. -/
def replayReq (s : State) (h p seq : Nat) : State :=
  if portState s h p ≠ 3 then s
  else
    let o := s.optic h p
    let n := if o.failSeq = seq then o.fails + 1 else 1
    let s := (portErr s h p 0).bump (portP h p) Reg.Fa.REPLAY_CNT 1
    let s := replayFrom (s.setOptic h p { o with failSeq := seq, fails := n }) h p seq
    if 17 ≤ n then portTrouble (s.setOptic h p { (s.optic h p) with fails := 0 }) h p true else s

/-! ### Discovery (R232, R238) -/

/-- R238: versions offered. -/
def ourVers (s : State) (h : Nat) : Nat := if verMax s h = 3 then 8 else 0x18

/-- R232: highest common version, 0 for none. -/
def commonVer (s : State) (h : Nat) (i : PeerIdent) : Nat :=
  let c := ourVers s h &&& i.vers.toNat
  if bits c 4 1 = 1 then 4 else if bits c 3 1 = 1 then 3 else 0

/-- R232: the code that refuses a port; 0 when it is accepted. -/
def identCode (s : State) (h p : Nat) (i : PeerIdent) : Nat :=
  if commonVer s h i = 0 then 1
  else if i.serial = Config.serial then 2
  else if (p = 4) != (i.port = 4) then 3
  else if i.idValid ∧ s.rd idP Reg.Id.ID_VALID = 1 ∧ i.id.toNat = ownPanel s then 4
  else 0

/-- R232: IDENT received. `ok` tells that its header and reserved bytes are as they must be. -/
def identIn (s : State) (h p : Nat) (ok : Bool) (i : PeerIdent) : State :=
  if !ok ∨ !(portLive s h p) then s
  else
    let q := portP h p
    let c := identCode s h p i
    let s := ((s.wr q Reg.Fa.PEER_ID i.id.toNat).wr q Reg.Fa.PEER_ID_VALID (if i.idValid then 1 else 0)).wr q Reg.Fa.PEER_HUB i.hub.toNat
    let s := (s.wr q Reg.Fa.PEER_PORT i.port.toNat).wr q Reg.Fa.REFUSE_CODE c
    if c ≠ 0 then
      let s := if portState s h p = 3 then portDown s h p 5 else s.wr q Reg.Fa.PORT_STATE 5
      let s := portErr (s.setOptic h p { (s.optic h p) with peer := some i }) h p 5
      let s := if c = 4 then s.setBit (hubP h 0) Reg.Hu.ID_CONFLICT else s
      portEvent s h p 5
    else
      let s := s.setOptic h p { (s.optic h p) with peer := some i }
      let s := if i.hub.toNat = h then s else s.setBit (hubP h 0) Reg.Hu.XPLANE
      drainPort (showBridge ((s.wr q Reg.Fa.VER (commonVer s h i)).wr q Reg.Fa.PORT_STATE 3)) h p

/-- R232: content of the IDENT that a port sends, from byte 16. -/
def identContent (s : State) (h p : Nat) : Nat :=
  packRec [(0, 8, Config.serial.toNat), (8, 1, h), (9, 1, p), (10, 2, ownPanel s + 0x8000 * s.rd idP Reg.Id.ID_VALID), (12, 1, ourVers s h),
    (16, 4, s.rd (hubP h 0) Reg.Hu.CAP_WORD), (20, 4, s.shelfTag), (24, 4, s.loopTag), (28, 4, s.rackTag)]

/-- R232: IDENT_SEND. -/
def identSend (s : State) (h p : Nat) : State := if portLive s h p then sendPlain s h p 3 (identContent s h p) else s

/-! ### Panel time (R239) -/

/-- Panel time in ns. -/
def panelNs (s : State) : Int := ((s.tenths / 10 : Nat) : Int)

/-- R239: the master whose time the panel carries, and its hops: itself, or through its parent; none while its own time
is not valid (R410). -/
def timeSource_ (s : State) : Option (Nat × Nat) :=
  if s.rd timeP Reg.Ti.TIME_VALID = 0 then none
  else if s.rd twinP Reg.Tw.TIME_MASTER = 1 then some (Config.serial.toNat, 0)
  else (timeParent s).map (fun c => (c.1, c.2.1 + 1))

/-- R239: the panel's time moves by `d` ns. -/
def moveTime (s : State) (d : Int) : State := { s with tenths := ((s.tenths : Int) + 10 * d).toNat }

/-- R239: correction towards an offset of the parent's clock: a step beyond 1 ms, else 100 ppm of one exchange. -/
def correctTime (s : State) (th : Int) : State :=
  let s := (s.wr twinP Reg.Tw.TIME_OFFSET (unsgn 32 th)).wr twinP Reg.Tw.TIME_LOCKED (if th.natAbs ≤ 50 then 1 else 0)
  if 1000000 < th.natAbs then
    let s := ((s.wr timeP Reg.Ti.TIME_VALID 1).wr timeP Reg.Ti.SET_BY 1).bump timeP Reg.Ti.TIME_SET_CNT 1
    panelEvent ((moveTime s th).bump twinP Reg.Tw.TIME_STEP_CNT 1) 0x0A 1 twinP Reg.Tw.regs
  else moveTime s (max (-100) (min 100 th))

/-- R239: a TIME block arrives by port `p`. -/
def timeIn (s : State) (h p : Nat) (b : TimeBlk) : State :=
  if !(portUp s h p) then s
  else
    let now := panelNs s
    let s := showParent (s.setOptic h p { (s.optic h p) with clock := if b.hops < 30 then some (b.serial.toNat, b.hops) else none })
    match b.reply with
    | none =>
      let m := (timeSource_ s).getD (2 ^ 64 - 1, 31)
      s.emit (.time h p { serial := BitVec.ofNat 64 m.1, hops := m.2, t1 := b.t1, reply := some (now, now) })
    | some (t2, t3) =>
      if s.rd twinP Reg.Tw.TIME_MASTER = 1 ∨ s.rd twinP Reg.Tw.PARENT_PORT ≠ portIx h p then s
      else correctTime s (((t2 - b.t1) + (t3 - now)) / 2)

/-- R239: TIME_EXCHANGE: a follower sends a TIME block. -/
def timeExchange (s : State) (h p : Nat) : State :=
  if s.rd twinP Reg.Tw.TIME_MASTER = 1 ∨ !(portUp s h p) then s
  else
    let m := (timeSource_ s).getD (2 ^ 64 - 1, 31)
    s.emit (.time h p { serial := BitVec.ofNat 64 m.1, hops := m.2, t1 := panelNs s, reply := none })

/-! ### Routing tables and stalls (R234, R236) -/

/-- R234: FRT_CHECK. -/
def frtCheck (s : State) (h : Nat) : State :=
  let tb := h = 0 ∨ h = 15
  let good := (List.range 4096).all (fun d =>
    let e := s.rd (hubP h 0) (Reg.Hu.FRT_SH d)
    e % 65536 + e / 65536 = 0xFFFF && (decide tb || bits e 4 1 = 0))
  s.wr (hubP h 0) Reg.Hu.FRT_SH_VALID (if good then 1 else 0)

/-- R234: FRT_SWAP. -/
def frtSwap (s : State) (h : Nat) : Option State :=
  let p := hubP h 0
  if s.rd p Reg.Hu.FRT_SH_VALID = 0 then none
  else
    let t := upTo 4096 (fun t d => (t.wr p (Reg.Hu.FRT_ACT d) (s.rd p (Reg.Hu.FRT_SH d))).wr p (Reg.Hu.FRT_SH d) (s.rd p (Reg.Hu.FRT_ACT d))) s
    let t := (t.wr p Reg.Hu.FRT_ACTIVE (1 - s.rd p Reg.Hu.FRT_ACTIVE)).wr p Reg.Hu.FRT_SH_VALID 0
    some { t with bring := { t.bring with swapped := keyAdd t.bring.swapped h } }

/-- R236: FAB_STALL on fabric VC `vc` of a port. -/
def fabStall (s : State) (h p vc : Nat) : State :=
  let o := s.optic h p
  let gone := o.queue.filter (fun x => tagVc x.w.t = vc)
  if gone = [] then s
  else
    let s := s.setOptic h p { o with queue := o.queue.filter (fun x => tagVc x.w.t != vc) }
    let s := (s.setBit (hubP h 0) Reg.Hu.STALL).bump (hubP h 0) Reg.Hu.STALL_CNT 1
    let s := logEvent s 9 1 { kind := 4, index := portIx h p, page := hubP h 0, table := Reg.Hu.regs } 1 vc
    discardWords s h gone

/-! ### Meanings -/

/-- R223: the port exists. -/
def portOk (h p : Nat) : Bool := hubOk h && hasPort h p

/-- R235: EFL_DATA_BLOCK. -/
def execEflDataBlock (h p : Nat) (hdr : BitVec 128) (ws : List FWord) (fec : Nat) (s : State) : Host.Outcome State Fault Refusal :=
  onUnit (portOk h p) (blockIn s h p 1 hdr.toNat ws fec)

/-- R227: EFL_IDLE_BLOCK. -/
def execEflIdleBlock (h p : Nat) (hdr : BitVec 128) (fec : Nat) (s : State) : Host.Outcome State Fault Refusal :=
  onUnit (portOk h p) (blockIn s h p 2 hdr.toNat [] fec)

/-- R232: IDENT. -/
def execIdent (h p : Nat) (ok : Bool) (i : PeerIdent) (s : State) : Host.Outcome State Fault Refusal := onUnit (portOk h p) (identIn s h p ok i)

/-- R232: IDENT_SEND. -/
def execIdentSend (h p : Nat) (s : State) : Host.Outcome State Fault Refusal := onUnit (portOk h p) (identSend s h p)

/-- R239: TIME. -/
def execTime (h p : Nat) (b : TimeBlk) (s : State) : Host.Outcome State Fault Refusal := onUnit (portOk h p) (timeIn s h p b)

/-- R239: TIME_EXCHANGE. -/
def execTimeExchange (h p : Nat) (s : State) : Host.Outcome State Fault Refusal := onUnit (portOk h p) (timeExchange s h p)

/-- R229: REPLAY_REQ. -/
def execReplayReq (h p : Nat) (seq : BitVec 32) (s : State) : Host.Outcome State Fault Refusal := onUnit (portOk h p) (replayReq s h p seq.toNat)

/-- R230: TRAIN. -/
def execTrain (h p : Nat) (s : State) : Host.Outcome State Fault Refusal := onUnit (portOk h p) (portTrouble s h p false)

/-- R230: RETRAIN. -/
def execRetrain (h p : Nat) (s : State) : Host.Outcome State Fault Refusal :=
  onUnit (portOk h p) (hostAct s (portP h p) 0x44 (some (retrainHost s h p)))

/-- R230: RETRAIN_DONE. -/
def execRetrainDone (h p lanes aseq rtt : Nat) (s : State) : Host.Outcome State Fault Refusal :=
  onUnit (portOk h p) (retrainDone s h p lanes aseq rtt)

/-- R230: RETRAIN_TIMEOUT. -/
def execRetrainTimeout (h p : Nat) (s : State) : Host.Outcome State Fault Refusal := onUnit (portOk h p) (retrainTimeout s h p)

/-- R231: HOLD_END. -/
def execHoldEnd (h p : Nat) (s : State) : Host.Outcome State Fault Refusal := onUnit (portOk h p) (holdEnd s h p)

/-- R231: HOLD_CLR. -/
def execHoldClr (h p : Nat) (s : State) : Host.Outcome State Fault Refusal :=
  onUnit (portOk h p) (hostAct s (portP h p) 0x44 (some (holdClr s h p)))

/-- R231: HOLD_LEVEL_RESET. -/
def execHoldLevelReset (h p : Nat) (s : State) : Host.Outcome State Fault Refusal :=
  onUnit (portOk h p) (if portState s h p = 4 then s else s.wr (portP h p) Reg.Fa.HOLD_LEVEL 0)

/-- R230: LOSS_OF_BLOCK_ALIGNMENT. -/
def execLossOfBlockAlignment (h p : Nat) (s : State) : Host.Outcome State Fault Refusal := onUnit (portOk h p) (portTrouble s h p true)

/-- R234: FRT_CHECK. -/
def execFrtCheck (h : Nat) (s : State) : Host.Outcome State Fault Refusal := onUnit (hubOk h) (hostAct s (hubP h 0) 0x44 (some (frtCheck s h)))

/-- R234: FRT_SWAP. -/
def execFrtSwap (h : Nat) (s : State) : Host.Outcome State Fault Refusal := onUnit (hubOk h) (hostAct s (hubP h 0) 0x44 (frtSwap s h))

/-- R236: FAB_STALL. -/
def execFabStall (h p vc : Nat) (s : State) : Host.Outcome State Fault Refusal :=
  onUnit (portOk h p && decide (vc < 4)) (fabStall s h p vc)

end Sys2Proof.Machine
end

