-- ==== Sys2Proof/Machine/Pages.lean ====
section
/-! DEFINITION. What each 4 KiB page of the control space holds (R249, R362 to R364, R367, R368): its registers, its IX
windows and its mailbox selections; the calendar that the time page shows (R411). -/

namespace Sys2Proof.Machine

/-! ### The calendar (R411) -/

def leap (y : Nat) : Bool := y % 4 = 0 && (y % 100 != 0 || y % 400 = 0)

def yearDays (y : Nat) : Nat := if leap y then 366 else 365

/-- Days of month `m` of year `y`; 0 for no month. -/
def monthDays (y m : Nat) : Nat :=
  match m with
  | 2 => if leap y then 29 else 28
  | 4 | 6 | 9 | 11 => 30
  | 1 | 3 | 5 | 7 | 8 | 10 | 12 => 31
  | _ => 0

/-- Steps through units of `len` days each, at most `n` of them: the unit in which day `d` lies and the days past its
start. -/
def stepDays (len : Nat → Nat) : Nat → Nat → Nat → Nat × Nat
  | 0, u, d => (u, d)
  | n + 1, u, d => if d < len u then (u, d) else stepDays len n (u + 1) (d - len u)

/-- R409: first panel time beyond the calendar, in ns. -/
def calEnd : Nat := 6311433600 * 10 ^ 9

/-- A date and a time of day. -/
structure Cal6 where
  year : Nat
  month : Nat
  day : Nat
  hour : Nat
  minute : Nat
  second : Nat
  deriving DecidableEq, Repr

/-- R411: the calendar of panel time `t` (ns). -/
def calOf (t : Nat) : Cal6 :=
  let sec := (min t (calEnd - 1)) / 10 ^ 9
  let y := stepDays yearDays 199 2000 (sec / 86400)
  let m := stepDays (monthDays y.1) 11 1 y.2
  { year := y.1, month := m.1, day := m.2 + 1, hour := sec % 86400 / 3600, minute := sec % 3600 / 60, second := sec % 60 }

/-- R412: the fields name an instant of the calendar. -/
def calOk (c : Cal6) : Bool :=
  decide (2000 ≤ c.year) && decide (c.year ≤ 2199) && decide (0 < c.day) && decide (c.day ≤ monthDays c.year c.month) &&
    decide (c.hour ≤ 23) && decide (c.minute ≤ 59) && decide (c.second ≤ 59)

/-- R411: panel time of an instant. -/
def calTime (c : Cal6) : Nat :=
  let ys := ((List.range (c.year - 2000)).map (fun k => yearDays (2000 + k))).sum
  let ms := ((List.range (c.month - 1)).map (fun k => monthDays c.year (1 + k))).sum
  ((ys + ms + c.day - 1) * 86400 + c.hour * 3600 + c.minute * 60 + c.second) * 10 ^ 9

/-- R413: the layouts of CAL_SET_DATE and CAL_SET_TIME. -/
def calWords (c : Cal6) : Nat × Nat :=
  (c.year + c.month * 2 ^ 12 + c.day * 2 ^ 16, c.hour + c.minute * 2 ^ 5 + c.second * 2 ^ 11)

/-! ### Pages -/

/-- A page: its type (R368) and instance, its registers and IX entries, and whether it has mailbox selections. -/
structure PageInfo where
  code : Nat
  inst : Nat := 0
  regs : List RegDef := []
  ixs : List RegDef := []
  mbx : Bool := false
  deriving DecidableEq, Repr

/-- R362, R363: pages of the panel-common and Postmaster ranges. -/
def commonPage (a : Nat) : Option PageInfo :=
  match a with
  | 0x0 => some { code := 0x01, regs := Reg.Id.regs, mbx := true }
  | 0x1000 => some { code := 0x02, regs := Reg.Br.regs, ixs := Reg.Br.ixs, mbx := true }
  | 0x2000 => some { code := 0x03, regs := Reg.Ma.regs, ixs := Reg.Ma.ixs }
  | 0x3000 => some { code := 0x04, regs := Reg.Fr.regs, ixs := Reg.Fr.ixs, mbx := true }
  | 0x4000 => some { code := 0x05, regs := Reg.Dr.regs }
  | 0x5000 => some { code := 0x06, regs := Reg.Qu.regs, ixs := Reg.Qu.ixs }
  | 0x100000 => some { code := 0x10, regs := Reg.Pm.regs, ixs := Reg.Pm.ixs, mbx := true }
  | 0x110000 => some { code := 0x11, regs := Reg.Lo.regs, mbx := true }
  | 0x120000 => some { code := 0x12, regs := Reg.Ti.regs, mbx := true }
  | 0x130000 => some { code := 0x13, regs := Reg.Li.regs, ixs := Reg.Li.ixs, mbx := true }
  | 0x140000 => some { code := 0x14, regs := Reg.Tw.regs }
  | 0x150000 => some { code := 0x15, regs := Reg.Pp.regs }
  | 0x160000 => some { code := 0x16, regs := Reg.Pr.regs, mbx := true }
  | 0x170000 => some { code := 0x17, regs := Reg.Rg.regs }
  | _ => none

/-- R249: page at offset `o` of hub `h`. -/
def hubPage (h o : Nat) : Option PageInfo :=
  let port := fun (p : Nat) => { code := if p = 4 then 0x22 else 0x21, inst := if p = 4 then 0 else p, regs := Reg.Fa.regs, mbx := true : PageInfo }
  match o with
  | 0x0 => some { code := 0x20, inst := h, regs := Reg.Hu.regs, ixs := Reg.Hu.ixs }
  | 0x1000 => some (port 0)
  | 0x2000 => some (port 1)
  | 0x3000 => some (port 2)
  | 0x4000 => some (port 3)
  | 0x5000 => if hasPort h 4 then some (port 4) else none
  | 0x6000 => some { code := 0x23, regs := Reg.Xp.regs }
  | 0x7000 => some { code := 0x24, regs := Reg.Fw.regs }
  | 0x8000 => some { code := 0x25, regs := Reg.Cl.regs, ixs := Reg.Cl.ixs }
  | _ => none

/-- R364: page at offset `o` of a site's group. -/
def sitePage (o : Nat) : Option PageInfo :=
  if 0x1000 ≤ o ∧ o < 0x9000 ∧ o % 0x1000 = 0 then
    some { code := 0x31, inst := o / 0x1000 - 1, regs := Reg.Co.regs, ixs := Reg.Co.ixs, mbx := true }
  else match o with
    | 0x0 => some { code := 0x30, regs := Reg.Sc.regs }
    | 0x10000 => some { code := 0x32, regs := Reg.Ci.regs }
    | 0x11000 => some { code := 0x33, regs := Reg.We.regs, ixs := Reg.We.ixs }
    | 0x12000 => some { code := 0x34, regs := Reg.Tn.regs, ixs := Reg.Tn.ixs, mbx := true }
    | 0x13000 => some { code := 0x35, regs := Reg.Cn.regs, ixs := Reg.Cn.ixs }
    | 0x14000 => some { code := 0x36, regs := Reg.Pu.regs }
    | 0x15000 => some { code := 0x37, regs := Reg.Sp.regs, mbx := true }
    | 0x16000 => some { code := 0x38, regs := Reg.Ck.regs, ixs := Reg.Ck.ixs, mbx := true }
    | 0x17000 => some { code := 0x39, regs := Reg.Re.regs, mbx := true }
    | 0x18000 => some { code := 0x3A, regs := Reg.Bu.regs }
    | 0x19000 => some { code := 0x3B, regs := Reg.Tm.regs, ixs := Reg.Tm.ixs }
    | _ => none

/-- R384: the registers of a region control page. -/
def vfRegs : List RegDef :=
  let f := fun (d : RegDef) (k : Nat) => { d with fld := { d.fld with off := d.fld.off + k } }
  [f ⟨Reg.Fr.ACTIONS, 1, 4⟩ 8, f ⟨Reg.Fr.FSTATE, 1, 4⟩ 8, f ⟨Reg.Fr.FR_TARGET_LO, 1, 4⟩ 8, f ⟨Reg.Fr.FR_TARGET_HI, 1, 4⟩ 8] ++
  [f ⟨Reg.Fr.FR_GO, 1, 4⟩ 8, f ⟨Reg.Fr.BUSY, 1, 4⟩ 8, f ⟨Reg.Fr.RESULT, 1, 4⟩ 8, f ⟨Reg.Fr.SLOT, 1, 4⟩ 8]

/-- The page at an address of the PF0 map, or the region control page of a VF at its own address. -/
def pageAt (a : Nat) : Option PageInfo :=
  if a % 0x1000 ≠ 0 then none
  else if a < 0x1000000 then commonPage a
  else if a < 0x2000000 then hubPage ((a - 0x1000000) / 0x100000) (a % 0x100000)
  else if 0x10000000 ≤ a ∧ a < 0x20000000 then sitePage (a % 0x100000)
  else if 0x40000000 ≤ a ∧ a < 0x50000000 ∧ a % 0x1000000 = 0 then some { code := 0x07, regs := vfRegs, ixs := [⟨Reg.Ma.W, 0, 1⟩], mbx := true }
  else none

/-- R367: PAGE_ID. -/
def pageId (_s : State) (page : Nat) : Nat :=
  match pageAt page with
  | some i => i.code + i.inst * 2 ^ 8 + 0x0100 * 2 ^ 16
  | none => 0

/-- R367: PAGE_CAP. -/
def pageCap (i : PageInfo) (page : Nat) : Nat :=
  let b := fun (x : Bool) (k : Nat) => if x then 2 ^ k else 0
  let any := fun (p : Fld → Bool) => (i.regs ++ i.ixs).any (fun d => p d.fld)
  b i.mbx 0 + b (i.ixs != []) 1 + b (any (·.ba)) 2 + b (any (·.tv)) 3 + pageDomain page * 16

/-- R367: the block of a page is held in reset: a site's clearing is the one reset that the manual describes. -/
def inReset (s : State) (page : Nat) : Bool :=
  decide (0x10000000 ≤ page) && decide (page < 0x20000000) && (s.site (page / 0x100000 - 0x100)).clearing

/-! ### Mailboxes (R375) -/

/-- Four 32-bit words of a number from bit `k` on. -/
def quad (v k : Nat) : List Nat := (List.range 4).map (fun w => bits v (k + 32 * w) 32)

/-- A frame count or time as two words. -/
def lohi (v : Nat) : List Nat := [v % 2 ^ 32, v / 2 ^ 32 % 2 ^ 32]

/-- R417: record `q` of the log. -/
def logFind (s : State) (q : Nat) : Option LogRec :=
  match s.logRam.find? (fun r => r.seq = q) with
  | some r => some r
  | none => s.logFlash.find? (fun r => r.seq = q)

/-- R417: the log's mailbox. -/
def logMbx (s : State) (sel : Nat) : Option (List Nat) :=
  match logFind s (s.rd logP Reg.Lo.LOG_RD_SEQ) with
  | none => none
  | some r =>
    if 1 ≤ sel ∧ sel ≤ 4 then some (quad r.body (128 * (sel - 1)))
    else if sel = 5 then some [r.seq, r.tag, 0, 0]
    else none

/-- R249: the mailbox of a fabric or TB port; a port that has heard no IDENT shows zeros. -/
def portMbx (s : State) (h p sel : Nat) : Option (List Nat) :=
  let i := (s.optic h p).peer
  let g := fun (f : PeerIdent → Nat) => (i.map f).getD 0
  match sel with
  | 1 => some (lohi (g (·.serial.toNat)) ++ [g (·.shelf.toNat), g (·.loop.toNat)])
  | 2 => some [g (·.rack.toNat), g (·.cap.toNat), g (·.vers.toNat), 0]
  | _ => none

/-- R291: the record of a rail's lowest voltage. -/
def vminMbx (s : State) (i sel : Nat) : Option (List Nat) :=
  if sel = 0 ∨ 4 < sel then none
  else
    let v := tabGet (fun _ => (0xFFF, 0, 0)) (s.site i).vmin (sel - 1)
    some (lohi v.2.1 ++ [v.2.2 % 2 ^ 32, v.2.2 / 2 ^ 32 % 2 ^ 16 + v.1 * 2 ^ 16])

/-- R284: the number of anchors in the island of site `i`; one that its four bits do not hold is a free value. -/
def anchors (s : State) (i : Nat) : Nat :=
  let n := ((regionSites s (islandOf s i)).filter (fun j => s.rd (sclkP j) Reg.Ck.ANCHOR = 1)).length
  if n < 16 then n else (Config.fresh s.drawn 4).toNat

/-- R432: a firmware slot's mailbox. -/
def fwMbx (f : FwSlot) (floor : Nat) : List Nat :=
  let g := fun (p : FwImage → Nat) => (f.img.map p).getD 0
  let b := fun (x : Bool) (k : Nat) => if x then 2 ^ k else 0
  [g (·.seq.toNat), g (·.version.toNat), g (·.svn.toNat),
    b f.verified 0 + b f.confirmed 1 + b f.trialFailed 2 + b (fwBootable f floor) 3]

/-- R366, R384, R380: the region's frame count as a mailbox. -/
def fcMbx (fc : Nat) : List Nat := [fc % 2 ^ 32, fc / 2 ^ 32 % 2 ^ 16, 0, 0]

/-- R400: licence slot `k`. -/
def licMbx (s : State) (k : Nat) : List Nat :=
  let l := licSlot s k
  let st := licSlotState s k
  [licId l + (if st < 5 then st else 0) * 2 ^ 16, licSeq l] ++ lohi (licUntil l)

/-- R375: mailboxes of the panel-common and Postmaster pages. -/
def commonMbx (s : State) (page sel : Nat) : Option (List Nat) :=
  if page = idP then match sel with
    | 1 => some (lohi Config.serial.toNat ++ [s.rd (hubP 0 0) Reg.Hu.CAP_WORD, 0])
    | 2 => match s.busErr with
      | some b => some ([b.1, b.2.1] ++ lohi b.2.2)
      | none => some [0, 0, 0, 0]
    | _ => none
  else if page = bringP then
    if sel = 1 then some [s.rd bringP Reg.Br.FAIL_CODE + s.rd bringP Reg.Br.CUR_STEP * 256, s.bring.unit, s.bring.entered, 0] else none
  else if page = freqP then if 1 ≤ sel ∧ sel ≤ 16 then some (fcMbx (s.region (sel - 1)).fc) else none
  else if page = pmP then match sel with
    | 1 => some (fwMbx s.fwA (s.rd pmP Reg.Pm.SVN_FLOOR))
    | 2 => some (fwMbx s.fwB (s.rd pmP Reg.Pm.SVN_FLOOR))
    | _ => none
  else if page = logP then logMbx s sel
  else if page = timeP then
    if sel = 1 then let c := calWords (calOf s.time); some (lohi s.time ++ [c.1, c.2]) else none
  else if page = licP then if 1 ≤ sel ∧ sel ≤ 8 then some (licMbx s (sel - 1)) else none
  else if page = prelP then if 1 ≤ sel ∧ sel ≤ 16 then some (fcMbx (vouched s (sel - 1))) else none
  else none

/-- R375: mailboxes of a site's pages. -/
def siteMbx (s : State) (i o sel : Nat) : Option (List Nat) :=
  let st := s.site i
  if 0x1000 ≤ o ∧ o < 0x9000 then
    if 1 ≤ sel ∧ sel ≤ 4 then (s.core ⟨i, o / 0x1000 - 1⟩).trapRec.map (fun r => quad r (128 * (sel - 1))) else none
  else match o with
    | 0x12000 =>
      if sel = 1 then
        some [st.fc % 2 ^ 32, st.fc / 2 ^ 32 % 2 ^ 16, (st.now - st.base) % 2 ^ 16 + s.rd (tniP i) Reg.Tn.LAG_NOW * 2 ^ 16, 0]
      else none
    | 0x15000 => vminMbx s i sel
    | 0x16000 => if sel = 1 then some (lohi s.rcnt ++ [anchors s i, 0]) else none
    | 0x17000 => if sel = 1 then some (lohi st.misBuddy ++ lohi st.misShadow) else none
    | _ => none

/-- R375: the snapshot that selection `sel` of a page takes. -/
def mbxWords (s : State) (page sel : Nat) : Option (List Nat) :=
  if page < 0x1000000 then commonMbx s page sel
  else if page < 0x2000000 then
    let o := page % 0x100000
    if 0x1000 ≤ o ∧ o ≤ 0x5000 then portMbx s ((page - 0x1000000) / 0x100000) (o / 0x1000 - 1) sel else none
  else if page < 0x20000000 then siteMbx s (page / 0x100000 - 0x100) (page % 0x100000) sel
  else
    let r := (page - 0x40000000) / 0x1000000
    match sel with
    | 1 => some (fcMbx (s.region r).fc)
    | 2 => some (fcMbx (vouched s r))
    | _ => none

end Sys2Proof.Machine
end

