-- ==== Sys2Proof/Machine/HubEdge.lean ====
section
/-! DEFINITION. What meets a hub from outside: the third-party dies (R244), the x16 ports (R241, R242), and the twin over the
TB ports (R245 to R247). -/

namespace Sys2Proof.Machine

/-! ### The firewall (R244) -/

/-- R415: an event of a third-party die. -/
def dieEvent (s : State) (h slot : Nat) : State :=
  logEvent s 0x16 1 { kind := 3, index := 8 * h + slot, page := fwP h, table := Reg.Fw.regs } 1 slot

/-- R244: a die is isolated; its port goes down. -/
def isolate (s : State) (h slot : Nat) : State :=
  let s := dieEvent (s.orBits (fwP h) Reg.Fw.ISOLATED (2 ^ slot)) h slot
  if slot = 5 then s.wr (x16P h) Reg.Xp.LINK_UP 0
  else if portState s h slot = 0 then s else portDown s h slot 0

/-- R244: a request is dropped. -/
def fwDrop (s : State) (h slot : Nat) (write : Bool) (addr : Nat) : State :=
  let p := fwP h
  let s := (s.bump p Reg.Fw.FW_DROP_CNT 1).orBits p Reg.Fw.FW_ERR (2 ^ slot)
  let s := ((s.wr p Reg.Fw.LAST_DIE slot).wr p Reg.Fw.LAST_WRITE (if write then 1 else 0)).wr p Reg.Fw.LAST_ADDR addr
  let s := dieEvent s h slot
  let hub := s.hub h
  let late := (s.up :: tabGet (fun _ => []) hub.drops slot).filter (fun t => decide (s.up < t + 10000000000))
  let s := s.setHub h { hub with drops := tabSet (fun _ => []) hub.drops slot late }
  if 16 < late.length then isolate s h slot else s

/-- R244: what a die's read returns; a mailbox page and the die's own PHY lie outside the panel's registers. -/
def fwAnswer (s : State) (h slot : Nat) (r : FwReq) : Option Nat :=
  match r with
  | .pageId => some (pageId s (hubP h 0))
  | .portState => some (if slot = 5 then s.rd (x16P h) Reg.Xp.LINK_UP else portState s h slot)
  | .time => some (s.time % 2 ^ 32)
  | .inlet => some (s.rd ppowP Reg.Pp.INLET_PANEL)
  | _ => none

/-- R244: FIREWALL_REQUEST: only reads may reach the panel's values. -/
def firewall (s : State) (h slot : Nat) (write : Bool) (addr : Nat) (r : FwReq) : State :=
  if bits (s.rd (fwP h) Reg.Fw.ISOLATED) slot 1 = 1 then s
  else match r with
    | .other => fwDrop s h slot write addr
    | .phy | .mailbox => s
    | _ => if write then fwDrop s h slot write addr else match fwAnswer s h slot r with
      | some v => s.emit (.die h slot v)
      | none => s

/-! ### The x16 ports (R241, R242, R319) -/

/-- X16_ERR bit `b`. -/
def x16Err (s : State) (h b : Nat) : State := s.orBits (x16P h) Reg.Xp.X16_ERR (2 ^ b)

/-- R241, R242: a read's data, a write's response, or an error, for context `k` of hub `h`. -/
def hostDone (s : State) (h k : Nat) (err : Bool) (data poison : Nat) : State :=
  let ep := 256 + h
  let c := s.ctx ep k
  let deep := decide (c.space = .deep)
  if !c.live ∨ c.act ≠ 1 ∨ c.done.isSome then s
  else if err then ctxFinish (x16Err s h 0) ep k 0x0A
  else if c.write then
    if deep ∧ c.rx.fwd ≠ 0 then ctxPump 80 (ctxDelivered s ep k) ep k else s
  else if c.piece.n = 0 then s
  else
    let s := if deep ∧ poison ≠ 0 then x16Err s h 2 else s
    respGot s ep k ⟨data % 2 ^ (64 * c.piece.n), poison % 2 ^ c.piece.n⟩

/-- R242: the device behind a DEEP port drops its link. -/
def deepDown (s : State) (h : Nat) : State :=
  if s.rd (x16P h) Reg.Xp.X16_ROLE ≠ 2 then s
  else
    let s := x16Err (s.wr (x16P h) Reg.Xp.LINK_UP 0) h 1
    let cs := s.ctxs.filter (fun x => x.1 / 512 = 256 + h && x.2.live && x.2.act = 1 && x.2.space = .deep && x.2.done.isNone)
    cs.foldl (fun s x => ctxFinish s (256 + h) (x.1 % 512) 0x0A) s

/-- R241: a hot reset of a HOST port: compute continues. -/
def hotReset (s : State) (h : Nat) : State := if s.rd (x16P h) Reg.Xp.X16_ROLE = 1 then x16Err s h 3 else s

/-! ### The twin (R245 to R247) -/

/-- TWIN_ERR bits (R250). -/
def twBadState : Nat := 0
def twDomain : Nat := 1
def twTimeout : Nat := 2
def twBusy : Nat := 3
def twHbOne : Nat := 4
def twLost : Nat := 5
def twShadowFail : Nat := 6

/-- TWIN_ERR bit `b`. -/
def twinErr (s : State) (b : Nat) : State := s.orBits twinP Reg.Tw.TWIN_ERR (2 ^ b)

def twinState (s : State) : Nat := s.rd twinP Reg.Tw.TWIN_STATE
def leaver (s : State) : Bool := s.rd twinP Reg.Tw.LEAVER = 1

/-- R377: TWIN_STATE changes. -/
def twinGo (s : State) (v : Nat) (leave : Bool) : State :=
  let was := twinState s
  let s := (s.wr twinP Reg.Tw.TWIN_STATE v).wr twinP Reg.Tw.LEAVER (if leave then 1 else 0)
  if was = v then s else pfSet (panelEvent s 0x15 0 twinP Reg.Tw.regs v) intTwin

/-- R245: a message to the twin leaves by every TB port that is up. -/
def tell (s : State) (m : TwinMsg) : State :=
  let one := fun (s : State) (h b : Nat) => if portUp s h 4 then s.emit (.tb b m) else s
  one (one s 0 0) 15 1

/-- R245: HEARTBEAT. -/
def heartbeat (s : State) : State :=
  let (e, s) := s.draw 32
  let m := TwinMsg.heartbeat (twinState s) s.twin.seq e.toNat s.time (s.rd pmP Reg.Pm.ALIVE = 0)
  tell { s with twin := { s.twin with seq := (s.twin.seq + 1) % 2 ^ 32 } } m

/-- R245: HB_LOSS on TB port `b`; R248: a leaver in shadow fails when both are lost. -/
def hbLoss (s : State) (b : Nat) : State :=
  let lost := keyAdd s.twin.lost b
  let was := s.twin.lost.length
  let s := { s with twin := { s.twin with lost := lost } }
  let s := twinErr (s.bump twinP Reg.Tw.HB_MISSED_CNT (s.rd twinP Reg.Tw.HB_LOSS)) twHbOne
  if lost.length < 2 ∨ was = 2 then s
  else
    let s := pfSet (panelEvent (twinErr s twLost) 0x15 1 twinP Reg.Tw.regs twLost) intTwin
    if leaver s ∧ twinState s = 6 then twinGo (twinErr s twShadowFail) 5 true else s

/-- R250: the serial written as pairing target. -/
def peerSerial (s : State) : Nat := s.rd twinP Reg.Tw.PEER_SERIAL_LO + s.rd twinP Reg.Tw.PEER_SERIAL_HI * 2 ^ 32

/-- R246: the IDENTs of a TB port show the panel's own SHELF_TAG or LOOP_TAG. -/
def sameDomain (s : State) : Bool :=
  [0, 15].any (fun h => match (s.optic h 4).peer with
    | some i => i.shelf.toNat = s.shelfTag || i.loop.toNat = s.loopTag
    | none => false)

/-- R371: a command that is not taken in the present state. -/
def twinBad (s : State) : State := twinErr (badValue s twinP 0x44) twBadState

/-- R246: both panels have written PAIR within 1 s. -/
def pairMeet (s : State) : State :=
  match s.twin.wants with
  | some (target, ovr, t) =>
    if twinState s ≠ 1 ∨ target ≠ Config.serial.toNat ∨ t + 10000000000 < s.up then s
    else if sameDomain s ∧ !(s.twin.ovr && ovr) then twinGo (twinErr s twDomain) 0 false
    else twinGo { s with twin := { s.twin with wants := none, absent := false } } 2 false
  | none => s

/-- R246: PAIR. -/
def pair (s : State) (ovr : Bool) : State :=
  if twinState s ≠ 0 ∨ peerSerial s = Config.serial.toNat then twinBad s
  else if sameDomain s ∧ !ovr then twinErr s twDomain
  else
    let s := { s with twin := { s.twin with ovr := ovr } }
    pairMeet (tell (twinGo s 1 false) (.pair (BitVec.ofNat 64 (peerSerial s)) ovr))

/-- R246: PAIR_TIMEOUT. -/
def pairTimeout (s : State) : State := if twinState s = 1 then twinGo (twinErr s twTimeout) 0 false else s

/-- R250: UNPAIR. -/
def unpair (s : State) : State := if twinState s = 0 then twinBad s else tell (twinGo s 0 false) .unpair

/-- R247 step 1. -/
def reqDetach (s : State) : State := if twinState s ≠ 2 then twinBad s else tell (twinGo s 3 true) .detach

/-- R247 step 2: no answer within 100 ms. -/
def detachTimeout (s : State) : State := if twinState s = 3 then twinGo (twinErr s twTimeout) 2 false else s

/-- R247 steps 3 and 4. -/
def shrunk (s : State) : State := if leaver s ∧ twinState s = 4 then tell (twinGo s 5 true) .shrunk else twinBad s

/-- R247 step 6. -/
def reqAttach (s : State) : State :=
  if leaver s ∧ twinState s = 5 then tell ((twinGo s 6 true).wr twinP Reg.Tw.CLEAN_FRAMES 0) .shadow else twinBad s

/-- R247 step 8. -/
def attach (s : State) : State := if leaver s ∧ twinState s = 7 then tell (twinGo s 2 false) .attach else twinBad s

/-- R247: ABORT. -/
def twinAbort (s : State) : State :=
  if leaver s ∧ (twinState s = 6 ∨ twinState s = 7) then tell (twinGo s 5 true) .abort
  else if twinState s = 3 ∨ twinState s = 4 then tell (twinGo s 2 false) .abort
  else twinBad s

/-- R247 step 7: a frame's digests. -/
def twinDigest (s : State) (same : Bool) : State :=
  if !(leaver s) ∨ twinState s ≠ 6 then s
  else if !same then twinGo (twinErr s twShadowFail) 5 true
  else
    let n := s.rd twinP Reg.Tw.CLEAN_FRAMES + 1
    let s := s.wr twinP Reg.Tw.CLEAN_FRAMES n
    if 4096 ≤ n then twinGo s 7 true else s

/-- R247 step 2, R248: the twin asks to leave. -/
def onDetach (s : State) : State :=
  if twinState s = 3 ∧ leaver s then
    if Config.serial.toNat < peerSerial s then tell s .busy
    else tell (twinGo (twinErr s twBusy) 4 false) .ready
  else if twinState s = 2 ∧ !s.outOfService then tell (twinGo s 4 false) .ready
  else tell s .busy

/-- R245 to R247: HEARTBEAT_RECEIPT by TB port `b`. -/
def twinIn (s : State) (b : Nat) (m : TwinMsg) : State :=
  match m with
  | .heartbeat v _ _ _ _ => { s with twin := { s.twin with lost := keyDel s.twin.lost b, state := v } }
  | .pair t ovr => pairMeet { s with twin := { s.twin with wants := some (t.toNat, ovr, s.up) } }
  | .unpair => if twinState s = 0 then s else twinGo s 0 false
  | .detach => onDetach s
  | .ready => if twinState s = 3 ∧ leaver s then twinGo s 4 true else s
  | .busy => if twinState s = 3 ∧ leaver s then twinGo (twinErr s twBusy) 2 false else s
  | .shrunk => { s with twin := { s.twin with absent := true } }
  | .shadow => s
  | .attach => twinGo { s with twin := { s.twin with absent := false } } 2 false
  | .abort => if (twinState s = 3 ∨ twinState s = 4) ∧ !s.twin.absent then twinGo s 2 false else s
  | .digest same => twinDigest s same

/-! ### Meanings -/

/-- R244: FIREWALL_REQUEST. -/
def execFirewallRequest (h slot : Nat) (write : Bool) (addr : BitVec 24) (r : FwReq) (s : State) : Host.Outcome State Fault Refusal :=
  onUnit (hubOk h && (decide (slot < 4) || slot = 5 || (slot = 4 && hasPort h 4))) (firewall s h slot write addr.toNat r)

/-- R242: DEEP_LINK_DOWN. -/
def execDeepLinkDown (h : Nat) (s : State) : Host.Outcome State Fault Refusal := onUnit (hubOk h) (deepDown s h)

/-- R241: HOST_COMPLETION. -/
def execHostCompletion (h k : Nat) (err : Bool) (data poison : Nat) (s : State) : Host.Outcome State Fault Refusal :=
  onUnit (hubOk h && decide (k < 512)) (hostDone s h k err data poison)

/-- R241: HOT_RESET. -/
def execHotReset (h : Nat) (s : State) : Host.Outcome State Fault Refusal := onUnit (hubOk h) (hotReset s h)

/-- R245: HEARTBEAT. -/
def execHeartbeat (s : State) : Host.Outcome State Fault Refusal := .next (heartbeat s)

/-- R245: HB_LOSS. -/
def execHbLoss (b : Nat) (s : State) : Host.Outcome State Fault Refusal := onUnit (decide (b < 2)) (hbLoss s b)

/-- R246: PAIR. -/
def execPair (ovr : Bool) (s : State) : Host.Outcome State Fault Refusal := .next (hostAct s twinP 0x44 (some (pair s ovr)))

/-- R246: PAIR_TIMEOUT. -/
def execPairTimeout (s : State) : Host.Outcome State Fault Refusal := .next (pairTimeout s)

/-- R250: UNPAIR. -/
def execUnpair (s : State) : Host.Outcome State Fault Refusal := .next (hostAct s twinP 0x44 (some (unpair s)))

/-- R247: REQ_DETACH. -/
def execReqDetach (s : State) : Host.Outcome State Fault Refusal := .next (hostAct s twinP 0x44 (some (reqDetach s)))

/-- R247: DETACH_TIMEOUT. -/
def execDetachTimeout (s : State) : Host.Outcome State Fault Refusal := .next (detachTimeout s)

/-- R247: SHRUNK. -/
def execShrunk (s : State) : Host.Outcome State Fault Refusal := .next (hostAct s twinP 0x44 (some (shrunk s)))

/-- R247: REQ_ATTACH. -/
def execReqAttach (s : State) : Host.Outcome State Fault Refusal := .next (hostAct s twinP 0x44 (some (reqAttach s)))

/-- R247: ATTACH. -/
def execAttach (s : State) : Host.Outcome State Fault Refusal := .next (hostAct s twinP 0x44 (some (attach s)))

/-- R247: TWIN_ABORT. -/
def execTwinAbort (s : State) : Host.Outcome State Fault Refusal := .next (hostAct s twinP 0x44 (some (twinAbort s)))

/-- R245: HEARTBEAT_RECEIPT. -/
def execHeartbeatReceipt (b : Nat) (m : TwinMsg) (s : State) : Host.Outcome State Fault Refusal := onUnit (decide (b < 2)) (twinIn s b m)

end Sys2Proof.Machine
end

