-- ==== Sys2Proof/Machine/BringUp.lean ====
section
/-! DEFINITION. Bring-up (R386 to R397): requests of steps, what each step does, how it ends; the map and its translation
(R15 to R24, R392, R394). -/

namespace Sys2Proof.Machine

/-! ### The map (R16 to R19, R22, R379) -/

/-- R379: fields of a row word. -/
def rowRetired (w : Nat) : Nat := bits w 0 16
def rowS1 (w : Nat) : Nat := bits w 16 4
def rowS2 (w : Nat) : Nat := bits w 20 4
def rowTwo (w : Nat) : Bool := bits w 24 1 = 1

/-- Out-of-grid positions of a row. -/
def rowOut (w : Nat) : List Nat := if rowTwo w then [rowS1 w, rowS2 w] else [rowS1 w]

/-- A row word. -/
def rowWord (retired : Nat) (out : List Nat) : Nat :=
  match out with
  | [a, b] => retired + a * 2 ^ 16 + b * 2 ^ 20 + 2 ^ 24
  | a :: _ => retired + a * 2 ^ 16
  | [] => retired

/-- R16: the physical column that carries logical column `u`. -/
def rowCol (w u : Nat) : Nat :=
  if rowTwo w then (if u < rowS1 w then u else if u + 1 < rowS2 w then u + 1 else u + 2) else if u < rowS1 w then u else u + 1

/-- R16: the logical column that physical column `x` carries. -/
def rowLog (w n x : Nat) : Option Nat := (List.range n).find? (fun u => rowCol w u = x)

/-- The row words in use. -/
def rowsNow (s : State) : List Nat :=
  (List.range 16).map (fun y => s.rd mapP (Reg.Ma.RETIRED y) + s.rd mapP (Reg.Ma.SPARE_X y) * 2 ^ 16 +
    s.rd mapP (Reg.Ma.SPARE2_X y) * 2 ^ 20 + s.rd mapP (Reg.Ma.SPARE2_VALID y) * 2 ^ 24)

/-- R18: two rows one above the other are valid, and the diagonal hops between them. -/
def rowsMeet (n a b : Nat) : Bool := (List.range n).all (fun u => decide (((rowCol b u : Int) - rowCol a u).natAbs ≤ 1))
def rowsCost (n a b : Nat) : Nat := ((List.range n).filter (fun u => rowCol a u != rowCol b u)).length

/-- R22, the repeaters aside: row words `rows` make a valid map of `n` columns. -/
def rowsOk (rows : List Nat) (n : Nat) : Bool :=
  (n = 14 || n = 15) && rows.length = 16 &&
    rows.all (fun w => rowTwo w = decide (n = 14) && (!rowTwo w || decide (rowS1 w < rowS2 w)) &&
      (List.range 16).all (fun x => bits (rowRetired w) x 1 = 0 || (rowOut w).contains x)) &&
    (List.range 16).all (fun y => rowsMeet n (rows.getD y 0) (rows.getD ((y + 1) % 16) 0))

/-- R17: the repeater of a site works. -/
def repeats (s : State) (i : Nat) : Bool := !(keyHas s.mute i) && bits (s.rd (spowP i) Reg.Sp.DOM_EN) 2 1 = 1

/-- R390: the site is in the failed-site list. -/
def inFailed (s : State) (i : Nat) : Bool := bits (s.rd bringP (Reg.Br.FAILED (i / 32))) (i % 32) 1 = 1

/-- R18, R19: port and kind of the hop in logical direction `d` (0 N, 1 E, 2 S, 3 W) of ⟨y, u⟩. -/
def portFor (rows : List Nat) (n y u d : Nat) : Nat × Nat :=
  let w := rows.getD y 0
  let x := rowCol w u
  if d = 1 ∨ d = 3 then
    let v := if d = 1 then (u + 1) % n else (u + n - 1) % n
    let nxt := rowCol w v
    let direct := if d = 1 then (x + 1) % 16 else (x + 15) % 16
    (2 * d, if nxt = direct then 0 else 2)
  else
    let y2 := if d = 2 then (y + 1) % 16 else (y + 15) % 16
    let x2 := rowCol (rows.getD y2 0) u
    if x2 = x then (2 * d, 0)
    else if d = 2 then (if x < x2 then 3 else 5, 1)
    else (if x < x2 then 1 else 7, 1)

/-- R14: the hop uses the row's or column's edge link. -/
def edgeHop (rows : List Nat) (n y u d : Nat) : Bool :=
  let w := rows.getD y 0
  let x := rowCol w u
  match d with
  | 0 => y = 0
  | 1 => decide (rowCol w ((u + 1) % n) < x)
  | 2 => y = 15
  | _ => decide (x < rowCol w ((u + n - 1) % n))

/-- R13, R19, R391: the sites and ports whose lanes make up the hop from site `i` by `port`; a bypass passes through at most
two repeaters. -/
def hopEnds (rows : List Nat) (i port : Nat) : List (Nat × Nat) :=
  let out := fun (j : Nat) => (rowOut (rows.getD (j / 16) 0)).contains (j % 16)
  let far := (port + 4) % 8
  match portNext i port with
  | none => [(i, port)]
  | some a =>
    if (port = 2 ∨ port = 6) ∧ out a then match portNext a port with
      | none => [(i, port), (a, far)]
      | some b =>
        if out b then [(i, port), (a, far), (a, port), (b, far), (b, port), ((portNext b port).getD b, far)]
        else [(i, port), (a, far), (a, port), (b, far)]
    else [(i, port), (a, far)]

/-- R391: the lanes found bad at a port. -/
def badLanes (s : State) (i port : Nat) : Nat := (tabGet (fun _ => (0, 0)) s.lanes (16 * i + port)).1

/-- R13: lanes, active lanes and default timetable lanes of a port. -/
def portLanes (port : Nat) : Nat × Nat × Nat := if port = 8 then (34, 32, 0) else if port % 2 = 0 then (68, 64, 48) else (34, 32, 24)

/-- R391: timetable and courier lanes left to a hop whose failed lane indices are `bad`. -/
def lanesLeft (port bad : Nat) : Nat × Nat :=
  let q := portLanes port
  let good := min q.2.1 (q.1 - popc q.1 bad)
  let tt := q.2.2 - (q.2.1 - good)
  (tt, good - tt)

/-- Lanes of the hop from site `i` by `port`. -/
def hopLanes (s : State) (rows : List Nat) (i port : Nat) : Nat × Nat :=
  lanesLeft port ((hopEnds rows i port).foldl (fun m e => m ||| badLanes s e.1 e.2) 0)

/-- R132: B of n timetable lanes. -/
def slotsOf (n : Nat) : Nat := n * 1024 / 816

/-- R133: HOP_LAT of the hop from site `i` by `port`; 0 when it has not been measured. -/
def hopLatOf (s : State) (i port : Nat) : Nat :=
  match tabFind s.lanes (16 * i + port) with
  | some e => if e.2 = 0 then 0 else min 255 (e.2 + 4)
  | none => 0

/-- R20: a DIRMAP value. -/
def dirWord (s : State) (rows : List Nat) (n i y u d : Nat) : Nat :=
  let q := portFor rows n y u d
  q.1 + q.2 * 16 + (if edgeHop rows n y u d then 64 else 0) + hopLatOf s i q.1 * 256

/-- R392: the body of the map record for row words `rows`. -/
def mapBody (s : State) (cls n : Nat) (rows : List Nat) : List Nat :=
  [cls + n * 256] ++ rows ++ (List.range (16 * n)).flatMap (fun j =>
    let i := 16 * (j / n) + rowCol (rows.getD (j / n) 0) (j % n)
    (List.range 4).map (fun d =>
      let q := portFor rows n (j / n) (j % n) d
      let t := (hopLanes s rows i q.1).1
      dirWord s rows n i (j / n) (j % n) d + t * 2 ^ 16 + slotsOf t * 2 ^ 22))

/-- R23: the class of a valid map. -/
def mapClass (n : Nat) (rows : List Nat) : Nat := if n = 14 then 2 else if rows.any (fun w => rowRetired w != 0) then 1 else 0

/-- R20: the DIRMAP registers of direction `d`: PORT, KIND, EDGE, HOP_LAT and their complement. -/
def dirFlds (d : Nat) : Fld × Fld × Fld × Fld × Fld :=
  match d with
  | 0 => (Reg.Sc.PORT_N, Reg.Sc.KIND_N, Reg.Sc.EDGE_N, Reg.Sc.HOP_LAT_N, Reg.Sc.DIR_COMPL_N)
  | 1 => (Reg.Sc.PORT_E, Reg.Sc.KIND_E, Reg.Sc.EDGE_E, Reg.Sc.HOP_LAT_E, Reg.Sc.DIR_COMPL_E)
  | 2 => (Reg.Sc.PORT_S, Reg.Sc.KIND_S, Reg.Sc.EDGE_S, Reg.Sc.HOP_LAT_S, Reg.Sc.DIR_COMPL_S)
  | _ => (Reg.Sc.PORT_W, Reg.Sc.KIND_W, Reg.Sc.EDGE_W, Reg.Sc.HOP_LAT_W, Reg.Sc.DIR_COMPL_W)

/-- Writes a DIRMAP register. -/
def setDir (s : State) (i d v : Nat) : State :=
  let p := commonP i
  let f := dirFlds d
  ((((s.wr p f.1 v).wr p f.2.1 (v / 16)).wr p f.2.2.1 (v / 64)).wr p f.2.2.2.1 (v / 256)).wr p f.2.2.2.2 (0xFFFF - v % 65536)

/-- R20: the row register of a site. -/
def setRowReg (s : State) (i w : Nat) : State :=
  let p := commonP i
  let v := rowS1 w + rowS2 w * 16 + (if rowTwo w then 256 else 0)
  (((s.wr p Reg.Sc.SPARE_X (rowS1 w)).wr p Reg.Sc.SPARE2_X (rowS2 w)).wr p Reg.Sc.SPARE2_VALID (if rowTwo w then 1 else 0)).wr p
    Reg.Sc.ROW_COMPL (0xFFFF - v)

/-- R20: LOG_INDEX and LOG_U with their complement. -/
def setLog (s : State) (i j u : Nat) : State :=
  let p := commonP i
  ((s.wr p Reg.Sc.LOG_INDEX j).wr p Reg.Sc.LOG_U u).wr p Reg.Sc.LOG_COMPL (0xFFFF - (j + u * 256))

/-- R145: TT_LANES and B of every direction of a site under row words `rows`. -/
def setCaps (s : State) (rows : List Nat) (i : Nat) : State :=
  upTo 4 (fun s d =>
    let t := (hopLanes s rows i (s.rd (commonP i) (dirFlds d).1)).1
    (s.wr (tniP i) (Reg.Tn.TT_LANES d) t).wr (tniP i) (Reg.Tn.B d) (slotsOf t)) s

/-- R394 step 4: the entry of site `i` for row words `rows`. -/
def setEntry (s : State) (rows : List Nat) (n seq i : Nat) : State :=
  let y := i / 16
  let w := rows.getD y 0
  let p := commonP i
  let s := setRowReg s i w
  match rowLog w n (i % 16) with
  | some u =>
    let s := setLog (s.wr p Reg.Sc.ROLE 0) i (y * n + u) u
    let s := upTo 4 (fun s d => setDir s i d (dirWord s rows n i y u d)) s
    (setCaps s rows i).wr p Reg.Sc.MAP_SEQ seq
  | none =>
    let s := setLog (s.wr p Reg.Sc.ROLE (if bits (rowRetired w) (i % 16) 1 = 1 then 2 else 1)) i 0xFF 0xF
    s.wr p Reg.Sc.MAP_SEQ seq

/-- R20, R21: the NI of a site runs, unless an entry holds HOP_LAT 0. -/
def startNi (s : State) (i : Nat) : State :=
  let p := commonP i
  if s.rd p Reg.Sc.ROLE = 0 ∧ (List.range 4).all (fun d => s.rd p (dirFlds d).2.2.2.1 != 0) then s.wr p Reg.Sc.NI_STATE 2 else s

/-- R379: the map page shows row words. -/
def showRows (s : State) (rows : List Nat) : State :=
  rows.zipIdx.foldl (fun s w =>
    (((s.wr mapP (Reg.Ma.RETIRED w.2) (rowRetired w.1)).wr mapP (Reg.Ma.SPARE_X w.2) (rowS1 w.1)).wr mapP (Reg.Ma.SPARE2_X w.2)
      (rowS2 w.1)).wr mapP (Reg.Ma.SPARE2_VALID w.2) (if rowTwo w.1 then 1 else 0)) s

/-- R379: class, columns and sequence of the map in use. -/
def showMap (s : State) (cls n seq : Nat) : State :=
  (((s.wr mapP Reg.Ma.MAP_CLASS cls).wr mapP Reg.Ma.W n).wr mapP Reg.Ma.LOG_SITES (16 * n)).wr mapP Reg.Ma.MAP_SEQ seq

/-- R394: the code with which MAP fails on a record body, 0 for none. -/
def mapCode (s : State) (body : List Nat) : Nat :=
  let n := bodyByte body 1
  let rows := (body.drop 1).take 16
  if !(rowsOk rows n) || (s.rd idP Reg.Id.PART = 2 && n != 14) || bits (body.getD 0 0) 16 16 != 0 || body.length != 17 + 64 * n then 0x63
  else if (List.range 256).any (fun i =>
      if (rowOut (rows.getD (i / 16) 0)).contains (i % 16) then !(repeats s i) else inFailed s i) then 0x64
  else 0

/-- R394 steps 4 to 6: MAP with the record body `body`. -/
def mapRun (s : State) (body : List Nat) : State :=
  let n := bodyByte body 1
  let rows := ((body.drop 1).take 16).zipIdx.map (fun w =>
    let lost := (rowOut w.1).filter (fun x => inFailed s (16 * w.2 + x))
    w.1 ||| lost.foldl (fun m x => m ||| 2 ^ x) 0)
  let cls := mapClass n rows
  let new := mapBody s cls n rows
  let s := if new = body then s else recPut s 1 new true
  let seq := recSeq (recCopy s 1 (recPick s 1))
  let s := showMap (showRows s rows) cls n seq
  let s := upTo 256 (fun s i => (startNi (setEntry s rows n seq i) i).wr (commonP i) Reg.Sc.MAP_WR_REJECT 0) s
  let s := upTo 256 (fun s i => if s.rd (commonP i) Reg.Sc.ROLE = 0 then s.wr (cniP i) Reg.Cn.INJ_STOPPED 0 else s) s
  s.wr prelP Reg.Pr.PANEL_ERR 0

/-! ### Requests and ends of steps (R386 to R389) -/

/-- R378: the step that runs. -/
def stepRuns (s : State) (n : Nat) : Bool := s.rd bringP Reg.Br.STATE = 1 && s.rd bringP Reg.Br.CUR_STEP = n

/-- R378: step `n` has completed. -/
def stepIsDone (s : State) (n : Nat) : Bool := bits (s.rd bringP Reg.Br.DONE_MASK) (n - 1) 1 = 1

/-- Requests of step `n` since POWER_BASE. -/
def stepTries (s : State) (n : Nat) : Nat := tabGet (fun _ => 0) s.bring.tries n

/-- R387, R389: a request of step `n` is taken. -/
def stepTaken (s : State) (n : Nat) : Bool :=
  decide (1 ≤ n) && decide (n ≤ 12) && s.rd bringP Reg.Br.STATE != 1 &&
    (List.range (n - 1)).all (fun k => stepIsDone s (k + 1)) &&
    (decide (9 < n) || (List.range 16).all (fun r => regionState s r != 1 && regionState s r != 2 && regionState s r != 4)) &&
    !(s.rd mapP Reg.Ma.RM_STATE = 3 && s.remapSites == []) &&
    (n = 1 || (decide (stepTries s n < 8) && (tabFind s.bring.failAt n).all (fun t =>
      decide (t + 1000000000 * 2 ^ (stepTries s n - 1) ≤ s.up))))

/-- R387: a region in fault is released without clearing. -/
def regionDrop (s : State) (r : Nat) : State :=
  if regionState s r ≠ 3 then s
  else ((regionSites s r).foldl quitSite (s.wr regionP (Reg.Rg.STATE r) 0)).setRegion r { level := (s.region r).level }

/-- R378, R415: how a step has ended. -/
def stepEnd (s : State) (st code : Nat) : State :=
  let s := (s.wr bringP Reg.Br.STATE st).wr bringP Reg.Br.FAIL_CODE code
  let s := s.wr bringP Reg.Br.ELAPSED (min 0xFFFFFFFF ((s.up - s.bring.startAt) / 10000))
  pfSet (panelEvent s 0x18 (if st = 3 then 1 else 0) bringP Reg.Br.regs) intBringup

/-- R388: the running step fails with `code`, naming `unit`. -/
def stepFail (s : State) (code unit : Nat) : State :=
  let n := s.rd bringP Reg.Br.CUR_STEP
  stepEnd { s with bring := { s.bring with unit := unit, failAt := tabSet (fun _ => 0) (tabErase s.bring.failAt n) n s.up } } 3 code

/-- R388: the running step completes. -/
def stepPass (s : State) : State :=
  let n := s.rd bringP Reg.Br.CUR_STEP
  stepEnd (s.wr bringP Reg.Br.DONE_MASK (s.rd bringP Reg.Br.DONE_MASK ||| 2 ^ (n - 1))) 2 0

/-- R390: a site enters the failed-site list. -/
def enterFailed (s : State) (i : Nat) : State :=
  if inFailed s i then s
  else { s.orBits bringP (Reg.Br.FAILED (i / 32)) (2 ^ (i % 32)) with bring := { s.bring with entered := s.bring.entered + 1 } }

/-! ### Domains (R288, R289) -/

/-- R289: VLINK of a site comes up. -/
def linkUp (s : State) (i : Nat) : State :=
  let on := s.rd (spowP i) Reg.Sp.DOM_EN
  let s := if bits on 2 1 = 1 then s else regsReset s (linkPage i)
  s.wr (spowP i) Reg.Sp.DOM_EN (on ||| 4)

/-- R289: logic and links of a hub come up. -/
def hubUp (s : State) (h : Nat) : State :=
  let on := s.hubOn h
  let s := if bits on 0 1 = 1 then s else regsReset s (fun p => decide (hubP h 0 ≤ p) && decide (p < hubP (h + 1) 0))
  s.setHubDom h (on ||| 3)

/-- R292, R393: the calibration record takes effect for a site. -/
def calLoad (s : State) (i : Nat) : State :=
  match recUse s 3 with
  | none => s
  | some b =>
    let g := fun (k n : Nat) => bodyNum b (64 * i + k) n
    let cal := fun (f : Nat) => (⟨g (12 * f) 2, g (12 * f + 2) 2, g (12 * f + 4) 1, g (12 * f + 6) 2, g (12 * f + 8) 2⟩ : Cal)
    let full := g 52 1
    let s := s.setSite i { (s.site i) with cal := (List.range 4).map cal, rSite := g 48 4, fullCeil := full }
    match (List.range 4).find? (fun f => g (12 * f + 4) 1 = 1) with
    | some f => s.wr (spowP i) Reg.Sp.CAL_CEIL f
    | none => siteEvent ((s.wr (spowP i) Reg.Sp.CAL_CEIL full).setBit (spowP i) Reg.Sp.CAL_LIGHT_ONLY) i 0x0F 1 (spowP i) Reg.Sp.regs 5

/-- R289: VARRAY, VLOGIC and VMEMIF of a site come up. -/
def logicUp (s : State) (i : Nat) : State :=
  let on := s.rd (spowP i) Reg.Sp.DOM_EN
  let s := if bits on 0 1 = 1 then s
    else (coresOf [i]).foldl (fun s c => s.setCore c {}) (regsReset s (logicPage i))
  let s := ((s.wr (spowP i) Reg.Sp.DOM_EN (on ||| 11)).wr (spowP i) Reg.Sp.ARR_MODE 1).wr (spowP i) Reg.Sp.SITE_PSTATE 1
  calLoad (s.setSite i { (s.site i) with failed := false, retLost := false }) i

/-- Physical sites of the logical grid, in increasing logical index. -/
def gridSites (s : State) : List Nat := (List.range (16 * gridW s)).filterMap (physOf s)

/-- R386: step 1 switches every domain off but the always-on stage. -/
def domainsOff (s : State) : State :=
  let s := upTo 256 (fun s i =>
    ((s.wr (spowP i) Reg.Sp.DOM_EN 0).wr (spowP i) Reg.Sp.ARR_MODE 0).wr (spowP i) Reg.Sp.SITE_PSTATE 0) s
  { s with hubDom := [] }

/-! ### What the request of each step starts (R388) -/

/-- R427, R388: the slot that a boot chooses: the bootable slot with the newer SEQ. -/
def bootSlot (s : State) : Option Nat :=
  let floor := s.rd pmP Reg.Pm.SVN_FLOOR
  let seq := fun (f : FwSlot) => (f.img.map (fun m => m.seq.toNat)).getD 0
  match fwBootable s.fwA floor, fwBootable s.fwB floor with
  | true, true =>
    let g := serialGap (seq s.fwA) (seq s.fwB)
    some (if g < 2 ^ 31 then 0 else 1)
  | true, false => some 0
  | false, true => some 1
  | false, false => none

/-- R386: step 1 starts. -/
def baseStart (s : State) : State :=
  let s := { (domainsOff s) with rootOn := false, heldX16 := [], inputOv := false, bring := { startAt := s.up } }
  (s.wr pmP Reg.Pm.ALIVE 0).wr timeP Reg.Ti.ROOT_LOCKED 0

/-- R388: MEMORY clears every memory of the logical sites. -/
def memStart (s : State) : State :=
  (gridSites s).foldl (fun s i =>
    let s := clearWell (clearSram s i) i
    let s := upTo 8 (fun s n => (s.wr (coreP ⟨i, n⟩) Reg.Co.CLEARING 1).wr (coreP ⟨i, n⟩) Reg.Co.CLEAR_DONE 0) s
    let s := (s.wr (cisP i) Reg.Ci.CLEARING 1).wr (cisP i) Reg.Ci.CLEAR_DONE 0
    (s.wr (wellP i) Reg.We.CLEARING 1).wr (wellP i) Reg.We.CLEAR_DONE 0) s

/-- R397: a port held down by the licence. -/
def heldPort (s : State) : State := panelEvent (s.setBit licP Reg.Li.HELD_PORT) 0x0C 1 licP Reg.Li.regs 2

/-- R397: FABRIC enables the ports that the entitlement covers and starts their training. -/
def fabricPort (s : State) (h p : Nat) : State :=
  let ok := if p = 4 then bits (s.rd licP Reg.Li.EFF_FEATURES) 0 1 = 1 else 16 * p + h < s.rd licP Reg.Li.EFF_FABRIC
  if ok then (if s.rd (portP h p) Reg.Fa.DISABLE = 1 then s else portDisable s h p false)
  else portDisable (heldPort (s.wr (portP h p) Reg.Fa.DISABLE 1)) h p true

/-- R388: FABRIC starts. -/
def fabricStart (s : State) : State :=
  let s := { s with bring := { s.bring with swapped := [] } }
  upTo 16 (fun s h => upTo 5 (fun s p => if hasPort h p then fabricPort s h p else s) s) s

/-- R388: what the start of step `n` does. -/
def stepStart (s : State) (n : Nat) : State :=
  match n with
  | 1 => baseStart s
  | 2 => { s with rootOn := true }
  | 3 => upTo 16 hubUp (upTo 256 linkUp (upTo 8 (fun s w => s.wr bringP (Reg.Br.FAILED w) 0) s))
  | 4 => upTo 16 (fun s h => s.setHubDom h (s.hubOn h ||| 12)) s
  | 9 => memStart s
  | 11 => fabricStart s
  | _ => s

/-- R387: a taken request of step `n`. -/
def stepGo (s : State) (n : Nat) : State :=
  let s := if n ≤ 9 then upTo 16 regionDrop s else s
  let m := s.rd bringP Reg.Br.DONE_MASK
  let s := s.wr bringP Reg.Br.DONE_MASK (m % 2 ^ (n - 1))
  let t := min 0xFF (stepTries s n + 1)
  let s := { s with bring := { s.bring with startAt := s.up, tries := tabSet (fun _ => 0) s.bring.tries n t, unit := 0, entered := 0 } }
  let s := stepStart s n
  let s := (((s.wr bringP Reg.Br.STEP n).wr bringP Reg.Br.CUR_STEP n).wr bringP Reg.Br.STATE 1).wr bringP Reg.Br.FAIL_CODE 0
  (s.wr bringP Reg.Br.ATTEMPT (if n = 1 then 1 else t)).wr bringP Reg.Br.ELAPSED 0

/-- R378, R387: a write of STEP, carried by the HOST port of hub `via` or the management port. -/
def stepWrite (s : State) (n : Nat) (via : Option Nat) : Option State :=
  if stepTaken s n then
    let s := stepGo s n
    some (if n = 10 then { s with bring := { s.bring with via := via } } else s)
  else none

/-! ### How each step ends (R388) -/

/-- R423, R426: the processor boots slot `k`. -/
def boot (s : State) (k : Nat) : State :=
  let v := ((s.fw k).img.map (fun m => m.version.toNat)).getD 0
  let s := ((s.wr pmP Reg.Pm.RUN_SLOT k).wr pmP Reg.Pm.VER_FW v).wr pmP Reg.Pm.ALIVE 1
  s.wrap pmP Reg.Pm.BOOT_CNT 1

/-- R238: CAP_WORD of hub `h`. -/
def showCap (s : State) (h : Nat) : State :=
  s.wr (hubP h 0) Reg.Hu.CAP_WORD (verMax s h + 2 * 2 ^ 4 + 2 ^ 8 + 2 ^ 12 + bits (s.rd pmP Reg.Pm.VER_FW) 16 8 * 2 ^ 16)

/-- R388, R423, R427: POWER_BASE ends. -/
def baseDone (s : State) : State :=
  match bootSlot s with
  | none => stepFail s 0x11 0
  | some k =>
    let was := s.rd pmP Reg.Pm.FW_STATE
    let s := boot { s with restart := none } k
    let s := if was = 4 then panelEvent (s.setBit pmP Reg.Pm.REVERTED) 0x1C 1 pmP Reg.Pm.regs 0 else s
    let s := if was = 3 then s else s.wr pmP Reg.Pm.FW_STATE 0
    stepPass s

/-- R388: DISCOVER ends; every hub has locked and trained the ring. -/
def discoverDone (s : State) : State :=
  stepPass (upTo 16 (fun s h => showCap (s.wr (hubP h 0) Reg.Hu.RING_UP 1) h) { s with holdover := [] })

/-- R244, R388: FENCE ends with the die slots that have been admitted. -/
def fenceDone (s : State) (dies : List (BitVec 4 × BitVec 6)) : State :=
  let mask := fun (h : Nat) => dies.foldl (fun m d => if d.1.toNat = h then m ||| d.2.toNat else m) 0
  let s := upTo 16 (fun s h => (s.wr (fwP h) Reg.Fw.ISOLATED (0x3F - mask h)).setHub h { (s.hub h) with drops := [] }) s
  let phy := (List.range 16).any (fun h => s.rd (x16P h) Reg.Xp.X16_ROLE = 1 && bits (mask h) 5 1 = 1)
  if phy then stepPass s else stepFail s 0x41 0

/-- R391, R393: the lane roles record with the lanes that failed training added. -/
def laneBody (s : State) (ls : List LanePort) : List Nat :=
  let old := (recUse s 2).getD (List.replicate 8192 0)
  ls.foldl (fun b l =>
    let at0 := 32 * l.site.toNat + 3 * l.port.toNat
    b.zipIdx.map (fun w => if at0 ≤ w.2 ∧ w.2 < at0 + 3 then w.1 ||| bits l.bad.toNat (32 * (w.2 - at0)) 32 else w.1)) old

/-- R391: what training has found, with the lanes that the record marks bad. -/
def laneLoad (s : State) : State :=
  let b := (recUse s 2).getD []
  let ks := (List.range 256).flatMap (fun i => (List.range 9).map (fun k => (i, k)))
  { s with lanes := ks.foldl (fun t k =>
      let old := tabGet (fun _ => (0, 0)) t (16 * k.1 + k.2)
      tabSet (fun _ => (0, 0)) t (16 * k.1 + k.2) (bodyNum b (128 * k.1 + 12 * k.2) 9, old.2)) s.lanes }

/-- R391: one port's training and measurement. -/
def laneNote (s : State) (l : LanePort) : State :=
  let k := 16 * l.site.toNat + l.port.toNat
  let old := tabGet (fun _ => (0, 0)) s.lanes k
  { s with lanes := tabSet (fun _ => (0, 0)) s.lanes k (old.1 ||| l.bad.toNat, l.lat.toNat) }

/-- R391, R179: ports left with no courier lane have failed; TT_LANES and B follow. -/
def laneShow (s : State) (rows : List Nat) (i : Nat) : State :=
  let down := (List.range 9).foldl (fun m k => if (hopLanes s rows i k).2 = 0 then m + 2 ^ k else m) 0
  setCaps (s.wr (cniP i) Reg.Cn.DOWN_PORTS down) rows i

/-- The row words that a bypass is judged by before MAP: those of the map record, if there is one. -/
def rowsAhead (s : State) : List Nat := match recUse s 1 with
  | some b => (b.drop 1).take 16
  | none => rowsNow s

/-- R240, R241, R242: an x16 port has trained. -/
def x16Train (s : State) (q : BitVec 4 × BitVec 5 × BitVec 3 × BitVec 13) : State :=
  let h := q.1.toNat
  let role := s.rd (x16P h) Reg.Xp.X16_ROLE
  if role = 0 ∨ bits (s.rd (fwP h) Reg.Fw.ISOLATED) 5 1 = 1 ∨ (role = 2 ∧ q.2.1.toNat ≠ 16) then s
  else
    let s := ((s.wr (x16P h) Reg.Xp.LINK_UP 1).wr (x16P h) Reg.Xp.LINK_WIDTH q.2.1.toNat).wr (x16P h) Reg.Xp.LINK_SPEED q.2.2.1.toNat
    if role = 2 then s.wr (x16P h) Reg.Xp.DT_MAPPED q.2.2.2.toNat else s

/-- A port's training as the hardware reports it names a port that exists. -/
def laneOk (l : LanePort) : Bool := decide (l.port.toNat < 8) || (l.port.toNat = 8 && (hubOf l.site.toNat).isSome)

/-- R391: LANES ends. -/
def lanesDone (s : State) (d : StepRep) : State :=
  let s := recRead s 2
  let ls := d.lanes.filter laneOk
  let s := ls.foldl laneNote (laneLoad s)
  let new := laneBody s ls
  let s := if ls.all (fun l => l.bad.toNat = 0) ∨ recUse s 2 = some new then s else recPut s 2 new true
  let s := upTo 256 (fun s i => laneShow s (rowsAhead s) i) s
  let s := d.x16.foldl x16Train (upTo 16 (fun s h => s.wr (x16P h) Reg.Xp.LINK_UP 0) s)
  if (List.range 16).any (fun h => s.rd (x16P h) Reg.Xp.X16_ROLE = 1 && s.rd (x16P h) Reg.Xp.LINK_UP = 1) then stepPass s
  else stepFail s 0x51 0

/-- R394: MAP ends. -/
def mapDone (s : State) : State :=
  let s := recRead s 1
  match recUse s 1 with
  | none => stepFail s (if recPick s 1 = 2 then 0x61 else 0x62) 0
  | some b =>
    let c := mapCode s b
    if c ≠ 0 then stepFail s c 0 else stepPass (mapRun s b)

/-- R289: POWER_SITES ends. -/
def powerDone (s : State) : State := stepPass ((gridSites (recRead s 3)).foldl logicUp { (recRead s 3) with shutdown := false })

/-- R271: CLOCK_MESH sets MARK_COMP. -/
def meshDone (s : State) (comp : List (BitVec 8 × BitVec 24)) : State :=
  let s := comp.foldl (fun s c => s.wr (sclkP c.1.toNat) Reg.Ck.MARK_COMP c.2.toNat) s
  stepPass (upTo 256 (fun s i => if (hubOf i).isSome ∧ (s.site i).region = 16 then s.wr (sclkP i) Reg.Ck.ANCHOR 1 else s) s)

/-- R388: MEMORY ends. -/
def memDone (s : State) : State :=
  stepPass ((gridSites s).foldl (fun s i =>
    let s := upTo 8 (fun s n => (s.wr (coreP ⟨i, n⟩) Reg.Co.CLEARING 0).wr (coreP ⟨i, n⟩) Reg.Co.CLEAR_DONE 1) s
    let s := (s.wr (cisP i) Reg.Ci.CLEARING 0).wr (cisP i) Reg.Ci.CLEAR_DONE 1
    (s.wr (wellP i) Reg.We.CLEARING 0).wr (wellP i) Reg.We.CLEAR_DONE 1) s)

/-- R400, R320: publishes the effective entitlement with its complements. -/
def setEff (s : State) (e : Nat × Nat × Nat × Nat × Nat) : State :=
  let v := e.1 + e.2.1 * 2 ^ 5 + e.2.2.1 * 2 ^ 8 + e.2.2.2.2 * 2 ^ 12
  let s := (((s.wr licP Reg.Li.EFF_REGIONS e.1).wr licP Reg.Li.EFF_HOST e.2.1).wr licP Reg.Li.EFF_DEEP e.2.2.1).wr licP Reg.Li.EFF_FEATURES e.2.2.2.2
  ((s.wr licP Reg.Li.EFF_COMPL (0xFFFF - v)).wr licP Reg.Li.EFF_FABRIC e.2.2.2.1).wr licP Reg.Li.FAB_COMPL (0xFFFF - e.2.2.2.1)

/-- R398: whether an evaluation reduces an entitlement. -/
def effReduced (s : State) (e : Nat × Nat × Nat × Nat × Nat) : Bool :=
  decide (e.1 < s.rd licP Reg.Li.EFF_REGIONS) || decide (e.2.1 < s.rd licP Reg.Li.EFF_HOST) || decide (e.2.2.1 < s.rd licP Reg.Li.EFF_DEEP) ||
    decide (e.2.2.2.1 < s.rd licP Reg.Li.EFF_FABRIC) || (s.rd licP Reg.Li.EFF_FEATURES &&& e.2.2.2.2) != s.rd licP Reg.Li.EFF_FEATURES

/-- R397: HOST ports in the order in which they are kept. -/
def hostOrder (s : State) : List Nat :=
  let hosts := (List.range 16).filter (fun h => s.rd (x16P h) Reg.Xp.X16_ROLE = 1)
  let via := hosts.filter (fun h => s.bring.via = some h)
  let rest := hosts.filter (fun h => s.bring.via != some h)
  let up := fun (h : Nat) => s.rd (x16P h) Reg.Xp.LINK_UP = 1
  via ++ rest.filter (fun h => up h) ++ rest.filter (fun h => !(up h))

/-- R397: x16 ports beyond their count are held with the link down. -/
def holdX16 (s : State) (hs : List Nat) : State :=
  hs.foldl (fun s h => heldPort { (s.wr (x16P h) Reg.Xp.LINK_UP 0) with heldX16 := keyAdd s.heldX16 h }) s

/-- R397, R398: LICENCE ends. -/
def licenceDone (s : State) : State :=
  if s.rd timeP Reg.Ti.TIME_VALID = 0 then stepFail s 0xA2 0
  else
    let s := recRead s 4
    if recPick s 4 = 3 then stepFail s 0xA1 0
    else
      let e := entitlement s
      let s := if effReduced s e then panelEvent (s.setBit licP Reg.Li.REDUCED) 0x0C 1 licP Reg.Li.regs 1 else s
      let s := upTo 16 showCap (showLics (setEff s e))
      let s := holdX16 s ((hostOrder s).drop e.2.1)
      stepPass (holdX16 s (((List.range 16).filter (fun h => s.rd (x16P h) Reg.Xp.X16_ROLE = 2)).drop e.2.2.1))

/-- R388: FABRIC completes once ID_VALID is set and every hub has swapped a checked table. -/
def fabricDone (s : State) : State :=
  if s.rd idP Reg.Id.ID_VALID = 1 ∧ s.bring.swapped.length = 16 then stepPass s else s

/-- R388: READY ends. -/
def readyDone (s : State) : State :=
  if s.rd bringP Reg.Br.DONE_MASK % 2 ^ 11 = 2 ^ 11 - 1 ∧ s.rd mapP Reg.Ma.MAP_CLASS ≠ 3 ∧ s.rd prelP Reg.Pr.PANEL_ERR = 0 then
    stepPass { s with outOfService := false }
  else stepFail s 0xC1 0

/-- R388: the sites of the waves before the one that fails have come up. -/
def powerPart (s : State) (d : StepRep) : State :=
  let bad := d.bad.map (·.toNat)
  let wave := ((gridSites s).zipIdx.filter (fun e => bad.contains e.1)).foldl (fun m e => min m (e.2 / 16)) 16
  ((gridSites s).take (16 * wave)).foldl logicUp s

/-- R388, R407: the hardware reports a failure of the running step. -/
def stepBroken (s : State) (n : Nat) (d : StepRep) (k unit : Nat) : State :=
  let s := if n = 7 then pwrErr (powerPart s d) 11 else s
  stepFail s (16 * n + k) unit

/-- R388: STEP_DONE. -/
def stepDone (s : State) (d : StepRep) : State :=
  let n := s.rd bringP Reg.Br.CUR_STEP
  if s.rd bringP Reg.Br.STATE ≠ 1 then s
  else
    let bad := d.bad.map (·.toNat)
    let s := if n = 3 ∨ (7 ≤ n ∧ n ≤ 9) then bad.foldl enterFailed s else s
    let s := if 7 ≤ n ∧ n ≤ 9 then bad.foldl (fun s i => siteFail s i false) s else s
    let s := if n = 3 ∨ n = 5 then { s with mute := d.mute.foldl (fun t i => keyAdd t i.toNat) (if n = 3 then [] else s.mute) } else s
    match d.fail with
    | some f => stepBroken s n d f.1.toNat f.2.toNat
    | none =>
      if 7 ≤ n ∧ n ≤ 9 ∧ bad ≠ [] then stepBroken s n d 1 (bad.headD 0)
      else match n with
        | 1 => baseDone s
        | 2 => stepPass ((s.wr timeP Reg.Ti.ROOT_LOCKED 1).wr timeP Reg.Ti.REF_OK 1)
        | 3 => discoverDone s
        | 4 => fenceDone s d.dies
        | 5 => lanesDone s d
        | 6 => mapDone s
        | 7 => powerDone s
        | 8 => meshDone s d.comp
        | 9 => memDone s
        | 10 => licenceDone s
        | 11 => fabricDone s
        | _ => readyDone s

/-- R388: STEP_TIMEOUT: code 16 n. -/
def stepTimeout (s : State) : State :=
  if s.rd bringP Reg.Br.STATE = 1 then stepFail s (16 * s.rd bringP Reg.Br.CUR_STEP) 0 else s

/-- R437, R386: the always-on stage starts, and step 1 runs by itself. -/
def powerOn (s : State) : State := if s.alwaysOn then s else stepGo { s with alwaysOn := true } 1

/-- R410: the always-on stage is lost: only flash and the one-time-programmable floor remain, and that the slot which ran was
on trial (R427). -/
def stageLoss (s : State) : State :=
  { State.reset with
    regs := tabInsert (tabInsert State.reset.regs (fldKey pmP Reg.Pm.SVN_FLOOR) (s.rd pmP Reg.Pm.SVN_FLOOR)) (fldKey pmP Reg.Pm.FW_STATE)
      (if s.rd pmP Reg.Pm.FW_STATE = 4 then 4 else 0)
    pending := s.pending, flash := s.flash, fwA := s.fwA, fwB := s.fwB, logFlash := s.logFlash, out := s.out, drawn := s.drawn }

/-- R289: DOMAIN_TIMEOUT: the domain of a unit is not up; the running step fails. -/
def domainTimeout (s : State) (u : PowerUnit) (d : Nat) : State :=
  let s := pwrErr s 11
  let i := match u with
    | .site i => i
    | .hub h => h
  let s := match u with
    | .site i =>
      let on := s.rd (spowP i) Reg.Sp.DOM_EN
      let s := s.wr (spowP i) Reg.Sp.DOM_EN (on - bits on d 1 * 2 ^ d)
      if stepRuns s 7 then siteFail (enterFailed s i) i (d = 2) else enterFailed s i
    | .hub h =>
      let on := s.hubOn h
      s.setHubDom h (on - bits on d 1 * 2 ^ d)
  let n := s.rd bringP Reg.Br.CUR_STEP
  if s.rd bringP Reg.Br.STATE ≠ 1 then s
  else match u with
    | .site _ => if n = 7 then stepFail s 0x71 i else s
    | .hub _ => if n = 3 then stepFail s 0x31 i else if n = 4 ∧ d = 3 then stepFail s 0x41 i else s

/-! ### Meanings -/

/-- A request of step `n` as a host write. -/
def stepAct (s : State) (n : Nat) (via : Option Nat) : State := hostAct s bringP 0x40 (stepWrite s n via)

/-- R437: POWER_ON. -/
def execPowerOn (s : State) : Host.Outcome State Fault Refusal := .next (powerOn s)

/-- R410: ALWAYS_ON_STAGE_LOSS. -/
def execAlwaysOnStageLoss (s : State) : Host.Outcome State Fault Refusal := .next (stageLoss s)

/-- R289: DOMAIN_TIMEOUT. -/
def execDomainTimeout (u : PowerUnit) (d : Nat) (s : State) : Host.Outcome State Fault Refusal := onUnit (unitOk u d) (domainTimeout s u d)

/-- R388: POWER_BASE. -/
def execPowerBase (s : State) : Host.Outcome State Fault Refusal := .next (stepAct s 1 none)

/-- R388: CLOCK_ROOT. -/
def execClockRoot (s : State) : Host.Outcome State Fault Refusal := .next (stepAct s 2 none)

/-- R388: DISCOVER. -/
def execDiscover (s : State) : Host.Outcome State Fault Refusal := .next (stepAct s 3 none)

/-- R388: FENCE. -/
def execFence (s : State) : Host.Outcome State Fault Refusal := .next (stepAct s 4 none)

/-- R391: LANES. -/
def execLanes (s : State) : Host.Outcome State Fault Refusal := .next (stepAct s 5 none)

/-- R394: MAP. -/
def execMap (s : State) : Host.Outcome State Fault Refusal := .next (stepAct s 6 none)

/-- R289: POWER_SITES. -/
def execPowerSites (s : State) : Host.Outcome State Fault Refusal := .next (stepAct s 7 none)

/-- R388: CLOCK_MESH. -/
def execClockMesh (s : State) : Host.Outcome State Fault Refusal := .next (stepAct s 8 none)

/-- R388: MEMORY. -/
def execMemory (s : State) : Host.Outcome State Fault Refusal := .next (stepAct s 9 none)

/-- R397: LICENCE. -/
def execLicence (via : Option (BitVec 4)) (s : State) : Host.Outcome State Fault Refusal := .next (stepAct s 10 (via.map (·.toNat)))

/-- R388: FABRIC. -/
def execFabric (s : State) : Host.Outcome State Fault Refusal := .next (stepAct s 11 none)

/-- R388: READY. -/
def execReady (s : State) : Host.Outcome State Fault Refusal := .next (stepAct s 12 none)

/-- R388: STEP_TIMEOUT. -/
def execStepTimeout (s : State) : Host.Outcome State Fault Refusal := .next (stepTimeout s)

/-- R388: STEP_DONE. -/
def execStepDone (d : StepRep) (s : State) : Host.Outcome State Fault Refusal := .next (stepDone s d)

end Sys2Proof.Machine
end

