-- ==== Sys2Proof/Machine/Service.lean ====
section
/-! DEFINITION. The Postmaster's services: licences (R398, R399), panel time (R410 to R413), the event log's copy (R414), interval
timers' clear (R421), firmware slots (R422 to R427), and configuration records (R428). -/

namespace Sys2Proof.Machine

/-! ### Licences (R398, R399) -/

/-- R399: the staged licence. -/
def stagedLic (s : State) : Nat := (List.range 40).foldl (fun a w => a + s.rd licP (Reg.Li.STAGE w) * 2 ^ (32 * w)) 0

/-- R399: the licence set with slot `k` holding `l`. -/
def licBody (s : State) (k l : Nat) : List Nat :=
  (List.range 8).flatMap (fun j => (List.range 40).map (fun w => bits (if j = k then l else licSlot s j) (32 * w) 32))

/-- R399: INSTALL_RESULT of a staged licence, 1 when it is installed, and the slot it takes. -/
def installCode (s : State) (l : Nat) : Nat × Nat :=
  let set := (licSet s).filter (· != 0)
  let st := licState s set l
  let old := (List.range 8).find? (fun k => licSlot s k != 0 && licId (licSlot s k) = licId l)
  let free := (List.range 8).find? (fun k => licSlot s k = 0)
  if st = 5 then (2, 0)
  else if st = 6 then (3, 0)
  else if st = 7 then (4, 0)
  else if st = 4 then (6, 0)
  else if st = 3 then (5, 0)
  else if set.any (fun o => licId o = licId l && licSeq o = licSeq l) then (7, 0)
  else match old, free with
    | some k, _ => (1, k)
    | none, some k => (1, k)
    | none, none => (8, 0)

/-- R400: a write of LIC_CTL is not taken while LICENCE runs. -/
def licClosed (s : State) : Bool := stepRuns s 10 || s.rd licP Reg.Li.BUSY = 1

/-- R399: INSTALL; when the record cannot be written, the result that is shown is a free value. -/
def install (s : State) (ok : Bool) : Option State :=
  if licClosed s then none
  else
    let l := stagedLic s
    let c := installCode s l
    if c.1 ≠ 1 then some (s.wr licP Reg.Li.INSTALL_RESULT c.1)
    else
      let s := recPut s 4 (licBody s c.2 l) ok
      let (v, s) := s.draw 4
      some (showLics ((s.wr licP Reg.Li.INSTALL_RESULT (if ok then 1 else v.toNat)).wr licP Reg.Li.LAST_SLOT c.2))

/-- R399: REMOVE. -/
def licRemove (s : State) (k : Nat) (ok : Bool) : Option State :=
  if licClosed s then none else some (showLics (recPut (s.wr licP Reg.Li.SLOT k) 4 (licBody s k 0) ok))

/-- R398: the dates of slot `k`. -/
def dateCheck (s : State) (k : Nat) : State :=
  let l := licSlot s k
  if l = 0 ∨ licBad l ∨ licUntil l = 0 ∨ s.time < licUntil l ∨ keyHas s.expired l then s
  else panelEvent ({ s with expired := keyAdd s.expired l }.setBit licP Reg.Li.EXPIRED) 0x0C 1 licP Reg.Li.regs 0

/-- R398: LICENCE_DATE_CHECK. -/
def licDates (s : State) : State := if serves s then showLics (upTo 8 dateCheck s) else s

/-! ### Panel time (R410 to R413) -/

/-- R411: CAL_RANGE. -/
def showRange (s : State) : State := s.wr timeP Reg.Ti.CAL_RANGE (if calEnd ≤ s.time then 1 else 0)

/-- R412: a taken set of panel time to `t` ns; the record holds the times before and after. -/
def setTime (s : State) (t : Nat) : State :=
  let was := s.time
  let s := showRange { s with tenths := 10 * t }
  let s := ((s.wr timeP Reg.Ti.TIME_VALID 1).wr timeP Reg.Ti.SET_BY 0).bump timeP Reg.Ti.TIME_SET_CNT 1
  logAdd s (logTag 4 16) (sealRec [(0, 8, s.time), (8, 2, 0x0B), (20, 4, 1), (26, 8, was), (34, 8, t)])

/-- R412: SET_GO. -/
def setGo (s : State) : State :=
  let t := s.rd timeP Reg.Ti.SET_LO + s.rd timeP Reg.Ti.SET_HI * 2 ^ 32
  if calEnd ≤ t then badValue (s.setBit timeP Reg.Ti.SET_REFUSED) timeP 0x50 else setTime s t

/-- R413: the calendar fields. -/
def calFields (s : State) : Cal6 :=
  { year := s.rd timeP Reg.Ti.YEAR, month := s.rd timeP Reg.Ti.MONTH, day := s.rd timeP Reg.Ti.DAY
    hour := s.rd timeP Reg.Ti.HOUR, minute := s.rd timeP Reg.Ti.MINUTE, second := s.rd timeP Reg.Ti.SECOND }

/-- R412: CAL_GO. -/
def calGo (s : State) : State :=
  if calOk (calFields s) then setTime s (calTime (calFields s)) else badValue (s.setBit timeP Reg.Ti.DATE_INVALID) timeP 0x50

/-! ### The event log (R414, R417) -/

/-- R414: LOG_FLASH_COPY: `n` records move on to the flash ring; a failing write leaves them in RAM. -/
def logCopy (s : State) (n : Nat) (fail : Bool) : State :=
  if !(serves s) then s
  else if fail then s.setBit logP Reg.Lo.FLASH_FAIL
  else
    let k := min n (logWaiting s)
    let at0 := s.rd logP Reg.Lo.LOG_FLASHED_SEQ
    let mine := s.logRam.filter (fun r => decide (serialGap r.seq at0 < k))
    let all := s.logFlash ++ mine
    let excess := all.length - 1048576
    let s := { s with logFlash := all.drop excess }
    let s := s.wr logP Reg.Lo.LOG_FLASHED_SEQ (at0 + k)
    let s := if excess = 0 then s else s.setBit logP Reg.Lo.WRAPPED
    match (all.drop excess).head? with
    | some r => s.wr logP Reg.Lo.LOG_OLDEST_SEQ r.seq
    | none => s

/-! ### Interval timers (R421) -/

/-- R421: CLR. -/
def timerClear (s : State) (c : CoreId) (t : Nat) : State :=
  let p := timP c.site
  let g := fun (f : Fld) => tmFld f c.n t
  let s := s.wrAll p 0 [g (Reg.Tm.ENABLE 0), g (Reg.Tm.START_SRC 0), g (Reg.Tm.STOP_SRC 0), g (Reg.Tm.LAST_COINCIDENT 0), g (Reg.Tm.LAST_CC 0),
    g (Reg.Tm.LAST_NS 0), g (Reg.Tm.COUNT 0), g (Reg.Tm.MAX_CC 0), g (Reg.Tm.ORPHAN_CNT 0), g (Reg.Tm.DOUBLE_CNT 0)]
  timerRun (s.wr p (g (Reg.Tm.MIN_CC 0)) 0xFFFFFFFF) c t false 0 0

/-! ### Firmware (R422 to R427) -/

/-- The slot that is not running. -/
def otherSlot (s : State) : Nat := 1 - s.rd pmP Reg.Pm.RUN_SLOT

/-- R424: how a staging ends. -/
def stageEnd (s : State) (code : Nat) : State :=
  let s := (s.wr pmP Reg.Pm.STAGE_RESULT code).wr pmP Reg.Pm.FW_STATE (if code = 1 then 3 else 0)
  panelEvent (if code = 1 then s else s.setBit pmP Reg.Pm.STAGE_FAIL) 0x1A (if code = 1 then 0 else 1) pmP Reg.Pm.regs 1

/-- R424: FETCH. -/
def fetch (s : State) : Option State :=
  let st := s.rd pmP Reg.Pm.FW_STATE
  let h := s.rd pmP Reg.Pm.FW_SRC_HI / 2 ^ 28
  let a := s.rd pmP Reg.Pm.FW_SRC_LO + s.rd pmP Reg.Pm.FW_SRC_HI % 2 ^ 28 * 2 ^ 32
  if st = 1 ∨ st = 2 ∨ st = 4 then none
  else if s.rd (x16P h) Reg.Xp.X16_ROLE ≠ 1 then some (stageEnd s 2)
  else if 0x1000000 < s.rd pmP Reg.Pm.FW_LEN then some (stageEnd s 6)
  else
    let s := (s.setFw (otherSlot s) {}).wr pmP Reg.Pm.FW_STATE 1
    some ((s.wr pmP Reg.Pm.STAGE_RESULT 0).emit (.hostRead h 0 a (s.rd pmP Reg.Pm.FW_LEN) 0))

/-- R424: STAGE_RESULT of a fetched image. -/
def stageCode (s : State) (m : FwImage) (hostErr flashErr : Bool) : Nat :=
  if hostErr then 2
  else if flashErr then 7
  else if m.magic ≠ 0x57464D50 ∨ m.fmtVer ≠ 1 ∨ 1 < m.keyId.toNat ∨ m.rsv ∨ !m.crcOk ∨ m.length.toNat + 164 ≠ s.rd pmP Reg.Pm.FW_LEN then 3
  else if !m.sigOk then 4
  else if m.svn.toNat < s.rd pmP Reg.Pm.SVN_FLOOR then 5
  else 1

/-- R424: FW_STAGE_DONE. -/
def stageDone (s : State) (m : FwImage) (hostErr flashErr : Bool) : State :=
  if s.rd pmP Reg.Pm.FW_STATE ≠ 1 ∨ !(serves s) then s
  else
    let c := stageCode s m hostErr flashErr
    let s := if c = 2 ∨ c = 7 then s else s.setFw (otherSlot s) { img := some m, verified := c = 1 }
    stageEnd s c

/-- R429: versions in use: interface, in the order of that table, and version. -/
def versInUse (s : State) : List (Nat × Nat) :=
  let ports := (List.range 16).flatMap (fun h => (List.range 5).filterMap (fun p =>
    if hasPort h p && portUp s h p then some (0, s.rd (portP h p) Reg.Fa.VER) else none))
  let groups := (List.range 16).flatMap (fun h => (List.range 16).filterMap (fun g =>
    if s.rd (collP h) (Reg.Cl.ENABLE g) = 1 then some (1, s.rd (collP h) (Reg.Cl.COLL_VER g)) else none))
  let imgs := if (List.range 16).any (fun r => regionState s r != 0) then [(2, 1), (3, 1)] else []
  let recs := if (List.range 4).any (fun t => decide (recPick s (t + 1) ≠ 2)) then [(4, recFmt)] else []
  ports ++ groups ++ imgs ++ recs ++ (if (licSet s).any (· != 0) then [(5, 1)] else [])

/-- R425: the first cause that bars a restart: ACT_RESULT and the BUSY_CAUSE bit. -/
def actCause (s : State) (ready : Bool) : Option (Nat × Nat) :=
  let rs := List.range 16
  let rm := s.rd mapP Reg.Ma.RM_STATE
  let tw := twinState s
  let img := (s.fw (otherSlot s)).img
  if !ready then some (2, 0)
  else if s.rd bringP Reg.Br.STATE = 1 then some (3, 1)
  else if rs.any (fun r => (List.range 4).any (fun k => slotState s r k = 1)) then some (3, 2)
  else if rs.any (fun r => regionState s r = 1 || s.rd drainP (Reg.Dr.DRAINING r) = 1) then some (3, 4)
  else if rm = 1 ∨ rm = 3 then some (3, 8)
  else if s.rd licP Reg.Li.BUSY = 1 ∨ s.rd pmP Reg.Pm.REC_BUSY = 1 then some (3, 16)
  else if tw = 1 ∨ tw = 3 ∨ tw = 4 ∨ tw = 6 then some (3, 32)
  else if (versInUse s).any (fun v => match img with
      | some m => let q := m.ranges.getD v.1 (0, 0); decide (v.2 < q.1) || decide (q.2 < v.2)
      | none => true) then some (4, 0)
  else none

/-- R425, R426: a restart on the other slot, or its refusal. -/
def restartGo (s : State) (ready : Bool) (kind : Nat) : State :=
  match actCause s ready with
  | some c =>
    let s := ((s.wr pmP Reg.Pm.ACT_RESULT c.1).wr pmP Reg.Pm.BUSY_CAUSE c.2).setBit pmP Reg.Pm.ACT_REFUSED
    badValue s pmP 0x58
  | none =>
    let s := (s.wr pmP Reg.Pm.ACT_RESULT 1).wr pmP Reg.Pm.BUSY_CAUSE 0
    let s := panelEvent s 0x1B 0 pmP Reg.Pm.regs
    { (s.wr pmP Reg.Pm.ALIVE 0) with restart := some { slot := otherSlot s, back := s.rd pmP Reg.Pm.RUN_SLOT, kind := kind } }

/-- R425: ACTIVATE. -/
def activate (s : State) : State := restartGo s (s.rd pmP Reg.Pm.FW_STATE = 3) 0

/-- R425: REVERT. -/
def revert (s : State) : State :=
  restartGo s (fwBootable (s.fw (otherSlot s)) (s.rd pmP Reg.Pm.SVN_FLOOR)) (if s.rd pmP Reg.Pm.FW_STATE = 4 then 3 else 1)

/-- R426: FW_ALIVE. -/
def fwAlive (s : State) : State :=
  match s.restart with
  | none => s
  | some r =>
    let s := upTo 16 showCap (boot { s with restart := none } r.slot)
    let s := s.wr pmP Reg.Pm.FW_STATE (if r.kind = 0 then 4 else 0)
    let s := if r.kind ≤ 1 then s else s.setBit pmP Reg.Pm.REVERTED
    if r.kind = 0 then s else panelEvent s 0x1C 1 pmP Reg.Pm.regs 0

/-- R426: FW_BOOT_TIMEOUT: the new slot has failed its trial; the previous slot boots. -/
def fwBootTimeout (s : State) : State :=
  match s.restart with
  | none => s
  | some r =>
    if r.kind = 2 then s
    else { s.setFw r.slot { (s.fw r.slot) with trialFailed := true } with restart := some { r with slot := r.back, kind := 2 } }

/-- R427: CONFIRM. -/
def confirm (s : State) : Option State :=
  if s.rd pmP Reg.Pm.FW_STATE ≠ 4 then none
  else
    let k := s.rd pmP Reg.Pm.RUN_SLOT
    let f := s.fw k
    let svn := (f.img.map (fun m => m.svn.toNat)).getD 0
    let s := s.setFw k { f with confirmed := true }
    some ((s.wr pmP Reg.Pm.SVN_FLOOR (max svn (s.rd pmP Reg.Pm.SVN_FLOOR))).wr pmP Reg.Pm.FW_STATE 0)

/-- R427: DISCARD. -/
def fwDiscard (s : State) : Option State :=
  if s.rd pmP Reg.Pm.FW_STATE ≠ 3 then none
  else
    let k := otherSlot s
    some ((s.setFw k { (s.fw k) with verified := false }).wr pmP Reg.Pm.FW_STATE 0)

/-! ### Records (R428) -/

/-- R428: the body that the host has written. -/
def stagedBody (s : State) (len : Nat) : List Nat := (List.range (len / 4)).map (fun w => s.rd pmP (Reg.Pm.REC_BODY w))

/-- R393, R428: a lane roles body that is refused. -/
def laneBodyBad (b : List Nat) : Bool :=
  (List.range 256).any (fun i =>
    (List.range 9).any (fun k => bits (bodyByte b (128 * i + 12 * k + 8)) 4 4 != 0 || bodyNum b (128 * i + 12 * k + 9) 3 != 0) ||
      bodyNum b (128 * i + 108) 20 != 0)

/-- R393, R428: a calibration body that is refused. -/
def calBodyBad (b : List Nat) : Bool :=
  (List.range 256).any (fun i =>
    let g := fun (k n : Nat) => bodyNum b (64 * i + k) n
    (List.range 4).any (fun f => decide (g (12 * f) 2 < 220) || decide (360 < g (12 * f) 2) || decide (1 < g (12 * f + 4) 1) ||
      g (12 * f + 5) 1 != 0 || g (12 * f + 10) 2 != 0) || decide (3 < g 52 1) || g 53 11 != 0)

/-- R428: REC_RESULT of a record write. -/
def recCode (s : State) (t len : Nat) (ok : Bool) : Nat :=
  if t = 1 ∨ t = 4 then 2
  else if len ≠ (if t = 2 then 32768 else 16384) then 3
  else if (if t = 2 then laneBodyBad else calBodyBad) (stagedBody s len) then 4
  else if !ok then 5
  else 1

/-- R428: REC_WRITE. -/
def recWrite (s : State) (ok : Bool) : State :=
  let t := s.rd pmP Reg.Pm.REC_TYPE
  let len := s.rd pmP Reg.Pm.REC_LEN
  let c := recCode s t len ok
  let s := s.wr pmP Reg.Pm.REC_RESULT c
  if c = 1 ∨ c = 5 then recPut s t (stagedBody s len) ok else s

/-! ### Meanings -/

/-- R399: INSTALL. -/
def execInstall (ok : Bool) (s : State) : Host.Outcome State Fault Refusal := .next (hostAct s licP 0x4C (install s ok))

/-- R399: REMOVE. -/
def execRemove (slot : BitVec 3) (ok : Bool) (s : State) : Host.Outcome State Fault Refusal :=
  .next (hostAct s licP 0x4C (licRemove s slot.toNat ok))

/-- R398: LICENCE_DATE_CHECK. -/
def execLicenceDateCheck (s : State) : Host.Outcome State Fault Refusal := .next (licDates s)

/-- R412: SET_GO. -/
def execSetGo (s : State) : Host.Outcome State Fault Refusal := .next (hostPath s timeP 0x50 (setGo s))

/-- R412: CAL_GO. -/
def execCalGo (s : State) : Host.Outcome State Fault Refusal := .next (hostPath s timeP 0x50 (calGo s))

/-- R414: LOG_FLASH_COPY. -/
def execLogFlashCopy (n : Nat) (fail : Bool) (s : State) : Host.Outcome State Fault Refusal := .next (logCopy s n fail)

/-- R421: TIMER_CLR. -/
def execTimerClr (i n t : Nat) (s : State) : Host.Outcome State Fault Refusal :=
  onUnit (coreOk ⟨i, n⟩ && decide (t < 16)) (hostAct s (timP i) 0x14 (some (timerClear s ⟨i, n⟩ t)))

/-- R424: FETCH. -/
def execFetch (s : State) : Host.Outcome State Fault Refusal := .next (hostAct s pmP 0x58 (fetch s))

/-- R424: FW_STAGE_DONE. -/
def execFwStageDone (m : FwImage) (hostErr flashErr : Bool) (s : State) : Host.Outcome State Fault Refusal :=
  .next (stageDone s m hostErr flashErr)

/-- R425: ACTIVATE. -/
def execActivate (s : State) : Host.Outcome State Fault Refusal := .next (hostPath s pmP 0x58 (activate s))

/-- R426: FW_BOOT_TIMEOUT. -/
def execFwBootTimeout (s : State) : Host.Outcome State Fault Refusal := .next (fwBootTimeout s)

/-- R426: FW_ALIVE. -/
def execFwAlive (s : State) : Host.Outcome State Fault Refusal := .next (fwAlive s)

/-- R427: CONFIRM. -/
def execConfirm (s : State) : Host.Outcome State Fault Refusal := .next (hostAct s pmP 0x58 (confirm s))

/-- R425: REVERT. -/
def execRevert (s : State) : Host.Outcome State Fault Refusal := .next (hostPath s pmP 0x58 (revert s))

/-- R427: FW_DISCARD. -/
def execFwDiscard (s : State) : Host.Outcome State Fault Refusal := .next (hostAct s pmP 0x58 (fwDiscard s))

/-- R428: REC_WRITE. -/
def execRecWrite (ok : Bool) (s : State) : Host.Outcome State Fault Refusal := .next (hostPath s pmP 0x70 (recWrite s ok))

end Sys2Proof.Machine
end

