-- ==== Sys2Proof/Machine/Remap.lean ====
section
/-! DEFINITION. Remap (R401 to R405): proposals, their commit, and the choice of a map. -/

namespace Sys2Proof.Machine

/-! ### The choice of a map (R404) -/

/-- Positions of a row that may not carry a column. -/
def badPositions (s : State) (y : Nat) : List Nat :=
  (List.range 16).filter (fun x =>
    let i := 16 * y + x
    inFailed s i || (s.site i).failed || bits (s.rd mapP (Reg.Ma.RETIRED y)) x 1 = 1 || !(repeats s i))

/-- Sets of `k` positions, smallest first. -/
def posSets (k : Nat) : List (List Nat) :=
  if k = 1 then (List.range 16).map (fun x => [x])
  else (List.range 16).flatMap (fun a => ((List.range 16).filter (fun b => decide (a < b))).map (fun b => [a, b]))

/-- R404: the candidates of row `y`. -/
def rowCands (s : State) (k y : Nat) : List (List Nat) :=
  (posSets k).filter (fun c => (badPositions s y).all (fun x => c.contains x) && c.all (fun x => repeats s (16 * y + x)))

/-- R404: a row's choice with the best way on from it: the diagonal-half hops, and the choices of the rows below. -/
abbrev Tail := List Nat × Nat × List (List Nat)

/-- The first of the least. -/
def leastTail (l : List Tail) : Option Tail :=
  l.foldl (fun b t => match b with
    | none => some t
    | some u => if t.2.1 < u.2.1 then some t else some u) none

/-- The best way on from choice `c`, given the best ways on from the choices of the row below. -/
def tailFrom (n : Nat) (below : List Tail) (c : List Nat) : Option Tail :=
  let a := rowWord 0 c
  leastTail (below.filterMap (fun t =>
    if rowsMeet n a (rowWord 0 t.1) then some (c, t.2.1 + rowsCost n a (rowWord 0 t.1), c :: t.2.2) else none))

/-- R404: the best choice for all rows that begins with `c0` in row 0. -/
def mapFrom (s : State) (k : Nat) (c0 : List Nat) : Option Tail :=
  let n := 16 - k
  let last := (rowCands s k 15).filterMap (fun c =>
    if rowsMeet n (rowWord 0 c) (rowWord 0 c0) then some (c, rowsCost n (rowWord 0 c) (rowWord 0 c0), [c]) else none)
  let down := upTo 14 (fun (below : List Tail) d => (rowCands s k (14 - d)).filterMap (tailFrom n below)) last
  tailFrom n down c0

/-- R404: the best choice of `k` out-of-grid positions a row. -/
def bestMap (s : State) (k : Nat) : Option (List (List Nat)) :=
  (leastTail ((rowCands s k 0).filterMap (mapFrom s k))).map (fun t => t.2.2)

/-- R404: choose_map. -/
def chooseMap (s : State) : Option (List (List Nat)) :=
  if s.rd idP Reg.Id.PART = 2 then bestMap s 2
  else match bestMap s 1 with
    | some m => some m
    | none => bestMap s 2

/-! ### Proposals (R401, R402) -/

/-- R401: the proposed row words. -/
def propRows (s : State) : List Nat := (List.range 16).map (fun y => s.rd mapP (Reg.Ma.PROP_ROW y))

/-- R24: regions that contain a site of row `y`. -/
def rowRegions (s : State) (y : Nat) : List Nat :=
  (List.range 16).filter (fun r => (List.range 16).any (fun x => (s.site (16 * y + x)).region = r))

/-- Physical site of logical site `j` under row words `rows` of `n` columns. -/
def siteUnder (rows : List Nat) (n j : Nat) : Nat := 16 * (j / n) + rowCol (rows.getD (j / n) 0) (j % n)

/-- Sites of region `r` under row words `rows`. -/
def regionUnder (s : State) (rows : List Nat) (r : Nat) : List Nat :=
  let q := rectOf (s.rd regionP (Reg.Rg.RECT r))
  ((List.range (16 * gridW s)).filter (inRect s q)).map (siteUnder rows (gridW s))

/-- R332: a failed site that is withdrawn as a spare site. -/
def heldSpare (s : State) (i : Nat) : Bool :=
  let b := fun (f : Fld) => s.rd (spowP i) f = 1
  (b Reg.Sp.WAKE_FAIL || b Reg.Sp.WAKE_RELOAD) &&
    !(b Reg.Sp.OC_LOGIC || b Reg.Sp.OC_OTHER || b Reg.Sp.SHORT || b Reg.Sp.OV || b Reg.Sp.THERM_TRIP)

/-- R15: position `x` of row `y` is a spare site that can enter the grid. -/
def usable (s : State) (y x : Nat) : Bool :=
  s.rd (commonP (16 * y + x)) Reg.Sc.ROLE = 1 && !((s.site (16 * y + x)).failed) && repeats s (16 * y + x)

/-- R402: the row words that take site `i` out of the grid, with the position that enters it. -/
def swapRow (s : State) (rows : List Nat) (i : Nat) : Option (List Nat × Nat) :=
  let y := i / 16
  let w := rows.getD y 0
  let ret := if heldSpare s i then rowRetired w else rowRetired w ||| 2 ^ (i % 16)
  ((rowOut w).filter (usable s y)).findSome? (fun x =>
    let out := ((rowOut w).filter (fun z => z != x))
    let new := if out.all (fun z => decide (z < i % 16)) then out ++ [i % 16] else (i % 16) :: out
    let rs := rows.set y (rowWord ret new)
    if rowsOk rs (gridW s) then some (rs, x) else none)

/-- R401: bits of the positions of row `y` whose logical index changes from `a` to `b`. -/
def movedBits (n a b : Nat) : Nat :=
  (List.range 16).foldl (fun m x => if rowLog a n x = rowLog b n x then m else m + 2 ^ x) 0

/-- R402: publishes a proposal. -/
def propose (s : State) (rows : List Nat) (n inSite regions : Nat) (sites : List Nat) : State :=
  let old := rowsNow s
  let s := upTo 16 (fun s y => (s.wr mapP (Reg.Ma.PROP_ROW y) (rows.getD y 0)).wr mapP (Reg.Ma.MOVED y)
    (if n = gridW s then movedBits n (old.getD y 0) (rows.getD y 0)
     else (List.range 16).foldl (fun m x =>
       if (rowLog (old.getD y 0) (gridW s) x).map (· + y * gridW s) = (rowLog (rows.getD y 0) n x).map (· + y * n) then m else m + 2 ^ x) 0)) s
  let s := ((s.wr mapP Reg.Ma.RM_REGIONS regions).wr mapP Reg.Ma.RM_IN inSite).wr mapP Reg.Ma.RM_CODE 0
  panelEvent { (s.wr mapP Reg.Ma.RM_STATE 2) with remapSites := sites } 0x17 0 mapP Reg.Ma.regs

/-- R402: a refusal. -/
def refuse (s : State) (code : Nat) : State :=
  panelEvent { ((s.wr mapP Reg.Ma.RM_STATE 5).wr mapP Reg.Ma.RM_CODE code) with remapSites := [] } 0x17 1 mapP Reg.Ma.regs

/-- R402: the answer to a GO of kind REGION. -/
def proposeRegion (s : State) : State :=
  let i := s.rd mapP Reg.Ma.SITE
  let rows := if s.remapSites = [] then rowsNow s else propRows s
  if s.rd (commonP i) Reg.Sc.ROLE ≠ 0 then refuse s 4
  else if s.remapSites.any (fun j => j / 16 = i / 16) ∨ !((rowOut (rows.getD (i / 16) 0)).any (usable s (i / 16))) then refuse s 1
  else if !(repeats s i) then refuse s 2
  else match swapRow s rows i with
    | none => refuse s 1
    | some q =>
      let rs := rowRegions s (i / 16)
      if rs.any (fun r => (regionUnder s q.1 r).all (fun k => (hubOf k).isNone)) then refuse s 6
      else
        let m := rs.foldl (fun m r => m ||| 2 ^ r) (if s.remapSites = [] then 0 else s.rd mapP Reg.Ma.RM_REGIONS)
        propose s q.1 (gridW s) (16 * (i / 16) + q.2) m (s.remapSites ++ [i])

/-- R402: the answer to a GO of kind RECOMPUTE. -/
def proposeFull (s : State) : State :=
  match chooseMap s with
  | none => refuse (s.wr mapP Reg.Ma.MAP_CLASS 3) 3
  | some m =>
    let rows := m.zipIdx.map (fun c => rowWord ((badPositions s c.2).foldl (fun a x => a ||| 2 ^ x) 0) c.1)
    let n := 16 - (m.headD []).length
    propose s rows n 0xFF ((List.range 16).foldl (fun a r => if regionState s r = 0 then a else a + 2 ^ r) 0) []

/-- R402: REMAP_GO. -/
def remapGo (s : State) (kind site : Nat) : Option State :=
  let st := s.rd mapP Reg.Ma.RM_STATE
  if st = 1 ∨ st = 3 ∨ (kind ≠ 1 ∧ kind ≠ 2) then none
  else
    let adds := kind = 1 && st = 2 && s.remapSites != []
    let s := { s with remapSites := if adds then s.remapSites else [] }
    let s := ((s.wr mapP Reg.Ma.KIND kind).wr mapP Reg.Ma.SITE site).wr mapP Reg.Ma.RM_STATE 1
    some (s.wr mapP Reg.Ma.RM_CODE 0)

/-- R402: REMAP_PROPOSED. -/
def remapProposed (s : State) : State :=
  if s.rd mapP Reg.Ma.RM_STATE ≠ 1 ∨ !(serves s) then s
  else if s.rd mapP Reg.Ma.KIND = 1 then proposeRegion s else proposeFull s

/-- R401: CANCEL. -/
def remapCancel (s : State) : Option State :=
  if s.rd mapP Reg.Ma.RM_STATE = 3 then none
  else
    let s := upTo 16 (fun s y => (s.wr mapP (Reg.Ma.PROP_ROW y) 0).wr mapP (Reg.Ma.MOVED y) 0) s
    let s := ((s.wr mapP Reg.Ma.RM_STATE 0).wr mapP Reg.Ma.RM_CODE 0).wr mapP Reg.Ma.RM_REGIONS 0
    some { (s.wr mapP Reg.Ma.RM_IN 0xFF) with remapSites := [] }

/-! ### Commit (R403, R405) -/

/-- Affected regions. -/
def remapRegions (s : State) : List Nat := (List.range 16).filter (fun r => bits (s.rd mapP Reg.Ma.RM_REGIONS) r 1 = 1)

/-- Sites that the proposal brings into the grid. -/
def incoming (s : State) : List Nat :=
  (List.range 256).filter (fun i =>
    let w := (rowsNow s).getD (i / 16) 0
    let v := (propRows s).getD (i / 16) 0
    (rowOut w).contains (i % 16) && !((rowOut v).contains (i % 16)))

/-- R402: the first cause that bars a commit. -/
def commitCode (s : State) : Nat :=
  let sites := (remapRegions s).flatMap (regionSites s)
  let region := s.remapSites != []
  let busy := (coresOf sites).any (fun c => s.rd (coreP c) Reg.Co.STATE = 1 || s.rd (coreP c) Reg.Co.STATE = 2)
  if busy then 5
  else if region && (incoming s).any (fun i => s.rd (relP i) Reg.Re.SHADOW_STATE != 3) then 7
  else if region && sites.any (fun i => s.rd (cniP i) Reg.Cn.SHADOW_VALID != 1) then 8
  else if region && (incoming s).any (fun i => !((s.site i).rested)) then 10
  else 0

/-- R403: COMMIT. -/
def commit (s : State) : Option State :=
  if s.rd mapP Reg.Ma.RM_STATE ≠ 2 then none
  else
    let c := commitCode s
    let s := s.wr mapP Reg.Ma.RM_CODE c
    if c ≠ 0 then some s
    else
      let s := s.wr mapP Reg.Ma.RM_STATE 3
      if s.remapSites ≠ [] then
        some ((remapRegions s).foldl (fun s r => ((drainGo s r).getD s)) s)
      else some (upTo 16 (fun s r => if regionState s r = 0 then s else faultNow s r) s)

/-- R403 steps 3 and 4: a site leaves the grid. -/
def remapOut (s : State) (i : Nat) : State :=
  let s := clearWell (quitSite s i) i
  let s := (domOff (domOff (domOff s i 3) i 0) i 1).wr (spowP i) Reg.Sp.SITE_PSTATE 0
  let s := s.wr (commonP i) Reg.Sc.NI_STATE 0
  s.setSite i { (s.site i) with leftAt := some s.up }

/-- R403 steps 3 and 4: a site enters the grid in region `r` and takes its frame from a site of the region. -/
def remapIn (s : State) (r i : Nat) : State :=
  let s := s.wr (relP i) Reg.Re.SHADOW_STATE 0
  let s := upTo 256 (fun s b => if (s.site b).mirTo = i then s.setSite b { (s.site b) with mirTo := 256, digOn := false } else s) s
  match (regionSites s r).head? with
  | none => s
  | some k =>
    let t := s.site k
    let s := setCfg s (s.rd (tniP k) Reg.Tn.FL_CODE + 8 * s.rd (tniP k) Reg.Tn.SL) i
    let s := s.wr (sclkP i) Reg.Ck.FSTATE (s.rd (sclkP k) Reg.Ck.FSTATE)
    let st := s.site i
    calLoad (s.setSite i { st with region := r, join := 16, digOn := false, base := t.base, fc := t.fc, exec := t.exec, trans := t.trans }) i

/-- R403 step 4: a site of an affected region. -/
def remapSite (s : State) (i : Nat) : State :=
  let t := s.rd (tniP i) Reg.Tn.TABLE_ACTIVE
  let s := setHopCount { s with mem := memClear s.mem (hopAddr i t 0) 0x10000 } i t 0
  let s := s.wr (tniP i) Reg.Tn.SHADOW_VALID 0
  nextEpoch (swapRoutes s i) i

/-- R403 step 6: an affected region is in fault, with every sequencer idle. -/
def remapFault (s : State) (r : Nat) : State :=
  let s := (coresOf (regionSites s r)).foldl (fun s c => s.wr (coreP c) Reg.Co.STATE 0) s
  pfSet (s.wr regionP (Reg.Rg.STATE r) 3) intFault

/-- R403 steps 3 to 6. -/
def remapApply (s : State) (lanes : List LanePort) (ok : Bool) : State :=
  let n := gridW s
  let rows := propRows s
  let rs := remapRegions s
  let ins := incoming s
  let old := rs.flatMap (regionSites s)
  let near := fun (i : Nat) => s.remapSites.any (fun j => let d := (i / 16 + 16 - j / 16) % 16; d = 0 || d = 1 || d = 15)
  let s := (lanes.filter laneOk).foldl laneNote s
  let seq := recNext s 1
  let s := showRows s rows
  let s := (ins ++ s.remapSites ++ old.filter near).foldl (fun s i => setEntry s rows n seq i) s
  let s := rs.foldl (fun s r => ((regionUnder s rows r).filter (fun i => ins.contains i)).foldl (fun s i => remapIn s r i) s) s
  let s := s.remapSites.foldl remapOut s
  let s := (rs.flatMap (regionSites s)).foldl remapSite s
  let s := recPut s 1 (mapBody s (mapClass n rows) n rows) ok
  let s := if ok then (showMap s (mapClass n rows) n seq).wr mapP Reg.Ma.RM_SEQ seq else s.wr mapP Reg.Ma.MAP_CLASS (mapClass n rows)
  let s := rs.foldl drainEnd s
  let s := (rs.flatMap (regionSites s)).foldl (fun s i => couple (resumeNi (startNi s i) i) i) s
  let s := rs.foldl remapFault s
  panelEvent { (s.wr mapP Reg.Ma.RM_STATE 4) with remapSites := [] } 0x17 0 mapP Reg.Ma.regs

/-- R405 step 3: the commit of a full remap. -/
def remapFull (s : State) (ok : Bool) : State :=
  let rows := propRows s
  let n := if rowTwo (rows.getD 0 0) then 14 else 15
  let seq := recNext s 1
  let s := recPut s 1 (mapBody s (mapClass n rows) n rows) ok
  let s := if ok then s.wr mapP Reg.Ma.RM_SEQ seq else s
  let s := s.wr bringP Reg.Br.DONE_MASK (s.rd bringP Reg.Br.DONE_MASK % 2 ^ 4)
  panelEvent (s.wr mapP Reg.Ma.RM_STATE 4) 0x17 0 mapP Reg.Ma.regs

/-- R403, R407: REMAP_DONE; a panel-level error stops the commit. -/
def remapDone (s : State) (drained ok : Bool) (lanes : List LanePort) : State :=
  if s.rd mapP Reg.Ma.RM_STATE ≠ 3 ∨ !(serves s) ∨ s.rd prelP Reg.Pr.PANEL_ERR = 1 then s
  else if s.remapSites = [] then remapFull s ok
  else if drained then remapApply s lanes ok
  else
    let s := (remapRegions s).foldl (fun s r => (drainAbort s r).getD s) s
    (s.wr mapP Reg.Ma.RM_STATE 2).wr mapP Reg.Ma.RM_CODE 9

/-! ### Meanings -/

/-- R402: REMAP_GO. -/
def execRemapGo (kind : BitVec 2) (site : BitVec 8) (s : State) : Host.Outcome State Fault Refusal :=
  .next (hostAct s mapP 0x60 (remapGo s kind.toNat site.toNat))

/-- R402: REMAP_PROPOSED. -/
def execRemapProposed (s : State) : Host.Outcome State Fault Refusal := .next (remapProposed s)

/-- R403: REMAP_DONE. -/
def execRemapDone (drained ok : Bool) (lanes : List LanePort) (s : State) : Host.Outcome State Fault Refusal :=
  .next (remapDone s drained ok lanes)

/-- R403: COMMIT. -/
def execCommit (s : State) : Host.Outcome State Fault Refusal := .next (hostAct s mapP 0x60 (commit s))

/-- R401: CANCEL. -/
def execCancel (s : State) : Host.Outcome State Fault Refusal := .next (hostAct s mapP 0x60 (remapCancel s))

end Sys2Proof.Machine
end

