-- ==== Sys2Proof/Machine/HostAccess.lean ====
section
/-! DEFINITION. A host access to the control space (R361 to R376): where an address leads, which bus error it meets, how
a write is judged, and what each page does with a write that is taken. -/

namespace Sys2Proof.Machine

/-! ### Words -/

/-- R370: what a field reads as: a BA field, the value most recently written. -/
def readFld (s : State) (page : Nat) (f : Fld) : Nat := baRead s page f

/-- The word that the fields `fs` of one offset read as. -/
def readFlds (s : State) (page : Nat) (fs : List Fld) : Nat := fs.foldl (fun a f => a ||| readFld s page f * 2 ^ f.lsb) 0

/-- The bits that the fields of one offset cover. -/
def fldMask (fs : List Fld) : Nat := fs.foldl (fun m f => m ||| (2 ^ f.w - 1) * 2 ^ f.lsb) 0

/-- What a write of `v` puts into a field. -/
def fldOf (f : Fld) (v : Nat) : Nat := bits v f.lsb f.w

/-- R370, R371: a write of `v` to fields `fs` is not refused by its types, its reserved bits or its complement; `ro` are
reserved bits typed RO, which a write ignores (log entry 22). -/
def judge (ro : Nat) (fs : List Fld) (v : Nat) : Bool :=
  fs.any (fun f => f.ty != .ro) && (v &&& (0xFFFFFFFF - (fldMask fs ||| ro))) = 0 &&
    (!(fs.any (·.cp)) || v / 65536 + v % 65536 = 0xFFFF)

/-- R373: the region that indexes a BA field of page type `code` at offset `off`; 16 for none. -/
def baRegion (code off : Nat) : Nat :=
  match code with
  | 0x15 => (off - 0x80) / 8
  | 0x20 => if off < 0x10000 then (off - 0x54) / 4 else 16
  | 0x23 => (off - 0x48) / 4
  | 0x25 => (off - 0x200) / 4
  | _ => 16

/-- Stores what a taken write of `v` puts into a field; `still` are bits that read 0 and only act. -/
def storeFld (code still : Nat) (s : State) (page : Nat) (f : Fld) (v : Nat) : State :=
  match f.ty with
  | .ro => s
  | .wm => s
  | .w1c => if fldOf f v = 0 then s else s.wr page f (s.rd page f &&& (2 ^ f.w - 1 - fldOf f v))
  | .rw =>
    if bits still f.lsb 1 = 1 then s
    else if f.ba || code = 0x3A then baWrite s page (baRegion code f.off) f (fldOf f v)
    else s.wr page f (fldOf f v)

/-- Stores a taken write. -/
def storeWord (code still : Nat) (s : State) (page : Nat) (fs : List Fld) (v : Nat) : State :=
  fs.foldl (fun s f => storeFld code still s page f v) s

/-- R371: the bits of a register that act and read 0. -/
def actBits (code off : Nat) : Nat :=
  match code with
  | 0x02 => if off = 0x40 then 0xF else 0
  | 0x03 => if off = 0x60 then 0x1C00 else 0
  | 0x04 => if off = 0x50 then 1 else 0
  | 0x05 => if off % 16 = 0 then 7 else 0
  | 0x07 => if off = 0x58 then 1 else 0
  | 0x10 => if off = 0x58 then 0x1F else if off = 0x70 then 0x10 else 0
  | 0x12 => if off = 0x50 then 3 else 0
  | 0x13 => if off = 0x4C then 3 else 0
  | 0x14 => if off = 0x44 then 0xF else 0
  | 0x17 => if off % 32 = 0x18 then 1 else 0
  | 0x20 => if off = 0x44 then 3 else 0
  | 0x21 => if off = 0x44 then 3 else 0
  | 0x22 => if off = 0x44 then 3 else 0
  | 0x25 => if off = 0x90 then 1 else if 0x100 ≤ off ∧ off < 0x200 ∧ off % 16 = 12 then 1 else 0
  | 0x31 => if off = 0x40 then 3 else 0
  | 0x33 => if off = 0x44 then 8 else if off = 0x68 then 0x20 else 0
  | 0x34 => if off = 0x54 then 8 else 0
  | 0x35 => if off = 0x60 then 0x200 else 0
  | 0x36 => if off = 0x90 then 4 else 0
  | 0x37 => if off = 0x64 then 0xF else 0
  | 0x38 => if off = 0x60 then 0x80 else 0
  | 0x39 => if off = 0x64 then 0x3000 else 0
  | _ => 0

/-- Reserved bits that a register table types RO beside fields that a host may write. -/
def roBits (code off : Nat) : Nat :=
  match code, off with
  | 0x14, 0x60 => 0xFFFFC000
  | 0x23, 0x40 => 0xFFFFF800
  | 0x30, 0x40 => 0xFFFFFFFC
  | _, _ => 0

/-! ### What each page does with a write (R377 to R384, and the register rules of each chapter)

In each: `s` is the state before the write, `t` holds it stored, `no` refuses it (R371). -/

/-- What a page is told of a write: the page, the offset, the value and the refusal. -/
structure HostWr where
  page : Nat
  off : Nat
  v : Nat
  deriving DecidableEq, Repr

/-- R371: refused. -/
def HostWr.no (w : HostWr) (s : State) : State := badValue s w.page w.off

/-- Bit `k` of the value. -/
def HostWr.bit (w : HostWr) (k : Nat) : Bool := bits w.v k 1 = 1

/-- Takes `t` if `ok`. -/
def HostWr.when (w : HostWr) (s : State) (ok : Bool) (t : State) : State := if ok then t else w.no s

/-- At most one of the low `n` bits is 1. -/
def oneHot (n v : Nat) : Bool := decide (popc n v ≤ 1)

/-- The hub's port is a HOST port. -/
def isHostHub (s : State) (h : Nat) : Bool := s.rd (x16P h) Reg.Xp.X16_ROLE = 1

/-- R372, R447: PF_INT_EN. -/
def writeEnables (s : State) (v : Nat) : State :=
  let old := s.rd idP Reg.Id.PF_INT_EN
  let m := v / 65536
  let new := (old &&& (0xFFFF - m)) ||| (v % 65536 &&& m)
  upTo 8 (fun s b => if bits new b 1 = 1 ∧ bits old b 1 = 0 ∧ s.rd idP (pfBit b) = 1 then pfVector s b else s)
    (s.wr idP Reg.Id.PF_INT_EN new)

/-- R377: the identity page. -/
def writeId (s t : State) (w : HostWr) : State :=
  match w.off with
  | 0x44 => w.when s (stepRuns s 11) t
  | 0x54 => w.when s (isHostHub s w.v) t
  | _ => t

/-- R401: the map page. -/
def writeMap (s t : State) (w : HostWr) : State :=
  if !(oneHot 3 (bits w.v 10 3)) then w.no s
  else if w.bit 10 then (remapGo s (bits w.v 0 2) (bits w.v 2 8)).getD (w.no s)
  else if w.bit 11 then if (commit s).isSome then (commit t).getD s else w.no s
  else if w.bit 12 then if (remapCancel s).isSome then (remapCancel t).getD s else w.no s
  else t

/-- R381: DRAIN_CTL of region `r`. -/
def writeDrainCtl (s : State) (w : HostWr) (r : Nat) : State :=
  match w.v with
  | 0 => s
  | 1 => (drainGo s r).getD (w.no s)
  | 2 => (swapGo s r).getD (w.no s)
  | 4 => (drainAbort s r).getD (w.no s)
  | _ => w.no s

/-- R381: the drain page. -/
def writeDrain (s t : State) (w : HostWr) : State :=
  let r := (w.off - 0x40) / 16
  match w.off % 16 with
  | 0 => writeDrainCtl s w r
  | 8 => w.when s (decide (w.v ≠ 0)) t
  | _ => t

/-- R428, R432: the Postmaster common page; whether a flash write succeeds is a free value. -/
def writePm (s t : State) (w : HostWr) : State :=
  match w.off with
  | 0x58 =>
    match w.v with
    | 0 => s
    | 1 => (fetch s).getD (w.no s)
    | 2 => activate s
    | 4 => (confirm s).getD (w.no s)
    | 8 => revert s
    | 16 => (fwDiscard s).getD (w.no s)
    | _ => w.no s
  | 0x70 =>
    if bits w.v 0 3 = 0 ∨ 4 < bits w.v 0 3 then w.no s
    else if w.bit 4 then let d := t.draw 1; recWrite d.2 (d.1 = 1) else t
  | _ => t

/-- R412: the time page. -/
def writeTime (s t : State) (w : HostWr) : State :=
  if w.off ≠ 0x50 then t
  else match w.v with
    | 0 => s
    | 1 => setGo s
    | 2 => calGo s
    | _ => w.no s

/-- R399: the licence page; whether the flash write succeeds is a free value. -/
def writeLic (s t : State) (w : HostWr) : State :=
  if w.off ≠ 0x4C then t
  else if licClosed s ∨ bits w.v 0 2 = 3 then w.no s
  else
    let d := t.draw 1
    if w.bit 0 then (install d.2 (d.1 = 1)).getD (w.no s)
    else if w.bit 1 then (licRemove d.2 (bits w.v 2 3) (d.1 = 1)).getD (w.no s)
    else t

/-- R250: the twin page. -/
def writeTwin (s t : State) (w : HostWr) : State :=
  match w.off with
  | 0x44 =>
    match bits w.v 0 4 with
    | 1 => pair t (w.bit 4)
    | 2 => unpair t
    | 3 => reqDetach t
    | 4 => shrunk t
    | 5 => reqAttach t
    | 6 => attach t
    | 7 => twinAbort t
    | _ => w.no s
  | 0x54 => w.when s (decide (3 ≤ w.v)) t
  | 0x60 => showParent t
  | _ => t

/-- R249: the hub common page; R224: the quotas' sums. -/
def writeHub (s t : State) (w : HostWr) (h : Nat) : State :=
  let sum := fun (t : State) (f : Nat → Fld) => ((List.range 16).map (fun r => baRead t w.page (f r))).sum
  match w.off with
  | 0x44 =>
    let vm := bits w.v 8 3
    if bits w.v 2 6 = 0 ∨ (vm ≠ 3 ∧ vm ≠ 4) ∨ (w.bit 1 ∧ s.rd w.page Reg.Hu.FRT_SH_VALID = 0 ∧ !(w.bit 0)) then w.no s
    else
      let t := showCap t h
      let t := if w.bit 0 then frtCheck t h else t
      if w.bit 1 then (frtSwap t h).getD (w.no s) else t
  | 0x50 => w.when s (decide (bits w.v 16 16 ≠ 0)) t
  | 0x48 => t
  | 0x98 => w.when s (decide (w.v ≠ 0)) t
  | _ =>
    w.when s (decide (bits w.v 0 10 ≤ 512) && decide (bits w.v 10 10 ≤ 512) && decide (sum t Reg.Hu.OUT_Q ≤ 512) && decide (sum t Reg.Hu.IN_Q ≤ 512)) t

/-- R231, R249: a fabric or TB port. -/
def writePort (t : State) (w : HostWr) (h p : Nat) : State :=
  if w.off ≠ 0x44 then t
  else
    let t := portDisable t h p (w.bit 2)
    let t := if w.bit 1 then holdClr t h p else t
    if w.bit 0 then retrainHost t h p else t

/-- R243: two grants of whole GiB share one. -/
def overlap (a b : Nat × Nat) : Bool := decide (a.2 ≠ 0) && decide (b.2 ≠ 0) && decide (a.1 < b.1 + b.2) && decide (b.1 < a.1 + a.2)

/-- R240, R243: the x16 port page. -/
def writeX16 (s t : State) (w : HostWr) : State :=
  match w.off with
  | 0x40 =>
    let hosts := ((List.range 16).filter (isHostHub t)).length
    w.when s (bits w.v 0 2 != 3 && decide (hosts ≤ 4) && stepTries s 5 = 0) t
  | 0x44 => t
  | _ =>
    let g := fun (r : Nat) => (baRead t w.page (Reg.Xp.DT_BASE r), baRead t w.page (Reg.Xp.DT_SIZE r))
    let r := (w.off - 0x48) / 4
    let fits := decide ((g r).2 = 0) || decide ((g r).1 + (g r).2 ≤ s.rd w.page Reg.Xp.DT_MAPPED)
    w.when s (decide ((g r).2 ≤ 4096) && fits && (List.range 16).all (fun q => q = r || !(overlap (g r) (g q)))) t

/-- R267: ENABLE of slot `g` of hub `h` may be set. -/
def enableOk (t : State) (h g : Nat) : Bool :=
  let c := collP h
  let m := t.rd c (Reg.Cl.M_MINUS_1 g) + 1
  let e := fun (q : Nat) (f : Nat → Fld) => t.rd c (f (256 * g + q))
  (List.range m).all (fun q =>
    e q Reg.Cl.PANEL + e q Reg.Cl.PPORT * 2 ^ 12 + e q Reg.Cl.BPORT * 2 ^ 14 + e q Reg.Cl.RING_COMPL = 0xFFFF &&
      e q Reg.Cl.PPORT != e q Reg.Cl.BPORT) &&
    e (t.rd c (Reg.Cl.POS g)) Reg.Cl.PANEL = ownPanel t && (gateOf t (t.rd c (Reg.Cl.REGION g)) h).isSome

/-- R267: a slot is queued or running. -/
def slotBusy (s : State) (h g : Nat) : Bool := decide ((s.slot h g).queue ≠ []) || (s.slot h g).run.isSome

/-- R267: word `k` of slot `g`. -/
def writeSlot (s t : State) (w : HostWr) (h g : Nat) : State :=
  let c := collP h
  match w.off % 16 with
  | 0 =>
    let ahead := (bits w.v 16 16 + 65536 - s.rd c (Reg.Cl.EPOCH g)) % 65536
    let v := s.slot h g
    let new := !v.epochSet || (decide (0 < ahead) && decide (ahead < 32768))
    w.when s (!(slotBusy s h g) && new) (t.setSlot h g { v with epochSet := true })
  | 4 =>
    let m := bits w.v 0 8
    let cv := bits w.v 16 4
    let ok := m != 0 && decide (bits w.v 8 8 ≤ m) && (cv = 1 || cv = 2) && decide (cv ≤ s.rd c Reg.Cl.COLL_VER_OWN)
    w.when s (!(slotBusy s h g) && ok && (!(w.bit 24) || enableOk t h g)) t
  | _ => if w.bit 0 then collAbort t h g else t

/-- R267: the collective engine page. -/
def writeColl (s t : State) (w : HostWr) (h : Nat) : State :=
  if w.off = 0x4C then w.when s (decide (bits w.v 16 16 ≠ 0)) t
  else if w.off = 0x90 then (if w.bit 0 then collPost t h else t)
  else if 0x100 ≤ w.off ∧ w.off < 0x200 then writeSlot s t w h ((w.off - 0x100) / 16)
  else if 0x200 ≤ w.off then
    w.when s (decide (((List.range 16).map (fun r => baRead t w.page (Reg.Cl.STAGE_Q r))).sum ≤ 256)) t
  else t

/-- R20: a DIRMAP register of direction `d` (0 N, 1 E, 2 S, 3 W) may hold `v`. -/
def dirOk (d v : Nat) : Bool :=
  let port := bits v 0 4
  let kind := bits v 4 2
  let fits := match d with
    | 0 => (kind = 0 && port = 0) || (kind = 1 && (port = 1 || port = 7))
    | 1 => (kind = 0 || kind = 2) && port = 2
    | 2 => (kind = 0 && port = 4) || (kind = 1 && (port = 3 || port = 5))
    | _ => (kind = 0 || kind = 2) && port = 6
  fits && bits v 8 8 != 0

/-- R20, R21: the site common page. -/
def writeSite (s t : State) (w : HostWr) : State :=
  let n := gridW s
  let col := bits w.v 8 4
  let ok := match w.off with
    | 0x40 => bits w.v 0 2 != 3
    | 0x44 => (bits w.v 0 8 = 0xFF || decide (bits w.v 0 8 < 16 * n)) && (col = 15 || decide (col < n))
    | 0x58 => bits w.v 8 1 = 0 || decide (bits w.v 0 4 < bits w.v 4 4)
    | o => dirOk ((o - 0x48) / 4) w.v
  w.when s ok t

/-- R173: the core page. -/
def writeCore (s t : State) (w : HostWr) (c : CoreId) : State :=
  match w.off with
  | 0x40 =>
    match w.v with
    | 0 => s
    | 1 => armWrite s c
    | 2 => disarm s c
    | _ => w.no s
  | 0x44 => w.when s (decide (w.v < 2730)) t
  | _ => t

/-- R222: the well controller page. -/
def writeWell (s t : State) (w : HostWr) (i : Nat) : State :=
  match w.off with
  | 0x44 =>
    if bits w.v 0 3 = 7 then w.no s
    else if w.bit 3 then (wstCheck t i (bits w.v 0 3)).getD (w.no s)
    else t
  | 0x68 => if w.bit 5 then (landClr t i (bits w.v 0 5)).getD (w.no s) else t
  | _ => t

/-- R145: the timetable NI page. -/
def writeTni (s t : State) (w : HostWr) (i : Nat) : State :=
  match w.off with
  | 0x40 => w.when s (s.rd (commonP i) Reg.Sc.NI_STATE = 0 && !(cfgBad (w.v % 65536))) t
  | 0x54 =>
    if 5 < bits w.v 0 3 then w.no s
    else if w.bit 3 then t.setSite i { (t.site i) with histClr := true }
    else t
  | _ => t

/-- R200: flags `fl` may stand with rectangle `q` in a grid of `n` columns. -/
def flagsOk (n : Nat) (q : Rect) (fl : Nat) : Bool := (bits fl 0 1 = 0 || q.v = n) && (bits fl 1 1 = 0 || q.h = 16)

/-- R200: logical site `j` may be the gate of hub `h` in rectangle `q`; 0xFF is none. -/
def shGateOk (s : State) (q : Rect) (h j : Nat) : Bool :=
  j = 0xFF || (inRect s q j && match physOf s j with
    | some i => hubOf i = some h
    | none => false)

/-- R200: notes that shadow register `k` (0 RECT, 1 SALT, 2 FLAGS, 3 + h GATE) has been written; all of them make the
shadow valid. -/
def noteShadow (s : State) (i k : Nat) : State :=
  let m := (s.site i).shWritten ||| 2 ^ k
  let s := s.setSite i { (s.site i) with shWritten := m }
  if m % 2 ^ 19 = 2 ^ 19 - 1 then s.wr (cniP i) Reg.Cn.SHADOW_VALID 1 else s

/-- R200: the courier NI page. -/
def writeCni (s t : State) (w : HostWr) (i : Nat) : State :=
  let held := rectOf (s.rd w.page Reg.Cn.SH_RECT)
  let n := gridW s
  if w.off = 0x5C then
    w.when s (decide (bits w.v 0 16 ≠ 0) && decide (16 ≤ bits w.v 16 5) && decide (bits w.v 16 5 ≤ 30)) t
  else if w.off = 0x60 then
    if w.bit 9 then (streamReset t i (bits w.v 0 9)).getD (w.no s) else t
  else if w.off = 0x80 then
    let q := rectOf (w.v % 65536)
    let gates := (List.range 16).all (fun h => let g := s.rd w.page (Reg.Cn.SH_GATE h); g = 0xFF || inRect s q g)
    w.when s (decide (q.u0 < n) && decide (q.v ≤ n) && flagsOk n q (s.rd w.page Reg.Cn.SH_FLAGS) && gates) (noteShadow t i 0)
  else if w.off = 0x84 then noteShadow t i 1
  else if w.off = 0x88 then w.when s (flagsOk n held (bits w.v 0 6)) (noteShadow t i 2)
  else if 0x8C ≤ w.off ∧ w.off < 0xCC then
    let h := (w.off - 0x8C) / 4
    w.when s (shGateOk s held h (bits w.v 0 8)) (noteShadow t i (3 + h))
  else t

/-- R284: the site clock page. -/
def writeClock (s t : State) (w : HostWr) (i : Nat) : State :=
  match w.off with
  | 0x48 => w.when s (decide (bits w.v 0 8 ≠ 0) && decide (bits w.v 8 4 ≠ 0)) t
  | 0x60 =>
    if 1 < bits w.v 0 2 ∨ bits w.v 2 5 = 0 ∨ 16 < bits w.v 2 5 then w.no s
    else if w.bit 7 then t.setSite i { (t.site i) with jitClr := true }
    else t
  | _ => t

/-- R338: the reliability page. -/
def writeRel (s t : State) (w : HostWr) (i : Nat) : State :=
  match w.off with
  | 0x4C => w.when s (decide (bits w.v 0 4 ≤ 8) && decide (bits w.v 4 12 ≠ 0)) t
  | 0x64 =>
    let t := if w.bit 13 then shadowAbort t i else t
    if w.bit 12 then (shadowEnter t i (bits w.v 0 8) (bits w.v 8 4)).getD (w.no s) else t
  | _ => t

/-- R384: the region control page of VF `r`. -/
def writeVf (s t : State) (w : HostWr) (r : Nat) : State :=
  match w.off with
  | 0x48 => w.when s (bits w.v 5 1 = 0 && bits w.v 9 1 = 0) t
  | 0x58 => if w.bit 0 then frGo t (r + 1) else t
  | _ => t

/-- A write that R370 and R371 do not refuse, as its page takes it; `via` is the hub of the port it came by. -/
def pageWrite (s t : State) (w : HostWr) (i : PageInfo) (via : Option Nat) : State :=
  let h := (w.page - 0x1000000) / 0x100000
  let site := w.page / 0x100000 - 0x100
  match i.code with
  | 0x01 => writeId s t w
  | 0x02 => (stepWrite s w.v via).getD (w.no s)
  | 0x03 => writeMap s t w
  | 0x04 => if w.off = 0x50 ∧ w.bit 0 then frGo t 0 else t
  | 0x05 => writeDrain s t w
  | 0x07 => writeVf s t w ((w.page - 0x40000000) / 0x1000000)
  | 0x10 => writePm s t w
  | 0x12 => writeTime s t w
  | 0x13 => writeLic s t w
  | 0x14 => writeTwin s t w
  | 0x15 => if w.off = 0x5C then w.when s (decide (5000 ≤ w.v) && decide (w.v ≤ 30000)) t else t
  | 0x17 => if w.off % 32 = 0x18 ∧ w.bit 0 then assignGo t ((w.off - 0x40) / 32) else t
  | 0x20 => writeHub s t w h
  | 0x21 => writePort t w h i.inst
  | 0x22 => writePort t w h 4
  | 0x23 => writeX16 s t w
  | 0x25 => writeColl s t w h
  | 0x30 => writeSite s t w
  | 0x31 => writeCore s t w ⟨site, i.inst⟩
  | 0x33 => writeWell s t w site
  | 0x34 => writeTni s t w site
  | 0x35 => writeCni s t w site
  | 0x36 => if w.off = 0x90 ∧ w.bit 2 then wbPost t site (bits w.v 0 2) else t
  | 0x37 => if w.off = 0x64 then minClear t site w.v else t
  | 0x38 => writeClock s t w site
  | 0x39 => writeRel s t w site
  | _ => t

/-- R371: a write to a register at offset 0x040 or above of a page. -/
def blockWrite (s : State) (w : HostWr) (i : PageInfo) (via : Option Nat) : State :=
  let fs := fieldsAt i.regs w.off
  if i.code = 1 ∧ w.off = 0x4C then (if (w.v / 65536 &&& w.v &&& 0xFF00) = 0 then writeEnables s w.v else w.no s)
  else if i.code = 0x30 ∧ w.off < 0x5C ∧ s.rd w.page Reg.Sc.NI_STATE ≠ 0 then s.bump w.page Reg.Sc.MAP_WR_REJECT 1
  else if !(judge (roBits i.code w.off) fs w.v) then w.no s
  else pageWrite s (storeWord i.code (actBits i.code w.off) s w.page fs w.v) w i via

/-! ### IX entries (R374) -/

/-- The fields of the IX entry at `ix` of a page; none where the index is reserved. -/
def ixFields (i : PageInfo) (ix : Nat) : List Fld :=
  if i.code = 6 ∧ 0x10000 ≤ ix then
    if ix < 0x50000 then (fieldsAt i.ixs (0x100 + ix % 4)).map (fun f => { f with off := ix }) else []
  else if i.code = 7 then []
  else if i.code = 0x13 ∧ 0x20000 ≤ ix then
    if ix < 0x20200 ∧ (ix - 0x20000) % 64 < 40 then [Reg.Li.SLOT_W (ix - 0x20000)] else []
  else fieldsAt i.ixs ix

/-- R383: a queue's base `a` of `n` entries of OWNER `r` may be used. -/
def ringBaseOk (s : State) (a n r : Nat) (host : Bool) : Bool :=
  let m := min (64 * n) 4096
  let off := a % 2 ^ 40
  let inside := decide (off + 64 * n ≤ 0xA00000000) || (decide (0x8000000000 ≤ off) && decide (off + 64 * n ≤ 0x8003000000))
  let j := bits a 40 8
  a % m = 0 && if host then isHostHub s (a / 2 ^ 60)
    else a / 2 ^ 60 = 0 && bits a 48 12 = ownPanel s && decide (j < 16 * gridW s) && regionState s r != 0 &&
      inRect s (regionRect s r) j && inside

/-- R382, R383: word 2 of the queue at `q` is written with `v`; none when it is not taken. -/
def writeQueue (s : State) (q v : Nat) (fs : List Fld) : Option State :=
  let f := fun (g : Fld) => qFld g q
  let get := fun (g : Fld) => s.rd queueP (f g)
  let n := bits v 0 5
  let owner := bits v 5 4
  let same := fs.all (fun g => g.lsb = 9 || s.rd queueP g = fldOf g v)
  if bits v 20 12 ≠ 0 ∨ n < 4 ∨ 16 < n ∨ (q < 0x10000 ∧ owner ≠ (q - 0x100) / 4) then none
  else if get (Reg.Qu.ENABLE 0) = 1 then
    if bits v 9 1 = 0 ∧ same then some (s.wr queueP (f (Reg.Qu.ENABLE 0)) 0) else none
  else
    let t := storeWord 6 0 s queueP fs v
    if bits v 9 1 = 0 then some t
    else
      let a := get (Reg.Qu.BASE_LO 0) + get (Reg.Qu.BASE_HI 0) * 2 ^ 32
      if ringBaseOk s a (2 ^ n) owner (bits v 10 1 = 1) && (bits v 11 1 = 0 || isHostHub s (bits v 16 4)) then
        some (t.wrAll queueP 0 [f (Reg.Qu.HEAD 0), f (Reg.Qu.TAIL 0)])
      else none

/-- R382: a word of the queue at `q` is written. -/
def writeQueueWord (s : State) (ix v : Nat) (fs : List Fld) : Option State :=
  let q := ix - ix % 4
  match ix % 4 with
  | 2 => writeQueue s q v fs
  | 3 => if qLen s q ≤ v / 65536 then none else some (storeWord 6 0 s queueP fs v)
  | _ => if s.rd queueP (qFld (Reg.Qu.ENABLE 0) q) = 1 then none else some (storeWord 6 0 s queueP fs v)

/-- R374: an IX entry is written; none when it is not taken. -/
def ixWrite (s : State) (page : Nat) (i : PageInfo) (ix v : Nat) : Option State :=
  let fs := ixFields i ix
  let site := page / 0x100000 - 0x100
  if !(judge 0 fs v) then none
  else match i.code with
    | 0x06 => writeQueueWord s ix v fs
    | 0x20 =>
      if ix < 0x80000 then some ((storeWord 0x20 0 s page fs v).wr page Reg.Hu.FRT_SH_VALID 0)
      else if (List.range 4).all (fun k => decide (bits v (8 * k) 8 ≤ 0x11)) then some (storeWord 0x20 0 s page fs v)
      else none
    | 0x33 => some ((storeWord 0x33 0 s page fs v).wr page Reg.We.SHADOW_VALID 0)
    | 0x3B =>
      let n := (ix - 0x10000) / 8
      let t := storeWord 0x3B 0x20 s page fs v
      some (if bits v 5 1 = 1 then timerClear t ⟨site, n / 16⟩ (n % 16) else t)
    | _ => some (storeWord i.code 0 s page fs v)

/-- R384: the word of queue HEAD and TAIL that a VF sees. -/
def qPtr (s : State) (q : Nat) : Nat := s.rd queueP (qFld (Reg.Qu.HEAD 0) q) + s.rd queueP (qFld (Reg.Qu.TAIL 0) q) * 65536

/-- R384: index `ix` of the region control page of `r`: word 3 of a ring of the region, or a slot's word. -/
def vfIx (s : State) (r ix : Nat) : Option Nat :=
  if 0x10000 ≤ ix ∧ ix < 0x20000 then
    let q := 0x10000 + 4 * (ix - 0x10000)
    if s.rd queueP (qFld (Reg.Qu.OWNER 0) q) = r then some (qPtr s q) else none
  else if 0x20000 ≤ ix ∧ ix < 0x20008 then some (wordOf s freqP Reg.Fr.ixs (ix + 8 * r))
  else none

/-- R49: word `w` of a core's slot poison bits. -/
def poisonWord (s : State) (c : CoreId) (w : Nat) : Nat :=
  (List.range 4).foldl (fun a k => a + slotPoison s c (4 * w + k) * 2 ^ (8 * k)) 0

/-- R374: what an IX entry reads as; none where the index is reserved. -/
def ixRead (s : State) (page : Nat) (i : PageInfo) (ix : Nat) : Option Nat :=
  let fs := ixFields i ix
  if i.code = 7 then vfIx s ((page - 0x40000000) / 0x1000000) ix
  else if fs = [] then none
  else match i.code with
    | 0x10 =>
      if ix < 0x50000 then some ((recCopy s (s.rd pmP Reg.Pm.REC_TYPE) (s.rd pmP Reg.Pm.REC_COPY)).getD (ix - 0x40000) 0)
      else some (readFlds s page fs)
    | 0x13 =>
      if 0x20000 ≤ ix then some (bits (licSlot s ((ix - 0x20000) / 64)) (32 * (ix % 64)) 32)
      else some (readFlds s page fs)
    | 0x31 => some (poisonWord s ⟨page / 0x100000 - 0x100, i.inst⟩ (ix - 0x10000))
    | _ => some (readFlds s page fs)

/-! ### The page header (R367, R374, R375) -/

/-- R373: APPLY_CTL. -/
def writeApply (s : State) (w : HostWr) : State :=
  match w.v with
  | 0 => s
  | 1 => applyBa s true (fun b => b.1 = w.page)
  | 2 => { s with pendBa := s.pendBa.filter (fun b => b.1 != w.page) }
  | _ => w.no s

/-- R375: MBX_SEL of party `p`. -/
def writeMbx (s : State) (w : HostWr) (p : Nat) : State :=
  let pp := partyP p w.page
  if 256 ≤ w.v then w.no s
  else
    let s := s.wr pp Reg.Hd.MBX_SEL w.v
    if w.v = 0 then s.wr pp Reg.Hd.VALID 0
    else match mbxWords s w.page w.v with
      | none => w.no (s.wr pp Reg.Hd.VALID 0)
      | some ws =>
        upTo 4 (fun s k => s.wr pp (Reg.Hd.MBX_DATA k) (ws.getD k 0)) ((s.wr pp Reg.Hd.VALID 1).wr pp Reg.Hd.SEL w.v)

/-- R366: a VF may write the IX fields of the page. -/
def vfIxOk (i : PageInfo) : Bool := [0x31, 0x36, 0x3B].contains i.code

/-- R374: a write of IND_DATA by party `p`. -/
def writeInd (s : State) (w : HostWr) (i : PageInfo) (p : Nat) : State :=
  let pp := partyP p w.page
  let r := if p = 0 || vfIxOk i then ixWrite s w.page i (s.rd pp Reg.Hd.IND_ADDR) w.v else none
  (r.getD (w.no s)).wrap pp Reg.Hd.IND_ADDR 1

/-- R374: a read of IND_DATA by party `p`. -/
def readInd (s : State) (page : Nat) (i : PageInfo) (p : Nat) : Nat × State :=
  let pp := partyP p page
  let r := ixRead s page i (s.rd pp Reg.Hd.IND_ADDR)
  (r.getD 0, (if r.isSome then s else badValue s page 0x14).wrap pp Reg.Hd.IND_ADDR 1)

/-- R367: PAGE_ERR is written. -/
def writePageErr (s : State) (w : HostWr) : State :=
  if bits w.v 2 14 ≠ 0 then w.no s
  else
    let s := if w.bit 0 then s.wr w.page Reg.Hd.BAD_VALUE 0 else s
    if w.bit 1 then s.wr w.page Reg.Hd.BUS_ERR 0 else s

/-- R367: a header register is written by party `p`. -/
def headerWrite (s : State) (w : HostWr) (i : PageInfo) (p : Nat) : State :=
  match w.off with
  | 0xC => writePageErr s w
  | 0x10 => s.wr (partyP p w.page) Reg.Hd.IND_ADDR w.v
  | 0x14 => writeInd s w i p
  | 0x18 => writeMbx s w p
  | 0x30 => writeApply s w
  | _ => w.no s

/-- R367: a header register is read by party `p`: the word, and the state after it. -/
def headerRead (s : State) (page off : Nat) (i : PageInfo) (p : Nat) : Nat × State :=
  let pp := partyP p page
  let b := fun (x : Bool) => if x then 1 else 0
  let g := fun (f : Fld) => s.rd page f
  match off with
  | 0x0 => (pageId s page, s)
  | 0x4 => (pageCap i page, s)
  | 0x8 => (b (powered s page) + 2 * b (inReset s page), s)
  | 0xC => (g Reg.Hd.BAD_VALUE + 2 * g Reg.Hd.BUS_ERR + 65536 * g Reg.Hd.LAST_OFFSET, s)
  | 0x10 => (s.rd pp Reg.Hd.IND_ADDR, s)
  | 0x14 => readInd s page i p
  | 0x18 => (s.rd pp Reg.Hd.MBX_SEL, s)
  | 0x1C => (s.rd pp Reg.Hd.VALID + 256 * s.rd pp Reg.Hd.SEL, s)
  | 0x34 => (b (s.pendBa.any (fun x => x.1 = page)) + 2 * g Reg.Hd.LAST_BY + 65536 * g Reg.Hd.APPLY_CNT, s)
  | o =>
    if 0x20 ≤ o ∧ o ≤ 0x2C ∧ s.rd pp Reg.Hd.VALID = 1 then
      (s.rd pp (Reg.Hd.MBX_DATA ((o - 0x20) / 4)), if o = 0x2C then s.wr pp Reg.Hd.VALID 0 else s)
    else (0, s)

/-! ### The region control page (R384) -/

/-- R384: a word of region `r`'s control page. -/
def ctlRead (s : State) (r off : Nat) : Nat :=
  let g := fun (f : Fld) => s.rd regionP f
  let d := fun (f : Fld) => s.rd drainP f
  match off with
  | 0x40 => g (Reg.Rg.STATE r) + 8 * g (Reg.Rg.CLEAR_DONE r) + 16 * r
  | 0x44 => g (Reg.Rg.RECT r) + 65536 * g (Reg.Rg.RECT_COMPL r)
  | 0x54 =>
    let i := (regionSites s r).headD 256
    let c := s.rd (tniP i) Reg.Tn.FL_CODE + 8 * s.rd (tniP i) Reg.Tn.SL
    c + 65536 * (0xFFFF - c)
  | 0x60 => 0
  | 0x64 => d (Reg.Dr.DRAINING r) + 2 * d (Reg.Dr.DRAIN_DONE r) + 4 * d (Reg.Dr.DRAIN_TIMEOUT r) + 8 * d (Reg.Dr.SWAPPED r)
  | 0x68 => d (Reg.Dr.DRAIN_LIMIT r)
  | 0x6C => qPtr s (evqIx r)
  | o => readFlds s (vfP r) (fieldsAt vfRegs o)

/-- R384: the words of the control page that stand for registers of the PF pages are written. -/
def ctlWrite (s : State) (w : HostWr) (i : PageInfo) (r : Nat) : State :=
  match w.off with
  | 0x60 => writeDrainCtl s w r
  | 0x64 =>
    if 16 ≤ w.v then w.no s
    else
      let s := if w.bit 2 then s.wr drainP (Reg.Dr.DRAIN_TIMEOUT r) 0 else s
      if w.bit 3 then s.wr drainP (Reg.Dr.SWAPPED r) 0 else s
  | 0x6C => if qLen s (evqIx r) ≤ w.v / 65536 then w.no s else s.wr queueP (qFld (Reg.Qu.TAIL 0) (evqIx r)) (w.v / 65536)
  | _ => blockWrite s w i none

/-! ### Addresses and bus errors (R361 to R366, R376) -/

/-- R365: the page offset in a site's group that window page `p` maps. -/
def vfPage (p : Nat) : Nat :=
  if p = 0 then 0 else if p < 9 then p * 0x1000 else [0x10000, 0x11000, 0x12000, 0x13000, 0x14000, 0x18000, 0x19000].getD (p - 9) 0

/-- R362, R365: the page that function `fn` (0 PF0, r + 1 VF r) reaches at `a`, or the reason of R376 that bars it. -/
def locate (s : State) (fn a : Nat) : Nat × Nat :=
  if fn = 0 then (if a < 0x40000000 then (0, a - a % 0x1000) else (1, 0))
  else
    let r := fn - 1
    if a < 0x1000 then (0, vfP r)
    else if 0x10000 ≤ a ∧ a < 0xF10000 then
      let q := regionRect s r
      let k := a / 0x10000 - 1
      if regionState s r = 0 ∨ q.h * q.v ≤ k then (4, 0)
      else match physOf s ((q.y0 + k / q.v) % 16 * gridW s + (q.u0 + k % q.v) % gridW s) with
        | some i => (0, siteP i (vfPage (a / 0x1000 % 16)))
        | none => (4, 0)
    else (1, 0)

/-- R376: offset `off` belongs to a register of the page. -/
def offListed (i : PageInfo) (off : Nat) : Bool :=
  off < 0x38 || (decide (0x40 ≤ off) && (fieldsAt i.regs off != [] || (i.code = 7 && decide (off < 0x70)) ||
    (i.code = 5 && decide (off < 0x140) && off % 16 = 12)))

/-- R366: a VF may write offset `off` of the page. -/
def vfMay (i : PageInfo) (off : Nat) : Bool :=
  [0xC, 0x10, 0x14, 0x18, 0x30].contains off || vfIxOk i || (fieldsAt i.regs off).any (fun f => f.ty = .w1c) ||
    (match i.code with
      | 0x07 => [0x48, 0x4C, 0x50, 0x58, 0x60, 0x64, 0x6C].contains off
      | 0x33 => off = 0x68
      | 0x34 => off = 0x54
      | 0x35 => off = 0x60
      | _ => false)

/-- R376: the reason of the bus error that an access meets at a page, 0 for none. -/
def pageReason (s : State) (fn page off : Nat) (write : Bool) : Nat :=
  if domainOff s page 0 then 3
  else match pageAt page with
    | none => 1
    | some i =>
      if !(offListed i off) then 1
      else if domainOff s page off then 3
      else if write && decide (fn ≠ 0) && !(vfMay i off) then 4
      else 0

/-- R361, R376: the reason of the bus error that an access meets, 0 for none, and the page it reaches. -/
def accReason (s : State) (a : HostAcc) (write : Bool) : Nat × Nat :=
  let addr := a.addr.toNat
  if 8 ≤ a.waiting then (6, 0)
  else if !a.dw || addr % 4 != 0 then (2, 0)
  else if !(serves s) then (5, 0)
  else
    let l := locate s a.fn addr
    if l.1 ≠ 0 then l else (pageReason s a.fn l.2 (addr % 0x1000) write, l.2)

/-- R376: an access ends in a bus error of a reason; a reserved offset within a page is noted there. -/
def accError (s : State) (a : HostAcc) (write : Bool) (reason page : Nat) : State :=
  let s := if reason = 1 ∧ (pageAt page).isSome then
      (s.setBit page Reg.Hd.BUS_ERR).wr page Reg.Hd.LAST_OFFSET (a.addr.toNat % 0x1000)
    else s
  match a.port with
  | some h => busErrorAt s a.fn h.toNat a.addr.toNat reason write
  | none => let d := s.draw 4; busErrorAt d.2 a.fn d.1.toNat a.addr.toNat reason write

/-- A write that meets no bus error (R371). -/
def accServe (s : State) (a : HostAcc) (page v : Nat) : State :=
  match pageAt page with
  | none => s
  | some i =>
    let w : HostWr := ⟨page, a.addr.toNat % 0x1000, v⟩
    sideCount (if w.off < 0x40 then headerWrite s w i a.fn
      else if i.code = 7 then ctlWrite s w i (a.fn - 1)
      else blockWrite s w i (a.port.map (·.toNat))) page

/-- R361: a host write. -/
def hostWrite (s : State) (a : HostAcc) (v : Nat) : State :=
  if !s.alwaysOn then s
  else
    let r := accReason s a true
    match r.1 with
    | 0 => accServe s a r.2 v
    | 5 => accError (unknownWrite s (accServe s a (locate s a.fn a.addr.toNat).2 v)) a true 5 0
    | n => accError s a true n r.2

/-- R361, R370: a host read; the word goes to the function that asked. -/
def hostRead (s : State) (a : HostAcc) : State :=
  if !s.alwaysOn then s
  else
    let r := accReason s a false
    let off := a.addr.toNat % 0x1000
    match r.1, pageAt r.2 with
    | 0, some i =>
      let d := if off < 0x40 then headerRead s r.2 off i a.fn
        else if i.code = 7 then (ctlRead s (a.fn - 1) off, s)
        else (readFlds s r.2 ((fieldsAt i.regs off).filter (fun f => bits (actBits i.code off) f.lsb 1 = 0 || i.code = 2 || i.code = 0x31)), s)
      (sideCount d.2 r.2).emit (.hostData a.fn a.addr.toNat d.1)
    | n, _ => accError s a false n r.2

/-- R376: an access is not answered within 50 µs; nobody knows whether a write took effect. -/
def hostTimeout (s : State) (a : HostAcc) (v : Option Nat) : State :=
  if !s.alwaysOn then s
  else match v with
    | none => accError s a false 5 0
    | some v =>
      let r := accReason s a true
      accError (if r.1 = 0 then unknownWrite s (accServe s a r.2 v) else s) a true 5 0

/-! ### Meanings -/

/-- The register at offset `off` of the page that an access names. -/
def regOf (a : HostAcc) (off : Nat) : HostAcc := { a with addr := BitVec.ofNat 32 (a.addr.toNat - a.addr.toNat % 0x1000 + off) }

/-- R361: the functions that a host port has. -/
def accOk (a : HostAcc) : Bool := decide (a.fn ≤ 16)

/-- R371: REGISTER_WRITE. -/
def execRegisterWrite (a : HostAcc) (v : BitVec 32) (s : State) : Host.Outcome State Fault Refusal := onUnit (accOk a) (hostWrite s a v.toNat)

/-- R376: BUS_TIMEOUT. -/
def execBusTimeout (a : HostAcc) (v : Option (BitVec 32)) (s : State) : Host.Outcome State Fault Refusal :=
  onUnit (accOk a) (hostTimeout s a (v.map (·.toNat)))

/-- R373: APPLY. -/
def execApply (a : HostAcc) (s : State) : Host.Outcome State Fault Refusal := onUnit (accOk a) (hostWrite s (regOf a 0x30) 1)

/-- R367: APPLY_DISCARD. -/
def execApplyDiscard (a : HostAcc) (s : State) : Host.Outcome State Fault Refusal := onUnit (accOk a) (hostWrite s (regOf a 0x30) 2)

/-- R375: MBX_SEL. -/
def execMbxSel (a : HostAcc) (v : BitVec 32) (s : State) : Host.Outcome State Fault Refusal :=
  onUnit (accOk a) (hostWrite s (regOf a 0x18) v.toNat)

/-- R375: MBX_DATA3_READ. -/
def execMbxData3Read (a : HostAcc) (s : State) : Host.Outcome State Fault Refusal := onUnit (accOk a) (hostRead s (regOf a 0x2C))

/-- R374: IND_DATA. -/
def execIndData (a : HostAcc) (v : Option (BitVec 32)) (s : State) : Host.Outcome State Fault Refusal :=
  onUnit (accOk a) (match v with
    | some v => hostWrite s (regOf a 0x14) v.toNat
    | none => hostRead s (regOf a 0x14))

/-- R383: QUEUE_ENABLE: PF0 writes word 2 with ENABLE set. -/
def execQueueEnable (q : Nat) (v : BitVec 32) (s : State) : Host.Outcome State Fault Refusal :=
  let ix := if q < 16 then evqIx q else 0x10000 + 4 * (q - 16)
  onUnit (decide (q < 65552)) (hostAct s queueP 0x14
    (ixWrite s queueP { code := 6, ixs := Reg.Qu.ixs } (ix + 2) (v.toNat ||| 0x200)))

end Sys2Proof.Machine
end

