-- ==== Sys2Proof/Machine/Module.lean ====
section
/-! DEFINITION. The module's sideband connector and management port (R440 to R442, R445). -/

namespace Sys2Proof.Machine

/-! ### Signals that follow the registers (R440, R441) -/

/-- R440: PANEL_ALERT_N is low. -/
def panelAlert (s : State) : Bool :=
  (List.range 8).any (fun b => s.rd idP (pfBit b) = 1 && bits (s.rd idP Reg.Id.PF_INT_EN) b 1 = 1)

/-- Bit `b` of PWR_ERR. -/
def pwrBit (s : State) (b : Nat) : Bool := bits (s.rd ppowP Reg.Pp.PWR_ERR) b 1 = 1

/-- R440: THERM_N is low. -/
def thermAlert (s : State) : Bool :=
  s.rd ppowP Reg.Pp.TL_PANEL = 3 || (List.range 16).any (fun r => s.rd ppowP (Reg.Pp.TL r) = 3) || pwrBit s 7

/-- R441: SMB_ALERT_N is low. -/
def smbAlert (s : State) : Bool := pwrBit s 5

/-! ### Events -/

/-- R441: a tag block. -/
def smbTags (s : State) (shelf loop rack : Nat) (pecOk : Bool) : State :=
  if !s.alwaysOn then s
  else if !pecOk then s.bump ppowP Reg.Pp.TRAY_BAD_CNT 1
  else
    let new := s.shelfTag != shelf || s.loopTag != loop || s.rackTag != rack
    let s := { s with shelfTag := shelf, loopTag := loop, rackTag := rack }
    if new ∧ twinState s = 2 then panelEvent s 0x15 0 twinP Reg.Tw.regs 2 else s

/-- R440, R445: MOD_RESET_N returns high: a request of step 1, before which a running step is abandoned. -/
def modReset (s : State) : State :=
  let t := if s.rd bringP Reg.Br.STATE = 1 then s.wr bringP Reg.Br.STATE 0 else s
  if s.alwaysOn ∧ stepTaken t 1 then stepGo t 1 else s

/-- R440: LEAK_DET_N acts as a panel thermal shutdown. -/
def leak (s : State) : State := if s.alwaysOn then panelShutdown s else s

/-- R445: MGMT_PERST_N is asserted while a management port access may be in flight. -/
def mgmtReset (s : State) (w : Option (Nat × Nat)) : State :=
  if !s.alwaysOn then s
  else match w with
    | none => s
    | some (a, v) => unknownWrite s (hostWrite s { fn := 0, port := none, addr := BitVec.ofNat 32 a } v)

/-! ### Time (R271, R409) -/

/-- R271, R409: one reference period passes, which is what the panel does while no command waits (log entry 2). -/
def tick (s : State) : State :=
  let s := if s.rootOn then { s with rcnt := s.rcnt + 64 } else s
  if s.alwaysOn then showRange { s with up := s.up + 64, tenths := s.tenths + 64 } else s

/-! ### Meanings -/

/-- R441: SMB_TAGS. -/
def execSmbTags (shelf loop rack : BitVec 32) (pecOk : Bool) (s : State) : Host.Outcome State Fault Refusal :=
  .next (smbTags s shelf.toNat loop.toNat rack.toNat pecOk)

/-- R440: MOD_RESET_N. -/
def execModResetN (s : State) : Host.Outcome State Fault Refusal := .next (modReset s)

/-- R440: LEAK_DET_N. -/
def execLeakDetN (s : State) : Host.Outcome State Fault Refusal := .next (leak s)

/-- R445: MGMT_PERST_N. -/
def execMgmtPerstN (w : Option (BitVec 32 × BitVec 32)) (s : State) : Host.Outcome State Fault Refusal :=
  .next (mgmtReset s (w.map (fun p => (p.1.toNat, p.2.toNat))))

end Sys2Proof.Machine
end

