-- ==== Sys2Proof/Machine/Dispatch.lean ====
section
/-! DEFINITION. One arm per command. -/

namespace Sys2Proof.Machine

def exec (i : Instr) (s : State) : Host.Outcome State Fault Refusal :=
  match i with
  | .bundleDue c ups arr => Sys2Proof.Machine.execBundleDue c ups arr s
  | .mxload c h wbuf wmode dq doff sq soff fine rsv => Sys2Proof.Machine.execMxload c h wbuf wmode dq doff sq soff fine rsv s
  | .mxexp c h xsel bank line rsv => Sys2Proof.Machine.execMxexp c h xsel bank line rsv s
  | .mxmul c h wbuf acc amode aq aoff mcnt slot xsel xidx pshift rsv arr => Sys2Proof.Machine.execMxmul c h wbuf acc amode aq aoff mcnt slot xsel xidx pshift rsv arr s
  | .mxdrain c h fmt clr slot scnt dq doff rsv => Sys2Proof.Machine.execMxdrain c h fmt clr slot scnt dq doff rsv s
  | .vmov c h a => Sys2Proof.Machine.execVmov c h a s
  | .vadd c h a => Sys2Proof.Machine.execVadd c h a s
  | .vsub c h a => Sys2Proof.Machine.execVsub c h a s
  | .vmul c h a => Sys2Proof.Machine.execVmul c h a s
  | .vfma c h a => Sys2Proof.Machine.execVfma c h a s
  | .vmax c h a => Sys2Proof.Machine.execVmax c h a s
  | .vmin c h a => Sys2Proof.Machine.execVmin c h a s
  | .vabs c h a => Sys2Proof.Machine.execVabs c h a s
  | .vneg c h a => Sys2Proof.Machine.execVneg c h a s
  | .vscale c h a => Sys2Proof.Machine.execVscale c h a s
  | .vrsum c h a => Sys2Proof.Machine.execVrsum c h a s
  | .vrsumsq c h a => Sys2Proof.Machine.execVrsumsq c h a s
  | .vrmax c h a => Sys2Proof.Machine.execVrmax c h a s
  | .vrmaxabs c h a => Sys2Proof.Machine.execVrmaxabs c h a s
  | .vexp2 c h a => Sys2Proof.Machine.execVexp2 c h a s
  | .vexp c h a => Sys2Proof.Machine.execVexp c h a s
  | .vlog2 c h a => Sys2Proof.Machine.execVlog2 c h a s
  | .vrcp c h a => Sys2Proof.Machine.execVrcp c h a s
  | .vrsqrt c h a => Sys2Proof.Machine.execVrsqrt c h a s
  | .vsqrt c h a => Sys2Proof.Machine.execVsqrt c h a s
  | .vtanh c h a => Sys2Proof.Machine.execVtanh c h a s
  | .vsigmoid c h a => Sys2Proof.Machine.execVsigmoid c h a s
  | .convert c h a => Sys2Proof.Machine.execConvert c h a s
  | .vseed c h a => Sys2Proof.Machine.execVseed c h a s
  | .vrmaxrd c h a => Sys2Proof.Machine.execVrmaxrd c h a s
  | .vrmaxrr c h a => Sys2Proof.Machine.execVrmaxrr c h a s
  | .vcstat c h a => Sys2Proof.Machine.execVcstat c h a s
  | .vload c h a => Sys2Proof.Machine.execVload c h a s
  | .vstore c h a => Sys2Proof.Machine.execVstore c h a s
  | .mvcp c h a => Sys2Proof.Machine.execMvcp c h a s
  | .mvcr c h a => Sys2Proof.Machine.execMvcr c h a s
  | .mvcw c h a => Sys2Proof.Machine.execMvcw c h a s
  | .mvxr c h a => Sys2Proof.Machine.execMvxr c h a s
  | .mvxw c h a => Sys2Proof.Machine.execMvxw c h a s
  | .mvwr c h a => Sys2Proof.Machine.execMvwr c h a s
  | .mvww c h a => Sys2Proof.Machine.execMvww c h a s
  | .kick c h a => Sys2Proof.Machine.execKick c h a s
  | .lksend c h a => Sys2Proof.Machine.execLksend c h a s
  | .lkrecv c h a => Sys2Proof.Machine.execLkrecv c h a s
  | .loop c h count len rsv => Sys2Proof.Machine.execLoop c h count len rsv s
  | .jump c h target rsv => Sys2Proof.Machine.execJump c h target rsv s
  | .stop c h => Sys2Proof.Machine.execStop c h s
  | .note c h tag rsv => Sys2Proof.Machine.execNote c h tag rsv s
  | .tstart c h t => Sys2Proof.Machine.execTstart c h t s
  | .tstop c h t => Sys2Proof.Machine.execTstop c h t s
  | .arm c => Sys2Proof.Machine.execArm c s
  | .disarm c => Sys2Proof.Machine.execDisarm c s
  | .programStart c => Sys2Proof.Machine.execProgramStart c s
  | .markGenerate r power => Sys2Proof.Machine.execMarkGenerate r power s
  | .markMessage site r fc t => Sys2Proof.Machine.execMarkMessage site r fc t s
  | .frameMark site cyc lag slackT => Sys2Proof.Machine.execFrameMark site cyc lag slackT s
  | .late site cyc lag => Sys2Proof.Machine.execLate site cyc lag s
  | .droopStretch site v loss => Sys2Proof.Machine.execDroopStretch site v loss s
  | .frGo p => Sys2Proof.Machine.execFrGo p s
  | .frameRequestCancel r k missing => Sys2Proof.Machine.execFrameRequestCancel r k missing s
  | .freq r k => Sys2Proof.Machine.execFreq r k s
  | .freqRampUp r k => Sys2Proof.Machine.execFreqRampUp r k s
  | .freqRampDown r => Sys2Proof.Machine.execFreqRampDown r s
  | .frameCfg r k => Sys2Proof.Machine.execFrameCfg r k s
  | .schedSwap r k => Sys2Proof.Machine.execSchedSwap r k s
  | .dormantEnter r k => Sys2Proof.Machine.execDormantEnter r k s
  | .dormantExit r k => Sys2Proof.Machine.execDormantExit r k s
  | .wakeFail site wellReady => Sys2Proof.Machine.execWakeFail site wellReady s
  | .reassign r k => Sys2Proof.Machine.execReassign r k s
  | .regionClearDone r => Sys2Proof.Machine.execRegionClearDone r s
  | .assignGo r => Sys2Proof.Machine.execAssignGo r s
  | .wbPost site pump => Sys2Proof.Machine.execWbPost site pump s
  | .waybillTake site pump master => Sys2Proof.Machine.execWaybillTake site pump master s
  | .waybillStart site pump => Sys2Proof.Machine.execWaybillStart site pump s
  | .waybillComplete site num cyc => Sys2Proof.Machine.execWaybillComplete site num cyc s
  | .envelopeSend ep k resp opp => Sys2Proof.Machine.execEnvelopeSend ep k resp opp s
  | .openWr ep space e => Sys2Proof.Machine.execOpenWr ep space e s
  | .openRd ep space e => Sys2Proof.Machine.execOpenRd ep space e s
  | .data ep resp e => Sys2Proof.Machine.execData ep resp e s
  | .done ep e => Sys2Proof.Machine.execDone ep e s
  | .ack ep resp e => Sys2Proof.Machine.execAck ep resp e s
  | .notice ep resp e => Sys2Proof.Machine.execNotice ep resp e s
  | .ackTimeout ep k resp => Sys2Proof.Machine.execAckTimeout ep k resp s
  | .openRetry ep k => Sys2Proof.Machine.execOpenRetry ep k s
  | .ctxIdle ep k => Sys2Proof.Machine.execCtxIdle ep k s
  | .linkReplay site port fails lost => Sys2Proof.Machine.execLinkReplay site port fails lost s
  | .replayTimeout site port lost => Sys2Proof.Machine.execReplayTimeout site port lost s
  | .streamReset site k => Sys2Proof.Machine.execStreamReset site k s
  | .drain r => Sys2Proof.Machine.execDrain r s
  | .drainDone r => Sys2Proof.Machine.execDrainDone r s
  | .drainTimeout r => Sys2Proof.Machine.execDrainTimeout r s
  | .swap r => Sys2Proof.Machine.execSwap r s
  | .drainAbort r => Sys2Proof.Machine.execDrainAbort r s
  | .openGrant c cyc wait ups => Sys2Proof.Machine.execOpenGrant c cyc wait ups s
  | .sliceOpenGrant site slice cyc wait ups => Sys2Proof.Machine.execSliceOpenGrant site slice cyc wait ups s
  | .scrubStep c cyc bank line ups => Sys2Proof.Machine.execScrubStep c cyc bank line ups s
  | .cisternScrub site slice cyc ups => Sys2Proof.Machine.execCisternScrub site slice cyc ups s
  | .wellOpenService site ch cyc wait ups => Sys2Proof.Machine.execWellOpenService site ch cyc wait ups s
  | .wellScrub site cyc ups => Sys2Proof.Machine.execWellScrub site cyc ups s
  | .wellRefresh site cyc => Sys2Proof.Machine.execWellRefresh site cyc s
  | .wstCheck site pw => Sys2Proof.Machine.execWstCheck site pw s
  | .landClr site z => Sys2Proof.Machine.execLandClr site z s
  | .ttBeatReceive site d w sl b => Sys2Proof.Machine.execTtBeatReceive site d w sl b s
  | .eflDataBlock h p hdr ws fec => Sys2Proof.Machine.execEflDataBlock h p hdr ws fec s
  | .eflIdleBlock h p hdr fec => Sys2Proof.Machine.execEflIdleBlock h p hdr fec s
  | .ident h p ok site => Sys2Proof.Machine.execIdent h p ok site s
  | .identSend h p => Sys2Proof.Machine.execIdentSend h p s
  | .time h p b => Sys2Proof.Machine.execTime h p b s
  | .timeExchange h p => Sys2Proof.Machine.execTimeExchange h p s
  | .replayReq h p seq => Sys2Proof.Machine.execReplayReq h p seq s
  | .train h p => Sys2Proof.Machine.execTrain h p s
  | .retrain h p => Sys2Proof.Machine.execRetrain h p s
  | .retrainDone h p lanes aseq rtt => Sys2Proof.Machine.execRetrainDone h p lanes aseq rtt s
  | .retrainTimeout h p => Sys2Proof.Machine.execRetrainTimeout h p s
  | .holdEnd h p => Sys2Proof.Machine.execHoldEnd h p s
  | .holdClr h p => Sys2Proof.Machine.execHoldClr h p s
  | .holdLevelReset h p => Sys2Proof.Machine.execHoldLevelReset h p s
  | .frtCheck h => Sys2Proof.Machine.execFrtCheck h s
  | .frtSwap h => Sys2Proof.Machine.execFrtSwap h s
  | .fabStall h p vc => Sys2Proof.Machine.execFabStall h p vc s
  | .firewallRequest h slot write addr r => Sys2Proof.Machine.execFirewallRequest h slot write addr r s
  | .deepLinkDown h => Sys2Proof.Machine.execDeepLinkDown h s
  | .heartbeat => Sys2Proof.Machine.execHeartbeat s
  | .hbLoss b => Sys2Proof.Machine.execHbLoss b s
  | .pair ovr => Sys2Proof.Machine.execPair ovr s
  | .pairTimeout => Sys2Proof.Machine.execPairTimeout s
  | .unpair => Sys2Proof.Machine.execUnpair s
  | .reqDetach => Sys2Proof.Machine.execReqDetach s
  | .detachTimeout => Sys2Proof.Machine.execDetachTimeout s
  | .shrunk => Sys2Proof.Machine.execShrunk s
  | .reqAttach => Sys2Proof.Machine.execReqAttach s
  | .attach => Sys2Proof.Machine.execAttach s
  | .twinAbort => Sys2Proof.Machine.execTwinAbort s
  | .collPost h => Sys2Proof.Machine.execCollPost h s
  | .collStart h g => Sys2Proof.Machine.execCollStart h g s
  | .collCommit h g q tries => Sys2Proof.Machine.execCollCommit h g q tries s
  | .collTimeout h g => Sys2Proof.Machine.execCollTimeout h g s
  | .collAbort h g => Sys2Proof.Machine.execCollAbort h g s
  | .meshLock site => Sys2Proof.Machine.execMeshLock site s
  | .lockLost site d phase => Sys2Proof.Machine.execLockLost site d phase s
  | .refLoss h => Sys2Proof.Machine.execRefLoss h s
  | .holdoverExpiry h => Sys2Proof.Machine.execHoldoverExpiry h s
  | .jitterSample site dev => Sys2Proof.Machine.execJitterSample site dev s
  | .dutyWindow site core frac => Sys2Proof.Machine.execDutyWindow site core frac s
  | .jitClr site => Sys2Proof.Machine.execJitClr site s
  | .histClr site => Sys2Proof.Machine.execHistClr site s
  | .powerOn => Sys2Proof.Machine.execPowerOn s
  | .inputLow v => Sys2Proof.Machine.execInputLow v s
  | .brownout v => Sys2Proof.Machine.execBrownout v s
  | .inputHigh v => Sys2Proof.Machine.execInputHigh v s
  | .inputOv v => Sys2Proof.Machine.execInputOv v s
  | .domainTimeout u d => Sys2Proof.Machine.execDomainTimeout u d s
  | .ocLogic site => Sys2Proof.Machine.execOcLogic site s
  | .railOvercurrent u d => Sys2Proof.Machine.execRailOvercurrent u d s
  | .railShort u d ov => Sys2Proof.Machine.execRailShort u d ov s
  | .vsetUpdate site iLogic iArray iLink iMem samples => Sys2Proof.Machine.execVsetUpdate site iLogic iArray iLink iMem samples s
  | .minClr site mask => Sys2Proof.Machine.execMinClr site mask s
  | .thermalLevelChange c => Sys2Proof.Machine.execThermalLevelChange c s
  | .thermalLevelExit c => Sys2Proof.Machine.execThermalLevelExit c s
  | .junctionTrip site => Sys2Proof.Machine.execJunctionTrip site s
  | .panelShutdown => Sys2Proof.Machine.execPanelShutdown s
  | .trayReport inlet outlet flow seq rsv pecOk => Sys2Proof.Machine.execTrayReport inlet outlet flow seq rsv pecOk s
  | .trayLost => Sys2Proof.Machine.execTrayLost s
  | .smbTags shelf loop rack pecOk => Sys2Proof.Machine.execSmbTags shelf loop rack pecOk s
  | .panelFactorUpdate pin vin inlet outlet => Sys2Proof.Machine.execPanelFactorUpdate pin vin inlet outlet s
  | .sidebandLoss site => Sys2Proof.Machine.execSidebandLoss site s
  | .voteFix site f allDiffer => Sys2Proof.Machine.execVoteFix site f allDiffer s
  | .probeItem c good => Sys2Proof.Machine.execProbeItem c good s
  | .shadowEnter site buddy port => Sys2Proof.Machine.execShadowEnter site buddy port s
  | .shadowAbort site => Sys2Proof.Machine.execShadowAbort site s
  | .registerWrite a v => Sys2Proof.Machine.execRegisterWrite a v s
  | .busTimeout a v => Sys2Proof.Machine.execBusTimeout a v s
  | .apply a => Sys2Proof.Machine.execApply a s
  | .applyDiscard a => Sys2Proof.Machine.execApplyDiscard a s
  | .mbxSel a v => Sys2Proof.Machine.execMbxSel a v s
  | .mbxData3Read a => Sys2Proof.Machine.execMbxData3Read a s
  | .indData a v => Sys2Proof.Machine.execIndData a v s
  | .queueEnable q v => Sys2Proof.Machine.execQueueEnable q v s
  | .powerBase => Sys2Proof.Machine.execPowerBase s
  | .clockRoot => Sys2Proof.Machine.execClockRoot s
  | .discover => Sys2Proof.Machine.execDiscover s
  | .fence => Sys2Proof.Machine.execFence s
  | .lanes => Sys2Proof.Machine.execLanes s
  | .map => Sys2Proof.Machine.execMap s
  | .powerSites => Sys2Proof.Machine.execPowerSites s
  | .clockMesh => Sys2Proof.Machine.execClockMesh s
  | .memory => Sys2Proof.Machine.execMemory s
  | .licence via => Sys2Proof.Machine.execLicence via s
  | .fabric => Sys2Proof.Machine.execFabric s
  | .ready => Sys2Proof.Machine.execReady s
  | .stepTimeout => Sys2Proof.Machine.execStepTimeout s
  | .install flashOk => Sys2Proof.Machine.execInstall flashOk s
  | .remove slot flashOk => Sys2Proof.Machine.execRemove slot flashOk s
  | .licenceDateCheck => Sys2Proof.Machine.execLicenceDateCheck s
  | .remapGo kind site => Sys2Proof.Machine.execRemapGo kind site s
  | .remapProposed => Sys2Proof.Machine.execRemapProposed s
  | .commit => Sys2Proof.Machine.execCommit s
  | .cancel => Sys2Proof.Machine.execCancel s
  | .setGo => Sys2Proof.Machine.execSetGo s
  | .calGo => Sys2Proof.Machine.execCalGo s
  | .logFlashCopy n fail => Sys2Proof.Machine.execLogFlashCopy n fail s
  | .timerClr site n t => Sys2Proof.Machine.execTimerClr site n t s
  | .fetch => Sys2Proof.Machine.execFetch s
  | .fwStageDone img hostErr flashErr => Sys2Proof.Machine.execFwStageDone img hostErr flashErr s
  | .activate => Sys2Proof.Machine.execActivate s
  | .fwBootTimeout => Sys2Proof.Machine.execFwBootTimeout s
  | .confirm => Sys2Proof.Machine.execConfirm s
  | .revert => Sys2Proof.Machine.execRevert s
  | .fwDiscard => Sys2Proof.Machine.execFwDiscard s
  | .recWrite flashOk => Sys2Proof.Machine.execRecWrite flashOk s
  | .modResetN => Sys2Proof.Machine.execModResetN s
  | .leakDetN => Sys2Proof.Machine.execLeakDetN s
  | .mgmtPerstN w => Sys2Proof.Machine.execMgmtPerstN w s
  | .lossOfBlockAlignment h p => Sys2Proof.Machine.execLossOfBlockAlignment h p s
  | .stretchEnd site => Sys2Proof.Machine.execStretchEnd site s
  | .referenceRelock h => Sys2Proof.Machine.execReferenceRelock h s
  | .rootFault => Sys2Proof.Machine.execRootFault s
  | .alwaysOnStageLoss => Sys2Proof.Machine.execAlwaysOnStageLoss s
  | .fwAlive => Sys2Proof.Machine.execFwAlive s
  | .stepDone d => Sys2Proof.Machine.execStepDone d s
  | .remapDone drained flashOk lanes => Sys2Proof.Machine.execRemapDone drained flashOk lanes s
  | .periodBoundary site => Sys2Proof.Machine.execPeriodBoundary site s
  | .heartbeatReceipt b m => Sys2Proof.Machine.execHeartbeatReceipt b m s
  | .hostCompletion h k err data poison => Sys2Proof.Machine.execHostCompletion h k err data poison s
  | .hotReset h => Sys2Proof.Machine.execHotReset h s
  | .settlingEnd site => Sys2Proof.Machine.execSettlingEnd site s

end Sys2Proof.Machine
end

