-- ==== Sys2Proof/WellFormed.lean ====
section
/-! DEFINITION. Well-formed commands: the units that a command names exist on a panel (R6, R9, R28, R10, R249). -/

namespace Sys2Proof

/-- R6: a physical site. -/
def siteWf (i : Nat) : Bool := decide (i < 256)

/-- R9: a hub. -/
def hubWf (h : Nat) : Bool := decide (h < 16)

/-- R340: a region. -/
def regionWf (r : Nat) : Bool := decide (r < 16)

/-- R28: a core of a site. -/
def coreWf (c : CoreId) : Bool := c.site < 256 && c.n < 8

/-- R249: a fabric port of a hub, or the TB port (4) that hubs 0 and 15 have. -/
def portWf (h p : Nat) : Bool := hubWf h && (decide (p < 4) || (p = 4 && (h = 0 || h = 15)))

/-- R176: an endpoint: a site's NI, or a hub (256 + h). -/
def endWf (ep : Nat) : Bool := decide (ep < 272)

/-- R288: a power domain of a site or of a hub. -/
def unitWf (u : PowerUnit) (d : Nat) : Bool :=
  (match u with
    | .site i => siteWf i
    | .hub h => hubWf h) && decide (d < 4)

/-- R303: a thermal condition names a site of the panel. -/
def condWf (c : ThermCond) : Bool :=
  match c with
  | .site i .. => siteWf i
  | _ => true

/-- R361: a function of a host port: PF0, or VF 0 to 15. -/
def accWf (a : HostAcc) : Bool := decide (a.fn ≤ 16)

/-- The units that a command names exist. -/
def Instr.wf : Instr → Bool
  | .bundleDue c _ _ => coreWf c
  | .mxload c _ _ _ _ _ _ _ _ _ => coreWf c
  | .mxexp c _ _ _ _ _ => coreWf c
  | .mxmul c _ _ _ _ _ _ _ _ _ _ _ _ _ => coreWf c
  | .mxdrain c _ _ _ _ _ _ _ _ => coreWf c
  | .vmov c _ _ => coreWf c
  | .vadd c _ _ => coreWf c
  | .vsub c _ _ => coreWf c
  | .vmul c _ _ => coreWf c
  | .vfma c _ _ => coreWf c
  | .vmax c _ _ => coreWf c
  | .vmin c _ _ => coreWf c
  | .vabs c _ _ => coreWf c
  | .vneg c _ _ => coreWf c
  | .vscale c _ _ => coreWf c
  | .vrsum c _ _ => coreWf c
  | .vrsumsq c _ _ => coreWf c
  | .vrmax c _ _ => coreWf c
  | .vrmaxabs c _ _ => coreWf c
  | .vexp2 c _ _ => coreWf c
  | .vexp c _ _ => coreWf c
  | .vlog2 c _ _ => coreWf c
  | .vrcp c _ _ => coreWf c
  | .vrsqrt c _ _ => coreWf c
  | .vsqrt c _ _ => coreWf c
  | .vtanh c _ _ => coreWf c
  | .vsigmoid c _ _ => coreWf c
  | .convert c _ _ => coreWf c
  | .vseed c _ _ => coreWf c
  | .vrmaxrd c _ _ => coreWf c
  | .vrmaxrr c _ _ => coreWf c
  | .vcstat c _ _ => coreWf c
  | .vload c _ _ => coreWf c
  | .vstore c _ _ => coreWf c
  | .mvcp c _ _ => coreWf c
  | .mvcr c _ _ => coreWf c
  | .mvcw c _ _ => coreWf c
  | .mvxr c _ _ => coreWf c
  | .mvxw c _ _ => coreWf c
  | .mvwr c _ _ => coreWf c
  | .mvww c _ _ => coreWf c
  | .kick c _ _ => coreWf c
  | .lksend c _ _ => coreWf c
  | .lkrecv c _ _ => coreWf c
  | .loop c _ _ _ _ => coreWf c
  | .jump c _ _ _ => coreWf c
  | .stop c _ => coreWf c
  | .note c _ _ _ => coreWf c
  | .tstart c _ _ => coreWf c
  | .tstop c _ _ => coreWf c
  | .arm c => coreWf c
  | .disarm c => coreWf c
  | .programStart c => coreWf c
  | .markGenerate r _ => regionWf r
  | .markMessage i _ _ _ => siteWf i
  | .frameMark i _ _ _ => siteWf i
  | .late i _ _ => siteWf i
  | .droopStretch i _ _ => siteWf i
  | .frGo p => decide (p ≤ 16)
  | .frameRequestCancel r k _ => regionWf r && decide (k < 4)
  | .freq r k => regionWf r && decide (k < 4)
  | .freqRampUp r k => regionWf r && decide (k < 4)
  | .freqRampDown r => regionWf r
  | .frameCfg r k => regionWf r && decide (k < 4)
  | .schedSwap r k => regionWf r && decide (k < 4)
  | .dormantEnter r k => regionWf r && decide (k < 4)
  | .dormantExit r k => regionWf r && decide (k < 4)
  | .wakeFail i _ => siteWf i
  | .reassign r k => regionWf r && k.all (fun k => decide (k < 4))
  | .regionClearDone r => regionWf r
  | .assignGo r => regionWf r
  | .wbPost i _ => siteWf i
  | .waybillTake i pump _ => siteWf i && decide (pump < 4)
  | .waybillStart i pump => siteWf i && decide (pump < 4)
  | .waybillComplete i _ _ => siteWf i
  | .envelopeSend ep k _ _ => endWf ep && decide (k < 512)
  | .openWr ep _ _ => endWf ep
  | .openRd ep _ _ => endWf ep
  | .data ep _ _ => endWf ep
  | .done ep _ => endWf ep
  | .ack ep _ _ => endWf ep
  | .notice ep _ _ => endWf ep
  | .ackTimeout ep k _ => endWf ep && decide (k < 512)
  | .openRetry ep k => endWf ep && decide (k < 512)
  | .ctxIdle ep k => endWf ep && decide (k < 512)
  | .linkReplay i port _ _ => siteWf i && decide (port < 9)
  | .replayTimeout i port _ => siteWf i && decide (port < 9)
  | .streamReset i _ => siteWf i
  | .drain r => regionWf r
  | .drainDone r => regionWf r
  | .drainTimeout r => regionWf r
  | .swap r => regionWf r
  | .drainAbort r => regionWf r
  | .openGrant c _ _ _ => coreWf c
  | .sliceOpenGrant i slice _ _ _ => siteWf i && decide (slice < 16)
  | .scrubStep c _ _ _ _ => coreWf c
  | .cisternScrub i slice _ _ => siteWf i && decide (slice < 16)
  | .wellOpenService i ch _ _ _ => siteWf i && decide (ch < 16)
  | .wellScrub i _ _ => siteWf i
  | .wellRefresh i _ => siteWf i
  | .wstCheck i _ => siteWf i
  | .landClr i _ => siteWf i
  | .ttBeatReceive i d _ _ _ => siteWf i && decide (d < 4)
  | .eflDataBlock h p _ _ _ => portWf h p
  | .eflIdleBlock h p _ _ => portWf h p
  | .ident h p _ _ => portWf h p
  | .identSend h p => portWf h p
  | .time h p _ => portWf h p
  | .timeExchange h p => portWf h p
  | .replayReq h p _ => portWf h p
  | .train h p => portWf h p
  | .retrain h p => portWf h p
  | .retrainDone h p _ _ _ => portWf h p
  | .retrainTimeout h p => portWf h p
  | .holdEnd h p => portWf h p
  | .holdClr h p => portWf h p
  | .holdLevelReset h p => portWf h p
  | .frtCheck h => hubWf h
  | .frtSwap h => hubWf h
  | .fabStall h p vc => portWf h p && decide (vc < 4)
  | .firewallRequest h slot _ _ _ => hubWf h && (decide (slot < 4) || slot = 5 || (slot = 4 && (h = 0 || h = 15)))
  | .deepLinkDown h => hubWf h
  | .heartbeat => true
  | .hbLoss b => decide (b < 2)
  | .pair _ => true
  | .pairTimeout => true
  | .unpair => true
  | .reqDetach => true
  | .detachTimeout => true
  | .shrunk => true
  | .reqAttach => true
  | .attach => true
  | .twinAbort => true
  | .collPost h => hubWf h
  | .collStart h g => hubWf h && decide (g < 16)
  | .collCommit h g _ _ => hubWf h && decide (g < 16)
  | .collTimeout h g => hubWf h && decide (g < 16)
  | .collAbort h g => hubWf h && decide (g < 16)
  | .meshLock i => siteWf i
  | .lockLost i _ _ => siteWf i
  | .refLoss h => hubWf h
  | .holdoverExpiry h => hubWf h
  | .jitterSample i _ => siteWf i
  | .dutyWindow i _ _ => siteWf i
  | .jitClr i => siteWf i
  | .histClr i => siteWf i
  | .powerOn => true
  | .inputLow _ => true
  | .brownout _ => true
  | .inputHigh _ => true
  | .inputOv _ => true
  | .domainTimeout u d => unitWf u d
  | .ocLogic i => siteWf i
  | .railOvercurrent u d => unitWf u d
  | .railShort u d _ => unitWf u d
  | .vsetUpdate i _ _ _ _ _ => siteWf i
  | .minClr i _ => siteWf i
  | .thermalLevelChange c => condWf c
  | .thermalLevelExit c => condWf c
  | .junctionTrip i => siteWf i
  | .panelShutdown => true
  | .trayReport .. => true
  | .trayLost => true
  | .smbTags .. => true
  | .panelFactorUpdate .. => true
  | .sidebandLoss i => siteWf i
  | .voteFix i f _ => siteWf i && decide (f < 4)
  | .probeItem c _ => coreWf c
  | .shadowEnter i _ _ => siteWf i
  | .shadowAbort i => siteWf i
  | .registerWrite a _ => accWf a
  | .busTimeout a _ => accWf a
  | .apply a => accWf a
  | .applyDiscard a => accWf a
  | .mbxSel a _ => accWf a
  | .mbxData3Read a => accWf a
  | .indData a _ => accWf a
  | .queueEnable q _ => decide (q < 65552)
  | .powerBase => true
  | .clockRoot => true
  | .discover => true
  | .fence => true
  | .lanes => true
  | .map => true
  | .powerSites => true
  | .clockMesh => true
  | .memory => true
  | .licence _ => true
  | .fabric => true
  | .ready => true
  | .stepTimeout => true
  | .install _ => true
  | .remove .. => true
  | .licenceDateCheck => true
  | .remapGo .. => true
  | .remapProposed => true
  | .commit => true
  | .cancel => true
  | .setGo => true
  | .calGo => true
  | .logFlashCopy .. => true
  | .timerClr i n t => coreWf ⟨i, n⟩ && decide (t < 16)
  | .fetch => true
  | .fwStageDone .. => true
  | .activate => true
  | .fwBootTimeout => true
  | .confirm => true
  | .revert => true
  | .fwDiscard => true
  | .recWrite _ => true
  | .modResetN => true
  | .leakDetN => true
  | .mgmtPerstN _ => true
  | .lossOfBlockAlignment h p => portWf h p
  | .stretchEnd i => siteWf i
  | .referenceRelock h => hubWf h
  | .rootFault => true
  | .alwaysOnStageLoss => true
  | .fwAlive => true
  | .stepDone _ => true
  | .remapDone .. => true
  | .periodBoundary i => siteWf i
  | .heartbeatReceipt b _ => decide (b < 2)
  | .hostCompletion h k _ _ _ => hubWf h && decide (k < 512)
  | .hotReset h => hubWf h
  | .settlingEnd i => siteWf i

end Sys2Proof
end

