-- ==== Sys2Proof/Safety.lean ====
section
/-! DEFINITION. What counts as a sound state and a safe run, and the conditions under which the spec gives a command its own
effect, in the terms that the statements use. -/

namespace Sys2Proof.Machine

/-! ### Sound states -/

/-- The memory keeps its canonical form, the register store lists each field once, in order, and every waiting command
names units that a panel has. -/
def State.inv (s : State) : Prop :=
  Memory.wf s.mem = true ∧ s.regs.Pairwise (fun a b => a.1 < b.1) ∧ ∀ i ∈ s.pending, i.wf = true

/-- R376, R385: a host access to offset `off` of a page is served: the panel is on, the Postmaster serves, and the page's
block is on. -/
def Hosted (s : State) (page off : Nat) : Prop := s.alwaysOn = true ∧ serves s = true ∧ domainOff s page off = false

/-! ### Frames -/

/-- The keys of fields of a page in the register store. -/
def keysOf (page : Nat) (fs : List Fld) : List Nat := fs.map (fldKey page)

/-- `t` has the registers of `q`, but for the fields listed. -/
structure Off (ks : List Nat) (q t : State) : Prop where
  find : ∀ k, k ∉ ks → tabFind t.regs k = tabFind q.regs k

/-- R414, R416: the fields that entering a record in the log writes. -/
def logKeys : List Nat := keysOf logP [Reg.Lo.LOG_NEXT_SEQ, Reg.Lo.LOG_DROP_CNT, Reg.Lo.DROP]

/-- R54, R94, R173: what every issued bundle shows of its core: the position, the open loops and the busy units. -/
def seqFields : List Fld := [Reg.Co.PC, Reg.Co.LOOP_DEPTH, Reg.Co.LOAD_BUSY, Reg.Co.STREAM_BUSY, Reg.Co.DRAIN_BUSY,
  Reg.Co.COMPUTE_BUSY, Reg.Co.CH0_BUSY, Reg.Co.CH1_BUSY]

/-- R98: what reads of the vector file note. -/
def vfFields : List Fld := [Reg.Co.VF_CE, Reg.Co.VF_CE_CNT, Reg.Co.VF_UE]

/-- R86, R98: what results of the vector engine count. -/
def vxFields : List Fld := [Reg.Co.INF_OUT, Reg.Co.VX_INF_CNT, Reg.Co.NAN_OUT, Reg.Co.VX_NAN_CNT, Reg.Co.POISON_PROP,
  Reg.Co.VX_POISON_CNT]

/-- R101, R118: what reads of the scratchpad note. -/
def spFields : List Fld := [Reg.Co.CE, Reg.Co.SP_CE_CNT, Reg.Co.UE, Reg.Co.SP_UE_CNT, Reg.Co.UE_BANK, Reg.Co.UE_LINE, Reg.Co.UE_WORD]

/-- The frame of an operation of core `c` that meets nothing outside it: other cores, other sites, and all registers but the
listed fields stand; nothing is sent, and nothing else of the panel has changed. -/
structure CoreFrame (c : CoreId) (ks : List Nat) (s u : State) : Prop where
  rest : { u with regs := s.regs, mem := s.mem, cores := s.cores, sites := s.sites } = s
  regs : Off ks s u
  cores : ∀ x, coreKey x ≠ coreKey c → u.core x = s.core x
  sites : ∀ i, i ≠ c.site → u.site i = s.site i

/-- The command answers a next state, and `P` holds of it. -/
def Completes (i : Instr) (s : State) (P : State → Prop) : Prop := ∃ t, exec i s = .next t ∧ P t

/-- Nothing but the listed fields changes. -/
structure OnlyRegs (ks : List Nat) (s t : State) : Prop where
  rest : t = { s with regs := t.regs }
  regs : Off ks s t

/-- Fields of many pages. -/
def keysAll (is : List Nat) (page : Nat → Nat) (fs : List Fld) : List Nat := is.flatMap (fun i => keysOf (page i) fs)

/-! ### Bundles of one operation (R146, R148; log entry 13) -/

def vxBundle (h : Hdr) (op : Nat) (a : VxArgs) : Nat := bundleOf (hdrOf h false 0) 0 (vxOf op a) 0 0

/-- R149, R150, R155: the bundle `b` falls due on core `c` at cycle `t` of a frame that executes, before the slack window; the
core runs and is no shadow; and decode finds nothing to refuse. -/
structure Issues (s : State) (c : CoreId) (b t : Nat) : Prop where
  core : coreOk c = true
  due : ∃ d, dueOf s c (bundleHdr b) = some d ∧ d.cyc = t ∧ d.cause = 0
  running : mayIssue s c t = true
  plain : isShadow s c.site = false
  checks : bundleBad (atCycle s c.site t) c t (s.core c).nextPc b = []

/-- R105: no access that the site has accepted falls after cycle `t`: none can meet those of an operation issued at `t`. -/
def Quiet (s : State) (c : CoreId) (t : Nat) : Prop := ∀ o ∈ (s.site c.site).acc, o.cyc ≤ t

/-! ### The vector operations by opcode (R83) -/

/-- The command of an element-wise operation. -/
def ewInstr : Ew → CoreId → Hdr → VxArgs → Instr
  | .mov => .vmov | .add => .vadd | .sub => .vsub | .mul => .vmul | .fma => .vfma
  | .max => .vmax | .min => .vmin | .abs => .vabs | .neg => .vneg | .scale => .vscale

/-- R83: its opcode. -/
def ewCode : Ew → Nat
  | .mov => 1 | .add => 2 | .sub => 3 | .mul => 4 | .fma => 5 | .max => 6 | .min => 7 | .abs => 8 | .neg => 9 | .scale => 10

/-- R84, R96: no beat of an operation over `cnt` elements of `sz` bytes reads what an earlier beat of it has written: its
destination starts no later than the source, or where the source has ended. -/
def clearOf (sz cnt dst src : Nat) : Prop := vfOff dst ≤ vfOff src ∨ vfOff src + sz * cnt ≤ vfOff dst

/-- R82: element `k` of operand B: of a run, the immediate for every element (SB), or nothing. -/
def ewB (s : State) (c : CoreId) (op : Ew) (a : VxArgs) (k : Nat) : Elem :=
  let sz := (vxType (a.ty.toNat % 16)).bytes
  if 2 ≤ ewCode op ∧ ewCode op ≤ 7 ∧ a.flags.toNat % 2 = 0 then vfElem s c sz a.srcb.toNat k
  else ⟨a.imm.toNat % 256 ^ sz, false⟩

/-- R86: element `k` of the destination, which only VFMA reads. -/
def ewD (s : State) (c : CoreId) (op : Ew) (a : VxArgs) (k : Nat) : Elem :=
  if op = .fma then vfElem s c (vxType (a.ty.toNat % 16)).bytes a.dst.toNat k else ⟨0, false⟩

/-- The command of a function of the vector engine. -/
def fnInstr : Fn → CoreId → Hdr → VxArgs → Instr
  | .exp2 => .vexp2 | .exp => .vexp | .log2 => .vlog2 | .rcp => .vrcp
  | .rsqrt => .vrsqrt | .sqrt => .vsqrt | .tanh => .vtanh | .sigmoid => .vsigmoid

/-- The command of a reduction. -/
def rdInstr : Rd → CoreId → Hdr → VxArgs → Instr
  | .sum => .vrsum | .sumsq => .vrsumsq | .max => .vrmax | .maxabs => .vrmaxabs

/-- R83: its opcode. -/
def rdCode : Rd → Nat
  | .sum => 0x10 | .sumsq => 0x11 | .max => 0x12 | .maxabs => 0x13

/-- R87, R98: the FP32 code of a reduction of the run of `cnt` elements at `a`: the canonical NaN where an element is poisoned. -/
def rdResult (s : State) (c : CoreId) (op : Rd) (ty cnt a : Nat) : Nat :=
  let f := vxType ty
  let es := (List.range cnt).map (vfElem s c f.bytes a)
  if es.any (fun e => e.poison) then Fp.nan .fp32 else (encodeNear .fp32 (rdAll op (es.map (fun e => f.decode e.code))).v).code

/-- The fields that an operation on the vector file may write. -/
def vectorKeys (c : CoreId) : List Nat := keysOf (coreP c) (seqFields ++ vfFields ++ vxFields)

/-- `x` is no byte of the `n` bytes of core `c`'s vector file from operand address `dst`. -/
def besideVf (c : CoreId) (dst n x : Nat) : Prop := x < vfBase c.site c.n + vfOff dst ∨ vfBase c.site c.n + vfOff dst + n ≤ x

/-- R79: the status fields that a CONVERT writes. -/
def convFields : List Fld := [Reg.Co.SAT, Reg.Co.NAN_OVF, Reg.Co.CONV_SAT_CNT, Reg.Co.POISON_IN, Reg.Co.CONV_POISON_CNT, Reg.Co.NAN_IN,
  Reg.Co.INF_IN, Reg.Co.RNG_STATE] ++ (List.range 8).map Reg.Co.RMAX

/-- R64 to R67: element `k` of a CONVERT's source run. -/
def convElem (s : State) (c : CoreId) (a : VxArgs) (k : Nat) : SrcElem :=
  (convSrc s c (cvFmt (a.ty.toNat % 16)) a.srca.toNat a.count.toNat k 1).headD ⟨.nan, true⟩

/-- R82: the modes of a CONVERT: stochastic rounding, NaN on overflow, automatic exponent. -/
def convStoch (a : VxArgs) : Bool := bits a.flags.toNat 1 1 = 1
def convNanOvf (a : VxArgs) : Bool := bits a.flags.toNat 2 1 = 1
def convAuto (a : VxArgs) : Bool := bits a.flags.toNat 3 1 = 1

/-- R72, R73: the exponent byte of block `b` of a block-scaled destination: 0x80 where an element is poisoned, otherwise the one
chosen for the block, or the one that the operation names. -/
def convExp (s : State) (c : CoreId) (a : VxArgs) (f : Bs) (b : Nat) : Nat :=
  let es := (List.range (min 128 (a.count.toNat - 128 * b))).map (fun e => convElem s c a (128 * b + e))
  let big := es.foldl (fun (m : Val) e => if e.v = .nan then m else m.max e.v.abs) (.zero false)
  if es.any (fun e => e.poison) then 0x80
  else if convAuto a then unsgn 8 (chooseExp f (convStoch a) big)
  else a.imm.toNat % 256

/-- The `n` bytes at address `a` do not hold byte `x`. -/
def besideMem (a n x : Nat) : Prop := x < a ∨ a + n ≤ x

/-! ### Operations of the other slots -/

def mxBundle (h : Hdr) (mx : Nat) : Nat := bundleOf (hdrOf h false 0) mx 0 0 0
def mvBundle (h : Hdr) (op : Nat) (a : MvArgs) : Nat := bundleOf (hdrOf h false 0) 0 0 (mvOf op a) 0
def lkBundle (h : Hdr) (op : Nat) (a : LkArgs) : Nat := bundleOf (hdrOf h false 0) 0 0 0 (lkOf op a)
def ctlBundle (h : Hdr) (op arg : Nat) : Nat := bundleOf (hdrOf h (ctlArg op) op) 0 0 0 arg

/-- R43 to R45, R58: what MXMUL and MXDRAIN note of errors. -/
def mxFields : List Fld := [Reg.Co.ACC_CE, Reg.Co.CE_CNT, Reg.Co.ACC_UE, Reg.Co.CLR_LOST, Reg.Co.SCALE_POISON, Reg.Co.ACC_INF, Reg.Co.INF_CNT,
  Reg.Co.ACT_PARITY, Reg.Co.XREG_PARITY, Reg.Co.SCALE_PARITY, Reg.Co.PARITY_CNT]

/-- R45: the groups of slot `m` with an uncorrectable word, which count as poisoned. -/
def slotBad (s : State) (c : CoreId) (m : Nat) : Nat := slotPoison s c m ||| (noteSlot s c m).2

/-- R42, R43: the groups that the array's upsets strike in row `i`. -/
def hitGroups (l : List (Nat × Nat)) (i : Nat) : Nat := (l.filter (fun b => b.1 = i)).foldl (fun a b => a ||| b.2) 0

/-- R49: row `i` of an MXMUL whose slot fields are given, over what its slot held. -/
def mulRes (s : State) (c : CoreId) (wbuf acc amode : BitVec 1) (aq : BitVec 3) (aoff slot : BitVec 7) (xsel : BitVec 1)
    (xidx : BitVec 7) (pshift : BitVec 6) (arr : ArrayUpset) (i : Nat) : RowRes :=
  rowStep s c wbuf.toNat amode.toNat aq.toNat aoff.toNat xsel.toNat xidx.toNat (sgn 6 pshift.toNat) (hitGroups arr.lanes i) i
    (if acc = 1 then 0 else memRead s.mem (slotAddr c (slot.toNat + i)) 2048)

/-- R158: what an MV operation moves. -/
inductive Mv where
  | cp | cr | cw | xr | xw | wr | ww
  deriving DecidableEq, Repr

def mvInstr : Mv → CoreId → Hdr → MvArgs → Instr
  | .cp => .mvcp | .cr => .mvcr | .cw => .mvcw | .xr => .mvxr | .xw => .mvxw | .wr => .mvwr | .ww => .mvww

def mvCode : Mv → Nat
  | .cp => 1 | .cr => 2 | .cw => 3 | .xr => 4 | .xw => 5 | .wr => 6 | .ww => 7

/-- R158: line count: its field, plus one. -/
def mvCount (op : Mv) (a : MvArgs) : Nat :=
  match op with
  | .cp => bits a.rest.toNat 12 6 + 1
  | .cr | .cw => bits a.rest.toNat 19 6 + 1
  | .xr | .xw => bits a.rest.toNat 15 6 + 1
  | .wr | .ww => bits a.rest.toNat 29 4 + 1

/-- R158: line `i` at the core's own end, and at the other end. -/
def mvOwn (c : CoreId) (a : MvArgs) (i : Nat) : Nat := spAddr c.site c.n a.bank.toNat (a.line.toNat + i)

def mvOther (c : CoreId) (op : Mv) (a : MvArgs) (i : Nat) : Nat :=
  let r := a.rest.toNat
  match op with
  | .cp => spAddr c.site c.n (bits r 0 5) (bits r 5 7 + i)
  | .cr | .cw => cisAddr c.site (bits r 0 4) (bits r 4 15 + i)
  | .xr | .xw => spAddr c.site (bits r 0 3) (bits r 3 5) (bits r 8 7 + i)
  | .wr | .ww => wellAddr c.site (bits r 0 29 + i)

def mvFrom (c : CoreId) (op : Mv) (a : MvArgs) (i : Nat) : Nat :=
  match op with
  | .cr | .xr | .wr => mvOther c op a i
  | _ => mvOwn c a i

def mvTo (c : CoreId) (op : Mv) (a : MvArgs) (i : Nat) : Nat :=
  match op with
  | .cr | .xr | .wr => mvOwn c a i
  | _ => mvOther c op a i

/-- R202, R215: the poison marks that arrive with a line: the well keeps them by half-lines, and a line that is still landing is
poisoned throughout. -/
def mvMarks (s : State) (c : CoreId) (op : Mv) (a : MvArgs) (i m : Nat) : Nat :=
  match op with
  | .wr => if inLanding s c.site (bits a.rest.toNat 0 29 + i) then 0xFFFF else halfPoison m
  | .ww => halfPoison m
  | _ => m

/-- R119, R222: what reads of the cistern and of the well note. -/
def cisFields : List Fld := [Reg.Ci.CE, Reg.Ci.CIS_CE_CNT, Reg.Ci.UE, Reg.Ci.CIS_UE_CNT, Reg.Ci.UE_SLICE, Reg.Ci.UE_LINE, Reg.Ci.UE_WORD]
def wellFields : List Fld := [Reg.We.CE, Reg.We.WELL_CE_CNT, Reg.We.UE, Reg.We.WELL_UE_CNT, Reg.We.UE_LINE, Reg.We.UE_HALF, Reg.We.LANDING,
  Reg.We.LAND_HIT_CNT]

/-- What a move may note. -/
def mvKeys (c : CoreId) (op : Mv) (a : MvArgs) : List Nat :=
  keysOf (coreP c) (seqFields ++ spFields) ++
    (match op with
      | .cr => keysOf (cisP c.site) cisFields
      | .xr => keysOf (coreP ⟨c.site, bits a.rest.toNat 0 3⟩) spFields
      | .wr | .ww => keysOf (wellP c.site) wellFields
      | _ => [])

/-- R316, R317: nothing stops at the moves' egress: the core does not stop on poison, or there is none in the lines it sends. -/
def mvPasses (s : State) (c : CoreId) (op : Mv) (a : MvArgs) : Prop :=
  op = .cp ∨ op = .cr ∨ op = .xr ∨ op = .wr ∨ egressStops s c = false ∨ ∀ i < mvCount op a, memPoison s.mem (mvOwn c a i) 16 = 0

/-- R161: the half-line that a KICK hands over. -/
def kickAddr (c : CoreId) (a : MvArgs) : Nat := mvOwn c a 0 + 64 * bits a.rest.toNat 0 1

/-- R163: the half-line of beat `j` of an LK operand. -/
def lkAddr (c : CoreId) (a : LkArgs) (j : Nat) : Nat :=
  let q := ringPlace a.bb.toNat a.nb.toNat a.line0.toNat a.rl.toNat j
  spAddr c.site c.n q.1 q.2 + 64 * (j % 2)

/-- R164: the binding that an LK operation makes. -/
def lkBind (s : State) (c : CoreId) (recv : Bool) (a : LkArgs) : Bind :=
  { hop := a.hopId.toNat, recv := recv, bb := a.bb.toNat, nb := a.nb.toNat, line0 := a.line0.toNat, rl := a.rl.toNat
    pc := (s.core c).nextPc, img := lkOf (if recv then 2 else 1) a }

/-- The operation rows and the bundle that each issues (log entry 13), with the array's upsets. -/
def rowOf : Instr → Option (CoreId × Nat × ArrayUpset)
  | .mxload c h wbuf wmode dq doff sq soff fine rsv => some (c, mxBundle h (mxloadOf wbuf wmode dq doff sq soff fine rsv), {})
  | .mxexp c h xsel bank line rsv => some (c, mxBundle h (mxexpOf xsel bank line rsv), {})
  | .mxmul c h wbuf acc amode aq aoff mcnt slot xsel xidx pshift rsv arr =>
    some (c, mxBundle h (mxmulOf wbuf acc amode aq aoff mcnt slot xsel xidx pshift rsv), arr)
  | .mxdrain c h fmt clr slot scnt dq doff rsv => some (c, mxBundle h (mxdrainOf fmt clr slot scnt dq doff rsv), {})
  | .vmov c h a => some (c, vxBundle h 0x01 a, {}) | .vadd c h a => some (c, vxBundle h 0x02 a, {})
  | .vsub c h a => some (c, vxBundle h 0x03 a, {}) | .vmul c h a => some (c, vxBundle h 0x04 a, {})
  | .vfma c h a => some (c, vxBundle h 0x05 a, {}) | .vmax c h a => some (c, vxBundle h 0x06 a, {})
  | .vmin c h a => some (c, vxBundle h 0x07 a, {}) | .vabs c h a => some (c, vxBundle h 0x08 a, {})
  | .vneg c h a => some (c, vxBundle h 0x09 a, {}) | .vscale c h a => some (c, vxBundle h 0x0A a, {})
  | .vrsum c h a => some (c, vxBundle h 0x10 a, {}) | .vrsumsq c h a => some (c, vxBundle h 0x11 a, {})
  | .vrmax c h a => some (c, vxBundle h 0x12 a, {}) | .vrmaxabs c h a => some (c, vxBundle h 0x13 a, {})
  | .vexp2 c h a => some (c, vxBundle h 0x20 a, {}) | .vexp c h a => some (c, vxBundle h 0x21 a, {})
  | .vlog2 c h a => some (c, vxBundle h 0x22 a, {}) | .vrcp c h a => some (c, vxBundle h 0x23 a, {})
  | .vrsqrt c h a => some (c, vxBundle h 0x24 a, {}) | .vsqrt c h a => some (c, vxBundle h 0x25 a, {})
  | .vtanh c h a => some (c, vxBundle h 0x26 a, {}) | .vsigmoid c h a => some (c, vxBundle h 0x27 a, {})
  | .convert c h a => some (c, vxBundle h 0x30 a, {}) | .vseed c h a => some (c, vxBundle h 0x31 a, {})
  | .vrmaxrd c h a => some (c, vxBundle h 0x32 a, {}) | .vrmaxrr c h a => some (c, vxBundle h 0x33 a, {})
  | .vcstat c h a => some (c, vxBundle h 0x34 a, {}) | .vload c h a => some (c, vxBundle h 0x40 a, {})
  | .vstore c h a => some (c, vxBundle h 0x41 a, {}) | .mvcp c h a => some (c, mvBundle h 1 a, {})
  | .mvcr c h a => some (c, mvBundle h 2 a, {}) | .mvcw c h a => some (c, mvBundle h 3 a, {})
  | .mvxr c h a => some (c, mvBundle h 4 a, {}) | .mvxw c h a => some (c, mvBundle h 5 a, {})
  | .mvwr c h a => some (c, mvBundle h 6 a, {}) | .mvww c h a => some (c, mvBundle h 7 a, {})
  | .kick c h a => some (c, mvBundle h 8 a, {}) | .lksend c h a => some (c, lkBundle h 1 a, {})
  | .lkrecv c h a => some (c, lkBundle h 2 a, {}) | .loop c h count len rsv => some (c, ctlBundle h 1 (loopArg count len rsv), {})
  | .jump c h target rsv => some (c, ctlBundle h 2 (jumpArg target rsv), {}) | .stop c h => some (c, ctlBundle h 3 0, {})
  | .note c h tag rsv => some (c, ctlBundle h 4 (noteArg tag rsv), {}) | .tstart c h t => some (c, ctlBundle h (0x10 + t.toNat) 0, {})
  | .tstop c h t => some (c, ctlBundle h (0x20 + t.toNat) 0, {})
  | _ => none

/-- R147, R165, R314, R316: what core `c` fetches for cycle `t` can issue as it stands: it lies in no open write window, and no word
of it is poisoned or has been corrected. -/
def FetchesCleanly (s : State) (c : CoreId) (t : Nat) : Prop :=
  let p := (s.core c).nextPc
  windowRow s c p t = none ∧ fetchPoison s c p = 0 ∧ noteFetch s c p = s

/-- R169, R383: what a record for the region of site `i` may write beside the log: its event queue, of which the entry stands in host
memory or is lost. -/
def RecordsOutside (s : State) (i : Nat) : Prop :=
  let r := (s.site i).region
  16 ≤ r ∨ qRoom s (evqIx r) = false ∨ s.rd queueP (qFld (Reg.Qu.HOST 0) (evqIx r)) = 1

/-- R171, R383: the registers that a core record writes. -/
def recordKeys (c : CoreId) (r : Nat) : List Nat :=
  keysOf (coreP c) [Reg.Co.RECORD_SEQ] ++ logKeys ++ keysOf queueP [qFld (Reg.Qu.HEAD 0) (evqIx r), Reg.Qu.EVQ_DROP r]

/-- R92: the scratchpad line that stream line `i` of a move from or to operand address `a` names. -/
def moveLine (c : CoreId) (a i : Nat) : Nat := spAddr c.site c.n (moveBank a i).1 (moveBank a i).2

/-! ### The courier plane and the fabric -/

/-- R183: the commands that bring envelope `e` to endpoint `ep`. -/
def arrivals (ep : Nat) (e : Env) (sp : HubSpace) : List Instr :=
  match e.kind.toNat with
  | 1 => [.openWr ep sp e]
  | 2 => [.openRd ep sp e]
  | 4 => [.done ep e]
  | 5 => [.ack ep false e, .ack ep true e]
  | 6 => [.notice ep false e, .notice ep true e]
  | _ => [.data ep false e, .data ep true e]

/-- R183, R188: the envelope is as it must be, is no circular, names endpoint `ep`, and carries its region. -/
def Heard (s : State) (ep : Nat) (e : Env) : Prop :=
  badEnv s e = false ∧ e.circ = false ∧ e.dst.toNat = epCode s ep ∧ e.region.toNat = actRegion s ep

/-- R185: outbound stream `k` of site `ep`, as it stands in `u`, is sent again by its next attempt, or breaks when there is none. -/
def Retried (u t : State) (ep k : Nat) : Prop :=
  let m := u.stream ep k
  let p := cniP ep
  let next := attemptAfter u ep m.panel m.region (epCode u ep) m.dst k (u.rd p (Reg.Cn.ATTEMPT k)) m.direct
  (∀ a, next = some a → t.rd p (Reg.Cn.ATTEMPT k) = a % 2 ^ (Reg.Cn.ATTEMPT k).w ∧ (t.stream ep k).tx.win = m.tx.win ∧ (t.stream ep k).retried = true ∧
    (m.tx.win ≠ [] → t.rd p Reg.Cn.RETRANS_CNT = satAdd (2 ^ 16 - 1) (u.rd p Reg.Cn.RETRANS_CNT) m.tx.win.length)) ∧
  (next = none → streamState t ep k = 2 ∧ t.rd p Reg.Cn.BROKEN = 1 ∧ t.stream ep k = {})

/-- R106: an open access of a context's piece has been made: it leaves the queue, and memory holds what it wrote. -/
def Served (s t : State) (i : Nat) (q : OpenReq) : Prop :=
  q.job = 2 → t.mem = (if q.wr then (openWrite s i q.off q.n ⟨q.data, q.poison⟩).mem else s.mem) ∧ (s.site i).opens.erase q <+: (t.site i).opens

/-- R108: a scrub access of core `c` may use bank `b` in frame cycle `cyc`. -/
def scrubMay (s : State) (c : CoreId) (cyc b : Nat) : Bool :=
  if b < 20 then openAt b cyc && (portPick s c.site (atCore c.n) (fun q => openAt (offBank q.off) cyc)).isNone
  else decide (b < 24) && coreQuiet s c

/-- R134, R138: the hop entry, and the number of its beat, that slot `sl` of window `w` from direction `d` brings. -/
def beatHit (s : State) (i d w sl : Nat) : Option (Nat × Nat) :=
  let t := hopTable s i
  ((List.range t.2).map (hopEntry s i t.1)).findSome? (fun e => (beatAt e d w sl).map (fun j => (e, j)))

/-- R138, R164: the core that takes beats of entry `e`, unless the entry only relays. -/
def beatBound (s : State) (i e : Nat) : Option (CoreId × Bind) := if hopType e = 1 then none else boundBy s i (hopId e)

/-- R231: port `p` of hub `h` has retrained, or is held down where it has retrained too often. -/
def Retrained (s t : State) (h p : Nat) : Prop :=
  let q := portP h p
  let n := (retrains60 (s.optic h p) s.up).length
  if 4 ≤ n then portState t h p = 4 ∧ t.rd q Reg.Fa.HOLD_LEFT = 1000 * 2 ^ s.rd q Reg.Fa.HOLD_LEVEL % 2 ^ Reg.Fa.HOLD_LEFT.w ∧
    t.rd q Reg.Fa.HOLD_LEVEL = min 10 (s.rd q Reg.Fa.HOLD_LEVEL + 1) % 2 ^ Reg.Fa.HOLD_LEVEL.w ∧ bits (t.rd q Reg.Fa.PORT_ERR) 3 1 = 1 ∧
    t.rd q Reg.Fa.RETRAINS_60S = 0
  else portState t h p = 1 ∧ t.rd q Reg.Fa.RETRAINS_60S = n + 1 ∧ bits (t.rd q Reg.Fa.PORT_ERR) 1 1 = 1 ∧
    t.rd q Reg.Fa.RETRAIN_CNT = satAdd (2 ^ Reg.Fa.RETRAIN_CNT.w - 1) (s.rd q Reg.Fa.RETRAIN_CNT) 1

/-- R245: a message to the twin, by the TB ports that are up. -/
def toTwin (s : State) (m : TwinMsg) : List Out := ([(0, 0), (15, 1)].filter (fun x => portUp s x.1 4)).map (fun x => Out.tb x.2 m)

/-- R246, R247: the twin's state becomes `v`, and the last that leaves are `ms`. -/
def TwinGoes (s t : State) (v leave : Nat) (ms : List Out) : Prop :=
  twinState t = v ∧ t.rd twinP Reg.Tw.LEAVER = leave ∧ ms <:+ t.out ∧ t.mem = s.mem

/-- TWIN_ERR bit `b` is set. -/
def twinHas (t : State) (b : Nat) : Prop := bits (t.rd twinP Reg.Tw.TWIN_ERR) b 1 = 1

/-- R324: copy `recTarget s ty` of the record of type `ty` is now valid with body `b`, or holds nothing where the flash write failed. -/
def RecordPut (s t : State) (ty : Nat) (b : List Nat) (ok : Bool) : Prop :=
  let c := recTarget s ty
  (if ok then recValid ty (recCopy t ty c) = true ∧ recBody (recCopy t ty c) = b else recCopy t ty c = []) ∧
    recCopy t ty (1 - c) = recCopy s ty (1 - c)

/-- R371: a write of offset `off` of a page is refused: it is noted, and nothing else changes. -/
def Refused (s t : State) (page off : Nat) : Prop :=
  t.rd page Reg.Hd.BAD_VALUE = 1 ∧ t.rd page Reg.Hd.LAST_OFFSET = off ∧ OnlyRegs (keysOf page [Reg.Hd.BAD_VALUE, Reg.Hd.LAST_OFFSET]) s t

/-- R371: the same for a page of site `i`, where the access counts against the site's budget. -/
def RefusedAt (s t : State) (i page off : Nat) : Prop :=
  t.rd page Reg.Hd.BAD_VALUE = 1 ∧ t.rd page Reg.Hd.LAST_OFFSET = off ∧ t.mem = s.mem ∧ t.out = s.out ∧
    Off (keysOf page [Reg.Hd.BAD_VALUE, Reg.Hd.LAST_OFFSET] ++ keysOf (budP i) [Reg.Bu.BUD_HIT]) s t

/-- R388: the requests of the steps. -/
def stepRows (via : Option (BitVec 4)) : List (Nat × Instr) :=
  [(1, .powerBase), (2, .clockRoot), (3, .discover), (4, .fence), (5, .lanes), (6, .map), (7, .powerSites), (8, .clockMesh),
    (9, .memory), (10, .licence via), (11, .fabric), (12, .ready)]

/-- R378: a step has ended: STATE and FAIL_CODE. -/
def StepEnds (t : State) (st code : Nat) : Prop := t.rd bringP Reg.Br.STATE = st ∧ t.rd bringP Reg.Br.FAIL_CODE = code

/-- The rows that change no byte and no mark of memory, whatever the state. -/
def storesNothing : Instr → Bool
  | .arm _ | .disarm _ | .programStart _ | .markGenerate .. | .markMessage .. | .frGo _ | .frameRequestCancel .. | .freq .. => true
  | .freqRampUp .. | .freqRampDown _ | .frameCfg .. | .schedSwap .. | .dormantEnter .. | .wakeFail .. | .assignGo _ | .regionClearDone _ => true
  | .periodBoundary _ | .wbPost .. | .waybillTake .. | .envelopeSend .. | .openWr .. | .openRd .. | .done .. | .ack .. | .ackTimeout .. => true
  | .openRetry .. | .ctxIdle .. | .streamReset .. | .drain _ | .drainDone _ | .drainTimeout _ | .swap _ | .drainAbort _ => true
  | .wellRefresh .. | .wstCheck .. | .landClr .. | .eflIdleBlock .. | .ident .. | .identSend .. | .time .. | .timeExchange .. | .replayReq .. => true
  | .train .. | .retrain .. | .retrainDone .. | .retrainTimeout .. | .holdEnd .. | .holdClr .. | .holdLevelReset .. => true
  | .lossOfBlockAlignment .. | .frtCheck _ | .frtSwap _ | .fabStall .. | .firewallRequest .. | .deepLinkDown _ | .hostCompletion .. => true
  | .hotReset _ | .heartbeat | .hbLoss _ | .pair _ | .pairTimeout | .unpair | .reqDetach | .detachTimeout | .shrunk | .reqAttach => true
  | .attach | .twinAbort | .heartbeatReceipt .. | .meshLock _ | .refLoss _ | .referenceRelock _ | .holdoverExpiry _ | .jitClr _ | .histClr _ => true
  | .stretchEnd _ | .settlingEnd _ | .rootFault | .inputLow _ | .inputHigh _ | .vsetUpdate .. | .minClr .. | .trayReport .. | .trayLost => true
  | .smbTags .. | .panelFactorUpdate .. | .mbxData3Read _ | .queueEnable .. | .stepTimeout | .stepDone _ | .install _ | .remove .. => true
  | .licenceDateCheck | .remapGo .. | .remapProposed | .commit | .cancel | .setGo | .calGo | .logFlashCopy .. | .timerClr .. => true
  | .fetch | .fwStageDone .. | .activate | .fwBootTimeout | .fwAlive | .confirm | .revert | .fwDiscard | .recWrite _ => true
  | _ => false

end Sys2Proof.Machine
end

