-- ==== Sys2Proof/Certificates/Slice0/Obligations.lean ====
section
/-! DEFINITION. The statements for the provers. -/

open Sys2Proof Sys2Proof.Machine

/-! ### The queue, reset and soundness -/

/-- A step runs the command that waits first, on the machine with the rest of the queue. -/
def Obligations.StepRunsFrontCommand : Prop :=
  ∀ (s : State) (i : Instr) (rest : List Instr), s.pending = i :: rest → step s = exec i { s with pending := rest }

/-- The model's choice (log entry 2): with no command waiting a step answers a next state in which one reference period has
passed, in the units of R271 and R409: the reference counter of a running root, the panel time of an always-on stage that is
up, and CAL_RANGE of R411, which follows the panel time. Nothing else changes. -/
def Obligations.IdleStepPassesOnePeriod : Prop :=
  ∀ s : State, s.pending = [] → ∃ t, step s = .next t ∧
    t.rcnt = s.rcnt + (if s.rootOn then 64 else 0) ∧
    t.tenths = s.tenths + (if s.alwaysOn then 64 else 0) ∧ t.up = s.up + (if s.alwaysOn then 64 else 0) ∧
    t = { s with rcnt := t.rcnt, tenths := t.tenths, up := t.up, regs := t.regs } ∧
    (s.alwaysOn = true → t.rd timeP Reg.Ti.CAL_RANGE = if calEnd ≤ t.time then 1 else 0) ∧
    ∀ page f, (fldKey page f ≠ fldKey timeP Reg.Ti.CAL_RANGE ∨ s.alwaysOn = false) → t.rd page f = s.rd page f

/-- A command completes exactly where the units that it names exist on a panel; elsewhere it ends the run by name. -/
def Obligations.CommandsCompleteOnUnitsOfThePanel : Prop :=
  ∀ (i : Instr) (s : State),
    (i.wf = true → ∃ t, exec i s = .next t) ∧ (i.wf = false → exec i s = .fault .noSuchUnit)

/-- No command touches the queue, so that what waits behind it runs next, in order; and what the panel has sent stays sent:
every command only adds to it. -/
def Obligations.CommandsLeaveTheQueueAndWhatIsSent : Prop :=
  ∀ (i : Instr) (s t : State), exec i s = .next t → t.pending = s.pending ∧ s.out <+: t.out

/-- Every step keeps a sound state sound: memory in canonical form, registers listed once, waiting commands well formed. -/
def Obligations.StepKeepsSoundness : Prop :=
  ∀ s t : State, s.inv → step s = .next t → t.inv

/-- The machine is sound after reset. -/
def Obligations.ResetIsSound : Prop := State.reset.inv

/-- A sound state never stops: every step of it answers a next state, sound again. -/
def Obligations.SoundStatesNeverStop : Prop :=
  ∀ s : State, s.inv → ∃ t, step s = .next t ∧ t.inv

/-! ### Vector operations -/

/-- R86: an issued element-wise operation writes every element of its destination as the exact operation rounded once, or the
canonical NaN where an operand element is poisoned; no byte beside the destination changes, nor any register but the status of
the vector engine. Operands that the destination overtakes are left to R96's cycle order and are not spoken of here. -/
def Obligations.ElementwiseOperations : Prop :=
  ∀ (op : Ew) (s : State) (c : CoreId) (h : Hdr) (a : VxArgs) (t : Nat), Memory.wf s.mem = true →
    Issues s c (vxBundle h (ewCode op) a) t →
    clearOf (vxType (a.ty.toNat % 16)).bytes a.count.toNat a.dst.toNat a.srca.toNat →
    (op.hasB = true ∧ a.flags.toNat % 2 = 0 → clearOf (vxType (a.ty.toNat % 16)).bytes a.count.toNat a.dst.toNat a.srcb.toNat) →
    ∃ u, exec (ewInstr op c h a) s = .next u ∧
      (∀ k < a.count.toNat,
        let f := vxType (a.ty.toNat % 16)
        let x := vfElem s c f.bytes a.srca.toNat k
        let y := ewB s c op a k
        let z := ewD s c op a k
        (vfElem u c f.bytes a.dst.toNat k).code =
          if x.poison || y.poison || z.poison then f.nan else (ewElem op f x.code y.code z.code (sgn 8 a.imm.toNat)).code) ∧
      (∀ x, besideVf c a.dst.toNat ((vxType (a.ty.toNat % 16)).bytes * a.count.toNat) x → memByte u.mem x = memByte s.mem x) ∧
      CoreFrame c (vectorKeys c) s u

/-- R88, R89: an issued function writes, for each element, the function of the element, widened, computed in FP32 and rounded
once into the type; the canonical NaN where the element is poisoned. The FP32 result is the reference moved by the free step of
log entry 10, which no clause looks at. -/
def Obligations.VectorFunctions : Prop :=
  ∀ (fn : Fn) (s : State) (c : CoreId) (h : Hdr) (a : VxArgs) (t : Nat), Memory.wf s.mem = true →
    Issues s c (vxBundle h fn.code a) t →
    clearOf (vxType (a.ty.toNat % 16)).bytes a.count.toNat a.dst.toNat a.srca.toNat →
    ∃ u, exec (fnInstr fn c h a) s = .next u ∧
      (∀ k < a.count.toNat,
        let f := vxType (a.ty.toNat % 16)
        let x := vfElem s c f.bytes a.srca.toNat k
        (vfElem u c f.bytes a.dst.toNat k).code = if x.poison then f.nan else (fnElem fn f x.code).code) ∧
      (∀ x, besideVf c a.dst.toNat ((vxType (a.ty.toNat % 16)).bytes * a.count.toNat) x → memByte u.mem x = memByte s.mem x) ∧
      CoreFrame c (vectorKeys c) s u

/-- R87: an issued reduction writes as many FP32 copies of its result as its immediate names. -/
def Obligations.Reductions : Prop :=
  ∀ (op : Rd) (s : State) (c : CoreId) (h : Hdr) (a : VxArgs) (t : Nat), Memory.wf s.mem = true →
    Issues s c (vxBundle h (rdCode op) a) t →
    ∃ u, exec (rdInstr op c h a) s = .next u ∧
      (∀ k < a.imm.toNat % 2 ^ 14,
        (vfElem u c 4 a.dst.toNat k).code = rdResult s c op (a.ty.toNat % 16) a.count.toNat a.srca.toNat) ∧
      (∀ x, besideVf c a.dst.toNat (4 * (a.imm.toNat % 2 ^ 14)) x → memByte u.mem x = memByte s.mem x) ∧
      CoreFrame c (vectorKeys c) s u

/-- R68 to R76, R90: an issued CONVERT whose operands do not overlap writes each element converted once: its code in a floating
destination, its pieces and its block's exponent byte in a block-scaled one; the generator moves 16 steps an element where it is
used. -/
def Obligations.ConvertRuns : Prop :=
  ∀ (s : State) (c : CoreId) (h : Hdr) (a : VxArgs) (t : Nat), Memory.wf s.mem = true →
    Issues s c (vxBundle h 0x30 a) t →
    let sf := cvFmt (a.ty.toNat % 16)
    let df := cvFmt (a.ty.toNat / 16)
    let n := a.count.toNat
    let g := s.rd (coreP c) Reg.Co.RNG_STATE
    (vfOff a.dst.toNat + fmtExtent df n ≤ vfOff a.srca.toNat ∨ vfOff a.srca.toNat + fmtExtent sf n ≤ vfOff a.dst.toNat) →
    ∃ u, exec (.convert c h a) s = .next u ∧
      (∀ k < n, let x := convElem s c a k
        match df with
        | .fp f => vfBytes u c (vfOff a.dst.toNat + f.bytes * k) f.bytes =
            if x.poison then f.nan else (convFp f (convRnd (convStoch a) g k) (convNanOvf a) x.v).pieces.headD 0
        | .bs f =>
          vfBytes u c (vfOff a.dst.toNat + 128 * (f.pieces * cdiv n 128) + k / 128) 1 = convExp s c a f (k / 128) ∧
            ∀ p < f.pieces, vfBytes u c (vfOff a.dst.toNat + 128 * (p * cdiv n 128 + k / 128) + k % 128) 1 =
              if convExp s c a f (k / 128) = 0x80 then 0
              else (convBs f (convRnd (convStoch a) g k) (convNanOvf a) (e8 (convExp s c a f (k / 128))) x.v).pieces.getD p 0) ∧
      u.rd (coreP c) Reg.Co.RNG_STATE = (if convStoch a then lfsr (16 * n) g else g) ∧
      (∀ x, besideVf c a.dst.toNat (fmtExtent df n) x → memByte u.mem x = memByte s.mem x) ∧
      CoreFrame c (keysOf (coreP c) (seqFields ++ vfFields ++ convFields)) s u

/-- R70, R91: VSEED sets the generator to its immediate, and to 1 for 0; it touches no memory. -/
def Obligations.SeedSetsTheGenerator : Prop :=
  ∀ (s : State) (c : CoreId) (h : Hdr) (a : VxArgs) (t : Nat), Issues s c (vxBundle h 0x31 a) t →
    ∃ u, exec (.vseed c h a) s = .next u ∧
      u.rd (coreP c) Reg.Co.RNG_STATE = (if a.imm.toNat = 0 then 1 else a.imm.toNat) ∧ u.mem = s.mem ∧
      CoreFrame c (keysOf (coreP c) (seqFields ++ [Reg.Co.RNG_STATE])) s u

/-- R92: an issued VLOAD copies each stream line, with its poison, from the scratchpad into the vector file, and an issued VSTORE
from the vector file into the scratchpad; no byte beside the lines written changes. -/
def Obligations.VectorStreams : Prop :=
  ∀ (s : State) (c : CoreId) (h : Hdr) (a : VxArgs) (t : Nat), Memory.wf s.mem = true → Quiet s c t →
    (Issues s c (vxBundle h 0x40 a) t → ∃ u, exec (.vload c h a) s = .next u ∧
      (∀ i < a.count.toNat,
        u.take (vfBase c.site c.n + vfOff a.dst.toNat + 128 * i) 16 = s.take (moveLine c a.srca.toNat i) 16) ∧
      (∀ x, besideVf c a.dst.toNat (128 * a.count.toNat) x → memByte u.mem x = memByte s.mem x) ∧
      CoreFrame c (keysOf (coreP c) (seqFields ++ spFields)) s u) ∧
    (Issues s c (vxBundle h 0x41 a) t → ∃ u, exec (.vstore c h a) s = .next u ∧
      (∀ i < a.count.toNat,
        u.take (moveLine c a.dst.toNat i) 16 = s.take (vfBase c.site c.n + vfOff a.srca.toNat + 128 * i) 16) ∧
      (∀ x, (∀ i < a.count.toNat, besideMem (moveLine c a.dst.toNat i) 128 x) → memByte u.mem x = memByte s.mem x) ∧
      CoreFrame c (keysOf (coreP c) (seqFields ++ vfFields)) s u)

/-- R91: the status operations write a running maximum (VRMAXRR then resets it to +0) or CONV_ERR, the two counts and the
generator where DST points, in the vector file or in the scratchpad, and nothing else. -/
def Obligations.StatusWrites : Prop :=
  ∀ (s : State) (c : CoreId) (h : Hdr) (a : VxArgs) (t : Nat), Memory.wf s.mem = true → Quiet s c t →
    let d := statusAddr c a.dst.toNat
    let k := a.imm.toNat % 8
    let p := coreP c
    (Issues s c (vxBundle h 0x32 a) t → ∃ u, exec (.vrmaxrd c h a) s = .next u ∧
      memRead u.mem d 4 = s.rd p (Reg.Co.RMAX k) % 2 ^ 32 ∧ (∀ x, besideMem d 4 x → memByte u.mem x = memByte s.mem x) ∧
      CoreFrame c (keysOf p seqFields) s u) ∧
    (Issues s c (vxBundle h 0x33 a) t → ∃ u, exec (.vrmaxrr c h a) s = .next u ∧
      memRead u.mem d 4 = s.rd p (Reg.Co.RMAX k) % 2 ^ 32 ∧ u.rd p (Reg.Co.RMAX k) = 0 ∧
      (∀ x, besideMem d 4 x → memByte u.mem x = memByte s.mem x) ∧ CoreFrame c (keysOf p (seqFields ++ [Reg.Co.RMAX k])) s u) ∧
    (Issues s c (vxBundle h 0x34 a) t → ∃ u, exec (.vcstat c h a) s = .next u ∧
      memRead u.mem d 16 = (convErr s c + s.rd p Reg.Co.CONV_SAT_CNT * 2 ^ 32 + s.rd p Reg.Co.CONV_POISON_CNT * 2 ^ 64 +
        s.rd p Reg.Co.RNG_STATE * 2 ^ 96) % 2 ^ 128 ∧
      (∀ x, besideMem d 16 x → memByte u.mem x = memByte s.mem x) ∧ CoreFrame c (keysOf p seqFields) s u)

/-! ### Matrix, move, link and control operations -/

/-- R33, R34, R40, R53: an issued MXLOAD copies the data lines and the side lines of its tile into the buffer that it names, which is
then valid in the tile's mode; a W2T tile with the code that W2T leaves unused is noted. -/
def Obligations.TilesStandInTheirBuffer : Prop :=
  ∀ (s : State) (c : CoreId) (h : Hdr) (wbuf : BitVec 1) (wmode dq : BitVec 3) (doff : BitVec 7) (sq : BitVec 3) (soff : BitVec 7)
    (fine : BitVec 1) (rsv : BitVec 63) (t : Nat), Memory.wf s.mem = true → Quiet s c t →
    Issues s c (mxBundle h (mxloadOf wbuf wmode dq doff sq soff fine rsv)) t →
    let wb := wbufBase c.site c.n wbuf.toNat
    let valid := if wbuf = 0 then Reg.Co.BUF_A_VALID else Reg.Co.BUF_B_VALID
    let mode := if wbuf = 0 then Reg.Co.BUF_A_MODE else Reg.Co.BUF_B_MODE
    let line := fun i => (s.spLine c (4 * dq.toNat + i % 4) (doff.toNat + i / 4)).data
    ∃ u, exec (.mxload c h wbuf wmode dq doff sq soff fine rsv) s = .next u ∧
      (∀ i < 128, memRead u.mem (wb + 128 * i) 128 = line i) ∧
      (∀ k < sideLines wmode.toNat fine.toNat, memRead u.mem (wb + 0x4000 + 128 * k) 128 =
        (s.spLine c (4 * sq.toNat + k % 4) (soff.toNat + k / 4)).data) ∧
      u.rd (coreP c) valid = 1 ∧ u.rd (coreP c) mode = wmode.toNat ∧
      u.rd (coreP c) Reg.Co.W2T_CODE = (if wmode = 2 ∧ (List.range 128).any (fun i => w2tGroups (line i) != 0) = true then 1
        else s.rd (coreP c) Reg.Co.W2T_CODE) ∧
      (∀ x, besideMem wb (0x4000 + 128 * sideLines wmode.toNat fine.toNat) x → memByte u.mem x = memByte s.mem x) ∧
      CoreFrame c (keysOf (coreP c) (seqFields ++ spFields ++ [valid, mode, Reg.Co.W2T_CODE])) s u

/-- R36, R315: an issued MXEXP copies a line into an exponent register, with 0x80 in the bytes of its poisoned words. -/
def Obligations.ExponentsStandInTheirRegister : Prop :=
  ∀ (s : State) (c : CoreId) (h : Hdr) (xsel : BitVec 1) (bank : BitVec 5) (line : BitVec 7) (rsv : BitVec 75) (t : Nat),
    Memory.wf s.mem = true → Quiet s c t → Issues s c (mxBundle h (mxexpOf xsel bank line rsv)) t →
    let x := xregBase c.site c.n xsel.toNat
    let a := spAddr c.site c.n bank.toNat line.toNat
    ∃ u, exec (.mxexp c h xsel bank line rsv) s = .next u ∧
      (∀ b < 128, (memByte u.mem (x + b)).toNat =
        if bits (memPoison s.mem a 16) (b / 8) 1 = 1 then 0x80 else (memByte s.mem (a + b)).toNat) ∧
      (∀ y, besideMem x 128 y → memByte u.mem y = memByte s.mem y) ∧
      CoreFrame c (keysOf (coreP c) (seqFields ++ spFields)) s u

/-- R37 to R45: an issued MXMUL leaves in slot `slot + i` what row `i` makes of it, from nothing or from what stood there, with the
poison of its groups; where no row's check columns disagree, the core meets nothing outside the operation. -/
def Obligations.RowsMultiply : Prop :=
  ∀ (s : State) (c : CoreId) (h : Hdr) (wbuf acc amode : BitVec 1) (aq : BitVec 3) (aoff mcnt slot : BitVec 7) (xsel : BitVec 1)
    (xidx : BitVec 7) (pshift : BitVec 6) (rsv : BitVec 47) (arr : ArrayUpset) (t : Nat), Memory.wf s.mem = true → Quiet s c t →
    Issues s c (mxBundle h (mxmulOf wbuf acc amode aq aoff mcnt slot xsel xidx pshift rsv)) t →
    let n := mcnt.toNat + 1
    let row := fun i => mulRes s c wbuf acc amode aq aoff slot xsel xidx pshift arr i
    ∃ u, exec (.mxmul c h wbuf acc amode aq aoff mcnt slot xsel xidx pshift rsv arr) s = .next u ∧
      (RecordsOutside s c.site ∨ (∀ i < n, (row i).groups = 0) →
        (∀ i < n, memRead u.mem (slotAddr c (slot.toNat + i)) 2048 = (row i).codes ∧
          slotPoison u c (slot.toNat + i) = ((if acc = 1 then 0 else slotBad s c (slot.toNat + i)) ||| (row i).poison |||
            (if i ∈ arr.act ∨ i ∈ arr.exp then 0xFF else 0) ||| hitGroups arr.scale i % 256) % 256)) ∧
      ((∀ i < n, (row i).groups = 0) →
        (∀ x, besideMem (slotAddr c slot.toNat) (2048 * n) x → memByte u.mem x = memByte s.mem x) ∧
        CoreFrame c (keysOf (coreP c) (seqFields ++ spFields ++ mxFields)) s u)

/-- R43, R58, R169: an MXMUL of a running core whose rows' check columns disagree stops the core with the trap of that name, and the
CHECK registers keep the first such row. -/
def Obligations.FailedChecksTrap : Prop :=
  ∀ (s : State) (c : CoreId) (h : Hdr) (wbuf acc amode : BitVec 1) (aq : BitVec 3) (aoff mcnt slot : BitVec 7) (xsel : BitVec 1)
    (xidx : BitVec 7) (pshift : BitVec 6) (rsv : BitVec 47) (arr : ArrayUpset) (t i : Nat), Memory.wf s.mem = true → Quiet s c t →
    Issues s c (mxBundle h (mxmulOf wbuf acc amode aq aoff mcnt slot xsel xidx pshift rsv)) t →
    s.rd (coreP c) Reg.Co.STATE = 2 → s.rd (coreP c) Reg.Co.TRAP_TYPE = 0 → 256 ≤ (s.site c.site).mirTo →
    let row := fun i => mulRes s c wbuf acc amode aq aoff slot xsel xidx pshift arr i
    i ≤ mcnt.toNat → (row i).groups ≠ 0 → (∀ j < i, (row j).groups = 0) →
    ∃ u, exec (.mxmul c h wbuf acc amode aq aoff mcnt slot xsel xidx pshift rsv arr) s = .next u ∧
      u.rd (coreP c) Reg.Co.STATE = 4 ∧ u.rd (coreP c) Reg.Co.TRAP_TYPE = 9 ∧ u.rd (coreP c) Reg.Co.CHECK = 1 ∧
      u.rd (coreP c) Reg.Co.GROUPS = (row i).groups ∧ u.rd (coreP c) Reg.Co.SLOT = slot.toNat + i

/-- R50, R55: an issued MXDRAIN writes its slots, line by line, as FP32 codes or narrowed to BF16, with the poison of each group; a
clearing one zeroes those slots but for the clears that R55 loses. -/
def Obligations.SlotsDrain : Prop :=
  ∀ (s : State) (c : CoreId) (h : Hdr) (fmt clr : BitVec 1) (slot scnt : BitVec 7) (dq : BitVec 3) (doff : BitVec 7) (rsv : BitVec 62)
    (t : Nat), Memory.wf s.mem = true → Quiet s c t → Issues s c (mxBundle h (mxdrainOf fmt clr slot scnt dq doff rsv)) t →
    let n := scnt.toNat + 1
    let per := if fmt = 0 then 16 else 8
    let out := fun i => spAddr c.site c.n (4 * dq.toNat + i % 4) (doff.toNat + i / 4)
    let codes := fun q => memRead s.mem (slotAddr c (slot.toNat + q)) 2048
    ∃ u, exec (.mxdrain c h fmt clr slot scnt dq doff rsv) s = .next u ∧
      (∀ q < n, ∀ j < per, (u.take (out (per * q + j)) 16).data =
          (if fmt = 0 then bits (codes q) (1024 * j) 1024 else drainBf16 (codes q) (64 * j)) ∧
        (u.take (out (per * q + j)) 16).poison =
          if bits (slotBad s c (slot.toNat + q)) (if fmt = 0 then j / 2 else j) 1 = 1 then 0xFFFF else 0) ∧
      (∀ q < n, memRead u.mem (slotAddr c (slot.toNat + q)) 2048 =
        if clr = 1 ∧ slot.toNat + q ∉ lostClears (s.core c) t slot.toNat n per then 0 else codes q) ∧
      (∀ x, (∀ i < per * n, besideMem (out i) 128 x) → besideMem (slotAddr c slot.toNat) (2048 * n) x →
        memByte u.mem x = memByte s.mem x) ∧
      CoreFrame c (keysOf (coreP c) (seqFields ++ mxFields)) s u

/-- R158, R159, R207, R208, R215: an issued move copies every line of its run, with its poison, from the place that it names to the
other; the well keeps poison by half-lines, and a line that is still landing arrives poisoned. -/
def Obligations.MovesCopyLines : Prop :=
  ∀ (op : Mv) (s : State) (c : CoreId) (h : Hdr) (a : MvArgs) (t : Nat), Memory.wf s.mem = true → Quiet s c t →
    Issues s c (mvBundle h (mvCode op) a) t → mvPasses s c op a → 256 ≤ (s.site c.site).mirTo →
    ∃ u, exec (mvInstr op c h a) s = .next u ∧
      (∀ i < mvCount op a, (u.take (mvTo c op a i) 16).data = (s.take (mvFrom c op a i) 16).data ∧
        (u.take (mvTo c op a i) 16).poison = mvMarks s c op a i (s.take (mvFrom c op a i) 16).poison) ∧
      (∀ x, (∀ i < mvCount op a, besideMem (mvTo c op a i) 128 x) → memByte u.mem x = memByte s.mem x) ∧
      CoreFrame c (mvKeys c op a) s u

/-- R161, R165, R173: an issued KICK of a clean half-line hands it to the pump that it names, which owes the core one more completion; a
waybill into the core's own program buffer opens the write window. -/
def Obligations.KicksReachTheirPump : Prop :=
  ∀ (s : State) (c : CoreId) (h : Hdr) (a : MvArgs) (t : Nat), Memory.wf s.mem = true → Quiet s c t →
    Issues s c (mvBundle h 8 a) t → memPoison s.mem (kickAddr c a) 8 = 0 →
    let wb := memRead s.mem (kickAddr c a) 64
    let pump := bits a.rest.toNat 1 2
    let opens := bits wb 12 4 = 2 ∧ bits wb 24 3 = c.n ∧ (s.core c).window = none
    ∃ u, exec (.kick c h a) s = .next u ∧
      (u.site c.site).kicks = (s.site c.site).kicks ++
        [{ core := c.n, pump := pump, wb := wb, pc := (s.core c).nextPc, win := decide opens }] ∧
      u.rd (coreP c) Reg.Co.KICKS_OUT = (s.rd (coreP c) Reg.Co.KICKS_OUT + 4 ^ pump) % 256 ∧
      (if opens then ∃ w, (u.core c).window = some w ∧ w.lo = bits wb 128 64 / 128 ∧ w.opens = t + 1 ∧ w.pump = pump ∧
          u.rd (coreP c) Reg.Co.WINDOW_OPEN = 1
        else (u.core c).window = (s.core c).window ∧ u.rd (coreP c) Reg.Co.WINDOW_OPEN = s.rd (coreP c) Reg.Co.WINDOW_OPEN) ∧
      u.mem = s.mem ∧ CoreFrame c (keysOf (coreP c) (seqFields ++ spFields ++ [Reg.Co.KICKS_OUT, Reg.Co.WINDOW_OPEN])) s u

/-- R134, R135, R162 to R164, R316: an issued LK operation binds its hop entry to a run of half-lines for the frame; a send's beats
leave in the windows and slots of the entry, each with the half-line that R163 gives it, stomped where a word is poisoned. -/
def Obligations.LinkOperationsBind : Prop :=
  ∀ (s : State) (c : CoreId) (h : Hdr) (a : LkArgs) (t : Nat), Memory.wf s.mem = true → Quiet s c t →
    let keys := keysOf (coreP c) (seqFields ++ spFields)
    (Issues s c (lkBundle h 2 a) t → ∃ u, exec (.lkrecv c h a) s = .next u ∧
      (u.core c).binds = (s.core c).binds ++ [lkBind s c true a] ∧ u.mem = s.mem ∧ CoreFrame c keys s u) ∧
    (Issues s c (lkBundle h 1 a) t → egressStops s c = false → ∃ u e, hopFind s c.site a.hopId.toNat = some e ∧
      exec (.lksend c h a) s = .next u ∧ (u.core c).binds = (s.core c).binds ++ [lkBind s c false a] ∧
      u.out = s.out ++ (List.range (hopBeats e)).map (fun j => Out.beat c.site (hopOut e) (outSlot e j).1 (outSlot e j).2
        (memRead s.mem (lkAddr c a j) 64) (memPoison s.mem (lkAddr c a j) 8 != 0)) ∧
      u.mem = s.mem ∧ CoreFrame c keys s { u with out := s.out })

/-- R147, R149, R153: a bundle that issues, from the program buffer or by an operation's row, moves the sequencer on: the next position is
the one after it around the ring, the first of the innermost loop that it closes and that has passes left, or the one that it jumps
to; the cycle, the frame and the count of bundles follow it. -/
def Obligations.IssueMovesTheSequencer : Prop :=
  ∀ (i : Instr) (s : State) (c : CoreId) (b : Nat) (arr : ArrayUpset) (t : Nat), Issues s c b t →
    (rowOf i = some (c, b, arr) ∨
      (i = .bundleDue c [] arr ∧ bundleAt s c (s.core c).nextPc = b ∧ FetchesCleanly (atCycle s c.site t) c t)) →
    let k := s.core c
    let n := advance k k.nextPc (bundleHdr b) (bundleLk b)
    ∃ u, exec i s = .next u ∧ (u.core c).nextPc = n.nextPc ∧ (u.core c).loops = n.loops ∧ (u.core c).prev = t + 1 ∧
      (u.core c).prevFc = (s.site c.site).fc ∧ (u.core c).issued = k.issued + 1 ∧ (u.core c).bundles = k.bundles + 1 ∧
      u.rd (coreP c) Reg.Co.PC = k.nextPc % 4096 ∧ u.rd (coreP c) Reg.Co.LOOP_DEPTH = n.loops.length % 8

/-- R150, log entry 13: a bundle that its core fetches cleanly does what the row of its one operation does. -/
def Obligations.FetchedBundlesDoWhatTheirRowsDo : Prop :=
  ∀ (i : Instr) (s : State) (c : CoreId) (b : Nat) (arr : ArrayUpset), rowOf i = some (c, b, arr) → coreOk c = true →
    bundleAt s c (s.core c).nextPc = b → isShadow s c.site = false →
    (∀ d, dueOf s c (bundleHdr b) = some d → FetchesCleanly (atCycle s c.site d.cyc) c d.cyc) →
    exec (.bundleDue c [] arr) s = exec i s

/-- R316, R317: a KICK of a poisoned half-line hands nothing over and traps; so does, on a core that stops on poison, a move or a send of
a poisoned line or half-line out of the core, which still delivers it. -/
def Obligations.PoisonThatLeavesTraps : Prop :=
  ∀ (s : State) (c : CoreId) (h : Hdr) (t : Nat), Quiet s c t → s.rd (coreP c) Reg.Co.STATE = 2 →
    s.rd (coreP c) Reg.Co.TRAP_TYPE = 0 → 256 ≤ (s.site c.site).mirTo →
    let traps := fun (i : Instr) => ∃ u, exec i s = .next u ∧ u.rd (coreP c) Reg.Co.STATE = 4 ∧ u.rd (coreP c) Reg.Co.TRAP_TYPE = 8 ∧
      (u.site c.site).kicks = (s.site c.site).kicks ∧ u.rd (coreP c) Reg.Co.KICKS_OUT = s.rd (coreP c) Reg.Co.KICKS_OUT
    (∀ a, Issues s c (mvBundle h 8 a) t → memPoison s.mem (kickAddr c a) 8 ≠ 0 → traps (.kick c h a)) ∧
    (∀ op a, Issues s c (mvBundle h (mvCode op) a) t → ¬ mvPasses s c op a → traps (mvInstr op c h a)) ∧
    (∀ a e j, Issues s c (lkBundle h 1 a) t → hopFind s c.site a.hopId.toNat = some e → egressStops s c = true → j < hopBeats e →
      memPoison s.mem (lkAddr c a j) 8 ≠ 0 → traps (.lksend c h a))

/-- R152 to R154, R349, R419: what control operations do. LOOP opens a loop over the positions that follow, JUMP names the next position,
STOP ends the program with a record, NOTE enters its tag as a record while the site's telemetry budget lasts, and TSTART and TSTOP
start and stop a timer whose source they are. Memory stands, where the region's event queue lies outside it. -/
def Obligations.ControlOperations : Prop :=
  ∀ (s : State) (c : CoreId) (h : Hdr) (t : Nat),
    let k := s.core c
    let p := coreP c
    let r := (s.site c.site).region
    (∀ count len rsv, Issues s c (ctlBundle h 1 (loopArg count len rsv)) t → ∃ u, exec (.loop c h count len rsv) s = .next u ∧
      (u.core c).loops = ⟨(k.nextPc + 1) % ringLen, (k.nextPc + 1 + len.toNat) % ringLen, count.toNat⟩ :: k.loops ∧
      (u.core c).nextPc = (k.nextPc + 1) % ringLen ∧ u.mem = s.mem ∧ CoreFrame c (keysOf p seqFields) s u) ∧
    (∀ target rsv, Issues s c (ctlBundle h 2 (jumpArg target rsv)) t → ∃ u, exec (.jump c h target rsv) s = .next u ∧
      (u.core c).nextPc = target.toNat ∧ u.mem = s.mem ∧ CoreFrame c (keysOf p seqFields) s u) ∧
    (Issues s c (ctlBundle h 3 0) t → RecordsOutside s c.site → ∃ u, exec (.stop c h) s = .next u ∧
      u.rd p Reg.Co.STATE = (if s.rd p Reg.Co.STATE = 2 then 3 else s.rd p Reg.Co.STATE) ∧
      u.rd p Reg.Co.RECORD_SEQ = (s.rd p Reg.Co.RECORD_SEQ + 1) % 2 ^ 32 ∧ u.mem = s.mem ∧
      Off (keysOf p (seqFields ++ [Reg.Co.STATE]) ++ recordKeys c r) s u) ∧
    (∀ tag rsv, Issues s c (ctlBundle h 4 (noteArg tag rsv)) t → RecordsOutside s c.site → ∃ u, exec (.note c h tag rsv) s = .next u ∧
      (if s.rd (budP c.site) Reg.Bu.BUD_TELEM ≤ (s.site c.site).uTelem then
          u.rd p Reg.Co.NOTE_DROPPED = 1 ∧ u.rd p Reg.Co.RECORD_SEQ = s.rd p Reg.Co.RECORD_SEQ
        else u.rd p Reg.Co.RECORD_SEQ = (s.rd p Reg.Co.RECORD_SEQ + 1) % 2 ^ 32 ∧ (u.site c.site).uTelem = (s.site c.site).uTelem + 1) ∧
      u.mem = s.mem ∧ Off (keysOf p (seqFields ++ [Reg.Co.NOTE_DROPPED, Reg.Co.NOTE_DROP_CNT]) ++ keysOf (budP c.site) [Reg.Bu.BUD_HIT] ++
        recordKeys c r) s u) ∧
    (∀ n : BitVec 4, let q := timP c.site
      let f := fun (g : Nat → Fld) => tmFld (g 0) c.n n.toNat
      s.rd q (f Reg.Tm.ENABLE) = 1 →
      (Issues s c (ctlBundle h (0x10 + n.toNat) 0) t → s.rd q (f Reg.Tm.START_SRC) = 0 → ∃ u, exec (.tstart c h n) s = .next u ∧
        u.rd q (f Reg.Tm.RUN) = 1 ∧ u.mem = s.mem ∧
        (s.rd q (f Reg.Tm.RUN) = 1 → u.rd q (f Reg.Tm.DOUBLE_CNT) = satAdd 0xFFFF (s.rd q (f Reg.Tm.DOUBLE_CNT)) 1) ∧
        CoreFrame c (keysOf p seqFields ++ keysOf q [f Reg.Tm.RUN, Reg.Tm.RUNNING c.n, f Reg.Tm.LAST_COINCIDENT, f Reg.Tm.DOUBLE_CNT]) s
          { u with timers := s.timers }) ∧
      (Issues s c (ctlBundle h (0x20 + n.toNat) 0) t → s.rd q (f Reg.Tm.STOP_SRC) = 0 → ∃ u, exec (.tstop c h n) s = .next u ∧
        u.mem = s.mem ∧
        (if s.rd q (f Reg.Tm.RUN) = 1 then u.rd q (f Reg.Tm.RUN) = 0 ∧
            u.rd q (f Reg.Tm.LAST_CC) = min (t - (tabGet (fun _ => (0, 0)) s.timers (timerKey c n.toNat)).1) 0xFFFFFFFF ∧
              u.rd q (f Reg.Tm.COUNT) = satAdd 0xFFFFFFFF (s.rd q (f Reg.Tm.COUNT)) 1
          else u.rd q (f Reg.Tm.ORPHAN_CNT) = satAdd 0xFFFF (s.rd q (f Reg.Tm.ORPHAN_CNT)) 1) ∧
        CoreFrame c (keysOf p seqFields ++ keysOf q [f Reg.Tm.RUN, Reg.Tm.RUNNING c.n, f Reg.Tm.LAST_CC, f Reg.Tm.LAST_NS,
          f Reg.Tm.LAST_COINCIDENT, f Reg.Tm.COUNT, f Reg.Tm.MIN_CC, f Reg.Tm.MAX_CC, f Reg.Tm.ORPHAN_CNT]) s { u with timers := s.timers }))

/-- R155, R167, R169, R171: a bundle that fails a check of decode changes no memory; its core stops, and the trap registers, if they
name no trap yet, take the failure of the lowest class, the first slot and the first discovery in it. -/
def Obligations.DecodeTraps : Prop :=
  ∀ (i : Instr) (s : State) (c : CoreId) (b : Nat) (arr : ArrayUpset) (d : Due) (x : Bad), rowOf i = some (c, b, arr) →
    coreOk c = true → dueOf s c (bundleHdr b) = some d → d.cause = 0 → s.rd (coreP c) Reg.Co.STATE = 2 → isShadow s c.site = false →
    firstBad (bundleBad (atCycle s c.site d.cyc) c d.cyc (s.core c).nextPc b) = some x →
    256 ≤ (s.site c.site).mirTo → RecordsOutside s c.site → s.rd (coreP c) Reg.Co.TRAP_TYPE = 0 →
    ∃ u, exec i s = .next u ∧ u.rd (coreP c) Reg.Co.STATE = 4 ∧ u.rd (coreP c) Reg.Co.TRAP_TYPE = classTrap x.cls % 256 ∧
      u.rd (coreP c) Reg.Co.TRAP_CAUSE = x.cause % 256 ∧ u.rd (coreP c) Reg.Co.TRAP_SLOT = x.slot % 8 ∧ u.mem = s.mem ∧
      (u.core c).nextPc = (s.core c).nextPc ∧ (u.core c).issued = (s.core c).issued

/-- R150, R173: no bundle issues on a core that neither runs nor finishes the cycle of a run-time trap: no operation row changes anything. -/
def Obligations.IdleCoresIssueNothing : Prop :=
  ∀ (i : Instr) (s : State) (c : CoreId) (b : Nat) (arr : ArrayUpset),
    (rowOf i = some (c, b, arr) ∨ i = .bundleDue c [] arr) → coreOk c = true →
    s.rd (coreP c) Reg.Co.STATE ≠ 2 → s.rd (coreP c) Reg.Co.STATE ≠ 4 → exec i s = .next s

/-! ### Clocking -/

/-- R272, R274, R276, R279, R281, R284, R145: what the clocks of sites and hubs show of the signals that they meet: the end of a stretch and of
settling, lock, loss of the reference, its return, and its absence for a second, with the region faults that follow; and what the
host clears. -/
def Obligations.ClockSignals : Prop :=
  ∀ (s : State) (i h : Nat), i < 256 → h < 16 →
    Completes (.stretchEnd i) s (fun t => t.rd (sclkP i) Reg.Ck.STRETCHING = 0 ∧ OnlyRegs (keysOf (sclkP i) [Reg.Ck.STRETCHING]) s t) ∧
    Completes (.settlingEnd i) s (fun t => t.rd (sclkP i) Reg.Ck.SETTLING = 0 ∧ OnlyRegs (keysOf (sclkP i) [Reg.Ck.SETTLING]) s t) ∧
    Completes (.meshLock i) s (fun t =>
      (islandOf s i < 16 ∧ s.rd (sclkP i) Reg.Ck.FREE_RUN = 0 → t.rd (sclkP i) Reg.Ck.MESH_LOCKED = 1) ∧
      OnlyRegs (keysOf (sclkP i) [Reg.Ck.MESH_LOCKED]) s t) ∧
    Completes (.refLoss h) s (fun t => keyHas t.holdover h = true ∧
      (keyHas s.holdover h = false → t.rd timeP Reg.Ti.HOLDOVER_CNT = satAdd (2 ^ Reg.Ti.HOLDOVER_CNT.w - 1) (s.rd timeP Reg.Ti.HOLDOVER_CNT) 1 ∧
        ∀ k ∈ hubSites h, s.rd (sclkP k) Reg.Ck.ANCHOR = 1 → t.rd (sclkP k) Reg.Ck.REF_HOLDOVER = 1) ∧
      Off (keysAll (hubSites h) sclkP [Reg.Ck.REF_HOLDOVER] ++ keysOf timeP [Reg.Ti.HOLDOVER_CNT] ++ logKeys) s t) ∧
    Completes (.referenceRelock h) s (fun t => t = { s with holdover := t.holdover } ∧
      ∀ g, keyHas t.holdover g = (keyHas s.holdover g && g != h)) ∧
    Completes (.holdoverExpiry h) s (fun t =>
      (keyHas s.holdover h = true → (∀ k ∈ hubSites h, t.rd (sclkP k) Reg.Ck.ANCHOR = 1 → s.rd (sclkP k) Reg.Ck.ANCHOR ≠ 1) ∧
        ∀ r < 16, (∃ k ∈ hubSites h, s.rd (sclkP k) Reg.Ck.ANCHOR = 1 ∧ (s.site k).region = r) →
          (∀ k ∈ regionSites s r, s.rd (sclkP k) Reg.Ck.ANCHOR = 1 → k ∈ hubSites h) → (t.region r).faultAt ≠ none) ∧
      Off (keysAll (hubSites h) sclkP [Reg.Ck.ANCHOR, Reg.Ck.FREE_RUN]) s t) ∧
    (Hosted s (sclkP i) 0x60 → Completes (.jitClr i) s (fun t => (t.site i).jitClr = true ∧ Off (keysOf (budP i) [Reg.Bu.BUD_HIT]) s t)) ∧
    (Hosted s (tniP i) 0x54 → Completes (.histClr i) s (fun t => (t.site i).histClr = true ∧ Off (keysOf (budP i) [Reg.Bu.BUD_HIT]) s t))

/-- R126, R275 to R277, R282, R321, R413: a droop costs every site of its island the cycles of its stretch; a coupled port beyond 40 ps falls out of
the mesh and faults the region; samples are counted, and one beyond its limit sets its alarm; a root that fails stops the panel. -/
def Obligations.ClockFaults : Prop :=
  ∀ (s : State) (i : Nat), i < 256 →
    let p := sclkP i
    (∀ v loss, 0 < stretchDepth s i v → Completes (.droopStretch i v loss) s (fun t => t.rd p Reg.Ck.STRETCHING = 1 ∧
      (stretchDepth s i v = 8 → t.rd p Reg.Ck.STRETCH_MAX = 1) ∧
      ∀ k < 256, (k = i ∨ (islandOf s i < 16 ∧ islandOf s k = islandOf s i)) → (t.site k).loss = (s.site k).loss + loss ∧
        stretchDepth s i v ≤ (t.site k).depth ∧
        t.rd (tniP k) Reg.Tn.LAG_NOW = min 0xFFFF (s.rd (tniP k) Reg.Tn.LAG_NOW + (((s.site k).loss + loss) / 16 - (s.site k).loss / 16)))) ∧
    (∀ d phase, d < 4 → bits (s.rd p Reg.Ck.COUPLED) d 1 = 1 → 40 < phase.natAbs → Completes (.lockLost i d phase) s (fun t =>
      t.rd p Reg.Ck.LOCK_LOST = 1 ∧ t.rd p Reg.Ck.MESH_LOCKED = 0 ∧ bits (t.rd p Reg.Ck.COUPLED) d 1 = 0 ∧
      t.rd (relP i) Reg.Re.SUSPECT = 1 ∧ ((s.site i).region < 16 → (t.region (s.site i).region).faultAt ≠ none))) ∧
    (∀ dev, s.rd p Reg.Ck.STRETCHING ≠ 1 → s.rd p Reg.Ck.SETTLING ≠ 1 → Completes (.jitterSample i dev) s (fun t =>
      let b := Reg.Ck.JIT_HIST (min 31 (max 0 (dev + 16))).toNat
      t.rd p b = satAdd (2 ^ b.w - 1) (s.rd p b) 1 ∧
      (s.rd p Reg.Ck.JIT_LIMIT < dev.natAbs → t.rd p (if s.rd p Reg.Ck.JIT_SRC = 0 then Reg.Ck.JIT_ROOT else Reg.Ck.JIT_CORE) = 1 ∧
        t.rd (relP i) Reg.Re.SUSPECT = 1) ∧
      (dev.natAbs ≤ s.rd p Reg.Ck.JIT_LIMIT → OnlyRegs (keysOf p [b]) s t))) ∧
    (∀ core frac, Completes (.dutyWindow i core frac) s (fun t =>
      let f := if core then Reg.Ck.DUTY_CORE_LAST else Reg.Ck.DUTY_ROOT_LAST
      t.rd p f = unsgn 8 frac ∧
      (20 < frac.natAbs → t.rd p (if core then Reg.Ck.DUTY_CORE else Reg.Ck.DUTY_ROOT) = 1 ∧ t.rd (relP i) Reg.Re.SUSPECT = 1) ∧
      (frac.natAbs ≤ 20 → OnlyRegs (keysOf p [f]) s t))) ∧
    Completes .rootFault s (fun t => t.rd timeP Reg.Ti.ROOT_FAULT = 1 ∧ t.rd timeP Reg.Ti.ROOT_LOCKED = 0 ∧
      t.rd prelP Reg.Pr.PANEL_ERR = 1 ∧ t.rd prelP Reg.Pr.PANEL_ERR_CODE = 3 ∧ t.outOfService = true ∧
      (∀ k n, k < 256 → n < 8 → t.rd (coreP ⟨k, n⟩) Reg.Co.STATE ≠ 2) ∧
      ∀ r < 16, regionState s r ≠ 0 → (t.region r).faultAt ≠ none)

/-! ### Power and cooling -/

/-- R285, R302, R303, R304, R308, R312: what the panel's input, its tray and its coolant do. An input that is low or high is noted and told; one
below 36 V, or a shutdown, stops every running core or faults every region and leaves no domain on but the links; one above 62 V leaves none;
a tray's report shows, a bad one is counted, and its loss is a condition of level 1; the panel factor falls at once and rises slowly. -/
def Obligations.PanelPower : Prop :=
  ∀ (s : State),
    let bit := fun (t : State) (b : Nat) => bits (t.rd ppowP Reg.Pp.PWR_ERR) b 1 = 1
    let faulted := fun (t : State) => ∀ r < 16, regionState s r ≠ 0 → (t.region r).faultAt ≠ none
    let dark := fun (t : State) => t.hubDom = [] ∧ ∀ i < 256, ∀ d < 4, d ≠ 2 → bits (t.rd (spowP i) Reg.Sp.DOM_EN) d 1 = 0
    (∀ v, 1440 ≤ v → v < 1600 → Completes (.inputLow v) s (fun t => bit t 0 ∧ tabGet (fun _ => 0) t.coolant 5 = max 3 (tabGet (fun _ => 0) s.coolant 5))) ∧
    (∀ v, v < 1440 → Completes (.brownout v) s (fun t => bit t 3 ∧ faulted t ∧ dark t ∧ ∀ i < 256, ∀ n < 8, t.rd (coreP ⟨i, n⟩) Reg.Co.STATE ≠ 2)) ∧
    (∀ v, 2320 < v → v ≤ 2480 → Completes (.inputHigh v) s (fun t => bit t 1 ∧ Off (keysOf ppowP [Reg.Pp.PWR_ERR] ++ logKeys) s t)) ∧
    (∀ v, 2480 < v → Completes (.inputOv v) s (fun t => bit t 2 ∧ t.inputOv = true ∧ t.outOfService = true ∧ t.hubDom = [] ∧
      ∀ i < 256, t.rd (spowP i) Reg.Sp.DOM_EN = 0)) ∧
    Completes .panelShutdown s (fun t => bit t 7 ∧ faulted t ∧ dark t ∧ t.shutdown = true) ∧
    (∀ (inlet outlet : Int) (flow seq rsv : Nat) (pecOk : Bool), s.alwaysOn = true →
      Completes (.trayReport inlet outlet flow seq rsv pecOk) s (fun t =>
        if pecOk = true ∧ rsv = 0 ∧ -2000 ≤ inlet ∧ inlet ≤ 10000 ∧ -2000 ≤ outlet ∧ outlet ≤ 10000 ∧ flow ≤ 20000 then
          t.rd ppowP Reg.Pp.INLET_TRAY = unsgn 16 inlet ∧ t.rd ppowP Reg.Pp.OUTLET_TRAY = unsgn 16 outlet ∧
          t.rd ppowP Reg.Pp.FLOW_TRAY = flow ∧ t.rd ppowP Reg.Pp.TRAY_SEQ = seq % 2 ^ Reg.Pp.TRAY_SEQ.w ∧
          OnlyRegs (keysOf ppowP [Reg.Pp.INLET_TRAY, Reg.Pp.OUTLET_TRAY, Reg.Pp.FLOW_TRAY, Reg.Pp.TRAY_SEQ]) s t
        else t.rd ppowP Reg.Pp.TRAY_BAD_CNT = satAdd (2 ^ Reg.Pp.TRAY_BAD_CNT.w - 1) (s.rd ppowP Reg.Pp.TRAY_BAD_CNT) 1 ∧
          OnlyRegs (keysOf ppowP [Reg.Pp.TRAY_BAD_CNT]) s t)) ∧
    Completes .trayLost s (fun t => bit t 5 ∧ tabGet (fun _ => 0) t.coolant 6 = 1 ∧
      t.rd ppowP Reg.Pp.TL_PANEL = t.coolant.foldl (fun m e => max m e.2) 0 % 4) ∧
    (∀ pin vin inlet outlet, Completes (.panelFactorUpdate pin vin inlet outlet) s (fun t =>
      (s.rd ppowP Reg.Pp.PANEL_CAP < pin → bit t 8 ∧ t.pfNum = s.pfNum * 63 ∧ t.pfDen = s.pfDen * 64) ∧
      (pin ≤ s.rd ppowP Reg.Pp.PANEL_CAP → s.pfMs < 99 → t.pfNum = s.pfNum ∧ t.pfDen = s.pfDen ∧ t.pfMs = s.pfMs + 1) ∧
      t.rd ppowP Reg.Pp.INLET_PANEL = unsgn 16 inlet ∧ t.rd ppowP Reg.Pp.OUTLET_PANEL = unsgn 16 outlet ∧
      Off (keysOf ppowP [Reg.Pp.PWR_ERR, Reg.Pp.PIN, Reg.Pp.VIN, Reg.Pp.INLET_PANEL, Reg.Pp.OUTLET_PANEL, Reg.Pp.PANEL_FACTOR]) s t))

/-- R290, R291, R293, R303, R304, R311: what the rails and sensors of a unit do. VLOGIC over its limit makes the site suspect; any other rail
that is over its limit, short or too high is switched off, with its bit; the set voltage moves toward its clamped result by at most
10 mV; a condition takes the level of its reading when that is higher, and gives it up when it has stood clear; a hot junction
switches the site's logic and arrays off. -/
def Obligations.SitePower : Prop :=
  ∀ (s : State) (i : Nat), i < 256 →
    let p := spowP i
    Completes (.ocLogic i) s (fun t => t.rd p Reg.Sp.OC_LOGIC = 1 ∧ t.rd (relP i) Reg.Re.SUSPECT = 1) ∧
    (∀ d, d < 4 → d ≠ 0 → Completes (.railOvercurrent (.site i) d) s (fun t => t.rd p Reg.Sp.OC_OTHER = 1 ∧
      bits (t.rd p Reg.Sp.DOM_EN) d 1 = 0 ∧ (t.site i).failed = true)) ∧
    (∀ d ov, d < 4 → Completes (.railShort (.site i) d ov) s (fun t => t.rd p (if ov then Reg.Sp.OV else Reg.Sp.SHORT) = 1 ∧
      bits (t.rd p Reg.Sp.DOM_EN) d 1 = 0 ∧ (t.site i).failed = true)) ∧
    (∀ h d ov, h < 16 → d < 4 → Completes (.railShort (.hub h) d ov) s (fun t => bits (t.hubOn h) d 1 = 0 ∧ Off logKeys s t) ∧
      Completes (.railOvercurrent (.hub h) d) s (fun t => bits (t.hubOn h) d 1 = 0 ∧ Off logKeys s t)) ∧
    (∀ iLogic iArray iLink iMem samples v, vsetOf s i iLogic = some v →
      Completes (.vsetUpdate i iLogic iArray iLink iMem samples) s (fun t =>
        let old := s.rd p Reg.Sp.V_SET
        let goal := (min 360 (max 220 v)).toNat
        t.rd p Reg.Sp.I_LOGIC = iLogic % 2 ^ Reg.Sp.I_LOGIC.w ∧
        t.rd p Reg.Sp.V_SET = (if old = 0 then goal else if old < goal then min goal (old + 4) else max goal (old - 4)) % 2 ^ Reg.Sp.V_SET.w)) ∧
    (∀ mask : BitVec 4, Hosted s p 0x64 → Completes (.minClr i mask) s (fun t =>
      (t.site i).vmin = (s.site i).vmin.filter (fun e => bits mask.toNat e.1 1 = 0) ∧ Off (keysOf (budP i) [Reg.Bu.BUD_HIT]) s t)) ∧
    (∀ t0 t1 t2 t3, let c := ThermCond.site i t0 t1 t2 t3
      Completes (.thermalLevelChange c) s (fun t => t.rd p Reg.Sp.TL_SITE = max (condLevel c false) (s.rd p Reg.Sp.TL_SITE) ∧
        (t.rd p Reg.Sp.SENSOR_VALID = 15 ∨ t.rd p Reg.Sp.SENSOR_BAD = 1)) ∧
      Completes (.thermalLevelExit c) s (fun t => t.rd p Reg.Sp.TL_SITE = min (condLevel c true) (s.rd p Reg.Sp.TL_SITE))) ∧
    (∀ (x : Int) (n : Nat), ∀ c ∈ [ThermCond.inlet x, .outlet x, .flow n, .input n],
      Completes (.thermalLevelChange c) s (fun t => condNow t c = max (condLevel c false) (condNow s c)) ∧
      Completes (.thermalLevelExit c) s (fun t => condNow t c = min (condLevel c true) (condNow s c))) ∧
    Completes (.junctionTrip i) s (fun t => t.rd p Reg.Sp.THERM_TRIP = 1 ∧ bits (t.rd p Reg.Sp.DOM_EN) 0 1 = 0 ∧
      bits (t.rd p Reg.Sp.DOM_EN) 1 1 = 0 ∧ (t.site i).failed = true ∧ (s.rd p Reg.Sp.SITE_PSTATE = 3 → t.rd p Reg.Sp.WAKE_FAIL = 1))

/-! ### Frames -/

/-- R151, R170, R173: an arm write that is taken arms the core and clears the record of its last run; one that is not notes so; a disarmed core
is idle; and in its start frame an armed core runs from its start position, and its region leaves the fault state. -/
def Obligations.ProgramsStart : Prop :=
  ∀ (s : State) (c : CoreId), coreOk c = true →
    let p := coreP c
    let k := s.core c
    let st := s.site c.site
    (Hosted s p 0x40 → Completes (.arm c) s (fun t =>
      if armOk s c then t.rd p Reg.Co.STATE = 1 ∧ t.rd p Reg.Co.ARM = 1 ∧ t.rd p Reg.Co.TRAP_TYPE = 0 ∧ t.rd p Reg.Co.TRAP_CAUSE = 0 ∧
        t.rd p Reg.Co.TRAP_SLOT = 7 ∧ t.rd p Reg.Co.SEQ_TRAP_SUPP = 0 ∧ (t.core c).trapRec = none ∧
        Off (keysOf p [Reg.Co.STATE, Reg.Co.ARM, Reg.Co.TRAP_TYPE, Reg.Co.TRAP_CAUSE, Reg.Co.TRAP_SLOT, Reg.Co.SEQ_TRAP_SUPP] ++
          keysOf (budP c.site) [Reg.Bu.BUD_HIT]) s t
      else t.rd p Reg.Co.ARM_REFUSED = 1 ∧ t.rd p Reg.Hd.BAD_VALUE = 1 ∧ t.rd p Reg.Hd.LAST_OFFSET = 0x40 ∧
        Off (keysOf p [Reg.Co.ARM_REFUSED, Reg.Hd.BAD_VALUE, Reg.Hd.LAST_OFFSET] ++ keysOf (budP c.site) [Reg.Bu.BUD_HIT]) s t)) ∧
    (Hosted s p 0x40 → Completes (.disarm c) s (fun t =>
      (s.rd p Reg.Co.STATE = 1 → t.rd p Reg.Co.STATE = 0 ∧ t.rd p Reg.Co.ARM = 0) ∧
      (s.rd p Reg.Co.STATE ≠ 1 → t.rd p Reg.Co.STATE = s.rd p Reg.Co.STATE) ∧
      Off (keysOf p [Reg.Co.STATE, Reg.Co.ARM] ++ keysOf (budP c.site) [Reg.Bu.BUD_HIT]) s t)) ∧
    (s.rd p Reg.Co.STATE = 1 → st.fc = startFc s c → 256 ≤ st.mirTo → isShadow s c.site = false → Completes (.programStart c) s (fun t =>
      t.rd p Reg.Co.STATE = 2 ∧ t.rd p Reg.Co.ARM = 0 ∧ (t.core c).nextPc = s.rd p Reg.Co.START_PC ∧ (t.core c).prev = st.base ∧
      (t.core c).loops = [] ∧ (t.core c).issued = 0 ∧ (t.core c).skipped = (if st.exec then none else some (firstDue t c)) ∧
      (st.region < 16 → regionState s st.region = 3 → regionState t st.region = 2) ∧
      ({ k with nextPc := 0, prev := 0, prevFc := 0, loops := [], issued := 0, lastCyc := 0, skipped := none } : Core) =
        { t.core c with nextPc := 0, prev := 0, prevFc := 0, loops := [], issued := 0, lastCyc := 0, skipped := none }))

/-- R122 to R124, R271, R306, R343, R373: a running generator emits the mark of the next frame, its length after the last; a site keeps a mark of
its island and sends every mark on; a mark that is due begins the site's next frame, at its count and with its lag; and a boundary of a free site brings what was held for that. -/
def Obligations.MarksBeginFrames : Prop :=
  ∀ (s : State) (i : Nat), i < 256 →
    (∀ r power, r < 16 → (s.region r).running = true → Completes (.markGenerate r power) s (fun t =>
      let g := s.region r
      (t.region r).fc = (g.fc + 1) % 2 ^ 48 ∧
      (t.region r).markAt = g.markAt + (1024 * 2 ^ g.genFl + g.dilation) * cycleThirds g.genFs ∧
      t.out = s.out ++ [.mark r ((g.fc + 1) % 2 ^ 48) ((t.region r).markAt / 3)])) ∧
    (∀ r fc at0, Completes (.markMessage i r fc at0) s (fun t => t.out = s.out ++ [.mark r fc at0] ∧
      (islandOf s i = r → r < 16 → (t.site i).mark = some (fc % 2 ^ 48, at0) ∧ (at0 < s.rcnt → t.rd (sclkP i) Reg.Ck.MARK_LATE = 1)) ∧
      Off (keysOf (sclkP i) [Reg.Ck.MARK_LATE]) s t)) ∧
    (∀ cyc lag slackT f at0, (s.site i).mark = some (f, at0) → markDue s i cyc at0 = true → Completes (.frameMark i cyc lag slackT) s (fun t =>
      (t.site i).fc = f ∧ (t.site i).base = (s.site i).base + s.frameLen i ∧ (t.site i).mark = none ∧
      (isShadow s i = false → 256 ≤ (s.site i).mirTo → (t.site i).exec = decide (s.rd (spowP i) Reg.Sp.SITE_PSTATE = 1)) ∧ (s.pendBa = [] → t.rd (tniP i) Reg.Tn.LAG_NOW = min lag 0xFFFF))) ∧
    (∀ cyc lag slackT, (s.site i).mark = none → exec (.frameMark i cyc lag slackT) s = .next s) ∧
    (16 ≤ (s.site i).region → Completes (.periodBoundary i) s (fun t => t.pendBa = s.pendBa.filter (fun b => !(pageOfSite i b.1)) ∧
      (t.site i).uSram = 0 ∧ (t.site i).uWell = 0 ∧ (t.site i).uTelem = 0 ∧ (t.site i).moved = 0))

/-- R127 to R130: a site that is late before the cutoff extends the frame of every site of its island by one more 32 cycles; after two such, every
core of the region that runs traps. -/
def Obligations.LateSitesExtendTheFrame : Prop :=
  ∀ (s : State) (i cyc lag : Nat), i < 256 → islandOf s i < 16 → (s.site i).exec = true →
    let n := s.rd (tniP i) Reg.Tn.EXT_NOW
    lateAt s i n ≤ lag → beforeCutoff s i n = true →
    Completes (.late i cyc lag) s (fun t => t.rd (tniP i) Reg.Tn.LATE = 1 ∧
      (n < 2 → ∀ k < 256, islandOf s k = islandOf s i → t.rd (tniP k) Reg.Tn.EXT_NOW = n + 1 ∧ t.rd (tniP k) Reg.Tn.EXT = 1) ∧
      (2 ≤ n → ∀ k ∈ regionSites s (islandOf s i), ∀ m < 8, s.rd (coreP ⟨k, m⟩) Reg.Co.STATE = 2 → 256 ≤ (s.site k).mirTo →
        isShadow s k = false → t.rd (coreP ⟨k, m⟩) Reg.Co.STATE = 4))

/-! ### Frame requests and regions -/

/-- R142, R143, R279, R380: FR_GO answers its code and, where it is taken, arms its slot with what was written; a request that misses an
acknowledgement 16 frames before its target, or would be too fast, is cancelled; at its target frame a request takes effect on every
site of its region once, and its slot is then APPLIED. -/
def Obligations.FrameRequests : Prop :=
  ∀ (s : State) (r k : Nat), r < 16 → k < 4 →
    let is := regionSites s r
    let applied := fun (t : State) (a : Nat) => slotState t r k = 2 ∧ bits (tabGet (fun _ => 0) (t.region r).reqDone k) a 1 = 1
    (∀ p, p ≤ 16 → Hosted s (frPage p) (if p = 0 then 0x50 else 0x58) → Completes (.frGo p) s (fun t =>
      let q := frRead s p
      let j := frJudge s q
      t.rd (frPage p) (frFld p Reg.Fr.RESULT) = j.1 ∧ t.rd (frPage p) (frFld p Reg.Fr.SLOT) = j.2 ∧
      t.rd (frPage p) (frFld p Reg.Fr.BUSY) = 0 ∧
      (j.1 = 1 → slotState t q.r j.2 = 1 ∧ slotTarget t q.r j.2 = q.target % 2 ^ 48 ∧ slotActs t q.r j.2 = q.acts % 2 ^ (Reg.Fr.SLOT_ACTIONS 0).w ∧
        tabGet (fun _ => 0) (t.region q.r).reqCfg j.2 = q.cfg ∧ tabGet (fun _ => 0) (t.region q.r).reqDone j.2 = 0) ∧
      (j.1 ≠ 1 → ∀ x < 16, ∀ y < 4, slotState t x y = slotState s x y))) ∧
    (∀ missing, slotState s r k = 1 → fcAhead (slotTarget s r k) (s.region r).fc ≤ 16 → Completes (.frameRequestCancel r k missing) s (fun t =>
      slotState t r k = if missing = true ∨ (slotArmed s r k actFreq = true ∧ slotFs s r k < s.rd ppowP (Reg.Pp.TL r)) then 3 else 1)) ∧
    (actDue s r k actFreq = true → slotState s r k = 1 → Completes (.freq r k) s (fun t => applied t actFreq ∧ (t.region r).rampUp = none ∧
      ∀ i ∈ is, t.rd (sclkP i) Reg.Ck.FSTATE = slotFs s r k % 4 ∧ (t.site i).trans = 2 ∧ t.rd (tniP i) Reg.Tn.TRANSITION = 1 ∧
        (s.rd (sclkP i) Reg.Ck.FSTATE ≠ slotFs s r k → t.rd (sclkP i) Reg.Ck.SETTLING = 1))) ∧
    (slotArmed s r k actFreq = true → fcAhead (slotTarget s r k) (s.region r).fc ≤ 48 → slotFs s r k < regionFs s r →
      Completes (.freqRampUp r k) s (fun t => (t.region r).rampUp = some (slotFs s r k) ∧ t.regs = s.regs ∧ t.sites = s.sites)) ∧
    (∀ fs f, (s.region r).rampDown = some (fs, f) → (∀ i ∈ is, (s.site i).fc = f) →
      Completes (.freqRampDown r) s (fun t => (t.region r).rampDown = none ∧ t.regs = s.regs ∧ t.sites = s.sites)) ∧
    (actDue s r k actCfg = true → slotState s r k = 1 → Completes (.frameCfg r k) s (fun t => applied t actCfg ∧
      let v := tabGet (fun _ => 0) (s.region r).reqCfg k
      ∀ i ∈ is, t.rd (tniP i) Reg.Tn.FL_CODE = bits v 0 3 ∧ t.rd (tniP i) Reg.Tn.SL = bits v 3 7 ∧ t.rd (tniP i) Reg.Tn.CFG_COMPL = 0xFFFF - v % 65536)) ∧
    (actDue s r k actSwap = true → slotState s r k = 1 → Completes (.schedSwap r k) s (fun t => applied t actSwap ∧
      ∀ i ∈ is, t.rd (tniP i) Reg.Tn.TABLE_ACTIVE = (1 - s.rd (tniP i) Reg.Tn.TABLE_ACTIVE) % 2 ∧ t.rd (tniP i) Reg.Tn.SHADOW_VALID = 0 ∧
        (∀ e < 48, t.rd (wellP i) (wstAct e) = s.rd (wellP i) (Reg.We.WST_SH e) % 2 ^ 32 ∧
          t.rd (wellP i) (Reg.We.WST_SH e) = s.rd (wellP i) (wstAct e) % 2 ^ 32) ∧ t.rd (wellP i) Reg.We.SHADOW_VALID = 0))

/-- R297 to R300, R341, R353 to R356: a region's sites enter Dormant together and wake together, and one that has lost its retention or its
epoch is to be loaded again; a site not ready in time faults the region; an assignment is judged before it waits; and at the change
point the sites of the new rectangle belong to the region at frame 0, those left out to none, until clearing has ended. -/
def Obligations.RegionChanges : Prop :=
  ∀ (s : State) (r k : Nat), r < 16 → k < 4 →
    let is := regionSites s r
    (actDue s r k actEnter = true → slotState s r k = 1 → Completes (.dormantEnter r k) s (fun t => regionState t r = 4 ∧ slotState t r k = 2 ∧
      ∀ i ∈ is, t.rd (spowP i) Reg.Sp.SITE_PSTATE = 2 ∧ bits (t.rd (spowP i) Reg.Sp.DOM_EN) 0 1 = 0 ∧ t.rd (spowP i) Reg.Sp.ARR_MODE = 2 ∧
        t.rd (wellP i) Reg.We.SELF_REFRESH = 1 ∧ (t.site i).exec = false ∧
        t.rd (spowP i) Reg.Sp.RET_EPOCH = s.rd (spowP i) Reg.Sp.CFG_EPOCH % 2 ^ Reg.Sp.RET_EPOCH.w)) ∧
    (regionState s r = 4 → slotArmed s r k actExit = true → slotArmed s r k actReassign = false → waking s r = false → Completes (.dormantExit r k) s (fun t =>
      ∀ i ∈ is, t.rd (spowP i) Reg.Sp.SITE_PSTATE = 3 ∧ bits (t.rd (spowP i) Reg.Sp.DOM_EN) 0 1 = 1 ∧ t.rd (spowP i) Reg.Sp.ARR_MODE = 1 ∧
        t.rd (wellP i) Reg.We.SELF_REFRESH = 0 ∧
        ((s.site i).retLost = true ∨ s.rd (spowP i) Reg.Sp.RET_EPOCH ≠ s.rd (spowP i) Reg.Sp.CFG_EPOCH →
          t.rd (spowP i) Reg.Sp.WAKE_RELOAD = 1 ∧ (t.region r).faultAt ≠ none))) ∧
    (∀ i wellReady, i < 256 → s.rd (spowP i) Reg.Sp.SITE_PSTATE = 3 → (s.site i).region = r →
      ¬ (s.rd (sclkP i) Reg.Ck.MESH_LOCKED = 1 ∧ wellReady = true) → Completes (.wakeFail i wellReady) s (fun t =>
        t.rd (spowP i) Reg.Sp.WAKE_FAIL = 1 ∧ (t.region r).faultAt ≠ none ∧ Off (keysOf (spowP i) [Reg.Sp.WAKE_FAIL] ++ logKeys) s t)) ∧
    (Hosted s regionP (0x58 + 0x20 * r) → Completes (.assignGo r) s (fun t =>
      let c := assignCode s r (decide (regionState s r = 0) && !((s.region r).assign))
      t.rd regionP (Reg.Rg.ASSIGN_ERR r) = c ∧
        (if c = 0 then (t.region r).assign = true else t.rd regionP Reg.Hd.BAD_VALUE = 1 ∧ (t.region r).assign = (s.region r).assign))) ∧
    ((s.region r).assign = true → Completes (.reassign r none) s (fun t => regionState t r = 1 ∧ t.rd regionP (Reg.Rg.CLEAR_DONE r) = 0 ∧
      let new := if s.rd regionP (Reg.Rg.PEND_VALID r) = 0 then [] else rectSites s (rectOf (s.rd regionP (Reg.Rg.PEND_RECT r)))
      (∀ i ∈ new, (t.site i).region = r ∧ (t.site i).fc = 0 ∧ t.rd (tniP i) Reg.Tn.FL_CODE = bits (pendCfg s r) 0 3 ∧ t.rd (sclkP i) Reg.Ck.FSTATE = 3) ∧
      ∀ i ∈ is, i ∉ new → (t.site i).region = 16)) ∧
    (regionState s r = 1 → Completes (.regionClearDone r) s (fun t => t.rd regionP (Reg.Rg.CLEAR_DONE r) = 1 ∧
      regionState t r = (if is = [] then 0 else 2) ∧
      ∀ i < 256, (s.site i).clearing = true → (s.site i).clearOf = r → (t.site i).clearing = false ∧
        t.rd (cisP i) Reg.Ci.CLEARING = 0 ∧ t.rd (wellP i) Reg.We.CLEARING = 0 ∧
        ∀ n < 8, t.rd (coreP ⟨i, n⟩) Reg.Co.CLEARING = 0 ∧ t.rd (coreP ⟨i, n⟩) Reg.Co.CLEAR_DONE = 1))

/-! ### Errors, probes and shadows -/

/-- R321, R322, R329 to R335: a voted field with one copy that differs is corrected and makes its site suspect, one without agreement is a
panel error, and so is a site that has not been heard; a probe item is counted, and one that fails makes the site suspect and faults
its region; and a spare site enters a shadow run of its neighbour, which an abort ends. -/
def Obligations.ErrorsAndShadows : Prop :=
  ∀ (s : State) (i : Nat), i < 256 →
    let p := relP i
    let panelErr := fun (t : State) (code : Nat) => t.rd prelP Reg.Pr.PANEL_ERR = 1 ∧ t.rd prelP Reg.Pr.PANEL_ERR_CODE = code ∧
      t.rd prelP Reg.Pr.SRC_IS_HUB = 0 ∧ t.rd prelP Reg.Pr.SRC_INDEX = i ∧ t.outOfService = true ∧
      ∀ j < 256, ∀ n < 8, t.rd (coreP ⟨j, n⟩) Reg.Co.STATE ≠ 2
    (∀ f, f < 4 → Completes (.voteFix i f false) s (fun t => t.rd p Reg.Re.VOTE_FIX = 1 ∧ t.rd p Reg.Re.SUSPECT = 1 ∧
        t.rd p Reg.Re.VOTE_CNT = satAdd (2 ^ Reg.Re.VOTE_CNT.w - 1) (s.rd p Reg.Re.VOTE_CNT) 1) ∧
      Completes (.voteFix i f true) s (fun t => panelErr t 2)) ∧
    Completes (.sidebandLoss i) s (fun t => panelErr t 4) ∧
    (∀ n good, n < 8 → (s.site i).region < 16 → (s.site i).exec = true → tabGet (fun _ => 0) (s.site i).probeNow n < s.rd p Reg.Re.PROBE_ITEMS →
      tabGet (fun _ => 0) (s.site i).probeAt n < 511 → Completes (.probeItem ⟨i, n⟩ good) s (fun t =>
        tabGet (fun _ => 0) (t.site i).probeAt n = tabGet (fun _ => 0) (s.site i).probeAt n + 1 ∧
        tabGet (fun _ => 0) (t.site i).probeNow n = tabGet (fun _ => 0) (s.site i).probeNow n + 1 ∧
        (good = true → Off [] s t) ∧
        (good = false → t.rd p Reg.Re.PROBE_FAIL = 1 ∧ t.rd p Reg.Re.FAIL_CORE = n ∧ t.rd p Reg.Re.SUSPECT = 1 ∧
          t.rd p Reg.Re.FAIL_ITEM = tabGet (fun _ => 0) (s.site i).probeAt n ∧ (t.site i).probeClean = false ∧
          (t.region (s.site i).region).faultAt ≠ none))) ∧
    (∀ (buddy : BitVec 8) (port : BitVec 4), Hosted s p 0x64 → Completes (.shadowEnter i buddy port) s (fun t =>
      if shadowOk s i buddy.toNat port.toNat then ∃ b, physOf s buddy.toNat = some b ∧ t.rd p Reg.Re.SHADOW_STATE = 1 ∧
        t.rd p Reg.Re.CLEAN_FRAMES = 0 ∧ (t.site i).join = (s.site b).region ∧ (t.site i).fc = (s.site b).fc ∧ (t.site b).mirTo = i ∧
        t.rd (tniP i) Reg.Tn.FL_CODE = s.rd (tniP b) Reg.Tn.FL_CODE % 8
      else t.rd p Reg.Hd.BAD_VALUE = 1 ∧ t.rd p Reg.Hd.LAST_OFFSET = 0x64 ∧
        Off (keysOf p [Reg.Hd.BAD_VALUE, Reg.Hd.LAST_OFFSET] ++ keysOf (budP i) [Reg.Bu.BUD_HIT]) s t)) ∧
    (Hosted s p 0x64 → isShadow s i = true → Completes (.shadowAbort i) s (fun t => t.rd p Reg.Re.SHADOW_STATE = 5 ∧
      t.rd p Reg.Re.END_REASON = 5 ∧ (t.site i).join = 16 ∧ ∀ n < 8, t.rd (coreP ⟨i, n⟩) Reg.Co.STATE = 0))

/-! ### Waybills (R190 to R192, R200) -/

/-- R190, R191, R200: a post fills the slot of its pump, or is refused; a pump takes the oldest kick that waits for it, else the post, with the
status of the first check that fails; the first of its waybills that is ready starts, and a broken stream ends it; and one that has
ended is completed: it leaves the pump, is counted, and its record goes to its ring or is redirected. -/
def Obligations.WaybillsRun : Prop :=
  ∀ (s : State) (i pump : Nat), i < 256 →
    let p := pumpP i
    let st := s.site i
    let posted := (List.range 16).foldl (fun a k => a + s.rd p (Reg.Pu.WB_POST_DATA k) * 2 ^ (32 * k)) 0
    (Hosted s p 0x90 → Completes (.wbPost i pump) s (fun t =>
      if st.posts.any (fun x => x.1 = pump % 4) then t.rd p Reg.Pu.POST_REFUSED = 1 ∧ t.rd p Reg.Hd.BAD_VALUE = 1 ∧ t.rd p Reg.Hd.LAST_OFFSET = 0x90 ∧
        (t.site i).posts = st.posts ∧ Off (keysOf p [Reg.Pu.POST_REFUSED, Reg.Hd.BAD_VALUE, Reg.Hd.LAST_OFFSET] ++ keysOf (budP i) [Reg.Bu.BUD_HIT]) s t
      else (t.site i).posts = st.posts ++ [(pump % 4, posted)] ∧ t.rd p Reg.Pu.POST_PUMP = pump % 4 ∧ bits (t.rd p Reg.Pu.POST_FULL) (pump % 4) 1 = 1 ∧
        Off (keysOf p [Reg.Pu.POST_PUMP, Reg.Pu.PUMP_BUSY, Reg.Pu.POST_FULL] ++ keysOf (budP i) [Reg.Bu.BUD_HIT]) s t)) ∧
    (pump < 4 → (st.wbs.filter (fun w => w.pump = pump)).length < 8 →
      let held := fun (core w : Nat) (win master : Bool) =>
        let c := wbCheck s i st.region core w win master
        ({ num := st.wbNum, wb := w, pump := pump, core := core, region := st.region, win := win, status := if c = 0 then none else some c } : Held)
      let shown := keysOf p [Reg.Pu.PUMP_BUSY, Reg.Pu.POST_FULL]
      (∀ master k, st.kicks.find? (fun k => k.pump = pump) = some k → Completes (.waybillTake i pump master) s (fun t =>
        (t.site i).wbs = st.wbs ++ [held k.core k.wb k.win master] ∧ (t.site i).wbNum = (st.wbNum + 1) % 2 ^ 32 ∧
        (t.site i).kicks = st.kicks.eraseP (fun k => k.pump = pump) ∧ (t.site i).posts = st.posts ∧ bits (t.rd p Reg.Pu.PUMP_BUSY) pump 1 = 1 ∧
        t.mem = s.mem ∧ t.out = s.out ∧ Off shown s t)) ∧
      (∀ master x, st.posts.find? (fun p => p.1 = pump) = some x → st.kicks.find? (fun k => k.pump = pump) = none →
        Completes (.waybillTake i pump master) s (fun t => (t.site i).wbs = st.wbs ++ [held 8 x.2 false master] ∧
          (t.site i).posts = st.posts.filter (fun p => p.1 != pump) ∧ bits (t.rd p Reg.Pu.POST_FULL) pump 1 = 0 ∧ t.mem = s.mem ∧ t.out = s.out ∧ Off shown s t))) ∧
    (pump < 4 → ∀ w, st.wbs.find? (fun w => w.pump = pump && wbReady s i w) = some w → wbFind s i w.num = some w →
      (streamState s i (wbStream w.wb) = 2 → Completes (.waybillStart i pump) s (fun t => ∃ v, wbFind t i w.num = some v ∧ v.status = some 5 ∧ v.run = w.run)) ∧
      (streamState s i (wbStream w.wb) ≠ 2 → wbLands s i w = none → wbOp w.wb ≠ 2 → Completes (.waybillStart i pump) s (fun t =>
        (∃ v, wbFind t i w.num = some v ∧ v.run = true) ∧ (wbWay s i w.wb ≠ 0 → streamState t i (wbStream w.wb) = 1 ∧
          t.rd (cniP i) (Reg.Cn.ATTEMPT (wbStream w.wb)) = 0 ∧ ((t.stream i (wbStream w.wb)).tx.queue.map Pay.kind).head? = some (if wbWay s i w.wb = 1 then 1 else 2))))) ∧
    (∀ num cyc w, wbFind s i num = some w → ∀ x, w.status = some x → Completes (.waybillComplete i num cyc) s (fun t =>
      (t.site i).wbs = st.wbs.filter (fun v => v.num != num) ∧ t.rd p Reg.Pu.WB_DONE_CNT = (s.rd p Reg.Pu.WB_DONE_CNT + 1) % 2 ^ 32 ∧
      t.rd p Reg.Pu.WB_FAIL_CNT = (if x = 0 then s.rd p Reg.Pu.WB_FAIL_CNT else satAdd (2 ^ Reg.Pu.WB_FAIL_CNT.w - 1) (s.rd p Reg.Pu.WB_FAIL_CNT) 1) ∧
      (x = 1 → t.rd p Reg.Pu.WB_FORMAT = 1) ∧ (x = 7 ∨ x = 8 → t.rd p Reg.Pu.IMAGE = 1) ∧
      (let q := ringIx i (wbCq w.wb)
       if x = 1 ∨ qRoom s q = false then t.rd p Reg.Pu.RING_REDIRECT = 1 ∧
         t.rd p Reg.Pu.RING_REDIRECT_CNT = satAdd (2 ^ Reg.Pu.RING_REDIRECT_CNT.w - 1) (s.rd p Reg.Pu.RING_REDIRECT_CNT) 1
       else t.rd queueP (qFld (Reg.Qu.HEAD 0) q) = (s.rd queueP (qFld (Reg.Qu.HEAD 0) q) + 1) % qLen s q % 2 ^ 16) ∧
      (w.core < 8 → t.rd (coreP ⟨i, w.core⟩) Reg.Co.KICKS_OUT = (s.rd (coreP ⟨i, w.core⟩) Reg.Co.KICKS_OUT - 4 ^ w.pump) % 2 ^ 8 ∧
        (w.win = true → t.rd (coreP ⟨i, w.core⟩) Reg.Co.WINDOW_OPEN = 0 ∧ (t.core ⟨i, w.core⟩).window = none))))

/-! ### Envelopes (R175, R183 to R187) -/

/-- R183: a courier NI counts and shows an envelope that breaks a rule (a reserved kind, WORDS code or destination, a reserved bit, or
the region of another), and does nothing else: it sends no answer. -/
def Obligations.BadEnvelopesAreDropped : Prop :=
  ∀ (s : State) (ep : Nat) (e : Env) (sp : HubSpace), ep < 256 →
    badEnv s e = true ∨ (e.circ = true ∨ e.dst.toNat = epCode s ep) ∧ e.region.toNat ≠ actRegion s ep →
    let p := cniP ep
    ∀ c ∈ arrivals ep e sp, Completes c s (fun t => t.rd p Reg.Cn.BAD_ENV = 1 ∧
      t.rd p Reg.Cn.BAD_ENV_CNT = satAdd (2 ^ Reg.Cn.BAD_ENV_CNT.w - 1) (s.rd p Reg.Cn.BAD_ENV_CNT) 1 ∧
      t.rd p Reg.Cn.EJ_TOTAL = (s.rd p Reg.Cn.EJ_TOTAL + 1) % 2 ^ 32 ∧ OnlyRegs (keysOf p [Reg.Cn.BAD_ENV, Reg.Cn.BAD_ENV_CNT, Reg.Cn.EJ_TOTAL]) s t)

/-- R175, R184, R187: what a site does with a sound envelope that ends at it: an OPEN takes
a context, or is refused with a status, or answered BUSY where none is free; data in order is handed to memory; an acknowledgement
frees what it covers, a BUSY answer makes the stream wait, and DONE ends the waybill of the stream. -/
def Obligations.EnvelopesArrive : Prop :=
  ∀ (s : State) (ep : Nat) (e : Env) (sp : HubSpace), ep < 256 →
    let p := cniP ep
    let k := e.stream.toNat
    let d := e.data.toNat
    let m := s.stream ep k
    (Heard s ep e → e.kind = 1 ∨ e.kind = 2 → ctxFind s ep 4096 e.src.toNat k = none →
      let row := if e.kind = 1 then Instr.openWr ep sp e else Instr.openRd ep sp e
      let st := openStatus s ep (bits d 0 64) (bits d 64 32) false
      (∀ x, ctxFree s ep e.region.toNat = some x → st = 0 → (e.kind = 2 ∨ targetOf (bits d 0 64 % 2 ^ 40) (bits d 64 32) ≠ some .well) →
        Completes row s (fun t => let c := t.ctx ep x
          c.live = true ∧ c.panel = 4096 ∧ c.src = e.src.toNat ∧ c.stream = k ∧ c.epoch = e.sepoch.toNat ∧ c.write = decide (e.kind = 1) ∧
          c.addr = bits d 0 64 ∧ c.len = bits d 64 32 ∧ c.num = bits d 96 32 ∧ c.act = 0 ∧ c.done = none ∧ c.pos = 0 ∧ c.rx.last = e.seq.toNat ∧
          (e.kind = 2 → c.piece.n = min 6 (c.len / 8)) ∧ t.mem = s.mem)) ∧
      (∀ x, ctxFree s ep e.region.toNat = some x → st ≠ 0 → Completes row s (fun t => (t.ctx ep x).done = some st ∧ t.mem = s.mem)) ∧
      (ctxFree s ep e.region.toNat = none → Completes row s (fun t => t.rd p Reg.Cn.BUSY_SENT = 1 ∧ t.ctxs = s.ctxs ∧ t.mem = s.mem))) ∧
    (Heard s ep e → e.kind = 3 → ∀ x, ctxFind s ep 4096 e.src.toNat k = some x →
      let c := s.ctx ep x
      let off := (c.addr + 48 * (seqAfter e.seq.toNat c.s0 - 1)) % 2 ^ 40
      c.epoch = e.sepoch.toNat → c.write = true → c.act = 0 → c.done = none → c.rx.held = [] → c.rx.fwd = 0 →
      e.seq.toNat = (c.rx.last + 1) % 2 ^ 24 → c.rx.last < 2 ^ 24 → (targetOf off (8 * (e.words.toNat + 1))).isSome = true →
      Completes (.data ep false e) s (fun t => (t.ctx ep x).piece.n = e.words.toNat + 1 ∧ (t.ctx ep x).rx.fwd = 1 ∧ (t.ctx ep x).rx.held = [e] ∧
        (let q := (t.site ep).opens.drop (s.site ep).opens.length
         q.length = partsOf off (e.words.toNat + 1) ∧ ∀ r ∈ q, r.wr = true ∧ r.job = 2 ∧ r.key = x ∧ r.who = 4) ∧ t.mem = s.mem)) ∧
    (Heard s ep e → e.kind = 5 → streamState s ep k = 1 → m.circ = false → m.job ≠ 2 →
      (bits e.mask.toNat 0 1 = 0 → Completes (.ack ep false e) s (fun t => (t.stream ep k).tx.win = (txAck m.tx e.seq.toNat).1.win ∧
        (t.stream ep k).tx.wait = false ∧ OnlyRegs (keysOf p [Reg.Cn.EJ_TOTAL]) { s with streams := t.streams } t)) ∧
      (bits e.mask.toNat 0 1 = 1 → m.busy + 1 < 1024 → m.tx.win.head?.any (fun o => decide (o.kind = 1 ∨ o.kind = 2)) = true →
        Completes (.ack ep false e) s (fun t => (t.stream ep k).tx.wait = true ∧ (t.stream ep k).busy = m.busy + 1 ∧
          (t.stream ep k).tx.win = m.tx.win ∧ OnlyRegs (keysOf p [Reg.Cn.EJ_TOTAL]) { s with streams := t.streams } t))) ∧
    (Heard s ep e → e.kind = 4 → streamState s ep k = 1 → m.circ = false → m.write = true → m.job = 1 → bits d 96 32 = m.num →
      ∀ w, wbFind s ep m.ref = some w → w.status = none → Completes (.done ep e) s (fun t => streamState t ep k = 0 ∧ t.stream ep k = {} ∧ t.mem = s.mem ∧
        ∃ v, wbFind t ep m.ref = some v ∧ v.status = some (bits d 0 8) ∧ v.pos = bits d 32 32 ∧ v.remote = true)) ∧
    (Heard s ep e → e.kind = 6 → streamState s ep k = 1 → m.circ = false → m.job = 1 →
      Completes (.notice ep false e) s (fun t => let u := noteDown s ep (codeIx s ep e.src.toNat, bits d 0 8)
        Retried u t ep k ∧ t.mem = s.mem))

/-- R176, R179, R184 to R186, R446: an envelope leaves while window, injection and budgets allow; a stream that hears nothing is sent again by its
next attempt, or breaks; an OPEN that was answered BUSY is sent again; an idle context is freed; a lane group that fails is down, with what
it discarded counted; and a stream that is broken or idle takes the next epoch. -/
def Obligations.StreamsGoOn : Prop :=
  ∀ (s : State) (ep k : Nat), ep < 256 → k < 512 →
    let p := cniP ep
    let m := s.stream ep k
    let open_ := fun (dst : Nat) => injStopped s ep = false ∧ s.rd (budP ep) Reg.Bu.BUD_COURIER = 0 ∧ (dst < 0xF0 ∨ s.rd (budP ep) (Reg.Bu.BUD_HUB (dst - 0xF0)) = 0)
    (∀ opp q rest, m.tx.queue = q :: rest → m.panel = 4096 → streamState s ep k = 1 → m.tx.wait = false → m.tx.broken = false → m.tx.win.length < 64 →
      m.circ = false → open_ m.dst → Completes (.envelopeSend ep k false opp) s (fun t =>
        let e := streamEnv s ep k m q
        t.out = s.out ++ [.env ep false (dress s ep false m.direct (s.rd p (Reg.Cn.ATTEMPT k)) e)] ∧
        t.stream ep k = { m with tx := { m.tx with queue := rest, win := m.tx.win ++ [e], sent := some e } } ∧
        t.rd p (Reg.Cn.STREAM_OUT_SEQ k) = (s.rd p (Reg.Cn.STREAM_OUT_SEQ k) + 1) % 2 ^ 24 ∧ t.rd p Reg.Cn.INJ_TOTAL = (s.rd p Reg.Cn.INJ_TOTAL + 1) % 2 ^ 32 ∧
        Off (keysOf p [Reg.Cn.STREAM_OUT_SEQ k, Reg.Cn.INJ_TOTAL]) s t ∧ t.mem = s.mem)) ∧
    (let c := s.ctx ep k
      ∀ opp q rest, c.tx.queue = q :: rest → c.panel = 4096 → c.live = true → c.tx.broken = false → c.tx.win.length < 64 → open_ c.src →
      Completes (.envelopeSend ep k true opp) s (fun t =>
        let e := ctxEnv s ep c c.tx.next q
        t.ctx ep k = { c with tx := { c.tx with queue := rest, win := c.tx.win ++ [e], next := (c.tx.next + 1) % 2 ^ 24 } } ∧
        t.out = s.out ++ [.env ep true (dress s ep true false c.tx.attempt e)] ∧ Off (keysOf p [Reg.Cn.INJ_TOTAL]) s t ∧ t.mem = s.mem)) ∧
    (streamState s ep k = 1 → m.tx.wait = false → m.circ = false → m.tx.win ≠ [] → m.job = 1 → Completes (.ackTimeout ep k false) s (fun t => Retried s t ep k ∧ t.mem = s.mem)) ∧
    (∀ e rest, m.tx.win = e :: rest → streamState s ep k = 1 → m.tx.wait = true → m.circ = false → m.panel = 4096 → Completes (.openRetry ep k) s (fun t =>
      (t.stream ep k) = { m with tx := { m.tx with wait := false } } ∧ t.out = s.out ++ [.env ep false (dress s ep false m.direct (s.rd p (Reg.Cn.ATTEMPT k)) e)] ∧
      t.rd p Reg.Cn.RETRANS_CNT = satAdd (2 ^ 16 - 1) (s.rd p Reg.Cn.RETRANS_CNT) 1 ∧ Off (keysOf p [Reg.Cn.RETRANS_CNT, Reg.Cn.INJ_TOTAL]) s t ∧ t.mem = s.mem)) ∧
    ((s.ctx ep k).live = true → Completes (.ctxIdle ep k) s (fun t => t.ctx ep k = {} ∧ t.rd p (Reg.Cn.IN_SRC k) = 0xFF ∧ t.rd p (Reg.Cn.STREAM_IN_SEQ k) = 0 ∧
      t.mem = s.mem ∧ t.streams = s.streams)) ∧
    (∀ port fails lost, port < 9 →
      Completes (.linkReplay ep port fails lost) s (fun t => t.rd p Reg.Cn.REPLAY = 1 ∧
        t.rd p Reg.Cn.REPLAY_CNT = satAdd (2 ^ Reg.Cn.REPLAY_CNT.w - 1) (s.rd p Reg.Cn.REPLAY_CNT) 1 ∧
        (16 ≤ fails → t.rd p Reg.Cn.LINK_DOWN = 1 ∧ bits (t.rd p Reg.Cn.DOWN_PORTS) port 1 = 1) ∧
        (fails < 16 → OnlyRegs (keysOf p [Reg.Cn.REPLAY, Reg.Cn.REPLAY_CNT]) s t)) ∧
      Completes (.replayTimeout ep port lost) s (fun t => t.rd p Reg.Cn.LINK_DOWN = 1 ∧ bits (t.rd p Reg.Cn.DOWN_PORTS) port 1 = 1 ∧
        t.rd p Reg.Cn.EJ_TOTAL = (s.rd p Reg.Cn.EJ_TOTAL + lost.length) % 2 ^ 32)) ∧
    (Hosted s p 0x60 → Completes (.streamReset ep (BitVec.ofNat 9 k)) s (fun t =>
      if streamState s ep k = 1 then t.rd p Reg.Hd.BAD_VALUE = 1 ∧ t.rd p Reg.Hd.LAST_OFFSET = 0x60 ∧ t.streams = s.streams ∧
        Off (keysOf p [Reg.Hd.BAD_VALUE, Reg.Hd.LAST_OFFSET] ++ keysOf (budP ep) [Reg.Bu.BUD_HIT]) s t
      else streamState t ep k = 0 ∧ t.rd p (Reg.Cn.ATTEMPT k) = 0 ∧ t.rd p (Reg.Cn.SEPOCH k) = (s.rd p (Reg.Cn.SEPOCH k) + 1) % 8 ∧ t.stream ep k = {} ∧
        Off (keysOf p [Reg.Cn.STREAM_STATE k, Reg.Cn.OUT_BUSY, Reg.Cn.ATTEMPT k, Reg.Cn.SEPOCH k, Reg.Cn.RESET_STREAM] ++ keysOf (budP ep) [Reg.Bu.BUD_HIT]) s t))

/-- R197, R381: DRAIN stops injection at every site of its region and is refused while the region drains; the drain is done once as
many envelopes have ended as were injected, and times out until then; SWAP waits for the next boundary, and only a drained region
takes it; ABORT lets injection resume. -/
def Obligations.RegionsDrain : Prop :=
  ∀ (s : State) (r : Nat), r < 16 →
    let is := regionSites s r
    let sums := drainSums s r
    let q := drainOff r 0
    let bad := fun (t : State) => t.rd drainP Reg.Hd.BAD_VALUE = 1 ∧ t.rd drainP Reg.Hd.LAST_OFFSET = q ∧ OnlyRegs (keysOf drainP [Reg.Hd.BAD_VALUE, Reg.Hd.LAST_OFFSET]) s t
    let told := keysOf idP [pfBit intDrain]
    (Hosted s drainP q → Completes (.drain r) s (fun t => if s.rd drainP (Reg.Dr.DRAINING r) = 1 then bad t
      else t.rd drainP (Reg.Dr.DRAINING r) = 1 ∧ (∀ i ∈ is, t.rd (cniP i) Reg.Cn.INJ_STOPPED = 1) ∧
        OnlyRegs (keysOf drainP [Reg.Dr.DRAINING r] ++ keysAll is cniP [Reg.Cn.INJ_STOPPED]) s t)) ∧
    Completes (.drainDone r) s (fun t =>
      if s.rd drainP (Reg.Dr.DRAINING r) = 1 ∧ s.rd drainP (Reg.Dr.DRAIN_DONE r) = 0 ∧ sums.1 = sums.2 then
        t.rd drainP (Reg.Dr.DRAIN_DONE r) = 1 ∧ t.rd idP (pfBit intDrain) = 1 ∧ Off (keysOf drainP [Reg.Dr.DRAIN_DONE r] ++ told) s t
      else t = s) ∧
    Completes (.drainTimeout r) s (fun t =>
      if s.rd drainP (Reg.Dr.DRAINING r) = 1 ∧ s.rd drainP (Reg.Dr.DRAIN_DONE r) = 0 then
        t.rd drainP (Reg.Dr.DRAIN_TIMEOUT r) = 1 ∧ t.rd idP (pfBit intDrain) = 1 ∧ Off (keysOf drainP [Reg.Dr.DRAIN_TIMEOUT r] ++ told) s t
      else t = s) ∧
    (Hosted s drainP q → Completes (.swap r) s (fun t => if s.rd drainP (Reg.Dr.DRAIN_DONE r) = 0 then bad t
      else (t.region r).swapAt = some (((s.region r).fc + 1) % 2 ^ 48) ∧ t = { s with regions := t.regions })) ∧
    (Hosted s drainP q → Completes (.drainAbort r) s (fun t => if s.rd drainP (Reg.Dr.DRAINING r) = 0 then bad t
      else t.rd drainP (Reg.Dr.DRAINING r) = 0 ∧ t.rd drainP (Reg.Dr.DRAIN_DONE r) = 0 ∧ (t.region r).swapAt = none ∧
        (∀ i ∈ is, t.rd (cniP i) Reg.Cn.INJ_STOPPED = 0) ∧ t.mem = s.mem))

/-! ### Open accesses, scrubbing and beats -/

/-- R106, R113, R205, R206, R209, R214, R222: a port grants its oldest request, which is made and leaves the queue, and the grant and the
longest wait are counted; a partial write of a half-line of the well takes its read first; a refresh slot refreshes every channel; a
shadow slot table is valid or shows the first check that it fails; and the host frees a landing entry that has failed. -/
def Obligations.OpenAccessesAreServed : Prop :=
  ∀ (s : State) (i : Nat) (ups : Upsets), i < 256 →
    let st := s.site i
    let u := strike s ups
    (∀ n cyc wait, n < 8 → st.clearing = false → ∀ q, portPick s i (atCore n) (fun q => openAt (offBank q.off) cyc) = some q →
      Completes (.openGrant ⟨i, n⟩ cyc wait ups) s (fun t => (t.core ⟨i, n⟩).grants = (s.core ⟨i, n⟩).grants + 1 ∧
        (t.core ⟨i, n⟩).waitMax = max (s.core ⟨i, n⟩).waitMax wait ∧ Served u t i q)) ∧
    (∀ sl cyc wait, sl < 16 → st.clearing = false → openAt sl cyc = true → ∀ q, portPick s i (atSlice sl) (fun _ => true) = some q →
      Completes (.sliceOpenGrant i sl cyc wait ups) s (fun t => (t.site i).cisGrants = st.cisGrants + 1 ∧
        (t.site i).cisWait = max st.cisWait wait ∧ Served u t i q)) ∧
    (∀ ch cyc wait, ch < 16 → st.clearing = false → slotOpen s i ch cyc = true → ∀ q, portPick s i (atChannel ch) (fun _ => true) = some q →
      Completes (.wellOpenService i ch cyc wait ups) s (fun t => (t.site i).openLines = st.openLines + 1 ∧
        (if partHalf q = true ∧ q.half = false then { q with half := true } ∈ (t.site i).opens ∧ t.mem = u.mem ∧ Off (keysOf (wellP i) wellFields) s t
         else (t.site i).openWait = max st.openWait wait ∧ Served u t i q))) ∧
    (∀ cyc k, slotStart (cyc % 16) = some k → wellOwner s i (cyc / 16) k = 9 → Completes (.wellRefresh i cyc) s (fun t =>
      (∀ ch < 16, tabGet (fun _ => 0) (t.site i).refreshed ch = s.tenths) ∧ t.regs = s.regs ∧ t.mem = s.mem)) ∧
    (∀ pw : BitVec 3, Hosted s (wellP i) 0x44 → Completes (.wstCheck i pw) s (fun t => let p := wellP i
      if pw.toNat = 7 then RefusedAt s t i p 0x44
      else t.rd p Reg.We.SH_PW = pw.toNat ∧ t.rd p Reg.We.SHADOW_VALID = (if wstRefusal s i pw.toNat = none then 1 else 0) ∧
        (∀ x, wstRefusal s i pw.toNat = some x → t.rd p Reg.We.REFUSE_CODE = x.1 ∧ t.rd p Reg.We.REFUSE_ENTRY = x.2 ∧ t.rd p Reg.We.SLOT_REFUSED = 1) ∧
        Off (keysOf p [Reg.We.SH_PW, Reg.We.SHADOW_VALID, Reg.We.REFUSE_CODE, Reg.We.REFUSE_ENTRY, Reg.We.SLOT_REFUSED] ++ keysOf (budP i) [Reg.Bu.BUD_HIT]) s t)) ∧
    (∀ z : BitVec 5, Hosted s (wellP i) 0x68 → Completes (.landClr i z) s (fun t => let p := wellP i
      if s.rd p (Reg.We.LAND_STATE z.toNat) = 2 then t.rd p (Reg.We.LAND_STATE z.toNat) = 0 ∧ t.rd p Reg.We.LAND_CLR_ENTRY = z.toNat ∧
        Off (keysOf p [Reg.We.LAND_CLR_ENTRY, Reg.We.LAND_STATE z.toNat, Reg.We.LAND_USED] ++ keysOf (budP i) [Reg.Bu.BUD_HIT]) s t
      else RefusedAt s t i p 0x68))

/-- R108, R113, R210, R349: a scrubber reads a line in a free cycle, while its budget lasts: one with an error waits to be rewritten, and the
rewriting follows unless the line has changed; where the budget is spent, that is shown. -/
def Obligations.ScrubbersPass : Prop :=
  ∀ (s : State) (i : Nat) (ups : Upsets), i < 256 →
    let st := s.site i
    let u := strike s ups
    let hit := fun (t : State) (b : Nat) => bits (t.rd (budP i) Reg.Bu.BUD_HIT) b 1 = 1 ∧ t.mem = u.mem ∧ OnlyRegs (keysOf (budP i) [Reg.Bu.BUD_HIT]) u t
    let rewritten := fun (t : State) (a : Nat) (x : Nat × Nat × Nat) (half : Bool) =>
      t.mem = (if scrubSnap u a = x then (scrubWrite u a x.2.2 half).mem else u.mem)
    let sram := st.uSram < s.rd (budP i) Reg.Bu.BUD_SCRUB_SRAM
    (∀ n cyc bank line, n < 8 → st.clearing = false → line < 128 →
      let c : CoreId := ⟨i, n⟩
      let snap := scrubSnap u (spAddr i n bank line)
      ((s.core c).scrub = none → scrubMay s c cyc bank = true →
        Completes (.scrubStep c cyc bank line ups) s (fun t =>
          if sram then (t.core c).scrub = (if snap.2 = (0, 0) then none else some (bank, line, snap)) ∧ (t.site i).uSram = st.uSram + 1 ∧
            t.mem = u.mem ∧ Off (keysOf (coreP c) spFields) s t
          else hit t 0)) ∧
      (∀ x, (s.core c).scrub = some x → scrubMay s c cyc x.1 = true → sram →
        Completes (.scrubStep c cyc bank line ups) s (fun t => (t.core c).scrub = none ∧ (t.site i).uSram = st.uSram + 1 ∧
          rewritten t (spAddr i n x.1 x.2.1) x.2.2 false ∧ t.regs = s.regs))) ∧
    (∀ sl cyc, sl < 16 → st.clearing = false → openAt sl cyc = true → portPick s i (atSlice sl) (fun _ => true) = none →
      let p := cisP i
      let l := s.rd p Reg.Ci.SCRUB_POS
      let snap := scrubSnap u (cisAddr i sl l)
      (tabFind st.cisScrub sl = none → bits st.cisSeen sl 1 = 0 → s.rd p Reg.Ci.SCRUB_EN ≠ 0 →
        Completes (.cisternScrub i sl cyc ups) s (fun t =>
          if sram then tabFind (t.site i).cisScrub sl = (if snap.2 = (0, 0) then none else some (l, snap)) ∧ (t.site i).uSram = st.uSram + 1 ∧
            (st.cisSeen ||| 2 ^ sl = 0xFFFF → (t.site i).cisScrub = [] → (t.site i).cisSeen = 0 ∧
              t.rd p Reg.Ci.SCRUB_POS = (if l + 1 = 24576 then 0 else (l + 1) % 2 ^ Reg.Ci.SCRUB_POS.w)) ∧ t.mem = u.mem
          else hit t 0)) ∧
      (∀ x, tabFind st.cisScrub sl = some x → sram → Completes (.cisternScrub i sl cyc ups) s (fun t => (t.site i).cisGrants = st.cisGrants + 1 ∧
        rewritten t (cisAddr i sl x.1) x.2 false))) ∧
    (∀ cyc, let p := wellP i
      let l := s.rd p Reg.We.SCRUB_POS
      let snap := scrubSnap u (wellAddr i l)
      st.clearing = false → slotOpen s i (l % 16) cyc = true → portPick s i (atChannel (l % 16)) (fun _ => true) = none →
      (st.wellScrub = none → s.rd p Reg.We.SCRUB_EN ≠ 0 → Completes (.wellScrub i cyc ups) s (fun t =>
        if st.uWell < s.rd (budP i) Reg.Bu.BUD_SCRUB_WELL then (t.site i).uWell = st.uWell + 1 ∧ (t.site i).openLines = st.openLines + 1 ∧ t.mem = u.mem ∧
          (if snap.2 = (0, 0) then (t.site i).wellScrub = none ∧ t.rd p Reg.We.SCRUB_POS = (if l + 1 = 335544320 then 0 else (l + 1) % 2 ^ Reg.We.SCRUB_POS.w)
           else (t.site i).wellScrub = some (l, snap) ∧ t.rd p Reg.We.SCRUB_POS = l)
        else hit t 1)) ∧
      (∀ x, st.wellScrub = some x → st.uWell < s.rd (budP i) Reg.Bu.BUD_SCRUB_WELL → Completes (.wellScrub i cyc ups) s (fun t =>
        (t.site i).wellScrub = none ∧ (t.site i).uWell = st.uWell + 1 ∧ rewritten t (wellAddr i l) x.2 true)))

/-- R136, R138, R140, R141, R164: a beat that arrives is counted by what it decodes to; one of a hop entry is passed on, or written where a core has bound a
receive, or is unclaimed; a beat that is missing is counted, and nothing comes by a lane group that is out of use. -/
def Obligations.BeatsArrive : Prop :=
  ∀ (s : State) (i d w sl : Nat), i < 256 → d < 4 →
    let p := tniP i
    let st := s.site i
    let up := fun (f : Fld) => satAdd (2 ^ f.w - 1) (s.rd p f) 1
    let hit := beatHit s i d w sl
    (∀ b, bits st.ttDown d 1 = 1 → Completes (.ttBeatReceive i d w sl b) s (fun t => t = s)) ∧
    (bits st.ttDown d 1 = 0 → ∀ k data, Completes (.ttBeatReceive i d w sl (.word k data)) s (fun t =>
      let bad := decide (k = .stomped) || decide (k = .uncorrectable)
      (k = .corrected → t.rd p Reg.Tn.TT_CE_CNT = up Reg.Tn.TT_CE_CNT) ∧ (k = .stomped → t.rd p Reg.Tn.STOMP_IN = 1) ∧
      (k = .uncorrectable → t.rd p Reg.Tn.UNCORR = 1 ∧ t.rd p Reg.Tn.TT_UE_CNT = up Reg.Tn.TT_UE_CNT ∧
        (s.rd p Reg.Tn.UE_LIMIT ≠ 0 → tabGet (fun _ => 0) st.ttUe d + 1 = s.rd p Reg.Tn.UE_LIMIT → bits (t.site i).ttDown d 1 = 1 ∧ t.rd p Reg.Tn.LINK_DOWN = 1)) ∧
      (hit = none → t.rd p Reg.Tn.UNCLAIMED = 1 ∧ t.rd p Reg.Tn.TT_UNCLAIMED = up Reg.Tn.TT_UNCLAIMED ∧ t.out = s.out ∧ t.mem = s.mem) ∧
      (∀ x, hit = some x → t.out = s.out ++ (if hopType x.1 = 2 then [] else [.beat i (hopOut x.1) (outSlot x.1 x.2).1 (outSlot x.1 x.2).2 data.toNat bad]) ∧
        (beatBound s i x.1 = none → t.mem = s.mem ∧ (hopType x.1 = 2 → t.rd p Reg.Tn.UNCLAIMED = 1 ∧ t.rd p Reg.Tn.TT_UNCLAIMED = up Reg.Tn.TT_UNCLAIMED)) ∧
        (∀ y, beatBound s i x.1 = some y → t.mem = (beatWrite s y.1 y.2 x.1 x.2 data.toNat bad).mem)))) ∧
    (bits st.ttDown d 1 = 0 → Completes (.ttBeatReceive i d w sl .idle) s (fun t =>
      ((hit.bind (fun x => beatBound s i x.1)) = none → t = s) ∧
      (∀ y, (hit.bind (fun x => beatBound s i x.1)) = some y → t.rd p Reg.Tn.MISSING = 1 ∧ t.rd p Reg.Tn.TT_MISSING = up Reg.Tn.TT_MISSING ∧ t.drawn = s.drawn + 1 ∧
        t.out = s.out)))

/-! ### The optical fabric -/

/-- R227, R229, R232, R234 to R237, R239: a block in order is taken, one out of order or damaged is asked for again, and an old one dropped; an
IDENT brings the port up, or refuses it with its code; a request for a replay is answered; a TIME block is answered, and a reply of
the parent corrects the panel's time; a routing table is checked and swapped; and a stalled VC is discarded. -/
def Obligations.FabricBlocks : Prop :=
  ∀ (s : State) (h p : Nat), portOk h p = true →
    let o := s.optic h p
    let q := portP h p
    let ask := fun (t : State) (k content : Nat) => t = { s with out := s.out ++ [.efl h p (eflHdr 0 ((o.rx + 2 ^ 32 - 1) % 2 ^ 32) k 0 0 0) [] content] }
    (∀ (hdr : BitVec 128) (ws : List FWord), let d := (bits hdr.toNat 0 32 + 2 ^ 32 - o.rx) % 2 ^ 32
      let damaged := d ≠ 0 ∨ popc 14 (bits hdr.toNat 96 14) ≠ ws.length ∨ ws.any (fun w => !w.crcOk) = true
      Completes (.eflDataBlock h p hdr ws 0) s (fun t =>
        (portState s h p ≠ 3 → t = s) ∧
        (portState s h p = 3 → hdrOk hdr.toNat 1 = false → ask t 5 o.rx) ∧
        (portState s h p = 3 → hdrOk hdr.toNat 1 = true → 2 ^ 31 ≤ d → t = s) ∧
        (portState s h p = 3 → hdrOk hdr.toNat 1 = true → d < 2 ^ 31 → damaged → ask t 5 o.rx) ∧
        (portState s h p = 3 → hdrOk hdr.toNat 1 = true → ¬ damaged → (t.optic h p).rx = (o.rx + 1) % 2 ^ 32 ∧
          (∀ w, ws = [w] → w.t.dpanel.toNat ≠ ownPanel s → w.t.ttl = 0 → t.rd (hubP h 0) Reg.Hu.TTL = 1 ∧
            t.rd (hubP h 0) Reg.Hu.TTL_CNT = satAdd (2 ^ Reg.Hu.TTL_CNT.w - 1) (s.rd (hubP h 0) Reg.Hu.TTL_CNT) 1))) ∧
      Completes (.eflIdleBlock h p hdr 0) s (fun t =>
        (portState s h p ≠ 3 → t = s) ∧
        (portState s h p = 3 → hdrOk hdr.toNat 2 = false → ask t 5 o.rx) ∧
        (portState s h p = 3 → hdrOk hdr.toNat 2 = true → 2 ^ 31 ≤ d → t = s) ∧
        (portState s h p = 3 → hdrOk hdr.toNat 2 = true → d = 0 → bits hdr.toNat 96 14 = 0 → o.queue = [] → t.out = s.out ∧ t.regs = s.regs ∧
          (let vc := bits hdr.toNat 72 2
           t.optic h p = { acked o (bits hdr.toNat 32 32) with
             rx := (o.rx + 1) % 2 ^ 32, used := tabSet (fun _ => 0) o.used vc (tabGet (fun _ => 0) o.used vc - bits hdr.toNat 80 16) })))) ∧
    (∀ ok i, let c := identCode s h p i
      Completes (.ident h p ok i) s (fun t =>
        if ok = true ∧ portLive s h p = true then (t.optic h p).peer = some i ∧ t.rd q Reg.Fa.PEER_ID = i.id.toNat ∧ t.rd q Reg.Fa.PEER_HUB = i.hub.toNat ∧
          t.rd q Reg.Fa.PEER_PORT = i.port.toNat ∧ t.rd q Reg.Fa.REFUSE_CODE = c ∧ portState t h p = (if c = 0 then 3 else 5) ∧
          (c = 0 → t.rd q Reg.Fa.VER = commonVer s h i) ∧ (c ≠ 0 → bits (t.rd q Reg.Fa.PORT_ERR) 5 1 = 1) ∧
          (c = 4 → t.rd (hubP h 0) Reg.Hu.ID_CONFLICT = 1) ∧ (c = 0 → i.hub.toNat ≠ h → t.rd (hubP h 0) Reg.Hu.XPLANE = 1)
        else t = s)) ∧
    Completes (.identSend h p) s (fun t => if portLive s h p then ask t 3 (identContent s h p) else t = s) ∧
    (∀ b, let now := panelNs s
      let u := showParent (s.setOptic h p { o with clock := if b.hops < 30 then some (b.serial.toNat, b.hops) else none })
      Completes (.time h p b) s (fun t =>
        (portUp s h p = false → t = s) ∧
        (portUp s h p = true → (t.optic h p).clock = (if b.hops < 30 then some (b.serial.toNat, b.hops) else none)) ∧
        (portUp s h p = true → b.reply = none → t.tenths = s.tenths ∧ let m := (timeSource_ u).getD (2 ^ 64 - 1, 31)
          t.out = s.out ++ [.time h p { serial := BitVec.ofNat 64 m.1, hops := m.2, t1 := b.t1, reply := some (now, now) }]) ∧
        (∀ x, b.reply = some x → portUp s h p = true → u.rd twinP Reg.Tw.TIME_MASTER ≠ 1 → u.rd twinP Reg.Tw.PARENT_PORT = portIx h p →
          let th := ((x.1 - b.t1) + (x.2 - now)) / 2
          t.rd twinP Reg.Tw.TIME_OFFSET = unsgn 32 th ∧ t.rd twinP Reg.Tw.TIME_LOCKED = (if th.natAbs ≤ 50 then 1 else 0) ∧
          t.tenths = ((s.tenths : Int) + 10 * (if 1000000 < th.natAbs then th else max (-100) (min 100 th))).toNat ∧
          (1000000 < th.natAbs → t.rd twinP Reg.Tw.TIME_STEP_CNT = satAdd (2 ^ Reg.Tw.TIME_STEP_CNT.w - 1) (s.rd twinP Reg.Tw.TIME_STEP_CNT) 1)))) ∧
    Completes (.timeExchange h p) s (fun t =>
      if s.rd twinP Reg.Tw.TIME_MASTER ≠ 1 ∧ portUp s h p = true then let m := (timeSource_ s).getD (2 ^ 64 - 1, 31)
        t = { s with out := s.out ++ [.time h p { serial := BitVec.ofNat 64 m.1, hops := m.2, t1 := panelNs s, reply := none }] }
      else t = s) ∧
    (∀ seq : BitVec 32, let n := if o.failSeq = seq.toNat then o.fails + 1 else 1
      Completes (.replayReq h p seq) s (fun t =>
        (portState s h p ≠ 3 → t = s) ∧
        (portState s h p = 3 → bits (t.rd q Reg.Fa.PORT_ERR) 0 1 = 1 ∧ t.rd q Reg.Fa.REPLAY_CNT = satAdd (2 ^ Reg.Fa.REPLAY_CNT.w - 1) (s.rd q Reg.Fa.REPLAY_CNT) 1) ∧
        (portState s h p = 3 → n < 17 → (t.optic h p).fails = n ∧ (t.optic h p).sent = o.sent ∧
          t.out = s.out ++ (o.sent.filter (fun b => decide ((b.seq + 2 ^ 32 - seq.toNat) % 2 ^ 32 < 2 ^ 31))).map (fun b => .efl h p (blockHdr s h p b) b.words 0)) ∧
        (portState s h p = 3 → 17 ≤ n → portState t h p = 1 ∨ portState t h p = 4))) ∧
    (Hosted s (hubP h 0) 0x44 → Completes (.frtCheck h) s (fun t => OnlyRegs (keysOf (hubP h 0) [Reg.Hu.FRT_SH_VALID]) s t ∧
      t.rd (hubP h 0) Reg.Hu.FRT_SH_VALID = (if (List.range 4096).all (fun d => let e := s.rd (hubP h 0) (Reg.Hu.FRT_SH d)
        e % 65536 + e / 65536 = 0xFFFF && (h = 0 || h = 15 || bits e 4 1 = 0)) then 1 else 0))) ∧
    (Hosted s (hubP h 0) 0x44 → Completes (.frtSwap h) s (fun t => let c := hubP h 0
      if s.rd c Reg.Hu.FRT_SH_VALID = 0 then Refused s t c 0x44
      else t.rd c Reg.Hu.FRT_SH_VALID = 0 ∧ t.rd c Reg.Hu.FRT_ACTIVE = (1 - s.rd c Reg.Hu.FRT_ACTIVE) % 2 ∧ keyHas t.bring.swapped h = true ∧
        ∀ d < 4096, t.rd c (Reg.Hu.FRT_ACT d) = s.rd c (Reg.Hu.FRT_SH d) % 2 ^ (Reg.Hu.FRT_ACT d).w ∧
          t.rd c (Reg.Hu.FRT_SH d) = s.rd c (Reg.Hu.FRT_ACT d) % 2 ^ (Reg.Hu.FRT_SH d).w)) ∧
    (∀ vc, vc < 4 → Completes (.fabStall h p vc) s (fun t =>
      if o.queue.any (fun x => tagVc x.w.t = vc) then t.rd (hubP h 0) Reg.Hu.STALL = 1 ∧
        t.rd (hubP h 0) Reg.Hu.STALL_CNT = satAdd (2 ^ Reg.Hu.STALL_CNT.w - 1) (s.rd (hubP h 0) Reg.Hu.STALL_CNT) 1
      else t = s))

/-- R230, R231, R249: a port that is trained retrains when its block alignment is lost or its peer trains, and the fifth time within 60 s holds it
down; the host may retrain it, unless it is disabled or held; training ends with the lanes that work, or with the port down; and a hold ends
in a retrain. -/
def Obligations.FabricPortsTrain : Prop :=
  ∀ (s : State) (h p : Nat), portOk h p = true →
    let q := portP h p
    Completes (.train h p) s (fun t => if portLive s h p then Retrained s t h p else t = s) ∧
    Completes (.lossOfBlockAlignment h p) s (fun t => if portLive s h p then Retrained s t h p else t = s) ∧
    (Hosted s q 0x44 → Completes (.retrain h p) s (fun t =>
      if s.rd q Reg.Fa.DISABLE = 1 ∨ portState s h p = 4 then t = s
      else portState t h p = 1 ∧ bits (t.rd q Reg.Fa.PORT_ERR) 1 1 = 1 ∧ Off (keysOf q [Reg.Fa.PORT_STATE, Reg.Fa.PORT_ERR] ++ keysOf twinP [Reg.Tw.BRIDGE_UP]) s t)) ∧
    (∀ lanes aseq rtt, let v := s.rd q Reg.Fa.VER
      let w := portWidth (if v = 0 then verMax s h else v) lanes
      Completes (.retrainDone h p lanes aseq rtt) s (fun t =>
        (portState s h p ≠ 1 → t = s) ∧
        (portState s h p = 1 → w = 0 → portState t h p = 0 ∧ t.rd q Reg.Fa.LANES = 0 ∧ (t.optic h p).peer = none) ∧
        (portState s h p = 1 → w ≠ 0 → portState t h p = (if v = 0 then 2 else 3) ∧ t.rd q Reg.Fa.LANES = w ∧ t.rd q Reg.Fa.RTT_NS = rtt % 2 ^ Reg.Fa.RTT_NS.w ∧
          (w < 8 → bits (t.rd q Reg.Fa.PORT_ERR) 2 1 = 1)))) ∧
    Completes (.retrainTimeout h p) s (fun t => if portState s h p = 1 then portState t h p = 0 ∧ t.rd q Reg.Fa.VER = 0 ∧ (t.optic h p).peer = none ∧
      bits (t.rd q Reg.Fa.PORT_ERR) 4 1 = 1 else t = s) ∧
    Completes (.holdEnd h p) s (fun t => if portState s h p = 4 then Retrained s t h p else t = s) ∧
    (Hosted s q 0x44 → Completes (.holdClr h p) s (fun t => t.rd q Reg.Fa.HOLD_LEVEL = 0 ∧
      (if portState s h p = 4 then portState t h p = 1 ∨ portState t h p = 4 else OnlyRegs (keysOf q [Reg.Fa.HOLD_LEVEL]) s t))) ∧
    Completes (.holdLevelReset h p) s (fun t => if portState s h p = 4 then t = s
      else t.rd q Reg.Fa.HOLD_LEVEL = 0 ∧ OnlyRegs (keysOf q [Reg.Fa.HOLD_LEVEL]) s t)

/-! ### Hubs, the twin and collectives -/

/-- R241, R242, R244, R319: a die's request that may pass is answered, one that may not is dropped and counted, and too many isolate the die; the
link of a deep tier that drops ends its transfers; a completion ends a transfer with an error, or hands its data on; and a hot reset of
a HOST port is noted. -/
def Obligations.HubsMeetTheOutside : Prop :=
  ∀ (s : State) (h : Nat), h < 16 →
    let f := fwP h
    let x := x16P h
    let role := s.rd x Reg.Xp.X16_ROLE
    (∀ slot write addr r, slot < 4 ∨ slot = 5 ∨ (slot = 4 ∧ hasPort h 4 = true) →
      let drop := r = .other ∨ (write = true ∧ r ≠ .phy ∧ r ≠ .mailbox)
      let late := (s.up :: tabGet (fun _ => []) (s.hub h).drops slot).filter (fun t => decide (s.up < t + 10000000000))
      Completes (.firewallRequest h slot write addr r) s (fun t =>
        (bits (s.rd f Reg.Fw.ISOLATED) slot 1 = 1 → t = s) ∧
        (bits (s.rd f Reg.Fw.ISOLATED) slot 1 = 0 → drop → t.rd f Reg.Fw.FW_DROP_CNT = satAdd (2 ^ Reg.Fw.FW_DROP_CNT.w - 1) (s.rd f Reg.Fw.FW_DROP_CNT) 1 ∧
          bits (t.rd f Reg.Fw.FW_ERR) slot 1 = 1 ∧ t.rd f Reg.Fw.LAST_DIE = slot ∧ t.rd f Reg.Fw.LAST_WRITE = (if write then 1 else 0) ∧
          t.rd f Reg.Fw.LAST_ADDR = addr.toNat ∧ (16 < late.length → bits (t.rd f Reg.Fw.ISOLATED) slot 1 = 1)) ∧
        (bits (s.rd f Reg.Fw.ISOLATED) slot 1 = 0 → ¬ drop → t = { s with out := s.out ++ ((fwAnswer s h slot r).map (fun v => Out.die h slot v)).toList }))) ∧
    Completes (.deepLinkDown h) s (fun t => if role = 2 then t.rd x Reg.Xp.LINK_UP = 0 ∧ bits (t.rd x Reg.Xp.X16_ERR) 1 1 = 1 ∧ t.mem = s.mem ∧
        (∀ k < 512, let c := s.ctx (256 + h) k
          c.live = true → c.act = 1 → c.space = .deep → c.done = none → (t.ctx (256 + h) k).done = some 0x0A)
      else t = s) ∧
    (∀ k err data poison, k < 512 → let c := s.ctx (256 + h) k
      c.live = true → c.act = 1 → c.done = none →
      Completes (.hostCompletion h k err data poison) s (fun t => let c' := t.ctx (256 + h) k
        (err = true → bits (t.rd x Reg.Xp.X16_ERR) 0 1 = 1 ∧ c'.done = some 0x0A) ∧
        (err = false → c.write = false → c.piece.n = 0 → t = s) ∧
        (err = false → c.write = false → c.piece.n ≠ 0 → c'.rd = c.rd + 8 * c.piece.n ∧
          c.tx.queue ++ [{ kind := 3, words := c.piece.n, last := false, poison := poison % 2 ^ c.piece.n != 0, data := data % 2 ^ (64 * c.piece.n) }] <+: c'.tx.queue ∧
          (c.space = .deep → poison ≠ 0 → bits (t.rd x Reg.Xp.X16_ERR) 2 1 = 1)) ∧
        (err = false → c.write = true → c.space = .deep → ∀ e, c.rx.held = [e] → c.rx.fwd = 1 → e.kind = 3 → e.last = false →
          c'.rx.held = [] ∧ c'.rx.last = e.seq.toNat ∧ c'.pos = c.pos + 8 * (e.words.toNat + 1)) ∧ t.mem = s.mem)) ∧
    Completes (.hotReset h) s (fun t => if role = 1 then bits (t.rd x Reg.Xp.X16_ERR) 3 1 = 1 ∧ OnlyRegs (keysOf x [Reg.Xp.X16_ERR]) s t else t = s)

/-- R245 to R248, R250: heartbeats leave by every TB port that is up, and one lost is noted, both together a failure of a shadow; pairing,
detaching, shrinking, attaching and their aborts each move the twin's state as its rule says and tell the twin, a command that does not
fit the state is refused, and a time that runs out takes the state back. -/
def Obligations.TwinsPairAndPart : Prop :=
  ∀ (s : State),
    let at_ := twinState s
    let lead := s.rd twinP Reg.Tw.LEAVER = 1
    let bad := fun (t : State) => twinHas t 0 ∧ t.rd twinP Reg.Hd.BAD_VALUE = 1 ∧ t.rd twinP Reg.Hd.LAST_OFFSET = 0x44 ∧ t.out = s.out ∧
      OnlyRegs (keysOf twinP [Reg.Hd.BAD_VALUE, Reg.Hd.LAST_OFFSET, Reg.Tw.TWIN_ERR]) s t
    let same := s.rd twinP Reg.Tw.PEER_SERIAL_LO + s.rd twinP Reg.Tw.PEER_SERIAL_HI * 2 ^ 32 = Config.serial.toNat
    Completes .heartbeat s (fun t => t = { s with twin := { s.twin with seq := (s.twin.seq + 1) % 2 ^ 32 }, drawn := s.drawn + 1, out := t.out } ∧
      t.out = s.out ++ toTwin s (.heartbeat at_ s.twin.seq (Config.fresh s.drawn 32).toNat s.time (s.rd pmP Reg.Pm.ALIVE = 0))) ∧
    (∀ b, b < 2 → Completes (.hbLoss b) s (fun t => keyHas t.twin.lost b = true ∧ twinHas t 4 ∧
      (s.rd twinP Reg.Tw.HB_LOSS ≠ 0 → t.rd twinP Reg.Tw.HB_MISSED_CNT =
        satAdd (2 ^ Reg.Tw.HB_MISSED_CNT.w - 1) (s.rd twinP Reg.Tw.HB_MISSED_CNT) (s.rd twinP Reg.Tw.HB_LOSS)) ∧
      (s.twin.lost = [1 - b] → twinHas t 5 ∧ t.rd idP (pfBit intTwin) = 1 ∧ (lead → at_ = 6 → twinHas t 6 ∧ twinState t = 5)))) ∧
    (∀ ovr, Hosted s twinP 0x44 → Completes (.pair ovr) s (fun t =>
      (at_ ≠ 0 ∨ same → bad t) ∧
      (at_ = 0 → ¬ same → sameDomain s = true → ovr = false → twinHas t 1 ∧ OnlyRegs (keysOf twinP [Reg.Tw.TWIN_ERR]) s t) ∧
      (at_ = 0 → ¬ same → sameDomain s = false ∨ ovr = true → s.twin.wants = none →
        TwinGoes s t 1 0 (toTwin s (.pair (BitVec.ofNat 64 (peerSerial s)) ovr)) ∧ t.twin.ovr = ovr))) ∧
    Completes .pairTimeout s (fun t => if at_ = 1 then TwinGoes s t 0 0 [] ∧ twinHas t 2 else t = s) ∧
    (Hosted s twinP 0x44 → Completes .unpair s (fun t => if at_ = 0 then bad t else TwinGoes s t 0 0 (toTwin s .unpair))) ∧
    (Hosted s twinP 0x44 → Completes .reqDetach s (fun t => if at_ ≠ 2 then bad t else TwinGoes s t 3 1 (toTwin s .detach))) ∧
    Completes .detachTimeout s (fun t => if at_ = 3 then TwinGoes s t 2 0 [] ∧ twinHas t 2 else t = s) ∧
    (Hosted s twinP 0x44 → Completes .shrunk s (fun t => if lead ∧ at_ = 4 then TwinGoes s t 5 1 (toTwin s .shrunk) else bad t)) ∧
    (Hosted s twinP 0x44 → Completes .reqAttach s (fun t => if lead ∧ at_ = 5 then TwinGoes s t 6 1 (toTwin s .shadow) ∧ t.rd twinP Reg.Tw.CLEAN_FRAMES = 0 else bad t)) ∧
    (Hosted s twinP 0x44 → Completes .attach s (fun t => if lead ∧ at_ = 7 then TwinGoes s t 2 0 (toTwin s .attach) else bad t)) ∧
    (Hosted s twinP 0x44 → Completes .twinAbort s (fun t =>
      if lead ∧ (at_ = 6 ∨ at_ = 7) then TwinGoes s t 5 1 (toTwin s .abort)
      else if at_ = 3 ∨ at_ = 4 then TwinGoes s t 2 0 (toTwin s .abort) else bad t)) ∧
    (∀ b, b < 2 →
      (∀ v n e tm up, Completes (.heartbeatReceipt b (.heartbeat v n e tm up)) s (fun t => keyHas t.twin.lost b = false ∧ t.twin.state = v ∧ t = { s with twin := t.twin })) ∧
      Completes (.heartbeatReceipt b .unpair) s (fun t => if at_ = 0 then t = s else TwinGoes s t 0 0 []) ∧
      (at_ = 2 → s.outOfService = false → Completes (.heartbeatReceipt b .detach) s (fun t => TwinGoes s t 4 0 (toTwin s .ready))) ∧
      (at_ = 2 → s.outOfService = true → Completes (.heartbeatReceipt b .detach) s (fun t => t = { s with out := s.out ++ toTwin s .busy })) ∧
      (at_ = 3 → lead → Completes (.heartbeatReceipt b .ready) s (fun t => TwinGoes s t 4 1 []) ∧
        Completes (.heartbeatReceipt b .busy) s (fun t => TwinGoes s t 2 0 [] ∧ twinHas t 3)) ∧
      Completes (.heartbeatReceipt b .shrunk) s (fun t => t.twin.absent = true ∧ t = { s with twin := t.twin }) ∧
      (lead → at_ = 6 → Completes (.heartbeatReceipt b (.digest false)) s (fun t => TwinGoes s t 5 1 [] ∧ twinHas t 6) ∧
        Completes (.heartbeatReceipt b (.digest true)) s (fun t => let n := s.rd twinP Reg.Tw.CLEAN_FRAMES + 1
          t.rd twinP Reg.Tw.CLEAN_FRAMES = n % 2 ^ Reg.Tw.CLEAN_FRAMES.w ∧ twinState t = (if 4096 ≤ n then 7 else 6))))

/-- R255 to R257, R260 to R262, R265, R346: a post is queued, or refused with the status of the first check that fails; the oldest operation of a slot
starts at its frame once staging is free; a finished segment is committed to memory, or lost when its transfers break; a time that runs
out ends the operation with its status, and an abort everything of the slot. -/
def Obligations.CollectivesRun : Prop :=
  ∀ (s : State) (h g : Nat), h < 16 → g < 16 →
    let c := collP h
    let failed := fun (t : State) (st : Nat) => t.rd c Reg.Cl.FAILED_CNT = satAdd (2 ^ Reg.Cl.FAILED_CNT.w - 1) (s.rd c Reg.Cl.FAILED_CNT) 1 ∧
      (st = 0x0C → t.rd c Reg.Cl.FORMAT = 1) ∧ (st = 0x0D → t.rd c Reg.Cl.FAILED = 1) ∧ (st = 0x0F → t.rd c Reg.Cl.VERSION = 1)
    let d := (List.range 16).foldl (fun a k => a + s.rd c (Reg.Cl.POST_DATA k) * 2 ^ (32 * k)) 0
    let v := s.slot h g
    let r := grpRegion s h g
    (dGroup d = g → Hosted s c 0x90 → Completes (.collPost h) s (fun t => let st := collCheck s h g d
      if 8 ≤ v.queue.length then t.rd c Reg.Cl.QUEUE_FULL = 1 ∧ t.rd c Reg.Hd.BAD_VALUE = 1 ∧ t.slot h g = v
      else if st = 0 then t.slot h g = { v with queue := v.queue ++ [d] } ∧ t.rd c (Reg.Cl.QUEUED g) = (v.queue.length + 1) % 2 ^ (Reg.Cl.QUEUED g).w
      else t.slot h g = v ∧ failed t st ∧ t.rd c (Reg.Cl.LAST_COLL_ID g) = dId d)) ∧
    (∀ x rest, v.queue = x :: rest → v.run = none → ∀ i, gateOf s r h = some i → fcAhead (s.site i).fc (dFc x) < 2 ^ 47 →
      let need := stagingOf x
      let quota := s.rd c (Reg.Cl.STAGE_Q r)
      (quota < need → Completes (.collStart h g) s (fun t => (t.slot h g).queue = rest ∧ (t.slot h g).run = none ∧ failed t 0x0C)) ∧
      (stagingUsed s h (fun k => grpRegion s h k = r) + need ≤ quota → stagingUsed s h (fun _ => true) + need ≤ 256 →
        Completes (.collStart h g) s (fun t => (t.slot h g).queue = rest ∧ (t.run h g).map (fun y => y.desc) = some x ∧
          bits (t.rd c Reg.Cl.RUNNING) g 1 = 1 ∧ t.mem = s.mem))) ∧
    (∀ q tries x, s.run h g = some x → x.closed = false → (x.seg q).fin = true → (x.seg q).ended = false → q ∈ dueSegs s h g x →
      (∃ k ∈ dueSegs s h g x, k ≠ q ∧ (x.seg k).ended = false) → ∀ i, gateOf s r h = some i →
      (let a := dDst x.desc + (if dOp x.desc = 1 then 0 else q * dLen x.desc)
       ∀ to_, physOf s (bits a 40 8) = some to_ → injStopped s i = false → s.rd (budP i) Reg.Bu.BUD_COURIER = 0 →
       (bits a 40 8 < 0xF0 ∨ s.rd (budP i) (Reg.Bu.BUD_HUB (bits a 40 8 - 0xF0)) = 0) → targetOf (a % 2 ^ 40) (8 * (dLen x.desc / 8)) ≠ some .well →
       Completes (.collCommit h g q tries) s (fun t => ((t.run h g).map (fun y => (y.seg q).ended)) = some true ∧
         (tries ≤ 3 → t.mem = (putWords s to_ (a % 2 ^ 40) (dLen x.desc / 8) ⟨(x.seg q).val, (x.seg q).poison⟩).mem ∧
           (t.run h g).map (fun y => y.lost) = some x.lost ∧ t.regions = s.regions) ∧
         (3 < tries → (t.run h g).map (fun y => y.lost) = some true ∧ (r < 16 → (t.region r).faultAt ≠ none))))) ∧
    (∀ x, s.run h g = some x → Completes (.collTimeout h g) s (fun t => t.run h g = none ∧ bits (t.rd c Reg.Cl.RUNNING) g 1 = 0 ∧
      (x.closed = false → failed t (if x.fail = 0 then 0x0D else x.fail) ∧ t.rd c (Reg.Cl.LAST_COLL_ID g) = dId x.desc))) ∧
    (Hosted s c (0x10C + 0x10 * g) → Completes (.collAbort h g) s (fun t => t.run h g = none ∧ (t.slot h g).queue = [] ∧
      bits (t.rd c Reg.Cl.RUNNING) g 1 = 0 ∧ t.rd c (Reg.Cl.QUEUED g) = 0))

/-! ### The Postmaster's services -/

/-- R398, R399, R410 to R414, R421, R428: a licence is installed in its slot, or its result shown, and removed; one that has expired is told once; panel time is
set, or the value refused; records move on to flash, or the failure shows; a timer is cleared; and a record that may be written is. -/
def Obligations.PostmasterServes : Prop :=
  ∀ (s : State),
    (∀ ok, Hosted s licP 0x4C → Completes (.install ok) s (fun t => let c := installCode s (stagedLic s)
      if licClosed s then Refused s t licP 0x4C
      else if c.1 ≠ 1 then t.rd licP Reg.Li.INSTALL_RESULT = c.1 ∧ OnlyRegs (keysOf licP [Reg.Li.INSTALL_RESULT]) s t
      else t.rd licP Reg.Li.LAST_SLOT = c.2 ∧ RecordPut s t 4 (licBody s c.2 (stagedLic s)) ok ∧ (ok = true → t.rd licP Reg.Li.INSTALL_RESULT = 1))) ∧
    (∀ (k : BitVec 3) ok, Hosted s licP 0x4C → Completes (.remove k ok) s (fun t =>
      if licClosed s then Refused s t licP 0x4C else t.rd licP Reg.Li.SLOT = k.toNat ∧ RecordPut s t 4 (licBody s k.toNat 0) ok)) ∧
    Completes .licenceDateCheck s (fun t =>
      (serves s = false → t = s) ∧
      (serves s = true → ∀ k < 8, let l := licSlot s k
        l ≠ 0 → licBad l = false → licUntil l ≠ 0 → licUntil l ≤ s.time → keyHas t.expired l = true ∧ (keyHas s.expired l = false → t.rd licP Reg.Li.EXPIRED = 1)) ∧
      Off (keysOf licP [Reg.Li.EXPIRED, Reg.Li.SLOT_USED, Reg.Li.SLOT_VALID] ++ logKeys) s t) ∧
    (let setTo := fun (t : State) (ns : Nat) => t.tenths = 10 * ns ∧ t.rd timeP Reg.Ti.TIME_VALID = 1 ∧ t.rd timeP Reg.Ti.SET_BY = 0 ∧
        t.rd timeP Reg.Ti.TIME_SET_CNT = satAdd (2 ^ Reg.Ti.TIME_SET_CNT.w - 1) (s.rd timeP Reg.Ti.TIME_SET_CNT) 1
     let no := fun (t : State) (f : Fld) => t.rd timeP f = 1 ∧ t.rd timeP Reg.Hd.BAD_VALUE = 1 ∧ t.rd timeP Reg.Hd.LAST_OFFSET = 0x50 ∧
        OnlyRegs (keysOf timeP [f, Reg.Hd.BAD_VALUE, Reg.Hd.LAST_OFFSET]) s t
     Hosted s timeP 0x50 →
      Completes .setGo s (fun t => let ns := s.rd timeP Reg.Ti.SET_LO + s.rd timeP Reg.Ti.SET_HI * 2 ^ 32
        if calEnd ≤ ns then no t Reg.Ti.SET_REFUSED else setTo t ns) ∧
      Completes .calGo s (fun t => if calOk (calFields s) then setTo t (calTime (calFields s)) else no t Reg.Ti.DATE_INVALID)) ∧
    (∀ n fail, Completes (.logFlashCopy n fail) s (fun t =>
      (serves s = false → t = s) ∧
      (serves s = true → fail = true → t.rd logP Reg.Lo.FLASH_FAIL = 1 ∧ OnlyRegs (keysOf logP [Reg.Lo.FLASH_FAIL]) s t) ∧
      (serves s = true → fail = false → t.rd logP Reg.Lo.LOG_FLASHED_SEQ = (s.rd logP Reg.Lo.LOG_FLASHED_SEQ + min n (logWaiting s)) % 2 ^ 32 ∧ t.logRam = s.logRam ∧
        (let all := s.logFlash ++ s.logRam.filter (fun r => decide (serialGap r.seq (s.rd logP Reg.Lo.LOG_FLASHED_SEQ) < min n (logWaiting s)))
         t.logFlash = all.drop (all.length - 1048576)) ∧
        OnlyRegs (keysOf logP [Reg.Lo.LOG_FLASHED_SEQ, Reg.Lo.WRAPPED, Reg.Lo.LOG_OLDEST_SEQ]) { s with logFlash := t.logFlash } t))) ∧
    (∀ i n k, i < 256 → n < 8 → k < 16 → Hosted s (timP i) 0x14 → Completes (.timerClr i n k) s (fun t => let f := fun (g : Fld) => t.rd (timP i) (tmFld g n k)
      f (Reg.Tm.ENABLE 0) = 0 ∧ f (Reg.Tm.RUN 0) = 0 ∧ f (Reg.Tm.COUNT 0) = 0 ∧ f (Reg.Tm.LAST_CC 0) = 0 ∧ f (Reg.Tm.LAST_NS 0) = 0 ∧ f (Reg.Tm.MAX_CC 0) = 0 ∧
        f (Reg.Tm.MIN_CC 0) = 0xFFFFFFFF ∧ f (Reg.Tm.ORPHAN_CNT 0) = 0 ∧ f (Reg.Tm.DOUBLE_CNT 0) = 0 ∧ t.mem = s.mem ∧ t.out = s.out)) ∧
    (∀ ok, Hosted s pmP 0x70 → Completes (.recWrite ok) s (fun t => let ty := s.rd pmP Reg.Pm.REC_TYPE
      let len := s.rd pmP Reg.Pm.REC_LEN
      let c := recCode s ty len ok
      t.rd pmP Reg.Pm.REC_RESULT = c ∧ (c = 1 ∨ c = 5 → 1 ≤ ty → ty ≤ 4 → RecordPut s t ty (stagedBody s len) ok) ∧ (c ≠ 1 → c ≠ 5 → t.flash = s.flash)))

/-- R422 to R427: firmware is fetched, checked and staged with its result; a staged image is activated, and a confirmed one reverted to, unless a cause bars
it; the Postmaster is back alive on the slot that has booted, and a slot that does not boot in time has failed its trial; CONFIRM ends a trial and
raises the floor; and DISCARD drops what was staged. -/
def Obligations.FirmwareChanges : Prop :=
  ∀ (s : State),
    let p := pmP
    let fs := s.rd p Reg.Pm.FW_STATE
    let run := s.rd p Reg.Pm.RUN_SLOT
    let other := otherSlot s
    let staged := fun (t : State) (c : Nat) => t.rd p Reg.Pm.STAGE_RESULT = c ∧ t.rd p Reg.Pm.FW_STATE = (if c = 1 then 3 else 0) ∧ (c ≠ 1 → t.rd p Reg.Pm.STAGE_FAIL = 1)
    (Hosted s p 0x58 →
      let h := s.rd p Reg.Pm.FW_SRC_HI / 2 ^ 28
      let len := s.rd p Reg.Pm.FW_LEN
      let role := s.rd (x16P h) Reg.Xp.X16_ROLE
      Completes .fetch s (fun t =>
        (fs = 1 ∨ fs = 2 ∨ fs = 4 → Refused s t p 0x58) ∧
        (fs ≠ 1 → fs ≠ 2 → fs ≠ 4 → role ≠ 1 → staged t 2) ∧
        (fs ≠ 1 → fs ≠ 2 → fs ≠ 4 → role = 1 → 0x1000000 < len → staged t 6) ∧
        (fs ≠ 1 → fs ≠ 2 → fs ≠ 4 → role = 1 → len ≤ 0x1000000 → t.rd p Reg.Pm.FW_STATE = 1 ∧ t.rd p Reg.Pm.STAGE_RESULT = 0 ∧ t.fw other = {} ∧
          t.out = s.out ++ [.hostRead h 0 (s.rd p Reg.Pm.FW_SRC_LO + s.rd p Reg.Pm.FW_SRC_HI % 2 ^ 28 * 2 ^ 32) len 0])) ∧
      (let restarts := fun (t : State) (ready : Bool) (kind : Nat) =>
          (actCause s ready = none → t.rd p Reg.Pm.ALIVE = 0 ∧ t.rd p Reg.Pm.ACT_RESULT = 1 ∧ t.rd p Reg.Pm.BUSY_CAUSE = 0 ∧
            t.restart = some { slot := other, back := run, kind := kind }) ∧
          (∀ c, actCause s ready = some c → t.rd p Reg.Pm.ACT_RESULT = c.1 ∧ t.rd p Reg.Pm.BUSY_CAUSE = c.2 ∧ t.rd p Reg.Pm.ACT_REFUSED = 1 ∧
            t.rd p Reg.Hd.BAD_VALUE = 1 ∧ t.restart = s.restart ∧
            OnlyRegs (keysOf p [Reg.Pm.ACT_RESULT, Reg.Pm.BUSY_CAUSE, Reg.Pm.ACT_REFUSED, Reg.Hd.BAD_VALUE, Reg.Hd.LAST_OFFSET]) s t)
       Completes .activate s (fun t => restarts t (fs = 3) 0) ∧
       Completes .revert s (fun t => restarts t (fwBootable (s.fw other) (s.rd p Reg.Pm.SVN_FLOOR)) (if fs = 4 then 3 else 1))) ∧
      Completes .confirm s (fun t => if fs ≠ 4 then Refused s t p 0x58
        else t.fw run = { s.fw run with confirmed := true } ∧ t.rd p Reg.Pm.FW_STATE = 0 ∧
          t.rd p Reg.Pm.SVN_FLOOR = max (((s.fw run).img.map (fun m => m.svn.toNat)).getD 0) (s.rd p Reg.Pm.SVN_FLOOR) % 2 ^ 32) ∧
      Completes .fwDiscard s (fun t => if fs ≠ 3 then Refused s t p 0x58
        else t.fw other = { s.fw other with verified := false } ∧ t.rd p Reg.Pm.FW_STATE = 0)) ∧
    (∀ m hostErr flashErr, Completes (.fwStageDone m hostErr flashErr) s (fun t => let c := stageCode s m hostErr flashErr
      if fs = 1 ∧ serves s = true then staged t c ∧ (c ≠ 2 → c ≠ 7 → t.fw other = { img := some m, verified := decide (c = 1) }) else t = s)) ∧
    (∀ r, s.restart = some r →
      Completes .fwAlive s (fun t => t.restart = none ∧ t.rd p Reg.Pm.ALIVE = 1 ∧ t.rd p Reg.Pm.RUN_SLOT = r.slot % 2 ∧
        t.rd p Reg.Pm.BOOT_CNT = (s.rd p Reg.Pm.BOOT_CNT + 1) % 2 ^ 32 ∧ t.rd p Reg.Pm.FW_STATE = (if r.kind = 0 then 4 else 0) ∧
        (2 ≤ r.kind → t.rd p Reg.Pm.REVERTED = 1)) ∧
      Completes .fwBootTimeout s (fun t => if r.kind = 2 then t = s
        else (t.fw r.slot).trialFailed = true ∧ t.restart = some { r with slot := r.back, kind := 2 } ∧ t.regs = s.regs)) ∧
    (s.restart = none → Completes .fwAlive s (fun t => t = s) ∧ Completes .fwBootTimeout s (fun t => t = s))

/-- R401 to R405, R407: a remap request is taken, answered with a proposal or the code that refuses it, withdrawn, and committed unless a cause bars it; a
committed proposal drains or stops its regions, and once done the map in use is the proposed one and its regions are in fault. -/
def Obligations.RemapProposesAndCommits : Prop :=
  ∀ (s : State),
    let m := mapP
    let st := s.rd m Reg.Ma.RM_STATE
    let refused := fun (t : State) (c : Nat) => t.rd m Reg.Ma.RM_STATE = 5 ∧ t.rd m Reg.Ma.RM_CODE = c ∧ t.remapSites = []
    (∀ (kind : BitVec 2) (site : BitVec 8), Hosted s m 0x60 → Completes (.remapGo kind site) s (fun t =>
      if st = 1 ∨ st = 3 ∨ (kind.toNat ≠ 1 ∧ kind.toNat ≠ 2) then Refused s t m 0x60
      else t.rd m Reg.Ma.RM_STATE = 1 ∧ t.rd m Reg.Ma.RM_CODE = 0 ∧ t.rd m Reg.Ma.KIND = kind.toNat ∧ t.rd m Reg.Ma.SITE = site.toNat ∧
        t.remapSites = (if kind.toNat = 1 ∧ st = 2 then s.remapSites else []) ∧
        OnlyRegs (keysOf m [Reg.Ma.KIND, Reg.Ma.SITE, Reg.Ma.RM_STATE, Reg.Ma.RM_CODE]) { s with remapSites := t.remapSites } t)) ∧
    Completes .remapProposed s (fun t =>
      (st ≠ 1 ∨ serves s = false → t = s) ∧
      (st = 1 → serves s = true → s.rd m Reg.Ma.KIND = 1 → let i := s.rd m Reg.Ma.SITE
        let rows := if s.remapSites = [] then rowsNow s else propRows s
        (s.rd (commonP i) Reg.Sc.ROLE ≠ 0 → refused t 4) ∧
        (s.rd (commonP i) Reg.Sc.ROLE = 0 → (s.remapSites.any (fun j => j / 16 = i / 16) || !((rowOut (rows.getD (i / 16) 0)).any (usable s (i / 16)))) = true → refused t 1) ∧
        (∀ q, s.rd (commonP i) Reg.Sc.ROLE = 0 → (s.remapSites.any (fun j => j / 16 = i / 16) || !((rowOut (rows.getD (i / 16) 0)).any (usable s (i / 16)))) = false →
          repeats s i = true → swapRow s rows i = some q →
          (rowRegions s (i / 16)).any (fun r => (regionUnder s q.1 r).all (fun k => (hubOf k).isNone)) = false →
          t.rd m Reg.Ma.RM_STATE = 2 ∧ t.rd m Reg.Ma.RM_CODE = 0 ∧ t.rd m Reg.Ma.RM_IN = (16 * (i / 16) + q.2) % 2 ^ Reg.Ma.RM_IN.w ∧ t.remapSites = s.remapSites ++ [i] ∧
            ∀ y < 16, t.rd m (Reg.Ma.PROP_ROW y) = q.1.getD y 0 % 2 ^ (Reg.Ma.PROP_ROW y).w)) ∧
      (st = 1 → serves s = true → s.rd m Reg.Ma.KIND ≠ 1 → chooseMap s = none → refused t 3 ∧ t.rd m Reg.Ma.MAP_CLASS = 3) ∧
      (∀ c, st = 1 → serves s = true → s.rd m Reg.Ma.KIND ≠ 1 → chooseMap s = some c → t.rd m Reg.Ma.RM_STATE = 2 ∧ t.rd m Reg.Ma.RM_IN = 0xFF ∧ t.remapSites = [])) ∧
    (Hosted s m 0x60 → Completes .commit s (fun t =>
      if st ≠ 2 then Refused s t m 0x60
      else t.rd m Reg.Ma.RM_CODE = commitCode s ∧ (commitCode s ≠ 0 → OnlyRegs (keysOf m [Reg.Ma.RM_CODE]) s t) ∧
        (commitCode s = 0 → t.rd m Reg.Ma.RM_STATE = 3 ∧
          (s.remapSites ≠ [] → ∀ r ∈ remapRegions s, t.rd drainP (Reg.Dr.DRAINING r) = 1) ∧
          (s.remapSites = [] → ∀ r < 16, regionState s r ≠ 0 → (t.region r).faultAt ≠ none)))) ∧
    (Hosted s m 0x60 → Completes .cancel s (fun t =>
      if st = 3 then Refused s t m 0x60
      else t.rd m Reg.Ma.RM_STATE = 0 ∧ t.rd m Reg.Ma.RM_CODE = 0 ∧ t.rd m Reg.Ma.RM_REGIONS = 0 ∧ t.rd m Reg.Ma.RM_IN = 0xFF ∧ t.remapSites = [] ∧
        ∀ y < 16, t.rd m (Reg.Ma.PROP_ROW y) = 0 ∧ t.rd m (Reg.Ma.MOVED y) = 0)) ∧
    (∀ drained ok lanes, Completes (.remapDone drained ok lanes) s (fun t =>
      (st ≠ 3 ∨ serves s = false ∨ s.rd prelP Reg.Pr.PANEL_ERR = 1 → t = s) ∧
      (st = 3 → serves s = true → s.rd prelP Reg.Pr.PANEL_ERR ≠ 1 →
        (s.remapSites = [] → t.rd m Reg.Ma.RM_STATE = 4 ∧ t.rd bringP Reg.Br.DONE_MASK = s.rd bringP Reg.Br.DONE_MASK % 16) ∧
        (s.remapSites ≠ [] → drained = false → t.rd m Reg.Ma.RM_STATE = 2 ∧ t.rd m Reg.Ma.RM_CODE = 9 ∧ ∀ r ∈ remapRegions s, t.rd drainP (Reg.Dr.DRAINING r) = 0) ∧
        (s.remapSites ≠ [] → drained = true → t.rd m Reg.Ma.RM_STATE = 4 ∧ t.remapSites = [] ∧ (∀ r ∈ remapRegions s, regionState t r = 3) ∧
          ∀ y < 16, let w := s.rd m (Reg.Ma.PROP_ROW y)
            t.rd m (Reg.Ma.RETIRED y) = rowRetired w ∧ t.rd m (Reg.Ma.SPARE_X y) = rowS1 w ∧ t.rd m (Reg.Ma.SPARE2_X y) = rowS2 w ∧
              t.rd m (Reg.Ma.SPARE2_VALID y) = (if rowTwo w then 1 else 0)))))

/-! ### The module and its power -/

/-- R289, R410, R437, R440, R441, R445: the always-on stage starts step 1, and its loss leaves what flash keeps; a domain that is not up in time is off, with its bit, and fails the step
that waits for it; the connector's tags, reset and leak signals act as their rules say, and after a reset of the management port nobody knows
whether its write took effect. -/
def Obligations.ModuleSignals : Prop :=
  ∀ (s : State),
    let base := fun (t : State) => t.rd bringP Reg.Br.STATE = 1 ∧ t.rd bringP Reg.Br.CUR_STEP = 1 ∧ t.rd bringP Reg.Br.DONE_MASK = 0 ∧ t.rd pmP Reg.Pm.ALIVE = 0 ∧
      t.hubDom = [] ∧ ∀ i < 256, t.rd (spowP i) Reg.Sp.DOM_EN = 0
    Completes .powerOn s (fun t => if s.alwaysOn then t = s else t.alwaysOn = true ∧ base t) ∧
    Completes .alwaysOnStageLoss s (fun t => t.alwaysOn = false ∧ t.mem = {} ∧ t.cores = [] ∧ t.sites = [] ∧ t.regions = [] ∧ t.logRam = [] ∧ t.pendBa = [] ∧
      t.flash = s.flash ∧ t.fwA = s.fwA ∧ t.fwB = s.fwB ∧ t.logFlash = s.logFlash ∧ t.rd pmP Reg.Pm.SVN_FLOOR = s.rd pmP Reg.Pm.SVN_FLOOR ∧
      t.rd pmP Reg.Pm.ALIVE = 0 ∧ t.rd timeP Reg.Ti.TIME_VALID = 0) ∧
    (∀ i d, i < 256 → d < 4 → Completes (.domainTimeout (.site i) d) s (fun t => bits (t.rd ppowP Reg.Pp.PWR_ERR) 11 1 = 1 ∧
      bits (t.rd (spowP i) Reg.Sp.DOM_EN) d 1 = 0 ∧ inFailed t i = true ∧ (stepRuns s 7 = true → StepEnds t 3 0x71))) ∧
    (∀ h d, h < 16 → d < 4 → Completes (.domainTimeout (.hub h) d) s (fun t => bits (t.rd ppowP Reg.Pp.PWR_ERR) 11 1 = 1 ∧ bits (t.hubOn h) d 1 = 0 ∧
      (stepRuns s 3 = true → StepEnds t 3 0x31))) ∧
    (∀ (shelf loop_ rack : BitVec 32) pecOk, s.alwaysOn = true → Completes (.smbTags shelf loop_ rack pecOk) s (fun t =>
      if pecOk then t.shelfTag = shelf.toNat ∧ t.loopTag = loop_.toNat ∧ t.rackTag = rack.toNat ∧ Off logKeys s t
      else t.rd ppowP Reg.Pp.TRAY_BAD_CNT = satAdd (2 ^ Reg.Pp.TRAY_BAD_CNT.w - 1) (s.rd ppowP Reg.Pp.TRAY_BAD_CNT) 1 ∧ OnlyRegs (keysOf ppowP [Reg.Pp.TRAY_BAD_CNT]) s t)) ∧
    (s.alwaysOn = true → stepTaken (s.wr bringP Reg.Br.STATE 0) 1 = true → Completes .modResetN s (fun t => base t)) ∧
    (s.alwaysOn = true → Completes .leakDetN s (fun t => t.shutdown = true ∧ bits (t.rd ppowP Reg.Pp.PWR_ERR) 7 1 = 1 ∧ t.hubDom = [] ∧
      (∀ i < 256, ∀ d < 4, d ≠ 2 → bits (t.rd (spowP i) Reg.Sp.DOM_EN) d 1 = 0) ∧ ∀ r < 16, regionState s r ≠ 0 → (t.region r).faultAt ≠ none)) ∧
    (s.alwaysOn = true → Completes (.mgmtPerstN none) s (fun t => t = s)) ∧
    (∀ (a v : BitVec 32), s.alwaysOn = true → Completes (.mgmtPerstN (some (a, v))) s (fun t =>
      Completes (.registerWrite { fn := 0, port := none, addr := a } v) s (fun u => t = unknownWrite s u)))

/-! ### Host accesses -/

/-- R372: PF_INT_EN, the one register of type WM, takes the bits that the mask selects and keeps every other; a write that selects a
reserved bit and writes 1 there is not taken, and one with a mask of zero changes nothing. -/
def Obligations.MaskedWritesTakeTheBitsSelected : Prop :=
  ∀ (s : State) (a : HostAcc) (v : BitVec 32), s.alwaysOn = true → a.fn ≤ 16 → a.addr.toNat % 0x1000 = 0x4C → accReason s a true = (0, idP) →
    Completes (.registerWrite a v) s (fun t =>
      let mask := v.toNat / 65536
      let bad := mask &&& v.toNat &&& 0xFF00 ≠ 0
      (¬ bad → ∀ b < 16, bits (t.rd idP Reg.Id.PF_INT_EN) b 1 =
        if bits mask b 1 = 1 then bits v.toNat b 1 else bits (s.rd idP Reg.Id.PF_INT_EN) b 1) ∧
      (¬ bad → Off (keysOf idP [Reg.Id.PF_INT_EN]) s t) ∧
      (bad → t.rd idP Reg.Hd.BAD_VALUE = 1 ∧ t.rd idP Reg.Hd.LAST_OFFSET = 0x4C ∧ Off (keysOf idP [Reg.Hd.BAD_VALUE, Reg.Hd.LAST_OFFSET]) s t) ∧
      (mask = 0 → t.out = s.out) ∧ t.mem = s.mem)

/-- R361, R367, R370, R371, R373 to R376, R383: an access that meets a bus error is aborted, counted and shown; a write that its fields, its reserved bits or its complement refuse
sets BAD_VALUE; a plain page keeps what is written, clears what is written 1, and holds buffered fields back; APPLY and its discard, the mailbox, the
indirect window and the enabling of a queue do what their rules say. -/
def Obligations.HostAccesses : Prop :=
  ∀ (s : State) (a : HostAcc), s.alwaysOn = true → a.fn ≤ 16 →
    let hit := keysAll (List.range 256) budP [Reg.Bu.BUD_HIT]
    let aborts := fun (t : State) (b : HostAcc) (write : Bool) => Out.abort b.fn b.addr.toNat write ∈ t.out ∧ t.rd idP (pfBit 4) = 1
    let shows := fun (t : State) (b : HostAcc) (write : Bool) (n : Nat) => aborts t b write ∧
      t.busErr.map (fun e => (e.1, e.2.1 % 16)) = some (b.addr.toNat, n + if write then 8 else 0)
    let counts := fun (t : State) => t.rd idP Reg.Id.BUSERR_CNT = satAdd (2 ^ 16 - 1) (s.rd idP Reg.Id.BUSERR_CNT) 1
    let bad := fun (t : State) (p off : Nat) (fs : List Nat) => t.rd p Reg.Hd.BAD_VALUE = 1 ∧ t.rd p Reg.Hd.LAST_OFFSET = off ∧
      Off (keysOf p [Reg.Hd.BAD_VALUE, Reg.Hd.LAST_OFFSET] ++ fs ++ hit) s t
    (∀ v, let off := a.addr.toNat % 0x1000
      Completes (.registerWrite a v) s (fun t =>
        ((accReason s a true).1 ≠ 0 → shows t a true (accReason s a true).1 ∧ ((accReason s a true).1 ≠ 5 → counts t)) ∧
        (∀ p, accReason s a true = (0, p) → ∀ i, pageAt p = some i → let fs := fieldsAt i.regs off
          (off = 0x10 → t.rd (partyP a.fn p) Reg.Hd.IND_ADDR = v.toNat) ∧
          (off = 0xC → bits v.toNat 2 14 ≠ 0 → bad t p 0xC []) ∧
          (off = 0xC → bits v.toNat 2 14 = 0 → (bits v.toNat 0 1 = 1 → t.rd p Reg.Hd.BAD_VALUE = 0) ∧ (bits v.toNat 1 1 = 1 → t.rd p Reg.Hd.BUS_ERR = 0)) ∧
          (0x40 ≤ off → i.code ≠ 1 → i.code ≠ 7 → i.code ≠ 0x30 → judge (roBits i.code off) fs v.toNat = false → bad t p off []) ∧
          (i.code = 0x30 → 0x40 ≤ off → off < 0x5C → s.rd p Reg.Sc.NI_STATE ≠ 0 →
            t.rd p Reg.Sc.MAP_WR_REJECT = satAdd (2 ^ 16 - 1) (s.rd p Reg.Sc.MAP_WR_REJECT) 1) ∧
          (0x40 ≤ off → i.code ∈ [6, 0x11, 0x16, 0x24, 0x32, 0x3B] → judge 0 fs v.toNat = true → ∀ f ∈ fs,
            (f.ty = .rw → f.ba = false → t.rd p f = fldOf f v.toNat) ∧
            (f.ty = .w1c → fldOf f v.toNat ≠ 0 → t.rd p f = s.rd p f &&& (2 ^ f.w - 1 - fldOf f v.toNat))) ∧
          (0x40 ≤ off → i.code = 0x3A → judge 0 fs v.toNat = true → ∀ f ∈ fs, f.ty = .rw → baRead t p f = fldOf f v.toNat ∧
            (fldKey p f ∉ hit → t.rd p f = s.rd p f))))) ∧
    (∀ v : Option (BitVec 32), Completes (.busTimeout a v) s (fun t => shows t a v.isSome 5)) ∧
    (∀ p, accReason s (regOf a 0x30) true = (0, p) →
      Completes (.apply a) s (fun t => (∀ b ∈ t.pendBa, b.1 ≠ p) ∧
        (∀ f, s.pendBa.any (fun b => b.1 = p && b.2.2.1 = fldKey p f) = true →
          fldKey p f ∉ keysOf p [Reg.Hd.LAST_BY, Reg.Hd.APPLY_CNT] ++ hit → t.rd p f = baRead s p f) ∧
        (s.pendBa.any (fun b => b.1 = p) = true → t.rd p Reg.Hd.LAST_BY = 1)) ∧
      Completes (.applyDiscard a) s (fun t => t.pendBa = s.pendBa.filter (fun b => b.1 != p) ∧ Off hit s t)) ∧
    (∀ (v : BitVec 32) p, accReason s (regOf a 0x18) true = (0, p) →
      Completes (.mbxSel a v) s (fun t => let q := partyP a.fn p
        (256 ≤ v.toNat → bad t p 0x18 []) ∧
        (v.toNat < 256 → t.rd q Reg.Hd.MBX_SEL = v.toNat) ∧ (v.toNat = 0 → t.rd q Reg.Hd.VALID = 0) ∧
        (0 < v.toNat → v.toNat < 256 → mbxWords (s.wr q Reg.Hd.MBX_SEL v.toNat) p v.toNat = none →
          t.rd q Reg.Hd.VALID = 0 ∧ bad t p 0x18 (keysOf q [Reg.Hd.VALID, Reg.Hd.MBX_SEL])) ∧
        (∀ ws, 0 < v.toNat → v.toNat < 256 → mbxWords (s.wr q Reg.Hd.MBX_SEL v.toNat) p v.toNat = some ws →
          t.rd q Reg.Hd.VALID = 1 ∧ t.rd q Reg.Hd.SEL = v.toNat ∧ ∀ k < 4, t.rd q (Reg.Hd.MBX_DATA k) = ws.getD k 0 % 2 ^ 32))) ∧
    (∀ p, accReason s (regOf a 0x2C) false = (0, p) →
      Completes (.mbxData3Read a) s (fun t => let q := partyP a.fn p
        let valid := s.rd q Reg.Hd.VALID = 1
        t.out = s.out ++ [.hostData a.fn (regOf a 0x2C).addr.toNat (if valid then s.rd q (Reg.Hd.MBX_DATA 3) else 0)] ∧
          (valid → t.rd q Reg.Hd.VALID = 0) ∧ Off (keysOf q [Reg.Hd.VALID] ++ hit) s t)) ∧
    (∀ p, accReason s (regOf a 0x14) false = (0, p) → ∀ i, pageAt p = some i → let q := partyP a.fn p
      let ix := s.rd q Reg.Hd.IND_ADDR
      Completes (.indData a none) s (fun t =>
        t.rd q Reg.Hd.IND_ADDR = (ix + 1) % 2 ^ 32 ∧
        t.out = s.out ++ [.hostData a.fn (regOf a 0x14).addr.toNat ((ixRead s p i ix).getD 0)] ∧
        (ixRead s p i ix = none → bad t p 0x14 (keysOf q [Reg.Hd.IND_ADDR])))) ∧
    (∀ (v : BitVec 32) p, accReason s (regOf a 0x14) true = (0, p) → ∀ i, pageAt p = some i → let q := partyP a.fn p
      let ix := s.rd q Reg.Hd.IND_ADDR
      let may := a.fn = 0 ∨ vfIxOk i = true
      Completes (.indData a (some v)) s (fun t =>
        t.rd q Reg.Hd.IND_ADDR = (ix + 1) % 2 ^ 32 ∧
        (¬ may ∨ judge 0 (ixFields i ix) v.toNat = false → bad t p 0x14 (keysOf q [Reg.Hd.IND_ADDR])) ∧
        (may → judge 0 (ixFields i ix) v.toNat = true → i.code ∉ [6, 0x20, 0x3A, 0x3B] → ∀ f ∈ ixFields i ix, f.ty = .rw → f.ba = false →
          t.rd p f = fldOf f v.toNat))) ∧
    (∀ q (v : BitVec 32), q < 65552 → Hosted s queueP 0x14 → Completes (.queueEnable q v) s (fun t =>
      let ix := if q < 16 then evqIx q else 0x10000 + 4 * (q - 16)
      let w := v.toNat ||| 0x200
      let g := fun (f : Fld) => qFld f ix
      let n := bits w 0 5
      if s.rd queueP (g (Reg.Qu.ENABLE 0)) ≠ 1 ∧ w < 2 ^ 20 ∧ 4 ≤ n ∧ n ≤ 16 ∧ (q < 16 → bits w 5 4 = q) ∧
          ringBaseOk s (s.rd queueP (g (Reg.Qu.BASE_LO 0)) + s.rd queueP (g (Reg.Qu.BASE_HI 0)) * 2 ^ 32) (2 ^ n) (bits w 5 4) (bits w 10 1 = 1) = true ∧
          (bits w 11 1 = 1 → isHostHub s (bits w 16 4) = true) then
        t.rd queueP (g (Reg.Qu.ENABLE 0)) = 1 ∧ t.rd queueP (g (Reg.Qu.HEAD 0)) = 0 ∧ t.rd queueP (g (Reg.Qu.TAIL 0)) = 0 ∧
          t.rd queueP (g (Reg.Qu.LOG2_N 0)) = n ∧ t.rd queueP (g (Reg.Qu.OWNER 0)) = bits w 5 4
      else Refused s t queueP 0x14))

/-! ### Bring-up -/

/-- R378, R386 to R389, R394, R397, R423: a request of a step that is taken starts that step, and one that is not is refused; a running step that times out or breaks fails with its
code; and one that is done ends as its rule says, in completion or in the failure that it finds. -/
def Obligations.BringUpSteps : Prop :=
  ∀ (s : State),
    let b := bringP
    let n := s.rd b Reg.Br.CUR_STEP
    let runs := s.rd b Reg.Br.STATE = 1
    let passes := fun (t : State) => StepEnds t 2 0 ∧ t.rd b Reg.Br.DONE_MASK = (s.rd b Reg.Br.DONE_MASK ||| 2 ^ (n - 1)) % 2 ^ Reg.Br.DONE_MASK.w
    (∀ via, Hosted s b 0x40 → ∀ x ∈ stepRows via, Completes x.2 s (fun t =>
      if stepTaken s x.1 then t.rd b Reg.Br.STATE = 1 ∧ t.rd b Reg.Br.CUR_STEP = x.1 ∧ t.rd b Reg.Br.STEP = x.1 ∧ t.rd b Reg.Br.FAIL_CODE = 0 ∧
        t.rd b Reg.Br.DONE_MASK = s.rd b Reg.Br.DONE_MASK % 2 ^ (x.1 - 1) % 2 ^ Reg.Br.DONE_MASK.w ∧ t.bring.startAt = s.up ∧
        (x.1 = 1 → serves t = false ∧ t.hubDom = [] ∧ ∀ i < 256, t.rd (spowP i) Reg.Sp.DOM_EN = 0) ∧ (x.1 = 2 → t.rootOn = true) ∧
        (x.1 = 3 → (∀ i < 256, bits (t.rd (spowP i) Reg.Sp.DOM_EN) 2 1 = 1) ∧ ∀ h < 16, t.hubOn h % 4 = 3) ∧
        (x.1 = 4 → ∀ h < 16, bits (t.hubOn h) 2 2 = 3) ∧ (x.1 = 9 → ∀ i ∈ gridSites t, t.rd (wellP i) Reg.We.CLEARING = 1) ∧
        (x.1 = 10 → t.bring.via = via.map (·.toNat))
      else Refused s t b 0x40)) ∧
    Completes .stepTimeout s (fun t => if runs then StepEnds t 3 (16 * n % 2 ^ Reg.Br.FAIL_CODE.w) else t = s) ∧
    (∀ d, (¬ runs → Completes (.stepDone d) s (fun t => t = s)) ∧
      (∀ f, d.fail = some f → runs → Completes (.stepDone d) s (fun t =>
        StepEnds t 3 ((16 * n + f.1.toNat) % 2 ^ Reg.Br.FAIL_CODE.w) ∧ t.bring.unit = f.2.toNat)) ∧
      (runs → d.fail = none → 7 ≤ n → n ≤ 9 → d.bad ≠ [] → Completes (.stepDone d) s (fun t =>
        StepEnds t 3 (16 * n + 1) ∧ ∀ i ∈ d.bad, inFailed t i.toNat = true)) ∧
      (runs → d.fail = none → (n < 7 ∨ 9 < n ∨ d.bad = []) → Completes (.stepDone d) s (fun t =>
        (n = 1 → bootSlot s = none → StepEnds t 3 0x11) ∧
        (∀ k, bootSlot s = some k → n = 1 → passes t ∧ serves t = true ∧ t.rd pmP Reg.Pm.RUN_SLOT = k) ∧
        (n = 2 → passes t ∧ t.rd timeP Reg.Ti.ROOT_LOCKED = 1 ∧ t.rd timeP Reg.Ti.REF_OK = 1) ∧
        (n = 3 → passes t ∧ ∀ h < 16, t.rd (hubP h 0) Reg.Hu.RING_UP = 1) ∧
        (n = 4 → if (List.range 16).any (fun h => s.rd (x16P h) Reg.Xp.X16_ROLE = 1 && bits (t.rd (fwP h) Reg.Fw.ISOLATED) 5 1 = 0) then passes t
          else StepEnds t 3 0x41) ∧
        (n = 5 → if (List.range 16).any (fun h => s.rd (x16P h) Reg.Xp.X16_ROLE = 1 && t.rd (x16P h) Reg.Xp.LINK_UP = 1) then passes t
          else StepEnds t 3 0x51) ∧
        (n = 6 → recUse (recRead s 1) 1 = none → StepEnds t 3 (if recPick (recRead s 1) 1 = 2 then 0x61 else 0x62)) ∧
        (∀ w, recUse (recRead s 1) 1 = some w → n = 6 → if mapCode (recRead s 1) w = 0 then
            passes t ∧ t.rd mapP Reg.Ma.W = bodyByte w 1 % 2 ^ Reg.Ma.W.w ∧ t.rd prelP Reg.Pr.PANEL_ERR = 0
          else StepEnds t 3 (mapCode (recRead s 1) w)) ∧
        (n = 7 → passes t ∧ t.shutdown = false ∧ ∀ i ∈ gridSites t, bits (t.rd (spowP i) Reg.Sp.DOM_EN) 0 2 = 3) ∧
        (n = 8 → passes t ∧ ∀ i < 256, (hubOf i).isSome → (s.site i).region = 16 → t.rd (sclkP i) Reg.Ck.ANCHOR = 1) ∧
        (n = 9 → passes t ∧ ∀ i ∈ gridSites t, t.rd (wellP i) Reg.We.CLEARING = 0 ∧ t.rd (wellP i) Reg.We.CLEAR_DONE = 1) ∧
        (n = 10 → if s.rd timeP Reg.Ti.TIME_VALID = 0 then StepEnds t 3 0xA2 else if recPick (recRead s 4) 4 = 3 then StepEnds t 3 0xA1 else passes t) ∧
        (n = 11 → if s.rd idP Reg.Id.ID_VALID = 1 ∧ s.bring.swapped.length = 16 then passes t else t = s) ∧
        (n = 12 → if s.rd b Reg.Br.DONE_MASK % 2 ^ 11 = 2 ^ 11 - 1 ∧ s.rd mapP Reg.Ma.MAP_CLASS ≠ 3 ∧ s.rd prelP Reg.Pr.PANEL_ERR = 0 then
            passes t ∧ t.outOfService = false
          else StepEnds t 3 0xC1))))

/-! ### Memory and reset -/

/-- The rows of `storesNothing` change no byte of memory and no poison mark, whatever the state in which they run. -/
def Obligations.MemoryStands : Prop :=
  ∀ (i : Instr) (s : State), storesNothing i = true → ∀ t, exec i s = .next t → t.mem = s.mem

/-- R20, R49, R70, R173, R250, R377, R382, R409: the values that the spec gives for reset, unit by unit: every site unassigned with no logical place, its cores idle and their generators at 1;
four hubs with HOST ports; each event queue its region's; no panel time and no identity. -/
def Obligations.ResetValues : Prop :=
  let s := State.reset
  (∀ i < 256, s.rd (commonP i) Reg.Sc.ROLE = 1 ∧ s.rd (commonP i) Reg.Sc.LOG_INDEX = 0xFF ∧ s.rd (commonP i) Reg.Sc.NI_STATE = 0 ∧
    s.rd (spowP i) Reg.Sp.DOM_EN = 0) ∧
  (∀ i < 256, ∀ n < 8, let c := coreP ⟨i, n⟩
    s.rd c Reg.Co.STATE = 0 ∧ s.rd c Reg.Co.TRAP_TYPE = 0 ∧ s.rd c Reg.Co.BUF_A_MODE = 1 ∧ s.rd c Reg.Co.BUF_B_MODE = 1 ∧ s.rd c Reg.Co.RNG_STATE = 1) ∧
  (∀ h < 16, s.rd (x16P h) Reg.Xp.X16_ROLE = if h = 0 ∨ h = 3 ∨ h = 12 ∨ h = 15 then 1 else 0) ∧
  (∀ r < 16, regionState s r = 0 ∧ s.rd queueP (qFld (Reg.Qu.OWNER 0) (evqIx r)) = r ∧ s.rd queueP (qFld (Reg.Qu.ENABLE 0) (evqIx r)) = 0) ∧
  s.rd timeP Reg.Ti.TIME_VALID = 0 ∧ s.rd idP Reg.Id.ID_VALID = 0 ∧ s.rd idP Reg.Id.BUSERR_CNT = 0 ∧ s.rd bringP Reg.Br.STATE = 0
end

