-- ==== Sys2Proof/Laws/Mem.lean ====
section
/-! SUPPORT. Laws of tables, key sets and memory: reads after writes, and that every operation keeps the canonical
form. -/

namespace Sys2Proof.Machine

/-! ### Tables -/

theorem tabFind_erase_same {α : Type} (t : Tab α) (k : Nat) : tabFind (tabErase t k) k = none := by
  induction t with
  | nil => rfl
  | cons p t ih =>
    by_cases h : p.1 = k
    · simpa [tabErase, h] using ih
    · simpa [tabErase, tabFind, h] using ih

theorem tabFind_erase_ne {α : Type} (t : Tab α) {k j : Nat} (h : j ≠ k) : tabFind (tabErase t k) j = tabFind t j := by
  induction t with
  | nil => rfl
  | cons p t ih =>
    by_cases hk : p.1 = k
    · have hj : ¬ p.1 = j := fun e => h (e.symm.trans hk)
      have : tabErase (p :: t) k = tabErase t k := by simp [tabErase, hk]
      rw [this, ih]
      simp [tabFind, hj]
    · have : tabErase (p :: t) k = p :: tabErase t k := by simp [tabErase, hk]
      rw [this]
      by_cases hj : p.1 = j
      · simp [tabFind, hj]
      · simpa [tabFind, hj] using ih

theorem tabFind_insert_same {α : Type} (t : Tab α) (k : Nat) (v : α) (h : tabFind t k = none) :
    tabFind (tabInsert t k v) k = some v := by
  induction t with
  | nil => simp [tabInsert, tabFind]
  | cons p t ih =>
    have hp : ¬ p.1 = k := fun e => by simp [tabFind, e] at h
    have ht : tabFind t k = none := by simpa [tabFind, hp] using h
    by_cases hk : k < p.1
    · simp [tabInsert, hk, tabFind]
    · simpa [tabInsert, hk, tabFind, hp] using ih ht

theorem tabFind_insert_ne {α : Type} (t : Tab α) {k j : Nat} (v : α) (h : j ≠ k) :
    tabFind (tabInsert t k v) j = tabFind t j := by
  induction t with
  | nil => simp [tabInsert, tabFind, h.symm]
  | cons p t ih =>
    by_cases hk : k < p.1
    · simp [tabInsert, hk, tabFind, h.symm]
    · simp only [tabInsert, hk, if_false, tabFind, ih]

theorem tabGet_set_same {α : Type} [DecidableEq α] (d : Nat → α) (t : Tab α) (k : Nat) (v : α) :
    tabGet d (tabSet d t k v) k = v := by
  unfold tabSet
  split
  · next h => simp [tabGet, tabFind_erase_same, h]
  · simp [tabGet, tabFind_insert_same _ _ _ (tabFind_erase_same t k)]

theorem tabGet_set_ne {α : Type} [DecidableEq α] (d : Nat → α) (t : Tab α) {k j : Nat} (v : α) (h : j ≠ k) :
    tabGet d (tabSet d t k v) j = tabGet d t j := by
  unfold tabSet
  split
  · simp [tabGet, tabFind_erase_ne _ h]
  · simp [tabGet, tabFind_insert_ne _ _ h, tabFind_erase_ne _ h]

theorem tabErase_mem {α : Type} {t : Tab α} {k : Nat} {p : Nat × α} (h : p ∈ tabErase t k) : p ∈ t ∧ p.1 ≠ k := by
  simpa [tabErase] using h

theorem tabInsert_mem {α : Type} {t : Tab α} {k : Nat} {v : α} {p : Nat × α} (h : p ∈ tabInsert t k v) :
    p = (k, v) ∨ p ∈ t := by
  induction t with
  | nil => simpa [tabInsert] using h
  | cons q t ih =>
    by_cases hk : k < q.1
    · simpa [tabInsert, hk] using h
    · simp only [tabInsert, hk, if_false, List.mem_cons] at h
      rcases h with h | h
      · exact .inr (by simp [h])
      · rcases ih h with h | h
        · exact .inl h
        · exact .inr (by simp [h])

/-- Keys strictly rising. -/
def Rising {α : Type} (t : Tab α) : Prop := t.Pairwise (fun a b => a.1 < b.1)

theorem rising_erase {α : Type} {t : Tab α} (h : Rising t) (k : Nat) : Rising (tabErase t k) :=
  List.Pairwise.sublist List.filter_sublist h

theorem rising_filter {α : Type} {t : Tab α} (h : Rising t) (p : Nat × α → Bool) : Rising (t.filter p) :=
  List.Pairwise.sublist List.filter_sublist h

theorem rising_insert {α : Type} {t : Tab α} (h : Rising t) {k : Nat} (v : α) (hk : ∀ p ∈ t, p.1 ≠ k) :
    Rising (tabInsert t k v) := by
  induction t with
  | nil => simp [tabInsert, Rising]
  | cons q t ih =>
    have h' := List.pairwise_cons.mp h
    by_cases hq : k < q.1
    · simp only [tabInsert, hq, if_true]
      refine List.pairwise_cons.mpr ⟨?_, h⟩
      intro b hb
      rcases List.mem_cons.mp hb with rfl | hb
      · exact hq
      · exact lt_trans hq (h'.1 b hb)
    · simp only [tabInsert, hq, if_false]
      refine List.pairwise_cons.mpr ⟨?_, ih h'.2 (fun p hp => hk p (List.mem_cons_of_mem _ hp))⟩
      intro b hb
      rcases tabInsert_mem hb with rfl | hb
      · have := hk q (by simp)
        show q.1 < k
        omega
      · exact h'.1 b hb

theorem rising_put {α : Type} {t : Tab α} (h : Rising t) (k : Nat) (v : α) : Rising (tabInsert (tabErase t k) k v) :=
  rising_insert (rising_erase h k) v (fun _ hp => (tabErase_mem hp).2)

/-! ### Key sets -/

theorem keyWf_iff {t : KeySet} : keyWf t = true ↔ t.Pairwise (· < ·) := by simp [keyWf]

theorem keyWf_filter {t : KeySet} (h : keyWf t = true) (p : Nat → Bool) : keyWf (t.filter p) = true :=
  keyWf_iff.mpr (List.Pairwise.sublist List.filter_sublist (keyWf_iff.mp h))

theorem keyInsert_mem {t : KeySet} {k a : Nat} (h : a ∈ keyInsert t k) : a = k ∨ a ∈ t := by
  induction t with
  | nil => simpa [keyInsert] using h
  | cons q t ih =>
    by_cases hk : k < q
    · simpa [keyInsert, hk] using h
    · simp only [keyInsert, hk, if_false, List.mem_cons] at h
      rcases h with h | h
      · exact .inr (by simp [h])
      · rcases ih h with h | h
        · exact .inl h
        · exact .inr (by simp [h])

theorem keyWf_insert {t : KeySet} (h : keyWf t = true) {k : Nat} (hk : k ∉ t) : keyWf (keyInsert t k) = true := by
  rw [keyWf_iff] at *
  induction t with
  | nil => simp [keyInsert]
  | cons q t ih =>
    have h' := List.pairwise_cons.mp h
    by_cases hq : k < q
    · simp only [keyInsert, hq, if_true]
      refine List.pairwise_cons.mpr ⟨?_, h⟩
      intro b hb
      rcases List.mem_cons.mp hb with rfl | hb
      · exact hq
      · exact lt_trans hq (h'.1 b hb)
    · simp only [keyInsert, hq, if_false]
      refine List.pairwise_cons.mpr ⟨?_, ih h'.2 (fun hp => hk (List.mem_cons_of_mem _ hp))⟩
      intro b hb
      rcases keyInsert_mem hb with rfl | hb
      · have : b ≠ q := fun e => hk (by simp [e])
        omega
      · exact h'.1 b hb

theorem keyWf_add {t : KeySet} (h : keyWf t = true) (k : Nat) : keyWf (keyAdd t k) = true :=
  keyWf_insert (keyWf_filter h _) (by simp)

theorem keyWf_del {t : KeySet} (h : keyWf t = true) (k : Nat) : keyWf (keyDel t k) = true := keyWf_filter h _

theorem wordsOf_range (n : Nat) : ∀ (w m : Nat), (∀ k ∈ wordsOf n w m, w ≤ k ∧ k < w + n) ∧ (wordsOf n w m).Pairwise (· < ·) := by
  induction n with
  | zero => intro w m; simp [wordsOf]
  | succ n ih =>
    intro w m
    obtain ⟨h1, h2⟩ := ih (w + 1) (m / 2)
    by_cases hm : m % 2 = 1
    · simp only [wordsOf, hm, if_true]
      refine ⟨?_, List.pairwise_cons.mpr ⟨fun b hb => ?_, h2⟩⟩
      · intro k hk
        rcases List.mem_cons.mp hk with rfl | hk
        · omega
        · have := h1 k hk; omega
      · have := h1 b hb; omega
    · simp only [wordsOf, hm, if_false]
      exact ⟨fun k hk => by have := h1 k hk; omega, h2⟩

theorem keyWf_marksPut {t : KeySet} (h : keyWf t = true) (w n mask : Nat) : keyWf (marksPut t w n mask) = true := by
  have hw := wordsOf_range n w mask
  rw [keyWf_iff] at *
  refine List.pairwise_append.mpr ⟨List.pairwise_append.mpr ⟨?_, hw.2, ?_⟩, ?_, ?_⟩
  · exact List.Pairwise.sublist List.filter_sublist h
  · intro a ha b hb
    have := hw.1 b hb
    simp at ha
    omega
  · exact List.Pairwise.sublist List.filter_sublist h
  · intro a ha b hb
    simp at hb
    rcases List.mem_append.mp ha with ha | ha
    · simp at ha; omega
    · have := hw.1 a ha; omega

/-! ### Cells -/

theorem cellsWf_iff {c : List Host.Cell} :
    cellsWf c = true ↔ c.Pairwise (fun a b => a.1 < b.1) ∧ ∀ p ∈ c, p.2 ≠ memUnset := by
  simp [cellsWf, List.all_eq_true]

theorem cellsOf_range (n : Nat) : ∀ (a v : Nat), (∀ p ∈ cellsOf n a v, a ≤ p.1 ∧ p.1 < a + n ∧ p.2 ≠ memUnset) ∧
    (cellsOf n a v).Pairwise (fun x y => x.1 < y.1) := by
  induction n with
  | zero => intro a v; simp [cellsOf]
  | succ n ih =>
    intro a v
    obtain ⟨h1, h2⟩ := ih (a + 1) (v / 256)
    by_cases hv : v % 256 = 0
    · simp only [cellsOf, hv, if_true]
      exact ⟨fun p hp => by have := h1 p hp; exact ⟨by omega, by omega, this.2.2⟩, h2⟩
    · simp only [cellsOf, hv, if_false]
      refine ⟨?_, List.pairwise_cons.mpr ⟨fun b hb => ?_, h2⟩⟩
      · intro p hp
        rcases List.mem_cons.mp hp with rfl | hp
        · refine ⟨le_refl _, by show a < a + (n + 1); omega, ?_⟩
          intro e
          have := congrArg BitVec.toNat e
          simp [memUnset] at this
          omega
        · have := h1 p hp; exact ⟨by omega, by omega, this.2.2⟩
      · have := h1 b hb; show a < b.1; omega

theorem cellsWf_put {c : List Host.Cell} (h : cellsWf c = true) (a n v : Nat) : cellsWf (cellsPut c a n v) = true := by
  have hw := cellsOf_range n a v
  rw [cellsWf_iff] at *
  refine ⟨List.pairwise_append.mpr ⟨List.pairwise_append.mpr ⟨?_, hw.2, ?_⟩, ?_, ?_⟩, ?_⟩
  · exact List.Pairwise.sublist List.filter_sublist h.1
  · intro x hx y hy
    have := hw.1 y hy
    simp at hx
    omega
  · exact List.Pairwise.sublist List.filter_sublist h.1
  · intro x hx y hy
    simp at hy
    rcases List.mem_append.mp hx with hx | hx
    · simp at hx; omega
    · have := hw.1 x hx; omega
  · intro p hp
    rcases List.mem_append.mp hp with hp | hp
    · rcases List.mem_append.mp hp with hp | hp
      · exact h.2 p (List.mem_filter.mp hp).1
      · exact (hw.1 p hp).2.2
    · exact h.2 p (List.mem_filter.mp hp).1

theorem cellsWf_filter {c : List Host.Cell} (h : cellsWf c = true) (p : Host.Cell → Bool) : cellsWf (c.filter p) = true := by
  rw [cellsWf_iff] at *
  exact ⟨List.Pairwise.sublist List.filter_sublist h.1, fun x hx => h.2 x (List.mem_filter.mp hx).1⟩

/-! ### Every memory operation keeps the canonical form -/

theorem Memory.wf_iff {m : Mem} :
    Memory.wf m = true ↔ cellsWf m.cells = true ∧ keyWf m.poison = true ∧ keyWf m.ce = true ∧ keyWf m.ue = true := by
  simp [Memory.wf, and_assoc]

theorem Memory.wf_write {m : Mem} (h : Memory.wf m = true) (a words v pm : Nat) : Memory.wf (memWrite m a words v pm) = true := by
  rw [Memory.wf_iff] at *
  exact ⟨cellsWf_put h.1 _ _ _, keyWf_marksPut h.2.1 _ _ _, keyWf_marksPut h.2.2.1 _ _ _, keyWf_marksPut h.2.2.2 _ _ _⟩

theorem Memory.wf_tail {m : Mem} (h : Memory.wf m = true) (a n v : Nat) : Memory.wf (memTail m a n v) = true := by
  rw [Memory.wf_iff] at *
  exact ⟨cellsWf_put h.1 _ _ _, h.2⟩

theorem Memory.wf_mark {m : Mem} (h : Memory.wf m = true) (a words mask : Nat) : Memory.wf (memMark m a words mask) = true := by
  rw [Memory.wf_iff] at *
  exact ⟨h.1, keyWf_marksPut h.2.1 _ _ _, h.2.2⟩

theorem Memory.wf_clear {m : Mem} (h : Memory.wf m = true) (a n : Nat) : Memory.wf (memClear m a n) = true := by
  rw [Memory.wf_iff] at *
  exact ⟨cellsWf_filter h.1 _, keyWf_filter h.2.1 _, keyWf_filter h.2.2.1 _, keyWf_filter h.2.2.2 _⟩

theorem Memory.wf_empty : Memory.wf {} = true := by decide

end Sys2Proof.Machine
end

