-- ==== Sys2Proof/Laws/State.lean ====
section
/-! SUPPORT. What each update of the state leaves, field by field, and what each read answers after it. -/

namespace Sys2Proof.Machine

variable (s : State)

/-! ### wr -/

@[simp] theorem State.wr_pending (p : Nat) (f : Fld) (v : Nat) : (s.wr p f v).pending = s.pending := rfl
@[simp] theorem State.wr_mem (p : Nat) (f : Fld) (v : Nat) : (s.wr p f v).mem = s.mem := rfl
@[simp] theorem State.wr_cores (p : Nat) (f : Fld) (v : Nat) : (s.wr p f v).cores = s.cores := rfl
@[simp] theorem State.wr_sites (p : Nat) (f : Fld) (v : Nat) : (s.wr p f v).sites = s.sites := rfl
@[simp] theorem State.wr_regions (p : Nat) (f : Fld) (v : Nat) : (s.wr p f v).regions = s.regions := rfl
@[simp] theorem State.wr_timers (p : Nat) (f : Fld) (v : Nat) : (s.wr p f v).timers = s.timers := rfl
@[simp] theorem State.wr_tenths (p : Nat) (f : Fld) (v : Nat) : (s.wr p f v).tenths = s.tenths := rfl
@[simp] theorem State.wr_rcnt (p : Nat) (f : Fld) (v : Nat) : (s.wr p f v).rcnt = s.rcnt := rfl
@[simp] theorem State.wr_alwaysOn (p : Nat) (f : Fld) (v : Nat) : (s.wr p f v).alwaysOn = s.alwaysOn := rfl
@[simp] theorem State.wr_rootOn (p : Nat) (f : Fld) (v : Nat) : (s.wr p f v).rootOn = s.rootOn := rfl
@[simp] theorem State.wr_pfNum (p : Nat) (f : Fld) (v : Nat) : (s.wr p f v).pfNum = s.pfNum := rfl
@[simp] theorem State.wr_pfDen (p : Nat) (f : Fld) (v : Nat) : (s.wr p f v).pfDen = s.pfDen := rfl
@[simp] theorem State.wr_pfMs (p : Nat) (f : Fld) (v : Nat) : (s.wr p f v).pfMs = s.pfMs := rfl
@[simp] theorem State.wr_inputOv (p : Nat) (f : Fld) (v : Nat) : (s.wr p f v).inputOv = s.inputOv := rfl
@[simp] theorem State.wr_shutdown (p : Nat) (f : Fld) (v : Nat) : (s.wr p f v).shutdown = s.shutdown := rfl
@[simp] theorem State.wr_outOfService (p : Nat) (f : Fld) (v : Nat) : (s.wr p f v).outOfService = s.outOfService := rfl
@[simp] theorem State.wr_hubDom (p : Nat) (f : Fld) (v : Nat) : (s.wr p f v).hubDom = s.hubDom := rfl
@[simp] theorem State.wr_busErr (p : Nat) (f : Fld) (v : Nat) : (s.wr p f v).busErr = s.busErr := rfl
@[simp] theorem State.wr_holdover (p : Nat) (f : Fld) (v : Nat) : (s.wr p f v).holdover = s.holdover := rfl
@[simp] theorem State.wr_coolant (p : Nat) (f : Fld) (v : Nat) : (s.wr p f v).coolant = s.coolant := rfl
@[simp] theorem State.wr_pendBa (p : Nat) (f : Fld) (v : Nat) : (s.wr p f v).pendBa = s.pendBa := rfl
@[simp] theorem State.wr_logRam (p : Nat) (f : Fld) (v : Nat) : (s.wr p f v).logRam = s.logRam := rfl
@[simp] theorem State.wr_logFlash (p : Nat) (f : Fld) (v : Nat) : (s.wr p f v).logFlash = s.logFlash := rfl
@[simp] theorem State.wr_logLost (p : Nat) (f : Fld) (v : Nat) : (s.wr p f v).logLost = s.logLost := rfl
@[simp] theorem State.wr_out (p : Nat) (f : Fld) (v : Nat) : (s.wr p f v).out = s.out := rfl
@[simp] theorem State.wr_drawn (p : Nat) (f : Fld) (v : Nat) : (s.wr p f v).drawn = s.drawn := rfl
@[simp] theorem State.wr_streams (p : Nat) (f : Fld) (v : Nat) : (s.wr p f v).streams = s.streams := rfl
@[simp] theorem State.wr_ctxs (p : Nat) (f : Fld) (v : Nat) : (s.wr p f v).ctxs = s.ctxs := rfl
@[simp] theorem State.wr_hubs (p : Nat) (f : Fld) (v : Nat) : (s.wr p f v).hubs = s.hubs := rfl
@[simp] theorem State.wr_optics (p : Nat) (f : Fld) (v : Nat) : (s.wr p f v).optics = s.optics := rfl
@[simp] theorem State.wr_twin (p : Nat) (f : Fld) (v : Nat) : (s.wr p f v).twin = s.twin := rfl
@[simp] theorem State.wr_shelfTag (p : Nat) (f : Fld) (v : Nat) : (s.wr p f v).shelfTag = s.shelfTag := rfl
@[simp] theorem State.wr_loopTag (p : Nat) (f : Fld) (v : Nat) : (s.wr p f v).loopTag = s.loopTag := rfl
@[simp] theorem State.wr_rackTag (p : Nat) (f : Fld) (v : Nat) : (s.wr p f v).rackTag = s.rackTag := rfl
@[simp] theorem State.wr_up (p : Nat) (f : Fld) (v : Nat) : (s.wr p f v).up = s.up := rfl
@[simp] theorem State.wr_flash (p : Nat) (f : Fld) (v : Nat) : (s.wr p f v).flash = s.flash := rfl
@[simp] theorem State.wr_fwA (p : Nat) (f : Fld) (v : Nat) : (s.wr p f v).fwA = s.fwA := rfl
@[simp] theorem State.wr_fwB (p : Nat) (f : Fld) (v : Nat) : (s.wr p f v).fwB = s.fwB := rfl
@[simp] theorem State.wr_restart (p : Nat) (f : Fld) (v : Nat) : (s.wr p f v).restart = s.restart := rfl
@[simp] theorem State.wr_bring (p : Nat) (f : Fld) (v : Nat) : (s.wr p f v).bring = s.bring := rfl
@[simp] theorem State.wr_lanes (p : Nat) (f : Fld) (v : Nat) : (s.wr p f v).lanes = s.lanes := rfl
@[simp] theorem State.wr_mute (p : Nat) (f : Fld) (v : Nat) : (s.wr p f v).mute = s.mute := rfl
@[simp] theorem State.wr_heldX16 (p : Nat) (f : Fld) (v : Nat) : (s.wr p f v).heldX16 = s.heldX16 := rfl
@[simp] theorem State.wr_expired (p : Nat) (f : Fld) (v : Nat) : (s.wr p f v).expired = s.expired := rfl
@[simp] theorem State.wr_remapSites (p : Nat) (f : Fld) (v : Nat) : (s.wr p f v).remapSites = s.remapSites := rfl
@[simp] theorem State.core_wr (c2 : CoreId) (p : Nat) (f : Fld) (v : Nat) : (s.wr p f v).core c2 = s.core c2 := rfl
@[simp] theorem State.site_wr (i2 : Nat) (p : Nat) (f : Fld) (v : Nat) : (s.wr p f v).site i2 = s.site i2 := rfl
@[simp] theorem State.region_wr (r2 : Nat) (p : Nat) (f : Fld) (v : Nat) : (s.wr p f v).region r2 = s.region r2 := rfl
@[simp] theorem State.hub_wr (h2 : Nat) (p : Nat) (f : Fld) (v : Nat) : (s.wr p f v).hub h2 = s.hub h2 := rfl
@[simp] theorem State.stream_wr (e2 k2 : Nat) (p : Nat) (f : Fld) (v : Nat) : (s.wr p f v).stream e2 k2 = s.stream e2 k2 := rfl
@[simp] theorem State.ctx_wr (e2 k2 : Nat) (p : Nat) (f : Fld) (v : Nat) : (s.wr p f v).ctx e2 k2 = s.ctx e2 k2 := rfl
@[simp] theorem State.optic_wr (h2 p2 : Nat) (p : Nat) (f : Fld) (v : Nat) : (s.wr p f v).optic h2 p2 = s.optic h2 p2 := rfl
@[simp] theorem State.take_wr (a2 n2 : Nat) (p : Nat) (f : Fld) (v : Nat) : (s.wr p f v).take a2 n2 = s.take a2 n2 := rfl
@[simp] theorem State.spLine_wr (c2 : CoreId) (b2 l2 : Nat) (p : Nat) (f : Fld) (v : Nat) : (s.wr p f v).spLine c2 b2 l2 = s.spLine c2 b2 l2 := rfl

/-! ### setCore -/

@[simp] theorem State.setCore_pending (c : CoreId) (v : Core) : (s.setCore c v).pending = s.pending := rfl
@[simp] theorem State.setCore_regs (c : CoreId) (v : Core) : (s.setCore c v).regs = s.regs := rfl
@[simp] theorem State.setCore_mem (c : CoreId) (v : Core) : (s.setCore c v).mem = s.mem := rfl
@[simp] theorem State.setCore_sites (c : CoreId) (v : Core) : (s.setCore c v).sites = s.sites := rfl
@[simp] theorem State.setCore_regions (c : CoreId) (v : Core) : (s.setCore c v).regions = s.regions := rfl
@[simp] theorem State.setCore_timers (c : CoreId) (v : Core) : (s.setCore c v).timers = s.timers := rfl
@[simp] theorem State.setCore_tenths (c : CoreId) (v : Core) : (s.setCore c v).tenths = s.tenths := rfl
@[simp] theorem State.setCore_rcnt (c : CoreId) (v : Core) : (s.setCore c v).rcnt = s.rcnt := rfl
@[simp] theorem State.setCore_alwaysOn (c : CoreId) (v : Core) : (s.setCore c v).alwaysOn = s.alwaysOn := rfl
@[simp] theorem State.setCore_rootOn (c : CoreId) (v : Core) : (s.setCore c v).rootOn = s.rootOn := rfl
@[simp] theorem State.setCore_pfNum (c : CoreId) (v : Core) : (s.setCore c v).pfNum = s.pfNum := rfl
@[simp] theorem State.setCore_pfDen (c : CoreId) (v : Core) : (s.setCore c v).pfDen = s.pfDen := rfl
@[simp] theorem State.setCore_pfMs (c : CoreId) (v : Core) : (s.setCore c v).pfMs = s.pfMs := rfl
@[simp] theorem State.setCore_inputOv (c : CoreId) (v : Core) : (s.setCore c v).inputOv = s.inputOv := rfl
@[simp] theorem State.setCore_shutdown (c : CoreId) (v : Core) : (s.setCore c v).shutdown = s.shutdown := rfl
@[simp] theorem State.setCore_outOfService (c : CoreId) (v : Core) : (s.setCore c v).outOfService = s.outOfService := rfl
@[simp] theorem State.setCore_hubDom (c : CoreId) (v : Core) : (s.setCore c v).hubDom = s.hubDom := rfl
@[simp] theorem State.setCore_busErr (c : CoreId) (v : Core) : (s.setCore c v).busErr = s.busErr := rfl
@[simp] theorem State.setCore_holdover (c : CoreId) (v : Core) : (s.setCore c v).holdover = s.holdover := rfl
@[simp] theorem State.setCore_coolant (c : CoreId) (v : Core) : (s.setCore c v).coolant = s.coolant := rfl
@[simp] theorem State.setCore_pendBa (c : CoreId) (v : Core) : (s.setCore c v).pendBa = s.pendBa := rfl
@[simp] theorem State.setCore_logRam (c : CoreId) (v : Core) : (s.setCore c v).logRam = s.logRam := rfl
@[simp] theorem State.setCore_logFlash (c : CoreId) (v : Core) : (s.setCore c v).logFlash = s.logFlash := rfl
@[simp] theorem State.setCore_logLost (c : CoreId) (v : Core) : (s.setCore c v).logLost = s.logLost := rfl
@[simp] theorem State.setCore_out (c : CoreId) (v : Core) : (s.setCore c v).out = s.out := rfl
@[simp] theorem State.setCore_drawn (c : CoreId) (v : Core) : (s.setCore c v).drawn = s.drawn := rfl
@[simp] theorem State.setCore_streams (c : CoreId) (v : Core) : (s.setCore c v).streams = s.streams := rfl
@[simp] theorem State.setCore_ctxs (c : CoreId) (v : Core) : (s.setCore c v).ctxs = s.ctxs := rfl
@[simp] theorem State.setCore_hubs (c : CoreId) (v : Core) : (s.setCore c v).hubs = s.hubs := rfl
@[simp] theorem State.setCore_optics (c : CoreId) (v : Core) : (s.setCore c v).optics = s.optics := rfl
@[simp] theorem State.setCore_twin (c : CoreId) (v : Core) : (s.setCore c v).twin = s.twin := rfl
@[simp] theorem State.setCore_shelfTag (c : CoreId) (v : Core) : (s.setCore c v).shelfTag = s.shelfTag := rfl
@[simp] theorem State.setCore_loopTag (c : CoreId) (v : Core) : (s.setCore c v).loopTag = s.loopTag := rfl
@[simp] theorem State.setCore_rackTag (c : CoreId) (v : Core) : (s.setCore c v).rackTag = s.rackTag := rfl
@[simp] theorem State.setCore_up (c : CoreId) (v : Core) : (s.setCore c v).up = s.up := rfl
@[simp] theorem State.setCore_flash (c : CoreId) (v : Core) : (s.setCore c v).flash = s.flash := rfl
@[simp] theorem State.setCore_fwA (c : CoreId) (v : Core) : (s.setCore c v).fwA = s.fwA := rfl
@[simp] theorem State.setCore_fwB (c : CoreId) (v : Core) : (s.setCore c v).fwB = s.fwB := rfl
@[simp] theorem State.setCore_restart (c : CoreId) (v : Core) : (s.setCore c v).restart = s.restart := rfl
@[simp] theorem State.setCore_bring (c : CoreId) (v : Core) : (s.setCore c v).bring = s.bring := rfl
@[simp] theorem State.setCore_lanes (c : CoreId) (v : Core) : (s.setCore c v).lanes = s.lanes := rfl
@[simp] theorem State.setCore_mute (c : CoreId) (v : Core) : (s.setCore c v).mute = s.mute := rfl
@[simp] theorem State.setCore_heldX16 (c : CoreId) (v : Core) : (s.setCore c v).heldX16 = s.heldX16 := rfl
@[simp] theorem State.setCore_expired (c : CoreId) (v : Core) : (s.setCore c v).expired = s.expired := rfl
@[simp] theorem State.setCore_remapSites (c : CoreId) (v : Core) : (s.setCore c v).remapSites = s.remapSites := rfl
@[simp] theorem State.rd_setCore (p2 : Nat) (f2 : Fld) (c : CoreId) (v : Core) : (s.setCore c v).rd p2 f2 = s.rd p2 f2 := rfl
@[simp] theorem State.site_setCore (i2 : Nat) (c : CoreId) (v : Core) : (s.setCore c v).site i2 = s.site i2 := rfl
@[simp] theorem State.region_setCore (r2 : Nat) (c : CoreId) (v : Core) : (s.setCore c v).region r2 = s.region r2 := rfl
@[simp] theorem State.hub_setCore (h2 : Nat) (c : CoreId) (v : Core) : (s.setCore c v).hub h2 = s.hub h2 := rfl
@[simp] theorem State.stream_setCore (e2 k2 : Nat) (c : CoreId) (v : Core) : (s.setCore c v).stream e2 k2 = s.stream e2 k2 := rfl
@[simp] theorem State.ctx_setCore (e2 k2 : Nat) (c : CoreId) (v : Core) : (s.setCore c v).ctx e2 k2 = s.ctx e2 k2 := rfl
@[simp] theorem State.optic_setCore (h2 p2 : Nat) (c : CoreId) (v : Core) : (s.setCore c v).optic h2 p2 = s.optic h2 p2 := rfl
@[simp] theorem State.take_setCore (a2 n2 : Nat) (c : CoreId) (v : Core) : (s.setCore c v).take a2 n2 = s.take a2 n2 := rfl
@[simp] theorem State.spLine_setCore (c2 : CoreId) (b2 l2 : Nat) (c : CoreId) (v : Core) : (s.setCore c v).spLine c2 b2 l2 = s.spLine c2 b2 l2 := rfl

/-! ### setSite -/

@[simp] theorem State.setSite_pending (i : Nat) (v : Site) : (s.setSite i v).pending = s.pending := rfl
@[simp] theorem State.setSite_regs (i : Nat) (v : Site) : (s.setSite i v).regs = s.regs := rfl
@[simp] theorem State.setSite_mem (i : Nat) (v : Site) : (s.setSite i v).mem = s.mem := rfl
@[simp] theorem State.setSite_cores (i : Nat) (v : Site) : (s.setSite i v).cores = s.cores := rfl
@[simp] theorem State.setSite_regions (i : Nat) (v : Site) : (s.setSite i v).regions = s.regions := rfl
@[simp] theorem State.setSite_timers (i : Nat) (v : Site) : (s.setSite i v).timers = s.timers := rfl
@[simp] theorem State.setSite_tenths (i : Nat) (v : Site) : (s.setSite i v).tenths = s.tenths := rfl
@[simp] theorem State.setSite_rcnt (i : Nat) (v : Site) : (s.setSite i v).rcnt = s.rcnt := rfl
@[simp] theorem State.setSite_alwaysOn (i : Nat) (v : Site) : (s.setSite i v).alwaysOn = s.alwaysOn := rfl
@[simp] theorem State.setSite_rootOn (i : Nat) (v : Site) : (s.setSite i v).rootOn = s.rootOn := rfl
@[simp] theorem State.setSite_pfNum (i : Nat) (v : Site) : (s.setSite i v).pfNum = s.pfNum := rfl
@[simp] theorem State.setSite_pfDen (i : Nat) (v : Site) : (s.setSite i v).pfDen = s.pfDen := rfl
@[simp] theorem State.setSite_pfMs (i : Nat) (v : Site) : (s.setSite i v).pfMs = s.pfMs := rfl
@[simp] theorem State.setSite_inputOv (i : Nat) (v : Site) : (s.setSite i v).inputOv = s.inputOv := rfl
@[simp] theorem State.setSite_shutdown (i : Nat) (v : Site) : (s.setSite i v).shutdown = s.shutdown := rfl
@[simp] theorem State.setSite_outOfService (i : Nat) (v : Site) : (s.setSite i v).outOfService = s.outOfService := rfl
@[simp] theorem State.setSite_hubDom (i : Nat) (v : Site) : (s.setSite i v).hubDom = s.hubDom := rfl
@[simp] theorem State.setSite_busErr (i : Nat) (v : Site) : (s.setSite i v).busErr = s.busErr := rfl
@[simp] theorem State.setSite_holdover (i : Nat) (v : Site) : (s.setSite i v).holdover = s.holdover := rfl
@[simp] theorem State.setSite_coolant (i : Nat) (v : Site) : (s.setSite i v).coolant = s.coolant := rfl
@[simp] theorem State.setSite_pendBa (i : Nat) (v : Site) : (s.setSite i v).pendBa = s.pendBa := rfl
@[simp] theorem State.setSite_logRam (i : Nat) (v : Site) : (s.setSite i v).logRam = s.logRam := rfl
@[simp] theorem State.setSite_logFlash (i : Nat) (v : Site) : (s.setSite i v).logFlash = s.logFlash := rfl
@[simp] theorem State.setSite_logLost (i : Nat) (v : Site) : (s.setSite i v).logLost = s.logLost := rfl
@[simp] theorem State.setSite_out (i : Nat) (v : Site) : (s.setSite i v).out = s.out := rfl
@[simp] theorem State.setSite_drawn (i : Nat) (v : Site) : (s.setSite i v).drawn = s.drawn := rfl
@[simp] theorem State.setSite_streams (i : Nat) (v : Site) : (s.setSite i v).streams = s.streams := rfl
@[simp] theorem State.setSite_ctxs (i : Nat) (v : Site) : (s.setSite i v).ctxs = s.ctxs := rfl
@[simp] theorem State.setSite_hubs (i : Nat) (v : Site) : (s.setSite i v).hubs = s.hubs := rfl
@[simp] theorem State.setSite_optics (i : Nat) (v : Site) : (s.setSite i v).optics = s.optics := rfl
@[simp] theorem State.setSite_twin (i : Nat) (v : Site) : (s.setSite i v).twin = s.twin := rfl
@[simp] theorem State.setSite_shelfTag (i : Nat) (v : Site) : (s.setSite i v).shelfTag = s.shelfTag := rfl
@[simp] theorem State.setSite_loopTag (i : Nat) (v : Site) : (s.setSite i v).loopTag = s.loopTag := rfl
@[simp] theorem State.setSite_rackTag (i : Nat) (v : Site) : (s.setSite i v).rackTag = s.rackTag := rfl
@[simp] theorem State.setSite_up (i : Nat) (v : Site) : (s.setSite i v).up = s.up := rfl
@[simp] theorem State.setSite_flash (i : Nat) (v : Site) : (s.setSite i v).flash = s.flash := rfl
@[simp] theorem State.setSite_fwA (i : Nat) (v : Site) : (s.setSite i v).fwA = s.fwA := rfl
@[simp] theorem State.setSite_fwB (i : Nat) (v : Site) : (s.setSite i v).fwB = s.fwB := rfl
@[simp] theorem State.setSite_restart (i : Nat) (v : Site) : (s.setSite i v).restart = s.restart := rfl
@[simp] theorem State.setSite_bring (i : Nat) (v : Site) : (s.setSite i v).bring = s.bring := rfl
@[simp] theorem State.setSite_lanes (i : Nat) (v : Site) : (s.setSite i v).lanes = s.lanes := rfl
@[simp] theorem State.setSite_mute (i : Nat) (v : Site) : (s.setSite i v).mute = s.mute := rfl
@[simp] theorem State.setSite_heldX16 (i : Nat) (v : Site) : (s.setSite i v).heldX16 = s.heldX16 := rfl
@[simp] theorem State.setSite_expired (i : Nat) (v : Site) : (s.setSite i v).expired = s.expired := rfl
@[simp] theorem State.setSite_remapSites (i : Nat) (v : Site) : (s.setSite i v).remapSites = s.remapSites := rfl
@[simp] theorem State.rd_setSite (p2 : Nat) (f2 : Fld) (i : Nat) (v : Site) : (s.setSite i v).rd p2 f2 = s.rd p2 f2 := rfl
@[simp] theorem State.core_setSite (c2 : CoreId) (i : Nat) (v : Site) : (s.setSite i v).core c2 = s.core c2 := rfl
@[simp] theorem State.region_setSite (r2 : Nat) (i : Nat) (v : Site) : (s.setSite i v).region r2 = s.region r2 := rfl
@[simp] theorem State.hub_setSite (h2 : Nat) (i : Nat) (v : Site) : (s.setSite i v).hub h2 = s.hub h2 := rfl
@[simp] theorem State.stream_setSite (e2 k2 : Nat) (i : Nat) (v : Site) : (s.setSite i v).stream e2 k2 = s.stream e2 k2 := rfl
@[simp] theorem State.ctx_setSite (e2 k2 : Nat) (i : Nat) (v : Site) : (s.setSite i v).ctx e2 k2 = s.ctx e2 k2 := rfl
@[simp] theorem State.optic_setSite (h2 p2 : Nat) (i : Nat) (v : Site) : (s.setSite i v).optic h2 p2 = s.optic h2 p2 := rfl
@[simp] theorem State.take_setSite (a2 n2 : Nat) (i : Nat) (v : Site) : (s.setSite i v).take a2 n2 = s.take a2 n2 := rfl
@[simp] theorem State.spLine_setSite (c2 : CoreId) (b2 l2 : Nat) (i : Nat) (v : Site) : (s.setSite i v).spLine c2 b2 l2 = s.spLine c2 b2 l2 := rfl

/-! ### setRegion -/

@[simp] theorem State.setRegion_pending (r : Nat) (v : Region) : (s.setRegion r v).pending = s.pending := rfl
@[simp] theorem State.setRegion_regs (r : Nat) (v : Region) : (s.setRegion r v).regs = s.regs := rfl
@[simp] theorem State.setRegion_mem (r : Nat) (v : Region) : (s.setRegion r v).mem = s.mem := rfl
@[simp] theorem State.setRegion_cores (r : Nat) (v : Region) : (s.setRegion r v).cores = s.cores := rfl
@[simp] theorem State.setRegion_sites (r : Nat) (v : Region) : (s.setRegion r v).sites = s.sites := rfl
@[simp] theorem State.setRegion_timers (r : Nat) (v : Region) : (s.setRegion r v).timers = s.timers := rfl
@[simp] theorem State.setRegion_tenths (r : Nat) (v : Region) : (s.setRegion r v).tenths = s.tenths := rfl
@[simp] theorem State.setRegion_rcnt (r : Nat) (v : Region) : (s.setRegion r v).rcnt = s.rcnt := rfl
@[simp] theorem State.setRegion_alwaysOn (r : Nat) (v : Region) : (s.setRegion r v).alwaysOn = s.alwaysOn := rfl
@[simp] theorem State.setRegion_rootOn (r : Nat) (v : Region) : (s.setRegion r v).rootOn = s.rootOn := rfl
@[simp] theorem State.setRegion_pfNum (r : Nat) (v : Region) : (s.setRegion r v).pfNum = s.pfNum := rfl
@[simp] theorem State.setRegion_pfDen (r : Nat) (v : Region) : (s.setRegion r v).pfDen = s.pfDen := rfl
@[simp] theorem State.setRegion_pfMs (r : Nat) (v : Region) : (s.setRegion r v).pfMs = s.pfMs := rfl
@[simp] theorem State.setRegion_inputOv (r : Nat) (v : Region) : (s.setRegion r v).inputOv = s.inputOv := rfl
@[simp] theorem State.setRegion_shutdown (r : Nat) (v : Region) : (s.setRegion r v).shutdown = s.shutdown := rfl
@[simp] theorem State.setRegion_outOfService (r : Nat) (v : Region) : (s.setRegion r v).outOfService = s.outOfService := rfl
@[simp] theorem State.setRegion_hubDom (r : Nat) (v : Region) : (s.setRegion r v).hubDom = s.hubDom := rfl
@[simp] theorem State.setRegion_busErr (r : Nat) (v : Region) : (s.setRegion r v).busErr = s.busErr := rfl
@[simp] theorem State.setRegion_holdover (r : Nat) (v : Region) : (s.setRegion r v).holdover = s.holdover := rfl
@[simp] theorem State.setRegion_coolant (r : Nat) (v : Region) : (s.setRegion r v).coolant = s.coolant := rfl
@[simp] theorem State.setRegion_pendBa (r : Nat) (v : Region) : (s.setRegion r v).pendBa = s.pendBa := rfl
@[simp] theorem State.setRegion_logRam (r : Nat) (v : Region) : (s.setRegion r v).logRam = s.logRam := rfl
@[simp] theorem State.setRegion_logFlash (r : Nat) (v : Region) : (s.setRegion r v).logFlash = s.logFlash := rfl
@[simp] theorem State.setRegion_logLost (r : Nat) (v : Region) : (s.setRegion r v).logLost = s.logLost := rfl
@[simp] theorem State.setRegion_out (r : Nat) (v : Region) : (s.setRegion r v).out = s.out := rfl
@[simp] theorem State.setRegion_drawn (r : Nat) (v : Region) : (s.setRegion r v).drawn = s.drawn := rfl
@[simp] theorem State.setRegion_streams (r : Nat) (v : Region) : (s.setRegion r v).streams = s.streams := rfl
@[simp] theorem State.setRegion_ctxs (r : Nat) (v : Region) : (s.setRegion r v).ctxs = s.ctxs := rfl
@[simp] theorem State.setRegion_hubs (r : Nat) (v : Region) : (s.setRegion r v).hubs = s.hubs := rfl
@[simp] theorem State.setRegion_optics (r : Nat) (v : Region) : (s.setRegion r v).optics = s.optics := rfl
@[simp] theorem State.setRegion_twin (r : Nat) (v : Region) : (s.setRegion r v).twin = s.twin := rfl
@[simp] theorem State.setRegion_shelfTag (r : Nat) (v : Region) : (s.setRegion r v).shelfTag = s.shelfTag := rfl
@[simp] theorem State.setRegion_loopTag (r : Nat) (v : Region) : (s.setRegion r v).loopTag = s.loopTag := rfl
@[simp] theorem State.setRegion_rackTag (r : Nat) (v : Region) : (s.setRegion r v).rackTag = s.rackTag := rfl
@[simp] theorem State.setRegion_up (r : Nat) (v : Region) : (s.setRegion r v).up = s.up := rfl
@[simp] theorem State.setRegion_flash (r : Nat) (v : Region) : (s.setRegion r v).flash = s.flash := rfl
@[simp] theorem State.setRegion_fwA (r : Nat) (v : Region) : (s.setRegion r v).fwA = s.fwA := rfl
@[simp] theorem State.setRegion_fwB (r : Nat) (v : Region) : (s.setRegion r v).fwB = s.fwB := rfl
@[simp] theorem State.setRegion_restart (r : Nat) (v : Region) : (s.setRegion r v).restart = s.restart := rfl
@[simp] theorem State.setRegion_bring (r : Nat) (v : Region) : (s.setRegion r v).bring = s.bring := rfl
@[simp] theorem State.setRegion_lanes (r : Nat) (v : Region) : (s.setRegion r v).lanes = s.lanes := rfl
@[simp] theorem State.setRegion_mute (r : Nat) (v : Region) : (s.setRegion r v).mute = s.mute := rfl
@[simp] theorem State.setRegion_heldX16 (r : Nat) (v : Region) : (s.setRegion r v).heldX16 = s.heldX16 := rfl
@[simp] theorem State.setRegion_expired (r : Nat) (v : Region) : (s.setRegion r v).expired = s.expired := rfl
@[simp] theorem State.setRegion_remapSites (r : Nat) (v : Region) : (s.setRegion r v).remapSites = s.remapSites := rfl
@[simp] theorem State.rd_setRegion (p2 : Nat) (f2 : Fld) (r : Nat) (v : Region) : (s.setRegion r v).rd p2 f2 = s.rd p2 f2 := rfl
@[simp] theorem State.core_setRegion (c2 : CoreId) (r : Nat) (v : Region) : (s.setRegion r v).core c2 = s.core c2 := rfl
@[simp] theorem State.site_setRegion (i2 : Nat) (r : Nat) (v : Region) : (s.setRegion r v).site i2 = s.site i2 := rfl
@[simp] theorem State.hub_setRegion (h2 : Nat) (r : Nat) (v : Region) : (s.setRegion r v).hub h2 = s.hub h2 := rfl
@[simp] theorem State.stream_setRegion (e2 k2 : Nat) (r : Nat) (v : Region) : (s.setRegion r v).stream e2 k2 = s.stream e2 k2 := rfl
@[simp] theorem State.ctx_setRegion (e2 k2 : Nat) (r : Nat) (v : Region) : (s.setRegion r v).ctx e2 k2 = s.ctx e2 k2 := rfl
@[simp] theorem State.optic_setRegion (h2 p2 : Nat) (r : Nat) (v : Region) : (s.setRegion r v).optic h2 p2 = s.optic h2 p2 := rfl
@[simp] theorem State.take_setRegion (a2 n2 : Nat) (r : Nat) (v : Region) : (s.setRegion r v).take a2 n2 = s.take a2 n2 := rfl
@[simp] theorem State.spLine_setRegion (c2 : CoreId) (b2 l2 : Nat) (r : Nat) (v : Region) : (s.setRegion r v).spLine c2 b2 l2 = s.spLine c2 b2 l2 := rfl

/-! ### setHub -/

@[simp] theorem State.setHub_pending (h : Nat) (v : Hub) : (s.setHub h v).pending = s.pending := rfl
@[simp] theorem State.setHub_regs (h : Nat) (v : Hub) : (s.setHub h v).regs = s.regs := rfl
@[simp] theorem State.setHub_mem (h : Nat) (v : Hub) : (s.setHub h v).mem = s.mem := rfl
@[simp] theorem State.setHub_cores (h : Nat) (v : Hub) : (s.setHub h v).cores = s.cores := rfl
@[simp] theorem State.setHub_sites (h : Nat) (v : Hub) : (s.setHub h v).sites = s.sites := rfl
@[simp] theorem State.setHub_regions (h : Nat) (v : Hub) : (s.setHub h v).regions = s.regions := rfl
@[simp] theorem State.setHub_timers (h : Nat) (v : Hub) : (s.setHub h v).timers = s.timers := rfl
@[simp] theorem State.setHub_tenths (h : Nat) (v : Hub) : (s.setHub h v).tenths = s.tenths := rfl
@[simp] theorem State.setHub_rcnt (h : Nat) (v : Hub) : (s.setHub h v).rcnt = s.rcnt := rfl
@[simp] theorem State.setHub_alwaysOn (h : Nat) (v : Hub) : (s.setHub h v).alwaysOn = s.alwaysOn := rfl
@[simp] theorem State.setHub_rootOn (h : Nat) (v : Hub) : (s.setHub h v).rootOn = s.rootOn := rfl
@[simp] theorem State.setHub_pfNum (h : Nat) (v : Hub) : (s.setHub h v).pfNum = s.pfNum := rfl
@[simp] theorem State.setHub_pfDen (h : Nat) (v : Hub) : (s.setHub h v).pfDen = s.pfDen := rfl
@[simp] theorem State.setHub_pfMs (h : Nat) (v : Hub) : (s.setHub h v).pfMs = s.pfMs := rfl
@[simp] theorem State.setHub_inputOv (h : Nat) (v : Hub) : (s.setHub h v).inputOv = s.inputOv := rfl
@[simp] theorem State.setHub_shutdown (h : Nat) (v : Hub) : (s.setHub h v).shutdown = s.shutdown := rfl
@[simp] theorem State.setHub_outOfService (h : Nat) (v : Hub) : (s.setHub h v).outOfService = s.outOfService := rfl
@[simp] theorem State.setHub_hubDom (h : Nat) (v : Hub) : (s.setHub h v).hubDom = s.hubDom := rfl
@[simp] theorem State.setHub_busErr (h : Nat) (v : Hub) : (s.setHub h v).busErr = s.busErr := rfl
@[simp] theorem State.setHub_holdover (h : Nat) (v : Hub) : (s.setHub h v).holdover = s.holdover := rfl
@[simp] theorem State.setHub_coolant (h : Nat) (v : Hub) : (s.setHub h v).coolant = s.coolant := rfl
@[simp] theorem State.setHub_pendBa (h : Nat) (v : Hub) : (s.setHub h v).pendBa = s.pendBa := rfl
@[simp] theorem State.setHub_logRam (h : Nat) (v : Hub) : (s.setHub h v).logRam = s.logRam := rfl
@[simp] theorem State.setHub_logFlash (h : Nat) (v : Hub) : (s.setHub h v).logFlash = s.logFlash := rfl
@[simp] theorem State.setHub_logLost (h : Nat) (v : Hub) : (s.setHub h v).logLost = s.logLost := rfl
@[simp] theorem State.setHub_out (h : Nat) (v : Hub) : (s.setHub h v).out = s.out := rfl
@[simp] theorem State.setHub_drawn (h : Nat) (v : Hub) : (s.setHub h v).drawn = s.drawn := rfl
@[simp] theorem State.setHub_streams (h : Nat) (v : Hub) : (s.setHub h v).streams = s.streams := rfl
@[simp] theorem State.setHub_ctxs (h : Nat) (v : Hub) : (s.setHub h v).ctxs = s.ctxs := rfl
@[simp] theorem State.setHub_optics (h : Nat) (v : Hub) : (s.setHub h v).optics = s.optics := rfl
@[simp] theorem State.setHub_twin (h : Nat) (v : Hub) : (s.setHub h v).twin = s.twin := rfl
@[simp] theorem State.setHub_shelfTag (h : Nat) (v : Hub) : (s.setHub h v).shelfTag = s.shelfTag := rfl
@[simp] theorem State.setHub_loopTag (h : Nat) (v : Hub) : (s.setHub h v).loopTag = s.loopTag := rfl
@[simp] theorem State.setHub_rackTag (h : Nat) (v : Hub) : (s.setHub h v).rackTag = s.rackTag := rfl
@[simp] theorem State.setHub_up (h : Nat) (v : Hub) : (s.setHub h v).up = s.up := rfl
@[simp] theorem State.setHub_flash (h : Nat) (v : Hub) : (s.setHub h v).flash = s.flash := rfl
@[simp] theorem State.setHub_fwA (h : Nat) (v : Hub) : (s.setHub h v).fwA = s.fwA := rfl
@[simp] theorem State.setHub_fwB (h : Nat) (v : Hub) : (s.setHub h v).fwB = s.fwB := rfl
@[simp] theorem State.setHub_restart (h : Nat) (v : Hub) : (s.setHub h v).restart = s.restart := rfl
@[simp] theorem State.setHub_bring (h : Nat) (v : Hub) : (s.setHub h v).bring = s.bring := rfl
@[simp] theorem State.setHub_lanes (h : Nat) (v : Hub) : (s.setHub h v).lanes = s.lanes := rfl
@[simp] theorem State.setHub_mute (h : Nat) (v : Hub) : (s.setHub h v).mute = s.mute := rfl
@[simp] theorem State.setHub_heldX16 (h : Nat) (v : Hub) : (s.setHub h v).heldX16 = s.heldX16 := rfl
@[simp] theorem State.setHub_expired (h : Nat) (v : Hub) : (s.setHub h v).expired = s.expired := rfl
@[simp] theorem State.setHub_remapSites (h : Nat) (v : Hub) : (s.setHub h v).remapSites = s.remapSites := rfl
@[simp] theorem State.rd_setHub (p2 : Nat) (f2 : Fld) (h : Nat) (v : Hub) : (s.setHub h v).rd p2 f2 = s.rd p2 f2 := rfl
@[simp] theorem State.core_setHub (c2 : CoreId) (h : Nat) (v : Hub) : (s.setHub h v).core c2 = s.core c2 := rfl
@[simp] theorem State.site_setHub (i2 : Nat) (h : Nat) (v : Hub) : (s.setHub h v).site i2 = s.site i2 := rfl
@[simp] theorem State.region_setHub (r2 : Nat) (h : Nat) (v : Hub) : (s.setHub h v).region r2 = s.region r2 := rfl
@[simp] theorem State.stream_setHub (e2 k2 : Nat) (h : Nat) (v : Hub) : (s.setHub h v).stream e2 k2 = s.stream e2 k2 := rfl
@[simp] theorem State.ctx_setHub (e2 k2 : Nat) (h : Nat) (v : Hub) : (s.setHub h v).ctx e2 k2 = s.ctx e2 k2 := rfl
@[simp] theorem State.optic_setHub (h2 p2 : Nat) (h : Nat) (v : Hub) : (s.setHub h v).optic h2 p2 = s.optic h2 p2 := rfl
@[simp] theorem State.take_setHub (a2 n2 : Nat) (h : Nat) (v : Hub) : (s.setHub h v).take a2 n2 = s.take a2 n2 := rfl
@[simp] theorem State.spLine_setHub (c2 : CoreId) (b2 l2 : Nat) (h : Nat) (v : Hub) : (s.setHub h v).spLine c2 b2 l2 = s.spLine c2 b2 l2 := rfl

/-! ### setStream -/

@[simp] theorem State.setStream_pending (e k : Nat) (v : Stream) : (s.setStream e k v).pending = s.pending := rfl
@[simp] theorem State.setStream_regs (e k : Nat) (v : Stream) : (s.setStream e k v).regs = s.regs := rfl
@[simp] theorem State.setStream_mem (e k : Nat) (v : Stream) : (s.setStream e k v).mem = s.mem := rfl
@[simp] theorem State.setStream_cores (e k : Nat) (v : Stream) : (s.setStream e k v).cores = s.cores := rfl
@[simp] theorem State.setStream_sites (e k : Nat) (v : Stream) : (s.setStream e k v).sites = s.sites := rfl
@[simp] theorem State.setStream_regions (e k : Nat) (v : Stream) : (s.setStream e k v).regions = s.regions := rfl
@[simp] theorem State.setStream_timers (e k : Nat) (v : Stream) : (s.setStream e k v).timers = s.timers := rfl
@[simp] theorem State.setStream_tenths (e k : Nat) (v : Stream) : (s.setStream e k v).tenths = s.tenths := rfl
@[simp] theorem State.setStream_rcnt (e k : Nat) (v : Stream) : (s.setStream e k v).rcnt = s.rcnt := rfl
@[simp] theorem State.setStream_alwaysOn (e k : Nat) (v : Stream) : (s.setStream e k v).alwaysOn = s.alwaysOn := rfl
@[simp] theorem State.setStream_rootOn (e k : Nat) (v : Stream) : (s.setStream e k v).rootOn = s.rootOn := rfl
@[simp] theorem State.setStream_pfNum (e k : Nat) (v : Stream) : (s.setStream e k v).pfNum = s.pfNum := rfl
@[simp] theorem State.setStream_pfDen (e k : Nat) (v : Stream) : (s.setStream e k v).pfDen = s.pfDen := rfl
@[simp] theorem State.setStream_pfMs (e k : Nat) (v : Stream) : (s.setStream e k v).pfMs = s.pfMs := rfl
@[simp] theorem State.setStream_inputOv (e k : Nat) (v : Stream) : (s.setStream e k v).inputOv = s.inputOv := rfl
@[simp] theorem State.setStream_shutdown (e k : Nat) (v : Stream) : (s.setStream e k v).shutdown = s.shutdown := rfl
@[simp] theorem State.setStream_outOfService (e k : Nat) (v : Stream) : (s.setStream e k v).outOfService = s.outOfService := rfl
@[simp] theorem State.setStream_hubDom (e k : Nat) (v : Stream) : (s.setStream e k v).hubDom = s.hubDom := rfl
@[simp] theorem State.setStream_busErr (e k : Nat) (v : Stream) : (s.setStream e k v).busErr = s.busErr := rfl
@[simp] theorem State.setStream_holdover (e k : Nat) (v : Stream) : (s.setStream e k v).holdover = s.holdover := rfl
@[simp] theorem State.setStream_coolant (e k : Nat) (v : Stream) : (s.setStream e k v).coolant = s.coolant := rfl
@[simp] theorem State.setStream_pendBa (e k : Nat) (v : Stream) : (s.setStream e k v).pendBa = s.pendBa := rfl
@[simp] theorem State.setStream_logRam (e k : Nat) (v : Stream) : (s.setStream e k v).logRam = s.logRam := rfl
@[simp] theorem State.setStream_logFlash (e k : Nat) (v : Stream) : (s.setStream e k v).logFlash = s.logFlash := rfl
@[simp] theorem State.setStream_logLost (e k : Nat) (v : Stream) : (s.setStream e k v).logLost = s.logLost := rfl
@[simp] theorem State.setStream_out (e k : Nat) (v : Stream) : (s.setStream e k v).out = s.out := rfl
@[simp] theorem State.setStream_drawn (e k : Nat) (v : Stream) : (s.setStream e k v).drawn = s.drawn := rfl
@[simp] theorem State.setStream_ctxs (e k : Nat) (v : Stream) : (s.setStream e k v).ctxs = s.ctxs := rfl
@[simp] theorem State.setStream_hubs (e k : Nat) (v : Stream) : (s.setStream e k v).hubs = s.hubs := rfl
@[simp] theorem State.setStream_optics (e k : Nat) (v : Stream) : (s.setStream e k v).optics = s.optics := rfl
@[simp] theorem State.setStream_twin (e k : Nat) (v : Stream) : (s.setStream e k v).twin = s.twin := rfl
@[simp] theorem State.setStream_shelfTag (e k : Nat) (v : Stream) : (s.setStream e k v).shelfTag = s.shelfTag := rfl
@[simp] theorem State.setStream_loopTag (e k : Nat) (v : Stream) : (s.setStream e k v).loopTag = s.loopTag := rfl
@[simp] theorem State.setStream_rackTag (e k : Nat) (v : Stream) : (s.setStream e k v).rackTag = s.rackTag := rfl
@[simp] theorem State.setStream_up (e k : Nat) (v : Stream) : (s.setStream e k v).up = s.up := rfl
@[simp] theorem State.setStream_flash (e k : Nat) (v : Stream) : (s.setStream e k v).flash = s.flash := rfl
@[simp] theorem State.setStream_fwA (e k : Nat) (v : Stream) : (s.setStream e k v).fwA = s.fwA := rfl
@[simp] theorem State.setStream_fwB (e k : Nat) (v : Stream) : (s.setStream e k v).fwB = s.fwB := rfl
@[simp] theorem State.setStream_restart (e k : Nat) (v : Stream) : (s.setStream e k v).restart = s.restart := rfl
@[simp] theorem State.setStream_bring (e k : Nat) (v : Stream) : (s.setStream e k v).bring = s.bring := rfl
@[simp] theorem State.setStream_lanes (e k : Nat) (v : Stream) : (s.setStream e k v).lanes = s.lanes := rfl
@[simp] theorem State.setStream_mute (e k : Nat) (v : Stream) : (s.setStream e k v).mute = s.mute := rfl
@[simp] theorem State.setStream_heldX16 (e k : Nat) (v : Stream) : (s.setStream e k v).heldX16 = s.heldX16 := rfl
@[simp] theorem State.setStream_expired (e k : Nat) (v : Stream) : (s.setStream e k v).expired = s.expired := rfl
@[simp] theorem State.setStream_remapSites (e k : Nat) (v : Stream) : (s.setStream e k v).remapSites = s.remapSites := rfl
@[simp] theorem State.rd_setStream (p2 : Nat) (f2 : Fld) (e k : Nat) (v : Stream) : (s.setStream e k v).rd p2 f2 = s.rd p2 f2 := rfl
@[simp] theorem State.core_setStream (c2 : CoreId) (e k : Nat) (v : Stream) : (s.setStream e k v).core c2 = s.core c2 := rfl
@[simp] theorem State.site_setStream (i2 : Nat) (e k : Nat) (v : Stream) : (s.setStream e k v).site i2 = s.site i2 := rfl
@[simp] theorem State.region_setStream (r2 : Nat) (e k : Nat) (v : Stream) : (s.setStream e k v).region r2 = s.region r2 := rfl
@[simp] theorem State.hub_setStream (h2 : Nat) (e k : Nat) (v : Stream) : (s.setStream e k v).hub h2 = s.hub h2 := rfl
@[simp] theorem State.ctx_setStream (e2 k2 : Nat) (e k : Nat) (v : Stream) : (s.setStream e k v).ctx e2 k2 = s.ctx e2 k2 := rfl
@[simp] theorem State.optic_setStream (h2 p2 : Nat) (e k : Nat) (v : Stream) : (s.setStream e k v).optic h2 p2 = s.optic h2 p2 := rfl
@[simp] theorem State.take_setStream (a2 n2 : Nat) (e k : Nat) (v : Stream) : (s.setStream e k v).take a2 n2 = s.take a2 n2 := rfl
@[simp] theorem State.spLine_setStream (c2 : CoreId) (b2 l2 : Nat) (e k : Nat) (v : Stream) : (s.setStream e k v).spLine c2 b2 l2 = s.spLine c2 b2 l2 := rfl

/-! ### setCtx -/

@[simp] theorem State.setCtx_pending (e k : Nat) (v : Ctx) : (s.setCtx e k v).pending = s.pending := rfl
@[simp] theorem State.setCtx_regs (e k : Nat) (v : Ctx) : (s.setCtx e k v).regs = s.regs := rfl
@[simp] theorem State.setCtx_mem (e k : Nat) (v : Ctx) : (s.setCtx e k v).mem = s.mem := rfl
@[simp] theorem State.setCtx_cores (e k : Nat) (v : Ctx) : (s.setCtx e k v).cores = s.cores := rfl
@[simp] theorem State.setCtx_sites (e k : Nat) (v : Ctx) : (s.setCtx e k v).sites = s.sites := rfl
@[simp] theorem State.setCtx_regions (e k : Nat) (v : Ctx) : (s.setCtx e k v).regions = s.regions := rfl
@[simp] theorem State.setCtx_timers (e k : Nat) (v : Ctx) : (s.setCtx e k v).timers = s.timers := rfl
@[simp] theorem State.setCtx_tenths (e k : Nat) (v : Ctx) : (s.setCtx e k v).tenths = s.tenths := rfl
@[simp] theorem State.setCtx_rcnt (e k : Nat) (v : Ctx) : (s.setCtx e k v).rcnt = s.rcnt := rfl
@[simp] theorem State.setCtx_alwaysOn (e k : Nat) (v : Ctx) : (s.setCtx e k v).alwaysOn = s.alwaysOn := rfl
@[simp] theorem State.setCtx_rootOn (e k : Nat) (v : Ctx) : (s.setCtx e k v).rootOn = s.rootOn := rfl
@[simp] theorem State.setCtx_pfNum (e k : Nat) (v : Ctx) : (s.setCtx e k v).pfNum = s.pfNum := rfl
@[simp] theorem State.setCtx_pfDen (e k : Nat) (v : Ctx) : (s.setCtx e k v).pfDen = s.pfDen := rfl
@[simp] theorem State.setCtx_pfMs (e k : Nat) (v : Ctx) : (s.setCtx e k v).pfMs = s.pfMs := rfl
@[simp] theorem State.setCtx_inputOv (e k : Nat) (v : Ctx) : (s.setCtx e k v).inputOv = s.inputOv := rfl
@[simp] theorem State.setCtx_shutdown (e k : Nat) (v : Ctx) : (s.setCtx e k v).shutdown = s.shutdown := rfl
@[simp] theorem State.setCtx_outOfService (e k : Nat) (v : Ctx) : (s.setCtx e k v).outOfService = s.outOfService := rfl
@[simp] theorem State.setCtx_hubDom (e k : Nat) (v : Ctx) : (s.setCtx e k v).hubDom = s.hubDom := rfl
@[simp] theorem State.setCtx_busErr (e k : Nat) (v : Ctx) : (s.setCtx e k v).busErr = s.busErr := rfl
@[simp] theorem State.setCtx_holdover (e k : Nat) (v : Ctx) : (s.setCtx e k v).holdover = s.holdover := rfl
@[simp] theorem State.setCtx_coolant (e k : Nat) (v : Ctx) : (s.setCtx e k v).coolant = s.coolant := rfl
@[simp] theorem State.setCtx_pendBa (e k : Nat) (v : Ctx) : (s.setCtx e k v).pendBa = s.pendBa := rfl
@[simp] theorem State.setCtx_logRam (e k : Nat) (v : Ctx) : (s.setCtx e k v).logRam = s.logRam := rfl
@[simp] theorem State.setCtx_logFlash (e k : Nat) (v : Ctx) : (s.setCtx e k v).logFlash = s.logFlash := rfl
@[simp] theorem State.setCtx_logLost (e k : Nat) (v : Ctx) : (s.setCtx e k v).logLost = s.logLost := rfl
@[simp] theorem State.setCtx_out (e k : Nat) (v : Ctx) : (s.setCtx e k v).out = s.out := rfl
@[simp] theorem State.setCtx_drawn (e k : Nat) (v : Ctx) : (s.setCtx e k v).drawn = s.drawn := rfl
@[simp] theorem State.setCtx_streams (e k : Nat) (v : Ctx) : (s.setCtx e k v).streams = s.streams := rfl
@[simp] theorem State.setCtx_hubs (e k : Nat) (v : Ctx) : (s.setCtx e k v).hubs = s.hubs := rfl
@[simp] theorem State.setCtx_optics (e k : Nat) (v : Ctx) : (s.setCtx e k v).optics = s.optics := rfl
@[simp] theorem State.setCtx_twin (e k : Nat) (v : Ctx) : (s.setCtx e k v).twin = s.twin := rfl
@[simp] theorem State.setCtx_shelfTag (e k : Nat) (v : Ctx) : (s.setCtx e k v).shelfTag = s.shelfTag := rfl
@[simp] theorem State.setCtx_loopTag (e k : Nat) (v : Ctx) : (s.setCtx e k v).loopTag = s.loopTag := rfl
@[simp] theorem State.setCtx_rackTag (e k : Nat) (v : Ctx) : (s.setCtx e k v).rackTag = s.rackTag := rfl
@[simp] theorem State.setCtx_up (e k : Nat) (v : Ctx) : (s.setCtx e k v).up = s.up := rfl
@[simp] theorem State.setCtx_flash (e k : Nat) (v : Ctx) : (s.setCtx e k v).flash = s.flash := rfl
@[simp] theorem State.setCtx_fwA (e k : Nat) (v : Ctx) : (s.setCtx e k v).fwA = s.fwA := rfl
@[simp] theorem State.setCtx_fwB (e k : Nat) (v : Ctx) : (s.setCtx e k v).fwB = s.fwB := rfl
@[simp] theorem State.setCtx_restart (e k : Nat) (v : Ctx) : (s.setCtx e k v).restart = s.restart := rfl
@[simp] theorem State.setCtx_bring (e k : Nat) (v : Ctx) : (s.setCtx e k v).bring = s.bring := rfl
@[simp] theorem State.setCtx_lanes (e k : Nat) (v : Ctx) : (s.setCtx e k v).lanes = s.lanes := rfl
@[simp] theorem State.setCtx_mute (e k : Nat) (v : Ctx) : (s.setCtx e k v).mute = s.mute := rfl
@[simp] theorem State.setCtx_heldX16 (e k : Nat) (v : Ctx) : (s.setCtx e k v).heldX16 = s.heldX16 := rfl
@[simp] theorem State.setCtx_expired (e k : Nat) (v : Ctx) : (s.setCtx e k v).expired = s.expired := rfl
@[simp] theorem State.setCtx_remapSites (e k : Nat) (v : Ctx) : (s.setCtx e k v).remapSites = s.remapSites := rfl
@[simp] theorem State.rd_setCtx (p2 : Nat) (f2 : Fld) (e k : Nat) (v : Ctx) : (s.setCtx e k v).rd p2 f2 = s.rd p2 f2 := rfl
@[simp] theorem State.core_setCtx (c2 : CoreId) (e k : Nat) (v : Ctx) : (s.setCtx e k v).core c2 = s.core c2 := rfl
@[simp] theorem State.site_setCtx (i2 : Nat) (e k : Nat) (v : Ctx) : (s.setCtx e k v).site i2 = s.site i2 := rfl
@[simp] theorem State.region_setCtx (r2 : Nat) (e k : Nat) (v : Ctx) : (s.setCtx e k v).region r2 = s.region r2 := rfl
@[simp] theorem State.hub_setCtx (h2 : Nat) (e k : Nat) (v : Ctx) : (s.setCtx e k v).hub h2 = s.hub h2 := rfl
@[simp] theorem State.stream_setCtx (e2 k2 : Nat) (e k : Nat) (v : Ctx) : (s.setCtx e k v).stream e2 k2 = s.stream e2 k2 := rfl
@[simp] theorem State.optic_setCtx (h2 p2 : Nat) (e k : Nat) (v : Ctx) : (s.setCtx e k v).optic h2 p2 = s.optic h2 p2 := rfl
@[simp] theorem State.take_setCtx (a2 n2 : Nat) (e k : Nat) (v : Ctx) : (s.setCtx e k v).take a2 n2 = s.take a2 n2 := rfl
@[simp] theorem State.spLine_setCtx (c2 : CoreId) (b2 l2 : Nat) (e k : Nat) (v : Ctx) : (s.setCtx e k v).spLine c2 b2 l2 = s.spLine c2 b2 l2 := rfl

/-! ### setOptic -/

@[simp] theorem State.setOptic_pending (h p : Nat) (v : Port) : (s.setOptic h p v).pending = s.pending := rfl
@[simp] theorem State.setOptic_regs (h p : Nat) (v : Port) : (s.setOptic h p v).regs = s.regs := rfl
@[simp] theorem State.setOptic_mem (h p : Nat) (v : Port) : (s.setOptic h p v).mem = s.mem := rfl
@[simp] theorem State.setOptic_cores (h p : Nat) (v : Port) : (s.setOptic h p v).cores = s.cores := rfl
@[simp] theorem State.setOptic_sites (h p : Nat) (v : Port) : (s.setOptic h p v).sites = s.sites := rfl
@[simp] theorem State.setOptic_regions (h p : Nat) (v : Port) : (s.setOptic h p v).regions = s.regions := rfl
@[simp] theorem State.setOptic_timers (h p : Nat) (v : Port) : (s.setOptic h p v).timers = s.timers := rfl
@[simp] theorem State.setOptic_tenths (h p : Nat) (v : Port) : (s.setOptic h p v).tenths = s.tenths := rfl
@[simp] theorem State.setOptic_rcnt (h p : Nat) (v : Port) : (s.setOptic h p v).rcnt = s.rcnt := rfl
@[simp] theorem State.setOptic_alwaysOn (h p : Nat) (v : Port) : (s.setOptic h p v).alwaysOn = s.alwaysOn := rfl
@[simp] theorem State.setOptic_rootOn (h p : Nat) (v : Port) : (s.setOptic h p v).rootOn = s.rootOn := rfl
@[simp] theorem State.setOptic_pfNum (h p : Nat) (v : Port) : (s.setOptic h p v).pfNum = s.pfNum := rfl
@[simp] theorem State.setOptic_pfDen (h p : Nat) (v : Port) : (s.setOptic h p v).pfDen = s.pfDen := rfl
@[simp] theorem State.setOptic_pfMs (h p : Nat) (v : Port) : (s.setOptic h p v).pfMs = s.pfMs := rfl
@[simp] theorem State.setOptic_inputOv (h p : Nat) (v : Port) : (s.setOptic h p v).inputOv = s.inputOv := rfl
@[simp] theorem State.setOptic_shutdown (h p : Nat) (v : Port) : (s.setOptic h p v).shutdown = s.shutdown := rfl
@[simp] theorem State.setOptic_outOfService (h p : Nat) (v : Port) : (s.setOptic h p v).outOfService = s.outOfService := rfl
@[simp] theorem State.setOptic_hubDom (h p : Nat) (v : Port) : (s.setOptic h p v).hubDom = s.hubDom := rfl
@[simp] theorem State.setOptic_busErr (h p : Nat) (v : Port) : (s.setOptic h p v).busErr = s.busErr := rfl
@[simp] theorem State.setOptic_holdover (h p : Nat) (v : Port) : (s.setOptic h p v).holdover = s.holdover := rfl
@[simp] theorem State.setOptic_coolant (h p : Nat) (v : Port) : (s.setOptic h p v).coolant = s.coolant := rfl
@[simp] theorem State.setOptic_pendBa (h p : Nat) (v : Port) : (s.setOptic h p v).pendBa = s.pendBa := rfl
@[simp] theorem State.setOptic_logRam (h p : Nat) (v : Port) : (s.setOptic h p v).logRam = s.logRam := rfl
@[simp] theorem State.setOptic_logFlash (h p : Nat) (v : Port) : (s.setOptic h p v).logFlash = s.logFlash := rfl
@[simp] theorem State.setOptic_logLost (h p : Nat) (v : Port) : (s.setOptic h p v).logLost = s.logLost := rfl
@[simp] theorem State.setOptic_out (h p : Nat) (v : Port) : (s.setOptic h p v).out = s.out := rfl
@[simp] theorem State.setOptic_drawn (h p : Nat) (v : Port) : (s.setOptic h p v).drawn = s.drawn := rfl
@[simp] theorem State.setOptic_streams (h p : Nat) (v : Port) : (s.setOptic h p v).streams = s.streams := rfl
@[simp] theorem State.setOptic_ctxs (h p : Nat) (v : Port) : (s.setOptic h p v).ctxs = s.ctxs := rfl
@[simp] theorem State.setOptic_hubs (h p : Nat) (v : Port) : (s.setOptic h p v).hubs = s.hubs := rfl
@[simp] theorem State.setOptic_twin (h p : Nat) (v : Port) : (s.setOptic h p v).twin = s.twin := rfl
@[simp] theorem State.setOptic_shelfTag (h p : Nat) (v : Port) : (s.setOptic h p v).shelfTag = s.shelfTag := rfl
@[simp] theorem State.setOptic_loopTag (h p : Nat) (v : Port) : (s.setOptic h p v).loopTag = s.loopTag := rfl
@[simp] theorem State.setOptic_rackTag (h p : Nat) (v : Port) : (s.setOptic h p v).rackTag = s.rackTag := rfl
@[simp] theorem State.setOptic_up (h p : Nat) (v : Port) : (s.setOptic h p v).up = s.up := rfl
@[simp] theorem State.setOptic_flash (h p : Nat) (v : Port) : (s.setOptic h p v).flash = s.flash := rfl
@[simp] theorem State.setOptic_fwA (h p : Nat) (v : Port) : (s.setOptic h p v).fwA = s.fwA := rfl
@[simp] theorem State.setOptic_fwB (h p : Nat) (v : Port) : (s.setOptic h p v).fwB = s.fwB := rfl
@[simp] theorem State.setOptic_restart (h p : Nat) (v : Port) : (s.setOptic h p v).restart = s.restart := rfl
@[simp] theorem State.setOptic_bring (h p : Nat) (v : Port) : (s.setOptic h p v).bring = s.bring := rfl
@[simp] theorem State.setOptic_lanes (h p : Nat) (v : Port) : (s.setOptic h p v).lanes = s.lanes := rfl
@[simp] theorem State.setOptic_mute (h p : Nat) (v : Port) : (s.setOptic h p v).mute = s.mute := rfl
@[simp] theorem State.setOptic_heldX16 (h p : Nat) (v : Port) : (s.setOptic h p v).heldX16 = s.heldX16 := rfl
@[simp] theorem State.setOptic_expired (h p : Nat) (v : Port) : (s.setOptic h p v).expired = s.expired := rfl
@[simp] theorem State.setOptic_remapSites (h p : Nat) (v : Port) : (s.setOptic h p v).remapSites = s.remapSites := rfl
@[simp] theorem State.rd_setOptic (p2 : Nat) (f2 : Fld) (h p : Nat) (v : Port) : (s.setOptic h p v).rd p2 f2 = s.rd p2 f2 := rfl
@[simp] theorem State.core_setOptic (c2 : CoreId) (h p : Nat) (v : Port) : (s.setOptic h p v).core c2 = s.core c2 := rfl
@[simp] theorem State.site_setOptic (i2 : Nat) (h p : Nat) (v : Port) : (s.setOptic h p v).site i2 = s.site i2 := rfl
@[simp] theorem State.region_setOptic (r2 : Nat) (h p : Nat) (v : Port) : (s.setOptic h p v).region r2 = s.region r2 := rfl
@[simp] theorem State.hub_setOptic (h2 : Nat) (h p : Nat) (v : Port) : (s.setOptic h p v).hub h2 = s.hub h2 := rfl
@[simp] theorem State.stream_setOptic (e2 k2 : Nat) (h p : Nat) (v : Port) : (s.setOptic h p v).stream e2 k2 = s.stream e2 k2 := rfl
@[simp] theorem State.ctx_setOptic (e2 k2 : Nat) (h p : Nat) (v : Port) : (s.setOptic h p v).ctx e2 k2 = s.ctx e2 k2 := rfl
@[simp] theorem State.take_setOptic (a2 n2 : Nat) (h p : Nat) (v : Port) : (s.setOptic h p v).take a2 n2 = s.take a2 n2 := rfl
@[simp] theorem State.spLine_setOptic (c2 : CoreId) (b2 l2 : Nat) (h p : Nat) (v : Port) : (s.setOptic h p v).spLine c2 b2 l2 = s.spLine c2 b2 l2 := rfl

/-! ### setHubDom -/

@[simp] theorem State.setHubDom_pending (h v : Nat) : (s.setHubDom h v).pending = s.pending := rfl
@[simp] theorem State.setHubDom_regs (h v : Nat) : (s.setHubDom h v).regs = s.regs := rfl
@[simp] theorem State.setHubDom_mem (h v : Nat) : (s.setHubDom h v).mem = s.mem := rfl
@[simp] theorem State.setHubDom_cores (h v : Nat) : (s.setHubDom h v).cores = s.cores := rfl
@[simp] theorem State.setHubDom_sites (h v : Nat) : (s.setHubDom h v).sites = s.sites := rfl
@[simp] theorem State.setHubDom_regions (h v : Nat) : (s.setHubDom h v).regions = s.regions := rfl
@[simp] theorem State.setHubDom_timers (h v : Nat) : (s.setHubDom h v).timers = s.timers := rfl
@[simp] theorem State.setHubDom_tenths (h v : Nat) : (s.setHubDom h v).tenths = s.tenths := rfl
@[simp] theorem State.setHubDom_rcnt (h v : Nat) : (s.setHubDom h v).rcnt = s.rcnt := rfl
@[simp] theorem State.setHubDom_alwaysOn (h v : Nat) : (s.setHubDom h v).alwaysOn = s.alwaysOn := rfl
@[simp] theorem State.setHubDom_rootOn (h v : Nat) : (s.setHubDom h v).rootOn = s.rootOn := rfl
@[simp] theorem State.setHubDom_pfNum (h v : Nat) : (s.setHubDom h v).pfNum = s.pfNum := rfl
@[simp] theorem State.setHubDom_pfDen (h v : Nat) : (s.setHubDom h v).pfDen = s.pfDen := rfl
@[simp] theorem State.setHubDom_pfMs (h v : Nat) : (s.setHubDom h v).pfMs = s.pfMs := rfl
@[simp] theorem State.setHubDom_inputOv (h v : Nat) : (s.setHubDom h v).inputOv = s.inputOv := rfl
@[simp] theorem State.setHubDom_shutdown (h v : Nat) : (s.setHubDom h v).shutdown = s.shutdown := rfl
@[simp] theorem State.setHubDom_outOfService (h v : Nat) : (s.setHubDom h v).outOfService = s.outOfService := rfl
@[simp] theorem State.setHubDom_busErr (h v : Nat) : (s.setHubDom h v).busErr = s.busErr := rfl
@[simp] theorem State.setHubDom_holdover (h v : Nat) : (s.setHubDom h v).holdover = s.holdover := rfl
@[simp] theorem State.setHubDom_coolant (h v : Nat) : (s.setHubDom h v).coolant = s.coolant := rfl
@[simp] theorem State.setHubDom_pendBa (h v : Nat) : (s.setHubDom h v).pendBa = s.pendBa := rfl
@[simp] theorem State.setHubDom_logRam (h v : Nat) : (s.setHubDom h v).logRam = s.logRam := rfl
@[simp] theorem State.setHubDom_logFlash (h v : Nat) : (s.setHubDom h v).logFlash = s.logFlash := rfl
@[simp] theorem State.setHubDom_logLost (h v : Nat) : (s.setHubDom h v).logLost = s.logLost := rfl
@[simp] theorem State.setHubDom_out (h v : Nat) : (s.setHubDom h v).out = s.out := rfl
@[simp] theorem State.setHubDom_drawn (h v : Nat) : (s.setHubDom h v).drawn = s.drawn := rfl
@[simp] theorem State.setHubDom_streams (h v : Nat) : (s.setHubDom h v).streams = s.streams := rfl
@[simp] theorem State.setHubDom_ctxs (h v : Nat) : (s.setHubDom h v).ctxs = s.ctxs := rfl
@[simp] theorem State.setHubDom_hubs (h v : Nat) : (s.setHubDom h v).hubs = s.hubs := rfl
@[simp] theorem State.setHubDom_optics (h v : Nat) : (s.setHubDom h v).optics = s.optics := rfl
@[simp] theorem State.setHubDom_twin (h v : Nat) : (s.setHubDom h v).twin = s.twin := rfl
@[simp] theorem State.setHubDom_shelfTag (h v : Nat) : (s.setHubDom h v).shelfTag = s.shelfTag := rfl
@[simp] theorem State.setHubDom_loopTag (h v : Nat) : (s.setHubDom h v).loopTag = s.loopTag := rfl
@[simp] theorem State.setHubDom_rackTag (h v : Nat) : (s.setHubDom h v).rackTag = s.rackTag := rfl
@[simp] theorem State.setHubDom_up (h v : Nat) : (s.setHubDom h v).up = s.up := rfl
@[simp] theorem State.setHubDom_flash (h v : Nat) : (s.setHubDom h v).flash = s.flash := rfl
@[simp] theorem State.setHubDom_fwA (h v : Nat) : (s.setHubDom h v).fwA = s.fwA := rfl
@[simp] theorem State.setHubDom_fwB (h v : Nat) : (s.setHubDom h v).fwB = s.fwB := rfl
@[simp] theorem State.setHubDom_restart (h v : Nat) : (s.setHubDom h v).restart = s.restart := rfl
@[simp] theorem State.setHubDom_bring (h v : Nat) : (s.setHubDom h v).bring = s.bring := rfl
@[simp] theorem State.setHubDom_lanes (h v : Nat) : (s.setHubDom h v).lanes = s.lanes := rfl
@[simp] theorem State.setHubDom_mute (h v : Nat) : (s.setHubDom h v).mute = s.mute := rfl
@[simp] theorem State.setHubDom_heldX16 (h v : Nat) : (s.setHubDom h v).heldX16 = s.heldX16 := rfl
@[simp] theorem State.setHubDom_expired (h v : Nat) : (s.setHubDom h v).expired = s.expired := rfl
@[simp] theorem State.setHubDom_remapSites (h v : Nat) : (s.setHubDom h v).remapSites = s.remapSites := rfl
@[simp] theorem State.rd_setHubDom (p2 : Nat) (f2 : Fld) (h v : Nat) : (s.setHubDom h v).rd p2 f2 = s.rd p2 f2 := rfl
@[simp] theorem State.core_setHubDom (c2 : CoreId) (h v : Nat) : (s.setHubDom h v).core c2 = s.core c2 := rfl
@[simp] theorem State.site_setHubDom (i2 : Nat) (h v : Nat) : (s.setHubDom h v).site i2 = s.site i2 := rfl
@[simp] theorem State.region_setHubDom (r2 : Nat) (h v : Nat) : (s.setHubDom h v).region r2 = s.region r2 := rfl
@[simp] theorem State.hub_setHubDom (h2 : Nat) (h v : Nat) : (s.setHubDom h v).hub h2 = s.hub h2 := rfl
@[simp] theorem State.stream_setHubDom (e2 k2 : Nat) (h v : Nat) : (s.setHubDom h v).stream e2 k2 = s.stream e2 k2 := rfl
@[simp] theorem State.ctx_setHubDom (e2 k2 : Nat) (h v : Nat) : (s.setHubDom h v).ctx e2 k2 = s.ctx e2 k2 := rfl
@[simp] theorem State.optic_setHubDom (h2 p2 : Nat) (h v : Nat) : (s.setHubDom h v).optic h2 p2 = s.optic h2 p2 := rfl
@[simp] theorem State.take_setHubDom (a2 n2 : Nat) (h v : Nat) : (s.setHubDom h v).take a2 n2 = s.take a2 n2 := rfl
@[simp] theorem State.spLine_setHubDom (c2 : CoreId) (b2 l2 : Nat) (h v : Nat) : (s.setHubDom h v).spLine c2 b2 l2 = s.spLine c2 b2 l2 := rfl

/-! ### put -/

@[simp] theorem State.put_pending (a n : Nat) (l : Line) : (s.put a n l).pending = s.pending := rfl
@[simp] theorem State.put_regs (a n : Nat) (l : Line) : (s.put a n l).regs = s.regs := rfl
@[simp] theorem State.put_cores (a n : Nat) (l : Line) : (s.put a n l).cores = s.cores := rfl
@[simp] theorem State.put_sites (a n : Nat) (l : Line) : (s.put a n l).sites = s.sites := rfl
@[simp] theorem State.put_regions (a n : Nat) (l : Line) : (s.put a n l).regions = s.regions := rfl
@[simp] theorem State.put_timers (a n : Nat) (l : Line) : (s.put a n l).timers = s.timers := rfl
@[simp] theorem State.put_tenths (a n : Nat) (l : Line) : (s.put a n l).tenths = s.tenths := rfl
@[simp] theorem State.put_rcnt (a n : Nat) (l : Line) : (s.put a n l).rcnt = s.rcnt := rfl
@[simp] theorem State.put_alwaysOn (a n : Nat) (l : Line) : (s.put a n l).alwaysOn = s.alwaysOn := rfl
@[simp] theorem State.put_rootOn (a n : Nat) (l : Line) : (s.put a n l).rootOn = s.rootOn := rfl
@[simp] theorem State.put_pfNum (a n : Nat) (l : Line) : (s.put a n l).pfNum = s.pfNum := rfl
@[simp] theorem State.put_pfDen (a n : Nat) (l : Line) : (s.put a n l).pfDen = s.pfDen := rfl
@[simp] theorem State.put_pfMs (a n : Nat) (l : Line) : (s.put a n l).pfMs = s.pfMs := rfl
@[simp] theorem State.put_inputOv (a n : Nat) (l : Line) : (s.put a n l).inputOv = s.inputOv := rfl
@[simp] theorem State.put_shutdown (a n : Nat) (l : Line) : (s.put a n l).shutdown = s.shutdown := rfl
@[simp] theorem State.put_outOfService (a n : Nat) (l : Line) : (s.put a n l).outOfService = s.outOfService := rfl
@[simp] theorem State.put_hubDom (a n : Nat) (l : Line) : (s.put a n l).hubDom = s.hubDom := rfl
@[simp] theorem State.put_busErr (a n : Nat) (l : Line) : (s.put a n l).busErr = s.busErr := rfl
@[simp] theorem State.put_holdover (a n : Nat) (l : Line) : (s.put a n l).holdover = s.holdover := rfl
@[simp] theorem State.put_coolant (a n : Nat) (l : Line) : (s.put a n l).coolant = s.coolant := rfl
@[simp] theorem State.put_pendBa (a n : Nat) (l : Line) : (s.put a n l).pendBa = s.pendBa := rfl
@[simp] theorem State.put_logRam (a n : Nat) (l : Line) : (s.put a n l).logRam = s.logRam := rfl
@[simp] theorem State.put_logFlash (a n : Nat) (l : Line) : (s.put a n l).logFlash = s.logFlash := rfl
@[simp] theorem State.put_logLost (a n : Nat) (l : Line) : (s.put a n l).logLost = s.logLost := rfl
@[simp] theorem State.put_out (a n : Nat) (l : Line) : (s.put a n l).out = s.out := rfl
@[simp] theorem State.put_drawn (a n : Nat) (l : Line) : (s.put a n l).drawn = s.drawn := rfl
@[simp] theorem State.put_streams (a n : Nat) (l : Line) : (s.put a n l).streams = s.streams := rfl
@[simp] theorem State.put_ctxs (a n : Nat) (l : Line) : (s.put a n l).ctxs = s.ctxs := rfl
@[simp] theorem State.put_hubs (a n : Nat) (l : Line) : (s.put a n l).hubs = s.hubs := rfl
@[simp] theorem State.put_optics (a n : Nat) (l : Line) : (s.put a n l).optics = s.optics := rfl
@[simp] theorem State.put_twin (a n : Nat) (l : Line) : (s.put a n l).twin = s.twin := rfl
@[simp] theorem State.put_shelfTag (a n : Nat) (l : Line) : (s.put a n l).shelfTag = s.shelfTag := rfl
@[simp] theorem State.put_loopTag (a n : Nat) (l : Line) : (s.put a n l).loopTag = s.loopTag := rfl
@[simp] theorem State.put_rackTag (a n : Nat) (l : Line) : (s.put a n l).rackTag = s.rackTag := rfl
@[simp] theorem State.put_up (a n : Nat) (l : Line) : (s.put a n l).up = s.up := rfl
@[simp] theorem State.put_flash (a n : Nat) (l : Line) : (s.put a n l).flash = s.flash := rfl
@[simp] theorem State.put_fwA (a n : Nat) (l : Line) : (s.put a n l).fwA = s.fwA := rfl
@[simp] theorem State.put_fwB (a n : Nat) (l : Line) : (s.put a n l).fwB = s.fwB := rfl
@[simp] theorem State.put_restart (a n : Nat) (l : Line) : (s.put a n l).restart = s.restart := rfl
@[simp] theorem State.put_bring (a n : Nat) (l : Line) : (s.put a n l).bring = s.bring := rfl
@[simp] theorem State.put_lanes (a n : Nat) (l : Line) : (s.put a n l).lanes = s.lanes := rfl
@[simp] theorem State.put_mute (a n : Nat) (l : Line) : (s.put a n l).mute = s.mute := rfl
@[simp] theorem State.put_heldX16 (a n : Nat) (l : Line) : (s.put a n l).heldX16 = s.heldX16 := rfl
@[simp] theorem State.put_expired (a n : Nat) (l : Line) : (s.put a n l).expired = s.expired := rfl
@[simp] theorem State.put_remapSites (a n : Nat) (l : Line) : (s.put a n l).remapSites = s.remapSites := rfl
@[simp] theorem State.rd_put (p2 : Nat) (f2 : Fld) (a n : Nat) (l : Line) : (s.put a n l).rd p2 f2 = s.rd p2 f2 := rfl
@[simp] theorem State.core_put (c2 : CoreId) (a n : Nat) (l : Line) : (s.put a n l).core c2 = s.core c2 := rfl
@[simp] theorem State.site_put (i2 : Nat) (a n : Nat) (l : Line) : (s.put a n l).site i2 = s.site i2 := rfl
@[simp] theorem State.region_put (r2 : Nat) (a n : Nat) (l : Line) : (s.put a n l).region r2 = s.region r2 := rfl
@[simp] theorem State.hub_put (h2 : Nat) (a n : Nat) (l : Line) : (s.put a n l).hub h2 = s.hub h2 := rfl
@[simp] theorem State.stream_put (e2 k2 : Nat) (a n : Nat) (l : Line) : (s.put a n l).stream e2 k2 = s.stream e2 k2 := rfl
@[simp] theorem State.ctx_put (e2 k2 : Nat) (a n : Nat) (l : Line) : (s.put a n l).ctx e2 k2 = s.ctx e2 k2 := rfl
@[simp] theorem State.optic_put (h2 p2 : Nat) (a n : Nat) (l : Line) : (s.put a n l).optic h2 p2 = s.optic h2 p2 := rfl

/-! ### emit -/

@[simp] theorem State.emit_pending (o : Out) : (s.emit o).pending = s.pending := rfl
@[simp] theorem State.emit_regs (o : Out) : (s.emit o).regs = s.regs := rfl
@[simp] theorem State.emit_mem (o : Out) : (s.emit o).mem = s.mem := rfl
@[simp] theorem State.emit_cores (o : Out) : (s.emit o).cores = s.cores := rfl
@[simp] theorem State.emit_sites (o : Out) : (s.emit o).sites = s.sites := rfl
@[simp] theorem State.emit_regions (o : Out) : (s.emit o).regions = s.regions := rfl
@[simp] theorem State.emit_timers (o : Out) : (s.emit o).timers = s.timers := rfl
@[simp] theorem State.emit_tenths (o : Out) : (s.emit o).tenths = s.tenths := rfl
@[simp] theorem State.emit_rcnt (o : Out) : (s.emit o).rcnt = s.rcnt := rfl
@[simp] theorem State.emit_alwaysOn (o : Out) : (s.emit o).alwaysOn = s.alwaysOn := rfl
@[simp] theorem State.emit_rootOn (o : Out) : (s.emit o).rootOn = s.rootOn := rfl
@[simp] theorem State.emit_pfNum (o : Out) : (s.emit o).pfNum = s.pfNum := rfl
@[simp] theorem State.emit_pfDen (o : Out) : (s.emit o).pfDen = s.pfDen := rfl
@[simp] theorem State.emit_pfMs (o : Out) : (s.emit o).pfMs = s.pfMs := rfl
@[simp] theorem State.emit_inputOv (o : Out) : (s.emit o).inputOv = s.inputOv := rfl
@[simp] theorem State.emit_shutdown (o : Out) : (s.emit o).shutdown = s.shutdown := rfl
@[simp] theorem State.emit_outOfService (o : Out) : (s.emit o).outOfService = s.outOfService := rfl
@[simp] theorem State.emit_hubDom (o : Out) : (s.emit o).hubDom = s.hubDom := rfl
@[simp] theorem State.emit_busErr (o : Out) : (s.emit o).busErr = s.busErr := rfl
@[simp] theorem State.emit_holdover (o : Out) : (s.emit o).holdover = s.holdover := rfl
@[simp] theorem State.emit_coolant (o : Out) : (s.emit o).coolant = s.coolant := rfl
@[simp] theorem State.emit_pendBa (o : Out) : (s.emit o).pendBa = s.pendBa := rfl
@[simp] theorem State.emit_logRam (o : Out) : (s.emit o).logRam = s.logRam := rfl
@[simp] theorem State.emit_logFlash (o : Out) : (s.emit o).logFlash = s.logFlash := rfl
@[simp] theorem State.emit_logLost (o : Out) : (s.emit o).logLost = s.logLost := rfl
@[simp] theorem State.emit_drawn (o : Out) : (s.emit o).drawn = s.drawn := rfl
@[simp] theorem State.emit_streams (o : Out) : (s.emit o).streams = s.streams := rfl
@[simp] theorem State.emit_ctxs (o : Out) : (s.emit o).ctxs = s.ctxs := rfl
@[simp] theorem State.emit_hubs (o : Out) : (s.emit o).hubs = s.hubs := rfl
@[simp] theorem State.emit_optics (o : Out) : (s.emit o).optics = s.optics := rfl
@[simp] theorem State.emit_twin (o : Out) : (s.emit o).twin = s.twin := rfl
@[simp] theorem State.emit_shelfTag (o : Out) : (s.emit o).shelfTag = s.shelfTag := rfl
@[simp] theorem State.emit_loopTag (o : Out) : (s.emit o).loopTag = s.loopTag := rfl
@[simp] theorem State.emit_rackTag (o : Out) : (s.emit o).rackTag = s.rackTag := rfl
@[simp] theorem State.emit_up (o : Out) : (s.emit o).up = s.up := rfl
@[simp] theorem State.emit_flash (o : Out) : (s.emit o).flash = s.flash := rfl
@[simp] theorem State.emit_fwA (o : Out) : (s.emit o).fwA = s.fwA := rfl
@[simp] theorem State.emit_fwB (o : Out) : (s.emit o).fwB = s.fwB := rfl
@[simp] theorem State.emit_restart (o : Out) : (s.emit o).restart = s.restart := rfl
@[simp] theorem State.emit_bring (o : Out) : (s.emit o).bring = s.bring := rfl
@[simp] theorem State.emit_lanes (o : Out) : (s.emit o).lanes = s.lanes := rfl
@[simp] theorem State.emit_mute (o : Out) : (s.emit o).mute = s.mute := rfl
@[simp] theorem State.emit_heldX16 (o : Out) : (s.emit o).heldX16 = s.heldX16 := rfl
@[simp] theorem State.emit_expired (o : Out) : (s.emit o).expired = s.expired := rfl
@[simp] theorem State.emit_remapSites (o : Out) : (s.emit o).remapSites = s.remapSites := rfl
@[simp] theorem State.rd_emit (p2 : Nat) (f2 : Fld) (o : Out) : (s.emit o).rd p2 f2 = s.rd p2 f2 := rfl
@[simp] theorem State.core_emit (c2 : CoreId) (o : Out) : (s.emit o).core c2 = s.core c2 := rfl
@[simp] theorem State.site_emit (i2 : Nat) (o : Out) : (s.emit o).site i2 = s.site i2 := rfl
@[simp] theorem State.region_emit (r2 : Nat) (o : Out) : (s.emit o).region r2 = s.region r2 := rfl
@[simp] theorem State.hub_emit (h2 : Nat) (o : Out) : (s.emit o).hub h2 = s.hub h2 := rfl
@[simp] theorem State.stream_emit (e2 k2 : Nat) (o : Out) : (s.emit o).stream e2 k2 = s.stream e2 k2 := rfl
@[simp] theorem State.ctx_emit (e2 k2 : Nat) (o : Out) : (s.emit o).ctx e2 k2 = s.ctx e2 k2 := rfl
@[simp] theorem State.optic_emit (h2 p2 : Nat) (o : Out) : (s.emit o).optic h2 p2 = s.optic h2 p2 := rfl
@[simp] theorem State.take_emit (a2 n2 : Nat) (o : Out) : (s.emit o).take a2 n2 = s.take a2 n2 := rfl
@[simp] theorem State.spLine_emit (c2 : CoreId) (b2 l2 : Nat) (o : Out) : (s.emit o).spLine c2 b2 l2 = s.spLine c2 b2 l2 := rfl

/-! ### draw -/

@[simp] theorem State.draw_pending (w : Nat) : (s.draw w).2.pending = s.pending := rfl
@[simp] theorem State.draw_regs (w : Nat) : (s.draw w).2.regs = s.regs := rfl
@[simp] theorem State.draw_mem (w : Nat) : (s.draw w).2.mem = s.mem := rfl
@[simp] theorem State.draw_cores (w : Nat) : (s.draw w).2.cores = s.cores := rfl
@[simp] theorem State.draw_sites (w : Nat) : (s.draw w).2.sites = s.sites := rfl
@[simp] theorem State.draw_regions (w : Nat) : (s.draw w).2.regions = s.regions := rfl
@[simp] theorem State.draw_timers (w : Nat) : (s.draw w).2.timers = s.timers := rfl
@[simp] theorem State.draw_tenths (w : Nat) : (s.draw w).2.tenths = s.tenths := rfl
@[simp] theorem State.draw_rcnt (w : Nat) : (s.draw w).2.rcnt = s.rcnt := rfl
@[simp] theorem State.draw_alwaysOn (w : Nat) : (s.draw w).2.alwaysOn = s.alwaysOn := rfl
@[simp] theorem State.draw_rootOn (w : Nat) : (s.draw w).2.rootOn = s.rootOn := rfl
@[simp] theorem State.draw_pfNum (w : Nat) : (s.draw w).2.pfNum = s.pfNum := rfl
@[simp] theorem State.draw_pfDen (w : Nat) : (s.draw w).2.pfDen = s.pfDen := rfl
@[simp] theorem State.draw_pfMs (w : Nat) : (s.draw w).2.pfMs = s.pfMs := rfl
@[simp] theorem State.draw_inputOv (w : Nat) : (s.draw w).2.inputOv = s.inputOv := rfl
@[simp] theorem State.draw_shutdown (w : Nat) : (s.draw w).2.shutdown = s.shutdown := rfl
@[simp] theorem State.draw_outOfService (w : Nat) : (s.draw w).2.outOfService = s.outOfService := rfl
@[simp] theorem State.draw_hubDom (w : Nat) : (s.draw w).2.hubDom = s.hubDom := rfl
@[simp] theorem State.draw_busErr (w : Nat) : (s.draw w).2.busErr = s.busErr := rfl
@[simp] theorem State.draw_holdover (w : Nat) : (s.draw w).2.holdover = s.holdover := rfl
@[simp] theorem State.draw_coolant (w : Nat) : (s.draw w).2.coolant = s.coolant := rfl
@[simp] theorem State.draw_pendBa (w : Nat) : (s.draw w).2.pendBa = s.pendBa := rfl
@[simp] theorem State.draw_logRam (w : Nat) : (s.draw w).2.logRam = s.logRam := rfl
@[simp] theorem State.draw_logFlash (w : Nat) : (s.draw w).2.logFlash = s.logFlash := rfl
@[simp] theorem State.draw_logLost (w : Nat) : (s.draw w).2.logLost = s.logLost := rfl
@[simp] theorem State.draw_out (w : Nat) : (s.draw w).2.out = s.out := rfl
@[simp] theorem State.draw_streams (w : Nat) : (s.draw w).2.streams = s.streams := rfl
@[simp] theorem State.draw_ctxs (w : Nat) : (s.draw w).2.ctxs = s.ctxs := rfl
@[simp] theorem State.draw_hubs (w : Nat) : (s.draw w).2.hubs = s.hubs := rfl
@[simp] theorem State.draw_optics (w : Nat) : (s.draw w).2.optics = s.optics := rfl
@[simp] theorem State.draw_twin (w : Nat) : (s.draw w).2.twin = s.twin := rfl
@[simp] theorem State.draw_shelfTag (w : Nat) : (s.draw w).2.shelfTag = s.shelfTag := rfl
@[simp] theorem State.draw_loopTag (w : Nat) : (s.draw w).2.loopTag = s.loopTag := rfl
@[simp] theorem State.draw_rackTag (w : Nat) : (s.draw w).2.rackTag = s.rackTag := rfl
@[simp] theorem State.draw_up (w : Nat) : (s.draw w).2.up = s.up := rfl
@[simp] theorem State.draw_flash (w : Nat) : (s.draw w).2.flash = s.flash := rfl
@[simp] theorem State.draw_fwA (w : Nat) : (s.draw w).2.fwA = s.fwA := rfl
@[simp] theorem State.draw_fwB (w : Nat) : (s.draw w).2.fwB = s.fwB := rfl
@[simp] theorem State.draw_restart (w : Nat) : (s.draw w).2.restart = s.restart := rfl
@[simp] theorem State.draw_bring (w : Nat) : (s.draw w).2.bring = s.bring := rfl
@[simp] theorem State.draw_lanes (w : Nat) : (s.draw w).2.lanes = s.lanes := rfl
@[simp] theorem State.draw_mute (w : Nat) : (s.draw w).2.mute = s.mute := rfl
@[simp] theorem State.draw_heldX16 (w : Nat) : (s.draw w).2.heldX16 = s.heldX16 := rfl
@[simp] theorem State.draw_expired (w : Nat) : (s.draw w).2.expired = s.expired := rfl
@[simp] theorem State.draw_remapSites (w : Nat) : (s.draw w).2.remapSites = s.remapSites := rfl
@[simp] theorem State.rd_draw (p2 : Nat) (f2 : Fld) (w : Nat) : (s.draw w).2.rd p2 f2 = s.rd p2 f2 := rfl
@[simp] theorem State.core_draw (c2 : CoreId) (w : Nat) : (s.draw w).2.core c2 = s.core c2 := rfl
@[simp] theorem State.site_draw (i2 : Nat) (w : Nat) : (s.draw w).2.site i2 = s.site i2 := rfl
@[simp] theorem State.region_draw (r2 : Nat) (w : Nat) : (s.draw w).2.region r2 = s.region r2 := rfl
@[simp] theorem State.hub_draw (h2 : Nat) (w : Nat) : (s.draw w).2.hub h2 = s.hub h2 := rfl
@[simp] theorem State.stream_draw (e2 k2 : Nat) (w : Nat) : (s.draw w).2.stream e2 k2 = s.stream e2 k2 := rfl
@[simp] theorem State.ctx_draw (e2 k2 : Nat) (w : Nat) : (s.draw w).2.ctx e2 k2 = s.ctx e2 k2 := rfl
@[simp] theorem State.optic_draw (h2 p2 : Nat) (w : Nat) : (s.draw w).2.optic h2 p2 = s.optic h2 p2 := rfl
@[simp] theorem State.take_draw (a2 n2 : Nat) (w : Nat) : (s.draw w).2.take a2 n2 = s.take a2 n2 := rfl
@[simp] theorem State.spLine_draw (c2 : CoreId) (b2 l2 : Nat) (w : Nat) : (s.draw w).2.spLine c2 b2 l2 = s.spLine c2 b2 l2 := rfl

/-! ### What a read answers at and beside the place written -/

theorem State.rd_wr_same (p : Nat) (f : Fld) (v : Nat) : (s.wr p f v).rd p f = v % 2 ^ f.w := by
  simp [State.rd, State.wr, tabFind_insert_same, tabFind_erase_same]

theorem State.rd_wr_ne (p q : Nat) (f g : Fld) (v : Nat) (h : fldKey p f ≠ fldKey q g) :
    (s.wr p f v).rd q g = s.rd q g := by
  simp [State.rd, State.wr, tabFind_insert_ne _ _ (Ne.symm h), tabFind_erase_ne _ (Ne.symm h)]

theorem State.site_setSite_same (i : Nat) (v : Site) : (s.setSite i v).site i = v := by
  simp [State.site, State.setSite, tabGet_set_same]

theorem State.site_setSite_ne (i j : Nat) (v : Site) (h : i ≠ j) : (s.setSite i v).site j = s.site j := by
  simp [State.site, State.setSite, tabGet_set_ne _ _ _ (Ne.symm h)]

theorem State.region_setRegion_same (i : Nat) (v : Region) : (s.setRegion i v).region i = v := by
  simp [State.region, State.setRegion, tabGet_set_same]

theorem State.region_setRegion_ne (i j : Nat) (v : Region) (h : i ≠ j) : (s.setRegion i v).region j = s.region j := by
  simp [State.region, State.setRegion, tabGet_set_ne _ _ _ (Ne.symm h)]

theorem State.hub_setHub_same (i : Nat) (v : Hub) : (s.setHub i v).hub i = v := by
  simp [State.hub, State.setHub, tabGet_set_same]

theorem State.hub_setHub_ne (i j : Nat) (v : Hub) (h : i ≠ j) : (s.setHub i v).hub j = s.hub j := by
  simp [State.hub, State.setHub, tabGet_set_ne _ _ _ (Ne.symm h)]

theorem State.core_setCore_same (c : CoreId) (v : Core) : (s.setCore c v).core c = v := by
  simp [State.core, State.setCore, tabGet_set_same]

theorem State.core_setCore_ne (c d : CoreId) (v : Core) (h : coreKey c ≠ coreKey d) :
    (s.setCore c v).core d = s.core d := by
  simp [State.core, State.setCore, tabGet_set_ne _ _ _ (Ne.symm h)]

theorem State.stream_setStream_same (e k : Nat) (v : Stream) : (s.setStream e k v).stream e k = v := by
  simp [State.stream, State.setStream, tabGet_set_same]

theorem State.ctx_setCtx_same (e k : Nat) (v : Ctx) : (s.setCtx e k v).ctx e k = v := by
  simp [State.ctx, State.setCtx, tabGet_set_same]

theorem State.optic_setOptic_same (h p : Nat) (v : Port) : (s.setOptic h p v).optic h p = v := by
  simp [State.optic, State.setOptic, tabGet_set_same]

theorem State.stream_setStream_ne (e k e2 k2 : Nat) (v : Stream) (h : 512 * e + k ≠ 512 * e2 + k2) :
    (s.setStream e k v).stream e2 k2 = s.stream e2 k2 := by
  simp [State.stream, State.setStream, tabGet_set_ne _ _ _ (Ne.symm h)]

theorem State.ctx_setCtx_ne (e k e2 k2 : Nat) (v : Ctx) (h : 512 * e + k ≠ 512 * e2 + k2) :
    (s.setCtx e k v).ctx e2 k2 = s.ctx e2 k2 := by
  simp [State.ctx, State.setCtx, tabGet_set_ne _ _ _ (Ne.symm h)]

theorem State.optic_setOptic_ne (h p h2 p2 : Nat) (v : Port) (n : 8 * h + p ≠ 8 * h2 + p2) :
    (s.setOptic h p v).optic h2 p2 = s.optic h2 p2 := by
  simp [State.optic, State.setOptic, tabGet_set_ne _ _ _ (Ne.symm n)]

end Sys2Proof.Machine
end

