-- ==== Sys2Proof/Laws/Pages.lean ====
section
/-! SUPPORT. Which fields of the register store an operation writes: every other field reads as before. -/

namespace Sys2Proof.Machine

theorem Off.refl (P : List Nat) (q : State) : Off P q q := ⟨fun _ _ => rfl⟩

theorem Off.trans {P : List Nat} {q s t : State} (h : Off P q s) (g : Off P s t) : Off P q t :=
  ⟨fun k hk => (g.find k hk).trans (h.find k hk)⟩

theorem Off.mono {P Q : List Nat} {q t : State} (h : Off P q t) (hpq : P ⊆ Q) : Off Q q t :=
  ⟨fun k hk => h.find k (fun g => hk (hpq g))⟩

theorem Off.same {P : List Nat} {q s t : State} (h : Off P q s) (hr : t.regs = s.regs := by exact rfl) : Off P q t :=
  ⟨fun k hk => by rw [hr]; exact h.find k hk⟩

theorem Off.ite {P : List Nat} {q a b : State} {c : Prop} [Decidable c] (ha : Off P q a) (hb : Off P q b) : Off P q (if c then a else b) := by
  split <;> assumption

theorem Off.foldl {α : Type} {P : List Nat} {q s : State} {g : State → α → State} {l : List α}
    (hg : ∀ s a, Off P q s → Off P q (g s a)) (h : Off P q s) : Off P q (l.foldl g s) := by
  induction l generalizing s with
  | nil => exact h
  | cons a l ih => exact ih (hg _ _ h)

theorem Off.upTo {P : List Nat} {q s : State} {g : State → Nat → State} {n : Nat}
    (hg : ∀ s a, Off P q s → Off P q (g s a)) (h : Off P q s) : Off P q (Sys2Proof.upTo n g s) := Off.foldl hg h

theorem Off.wr {P : List Nat} {q s : State} {p : Nat} {f : Fld} {v : Nat} (h : Off P q s) (hp : fldKey p f ∈ P) :
    Off P q (s.wr p f v) := by
  refine ⟨fun k hk => ?_⟩
  have hne : k ≠ fldKey p f := fun e => hk (e ▸ hp)
  show tabFind (tabInsert (tabErase s.regs _) _ _) k = _
  rw [tabFind_insert_ne _ _ hne, tabFind_erase_ne _ hne]
  exact h.find k hk

theorem Off.setBit {P : List Nat} {q s : State} {p : Nat} {f : Fld} (h : Off P q s) (hp : fldKey p f ∈ P) :
    Off P q (s.setBit p f) := h.wr hp

theorem Off.bump {P : List Nat} {q s : State} {p : Nat} {f : Fld} {k : Nat} (h : Off P q s) (hp : fldKey p f ∈ P) :
    Off P q (s.bump p f k) := Off.ite h (h.wr hp)

theorem Off.orBits {P : List Nat} {q s : State} {p : Nat} {f : Fld} {k : Nat} (h : Off P q s) (hp : fldKey p f ∈ P) :
    Off P q (s.orBits p f k) := h.wr hp

/-- A field that is not written reads as before. -/
theorem Off.rd {P : List Nat} {q t : State} (h : Off P q t) (p : Nat) (f : Fld) (hp : fldKey p f ∉ P) :
    t.rd p f = q.rd p f := by
  unfold State.rd; rw [h.find _ hp]

/-- Two fields of one page that do not share their place have different keys. -/
theorem fldKey_ne {p : Nat} {f g : Fld} (hx : f.ix = g.ix) (h : f.off * 32 + f.lsb ≠ g.off * 32 + g.lsb) : fldKey p f ≠ fldKey p g := by
  unfold fldKey
  rw [hx]
  split <;> omega

/-! ### Events -/

theorem logEnter_off {P : List Nat} {q s : State} (tag rec : Nat) (h : Off P q s) (hP : logKeys ⊆ P) : Off P q (logEnter s tag rec) := by
  unfold logEnter
  refine Off.wr ?_ (hP (by simp [logKeys, keysOf]))
  exact ⟨h.find⟩

theorem logAdd_off {P : List Nat} {q s : State} (tag rec : Nat) (h : Off P q s) (hP : logKeys ⊆ P) : Off P q (logAdd s tag rec) := by
  have drop : ∀ (u : State) (n : Nat), Off P q u →
      Off P q (({ u with logLost := n }.bump logP Reg.Lo.LOG_DROP_CNT 1).setBit logP Reg.Lo.DROP) := fun u n hu =>
    Off.setBit (Off.bump ⟨hu.find⟩ (hP (by simp [logKeys, keysOf]))) (hP (by simp [logKeys, keysOf]))
  unfold logAdd
  refine Off.ite (drop _ _ h) (Off.ite (logEnter_off _ _ h hP) ?_)
  have h0 : Off P q { s with logLost := 0 } := ⟨h.find⟩
  have h1 := logEnter_off (logTag 4 16) (eventRec s 0x1D 1 { page := logP, table := Reg.Lo.regs } s.logLost 0) h0 hP
  exact Off.ite (drop _ _ h1) (logEnter_off _ _ h1 hP)

theorem logEvent_off {P : List Nat} {q s : State} (code sev : Nat) (src : EvSrc) (n sub : Nat) (h : Off P q s) (hP : logKeys ⊆ P) :
    Off P q (logEvent s code sev src n sub) := logAdd_off _ _ h hP

theorem siteEvent_off {P : List Nat} {q s : State} (i code sev page : Nat) (t : List RegDef) (sub n : Nat) (h : Off P q s) (hP : logKeys ⊆ P) :
    Off P q (siteEvent s i code sev page t sub n) := logAdd_off _ _ h hP

theorem hubEvent_off {P : List Nat} {q s : State} (i code sev page : Nat) (t : List RegDef) (sub : Nat) (h : Off P q s) (hP : logKeys ⊆ P) :
    Off P q (hubEvent s i code sev page t sub) := logAdd_off _ _ h hP

theorem regionEvent_off {P : List Nat} {q s : State} (i code sev page : Nat) (t : List RegDef) (n sub : Nat) (h : Off P q s) (hP : logKeys ⊆ P) :
    Off P q (regionEvent s i code sev page t n sub) := logAdd_off _ _ h hP

theorem panelEvent_off {P : List Nat} {q s : State} (code sev page : Nat) (t : List RegDef) (sub n : Nat) (h : Off P q s) (hP : logKeys ⊆ P) :
    Off P q (panelEvent s code sev page t sub n) := logAdd_off _ _ h hP

theorem pfVector_regs (s : State) (b : Nat) : (pfVector s b).regs = s.regs := by
  unfold pfVector
  simp only
  split <;> rfl

theorem pfSet_off {P : List Nat} {q s : State} (b : Nat) (h : Off P q s) (hP : fldKey idP (pfBit b) ∈ P) : Off P q (pfSet s b) := by
  unfold pfSet
  exact Off.ite (Off.same (h.wr hP) (pfVector_regs _ _)) (h.wr hP)

theorem faultRegion_regs (s : State) (r fc k : Nat) : (faultRegion s r fc k).regs = s.regs := by
  unfold faultRegion; split <;> rfl

theorem faultRegion_off {P : List Nat} {q s : State} (r fc k : Nat) (h : Off P q s) : Off P q (faultRegion s r fc k) :=
  h.same (faultRegion_regs ..)

end Sys2Proof.Machine
end

