-- ==== Sys2Proof/Laws/MemIs.lean ====
section
/-! SUPPORT. Which operations change no byte and no mark of memory. -/

namespace Sys2Proof.Machine

/-- `t` has the memory of `q`. -/
structure MemIs (q t : State) : Prop where
  mem : t.mem = q.mem

theorem MemIs.refl (q : State) : MemIs q q := ⟨rfl⟩

theorem MemIs.trans {q s t : State} (h : MemIs q s) (g : MemIs s t) : MemIs q t := ⟨g.mem.trans h.mem⟩

theorem MemIs.same {q s : State} (t : State) (h : MemIs q s) (hm : t.mem = s.mem := by rfl) : MemIs q t := ⟨hm.trans h.mem⟩

theorem MemIs.withRegs {q s : State} (h : MemIs q s) (r : Tab Nat) : MemIs q { s with regs := r } := ⟨h.mem⟩

theorem MemIs.cut {q x : State} {P : Prop} (h : MemIs q x) (k : MemIs q x → P) : P := k h

theorem MemIs.ite {q a b : State} {c : Prop} [Decidable c] (ha : MemIs q a) (hb : MemIs q b) : MemIs q (if c then a else b) := by
  split <;> assumption

theorem MemIs.iteFst {α : Type} {q : State} {a b : State × α} {c : Prop} [Decidable c] (ha : MemIs q a.1) (hb : MemIs q b.1) :
    MemIs q (if c then a else b).1 := by split <;> assumption

theorem MemIs.foldl {α : Type} {q s : State} {g : State → α → State} {l : List α} (hg : ∀ s a, MemIs q s → MemIs q (g s a))
    (h : MemIs q s) : MemIs q (l.foldl g s) := by
  induction l generalizing s with
  | nil => exact h
  | cons a l ih => exact ih (hg _ _ h)

theorem MemIs.foldlFst {α β : Type} {q : State} {p : State × β} {g : State × β → α → State × β} {l : List α}
    (hg : ∀ p a, MemIs q p.1 → MemIs q (g p a).1) (h : MemIs q p.1) : MemIs q (l.foldl g p).1 := by
  induction l generalizing p with
  | nil => exact h
  | cons a l ih => exact ih (hg _ _ h)

theorem MemIs.upTo {q s : State} {g : State → Nat → State} {n : Nat} (hg : ∀ s a, MemIs q s → MemIs q (g s a))
    (h : MemIs q s) : MemIs q (Sys2Proof.upTo n g s) := MemIs.foldl hg h

/-- What a table of pairs gives. -/
theorem MemIs.fold {α β : Type} {P : β → Prop} {g : β → α → β} {l : List α} {b : β} (hg : ∀ b a, P b → P (g b a)) (h : P b) :
    P (l.foldl g b) := by
  induction l generalizing b with
  | nil => exact h
  | cons a l ih => exact ih (hg _ _ h)

/-- A literal that takes the memory of `s`. -/
theorem MemIs.lit {q s : State} {pending_ : List Instr} {regs_ : Tab Nat} {out_ : List Out} {cores_ : Tab Core} {sites_ : Tab Site} {regions_ : Tab Region}
    {timers_ : Tab (Nat × Nat)} {tenths_ : Nat} {rcnt_ : Nat} {alwaysOn_ : Bool} {rootOn_ : Bool} {pfNum_ : Nat}
    {pfDen_ : Nat} {pfMs_ : Nat} {inputOv_ : Bool} {shutdown_ : Bool} {outOfService_ : Bool} {hubDom_ : Tab Nat}
    {busErr_ : Option (Nat × Nat × Nat)} {holdover_ : KeySet} {coolant_ : Tab Nat} {pendBa_ : List (Nat × Nat × Nat
    × Nat)} {logRam_ : List LogRec} {logFlash_ : List LogRec} {logLost_ : Nat} {drawn_ : Nat} {streams_ : Tab
    Stream} {ctxs_ : Tab Ctx} {hubs_ : Tab Hub} {optics_ : Tab Port} {twin_ : Twin} {shelfTag_ : Nat} {loopTag_ :
    Nat} {rackTag_ : Nat} {up_ : Nat} {flash_ : Tab (List Nat)} {fwA_ : FwSlot} {fwB_ : FwSlot} {restart_ : Option
    Restart} {bring_ : Bring} {lanes_ : Tab (Nat × Nat)} {mute_ : KeySet} {heldX16_ : KeySet} {expired_ : KeySet}
    {remapSites_ : List Nat} :
    MemIs q { pending := pending_, regs := regs_, mem := s.mem, out := out_, cores := cores_, sites := sites_
              regions := regions_, timers := timers_, tenths := tenths_, rcnt := rcnt_, alwaysOn := alwaysOn_
              rootOn := rootOn_, pfNum := pfNum_, pfDen := pfDen_, pfMs := pfMs_, inputOv := inputOv_, shutdown := shutdown_
              outOfService := outOfService_, hubDom := hubDom_, busErr := busErr_, holdover := holdover_
              coolant := coolant_, pendBa := pendBa_, logRam := logRam_, logFlash := logFlash_, logLost := logLost_
              drawn := drawn_, streams := streams_, ctxs := ctxs_, hubs := hubs_, optics := optics_, twin := twin_
              shelfTag := shelfTag_, loopTag := loopTag_, rackTag := rackTag_, up := up_, flash := flash_, fwA := fwA_
              fwB := fwB_, restart := restart_, bring := bring_, lanes := lanes_, mute := mute_, heldX16 := heldX16_
              expired := expired_, remapSites := remapSites_ } ↔ MemIs q s :=
  ⟨fun h => ⟨h.mem⟩, fun h => ⟨h.mem⟩⟩

/-- Where an operation that may refuse answers a state, that state has the memory of `q`. -/
structure OptMemIs (q : State) (o : Option State) : Prop where
  keeps : ∀ t, o = some t → MemIs q t

theorem OptMemIs.none {q : State} : OptMemIs q Option.none := ⟨fun _ h => nomatch h⟩

theorem OptMemIs.some {q t : State} (h : MemIs q t) : OptMemIs q (Option.some t) := ⟨fun _ e => by cases e; exact h⟩

theorem OptMemIs.ite {q : State} {a b : Option State} {c : Prop} [Decidable c] (ha : OptMemIs q a) (hb : OptMemIs q b) :
    OptMemIs q (if c then a else b) := by split <;> assumption

theorem OptMemIs.get {q t : State} {o : Option State} (e : o = Option.some t) (h : OptMemIs q o) : MemIs q t := h.keeps t e

theorem OptMemIs.getD {q d : State} {o : Option State} (h : OptMemIs q o) (hd : MemIs q d) : MemIs q (o.getD d) := by
  cases o with
  | none => exact hd
  | some t => exact h.keeps t rfl

theorem State.wr_memIs (s : State) (page : Nat) (f : Fld) (v : Nat) {q : State} (h : MemIs q s) : MemIs q (s.wr page f v) := ⟨h.mem⟩

theorem State.emit_memIs (s : State) (o : Out) {q : State} (h : MemIs q s) : MemIs q (s.emit o) := ⟨h.mem⟩

theorem State.draw_memIs (s : State) (w : Nat) {q : State} (h : MemIs q s) : MemIs q (s.draw w).2 := ⟨h.mem⟩

end Sys2Proof.Machine
end

