-- ==== Sys2Proof/Laws/MemIsUnits.lean ====
section
/-! SUPPORT. Operations that change no byte and no mark of memory. -/

namespace Sys2Proof.Machine

theorem State.setBit_memIs (s : State) (page : Nat) (f : Fld) {q0 : State} (hK : MemIs q0 s) :
    MemIs q0 (State.setBit s page f) := by
  unfold State.setBit
  repeat' first
    | with_reducible assumption
    | (with_reducible apply State.wr_memIs)

theorem State.bump_memIs (s : State) (page : Nat) (f : Fld) (k : Nat) {q0 : State} (hK : MemIs q0 s) :
    MemIs q0 (State.bump s page f k) := by
  unfold State.bump
  repeat' first
    | with_reducible assumption
    | (with_reducible apply MemIs.ite)
    | (with_reducible apply State.wr_memIs)

theorem State.wrap_memIs (s : State) (page : Nat) (f : Fld) (k : Nat) {q0 : State} (hK : MemIs q0 s) :
    MemIs q0 (State.wrap s page f k) := by
  unfold State.wrap
  repeat' first
    | with_reducible assumption
    | (with_reducible apply State.wr_memIs)

theorem State.orBits_memIs (s : State) (page : Nat) (f : Fld) (m : Nat) {q0 : State} (hK : MemIs q0 s) :
    MemIs q0 (State.orBits s page f m) := by
  unfold State.orBits
  repeat' first
    | with_reducible assumption
    | (with_reducible apply State.wr_memIs)

theorem State.wrPair_memIs (s : State) (page : Nat) (f g : Fld) (v : Nat) {q0 : State} (hK : MemIs q0 s) :
    MemIs q0 (State.wrPair s page f g v) := by
  unfold State.wrPair
  repeat' first
    | with_reducible assumption
    | (with_reducible apply State.wr_memIs)

theorem State.setCore_memIs (s : State) (c : CoreId) (v : Core) {q0 : State} (hK : MemIs q0 s) :
    MemIs q0 (State.setCore s c v) := by
  unfold State.setCore
  repeat' first
    | with_reducible assumption
    | (simp -zeta only [↓MemIs.lit])

theorem State.setSite_memIs (s : State) (i : Nat) (v : Site) {q0 : State} (hK : MemIs q0 s) :
    MemIs q0 (State.setSite s i v) := by
  unfold State.setSite
  repeat' first
    | with_reducible assumption
    | (simp -zeta only [↓MemIs.lit])

theorem State.setRegion_memIs (s : State) (r : Nat) (v : Region) {q0 : State} (hK : MemIs q0 s) :
    MemIs q0 (State.setRegion s r v) := by
  unfold State.setRegion
  repeat' first
    | with_reducible assumption
    | (simp -zeta only [↓MemIs.lit])

theorem State.noteSp_memIs (s : State) (c : CoreId) (b l w0 words : Nat) {q0 : State} (hK : MemIs q0 s) :
    MemIs q0 (State.noteSp s c b l w0 words) := by
  unfold State.noteSp
  repeat' first
    | with_reducible assumption
    | (intro x; refine MemIs.cut (q := q0) (x := x) ?_ ?_; pick_goal 2; clear_value x; intro hx)
    | (lift_lets; intro x)
    | (intro x)
    | (with_reducible apply MemIs.ite)
    | (with_reducible apply State.bump_memIs)
    | (with_reducible apply State.setBit_memIs)
    | (with_reducible apply State.wr_memIs)

theorem logEnter_memIs (s : State) (tag rec : Nat) {q0 : State} (hK : MemIs q0 s) :
    MemIs q0 (logEnter s tag rec) := by
  unfold logEnter
  repeat' first
    | with_reducible assumption
    | (intro x; refine MemIs.cut (q := q0) (x := x) ?_ ?_; pick_goal 2; clear_value x; intro hx)
    | (lift_lets; intro x)
    | (intro x)
    | (with_reducible apply State.wr_memIs)
    | (dsimp -zeta only [x])
    | (simp -zeta only [↓MemIs.lit])

theorem logAdd_memIs (s : State) (tag rec : Nat) {q0 : State} (hK : MemIs q0 s) :
    MemIs q0 (logAdd s tag rec) := by
  unfold logAdd
  repeat' first
    | with_reducible assumption
    | (intro x; refine MemIs.cut (q := q0) (x := x) ?_ ?_; pick_goal 2; clear_value x; intro hx)
    | (lift_lets; intro x)
    | (with_reducible apply MemIs.ite)
    | (with_reducible apply State.bump_memIs)
    | (with_reducible apply State.setBit_memIs)
    | (with_reducible apply logEnter_memIs)
    | (simp -zeta only [↓MemIs.lit])

theorem logEvent_memIs (s : State) (code sev : Nat) (src : EvSrc) (count : Nat) (sub : Nat) {q0 : State} (hK : MemIs q0 s) :
    MemIs q0 (logEvent s code sev src count sub) := by
  unfold logEvent
  repeat' first
    | with_reducible assumption
    | (with_reducible apply logAdd_memIs)

theorem pfVector_memIs (s : State) (b : Nat) {q0 : State} (hK : MemIs q0 s) :
    MemIs q0 (pfVector s b) := by
  unfold pfVector
  repeat' first
    | with_reducible assumption
    | (lift_lets; intro x)
    | (intro x)
    | (with_reducible apply State.emit_memIs)
    | (dsimp -zeta only [x])
    | split

theorem pfSet_memIs (s : State) (b : Nat) {q0 : State} (hK : MemIs q0 s) :
    MemIs q0 (pfSet s b) := by
  unfold pfSet
  repeat' first
    | with_reducible assumption
    | (intro x; refine MemIs.cut (q := q0) (x := x) ?_ ?_; pick_goal 2; clear_value x; intro hx)
    | (lift_lets; intro x)
    | (with_reducible apply MemIs.ite)
    | (with_reducible apply State.wr_memIs)
    | (with_reducible apply pfVector_memIs)

theorem noteRow_memIs (s : State) (c : CoreId) (mode aq aoff i : Nat) {q0 : State} (hK : MemIs q0 s) :
    MemIs q0 (noteRow s c mode aq aoff i) := by
  unfold noteRow
  repeat' first
    | with_reducible assumption
    | (with_reducible apply State.noteSp_memIs)
    | split

theorem noteSlot_memIs (s : State) (c : CoreId) (m : Nat) {q0 : State} (hK : MemIs q0 s) :
    MemIs q0 (noteSlot s c m).1 := by
  unfold noteSlot
  repeat' first
    | with_reducible assumption
    | (intro x; refine MemIs.cut (q := q0) (x := x) ?_ ?_; pick_goal 2; clear_value x; intro hx)
    | (lift_lets; intro x)
    | (intro x)
    | (with_reducible apply MemIs.ite)
    | (with_reducible apply State.bump_memIs)
    | (with_reducible apply State.setBit_memIs)

theorem vxSeed_memIs (s : State) (c : CoreId) (imm : Nat) {q0 : State} (hK : MemIs q0 s) :
    MemIs q0 (vxSeed s c imm) := by
  unfold vxSeed
  repeat' first
    | with_reducible assumption
    | (with_reducible apply State.wr_memIs)

theorem timerRecord_memIs (s : State) (c : CoreId) (t cc ns : Nat) (co : Bool) {q0 : State} (hK : MemIs q0 s) :
    MemIs q0 (timerRecord s c t cc ns co) := by
  unfold timerRecord
  repeat' first
    | with_reducible assumption
    | (intro x; refine MemIs.cut (q := q0) (x := x) ?_ ?_; pick_goal 2; clear_value x; intro hx)
    | (lift_lets; intro x)
    | (intro x)
    | (with_reducible apply State.bump_memIs)
    | (with_reducible apply State.wr_memIs)

theorem timerRun_memIs (s : State) (c : CoreId) (t : Nat) (on : Bool) (cc ns : Nat) {q0 : State} (hK : MemIs q0 s) :
    MemIs q0 (timerRun s c t on cc ns) := by
  unfold timerRun
  repeat' first
    | with_reducible assumption
    | (intro x; refine MemIs.cut (q := q0) (x := x) ?_ ?_; pick_goal 2; clear_value x; intro hx)
    | (lift_lets; intro x)
    | (intro x)
    | (with_reducible apply State.wr_memIs)
    | (simp -zeta only [↓MemIs.lit])

theorem timerEvent_memIs (s : State) (c : CoreId) (t : Nat) (start stop : Bool) (cc ns : Nat) {q0 : State} (hK : MemIs q0 s) :
    MemIs q0 (timerEvent s c t start stop cc ns) := by
  unfold timerEvent
  repeat' first
    | with_reducible assumption
    | (intro x; refine MemIs.cut (q := q0) (x := x) ?_ ?_; pick_goal 2; clear_value x; intro hx)
    | (lift_lets; intro x; clear_value x)
    | (intro x; clear_value x)
    | (with_reducible apply MemIs.ite)
    | (with_reducible apply State.bump_memIs)
    | (with_reducible apply State.wr_memIs)
    | (with_reducible apply timerRecord_memIs)
    | (with_reducible apply timerRun_memIs)
    | split

theorem timerSource_memIs (s : State) (c : CoreId) (src : Nat) (only : Option Nat) (isStart isStop : Bool) (cc ns : Nat) {q0 : State} (hK : MemIs q0 s) :
    MemIs q0 (timerSource s c src only isStart isStop cc ns) := by
  unfold timerSource
  repeat' first
    | with_reducible assumption
    | (lift_lets; intro x)
    | (intro x)
    | (with_reducible apply MemIs.ite)
    | (with_reducible refine MemIs.upTo (fun _ _ _ => ?_) ?_)
    | (with_reducible apply timerEvent_memIs)

theorem timerFrame_memIs (s : State) (c : CoreId) (late : Bool) (cc ns : Nat) {q0 : State} (hK : MemIs q0 s) :
    MemIs q0 (timerFrame s c late cc ns) := by
  unfold timerFrame
  repeat' first
    | with_reducible assumption
    | (lift_lets; intro x)
    | (with_reducible apply MemIs.ite)
    | (with_reducible refine MemIs.upTo (fun _ _ _ => ?_) ?_)
    | (with_reducible apply timerEvent_memIs)

theorem badValue_memIs (s : State) (page off : Nat) {q0 : State} (hK : MemIs q0 s) :
    MemIs q0 (badValue s page off) := by
  unfold badValue
  repeat' first
    | with_reducible assumption
    | (with_reducible apply State.setBit_memIs)
    | (with_reducible apply State.wr_memIs)

theorem takenOr_memIs (s : State) (page off : Nat) (r : Option State) {q0 : State} (hK : MemIs q0 s)
    (hO : OptMemIs q0 r) : MemIs q0 (takenOr s page off r) := OptMemIs.getD hO (badValue_memIs _ _ _ hK)

theorem State.setHubDom_memIs (s : State) (h v : Nat) {q0 : State} (hK : MemIs q0 s) :
    MemIs q0 (State.setHubDom s h v) := by
  unfold State.setHubDom
  repeat' first
    | with_reducible assumption
    | (simp -zeta only [↓MemIs.lit])

theorem busErrorAt_memIs (s : State) (p h addr reason : Nat) (write : Bool) {q0 : State} (hK : MemIs q0 s) :
    MemIs q0 (busErrorAt s p h addr reason write) := by
  unfold busErrorAt
  repeat' first
    | with_reducible assumption
    | (intro x; refine MemIs.cut (q := q0) (x := x) ?_ ?_; pick_goal 2; clear_value x; intro hx)
    | (lift_lets; intro x; refine MemIs.cut (q := q0) (x := x) ?_ ?_; pick_goal 2; clear_value x; intro hx)
    | (with_reducible apply State.bump_memIs)
    | (with_reducible apply State.emit_memIs)
    | (with_reducible apply logEvent_memIs)
    | (with_reducible apply pfSet_memIs)
    | (dsimp -zeta only [x])
    | split
    | (simp -zeta only [↓MemIs.lit])

theorem busError_memIs (s : State) (p addr reason : Nat) (write : Bool) {q0 : State} (hK : MemIs q0 s) :
    MemIs q0 (busError s p addr reason write) := by
  unfold busError
  repeat' first
    | with_reducible assumption
    | (with_reducible apply busErrorAt_memIs)

theorem unknownWrite_memIs (s t : State) {q0 : State} (hK : MemIs q0 s) (hT0 : MemIs q0 t) : MemIs q0 (unknownWrite s t) := by
  unfold unknownWrite
  exact MemIs.same (s := if (Config.fresh t.drawn 1).toNat = 1 then t else s) _ (MemIs.ite hT0 hK)

theorem sideCount_memIs (s : State) (page : Nat) {q0 : State} (hK : MemIs q0 s) :
    MemIs q0 (sideCount s page) := by
  unfold sideCount
  repeat' first
    | with_reducible assumption
    | (intro x; refine MemIs.cut (q := q0) (x := x) ?_ ?_; pick_goal 2; clear_value x; intro hx)
    | (lift_lets; intro x)
    | (intro x)
    | (with_reducible apply MemIs.ite)
    | (with_reducible apply State.orBits_memIs)
    | (with_reducible apply State.setSite_memIs)

theorem hostPath_memIs (s : State) (page off : Nat) (t : State) {q0 : State} (hK : MemIs q0 s) (hT0 : MemIs q0 t) :
    MemIs q0 (hostPath s page off t) := by
  unfold hostPath
  repeat' first
    | with_reducible assumption
    | (lift_lets; intro x)
    | (intro x)
    | (with_reducible apply MemIs.ite)
    | (with_reducible apply busError_memIs)
    | (with_reducible apply sideCount_memIs)
    | (with_reducible apply unknownWrite_memIs)

theorem hostAct_memIs (s : State) (page off : Nat) (r : Option State) {q0 : State} (hK : MemIs q0 s) (hO : OptMemIs q0 r) :
    MemIs q0 (hostAct s page off r) := by
  unfold hostAct
  repeat' first
    | with_reducible assumption
    | (with_reducible apply hostPath_memIs)
    | (with_reducible apply takenOr_memIs)

theorem baWrite_memIs (s : State) (page r : Nat) (f : Fld) (v : Nat) {q0 : State} (hK : MemIs q0 s) :
    MemIs q0 (baWrite s page r f v) := by
  unfold baWrite
  repeat' first
    | with_reducible assumption
    | (simp -zeta only [↓MemIs.lit])

theorem noteApply_memIs (s : State) (page : Nat) (host : Bool) {q0 : State} (hK : MemIs q0 s) :
    MemIs q0 (noteApply s page host) := by
  unfold noteApply
  repeat' first
    | with_reducible assumption
    | (with_reducible apply State.wr_memIs)
    | (with_reducible apply State.wrap_memIs)

theorem applyBa_memIs (s : State) (host : Bool) (sel : Nat × Nat × Nat × Nat → Bool) {q0 : State} (hK : MemIs q0 s) :
    MemIs q0 (applyBa s host sel) := by
  unfold applyBa
  exact MemIs.foldl (fun s a h => noteApply_memIs _ _ _ h) ⟨hK.mem⟩

theorem applySite_memIs (s : State) (i : Nat) {q0 : State} (hK : MemIs q0 s) :
    MemIs q0 (applySite s i) := by
  unfold applySite
  repeat' first
    | with_reducible assumption
    | (with_reducible apply applyBa_memIs)

theorem applyRegion_memIs (s : State) (r : Nat) {q0 : State} (hK : MemIs q0 s) :
    MemIs q0 (applyRegion s r) := by
  unfold applyRegion
  repeat' first
    | with_reducible assumption
    | (with_reducible apply applyBa_memIs)

theorem siteEvent_memIs (s : State) (i code sev page : Nat) (table : List RegDef) (sub : Nat) (count : Nat) {q0 : State} (hK : MemIs q0 s) :
    MemIs q0 (siteEvent s i code sev page table sub count) := by
  unfold siteEvent
  repeat' first
    | with_reducible assumption
    | (with_reducible apply logEvent_memIs)

theorem hubEvent_memIs (s : State) (h code sev page : Nat) (table : List RegDef) (sub : Nat) {q0 : State} (hK : MemIs q0 s) :
    MemIs q0 (hubEvent s h code sev page table sub) := by
  unfold hubEvent
  repeat' first
    | with_reducible assumption
    | (with_reducible apply logEvent_memIs)

theorem regionEvent_memIs (s : State) (r code sev page : Nat) (table : List RegDef) (count : Nat) (sub : Nat) {q0 : State} (hK : MemIs q0 s) :
    MemIs q0 (regionEvent s r code sev page table count sub) := by
  unfold regionEvent
  repeat' first
    | with_reducible assumption
    | (with_reducible apply logEvent_memIs)

theorem panelEvent_memIs (s : State) (code sev page : Nat) (table : List RegDef) (sub : Nat) (count : Nat) {q0 : State} (hK : MemIs q0 s) :
    MemIs q0 (panelEvent s code sev page table sub count) := by
  unfold panelEvent
  repeat' first
    | with_reducible assumption
    | (with_reducible apply logEvent_memIs)

theorem faultRegion_memIs (s : State) (r fc k : Nat) {q0 : State} (hK : MemIs q0 s) :
    MemIs q0 (faultRegion s r fc k) := by
  unfold faultRegion
  repeat' first
    | with_reducible assumption
    | (lift_lets; intro x)
    | (with_reducible apply MemIs.ite)
    | (with_reducible apply State.setRegion_memIs)

theorem faultSite_memIs (s : State) (i : Nat) {q0 : State} (hK : MemIs q0 s) :
    MemIs q0 (faultSite s i) := by
  unfold faultSite
  repeat' first
    | with_reducible assumption
    | (with_reducible apply faultRegion_memIs)

theorem faultNow_memIs (s : State) (r : Nat) {q0 : State} (hK : MemIs q0 s) :
    MemIs q0 (faultNow s r) := by
  unfold faultNow
  repeat' first
    | with_reducible assumption
    | (with_reducible apply faultRegion_memIs)

theorem haltCore_memIs (s : State) (c : CoreId) {q0 : State} (hK : MemIs q0 s) :
    MemIs q0 (haltCore s c) := by
  unfold haltCore
  repeat' first
    | with_reducible assumption
    | (with_reducible apply MemIs.ite)
    | (with_reducible apply State.wr_memIs)

theorem haltPanel_memIs (s : State) {q0 : State} (hK : MemIs q0 s) :
    MemIs q0 (haltPanel s) := by
  unfold haltPanel
  repeat' first
    | with_reducible assumption
    | (lift_lets; intro x; refine MemIs.cut (q := q0) (x := x) ?_ ?_; pick_goal 2; clear_value x; intro hx)
    | (with_reducible apply MemIs.ite)
    | (with_reducible refine MemIs.foldl (fun _ _ _ => ?_) ?_)
    | (with_reducible refine MemIs.upTo (fun _ _ _ => ?_) ?_)
    | (with_reducible apply faultNow_memIs)
    | (with_reducible apply haltCore_memIs)

theorem panelError_memIs (s : State) (code : Nat) (hub : Bool) (idx : Nat) {q0 : State} (hK : MemIs q0 s) :
    MemIs q0 (panelError s code hub idx) := by
  unfold panelError
  repeat' first
    | with_reducible assumption
    | (intro x; refine MemIs.cut (q := q0) (x := x) ?_ ?_; pick_goal 2; clear_value x; intro hx)
    | (lift_lets; intro x; refine MemIs.cut (q := q0) (x := x) ?_ ?_; pick_goal 2; clear_value x; intro hx)
    | (with_reducible apply State.emit_memIs)
    | (with_reducible apply State.wr_memIs)
    | (with_reducible apply haltPanel_memIs)
    | (with_reducible apply logEvent_memIs)
    | (with_reducible apply pfSet_memIs)
    | (dsimp -zeta only [x])
    | (simp -zeta only [↓MemIs.lit])

theorem faultRow_memIs (s : State) (y : Nat) {q0 : State} (hK : MemIs q0 s) :
    MemIs q0 (faultRow s y) := by
  unfold faultRow
  repeat' first
    | with_reducible assumption
    | (with_reducible refine MemIs.foldl (fun _ _ _ => ?_) ?_)
    | (with_reducible apply faultSite_memIs)

theorem remapRefuse_memIs (s : State) (i : Nat) {q0 : State} (hK : MemIs q0 s) :
    MemIs q0 (remapRefuse s i) := by
  unfold remapRefuse
  repeat' first
    | with_reducible assumption
    | (intro x; refine MemIs.cut (q := q0) (x := x) ?_ ?_; pick_goal 2; clear_value x; intro hx)
    | (lift_lets; intro x)
    | (with_reducible apply MemIs.ite)
    | (with_reducible apply State.wr_memIs)
    | (simp -zeta only [↓MemIs.lit])

theorem siteFail_memIs (s : State) (i : Nat) (link : Bool) {q0 : State} (hK : MemIs q0 s) :
    MemIs q0 (siteFail s i link) := by
  unfold siteFail
  repeat' first
    | with_reducible assumption
    | (intro x; refine MemIs.cut (q := q0) (x := x) ?_ ?_; pick_goal 2; clear_value x; intro hx)
    | (lift_lets; intro x)
    | (intro x)
    | (with_reducible apply MemIs.ite)
    | (with_reducible apply State.orBits_memIs)
    | (with_reducible apply State.setSite_memIs)
    | (with_reducible apply State.wr_memIs)
    | (with_reducible apply faultRow_memIs)
    | (with_reducible apply remapRefuse_memIs)
    | (with_reducible apply siteEvent_memIs)
    | (simp -zeta only [↓MemIs.lit])

theorem suspect_memIs (s : State) (i : Nat) {q0 : State} (hK : MemIs q0 s) :
    MemIs q0 (suspect s i) := by
  unfold suspect
  repeat' first
    | with_reducible assumption
    | (intro x; refine MemIs.cut (q := q0) (x := x) ?_ ?_; pick_goal 2; clear_value x; intro hx)
    | (lift_lets; intro x)
    | (intro x)
    | (with_reducible apply MemIs.ite)
    | (with_reducible apply State.bump_memIs)
    | (with_reducible apply State.orBits_memIs)
    | (with_reducible apply State.setBit_memIs)
    | (with_reducible apply State.setRegion_memIs)
    | (with_reducible apply State.setSite_memIs)
    | (with_reducible apply baWrite_memIs)
    | (with_reducible apply siteEvent_memIs)
    | (with_reducible apply siteFail_memIs)

theorem enterSlack_memIs (s : State) (i t : Nat) {q0 : State} (hK : MemIs q0 s) :
    MemIs q0 (enterSlack s i t) := by
  unfold enterSlack
  repeat' first
    | with_reducible assumption
    | (lift_lets; intro x)
    | (with_reducible apply MemIs.ite)
    | (with_reducible refine MemIs.foldl (fun _ _ _ => ?_) ?_)
    | (with_reducible apply State.wr_memIs)
    | (with_reducible apply timerSource_memIs)

theorem State.wrAll_memIs (s : State) (page v : Nat) (fs : List Fld) {q0 : State} (hK : MemIs q0 s) :
    MemIs q0 (State.wrAll s page v fs) := by
  unfold State.wrAll
  repeat' first
    | with_reducible assumption
    | (with_reducible refine MemIs.foldl (fun _ _ _ => ?_) ?_)
    | (with_reducible apply State.wr_memIs)

theorem clearTimers_memIs (s : State) (i : Nat) {q0 : State} (hK : MemIs q0 s) : MemIs q0 (clearTimers s i) := by
  unfold clearTimers
  extract_lets p s1 s2
  have h1 : MemIs q0 s1 := MemIs.upTo (fun s a h => State.wr_memIs _ _ _ _ h) hK
  have h2 : MemIs q0 s2 := h1.withRegs _
  exact MemIs.lit.mpr h2

theorem clearCounts_memIs (s : State) (i : Nat) {q0 : State} (hK : MemIs q0 s) :
    MemIs q0 (clearCounts s i) := by
  unfold clearCounts
  repeat' first
    | with_reducible assumption
    | (intro x; refine MemIs.cut (q := q0) (x := x) ?_ ?_; pick_goal 2; clear_value x; intro hx)
    | (lift_lets; intro x; refine MemIs.cut (q := q0) (x := x) ?_ ?_; pick_goal 2; clear_value x; intro hx)
    | (with_reducible refine MemIs.upTo (fun _ _ _ => ?_) ?_)
    | (with_reducible apply State.wrAll_memIs)
    | (with_reducible apply clearTimers_memIs)

end Sys2Proof.Machine
end

