-- ==== Sys2Proof/Laws/MemIsCore.lean ====
section
/-! SUPPORT. Operations that change no byte and no mark of memory. -/

namespace Sys2Proof.Machine

theorem showUse_memIs (s : State) (t : Nat) {q0 : State} (hK : MemIs q0 s) :
    MemIs q0 (showUse s t) := by
  unfold showUse
  repeat' first
    | with_reducible assumption
    | (lift_lets; intro x)
    | (with_reducible apply State.wr_memIs)

theorem recRead_memIs (s : State) (t : Nat) {q0 : State} (hK : MemIs q0 s) :
    MemIs q0 (recRead s t) := by
  unfold recRead
  repeat' first
    | with_reducible assumption
    | (lift_lets; intro x; refine MemIs.cut (q := q0) (x := x) ?_ ?_; pick_goal 2; clear_value x; intro hx)
    | (with_reducible apply MemIs.ite)
    | (with_reducible apply panelEvent_memIs)
    | (with_reducible apply showUse_memIs)

theorem recPut_memIs (s : State) (t : Nat) (body : List Nat) (ok : Bool) {q0 : State} (hK : MemIs q0 s) :
    MemIs q0 (recPut s t body ok) := by
  unfold recPut
  repeat' first
    | with_reducible assumption
    | (intro x; refine MemIs.cut (q := q0) (x := x) ?_ ?_; pick_goal 2; clear_value x; intro hx)
    | (lift_lets; intro x)
    | (intro x)
    | (with_reducible apply MemIs.ite)
    | (with_reducible apply State.emit_memIs)
    | (with_reducible apply panelEvent_memIs)
    | (with_reducible apply showUse_memIs)
    | (dsimp -zeta only [x])
    | (simp -zeta only [↓MemIs.lit])

theorem showLics_memIs (s : State) {q0 : State} (hK : MemIs q0 s) :
    MemIs q0 (showLics s) := by
  unfold showLics
  repeat' first
    | with_reducible assumption
    | (lift_lets; intro x)
    | (with_reducible apply State.wr_memIs)

theorem evalRegions_memIs (s : State) {q0 : State} (hK : MemIs q0 s) :
    MemIs q0 (evalRegions s) := by
  unfold evalRegions
  repeat' first
    | with_reducible assumption
    | (intro x; refine MemIs.cut (q := q0) (x := x) ?_ ?_; pick_goal 2; clear_value x; intro hx)
    | (lift_lets; intro x)
    | (intro x)
    | (with_reducible apply MemIs.ite)
    | (with_reducible apply State.setBit_memIs)
    | (with_reducible apply State.wr_memIs)
    | (with_reducible apply panelEvent_memIs)

theorem State.setFw_memIs (s : State) (k : Nat) (f : FwSlot) {q0 : State} (hK : MemIs q0 s) :
    MemIs q0 (State.setFw s k f) := by
  unfold State.setFw
  repeat' first
    | with_reducible assumption
    | (with_reducible apply MemIs.ite)
    | (simp -zeta only [↓MemIs.lit])

theorem regsReset_memIs (s : State) (p : Nat → Bool) {q0 : State} (hK : MemIs q0 s) : MemIs q0 (regsReset s p) := by
  unfold regsReset
  exact ⟨hK.mem⟩

theorem showFree_memIs (s : State) (i : Nat) {q0 : State} (hK : MemIs q0 s) :
    MemIs q0 (showFree s i) := by
  unfold showFree
  repeat' first
    | with_reducible assumption
    | (with_reducible apply State.wr_memIs)

theorem couple_memIs (s : State) (i : Nat) {q0 : State} (hK : MemIs q0 s) :
    MemIs q0 (couple s i) := by
  unfold couple
  repeat' first
    | with_reducible assumption
    | (intro x; refine MemIs.cut (q := q0) (x := x) ?_ ?_; pick_goal 2; clear_value x; intro hx)
    | (lift_lets; intro x; refine MemIs.cut (q := q0) (x := x) ?_ ?_; pick_goal 2; clear_value x; intro hx)
    | (with_reducible apply State.wr_memIs)
    | (with_reducible apply showFree_memIs)
    | (dsimp -zeta only [x])
    | split

theorem uncouple_memIs (s : State) (i : Nat) {q0 : State} (hK : MemIs q0 s) :
    MemIs q0 (uncouple s i) := by
  unfold uncouple
  repeat' first
    | with_reducible assumption
    | (lift_lets; intro x; refine MemIs.cut (q := q0) (x := x) ?_ ?_; pick_goal 2; clear_value x; intro hx)
    | (with_reducible apply State.wr_memIs)
    | (with_reducible apply showFree_memIs)

theorem meshLock_memIs (s : State) (i : Nat) {q0 : State} (hK : MemIs q0 s) :
    MemIs q0 (meshLock s i) := by
  unfold meshLock
  repeat' first
    | with_reducible assumption
    | (with_reducible apply MemIs.ite)
    | (with_reducible apply State.wr_memIs)

theorem lockLost_memIs (s : State) (i d : Nat) (phase : Int) {q0 : State} (hK : MemIs q0 s) :
    MemIs q0 (lockLost s i d phase) := by
  unfold lockLost
  repeat' first
    | with_reducible assumption
    | (intro x; refine MemIs.cut (q := q0) (x := x) ?_ ?_; pick_goal 2; clear_value x; intro hx)
    | (lift_lets; intro x)
    | (intro x)
    | (with_reducible apply MemIs.ite)
    | (with_reducible apply State.bump_memIs)
    | (with_reducible apply State.setBit_memIs)
    | (with_reducible apply State.setSite_memIs)
    | (with_reducible apply State.wr_memIs)
    | (with_reducible apply faultSite_memIs)
    | (with_reducible apply showFree_memIs)
    | (with_reducible apply siteEvent_memIs)
    | (with_reducible apply suspect_memIs)

theorem addLag_memIs (s : State) (i k : Nat) {q0 : State} (hK : MemIs q0 s) :
    MemIs q0 (addLag s i k) := by
  unfold addLag
  repeat' first
    | with_reducible assumption
    | (lift_lets; intro x)
    | (intro x)
    | (with_reducible apply State.setSite_memIs)
    | (with_reducible apply State.wr_memIs)

theorem addLoss_memIs (s : State) (i u d : Nat) {q0 : State} (hK : MemIs q0 s) :
    MemIs q0 (addLoss s i u d) := by
  unfold addLoss
  repeat' first
    | with_reducible assumption
    | (intro x; refine MemIs.cut (q := q0) (x := x) ?_ ?_; pick_goal 2; clear_value x; intro hx)
    | (lift_lets; intro x)
    | (intro x)
    | (with_reducible apply State.setSite_memIs)
    | (with_reducible apply addLag_memIs)

theorem droop_memIs (s : State) (i v loss : Nat) {q0 : State} (hK : MemIs q0 s) :
    MemIs q0 (droop s i v loss) := by
  unfold droop
  repeat' first
    | with_reducible assumption
    | (intro x; refine MemIs.cut (q := q0) (x := x) ?_ ?_; pick_goal 2; clear_value x; intro hx)
    | (lift_lets; intro x)
    | (intro x)
    | (with_reducible apply MemIs.ite)
    | (with_reducible refine MemIs.foldl (fun _ _ _ => ?_) ?_)
    | (with_reducible apply State.setBit_memIs)
    | (with_reducible apply addLoss_memIs)

theorem refLoss_memIs (s : State) (h : Nat) {q0 : State} (hK : MemIs q0 s) :
    MemIs q0 (refLoss s h) := by
  unfold refLoss
  repeat' first
    | with_reducible assumption
    | (intro x; refine MemIs.cut (q := q0) (x := x) ?_ ?_; pick_goal 2; clear_value x; intro hx)
    | (lift_lets; intro x; refine MemIs.cut (q := q0) (x := x) ?_ ?_; pick_goal 2; clear_value x; intro hx)
    | (with_reducible apply MemIs.ite)
    | (with_reducible refine MemIs.foldl (fun _ _ _ => ?_) ?_)
    | (with_reducible apply State.bump_memIs)
    | (with_reducible apply State.setBit_memIs)
    | (with_reducible apply hubEvent_memIs)
    | (dsimp -zeta only [x])
    | (simp -zeta only [↓MemIs.lit])

theorem refRelock_memIs (s : State) (h : Nat) {q0 : State} (hK : MemIs q0 s) :
    MemIs q0 (refRelock s h) := by
  unfold refRelock
  repeat' first
    | with_reducible assumption
    | (simp -zeta only [↓MemIs.lit])

theorem holdoverExpiry_memIs (s : State) (h : Nat) {q0 : State} (hK : MemIs q0 s) :
    MemIs q0 (holdoverExpiry s h) := by
  unfold holdoverExpiry
  repeat' first
    | with_reducible assumption
    | (intro x; refine MemIs.cut (q := q0) (x := x) ?_ ?_; pick_goal 2; clear_value x; intro hx)
    | (lift_lets; intro x)
    | (intro x)
    | (with_reducible apply MemIs.ite)
    | (with_reducible refine MemIs.foldl (fun _ _ _ => ?_) ?_)
    | (with_reducible apply State.wr_memIs)
    | (with_reducible apply faultNow_memIs)
    | (with_reducible apply showFree_memIs)

theorem clockAlarm_memIs (s : State) (i : Nat) (f : Fld) {q0 : State} (hK : MemIs q0 s) :
    MemIs q0 (clockAlarm s i f) := by
  unfold clockAlarm
  repeat' first
    | with_reducible assumption
    | (intro x; refine MemIs.cut (q := q0) (x := x) ?_ ?_; pick_goal 2; clear_value x; intro hx)
    | (lift_lets; intro x)
    | (intro x)
    | (with_reducible apply MemIs.ite)
    | (with_reducible apply State.setBit_memIs)
    | (with_reducible apply State.setSite_memIs)
    | (with_reducible apply siteEvent_memIs)
    | (with_reducible apply suspect_memIs)

theorem jitterSample_memIs (s : State) (i : Nat) (dev : Int) {q0 : State} (hK : MemIs q0 s) :
    MemIs q0 (jitterSample s i dev) := by
  unfold jitterSample
  repeat' first
    | with_reducible assumption
    | (intro x; refine MemIs.cut (q := q0) (x := x) ?_ ?_; pick_goal 2; clear_value x; intro hx)
    | (lift_lets; intro x)
    | (intro x)
    | (with_reducible apply MemIs.ite)
    | (with_reducible apply State.bump_memIs)
    | (with_reducible apply clockAlarm_memIs)

theorem dutyWindow_memIs (s : State) (i : Nat) (core : Bool) (frac : Int) {q0 : State} (hK : MemIs q0 s) :
    MemIs q0 (dutyWindow s i core frac) := by
  unfold dutyWindow
  repeat' first
    | with_reducible assumption
    | (intro x; refine MemIs.cut (q := q0) (x := x) ?_ ?_; pick_goal 2; clear_value x; intro hx)
    | (lift_lets; intro x)
    | (with_reducible apply MemIs.ite)
    | (with_reducible apply State.bump_memIs)
    | (with_reducible apply State.wr_memIs)
    | (with_reducible apply clockAlarm_memIs)

theorem pwrErr_memIs (s : State) (b : Nat) {q0 : State} (hK : MemIs q0 s) :
    MemIs q0 (pwrErr s b) := by
  unfold pwrErr
  repeat' first
    | with_reducible assumption
    | (with_reducible apply State.orBits_memIs)

theorem powEvent_memIs (s : State) (code sev b : Nat) {q0 : State} (hK : MemIs q0 s) :
    MemIs q0 (powEvent s code sev b) := by
  unfold powEvent
  repeat' first
    | with_reducible assumption
    | (with_reducible apply panelEvent_memIs)

theorem showLevel_memIs (s : State) (r : Nat) {q0 : State} (hK : MemIs q0 s) :
    MemIs q0 (showLevel s r) := by
  unfold showLevel
  repeat' first
    | with_reducible assumption
    | (intro x; refine MemIs.cut (q := q0) (x := x) ?_ ?_; pick_goal 2; clear_value x; intro hx)
    | (lift_lets; intro x)
    | (intro x)
    | (with_reducible apply MemIs.ite)
    | (with_reducible apply State.wr_memIs)
    | (with_reducible apply pfSet_memIs)
    | (with_reducible apply regionEvent_memIs)

theorem showLevels_memIs (s : State) {q0 : State} (hK : MemIs q0 s) :
    MemIs q0 (showLevels s) := by
  unfold showLevels
  repeat' first
    | with_reducible assumption
    | (lift_lets; intro x; refine MemIs.cut (q := q0) (x := x) ?_ ?_; pick_goal 2; clear_value x; intro hx)
    | (with_reducible apply MemIs.ite)
    | (with_reducible refine MemIs.upTo (fun _ _ _ => ?_) ?_)
    | (with_reducible apply State.wr_memIs)
    | (with_reducible apply showLevel_memIs)

theorem noteSensors_memIs (s : State) (i : Nat) (ts : List Int) {q0 : State} (hK : MemIs q0 s) :
    MemIs q0 (noteSensors s i ts) := by
  unfold noteSensors
  repeat' first
    | with_reducible assumption
    | (intro x; refine MemIs.cut (q := q0) (x := x) ?_ ?_; pick_goal 2; clear_value x; intro hx)
    | (lift_lets; intro x)
    | (intro x)
    | (with_reducible apply MemIs.ite)
    | (with_reducible apply State.setBit_memIs)
    | (with_reducible apply State.setSite_memIs)
    | (with_reducible apply State.wr_memIs)

theorem setCond_memIs (s : State) (c : ThermCond) (l : Nat) {q0 : State} (hK : MemIs q0 s) :
    MemIs q0 (setCond s c l) := by
  unfold setCond
  repeat' first
    | with_reducible assumption
    | (lift_lets; intro x; refine MemIs.cut (q := q0) (x := x) ?_ ?_; pick_goal 2; clear_value x; intro hx)
    | (with_reducible apply MemIs.ite)
    | (with_reducible apply State.wr_memIs)
    | (with_reducible apply showLevel_memIs)
    | (with_reducible apply showLevels_memIs)
    | split
    | (simp -zeta only [↓MemIs.lit])

theorem noteCond_memIs (s : State) (c : ThermCond) {q0 : State} (hK : MemIs q0 s) :
    MemIs q0 (noteCond s c) := by
  unfold noteCond
  repeat' first
    | with_reducible assumption
    | (with_reducible apply MemIs.ite)
    | (with_reducible apply noteSensors_memIs)
    | (with_reducible apply pwrErr_memIs)
    | split

theorem thermalUp_memIs (s : State) (c : ThermCond) {q0 : State} (hK : MemIs q0 s) :
    MemIs q0 (thermalUp s c) := by
  unfold thermalUp
  repeat' first
    | with_reducible assumption
    | (lift_lets; intro x; refine MemIs.cut (q := q0) (x := x) ?_ ?_; pick_goal 2; clear_value x; intro hx)
    | (intro x)
    | (with_reducible apply MemIs.ite)
    | (with_reducible apply noteCond_memIs)
    | (with_reducible apply setCond_memIs)

theorem thermalDown_memIs (s : State) (c : ThermCond) {q0 : State} (hK : MemIs q0 s) :
    MemIs q0 (thermalDown s c) := by
  unfold thermalDown
  repeat' first
    | with_reducible assumption
    | (lift_lets; intro x; refine MemIs.cut (q := q0) (x := x) ?_ ?_; pick_goal 2; clear_value x; intro hx)
    | (intro x)
    | (with_reducible apply MemIs.ite)
    | (with_reducible apply noteCond_memIs)
    | (with_reducible apply setCond_memIs)

theorem domOff_memIs (s : State) (i d : Nat) {q0 : State} (hK : MemIs q0 s) :
    MemIs q0 (domOff s i d) := by
  unfold domOff
  repeat' first
    | with_reducible assumption
    | (intro x; refine MemIs.cut (q := q0) (x := x) ?_ ?_; pick_goal 2; clear_value x; intro hx)
    | (lift_lets; intro x)
    | (with_reducible apply MemIs.ite)
    | (with_reducible apply State.wr_memIs)

theorem allOff_memIs (s : State) {q0 : State} (hK : MemIs q0 s) :
    MemIs q0 (allOff s) := by
  unfold allOff
  repeat' first
    | with_reducible assumption
    | (intro x; refine MemIs.cut (q := q0) (x := x) ?_ ?_; pick_goal 2; clear_value x; intro hx)
    | (lift_lets; intro x; refine MemIs.cut (q := q0) (x := x) ?_ ?_; pick_goal 2; clear_value x; intro hx)
    | (lift_lets; intro x)
    | (intro x)
    | (with_reducible apply MemIs.ite)
    | (with_reducible refine MemIs.upTo (fun _ _ _ => ?_) ?_)
    | (with_reducible apply State.setSite_memIs)
    | (with_reducible apply State.wr_memIs)
    | (with_reducible apply domOff_memIs)
    | (simp -zeta only [↓MemIs.lit])

theorem junctionTrip_memIs (s : State) (i : Nat) {q0 : State} (hK : MemIs q0 s) :
    MemIs q0 (junctionTrip s i) := by
  unfold junctionTrip
  repeat' first
    | with_reducible assumption
    | (intro x; refine MemIs.cut (q := q0) (x := x) ?_ ?_; pick_goal 2; clear_value x; intro hx)
    | (lift_lets; intro x)
    | (intro x)
    | (with_reducible apply MemIs.ite)
    | (with_reducible apply State.setBit_memIs)
    | (with_reducible apply domOff_memIs)
    | (with_reducible apply siteEvent_memIs)
    | (with_reducible apply siteFail_memIs)

theorem railOff_memIs (s : State) (u : PowerUnit) (d : Nat) (f : Fld) {q0 : State} (hK : MemIs q0 s) :
    MemIs q0 (railOff s u d f) := by
  unfold railOff
  repeat' first
    | with_reducible assumption
    | (lift_lets; intro x; refine MemIs.cut (q := q0) (x := x) ?_ ?_; pick_goal 2; clear_value x; intro hx)
    | (lift_lets; intro x)
    | (with_reducible apply State.setBit_memIs)
    | (with_reducible apply State.setHubDom_memIs)
    | (with_reducible apply domOff_memIs)
    | (with_reducible apply hubEvent_memIs)
    | (with_reducible apply siteEvent_memIs)
    | (with_reducible apply siteFail_memIs)
    | split

theorem vsetUpdate_memIs (s : State) (i iNow : Nat) {q0 : State} (hK : MemIs q0 s) :
    MemIs q0 (vsetUpdate s i iNow) := by
  unfold vsetUpdate
  repeat' first
    | with_reducible assumption
    | (intro x; refine MemIs.cut (q := q0) (x := x) ?_ ?_; pick_goal 2; clear_value x; intro hx)
    | (lift_lets; intro x)
    | (intro x)
    | (with_reducible apply MemIs.ite)
    | (with_reducible apply State.setBit_memIs)
    | (with_reducible apply State.wr_memIs)
    | (with_reducible apply siteEvent_memIs)
    | (with_reducible apply suspect_memIs)
    | (dsimp -zeta only [x])
    | split

theorem railSample_memIs (s : State) (i rail v : Nat) {q0 : State} (hK : MemIs q0 s) :
    MemIs q0 (railSample s i rail v) := by
  unfold railSample
  repeat' first
    | with_reducible assumption
    | (lift_lets; intro x)
    | (intro x)
    | (with_reducible apply MemIs.ite)
    | (with_reducible apply State.setSite_memIs)

theorem noteCurrents_memIs (s : State) (i iLogic iArray iLink iMem : Nat) {q0 : State} (hK : MemIs q0 s) :
    MemIs q0 (noteCurrents s i iLogic iArray iLink iMem) := by
  unfold noteCurrents
  repeat' first
    | with_reducible assumption
    | (lift_lets; intro x)
    | (with_reducible apply State.wr_memIs)

theorem minClear_memIs (s : State) (i m : Nat) {q0 : State} (hK : MemIs q0 s) :
    MemIs q0 (minClear s i m) := by
  unfold minClear
  repeat' first
    | with_reducible assumption
    | (lift_lets; intro x)
    | (with_reducible apply State.setSite_memIs)

theorem panelFactor_memIs (s : State) (pin : Nat) {q0 : State} (hK : MemIs q0 s) :
    MemIs q0 (panelFactor s pin) := by
  unfold panelFactor
  repeat' first
    | with_reducible assumption
    | (lift_lets; intro x)
    | (with_reducible apply MemIs.ite)
    | (with_reducible apply pwrErr_memIs)
    | (dsimp -zeta only [x])
    | (simp -zeta only [↓MemIs.lit])

theorem notePanel_memIs (s : State) (pin vin : Nat) (inlet outlet : Int) {q0 : State} (hK : MemIs q0 s) :
    MemIs q0 (notePanel s pin vin inlet outlet) := by
  unfold notePanel
  repeat' first
    | with_reducible assumption
    | (intro x; refine MemIs.cut (q := q0) (x := x) ?_ ?_; pick_goal 2; clear_value x; intro hx)
    | (lift_lets; intro x; refine MemIs.cut (q := q0) (x := x) ?_ ?_; pick_goal 2; clear_value x; intro hx)
    | (with_reducible apply State.wr_memIs)

theorem brownout_memIs (s : State) {q0 : State} (hK : MemIs q0 s) :
    MemIs q0 (brownout s) := by
  unfold brownout
  repeat' first
    | with_reducible assumption
    | (with_reducible apply allOff_memIs)
    | (with_reducible apply haltPanel_memIs)
    | (with_reducible apply powEvent_memIs)
    | (with_reducible apply pwrErr_memIs)

theorem panelShutdown_memIs (s : State) {q0 : State} (hK : MemIs q0 s) :
    MemIs q0 (panelShutdown s) := by
  unfold panelShutdown
  repeat' first
    | with_reducible assumption
    | (intro x; refine MemIs.cut (q := q0) (x := x) ?_ ?_; pick_goal 2; clear_value x; intro hx)
    | (lift_lets; intro x; refine MemIs.cut (q := q0) (x := x) ?_ ?_; pick_goal 2; clear_value x; intro hx)
    | (lift_lets; intro x)
    | (with_reducible apply MemIs.ite)
    | (with_reducible refine MemIs.upTo (fun _ _ _ => ?_) ?_)
    | (with_reducible apply State.setRegion_memIs)
    | (with_reducible apply allOff_memIs)
    | (with_reducible apply faultNow_memIs)
    | (with_reducible apply powEvent_memIs)
    | (with_reducible apply pwrErr_memIs)
    | (simp -zeta only [↓MemIs.lit])

theorem inputOver_memIs (s : State) {q0 : State} (hK : MemIs q0 s) :
    MemIs q0 (inputOver s) := by
  unfold inputOver
  repeat' first
    | with_reducible assumption
    | (intro x; refine MemIs.cut (q := q0) (x := x) ?_ ?_; pick_goal 2; clear_value x; intro hx)
    | (lift_lets; intro x; refine MemIs.cut (q := q0) (x := x) ?_ ?_; pick_goal 2; clear_value x; intro hx)
    | (with_reducible refine MemIs.upTo (fun _ _ _ => ?_) ?_)
    | (with_reducible apply State.wr_memIs)
    | (with_reducible apply powEvent_memIs)
    | (with_reducible apply pwrErr_memIs)
    | (simp -zeta only [↓MemIs.lit])

theorem trayReport_memIs (s : State) (inlet outlet : Int) (flow seq rsv : Nat) (pecOk : Bool) {q0 : State} (hK : MemIs q0 s) :
    MemIs q0 (trayReport s inlet outlet flow seq rsv pecOk) := by
  unfold trayReport
  repeat' first
    | with_reducible assumption
    | (intro x; refine MemIs.cut (q := q0) (x := x) ?_ ?_; pick_goal 2; clear_value x; intro hx)
    | (lift_lets; intro x)
    | (with_reducible apply MemIs.ite)
    | (with_reducible apply State.bump_memIs)
    | (with_reducible apply State.wr_memIs)

theorem trayLost_memIs (s : State) {q0 : State} (hK : MemIs q0 s) :
    MemIs q0 (trayLost s) := by
  unfold trayLost
  repeat' first
    | with_reducible assumption
    | (lift_lets; intro x; refine MemIs.cut (q := q0) (x := x) ?_ ?_; pick_goal 2; clear_value x; intro hx)
    | (with_reducible apply powEvent_memIs)
    | (with_reducible apply pwrErr_memIs)
    | (with_reducible apply showLevels_memIs)
    | (simp -zeta only [↓MemIs.lit])

theorem voteFix_memIs (s : State) (i f : Nat) (allDiffer : Bool) {q0 : State} (hK : MemIs q0 s) :
    MemIs q0 (voteFix s i f allDiffer) := by
  unfold voteFix
  repeat' first
    | with_reducible assumption
    | (intro x; refine MemIs.cut (q := q0) (x := x) ?_ ?_; pick_goal 2; clear_value x; intro hx)
    | (lift_lets; intro x)
    | (intro x)
    | (with_reducible apply MemIs.ite)
    | (with_reducible apply State.bump_memIs)
    | (with_reducible apply State.setBit_memIs)
    | (with_reducible apply State.setSite_memIs)
    | (with_reducible apply panelError_memIs)
    | (with_reducible apply siteEvent_memIs)
    | (with_reducible apply suspect_memIs)

theorem probeCycle_memIs (s : State) (i : Nat) {q0 : State} (hK : MemIs q0 s) :
    MemIs q0 (probeCycle s i) := by
  unfold probeCycle
  repeat' first
    | with_reducible assumption
    | (intro x; refine MemIs.cut (q := q0) (x := x) ?_ ?_; pick_goal 2; clear_value x; intro hx)
    | (lift_lets; intro x)
    | (intro x)
    | (with_reducible apply MemIs.ite)
    | (with_reducible apply State.setSite_memIs)
    | (with_reducible apply State.wr_memIs)
    | (with_reducible apply State.wrap_memIs)

theorem probeFailed_memIs (s : State) (c : CoreId) (k : Nat) {q0 : State} (hK : MemIs q0 s) :
    MemIs q0 (probeFailed s c k) := by
  unfold probeFailed
  repeat' first
    | with_reducible assumption
    | (intro x; refine MemIs.cut (q := q0) (x := x) ?_ ?_; pick_goal 2; clear_value x; intro hx)
    | (lift_lets; intro x)
    | (intro x)
    | (with_reducible apply MemIs.ite)
    | (with_reducible apply State.setBit_memIs)
    | (with_reducible apply State.setSite_memIs)
    | (with_reducible apply State.wr_memIs)
    | (with_reducible apply faultSite_memIs)
    | (with_reducible apply siteEvent_memIs)
    | (with_reducible apply siteFail_memIs)
    | (with_reducible apply suspect_memIs)

theorem probeItem_memIs (s : State) (c : CoreId) (good : Bool) {q0 : State} (hK : MemIs q0 s) :
    MemIs q0 (probeItem s c good) := by
  unfold probeItem
  repeat' first
    | with_reducible assumption
    | (intro x; refine MemIs.cut (q := q0) (x := x) ?_ ?_; pick_goal 2; clear_value x; intro hx)
    | (lift_lets; intro x)
    | (intro x)
    | (with_reducible apply MemIs.ite)
    | (with_reducible apply State.setSite_memIs)
    | (with_reducible apply probeCycle_memIs)
    | (with_reducible apply probeFailed_memIs)

theorem buddyDigest_memIs (s : State) (b : Nat) {q0 : State} (hK : MemIs q0 s) :
    MemIs q0 (buddyDigest s b) := by
  unfold buddyDigest
  repeat' first
    | with_reducible assumption
    | (lift_lets; intro x)
    | (intro x)
    | (with_reducible apply MemIs.ite)
    | (with_reducible apply State.setSite_memIs)

theorem vxOccupy_memIs (s : State) (c : CoreId) (vx t : Nat) {q0 : State} (hK : MemIs q0 s) :
    MemIs q0 (vxOccupy s c vx t) := by
  unfold vxOccupy
  repeat' first
    | with_reducible assumption
    | (lift_lets; intro x)
    | (intro x)
    | (with_reducible apply MemIs.ite)
    | (with_reducible apply State.setCore_memIs)

theorem noteCis_memIs (s : State) (i sl l : Nat) {q0 : State} (hK : MemIs q0 s) :
    MemIs q0 (noteCis s i sl l) := by
  unfold noteCis
  repeat' first
    | with_reducible assumption
    | (intro x; refine MemIs.cut (q := q0) (x := x) ?_ ?_; pick_goal 2; clear_value x; intro hx)
    | (lift_lets; intro x)
    | (intro x)
    | (with_reducible apply MemIs.ite)
    | (with_reducible apply State.bump_memIs)
    | (with_reducible apply State.setBit_memIs)
    | (with_reducible apply State.wr_memIs)

theorem noteWell_memIs (s : State) (i w : Nat) {q0 : State} (hK : MemIs q0 s) :
    MemIs q0 (noteWell s i w) := by
  unfold noteWell
  repeat' first
    | with_reducible assumption
    | (intro x; refine MemIs.cut (q := q0) (x := x) ?_ ?_; pick_goal 2; clear_value x; intro hx)
    | (lift_lets; intro x)
    | (intro x)
    | (with_reducible apply MemIs.ite)
    | (with_reducible apply State.bump_memIs)
    | (with_reducible apply State.setBit_memIs)
    | (with_reducible apply State.wr_memIs)

theorem noteLanding_memIs (s : State) (i : Nat) (hit : Bool) {q0 : State} (hK : MemIs q0 s) :
    MemIs q0 (noteLanding s i hit) := by
  unfold noteLanding
  repeat' first
    | with_reducible assumption
    | (lift_lets; intro x; refine MemIs.cut (q := q0) (x := x) ?_ ?_; pick_goal 2; clear_value x; intro hx)
    | (with_reducible apply MemIs.ite)
    | (with_reducible apply State.bump_memIs)
    | (with_reducible apply State.setBit_memIs)

theorem kickWindow_memIs (s : State) (c : CoreId) (wb pump t : Nat) {q0 : State} (hK : MemIs q0 s) :
    MemIs q0 (kickWindow s c wb pump t) := by
  unfold kickWindow
  repeat' first
    | with_reducible assumption
    | (lift_lets; intro x)
    | (intro x)
    | (with_reducible apply MemIs.ite)
    | (with_reducible apply State.setCore_memIs)
    | (with_reducible apply State.wr_memIs)

theorem atCycle_memIs (s : State) (i t : Nat) {q0 : State} (hK : MemIs q0 s) :
    MemIs q0 (atCycle s i t) := by
  unfold atCycle
  repeat' first
    | with_reducible assumption
    | (lift_lets; intro x)
    | (with_reducible apply State.setSite_memIs)

theorem digAdd_memIs (s : State) (i : Nat) (xs : List (Nat × DigItem)) {q0 : State} (hK : MemIs q0 s) :
    MemIs q0 (digAdd s i xs) := by
  unfold digAdd
  repeat' first
    | with_reducible assumption
    | (lift_lets; intro x)
    | (with_reducible apply MemIs.ite)
    | (with_reducible apply State.setSite_memIs)

theorem noteFetch_memIs (s : State) (c : CoreId) (p : Nat) {q0 : State} (hK : MemIs q0 s) :
    MemIs q0 (noteFetch s c p) := by
  unfold noteFetch
  repeat' first
    | with_reducible assumption
    | (lift_lets; intro x)
    | (with_reducible apply MemIs.ite)
    | (with_reducible apply State.setBit_memIs)

theorem showBusy_memIs (s : State) (c : CoreId) (t : Nat) {q0 : State} (hK : MemIs q0 s) :
    MemIs q0 (showBusy s c t) := by
  unfold showBusy
  repeat' first
    | with_reducible assumption
    | (intro x; refine MemIs.cut (q := q0) (x := x) ?_ ?_; pick_goal 2; clear_value x; intro hx)
    | (lift_lets; intro x)
    | (intro x)
    | (with_reducible apply State.wr_memIs)

end Sys2Proof.Machine
end

