-- ==== Sys2Proof/Laws/MemIsCourier.lean ====
section
/-! SUPPORT. Operations that change no byte and no mark of memory. -/

namespace Sys2Proof.Machine

theorem State.setHub_memIs (s : State) (h : Nat) (v : Hub) {q0 : State} (hK : MemIs q0 s) :
    MemIs q0 (State.setHub s h v) := by
  unfold State.setHub
  repeat' first
    | with_reducible assumption
    | (simp -zeta only [↓MemIs.lit])

theorem State.setStream_memIs (s : State) (ep k : Nat) (v : Stream) {q0 : State} (hK : MemIs q0 s) :
    MemIs q0 (State.setStream s ep k v) := by
  unfold State.setStream
  repeat' first
    | with_reducible assumption
    | (simp -zeta only [↓MemIs.lit])

theorem State.setCtx_memIs (s : State) (ep k : Nat) (v : Ctx) {q0 : State} (hK : MemIs q0 s) :
    MemIs q0 (State.setCtx s ep k v) := by
  unfold State.setCtx
  repeat' first
    | with_reducible assumption
    | (simp -zeta only [↓MemIs.lit])

theorem setStreamState_memIs (s : State) (ep k v : Nat) {q0 : State} (hK : MemIs q0 s) :
    MemIs q0 (setStreamState s ep k v) := by
  unfold setStreamState
  repeat' first
    | with_reducible assumption
    | (intro x; refine MemIs.cut (q := q0) (x := x) ?_ ?_; pick_goal 2; clear_value x; intro hx)
    | (lift_lets; intro x)
    | (intro x)
    | (with_reducible apply MemIs.ite)
    | (with_reducible apply State.wr_memIs)

theorem countInj_memIs (s : State) (i : Nat) {q0 : State} (hK : MemIs q0 s) :
    MemIs q0 (countInj s i) := by
  unfold countInj
  repeat' first
    | with_reducible assumption
    | (with_reducible apply State.wrap_memIs)

theorem countEj_memIs (s : State) (i : Nat) {q0 : State} (hK : MemIs q0 s) :
    MemIs q0 (countEj s i) := by
  unfold countEj
  repeat' first
    | with_reducible assumption
    | (with_reducible apply State.wrap_memIs)

theorem sendEnv_memIs (s : State) (ep r : Nat) (resp direct : Bool) (attempt : Nat) (e : Env) {q0 : State} (hK : MemIs q0 s) :
    MemIs q0 (sendEnv s ep r resp direct attempt e) := by
  unfold sendEnv
  repeat' first
    | with_reducible assumption
    | (with_reducible apply State.emit_memIs)
    | (with_reducible apply countInj_memIs)
    | split

theorem sendBack_memIs (s : State) (ep r : Nat) (resp : Bool) (attempt : Nat) (e : Env) {q0 : State} (hK : MemIs q0 s) :
    MemIs q0 (sendBack s ep r resp attempt e) := by
  unfold sendBack
  repeat' first
    | with_reducible assumption
    | (lift_lets; intro x)
    | (intro x)
    | (with_reducible apply MemIs.ite)
    | (with_reducible apply State.setHub_memIs)
    | (with_reducible apply State.setSite_memIs)
    | (with_reducible apply sendEnv_memIs)
    | (dsimp -zeta only [x])
    | split

theorem flushWaiting_memIs (s : State) (ep : Nat) {q0 : State} (hK : MemIs q0 s) :
    MemIs q0 (flushWaiting s ep) := by
  unfold flushWaiting
  repeat' first
    | with_reducible assumption
    | (intro x; refine MemIs.cut (q := q0) (x := x) ?_ ?_; pick_goal 2; clear_value x; intro hx)
    | (lift_lets; intro x)
    | (intro x)
    | (with_reducible apply MemIs.ite)
    | (with_reducible refine MemIs.foldl (fun _ _ _ => ?_) ?_)
    | (with_reducible apply State.setHub_memIs)
    | (with_reducible apply State.setSite_memIs)
    | (with_reducible apply sendBack_memIs)

theorem State.setOptic_memIs (s : State) (h p : Nat) (v : Port) {q0 : State} (hK : MemIs q0 s) :
    MemIs q0 (State.setOptic s h p v) := by
  unfold State.setOptic
  repeat' first
    | with_reducible assumption
    | (simp -zeta only [↓MemIs.lit])

theorem sendBlock_memIs (s : State) (h p btype cvc credits : Nat) (ws : List FWord) {q0 : State} (hK : MemIs q0 s) :
    MemIs q0 (sendBlock s h p btype cvc credits ws) := by
  unfold sendBlock
  repeat' first
    | with_reducible assumption
    | (lift_lets; intro x)
    | (intro x)
    | (with_reducible apply State.emit_memIs)
    | (with_reducible apply State.setOptic_memIs)

theorem sendPlain_memIs (s : State) (h p btype content : Nat) {q0 : State} (hK : MemIs q0 s) :
    MemIs q0 (sendPlain s h p btype content) := by
  unfold sendPlain
  repeat' first
    | with_reducible assumption
    | (with_reducible apply State.emit_memIs)

theorem creditBack_memIs (s : State) (back : Option (Nat × Nat × Nat)) {q0 : State} (hK : MemIs q0 s) :
    MemIs q0 (creditBack s back) := by
  unfold creditBack
  repeat' first
    | with_reducible assumption
    | (with_reducible apply MemIs.ite)
    | (with_reducible apply sendBlock_memIs)
    | split

theorem drainPort_memIs (s : State) (h p : Nat) {q0 : State} (hK : MemIs q0 s) :
    MemIs q0 (drainPort s h p) := by
  unfold drainPort
  repeat' first
    | with_reducible assumption
    | (intro x; refine MemIs.cut (q := q0) (x := x) ?_ ?_; pick_goal 2; clear_value x; intro hx)
    | (lift_lets; intro x)
    | (with_reducible apply MemIs.ite)
    | (with_reducible refine MemIs.foldl (fun _ _ _ => ?_) ?_)
    | (with_reducible apply State.setOptic_memIs)
    | (with_reducible apply creditBack_memIs)
    | (with_reducible apply sendBlock_memIs)

theorem leaveBy_memIs (s : State) (h p ent : Nat) (back : Option (Nat × Nat × Nat)) (w : FWord) {q0 : State} (hK : MemIs q0 s) :
    MemIs q0 (leaveBy s h p ent back w) := by
  unfold leaveBy
  repeat' first
    | with_reducible assumption
    | (lift_lets; intro x)
    | (intro x)
    | (with_reducible apply State.setOptic_memIs)
    | (with_reducible apply drainPort_memIs)

theorem fabForward_memIs (fuel : Nat) (s : State) (h : Nat) (back : Option (Nat × Nat × Nat)) (w : FWord) {q0 : State} (hK : MemIs q0 s) :
    MemIs q0 (fabForward fuel s h back w).1 := by
  induction fuel generalizing s h back w with
  | zero =>
   unfold fabForward
   repeat' first
    | with_reducible assumption
    | (with_reducible apply creditBack_memIs)
  | succ fuel ih =>
   unfold fabForward
   repeat' first
    | (with_reducible apply ih)
    | with_reducible assumption
    | (intro x; refine MemIs.cut (q := q0) (x := x) ?_ ?_; pick_goal 2; clear_value x; intro hx)
    | (lift_lets; intro x; refine MemIs.cut (q := q0) (x := x) ?_ ?_; pick_goal 2; clear_value x; intro hx)
    | (intro x)
    | (with_reducible apply State.bump_memIs)
    | (with_reducible apply State.emit_memIs)
    | (with_reducible apply State.setBit_memIs)
    | (with_reducible apply State.setHub_memIs)
    | (with_reducible apply creditBack_memIs)
    | (with_reducible apply leaveBy_memIs)
    | (with_reducible apply MemIs.iteFst)
    | (dsimp -zeta only [x])
    | split

theorem fabSend_memIs (s : State) (h panel : Nat) (resp : Bool) (attempt : Nat) (e : Env) {q0 : State} (hK : MemIs q0 s) :
    MemIs q0 (fabSend s h panel resp attempt e).1 := by
  unfold fabSend
  repeat' first
    | with_reducible assumption
    | (with_reducible apply fabForward_memIs)

theorem showOpen_memIs (s : State) (i : Nat) {q0 : State} (hK : MemIs q0 s) :
    MemIs q0 (showOpen s i) := by
  unfold showOpen
  repeat' first
    | with_reducible assumption
    | (with_reducible refine MemIs.upTo (fun _ _ _ => ?_) ?_)
    | (with_reducible apply State.wr_memIs)

theorem askOpen_memIs (s : State) (i who job key : Nat) (wr : Bool) (off n data poison : Nat) {q0 : State} (hK : MemIs q0 s) :
    MemIs q0 (askOpen s i who job key wr off n data poison) := by
  unfold askOpen
  repeat' first
    | with_reducible assumption
    | (lift_lets; intro x)
    | (intro x)
    | (with_reducible apply State.setSite_memIs)
    | (with_reducible apply showOpen_memIs)

theorem noteCisWords_memIs (s : State) (i off n : Nat) {q0 : State} (hK : MemIs q0 s) :
    MemIs q0 (noteCisWords s i off n) := by
  unfold noteCisWords
  repeat' first
    | with_reducible assumption
    | (intro x; refine MemIs.cut (q := q0) (x := x) ?_ ?_; pick_goal 2; clear_value x; intro hx)
    | (lift_lets; intro x)
    | (intro x)
    | (with_reducible apply MemIs.ite)
    | (with_reducible apply State.bump_memIs)
    | (with_reducible apply State.setBit_memIs)
    | (with_reducible apply State.wr_memIs)

theorem noteWellHalves_memIs (s : State) (i w mask : Nat) {q0 : State} (hK : MemIs q0 s) :
    MemIs q0 (noteWellHalves s i w mask) := by
  unfold noteWellHalves
  repeat' first
    | with_reducible assumption
    | (intro x; refine MemIs.cut (q := q0) (x := x) ?_ ?_; pick_goal 2; clear_value x; intro hx)
    | (lift_lets; intro x)
    | (intro x)
    | (with_reducible apply MemIs.ite)
    | (with_reducible apply State.bump_memIs)
    | (with_reducible apply State.setBit_memIs)
    | (with_reducible apply State.wr_memIs)

theorem openRead_memIs (s : State) (i off n : Nat) {q0 : State} (hK : MemIs q0 s) :
    MemIs q0 (openRead s i off n).1 := by
  unfold openRead
  repeat' first
    | with_reducible assumption
    | (lift_lets; intro x)
    | (intro x)
    | (with_reducible apply State.noteSp_memIs)
    | (with_reducible apply noteCisWords_memIs)
    | (with_reducible apply noteWellHalves_memIs)
    | (dsimp -zeta only [x])
    | split

theorem landCount_memIs (s : State) (i : Nat) {q0 : State} (hK : MemIs q0 s) :
    MemIs q0 (landCount s i) := by
  unfold landCount
  repeat' first
    | with_reducible assumption
    | (with_reducible apply State.wr_memIs)

theorem landMake_memIs (s : State) (i off len : Nat) {q0 : State} (hK : MemIs q0 s) :
    MemIs q0 (landMake s i off len).1 := by
  unfold landMake
  repeat' first
    | with_reducible assumption
    | (lift_lets; intro x; refine MemIs.cut (q := q0) (x := x) ?_ ?_; pick_goal 2; clear_value x; intro hx)
    | (lift_lets; intro x)
    | (with_reducible apply State.setBit_memIs)
    | (with_reducible apply State.wr_memIs)
    | (with_reducible apply landCount_memIs)
    | (dsimp -zeta only [x])
    | split

theorem landFree_memIs (s : State) (i z : Nat) {q0 : State} (hK : MemIs q0 s) :
    MemIs q0 (landFree s i z) := by
  unfold landFree
  repeat' first
    | with_reducible assumption
    | (with_reducible apply State.wr_memIs)
    | (with_reducible apply landCount_memIs)

theorem landEnd_memIs (s : State) (i z off done : Nat) (ok : Bool) {q0 : State} (hK : MemIs q0 s) :
    MemIs q0 (landEnd s i z off done ok) := by
  unfold landEnd
  repeat' first
    | with_reducible assumption
    | (lift_lets; intro x)
    | (intro x)
    | (with_reducible apply MemIs.ite)
    | (with_reducible refine MemIs.upTo (fun _ _ _ => ?_) ?_)
    | (with_reducible apply State.wr_memIs)
    | (with_reducible apply landFree_memIs)

theorem landClear_memIs (s : State) (i : Nat) {q0 : State} (hK : MemIs q0 s) :
    MemIs q0 (landClear s i) := by
  unfold landClear
  repeat' first
    | with_reducible assumption
    | (with_reducible refine MemIs.upTo (fun _ _ _ => ?_) ?_)
    | (with_reducible apply State.wr_memIs)
    | (with_reducible apply landCount_memIs)

theorem sendCirc_memIs (s : State) (i r axis : Nat) (e : Env) {q0 : State} (hK : MemIs q0 s) :
    MemIs q0 (sendCirc s i r axis e) := by
  unfold sendCirc
  repeat' first
    | with_reducible assumption
    | (lift_lets; intro x)
    | (intro x)
    | (with_reducible apply MemIs.ite)
    | (with_reducible apply sendEnv_memIs)

theorem emitOut_memIs (s : State) (ep : Nat) (m : Stream) (axis attempt : Nat) (e : Env) {q0 : State} (hK : MemIs q0 s) :
    MemIs q0 (emitOut s ep m axis attempt e) := by
  unfold emitOut
  repeat' first
    | with_reducible assumption
    | (lift_lets; intro x)
    | (with_reducible apply MemIs.ite)
    | (with_reducible apply fabSend_memIs)
    | (with_reducible apply leaveBy_memIs)
    | (with_reducible apply sendCirc_memIs)
    | (with_reducible apply sendEnv_memIs)
    | (dsimp -zeta only [x])
    | split

theorem emitBack_memIs (s : State) (ep : Nat) (c : Ctx) (e : Env) {q0 : State} (hK : MemIs q0 s) :
    MemIs q0 (emitBack s ep c e) := by
  unfold emitBack
  repeat' first
    | with_reducible assumption
    | (with_reducible apply MemIs.ite)
    | (with_reducible apply fabSend_memIs)
    | (with_reducible apply sendBack_memIs)

theorem ctxAck_memIs (s : State) (ep : Nat) (c : Ctx) (seq : Nat) (busy : Bool) {q0 : State} (hK : MemIs q0 s) :
    MemIs q0 (ctxAck s ep c seq busy) := by
  unfold ctxAck
  repeat' first
    | with_reducible assumption
    | (intro x; refine MemIs.cut (q := q0) (x := x) ?_ ?_; pick_goal 2; clear_value x; intro hx)
    | (lift_lets; intro x)
    | (intro x)
    | (with_reducible apply MemIs.ite)
    | (with_reducible apply State.setBit_memIs)
    | (with_reducible apply emitBack_memIs)

theorem streamAck_memIs (s : State) (ep k : Nat) (m : Stream) (seq : Nat) {q0 : State} (hK : MemIs q0 s) :
    MemIs q0 (streamAck s ep k m seq) := by
  unfold streamAck
  repeat' first
    | with_reducible assumption
    | (lift_lets; intro x)
    | (intro x)
    | (with_reducible apply MemIs.ite)
    | (with_reducible apply fabSend_memIs)
    | (with_reducible apply sendBack_memIs)

theorem charge_memIs (s : State) (i dst bytes : Nat) {q0 : State} (hK : MemIs q0 s) :
    MemIs q0 (charge s i dst bytes).1 := by
  unfold charge
  repeat' first
    | with_reducible assumption
    | (lift_lets; intro x)
    | (intro x)
    | (with_reducible apply State.orBits_memIs)
    | (with_reducible apply State.setSite_memIs)
    | (with_reducible apply MemIs.iteFst)

theorem sendNext_memIs (s : State) (ep k : Nat) {q0 : State} (hK : MemIs q0 s) : MemIs q0 (sendNext s ep k) := by
  unfold sendNext
  extract_lets m ni src
  split
  · exact hK
  · next p rest heq =>
    extract_lets r s1 e s2 s3
    have hr : MemIs q0 r.1 := by
      simp only [r]
      refine MemIs.iteFst (charge_memIs _ _ _ _ hK) (MemIs.iteFst ?_ hK)
      split
      · exact charge_memIs _ _ _ _ hK
      · exact hK
    have h2 : MemIs q0 s2 := emitOut_memIs _ _ _ _ _ _ hr
    have h3 : MemIs q0 s3 := State.wr_memIs _ _ _ _ h2
    clear_value ni s3 e
    split
    · exact hK
    · exact MemIs.ite hK (MemIs.ite hr (State.setStream_memIs _ _ _ _ h3))

theorem sendResp_memIs (s : State) (ep k : Nat) {q0 : State} (hK : MemIs q0 s) : MemIs q0 (sendResp s ep k) := by
  unfold sendResp
  extract_lets c ni src
  split
  · exact hK
  · next p rest heq =>
    extract_lets r s1 e s2
    have hr : MemIs q0 r.1 := MemIs.iteFst (charge_memIs _ _ _ _ hK) hK
    have h2 : MemIs q0 s2 := emitBack_memIs _ _ _ _ hr
    clear_value ni s2 e
    split
    · exact hK
    · exact MemIs.ite hK (MemIs.ite hr (State.setCtx_memIs _ _ _ _ h2))

theorem countRetrans_memIs (s : State) (ep n : Nat) {q0 : State} (hK : MemIs q0 s) :
    MemIs q0 (countRetrans s ep n) := by
  unfold countRetrans
  repeat' first
    | with_reducible assumption
    | (with_reducible apply MemIs.ite)
    | (with_reducible apply State.bump_memIs)

theorem noteDown_memIs (s : State) (ep : Nat) (l : Nat × Nat) {q0 : State} (hK : MemIs q0 s) :
    MemIs q0 (noteDown s ep l) := by
  unfold noteDown
  repeat' first
    | with_reducible assumption
    | (lift_lets; intro x)
    | (intro x)
    | (with_reducible apply MemIs.ite)
    | (with_reducible apply State.setHub_memIs)
    | (with_reducible apply State.setSite_memIs)

theorem resend_memIs (s : State) (ep k : Nat) {q0 : State} (hK : MemIs q0 s) : OptMemIs q0 (resend s ep k) := by
  unfold resend
  extract_lets m p
  split
  · exact OptMemIs.none
  · exact OptMemIs.some (State.setStream_memIs _ _ _ _ (countRetrans_memIs _ _ _
      (MemIs.foldl (fun s a h => emitOut_memIs _ _ _ _ _ _ h) (State.wr_memIs _ _ _ _ hK))))

theorem resendBack_memIs (s : State) (ep k : Nat) {q0 : State} (hK : MemIs q0 s) : OptMemIs q0 (resendBack s ep k) := by
  unfold resendBack
  extract_lets c
  split
  · exact OptMemIs.none
  · refine OptMemIs.some (countRetrans_memIs _ _ _ (MemIs.foldl (fun s a h => ?_) (State.setCtx_memIs _ _ _ _ hK)))
    exact MemIs.ite (sendEnv_memIs _ _ _ _ _ _ _ h) (fabSend_memIs _ _ _ _ _ _ h)

theorem openStream_memIs (s : State) (ep k : Nat) (m : Stream) {q0 : State} (hK : MemIs q0 s) :
    MemIs q0 (openStream s ep k m) := by
  unfold openStream
  repeat' first
    | with_reducible assumption
    | (intro x; refine MemIs.cut (q := q0) (x := x) ?_ ?_; pick_goal 2; clear_value x; intro hx)
    | (lift_lets; intro x)
    | (intro x)
    | (with_reducible apply State.setStream_memIs)
    | (with_reducible apply State.wr_memIs)
    | (with_reducible apply setStreamState_memIs)

theorem State.setSlot_memIs (s : State) (h g : Nat) (v : CSlot) {q0 : State} (hK : MemIs q0 s) :
    MemIs q0 (State.setSlot s h g v) := by
  unfold State.setSlot
  repeat' first
    | with_reducible assumption
    | (lift_lets; intro x)
    | (with_reducible apply State.setHub_memIs)

theorem sendSlice_memIs (s : State) (h g : Nat) (r : CRun) (x : Nat × Nat × Nat × Nat) (k : Nat) {q0 : State} (hK : MemIs q0 s) :
    MemIs q0 (sendSlice s h g r x k) := by
  unfold sendSlice
  repeat' first
    | with_reducible assumption
    | (lift_lets; intro x)
    | (intro x)
    | (with_reducible apply MemIs.ite)
    | (with_reducible apply State.setStream_memIs)
    | (with_reducible apply State.wr_memIs)
    | (with_reducible apply openStream_memIs)

theorem collPump_memIs (s : State) (h g : Nat) {q0 : State} (hK : MemIs q0 s) : MemIs q0 (collPump s h g) := by
  unfold collPump
  refine MemIs.upTo (fun s a hs => ?_) hK
  beta_reduce
  split
  · exact hs
  · extract_lets live
    split
    · refine MemIs.ite hs ?_
      extract_lets r
      exact sendSlice_memIs _ _ _ _ _ _ (State.setSlot_memIs _ _ _ _ hs)
    · exact hs

theorem collSliceIn_memIs (s : State) (h g k j half data poison : Nat) {q0 : State} (hK : MemIs q0 s) :
    MemIs q0 (collSliceIn s h g k j half data poison) := by
  unfold collSliceIn
  repeat' first
    | with_reducible assumption
    | (lift_lets; intro x)
    | (intro x)
    | (with_reducible apply State.setSlot_memIs)
    | (with_reducible apply collPump_memIs)
    | (dsimp -zeta only [x])
    | split

theorem collHopFail_memIs (s : State) (h g : Nat) {q0 : State} (hK : MemIs q0 s) :
    MemIs q0 (collHopFail s h g) := by
  unfold collHopFail
  repeat' first
    | with_reducible assumption
    | (intro x; refine MemIs.cut (q := q0) (x := x) ?_ ?_; pick_goal 2; clear_value x; intro hx)
    | (lift_lets; intro x)
    | (intro x)
    | (with_reducible apply MemIs.ite)
    | (with_reducible refine MemIs.foldl (fun _ _ _ => ?_) ?_)
    | (with_reducible apply State.bump_memIs)
    | (with_reducible apply State.setBit_memIs)
    | (with_reducible apply State.setSlot_memIs)
    | (with_reducible apply State.setStream_memIs)
    | (with_reducible apply State.wr_memIs)
    | (with_reducible apply collPump_memIs)
    | (with_reducible apply setStreamState_memIs)
    | (dsimp -zeta only [x])
    | split

theorem showColl_memIs (s : State) (h g : Nat) {q0 : State} (hK : MemIs q0 s) :
    MemIs q0 (showColl s h g) := by
  unfold showColl
  repeat' first
    | with_reducible assumption
    | (intro x; refine MemIs.cut (q := q0) (x := x) ?_ ?_; pick_goal 2; clear_value x; intro hx)
    | (lift_lets; intro x)
    | (intro x)
    | (with_reducible apply State.wr_memIs)

theorem collReap_memIs (s : State) (h g : Nat) {q0 : State} (hK : MemIs q0 s) :
    MemIs q0 (collReap s h g) := by
  unfold collReap
  repeat' first
    | with_reducible assumption
    | (lift_lets; intro x)
    | (with_reducible apply MemIs.ite)
    | (with_reducible apply State.setSlot_memIs)
    | (with_reducible apply showColl_memIs)
    | (dsimp -zeta only [x])
    | split

theorem collSliceEnd_memIs (s : State) (h ref st : Nat) {q0 : State} (hK : MemIs q0 s) :
    MemIs q0 (collSliceEnd s h ref st) := by
  unfold collSliceEnd
  repeat' first
    | with_reducible assumption
    | (lift_lets; intro x)
    | (intro x)
    | (with_reducible apply MemIs.ite)
    | (with_reducible apply State.setSlot_memIs)
    | (with_reducible apply collHopFail_memIs)
    | (with_reducible apply collPump_memIs)
    | (with_reducible apply collReap_memIs)
    | (dsimp -zeta only [x])
    | split

theorem setHopCount_memIs (s : State) (i t n : Nat) {q0 : State} (hK : MemIs q0 s) :
    MemIs q0 (setHopCount s i t n) := by
  unfold setHopCount
  repeat' first
    | with_reducible assumption
    | (lift_lets; intro x)
    | (with_reducible apply State.setSite_memIs)

theorem hopRefuse_memIs (s : State) (i code ix : Nat) {q0 : State} (hK : MemIs q0 s) :
    MemIs q0 (hopRefuse s i code ix) := by
  unfold hopRefuse
  repeat' first
    | with_reducible assumption
    | (intro x; refine MemIs.cut (q := q0) (x := x) ?_ ?_; pick_goal 2; clear_value x; intro hx)
    | (lift_lets; intro x)
    | (with_reducible apply MemIs.ite)
    | (with_reducible apply State.setBit_memIs)
    | (with_reducible apply State.wr_memIs)

theorem wbSet_memIs (s : State) (i : Nat) (v : Held) {q0 : State} (hK : MemIs q0 s) :
    MemIs q0 (wbSet s i v) := by
  unfold wbSet
  repeat' first
    | with_reducible assumption
    | (lift_lets; intro x)
    | (with_reducible apply State.setSite_memIs)

theorem dropOpens_memIs (s : State) (i job key : Nat) {q0 : State} (hK : MemIs q0 s) :
    MemIs q0 (dropOpens s i job key) := by
  unfold dropOpens
  repeat' first
    | with_reducible assumption
    | (lift_lets; intro x)
    | (with_reducible apply State.setSite_memIs)
    | (with_reducible apply showOpen_memIs)

theorem wbEnd_memIs (s : State) (i num st : Nat) (remote : Bool) {q0 : State} (hK : MemIs q0 s) :
    MemIs q0 (wbEnd s i num st remote) := by
  unfold wbEnd
  repeat' first
    | with_reducible assumption
    | (with_reducible apply MemIs.ite)
    | (with_reducible apply dropOpens_memIs)
    | (with_reducible apply wbSet_memIs)
    | split

theorem pushData_memIs (s : State) (ep k n : Nat) (last : Bool) (l : Line) {q0 : State} (hK : MemIs q0 s) :
    MemIs q0 (pushData s ep k n last l) := by
  unfold pushData
  repeat' first
    | with_reducible assumption
    | (lift_lets; intro x)
    | (intro x)
    | (with_reducible apply State.setStream_memIs)

theorem closeWindow_memIs (s : State) (i : Nat) (w : Held) {q0 : State} (hK : MemIs q0 s) :
    MemIs q0 (closeWindow s i w) := by
  unfold closeWindow
  repeat' first
    | with_reducible assumption
    | (lift_lets; intro x)
    | (intro x)
    | (with_reducible apply MemIs.ite)
    | (with_reducible apply State.setCore_memIs)
    | (with_reducible apply State.wr_memIs)

theorem verifyChunk_memIs (s : State) (i num : Nat) {q0 : State} (hK : MemIs q0 s) :
    MemIs q0 (verifyChunk s i num) := by
  unfold verifyChunk
  repeat' first
    | with_reducible assumption
    | (lift_lets; intro x)
    | (intro x)
    | (with_reducible apply MemIs.ite)
    | (with_reducible apply wbEnd_memIs)
    | (with_reducible apply wbSet_memIs)
    | split

theorem countMoved_memIs (s : State) (i n : Nat) {q0 : State} (hK : MemIs q0 s) :
    MemIs q0 (countMoved s i n) := by
  unfold countMoved
  repeat' first
    | with_reducible assumption
    | (lift_lets; intro x)
    | (with_reducible apply State.setSite_memIs)

theorem circVerify_memIs (s : State) (i : Nat) (w : Held) {q0 : State} (hK : MemIs q0 s) :
    MemIs q0 (circVerify s i w).1 := by
  unfold circVerify
  repeat' first
    | with_reducible assumption
    | (lift_lets; intro x)
    | (intro x)
    | (with_reducible apply wbEnd_memIs)
    | (with_reducible apply wbSet_memIs)
    | (with_reducible apply MemIs.iteFst)

theorem showCtx_memIs (s : State) (ep k : Nat) {q0 : State} (hK : MemIs q0 s) :
    MemIs q0 (showCtx s ep k) := by
  unfold showCtx
  repeat' first
    | with_reducible assumption
    | (intro x; refine MemIs.cut (q := q0) (x := x) ?_ ?_; pick_goal 2; clear_value x; intro hx)
    | (lift_lets; intro x)
    | (intro x)
    | (with_reducible apply MemIs.ite)
    | (with_reducible apply State.wr_memIs)

theorem giveDone_memIs (s : State) (ep k st : Nat) {q0 : State} (hK : MemIs q0 s) :
    MemIs q0 (giveDone s ep k st) := by
  unfold giveDone
  repeat' first
    | with_reducible assumption
    | (lift_lets; intro x)
    | (intro x)
    | (with_reducible apply MemIs.ite)
    | (with_reducible apply State.setCtx_memIs)
    | (with_reducible apply emitBack_memIs)

theorem ctxLand_memIs (s : State) (ep k : Nat) (ok : Bool) {q0 : State} (hK : MemIs q0 s) :
    MemIs q0 (ctxLand s ep k ok) := by
  unfold ctxLand
  repeat' first
    | with_reducible assumption
    | (lift_lets; intro x)
    | (with_reducible apply State.setCtx_memIs)
    | (with_reducible apply landEnd_memIs)
    | (dsimp -zeta only [x])
    | split

theorem ctxFinish_memIs (s : State) (ep k st : Nat) {q0 : State} (hK : MemIs q0 s) :
    MemIs q0 (ctxFinish s ep k st) := by
  unfold ctxFinish
  repeat' first
    | with_reducible assumption
    | (with_reducible apply MemIs.ite)
    | (with_reducible apply ctxLand_memIs)
    | (with_reducible apply giveDone_memIs)

theorem finish_memIs (s : State) (ep k st : Nat) (remote : Bool) (bytes : Nat) {q0 : State} (hK : MemIs q0 s) :
    MemIs q0 (finish s ep k st remote bytes) := by
  unfold finish
  repeat' first
    | with_reducible assumption
    | (intro x; refine MemIs.cut (q := q0) (x := x) ?_ ?_; pick_goal 2; clear_value x; intro hx)
    | (lift_lets; intro x)
    | (intro x)
    | (with_reducible apply MemIs.ite)
    | (with_reducible apply State.setCtx_memIs)
    | (with_reducible apply State.setStream_memIs)
    | (with_reducible apply collSliceEnd_memIs)
    | (with_reducible apply ctxFinish_memIs)
    | (with_reducible apply dropOpens_memIs)
    | (with_reducible apply setStreamState_memIs)
    | (with_reducible apply wbEnd_memIs)
    | (with_reducible apply wbSet_memIs)
    | (dsimp -zeta only [x])
    | split

theorem breakStream_memIs (s : State) (ep k : Nat) {q0 : State} (hK : MemIs q0 s) :
    MemIs q0 (breakStream s ep k) := by
  unfold breakStream
  repeat' first
    | with_reducible assumption
    | (intro x; refine MemIs.cut (q := q0) (x := x) ?_ ?_; pick_goal 2; clear_value x; intro hx)
    | (lift_lets; intro x)
    | (intro x)
    | (with_reducible apply MemIs.ite)
    | (with_reducible apply State.setBit_memIs)
    | (with_reducible apply finish_memIs)
    | (with_reducible apply setStreamState_memIs)

theorem retry_memIs (s : State) (ep k : Nat) {q0 : State} (hK : MemIs q0 s) :
    MemIs q0 (retry s ep k) := by
  unfold retry
  repeat' first
    | with_reducible assumption
    | (with_reducible apply resend_memIs)
    | (with_reducible apply OptMemIs.getD)
    | (with_reducible apply breakStream_memIs)

theorem retryBack_memIs (s : State) (ep k : Nat) {q0 : State} (hK : MemIs q0 s) :
    MemIs q0 (retryBack s ep k) := by
  unfold retryBack
  repeat' first
    | with_reducible assumption
    | (intro x; refine MemIs.cut (q := q0) (x := x) ?_ ?_; pick_goal 2; clear_value x; intro hx)
    | (lift_lets; intro x)
    | (intro x)
    | (with_reducible apply MemIs.ite)
    | (with_reducible apply State.setCtx_memIs)
    | (with_reducible apply breakStream_memIs)
    | (exact OptMemIs.get (by assumption : resendBack _ _ _ = some _) (resendBack_memIs _ _ _ (by with_reducible assumption)))
    | split

theorem circAdvance_memIs (s : State) (ep k : Nat) {q0 : State} (hK : MemIs q0 s) : MemIs q0 (circAdvance s ep k) := by
  unfold circAdvance
  extract_lets m open_ least s1
  have h1 : MemIs q0 s1 := by
    clear_value least
    cases least with
    | some v => exact State.setStream_memIs _ _ _ _ hK
    | none => exact hK
  clear_value s1
  split
  · exact h1
  · exact MemIs.ite (finish_memIs _ _ _ _ _ _ (wbSet_memIs _ _ _ h1)) h1

theorem circEnd_memIs (s : State) (ep k t code : Nat) {q0 : State} (hK : MemIs q0 s) :
    MemIs q0 (circEnd s ep k t code) := by
  unfold circEnd
  repeat' first
    | with_reducible assumption
    | (lift_lets; intro x)
    | (with_reducible apply MemIs.ite)
    | (with_reducible apply State.setStream_memIs)
    | (with_reducible apply circAdvance_memIs)

theorem streamDelivered_memIs (s : State) (ep k : Nat) {q0 : State} (hK : MemIs q0 s) : MemIs q0 (streamDelivered s ep k) := by
  unfold streamDelivered
  extract_lets m x
  split
  · exact hK
  · extract_lets n ack m1 s1 s2 s3
    have h1 : MemIs q0 s1 := State.setStream_memIs _ _ _ _ hK
    have h2 : MemIs q0 s2 := MemIs.ite (countMoved_memIs _ _ _ h1) h1
    have h3 : MemIs q0 s3 := MemIs.ite (streamAck_memIs _ _ _ _ _ h2) h2
    clear_value s3
    refine MemIs.ite h3 ?_
    split
    · exact h3
    · extract_lets s4 s5
      have h4 : MemIs q0 s4 := verifyChunk_memIs _ _ _ (wbSet_memIs _ _ _ h3)
      have h5 : MemIs q0 s5 := MemIs.ite (closeWindow_memIs _ _ _ h4) h4
      clear_value s5
      split
      · exact finish_memIs _ _ _ _ _ _ h5
      · exact h5

theorem ctxDrop_memIs (s : State) (ep k : Nat) {q0 : State} (hK : MemIs q0 s) :
    MemIs q0 (ctxDrop s ep k) := by
  unfold ctxDrop
  repeat' first
    | with_reducible assumption
    | (lift_lets; intro x; refine MemIs.cut (q := q0) (x := x) ?_ ?_; pick_goal 2; clear_value x; intro hx)
    | (with_reducible apply MemIs.ite)
    | (with_reducible apply State.setCtx_memIs)
    | (with_reducible apply dropOpens_memIs)
    | (with_reducible apply showCtx_memIs)

theorem ctxDelivered_memIs (s : State) (ep k : Nat) {q0 : State} (hK : MemIs q0 s) : MemIs q0 (ctxDelivered s ep k) := by
  unfold ctxDelivered
  extract_lets c x got
  split
  · exact hK
  · extract_lets n ack c1 s1 s2 s3
    have h1 : MemIs q0 s1 := showCtx_memIs _ _ _ (State.setCtx_memIs _ _ _ _ hK)
    have h2 : MemIs q0 s2 := MemIs.ite (ctxAck_memIs _ _ _ _ _ h1) h1
    have h3 : MemIs q0 s3 := MemIs.ite (collSliceIn_memIs _ _ _ _ _ _ _ _ h2) h2
    exact MemIs.ite (ctxFinish_memIs _ _ _ _ h3) h2

theorem respStep_memIs (s : State) (ep k : Nat) {q0 : State} (hK : MemIs q0 s) :
    MemIs q0 (respStep s ep k) := by
  unfold respStep
  repeat' first
    | with_reducible assumption
    | (intro x; refine MemIs.cut (q := q0) (x := x) ?_ ?_; pick_goal 2; clear_value x; intro hx)
    | (lift_lets; intro x)
    | (intro x)
    | (with_reducible apply MemIs.ite)
    | (with_reducible apply State.emit_memIs)
    | (with_reducible apply State.setCtx_memIs)
    | (with_reducible apply askOpen_memIs)
    | (with_reducible apply giveDone_memIs)
    | split

theorem respGot_memIs (s : State) (ep k : Nat) (l : Line) {q0 : State} (hK : MemIs q0 s) :
    MemIs q0 (respGot s ep k l) := by
  unfold respGot
  repeat' first
    | with_reducible assumption
    | (lift_lets; intro x)
    | (intro x)
    | (with_reducible apply State.setCtx_memIs)
    | (with_reducible apply respStep_memIs)

theorem hubOpening_memIs (s : State) (h k panel r : Nat) (space : HubSpace) (e : Env) {q0 : State} (hK : MemIs q0 s) :
    MemIs q0 (hubOpening s h k panel r space e).2 := by
  unfold hubOpening
  repeat' first
    | with_reducible assumption
    | (intro x; refine MemIs.cut (q := q0) (x := x.2) ?_ ?_; pick_goal 2; clear_value x; intro hx)
    | (lift_lets; intro x)
    | (intro x)
    | (with_reducible apply MemIs.ite)
    | (with_reducible apply State.bump_memIs)
    | (with_reducible apply State.draw_memIs)
    | (with_reducible apply State.setBit_memIs)
    | (dsimp -zeta only [x])
    | split

theorem opening_memIs (s : State) (ep k : Nat) (c : Ctx) (space : HubSpace) (e : Env) {q0 : State} (hK : MemIs q0 s) :
    MemIs q0 (opening s ep k c space e).2.1 := by
  unfold opening
  split
  · exact hubOpening_memIs _ _ _ _ _ _ _ hK
  · extract_lets addr len st
    split
    · exact hK
    · split
      · have h := landMake_memIs s ep (addr % 2 ^ 40) len hK
        split <;> next e => rw [e] at h; exact h
      · exact hK

theorem ctxOpen_memIs (s : State) (ep k : Nat) (e : Env) {q0 : State} (hK : MemIs q0 s) : MemIs q0 (ctxOpen s ep k e).1 := by
  unfold ctxOpen
  extract_lets c
  have h := opening_memIs s ep k c c.space e hK
  generalize opening s ep k c c.space e = p at h
  obtain ⟨o, s1, z⟩ := p
  dsimp -zeta only at h ⊢
  extract_lets fresh
  split
  · exact ctxAck_memIs _ _ _ _ _ h
  · exact giveDone_memIs _ _ _ _ (ctxDelivered_memIs _ _ _ (State.setCtx_memIs _ _ _ _ h))
  · extract_lets c1 s2 s3
    have h2 : MemIs q0 s2 := State.setCtx_memIs _ _ _ _ h
    have h3 : MemIs q0 s3 := by
      simp only [s3]
      split
      · exact openStream_memIs _ _ _ _ h2
      · exact h2
    exact MemIs.iteFst h3 (respStep_memIs _ _ _ (ctxDelivered_memIs _ _ _ h3))

theorem ctxPump_memIs (fuel : Nat) (s : State) (ep k : Nat) {q0 : State} (hK : MemIs q0 s) :
    MemIs q0 (ctxPump fuel s ep k) := by
  induction fuel generalizing s ep k with
  | zero =>
   unfold ctxPump
   repeat' first
    | with_reducible assumption
  | succ fuel ih =>
   unfold ctxPump
   repeat' first
    | (with_reducible apply ih)
    | with_reducible assumption
    | (intro x; refine MemIs.cut (q := q0) (x := x) ?_ ?_; pick_goal 2; clear_value x; intro hx)
    | (intro x; refine MemIs.cut (q := q0) (x := x.1) ?_ ?_; pick_goal 2; clear_value x; intro hx)
    | (lift_lets; intro x)
    | (intro x)
    | (with_reducible apply MemIs.ite)
    | (with_reducible apply State.emit_memIs)
    | (with_reducible apply State.setCtx_memIs)
    | (with_reducible apply State.setStream_memIs)
    | (with_reducible apply askOpen_memIs)
    | (with_reducible apply ctxDelivered_memIs)
    | (with_reducible apply ctxFinish_memIs)
    | (with_reducible apply ctxOpen_memIs)
    | (dsimp -zeta only [x])
    | split

theorem onAck_memIs (s : State) (ep k : Nat) (e : Env) {q0 : State} (hK : MemIs q0 s) : MemIs q0 (onAck s ep k e) := by
  unfold onAck
  extract_lets m
  refine MemIs.ite hK (MemIs.ite ?_ (MemIs.ite ?_ ?_))
  · split
    · exact MemIs.ite hK (MemIs.ite (finish_memIs _ _ _ _ _ _ hK) (State.setStream_memIs _ _ _ _ hK))
    · exact hK
  · exact MemIs.ite (circAdvance_memIs _ _ _ (State.setStream_memIs _ _ _ _ hK)) hK
  · have h1 := State.setStream_memIs s ep k { m with tx := { (txAck m.tx e.seq.toNat).1 with wait := false } } hK
    exact MemIs.ite (ctxPump_memIs _ _ _ _ (MemIs.upTo (fun s a h => ctxDelivered_memIs _ _ _ h) h1)) h1

theorem onAckBack_memIs (s : State) (ep k : Nat) (e : Env) {q0 : State} (hK : MemIs q0 s) :
    MemIs q0 (onAckBack s ep k e) := by
  unfold onAckBack
  repeat' first
    | with_reducible assumption
    | (intro x; refine MemIs.cut (q := q0) (x := x) ?_ ?_; pick_goal 2; clear_value x; intro hx)
    | (lift_lets; intro x)
    | (intro x)
    | (with_reducible apply MemIs.ite)
    | (with_reducible refine MemIs.upTo (fun _ _ _ => ?_) ?_)
    | (with_reducible apply State.setCtx_memIs)
    | (with_reducible apply streamDelivered_memIs)

theorem onDone_memIs (s : State) (ep k : Nat) (e : Env) {q0 : State} (hK : MemIs q0 s) :
    MemIs q0 (onDone s ep k e) := by
  unfold onDone
  repeat' first
    | with_reducible assumption
    | (intro x; refine MemIs.cut (q := q0) (x := x) ?_ ?_; pick_goal 2; clear_value x; intro hx)
    | (lift_lets; intro x)
    | (intro x)
    | (with_reducible apply MemIs.ite)
    | (with_reducible apply State.setStream_memIs)
    | (with_reducible apply circEnd_memIs)
    | (with_reducible apply finish_memIs)
    | split

theorem onDup_memIs (s : State) (ep k : Nat) (e : Env) {q0 : State} (hK : MemIs q0 s) :
    MemIs q0 (onDup s ep k e) := by
  unfold onDup
  repeat' first
    | with_reducible assumption
    | (intro x; refine MemIs.cut (q := q0) (x := x) ?_ ?_; pick_goal 2; clear_value x; intro hx)
    | (lift_lets; intro x)
    | (with_reducible apply MemIs.ite)
    | (with_reducible apply State.bump_memIs)
    | (with_reducible apply ctxAck_memIs)
    | (with_reducible apply giveDone_memIs)
    | split

theorem requestGot_memIs (s : State) (ep k : Nat) (c : Ctx) (e : Env) (g : Got) {q0 : State} (hK : MemIs q0 s) :
    MemIs q0 (requestGot s ep k c e g) := by
  unfold requestGot
  repeat' first
    | with_reducible assumption
    | (with_reducible apply MemIs.ite)
    | (with_reducible apply State.setBit_memIs)
    | (with_reducible apply State.setCtx_memIs)
    | (with_reducible apply ctxPump_memIs)
    | (with_reducible apply onDup_memIs)
    | split

theorem onRequest_memIs (s : State) (ep k : Nat) (e : Env) {q0 : State} (hK : MemIs q0 s) :
    MemIs q0 (onRequest s ep k e) := by
  unfold onRequest
  repeat' first
    | with_reducible assumption
    | (lift_lets; intro x)
    | (intro x)
    | (with_reducible apply State.setCtx_memIs)
    | (with_reducible apply requestGot_memIs)

theorem takeOpen_memIs (s : State) (ep panel : Nat) (space : HubSpace) (e : Env) {q0 : State} (hK : MemIs q0 s) :
    MemIs q0 (takeOpen s ep panel space e) := by
  unfold takeOpen
  repeat' first
    | with_reducible assumption
    | (intro x; refine MemIs.cut (q := q0) (x := x) ?_ ?_; pick_goal 2; clear_value x; intro hx)
    | (lift_lets; intro x; refine MemIs.cut (q := q0) (x := x) ?_ ?_; pick_goal 2; clear_value x; intro hx)
    | (lift_lets; intro x)
    | (intro x)
    | (with_reducible apply MemIs.ite)
    | (with_reducible apply State.setCtx_memIs)
    | (with_reducible apply ctxAck_memIs)
    | (with_reducible apply ctxDrop_memIs)
    | (with_reducible apply ctxLand_memIs)
    | (with_reducible apply dropOpens_memIs)
    | (with_reducible apply onRequest_memIs)
    | (with_reducible apply showCtx_memIs)
    | (dsimp -zeta only [x])
    | split

theorem onData_memIs (s : State) (ep panel : Nat) (e : Env) {q0 : State} (hK : MemIs q0 s) :
    MemIs q0 (onData s ep panel e) := by
  unfold onData
  repeat' first
    | with_reducible assumption
    | (with_reducible apply MemIs.ite)
    | (with_reducible apply onRequest_memIs)
    | split

theorem circCut_memIs (s : State) (ep k j p : Nat) {q0 : State} (hK : MemIs q0 s) :
    MemIs q0 (circCut s ep k j p) := by
  unfold circCut
  repeat' first
    | with_reducible assumption
    | (lift_lets; intro x)
    | (intro x)
    | (with_reducible apply MemIs.ite)
    | (with_reducible refine MemIs.upTo (fun _ _ _ => ?_) ?_)
    | (with_reducible apply circEnd_memIs)

theorem onNotice_memIs (s : State) (ep panel : Nat) (resp : Bool) (e : Env) {q0 : State} (hK : MemIs q0 s) :
    MemIs q0 (onNotice s ep panel resp e) := by
  unfold onNotice
  repeat' first
    | with_reducible assumption
    | (intro x; refine MemIs.cut (q := q0) (x := x) ?_ ?_; pick_goal 2; clear_value x; intro hx)
    | (lift_lets; intro x)
    | (intro x)
    | (with_reducible apply MemIs.ite)
    | (with_reducible apply circCut_memIs)
    | (with_reducible apply collHopFail_memIs)
    | (with_reducible apply noteDown_memIs)
    | (with_reducible apply retry_memIs)
    | (with_reducible apply retryBack_memIs)
    | split

end Sys2Proof.Machine
end

