-- ==== Sys2Proof/Laws/MemIsPorts.lean ====
section
/-! SUPPORT. Operations that change no byte and no mark of memory. -/

namespace Sys2Proof.Machine

theorem showPumps_memIs (s : State) (i : Nat) {q0 : State} (hK : MemIs q0 s) :
    MemIs q0 (showPumps s i) := by
  unfold showPumps
  repeat' first
    | with_reducible assumption
    | (lift_lets; intro x)
    | (intro x)
    | (with_reducible apply State.wr_memIs)

theorem takeWb_memIs (s : State) (i pump : Nat) (master : Bool) {q0 : State} (hK : MemIs q0 s) :
    MemIs q0 (takeWb s i pump master) := by
  unfold takeWb
  repeat' first
    | with_reducible assumption
    | (lift_lets; intro x)
    | (intro x)
    | (with_reducible apply MemIs.ite)
    | (with_reducible apply State.setSite_memIs)
    | (with_reducible apply showPumps_memIs)
    | (dsimp -zeta only)
    | (dsimp -zeta only [x])
    | split

theorem wbPost_memIs (s : State) (i pump : Nat) {q0 : State} (hK : MemIs q0 s) :
    MemIs q0 (wbPost s i pump) := by
  unfold wbPost
  repeat' first
    | with_reducible assumption
    | (lift_lets; intro x)
    | (intro x)
    | (with_reducible apply MemIs.ite)
    | (with_reducible apply State.setBit_memIs)
    | (with_reducible apply State.setSite_memIs)
    | (with_reducible apply State.wr_memIs)
    | (with_reducible apply badValue_memIs)
    | (with_reducible apply showPumps_memIs)

theorem kickEvent_memIs (s : State) (c : CoreId) (cyc : Nat) {q0 : State} (hK : MemIs q0 s) :
    MemIs q0 (kickEvent s c cyc) := by
  unfold kickEvent
  repeat' first
    | with_reducible assumption
    | (intro x; refine MemIs.cut (q := q0) (x := x) ?_ ?_; pick_goal 2; clear_value x; intro hx)
    | (lift_lets; intro x)
    | (intro x)
    | (with_reducible apply MemIs.ite)
    | (with_reducible apply State.setSite_memIs)
    | (with_reducible apply enterSlack_memIs)
    | (with_reducible apply timerSource_memIs)

theorem mayLeave_memIs (s : State) (h e n r : Nat) {q0 : State} (hK : MemIs q0 s) :
    MemIs q0 (mayLeave s h e n r).2 := by
  unfold mayLeave
  repeat' first
    | with_reducible assumption
    | (lift_lets; intro x)
    | (intro x)
    | (with_reducible apply State.setHub_memIs)
    | (dsimp -zeta only [x])
    | split

theorem sendOne_memIs (s : State) (ep k : Nat) (resp : Bool) (opp : Nat) {q0 : State} (hK : MemIs q0 s) :
    MemIs q0 (sendOne s ep k resp opp) := by
  unfold sendOne
  repeat' first
    | with_reducible assumption
    | (lift_lets; intro x; refine MemIs.cut (q := q0) (x := x.2) ?_ ?_; pick_goal 2; clear_value x; intro hx)
    | (lift_lets; intro x)
    | (intro x)
    | (with_reducible apply MemIs.ite)
    | (with_reducible apply mayLeave_memIs)
    | (with_reducible apply sendNext_memIs)
    | (with_reducible apply sendResp_memIs)
    | (dsimp -zeta only [x])
    | split

theorem circSilent_memIs (s : State) (ep k : Nat) {q0 : State} (hK : MemIs q0 s) :
    MemIs q0 (circSilent s ep k) := by
  unfold circSilent
  repeat' first
    | with_reducible assumption
    | (lift_lets; intro x)
    | (intro x)
    | (with_reducible refine MemIs.foldl (fun _ _ _ => ?_) ?_)
    | (with_reducible apply circEnd_memIs)

theorem ackTimeout_memIs (s : State) (ep k : Nat) (resp : Bool) {q0 : State} (hK : MemIs q0 s) :
    MemIs q0 (ackTimeout s ep k resp) := by
  unfold ackTimeout
  repeat' first
    | with_reducible assumption
    | (lift_lets; intro x)
    | (intro x)
    | (with_reducible apply MemIs.ite)
    | (with_reducible apply State.setStream_memIs)
    | (with_reducible apply circSilent_memIs)
    | (with_reducible apply retry_memIs)
    | (with_reducible apply retryBack_memIs)
    | (dsimp -zeta only [x])
    | split

theorem openRetry_memIs (s : State) (ep k : Nat) {q0 : State} (hK : MemIs q0 s) :
    MemIs q0 (openRetry s ep k) := by
  unfold openRetry
  repeat' first
    | with_reducible assumption
    | (intro x; refine MemIs.cut (q := q0) (x := x) ?_ ?_; pick_goal 2; clear_value x; intro hx)
    | (lift_lets; intro x)
    | (intro x)
    | (with_reducible apply MemIs.ite)
    | (with_reducible apply State.setStream_memIs)
    | (with_reducible apply countRetrans_memIs)
    | (with_reducible apply emitOut_memIs)
    | split

theorem ctxIdle_memIs (s : State) (ep k : Nat) {q0 : State} (hK : MemIs q0 s) :
    MemIs q0 (ctxIdle s ep k) := by
  unfold ctxIdle
  repeat' first
    | with_reducible assumption
    | (with_reducible apply MemIs.ite)
    | (with_reducible apply ctxDrop_memIs)
    | (with_reducible apply ctxLand_memIs)

theorem noticeOf_memIs (s : State) (i port : Nat) (resp : Bool) (e : Env) {q0 : State} (hK : MemIs q0 s) :
    MemIs q0 (noticeOf s i port resp e) := by
  unfold noticeOf
  repeat' first
    | with_reducible assumption
    | (lift_lets; intro x)
    | (with_reducible apply sendEnv_memIs)

theorem streamReset_memIs (s : State) (i k : Nat) {q0 : State} (hK : MemIs q0 s) :
    OptMemIs q0 (streamReset s i k) := by
  unfold streamReset
  repeat' first
    | with_reducible assumption
    | (with_reducible exact OptMemIs.none)
    | (with_reducible apply OptMemIs.some)
    | (intro x; refine MemIs.cut (q := q0) (x := x) ?_ ?_; pick_goal 2; clear_value x; intro hx)
    | (lift_lets; intro x)
    | (with_reducible apply OptMemIs.ite)
    | (with_reducible apply State.setStream_memIs)
    | (with_reducible apply State.wr_memIs)
    | (with_reducible apply setStreamState_memIs)

theorem swapRoutes_memIs (s : State) (i : Nat) {q0 : State} (hK : MemIs q0 s) :
    MemIs q0 (swapRoutes s i) := by
  unfold swapRoutes
  repeat' first
    | with_reducible assumption
    | (intro x; refine MemIs.cut (q := q0) (x := x) ?_ ?_; pick_goal 2; clear_value x; intro hx)
    | (lift_lets; intro x)
    | (intro x)
    | (with_reducible refine MemIs.upTo (fun _ _ _ => ?_) ?_)
    | (with_reducible apply State.setHub_memIs)
    | (with_reducible apply State.setSite_memIs)
    | (with_reducible apply State.wr_memIs)
    | (with_reducible apply State.wrPair_memIs)
    | split

theorem resumeNi_memIs (s : State) (i : Nat) {q0 : State} (hK : MemIs q0 s) :
    MemIs q0 (resumeNi s i) := by
  unfold resumeNi
  repeat' first
    | with_reducible assumption
    | (lift_lets; intro x; refine MemIs.cut (q := q0) (x := x) ?_ ?_; pick_goal 2; clear_value x; intro hx)
    | (with_reducible apply State.wr_memIs)
    | (with_reducible apply flushWaiting_memIs)
    | split

theorem drainEnd_memIs (s : State) (r : Nat) {q0 : State} (hK : MemIs q0 s) :
    MemIs q0 (drainEnd s r) := by
  unfold drainEnd
  repeat' first
    | with_reducible assumption
    | (lift_lets; intro x; refine MemIs.cut (q := q0) (x := x) ?_ ?_; pick_goal 2; clear_value x; intro hx)
    | (intro x)
    | (with_reducible apply State.setRegion_memIs)
    | (with_reducible apply State.wr_memIs)

theorem drainGo_memIs (s : State) (r : Nat) {q0 : State} (hK : MemIs q0 s) :
    OptMemIs q0 (drainGo s r) := by
  unfold drainGo
  repeat' first
    | with_reducible assumption
    | (with_reducible exact OptMemIs.none)
    | (with_reducible apply OptMemIs.some)
    | (with_reducible apply OptMemIs.ite)
    | (with_reducible refine MemIs.foldl (fun _ _ _ => ?_) ?_)
    | (with_reducible apply State.wr_memIs)

theorem drainDone_memIs (s : State) (r : Nat) {q0 : State} (hK : MemIs q0 s) :
    MemIs q0 (drainDone s r) := by
  unfold drainDone
  repeat' first
    | with_reducible assumption
    | (lift_lets; intro x)
    | (with_reducible apply MemIs.ite)
    | (with_reducible apply State.wr_memIs)
    | (with_reducible apply pfSet_memIs)

theorem drainTimeout_memIs (s : State) (r : Nat) {q0 : State} (hK : MemIs q0 s) :
    MemIs q0 (drainTimeout s r) := by
  unfold drainTimeout
  repeat' first
    | with_reducible assumption
    | (with_reducible apply MemIs.ite)
    | (with_reducible apply State.wr_memIs)
    | (with_reducible apply pfSet_memIs)

theorem swapGo_memIs (s : State) (r : Nat) {q0 : State} (hK : MemIs q0 s) :
    OptMemIs q0 (swapGo s r) := by
  unfold swapGo
  repeat' first
    | with_reducible assumption
    | (with_reducible exact OptMemIs.none)
    | (with_reducible apply OptMemIs.some)
    | (lift_lets; intro x)
    | (with_reducible apply OptMemIs.ite)
    | (with_reducible apply State.setRegion_memIs)

theorem drainAbort_memIs (s : State) (r : Nat) {q0 : State} (hK : MemIs q0 s) :
    OptMemIs q0 (drainAbort s r) := by
  unfold drainAbort
  repeat' first
    | with_reducible assumption
    | (with_reducible exact OptMemIs.none)
    | (with_reducible apply OptMemIs.some)
    | (with_reducible apply OptMemIs.ite)
    | (with_reducible refine MemIs.foldl (fun _ _ _ => ?_) ?_)
    | (with_reducible apply drainEnd_memIs)
    | (with_reducible apply resumeNi_memIs)

theorem swapAtMark_memIs (s : State) (i fc : Nat) {q0 : State} (hK : MemIs q0 s) :
    MemIs q0 (swapAtMark s i fc) := by
  unfold swapAtMark
  repeat' first
    | with_reducible assumption
    | (intro x; refine MemIs.cut (q := q0) (x := x) ?_ ?_; pick_goal 2; clear_value x; intro hx)
    | (lift_lets; intro x)
    | (intro x)
    | (with_reducible apply MemIs.ite)
    | (with_reducible apply State.setBit_memIs)
    | (with_reducible apply State.setRegion_memIs)
    | (with_reducible apply State.wr_memIs)
    | (with_reducible apply resumeNi_memIs)
    | (with_reducible apply swapRoutes_memIs)
    | (dsimp -zeta only [x])
    | split

theorem jobCtx_memIs (s : State) (i : Nat) (q : OpenReq) (l : Line) {q0 : State} (hK : MemIs q0 s) :
    MemIs q0 (jobCtx s i q l) := by
  unfold jobCtx
  repeat' first
    | with_reducible assumption
    | (intro x; refine MemIs.cut (q := q0) (x := x) ?_ ?_; pick_goal 2; clear_value x; intro hx)
    | (lift_lets; intro x)
    | (intro x)
    | (with_reducible apply MemIs.ite)
    | (with_reducible apply State.setCtx_memIs)
    | (with_reducible apply ctxDelivered_memIs)
    | (with_reducible apply ctxPump_memIs)
    | (with_reducible apply respGot_memIs)

theorem noteGrant_memIs (s : State) (c : CoreId) (wait : Nat) {q0 : State} (hK : MemIs q0 s) :
    MemIs q0 (noteGrant s c wait) := by
  unfold noteGrant
  repeat' first
    | with_reducible assumption
    | (lift_lets; intro x)
    | (with_reducible apply State.setCore_memIs)

theorem atFrame_memIs (s : State) (i cyc : Nat) {q0 : State} (hK : MemIs q0 s) :
    MemIs q0 (atFrame s i cyc) := by
  unfold atFrame
  repeat' first
    | with_reducible assumption
    | (with_reducible apply atCycle_memIs)

theorem noteSlice_memIs (s : State) (i wait : Nat) {q0 : State} (hK : MemIs q0 s) :
    MemIs q0 (noteSlice s i wait) := by
  unfold noteSlice
  repeat' first
    | with_reducible assumption
    | (lift_lets; intro x)
    | (with_reducible apply State.setSite_memIs)

theorem chargeSram_memIs (s : State) (i : Nat) {q0 : State} (hK : MemIs q0 s) :
    OptMemIs q0 (chargeSram s i) := by
  unfold chargeSram
  repeat' first
    | with_reducible assumption
    | (with_reducible exact OptMemIs.none)
    | (with_reducible apply OptMemIs.some)
    | (lift_lets; intro x)
    | (with_reducible apply OptMemIs.ite)
    | (with_reducible apply State.setSite_memIs)

theorem chargeWell_memIs (s : State) (i : Nat) {q0 : State} (hK : MemIs q0 s) :
    OptMemIs q0 (chargeWell s i) := by
  unfold chargeWell
  repeat' first
    | with_reducible assumption
    | (with_reducible exact OptMemIs.none)
    | (with_reducible apply OptMemIs.some)
    | (lift_lets; intro x)
    | (with_reducible apply OptMemIs.ite)
    | (with_reducible apply State.setSite_memIs)

theorem cisAdvance_memIs (s : State) (i : Nat) {q0 : State} (hK : MemIs q0 s) :
    MemIs q0 (cisAdvance s i) := by
  unfold cisAdvance
  repeat' first
    | with_reducible assumption
    | (intro x; refine MemIs.cut (q := q0) (x := x) ?_ ?_; pick_goal 2; clear_value x; intro hx)
    | (lift_lets; intro x)
    | (intro x)
    | (with_reducible apply MemIs.ite)
    | (with_reducible apply State.setSite_memIs)
    | (with_reducible apply State.wr_memIs)
    | (with_reducible apply State.wrap_memIs)

theorem wellRefresh_memIs (s : State) (i cyc : Nat) {q0 : State} (hK : MemIs q0 s) :
    MemIs q0 (wellRefresh s i cyc) := by
  unfold wellRefresh
  repeat' first
    | with_reducible assumption
    | (lift_lets; intro x)
    | (with_reducible apply MemIs.ite)
    | (with_reducible refine MemIs.upTo (fun _ _ _ => ?_) ?_)
    | (with_reducible apply State.setSite_memIs)
    | (dsimp -zeta only [x])
    | split

theorem noteWellSlot_memIs (s : State) (i wait : Nat) {q0 : State} (hK : MemIs q0 s) :
    MemIs q0 (noteWellSlot s i wait) := by
  unfold noteWellSlot
  repeat' first
    | with_reducible assumption
    | (lift_lets; intro x)
    | (with_reducible apply State.setSite_memIs)

theorem wellAdvance_memIs (s : State) (i : Nat) {q0 : State} (hK : MemIs q0 s) :
    MemIs q0 (wellAdvance s i) := by
  unfold wellAdvance
  repeat' first
    | with_reducible assumption
    | (lift_lets; intro x)
    | (intro x)
    | (with_reducible apply MemIs.ite)
    | (with_reducible apply State.wr_memIs)
    | (with_reducible apply State.wrap_memIs)

theorem wstCheck_memIs (s : State) (i pw : Nat) {q0 : State} (hK : MemIs q0 s) : OptMemIs q0 (wstCheck s i pw) := by
  unfold wstCheck
  extract_lets p s1
  have h1 : MemIs q0 s1 := State.wr_memIs _ _ _ _ hK
  clear_value s1
  refine OptMemIs.ite OptMemIs.none ?_
  split
  · exact OptMemIs.some (State.wr_memIs _ _ _ _ h1)
  · exact OptMemIs.some (State.setBit_memIs _ _ _ (State.wr_memIs _ _ _ _ (State.wr_memIs _ _ _ _ (State.wr_memIs _ _ _ _ h1))))

theorem landClr_memIs (s : State) (i z : Nat) {q0 : State} (hK : MemIs q0 s) :
    OptMemIs q0 (landClr s i z) := by
  unfold landClr
  repeat' first
    | with_reducible assumption
    | (with_reducible exact OptMemIs.none)
    | (with_reducible apply OptMemIs.some)
    | (with_reducible apply OptMemIs.ite)
    | (with_reducible apply State.wr_memIs)
    | (with_reducible apply landFree_memIs)

theorem refuseOpens_memIs (s : State) (i : Nat) {q0 : State} (hK : MemIs q0 s) :
    MemIs q0 (refuseOpens s i) := by
  unfold refuseOpens
  repeat' first
    | with_reducible assumption
    | (intro x; refine MemIs.cut (q := q0) (x := x) ?_ ?_; pick_goal 2; clear_value x; intro hx)
    | (lift_lets; intro x)
    | (intro x)
    | (with_reducible refine MemIs.foldl (fun _ _ _ => ?_) ?_)
    | (with_reducible apply State.setBit_memIs)
    | (with_reducible apply State.setSite_memIs)
    | (with_reducible apply showOpen_memIs)
    | split

theorem endAt_memIs (s : State) (ep r : Nat) {q0 : State} (hK : MemIs q0 s) :
    MemIs q0 (endAt s ep r) := by
  unfold endAt
  repeat' first
    | with_reducible assumption
    | (intro x; refine MemIs.cut (q := q0) (x := x) ?_ ?_; pick_goal 2; clear_value x; intro hx)
    | (lift_lets; intro x)
    | (intro x)
    | (with_reducible apply MemIs.ite)
    | (with_reducible refine MemIs.foldl (fun _ _ _ => ?_) ?_)
    | (with_reducible apply State.setCtx_memIs)
    | (with_reducible apply ctxFinish_memIs)
    | (with_reducible apply finish_memIs)

theorem endTransfers_memIs (s : State) (i : Nat) {q0 : State} (hK : MemIs q0 s) :
    MemIs q0 (endTransfers s i) := by
  unfold endTransfers
  repeat' first
    | with_reducible assumption
    | (intro x; refine MemIs.cut (q := q0) (x := x) ?_ ?_; pick_goal 2; clear_value x; intro hx)
    | (lift_lets; intro x; refine MemIs.cut (q := q0) (x := x) ?_ ?_; pick_goal 2; clear_value x; intro hx)
    | (intro x)
    | (with_reducible refine MemIs.foldl (fun _ _ _ => ?_) ?_)
    | (with_reducible apply State.setSite_memIs)
    | (with_reducible apply endAt_memIs)
    | (with_reducible apply landClear_memIs)
    | (with_reducible apply refuseOpens_memIs)
    | (with_reducible apply wbEnd_memIs)

theorem noteBeat_memIs (s : State) (i d : Nat) (k : BeatKind) {q0 : State} (hK : MemIs q0 s) :
    MemIs q0 (noteBeat s i d k) := by
  unfold noteBeat
  repeat' first
    | with_reducible assumption
    | (intro x; refine MemIs.cut (q := q0) (x := x) ?_ ?_; pick_goal 2; clear_value x; intro hx)
    | (lift_lets; intro x)
    | (intro x)
    | (with_reducible apply MemIs.ite)
    | (with_reducible apply State.bump_memIs)
    | (with_reducible apply State.setBit_memIs)
    | (with_reducible apply State.setSite_memIs)
    | (with_reducible apply faultSite_memIs)
    | (with_reducible apply siteEvent_memIs)
    | split

theorem slotLeave_memIs (s : State) (r k st : Nat) {q0 : State} (hK : MemIs q0 s) :
    MemIs q0 (slotLeave s r k st) := by
  unfold slotLeave
  repeat' first
    | with_reducible assumption
    | (with_reducible apply MemIs.ite)
    | (with_reducible apply State.wr_memIs)
    | (with_reducible apply pfSet_memIs)

theorem slotCancel_memIs (s : State) (r k : Nat) {q0 : State} (hK : MemIs q0 s) :
    MemIs q0 (slotCancel s r k) := by
  unfold slotCancel
  repeat' first
    | with_reducible assumption
    | (intro x; refine MemIs.cut (q := q0) (x := x) ?_ ?_; pick_goal 2; clear_value x; intro hx)
    | (lift_lets; intro x)
    | (with_reducible apply MemIs.ite)
    | (with_reducible apply State.setRegion_memIs)
    | (with_reducible apply slotLeave_memIs)

theorem armCore_memIs (s : State) (c : CoreId) {q0 : State} (hK : MemIs q0 s) :
    MemIs q0 (armCore s c) := by
  unfold armCore
  repeat' first
    | with_reducible assumption
    | (intro x; refine MemIs.cut (q := q0) (x := x) ?_ ?_; pick_goal 2; clear_value x; intro hx)
    | (lift_lets; intro x)
    | (intro x)
    | (with_reducible apply State.setCore_memIs)
    | (with_reducible apply State.wr_memIs)

theorem arm_memIs (s : State) (c : CoreId) {q0 : State} (hK : MemIs q0 s) :
    OptMemIs q0 (arm s c) := by
  unfold arm
  repeat' first
    | with_reducible assumption
    | (with_reducible exact OptMemIs.none)
    | (with_reducible apply OptMemIs.some)
    | (with_reducible apply OptMemIs.ite)
    | (with_reducible apply armCore_memIs)

theorem armWrite_memIs (s : State) (c : CoreId) {q0 : State} (hK : MemIs q0 s) :
    MemIs q0 (armWrite s c) := by
  unfold armWrite
  repeat' first
    | with_reducible assumption
    | (with_reducible apply arm_memIs)
    | (with_reducible apply OptMemIs.getD)
    | (with_reducible apply State.setBit_memIs)
    | (with_reducible apply badValue_memIs)

theorem disarm_memIs (s : State) (c : CoreId) {q0 : State} (hK : MemIs q0 s) :
    MemIs q0 (disarm s c) := by
  unfold disarm
  repeat' first
    | with_reducible assumption
    | (with_reducible apply MemIs.ite)
    | (with_reducible apply State.wr_memIs)

theorem leaveFault_memIs (s : State) (r : Nat) {q0 : State} (hK : MemIs q0 s) :
    MemIs q0 (leaveFault s r) := by
  unfold leaveFault
  repeat' first
    | with_reducible assumption
    | (with_reducible apply MemIs.ite)
    | (with_reducible refine MemIs.foldl (fun _ _ _ => ?_) ?_)
    | (with_reducible apply State.wr_memIs)

theorem shadowStart_memIs (s : State) (c : CoreId) {q0 : State} (hK : MemIs q0 s) :
    MemIs q0 (shadowStart s c) := by
  unfold shadowStart
  repeat' first
    | with_reducible assumption
    | (intro x; refine MemIs.cut (q := q0) (x := x) ?_ ?_; pick_goal 2; clear_value x; intro hx)
    | (lift_lets; intro x)
    | (intro x)
    | (with_reducible apply MemIs.ite)
    | (with_reducible apply State.wr_memIs)
    | (with_reducible apply armCore_memIs)

theorem programStart_memIs (s : State) (c : CoreId) {q0 : State} (hK : MemIs q0 s) :
    MemIs q0 (programStart s c) := by
  unfold programStart
  repeat' first
    | with_reducible assumption
    | (intro x; refine MemIs.cut (q := q0) (x := x) ?_ ?_; pick_goal 2; clear_value x; intro hx)
    | (lift_lets; intro x)
    | (intro x)
    | (with_reducible apply MemIs.ite)
    | (with_reducible apply State.setCore_memIs)
    | (with_reducible apply State.wr_memIs)
    | (with_reducible apply leaveFault_memIs)
    | (with_reducible apply shadowStart_memIs)

theorem nextDilation_memIs (s : State) (r : Nat) {q0 : State} (hK : MemIs q0 s) :
    MemIs q0 (nextDilation s r) := by
  unfold nextDilation
  repeat' first
    | with_reducible assumption
    | (intro x; refine MemIs.cut (q := q0) (x := x) ?_ ?_; pick_goal 2; clear_value x; intro hx)
    | (lift_lets; intro x)
    | (intro x)
    | (with_reducible apply MemIs.ite)
    | (with_reducible apply State.setRegion_memIs)
    | (with_reducible apply State.wr_memIs)
    | (with_reducible apply pwrErr_memIs)

theorem extSummary_memIs (s : State) (r : Nat) {q0 : State} (hK : MemIs q0 s) :
    MemIs q0 (extSummary s r) := by
  unfold extSummary
  repeat' first
    | with_reducible assumption
    | (intro x; refine MemIs.cut (q := q0) (x := x) ?_ ?_; pick_goal 2; clear_value x; intro hx)
    | (lift_lets; intro x)
    | (intro x)
    | (with_reducible apply MemIs.ite)
    | (with_reducible apply State.setRegion_memIs)
    | (with_reducible apply regionEvent_memIs)

theorem capCheck_memIs (s : State) (r power : Nat) {q0 : State} (hK : MemIs q0 s) :
    MemIs q0 (capCheck s r power) := by
  unfold capCheck
  repeat' first
    | with_reducible assumption
    | (lift_lets; intro x)
    | (with_reducible apply MemIs.ite)
    | (with_reducible apply pwrErr_memIs)

theorem markGenerate_memIs (s : State) (r power : Nat) {q0 : State} (hK : MemIs q0 s) :
    MemIs q0 (markGenerate s r power) := by
  unfold markGenerate
  repeat' first
    | with_reducible assumption
    | (intro x; refine MemIs.cut (q := q0) (x := x) ?_ ?_; pick_goal 2; clear_value x; intro hx)
    | (lift_lets; intro x)
    | (intro x)
    | (with_reducible apply MemIs.ite)
    | (with_reducible apply State.emit_memIs)
    | (with_reducible apply State.setRegion_memIs)
    | (with_reducible apply capCheck_memIs)
    | (with_reducible apply extSummary_memIs)
    | (with_reducible apply nextDilation_memIs)

theorem markMessage_memIs (s : State) (i r fc t : Nat) {q0 : State} (hK : MemIs q0 s) :
    MemIs q0 (markMessage s i r fc t) := by
  unfold markMessage
  repeat' first
    | with_reducible assumption
    | (intro x; refine MemIs.cut (q := q0) (x := x) ?_ ?_; pick_goal 2; clear_value x; intro hx)
    | (lift_lets; intro x; refine MemIs.cut (q := q0) (x := x) ?_ ?_; pick_goal 2; clear_value x; intro hx)
    | (intro x)
    | (with_reducible apply MemIs.ite)
    | (with_reducible apply State.emit_memIs)
    | (with_reducible apply State.setBit_memIs)
    | (with_reducible apply State.setSite_memIs)

theorem noteSkipped_memIs (s : State) (c : CoreId) {q0 : State} (hK : MemIs q0 s) :
    MemIs q0 (noteSkipped s c) := by
  unfold noteSkipped
  repeat' first
    | with_reducible assumption
    | (lift_lets; intro x)
    | (intro x)
    | (with_reducible apply MemIs.ite)
    | (with_reducible apply State.setCore_memIs)
    | (dsimp -zeta only [x])
    | split

theorem coreFrameEnd_memIs (s : State) (c : CoreId) {q0 : State} (hK : MemIs q0 s) :
    MemIs q0 (coreFrameEnd s c) := by
  unfold coreFrameEnd
  repeat' first
    | with_reducible assumption
    | (intro x; refine MemIs.cut (q := q0) (x := x) ?_ ?_; pick_goal 2; clear_value x; intro hx)
    | (lift_lets; intro x; refine MemIs.cut (q := q0) (x := x) ?_ ?_; pick_goal 2; clear_value x; intro hx)
    | (intro x)
    | (with_reducible apply State.setCore_memIs)
    | (with_reducible apply State.wr_memIs)
    | (with_reducible apply noteSkipped_memIs)

theorem budgetEnd_memIs (s : State) (i : Nat) {q0 : State} (hK : MemIs q0 s) :
    MemIs q0 (budgetEnd s i) := by
  unfold budgetEnd
  repeat' first
    | with_reducible assumption
    | (intro x; refine MemIs.cut (q := q0) (x := x) ?_ ?_; pick_goal 2; clear_value x; intro hx)
    | (lift_lets; intro x)
    | (intro x)
    | (with_reducible apply State.setSite_memIs)
    | (with_reducible apply State.wr_memIs)

theorem portsEnd_memIs (s : State) (i : Nat) {q0 : State} (hK : MemIs q0 s) :
    MemIs q0 (portsEnd s i) := by
  unfold portsEnd
  repeat' first
    | with_reducible assumption
    | (intro x; refine MemIs.cut (q := q0) (x := x) ?_ ?_; pick_goal 2; clear_value x; intro hx)
    | (lift_lets; intro x)
    | (with_reducible apply State.setSite_memIs)
    | (with_reducible apply State.wr_memIs)

theorem lagEnd_memIs (s : State) (i : Nat) {q0 : State} (hK : MemIs q0 s) :
    MemIs q0 (lagEnd s i) := by
  unfold lagEnd
  repeat' first
    | with_reducible assumption
    | (intro x; refine MemIs.cut (q := q0) (x := x) ?_ ?_; pick_goal 2; clear_value x; intro hx)
    | (lift_lets; intro x)
    | (intro x)
    | (with_reducible apply MemIs.ite)
    | (with_reducible apply State.bump_memIs)
    | (with_reducible apply State.wr_memIs)
    | (with_reducible apply State.wrAll_memIs)
    | (dsimp -zeta only [x])
    | split

theorem clockEnd_memIs (s : State) (i : Nat) {q0 : State} (hK : MemIs q0 s) :
    MemIs q0 (clockEnd s i) := by
  unfold clockEnd
  repeat' first
    | with_reducible assumption
    | (intro x; refine MemIs.cut (q := q0) (x := x) ?_ ?_; pick_goal 2; clear_value x; intro hx)
    | (lift_lets; intro x)
    | (intro x)
    | (with_reducible apply MemIs.ite)
    | (with_reducible apply State.bump_memIs)
    | (with_reducible apply State.wr_memIs)
    | (with_reducible apply State.wrAll_memIs)

theorem ceEnd_memIs (s : State) (i : Nat) {q0 : State} (hK : MemIs q0 s) :
    MemIs q0 (ceEnd s i) := by
  unfold ceEnd
  repeat' first
    | with_reducible assumption
    | (intro x; refine MemIs.cut (q := q0) (x := x) ?_ ?_; pick_goal 2; clear_value x; intro hx)
    | (lift_lets; intro x)
    | (intro x)
    | (with_reducible apply MemIs.ite)
    | (with_reducible apply State.setBit_memIs)
    | (with_reducible apply State.setSite_memIs)
    | (with_reducible apply suspect_memIs)

theorem probeEnd_memIs (s : State) (i : Nat) {q0 : State} (hK : MemIs q0 s) :
    MemIs q0 (probeEnd s i) := by
  unfold probeEnd
  repeat' first
    | with_reducible assumption
    | (intro x; refine MemIs.cut (q := q0) (x := x) ?_ ?_; pick_goal 2; clear_value x; intro hx)
    | (lift_lets; intro x)
    | (intro x)
    | (with_reducible apply MemIs.ite)
    | (with_reducible apply State.setBit_memIs)
    | (with_reducible apply State.setSite_memIs)

theorem faultPanel_memIs (s : State) (r : Nat) {q0 : State} (hK : MemIs q0 s) :
    MemIs q0 (faultPanel s r) := by
  unfold faultPanel
  repeat' first
    | with_reducible assumption
    | (intro x; refine MemIs.cut (q := q0) (x := x) ?_ ?_; pick_goal 2; clear_value x; intro hx)
    | (lift_lets; intro x)
    | (intro x)
    | (with_reducible apply MemIs.ite)
    | (with_reducible refine MemIs.upTo (fun _ _ _ => ?_) ?_)
    | (with_reducible apply State.setRegion_memIs)
    | (with_reducible apply State.wr_memIs)
    | (with_reducible apply pfSet_memIs)
    | (with_reducible apply regionEvent_memIs)
    | (with_reducible apply slotCancel_memIs)

theorem resumeAfterClear_memIs (s : State) (i : Nat) {q0 : State} (hK : MemIs q0 s) :
    MemIs q0 (resumeAfterClear s i) := by
  unfold resumeAfterClear
  repeat' first
    | with_reducible assumption
    | (lift_lets; intro x)
    | (with_reducible apply MemIs.ite)
    | (with_reducible apply State.setSite_memIs)
    | (with_reducible apply resumeNi_memIs)

theorem transAtMark_memIs (s : State) (i : Nat) {q0 : State} (hK : MemIs q0 s) :
    MemIs q0 (transAtMark s i) := by
  unfold transAtMark
  repeat' first
    | with_reducible assumption
    | (lift_lets; intro x)
    | (intro x)
    | (with_reducible apply State.setSite_memIs)
    | (with_reducible apply State.wr_memIs)

theorem timersAtMark_memIs (s : State) (i : Nat) {q0 : State} (hK : MemIs q0 s) :
    MemIs q0 (timersAtMark s i) := by
  unfold timersAtMark
  repeat' first
    | with_reducible assumption
    | (lift_lets; intro x)
    | (with_reducible apply MemIs.ite)
    | (with_reducible refine MemIs.foldl (fun _ _ _ => ?_) ?_)
    | (with_reducible apply State.setSite_memIs)
    | (with_reducible apply timerFrame_memIs)

theorem extendFrame_memIs (s : State) (r : Nat) (n : Nat) {q0 : State} (hK : MemIs q0 s) :
    MemIs q0 (extendFrame s r n) := by
  unfold extendFrame
  repeat' first
    | with_reducible assumption
    | (intro x; refine MemIs.cut (q := q0) (x := x) ?_ ?_; pick_goal 2; clear_value x; intro hx)
    | (lift_lets; intro x)
    | (intro x)
    | (with_reducible apply MemIs.ite)
    | (with_reducible refine MemIs.foldl (fun _ _ _ => ?_) ?_)
    | (with_reducible apply State.setBit_memIs)
    | (with_reducible apply State.setRegion_memIs)
    | (with_reducible apply State.wr_memIs)
    | (with_reducible apply regionEvent_memIs)

theorem periodBoundary_memIs (s : State) (i : Nat) {q0 : State} (hK : MemIs q0 s) :
    MemIs q0 (periodBoundary s i) := by
  unfold periodBoundary
  repeat' first
    | with_reducible assumption
    | (with_reducible apply MemIs.ite)
    | (with_reducible apply applySite_memIs)
    | (with_reducible apply budgetEnd_memIs)

theorem noteDone_memIs (s : State) (h g id : Nat) {q0 : State} (hK : MemIs q0 s) :
    MemIs q0 (noteDone s h g id) := by
  unfold noteDone
  repeat' first
    | with_reducible assumption
    | (lift_lets; intro x)
    | (with_reducible apply State.setSlot_memIs)

theorem collStop_memIs (s : State) (h g : Nat) {q0 : State} (hK : MemIs q0 s) :
    MemIs q0 (collStop s h g) := by
  unfold collStop
  repeat' first
    | with_reducible assumption
    | (intro x; refine MemIs.cut (q := q0) (x := x) ?_ ?_; pick_goal 2; clear_value x; intro hx)
    | (lift_lets; intro x)
    | (intro x)
    | (with_reducible refine MemIs.foldl (fun _ _ _ => ?_) ?_)
    | (with_reducible apply State.setStream_memIs)
    | (with_reducible apply State.wr_memIs)
    | (with_reducible apply ctxDrop_memIs)
    | (with_reducible apply setStreamState_memIs)

theorem frGo_memIs (s : State) (p : Nat) {q0 : State} (hK : MemIs q0 s) :
    MemIs q0 (frGo s p) := by
  unfold frGo
  repeat' first
    | with_reducible assumption
    | (intro x; refine MemIs.cut (q := q0) (x := x) ?_ ?_; pick_goal 2; clear_value x; intro hx)
    | (lift_lets; intro x)
    | (intro x)
    | (with_reducible apply MemIs.ite)
    | (with_reducible apply State.setRegion_memIs)
    | (with_reducible apply State.wr_memIs)
    | (with_reducible apply evalRegions_memIs)

theorem requestCancel_memIs (s : State) (r k : Nat) (missing : Bool) {q0 : State} (hK : MemIs q0 s) :
    MemIs q0 (requestCancel s r k missing) := by
  unfold requestCancel
  repeat' first
    | with_reducible assumption
    | (lift_lets; intro x)
    | (with_reducible apply MemIs.ite)
    | (with_reducible apply slotCancel_memIs)

theorem actDone_memIs (s : State) (r k a : Nat) {q0 : State} (hK : MemIs q0 s) :
    MemIs q0 (actDone s r k a) := by
  unfold actDone
  repeat' first
    | with_reducible assumption
    | (lift_lets; intro x)
    | (intro x)
    | (with_reducible apply State.setRegion_memIs)
    | (with_reducible apply slotLeave_memIs)

theorem nextEpoch_memIs (s : State) (i : Nat) {q0 : State} (hK : MemIs q0 s) :
    MemIs q0 (nextEpoch s i) := by
  unfold nextEpoch
  repeat' first
    | with_reducible assumption
    | (with_reducible apply State.wrap_memIs)

theorem freqSite_memIs (s : State) (fs : Nat) (i : Nat) {q0 : State} (hK : MemIs q0 s) :
    MemIs q0 (freqSite s fs i) := by
  unfold freqSite
  repeat' first
    | with_reducible assumption
    | (intro x; refine MemIs.cut (q := q0) (x := x) ?_ ?_; pick_goal 2; clear_value x; intro hx)
    | (lift_lets; intro x)
    | (intro x)
    | (with_reducible apply MemIs.ite)
    | (with_reducible apply State.setSite_memIs)
    | (with_reducible apply State.wr_memIs)

theorem freq_memIs (s : State) (r k : Nat) {q0 : State} (hK : MemIs q0 s) :
    MemIs q0 (freq s r k) := by
  unfold freq
  repeat' first
    | with_reducible assumption
    | (intro x; refine MemIs.cut (q := q0) (x := x) ?_ ?_; pick_goal 2; clear_value x; intro hx)
    | (lift_lets; intro x)
    | (intro x)
    | (with_reducible apply MemIs.ite)
    | (with_reducible refine MemIs.foldl (fun _ _ _ => ?_) ?_)
    | (with_reducible apply State.setRegion_memIs)
    | (with_reducible apply actDone_memIs)
    | (with_reducible apply freqSite_memIs)

theorem freqRampUp_memIs (s : State) (r k : Nat) {q0 : State} (hK : MemIs q0 s) :
    MemIs q0 (freqRampUp s r k) := by
  unfold freqRampUp
  repeat' first
    | with_reducible assumption
    | (lift_lets; intro x)
    | (with_reducible apply MemIs.ite)
    | (with_reducible apply State.setRegion_memIs)

theorem freqRampDown_memIs (s : State) (r : Nat) {q0 : State} (hK : MemIs q0 s) :
    MemIs q0 (freqRampDown s r) := by
  unfold freqRampDown
  repeat' first
    | with_reducible assumption
    | (lift_lets; intro x)
    | (with_reducible apply MemIs.ite)
    | (with_reducible apply State.setRegion_memIs)
    | (dsimp -zeta only [x])
    | split

theorem setCfg_memIs (s : State) (v i : Nat) {q0 : State} (hK : MemIs q0 s) :
    MemIs q0 (setCfg s v i) := by
  unfold setCfg
  repeat' first
    | with_reducible assumption
    | (lift_lets; intro x)
    | (with_reducible apply State.wr_memIs)

theorem frameCfg_memIs (s : State) (r k : Nat) {q0 : State} (hK : MemIs q0 s) :
    MemIs q0 (frameCfg s r k) := by
  unfold frameCfg
  repeat' first
    | with_reducible assumption
    | (lift_lets; intro x)
    | (with_reducible apply MemIs.ite)
    | (with_reducible refine MemIs.foldl (fun _ _ _ => ?_) ?_)
    | (with_reducible apply actDone_memIs)
    | (with_reducible apply nextEpoch_memIs)
    | (with_reducible apply setCfg_memIs)

theorem swapSite_memIs (s : State) (i : Nat) {q0 : State} (hK : MemIs q0 s) :
    MemIs q0 (swapSite s i) := by
  unfold swapSite
  repeat' first
    | with_reducible assumption
    | (intro x; refine MemIs.cut (q := q0) (x := x) ?_ ?_; pick_goal 2; clear_value x; intro hx)
    | (lift_lets; intro x)
    | (intro x)
    | (with_reducible refine MemIs.upTo (fun _ _ _ => ?_) ?_)
    | (with_reducible apply State.wr_memIs)

theorem schedSwap_memIs (s : State) (r k : Nat) {q0 : State} (hK : MemIs q0 s) :
    MemIs q0 (schedSwap s r k) := by
  unfold schedSwap
  repeat' first
    | with_reducible assumption
    | (lift_lets; intro x)
    | (with_reducible apply MemIs.ite)
    | (with_reducible refine MemIs.foldl (fun _ _ _ => ?_) ?_)
    | (with_reducible apply actDone_memIs)
    | (with_reducible apply nextEpoch_memIs)
    | (with_reducible apply swapSite_memIs)

theorem dormantSite_memIs (s : State) (i : Nat) {q0 : State} (hK : MemIs q0 s) :
    MemIs q0 (dormantSite s i) := by
  unfold dormantSite
  repeat' first
    | with_reducible assumption
    | (intro x; refine MemIs.cut (q := q0) (x := x) ?_ ?_; pick_goal 2; clear_value x; intro hx)
    | (lift_lets; intro x)
    | (intro x)
    | (with_reducible apply State.setSite_memIs)
    | (with_reducible apply State.wr_memIs)
    | (with_reducible apply uncouple_memIs)

theorem dormantEnter_memIs (s : State) (r k : Nat) {q0 : State} (hK : MemIs q0 s) :
    MemIs q0 (dormantEnter s r k) := by
  unfold dormantEnter
  repeat' first
    | with_reducible assumption
    | (with_reducible apply MemIs.ite)
    | (with_reducible refine MemIs.foldl (fun _ _ _ => ?_) ?_)
    | (with_reducible apply State.wr_memIs)
    | (with_reducible apply actDone_memIs)
    | (with_reducible apply dormantSite_memIs)

theorem wakeEnd_memIs (s : State) (i : Nat) {q0 : State} (hK : MemIs q0 s) :
    MemIs q0 (wakeEnd s i) := by
  unfold wakeEnd
  repeat' first
    | with_reducible assumption
    | (lift_lets; intro x)
    | (with_reducible apply State.setSite_memIs)
    | (with_reducible apply State.wr_memIs)
    | (with_reducible apply resumeNi_memIs)

theorem wakeFail_memIs (s : State) (i : Nat) (wellReady : Bool) {q0 : State} (hK : MemIs q0 s) :
    MemIs q0 (wakeFail s i wellReady) := by
  unfold wakeFail
  repeat' first
    | with_reducible assumption
    | (intro x; refine MemIs.cut (q := q0) (x := x) ?_ ?_; pick_goal 2; clear_value x; intro hx)
    | (lift_lets; intro x)
    | (with_reducible apply MemIs.ite)
    | (with_reducible apply State.setBit_memIs)
    | (with_reducible apply faultNow_memIs)
    | (with_reducible apply faultRegion_memIs)
    | (with_reducible apply siteEvent_memIs)
    | split

theorem assignGo_memIs (s : State) (r : Nat) {q0 : State} (hK : MemIs q0 s) :
    MemIs q0 (assignGo s r) := by
  unfold assignGo
  repeat' first
    | with_reducible assumption
    | (intro x; refine MemIs.cut (q := q0) (x := x) ?_ ?_; pick_goal 2; clear_value x; intro hx)
    | (lift_lets; intro x)
    | (intro x)
    | (with_reducible apply MemIs.ite)
    | (with_reducible apply State.setRegion_memIs)
    | (with_reducible apply State.wr_memIs)
    | (with_reducible apply badValue_memIs)
    | (with_reducible apply evalRegions_memIs)

theorem queuesEnd_memIs (s : State) (r : Nat) {q0 : State} (hK : MemIs q0 s) :
    MemIs q0 (queuesEnd s r) := by
  unfold queuesEnd
  repeat' first
    | with_reducible assumption
    | (intro x; refine MemIs.cut (q := q0) (x := x) ?_ ?_; pick_goal 2; clear_value x; intro hx)
    | (lift_lets; intro x)
    | (with_reducible apply MemIs.ite)
    | (with_reducible refine MemIs.upTo (fun _ _ _ => ?_) ?_)
    | (with_reducible apply State.wr_memIs)
    | (with_reducible apply State.wrAll_memIs)

theorem coreStop_memIs (s : State) (c : CoreId) {q0 : State} (hK : MemIs q0 s) :
    MemIs q0 (coreStop s c) := by
  unfold coreStop
  repeat' first
    | with_reducible assumption
    | (intro x; refine MemIs.cut (q := q0) (x := x) ?_ ?_; pick_goal 2; clear_value x; intro hx)
    | (lift_lets; intro x)
    | (with_reducible apply MemIs.ite)
    | (with_reducible apply State.setBit_memIs)
    | (with_reducible apply State.wr_memIs)

theorem joinSite_memIs (s : State) (r cfg i : Nat) {q0 : State} (hK : MemIs q0 s) :
    MemIs q0 (joinSite s r cfg i) := by
  unfold joinSite
  repeat' first
    | with_reducible assumption
    | (intro x; refine MemIs.cut (q := q0) (x := x) ?_ ?_; pick_goal 2; clear_value x; intro hx)
    | (lift_lets; intro x; refine MemIs.cut (q := q0) (x := x) ?_ ?_; pick_goal 2; clear_value x; intro hx)
    | (intro x)
    | (with_reducible apply State.setSite_memIs)
    | (with_reducible apply State.wr_memIs)
    | (with_reducible apply setCfg_memIs)

theorem quitSite_memIs (s : State) (i : Nat) {q0 : State} (hK : MemIs q0 s) :
    MemIs q0 (quitSite s i) := by
  unfold quitSite
  repeat' first
    | with_reducible assumption
    | (lift_lets; intro x)
    | (with_reducible apply State.setSite_memIs)
    | (with_reducible apply uncouple_memIs)

theorem clearEnd_memIs (s : State) (i : Nat) {q0 : State} (hK : MemIs q0 s) :
    MemIs q0 (clearEnd s i) := by
  unfold clearEnd
  repeat' first
    | with_reducible assumption
    | (intro x; refine MemIs.cut (q := q0) (x := x) ?_ ?_; pick_goal 2; clear_value x; intro hx)
    | (lift_lets; intro x; refine MemIs.cut (q := q0) (x := x) ?_ ?_; pick_goal 2; clear_value x; intro hx)
    | (intro x)
    | (with_reducible apply MemIs.ite)
    | (with_reducible refine MemIs.upTo (fun _ _ _ => ?_) ?_)
    | (with_reducible apply State.setSite_memIs)
    | (with_reducible apply State.wr_memIs)
    | (with_reducible apply resumeNi_memIs)

theorem regionClearDone_memIs (s : State) (r : Nat) {q0 : State} (hK : MemIs q0 s) :
    MemIs q0 (regionClearDone s r) := by
  unfold regionClearDone
  repeat' first
    | with_reducible assumption
    | (intro x; refine MemIs.cut (q := q0) (x := x) ?_ ?_; pick_goal 2; clear_value x; intro hx)
    | (lift_lets; intro x)
    | (with_reducible apply MemIs.ite)
    | (with_reducible refine MemIs.foldl (fun _ _ _ => ?_) ?_)
    | (with_reducible apply State.wr_memIs)
    | (with_reducible apply clearEnd_memIs)

theorem portErr_memIs (s : State) (h p b : Nat) {q0 : State} (hK : MemIs q0 s) :
    MemIs q0 (portErr s h p b) := by
  unfold portErr
  repeat' first
    | with_reducible assumption
    | (with_reducible apply State.orBits_memIs)

theorem portEvent_memIs (s : State) (h p sub : Nat) {q0 : State} (hK : MemIs q0 s) :
    MemIs q0 (portEvent s h p sub) := by
  unfold portEvent
  repeat' first
    | with_reducible assumption
    | (with_reducible apply logEvent_memIs)

theorem showBridge_memIs (s : State) {q0 : State} (hK : MemIs q0 s) :
    MemIs q0 (showBridge s) := by
  unfold showBridge
  repeat' first
    | with_reducible assumption
    | (lift_lets; intro x)
    | (with_reducible apply State.wr_memIs)

theorem showParent_memIs (s : State) {q0 : State} (hK : MemIs q0 s) :
    MemIs q0 (showParent s) := by
  unfold showParent
  repeat' first
    | with_reducible assumption
    | (with_reducible apply MemIs.ite)
    | (with_reducible apply State.wr_memIs)
    | split

theorem collPortDown_memIs (s : State) (h p : Nat) {q0 : State} (hK : MemIs q0 s) :
    MemIs q0 (collPortDown s h p) := by
  unfold collPortDown
  repeat' first
    | with_reducible assumption
    | (lift_lets; intro x)
    | (with_reducible apply MemIs.ite)
    | (with_reducible refine MemIs.upTo (fun _ _ _ => ?_) ?_)
    | (with_reducible apply collHopFail_memIs)
    | (dsimp -zeta only [x])
    | split

theorem trainStart_memIs (s : State) (h p : Nat) (tell : Bool) {q0 : State} (hK : MemIs q0 s) :
    MemIs q0 (trainStart s h p tell) := by
  unfold trainStart
  repeat' first
    | with_reducible assumption
    | (lift_lets; intro x; refine MemIs.cut (q := q0) (x := x) ?_ ?_; pick_goal 2; clear_value x; intro hx)
    | (with_reducible apply MemIs.ite)
    | (with_reducible apply State.wr_memIs)
    | (with_reducible apply portErr_memIs)
    | (with_reducible apply sendBlock_memIs)
    | (with_reducible apply showBridge_memIs)

theorem retrainHost_memIs (s : State) (h p : Nat) {q0 : State} (hK : MemIs q0 s) :
    MemIs q0 (retrainHost s h p) := by
  unfold retrainHost
  repeat' first
    | with_reducible assumption
    | (with_reducible apply MemIs.ite)
    | (with_reducible apply trainStart_memIs)

theorem replayFrom_memIs (s : State) (h p seq : Nat) {q0 : State} (hK : MemIs q0 s) :
    MemIs q0 (replayFrom s h p seq) := by
  unfold replayFrom
  repeat' first
    | with_reducible assumption
    | (with_reducible refine MemIs.foldl (fun _ _ _ => ?_) ?_)
    | (with_reducible apply State.emit_memIs)

theorem hdrTake_memIs (s : State) (h p hdr : Nat) {q0 : State} (hK : MemIs q0 s) :
    MemIs q0 (hdrTake s h p hdr) := by
  unfold hdrTake
  repeat' first
    | with_reducible assumption
    | (lift_lets; intro x)
    | (intro x)
    | (with_reducible apply State.setOptic_memIs)
    | (with_reducible apply drainPort_memIs)

theorem askReplay_memIs (s : State) (h p : Nat) {q0 : State} (hK : MemIs q0 s) :
    MemIs q0 (askReplay s h p) := by
  unfold askReplay
  repeat' first
    | with_reducible assumption
    | (with_reducible apply sendPlain_memIs)

theorem identSend_memIs (s : State) (h p : Nat) {q0 : State} (hK : MemIs q0 s) :
    MemIs q0 (identSend s h p) := by
  unfold identSend
  repeat' first
    | with_reducible assumption
    | (with_reducible apply MemIs.ite)
    | (with_reducible apply sendPlain_memIs)

theorem moveTime_memIs (s : State) (d : Int) {q0 : State} (hK : MemIs q0 s) :
    MemIs q0 (moveTime s d) := by
  unfold moveTime
  repeat' first
    | with_reducible assumption
    | (simp -zeta only [↓MemIs.lit])

theorem correctTime_memIs (s : State) (th : Int) {q0 : State} (hK : MemIs q0 s) :
    MemIs q0 (correctTime s th) := by
  unfold correctTime
  repeat' first
    | with_reducible assumption
    | (intro x; refine MemIs.cut (q := q0) (x := x) ?_ ?_; pick_goal 2; clear_value x; intro hx)
    | (lift_lets; intro x; refine MemIs.cut (q := q0) (x := x) ?_ ?_; pick_goal 2; clear_value x; intro hx)
    | (with_reducible apply MemIs.ite)
    | (with_reducible apply State.bump_memIs)
    | (with_reducible apply State.wr_memIs)
    | (with_reducible apply moveTime_memIs)
    | (with_reducible apply panelEvent_memIs)

theorem timeIn_memIs (s : State) (h p : Nat) (b : TimeBlk) {q0 : State} (hK : MemIs q0 s) :
    MemIs q0 (timeIn s h p b) := by
  unfold timeIn
  repeat' first
    | with_reducible assumption
    | (intro x; refine MemIs.cut (q := q0) (x := x) ?_ ?_; pick_goal 2; clear_value x; intro hx)
    | (lift_lets; intro x)
    | (intro x)
    | (with_reducible apply MemIs.ite)
    | (with_reducible apply State.emit_memIs)
    | (with_reducible apply State.setOptic_memIs)
    | (with_reducible apply correctTime_memIs)
    | (with_reducible apply showParent_memIs)
    | (dsimp -zeta only [x])
    | split

theorem timeExchange_memIs (s : State) (h p : Nat) {q0 : State} (hK : MemIs q0 s) :
    MemIs q0 (timeExchange s h p) := by
  unfold timeExchange
  repeat' first
    | with_reducible assumption
    | (lift_lets; intro x)
    | (with_reducible apply MemIs.ite)
    | (with_reducible apply State.emit_memIs)

theorem frtCheck_memIs (s : State) (h : Nat) {q0 : State} (hK : MemIs q0 s) :
    MemIs q0 (frtCheck s h) := by
  unfold frtCheck
  repeat' first
    | with_reducible assumption
    | (lift_lets; intro x)
    | (intro x)
    | (with_reducible apply State.wr_memIs)

theorem frtSwap_memIs (s : State) (h : Nat) {q0 : State} (hK : MemIs q0 s) :
    OptMemIs q0 (frtSwap s h) := by
  unfold frtSwap
  repeat' first
    | with_reducible assumption
    | (with_reducible exact OptMemIs.none)
    | (with_reducible apply OptMemIs.some)
    | (intro x; refine MemIs.cut (q := q0) (x := x) ?_ ?_; pick_goal 2; clear_value x; intro hx)
    | (lift_lets; intro x)
    | (intro x)
    | (with_reducible apply OptMemIs.ite)
    | (with_reducible refine MemIs.upTo (fun _ _ _ => ?_) ?_)
    | (with_reducible apply State.wr_memIs)
    | (dsimp -zeta only [x])
    | (simp -zeta only [↓MemIs.lit])

end Sys2Proof.Machine
end

