-- ==== Sys2Proof/Laws/MemIsPanel.lean ====
section
/-! SUPPORT. Operations that change no byte and no mark of memory. -/

namespace Sys2Proof.Machine

theorem dieEvent_memIs (s : State) (h slot : Nat) {q0 : State} (hK : MemIs q0 s) :
    MemIs q0 (dieEvent s h slot) := by
  unfold dieEvent
  repeat' first
    | with_reducible assumption
    | (with_reducible apply logEvent_memIs)

theorem x16Err_memIs (s : State) (h b : Nat) {q0 : State} (hK : MemIs q0 s) :
    MemIs q0 (x16Err s h b) := by
  unfold x16Err
  repeat' first
    | with_reducible assumption
    | (with_reducible apply State.orBits_memIs)

theorem hostDone_memIs (s : State) (h k : Nat) (err : Bool) (data poison : Nat) {q0 : State} (hK : MemIs q0 s) :
    MemIs q0 (hostDone s h k err data poison) := by
  unfold hostDone
  repeat' first
    | with_reducible assumption
    | (intro x; refine MemIs.cut (q := q0) (x := x) ?_ ?_; pick_goal 2; clear_value x; intro hx)
    | (lift_lets; intro x)
    | (intro x)
    | (with_reducible apply MemIs.ite)
    | (with_reducible apply ctxDelivered_memIs)
    | (with_reducible apply ctxFinish_memIs)
    | (with_reducible apply ctxPump_memIs)
    | (with_reducible apply respGot_memIs)
    | (with_reducible apply x16Err_memIs)

theorem deepDown_memIs (s : State) (h : Nat) {q0 : State} (hK : MemIs q0 s) :
    MemIs q0 (deepDown s h) := by
  unfold deepDown
  repeat' first
    | with_reducible assumption
    | (lift_lets; intro x; refine MemIs.cut (q := q0) (x := x) ?_ ?_; pick_goal 2; clear_value x; intro hx)
    | (intro x)
    | (with_reducible apply MemIs.ite)
    | (with_reducible refine MemIs.foldl (fun _ _ _ => ?_) ?_)
    | (with_reducible apply State.wr_memIs)
    | (with_reducible apply ctxFinish_memIs)
    | (with_reducible apply x16Err_memIs)

theorem hotReset_memIs (s : State) (h : Nat) {q0 : State} (hK : MemIs q0 s) :
    MemIs q0 (hotReset s h) := by
  unfold hotReset
  repeat' first
    | with_reducible assumption
    | (with_reducible apply MemIs.ite)
    | (with_reducible apply x16Err_memIs)

theorem twinErr_memIs (s : State) (b : Nat) {q0 : State} (hK : MemIs q0 s) :
    MemIs q0 (twinErr s b) := by
  unfold twinErr
  repeat' first
    | with_reducible assumption
    | (with_reducible apply State.orBits_memIs)

theorem twinGo_memIs (s : State) (v : Nat) (leave : Bool) {q0 : State} (hK : MemIs q0 s) :
    MemIs q0 (twinGo s v leave) := by
  unfold twinGo
  repeat' first
    | with_reducible assumption
    | (intro x; refine MemIs.cut (q := q0) (x := x) ?_ ?_; pick_goal 2; clear_value x; intro hx)
    | (lift_lets; intro x)
    | (with_reducible apply MemIs.ite)
    | (with_reducible apply State.wr_memIs)
    | (with_reducible apply panelEvent_memIs)
    | (with_reducible apply pfSet_memIs)

theorem tell_memIs (s : State) (m : TwinMsg) {q0 : State} (hK : MemIs q0 s) :
    MemIs q0 (tell s m) := by
  unfold tell
  repeat' first
    | with_reducible assumption
    | (lift_lets; intro x)
    | (with_reducible apply MemIs.ite)
    | (with_reducible apply State.emit_memIs)

theorem heartbeat_memIs (s : State) {q0 : State} (hK : MemIs q0 s) :
    MemIs q0 (heartbeat s) := by
  unfold heartbeat
  repeat' first
    | with_reducible assumption
    | (lift_lets; intro x)
    | (with_reducible apply State.draw_memIs)
    | (with_reducible apply tell_memIs)
    | (dsimp -zeta only [x])
    | (simp -zeta only [↓MemIs.lit])

theorem hbLoss_memIs (s : State) (b : Nat) {q0 : State} (hK : MemIs q0 s) :
    MemIs q0 (hbLoss s b) := by
  unfold hbLoss
  repeat' first
    | with_reducible assumption
    | (intro x; refine MemIs.cut (q := q0) (x := x) ?_ ?_; pick_goal 2; clear_value x; intro hx)
    | (lift_lets; intro x)
    | (intro x)
    | (with_reducible apply MemIs.ite)
    | (with_reducible apply State.bump_memIs)
    | (with_reducible apply panelEvent_memIs)
    | (with_reducible apply pfSet_memIs)
    | (with_reducible apply twinErr_memIs)
    | (with_reducible apply twinGo_memIs)
    | (dsimp -zeta only [x])
    | (simp -zeta only [↓MemIs.lit])

theorem twinBad_memIs (s : State) {q0 : State} (hK : MemIs q0 s) :
    MemIs q0 (twinBad s) := by
  unfold twinBad
  repeat' first
    | with_reducible assumption
    | (with_reducible apply badValue_memIs)
    | (with_reducible apply twinErr_memIs)

theorem pairMeet_memIs (s : State) {q0 : State} (hK : MemIs q0 s) :
    MemIs q0 (pairMeet s) := by
  unfold pairMeet
  repeat' first
    | with_reducible assumption
    | (lift_lets; intro x)
    | (with_reducible apply MemIs.ite)
    | (with_reducible apply twinErr_memIs)
    | (with_reducible apply twinGo_memIs)
    | (dsimp -zeta only [x])
    | split
    | (simp -zeta only [↓MemIs.lit])

theorem pair_memIs (s : State) (ovr : Bool) {q0 : State} (hK : MemIs q0 s) :
    MemIs q0 (pair s ovr) := by
  unfold pair
  repeat' first
    | with_reducible assumption
    | (intro x; refine MemIs.cut (q := q0) (x := x) ?_ ?_; pick_goal 2; clear_value x; intro hx)
    | (lift_lets; intro x)
    | (with_reducible apply MemIs.ite)
    | (with_reducible apply pairMeet_memIs)
    | (with_reducible apply tell_memIs)
    | (with_reducible apply twinBad_memIs)
    | (with_reducible apply twinErr_memIs)
    | (with_reducible apply twinGo_memIs)
    | (dsimp -zeta only [x])
    | (simp -zeta only [↓MemIs.lit])

theorem pairTimeout_memIs (s : State) {q0 : State} (hK : MemIs q0 s) :
    MemIs q0 (pairTimeout s) := by
  unfold pairTimeout
  repeat' first
    | with_reducible assumption
    | (with_reducible apply MemIs.ite)
    | (with_reducible apply twinErr_memIs)
    | (with_reducible apply twinGo_memIs)

theorem unpair_memIs (s : State) {q0 : State} (hK : MemIs q0 s) :
    MemIs q0 (unpair s) := by
  unfold unpair
  repeat' first
    | with_reducible assumption
    | (with_reducible apply MemIs.ite)
    | (with_reducible apply tell_memIs)
    | (with_reducible apply twinBad_memIs)
    | (with_reducible apply twinGo_memIs)

theorem reqDetach_memIs (s : State) {q0 : State} (hK : MemIs q0 s) :
    MemIs q0 (reqDetach s) := by
  unfold reqDetach
  repeat' first
    | with_reducible assumption
    | (with_reducible apply MemIs.ite)
    | (with_reducible apply tell_memIs)
    | (with_reducible apply twinBad_memIs)
    | (with_reducible apply twinGo_memIs)

theorem detachTimeout_memIs (s : State) {q0 : State} (hK : MemIs q0 s) :
    MemIs q0 (detachTimeout s) := by
  unfold detachTimeout
  repeat' first
    | with_reducible assumption
    | (with_reducible apply MemIs.ite)
    | (with_reducible apply twinErr_memIs)
    | (with_reducible apply twinGo_memIs)

theorem shrunk_memIs (s : State) {q0 : State} (hK : MemIs q0 s) :
    MemIs q0 (shrunk s) := by
  unfold shrunk
  repeat' first
    | with_reducible assumption
    | (with_reducible apply MemIs.ite)
    | (with_reducible apply tell_memIs)
    | (with_reducible apply twinBad_memIs)
    | (with_reducible apply twinGo_memIs)

theorem reqAttach_memIs (s : State) {q0 : State} (hK : MemIs q0 s) :
    MemIs q0 (reqAttach s) := by
  unfold reqAttach
  repeat' first
    | with_reducible assumption
    | (with_reducible apply MemIs.ite)
    | (with_reducible apply State.wr_memIs)
    | (with_reducible apply tell_memIs)
    | (with_reducible apply twinBad_memIs)
    | (with_reducible apply twinGo_memIs)

theorem attach_memIs (s : State) {q0 : State} (hK : MemIs q0 s) :
    MemIs q0 (attach s) := by
  unfold attach
  repeat' first
    | with_reducible assumption
    | (with_reducible apply MemIs.ite)
    | (with_reducible apply tell_memIs)
    | (with_reducible apply twinBad_memIs)
    | (with_reducible apply twinGo_memIs)

theorem twinAbort_memIs (s : State) {q0 : State} (hK : MemIs q0 s) :
    MemIs q0 (twinAbort s) := by
  unfold twinAbort
  repeat' first
    | with_reducible assumption
    | (with_reducible apply MemIs.ite)
    | (with_reducible apply tell_memIs)
    | (with_reducible apply twinBad_memIs)
    | (with_reducible apply twinGo_memIs)

theorem twinDigest_memIs (s : State) (same : Bool) {q0 : State} (hK : MemIs q0 s) :
    MemIs q0 (twinDigest s same) := by
  unfold twinDigest
  repeat' first
    | with_reducible assumption
    | (intro x; refine MemIs.cut (q := q0) (x := x) ?_ ?_; pick_goal 2; clear_value x; intro hx)
    | (lift_lets; intro x)
    | (with_reducible apply MemIs.ite)
    | (with_reducible apply State.wr_memIs)
    | (with_reducible apply twinErr_memIs)
    | (with_reducible apply twinGo_memIs)

theorem onDetach_memIs (s : State) {q0 : State} (hK : MemIs q0 s) :
    MemIs q0 (onDetach s) := by
  unfold onDetach
  repeat' first
    | with_reducible assumption
    | (with_reducible apply MemIs.ite)
    | (with_reducible apply tell_memIs)
    | (with_reducible apply twinErr_memIs)
    | (with_reducible apply twinGo_memIs)

theorem twinIn_memIs (s : State) (b : Nat) (m : TwinMsg) {q0 : State} (hK : MemIs q0 s) :
    MemIs q0 (twinIn s b m) := by
  unfold twinIn
  repeat' first
    | with_reducible assumption
    | (lift_lets; intro x)
    | (with_reducible apply MemIs.ite)
    | (with_reducible apply onDetach_memIs)
    | (with_reducible apply pairMeet_memIs)
    | (with_reducible apply twinDigest_memIs)
    | (with_reducible apply twinErr_memIs)
    | (with_reducible apply twinGo_memIs)
    | (dsimp -zeta only [x])
    | split
    | (simp -zeta only [↓MemIs.lit])

theorem setDir_memIs (s : State) (i d v : Nat) {q0 : State} (hK : MemIs q0 s) :
    MemIs q0 (setDir s i d v) := by
  unfold setDir
  repeat' first
    | with_reducible assumption
    | (lift_lets; intro x)
    | (intro x)
    | (with_reducible apply State.wr_memIs)

theorem setRowReg_memIs (s : State) (i w : Nat) {q0 : State} (hK : MemIs q0 s) :
    MemIs q0 (setRowReg s i w) := by
  unfold setRowReg
  repeat' first
    | with_reducible assumption
    | (lift_lets; intro x)
    | (intro x)
    | (with_reducible apply State.wr_memIs)

theorem setLog_memIs (s : State) (i j u : Nat) {q0 : State} (hK : MemIs q0 s) :
    MemIs q0 (setLog s i j u) := by
  unfold setLog
  repeat' first
    | with_reducible assumption
    | (lift_lets; intro x)
    | (with_reducible apply State.wr_memIs)

theorem setCaps_memIs (s : State) (rows : List Nat) (i : Nat) {q0 : State} (hK : MemIs q0 s) :
    MemIs q0 (setCaps s rows i) := by
  unfold setCaps
  repeat' first
    | with_reducible assumption
    | (lift_lets; intro x)
    | (with_reducible refine MemIs.upTo (fun _ _ _ => ?_) ?_)
    | (with_reducible apply State.wr_memIs)

theorem setEntry_memIs (s : State) (rows : List Nat) (n seq i : Nat) {q0 : State} (hK : MemIs q0 s) :
    MemIs q0 (setEntry s rows n seq i) := by
  unfold setEntry
  repeat' first
    | with_reducible assumption
    | (intro x; refine MemIs.cut (q := q0) (x := x) ?_ ?_; pick_goal 2; clear_value x; intro hx)
    | (lift_lets; intro x; refine MemIs.cut (q := q0) (x := x) ?_ ?_; pick_goal 2; clear_value x; intro hx)
    | (lift_lets; intro x)
    | (intro x)
    | (with_reducible refine MemIs.upTo (fun _ _ _ => ?_) ?_)
    | (with_reducible apply State.wr_memIs)
    | (with_reducible apply setCaps_memIs)
    | (with_reducible apply setDir_memIs)
    | (with_reducible apply setLog_memIs)
    | (with_reducible apply setRowReg_memIs)
    | split

theorem startNi_memIs (s : State) (i : Nat) {q0 : State} (hK : MemIs q0 s) :
    MemIs q0 (startNi s i) := by
  unfold startNi
  repeat' first
    | with_reducible assumption
    | (lift_lets; intro x)
    | (with_reducible apply MemIs.ite)
    | (with_reducible apply State.wr_memIs)

theorem showRows_memIs (s : State) (rows : List Nat) {q0 : State} (hK : MemIs q0 s) :
    MemIs q0 (showRows s rows) := by
  unfold showRows
  repeat' first
    | with_reducible assumption
    | (with_reducible refine MemIs.foldl (fun _ _ _ => ?_) ?_)
    | (with_reducible apply State.wr_memIs)

theorem showMap_memIs (s : State) (cls n seq : Nat) {q0 : State} (hK : MemIs q0 s) :
    MemIs q0 (showMap s cls n seq) := by
  unfold showMap
  repeat' first
    | with_reducible assumption
    | (with_reducible apply State.wr_memIs)

theorem mapRun_memIs (s : State) (body : List Nat) {q0 : State} (hK : MemIs q0 s) :
    MemIs q0 (mapRun s body) := by
  unfold mapRun
  repeat' first
    | with_reducible assumption
    | (intro x; refine MemIs.cut (q := q0) (x := x) ?_ ?_; pick_goal 2; clear_value x; intro hx)
    | (lift_lets; intro x)
    | (intro x)
    | (with_reducible apply MemIs.ite)
    | (with_reducible refine MemIs.upTo (fun _ _ _ => ?_) ?_)
    | (with_reducible apply State.wr_memIs)
    | (with_reducible apply recPut_memIs)
    | (with_reducible apply setEntry_memIs)
    | (with_reducible apply showMap_memIs)
    | (with_reducible apply showRows_memIs)
    | (with_reducible apply startNi_memIs)

theorem regionDrop_memIs (s : State) (r : Nat) {q0 : State} (hK : MemIs q0 s) :
    MemIs q0 (regionDrop s r) := by
  unfold regionDrop
  repeat' first
    | with_reducible assumption
    | (with_reducible apply MemIs.ite)
    | (with_reducible refine MemIs.foldl (fun _ _ _ => ?_) ?_)
    | (with_reducible apply State.setRegion_memIs)
    | (with_reducible apply State.wr_memIs)
    | (with_reducible apply quitSite_memIs)

theorem stepEnd_memIs (s : State) (st code : Nat) {q0 : State} (hK : MemIs q0 s) :
    MemIs q0 (stepEnd s st code) := by
  unfold stepEnd
  repeat' first
    | with_reducible assumption
    | (intro x; refine MemIs.cut (q := q0) (x := x) ?_ ?_; pick_goal 2; clear_value x; intro hx)
    | (lift_lets; intro x; refine MemIs.cut (q := q0) (x := x) ?_ ?_; pick_goal 2; clear_value x; intro hx)
    | (with_reducible apply State.wr_memIs)
    | (with_reducible apply panelEvent_memIs)
    | (with_reducible apply pfSet_memIs)

theorem stepFail_memIs (s : State) (code unit : Nat) {q0 : State} (hK : MemIs q0 s) :
    MemIs q0 (stepFail s code unit) := by
  unfold stepFail
  repeat' first
    | with_reducible assumption
    | (lift_lets; intro x)
    | (intro x)
    | (with_reducible apply stepEnd_memIs)
    | (dsimp -zeta only [x])
    | (simp -zeta only [↓MemIs.lit])

theorem stepPass_memIs (s : State) {q0 : State} (hK : MemIs q0 s) :
    MemIs q0 (stepPass s) := by
  unfold stepPass
  repeat' first
    | with_reducible assumption
    | (lift_lets; intro x)
    | (with_reducible apply State.wr_memIs)
    | (with_reducible apply stepEnd_memIs)

theorem enterFailed_memIs (s : State) (i : Nat) {q0 : State} (hK : MemIs q0 s) :
    MemIs q0 (enterFailed s i) := by
  unfold enterFailed
  repeat' first
    | with_reducible assumption
    | (lift_lets; intro x; refine MemIs.cut (q := q0) (x := x) ?_ ?_; pick_goal 2; clear_value x; intro hx)
    | (intro x)
    | (with_reducible apply MemIs.ite)
    | (with_reducible apply State.orBits_memIs)
    | (dsimp -zeta only [x])
    | (simp -zeta only [↓MemIs.lit])

theorem linkUp_memIs (s : State) (i : Nat) {q0 : State} (hK : MemIs q0 s) :
    MemIs q0 (linkUp s i) := by
  unfold linkUp
  repeat' first
    | with_reducible assumption
    | (intro x; refine MemIs.cut (q := q0) (x := x) ?_ ?_; pick_goal 2; clear_value x; intro hx)
    | (lift_lets; intro x)
    | (with_reducible apply MemIs.ite)
    | (with_reducible apply State.wr_memIs)
    | (with_reducible apply regsReset_memIs)

theorem hubUp_memIs (s : State) (h : Nat) {q0 : State} (hK : MemIs q0 s) :
    MemIs q0 (hubUp s h) := by
  unfold hubUp
  repeat' first
    | with_reducible assumption
    | (intro x; refine MemIs.cut (q := q0) (x := x) ?_ ?_; pick_goal 2; clear_value x; intro hx)
    | (lift_lets; intro x)
    | (with_reducible apply MemIs.ite)
    | (with_reducible apply State.setHubDom_memIs)
    | (with_reducible apply regsReset_memIs)

theorem calLoad_memIs (s : State) (i : Nat) {q0 : State} (hK : MemIs q0 s) :
    MemIs q0 (calLoad s i) := by
  unfold calLoad
  repeat' first
    | with_reducible assumption
    | (intro x; refine MemIs.cut (q := q0) (x := x) ?_ ?_; pick_goal 2; clear_value x; intro hx)
    | (lift_lets; intro x)
    | (intro x)
    | (with_reducible apply State.setBit_memIs)
    | (with_reducible apply State.setSite_memIs)
    | (with_reducible apply State.wr_memIs)
    | (with_reducible apply siteEvent_memIs)
    | (dsimp -zeta only [x])
    | split

theorem logicUp_memIs (s : State) (i : Nat) {q0 : State} (hK : MemIs q0 s) :
    MemIs q0 (logicUp s i) := by
  unfold logicUp
  repeat' first
    | with_reducible assumption
    | (intro x; refine MemIs.cut (q := q0) (x := x) ?_ ?_; pick_goal 2; clear_value x; intro hx)
    | (lift_lets; intro x)
    | (intro x)
    | (with_reducible apply MemIs.ite)
    | (with_reducible refine MemIs.foldl (fun _ _ _ => ?_) ?_)
    | (with_reducible apply State.setCore_memIs)
    | (with_reducible apply State.setSite_memIs)
    | (with_reducible apply State.wr_memIs)
    | (with_reducible apply calLoad_memIs)
    | (with_reducible apply regsReset_memIs)

theorem domainsOff_memIs (s : State) {q0 : State} (hK : MemIs q0 s) :
    MemIs q0 (domainsOff s) := by
  unfold domainsOff
  repeat' first
    | with_reducible assumption
    | (lift_lets; intro x; refine MemIs.cut (q := q0) (x := x) ?_ ?_; pick_goal 2; clear_value x; intro hx)
    | (with_reducible refine MemIs.upTo (fun _ _ _ => ?_) ?_)
    | (with_reducible apply State.wr_memIs)
    | (simp -zeta only [↓MemIs.lit])

theorem baseStart_memIs (s : State) {q0 : State} (hK : MemIs q0 s) :
    MemIs q0 (baseStart s) := by
  unfold baseStart
  repeat' first
    | with_reducible assumption
    | (intro x; refine MemIs.cut (q := q0) (x := x) ?_ ?_; pick_goal 2; clear_value x; intro hx)
    | (lift_lets; intro x; refine MemIs.cut (q := q0) (x := x) ?_ ?_; pick_goal 2; clear_value x; intro hx)
    | (with_reducible apply State.wr_memIs)
    | (with_reducible apply domainsOff_memIs)
    | (dsimp -zeta only [x])
    | (simp -zeta only [↓MemIs.lit])

theorem heldPort_memIs (s : State) {q0 : State} (hK : MemIs q0 s) :
    MemIs q0 (heldPort s) := by
  unfold heldPort
  repeat' first
    | with_reducible assumption
    | (with_reducible apply State.setBit_memIs)
    | (with_reducible apply panelEvent_memIs)

theorem boot_memIs (s : State) (k : Nat) {q0 : State} (hK : MemIs q0 s) :
    MemIs q0 (boot s k) := by
  unfold boot
  repeat' first
    | with_reducible assumption
    | (intro x; refine MemIs.cut (q := q0) (x := x) ?_ ?_; pick_goal 2; clear_value x; intro hx)
    | (lift_lets; intro x)
    | (with_reducible apply State.wr_memIs)
    | (with_reducible apply State.wrap_memIs)

theorem showCap_memIs (s : State) (h : Nat) {q0 : State} (hK : MemIs q0 s) :
    MemIs q0 (showCap s h) := by
  unfold showCap
  repeat' first
    | with_reducible assumption
    | (with_reducible apply State.wr_memIs)

theorem baseDone_memIs (s : State) {q0 : State} (hK : MemIs q0 s) :
    MemIs q0 (baseDone s) := by
  unfold baseDone
  repeat' first
    | with_reducible assumption
    | (intro x; refine MemIs.cut (q := q0) (x := x) ?_ ?_; pick_goal 2; clear_value x; intro hx)
    | (lift_lets; intro x; refine MemIs.cut (q := q0) (x := x) ?_ ?_; pick_goal 2; clear_value x; intro hx)
    | (lift_lets; intro x)
    | (with_reducible apply MemIs.ite)
    | (with_reducible apply State.setBit_memIs)
    | (with_reducible apply State.wr_memIs)
    | (with_reducible apply boot_memIs)
    | (with_reducible apply panelEvent_memIs)
    | (with_reducible apply stepFail_memIs)
    | (with_reducible apply stepPass_memIs)
    | (dsimp -zeta only [x])
    | split
    | (simp -zeta only [↓MemIs.lit])

theorem discoverDone_memIs (s : State) {q0 : State} (hK : MemIs q0 s) :
    MemIs q0 (discoverDone s) := by
  unfold discoverDone
  repeat' first
    | with_reducible assumption
    | (with_reducible refine MemIs.upTo (fun _ _ _ => ?_) ?_)
    | (with_reducible apply State.wr_memIs)
    | (with_reducible apply showCap_memIs)
    | (with_reducible apply stepPass_memIs)
    | (simp -zeta only [↓MemIs.lit])

theorem fenceDone_memIs (s : State) (dies : List (BitVec 4 × BitVec 6)) {q0 : State} (hK : MemIs q0 s) :
    MemIs q0 (fenceDone s dies) := by
  unfold fenceDone
  repeat' first
    | with_reducible assumption
    | (intro x; refine MemIs.cut (q := q0) (x := x) ?_ ?_; pick_goal 2; clear_value x; intro hx)
    | (lift_lets; intro x)
    | (intro x)
    | (with_reducible apply MemIs.ite)
    | (with_reducible refine MemIs.upTo (fun _ _ _ => ?_) ?_)
    | (with_reducible apply State.setHub_memIs)
    | (with_reducible apply State.wr_memIs)
    | (with_reducible apply stepFail_memIs)
    | (with_reducible apply stepPass_memIs)

theorem laneLoad_memIs (s : State) {q0 : State} (hK : MemIs q0 s) :
    MemIs q0 (laneLoad s) := by
  unfold laneLoad
  repeat' first
    | with_reducible assumption
    | (lift_lets; intro x)
    | (intro x)
    | (dsimp -zeta only [x])
    | (simp -zeta only [↓MemIs.lit])

theorem laneNote_memIs (s : State) (l : LanePort) {q0 : State} (hK : MemIs q0 s) :
    MemIs q0 (laneNote s l) := by
  unfold laneNote
  repeat' first
    | with_reducible assumption
    | (lift_lets; intro x)
    | (intro x)
    | (dsimp -zeta only [x])
    | (simp -zeta only [↓MemIs.lit])

theorem laneShow_memIs (s : State) (rows : List Nat) (i : Nat) {q0 : State} (hK : MemIs q0 s) :
    MemIs q0 (laneShow s rows i) := by
  unfold laneShow
  repeat' first
    | with_reducible assumption
    | (lift_lets; intro x)
    | (with_reducible apply State.wr_memIs)
    | (with_reducible apply setCaps_memIs)

theorem x16Train_memIs (s : State) (q : BitVec 4 × BitVec 5 × BitVec 3 × BitVec 13) {q0 : State} (hK : MemIs q0 s) :
    MemIs q0 (x16Train s q) := by
  unfold x16Train
  repeat' first
    | with_reducible assumption
    | (intro x; refine MemIs.cut (q := q0) (x := x) ?_ ?_; pick_goal 2; clear_value x; intro hx)
    | (lift_lets; intro x)
    | (intro x)
    | (with_reducible apply MemIs.ite)
    | (with_reducible apply State.wr_memIs)

theorem lanesDone_memIs (s : State) (d : StepRep) {q0 : State} (hK : MemIs q0 s) :
    MemIs q0 (lanesDone s d) := by
  unfold lanesDone
  repeat' first
    | with_reducible assumption
    | (intro x; refine MemIs.cut (q := q0) (x := x) ?_ ?_; pick_goal 2; clear_value x; intro hx)
    | (lift_lets; intro x; refine MemIs.cut (q := q0) (x := x) ?_ ?_; pick_goal 2; clear_value x; intro hx)
    | (intro x)
    | (with_reducible apply MemIs.ite)
    | (with_reducible refine MemIs.foldl (fun _ _ _ => ?_) ?_)
    | (with_reducible refine MemIs.upTo (fun _ _ _ => ?_) ?_)
    | (with_reducible apply State.wr_memIs)
    | (with_reducible apply laneLoad_memIs)
    | (with_reducible apply laneNote_memIs)
    | (with_reducible apply laneShow_memIs)
    | (with_reducible apply recPut_memIs)
    | (with_reducible apply recRead_memIs)
    | (with_reducible apply stepFail_memIs)
    | (with_reducible apply stepPass_memIs)
    | (with_reducible apply x16Train_memIs)

theorem mapDone_memIs (s : State) {q0 : State} (hK : MemIs q0 s) :
    MemIs q0 (mapDone s) := by
  unfold mapDone
  repeat' first
    | with_reducible assumption
    | (lift_lets; intro x; refine MemIs.cut (q := q0) (x := x) ?_ ?_; pick_goal 2; clear_value x; intro hx)
    | (lift_lets; intro x)
    | (with_reducible apply MemIs.ite)
    | (with_reducible apply mapRun_memIs)
    | (with_reducible apply recRead_memIs)
    | (with_reducible apply stepFail_memIs)
    | (with_reducible apply stepPass_memIs)
    | split

theorem powerDone_memIs (s : State) {q0 : State} (hK : MemIs q0 s) :
    MemIs q0 (powerDone s) := by
  unfold powerDone
  repeat' first
    | with_reducible assumption
    | (lift_lets; intro x; refine MemIs.cut (q := q0) (x := x) ?_ ?_; pick_goal 2; clear_value x; intro hx)
    | (with_reducible refine MemIs.foldl (fun _ _ _ => ?_) ?_)
    | (with_reducible apply logicUp_memIs)
    | (with_reducible apply recRead_memIs)
    | (with_reducible apply stepPass_memIs)
    | (simp -zeta only [↓MemIs.lit])

theorem meshDone_memIs (s : State) (comp : List (BitVec 8 × BitVec 24)) {q0 : State} (hK : MemIs q0 s) :
    MemIs q0 (meshDone s comp) := by
  unfold meshDone
  repeat' first
    | with_reducible assumption
    | (lift_lets; intro x; refine MemIs.cut (q := q0) (x := x) ?_ ?_; pick_goal 2; clear_value x; intro hx)
    | (with_reducible apply MemIs.ite)
    | (with_reducible refine MemIs.foldl (fun _ _ _ => ?_) ?_)
    | (with_reducible refine MemIs.upTo (fun _ _ _ => ?_) ?_)
    | (with_reducible apply State.wr_memIs)
    | (with_reducible apply stepPass_memIs)

theorem memDone_memIs (s : State) {q0 : State} (hK : MemIs q0 s) :
    MemIs q0 (memDone s) := by
  unfold memDone
  repeat' first
    | with_reducible assumption
    | (intro x; refine MemIs.cut (q := q0) (x := x) ?_ ?_; pick_goal 2; clear_value x; intro hx)
    | (lift_lets; intro x; refine MemIs.cut (q := q0) (x := x) ?_ ?_; pick_goal 2; clear_value x; intro hx)
    | (with_reducible refine MemIs.foldl (fun _ _ _ => ?_) ?_)
    | (with_reducible refine MemIs.upTo (fun _ _ _ => ?_) ?_)
    | (with_reducible apply State.wr_memIs)
    | (with_reducible apply stepPass_memIs)

theorem setEff_memIs (s : State) (e : Nat × Nat × Nat × Nat × Nat) {q0 : State} (hK : MemIs q0 s) :
    MemIs q0 (setEff s e) := by
  unfold setEff
  repeat' first
    | with_reducible assumption
    | (intro x; refine MemIs.cut (q := q0) (x := x) ?_ ?_; pick_goal 2; clear_value x; intro hx)
    | (lift_lets; intro x)
    | (with_reducible apply State.wr_memIs)

theorem holdX16_memIs (s : State) (hs : List Nat) {q0 : State} (hK : MemIs q0 s) :
    MemIs q0 (holdX16 s hs) := by
  unfold holdX16
  repeat' first
    | with_reducible assumption
    | (lift_lets; intro x; refine MemIs.cut (q := q0) (x := x) ?_ ?_; pick_goal 2; clear_value x; intro hx)
    | (with_reducible refine MemIs.foldl (fun _ _ _ => ?_) ?_)
    | (with_reducible apply State.wr_memIs)
    | (with_reducible apply heldPort_memIs)
    | (simp -zeta only [↓MemIs.lit])

theorem licenceDone_memIs (s : State) {q0 : State} (hK : MemIs q0 s) :
    MemIs q0 (licenceDone s) := by
  unfold licenceDone
  repeat' first
    | with_reducible assumption
    | (intro x; refine MemIs.cut (q := q0) (x := x) ?_ ?_; pick_goal 2; clear_value x; intro hx)
    | (lift_lets; intro x; refine MemIs.cut (q := q0) (x := x) ?_ ?_; pick_goal 2; clear_value x; intro hx)
    | (intro x)
    | (with_reducible apply MemIs.ite)
    | (with_reducible refine MemIs.upTo (fun _ _ _ => ?_) ?_)
    | (with_reducible apply State.setBit_memIs)
    | (with_reducible apply holdX16_memIs)
    | (with_reducible apply panelEvent_memIs)
    | (with_reducible apply recRead_memIs)
    | (with_reducible apply setEff_memIs)
    | (with_reducible apply showCap_memIs)
    | (with_reducible apply showLics_memIs)
    | (with_reducible apply stepFail_memIs)
    | (with_reducible apply stepPass_memIs)

theorem fabricDone_memIs (s : State) {q0 : State} (hK : MemIs q0 s) :
    MemIs q0 (fabricDone s) := by
  unfold fabricDone
  repeat' first
    | with_reducible assumption
    | (with_reducible apply MemIs.ite)
    | (with_reducible apply stepPass_memIs)

theorem readyDone_memIs (s : State) {q0 : State} (hK : MemIs q0 s) :
    MemIs q0 (readyDone s) := by
  unfold readyDone
  repeat' first
    | with_reducible assumption
    | (with_reducible apply MemIs.ite)
    | (with_reducible apply stepFail_memIs)
    | (with_reducible apply stepPass_memIs)
    | (simp -zeta only [↓MemIs.lit])

theorem powerPart_memIs (s : State) (d : StepRep) {q0 : State} (hK : MemIs q0 s) :
    MemIs q0 (powerPart s d) := by
  unfold powerPart
  repeat' first
    | with_reducible assumption
    | (lift_lets; intro x)
    | (intro x)
    | (with_reducible refine MemIs.foldl (fun _ _ _ => ?_) ?_)
    | (with_reducible apply logicUp_memIs)

theorem stepBroken_memIs (s : State) (n : Nat) (d : StepRep) (k unit : Nat) {q0 : State} (hK : MemIs q0 s) :
    MemIs q0 (stepBroken s n d k unit) := by
  unfold stepBroken
  repeat' first
    | with_reducible assumption
    | (lift_lets; intro x; refine MemIs.cut (q := q0) (x := x) ?_ ?_; pick_goal 2; clear_value x; intro hx)
    | (with_reducible apply MemIs.ite)
    | (with_reducible apply powerPart_memIs)
    | (with_reducible apply pwrErr_memIs)
    | (with_reducible apply stepFail_memIs)

theorem stepDone_memIs (s : State) (d : StepRep) {q0 : State} (hK : MemIs q0 s) :
    MemIs q0 (stepDone s d) := by
  unfold stepDone
  repeat' first
    | with_reducible assumption
    | (intro x; refine MemIs.cut (q := q0) (x := x) ?_ ?_; pick_goal 2; clear_value x; intro hx)
    | (lift_lets; intro x; clear_value x)
    | (intro x; clear_value x)
    | (with_reducible apply MemIs.ite)
    | (with_reducible refine MemIs.foldl (fun _ _ _ => ?_) ?_)
    | (with_reducible apply State.wr_memIs)
    | (with_reducible apply baseDone_memIs)
    | (with_reducible apply discoverDone_memIs)
    | (with_reducible apply enterFailed_memIs)
    | (with_reducible apply fabricDone_memIs)
    | (with_reducible apply fenceDone_memIs)
    | (with_reducible apply lanesDone_memIs)
    | (with_reducible apply licenceDone_memIs)
    | (with_reducible apply mapDone_memIs)
    | (with_reducible apply memDone_memIs)
    | (with_reducible apply meshDone_memIs)
    | (with_reducible apply powerDone_memIs)
    | (with_reducible apply readyDone_memIs)
    | (with_reducible apply siteFail_memIs)
    | (with_reducible apply stepBroken_memIs)
    | (with_reducible apply stepPass_memIs)
    | split
    | (simp -zeta only [↓MemIs.lit])

theorem stepTimeout_memIs (s : State) {q0 : State} (hK : MemIs q0 s) :
    MemIs q0 (stepTimeout s) := by
  unfold stepTimeout
  repeat' first
    | with_reducible assumption
    | (with_reducible apply MemIs.ite)
    | (with_reducible apply stepFail_memIs)

theorem domainTimeout_memIs (s : State) (u : PowerUnit) (d : Nat) {q0 : State} (hK : MemIs q0 s) :
    MemIs q0 (domainTimeout s u d) := by
  unfold domainTimeout
  repeat' first
    | with_reducible assumption
    | (intro x; refine MemIs.cut (q := q0) (x := x) ?_ ?_; pick_goal 2; clear_value x; intro hx)
    | (lift_lets; intro x; refine MemIs.cut (q := q0) (x := x) ?_ ?_; pick_goal 2; clear_value x; intro hx)
    | (lift_lets; intro x)
    | (intro x)
    | (with_reducible apply MemIs.ite)
    | (with_reducible apply State.setHubDom_memIs)
    | (with_reducible apply State.wr_memIs)
    | (with_reducible apply enterFailed_memIs)
    | (with_reducible apply pwrErr_memIs)
    | (with_reducible apply siteFail_memIs)
    | (with_reducible apply stepFail_memIs)
    | (dsimp -zeta only [x])
    | split

theorem install_memIs (s : State) (ok : Bool) {q0 : State} (hK : MemIs q0 s) :
    OptMemIs q0 (install s ok) := by
  unfold install
  repeat' first
    | with_reducible assumption
    | (with_reducible exact OptMemIs.none)
    | (with_reducible apply OptMemIs.some)
    | (intro x; refine MemIs.cut (q := q0) (x := x) ?_ ?_; pick_goal 2; clear_value x; intro hx)
    | (lift_lets; intro x)
    | (intro x)
    | (with_reducible apply OptMemIs.ite)
    | (with_reducible apply State.draw_memIs)
    | (with_reducible apply State.wr_memIs)
    | (with_reducible apply recPut_memIs)
    | (with_reducible apply showLics_memIs)

theorem licRemove_memIs (s : State) (k : Nat) (ok : Bool) {q0 : State} (hK : MemIs q0 s) :
    OptMemIs q0 (licRemove s k ok) := by
  unfold licRemove
  repeat' first
    | with_reducible assumption
    | (with_reducible exact OptMemIs.none)
    | (with_reducible apply OptMemIs.some)
    | (with_reducible apply OptMemIs.ite)
    | (with_reducible apply State.wr_memIs)
    | (with_reducible apply recPut_memIs)
    | (with_reducible apply showLics_memIs)

theorem dateCheck_memIs (s : State) (k : Nat) {q0 : State} (hK : MemIs q0 s) :
    MemIs q0 (dateCheck s k) := by
  unfold dateCheck
  repeat' first
    | with_reducible assumption
    | (lift_lets; intro x)
    | (with_reducible apply MemIs.ite)
    | (with_reducible apply State.setBit_memIs)
    | (with_reducible apply panelEvent_memIs)
    | (dsimp -zeta only [x])
    | (simp -zeta only [↓MemIs.lit])

theorem licDates_memIs (s : State) {q0 : State} (hK : MemIs q0 s) :
    MemIs q0 (licDates s) := by
  unfold licDates
  repeat' first
    | with_reducible assumption
    | (with_reducible apply MemIs.ite)
    | (with_reducible refine MemIs.upTo (fun _ _ _ => ?_) ?_)
    | (with_reducible apply dateCheck_memIs)
    | (with_reducible apply showLics_memIs)

theorem showRange_memIs (s : State) {q0 : State} (hK : MemIs q0 s) :
    MemIs q0 (showRange s) := by
  unfold showRange
  repeat' first
    | with_reducible assumption
    | (with_reducible apply State.wr_memIs)

theorem setTime_memIs (s : State) (t : Nat) {q0 : State} (hK : MemIs q0 s) :
    MemIs q0 (setTime s t) := by
  unfold setTime
  repeat' first
    | with_reducible assumption
    | (intro x; refine MemIs.cut (q := q0) (x := x) ?_ ?_; pick_goal 2; clear_value x; intro hx)
    | (lift_lets; intro x)
    | (with_reducible apply State.bump_memIs)
    | (with_reducible apply State.wr_memIs)
    | (with_reducible apply logAdd_memIs)
    | (with_reducible apply showRange_memIs)
    | (simp -zeta only [↓MemIs.lit])

theorem setGo_memIs (s : State) {q0 : State} (hK : MemIs q0 s) :
    MemIs q0 (setGo s) := by
  unfold setGo
  repeat' first
    | with_reducible assumption
    | (lift_lets; intro x)
    | (with_reducible apply MemIs.ite)
    | (with_reducible apply State.setBit_memIs)
    | (with_reducible apply badValue_memIs)
    | (with_reducible apply setTime_memIs)

theorem calGo_memIs (s : State) {q0 : State} (hK : MemIs q0 s) :
    MemIs q0 (calGo s) := by
  unfold calGo
  repeat' first
    | with_reducible assumption
    | (with_reducible apply MemIs.ite)
    | (with_reducible apply State.setBit_memIs)
    | (with_reducible apply badValue_memIs)
    | (with_reducible apply setTime_memIs)

theorem logCopy_memIs (s : State) (n : Nat) (fail : Bool) {q0 : State} (hK : MemIs q0 s) :
    MemIs q0 (logCopy s n fail) := by
  unfold logCopy
  repeat' first
    | with_reducible assumption
    | (intro x; refine MemIs.cut (q := q0) (x := x) ?_ ?_; pick_goal 2; clear_value x; intro hx)
    | (lift_lets; intro x)
    | (intro x)
    | (with_reducible apply MemIs.ite)
    | (with_reducible apply State.setBit_memIs)
    | (with_reducible apply State.wr_memIs)
    | (dsimp -zeta only [x])
    | split
    | (simp -zeta only [↓MemIs.lit])

theorem timerClear_memIs (s : State) (c : CoreId) (t : Nat) {q0 : State} (hK : MemIs q0 s) :
    MemIs q0 (timerClear s c t) := by
  unfold timerClear
  repeat' first
    | with_reducible assumption
    | (intro x; refine MemIs.cut (q := q0) (x := x) ?_ ?_; pick_goal 2; clear_value x; intro hx)
    | (lift_lets; intro x)
    | (intro x)
    | (with_reducible apply State.wr_memIs)
    | (with_reducible apply State.wrAll_memIs)
    | (with_reducible apply timerRun_memIs)

theorem stageEnd_memIs (s : State) (code : Nat) {q0 : State} (hK : MemIs q0 s) :
    MemIs q0 (stageEnd s code) := by
  unfold stageEnd
  repeat' first
    | with_reducible assumption
    | (lift_lets; intro x; refine MemIs.cut (q := q0) (x := x) ?_ ?_; pick_goal 2; clear_value x; intro hx)
    | (with_reducible apply MemIs.ite)
    | (with_reducible apply State.setBit_memIs)
    | (with_reducible apply State.wr_memIs)
    | (with_reducible apply panelEvent_memIs)

theorem fetch_memIs (s : State) {q0 : State} (hK : MemIs q0 s) :
    OptMemIs q0 (fetch s) := by
  unfold fetch
  repeat' first
    | with_reducible assumption
    | (with_reducible exact OptMemIs.none)
    | (with_reducible apply OptMemIs.some)
    | (intro x; refine MemIs.cut (q := q0) (x := x) ?_ ?_; pick_goal 2; clear_value x; intro hx)
    | (lift_lets; intro x)
    | (intro x)
    | (with_reducible apply OptMemIs.ite)
    | (with_reducible apply State.emit_memIs)
    | (with_reducible apply State.setFw_memIs)
    | (with_reducible apply State.wr_memIs)
    | (with_reducible apply stageEnd_memIs)

theorem stageDone_memIs (s : State) (m : FwImage) (hostErr flashErr : Bool) {q0 : State} (hK : MemIs q0 s) :
    MemIs q0 (stageDone s m hostErr flashErr) := by
  unfold stageDone
  repeat' first
    | with_reducible assumption
    | (intro x; refine MemIs.cut (q := q0) (x := x) ?_ ?_; pick_goal 2; clear_value x; intro hx)
    | (lift_lets; intro x)
    | (with_reducible apply MemIs.ite)
    | (with_reducible apply State.setFw_memIs)
    | (with_reducible apply stageEnd_memIs)

theorem restartGo_memIs (s : State) (ready : Bool) (kind : Nat) {q0 : State} (hK : MemIs q0 s) :
    MemIs q0 (restartGo s ready kind) := by
  unfold restartGo
  repeat' first
    | with_reducible assumption
    | (intro x; refine MemIs.cut (q := q0) (x := x) ?_ ?_; pick_goal 2; clear_value x; intro hx)
    | (lift_lets; intro x; refine MemIs.cut (q := q0) (x := x) ?_ ?_; pick_goal 2; clear_value x; intro hx)
    | (with_reducible apply State.setBit_memIs)
    | (with_reducible apply State.wr_memIs)
    | (with_reducible apply badValue_memIs)
    | (with_reducible apply panelEvent_memIs)
    | split
    | (simp -zeta only [↓MemIs.lit])

theorem activate_memIs (s : State) {q0 : State} (hK : MemIs q0 s) :
    MemIs q0 (activate s) := by
  unfold activate
  repeat' first
    | with_reducible assumption
    | (with_reducible apply restartGo_memIs)

theorem revert_memIs (s : State) {q0 : State} (hK : MemIs q0 s) :
    MemIs q0 (revert s) := by
  unfold revert
  repeat' first
    | with_reducible assumption
    | (with_reducible apply restartGo_memIs)

theorem fwAlive_memIs (s : State) {q0 : State} (hK : MemIs q0 s) :
    MemIs q0 (fwAlive s) := by
  unfold fwAlive
  repeat' first
    | with_reducible assumption
    | (intro x; refine MemIs.cut (q := q0) (x := x) ?_ ?_; pick_goal 2; clear_value x; intro hx)
    | (lift_lets; intro x; refine MemIs.cut (q := q0) (x := x) ?_ ?_; pick_goal 2; clear_value x; intro hx)
    | (with_reducible apply MemIs.ite)
    | (with_reducible refine MemIs.upTo (fun _ _ _ => ?_) ?_)
    | (with_reducible apply State.setBit_memIs)
    | (with_reducible apply State.wr_memIs)
    | (with_reducible apply boot_memIs)
    | (with_reducible apply panelEvent_memIs)
    | (with_reducible apply showCap_memIs)
    | split
    | (simp -zeta only [↓MemIs.lit])

theorem fwBootTimeout_memIs (s : State) {q0 : State} (hK : MemIs q0 s) :
    MemIs q0 (fwBootTimeout s) := by
  unfold fwBootTimeout
  repeat' first
    | with_reducible assumption
    | (intro x; refine MemIs.cut (q := q0) (x := x) ?_ ?_; pick_goal 2; clear_value x; intro hx)
    | (lift_lets; intro x)
    | (with_reducible apply MemIs.ite)
    | (with_reducible apply State.setFw_memIs)
    | split
    | (simp -zeta only [↓MemIs.lit])

theorem confirm_memIs (s : State) {q0 : State} (hK : MemIs q0 s) :
    OptMemIs q0 (confirm s) := by
  unfold confirm
  repeat' first
    | with_reducible assumption
    | (with_reducible exact OptMemIs.none)
    | (with_reducible apply OptMemIs.some)
    | (intro x; refine MemIs.cut (q := q0) (x := x) ?_ ?_; pick_goal 2; clear_value x; intro hx)
    | (lift_lets; intro x)
    | (intro x)
    | (with_reducible apply OptMemIs.ite)
    | (with_reducible apply State.setFw_memIs)
    | (with_reducible apply State.wr_memIs)

theorem fwDiscard_memIs (s : State) {q0 : State} (hK : MemIs q0 s) :
    OptMemIs q0 (fwDiscard s) := by
  unfold fwDiscard
  repeat' first
    | with_reducible assumption
    | (with_reducible exact OptMemIs.none)
    | (with_reducible apply OptMemIs.some)
    | (lift_lets; intro x)
    | (intro x)
    | (with_reducible apply OptMemIs.ite)
    | (with_reducible apply State.setFw_memIs)
    | (with_reducible apply State.wr_memIs)

theorem recWrite_memIs (s : State) (ok : Bool) {q0 : State} (hK : MemIs q0 s) :
    MemIs q0 (recWrite s ok) := by
  unfold recWrite
  repeat' first
    | with_reducible assumption
    | (intro x; refine MemIs.cut (q := q0) (x := x) ?_ ?_; pick_goal 2; clear_value x; intro hx)
    | (lift_lets; intro x)
    | (intro x)
    | (with_reducible apply MemIs.ite)
    | (with_reducible apply State.wr_memIs)
    | (with_reducible apply recPut_memIs)

theorem propose_memIs (s : State) (rows : List Nat) (n inSite regions : Nat) (sites : List Nat) {q0 : State} (hK : MemIs q0 s) :
    MemIs q0 (propose s rows n inSite regions sites) := by
  unfold propose
  repeat' first
    | with_reducible assumption
    | (intro x; refine MemIs.cut (q := q0) (x := x) ?_ ?_; pick_goal 2; clear_value x; intro hx)
    | (lift_lets; intro x)
    | (with_reducible refine MemIs.upTo (fun _ _ _ => ?_) ?_)
    | (with_reducible apply State.wr_memIs)
    | (with_reducible apply panelEvent_memIs)
    | (simp -zeta only [↓MemIs.lit])

theorem refuse_memIs (s : State) (code : Nat) {q0 : State} (hK : MemIs q0 s) :
    MemIs q0 (refuse s code) := by
  unfold refuse
  repeat' first
    | with_reducible assumption
    | (lift_lets; intro x; refine MemIs.cut (q := q0) (x := x) ?_ ?_; pick_goal 2; clear_value x; intro hx)
    | (with_reducible apply State.wr_memIs)
    | (with_reducible apply panelEvent_memIs)
    | (simp -zeta only [↓MemIs.lit])

theorem proposeRegion_memIs (s : State) {q0 : State} (hK : MemIs q0 s) :
    MemIs q0 (proposeRegion s) := by
  unfold proposeRegion
  repeat' first
    | with_reducible assumption
    | (lift_lets; intro x)
    | (intro x)
    | (with_reducible apply MemIs.ite)
    | (with_reducible apply propose_memIs)
    | (with_reducible apply refuse_memIs)
    | (dsimp -zeta only [x])
    | split

theorem proposeFull_memIs (s : State) {q0 : State} (hK : MemIs q0 s) :
    MemIs q0 (proposeFull s) := by
  unfold proposeFull
  repeat' first
    | with_reducible assumption
    | (lift_lets; intro x)
    | (intro x)
    | (with_reducible apply State.wr_memIs)
    | (with_reducible apply propose_memIs)
    | (with_reducible apply refuse_memIs)
    | split

theorem remapGo_memIs (s : State) (kind site : Nat) {q0 : State} (hK : MemIs q0 s) :
    OptMemIs q0 (remapGo s kind site) := by
  unfold remapGo
  repeat' first
    | with_reducible assumption
    | (with_reducible exact OptMemIs.none)
    | (with_reducible apply OptMemIs.some)
    | (intro x; refine MemIs.cut (q := q0) (x := x) ?_ ?_; pick_goal 2; clear_value x; intro hx)
    | (lift_lets; intro x)
    | (intro x)
    | (with_reducible apply OptMemIs.ite)
    | (with_reducible apply State.wr_memIs)
    | (dsimp -zeta only [x])
    | split
    | (simp -zeta only [↓MemIs.lit])

theorem remapProposed_memIs (s : State) {q0 : State} (hK : MemIs q0 s) :
    MemIs q0 (remapProposed s) := by
  unfold remapProposed
  repeat' first
    | with_reducible assumption
    | (with_reducible apply MemIs.ite)
    | (with_reducible apply proposeFull_memIs)
    | (with_reducible apply proposeRegion_memIs)

theorem remapCancel_memIs (s : State) {q0 : State} (hK : MemIs q0 s) :
    OptMemIs q0 (remapCancel s) := by
  unfold remapCancel
  repeat' first
    | with_reducible assumption
    | (with_reducible exact OptMemIs.none)
    | (with_reducible apply OptMemIs.some)
    | (intro x; refine MemIs.cut (q := q0) (x := x) ?_ ?_; pick_goal 2; clear_value x; intro hx)
    | (lift_lets; intro x; refine MemIs.cut (q := q0) (x := x) ?_ ?_; pick_goal 2; clear_value x; intro hx)
    | (with_reducible apply OptMemIs.ite)
    | (with_reducible refine MemIs.upTo (fun _ _ _ => ?_) ?_)
    | (with_reducible apply State.wr_memIs)
    | (simp -zeta only [↓MemIs.lit])

theorem commit_memIs (s : State) {q0 : State} (hK : MemIs q0 s) :
    OptMemIs q0 (commit s) := by
  unfold commit
  repeat' first
    | with_reducible assumption
    | (with_reducible exact OptMemIs.none)
    | (with_reducible apply OptMemIs.some)
    | (with_reducible apply drainGo_memIs)
    | (intro x; refine MemIs.cut (q := q0) (x := x) ?_ ?_; pick_goal 2; clear_value x; intro hx)
    | (lift_lets; intro x)
    | (with_reducible apply MemIs.ite)
    | (with_reducible apply OptMemIs.ite)
    | (with_reducible apply OptMemIs.getD)
    | (with_reducible refine MemIs.foldl (fun _ _ _ => ?_) ?_)
    | (with_reducible refine MemIs.upTo (fun _ _ _ => ?_) ?_)
    | (with_reducible apply State.wr_memIs)
    | (with_reducible apply faultNow_memIs)

theorem remapIn_memIs (s : State) (r i : Nat) {q0 : State} (hK : MemIs q0 s) :
    MemIs q0 (remapIn s r i) := by
  unfold remapIn
  repeat' first
    | with_reducible assumption
    | (intro x; refine MemIs.cut (q := q0) (x := x) ?_ ?_; pick_goal 2; clear_value x; intro hx)
    | (lift_lets; intro x; refine MemIs.cut (q := q0) (x := x) ?_ ?_; pick_goal 2; clear_value x; intro hx)
    | (lift_lets; intro x)
    | (intro x)
    | (with_reducible apply MemIs.ite)
    | (with_reducible refine MemIs.upTo (fun _ _ _ => ?_) ?_)
    | (with_reducible apply State.setSite_memIs)
    | (with_reducible apply State.wr_memIs)
    | (with_reducible apply calLoad_memIs)
    | (with_reducible apply setCfg_memIs)
    | split

theorem remapFault_memIs (s : State) (r : Nat) {q0 : State} (hK : MemIs q0 s) :
    MemIs q0 (remapFault s r) := by
  unfold remapFault
  repeat' first
    | with_reducible assumption
    | (lift_lets; intro x; refine MemIs.cut (q := q0) (x := x) ?_ ?_; pick_goal 2; clear_value x; intro hx)
    | (with_reducible refine MemIs.foldl (fun _ _ _ => ?_) ?_)
    | (with_reducible apply State.wr_memIs)
    | (with_reducible apply pfSet_memIs)

theorem remapFull_memIs (s : State) (ok : Bool) {q0 : State} (hK : MemIs q0 s) :
    MemIs q0 (remapFull s ok) := by
  unfold remapFull
  repeat' first
    | with_reducible assumption
    | (intro x; refine MemIs.cut (q := q0) (x := x) ?_ ?_; pick_goal 2; clear_value x; intro hx)
    | (lift_lets; intro x)
    | (intro x)
    | (with_reducible apply MemIs.ite)
    | (with_reducible apply State.wr_memIs)
    | (with_reducible apply panelEvent_memIs)
    | (with_reducible apply recPut_memIs)

theorem storeFld_memIs (code still : Nat) (s : State) (page : Nat) (f : Fld) (v : Nat) {q0 : State} (hK : MemIs q0 s) :
    MemIs q0 (storeFld code still s page f v) := by
  unfold storeFld
  repeat' first
    | with_reducible assumption
    | (with_reducible apply MemIs.ite)
    | (with_reducible apply State.wr_memIs)
    | (with_reducible apply baWrite_memIs)
    | split

theorem storeWord_memIs (code still : Nat) (s : State) (page : Nat) (fs : List Fld) (v : Nat) {q0 : State} (hK : MemIs q0 s) :
    MemIs q0 (storeWord code still s page fs v) := by
  unfold storeWord
  repeat' first
    | with_reducible assumption
    | (with_reducible refine MemIs.foldl (fun _ _ _ => ?_) ?_)
    | (with_reducible apply storeFld_memIs)

theorem HostWr.no_memIs (w : HostWr) (s : State) {q0 : State} (hK : MemIs q0 s) :
    MemIs q0 (HostWr.no w s) := by
  unfold HostWr.no
  repeat' first
    | with_reducible assumption
    | (with_reducible apply badValue_memIs)

theorem HostWr.when_memIs (w : HostWr) (s : State) (ok : Bool) (t : State) {q0 : State} (hK : MemIs q0 s) (hT0 : MemIs q0 t) :
    MemIs q0 (HostWr.when w s ok t) := by
  unfold HostWr.when
  repeat' first
    | with_reducible assumption
    | (with_reducible apply MemIs.ite)
    | (with_reducible apply HostWr.no_memIs)

theorem writeEnables_memIs (s : State) (v : Nat) {q0 : State} (hK : MemIs q0 s) :
    MemIs q0 (writeEnables s v) := by
  unfold writeEnables
  repeat' first
    | with_reducible assumption
    | (lift_lets; intro x)
    | (intro x)
    | (with_reducible apply MemIs.ite)
    | (with_reducible refine MemIs.upTo (fun _ _ _ => ?_) ?_)
    | (with_reducible apply State.wr_memIs)
    | (with_reducible apply pfVector_memIs)

theorem writeId_memIs (s t : State) (w : HostWr) {q0 : State} (hK : MemIs q0 s) (hT0 : MemIs q0 t) :
    MemIs q0 (writeId s t w) := by
  unfold writeId
  repeat' first
    | with_reducible assumption
    | (with_reducible apply HostWr.when_memIs)
    | split

theorem writeMap_memIs (s t : State) (w : HostWr) {q0 : State} (hK : MemIs q0 s) (hT0 : MemIs q0 t) :
    MemIs q0 (writeMap s t w) := by
  unfold writeMap
  repeat' first
    | with_reducible assumption
    | (with_reducible apply commit_memIs)
    | (with_reducible apply remapCancel_memIs)
    | (with_reducible apply remapGo_memIs)
    | (with_reducible apply MemIs.ite)
    | (with_reducible apply OptMemIs.getD)
    | (with_reducible apply HostWr.no_memIs)

theorem writeDrainCtl_memIs (s : State) (w : HostWr) (r : Nat) {q0 : State} (hK : MemIs q0 s) :
    MemIs q0 (writeDrainCtl s w r) := by
  unfold writeDrainCtl
  repeat' first
    | with_reducible assumption
    | (with_reducible apply drainAbort_memIs)
    | (with_reducible apply drainGo_memIs)
    | (with_reducible apply swapGo_memIs)
    | (with_reducible apply OptMemIs.getD)
    | (with_reducible apply HostWr.no_memIs)
    | split

theorem writeDrain_memIs (s t : State) (w : HostWr) {q0 : State} (hK : MemIs q0 s) (hT0 : MemIs q0 t) :
    MemIs q0 (writeDrain s t w) := by
  unfold writeDrain
  repeat' first
    | with_reducible assumption
    | (lift_lets; intro x)
    | (with_reducible apply HostWr.when_memIs)
    | (with_reducible apply writeDrainCtl_memIs)
    | (dsimp -zeta only [x])
    | split

theorem writePm_memIs (s t : State) (w : HostWr) {q0 : State} (hK : MemIs q0 s) (hT0 : MemIs q0 t) :
    MemIs q0 (writePm s t w) := by
  unfold writePm
  repeat' first
    | with_reducible assumption
    | (with_reducible apply confirm_memIs)
    | (with_reducible apply fetch_memIs)
    | (with_reducible apply fwDiscard_memIs)
    | (lift_lets; intro x; refine MemIs.cut (q := q0) (x := x.2) ?_ ?_; pick_goal 2; clear_value x; intro hx)
    | (with_reducible apply MemIs.ite)
    | (with_reducible apply OptMemIs.getD)
    | (with_reducible apply HostWr.no_memIs)
    | (with_reducible apply State.draw_memIs)
    | (with_reducible apply activate_memIs)
    | (with_reducible apply recWrite_memIs)
    | (with_reducible apply revert_memIs)
    | split

theorem writeTime_memIs (s t : State) (w : HostWr) {q0 : State} (hK : MemIs q0 s) (hT0 : MemIs q0 t) :
    MemIs q0 (writeTime s t w) := by
  unfold writeTime
  repeat' first
    | with_reducible assumption
    | (with_reducible apply MemIs.ite)
    | (with_reducible apply HostWr.no_memIs)
    | (with_reducible apply calGo_memIs)
    | (with_reducible apply setGo_memIs)
    | split

theorem writeLic_memIs (s t : State) (w : HostWr) {q0 : State} (hK : MemIs q0 s) (hT0 : MemIs q0 t) :
    MemIs q0 (writeLic s t w) := by
  unfold writeLic
  repeat' first
    | with_reducible assumption
    | (with_reducible apply install_memIs)
    | (with_reducible apply licRemove_memIs)
    | (lift_lets; intro x; refine MemIs.cut (q := q0) (x := x.2) ?_ ?_; pick_goal 2; clear_value x; intro hx)
    | (with_reducible apply MemIs.ite)
    | (with_reducible apply OptMemIs.getD)
    | (with_reducible apply HostWr.no_memIs)
    | (with_reducible apply State.draw_memIs)

theorem writeTwin_memIs (s t : State) (w : HostWr) {q0 : State} (hK : MemIs q0 s) (hT0 : MemIs q0 t) :
    MemIs q0 (writeTwin s t w) := by
  unfold writeTwin
  repeat' first
    | with_reducible assumption
    | (with_reducible apply HostWr.no_memIs)
    | (with_reducible apply HostWr.when_memIs)
    | (with_reducible apply attach_memIs)
    | (with_reducible apply pair_memIs)
    | (with_reducible apply reqAttach_memIs)
    | (with_reducible apply reqDetach_memIs)
    | (with_reducible apply showParent_memIs)
    | (with_reducible apply shrunk_memIs)
    | (with_reducible apply twinAbort_memIs)
    | (with_reducible apply unpair_memIs)
    | split

theorem writeHub_memIs (s t : State) (w : HostWr) (h : Nat) {q0 : State} (hK : MemIs q0 s) (hT0 : MemIs q0 t) :
    MemIs q0 (writeHub s t w h) := by
  unfold writeHub
  repeat' first
    | with_reducible assumption
    | (with_reducible apply frtSwap_memIs)
    | (intro x; refine MemIs.cut (q := q0) (x := x) ?_ ?_; pick_goal 2; clear_value x; intro hx)
    | (lift_lets; intro x)
    | (intro x)
    | (with_reducible apply MemIs.ite)
    | (with_reducible apply OptMemIs.getD)
    | (with_reducible apply HostWr.no_memIs)
    | (with_reducible apply HostWr.when_memIs)
    | (with_reducible apply frtCheck_memIs)
    | (with_reducible apply showCap_memIs)
    | split

theorem writeX16_memIs (s t : State) (w : HostWr) {q0 : State} (hK : MemIs q0 s) (hT0 : MemIs q0 t) :
    MemIs q0 (writeX16 s t w) := by
  unfold writeX16
  repeat' first
    | with_reducible assumption
    | (lift_lets; intro x)
    | (intro x)
    | (with_reducible apply HostWr.when_memIs)
    | (dsimp -zeta only [x])
    | split

theorem writeSite_memIs (s t : State) (w : HostWr) {q0 : State} (hK : MemIs q0 s) (hT0 : MemIs q0 t) :
    MemIs q0 (writeSite s t w) := by
  unfold writeSite
  repeat' first
    | with_reducible assumption
    | (lift_lets; intro x)
    | (intro x)
    | (with_reducible apply HostWr.when_memIs)

theorem writeCore_memIs (s t : State) (w : HostWr) (c : CoreId) {q0 : State} (hK : MemIs q0 s) (hT0 : MemIs q0 t) :
    MemIs q0 (writeCore s t w c) := by
  unfold writeCore
  repeat' first
    | with_reducible assumption
    | (with_reducible apply HostWr.no_memIs)
    | (with_reducible apply HostWr.when_memIs)
    | (with_reducible apply armWrite_memIs)
    | (with_reducible apply disarm_memIs)
    | split

theorem writeWell_memIs (s t : State) (w : HostWr) (i : Nat) {q0 : State} (hK : MemIs q0 s) (hT0 : MemIs q0 t) :
    MemIs q0 (writeWell s t w i) := by
  unfold writeWell
  repeat' first
    | with_reducible assumption
    | (with_reducible apply landClr_memIs)
    | (with_reducible apply wstCheck_memIs)
    | (with_reducible apply MemIs.ite)
    | (with_reducible apply OptMemIs.getD)
    | (with_reducible apply HostWr.no_memIs)
    | split

theorem writeTni_memIs (s t : State) (w : HostWr) (i : Nat) {q0 : State} (hK : MemIs q0 s) (hT0 : MemIs q0 t) :
    MemIs q0 (writeTni s t w i) := by
  unfold writeTni
  repeat' first
    | with_reducible assumption
    | (lift_lets; intro x)
    | (with_reducible apply MemIs.ite)
    | (with_reducible apply HostWr.no_memIs)
    | (with_reducible apply HostWr.when_memIs)
    | (with_reducible apply State.setSite_memIs)
    | (dsimp -zeta only [x])
    | split

theorem noteShadow_memIs (s : State) (i k : Nat) {q0 : State} (hK : MemIs q0 s) :
    MemIs q0 (noteShadow s i k) := by
  unfold noteShadow
  repeat' first
    | with_reducible assumption
    | (intro x; refine MemIs.cut (q := q0) (x := x) ?_ ?_; pick_goal 2; clear_value x; intro hx)
    | (lift_lets; intro x)
    | (intro x)
    | (with_reducible apply MemIs.ite)
    | (with_reducible apply State.setSite_memIs)
    | (with_reducible apply State.wr_memIs)

theorem writeCni_memIs (s t : State) (w : HostWr) (i : Nat) {q0 : State} (hK : MemIs q0 s) (hT0 : MemIs q0 t) :
    MemIs q0 (writeCni s t w i) := by
  unfold writeCni
  repeat' first
    | with_reducible assumption
    | (with_reducible apply streamReset_memIs)
    | (lift_lets; intro x)
    | (intro x)
    | (with_reducible apply MemIs.ite)
    | (with_reducible apply OptMemIs.getD)
    | (with_reducible apply HostWr.no_memIs)
    | (with_reducible apply HostWr.when_memIs)
    | (with_reducible apply noteShadow_memIs)

theorem writeClock_memIs (s t : State) (w : HostWr) (i : Nat) {q0 : State} (hK : MemIs q0 s) (hT0 : MemIs q0 t) :
    MemIs q0 (writeClock s t w i) := by
  unfold writeClock
  repeat' first
    | with_reducible assumption
    | (lift_lets; intro x)
    | (with_reducible apply MemIs.ite)
    | (with_reducible apply HostWr.no_memIs)
    | (with_reducible apply HostWr.when_memIs)
    | (with_reducible apply State.setSite_memIs)
    | (dsimp -zeta only [x])
    | split

theorem writeVf_memIs (s t : State) (w : HostWr) (r : Nat) {q0 : State} (hK : MemIs q0 s) (hT0 : MemIs q0 t) :
    MemIs q0 (writeVf s t w r) := by
  unfold writeVf
  repeat' first
    | with_reducible assumption
    | (with_reducible apply MemIs.ite)
    | (with_reducible apply HostWr.when_memIs)
    | (with_reducible apply frGo_memIs)
    | split

theorem writeQueue_memIs (s : State) (q v : Nat) (fs : List Fld) {q0 : State} (hK : MemIs q0 s) :
    OptMemIs q0 (writeQueue s q v fs) := by
  unfold writeQueue
  repeat' first
    | with_reducible assumption
    | (with_reducible exact OptMemIs.none)
    | (with_reducible apply OptMemIs.some)
    | (intro x; refine MemIs.cut (q := q0) (x := x) ?_ ?_; pick_goal 2; clear_value x; intro hx)
    | (lift_lets; intro x)
    | (intro x)
    | (with_reducible apply OptMemIs.ite)
    | (with_reducible apply State.wr_memIs)
    | (with_reducible apply State.wrAll_memIs)
    | (with_reducible apply storeWord_memIs)

theorem writeQueueWord_memIs (s : State) (ix v : Nat) (fs : List Fld) {q0 : State} (hK : MemIs q0 s) :
    OptMemIs q0 (writeQueueWord s ix v fs) := by
  unfold writeQueueWord
  repeat' first
    | with_reducible assumption
    | (with_reducible exact OptMemIs.none)
    | (with_reducible apply OptMemIs.some)
    | (with_reducible apply writeQueue_memIs)
    | (lift_lets; intro x)
    | (with_reducible apply OptMemIs.ite)
    | (with_reducible apply storeWord_memIs)
    | (dsimp -zeta only [x])
    | split

theorem ixWrite_memIs (s : State) (page : Nat) (i : PageInfo) (ix v : Nat) {q0 : State} (hK : MemIs q0 s) :
    OptMemIs q0 (ixWrite s page i ix v) := by
  unfold ixWrite
  repeat' first
    | with_reducible assumption
    | (with_reducible exact OptMemIs.none)
    | (with_reducible apply OptMemIs.some)
    | (with_reducible apply writeQueueWord_memIs)
    | (intro x; refine MemIs.cut (q := q0) (x := x) ?_ ?_; pick_goal 2; clear_value x; intro hx)
    | (lift_lets; intro x)
    | (intro x)
    | (with_reducible apply MemIs.ite)
    | (with_reducible apply OptMemIs.ite)
    | (with_reducible apply State.wr_memIs)
    | (with_reducible apply storeWord_memIs)
    | (with_reducible apply timerClear_memIs)
    | split

theorem writeApply_memIs (s : State) (w : HostWr) {q0 : State} (hK : MemIs q0 s) :
    MemIs q0 (writeApply s w) := by
  unfold writeApply
  repeat' first
    | with_reducible assumption
    | (with_reducible apply HostWr.no_memIs)
    | (with_reducible apply applyBa_memIs)
    | split
    | (simp -zeta only [↓MemIs.lit])

theorem writeMbx_memIs (s : State) (w : HostWr) (p : Nat) {q0 : State} (hK : MemIs q0 s) :
    MemIs q0 (writeMbx s w p) := by
  unfold writeMbx
  repeat' first
    | with_reducible assumption
    | (intro x; refine MemIs.cut (q := q0) (x := x) ?_ ?_; pick_goal 2; clear_value x; intro hx)
    | (lift_lets; intro x)
    | (with_reducible apply MemIs.ite)
    | (with_reducible refine MemIs.upTo (fun _ _ _ => ?_) ?_)
    | (with_reducible apply HostWr.no_memIs)
    | (with_reducible apply State.wr_memIs)
    | split

theorem writeInd_memIs (s : State) (w : HostWr) (i : PageInfo) (p : Nat) {q0 : State} (hK : MemIs q0 s) :
    MemIs q0 (writeInd s w i p) := by
  unfold writeInd
  repeat' first
    | with_reducible assumption
    | (with_reducible exact OptMemIs.none)
    | (with_reducible apply ixWrite_memIs)
    | (lift_lets; intro x)
    | (intro x)
    | (with_reducible apply OptMemIs.getD)
    | (with_reducible apply HostWr.no_memIs)
    | (with_reducible apply State.wrap_memIs)
    | (dsimp -zeta only [x])
    | split

theorem readInd_memIs (s : State) (page : Nat) (i : PageInfo) (p : Nat) {q0 : State} (hK : MemIs q0 s) :
    MemIs q0 (readInd s page i p).2 := by
  unfold readInd
  repeat' first
    | with_reducible assumption
    | (lift_lets; intro x)
    | (intro x)
    | (with_reducible apply MemIs.ite)
    | (with_reducible apply State.wrap_memIs)
    | (with_reducible apply badValue_memIs)

theorem writePageErr_memIs (s : State) (w : HostWr) {q0 : State} (hK : MemIs q0 s) :
    MemIs q0 (writePageErr s w) := by
  unfold writePageErr
  repeat' first
    | with_reducible assumption
    | (lift_lets; intro x; refine MemIs.cut (q := q0) (x := x) ?_ ?_; pick_goal 2; clear_value x; intro hx)
    | (with_reducible apply MemIs.ite)
    | (with_reducible apply HostWr.no_memIs)
    | (with_reducible apply State.wr_memIs)

theorem headerWrite_memIs (s : State) (w : HostWr) (i : PageInfo) (p : Nat) {q0 : State} (hK : MemIs q0 s) :
    MemIs q0 (headerWrite s w i p) := by
  unfold headerWrite
  repeat' first
    | with_reducible assumption
    | (with_reducible apply HostWr.no_memIs)
    | (with_reducible apply State.wr_memIs)
    | (with_reducible apply writeApply_memIs)
    | (with_reducible apply writeInd_memIs)
    | (with_reducible apply writeMbx_memIs)
    | (with_reducible apply writePageErr_memIs)
    | split

theorem headerRead_memIs (s : State) (page off : Nat) (i : PageInfo) (p : Nat) {q0 : State} (hK : MemIs q0 s) :
    MemIs q0 (headerRead s page off i p).2 := by
  unfold headerRead
  repeat' first
    | with_reducible assumption
    | (lift_lets; intro x)
    | (intro x)
    | (with_reducible apply MemIs.ite)
    | (with_reducible apply State.wr_memIs)
    | (with_reducible apply readInd_memIs)
    | (dsimp -zeta only [x])
    | split

theorem accError_memIs (s : State) (a : HostAcc) (write : Bool) (reason page : Nat) {q0 : State} (hK : MemIs q0 s) :
    MemIs q0 (accError s a write reason page) := by
  unfold accError
  repeat' first
    | with_reducible assumption
    | (intro x; refine MemIs.cut (q := q0) (x := x.2) ?_ ?_; pick_goal 2; clear_value x; intro hx)
    | (lift_lets; intro x; refine MemIs.cut (q := q0) (x := x) ?_ ?_; pick_goal 2; clear_value x; intro hx)
    | (with_reducible apply MemIs.ite)
    | (with_reducible apply State.draw_memIs)
    | (with_reducible apply State.setBit_memIs)
    | (with_reducible apply State.wr_memIs)
    | (with_reducible apply busErrorAt_memIs)
    | split

theorem hostRead_memIs (s : State) (a : HostAcc) {q0 : State} (hK : MemIs q0 s) :
    MemIs q0 (hostRead s a) := by
  unfold hostRead
  repeat' first
    | with_reducible assumption
    | (lift_lets; intro x; refine MemIs.cut (q := q0) (x := x.2) ?_ ?_; pick_goal 2; clear_value x; intro hx)
    | (lift_lets; intro x)
    | (intro x)
    | (with_reducible apply MemIs.ite)
    | (with_reducible apply State.emit_memIs)
    | (with_reducible apply accError_memIs)
    | (with_reducible apply headerRead_memIs)
    | (with_reducible apply sideCount_memIs)
    | (dsimp -zeta only [x])
    | split

theorem smbTags_memIs (s : State) (shelf loop rack : Nat) (pecOk : Bool) {q0 : State} (hK : MemIs q0 s) :
    MemIs q0 (smbTags s shelf loop rack pecOk) := by
  unfold smbTags
  repeat' first
    | with_reducible assumption
    | (intro x; refine MemIs.cut (q := q0) (x := x) ?_ ?_; pick_goal 2; clear_value x; intro hx)
    | (lift_lets; intro x)
    | (with_reducible apply MemIs.ite)
    | (with_reducible apply State.bump_memIs)
    | (with_reducible apply panelEvent_memIs)
    | (dsimp -zeta only [x])
    | (simp -zeta only [↓MemIs.lit])

theorem leak_memIs (s : State) {q0 : State} (hK : MemIs q0 s) :
    MemIs q0 (leak s) := by
  unfold leak
  repeat' first
    | with_reducible assumption
    | (with_reducible apply MemIs.ite)
    | (with_reducible apply panelShutdown_memIs)

theorem tick_memIs (s : State) {q0 : State} (hK : MemIs q0 s) :
    MemIs q0 (tick s) := by
  unfold tick
  repeat' first
    | with_reducible assumption
    | (lift_lets; intro x; refine MemIs.cut (q := q0) (x := x) ?_ ?_; pick_goal 2; clear_value x; intro hx)
    | (with_reducible apply MemIs.ite)
    | (with_reducible apply showRange_memIs)
    | (simp -zeta only [↓MemIs.lit])

end Sys2Proof.Machine
end

