-- ==== Sys2Proof/Laws/Bytes.lean ====
section
/-! SUPPORT. Bytes and numbers: what one byte reads as after each memory write, and what a read of several bytes is. -/

namespace Sys2Proof.Machine

/-! ### One byte after a write -/

theorem cellGet_append (c d : List Host.Cell) (x : Nat) :
    cellGet (c ++ d) x = if c.any (fun p => p.1 = x) then cellGet c x else cellGet d x := by
  induction c with
  | nil => simp
  | cons p c ih =>
    obtain ⟨k, v⟩ := p
    by_cases h : k = x
    · simp [cellGet, h]
    · simp [cellGet, h, ih]

theorem cellGet_filter (c : List Host.Cell) (f : Nat → Bool) (x : Nat) :
    cellGet (c.filter (fun p => f p.1)) x = if f x then cellGet c x else memUnset := by
  induction c with
  | nil => simp [cellGet]
  | cons p c ih =>
    obtain ⟨k, v⟩ := p
    by_cases h : k = x
    · subst h
      by_cases g : f k
      · simp [cellGet, g]
      · simp [g, ih]
    · by_cases g : f k
      · simp [cellGet, g, h, ih]
      · simp [cellGet, g, h, ih]

theorem cellGet_none (c : List Host.Cell) (x : Nat) (h : c.any (fun p => p.1 = x) = false) : cellGet c x = memUnset := by
  induction c with
  | nil => rfl
  | cons p c ih =>
    obtain ⟨k, v⟩ := p
    simp only [List.any_cons, Bool.or_eq_false_iff, decide_eq_false_iff_not] at h
    simp [cellGet, h.1, ih h.2]

/-- Byte `k` of a number. -/
def byteAt (v k : Nat) : Byte := BitVec.ofNat 8 (v / 256 ^ k)

theorem cellsOf_mem {n a v : Nat} {p : Host.Cell} (h : p ∈ cellsOf n a v) : a ≤ p.1 ∧ p.1 < a + n := by
  induction n generalizing a v with
  | zero => simp [cellsOf] at h
  | succ n ih =>
    unfold cellsOf at h
    split at h
    · have := ih h; omega
    · rcases List.mem_cons.1 h with rfl | h
      · simp
      · have := ih h; omega

theorem cellGet_cellsOf (n a v x : Nat) :
    cellGet (cellsOf n a v) x = if a ≤ x ∧ x < a + n then byteAt v (x - a) else memUnset := by
  induction n generalizing a v with
  | zero => simp [cellsOf, cellGet]
  | succ n ih =>
    have hz : v % 256 = 0 → BitVec.ofNat 8 v = 0 := fun h => by
      apply BitVec.eq_of_toNat_eq; simpa using h
    by_cases hx : x = a
    · subst hx
      have h0 : cellGet (cellsOf n (x + 1) (v / 256)) x = memUnset := by
        rw [ih]; simp
      unfold cellsOf
      split
      · rename_i h; rw [h0]; simp [byteAt, hz h, memUnset]
      · simp [cellGet, byteAt]
    · have hs : (a + 1 ≤ x ∧ x < a + 1 + n) ↔ (a ≤ x ∧ x < a + (n + 1)) := by omega
      have hb : a ≤ x → byteAt (v / 256) (x - (a + 1)) = byteAt v (x - a) := fun h => by
        obtain ⟨d, rfl⟩ : ∃ d, x = a + 1 + d := ⟨x - (a + 1), by omega⟩
        have : a + 1 + d - a = d + 1 := by omega
        simp [byteAt, this, Nat.div_div_eq_div_mul, pow_succ, Nat.mul_comm]
      have hr : cellGet (cellsOf n (a + 1) (v / 256)) x = if a ≤ x ∧ x < a + (n + 1) then byteAt v (x - a) else memUnset := by
        rw [ih]
        by_cases g : a ≤ x ∧ x < a + (n + 1)
        · simp only [hs.2 g, g, and_self, if_true]; exact hb g.1
        · rw [if_neg g, if_neg (fun q => g (hs.1 q))]
      unfold cellsOf
      split
      · exact hr
      · simp only [cellGet]
        rw [if_neg (fun q => hx q.symm)]
        exact hr

theorem cellGet_put (c : List Host.Cell) (a n v x : Nat) :
    cellGet (cellsPut c a n v) x = if a ≤ x ∧ x < a + n then byteAt v (x - a) else cellGet c x := by
  have hf1 := cellGet_filter c (fun k => decide (k < a)) x
  have hf2 := cellGet_filter c (fun k => decide (a + n ≤ k)) x
  have any1 : ∀ f : Nat → Bool, f x = false → (c.filter (fun p => f p.1)).any (fun p => p.1 = x) = false := by
    intro f hf
    rw [List.any_eq_false]
    intro p hp
    simp only [List.mem_filter] at hp
    simp only [decide_eq_true_eq]
    rintro rfl
    simp [hf] at hp
  have none1 : ∀ f : Nat → Bool, f x = true → (c.filter (fun p => f p.1)).any (fun p => p.1 = x) = false →
      cellGet c x = memUnset := by
    intro f hf h
    have := cellGet_none _ _ h
    rwa [cellGet_filter, if_pos hf] at this
  unfold cellsPut
  rw [cellGet_append, cellGet_append, cellGet_cellsOf, hf1, hf2]
  by_cases h1 : x < a
  · have h2 : ¬(a ≤ x ∧ x < a + n) := by omega
    have h3 : ¬(a + n ≤ x) := by omega
    by_cases g : (c.filter (fun p => decide (p.1 < a))).any (fun p => p.1 = x) = true
    · simp [List.any_append, g, h1, h2]
    · have g' := none1 (fun k => decide (k < a)) (by simpa using h1) (Bool.eq_false_iff.2 g)
      simp [h1, h2, h3, g', memUnset]
  · by_cases h4 : x < a + n
    · have g := any1 (fun k => decide (k < a)) (by simpa using h1)
      have h5 : a ≤ x ∧ x < a + n := by omega
      by_cases w : (cellsOf n a v).any (fun p => p.1 = x) = true
      · simp [List.any_append, g, w, h5]
      · have hn := cellGet_none _ _ (Bool.eq_false_iff.2 w)
        rw [cellGet_cellsOf, if_pos h5] at hn
        have h6 : ¬(a + n ≤ x) := by omega
        simp [List.any_append, g, w, h5, h6, hn]
    · have g := any1 (fun k => decide (k < a)) (by simpa using h1)
      have w : (cellsOf n a v).any (fun p => p.1 = x) = false := by
        rw [List.any_eq_false]
        intro p hp
        have := cellsOf_mem hp
        simp only [decide_eq_true_eq]; omega
      have h5 : ¬(a ≤ x ∧ x < a + n) := by omega
      have h6 : a + n ≤ x := by omega
      simp [List.any_append, g, w, h5, h6]

theorem memByte_write (m : Mem) (a w v pm x : Nat) :
    memByte (memWrite m a w v pm) x = if a ≤ x ∧ x < a + 8 * w then byteAt v (x - a) else memByte m x :=
  cellGet_put _ _ _ _ _

theorem memByte_tail (m : Mem) (a n v x : Nat) :
    memByte (memTail m a n v) x = if a ≤ x ∧ x < a + n then byteAt v (x - a) else memByte m x :=
  cellGet_put _ _ _ _ _

theorem memByte_mark (m : Mem) (a w k x : Nat) : memByte (memMark m a w k) x = memByte m x := rfl

theorem memByte_clear (m : Mem) (a n x : Nat) :
    memByte (memClear m a n) x = if a ≤ x ∧ x < a + n then memUnset else memByte m x := by
  have h := cellGet_filter m.cells (fun k => decide (k < a) || decide (a + n ≤ k)) x
  unfold memByte memClear
  simp only at h ⊢
  rw [h]
  by_cases g : a ≤ x ∧ x < a + n
  · have : ¬(x < a) ∧ ¬(a + n ≤ x) := by omega
    simp [g, this]
  · have : x < a ∨ a + n ≤ x := by omega
    simp only [g, if_false]
    rcases this with t | t <;> simp [t]

/-! ### Several bytes as one number -/

/-- The number whose byte `i` is `f i`, for `i` below `n`. -/
def numOf (f : Nat → Byte) (n : Nat) : Nat := ∑ i ∈ Finset.range n, (f i).toNat * 256 ^ i

theorem numOf_congr {f g : Nat → Byte} {n : Nat} (h : ∀ i < n, f i = g i) : numOf f n = numOf g n :=
  Finset.sum_congr rfl (fun i hi => by rw [h i (Finset.mem_range.1 hi)])

theorem numOf_succ (f : Nat → Byte) (n : Nat) : numOf f (n + 1) = numOf f n + (f n).toNat * 256 ^ n := by
  simp [numOf, Finset.sum_range_succ]

theorem numOf_lt (f : Nat → Byte) (n : Nat) : numOf f n < 256 ^ n := by
  induction n with
  | zero => simp [numOf]
  | succ n ih =>
    rw [numOf_succ, pow_succ]
    have := (f n).isLt
    nlinarith [Nat.pow_pos (n := n) (show 0 < 256 by norm_num)]

theorem numOf_add (f : Nat → Byte) (a b : Nat) : numOf f (a + b) = numOf f a + numOf (fun i => f (a + i)) b * 256 ^ a := by
  induction b with
  | zero => simp [numOf]
  | succ b ih => rw [← Nat.add_assoc, numOf_succ, ih, numOf_succ, pow_add]; ring

theorem numOf_byteAt (v n : Nat) : numOf (byteAt v) n = v % 256 ^ n := by
  induction n with
  | zero => simp [numOf, Nat.mod_one]
  | succ n ih =>
    rw [numOf_succ, ih, pow_succ, Nat.mod_mul]
    simp [byteAt, Nat.mul_comm]

/-- A slice of a number of bytes. -/
theorem numOf_slice (f : Nat → Byte) (n a b : Nat) (h : a + b ≤ n) :
    numOf f n / 256 ^ a % 256 ^ b = numOf (fun i => f (a + i)) b := by
  obtain ⟨d, rfl⟩ : ∃ d, n = a + (b + d) := ⟨n - a - b, by omega⟩
  rw [numOf_add, Nat.add_mul_div_right _ _ (Nat.pow_pos (by norm_num)), Nat.div_eq_of_lt (numOf_lt f a), Nat.zero_add, numOf_add,
    Nat.add_mul_mod_self_right, Nat.mod_eq_of_lt (numOf_lt _ _)]

theorem memRead_cells (c : List Host.Cell) (a n : Nat) (h : Rising c) :
    c.foldl (fun acc p => if a ≤ p.1 ∧ p.1 < a + n then acc + p.2.toNat * 256 ^ (p.1 - a) else acc) 0 =
      numOf (fun i => cellGet c (a + i)) n := by
  have gen : ∀ (c : List Host.Cell) (acc : Nat), Rising c →
      c.foldl (fun acc p => if a ≤ p.1 ∧ p.1 < a + n then acc + p.2.toNat * 256 ^ (p.1 - a) else acc) acc =
        acc + numOf (fun i => cellGet c (a + i)) n := by
    intro c
    induction c with
    | nil =>
      intro acc _
      have : numOf (fun i => cellGet [] (a + i)) n = 0 := by simp [numOf, cellGet, memUnset]
      simp [this]
    | cons p c ih =>
      intro acc hr
      obtain ⟨k, v⟩ := p
      have hc : Rising c := (List.pairwise_cons.1 hr).2
      have hk : ∀ q ∈ c, k < q.1 := (List.pairwise_cons.1 hr).1
      have h0 : cellGet c k = memUnset := by
        apply cellGet_none
        rw [List.any_eq_false]
        intro q hq
        have := hk q hq
        simp only [decide_eq_true_eq]; omega
      rw [List.foldl_cons, ih _ hc]
      have e : ∀ i, (cellGet ((k, v) :: c) (a + i)).toNat * 256 ^ i =
          (cellGet c (a + i)).toNat * 256 ^ i + if k = a + i then v.toNat * 256 ^ i else 0 := by
        intro i
        by_cases g : k = a + i
        · rw [← g, h0]; simp [cellGet, memUnset, g]
        · simp [cellGet, g]
      have s : numOf (fun i => cellGet ((k, v) :: c) (a + i)) n =
          numOf (fun i => cellGet c (a + i)) n + if a ≤ k ∧ k < a + n then v.toNat * 256 ^ (k - a) else 0 := by
        unfold numOf
        rw [Finset.sum_congr rfl (fun i _ => e i), Finset.sum_add_distrib]
        congr 1
        by_cases g : a ≤ k ∧ k < a + n
        · rw [if_pos g, Finset.sum_eq_single (k - a)]
          · rw [if_pos (by omega)]
          · intro b _ hb; rw [if_neg (by omega)]
          · intro hb; exact absurd (Finset.mem_range.2 (by omega)) hb
        · rw [if_neg g]
          apply Finset.sum_eq_zero
          intro i hi
          have := Finset.mem_range.1 hi
          rw [if_neg (by omega)]
      rw [s]
      simp only
      split <;> omega
  rw [gen c 0 h, Nat.zero_add]

/-- A read of several bytes of a canonical memory is the number of its bytes. -/
theorem memRead_bytes (m : Mem) (a n : Nat) (h : Memory.wf m = true) : memRead m a n = numOf (fun i => memByte m (a + i)) n := by
  exact memRead_cells m.cells a n (cellsWf_iff.1 (Memory.wf_iff.1 h).1).1

/-- A read of what has just been written, in part or whole. -/
theorem memRead_write (m : Mem) (a w v pm b n : Nat) (h : Memory.wf m = true) (h1 : a ≤ b) (h2 : b + n ≤ a + 8 * w) :
    memRead (memWrite m a w v pm) b n = v / 256 ^ (b - a) % 256 ^ n := by
  rw [memRead_bytes _ _ _ (Memory.wf_write h a w v pm), ← numOf_byteAt]
  apply numOf_congr
  intro i hi
  rw [memByte_write, if_pos (by omega)]
  have : b + i - a = (b - a) + i := by omega
  simp [byteAt, this, pow_add, Nat.div_div_eq_div_mul]

/-- A read beside what has just been written. -/
theorem memRead_write_beside (m : Mem) (a w v pm b n : Nat) (h : Memory.wf m = true) (h1 : b + n ≤ a ∨ a + 8 * w ≤ b) :
    memRead (memWrite m a w v pm) b n = memRead m b n := by
  rw [memRead_bytes _ _ _ (Memory.wf_write h a w v pm), memRead_bytes _ _ _ h]
  apply numOf_congr
  intro i hi
  rw [memByte_write, if_neg (by omega)]

/-- A read inside a read. -/
theorem memRead_slice (m : Mem) (a n k j : Nat) (h : Memory.wf m = true) (hk : k + j ≤ n) :
    memRead m a n / 256 ^ k % 256 ^ j = memRead m (a + k) j := by
  rw [memRead_bytes _ _ _ h, memRead_bytes _ _ _ h, numOf_slice _ _ _ _ hk]
  apply numOf_congr
  intro i _
  simp [Nat.add_assoc]

end Sys2Proof.Machine
end

