-- ==== Sys2Proof/Laws/Keeps.lean ====
section
/-! SUPPORT. What every operation keeps: the queue, the canonical forms of memory and registers, and what the panel
has sent already. -/

namespace Sys2Proof.Machine

/-- `t` keeps what `q` has: its queue is that of `q`, its memory and register store are canonical if those of `q` are, and it
has sent everything that `q` has sent. -/
structure Keeps (q t : State) : Prop where
  pending : t.pending = q.pending
  mem : Memory.wf q.mem = true → Memory.wf t.mem = true
  regs : Rising q.regs → Rising t.regs
  out : q.out <+: t.out

theorem Keeps.refl (q : State) : Keeps q q := ⟨rfl, id, id, List.prefix_refl _⟩

theorem Keeps.trans {q s t : State} (h : Keeps q s) (g : Keeps s t) : Keeps q t :=
  ⟨g.pending.trans h.pending, fun m => g.mem (h.mem m), fun m => g.regs (h.regs m), h.out.trans g.out⟩

/-- An update of every field but the queue, memory, registers and what has been sent. -/
theorem Keeps.same {q s : State} (t : State) (h : Keeps q s) (hp : t.pending = s.pending := by rfl) (hm : t.mem = s.mem := by rfl)
    (hr : t.regs = s.regs := by rfl) (ho : t.out = s.out := by rfl) : Keeps q t :=
  ⟨hp.trans h.pending, fun m => by rw [hm]; exact h.mem m, fun m => by rw [hr]; exact h.regs m, by rw [ho]; exact h.out⟩

theorem Keeps.withMem {q s : State} (h : Keeps q s) (m : Mem) (hm : Memory.wf s.mem = true → Memory.wf m = true) :
    Keeps q { s with mem := m } := ⟨h.pending, fun w => hm (h.mem w), h.regs, h.out⟩

theorem Keeps.withRegs {q s : State} (h : Keeps q s) (r : Tab Nat) (hr : Rising s.regs → Rising r) :
    Keeps q { s with regs := r } := ⟨h.pending, h.mem, fun w => hr (h.regs w), h.out⟩

theorem Keeps.cut {q x : State} {P : Prop} (h : Keeps q x) (k : Keeps q x → P) : P := k h

theorem Keeps.ite {q a b : State} {c : Prop} [Decidable c] (ha : Keeps q a) (hb : Keeps q b) : Keeps q (if c then a else b) := by
  split <;> assumption

theorem Keeps.iteFst {α : Type} {q : State} {a b : State × α} {c : Prop} [Decidable c] (ha : Keeps q a.1) (hb : Keeps q b.1) :
    Keeps q (if c then a else b).1 := by split <;> assumption

theorem Keeps.foldl {α : Type} {q s : State} {g : State → α → State} {l : List α} (hg : ∀ s a, Keeps q s → Keeps q (g s a))
    (h : Keeps q s) : Keeps q (l.foldl g s) := by
  induction l generalizing s with
  | nil => exact h
  | cons a l ih => exact ih (hg _ _ h)

theorem Keeps.foldlFst {α β : Type} {q : State} {p : State × β} {g : State × β → α → State × β} {l : List α}
    (hg : ∀ p a, Keeps q p.1 → Keeps q (g p a).1) (h : Keeps q p.1) : Keeps q (l.foldl g p).1 := by
  induction l generalizing p with
  | nil => exact h
  | cons a l ih => exact ih (hg _ _ h)

theorem Keeps.upTo {q s : State} {g : State → Nat → State} {n : Nat} (hg : ∀ s a, Keeps q s → Keeps q (g s a))
    (h : Keeps q s) : Keeps q (Sys2Proof.upTo n g s) := Keeps.foldl hg h

/-- What a table of pairs gives. -/
theorem Keeps.fold {α β : Type} {P : β → Prop} {g : β → α → β} {l : List α} {b : β} (hg : ∀ b a, P b → P (g b a)) (h : P b) :
    P (l.foldl g b) := by
  induction l generalizing b with
  | nil => exact h
  | cons a l ih => exact ih (hg _ _ h)

/-- A literal that takes the queue, memory, registers and output of `s`. -/
theorem Keeps.lit {q s : State} {cores_ : Tab Core} {sites_ : Tab Site} {regions_ : Tab Region}
    {timers_ : Tab (Nat × Nat)} {tenths_ : Nat} {rcnt_ : Nat} {alwaysOn_ : Bool} {rootOn_ : Bool} {pfNum_ : Nat}
    {pfDen_ : Nat} {pfMs_ : Nat} {inputOv_ : Bool} {shutdown_ : Bool} {outOfService_ : Bool} {hubDom_ : Tab Nat}
    {busErr_ : Option (Nat × Nat × Nat)} {holdover_ : KeySet} {coolant_ : Tab Nat} {pendBa_ : List (Nat × Nat × Nat
    × Nat)} {logRam_ : List LogRec} {logFlash_ : List LogRec} {logLost_ : Nat} {drawn_ : Nat} {streams_ : Tab
    Stream} {ctxs_ : Tab Ctx} {hubs_ : Tab Hub} {optics_ : Tab Port} {twin_ : Twin} {shelfTag_ : Nat} {loopTag_ :
    Nat} {rackTag_ : Nat} {up_ : Nat} {flash_ : Tab (List Nat)} {fwA_ : FwSlot} {fwB_ : FwSlot} {restart_ : Option
    Restart} {bring_ : Bring} {lanes_ : Tab (Nat × Nat)} {mute_ : KeySet} {heldX16_ : KeySet} {expired_ : KeySet}
    {remapSites_ : List Nat} :
    Keeps q { pending := s.pending, regs := s.regs, mem := s.mem, out := s.out, cores := cores_, sites := sites_
              regions := regions_, timers := timers_, tenths := tenths_, rcnt := rcnt_, alwaysOn := alwaysOn_
              rootOn := rootOn_, pfNum := pfNum_, pfDen := pfDen_, pfMs := pfMs_, inputOv := inputOv_, shutdown := shutdown_
              outOfService := outOfService_, hubDom := hubDom_, busErr := busErr_, holdover := holdover_
              coolant := coolant_, pendBa := pendBa_, logRam := logRam_, logFlash := logFlash_, logLost := logLost_
              drawn := drawn_, streams := streams_, ctxs := ctxs_, hubs := hubs_, optics := optics_, twin := twin_
              shelfTag := shelfTag_, loopTag := loopTag_, rackTag := rackTag_, up := up_, flash := flash_, fwA := fwA_
              fwB := fwB_, restart := restart_, bring := bring_, lanes := lanes_, mute := mute_, heldX16 := heldX16_
              expired := expired_, remapSites := remapSites_ } ↔ Keeps q s :=
  ⟨fun h => ⟨h.pending, h.mem, h.regs, h.out⟩, fun h => ⟨h.pending, h.mem, h.regs, h.out⟩⟩

/-- Where an operation that may refuse answers a state, that state keeps what `q` has. -/
structure OptKeeps (q : State) (o : Option State) : Prop where
  keeps : ∀ t, o = some t → Keeps q t

theorem OptKeeps.none {q : State} : OptKeeps q Option.none := ⟨fun _ h => nomatch h⟩

theorem OptKeeps.some {q t : State} (h : Keeps q t) : OptKeeps q (Option.some t) := ⟨fun _ e => by cases e; exact h⟩

theorem OptKeeps.ite {q : State} {a b : Option State} {c : Prop} [Decidable c] (ha : OptKeeps q a) (hb : OptKeeps q b) :
    OptKeeps q (if c then a else b) := by split <;> assumption

theorem OptKeeps.get {q t : State} {o : Option State} (e : o = Option.some t) (h : OptKeeps q o) : Keeps q t := h.keeps t e

theorem OptKeeps.getD {q d : State} {o : Option State} (h : OptKeeps q o) (hd : Keeps q d) : Keeps q (o.getD d) := by
  cases o with
  | none => exact hd
  | some t => exact h.keeps t rfl

theorem State.wr_keeps (s : State) (page : Nat) (f : Fld) (v : Nat) {q : State} (h : Keeps q s) : Keeps q (s.wr page f v) :=
  h.withRegs _ (fun w => rising_put w _ _)

theorem State.emit_keeps (s : State) (o : Out) {q : State} (h : Keeps q s) : Keeps q (s.emit o) :=
  ⟨h.pending, h.mem, h.regs, h.out.trans (List.prefix_append _ _)⟩

theorem State.draw_keeps (s : State) (w : Nat) {q : State} (h : Keeps q s) : Keeps q (s.draw w).2 := Keeps.same _ h

theorem State.put_keeps (s : State) (a words : Nat) (l : Line) {q : State} (h : Keeps q s) : Keeps q (s.put a words l) :=
  h.withMem _ (fun w => Memory.wf_write w _ _ _ _)

end Sys2Proof.Machine
end

