-- ==== Sys2Proof/Laws/KeepsUnits.lean ====
section
/-! SUPPORT. What the register helpers, the records, the matrix, vector and timer units keep. Each lemma says of one function that a state which keeps what `q0` has still does so after it. -/

namespace Sys2Proof.Machine

theorem State.setBit_keeps (s : State) (page : Nat) (f : Fld) {q0 : State} (hK : Keeps q0 s) :
    Keeps q0 (State.setBit s page f) := by
  unfold State.setBit
  repeat' first
    | with_reducible assumption
    | (with_reducible apply State.wr_keeps)

theorem State.bump_keeps (s : State) (page : Nat) (f : Fld) (k : Nat) {q0 : State} (hK : Keeps q0 s) :
    Keeps q0 (State.bump s page f k) := by
  unfold State.bump
  repeat' first
    | with_reducible assumption
    | (with_reducible apply Keeps.ite)
    | (with_reducible apply State.wr_keeps)

theorem State.wrap_keeps (s : State) (page : Nat) (f : Fld) (k : Nat) {q0 : State} (hK : Keeps q0 s) :
    Keeps q0 (State.wrap s page f k) := by
  unfold State.wrap
  repeat' first
    | with_reducible assumption
    | (with_reducible apply State.wr_keeps)

theorem State.orBits_keeps (s : State) (page : Nat) (f : Fld) (m : Nat) {q0 : State} (hK : Keeps q0 s) :
    Keeps q0 (State.orBits s page f m) := by
  unfold State.orBits
  repeat' first
    | with_reducible assumption
    | (with_reducible apply State.wr_keeps)

theorem State.wrPair_keeps (s : State) (page : Nat) (f g : Fld) (v : Nat) {q0 : State} (hK : Keeps q0 s) :
    Keeps q0 (State.wrPair s page f g v) := by
  unfold State.wrPair
  repeat' first
    | with_reducible assumption
    | (with_reducible apply State.wr_keeps)

theorem State.setCore_keeps (s : State) (c : CoreId) (v : Core) {q0 : State} (hK : Keeps q0 s) :
    Keeps q0 (State.setCore s c v) := by
  unfold State.setCore
  repeat' first
    | with_reducible assumption
    | (simp -zeta only [↓Keeps.lit])

theorem State.setSite_keeps (s : State) (i : Nat) (v : Site) {q0 : State} (hK : Keeps q0 s) :
    Keeps q0 (State.setSite s i v) := by
  unfold State.setSite
  repeat' first
    | with_reducible assumption
    | (simp -zeta only [↓Keeps.lit])

theorem State.setRegion_keeps (s : State) (r : Nat) (v : Region) {q0 : State} (hK : Keeps q0 s) :
    Keeps q0 (State.setRegion s r v) := by
  unfold State.setRegion
  repeat' first
    | with_reducible assumption
    | (simp -zeta only [↓Keeps.lit])

theorem State.noteSp_keeps (s : State) (c : CoreId) (b l w0 words : Nat) {q0 : State} (hK : Keeps q0 s) :
    Keeps q0 (State.noteSp s c b l w0 words) := by
  unfold State.noteSp
  repeat' first
    | with_reducible assumption
    | (intro x; refine Keeps.cut (q := q0) (x := x) ?_ ?_; pick_goal 2; clear_value x; intro hx)
    | (lift_lets; intro x)
    | (intro x)
    | (with_reducible apply Keeps.ite)
    | (with_reducible apply State.bump_keeps)
    | (with_reducible apply State.setBit_keeps)
    | (with_reducible apply State.wr_keeps)

theorem qPut_keeps (s : State) (q rec : Nat) {q0 : State} (hK : Keeps q0 s) :
    Keeps q0 (qPut s q rec) := by
  unfold qPut
  repeat' first
    | with_reducible assumption
    | (intro x; refine Keeps.cut (q := q0) (x := x) ?_ ?_; pick_goal 2; clear_value x; intro hx)
    | (lift_lets; intro x)
    | (intro x)
    | (with_reducible apply Keeps.ite)
    | (with_reducible apply State.emit_keeps)
    | (with_reducible apply State.put_keeps)
    | (with_reducible apply State.wr_keeps)
    | split

theorem evqPut_keeps (s : State) (r rec : Nat) {q0 : State} (hK : Keeps q0 s) :
    Keeps q0 (evqPut s r rec) := by
  unfold evqPut
  repeat' first
    | with_reducible assumption
    | (with_reducible apply Keeps.ite)
    | (with_reducible apply State.bump_keeps)
    | (with_reducible apply qPut_keeps)

theorem logEnter_keeps (s : State) (tag rec : Nat) {q0 : State} (hK : Keeps q0 s) :
    Keeps q0 (logEnter s tag rec) := by
  unfold logEnter
  repeat' first
    | with_reducible assumption
    | (intro x; refine Keeps.cut (q := q0) (x := x) ?_ ?_; pick_goal 2; clear_value x; intro hx)
    | (lift_lets; intro x)
    | (intro x)
    | (with_reducible apply State.wr_keeps)
    | (dsimp -zeta only [x])
    | (simp -zeta only [↓Keeps.lit])

theorem logAdd_keeps (s : State) (tag rec : Nat) {q0 : State} (hK : Keeps q0 s) :
    Keeps q0 (logAdd s tag rec) := by
  unfold logAdd
  repeat' first
    | with_reducible assumption
    | (intro x; refine Keeps.cut (q := q0) (x := x) ?_ ?_; pick_goal 2; clear_value x; intro hx)
    | (lift_lets; intro x)
    | (with_reducible apply Keeps.ite)
    | (with_reducible apply State.bump_keeps)
    | (with_reducible apply State.setBit_keeps)
    | (with_reducible apply logEnter_keeps)
    | (simp -zeta only [↓Keeps.lit])

theorem logEvent_keeps (s : State) (code sev : Nat) (src : EvSrc) (count : Nat) (sub : Nat) {q0 : State} (hK : Keeps q0 s) :
    Keeps q0 (logEvent s code sev src count sub) := by
  unfold logEvent
  repeat' first
    | with_reducible assumption
    | (with_reducible apply logAdd_keeps)

theorem pfVector_keeps (s : State) (b : Nat) {q0 : State} (hK : Keeps q0 s) :
    Keeps q0 (pfVector s b) := by
  unfold pfVector
  repeat' first
    | with_reducible assumption
    | (lift_lets; intro x)
    | (intro x)
    | (with_reducible apply State.emit_keeps)
    | (dsimp -zeta only [x])
    | split

theorem pfSet_keeps (s : State) (b : Nat) {q0 : State} (hK : Keeps q0 s) :
    Keeps q0 (pfSet s b) := by
  unfold pfSet
  repeat' first
    | with_reducible assumption
    | (intro x; refine Keeps.cut (q := q0) (x := x) ?_ ?_; pick_goal 2; clear_value x; intro hx)
    | (lift_lets; intro x)
    | (with_reducible apply Keeps.ite)
    | (with_reducible apply State.wr_keeps)
    | (with_reducible apply pfVector_keeps)

theorem loadTile_keeps (s : State) (c : CoreId) (x mode dq doff sq soff fine : Nat) {q0 : State} (hK : Keeps q0 s) :
    Keeps q0 (loadTile s c x mode dq doff sq soff fine).1 := by
  unfold loadTile
  refine Keeps.fold (P := fun r : State × Nat × Nat => Keeps q0 r.1) (fun r i h => ?_)
    (Keeps.fold (P := fun r : State × Nat × Nat => Keeps q0 r.1) (fun r i h => ?_) hK)
  · exact State.put_keeps _ _ _ _ (State.noteSp_keeps _ _ _ _ _ _ h)
  · exact State.put_keeps _ _ _ _ (State.noteSp_keeps _ _ _ _ _ _ h)

theorem mxLoad_keeps (s : State) (c : CoreId) (x mode dq doff sq soff fine : Nat) {q0 : State} (hK : Keeps q0 s) :
    Keeps q0 (mxLoad s c x mode dq doff sq soff fine) := by
  unfold mxLoad
  repeat' first
    | with_reducible assumption
    | (lift_lets; intro x)
    | (with_reducible apply Keeps.ite)
    | (with_reducible apply State.setBit_keeps)
    | (with_reducible apply State.setCore_keeps)
    | (with_reducible apply State.wr_keeps)
    | (with_reducible apply loadTile_keeps)

theorem mxExp_keeps (s : State) (c : CoreId) (xsel bank line : Nat) {q0 : State} (hK : Keeps q0 s) :
    Keeps q0 (mxExp s c xsel bank line) := by
  unfold mxExp
  repeat' first
    | with_reducible assumption
    | (lift_lets; intro x)
    | (with_reducible apply State.noteSp_keeps)
    | (with_reducible apply State.put_keeps)

theorem noteRow_keeps (s : State) (c : CoreId) (mode aq aoff i : Nat) {q0 : State} (hK : Keeps q0 s) :
    Keeps q0 (noteRow s c mode aq aoff i) := by
  unfold noteRow
  repeat' first
    | with_reducible assumption
    | (with_reducible apply State.noteSp_keeps)
    | split

theorem noteSlot_keeps (s : State) (c : CoreId) (m : Nat) {q0 : State} (hK : Keeps q0 s) :
    Keeps q0 (noteSlot s c m).1 := by
  unfold noteSlot
  repeat' first
    | with_reducible assumption
    | (intro x; refine Keeps.cut (q := q0) (x := x) ?_ ?_; pick_goal 2; clear_value x; intro hx)
    | (lift_lets; intro x)
    | (intro x)
    | (with_reducible apply Keeps.ite)
    | (with_reducible apply State.bump_keeps)
    | (with_reducible apply State.setBit_keeps)

theorem mulRow_keeps (c : CoreId) (x accm amode aq aoff slot xsel xidx : Nat) (psh : Int) (arr : ArrayUpset) (r : MulRes) (i : Nat) {q0 : State} (hK : Keeps q0 r.st) :
    Keeps q0 (mulRow c x accm amode aq aoff slot xsel xidx psh arr r i).st := by
  unfold mulRow
  repeat' first
    | with_reducible assumption
    | (intro x; refine Keeps.cut (q := q0) (x := x) ?_ ?_; pick_goal 2; clear_value x; intro hx)
    | (lift_lets; intro x)
    | (intro x)
    | (with_reducible apply Keeps.ite)
    | (with_reducible apply State.bump_keeps)
    | (with_reducible apply State.put_keeps)
    | (with_reducible apply State.setBit_keeps)
    | (with_reducible apply noteRow_keeps)
    | (with_reducible apply noteSlot_keeps)
    | (with_reducible apply Keeps.iteFst)

theorem mxMul_keeps (s : State) (c : CoreId) (x accm amode aq aoff m slot xsel xidx : Nat) (psh : Int) (arr : ArrayUpset) (e0 : Nat)
    {q0 : State} (hK : Keeps q0 s) : Keeps q0 (mxMul s c x accm amode aq aoff m slot xsel xidx psh arr e0).st := by
  have h : Keeps q0 (upTo m (mulRow c x accm amode aq aoff slot xsel xidx psh arr) (⟨s, none⟩ : MulRes)).st :=
    Keeps.fold (P := fun r : MulRes => Keeps q0 r.st) (fun r i h => mulRow_keeps _ _ _ _ _ _ _ _ _ _ _ _ _ h) hK
  unfold mxMul
  extract_lets r p
  have h1 : Keeps q0 r.st := h
  clear_value r p
  split
  · exact h1
  · repeat' first
      | exact h1
      | (with_reducible apply State.wr_keeps)
      | (with_reducible apply State.setBit_keeps)

theorem drainSlot_keeps (s : State) (c : CoreId) (fmt m dq doff i0 : Nat) {q0 : State} (hK : Keeps q0 s) :
    Keeps q0 (drainSlot s c fmt m dq doff i0) := by
  unfold drainSlot
  repeat' first
    | with_reducible assumption
    | (lift_lets; intro x)
    | (intro x)
    | (with_reducible refine Keeps.upTo (fun _ _ _ => ?_) ?_)
    | (with_reducible apply State.put_keeps)
    | (with_reducible apply noteSlot_keeps)

theorem mxDrain_keeps (s : State) (c : CoreId) (fmt clr slot cnt dq doff : Nat) (keep : List Nat) {q0 : State} (hK : Keeps q0 s) :
    Keeps q0 (mxDrain s c fmt clr slot cnt dq doff keep) := by
  unfold mxDrain
  repeat' first
    | with_reducible assumption
    | (intro x; refine Keeps.cut (q := q0) (x := x) ?_ ?_; pick_goal 2; clear_value x; intro hx)
    | (lift_lets; intro x)
    | (with_reducible apply Keeps.ite)
    | (with_reducible refine Keeps.upTo (fun _ _ _ => ?_) ?_)
    | (with_reducible apply State.put_keeps)
    | (with_reducible apply State.setBit_keeps)
    | (with_reducible apply drainSlot_keeps)

theorem noteVf_keeps (s : State) (c : CoreId) (o n : Nat) {q0 : State} (hK : Keeps q0 s) : Keeps q0 (noteVf s c o n) := by
  unfold noteVf
  lift_lets
  intro a words ce ue p s1
  have h1 : Keeps q0 s1 := Keeps.ite hK (State.bump_keeps _ _ _ _ (State.setBit_keeps _ _ _ hK))
  clear_value s1 p
  intro s2
  have h2 : Keeps q0 s2 := State.setBit_keeps _ _ _ h1
  clear_value s2
  intro m
  refine Keeps.ite h1 (h2.withMem _ (fun w => ?_))
  have hm := Memory.wf_iff.mp (Memory.wf_mark w a words ue)
  exact Memory.wf_iff.mpr ⟨hm.1, hm.2.1, hm.2.2.1, keyWf_marksPut hm.2.2.2 _ _ _⟩

theorem vfWrite_keeps (s : State) (c : CoreId) (o n v pm : Nat) {q0 : State} (hK : Keeps q0 s) : Keeps q0 (vfWrite s c o n v pm) := by
  unfold vfWrite
  refine hK.withMem _ (fun w => ?_)
  have h := Memory.wf_write w (vfBase c.site c.n + o) (n / 8) (v % 256 ^ (8 * (n / 8))) (pm % 2 ^ (n / 8))
  split
  · exact h
  · exact Memory.wf_mark (Memory.wf_tail h _ _ _) _ _ _

theorem vfPutRun_keeps (s : State) (c : CoreId) (sz a : Nat) (es : List OutElem) {q0 : State} (hK : Keeps q0 s) :
    Keeps q0 (vfPutRun s c sz a es) := by
  unfold vfPutRun
  repeat' first
    | with_reducible assumption
    | (intro x; refine Keeps.cut (q := q0) (x := x) ?_ ?_; pick_goal 2; clear_value x; intro hx)
    | (lift_lets; intro x)
    | (intro x)
    | (with_reducible apply Keeps.ite)
    | (with_reducible apply State.bump_keeps)
    | (with_reducible apply State.setBit_keeps)
    | (with_reducible apply vfWrite_keeps)

/-- An invariant of every write of an operation's beats holds after them. -/
theorem beats_ind {β : Type} {P : State → Prop} {kk d : Nat} {read : State → Nat → β} {write : State → Nat → β → State}
    (hw : ∀ s k b, P s → P (write s k b)) {s : State} (h : P s) : P (beats kk d read write s) := by
  unfold beats
  extract_lets r
  have hr : P r.1 := by
    refine Keeps.fold (P := fun p : State × List (Nat × β) => P p.1) (fun p k hp => ?_) h
    unfold beatPop
    split
    · split
      · exact hw _ _ _ hp
      · exact hp
    · exact hp
  exact Keeps.fold (fun s x => hw s x.1 x.2) hr

theorem vxEw_keeps (s : State) (c : CoreId) (op : Ew) (ty cnt dst srca srcb imm : Nat) (sb : Bool) {q0 : State} (hK : Keeps q0 s) :
    Keeps q0 (vxEw s c op ty cnt dst srca srcb imm sb) := by
  unfold vxEw
  exact beats_ind (fun _ _ _ h => vfPutRun_keeps _ _ _ _ _ h)
    (Keeps.ite (noteVf_keeps _ _ _ _ (Keeps.ite (noteVf_keeps _ _ _ _ (noteVf_keeps _ _ _ _ hK)) (noteVf_keeps _ _ _ _ hK)))
      (Keeps.ite (noteVf_keeps _ _ _ _ (noteVf_keeps _ _ _ _ hK)) (noteVf_keeps _ _ _ _ hK)))

theorem vxRd_keeps (s : State) (c : CoreId) (op : Rd) (ty cnt dst srca copies : Nat) {q0 : State} (hK : Keeps q0 s) :
    Keeps q0 (vxRd s c op ty cnt dst srca copies) := by
  unfold vxRd
  repeat' first
    | with_reducible assumption
    | (intro x; refine Keeps.cut (q := q0) (x := x) ?_ ?_; pick_goal 2; clear_value x; intro hx)
    | (lift_lets; intro x)
    | (intro x)
    | (with_reducible apply Keeps.ite)
    | (with_reducible apply State.bump_keeps)
    | (with_reducible apply State.setBit_keeps)
    | (with_reducible apply noteVf_keeps)
    | (with_reducible apply vfWrite_keeps)

theorem vxFn_keeps (s : State) (c : CoreId) (fn : Fn) (ty cnt dst srca : Nat) {q0 : State} (hK : Keeps q0 s) :
    Keeps q0 (vxFn s c fn ty cnt dst srca) := by
  unfold vxFn
  exact beats_ind (fun _ _ _ h => vfPutRun_keeps _ _ _ _ _ h) (noteVf_keeps _ _ _ _ hK)

theorem convToFp_keeps (s : State) (c : CoreId) (f : Fp) (stoch nanOvf : Bool) (g dst e0 : Nat) (es : List SrcElem) {q0 : State} (hK : Keeps q0 s) :
    Keeps q0 (convToFp s c f stoch nanOvf g dst e0 es).1 := by
  unfold convToFp
  repeat' first
    | with_reducible assumption
    | (lift_lets; intro x)
    | (intro x)
    | (with_reducible apply vfWrite_keeps)

theorem convBlock_keeps (s : State) (c : CoreId) (f : Bs) (stoch nanOvf xauto : Bool) (g exp dst cnt b : Nat)
    (es : List SrcElem) {q0 : State} (hK : Keeps q0 s) :
    Keeps q0 (convBlock s c f stoch nanOvf xauto g exp dst cnt b es).1 := by
  unfold convBlock
  refine (Keeps.foldl (fun s a h => vfWrite_keeps _ _ _ _ _ _ h) hK).withMem _ (fun w => Memory.wf_tail w _ _ _)

theorem convBeat_keeps (s : State) (c : CoreId) (q : Conv) (e0 : Nat) (es : List SrcElem) {q0 : State} (hK : Keeps q0 s) :
    Keeps q0 (convBeat s c q e0 es) := by
  unfold convBeat
  extract_lets p live r s2 s3 npois s4 s5 s6
  have hr : Keeps q0 r.1 := by
    simp only [r]
    split
    · exact convToFp_keeps _ _ _ _ _ _ _ _ _ hK
    · exact Keeps.foldlFst (fun p a h => convBlock_keeps _ _ _ _ _ _ _ _ _ _ _ _ h) hK
  have h3 : Keeps q0 s3 := Keeps.ite hr (State.bump_keeps _ _ _ _ (State.setBit_keeps _ _ _ hr))
  have h4 : Keeps q0 s4 := Keeps.ite h3 (State.bump_keeps _ _ _ _ (State.setBit_keeps _ _ _ h3))
  have h5 : Keeps q0 s5 := Keeps.ite (State.setBit_keeps _ _ _ h4) h4
  have h6 : Keeps q0 s6 := Keeps.ite (State.setBit_keeps _ _ _ h5) h5
  split
  · exact h6
  · exact State.wr_keeps _ _ _ _ h6

theorem vxConvert_keeps (s : State) (c : CoreId) (src dst_ : Fmt) (cnt dst srca imm mode : Nat) {q0 : State} (hK : Keeps q0 s) :
    Keeps q0 (vxConvert s c src dst_ cnt dst srca imm mode) := by
  unfold vxConvert
  extract_lets p s1 g q s2
  have h2 : Keeps q0 s2 := beats_ind (fun _ _ _ h => convBeat_keeps _ _ _ _ _ h) (noteVf_keeps _ _ _ _ hK)
  exact Keeps.ite (State.wr_keeps _ _ _ _ h2) h2

theorem vxSeed_keeps (s : State) (c : CoreId) (imm : Nat) {q0 : State} (hK : Keeps q0 s) :
    Keeps q0 (vxSeed s c imm) := by
  unfold vxSeed
  repeat' first
    | with_reducible assumption
    | (with_reducible apply State.wr_keeps)

theorem statusPut_keeps (s : State) (c : CoreId) (dst n v : Nat) {q0 : State} (hK : Keeps q0 s) : Keeps q0 (statusPut s c dst n v) := by
  unfold statusPut
  exact Keeps.ite (hK.withMem _ (fun w => Memory.wf_write w _ _ _ _)) (hK.withMem _ (fun w => Memory.wf_tail w _ _ _))

theorem vxRmaxRd_keeps (s : State) (c : CoreId) (k dst : Nat) {q0 : State} (hK : Keeps q0 s) :
    Keeps q0 (vxRmaxRd s c k dst) := by
  unfold vxRmaxRd
  repeat' first
    | with_reducible assumption
    | (with_reducible apply statusPut_keeps)

theorem vxRmaxRr_keeps (s : State) (c : CoreId) (k dst : Nat) {q0 : State} (hK : Keeps q0 s) :
    Keeps q0 (vxRmaxRr s c k dst) := by
  unfold vxRmaxRr
  repeat' first
    | with_reducible assumption
    | (with_reducible apply State.wr_keeps)
    | (with_reducible apply vxRmaxRd_keeps)

theorem vxCstat_keeps (s : State) (c : CoreId) (dst : Nat) {q0 : State} (hK : Keeps q0 s) :
    Keeps q0 (vxCstat s c dst) := by
  unfold vxCstat
  repeat' first
    | with_reducible assumption
    | (lift_lets; intro x)
    | (with_reducible apply statusPut_keeps)

theorem vxLoadLine_keeps (s : State) (c : CoreId) (dst srca i : Nat) {q0 : State} (hK : Keeps q0 s) :
    Keeps q0 (vxLoadLine s c dst srca i) := by
  unfold vxLoadLine
  repeat' first
    | with_reducible assumption
    | (lift_lets; intro x)
    | (intro x)
    | (with_reducible apply State.noteSp_keeps)
    | (with_reducible apply State.put_keeps)

theorem vxStoreLine_keeps (s : State) (c : CoreId) (dst srca i : Nat) {q0 : State} (hK : Keeps q0 s) :
    Keeps q0 (vxStoreLine s c dst srca i) := by
  unfold vxStoreLine
  repeat' first
    | with_reducible assumption
    | (intro x; refine Keeps.cut (q := q0) (x := x) ?_ ?_; pick_goal 2; clear_value x; intro hx)
    | (lift_lets; intro x)
    | (with_reducible apply State.put_keeps)
    | (with_reducible apply noteVf_keeps)

theorem timerRecord_keeps (s : State) (c : CoreId) (t cc ns : Nat) (co : Bool) {q0 : State} (hK : Keeps q0 s) :
    Keeps q0 (timerRecord s c t cc ns co) := by
  unfold timerRecord
  repeat' first
    | with_reducible assumption
    | (intro x; refine Keeps.cut (q := q0) (x := x) ?_ ?_; pick_goal 2; clear_value x; intro hx)
    | (lift_lets; intro x)
    | (intro x)
    | (with_reducible apply State.bump_keeps)
    | (with_reducible apply State.wr_keeps)

theorem timerRun_keeps (s : State) (c : CoreId) (t : Nat) (on : Bool) (cc ns : Nat) {q0 : State} (hK : Keeps q0 s) :
    Keeps q0 (timerRun s c t on cc ns) := by
  unfold timerRun
  repeat' first
    | with_reducible assumption
    | (intro x; refine Keeps.cut (q := q0) (x := x) ?_ ?_; pick_goal 2; clear_value x; intro hx)
    | (lift_lets; intro x)
    | (intro x)
    | (with_reducible apply State.wr_keeps)
    | (simp -zeta only [↓Keeps.lit])

theorem timerEvent_keeps (s : State) (c : CoreId) (t : Nat) (start stop : Bool) (cc ns : Nat) {q0 : State} (hK : Keeps q0 s) :
    Keeps q0 (timerEvent s c t start stop cc ns) := by
  unfold timerEvent
  repeat' first
    | with_reducible assumption
    | (intro x; refine Keeps.cut (q := q0) (x := x) ?_ ?_; pick_goal 2; clear_value x; intro hx)
    | (lift_lets; intro x; clear_value x)
    | (intro x; clear_value x)
    | (with_reducible apply Keeps.ite)
    | (with_reducible apply State.bump_keeps)
    | (with_reducible apply State.wr_keeps)
    | (with_reducible apply timerRecord_keeps)
    | (with_reducible apply timerRun_keeps)
    | split

theorem timerSource_keeps (s : State) (c : CoreId) (src : Nat) (only : Option Nat) (isStart isStop : Bool) (cc ns : Nat) {q0 : State} (hK : Keeps q0 s) :
    Keeps q0 (timerSource s c src only isStart isStop cc ns) := by
  unfold timerSource
  repeat' first
    | with_reducible assumption
    | (lift_lets; intro x)
    | (intro x)
    | (with_reducible apply Keeps.ite)
    | (with_reducible refine Keeps.upTo (fun _ _ _ => ?_) ?_)
    | (with_reducible apply timerEvent_keeps)

theorem timerFrame_keeps (s : State) (c : CoreId) (late : Bool) (cc ns : Nat) {q0 : State} (hK : Keeps q0 s) :
    Keeps q0 (timerFrame s c late cc ns) := by
  unfold timerFrame
  repeat' first
    | with_reducible assumption
    | (lift_lets; intro x)
    | (with_reducible apply Keeps.ite)
    | (with_reducible refine Keeps.upTo (fun _ _ _ => ?_) ?_)
    | (with_reducible apply timerEvent_keeps)

theorem badValue_keeps (s : State) (page off : Nat) {q0 : State} (hK : Keeps q0 s) :
    Keeps q0 (badValue s page off) := by
  unfold badValue
  repeat' first
    | with_reducible assumption
    | (with_reducible apply State.setBit_keeps)
    | (with_reducible apply State.wr_keeps)

theorem takenOr_keeps (s : State) (page off : Nat) (r : Option State) {q0 : State} (hK : Keeps q0 s)
    (hO : OptKeeps q0 r) : Keeps q0 (takenOr s page off r) := OptKeeps.getD hO (badValue_keeps _ _ _ hK)

theorem State.setHubDom_keeps (s : State) (h v : Nat) {q0 : State} (hK : Keeps q0 s) :
    Keeps q0 (State.setHubDom s h v) := by
  unfold State.setHubDom
  repeat' first
    | with_reducible assumption
    | (simp -zeta only [↓Keeps.lit])

theorem busErrorAt_keeps (s : State) (p h addr reason : Nat) (write : Bool) {q0 : State} (hK : Keeps q0 s) :
    Keeps q0 (busErrorAt s p h addr reason write) := by
  unfold busErrorAt
  repeat' first
    | with_reducible assumption
    | (intro x; refine Keeps.cut (q := q0) (x := x) ?_ ?_; pick_goal 2; clear_value x; intro hx)
    | (lift_lets; intro x; refine Keeps.cut (q := q0) (x := x) ?_ ?_; pick_goal 2; clear_value x; intro hx)
    | (with_reducible apply State.bump_keeps)
    | (with_reducible apply State.emit_keeps)
    | (with_reducible apply logEvent_keeps)
    | (with_reducible apply pfSet_keeps)
    | (dsimp -zeta only [x])
    | split
    | (simp -zeta only [↓Keeps.lit])

theorem busError_keeps (s : State) (p addr reason : Nat) (write : Bool) {q0 : State} (hK : Keeps q0 s) :
    Keeps q0 (busError s p addr reason write) := by
  unfold busError
  repeat' first
    | with_reducible assumption
    | (with_reducible apply busErrorAt_keeps)

theorem unknownWrite_keeps (s t : State) {q0 : State} (hK : Keeps q0 s) (hT0 : Keeps q0 t) : Keeps q0 (unknownWrite s t) := by
  unfold unknownWrite
  exact Keeps.same (s := if (Config.fresh t.drawn 1).toNat = 1 then t else s) _ (Keeps.ite hT0 hK)

theorem sideCount_keeps (s : State) (page : Nat) {q0 : State} (hK : Keeps q0 s) :
    Keeps q0 (sideCount s page) := by
  unfold sideCount
  repeat' first
    | with_reducible assumption
    | (intro x; refine Keeps.cut (q := q0) (x := x) ?_ ?_; pick_goal 2; clear_value x; intro hx)
    | (lift_lets; intro x)
    | (intro x)
    | (with_reducible apply Keeps.ite)
    | (with_reducible apply State.orBits_keeps)
    | (with_reducible apply State.setSite_keeps)

theorem hostPath_keeps (s : State) (page off : Nat) (t : State) {q0 : State} (hK : Keeps q0 s) (hT0 : Keeps q0 t) :
    Keeps q0 (hostPath s page off t) := by
  unfold hostPath
  repeat' first
    | with_reducible assumption
    | (lift_lets; intro x)
    | (intro x)
    | (with_reducible apply Keeps.ite)
    | (with_reducible apply busError_keeps)
    | (with_reducible apply sideCount_keeps)
    | (with_reducible apply unknownWrite_keeps)

theorem hostAct_keeps (s : State) (page off : Nat) (r : Option State) {q0 : State} (hK : Keeps q0 s) (hO : OptKeeps q0 r) :
    Keeps q0 (hostAct s page off r) := by
  unfold hostAct
  repeat' first
    | with_reducible assumption
    | (with_reducible apply hostPath_keeps)
    | (with_reducible apply takenOr_keeps)

theorem baWrite_keeps (s : State) (page r : Nat) (f : Fld) (v : Nat) {q0 : State} (hK : Keeps q0 s) :
    Keeps q0 (baWrite s page r f v) := by
  unfold baWrite
  repeat' first
    | with_reducible assumption
    | (simp -zeta only [↓Keeps.lit])

theorem noteApply_keeps (s : State) (page : Nat) (host : Bool) {q0 : State} (hK : Keeps q0 s) :
    Keeps q0 (noteApply s page host) := by
  unfold noteApply
  repeat' first
    | with_reducible assumption
    | (with_reducible apply State.wr_keeps)
    | (with_reducible apply State.wrap_keeps)

theorem applyBa_keeps (s : State) (host : Bool) (sel : Nat × Nat × Nat × Nat → Bool) {q0 : State} (hK : Keeps q0 s) :
    Keeps q0 (applyBa s host sel) := by
  unfold applyBa
  refine Keeps.foldl (fun s a h => noteApply_keeps _ _ _ h) ?_
  refine Keeps.same _ (hK.withRegs ((s.pendBa.filter sel).foldl (fun t b => tabInsert (tabErase t b.2.2.1) b.2.2.1 b.2.2.2) s.regs)
    (fun w => ?_))
  exact Keeps.fold (P := Rising) (fun b a h => rising_put h _ _) w

theorem applySite_keeps (s : State) (i : Nat) {q0 : State} (hK : Keeps q0 s) :
    Keeps q0 (applySite s i) := by
  unfold applySite
  repeat' first
    | with_reducible assumption
    | (with_reducible apply applyBa_keeps)

theorem applyRegion_keeps (s : State) (r : Nat) {q0 : State} (hK : Keeps q0 s) :
    Keeps q0 (applyRegion s r) := by
  unfold applyRegion
  repeat' first
    | with_reducible assumption
    | (with_reducible apply applyBa_keeps)

theorem siteEvent_keeps (s : State) (i code sev page : Nat) (table : List RegDef) (sub : Nat) (count : Nat) {q0 : State} (hK : Keeps q0 s) :
    Keeps q0 (siteEvent s i code sev page table sub count) := by
  unfold siteEvent
  repeat' first
    | with_reducible assumption
    | (with_reducible apply logEvent_keeps)

theorem hubEvent_keeps (s : State) (h code sev page : Nat) (table : List RegDef) (sub : Nat) {q0 : State} (hK : Keeps q0 s) :
    Keeps q0 (hubEvent s h code sev page table sub) := by
  unfold hubEvent
  repeat' first
    | with_reducible assumption
    | (with_reducible apply logEvent_keeps)

theorem regionEvent_keeps (s : State) (r code sev page : Nat) (table : List RegDef) (count : Nat) (sub : Nat) {q0 : State} (hK : Keeps q0 s) :
    Keeps q0 (regionEvent s r code sev page table count sub) := by
  unfold regionEvent
  repeat' first
    | with_reducible assumption
    | (with_reducible apply logEvent_keeps)

theorem panelEvent_keeps (s : State) (code sev page : Nat) (table : List RegDef) (sub : Nat) (count : Nat) {q0 : State} (hK : Keeps q0 s) :
    Keeps q0 (panelEvent s code sev page table sub count) := by
  unfold panelEvent
  repeat' first
    | with_reducible assumption
    | (with_reducible apply logEvent_keeps)

theorem faultRegion_keeps (s : State) (r fc k : Nat) {q0 : State} (hK : Keeps q0 s) :
    Keeps q0 (faultRegion s r fc k) := by
  unfold faultRegion
  repeat' first
    | with_reducible assumption
    | (lift_lets; intro x)
    | (with_reducible apply Keeps.ite)
    | (with_reducible apply State.setRegion_keeps)

theorem faultSite_keeps (s : State) (i : Nat) {q0 : State} (hK : Keeps q0 s) :
    Keeps q0 (faultSite s i) := by
  unfold faultSite
  repeat' first
    | with_reducible assumption
    | (with_reducible apply faultRegion_keeps)

theorem faultNow_keeps (s : State) (r : Nat) {q0 : State} (hK : Keeps q0 s) :
    Keeps q0 (faultNow s r) := by
  unfold faultNow
  repeat' first
    | with_reducible assumption
    | (with_reducible apply faultRegion_keeps)

theorem haltCore_keeps (s : State) (c : CoreId) {q0 : State} (hK : Keeps q0 s) :
    Keeps q0 (haltCore s c) := by
  unfold haltCore
  repeat' first
    | with_reducible assumption
    | (with_reducible apply Keeps.ite)
    | (with_reducible apply State.wr_keeps)

theorem haltPanel_keeps (s : State) {q0 : State} (hK : Keeps q0 s) :
    Keeps q0 (haltPanel s) := by
  unfold haltPanel
  repeat' first
    | with_reducible assumption
    | (lift_lets; intro x; refine Keeps.cut (q := q0) (x := x) ?_ ?_; pick_goal 2; clear_value x; intro hx)
    | (with_reducible apply Keeps.ite)
    | (with_reducible refine Keeps.foldl (fun _ _ _ => ?_) ?_)
    | (with_reducible refine Keeps.upTo (fun _ _ _ => ?_) ?_)
    | (with_reducible apply faultNow_keeps)
    | (with_reducible apply haltCore_keeps)

theorem panelError_keeps (s : State) (code : Nat) (hub : Bool) (idx : Nat) {q0 : State} (hK : Keeps q0 s) :
    Keeps q0 (panelError s code hub idx) := by
  unfold panelError
  repeat' first
    | with_reducible assumption
    | (intro x; refine Keeps.cut (q := q0) (x := x) ?_ ?_; pick_goal 2; clear_value x; intro hx)
    | (lift_lets; intro x; refine Keeps.cut (q := q0) (x := x) ?_ ?_; pick_goal 2; clear_value x; intro hx)
    | (with_reducible apply State.emit_keeps)
    | (with_reducible apply State.wr_keeps)
    | (with_reducible apply haltPanel_keeps)
    | (with_reducible apply logEvent_keeps)
    | (with_reducible apply pfSet_keeps)
    | (dsimp -zeta only [x])
    | (simp -zeta only [↓Keeps.lit])

theorem faultRow_keeps (s : State) (y : Nat) {q0 : State} (hK : Keeps q0 s) :
    Keeps q0 (faultRow s y) := by
  unfold faultRow
  repeat' first
    | with_reducible assumption
    | (with_reducible refine Keeps.foldl (fun _ _ _ => ?_) ?_)
    | (with_reducible apply faultSite_keeps)

theorem remapRefuse_keeps (s : State) (i : Nat) {q0 : State} (hK : Keeps q0 s) :
    Keeps q0 (remapRefuse s i) := by
  unfold remapRefuse
  repeat' first
    | with_reducible assumption
    | (intro x; refine Keeps.cut (q := q0) (x := x) ?_ ?_; pick_goal 2; clear_value x; intro hx)
    | (lift_lets; intro x)
    | (with_reducible apply Keeps.ite)
    | (with_reducible apply State.wr_keeps)
    | (simp -zeta only [↓Keeps.lit])

theorem siteFail_keeps (s : State) (i : Nat) (link : Bool) {q0 : State} (hK : Keeps q0 s) :
    Keeps q0 (siteFail s i link) := by
  unfold siteFail
  repeat' first
    | with_reducible assumption
    | (intro x; refine Keeps.cut (q := q0) (x := x) ?_ ?_; pick_goal 2; clear_value x; intro hx)
    | (lift_lets; intro x)
    | (intro x)
    | (with_reducible apply Keeps.ite)
    | (with_reducible apply State.orBits_keeps)
    | (with_reducible apply State.setSite_keeps)
    | (with_reducible apply State.wr_keeps)
    | (with_reducible apply faultRow_keeps)
    | (with_reducible apply remapRefuse_keeps)
    | (with_reducible apply siteEvent_keeps)
    | (simp -zeta only [↓Keeps.lit])

theorem suspect_keeps (s : State) (i : Nat) {q0 : State} (hK : Keeps q0 s) :
    Keeps q0 (suspect s i) := by
  unfold suspect
  repeat' first
    | with_reducible assumption
    | (intro x; refine Keeps.cut (q := q0) (x := x) ?_ ?_; pick_goal 2; clear_value x; intro hx)
    | (lift_lets; intro x)
    | (intro x)
    | (with_reducible apply Keeps.ite)
    | (with_reducible apply State.bump_keeps)
    | (with_reducible apply State.orBits_keeps)
    | (with_reducible apply State.setBit_keeps)
    | (with_reducible apply State.setRegion_keeps)
    | (with_reducible apply State.setSite_keeps)
    | (with_reducible apply baWrite_keeps)
    | (with_reducible apply siteEvent_keeps)
    | (with_reducible apply siteFail_keeps)

theorem enterSlack_keeps (s : State) (i t : Nat) {q0 : State} (hK : Keeps q0 s) :
    Keeps q0 (enterSlack s i t) := by
  unfold enterSlack
  repeat' first
    | with_reducible assumption
    | (lift_lets; intro x)
    | (with_reducible apply Keeps.ite)
    | (with_reducible refine Keeps.foldl (fun _ _ _ => ?_) ?_)
    | (with_reducible apply State.wr_keeps)
    | (with_reducible apply timerSource_keeps)

theorem clearSram_keeps (s : State) (i : Nat) {q0 : State} (hK : Keeps q0 s) :
    Keeps q0 (clearSram s i) := by
  unfold clearSram
  repeat' first
    | with_reducible assumption
    | (intro x; refine Keeps.cut (q := q0) (x := x) ?_ ?_; pick_goal 2; clear_value x; intro hx)
    | (lift_lets; intro x; refine Keeps.cut (q := q0) (x := x) ?_ ?_; pick_goal 2; clear_value x; intro hx)
    | (lift_lets; intro x)
    | (intro x)
    | (with_reducible refine Keeps.upTo (fun _ _ _ => ?_) ?_)
    | (with_reducible apply State.setCore_keeps)
    | (with_reducible apply State.wr_keeps)
    | (with_reducible refine Keeps.withMem ?_ _ (fun w => Memory.wf_clear w _ _))

theorem State.wrAll_keeps (s : State) (page v : Nat) (fs : List Fld) {q0 : State} (hK : Keeps q0 s) :
    Keeps q0 (State.wrAll s page v fs) := by
  unfold State.wrAll
  repeat' first
    | with_reducible assumption
    | (with_reducible refine Keeps.foldl (fun _ _ _ => ?_) ?_)
    | (with_reducible apply State.wr_keeps)

theorem clearTimers_keeps (s : State) (i : Nat) {q0 : State} (hK : Keeps q0 s) : Keeps q0 (clearTimers s i) := by
  unfold clearTimers
  extract_lets p s1 s2
  have h1 : Keeps q0 s1 := Keeps.upTo (fun s a h => State.wr_keeps _ _ _ _ h) hK
  have h2 : Keeps q0 s2 := h1.withRegs _ (fun w => rising_filter w _)
  exact Keeps.lit.mpr h2

theorem clearCounts_keeps (s : State) (i : Nat) {q0 : State} (hK : Keeps q0 s) :
    Keeps q0 (clearCounts s i) := by
  unfold clearCounts
  repeat' first
    | with_reducible assumption
    | (intro x; refine Keeps.cut (q := q0) (x := x) ?_ ?_; pick_goal 2; clear_value x; intro hx)
    | (lift_lets; intro x; refine Keeps.cut (q := q0) (x := x) ?_ ?_; pick_goal 2; clear_value x; intro hx)
    | (with_reducible refine Keeps.upTo (fun _ _ _ => ?_) ?_)
    | (with_reducible apply State.wrAll_keeps)
    | (with_reducible apply clearTimers_keeps)

theorem shadowEnd_keeps (s : State) (i st why : Nat) {q0 : State} (hK : Keeps q0 s) :
    Keeps q0 (shadowEnd s i st why) := by
  unfold shadowEnd
  repeat' first
    | with_reducible assumption
    | (intro x; refine Keeps.cut (q := q0) (x := x) ?_ ?_; pick_goal 2; clear_value x; intro hx)
    | (lift_lets; intro x)
    | (intro x)
    | (with_reducible apply Keeps.ite)
    | (with_reducible refine Keeps.foldl (fun _ _ _ => ?_) ?_)
    | (with_reducible refine Keeps.upTo (fun _ _ _ => ?_) ?_)
    | (with_reducible apply State.setBit_keeps)
    | (with_reducible apply State.setSite_keeps)
    | (with_reducible apply State.wr_keeps)
    | (with_reducible apply clearSram_keeps)
    | (with_reducible apply siteEvent_keeps)
    | (with_reducible apply suspect_keeps)

theorem buddyEnds_keeps (s : State) (b : Nat) {q0 : State} (hK : Keeps q0 s) :
    Keeps q0 (buddyEnds s b) := by
  unfold buddyEnds
  repeat' first
    | with_reducible assumption
    | (with_reducible apply Keeps.ite)
    | (with_reducible apply shadowEnd_keeps)

end Sys2Proof.Machine
end

