-- ==== Sys2Proof/Laws/KeepsCore.lean ====
section
/-! SUPPORT. What flash, clock, power, errors, issue, the mover, the mirror and the sequencer keep. Each lemma says of one function that a state which keeps what `q0` has still does so after it. -/

namespace Sys2Proof.Machine

theorem showUse_keeps (s : State) (t : Nat) {q0 : State} (hK : Keeps q0 s) :
    Keeps q0 (showUse s t) := by
  unfold showUse
  repeat' first
    | with_reducible assumption
    | (lift_lets; intro x)
    | (with_reducible apply State.wr_keeps)

theorem recRead_keeps (s : State) (t : Nat) {q0 : State} (hK : Keeps q0 s) :
    Keeps q0 (recRead s t) := by
  unfold recRead
  repeat' first
    | with_reducible assumption
    | (lift_lets; intro x; refine Keeps.cut (q := q0) (x := x) ?_ ?_; pick_goal 2; clear_value x; intro hx)
    | (with_reducible apply Keeps.ite)
    | (with_reducible apply panelEvent_keeps)
    | (with_reducible apply showUse_keeps)

theorem recPut_keeps (s : State) (t : Nat) (body : List Nat) (ok : Bool) {q0 : State} (hK : Keeps q0 s) :
    Keeps q0 (recPut s t body ok) := by
  unfold recPut
  repeat' first
    | with_reducible assumption
    | (intro x; refine Keeps.cut (q := q0) (x := x) ?_ ?_; pick_goal 2; clear_value x; intro hx)
    | (lift_lets; intro x)
    | (intro x)
    | (with_reducible apply Keeps.ite)
    | (with_reducible apply State.emit_keeps)
    | (with_reducible apply panelEvent_keeps)
    | (with_reducible apply showUse_keeps)
    | (dsimp -zeta only [x])
    | (simp -zeta only [↓Keeps.lit])

theorem showLics_keeps (s : State) {q0 : State} (hK : Keeps q0 s) :
    Keeps q0 (showLics s) := by
  unfold showLics
  repeat' first
    | with_reducible assumption
    | (lift_lets; intro x)
    | (with_reducible apply State.wr_keeps)

theorem evalRegions_keeps (s : State) {q0 : State} (hK : Keeps q0 s) :
    Keeps q0 (evalRegions s) := by
  unfold evalRegions
  repeat' first
    | with_reducible assumption
    | (intro x; refine Keeps.cut (q := q0) (x := x) ?_ ?_; pick_goal 2; clear_value x; intro hx)
    | (lift_lets; intro x)
    | (intro x)
    | (with_reducible apply Keeps.ite)
    | (with_reducible apply State.setBit_keeps)
    | (with_reducible apply State.wr_keeps)
    | (with_reducible apply panelEvent_keeps)

theorem State.setFw_keeps (s : State) (k : Nat) (f : FwSlot) {q0 : State} (hK : Keeps q0 s) :
    Keeps q0 (State.setFw s k f) := by
  unfold State.setFw
  repeat' first
    | with_reducible assumption
    | (with_reducible apply Keeps.ite)
    | (simp -zeta only [↓Keeps.lit])

theorem regsReset_keeps (s : State) (p : Nat → Bool) {q0 : State} (hK : Keeps q0 s) : Keeps q0 (regsReset s p) := by
  unfold regsReset
  refine hK.withRegs _ (fun w => ?_)
  have hr : Rising resetRegs := of_decide_eq_true (p := resetRegs.Pairwise (fun a b : Nat × Nat => a.1 < b.1)) (by decide)
  have hb : Rising (resetRegs.filter (fun e => p (keyPage e.1))) := rising_filter hr _
  have hk : Rising (s.regs.filter (fun e => !(p (keyPage e.1)))) := rising_filter w _
  have hd : ∀ e ∈ s.regs.filter (fun e => !(p (keyPage e.1))), ∀ b ∈ resetRegs.filter (fun e => p (keyPage e.1)), e.1 ≠ b.1 := by
    intro e he b hb hx
    have h1 := (List.mem_filter.mp he).2
    have h2 := (List.mem_filter.mp hb).2
    rw [hx] at h1
    simp [h2] at h1
  revert hb hd hk
  generalize s.regs.filter (fun e => !(p (keyPage e.1))) = k
  generalize resetRegs.filter (fun e => p (keyPage e.1)) = l
  clear hr w hK
  intro hb hk hd
  induction l generalizing k with
  | nil => exact hk
  | cons a l ih =>
    have hb' := List.pairwise_cons.mp hb
    refine ih (tabInsert k a.1 a.2) hb'.2 (rising_insert hk _ (fun e he => hd e he a (by simp))) ?_
    intro e he b hbm
    rcases tabInsert_mem he with rfl | he
    · exact ne_of_lt (hb'.1 b hbm)
    · exact hd e he b (by simp [hbm])

theorem showFree_keeps (s : State) (i : Nat) {q0 : State} (hK : Keeps q0 s) :
    Keeps q0 (showFree s i) := by
  unfold showFree
  repeat' first
    | with_reducible assumption
    | (with_reducible apply State.wr_keeps)

theorem couple_keeps (s : State) (i : Nat) {q0 : State} (hK : Keeps q0 s) :
    Keeps q0 (couple s i) := by
  unfold couple
  repeat' first
    | with_reducible assumption
    | (intro x; refine Keeps.cut (q := q0) (x := x) ?_ ?_; pick_goal 2; clear_value x; intro hx)
    | (lift_lets; intro x; refine Keeps.cut (q := q0) (x := x) ?_ ?_; pick_goal 2; clear_value x; intro hx)
    | (with_reducible apply State.wr_keeps)
    | (with_reducible apply showFree_keeps)
    | (dsimp -zeta only [x])
    | split

theorem uncouple_keeps (s : State) (i : Nat) {q0 : State} (hK : Keeps q0 s) :
    Keeps q0 (uncouple s i) := by
  unfold uncouple
  repeat' first
    | with_reducible assumption
    | (lift_lets; intro x; refine Keeps.cut (q := q0) (x := x) ?_ ?_; pick_goal 2; clear_value x; intro hx)
    | (with_reducible apply State.wr_keeps)
    | (with_reducible apply showFree_keeps)

theorem meshLock_keeps (s : State) (i : Nat) {q0 : State} (hK : Keeps q0 s) :
    Keeps q0 (meshLock s i) := by
  unfold meshLock
  repeat' first
    | with_reducible assumption
    | (with_reducible apply Keeps.ite)
    | (with_reducible apply State.wr_keeps)

theorem lockLost_keeps (s : State) (i d : Nat) (phase : Int) {q0 : State} (hK : Keeps q0 s) :
    Keeps q0 (lockLost s i d phase) := by
  unfold lockLost
  repeat' first
    | with_reducible assumption
    | (intro x; refine Keeps.cut (q := q0) (x := x) ?_ ?_; pick_goal 2; clear_value x; intro hx)
    | (lift_lets; intro x)
    | (intro x)
    | (with_reducible apply Keeps.ite)
    | (with_reducible apply State.bump_keeps)
    | (with_reducible apply State.setBit_keeps)
    | (with_reducible apply State.setSite_keeps)
    | (with_reducible apply State.wr_keeps)
    | (with_reducible apply faultSite_keeps)
    | (with_reducible apply showFree_keeps)
    | (with_reducible apply siteEvent_keeps)
    | (with_reducible apply suspect_keeps)

theorem addLag_keeps (s : State) (i k : Nat) {q0 : State} (hK : Keeps q0 s) :
    Keeps q0 (addLag s i k) := by
  unfold addLag
  repeat' first
    | with_reducible assumption
    | (lift_lets; intro x)
    | (intro x)
    | (with_reducible apply State.setSite_keeps)
    | (with_reducible apply State.wr_keeps)

theorem addLoss_keeps (s : State) (i u d : Nat) {q0 : State} (hK : Keeps q0 s) :
    Keeps q0 (addLoss s i u d) := by
  unfold addLoss
  repeat' first
    | with_reducible assumption
    | (intro x; refine Keeps.cut (q := q0) (x := x) ?_ ?_; pick_goal 2; clear_value x; intro hx)
    | (lift_lets; intro x)
    | (intro x)
    | (with_reducible apply State.setSite_keeps)
    | (with_reducible apply addLag_keeps)

theorem droop_keeps (s : State) (i v loss : Nat) {q0 : State} (hK : Keeps q0 s) :
    Keeps q0 (droop s i v loss) := by
  unfold droop
  repeat' first
    | with_reducible assumption
    | (intro x; refine Keeps.cut (q := q0) (x := x) ?_ ?_; pick_goal 2; clear_value x; intro hx)
    | (lift_lets; intro x)
    | (intro x)
    | (with_reducible apply Keeps.ite)
    | (with_reducible refine Keeps.foldl (fun _ _ _ => ?_) ?_)
    | (with_reducible apply State.setBit_keeps)
    | (with_reducible apply addLoss_keeps)

theorem refLoss_keeps (s : State) (h : Nat) {q0 : State} (hK : Keeps q0 s) :
    Keeps q0 (refLoss s h) := by
  unfold refLoss
  repeat' first
    | with_reducible assumption
    | (intro x; refine Keeps.cut (q := q0) (x := x) ?_ ?_; pick_goal 2; clear_value x; intro hx)
    | (lift_lets; intro x; refine Keeps.cut (q := q0) (x := x) ?_ ?_; pick_goal 2; clear_value x; intro hx)
    | (with_reducible apply Keeps.ite)
    | (with_reducible refine Keeps.foldl (fun _ _ _ => ?_) ?_)
    | (with_reducible apply State.bump_keeps)
    | (with_reducible apply State.setBit_keeps)
    | (with_reducible apply hubEvent_keeps)
    | (dsimp -zeta only [x])
    | (simp -zeta only [↓Keeps.lit])

theorem refRelock_keeps (s : State) (h : Nat) {q0 : State} (hK : Keeps q0 s) :
    Keeps q0 (refRelock s h) := by
  unfold refRelock
  repeat' first
    | with_reducible assumption
    | (simp -zeta only [↓Keeps.lit])

theorem holdoverExpiry_keeps (s : State) (h : Nat) {q0 : State} (hK : Keeps q0 s) :
    Keeps q0 (holdoverExpiry s h) := by
  unfold holdoverExpiry
  repeat' first
    | with_reducible assumption
    | (intro x; refine Keeps.cut (q := q0) (x := x) ?_ ?_; pick_goal 2; clear_value x; intro hx)
    | (lift_lets; intro x)
    | (intro x)
    | (with_reducible apply Keeps.ite)
    | (with_reducible refine Keeps.foldl (fun _ _ _ => ?_) ?_)
    | (with_reducible apply State.wr_keeps)
    | (with_reducible apply faultNow_keeps)
    | (with_reducible apply showFree_keeps)

theorem clockAlarm_keeps (s : State) (i : Nat) (f : Fld) {q0 : State} (hK : Keeps q0 s) :
    Keeps q0 (clockAlarm s i f) := by
  unfold clockAlarm
  repeat' first
    | with_reducible assumption
    | (intro x; refine Keeps.cut (q := q0) (x := x) ?_ ?_; pick_goal 2; clear_value x; intro hx)
    | (lift_lets; intro x)
    | (intro x)
    | (with_reducible apply Keeps.ite)
    | (with_reducible apply State.setBit_keeps)
    | (with_reducible apply State.setSite_keeps)
    | (with_reducible apply siteEvent_keeps)
    | (with_reducible apply suspect_keeps)

theorem jitterSample_keeps (s : State) (i : Nat) (dev : Int) {q0 : State} (hK : Keeps q0 s) :
    Keeps q0 (jitterSample s i dev) := by
  unfold jitterSample
  repeat' first
    | with_reducible assumption
    | (intro x; refine Keeps.cut (q := q0) (x := x) ?_ ?_; pick_goal 2; clear_value x; intro hx)
    | (lift_lets; intro x)
    | (intro x)
    | (with_reducible apply Keeps.ite)
    | (with_reducible apply State.bump_keeps)
    | (with_reducible apply clockAlarm_keeps)

theorem dutyWindow_keeps (s : State) (i : Nat) (core : Bool) (frac : Int) {q0 : State} (hK : Keeps q0 s) :
    Keeps q0 (dutyWindow s i core frac) := by
  unfold dutyWindow
  repeat' first
    | with_reducible assumption
    | (intro x; refine Keeps.cut (q := q0) (x := x) ?_ ?_; pick_goal 2; clear_value x; intro hx)
    | (lift_lets; intro x)
    | (with_reducible apply Keeps.ite)
    | (with_reducible apply State.bump_keeps)
    | (with_reducible apply State.wr_keeps)
    | (with_reducible apply clockAlarm_keeps)

theorem pwrErr_keeps (s : State) (b : Nat) {q0 : State} (hK : Keeps q0 s) :
    Keeps q0 (pwrErr s b) := by
  unfold pwrErr
  repeat' first
    | with_reducible assumption
    | (with_reducible apply State.orBits_keeps)

theorem powEvent_keeps (s : State) (code sev b : Nat) {q0 : State} (hK : Keeps q0 s) :
    Keeps q0 (powEvent s code sev b) := by
  unfold powEvent
  repeat' first
    | with_reducible assumption
    | (with_reducible apply panelEvent_keeps)

theorem showLevel_keeps (s : State) (r : Nat) {q0 : State} (hK : Keeps q0 s) :
    Keeps q0 (showLevel s r) := by
  unfold showLevel
  repeat' first
    | with_reducible assumption
    | (intro x; refine Keeps.cut (q := q0) (x := x) ?_ ?_; pick_goal 2; clear_value x; intro hx)
    | (lift_lets; intro x)
    | (intro x)
    | (with_reducible apply Keeps.ite)
    | (with_reducible apply State.wr_keeps)
    | (with_reducible apply pfSet_keeps)
    | (with_reducible apply regionEvent_keeps)

theorem showLevels_keeps (s : State) {q0 : State} (hK : Keeps q0 s) :
    Keeps q0 (showLevels s) := by
  unfold showLevels
  repeat' first
    | with_reducible assumption
    | (lift_lets; intro x; refine Keeps.cut (q := q0) (x := x) ?_ ?_; pick_goal 2; clear_value x; intro hx)
    | (with_reducible apply Keeps.ite)
    | (with_reducible refine Keeps.upTo (fun _ _ _ => ?_) ?_)
    | (with_reducible apply State.wr_keeps)
    | (with_reducible apply showLevel_keeps)

theorem noteSensors_keeps (s : State) (i : Nat) (ts : List Int) {q0 : State} (hK : Keeps q0 s) :
    Keeps q0 (noteSensors s i ts) := by
  unfold noteSensors
  repeat' first
    | with_reducible assumption
    | (intro x; refine Keeps.cut (q := q0) (x := x) ?_ ?_; pick_goal 2; clear_value x; intro hx)
    | (lift_lets; intro x)
    | (intro x)
    | (with_reducible apply Keeps.ite)
    | (with_reducible apply State.setBit_keeps)
    | (with_reducible apply State.setSite_keeps)
    | (with_reducible apply State.wr_keeps)

theorem setCond_keeps (s : State) (c : ThermCond) (l : Nat) {q0 : State} (hK : Keeps q0 s) :
    Keeps q0 (setCond s c l) := by
  unfold setCond
  repeat' first
    | with_reducible assumption
    | (lift_lets; intro x; refine Keeps.cut (q := q0) (x := x) ?_ ?_; pick_goal 2; clear_value x; intro hx)
    | (with_reducible apply Keeps.ite)
    | (with_reducible apply State.wr_keeps)
    | (with_reducible apply showLevel_keeps)
    | (with_reducible apply showLevels_keeps)
    | split
    | (simp -zeta only [↓Keeps.lit])

theorem noteCond_keeps (s : State) (c : ThermCond) {q0 : State} (hK : Keeps q0 s) :
    Keeps q0 (noteCond s c) := by
  unfold noteCond
  repeat' first
    | with_reducible assumption
    | (with_reducible apply Keeps.ite)
    | (with_reducible apply noteSensors_keeps)
    | (with_reducible apply pwrErr_keeps)
    | split

theorem thermalUp_keeps (s : State) (c : ThermCond) {q0 : State} (hK : Keeps q0 s) :
    Keeps q0 (thermalUp s c) := by
  unfold thermalUp
  repeat' first
    | with_reducible assumption
    | (lift_lets; intro x; refine Keeps.cut (q := q0) (x := x) ?_ ?_; pick_goal 2; clear_value x; intro hx)
    | (intro x)
    | (with_reducible apply Keeps.ite)
    | (with_reducible apply noteCond_keeps)
    | (with_reducible apply setCond_keeps)

theorem thermalDown_keeps (s : State) (c : ThermCond) {q0 : State} (hK : Keeps q0 s) :
    Keeps q0 (thermalDown s c) := by
  unfold thermalDown
  repeat' first
    | with_reducible assumption
    | (lift_lets; intro x; refine Keeps.cut (q := q0) (x := x) ?_ ?_; pick_goal 2; clear_value x; intro hx)
    | (intro x)
    | (with_reducible apply Keeps.ite)
    | (with_reducible apply noteCond_keeps)
    | (with_reducible apply setCond_keeps)

theorem domOff_keeps (s : State) (i d : Nat) {q0 : State} (hK : Keeps q0 s) :
    Keeps q0 (domOff s i d) := by
  unfold domOff
  repeat' first
    | with_reducible assumption
    | (intro x; refine Keeps.cut (q := q0) (x := x) ?_ ?_; pick_goal 2; clear_value x; intro hx)
    | (lift_lets; intro x)
    | (with_reducible apply Keeps.ite)
    | (with_reducible apply State.wr_keeps)

theorem allOff_keeps (s : State) {q0 : State} (hK : Keeps q0 s) :
    Keeps q0 (allOff s) := by
  unfold allOff
  repeat' first
    | with_reducible assumption
    | (intro x; refine Keeps.cut (q := q0) (x := x) ?_ ?_; pick_goal 2; clear_value x; intro hx)
    | (lift_lets; intro x; refine Keeps.cut (q := q0) (x := x) ?_ ?_; pick_goal 2; clear_value x; intro hx)
    | (lift_lets; intro x)
    | (intro x)
    | (with_reducible apply Keeps.ite)
    | (with_reducible refine Keeps.upTo (fun _ _ _ => ?_) ?_)
    | (with_reducible apply State.setSite_keeps)
    | (with_reducible apply State.wr_keeps)
    | (with_reducible apply domOff_keeps)
    | (simp -zeta only [↓Keeps.lit])

theorem junctionTrip_keeps (s : State) (i : Nat) {q0 : State} (hK : Keeps q0 s) :
    Keeps q0 (junctionTrip s i) := by
  unfold junctionTrip
  repeat' first
    | with_reducible assumption
    | (intro x; refine Keeps.cut (q := q0) (x := x) ?_ ?_; pick_goal 2; clear_value x; intro hx)
    | (lift_lets; intro x)
    | (intro x)
    | (with_reducible apply Keeps.ite)
    | (with_reducible apply State.setBit_keeps)
    | (with_reducible apply domOff_keeps)
    | (with_reducible apply siteEvent_keeps)
    | (with_reducible apply siteFail_keeps)

theorem railOff_keeps (s : State) (u : PowerUnit) (d : Nat) (f : Fld) {q0 : State} (hK : Keeps q0 s) :
    Keeps q0 (railOff s u d f) := by
  unfold railOff
  repeat' first
    | with_reducible assumption
    | (lift_lets; intro x; refine Keeps.cut (q := q0) (x := x) ?_ ?_; pick_goal 2; clear_value x; intro hx)
    | (lift_lets; intro x)
    | (with_reducible apply State.setBit_keeps)
    | (with_reducible apply State.setHubDom_keeps)
    | (with_reducible apply domOff_keeps)
    | (with_reducible apply hubEvent_keeps)
    | (with_reducible apply siteEvent_keeps)
    | (with_reducible apply siteFail_keeps)
    | split

theorem vsetUpdate_keeps (s : State) (i iNow : Nat) {q0 : State} (hK : Keeps q0 s) :
    Keeps q0 (vsetUpdate s i iNow) := by
  unfold vsetUpdate
  repeat' first
    | with_reducible assumption
    | (intro x; refine Keeps.cut (q := q0) (x := x) ?_ ?_; pick_goal 2; clear_value x; intro hx)
    | (lift_lets; intro x)
    | (intro x)
    | (with_reducible apply Keeps.ite)
    | (with_reducible apply State.setBit_keeps)
    | (with_reducible apply State.wr_keeps)
    | (with_reducible apply siteEvent_keeps)
    | (with_reducible apply suspect_keeps)
    | (dsimp -zeta only [x])
    | split

theorem railSample_keeps (s : State) (i rail v : Nat) {q0 : State} (hK : Keeps q0 s) :
    Keeps q0 (railSample s i rail v) := by
  unfold railSample
  repeat' first
    | with_reducible assumption
    | (lift_lets; intro x)
    | (intro x)
    | (with_reducible apply Keeps.ite)
    | (with_reducible apply State.setSite_keeps)

theorem noteCurrents_keeps (s : State) (i iLogic iArray iLink iMem : Nat) {q0 : State} (hK : Keeps q0 s) :
    Keeps q0 (noteCurrents s i iLogic iArray iLink iMem) := by
  unfold noteCurrents
  repeat' first
    | with_reducible assumption
    | (lift_lets; intro x)
    | (with_reducible apply State.wr_keeps)

theorem minClear_keeps (s : State) (i m : Nat) {q0 : State} (hK : Keeps q0 s) :
    Keeps q0 (minClear s i m) := by
  unfold minClear
  repeat' first
    | with_reducible assumption
    | (lift_lets; intro x)
    | (with_reducible apply State.setSite_keeps)

theorem panelFactor_keeps (s : State) (pin : Nat) {q0 : State} (hK : Keeps q0 s) :
    Keeps q0 (panelFactor s pin) := by
  unfold panelFactor
  repeat' first
    | with_reducible assumption
    | (lift_lets; intro x)
    | (with_reducible apply Keeps.ite)
    | (with_reducible apply pwrErr_keeps)
    | (dsimp -zeta only [x])
    | (simp -zeta only [↓Keeps.lit])

theorem notePanel_keeps (s : State) (pin vin : Nat) (inlet outlet : Int) {q0 : State} (hK : Keeps q0 s) :
    Keeps q0 (notePanel s pin vin inlet outlet) := by
  unfold notePanel
  repeat' first
    | with_reducible assumption
    | (intro x; refine Keeps.cut (q := q0) (x := x) ?_ ?_; pick_goal 2; clear_value x; intro hx)
    | (lift_lets; intro x; refine Keeps.cut (q := q0) (x := x) ?_ ?_; pick_goal 2; clear_value x; intro hx)
    | (with_reducible apply State.wr_keeps)

theorem brownout_keeps (s : State) {q0 : State} (hK : Keeps q0 s) :
    Keeps q0 (brownout s) := by
  unfold brownout
  repeat' first
    | with_reducible assumption
    | (with_reducible apply allOff_keeps)
    | (with_reducible apply haltPanel_keeps)
    | (with_reducible apply powEvent_keeps)
    | (with_reducible apply pwrErr_keeps)

theorem panelShutdown_keeps (s : State) {q0 : State} (hK : Keeps q0 s) :
    Keeps q0 (panelShutdown s) := by
  unfold panelShutdown
  repeat' first
    | with_reducible assumption
    | (intro x; refine Keeps.cut (q := q0) (x := x) ?_ ?_; pick_goal 2; clear_value x; intro hx)
    | (lift_lets; intro x; refine Keeps.cut (q := q0) (x := x) ?_ ?_; pick_goal 2; clear_value x; intro hx)
    | (lift_lets; intro x)
    | (with_reducible apply Keeps.ite)
    | (with_reducible refine Keeps.upTo (fun _ _ _ => ?_) ?_)
    | (with_reducible apply State.setRegion_keeps)
    | (with_reducible apply allOff_keeps)
    | (with_reducible apply faultNow_keeps)
    | (with_reducible apply powEvent_keeps)
    | (with_reducible apply pwrErr_keeps)
    | (simp -zeta only [↓Keeps.lit])

theorem inputOver_keeps (s : State) {q0 : State} (hK : Keeps q0 s) :
    Keeps q0 (inputOver s) := by
  unfold inputOver
  repeat' first
    | with_reducible assumption
    | (intro x; refine Keeps.cut (q := q0) (x := x) ?_ ?_; pick_goal 2; clear_value x; intro hx)
    | (lift_lets; intro x; refine Keeps.cut (q := q0) (x := x) ?_ ?_; pick_goal 2; clear_value x; intro hx)
    | (with_reducible refine Keeps.upTo (fun _ _ _ => ?_) ?_)
    | (with_reducible apply State.wr_keeps)
    | (with_reducible apply powEvent_keeps)
    | (with_reducible apply pwrErr_keeps)
    | (simp -zeta only [↓Keeps.lit])

theorem trayReport_keeps (s : State) (inlet outlet : Int) (flow seq rsv : Nat) (pecOk : Bool) {q0 : State} (hK : Keeps q0 s) :
    Keeps q0 (trayReport s inlet outlet flow seq rsv pecOk) := by
  unfold trayReport
  repeat' first
    | with_reducible assumption
    | (intro x; refine Keeps.cut (q := q0) (x := x) ?_ ?_; pick_goal 2; clear_value x; intro hx)
    | (lift_lets; intro x)
    | (with_reducible apply Keeps.ite)
    | (with_reducible apply State.bump_keeps)
    | (with_reducible apply State.wr_keeps)

theorem trayLost_keeps (s : State) {q0 : State} (hK : Keeps q0 s) :
    Keeps q0 (trayLost s) := by
  unfold trayLost
  repeat' first
    | with_reducible assumption
    | (lift_lets; intro x; refine Keeps.cut (q := q0) (x := x) ?_ ?_; pick_goal 2; clear_value x; intro hx)
    | (with_reducible apply powEvent_keeps)
    | (with_reducible apply pwrErr_keeps)
    | (with_reducible apply showLevels_keeps)
    | (simp -zeta only [↓Keeps.lit])

theorem voteFix_keeps (s : State) (i f : Nat) (allDiffer : Bool) {q0 : State} (hK : Keeps q0 s) :
    Keeps q0 (voteFix s i f allDiffer) := by
  unfold voteFix
  repeat' first
    | with_reducible assumption
    | (intro x; refine Keeps.cut (q := q0) (x := x) ?_ ?_; pick_goal 2; clear_value x; intro hx)
    | (lift_lets; intro x)
    | (intro x)
    | (with_reducible apply Keeps.ite)
    | (with_reducible apply State.bump_keeps)
    | (with_reducible apply State.setBit_keeps)
    | (with_reducible apply State.setSite_keeps)
    | (with_reducible apply panelError_keeps)
    | (with_reducible apply siteEvent_keeps)
    | (with_reducible apply suspect_keeps)

theorem probeCycle_keeps (s : State) (i : Nat) {q0 : State} (hK : Keeps q0 s) :
    Keeps q0 (probeCycle s i) := by
  unfold probeCycle
  repeat' first
    | with_reducible assumption
    | (intro x; refine Keeps.cut (q := q0) (x := x) ?_ ?_; pick_goal 2; clear_value x; intro hx)
    | (lift_lets; intro x)
    | (intro x)
    | (with_reducible apply Keeps.ite)
    | (with_reducible apply State.setSite_keeps)
    | (with_reducible apply State.wr_keeps)
    | (with_reducible apply State.wrap_keeps)

theorem probeFailed_keeps (s : State) (c : CoreId) (k : Nat) {q0 : State} (hK : Keeps q0 s) :
    Keeps q0 (probeFailed s c k) := by
  unfold probeFailed
  repeat' first
    | with_reducible assumption
    | (intro x; refine Keeps.cut (q := q0) (x := x) ?_ ?_; pick_goal 2; clear_value x; intro hx)
    | (lift_lets; intro x)
    | (intro x)
    | (with_reducible apply Keeps.ite)
    | (with_reducible apply State.setBit_keeps)
    | (with_reducible apply State.setSite_keeps)
    | (with_reducible apply State.wr_keeps)
    | (with_reducible apply faultSite_keeps)
    | (with_reducible apply siteEvent_keeps)
    | (with_reducible apply siteFail_keeps)
    | (with_reducible apply suspect_keeps)

theorem probeItem_keeps (s : State) (c : CoreId) (good : Bool) {q0 : State} (hK : Keeps q0 s) :
    Keeps q0 (probeItem s c good) := by
  unfold probeItem
  repeat' first
    | with_reducible assumption
    | (intro x; refine Keeps.cut (q := q0) (x := x) ?_ ?_; pick_goal 2; clear_value x; intro hx)
    | (lift_lets; intro x)
    | (intro x)
    | (with_reducible apply Keeps.ite)
    | (with_reducible apply State.setSite_keeps)
    | (with_reducible apply probeCycle_keeps)
    | (with_reducible apply probeFailed_keeps)

theorem shadowEnter_keeps (s : State) (i buddy port : Nat) {q0 : State} (hK : Keeps q0 s) : OptKeeps q0 (shadowEnter s i buddy port) := by
  unfold shadowEnter
  refine OptKeeps.ite OptKeeps.none ?_
  split
  · exact OptKeeps.none
  · extract_lets p s1 s2 st s3 s4 act s5 s6 s7 s8 s9 s10 sb si s11 s12 s13
    refine OptKeeps.some ?_
    have w : ∀ {s : State} (a f v), Keeps q0 s → Keeps q0 (s.wr a f v) := fun a f v h => State.wr_keeps _ _ _ _ h
    have h1 : Keeps q0 s1 := w _ _ _ (w _ _ _ hK)
    have h2 : Keeps q0 s2 := clearSram_keeps _ _ h1
    have h3 : Keeps q0 s3 := State.setSite_keeps _ _ _ h2
    have h4 : Keeps q0 s4 := w _ _ _ (w _ _ _ (w _ _ _ h3))
    have h5 : Keeps q0 s5 := State.put_keeps _ _ _ _ h4
    have h6 : Keeps q0 s6 := w _ _ _ h5
    have h7 : Keeps q0 s7 := w _ _ _ (w _ _ _ (w _ _ _ h6))
    have h8 : Keeps q0 s8 := w _ _ _ (w _ _ _ h7)
    have h9 : Keeps q0 s9 := Keeps.upTo (fun s a h => w _ _ _ h) h8
    have h10 : Keeps q0 s10 := Keeps.upTo (fun s a h => w _ _ _ h) h9
    have h11 : Keeps q0 s11 := State.setSite_keeps _ _ _ h10
    have h12 : Keeps q0 s12 := State.setSite_keeps _ _ _ h11
    have h13 : Keeps q0 s13 := w _ _ _ (w _ _ _ h12)
    exact w _ _ _ (w _ _ _ (w _ _ _ h13))

theorem shadowCompare_keeps (s : State) (i : Nat) {q0 : State} (hK : Keeps q0 s) :
    Keeps q0 (shadowCompare s i) := by
  unfold shadowCompare
  repeat' first
    | with_reducible assumption
    | (intro x; refine Keeps.cut (q := q0) (x := x) ?_ ?_; pick_goal 2; clear_value x; intro hx)
    | (lift_lets; intro x; refine Keeps.cut (q := q0) (x := x) ?_ ?_; pick_goal 2; clear_value x; intro hx)
    | (lift_lets; intro x)
    | (intro x)
    | (with_reducible apply Keeps.ite)
    | (with_reducible apply State.setSite_keeps)
    | (with_reducible apply State.wr_keeps)
    | (with_reducible apply shadowEnd_keeps)
    | (dsimp -zeta only [x])
    | split

theorem buddyDigest_keeps (s : State) (b : Nat) {q0 : State} (hK : Keeps q0 s) :
    Keeps q0 (buddyDigest s b) := by
  unfold buddyDigest
  repeat' first
    | with_reducible assumption
    | (lift_lets; intro x)
    | (intro x)
    | (with_reducible apply Keeps.ite)
    | (with_reducible apply State.setSite_keeps)

theorem mirrorPut_keeps (s : State) (b kind core off words data poison : Nat) {q0 : State} (hK : Keeps q0 s) :
    Keeps q0 (mirrorPut s b kind core off words data poison) := by
  unfold mirrorPut
  repeat' first
    | with_reducible assumption
    | (intro x; refine Keeps.cut (q := q0) (x := x) ?_ ?_; pick_goal 2; clear_value x; intro hx)
    | (lift_lets; intro x)
    | (intro x)
    | (with_reducible apply Keeps.ite)
    | (with_reducible apply State.setSite_keeps)
    | (with_reducible apply shadowEnd_keeps)

theorem shadowAbort_keeps (s : State) (i : Nat) {q0 : State} (hK : Keeps q0 s) :
    Keeps q0 (shadowAbort s i) := by
  unfold shadowAbort
  repeat' first
    | with_reducible assumption
    | (with_reducible apply shadowEnd_keeps)

theorem coreRecord_keeps (s : State) (c : CoreId) (t : TrapInfo) {q0 : State} (hK : Keeps q0 s) :
    Keeps q0 (coreRecord s c t).1 := by
  unfold coreRecord
  repeat' first
    | with_reducible assumption
    | (intro x; refine Keeps.cut (q := q0) (x := x) ?_ ?_; pick_goal 2; clear_value x; intro hx)
    | (lift_lets; intro x)
    | (intro x)
    | (with_reducible apply State.wr_keeps)
    | (with_reducible apply evqPut_keeps)
    | (with_reducible apply logAdd_keeps)

theorem coreTrap_keeps (s : State) (c : CoreId) (t : TrapInfo) (runtime : Bool) {q0 : State} (hK : Keeps q0 s) :
    Keeps q0 (coreTrap s c t runtime) := by
  unfold coreTrap
  repeat' first
    | with_reducible assumption
    | (lift_lets; intro x)
    | (intro x)
    | (with_reducible apply Keeps.ite)
    | (with_reducible apply State.bump_keeps)
    | (with_reducible apply State.setBit_keeps)
    | (with_reducible apply State.setCore_keeps)
    | (with_reducible apply State.wr_keeps)
    | (with_reducible apply buddyEnds_keeps)
    | (with_reducible apply coreRecord_keeps)
    | (with_reducible apply faultRegion_keeps)
    | (with_reducible apply shadowEnd_keeps)
    | (with_reducible apply siteEvent_keeps)
    | (with_reducible apply suspect_keeps)

theorem undoAcc_keeps (s : State) (a : Access) {q0 : State} (hK : Keeps q0 s) :
    Keeps q0 (undoAcc s a) := by
  unfold undoAcc
  repeat' first
    | with_reducible assumption
    | (with_reducible apply Keeps.ite)
    | (with_reducible apply State.put_keeps)

theorem loseTo_keeps (s : State) (site : Nat) (w l : Access) {q0 : State} (hK : Keeps q0 s) :
    Keeps q0 (loseTo s site w l) := by
  unfold loseTo
  repeat' first
    | with_reducible assumption
    | (intro x; refine Keeps.cut (q := q0) (x := x) ?_ ?_; pick_goal 2; clear_value x; intro hx)
    | (lift_lets; intro x; refine Keeps.cut (q := q0) (x := x) ?_ ?_; pick_goal 2; clear_value x; intro hx)
    | (intro x)
    | (with_reducible apply Keeps.ite)
    | (with_reducible apply State.setBit_keeps)
    | (with_reducible apply State.wr_keeps)
    | (with_reducible apply coreTrap_keeps)
    | (with_reducible apply undoAcc_keeps)

theorem placeAcc_keeps (site : Nat) (r : Placed) (a : Access) {q0 : State} (hK : Keeps q0 r.st) :
    Keeps q0 (placeAcc site r a).st := by
  unfold placeAcc
  repeat' first
    | with_reducible assumption
    | (intro x; refine Keeps.cut (q := q0) (x := x) ?_ ?_; pick_goal 2; clear_value x; intro hx)
    | (lift_lets; intro x)
    | (intro x)
    | (with_reducible refine Keeps.foldl (fun _ _ _ => ?_) ?_)
    | (with_reducible apply State.setSite_keeps)
    | (with_reducible apply loseTo_keeps)
    | (dsimp -zeta only [x])
    | split

theorem placeAll_keeps (s : State) (site now : Nat) (as : List Access) {q0 : State} (hK : Keeps q0 s) :
    Keeps q0 (placeAll s site now as).st := by
  unfold placeAll
  exact Keeps.fold (P := fun r : Placed => Keeps q0 r.st) (fun r a h => placeAcc_keeps _ _ _ h) (State.setSite_keeps _ _ _ hK)

theorem checkTrap_keeps (s : State) (c : CoreId) (mx pc e0 : Nat) (chk : Option (Nat × Nat × Nat)) {q0 : State} (hK : Keeps q0 s) :
    Keeps q0 (checkTrap s c mx pc e0 chk) := by
  unfold checkTrap
  repeat' first
    | with_reducible assumption
    | (lift_lets; intro x)
    | (with_reducible apply coreTrap_keeps)
    | split

theorem mxEffect_keeps (s : State) (c : CoreId) (mx t pc : Nat) (arr : ArrayUpset) {q0 : State} (hK : Keeps q0 s) :
    Keeps q0 (mxEffect s c mx t pc arr) := by
  unfold mxEffect
  repeat' first
    | with_reducible assumption
    | (intro x; refine Keeps.cut (q := q0) (x := x) ?_ ?_; pick_goal 2; clear_value x; intro hx)
    | (intro x; refine Keeps.cut (q := q0) (x := x.1) ?_ ?_; pick_goal 2; clear_value x; intro hx)
    | (lift_lets; intro x)
    | (intro x)
    | (with_reducible apply State.setCore_keeps)
    | (with_reducible apply checkTrap_keeps)
    | (with_reducible apply mxDrain_keeps)
    | (with_reducible apply mxExp_keeps)
    | (with_reducible apply mxLoad_keeps)
    | (with_reducible apply mxMul_keeps)
    | (dsimp -zeta only [x])
    | split

theorem vxData_keeps (s : State) (c : CoreId) (vx : Nat) {q0 : State} (hK : Keeps q0 s) :
    Keeps q0 (vxData s c vx) := by
  unfold vxData
  repeat' first
    | with_reducible assumption
    | (lift_lets; intro x)
    | (intro x)
    | (with_reducible refine Keeps.upTo (fun _ _ _ => ?_) ?_)
    | (with_reducible apply vxConvert_keeps)
    | (with_reducible apply vxCstat_keeps)
    | (with_reducible apply vxEw_keeps)
    | (with_reducible apply vxFn_keeps)
    | (with_reducible apply vxLoadLine_keeps)
    | (with_reducible apply vxRd_keeps)
    | (with_reducible apply vxRmaxRd_keeps)
    | (with_reducible apply vxRmaxRr_keeps)
    | (with_reducible apply vxSeed_keeps)
    | (with_reducible apply vxStoreLine_keeps)
    | (dsimp -zeta only [x])
    | split

theorem vxOccupy_keeps (s : State) (c : CoreId) (vx t : Nat) {q0 : State} (hK : Keeps q0 s) :
    Keeps q0 (vxOccupy s c vx t) := by
  unfold vxOccupy
  repeat' first
    | with_reducible assumption
    | (lift_lets; intro x)
    | (intro x)
    | (with_reducible apply Keeps.ite)
    | (with_reducible apply State.setCore_keeps)

theorem noteCis_keeps (s : State) (i sl l : Nat) {q0 : State} (hK : Keeps q0 s) :
    Keeps q0 (noteCis s i sl l) := by
  unfold noteCis
  repeat' first
    | with_reducible assumption
    | (intro x; refine Keeps.cut (q := q0) (x := x) ?_ ?_; pick_goal 2; clear_value x; intro hx)
    | (lift_lets; intro x)
    | (intro x)
    | (with_reducible apply Keeps.ite)
    | (with_reducible apply State.bump_keeps)
    | (with_reducible apply State.setBit_keeps)
    | (with_reducible apply State.wr_keeps)

theorem noteWell_keeps (s : State) (i w : Nat) {q0 : State} (hK : Keeps q0 s) :
    Keeps q0 (noteWell s i w) := by
  unfold noteWell
  repeat' first
    | with_reducible assumption
    | (intro x; refine Keeps.cut (q := q0) (x := x) ?_ ?_; pick_goal 2; clear_value x; intro hx)
    | (lift_lets; intro x)
    | (intro x)
    | (with_reducible apply Keeps.ite)
    | (with_reducible apply State.bump_keeps)
    | (with_reducible apply State.setBit_keeps)
    | (with_reducible apply State.wr_keeps)

theorem poisonTrap_keeps (s : State) (c : CoreId) (point bank line pm slot img pc cyc : Nat) {q0 : State} (hK : Keeps q0 s) :
    Keeps q0 (poisonTrap s c point bank line pm slot img pc cyc) := by
  unfold poisonTrap
  repeat' first
    | with_reducible assumption
    | (with_reducible apply coreTrap_keeps)

theorem noteLanding_keeps (s : State) (i : Nat) (hit : Bool) {q0 : State} (hK : Keeps q0 s) :
    Keeps q0 (noteLanding s i hit) := by
  unfold noteLanding
  repeat' first
    | with_reducible assumption
    | (lift_lets; intro x; refine Keeps.cut (q := q0) (x := x) ?_ ?_; pick_goal 2; clear_value x; intro hx)
    | (with_reducible apply Keeps.ite)
    | (with_reducible apply State.bump_keeps)
    | (with_reducible apply State.setBit_keeps)

theorem mirrorLine_keeps (s : State) (c : CoreId) (own : Nat) {q0 : State} (hK : Keeps q0 s) :
    Keeps q0 (mirrorLine s c own) := by
  unfold mirrorLine
  repeat' first
    | with_reducible assumption
    | (lift_lets; intro x; refine Keeps.cut (q := q0) (x := x) ?_ ?_; pick_goal 2; clear_value x; intro hx)
    | (lift_lets; intro x)
    | (intro x)
    | (with_reducible apply State.put_keeps)
    | (with_reducible apply State.setSite_keeps)
    | (dsimp -zeta only [x])
    | split

theorem mvLineEffect_keeps (c : CoreId) (mv t pc : Nat) (s0 s : State) (i : Nat) {q0 : State} (hK : Keeps q0 s) :
    Keeps q0 (mvLineEffect c mv t pc s0 s i) := by
  unfold mvLineEffect
  repeat' first
    | with_reducible assumption
    | (intro x; refine Keeps.cut (q := q0) (x := x) ?_ ?_; pick_goal 2; clear_value x; intro hx)
    | (lift_lets; intro x)
    | (intro x)
    | (with_reducible apply Keeps.ite)
    | (with_reducible apply State.noteSp_keeps)
    | (with_reducible apply State.put_keeps)
    | (with_reducible apply mirrorLine_keeps)
    | (with_reducible apply mirrorPut_keeps)
    | (with_reducible apply noteCis_keeps)
    | (with_reducible apply noteLanding_keeps)
    | (with_reducible apply noteWell_keeps)
    | (with_reducible apply poisonTrap_keeps)
    | split

theorem kickWindow_keeps (s : State) (c : CoreId) (wb pump t : Nat) {q0 : State} (hK : Keeps q0 s) :
    Keeps q0 (kickWindow s c wb pump t) := by
  unfold kickWindow
  repeat' first
    | with_reducible assumption
    | (lift_lets; intro x)
    | (intro x)
    | (with_reducible apply Keeps.ite)
    | (with_reducible apply State.setCore_keeps)
    | (with_reducible apply State.wr_keeps)

theorem kickEffect_keeps (s : State) (c : CoreId) (mv t pc : Nat) {q0 : State} (hK : Keeps q0 s) :
    Keeps q0 (kickEffect s c mv t pc) := by
  unfold kickEffect
  repeat' first
    | with_reducible assumption
    | (intro x; refine Keeps.cut (q := q0) (x := x) ?_ ?_; pick_goal 2; clear_value x; intro hx)
    | (lift_lets; intro x)
    | (intro x)
    | (with_reducible apply Keeps.ite)
    | (with_reducible apply State.noteSp_keeps)
    | (with_reducible apply State.setSite_keeps)
    | (with_reducible apply State.wr_keeps)
    | (with_reducible apply kickWindow_keeps)
    | (with_reducible apply poisonTrap_keeps)

theorem mvEffect_keeps (s : State) (c : CoreId) (mv t pc : Nat) {q0 : State} (hK : Keeps q0 s) :
    Keeps q0 (mvEffect s c mv t pc) := by
  unfold mvEffect
  repeat' first
    | with_reducible assumption
    | (intro x; refine Keeps.cut (q := q0) (x := x) ?_ ?_; pick_goal 2; clear_value x; intro hx)
    | (intro x; refine Keeps.cut (q := q0) (x := x.1) ?_ ?_; pick_goal 2; clear_value x; intro hx)
    | (lift_lets; intro x)
    | (with_reducible apply Keeps.ite)
    | (with_reducible refine Keeps.upTo (fun _ _ _ => ?_) ?_)
    | (with_reducible apply kickEffect_keeps)
    | (with_reducible apply mvLineEffect_keeps)
    | (with_reducible apply placeAll_keeps)

theorem sendBeat_keeps (c : CoreId) (lk e pc : Nat) (lost : List Access) (s : State) (j : Nat) {q0 : State} (hK : Keeps q0 s) :
    Keeps q0 (sendBeat c lk e pc lost s j) := by
  unfold sendBeat
  repeat' first
    | with_reducible assumption
    | (intro x; refine Keeps.cut (q := q0) (x := x) ?_ ?_; pick_goal 2; clear_value x; intro hx)
    | (lift_lets; intro x)
    | (intro x)
    | (with_reducible apply Keeps.ite)
    | (with_reducible apply State.emit_keeps)
    | (with_reducible apply State.noteSp_keeps)
    | (with_reducible apply poisonTrap_keeps)

theorem lkEffect_keeps (s : State) (c : CoreId) (lk t pc : Nat) {q0 : State} (hK : Keeps q0 s) : Keeps q0 (lkEffect s c lk t pc) := by
  unfold lkEffect
  split
  · exact hK
  · exact hK
  · extract_lets k b s1 r
    have h1 : Keeps q0 s1 := State.setCore_keeps _ _ _ hK
    have hr : Keeps q0 r.st := placeAll_keeps _ _ _ _ h1
    exact Keeps.ite (Keeps.upTo (fun s a h => sendBeat_keeps _ _ _ _ _ _ _ h) hr) hr

theorem mirrorWrites_keeps (s : State) (i : Nat) (xs : List Mirror) {q0 : State} (hK : Keeps q0 s) :
    Keeps q0 (mirrorWrites s i xs) := by
  unfold mirrorWrites
  repeat' first
    | with_reducible assumption
    | (with_reducible apply Keeps.ite)
    | (with_reducible refine Keeps.foldl (fun _ _ _ => ?_) ?_)
    | (with_reducible apply State.put_keeps)

theorem mirrorNow_keeps (s : State) (i t : Nat) {q0 : State} (hK : Keeps q0 s) :
    Keeps q0 (mirrorNow s i t) := by
  unfold mirrorNow
  repeat' first
    | with_reducible assumption
    | (lift_lets; intro x)
    | (intro x)
    | (with_reducible apply State.setSite_keeps)
    | (with_reducible apply mirrorWrites_keeps)

theorem atCycle_keeps (s : State) (i t : Nat) {q0 : State} (hK : Keeps q0 s) :
    Keeps q0 (atCycle s i t) := by
  unfold atCycle
  repeat' first
    | with_reducible assumption
    | (lift_lets; intro x)
    | (with_reducible apply State.setSite_keeps)

theorem digAdd_keeps (s : State) (i : Nat) (xs : List (Nat × DigItem)) {q0 : State} (hK : Keeps q0 s) :
    Keeps q0 (digAdd s i xs) := by
  unfold digAdd
  repeat' first
    | with_reducible assumption
    | (lift_lets; intro x)
    | (with_reducible apply Keeps.ite)
    | (with_reducible apply State.setSite_keeps)

theorem noteFetch_keeps (s : State) (c : CoreId) (p : Nat) {q0 : State} (hK : Keeps q0 s) :
    Keeps q0 (noteFetch s c p) := by
  unfold noteFetch
  repeat' first
    | with_reducible assumption
    | (lift_lets; intro x)
    | (with_reducible apply Keeps.ite)
    | (with_reducible apply State.setBit_keeps)

theorem strike_keeps (s : State) (ups : Upsets) {q0 : State} (hK : Keeps q0 s) : Keeps q0 (strike s ups) := by
  unfold strike
  refine hK.withMem _ (fun w => Keeps.fold (P := fun m => Memory.wf m = true) (fun m u h => ?_) w)
  have hm := Memory.wf_iff.mp h
  split
  · exact Memory.wf_iff.mpr ⟨hm.1, hm.2.1, keyWf_del hm.2.2.1 _, keyWf_add hm.2.2.2 _⟩
  · split
    · exact h
    · exact Memory.wf_iff.mpr ⟨hm.1, hm.2.1, keyWf_add hm.2.2.1 _, hm.2.2.2⟩

theorem noteEffect_keeps (s : State) (c : CoreId) (t p tag : Nat) {q0 : State} (hK : Keeps q0 s) :
    Keeps q0 (noteEffect s c t p tag) := by
  unfold noteEffect
  repeat' first
    | with_reducible assumption
    | (intro x; refine Keeps.cut (q := q0) (x := x) ?_ ?_; pick_goal 2; clear_value x; intro hx)
    | (lift_lets; intro x)
    | (intro x)
    | (with_reducible apply Keeps.ite)
    | (with_reducible apply State.bump_keeps)
    | (with_reducible apply State.orBits_keeps)
    | (with_reducible apply State.setBit_keeps)
    | (with_reducible apply State.setSite_keeps)
    | (with_reducible apply coreRecord_keeps)

theorem stopEffect_keeps (s : State) (c : CoreId) (t p : Nat) {q0 : State} (hK : Keeps q0 s) :
    Keeps q0 (stopEffect s c t p) := by
  unfold stopEffect
  repeat' first
    | with_reducible assumption
    | (intro x; refine Keeps.cut (q := q0) (x := x) ?_ ?_; pick_goal 2; clear_value x; intro hx)
    | (lift_lets; intro x)
    | (with_reducible apply Keeps.ite)
    | (with_reducible apply State.setCore_keeps)
    | (with_reducible apply State.wr_keeps)
    | (with_reducible apply coreRecord_keeps)

theorem ctlEffect_keeps (s : State) (c : CoreId) (t p h lk : Nat) {q0 : State} (hK : Keeps q0 s) :
    Keeps q0 (ctlEffect s c t p h lk) := by
  unfold ctlEffect
  repeat' first
    | with_reducible assumption
    | (lift_lets; intro x)
    | (with_reducible apply Keeps.ite)
    | (with_reducible apply noteEffect_keeps)
    | (with_reducible apply stopEffect_keeps)
    | (with_reducible apply timerSource_keeps)

theorem decodeTrap_keeps (s : State) (c : CoreId) (t p b : Nat) (bs : List Bad) (x : Bad) {q0 : State} (hK : Keeps q0 s) :
    Keeps q0 (decodeTrap s c t p b bs x) := by
  unfold decodeTrap
  repeat' first
    | with_reducible assumption
    | (with_reducible apply coreTrap_keeps)

theorem lateTrap_keeps (s : State) (c : CoreId) (cause p d0 d1 cyc : Nat) {q0 : State} (hK : Keeps q0 s) :
    Keeps q0 (lateTrap s c cause p d0 d1 cyc) := by
  unfold lateTrap
  repeat' first
    | with_reducible assumption
    | (with_reducible apply coreTrap_keeps)

theorem showBusy_keeps (s : State) (c : CoreId) (t : Nat) {q0 : State} (hK : Keeps q0 s) :
    Keeps q0 (showBusy s c t) := by
  unfold showBusy
  repeat' first
    | with_reducible assumption
    | (intro x; refine Keeps.cut (q := q0) (x := x) ?_ ?_; pick_goal 2; clear_value x; intro hx)
    | (lift_lets; intro x)
    | (intro x)
    | (with_reducible apply State.wr_keeps)

theorem bundleEffect_keeps (s : State) (c : CoreId) (t p b : Nat) (arr : ArrayUpset) {q0 : State} (hK : Keeps q0 s) :
    Keeps q0 (bundleEffect s c t p b arr) := by
  unfold bundleEffect
  repeat' first
    | with_reducible assumption
    | (intro x; refine Keeps.cut (q := q0) (x := x) ?_ ?_; pick_goal 2; clear_value x; intro hx)
    | (lift_lets; intro x)
    | (intro x)
    | (with_reducible apply Keeps.ite)
    | (with_reducible apply State.setCore_keeps)
    | (with_reducible apply State.wr_keeps)
    | (with_reducible apply ctlEffect_keeps)
    | (with_reducible apply digAdd_keeps)
    | (with_reducible apply lkEffect_keeps)
    | (with_reducible apply mvEffect_keeps)
    | (with_reducible apply mxEffect_keeps)
    | (with_reducible apply placeAll_keeps)
    | (with_reducible apply showBusy_keeps)
    | (with_reducible apply vxData_keeps)
    | (with_reducible apply vxOccupy_keeps)

theorem issue_keeps (s : State) (c : CoreId) (b : Nat) (fetched : Bool) (arr : ArrayUpset) {q0 : State} (hK : Keeps q0 s) :
    Keeps q0 (issue s c b fetched arr) := by
  unfold issue
  repeat' first
    | with_reducible assumption
    | (intro x; refine Keeps.cut (q := q0) (x := x) ?_ ?_; pick_goal 2; clear_value x; intro hx)
    | (lift_lets; intro x; refine Keeps.cut (q := q0) (x := x) ?_ ?_; pick_goal 2; clear_value x; intro hx)
    | (lift_lets; intro x)
    | (intro x)
    | (with_reducible apply Keeps.ite)
    | (with_reducible apply atCycle_keeps)
    | (with_reducible apply bundleEffect_keeps)
    | (with_reducible apply coreTrap_keeps)
    | (with_reducible apply decodeTrap_keeps)
    | (with_reducible apply lateTrap_keeps)
    | (with_reducible apply mirrorNow_keeps)
    | (with_reducible apply noteFetch_keeps)
    | (dsimp -zeta only [x])
    | split

end Sys2Proof.Machine
end

