-- ==== Sys2Proof/Laws/KeepsCourier.lean ====
section
/-! SUPPORT. What the network, image writes, streams, collectives and the courier keep. Each lemma says of one function that a state which keeps what `q0` has still does so after it. -/

namespace Sys2Proof.Machine

theorem State.setHub_keeps (s : State) (h : Nat) (v : Hub) {q0 : State} (hK : Keeps q0 s) :
    Keeps q0 (State.setHub s h v) := by
  unfold State.setHub
  repeat' first
    | with_reducible assumption
    | (simp -zeta only [↓Keeps.lit])

theorem State.setStream_keeps (s : State) (ep k : Nat) (v : Stream) {q0 : State} (hK : Keeps q0 s) :
    Keeps q0 (State.setStream s ep k v) := by
  unfold State.setStream
  repeat' first
    | with_reducible assumption
    | (simp -zeta only [↓Keeps.lit])

theorem State.setCtx_keeps (s : State) (ep k : Nat) (v : Ctx) {q0 : State} (hK : Keeps q0 s) :
    Keeps q0 (State.setCtx s ep k v) := by
  unfold State.setCtx
  repeat' first
    | with_reducible assumption
    | (simp -zeta only [↓Keeps.lit])

theorem setStreamState_keeps (s : State) (ep k v : Nat) {q0 : State} (hK : Keeps q0 s) :
    Keeps q0 (setStreamState s ep k v) := by
  unfold setStreamState
  repeat' first
    | with_reducible assumption
    | (intro x; refine Keeps.cut (q := q0) (x := x) ?_ ?_; pick_goal 2; clear_value x; intro hx)
    | (lift_lets; intro x)
    | (intro x)
    | (with_reducible apply Keeps.ite)
    | (with_reducible apply State.wr_keeps)

theorem countInj_keeps (s : State) (i : Nat) {q0 : State} (hK : Keeps q0 s) :
    Keeps q0 (countInj s i) := by
  unfold countInj
  repeat' first
    | with_reducible assumption
    | (with_reducible apply State.wrap_keeps)

theorem countEj_keeps (s : State) (i : Nat) {q0 : State} (hK : Keeps q0 s) :
    Keeps q0 (countEj s i) := by
  unfold countEj
  repeat' first
    | with_reducible assumption
    | (with_reducible apply State.wrap_keeps)

theorem sendEnv_keeps (s : State) (ep r : Nat) (resp direct : Bool) (attempt : Nat) (e : Env) {q0 : State} (hK : Keeps q0 s) :
    Keeps q0 (sendEnv s ep r resp direct attempt e) := by
  unfold sendEnv
  repeat' first
    | with_reducible assumption
    | (with_reducible apply State.emit_keeps)
    | (with_reducible apply countInj_keeps)
    | split

theorem sendBack_keeps (s : State) (ep r : Nat) (resp : Bool) (attempt : Nat) (e : Env) {q0 : State} (hK : Keeps q0 s) :
    Keeps q0 (sendBack s ep r resp attempt e) := by
  unfold sendBack
  repeat' first
    | with_reducible assumption
    | (lift_lets; intro x)
    | (intro x)
    | (with_reducible apply Keeps.ite)
    | (with_reducible apply State.setHub_keeps)
    | (with_reducible apply State.setSite_keeps)
    | (with_reducible apply sendEnv_keeps)
    | (dsimp -zeta only [x])
    | split

theorem flushWaiting_keeps (s : State) (ep : Nat) {q0 : State} (hK : Keeps q0 s) :
    Keeps q0 (flushWaiting s ep) := by
  unfold flushWaiting
  repeat' first
    | with_reducible assumption
    | (intro x; refine Keeps.cut (q := q0) (x := x) ?_ ?_; pick_goal 2; clear_value x; intro hx)
    | (lift_lets; intro x)
    | (intro x)
    | (with_reducible apply Keeps.ite)
    | (with_reducible refine Keeps.foldl (fun _ _ _ => ?_) ?_)
    | (with_reducible apply State.setHub_keeps)
    | (with_reducible apply State.setSite_keeps)
    | (with_reducible apply sendBack_keeps)

theorem State.setOptic_keeps (s : State) (h p : Nat) (v : Port) {q0 : State} (hK : Keeps q0 s) :
    Keeps q0 (State.setOptic s h p v) := by
  unfold State.setOptic
  repeat' first
    | with_reducible assumption
    | (simp -zeta only [↓Keeps.lit])

theorem sendBlock_keeps (s : State) (h p btype cvc credits : Nat) (ws : List FWord) {q0 : State} (hK : Keeps q0 s) :
    Keeps q0 (sendBlock s h p btype cvc credits ws) := by
  unfold sendBlock
  repeat' first
    | with_reducible assumption
    | (lift_lets; intro x)
    | (intro x)
    | (with_reducible apply State.emit_keeps)
    | (with_reducible apply State.setOptic_keeps)

theorem sendPlain_keeps (s : State) (h p btype content : Nat) {q0 : State} (hK : Keeps q0 s) :
    Keeps q0 (sendPlain s h p btype content) := by
  unfold sendPlain
  repeat' first
    | with_reducible assumption
    | (with_reducible apply State.emit_keeps)

theorem creditBack_keeps (s : State) (back : Option (Nat × Nat × Nat)) {q0 : State} (hK : Keeps q0 s) :
    Keeps q0 (creditBack s back) := by
  unfold creditBack
  repeat' first
    | with_reducible assumption
    | (with_reducible apply Keeps.ite)
    | (with_reducible apply sendBlock_keeps)
    | split

theorem drainPort_keeps (s : State) (h p : Nat) {q0 : State} (hK : Keeps q0 s) :
    Keeps q0 (drainPort s h p) := by
  unfold drainPort
  repeat' first
    | with_reducible assumption
    | (intro x; refine Keeps.cut (q := q0) (x := x) ?_ ?_; pick_goal 2; clear_value x; intro hx)
    | (lift_lets; intro x)
    | (with_reducible apply Keeps.ite)
    | (with_reducible refine Keeps.foldl (fun _ _ _ => ?_) ?_)
    | (with_reducible apply State.setOptic_keeps)
    | (with_reducible apply creditBack_keeps)
    | (with_reducible apply sendBlock_keeps)

theorem leaveBy_keeps (s : State) (h p ent : Nat) (back : Option (Nat × Nat × Nat)) (w : FWord) {q0 : State} (hK : Keeps q0 s) :
    Keeps q0 (leaveBy s h p ent back w) := by
  unfold leaveBy
  repeat' first
    | with_reducible assumption
    | (lift_lets; intro x)
    | (intro x)
    | (with_reducible apply State.setOptic_keeps)
    | (with_reducible apply drainPort_keeps)

theorem fabForward_keeps (fuel : Nat) (s : State) (h : Nat) (back : Option (Nat × Nat × Nat)) (w : FWord) {q0 : State} (hK : Keeps q0 s) :
    Keeps q0 (fabForward fuel s h back w).1 := by
  induction fuel generalizing s h back w with
  | zero =>
   unfold fabForward
   repeat' first
    | with_reducible assumption
    | (with_reducible apply creditBack_keeps)
  | succ fuel ih =>
   unfold fabForward
   repeat' first
    | (with_reducible apply ih)
    | with_reducible assumption
    | (intro x; refine Keeps.cut (q := q0) (x := x) ?_ ?_; pick_goal 2; clear_value x; intro hx)
    | (lift_lets; intro x; refine Keeps.cut (q := q0) (x := x) ?_ ?_; pick_goal 2; clear_value x; intro hx)
    | (intro x)
    | (with_reducible apply State.bump_keeps)
    | (with_reducible apply State.emit_keeps)
    | (with_reducible apply State.setBit_keeps)
    | (with_reducible apply State.setHub_keeps)
    | (with_reducible apply creditBack_keeps)
    | (with_reducible apply leaveBy_keeps)
    | (with_reducible apply Keeps.iteFst)
    | (dsimp -zeta only [x])
    | split

theorem fabSend_keeps (s : State) (h panel : Nat) (resp : Bool) (attempt : Nat) (e : Env) {q0 : State} (hK : Keeps q0 s) :
    Keeps q0 (fabSend s h panel resp attempt e).1 := by
  unfold fabSend
  repeat' first
    | with_reducible assumption
    | (with_reducible apply fabForward_keeps)

theorem showOpen_keeps (s : State) (i : Nat) {q0 : State} (hK : Keeps q0 s) :
    Keeps q0 (showOpen s i) := by
  unfold showOpen
  repeat' first
    | with_reducible assumption
    | (with_reducible refine Keeps.upTo (fun _ _ _ => ?_) ?_)
    | (with_reducible apply State.wr_keeps)

theorem askOpen_keeps (s : State) (i who job key : Nat) (wr : Bool) (off n data poison : Nat) {q0 : State} (hK : Keeps q0 s) :
    Keeps q0 (askOpen s i who job key wr off n data poison) := by
  unfold askOpen
  repeat' first
    | with_reducible assumption
    | (lift_lets; intro x)
    | (intro x)
    | (with_reducible apply State.setSite_keeps)
    | (with_reducible apply showOpen_keeps)

theorem noteCisWords_keeps (s : State) (i off n : Nat) {q0 : State} (hK : Keeps q0 s) :
    Keeps q0 (noteCisWords s i off n) := by
  unfold noteCisWords
  repeat' first
    | with_reducible assumption
    | (intro x; refine Keeps.cut (q := q0) (x := x) ?_ ?_; pick_goal 2; clear_value x; intro hx)
    | (lift_lets; intro x)
    | (intro x)
    | (with_reducible apply Keeps.ite)
    | (with_reducible apply State.bump_keeps)
    | (with_reducible apply State.setBit_keeps)
    | (with_reducible apply State.wr_keeps)

theorem noteWellHalves_keeps (s : State) (i w mask : Nat) {q0 : State} (hK : Keeps q0 s) :
    Keeps q0 (noteWellHalves s i w mask) := by
  unfold noteWellHalves
  repeat' first
    | with_reducible assumption
    | (intro x; refine Keeps.cut (q := q0) (x := x) ?_ ?_; pick_goal 2; clear_value x; intro hx)
    | (lift_lets; intro x)
    | (intro x)
    | (with_reducible apply Keeps.ite)
    | (with_reducible apply State.bump_keeps)
    | (with_reducible apply State.setBit_keeps)
    | (with_reducible apply State.wr_keeps)

theorem openRead_keeps (s : State) (i off n : Nat) {q0 : State} (hK : Keeps q0 s) :
    Keeps q0 (openRead s i off n).1 := by
  unfold openRead
  repeat' first
    | with_reducible assumption
    | (lift_lets; intro x)
    | (intro x)
    | (with_reducible apply State.noteSp_keeps)
    | (with_reducible apply noteCisWords_keeps)
    | (with_reducible apply noteWellHalves_keeps)
    | (dsimp -zeta only [x])
    | split

theorem openWrite_keeps (s : State) (i off n : Nat) (l : Line) {q0 : State} (hK : Keeps q0 s) : Keeps q0 (openWrite s i off n l) := by
  unfold openWrite
  extract_lets a
  split
  · refine (State.put_keeps s a n ⟨l.data, 0⟩ hK).withMem _ (fun w => ?_)
    have hm := Memory.wf_iff.mp w
    exact Memory.wf_iff.mpr ⟨hm.1, keyWf_marksPut hm.2.1 _ _ _, hm.2.2.1, keyWf_marksPut hm.2.2.2 _ _ _⟩
  · exact mirrorPut_keeps _ _ _ _ _ _ _ _ (State.put_keeps _ _ _ _ hK)
  · exact hK

theorem landCount_keeps (s : State) (i : Nat) {q0 : State} (hK : Keeps q0 s) :
    Keeps q0 (landCount s i) := by
  unfold landCount
  repeat' first
    | with_reducible assumption
    | (with_reducible apply State.wr_keeps)

theorem landMake_keeps (s : State) (i off len : Nat) {q0 : State} (hK : Keeps q0 s) :
    Keeps q0 (landMake s i off len).1 := by
  unfold landMake
  repeat' first
    | with_reducible assumption
    | (lift_lets; intro x; refine Keeps.cut (q := q0) (x := x) ?_ ?_; pick_goal 2; clear_value x; intro hx)
    | (lift_lets; intro x)
    | (with_reducible apply State.setBit_keeps)
    | (with_reducible apply State.wr_keeps)
    | (with_reducible apply landCount_keeps)
    | (dsimp -zeta only [x])
    | split

theorem landFree_keeps (s : State) (i z : Nat) {q0 : State} (hK : Keeps q0 s) :
    Keeps q0 (landFree s i z) := by
  unfold landFree
  repeat' first
    | with_reducible assumption
    | (with_reducible apply State.wr_keeps)
    | (with_reducible apply landCount_keeps)

theorem landEnd_keeps (s : State) (i z off done : Nat) (ok : Bool) {q0 : State} (hK : Keeps q0 s) :
    Keeps q0 (landEnd s i z off done ok) := by
  unfold landEnd
  repeat' first
    | with_reducible assumption
    | (lift_lets; intro x)
    | (intro x)
    | (with_reducible apply Keeps.ite)
    | (with_reducible refine Keeps.upTo (fun _ _ _ => ?_) ?_)
    | (with_reducible apply State.wr_keeps)
    | (with_reducible apply landFree_keeps)

theorem landClear_keeps (s : State) (i : Nat) {q0 : State} (hK : Keeps q0 s) :
    Keeps q0 (landClear s i) := by
  unfold landClear
  repeat' first
    | with_reducible assumption
    | (with_reducible refine Keeps.upTo (fun _ _ _ => ?_) ?_)
    | (with_reducible apply State.wr_keeps)
    | (with_reducible apply landCount_keeps)

theorem sendCirc_keeps (s : State) (i r axis : Nat) (e : Env) {q0 : State} (hK : Keeps q0 s) :
    Keeps q0 (sendCirc s i r axis e) := by
  unfold sendCirc
  repeat' first
    | with_reducible assumption
    | (lift_lets; intro x)
    | (intro x)
    | (with_reducible apply Keeps.ite)
    | (with_reducible apply sendEnv_keeps)

theorem emitOut_keeps (s : State) (ep : Nat) (m : Stream) (axis attempt : Nat) (e : Env) {q0 : State} (hK : Keeps q0 s) :
    Keeps q0 (emitOut s ep m axis attempt e) := by
  unfold emitOut
  repeat' first
    | with_reducible assumption
    | (lift_lets; intro x)
    | (with_reducible apply Keeps.ite)
    | (with_reducible apply fabSend_keeps)
    | (with_reducible apply leaveBy_keeps)
    | (with_reducible apply sendCirc_keeps)
    | (with_reducible apply sendEnv_keeps)
    | (dsimp -zeta only [x])
    | split

theorem emitBack_keeps (s : State) (ep : Nat) (c : Ctx) (e : Env) {q0 : State} (hK : Keeps q0 s) :
    Keeps q0 (emitBack s ep c e) := by
  unfold emitBack
  repeat' first
    | with_reducible assumption
    | (with_reducible apply Keeps.ite)
    | (with_reducible apply fabSend_keeps)
    | (with_reducible apply sendBack_keeps)

theorem ctxAck_keeps (s : State) (ep : Nat) (c : Ctx) (seq : Nat) (busy : Bool) {q0 : State} (hK : Keeps q0 s) :
    Keeps q0 (ctxAck s ep c seq busy) := by
  unfold ctxAck
  repeat' first
    | with_reducible assumption
    | (intro x; refine Keeps.cut (q := q0) (x := x) ?_ ?_; pick_goal 2; clear_value x; intro hx)
    | (lift_lets; intro x)
    | (intro x)
    | (with_reducible apply Keeps.ite)
    | (with_reducible apply State.setBit_keeps)
    | (with_reducible apply emitBack_keeps)

theorem streamAck_keeps (s : State) (ep k : Nat) (m : Stream) (seq : Nat) {q0 : State} (hK : Keeps q0 s) :
    Keeps q0 (streamAck s ep k m seq) := by
  unfold streamAck
  repeat' first
    | with_reducible assumption
    | (lift_lets; intro x)
    | (intro x)
    | (with_reducible apply Keeps.ite)
    | (with_reducible apply fabSend_keeps)
    | (with_reducible apply sendBack_keeps)

theorem charge_keeps (s : State) (i dst bytes : Nat) {q0 : State} (hK : Keeps q0 s) :
    Keeps q0 (charge s i dst bytes).1 := by
  unfold charge
  repeat' first
    | with_reducible assumption
    | (lift_lets; intro x)
    | (intro x)
    | (with_reducible apply State.orBits_keeps)
    | (with_reducible apply State.setSite_keeps)
    | (with_reducible apply Keeps.iteFst)

theorem sendNext_keeps (s : State) (ep k : Nat) {q0 : State} (hK : Keeps q0 s) : Keeps q0 (sendNext s ep k) := by
  unfold sendNext
  extract_lets m ni src
  split
  · exact hK
  · next p rest heq =>
    extract_lets r s1 e s2 s3
    have hr : Keeps q0 r.1 := by
      simp only [r]
      refine Keeps.iteFst (charge_keeps _ _ _ _ hK) (Keeps.iteFst ?_ hK)
      split
      · exact charge_keeps _ _ _ _ hK
      · exact hK
    have h2 : Keeps q0 s2 := emitOut_keeps _ _ _ _ _ _ hr
    have h3 : Keeps q0 s3 := State.wr_keeps _ _ _ _ h2
    clear_value ni s3 e
    split
    · exact hK
    · exact Keeps.ite hK (Keeps.ite hr (State.setStream_keeps _ _ _ _ h3))

theorem sendResp_keeps (s : State) (ep k : Nat) {q0 : State} (hK : Keeps q0 s) : Keeps q0 (sendResp s ep k) := by
  unfold sendResp
  extract_lets c ni src
  split
  · exact hK
  · next p rest heq =>
    extract_lets r s1 e s2
    have hr : Keeps q0 r.1 := Keeps.iteFst (charge_keeps _ _ _ _ hK) hK
    have h2 : Keeps q0 s2 := emitBack_keeps _ _ _ _ hr
    clear_value ni s2 e
    split
    · exact hK
    · exact Keeps.ite hK (Keeps.ite hr (State.setCtx_keeps _ _ _ _ h2))

theorem countRetrans_keeps (s : State) (ep n : Nat) {q0 : State} (hK : Keeps q0 s) :
    Keeps q0 (countRetrans s ep n) := by
  unfold countRetrans
  repeat' first
    | with_reducible assumption
    | (with_reducible apply Keeps.ite)
    | (with_reducible apply State.bump_keeps)

theorem noteDown_keeps (s : State) (ep : Nat) (l : Nat × Nat) {q0 : State} (hK : Keeps q0 s) :
    Keeps q0 (noteDown s ep l) := by
  unfold noteDown
  repeat' first
    | with_reducible assumption
    | (lift_lets; intro x)
    | (intro x)
    | (with_reducible apply Keeps.ite)
    | (with_reducible apply State.setHub_keeps)
    | (with_reducible apply State.setSite_keeps)

theorem resend_keeps (s : State) (ep k : Nat) {q0 : State} (hK : Keeps q0 s) : OptKeeps q0 (resend s ep k) := by
  unfold resend
  extract_lets m p
  split
  · exact OptKeeps.none
  · exact OptKeeps.some (State.setStream_keeps _ _ _ _ (countRetrans_keeps _ _ _
      (Keeps.foldl (fun s a h => emitOut_keeps _ _ _ _ _ _ h) (State.wr_keeps _ _ _ _ hK))))

theorem resendBack_keeps (s : State) (ep k : Nat) {q0 : State} (hK : Keeps q0 s) : OptKeeps q0 (resendBack s ep k) := by
  unfold resendBack
  extract_lets c
  split
  · exact OptKeeps.none
  · refine OptKeeps.some (countRetrans_keeps _ _ _ (Keeps.foldl (fun s a h => ?_) (State.setCtx_keeps _ _ _ _ hK)))
    exact Keeps.ite (sendEnv_keeps _ _ _ _ _ _ _ h) (fabSend_keeps _ _ _ _ _ _ h)

theorem openStream_keeps (s : State) (ep k : Nat) (m : Stream) {q0 : State} (hK : Keeps q0 s) :
    Keeps q0 (openStream s ep k m) := by
  unfold openStream
  repeat' first
    | with_reducible assumption
    | (intro x; refine Keeps.cut (q := q0) (x := x) ?_ ?_; pick_goal 2; clear_value x; intro hx)
    | (lift_lets; intro x)
    | (intro x)
    | (with_reducible apply State.setStream_keeps)
    | (with_reducible apply State.wr_keeps)
    | (with_reducible apply setStreamState_keeps)

theorem State.setSlot_keeps (s : State) (h g : Nat) (v : CSlot) {q0 : State} (hK : Keeps q0 s) :
    Keeps q0 (State.setSlot s h g v) := by
  unfold State.setSlot
  repeat' first
    | with_reducible assumption
    | (lift_lets; intro x)
    | (with_reducible apply State.setHub_keeps)

theorem sendSlice_keeps (s : State) (h g : Nat) (r : CRun) (x : Nat × Nat × Nat × Nat) (k : Nat) {q0 : State} (hK : Keeps q0 s) :
    Keeps q0 (sendSlice s h g r x k) := by
  unfold sendSlice
  repeat' first
    | with_reducible assumption
    | (lift_lets; intro x)
    | (intro x)
    | (with_reducible apply Keeps.ite)
    | (with_reducible apply State.setStream_keeps)
    | (with_reducible apply State.wr_keeps)
    | (with_reducible apply openStream_keeps)

theorem collPump_keeps (s : State) (h g : Nat) {q0 : State} (hK : Keeps q0 s) : Keeps q0 (collPump s h g) := by
  unfold collPump
  refine Keeps.upTo (fun s a hs => ?_) hK
  beta_reduce
  split
  · exact hs
  · extract_lets live
    split
    · refine Keeps.ite hs ?_
      extract_lets r
      exact sendSlice_keeps _ _ _ _ _ _ (State.setSlot_keeps _ _ _ _ hs)
    · exact hs

theorem collSliceIn_keeps (s : State) (h g k j half data poison : Nat) {q0 : State} (hK : Keeps q0 s) :
    Keeps q0 (collSliceIn s h g k j half data poison) := by
  unfold collSliceIn
  repeat' first
    | with_reducible assumption
    | (lift_lets; intro x)
    | (intro x)
    | (with_reducible apply State.setSlot_keeps)
    | (with_reducible apply collPump_keeps)
    | (dsimp -zeta only [x])
    | split

theorem collHopFail_keeps (s : State) (h g : Nat) {q0 : State} (hK : Keeps q0 s) :
    Keeps q0 (collHopFail s h g) := by
  unfold collHopFail
  repeat' first
    | with_reducible assumption
    | (intro x; refine Keeps.cut (q := q0) (x := x) ?_ ?_; pick_goal 2; clear_value x; intro hx)
    | (lift_lets; intro x)
    | (intro x)
    | (with_reducible apply Keeps.ite)
    | (with_reducible refine Keeps.foldl (fun _ _ _ => ?_) ?_)
    | (with_reducible apply State.bump_keeps)
    | (with_reducible apply State.setBit_keeps)
    | (with_reducible apply State.setSlot_keeps)
    | (with_reducible apply State.setStream_keeps)
    | (with_reducible apply State.wr_keeps)
    | (with_reducible apply collPump_keeps)
    | (with_reducible apply setStreamState_keeps)
    | (dsimp -zeta only [x])
    | split

theorem showColl_keeps (s : State) (h g : Nat) {q0 : State} (hK : Keeps q0 s) :
    Keeps q0 (showColl s h g) := by
  unfold showColl
  repeat' first
    | with_reducible assumption
    | (intro x; refine Keeps.cut (q := q0) (x := x) ?_ ?_; pick_goal 2; clear_value x; intro hx)
    | (lift_lets; intro x)
    | (intro x)
    | (with_reducible apply State.wr_keeps)

theorem collReap_keeps (s : State) (h g : Nat) {q0 : State} (hK : Keeps q0 s) :
    Keeps q0 (collReap s h g) := by
  unfold collReap
  repeat' first
    | with_reducible assumption
    | (lift_lets; intro x)
    | (with_reducible apply Keeps.ite)
    | (with_reducible apply State.setSlot_keeps)
    | (with_reducible apply showColl_keeps)
    | (dsimp -zeta only [x])
    | split

theorem collSliceEnd_keeps (s : State) (h ref st : Nat) {q0 : State} (hK : Keeps q0 s) :
    Keeps q0 (collSliceEnd s h ref st) := by
  unfold collSliceEnd
  repeat' first
    | with_reducible assumption
    | (lift_lets; intro x)
    | (intro x)
    | (with_reducible apply Keeps.ite)
    | (with_reducible apply State.setSlot_keeps)
    | (with_reducible apply collHopFail_keeps)
    | (with_reducible apply collPump_keeps)
    | (with_reducible apply collReap_keeps)
    | (dsimp -zeta only [x])
    | split

theorem setHopCount_keeps (s : State) (i t n : Nat) {q0 : State} (hK : Keeps q0 s) :
    Keeps q0 (setHopCount s i t n) := by
  unfold setHopCount
  repeat' first
    | with_reducible assumption
    | (lift_lets; intro x)
    | (with_reducible apply State.setSite_keeps)

theorem hopRefuse_keeps (s : State) (i code ix : Nat) {q0 : State} (hK : Keeps q0 s) :
    Keeps q0 (hopRefuse s i code ix) := by
  unfold hopRefuse
  repeat' first
    | with_reducible assumption
    | (intro x; refine Keeps.cut (q := q0) (x := x) ?_ ?_; pick_goal 2; clear_value x; intro hx)
    | (lift_lets; intro x)
    | (with_reducible apply Keeps.ite)
    | (with_reducible apply State.setBit_keeps)
    | (with_reducible apply State.wr_keeps)

theorem hopWord_keeps (s : State) (i k w : Nat) {q0 : State} (hK : Keeps q0 s) :
    Keeps q0 (hopWord s i k w) := by
  unfold hopWord
  repeat' first
    | with_reducible assumption
    | (intro x; refine Keeps.cut (q := q0) (x := x) ?_ ?_; pick_goal 2; clear_value x; intro hx)
    | (lift_lets; intro x)
    | (intro x)
    | (with_reducible apply Keeps.ite)
    | (with_reducible apply State.put_keeps)
    | (with_reducible apply State.setBit_keeps)
    | (with_reducible apply State.setSite_keeps)
    | (with_reducible apply State.wr_keeps)
    | (with_reducible apply hopRefuse_keeps)
    | (with_reducible apply setHopCount_keeps)
    | (with_reducible refine Keeps.withMem ?_ _ (fun w => Memory.wf_clear w _ _))

theorem accWrite_keeps (s : State) (c : CoreId) (o n : Nat) (l : Line) {q0 : State} (hK : Keeps q0 s) : Keeps q0 (accWrite s c o n l) := by
  unfold accWrite
  refine Keeps.upTo (fun s w h => Keeps.ite (h.withMem _ (fun v => ?_)) h) (hK.withMem _ (fun v => ?_))
  · have hm := Memory.wf_iff.mp v
    exact Memory.wf_iff.mpr ⟨hm.1, keyWf_add hm.2.1 _, hm.2.2.1, hm.2.2.2⟩
  · have hm := Memory.wf_iff.mp (Memory.wf_tail v (accBase c.site c.n + o) (8 * n) l.data)
    exact Memory.wf_iff.mpr ⟨hm.1, hm.2.1, keyWf_marksPut hm.2.2.1 _ _ _, keyWf_marksPut hm.2.2.2 _ _ _⟩

theorem spaceWrite_keeps (s : State) (i space core o n : Nat) (win : Bool) (l : Line) {q0 : State} (hK : Keeps q0 s) :
    OptKeeps q0 (spaceWrite s i space core o n win l) := by
  unfold spaceWrite
  extract_lets c
  split
  · exact OptKeeps.ite (OptKeeps.some (accWrite_keeps _ _ _ _ _ hK)) OptKeeps.none
  · exact OptKeeps.ite (OptKeeps.some (State.put_keeps _ _ _ _ hK)) OptKeeps.none
  · exact OptKeeps.ite OptKeeps.none (OptKeeps.some (Keeps.upTo (fun s a h => hopWord_keeps _ _ _ _ h) hK))

theorem spacePut_keeps (s : State) (i space core o n : Nat) (win : Bool) (l : Line) {q0 : State} (hK : Keeps q0 s) :
    OptKeeps q0 (spacePut s i space core o n win l) := by
  unfold spacePut
  refine ⟨fun t ht => ?_⟩
  obtain ⟨s1, h1, h2⟩ := Option.map_eq_some_iff.mp ht
  have h := (spaceWrite_keeps s i space core o n win l hK).keeps s1 h1
  rw [← h2]
  exact Keeps.ite (mirrorPut_keeps _ _ _ _ _ _ _ _ h) (mirrorPut_keeps _ _ _ _ _ _ _ _ h)

theorem wbSet_keeps (s : State) (i : Nat) (v : Held) {q0 : State} (hK : Keeps q0 s) :
    Keeps q0 (wbSet s i v) := by
  unfold wbSet
  repeat' first
    | with_reducible assumption
    | (lift_lets; intro x)
    | (with_reducible apply State.setSite_keeps)

theorem dropOpens_keeps (s : State) (i job key : Nat) {q0 : State} (hK : Keeps q0 s) :
    Keeps q0 (dropOpens s i job key) := by
  unfold dropOpens
  repeat' first
    | with_reducible assumption
    | (lift_lets; intro x)
    | (with_reducible apply State.setSite_keeps)
    | (with_reducible apply showOpen_keeps)

theorem wbEnd_keeps (s : State) (i num st : Nat) (remote : Bool) {q0 : State} (hK : Keeps q0 s) :
    Keeps q0 (wbEnd s i num st remote) := by
  unfold wbEnd
  repeat' first
    | with_reducible assumption
    | (with_reducible apply Keeps.ite)
    | (with_reducible apply dropOpens_keeps)
    | (with_reducible apply wbSet_keeps)
    | split

theorem pushData_keeps (s : State) (ep k n : Nat) (last : Bool) (l : Line) {q0 : State} (hK : Keeps q0 s) :
    Keeps q0 (pushData s ep k n last l) := by
  unfold pushData
  repeat' first
    | with_reducible assumption
    | (lift_lets; intro x)
    | (intro x)
    | (with_reducible apply State.setStream_keeps)

theorem closeWindow_keeps (s : State) (i : Nat) (w : Held) {q0 : State} (hK : Keeps q0 s) :
    Keeps q0 (closeWindow s i w) := by
  unfold closeWindow
  repeat' first
    | with_reducible assumption
    | (lift_lets; intro x)
    | (intro x)
    | (with_reducible apply Keeps.ite)
    | (with_reducible apply State.setCore_keeps)
    | (with_reducible apply State.wr_keeps)

theorem verifyChunk_keeps (s : State) (i num : Nat) {q0 : State} (hK : Keeps q0 s) :
    Keeps q0 (verifyChunk s i num) := by
  unfold verifyChunk
  repeat' first
    | with_reducible assumption
    | (lift_lets; intro x)
    | (intro x)
    | (with_reducible apply Keeps.ite)
    | (with_reducible apply wbEnd_keeps)
    | (with_reducible apply wbSet_keeps)
    | split

theorem countMoved_keeps (s : State) (i n : Nat) {q0 : State} (hK : Keeps q0 s) :
    Keeps q0 (countMoved s i n) := by
  unfold countMoved
  repeat' first
    | with_reducible assumption
    | (lift_lets; intro x)
    | (with_reducible apply State.setSite_keeps)

theorem wbGot_keeps (s : State) (i : Nat) (w : Held) (l : Line) {q0 : State} (hK : Keeps q0 s) :
    Keeps q0 (wbGot s i w l) := by
  unfold wbGot
  repeat' first
    | with_reducible assumption
    | (intro x; refine Keeps.cut (q := q0) (x := x) ?_ ?_; pick_goal 2; clear_value x; intro hx)
    | (lift_lets; intro x)
    | (intro x)
    | (with_reducible apply Keeps.ite)
    | (with_reducible apply askOpen_keeps)
    | (with_reducible apply countMoved_keeps)
    | (with_reducible apply pushData_keeps)
    | (with_reducible apply wbEnd_keeps)
    | (with_reducible apply wbSet_keeps)
    | (exact OptKeeps.get (by assumption : spacePut _ _ _ _ _ _ _ _ = some _) (spacePut_keeps _ _ _ _ _ _ _ _ (by with_reducible assumption)))
    | split

theorem circVerify_keeps (s : State) (i : Nat) (w : Held) {q0 : State} (hK : Keeps q0 s) :
    Keeps q0 (circVerify s i w).1 := by
  unfold circVerify
  repeat' first
    | with_reducible assumption
    | (lift_lets; intro x)
    | (intro x)
    | (with_reducible apply wbEnd_keeps)
    | (with_reducible apply wbSet_keeps)
    | (with_reducible apply Keeps.iteFst)

theorem wbStep_keeps (fuel : Nat) (s : State) (i num : Nat) {q0 : State} (hK : Keeps q0 s) :
    Keeps q0 (wbStep fuel s i num) := by
  induction fuel generalizing s i num with
  | zero =>
   unfold wbStep
   repeat' first
    | with_reducible assumption
  | succ fuel ih =>
   unfold wbStep
   repeat' first
    | (with_reducible apply ih)
    | with_reducible assumption
    | (intro x; refine Keeps.cut (q := q0) (x := x) ?_ ?_; pick_goal 2; clear_value x; intro hx)
    | (intro x; refine Keeps.cut (q := q0) (x := x.1) ?_ ?_; pick_goal 2; clear_value x; intro hx)
    | (lift_lets; intro x)
    | (intro x)
    | (with_reducible apply Keeps.ite)
    | (with_reducible apply askOpen_keeps)
    | (with_reducible apply circVerify_keeps)
    | (with_reducible apply closeWindow_keeps)
    | (with_reducible apply wbEnd_keeps)
    | (with_reducible apply wbGot_keeps)
    | (with_reducible apply wbSet_keeps)
    | split

theorem wbWrote_keeps (s : State) (i : Nat) (w : Held) {q0 : State} (hK : Keeps q0 s) : Keeps q0 (wbWrote s i w) := by
  unfold wbWrote
  extract_lets n l rd s1 s2
  have h1 : Keeps q0 s1 := countMoved_keeps _ _ _ (wbSet_keeps _ _ _ hK)
  have h2 : Keeps q0 s2 := Keeps.ite (pushData_keeps _ _ _ _ _ _ h1) h1
  exact wbStep_keeps _ _ _ _ (verifyChunk_keeps _ _ _ h2)

theorem showCtx_keeps (s : State) (ep k : Nat) {q0 : State} (hK : Keeps q0 s) :
    Keeps q0 (showCtx s ep k) := by
  unfold showCtx
  repeat' first
    | with_reducible assumption
    | (intro x; refine Keeps.cut (q := q0) (x := x) ?_ ?_; pick_goal 2; clear_value x; intro hx)
    | (lift_lets; intro x)
    | (intro x)
    | (with_reducible apply Keeps.ite)
    | (with_reducible apply State.wr_keeps)

theorem giveDone_keeps (s : State) (ep k st : Nat) {q0 : State} (hK : Keeps q0 s) :
    Keeps q0 (giveDone s ep k st) := by
  unfold giveDone
  repeat' first
    | with_reducible assumption
    | (lift_lets; intro x)
    | (intro x)
    | (with_reducible apply Keeps.ite)
    | (with_reducible apply State.setCtx_keeps)
    | (with_reducible apply emitBack_keeps)

theorem ctxLand_keeps (s : State) (ep k : Nat) (ok : Bool) {q0 : State} (hK : Keeps q0 s) :
    Keeps q0 (ctxLand s ep k ok) := by
  unfold ctxLand
  repeat' first
    | with_reducible assumption
    | (lift_lets; intro x)
    | (with_reducible apply State.setCtx_keeps)
    | (with_reducible apply landEnd_keeps)
    | (dsimp -zeta only [x])
    | split

theorem ctxFinish_keeps (s : State) (ep k st : Nat) {q0 : State} (hK : Keeps q0 s) :
    Keeps q0 (ctxFinish s ep k st) := by
  unfold ctxFinish
  repeat' first
    | with_reducible assumption
    | (with_reducible apply Keeps.ite)
    | (with_reducible apply ctxLand_keeps)
    | (with_reducible apply giveDone_keeps)

theorem finish_keeps (s : State) (ep k st : Nat) (remote : Bool) (bytes : Nat) {q0 : State} (hK : Keeps q0 s) :
    Keeps q0 (finish s ep k st remote bytes) := by
  unfold finish
  repeat' first
    | with_reducible assumption
    | (intro x; refine Keeps.cut (q := q0) (x := x) ?_ ?_; pick_goal 2; clear_value x; intro hx)
    | (lift_lets; intro x)
    | (intro x)
    | (with_reducible apply Keeps.ite)
    | (with_reducible apply State.setCtx_keeps)
    | (with_reducible apply State.setStream_keeps)
    | (with_reducible apply collSliceEnd_keeps)
    | (with_reducible apply ctxFinish_keeps)
    | (with_reducible apply dropOpens_keeps)
    | (with_reducible apply setStreamState_keeps)
    | (with_reducible apply wbEnd_keeps)
    | (with_reducible apply wbSet_keeps)
    | (dsimp -zeta only [x])
    | split

theorem breakStream_keeps (s : State) (ep k : Nat) {q0 : State} (hK : Keeps q0 s) :
    Keeps q0 (breakStream s ep k) := by
  unfold breakStream
  repeat' first
    | with_reducible assumption
    | (intro x; refine Keeps.cut (q := q0) (x := x) ?_ ?_; pick_goal 2; clear_value x; intro hx)
    | (lift_lets; intro x)
    | (intro x)
    | (with_reducible apply Keeps.ite)
    | (with_reducible apply State.setBit_keeps)
    | (with_reducible apply finish_keeps)
    | (with_reducible apply setStreamState_keeps)

theorem retry_keeps (s : State) (ep k : Nat) {q0 : State} (hK : Keeps q0 s) :
    Keeps q0 (retry s ep k) := by
  unfold retry
  repeat' first
    | with_reducible assumption
    | (with_reducible apply resend_keeps)
    | (with_reducible apply OptKeeps.getD)
    | (with_reducible apply breakStream_keeps)

theorem retryBack_keeps (s : State) (ep k : Nat) {q0 : State} (hK : Keeps q0 s) :
    Keeps q0 (retryBack s ep k) := by
  unfold retryBack
  repeat' first
    | with_reducible assumption
    | (intro x; refine Keeps.cut (q := q0) (x := x) ?_ ?_; pick_goal 2; clear_value x; intro hx)
    | (lift_lets; intro x)
    | (intro x)
    | (with_reducible apply Keeps.ite)
    | (with_reducible apply State.setCtx_keeps)
    | (with_reducible apply breakStream_keeps)
    | (exact OptKeeps.get (by assumption : resendBack _ _ _ = some _) (resendBack_keeps _ _ _ (by with_reducible assumption)))
    | split

theorem circAdvance_keeps (s : State) (ep k : Nat) {q0 : State} (hK : Keeps q0 s) : Keeps q0 (circAdvance s ep k) := by
  unfold circAdvance
  extract_lets m open_ least s1
  have h1 : Keeps q0 s1 := by
    clear_value least
    cases least with
    | some v => exact State.setStream_keeps _ _ _ _ hK
    | none => exact hK
  clear_value s1
  split
  · exact h1
  · exact Keeps.ite (finish_keeps _ _ _ _ _ _ (wbSet_keeps _ _ _ h1)) h1

theorem circEnd_keeps (s : State) (ep k t code : Nat) {q0 : State} (hK : Keeps q0 s) :
    Keeps q0 (circEnd s ep k t code) := by
  unfold circEnd
  repeat' first
    | with_reducible assumption
    | (lift_lets; intro x)
    | (with_reducible apply Keeps.ite)
    | (with_reducible apply State.setStream_keeps)
    | (with_reducible apply circAdvance_keeps)

theorem streamDelivered_keeps (s : State) (ep k : Nat) {q0 : State} (hK : Keeps q0 s) : Keeps q0 (streamDelivered s ep k) := by
  unfold streamDelivered
  extract_lets m x
  split
  · exact hK
  · extract_lets n ack m1 s1 s2 s3
    have h1 : Keeps q0 s1 := State.setStream_keeps _ _ _ _ hK
    have h2 : Keeps q0 s2 := Keeps.ite (countMoved_keeps _ _ _ h1) h1
    have h3 : Keeps q0 s3 := Keeps.ite (streamAck_keeps _ _ _ _ _ h2) h2
    clear_value s3
    refine Keeps.ite h3 ?_
    split
    · exact h3
    · extract_lets s4 s5
      have h4 : Keeps q0 s4 := verifyChunk_keeps _ _ _ (wbSet_keeps _ _ _ h3)
      have h5 : Keeps q0 s5 := Keeps.ite (closeWindow_keeps _ _ _ h4) h4
      clear_value s5
      split
      · exact finish_keeps _ _ _ _ _ _ h5
      · exact h5

theorem streamPump_keeps (fuel : Nat) (s : State) (ep k : Nat) {q0 : State} (hK : Keeps q0 s) :
    Keeps q0 (streamPump fuel s ep k) := by
  induction fuel generalizing s ep k with
  | zero =>
   unfold streamPump
   repeat' first
    | with_reducible assumption
  | succ fuel ih =>
   unfold streamPump
   repeat' first
    | (with_reducible apply ih)
    | with_reducible assumption
    | (intro x; refine Keeps.cut (q := q0) (x := x) ?_ ?_; pick_goal 2; clear_value x; intro hx)
    | (lift_lets; intro x; refine Keeps.cut (q := q0) (x := x) ?_ ?_; pick_goal 2; clear_value x; intro hx)
    | (lift_lets; intro x)
    | (intro x)
    | (with_reducible apply Keeps.ite)
    | (with_reducible apply State.setCtx_keeps)
    | (with_reducible apply State.setStream_keeps)
    | (with_reducible apply askOpen_keeps)
    | (with_reducible apply finish_keeps)
    | (with_reducible apply streamDelivered_keeps)
    | (with_reducible apply wbSet_keeps)
    | (exact OptKeeps.get (by assumption : spacePut _ _ _ _ _ _ _ _ = some _) (spacePut_keeps _ _ _ _ _ _ _ _ (by with_reducible assumption)))
    | (dsimp -zeta only [x])
    | split

theorem ctxDrop_keeps (s : State) (ep k : Nat) {q0 : State} (hK : Keeps q0 s) :
    Keeps q0 (ctxDrop s ep k) := by
  unfold ctxDrop
  repeat' first
    | with_reducible assumption
    | (lift_lets; intro x; refine Keeps.cut (q := q0) (x := x) ?_ ?_; pick_goal 2; clear_value x; intro hx)
    | (with_reducible apply Keeps.ite)
    | (with_reducible apply State.setCtx_keeps)
    | (with_reducible apply dropOpens_keeps)
    | (with_reducible apply showCtx_keeps)

theorem ctxDelivered_keeps (s : State) (ep k : Nat) {q0 : State} (hK : Keeps q0 s) : Keeps q0 (ctxDelivered s ep k) := by
  unfold ctxDelivered
  extract_lets c x got
  split
  · exact hK
  · extract_lets n ack c1 s1 s2 s3
    have h1 : Keeps q0 s1 := showCtx_keeps _ _ _ (State.setCtx_keeps _ _ _ _ hK)
    have h2 : Keeps q0 s2 := Keeps.ite (ctxAck_keeps _ _ _ _ _ h1) h1
    have h3 : Keeps q0 s3 := Keeps.ite (collSliceIn_keeps _ _ _ _ _ _ _ _ h2) h2
    exact Keeps.ite (ctxFinish_keeps _ _ _ _ h3) h2

theorem respStep_keeps (s : State) (ep k : Nat) {q0 : State} (hK : Keeps q0 s) :
    Keeps q0 (respStep s ep k) := by
  unfold respStep
  repeat' first
    | with_reducible assumption
    | (intro x; refine Keeps.cut (q := q0) (x := x) ?_ ?_; pick_goal 2; clear_value x; intro hx)
    | (lift_lets; intro x)
    | (intro x)
    | (with_reducible apply Keeps.ite)
    | (with_reducible apply State.emit_keeps)
    | (with_reducible apply State.setCtx_keeps)
    | (with_reducible apply askOpen_keeps)
    | (with_reducible apply giveDone_keeps)
    | split

theorem respGot_keeps (s : State) (ep k : Nat) (l : Line) {q0 : State} (hK : Keeps q0 s) :
    Keeps q0 (respGot s ep k l) := by
  unfold respGot
  repeat' first
    | with_reducible assumption
    | (lift_lets; intro x)
    | (intro x)
    | (with_reducible apply State.setCtx_keeps)
    | (with_reducible apply respStep_keeps)

theorem hubOpening_keeps (s : State) (h k panel r : Nat) (space : HubSpace) (e : Env) {q0 : State} (hK : Keeps q0 s) :
    Keeps q0 (hubOpening s h k panel r space e).2 := by
  unfold hubOpening
  repeat' first
    | with_reducible assumption
    | (intro x; refine Keeps.cut (q := q0) (x := x.2) ?_ ?_; pick_goal 2; clear_value x; intro hx)
    | (lift_lets; intro x)
    | (intro x)
    | (with_reducible apply Keeps.ite)
    | (with_reducible apply State.bump_keeps)
    | (with_reducible apply State.draw_keeps)
    | (with_reducible apply State.setBit_keeps)
    | (dsimp -zeta only [x])
    | split

theorem opening_keeps (s : State) (ep k : Nat) (c : Ctx) (space : HubSpace) (e : Env) {q0 : State} (hK : Keeps q0 s) :
    Keeps q0 (opening s ep k c space e).2.1 := by
  unfold opening
  split
  · exact hubOpening_keeps _ _ _ _ _ _ _ hK
  · extract_lets addr len st
    split
    · exact hK
    · split
      · have h := landMake_keeps s ep (addr % 2 ^ 40) len hK
        split <;> next e => rw [e] at h; exact h
      · exact hK

theorem ctxOpen_keeps (s : State) (ep k : Nat) (e : Env) {q0 : State} (hK : Keeps q0 s) : Keeps q0 (ctxOpen s ep k e).1 := by
  unfold ctxOpen
  extract_lets c
  have h := opening_keeps s ep k c c.space e hK
  generalize opening s ep k c c.space e = p at h
  obtain ⟨o, s1, z⟩ := p
  dsimp -zeta only at h ⊢
  extract_lets fresh
  split
  · exact ctxAck_keeps _ _ _ _ _ h
  · exact giveDone_keeps _ _ _ _ (ctxDelivered_keeps _ _ _ (State.setCtx_keeps _ _ _ _ h))
  · extract_lets c1 s2 s3
    have h2 : Keeps q0 s2 := State.setCtx_keeps _ _ _ _ h
    have h3 : Keeps q0 s3 := by
      simp only [s3]
      split
      · exact openStream_keeps _ _ _ _ h2
      · exact h2
    exact Keeps.iteFst h3 (respStep_keeps _ _ _ (ctxDelivered_keeps _ _ _ h3))

theorem ctxPump_keeps (fuel : Nat) (s : State) (ep k : Nat) {q0 : State} (hK : Keeps q0 s) :
    Keeps q0 (ctxPump fuel s ep k) := by
  induction fuel generalizing s ep k with
  | zero =>
   unfold ctxPump
   repeat' first
    | with_reducible assumption
  | succ fuel ih =>
   unfold ctxPump
   repeat' first
    | (with_reducible apply ih)
    | with_reducible assumption
    | (intro x; refine Keeps.cut (q := q0) (x := x) ?_ ?_; pick_goal 2; clear_value x; intro hx)
    | (intro x; refine Keeps.cut (q := q0) (x := x.1) ?_ ?_; pick_goal 2; clear_value x; intro hx)
    | (lift_lets; intro x)
    | (intro x)
    | (with_reducible apply Keeps.ite)
    | (with_reducible apply State.emit_keeps)
    | (with_reducible apply State.setCtx_keeps)
    | (with_reducible apply State.setStream_keeps)
    | (with_reducible apply askOpen_keeps)
    | (with_reducible apply ctxDelivered_keeps)
    | (with_reducible apply ctxFinish_keeps)
    | (with_reducible apply ctxOpen_keeps)
    | (dsimp -zeta only [x])
    | split

theorem onAck_keeps (s : State) (ep k : Nat) (e : Env) {q0 : State} (hK : Keeps q0 s) : Keeps q0 (onAck s ep k e) := by
  unfold onAck
  extract_lets m
  refine Keeps.ite hK (Keeps.ite ?_ (Keeps.ite ?_ ?_))
  · split
    · exact Keeps.ite hK (Keeps.ite (finish_keeps _ _ _ _ _ _ hK) (State.setStream_keeps _ _ _ _ hK))
    · exact hK
  · exact Keeps.ite (circAdvance_keeps _ _ _ (State.setStream_keeps _ _ _ _ hK)) hK
  · have h1 := State.setStream_keeps s ep k { m with tx := { (txAck m.tx e.seq.toNat).1 with wait := false } } hK
    exact Keeps.ite (ctxPump_keeps _ _ _ _ (Keeps.upTo (fun s a h => ctxDelivered_keeps _ _ _ h) h1)) h1

theorem onAckBack_keeps (s : State) (ep k : Nat) (e : Env) {q0 : State} (hK : Keeps q0 s) :
    Keeps q0 (onAckBack s ep k e) := by
  unfold onAckBack
  repeat' first
    | with_reducible assumption
    | (intro x; refine Keeps.cut (q := q0) (x := x) ?_ ?_; pick_goal 2; clear_value x; intro hx)
    | (lift_lets; intro x)
    | (intro x)
    | (with_reducible apply Keeps.ite)
    | (with_reducible refine Keeps.upTo (fun _ _ _ => ?_) ?_)
    | (with_reducible apply State.setCtx_keeps)
    | (with_reducible apply streamDelivered_keeps)

theorem onDone_keeps (s : State) (ep k : Nat) (e : Env) {q0 : State} (hK : Keeps q0 s) :
    Keeps q0 (onDone s ep k e) := by
  unfold onDone
  repeat' first
    | with_reducible assumption
    | (intro x; refine Keeps.cut (q := q0) (x := x) ?_ ?_; pick_goal 2; clear_value x; intro hx)
    | (lift_lets; intro x)
    | (intro x)
    | (with_reducible apply Keeps.ite)
    | (with_reducible apply State.setStream_keeps)
    | (with_reducible apply circEnd_keeps)
    | (with_reducible apply finish_keeps)
    | split

theorem onResponse_keeps (s : State) (ep k : Nat) (e : Env) {q0 : State} (hK : Keeps q0 s) : Keeps q0 (onResponse s ep k e) := by
  unfold onResponse
  extract_lets m
  refine Keeps.ite hK ?_
  split
  · exact streamAck_keeps _ _ _ _ _ (Keeps.ite (State.bump_keeps _ _ _ _ hK) hK)
  · exact Keeps.ite (State.setBit_keeps _ _ _ hK) hK
  · exact streamPump_keeps _ _ _ _ (State.setStream_keeps _ _ _ _ hK)

theorem onDup_keeps (s : State) (ep k : Nat) (e : Env) {q0 : State} (hK : Keeps q0 s) :
    Keeps q0 (onDup s ep k e) := by
  unfold onDup
  repeat' first
    | with_reducible assumption
    | (intro x; refine Keeps.cut (q := q0) (x := x) ?_ ?_; pick_goal 2; clear_value x; intro hx)
    | (lift_lets; intro x)
    | (with_reducible apply Keeps.ite)
    | (with_reducible apply State.bump_keeps)
    | (with_reducible apply ctxAck_keeps)
    | (with_reducible apply giveDone_keeps)
    | split

theorem requestGot_keeps (s : State) (ep k : Nat) (c : Ctx) (e : Env) (g : Got) {q0 : State} (hK : Keeps q0 s) :
    Keeps q0 (requestGot s ep k c e g) := by
  unfold requestGot
  repeat' first
    | with_reducible assumption
    | (with_reducible apply Keeps.ite)
    | (with_reducible apply State.setBit_keeps)
    | (with_reducible apply State.setCtx_keeps)
    | (with_reducible apply ctxPump_keeps)
    | (with_reducible apply onDup_keeps)
    | split

theorem onRequest_keeps (s : State) (ep k : Nat) (e : Env) {q0 : State} (hK : Keeps q0 s) :
    Keeps q0 (onRequest s ep k e) := by
  unfold onRequest
  repeat' first
    | with_reducible assumption
    | (lift_lets; intro x)
    | (intro x)
    | (with_reducible apply State.setCtx_keeps)
    | (with_reducible apply requestGot_keeps)

theorem takeOpen_keeps (s : State) (ep panel : Nat) (space : HubSpace) (e : Env) {q0 : State} (hK : Keeps q0 s) :
    Keeps q0 (takeOpen s ep panel space e) := by
  unfold takeOpen
  repeat' first
    | with_reducible assumption
    | (intro x; refine Keeps.cut (q := q0) (x := x) ?_ ?_; pick_goal 2; clear_value x; intro hx)
    | (lift_lets; intro x; refine Keeps.cut (q := q0) (x := x) ?_ ?_; pick_goal 2; clear_value x; intro hx)
    | (lift_lets; intro x)
    | (intro x)
    | (with_reducible apply Keeps.ite)
    | (with_reducible apply State.setCtx_keeps)
    | (with_reducible apply ctxAck_keeps)
    | (with_reducible apply ctxDrop_keeps)
    | (with_reducible apply ctxLand_keeps)
    | (with_reducible apply dropOpens_keeps)
    | (with_reducible apply onRequest_keeps)
    | (with_reducible apply showCtx_keeps)
    | (dsimp -zeta only [x])
    | split

theorem onData_keeps (s : State) (ep panel : Nat) (e : Env) {q0 : State} (hK : Keeps q0 s) :
    Keeps q0 (onData s ep panel e) := by
  unfold onData
  repeat' first
    | with_reducible assumption
    | (with_reducible apply Keeps.ite)
    | (with_reducible apply onRequest_keeps)
    | split

theorem circCut_keeps (s : State) (ep k j p : Nat) {q0 : State} (hK : Keeps q0 s) :
    Keeps q0 (circCut s ep k j p) := by
  unfold circCut
  repeat' first
    | with_reducible assumption
    | (lift_lets; intro x)
    | (intro x)
    | (with_reducible apply Keeps.ite)
    | (with_reducible refine Keeps.upTo (fun _ _ _ => ?_) ?_)
    | (with_reducible apply circEnd_keeps)

theorem onNotice_keeps (s : State) (ep panel : Nat) (resp : Bool) (e : Env) {q0 : State} (hK : Keeps q0 s) :
    Keeps q0 (onNotice s ep panel resp e) := by
  unfold onNotice
  repeat' first
    | with_reducible assumption
    | (intro x; refine Keeps.cut (q := q0) (x := x) ?_ ?_; pick_goal 2; clear_value x; intro hx)
    | (lift_lets; intro x)
    | (intro x)
    | (with_reducible apply Keeps.ite)
    | (with_reducible apply circCut_keeps)
    | (with_reducible apply collHopFail_keeps)
    | (with_reducible apply noteDown_keeps)
    | (with_reducible apply retry_keeps)
    | (with_reducible apply retryBack_keeps)
    | split

theorem receive_keeps (s : State) (ep panel : Nat) (resp : Bool) (space : HubSpace) (e : Env) {q0 : State} (hK : Keeps q0 s) :
    Keeps q0 (receive s ep panel resp space e) := by
  unfold receive
  repeat' first
    | with_reducible assumption
    | (intro x; refine Keeps.cut (q := q0) (x := x) ?_ ?_; pick_goal 2; clear_value x; intro hx)
    | (lift_lets; intro x)
    | (intro x)
    | (with_reducible apply Keeps.ite)
    | (with_reducible apply State.bump_keeps)
    | (with_reducible apply State.setBit_keeps)
    | (with_reducible apply countEj_keeps)
    | (with_reducible apply onAck_keeps)
    | (with_reducible apply onAckBack_keeps)
    | (with_reducible apply onData_keeps)
    | (with_reducible apply onDone_keeps)
    | (with_reducible apply onNotice_keeps)
    | (with_reducible apply onResponse_keeps)
    | (with_reducible apply takeOpen_keeps)
    | (dsimp -zeta only [x])
    | split

end Sys2Proof.Machine
end

