-- ==== Sys2Proof/Laws/KeepsPorts.lean ====
section
/-! SUPPORT. What waybills, courier events, open ports, frames, region requests and the fabric keep. Each lemma says of one function that a state which keeps what `q0` has still does so after it. -/

namespace Sys2Proof.Machine

theorem showPumps_keeps (s : State) (i : Nat) {q0 : State} (hK : Keeps q0 s) :
    Keeps q0 (showPumps s i) := by
  unfold showPumps
  repeat' first
    | with_reducible assumption
    | (lift_lets; intro x)
    | (intro x)
    | (with_reducible apply State.wr_keeps)

theorem takeWb_keeps (s : State) (i pump : Nat) (master : Bool) {q0 : State} (hK : Keeps q0 s) :
    Keeps q0 (takeWb s i pump master) := by
  unfold takeWb
  repeat' first
    | with_reducible assumption
    | (lift_lets; intro x)
    | (intro x)
    | (with_reducible apply Keeps.ite)
    | (with_reducible apply State.setSite_keeps)
    | (with_reducible apply showPumps_keeps)
    | (dsimp -zeta only)
    | (dsimp -zeta only [x])
    | split

theorem wbPost_keeps (s : State) (i pump : Nat) {q0 : State} (hK : Keeps q0 s) :
    Keeps q0 (wbPost s i pump) := by
  unfold wbPost
  repeat' first
    | with_reducible assumption
    | (lift_lets; intro x)
    | (intro x)
    | (with_reducible apply Keeps.ite)
    | (with_reducible apply State.setBit_keeps)
    | (with_reducible apply State.setSite_keeps)
    | (with_reducible apply State.wr_keeps)
    | (with_reducible apply badValue_keeps)
    | (with_reducible apply showPumps_keeps)

theorem wbMove_keeps (s : State) (i num : Nat) {q0 : State} (hK : Keeps q0 s) :
    Keeps q0 (wbMove s i num) := by
  unfold wbMove
  repeat' first
    | with_reducible assumption
    | (lift_lets; intro x; refine Keeps.cut (q := q0) (x := x) ?_ ?_; pick_goal 2; clear_value x; intro hx)
    | (with_reducible apply Keeps.ite)
    | (with_reducible apply circAdvance_keeps)
    | (with_reducible apply wbStep_keeps)
    | split

theorem startCirc_keeps (s : State) (i : Nat) (w : Held) {q0 : State} (hK : Keeps q0 s) :
    Keeps q0 (startCirc s i w) := by
  unfold startCirc
  repeat' first
    | with_reducible assumption
    | (intro x; refine Keeps.cut (q := q0) (x := x) ?_ ?_; pick_goal 2; clear_value x; intro hx)
    | (lift_lets; intro x)
    | (intro x)
    | (with_reducible apply Keeps.ite)
    | (with_reducible apply State.setStream_keeps)
    | (with_reducible apply openStream_keeps)
    | (with_reducible apply wbEnd_keeps)
    | (with_reducible apply wbMove_keeps)
    | (with_reducible apply wbSet_keeps)

theorem startWb_keeps (s : State) (i : Nat) (w : Held) {q0 : State} (hK : Keeps q0 s) : Keeps q0 (startWb s i w) := by
  unfold startWb
  refine Keeps.ite (wbEnd_keeps _ _ _ _ _ hK) ?_
  extract_lets r
  have hr : Keeps q0 r.1 := by
    simp only [r]
    split
    · exact hK
    · next off _ =>
      have h := landMake_keeps s i off (wbLen w.wb) hK
      split <;> next e => rw [e] at h; exact h
  clear_value r
  obtain ⟨s1, o⟩ := r
  cases o with
  | none => exact hr
  | some z =>
    refine Keeps.ite (startCirc_keeps _ _ _ hr) (wbMove_keeps _ _ _ ?_)
    exact Keeps.ite (wbSet_keeps _ _ _ hr) (openStream_keeps _ _ _ _ (wbSet_keeps _ _ _ hr))

theorem startNext_keeps (s : State) (i pump : Nat) {q0 : State} (hK : Keeps q0 s) :
    Keeps q0 (startNext s i pump) := by
  unfold startNext
  repeat' first
    | with_reducible assumption
    | (with_reducible apply startWb_keeps)
    | split

theorem kickEvent_keeps (s : State) (c : CoreId) (cyc : Nat) {q0 : State} (hK : Keeps q0 s) :
    Keeps q0 (kickEvent s c cyc) := by
  unfold kickEvent
  repeat' first
    | with_reducible assumption
    | (intro x; refine Keeps.cut (q := q0) (x := x) ?_ ?_; pick_goal 2; clear_value x; intro hx)
    | (lift_lets; intro x)
    | (intro x)
    | (with_reducible apply Keeps.ite)
    | (with_reducible apply State.setSite_keeps)
    | (with_reducible apply enterSlack_keeps)
    | (with_reducible apply timerSource_keeps)

theorem wbFile_keeps (s : State) (i : Nat) (w : Held) (st : Nat) {q0 : State} (hK : Keeps q0 s) :
    Keeps q0 (wbFile s i w st) := by
  unfold wbFile
  repeat' first
    | with_reducible assumption
    | (intro x; refine Keeps.cut (q := q0) (x := x) ?_ ?_; pick_goal 2; clear_value x; intro hx)
    | (lift_lets; intro x)
    | (intro x)
    | (with_reducible apply Keeps.ite)
    | (with_reducible apply State.bump_keeps)
    | (with_reducible apply State.setBit_keeps)
    | (with_reducible apply evqPut_keeps)
    | (with_reducible apply logAdd_keeps)
    | (with_reducible apply qPut_keeps)

theorem completeWb_keeps (s : State) (i num cyc : Nat) {q0 : State} (hK : Keeps q0 s) :
    Keeps q0 (completeWb s i num cyc) := by
  unfold completeWb
  repeat' first
    | with_reducible assumption
    | (intro x; refine Keeps.cut (q := q0) (x := x) ?_ ?_; pick_goal 2; clear_value x; intro hx)
    | (lift_lets; intro x; refine Keeps.cut (q := q0) (x := x) ?_ ?_; pick_goal 2; clear_value x; intro hx)
    | (lift_lets; intro x)
    | (intro x)
    | (with_reducible apply Keeps.ite)
    | (with_reducible apply State.bump_keeps)
    | (with_reducible apply State.setBit_keeps)
    | (with_reducible apply State.setSite_keeps)
    | (with_reducible apply State.wr_keeps)
    | (with_reducible apply State.wrap_keeps)
    | (with_reducible apply closeWindow_keeps)
    | (with_reducible apply kickEvent_keeps)
    | (with_reducible apply landEnd_keeps)
    | (with_reducible apply showPumps_keeps)
    | (with_reducible apply wbFile_keeps)
    | (dsimp -zeta only [x])
    | split

theorem mayLeave_keeps (s : State) (h e n r : Nat) {q0 : State} (hK : Keeps q0 s) :
    Keeps q0 (mayLeave s h e n r).2 := by
  unfold mayLeave
  repeat' first
    | with_reducible assumption
    | (lift_lets; intro x)
    | (intro x)
    | (with_reducible apply State.setHub_keeps)
    | (dsimp -zeta only [x])
    | split

theorem sendOne_keeps (s : State) (ep k : Nat) (resp : Bool) (opp : Nat) {q0 : State} (hK : Keeps q0 s) :
    Keeps q0 (sendOne s ep k resp opp) := by
  unfold sendOne
  repeat' first
    | with_reducible assumption
    | (lift_lets; intro x; refine Keeps.cut (q := q0) (x := x.2) ?_ ?_; pick_goal 2; clear_value x; intro hx)
    | (lift_lets; intro x)
    | (intro x)
    | (with_reducible apply Keeps.ite)
    | (with_reducible apply mayLeave_keeps)
    | (with_reducible apply sendNext_keeps)
    | (with_reducible apply sendResp_keeps)
    | (dsimp -zeta only [x])
    | split

theorem circSilent_keeps (s : State) (ep k : Nat) {q0 : State} (hK : Keeps q0 s) :
    Keeps q0 (circSilent s ep k) := by
  unfold circSilent
  repeat' first
    | with_reducible assumption
    | (lift_lets; intro x)
    | (intro x)
    | (with_reducible refine Keeps.foldl (fun _ _ _ => ?_) ?_)
    | (with_reducible apply circEnd_keeps)

theorem ackTimeout_keeps (s : State) (ep k : Nat) (resp : Bool) {q0 : State} (hK : Keeps q0 s) :
    Keeps q0 (ackTimeout s ep k resp) := by
  unfold ackTimeout
  repeat' first
    | with_reducible assumption
    | (lift_lets; intro x)
    | (intro x)
    | (with_reducible apply Keeps.ite)
    | (with_reducible apply State.setStream_keeps)
    | (with_reducible apply circSilent_keeps)
    | (with_reducible apply retry_keeps)
    | (with_reducible apply retryBack_keeps)
    | (dsimp -zeta only [x])
    | split

theorem openRetry_keeps (s : State) (ep k : Nat) {q0 : State} (hK : Keeps q0 s) :
    Keeps q0 (openRetry s ep k) := by
  unfold openRetry
  repeat' first
    | with_reducible assumption
    | (intro x; refine Keeps.cut (q := q0) (x := x) ?_ ?_; pick_goal 2; clear_value x; intro hx)
    | (lift_lets; intro x)
    | (intro x)
    | (with_reducible apply Keeps.ite)
    | (with_reducible apply State.setStream_keeps)
    | (with_reducible apply countRetrans_keeps)
    | (with_reducible apply emitOut_keeps)
    | split

theorem ctxIdle_keeps (s : State) (ep k : Nat) {q0 : State} (hK : Keeps q0 s) :
    Keeps q0 (ctxIdle s ep k) := by
  unfold ctxIdle
  repeat' first
    | with_reducible assumption
    | (with_reducible apply Keeps.ite)
    | (with_reducible apply ctxDrop_keeps)
    | (with_reducible apply ctxLand_keeps)

theorem noticeOf_keeps (s : State) (i port : Nat) (resp : Bool) (e : Env) {q0 : State} (hK : Keeps q0 s) :
    Keeps q0 (noticeOf s i port resp e) := by
  unfold noticeOf
  repeat' first
    | with_reducible assumption
    | (lift_lets; intro x)
    | (with_reducible apply sendEnv_keeps)

theorem mirrorDown_keeps (s : State) (i port : Nat) {q0 : State} (hK : Keeps q0 s) :
    Keeps q0 (mirrorDown s i port) := by
  unfold mirrorDown
  repeat' first
    | with_reducible assumption
    | (intro x; refine Keeps.cut (q := q0) (x := x) ?_ ?_; pick_goal 2; clear_value x; intro hx)
    | (lift_lets; intro x)
    | (with_reducible apply Keeps.ite)
    | (with_reducible apply shadowEnd_keeps)

theorem linkFail_keeps (s : State) (i port : Nat) (lost : List (Bool × Env)) {q0 : State} (hK : Keeps q0 s) :
    Keeps q0 (linkFail s i port lost) := by
  unfold linkFail
  repeat' first
    | with_reducible assumption
    | (intro x; refine Keeps.cut (q := q0) (x := x) ?_ ?_; pick_goal 2; clear_value x; intro hx)
    | (lift_lets; intro x)
    | (intro x)
    | (with_reducible refine Keeps.foldl (fun _ _ _ => ?_) ?_)
    | (with_reducible apply State.orBits_keeps)
    | (with_reducible apply State.setBit_keeps)
    | (with_reducible apply State.wrap_keeps)
    | (with_reducible apply mirrorDown_keeps)
    | (with_reducible apply noticeOf_keeps)
    | (with_reducible apply siteEvent_keeps)

theorem linkReplay_keeps (s : State) (i port fails : Nat) (lost : List (Bool × Env)) {q0 : State} (hK : Keeps q0 s) :
    Keeps q0 (linkReplay s i port fails lost) := by
  unfold linkReplay
  repeat' first
    | with_reducible assumption
    | (lift_lets; intro x; refine Keeps.cut (q := q0) (x := x) ?_ ?_; pick_goal 2; clear_value x; intro hx)
    | (with_reducible apply Keeps.ite)
    | (with_reducible apply State.bump_keeps)
    | (with_reducible apply State.setBit_keeps)
    | (with_reducible apply linkFail_keeps)

theorem streamReset_keeps (s : State) (i k : Nat) {q0 : State} (hK : Keeps q0 s) :
    OptKeeps q0 (streamReset s i k) := by
  unfold streamReset
  repeat' first
    | with_reducible assumption
    | (with_reducible exact OptKeeps.none)
    | (with_reducible apply OptKeeps.some)
    | (intro x; refine Keeps.cut (q := q0) (x := x) ?_ ?_; pick_goal 2; clear_value x; intro hx)
    | (lift_lets; intro x)
    | (with_reducible apply OptKeeps.ite)
    | (with_reducible apply State.setStream_keeps)
    | (with_reducible apply State.wr_keeps)
    | (with_reducible apply setStreamState_keeps)

theorem swapRoutes_keeps (s : State) (i : Nat) {q0 : State} (hK : Keeps q0 s) :
    Keeps q0 (swapRoutes s i) := by
  unfold swapRoutes
  repeat' first
    | with_reducible assumption
    | (intro x; refine Keeps.cut (q := q0) (x := x) ?_ ?_; pick_goal 2; clear_value x; intro hx)
    | (lift_lets; intro x)
    | (intro x)
    | (with_reducible refine Keeps.upTo (fun _ _ _ => ?_) ?_)
    | (with_reducible apply State.setHub_keeps)
    | (with_reducible apply State.setSite_keeps)
    | (with_reducible apply State.wr_keeps)
    | (with_reducible apply State.wrPair_keeps)
    | split

theorem resumeNi_keeps (s : State) (i : Nat) {q0 : State} (hK : Keeps q0 s) :
    Keeps q0 (resumeNi s i) := by
  unfold resumeNi
  repeat' first
    | with_reducible assumption
    | (lift_lets; intro x; refine Keeps.cut (q := q0) (x := x) ?_ ?_; pick_goal 2; clear_value x; intro hx)
    | (with_reducible apply State.wr_keeps)
    | (with_reducible apply flushWaiting_keeps)
    | split

theorem drainEnd_keeps (s : State) (r : Nat) {q0 : State} (hK : Keeps q0 s) :
    Keeps q0 (drainEnd s r) := by
  unfold drainEnd
  repeat' first
    | with_reducible assumption
    | (lift_lets; intro x; refine Keeps.cut (q := q0) (x := x) ?_ ?_; pick_goal 2; clear_value x; intro hx)
    | (intro x)
    | (with_reducible apply State.setRegion_keeps)
    | (with_reducible apply State.wr_keeps)

theorem drainGo_keeps (s : State) (r : Nat) {q0 : State} (hK : Keeps q0 s) :
    OptKeeps q0 (drainGo s r) := by
  unfold drainGo
  repeat' first
    | with_reducible assumption
    | (with_reducible exact OptKeeps.none)
    | (with_reducible apply OptKeeps.some)
    | (with_reducible apply OptKeeps.ite)
    | (with_reducible refine Keeps.foldl (fun _ _ _ => ?_) ?_)
    | (with_reducible apply State.wr_keeps)

theorem drainDone_keeps (s : State) (r : Nat) {q0 : State} (hK : Keeps q0 s) :
    Keeps q0 (drainDone s r) := by
  unfold drainDone
  repeat' first
    | with_reducible assumption
    | (lift_lets; intro x)
    | (with_reducible apply Keeps.ite)
    | (with_reducible apply State.wr_keeps)
    | (with_reducible apply pfSet_keeps)

theorem drainTimeout_keeps (s : State) (r : Nat) {q0 : State} (hK : Keeps q0 s) :
    Keeps q0 (drainTimeout s r) := by
  unfold drainTimeout
  repeat' first
    | with_reducible assumption
    | (with_reducible apply Keeps.ite)
    | (with_reducible apply State.wr_keeps)
    | (with_reducible apply pfSet_keeps)

theorem swapGo_keeps (s : State) (r : Nat) {q0 : State} (hK : Keeps q0 s) :
    OptKeeps q0 (swapGo s r) := by
  unfold swapGo
  repeat' first
    | with_reducible assumption
    | (with_reducible exact OptKeeps.none)
    | (with_reducible apply OptKeeps.some)
    | (lift_lets; intro x)
    | (with_reducible apply OptKeeps.ite)
    | (with_reducible apply State.setRegion_keeps)

theorem drainAbort_keeps (s : State) (r : Nat) {q0 : State} (hK : Keeps q0 s) :
    OptKeeps q0 (drainAbort s r) := by
  unfold drainAbort
  repeat' first
    | with_reducible assumption
    | (with_reducible exact OptKeeps.none)
    | (with_reducible apply OptKeeps.some)
    | (with_reducible apply OptKeeps.ite)
    | (with_reducible refine Keeps.foldl (fun _ _ _ => ?_) ?_)
    | (with_reducible apply drainEnd_keeps)
    | (with_reducible apply resumeNi_keeps)

theorem swapAtMark_keeps (s : State) (i fc : Nat) {q0 : State} (hK : Keeps q0 s) :
    Keeps q0 (swapAtMark s i fc) := by
  unfold swapAtMark
  repeat' first
    | with_reducible assumption
    | (intro x; refine Keeps.cut (q := q0) (x := x) ?_ ?_; pick_goal 2; clear_value x; intro hx)
    | (lift_lets; intro x)
    | (intro x)
    | (with_reducible apply Keeps.ite)
    | (with_reducible apply State.setBit_keeps)
    | (with_reducible apply State.setRegion_keeps)
    | (with_reducible apply State.wr_keeps)
    | (with_reducible apply resumeNi_keeps)
    | (with_reducible apply swapRoutes_keeps)
    | (dsimp -zeta only [x])
    | split

theorem jobWaybill_keeps (s : State) (i : Nat) (q : OpenReq) (l : Line) {q0 : State} (hK : Keeps q0 s) :
    Keeps q0 (jobWaybill s i q l) := by
  unfold jobWaybill
  repeat' first
    | with_reducible assumption
    | (lift_lets; intro x)
    | (intro x)
    | (with_reducible apply Keeps.ite)
    | (with_reducible apply wbGot_keeps)
    | (with_reducible apply wbMove_keeps)
    | (with_reducible apply wbSet_keeps)
    | (with_reducible apply wbWrote_keeps)
    | split

theorem jobCtx_keeps (s : State) (i : Nat) (q : OpenReq) (l : Line) {q0 : State} (hK : Keeps q0 s) :
    Keeps q0 (jobCtx s i q l) := by
  unfold jobCtx
  repeat' first
    | with_reducible assumption
    | (intro x; refine Keeps.cut (q := q0) (x := x) ?_ ?_; pick_goal 2; clear_value x; intro hx)
    | (lift_lets; intro x)
    | (intro x)
    | (with_reducible apply Keeps.ite)
    | (with_reducible apply State.setCtx_keeps)
    | (with_reducible apply ctxDelivered_keeps)
    | (with_reducible apply ctxPump_keeps)
    | (with_reducible apply respGot_keeps)

theorem jobStream_keeps (s : State) (i : Nat) (q : OpenReq) {q0 : State} (hK : Keeps q0 s) :
    Keeps q0 (jobStream s i q) := by
  unfold jobStream
  repeat' first
    | with_reducible assumption
    | (intro x; refine Keeps.cut (q := q0) (x := x) ?_ ?_; pick_goal 2; clear_value x; intro hx)
    | (lift_lets; intro x)
    | (intro x)
    | (with_reducible apply Keeps.ite)
    | (with_reducible apply State.setStream_keeps)
    | (with_reducible apply streamDelivered_keeps)
    | (with_reducible apply streamPump_keeps)

theorem serveOpen_keeps (s : State) (i : Nat) (q : OpenReq) {q0 : State} (hK : Keeps q0 s) :
    Keeps q0 (serveOpen s i q) := by
  unfold serveOpen
  repeat' first
    | with_reducible assumption
    | (intro x; refine Keeps.cut (q := q0) (x := x) ?_ ?_; pick_goal 2; clear_value x; intro hx)
    | (intro x; refine Keeps.cut (q := q0) (x := x.1) ?_ ?_; pick_goal 2; clear_value x; intro hx)
    | (lift_lets; intro x)
    | (with_reducible apply State.setSite_keeps)
    | (with_reducible apply jobCtx_keeps)
    | (with_reducible apply jobStream_keeps)
    | (with_reducible apply jobWaybill_keeps)
    | (with_reducible apply openRead_keeps)
    | (with_reducible apply openWrite_keeps)
    | (with_reducible apply showOpen_keeps)
    | (with_reducible apply Keeps.iteFst)
    | split

theorem noteGrant_keeps (s : State) (c : CoreId) (wait : Nat) {q0 : State} (hK : Keeps q0 s) :
    Keeps q0 (noteGrant s c wait) := by
  unfold noteGrant
  repeat' first
    | with_reducible assumption
    | (lift_lets; intro x)
    | (with_reducible apply State.setCore_keeps)

theorem atFrame_keeps (s : State) (i cyc : Nat) {q0 : State} (hK : Keeps q0 s) :
    Keeps q0 (atFrame s i cyc) := by
  unfold atFrame
  repeat' first
    | with_reducible assumption
    | (with_reducible apply atCycle_keeps)

theorem openGrant_keeps (s : State) (c : CoreId) (cyc wait : Nat) {q0 : State} (hK : Keeps q0 s) :
    Keeps q0 (openGrant s c cyc wait) := by
  unfold openGrant
  repeat' first
    | with_reducible assumption
    | (with_reducible apply Keeps.ite)
    | (with_reducible apply atFrame_keeps)
    | (with_reducible apply noteGrant_keeps)
    | (with_reducible apply serveOpen_keeps)
    | split

theorem noteSlice_keeps (s : State) (i wait : Nat) {q0 : State} (hK : Keeps q0 s) :
    Keeps q0 (noteSlice s i wait) := by
  unfold noteSlice
  repeat' first
    | with_reducible assumption
    | (lift_lets; intro x)
    | (with_reducible apply State.setSite_keeps)

theorem sliceGrant_keeps (s : State) (i sl cyc wait : Nat) {q0 : State} (hK : Keeps q0 s) :
    Keeps q0 (sliceGrant s i sl cyc wait) := by
  unfold sliceGrant
  repeat' first
    | with_reducible assumption
    | (with_reducible apply Keeps.ite)
    | (with_reducible apply atFrame_keeps)
    | (with_reducible apply noteSlice_keeps)
    | (with_reducible apply serveOpen_keeps)
    | split

theorem chargeSram_keeps (s : State) (i : Nat) {q0 : State} (hK : Keeps q0 s) :
    OptKeeps q0 (chargeSram s i) := by
  unfold chargeSram
  repeat' first
    | with_reducible assumption
    | (with_reducible exact OptKeeps.none)
    | (with_reducible apply OptKeeps.some)
    | (lift_lets; intro x)
    | (with_reducible apply OptKeeps.ite)
    | (with_reducible apply State.setSite_keeps)

theorem chargeWell_keeps (s : State) (i : Nat) {q0 : State} (hK : Keeps q0 s) :
    OptKeeps q0 (chargeWell s i) := by
  unfold chargeWell
  repeat' first
    | with_reducible assumption
    | (with_reducible exact OptKeeps.none)
    | (with_reducible apply OptKeeps.some)
    | (lift_lets; intro x)
    | (with_reducible apply OptKeeps.ite)
    | (with_reducible apply State.setSite_keeps)

theorem scrubWrite_keeps (s : State) (a ue : Nat) (half : Bool) {q0 : State} (hK : Keeps q0 s) : Keeps q0 (scrubWrite s a ue half) := by
  unfold scrubWrite
  refine hK.withMem _ (fun w => ?_)
  have hm := Memory.wf_iff.mp w
  exact Memory.wf_iff.mpr ⟨hm.1, keyWf_marksPut hm.2.1 _ _ _, keyWf_marksPut hm.2.2.1 _ _ _, keyWf_marksPut hm.2.2.2 _ _ _⟩

theorem scrubStep_keeps (s : State) (c : CoreId) (cyc bank line : Nat) {q0 : State} (hK : Keeps q0 s) :
    Keeps q0 (scrubStep s c cyc bank line) := by
  unfold scrubStep
  repeat' first
    | with_reducible assumption
    | (intro x; refine Keeps.cut (q := q0) (x := x) ?_ ?_; pick_goal 2; clear_value x; intro hx)
    | (lift_lets; intro x; refine Keeps.cut (q := q0) (x := x) ?_ ?_; pick_goal 2; clear_value x; intro hx)
    | (lift_lets; intro x)
    | (intro x)
    | (with_reducible apply Keeps.ite)
    | (with_reducible apply State.noteSp_keeps)
    | (with_reducible apply State.orBits_keeps)
    | (with_reducible apply State.setCore_keeps)
    | (with_reducible apply noteGrant_keeps)
    | (with_reducible apply scrubWrite_keeps)
    | (exact OptKeeps.get (by assumption : chargeSram _ _ = some _) (chargeSram_keeps _ _ (by with_reducible assumption)))
    | (dsimp -zeta only [x])
    | split

theorem cisAdvance_keeps (s : State) (i : Nat) {q0 : State} (hK : Keeps q0 s) :
    Keeps q0 (cisAdvance s i) := by
  unfold cisAdvance
  repeat' first
    | with_reducible assumption
    | (intro x; refine Keeps.cut (q := q0) (x := x) ?_ ?_; pick_goal 2; clear_value x; intro hx)
    | (lift_lets; intro x)
    | (intro x)
    | (with_reducible apply Keeps.ite)
    | (with_reducible apply State.setSite_keeps)
    | (with_reducible apply State.wr_keeps)
    | (with_reducible apply State.wrap_keeps)

theorem cisternScrub_keeps (s : State) (i sl cyc : Nat) {q0 : State} (hK : Keeps q0 s) :
    Keeps q0 (cisternScrub s i sl cyc) := by
  unfold cisternScrub
  repeat' first
    | with_reducible assumption
    | (intro x; refine Keeps.cut (q := q0) (x := x) ?_ ?_; pick_goal 2; clear_value x; intro hx)
    | (lift_lets; intro x; refine Keeps.cut (q := q0) (x := x) ?_ ?_; pick_goal 2; clear_value x; intro hx)
    | (lift_lets; intro x; clear_value x)
    | (intro x; clear_value x)
    | (with_reducible apply Keeps.ite)
    | (with_reducible apply State.orBits_keeps)
    | (with_reducible apply State.setSite_keeps)
    | (with_reducible apply cisAdvance_keeps)
    | (with_reducible apply noteCisWords_keeps)
    | (with_reducible apply noteSlice_keeps)
    | (with_reducible apply scrubWrite_keeps)
    | (exact OptKeeps.get (by assumption : chargeSram _ _ = some _) (chargeSram_keeps _ _ (by with_reducible assumption)))
    | split

theorem wellRefresh_keeps (s : State) (i cyc : Nat) {q0 : State} (hK : Keeps q0 s) :
    Keeps q0 (wellRefresh s i cyc) := by
  unfold wellRefresh
  repeat' first
    | with_reducible assumption
    | (lift_lets; intro x)
    | (with_reducible apply Keeps.ite)
    | (with_reducible refine Keeps.upTo (fun _ _ _ => ?_) ?_)
    | (with_reducible apply State.setSite_keeps)
    | (dsimp -zeta only [x])
    | split

theorem noteWellSlot_keeps (s : State) (i wait : Nat) {q0 : State} (hK : Keeps q0 s) :
    Keeps q0 (noteWellSlot s i wait) := by
  unfold noteWellSlot
  repeat' first
    | with_reducible assumption
    | (lift_lets; intro x)
    | (with_reducible apply State.setSite_keeps)

theorem wellService_keeps (s : State) (i ch cyc wait : Nat) {q0 : State} (hK : Keeps q0 s) :
    Keeps q0 (wellService s i ch cyc wait) := by
  unfold wellService
  repeat' first
    | with_reducible assumption
    | (lift_lets; intro x; refine Keeps.cut (q := q0) (x := x) ?_ ?_; pick_goal 2; clear_value x; intro hx)
    | (intro x)
    | (with_reducible apply Keeps.ite)
    | (with_reducible apply State.setSite_keeps)
    | (with_reducible apply noteWellHalves_keeps)
    | (with_reducible apply noteWellSlot_keeps)
    | (with_reducible apply serveOpen_keeps)
    | (dsimp -zeta only [x])
    | split

theorem wellAdvance_keeps (s : State) (i : Nat) {q0 : State} (hK : Keeps q0 s) :
    Keeps q0 (wellAdvance s i) := by
  unfold wellAdvance
  repeat' first
    | with_reducible assumption
    | (lift_lets; intro x)
    | (intro x)
    | (with_reducible apply Keeps.ite)
    | (with_reducible apply State.wr_keeps)
    | (with_reducible apply State.wrap_keeps)

theorem wellScrub_keeps (s : State) (i cyc : Nat) {q0 : State} (hK : Keeps q0 s) :
    Keeps q0 (wellScrub s i cyc) := by
  unfold wellScrub
  repeat' first
    | with_reducible assumption
    | (intro x; refine Keeps.cut (q := q0) (x := x) ?_ ?_; pick_goal 2; clear_value x; intro hx)
    | (lift_lets; intro x; refine Keeps.cut (q := q0) (x := x) ?_ ?_; pick_goal 2; clear_value x; intro hx)
    | (lift_lets; intro x)
    | (intro x)
    | (with_reducible apply Keeps.ite)
    | (with_reducible apply State.orBits_keeps)
    | (with_reducible apply State.setSite_keeps)
    | (with_reducible apply noteWellHalves_keeps)
    | (with_reducible apply noteWellSlot_keeps)
    | (with_reducible apply scrubWrite_keeps)
    | (with_reducible apply wellAdvance_keeps)
    | (exact OptKeeps.get (by assumption : chargeWell _ _ = some _) (chargeWell_keeps _ _ (by with_reducible assumption)))
    | (dsimp -zeta only [x])
    | split

theorem wstCheck_keeps (s : State) (i pw : Nat) {q0 : State} (hK : Keeps q0 s) : OptKeeps q0 (wstCheck s i pw) := by
  unfold wstCheck
  extract_lets p s1
  have h1 : Keeps q0 s1 := State.wr_keeps _ _ _ _ hK
  clear_value s1
  refine OptKeeps.ite OptKeeps.none ?_
  split
  · exact OptKeeps.some (State.wr_keeps _ _ _ _ h1)
  · exact OptKeeps.some (State.setBit_keeps _ _ _ (State.wr_keeps _ _ _ _ (State.wr_keeps _ _ _ _ (State.wr_keeps _ _ _ _ h1))))

theorem landClr_keeps (s : State) (i z : Nat) {q0 : State} (hK : Keeps q0 s) :
    OptKeeps q0 (landClr s i z) := by
  unfold landClr
  repeat' first
    | with_reducible assumption
    | (with_reducible exact OptKeeps.none)
    | (with_reducible apply OptKeeps.some)
    | (with_reducible apply OptKeeps.ite)
    | (with_reducible apply State.wr_keeps)
    | (with_reducible apply landFree_keeps)

theorem refuseOpens_keeps (s : State) (i : Nat) {q0 : State} (hK : Keeps q0 s) :
    Keeps q0 (refuseOpens s i) := by
  unfold refuseOpens
  repeat' first
    | with_reducible assumption
    | (intro x; refine Keeps.cut (q := q0) (x := x) ?_ ?_; pick_goal 2; clear_value x; intro hx)
    | (lift_lets; intro x)
    | (intro x)
    | (with_reducible refine Keeps.foldl (fun _ _ _ => ?_) ?_)
    | (with_reducible apply State.setBit_keeps)
    | (with_reducible apply State.setSite_keeps)
    | (with_reducible apply showOpen_keeps)
    | split

theorem endAt_keeps (s : State) (ep r : Nat) {q0 : State} (hK : Keeps q0 s) :
    Keeps q0 (endAt s ep r) := by
  unfold endAt
  repeat' first
    | with_reducible assumption
    | (intro x; refine Keeps.cut (q := q0) (x := x) ?_ ?_; pick_goal 2; clear_value x; intro hx)
    | (lift_lets; intro x)
    | (intro x)
    | (with_reducible apply Keeps.ite)
    | (with_reducible refine Keeps.foldl (fun _ _ _ => ?_) ?_)
    | (with_reducible apply State.setCtx_keeps)
    | (with_reducible apply ctxFinish_keeps)
    | (with_reducible apply finish_keeps)

theorem endTransfers_keeps (s : State) (i : Nat) {q0 : State} (hK : Keeps q0 s) :
    Keeps q0 (endTransfers s i) := by
  unfold endTransfers
  repeat' first
    | with_reducible assumption
    | (intro x; refine Keeps.cut (q := q0) (x := x) ?_ ?_; pick_goal 2; clear_value x; intro hx)
    | (lift_lets; intro x; refine Keeps.cut (q := q0) (x := x) ?_ ?_; pick_goal 2; clear_value x; intro hx)
    | (intro x)
    | (with_reducible refine Keeps.foldl (fun _ _ _ => ?_) ?_)
    | (with_reducible apply State.setSite_keeps)
    | (with_reducible apply endAt_keeps)
    | (with_reducible apply landClear_keeps)
    | (with_reducible apply refuseOpens_keeps)
    | (with_reducible apply wbEnd_keeps)

theorem noteBeat_keeps (s : State) (i d : Nat) (k : BeatKind) {q0 : State} (hK : Keeps q0 s) :
    Keeps q0 (noteBeat s i d k) := by
  unfold noteBeat
  repeat' first
    | with_reducible assumption
    | (intro x; refine Keeps.cut (q := q0) (x := x) ?_ ?_; pick_goal 2; clear_value x; intro hx)
    | (lift_lets; intro x)
    | (intro x)
    | (with_reducible apply Keeps.ite)
    | (with_reducible apply State.bump_keeps)
    | (with_reducible apply State.setBit_keeps)
    | (with_reducible apply State.setSite_keeps)
    | (with_reducible apply faultSite_keeps)
    | (with_reducible apply siteEvent_keeps)
    | split

theorem beatWrite_keeps (s : State) (c : CoreId) (b : Bind) (e j : Nat) (data : Nat) (poison : Bool) {q0 : State} (hK : Keeps q0 s) :
    Keeps q0 (beatWrite s c b e j data poison) := by
  unfold beatWrite
  repeat' first
    | with_reducible assumption
    | (intro x; refine Keeps.cut (q := q0) (x := x) ?_ ?_; pick_goal 2; clear_value x; intro hx)
    | (lift_lets; intro x)
    | (intro x)
    | (with_reducible apply Keeps.ite)
    | (with_reducible apply State.put_keeps)
    | (with_reducible apply atCycle_keeps)
    | (with_reducible apply digAdd_keeps)
    | (with_reducible apply mirrorPut_keeps)

theorem beatTake_keeps (s : State) (i e j : Nat) (b : Beat) {q0 : State} (hK : Keeps q0 s) : Keeps q0 (beatTake s i e j b) := by
  unfold beatTake
  extract_lets p bound
  clear_value bound
  cases b with
  | idle =>
    cases bound with
    | none => exact hK
    | some x =>
      exact beatWrite_keeps _ _ _ _ _ _ _ (State.bump_keeps _ _ _ _ (State.setBit_keeps _ _ _ (State.draw_keeps _ _ hK)))
  | word k data =>
    dsimp -zeta only
    extract_lets bad s1
    have h1 : Keeps q0 s1 := Keeps.ite hK (State.emit_keeps _ _ hK)
    clear_value s1
    cases bound with
    | some x => exact beatWrite_keeps _ _ _ _ _ _ _ h1
    | none => exact Keeps.ite (State.bump_keeps _ _ _ _ (State.setBit_keeps _ _ _ h1)) h1

theorem beatReceive_keeps (s : State) (i d w sl : Nat) (b : Beat) {q0 : State} (hK : Keeps q0 s) :
    Keeps q0 (beatReceive s i d w sl b) := by
  unfold beatReceive
  repeat' first
    | with_reducible assumption
    | (intro x; refine Keeps.cut (q := q0) (x := x) ?_ ?_; pick_goal 2; clear_value x; intro hx)
    | (lift_lets; intro x; clear_value x)
    | (intro x; clear_value x)
    | (with_reducible apply Keeps.ite)
    | (with_reducible apply State.bump_keeps)
    | (with_reducible apply State.setBit_keeps)
    | (with_reducible apply beatTake_keeps)
    | (with_reducible apply noteBeat_keeps)
    | (dsimp -zeta only [x])
    | split

theorem slotLeave_keeps (s : State) (r k st : Nat) {q0 : State} (hK : Keeps q0 s) :
    Keeps q0 (slotLeave s r k st) := by
  unfold slotLeave
  repeat' first
    | with_reducible assumption
    | (with_reducible apply Keeps.ite)
    | (with_reducible apply State.wr_keeps)
    | (with_reducible apply pfSet_keeps)

theorem slotCancel_keeps (s : State) (r k : Nat) {q0 : State} (hK : Keeps q0 s) :
    Keeps q0 (slotCancel s r k) := by
  unfold slotCancel
  repeat' first
    | with_reducible assumption
    | (intro x; refine Keeps.cut (q := q0) (x := x) ?_ ?_; pick_goal 2; clear_value x; intro hx)
    | (lift_lets; intro x)
    | (with_reducible apply Keeps.ite)
    | (with_reducible apply State.setRegion_keeps)
    | (with_reducible apply slotLeave_keeps)

theorem armCore_keeps (s : State) (c : CoreId) {q0 : State} (hK : Keeps q0 s) :
    Keeps q0 (armCore s c) := by
  unfold armCore
  repeat' first
    | with_reducible assumption
    | (intro x; refine Keeps.cut (q := q0) (x := x) ?_ ?_; pick_goal 2; clear_value x; intro hx)
    | (lift_lets; intro x)
    | (intro x)
    | (with_reducible apply State.setCore_keeps)
    | (with_reducible apply State.wr_keeps)

theorem arm_keeps (s : State) (c : CoreId) {q0 : State} (hK : Keeps q0 s) :
    OptKeeps q0 (arm s c) := by
  unfold arm
  repeat' first
    | with_reducible assumption
    | (with_reducible exact OptKeeps.none)
    | (with_reducible apply OptKeeps.some)
    | (with_reducible apply OptKeeps.ite)
    | (with_reducible apply armCore_keeps)

theorem armWrite_keeps (s : State) (c : CoreId) {q0 : State} (hK : Keeps q0 s) :
    Keeps q0 (armWrite s c) := by
  unfold armWrite
  repeat' first
    | with_reducible assumption
    | (with_reducible apply arm_keeps)
    | (with_reducible apply OptKeeps.getD)
    | (with_reducible apply State.setBit_keeps)
    | (with_reducible apply badValue_keeps)

theorem disarm_keeps (s : State) (c : CoreId) {q0 : State} (hK : Keeps q0 s) :
    Keeps q0 (disarm s c) := by
  unfold disarm
  repeat' first
    | with_reducible assumption
    | (with_reducible apply Keeps.ite)
    | (with_reducible apply State.wr_keeps)

theorem leaveFault_keeps (s : State) (r : Nat) {q0 : State} (hK : Keeps q0 s) :
    Keeps q0 (leaveFault s r) := by
  unfold leaveFault
  repeat' first
    | with_reducible assumption
    | (with_reducible apply Keeps.ite)
    | (with_reducible refine Keeps.foldl (fun _ _ _ => ?_) ?_)
    | (with_reducible apply State.wr_keeps)

theorem shadowStart_keeps (s : State) (c : CoreId) {q0 : State} (hK : Keeps q0 s) :
    Keeps q0 (shadowStart s c) := by
  unfold shadowStart
  repeat' first
    | with_reducible assumption
    | (intro x; refine Keeps.cut (q := q0) (x := x) ?_ ?_; pick_goal 2; clear_value x; intro hx)
    | (lift_lets; intro x)
    | (intro x)
    | (with_reducible apply Keeps.ite)
    | (with_reducible apply State.wr_keeps)
    | (with_reducible apply armCore_keeps)

theorem programStart_keeps (s : State) (c : CoreId) {q0 : State} (hK : Keeps q0 s) :
    Keeps q0 (programStart s c) := by
  unfold programStart
  repeat' first
    | with_reducible assumption
    | (intro x; refine Keeps.cut (q := q0) (x := x) ?_ ?_; pick_goal 2; clear_value x; intro hx)
    | (lift_lets; intro x)
    | (intro x)
    | (with_reducible apply Keeps.ite)
    | (with_reducible apply State.setCore_keeps)
    | (with_reducible apply State.wr_keeps)
    | (with_reducible apply leaveFault_keeps)
    | (with_reducible apply shadowStart_keeps)

theorem nextDilation_keeps (s : State) (r : Nat) {q0 : State} (hK : Keeps q0 s) :
    Keeps q0 (nextDilation s r) := by
  unfold nextDilation
  repeat' first
    | with_reducible assumption
    | (intro x; refine Keeps.cut (q := q0) (x := x) ?_ ?_; pick_goal 2; clear_value x; intro hx)
    | (lift_lets; intro x)
    | (intro x)
    | (with_reducible apply Keeps.ite)
    | (with_reducible apply State.setRegion_keeps)
    | (with_reducible apply State.wr_keeps)
    | (with_reducible apply pwrErr_keeps)

theorem extSummary_keeps (s : State) (r : Nat) {q0 : State} (hK : Keeps q0 s) :
    Keeps q0 (extSummary s r) := by
  unfold extSummary
  repeat' first
    | with_reducible assumption
    | (intro x; refine Keeps.cut (q := q0) (x := x) ?_ ?_; pick_goal 2; clear_value x; intro hx)
    | (lift_lets; intro x)
    | (intro x)
    | (with_reducible apply Keeps.ite)
    | (with_reducible apply State.setRegion_keeps)
    | (with_reducible apply regionEvent_keeps)

theorem capCheck_keeps (s : State) (r power : Nat) {q0 : State} (hK : Keeps q0 s) :
    Keeps q0 (capCheck s r power) := by
  unfold capCheck
  repeat' first
    | with_reducible assumption
    | (lift_lets; intro x)
    | (with_reducible apply Keeps.ite)
    | (with_reducible apply pwrErr_keeps)

theorem markGenerate_keeps (s : State) (r power : Nat) {q0 : State} (hK : Keeps q0 s) :
    Keeps q0 (markGenerate s r power) := by
  unfold markGenerate
  repeat' first
    | with_reducible assumption
    | (intro x; refine Keeps.cut (q := q0) (x := x) ?_ ?_; pick_goal 2; clear_value x; intro hx)
    | (lift_lets; intro x)
    | (intro x)
    | (with_reducible apply Keeps.ite)
    | (with_reducible apply State.emit_keeps)
    | (with_reducible apply State.setRegion_keeps)
    | (with_reducible apply capCheck_keeps)
    | (with_reducible apply extSummary_keeps)
    | (with_reducible apply nextDilation_keeps)

theorem markMessage_keeps (s : State) (i r fc t : Nat) {q0 : State} (hK : Keeps q0 s) :
    Keeps q0 (markMessage s i r fc t) := by
  unfold markMessage
  repeat' first
    | with_reducible assumption
    | (intro x; refine Keeps.cut (q := q0) (x := x) ?_ ?_; pick_goal 2; clear_value x; intro hx)
    | (lift_lets; intro x; refine Keeps.cut (q := q0) (x := x) ?_ ?_; pick_goal 2; clear_value x; intro hx)
    | (intro x)
    | (with_reducible apply Keeps.ite)
    | (with_reducible apply State.emit_keeps)
    | (with_reducible apply State.setBit_keeps)
    | (with_reducible apply State.setSite_keeps)

theorem noteSkipped_keeps (s : State) (c : CoreId) {q0 : State} (hK : Keeps q0 s) :
    Keeps q0 (noteSkipped s c) := by
  unfold noteSkipped
  repeat' first
    | with_reducible assumption
    | (lift_lets; intro x)
    | (intro x)
    | (with_reducible apply Keeps.ite)
    | (with_reducible apply State.setCore_keeps)
    | (dsimp -zeta only [x])
    | split

theorem coreFrameEnd_keeps (s : State) (c : CoreId) {q0 : State} (hK : Keeps q0 s) :
    Keeps q0 (coreFrameEnd s c) := by
  unfold coreFrameEnd
  repeat' first
    | with_reducible assumption
    | (intro x; refine Keeps.cut (q := q0) (x := x) ?_ ?_; pick_goal 2; clear_value x; intro hx)
    | (lift_lets; intro x; refine Keeps.cut (q := q0) (x := x) ?_ ?_; pick_goal 2; clear_value x; intro hx)
    | (intro x)
    | (with_reducible apply State.setCore_keeps)
    | (with_reducible apply State.wr_keeps)
    | (with_reducible apply noteSkipped_keeps)

theorem budgetEnd_keeps (s : State) (i : Nat) {q0 : State} (hK : Keeps q0 s) :
    Keeps q0 (budgetEnd s i) := by
  unfold budgetEnd
  repeat' first
    | with_reducible assumption
    | (intro x; refine Keeps.cut (q := q0) (x := x) ?_ ?_; pick_goal 2; clear_value x; intro hx)
    | (lift_lets; intro x)
    | (intro x)
    | (with_reducible apply State.setSite_keeps)
    | (with_reducible apply State.wr_keeps)

theorem portsEnd_keeps (s : State) (i : Nat) {q0 : State} (hK : Keeps q0 s) :
    Keeps q0 (portsEnd s i) := by
  unfold portsEnd
  repeat' first
    | with_reducible assumption
    | (intro x; refine Keeps.cut (q := q0) (x := x) ?_ ?_; pick_goal 2; clear_value x; intro hx)
    | (lift_lets; intro x)
    | (with_reducible apply State.setSite_keeps)
    | (with_reducible apply State.wr_keeps)

theorem lagEnd_keeps (s : State) (i : Nat) {q0 : State} (hK : Keeps q0 s) :
    Keeps q0 (lagEnd s i) := by
  unfold lagEnd
  repeat' first
    | with_reducible assumption
    | (intro x; refine Keeps.cut (q := q0) (x := x) ?_ ?_; pick_goal 2; clear_value x; intro hx)
    | (lift_lets; intro x)
    | (intro x)
    | (with_reducible apply Keeps.ite)
    | (with_reducible apply State.bump_keeps)
    | (with_reducible apply State.wr_keeps)
    | (with_reducible apply State.wrAll_keeps)
    | (dsimp -zeta only [x])
    | split

theorem clockEnd_keeps (s : State) (i : Nat) {q0 : State} (hK : Keeps q0 s) :
    Keeps q0 (clockEnd s i) := by
  unfold clockEnd
  repeat' first
    | with_reducible assumption
    | (intro x; refine Keeps.cut (q := q0) (x := x) ?_ ?_; pick_goal 2; clear_value x; intro hx)
    | (lift_lets; intro x)
    | (intro x)
    | (with_reducible apply Keeps.ite)
    | (with_reducible apply State.bump_keeps)
    | (with_reducible apply State.wr_keeps)
    | (with_reducible apply State.wrAll_keeps)

theorem ceEnd_keeps (s : State) (i : Nat) {q0 : State} (hK : Keeps q0 s) :
    Keeps q0 (ceEnd s i) := by
  unfold ceEnd
  repeat' first
    | with_reducible assumption
    | (intro x; refine Keeps.cut (q := q0) (x := x) ?_ ?_; pick_goal 2; clear_value x; intro hx)
    | (lift_lets; intro x)
    | (intro x)
    | (with_reducible apply Keeps.ite)
    | (with_reducible apply State.setBit_keeps)
    | (with_reducible apply State.setSite_keeps)
    | (with_reducible apply suspect_keeps)

theorem probeEnd_keeps (s : State) (i : Nat) {q0 : State} (hK : Keeps q0 s) :
    Keeps q0 (probeEnd s i) := by
  unfold probeEnd
  repeat' first
    | with_reducible assumption
    | (intro x; refine Keeps.cut (q := q0) (x := x) ?_ ?_; pick_goal 2; clear_value x; intro hx)
    | (lift_lets; intro x)
    | (intro x)
    | (with_reducible apply Keeps.ite)
    | (with_reducible apply State.setBit_keeps)
    | (with_reducible apply State.setSite_keeps)

theorem mirrorEnd_keeps (s : State) (i : Nat) {q0 : State} (hK : Keeps q0 s) :
    Keeps q0 (mirrorEnd s i) := by
  unfold mirrorEnd
  repeat' first
    | with_reducible assumption
    | (with_reducible apply spaceWrite_keeps)
    | (intro x; refine Keeps.cut (q := q0) (x := x) ?_ ?_; pick_goal 2; clear_value x; intro hx)
    | (lift_lets; intro x)
    | (intro x)
    | (with_reducible apply Keeps.ite)
    | (with_reducible apply OptKeeps.getD)
    | (with_reducible refine Keeps.foldl (fun _ _ _ => ?_) ?_)
    | (with_reducible apply State.setSite_keeps)
    | (with_reducible apply mirrorWrites_keeps)

theorem digestEnd_keeps (s : State) (i : Nat) {q0 : State} (hK : Keeps q0 s) :
    Keeps q0 (digestEnd s i) := by
  unfold digestEnd
  repeat' first
    | with_reducible assumption
    | (lift_lets; intro x; refine Keeps.cut (q := q0) (x := x) ?_ ?_; pick_goal 2; clear_value x; intro hx)
    | (intro x)
    | (with_reducible apply Keeps.ite)
    | (with_reducible apply State.setSite_keeps)
    | (with_reducible apply buddyDigest_keeps)
    | (with_reducible apply mirrorEnd_keeps)
    | (with_reducible apply shadowCompare_keeps)

theorem frameEnd_keeps (s : State) (i : Nat) {q0 : State} (hK : Keeps q0 s) :
    Keeps q0 (frameEnd s i) := by
  unfold frameEnd
  repeat' first
    | with_reducible assumption
    | (intro x; refine Keeps.cut (q := q0) (x := x) ?_ ?_; pick_goal 2; clear_value x; intro hx)
    | (lift_lets; intro x; refine Keeps.cut (q := q0) (x := x) ?_ ?_; pick_goal 2; clear_value x; intro hx)
    | (with_reducible apply Keeps.ite)
    | (with_reducible refine Keeps.foldl (fun _ _ _ => ?_) ?_)
    | (with_reducible apply budgetEnd_keeps)
    | (with_reducible apply ceEnd_keeps)
    | (with_reducible apply clockEnd_keeps)
    | (with_reducible apply coreFrameEnd_keeps)
    | (with_reducible apply digestEnd_keeps)
    | (with_reducible apply lagEnd_keeps)
    | (with_reducible apply portsEnd_keeps)
    | (with_reducible apply probeEnd_keeps)

theorem faultCores_keeps (s : State) (i : Nat) {q0 : State} (hK : Keeps q0 s) :
    Keeps q0 (faultCores s i) := by
  unfold faultCores
  repeat' first
    | with_reducible assumption
    | (intro x; refine Keeps.cut (q := q0) (x := x) ?_ ?_; pick_goal 2; clear_value x; intro hx)
    | (lift_lets; intro x)
    | (with_reducible apply Keeps.ite)
    | (with_reducible refine Keeps.foldl (fun _ _ _ => ?_) ?_)
    | (with_reducible apply State.setBit_keeps)
    | (with_reducible apply State.wr_keeps)
    | (with_reducible apply buddyEnds_keeps)

theorem faultPanel_keeps (s : State) (r : Nat) {q0 : State} (hK : Keeps q0 s) :
    Keeps q0 (faultPanel s r) := by
  unfold faultPanel
  repeat' first
    | with_reducible assumption
    | (intro x; refine Keeps.cut (q := q0) (x := x) ?_ ?_; pick_goal 2; clear_value x; intro hx)
    | (lift_lets; intro x)
    | (intro x)
    | (with_reducible apply Keeps.ite)
    | (with_reducible refine Keeps.upTo (fun _ _ _ => ?_) ?_)
    | (with_reducible apply State.setRegion_keeps)
    | (with_reducible apply State.wr_keeps)
    | (with_reducible apply pfSet_keeps)
    | (with_reducible apply regionEvent_keeps)
    | (with_reducible apply slotCancel_keeps)

theorem faultAtMark_keeps (s : State) (i f : Nat) (first : Bool) {q0 : State} (hK : Keeps q0 s) :
    Keeps q0 (faultAtMark s i f first) := by
  unfold faultAtMark
  repeat' first
    | with_reducible assumption
    | (intro x; refine Keeps.cut (q := q0) (x := x) ?_ ?_; pick_goal 2; clear_value x; intro hx)
    | (lift_lets; intro x)
    | (with_reducible apply Keeps.ite)
    | (with_reducible apply faultCores_keeps)
    | (with_reducible apply faultPanel_keeps)

theorem resumeAfterClear_keeps (s : State) (i : Nat) {q0 : State} (hK : Keeps q0 s) :
    Keeps q0 (resumeAfterClear s i) := by
  unfold resumeAfterClear
  repeat' first
    | with_reducible assumption
    | (lift_lets; intro x)
    | (with_reducible apply Keeps.ite)
    | (with_reducible apply State.setSite_keeps)
    | (with_reducible apply resumeNi_keeps)

theorem transAtMark_keeps (s : State) (i : Nat) {q0 : State} (hK : Keeps q0 s) :
    Keeps q0 (transAtMark s i) := by
  unfold transAtMark
  repeat' first
    | with_reducible assumption
    | (lift_lets; intro x)
    | (intro x)
    | (with_reducible apply State.setSite_keeps)
    | (with_reducible apply State.wr_keeps)

theorem timersAtMark_keeps (s : State) (i : Nat) {q0 : State} (hK : Keeps q0 s) :
    Keeps q0 (timersAtMark s i) := by
  unfold timersAtMark
  repeat' first
    | with_reducible assumption
    | (lift_lets; intro x)
    | (with_reducible apply Keeps.ite)
    | (with_reducible refine Keeps.foldl (fun _ _ _ => ?_) ?_)
    | (with_reducible apply State.setSite_keeps)
    | (with_reducible apply timerFrame_keeps)

theorem frameStart_keeps (s : State) (i f lag : Nat) {q0 : State} (hK : Keeps q0 s) :
    Keeps q0 (frameStart s i f lag) := by
  unfold frameStart
  repeat' first
    | with_reducible assumption
    | (intro x; refine Keeps.cut (q := q0) (x := x) ?_ ?_; pick_goal 2; clear_value x; intro hx)
    | (lift_lets; intro x)
    | (intro x)
    | (with_reducible apply Keeps.ite)
    | (with_reducible refine Keeps.foldl (fun _ _ _ => ?_) ?_)
    | (with_reducible apply State.setSite_keeps)
    | (with_reducible apply State.wr_keeps)
    | (with_reducible apply applyRegion_keeps)
    | (with_reducible apply applySite_keeps)
    | (with_reducible apply faultAtMark_keeps)
    | (with_reducible apply panelError_keeps)
    | (with_reducible apply resumeAfterClear_keeps)
    | (with_reducible apply showBusy_keeps)
    | (with_reducible apply swapAtMark_keeps)
    | (with_reducible apply timersAtMark_keeps)
    | (with_reducible apply transAtMark_keeps)

theorem frameMark_keeps (s : State) (i cyc lag slackT : Nat) {q0 : State} (hK : Keeps q0 s) :
    Keeps q0 (frameMark s i cyc lag slackT) := by
  unfold frameMark
  repeat' first
    | with_reducible assumption
    | (with_reducible apply Keeps.ite)
    | (with_reducible apply enterSlack_keeps)
    | (with_reducible apply frameEnd_keeps)
    | (with_reducible apply frameStart_keeps)
    | split

theorem lateLimit_keeps (s : State) (r cyc lag : Nat) {q0 : State} (hK : Keeps q0 s) :
    Keeps q0 (lateLimit s r cyc lag) := by
  unfold lateLimit
  repeat' first
    | with_reducible assumption
    | (lift_lets; intro x)
    | (with_reducible refine Keeps.foldl (fun _ _ _ => ?_) ?_)
    | (with_reducible apply coreTrap_keeps)

theorem extendFrame_keeps (s : State) (r : Nat) (n : Nat) {q0 : State} (hK : Keeps q0 s) :
    Keeps q0 (extendFrame s r n) := by
  unfold extendFrame
  repeat' first
    | with_reducible assumption
    | (intro x; refine Keeps.cut (q := q0) (x := x) ?_ ?_; pick_goal 2; clear_value x; intro hx)
    | (lift_lets; intro x)
    | (intro x)
    | (with_reducible apply Keeps.ite)
    | (with_reducible refine Keeps.foldl (fun _ _ _ => ?_) ?_)
    | (with_reducible apply State.setBit_keeps)
    | (with_reducible apply State.setRegion_keeps)
    | (with_reducible apply State.wr_keeps)
    | (with_reducible apply regionEvent_keeps)

theorem late_keeps (s : State) (i cyc lag : Nat) {q0 : State} (hK : Keeps q0 s) :
    Keeps q0 (late s i cyc lag) := by
  unfold late
  repeat' first
    | with_reducible assumption
    | (intro x; refine Keeps.cut (q := q0) (x := x) ?_ ?_; pick_goal 2; clear_value x; intro hx)
    | (lift_lets; intro x)
    | (intro x)
    | (with_reducible apply Keeps.ite)
    | (with_reducible apply State.bump_keeps)
    | (with_reducible apply State.setBit_keeps)
    | (with_reducible apply State.setSite_keeps)
    | (with_reducible apply State.wr_keeps)
    | (with_reducible apply extendFrame_keeps)
    | (with_reducible apply lateLimit_keeps)

theorem periodBoundary_keeps (s : State) (i : Nat) {q0 : State} (hK : Keeps q0 s) :
    Keeps q0 (periodBoundary s i) := by
  unfold periodBoundary
  repeat' first
    | with_reducible assumption
    | (with_reducible apply Keeps.ite)
    | (with_reducible apply applySite_keeps)
    | (with_reducible apply budgetEnd_keeps)

theorem collFile_keeps (s : State) (h g d rec_ : Nat) {q0 : State} (hK : Keeps q0 s) :
    Keeps q0 (collFile s h g d rec_) := by
  unfold collFile
  repeat' first
    | with_reducible assumption
    | (intro x; refine Keeps.cut (q := q0) (x := x) ?_ ?_; pick_goal 2; clear_value x; intro hx)
    | (lift_lets; intro x)
    | (with_reducible apply Keeps.ite)
    | (with_reducible apply State.bump_keeps)
    | (with_reducible apply State.setBit_keeps)
    | (with_reducible apply evqPut_keeps)
    | (with_reducible apply logAdd_keeps)
    | (with_reducible apply qPut_keeps)
    | split

theorem collClose_keeps (s : State) (h g d st flags done : Nat) {q0 : State} (hK : Keeps q0 s) :
    Keeps q0 (collClose s h g d st flags done) := by
  unfold collClose
  repeat' first
    | with_reducible assumption
    | (intro x; refine Keeps.cut (q := q0) (x := x) ?_ ?_; pick_goal 2; clear_value x; intro hx)
    | (lift_lets; intro x)
    | (with_reducible apply Keeps.ite)
    | (with_reducible apply State.bump_keeps)
    | (with_reducible apply State.setBit_keeps)
    | (with_reducible apply State.wr_keeps)
    | (with_reducible apply collFile_keeps)

theorem noteDone_keeps (s : State) (h g id : Nat) {q0 : State} (hK : Keeps q0 s) :
    Keeps q0 (noteDone s h g id) := by
  unfold noteDone
  repeat' first
    | with_reducible assumption
    | (lift_lets; intro x)
    | (with_reducible apply State.setSlot_keeps)

theorem collStop_keeps (s : State) (h g : Nat) {q0 : State} (hK : Keeps q0 s) :
    Keeps q0 (collStop s h g) := by
  unfold collStop
  repeat' first
    | with_reducible assumption
    | (intro x; refine Keeps.cut (q := q0) (x := x) ?_ ?_; pick_goal 2; clear_value x; intro hx)
    | (lift_lets; intro x)
    | (intro x)
    | (with_reducible refine Keeps.foldl (fun _ _ _ => ?_) ?_)
    | (with_reducible apply State.setStream_keeps)
    | (with_reducible apply State.wr_keeps)
    | (with_reducible apply ctxDrop_keeps)
    | (with_reducible apply setStreamState_keeps)

theorem collEndRun_keeps (s : State) (h g st : Nat) (timed : Bool) {q0 : State} (hK : Keeps q0 s) :
    Keeps q0 (collEndRun s h g st timed) := by
  unfold collEndRun
  repeat' first
    | with_reducible assumption
    | (intro x; refine Keeps.cut (q := q0) (x := x) ?_ ?_; pick_goal 2; clear_value x; intro hx)
    | (lift_lets; intro x; refine Keeps.cut (q := q0) (x := x) ?_ ?_; pick_goal 2; clear_value x; intro hx)
    | (intro x)
    | (with_reducible apply Keeps.ite)
    | (with_reducible apply State.setSlot_keeps)
    | (with_reducible apply collClose_keeps)
    | (with_reducible apply collStop_keeps)
    | (with_reducible apply noteDone_keeps)
    | (with_reducible apply showColl_keeps)
    | split

theorem collEndAll_keeps (s : State) (h g st : Nat) {q0 : State} (hK : Keeps q0 s) :
    Keeps q0 (collEndAll s h g st) := by
  unfold collEndAll
  repeat' first
    | with_reducible assumption
    | (intro x; refine Keeps.cut (q := q0) (x := x) ?_ ?_; pick_goal 2; clear_value x; intro hx)
    | (lift_lets; intro x; refine Keeps.cut (q := q0) (x := x) ?_ ?_; pick_goal 2; clear_value x; intro hx)
    | (intro x)
    | (with_reducible refine Keeps.foldl (fun _ _ _ => ?_) ?_)
    | (with_reducible apply State.setSlot_keeps)
    | (with_reducible apply collClose_keeps)
    | (with_reducible apply collEndRun_keeps)
    | (with_reducible apply showColl_keeps)

theorem collRegionEnd_keeps (s : State) (r : Nat) {q0 : State} (hK : Keeps q0 s) :
    Keeps q0 (collRegionEnd s r) := by
  unfold collRegionEnd
  repeat' first
    | with_reducible assumption
    | (with_reducible apply Keeps.ite)
    | (with_reducible refine Keeps.upTo (fun _ _ _ => ?_) ?_)
    | (with_reducible apply collEndAll_keeps)

theorem collPost_keeps (s : State) (h : Nat) {q0 : State} (hK : Keeps q0 s) :
    Keeps q0 (collPost s h) := by
  unfold collPost
  repeat' first
    | with_reducible assumption
    | (lift_lets; intro x)
    | (intro x)
    | (with_reducible apply Keeps.ite)
    | (with_reducible apply State.setBit_keeps)
    | (with_reducible apply State.setSlot_keeps)
    | (with_reducible apply badValue_keeps)
    | (with_reducible apply collClose_keeps)
    | (with_reducible apply showColl_keeps)

theorem collStart_keeps (s : State) (h g : Nat) {q0 : State} (hK : Keeps q0 s) : Keeps q0 (collStart s h g) := by
  unfold collStart
  extract_lets v r quota
  split
  · exact Keeps.ite hK (Keeps.ite (showColl_keeps _ _ _ (collClose_keeps _ _ _ _ _ _ _ (State.setSlot_keeps _ _ _ _ hK)))
      (Keeps.ite hK (collPump_keeps _ _ _ (showColl_keeps _ _ _ (State.setSlot_keeps _ _ _ _ hK)))))
  · exact hK

theorem putWords_keeps (s : State) (i off n : Nat) (l : Line) {q0 : State} (hK : Keeps q0 s) :
    Keeps q0 (putWords s i off n l) := by
  unfold putWords
  repeat' first
    | with_reducible assumption
    | (lift_lets; intro x)
    | (intro x)
    | (with_reducible apply Keeps.ite)
    | (with_reducible refine Keeps.upTo (fun _ _ _ => ?_) ?_)
    | (with_reducible apply openWrite_keeps)

theorem commitWrite_keeps (s : State) (i off n : Nat) (l : Line) (ok : Bool) {q0 : State} (hK : Keeps q0 s) :
    OptKeeps q0 (commitWrite s i off n l ok) := by
  unfold commitWrite
  refine OptKeeps.ite ?_ (OptKeeps.some (putWords_keeps _ _ _ _ _ hK))
  have h := landMake_keeps s i off (8 * n) hK
  split
  · exact OptKeeps.none
  · next e =>
    rw [e] at h
    exact OptKeeps.some (landEnd_keeps _ _ _ _ _ _ (putWords_keeps _ _ _ _ _ h))

theorem committed_keeps (s : State) (h g q : Nat) (r : CRun) (ok : Bool) {q0 : State} (hK : Keeps q0 s) :
    Keeps q0 (committed s h g q r ok) := by
  unfold committed
  repeat' first
    | with_reducible assumption
    | (intro x; refine Keeps.cut (q := q0) (x := x) ?_ ?_; pick_goal 2; clear_value x; intro hx)
    | (lift_lets; intro x)
    | (intro x)
    | (with_reducible apply Keeps.ite)
    | (with_reducible apply State.setSlot_keeps)
    | (with_reducible apply collClose_keeps)
    | (with_reducible apply collReap_keeps)
    | (with_reducible apply noteDone_keeps)
    | (with_reducible apply showColl_keeps)

theorem collCommit_keeps (s : State) (h g q tries : Nat) {q0 : State} (hK : Keeps q0 s) : Keeps q0 (collCommit s h g q tries) := by
  unfold collCommit
  split
  · exact hK
  · next r _ =>
    extract_lets l v a off
    clear_value a l v off
    split
    · next i t _ _ =>
      refine Keeps.ite hK ?_
      extract_lets c src s1 f
      have hc : Keeps q0 c.1 := charge_keeps _ _ _ _ hK
      have h1 : Keeps q0 s1 := countMoved_keeps _ _ _ (State.setSite_keeps _ _ _ hc)
      clear_value c s1
      refine Keeps.ite hc (Keeps.ite ?_ ?_)
      · split
        · next e => exact committed_keeps _ _ _ _ _ _ (OptKeeps.get e (commitWrite_keeps _ _ _ _ _ _ h1))
        · exact State.setBit_keeps _ _ _ h1
      · split
        · next e =>
          exact faultNow_keeps _ _ (committed_keeps _ _ _ _ _ _
            (OptKeeps.get e (commitWrite_keeps _ _ _ _ _ _ (State.draw_keeps _ _ h1))))
        · exact State.setBit_keeps _ _ _ h1
    · exact hK

theorem collTimeout_keeps (s : State) (h g : Nat) {q0 : State} (hK : Keeps q0 s) :
    Keeps q0 (collTimeout s h g) := by
  unfold collTimeout
  repeat' first
    | with_reducible assumption
    | (with_reducible apply collEndRun_keeps)
    | split

theorem collAbort_keeps (s : State) (h g : Nat) {q0 : State} (hK : Keeps q0 s) :
    Keeps q0 (collAbort s h g) := by
  unfold collAbort
  repeat' first
    | with_reducible assumption
    | (with_reducible apply collEndAll_keeps)

theorem frGo_keeps (s : State) (p : Nat) {q0 : State} (hK : Keeps q0 s) :
    Keeps q0 (frGo s p) := by
  unfold frGo
  repeat' first
    | with_reducible assumption
    | (intro x; refine Keeps.cut (q := q0) (x := x) ?_ ?_; pick_goal 2; clear_value x; intro hx)
    | (lift_lets; intro x)
    | (intro x)
    | (with_reducible apply Keeps.ite)
    | (with_reducible apply State.setRegion_keeps)
    | (with_reducible apply State.wr_keeps)
    | (with_reducible apply evalRegions_keeps)

theorem requestCancel_keeps (s : State) (r k : Nat) (missing : Bool) {q0 : State} (hK : Keeps q0 s) :
    Keeps q0 (requestCancel s r k missing) := by
  unfold requestCancel
  repeat' first
    | with_reducible assumption
    | (lift_lets; intro x)
    | (with_reducible apply Keeps.ite)
    | (with_reducible apply slotCancel_keeps)

theorem actDone_keeps (s : State) (r k a : Nat) {q0 : State} (hK : Keeps q0 s) :
    Keeps q0 (actDone s r k a) := by
  unfold actDone
  repeat' first
    | with_reducible assumption
    | (lift_lets; intro x)
    | (intro x)
    | (with_reducible apply State.setRegion_keeps)
    | (with_reducible apply slotLeave_keeps)

theorem nextEpoch_keeps (s : State) (i : Nat) {q0 : State} (hK : Keeps q0 s) :
    Keeps q0 (nextEpoch s i) := by
  unfold nextEpoch
  repeat' first
    | with_reducible assumption
    | (with_reducible apply State.wrap_keeps)

theorem freqSite_keeps (s : State) (fs : Nat) (i : Nat) {q0 : State} (hK : Keeps q0 s) :
    Keeps q0 (freqSite s fs i) := by
  unfold freqSite
  repeat' first
    | with_reducible assumption
    | (intro x; refine Keeps.cut (q := q0) (x := x) ?_ ?_; pick_goal 2; clear_value x; intro hx)
    | (lift_lets; intro x)
    | (intro x)
    | (with_reducible apply Keeps.ite)
    | (with_reducible apply State.setSite_keeps)
    | (with_reducible apply State.wr_keeps)

theorem freq_keeps (s : State) (r k : Nat) {q0 : State} (hK : Keeps q0 s) :
    Keeps q0 (freq s r k) := by
  unfold freq
  repeat' first
    | with_reducible assumption
    | (intro x; refine Keeps.cut (q := q0) (x := x) ?_ ?_; pick_goal 2; clear_value x; intro hx)
    | (lift_lets; intro x)
    | (intro x)
    | (with_reducible apply Keeps.ite)
    | (with_reducible refine Keeps.foldl (fun _ _ _ => ?_) ?_)
    | (with_reducible apply State.setRegion_keeps)
    | (with_reducible apply actDone_keeps)
    | (with_reducible apply freqSite_keeps)

theorem freqRampUp_keeps (s : State) (r k : Nat) {q0 : State} (hK : Keeps q0 s) :
    Keeps q0 (freqRampUp s r k) := by
  unfold freqRampUp
  repeat' first
    | with_reducible assumption
    | (lift_lets; intro x)
    | (with_reducible apply Keeps.ite)
    | (with_reducible apply State.setRegion_keeps)

theorem freqRampDown_keeps (s : State) (r : Nat) {q0 : State} (hK : Keeps q0 s) :
    Keeps q0 (freqRampDown s r) := by
  unfold freqRampDown
  repeat' first
    | with_reducible assumption
    | (lift_lets; intro x)
    | (with_reducible apply Keeps.ite)
    | (with_reducible apply State.setRegion_keeps)
    | (dsimp -zeta only [x])
    | split

theorem setCfg_keeps (s : State) (v i : Nat) {q0 : State} (hK : Keeps q0 s) :
    Keeps q0 (setCfg s v i) := by
  unfold setCfg
  repeat' first
    | with_reducible assumption
    | (lift_lets; intro x)
    | (with_reducible apply State.wr_keeps)

theorem frameCfg_keeps (s : State) (r k : Nat) {q0 : State} (hK : Keeps q0 s) :
    Keeps q0 (frameCfg s r k) := by
  unfold frameCfg
  repeat' first
    | with_reducible assumption
    | (lift_lets; intro x)
    | (with_reducible apply Keeps.ite)
    | (with_reducible refine Keeps.foldl (fun _ _ _ => ?_) ?_)
    | (with_reducible apply actDone_keeps)
    | (with_reducible apply nextEpoch_keeps)
    | (with_reducible apply setCfg_keeps)

theorem swapSite_keeps (s : State) (i : Nat) {q0 : State} (hK : Keeps q0 s) :
    Keeps q0 (swapSite s i) := by
  unfold swapSite
  repeat' first
    | with_reducible assumption
    | (intro x; refine Keeps.cut (q := q0) (x := x) ?_ ?_; pick_goal 2; clear_value x; intro hx)
    | (lift_lets; intro x)
    | (intro x)
    | (with_reducible refine Keeps.upTo (fun _ _ _ => ?_) ?_)
    | (with_reducible apply State.wr_keeps)

theorem schedSwap_keeps (s : State) (r k : Nat) {q0 : State} (hK : Keeps q0 s) :
    Keeps q0 (schedSwap s r k) := by
  unfold schedSwap
  repeat' first
    | with_reducible assumption
    | (lift_lets; intro x)
    | (with_reducible apply Keeps.ite)
    | (with_reducible refine Keeps.foldl (fun _ _ _ => ?_) ?_)
    | (with_reducible apply actDone_keeps)
    | (with_reducible apply nextEpoch_keeps)
    | (with_reducible apply swapSite_keeps)

theorem dormantSite_keeps (s : State) (i : Nat) {q0 : State} (hK : Keeps q0 s) :
    Keeps q0 (dormantSite s i) := by
  unfold dormantSite
  repeat' first
    | with_reducible assumption
    | (intro x; refine Keeps.cut (q := q0) (x := x) ?_ ?_; pick_goal 2; clear_value x; intro hx)
    | (lift_lets; intro x)
    | (intro x)
    | (with_reducible apply State.setSite_keeps)
    | (with_reducible apply State.wr_keeps)
    | (with_reducible apply uncouple_keeps)

theorem dormantEnter_keeps (s : State) (r k : Nat) {q0 : State} (hK : Keeps q0 s) :
    Keeps q0 (dormantEnter s r k) := by
  unfold dormantEnter
  repeat' first
    | with_reducible assumption
    | (with_reducible apply Keeps.ite)
    | (with_reducible refine Keeps.foldl (fun _ _ _ => ?_) ?_)
    | (with_reducible apply State.wr_keeps)
    | (with_reducible apply actDone_keeps)
    | (with_reducible apply dormantSite_keeps)

theorem clearWell_keeps (s : State) (i : Nat) {q0 : State} (hK : Keeps q0 s) :
    Keeps q0 (clearWell s i) := by
  unfold clearWell
  repeat' first
    | with_reducible assumption
    | (with_reducible refine Keeps.withMem ?_ _ (fun w => Memory.wf_clear w _ _))

theorem wakeLost_keeps (s : State) (i : Nat) {q0 : State} (hK : Keeps q0 s) :
    Keeps q0 (wakeLost s i) := by
  unfold wakeLost
  repeat' first
    | with_reducible assumption
    | (intro x; refine Keeps.cut (q := q0) (x := x) ?_ ?_; pick_goal 2; clear_value x; intro hx)
    | (lift_lets; intro x; refine Keeps.cut (q := q0) (x := x) ?_ ?_; pick_goal 2; clear_value x; intro hx)
    | (lift_lets; intro x)
    | (intro x)
    | (with_reducible refine Keeps.upTo (fun _ _ _ => ?_) ?_)
    | (with_reducible apply State.setCore_keeps)
    | (with_reducible apply State.wr_keeps)
    | (with_reducible refine Keeps.withMem ?_ _ (fun w => Memory.wf_clear w _ _))

theorem wakeReload_keeps (s : State) (r f i : Nat) {q0 : State} (hK : Keeps q0 s) :
    Keeps q0 (wakeReload s r f i) := by
  unfold wakeReload
  repeat' first
    | with_reducible assumption
    | (intro x; refine Keeps.cut (q := q0) (x := x) ?_ ?_; pick_goal 2; clear_value x; intro hx)
    | (lift_lets; intro x; refine Keeps.cut (q := q0) (x := x) ?_ ?_; pick_goal 2; clear_value x; intro hx)
    | (with_reducible refine Keeps.foldl (fun _ _ _ => ?_) ?_)
    | (with_reducible apply State.setBit_keeps)
    | (with_reducible apply State.wr_keeps)
    | (with_reducible apply clearSram_keeps)
    | (with_reducible apply clearWell_keeps)
    | (with_reducible apply faultRegion_keeps)
    | (with_reducible apply landClear_keeps)
    | (with_reducible apply siteEvent_keeps)

theorem wakeSite_keeps (s : State) (r f : Nat) (clear : Bool) (i : Nat) {q0 : State} (hK : Keeps q0 s) :
    Keeps q0 (wakeSite s r f clear i) := by
  unfold wakeSite
  repeat' first
    | with_reducible assumption
    | (intro x; refine Keeps.cut (q := q0) (x := x) ?_ ?_; pick_goal 2; clear_value x; intro hx)
    | (lift_lets; intro x)
    | (intro x)
    | (with_reducible apply Keeps.ite)
    | (with_reducible apply State.setSite_keeps)
    | (with_reducible apply State.wr_keeps)
    | (with_reducible apply couple_keeps)
    | (with_reducible apply wakeLost_keeps)
    | (with_reducible apply wakeReload_keeps)

theorem wakeEnd_keeps (s : State) (i : Nat) {q0 : State} (hK : Keeps q0 s) :
    Keeps q0 (wakeEnd s i) := by
  unfold wakeEnd
  repeat' first
    | with_reducible assumption
    | (lift_lets; intro x)
    | (with_reducible apply State.setSite_keeps)
    | (with_reducible apply State.wr_keeps)
    | (with_reducible apply resumeNi_keeps)

theorem dormantExit_keeps (s : State) (r k : Nat) {q0 : State} (hK : Keeps q0 s) :
    Keeps q0 (dormantExit s r k) := by
  unfold dormantExit
  repeat' first
    | with_reducible assumption
    | (intro x; refine Keeps.cut (q := q0) (x := x) ?_ ?_; pick_goal 2; clear_value x; intro hx)
    | (lift_lets; intro x)
    | (intro x)
    | (with_reducible apply Keeps.ite)
    | (with_reducible refine Keeps.foldl (fun _ _ _ => ?_) ?_)
    | (with_reducible apply State.wr_keeps)
    | (with_reducible apply actDone_keeps)
    | (with_reducible apply drainEnd_keeps)
    | (with_reducible apply wakeEnd_keeps)
    | (with_reducible apply wakeSite_keeps)

theorem wakeFail_keeps (s : State) (i : Nat) (wellReady : Bool) {q0 : State} (hK : Keeps q0 s) :
    Keeps q0 (wakeFail s i wellReady) := by
  unfold wakeFail
  repeat' first
    | with_reducible assumption
    | (intro x; refine Keeps.cut (q := q0) (x := x) ?_ ?_; pick_goal 2; clear_value x; intro hx)
    | (lift_lets; intro x)
    | (with_reducible apply Keeps.ite)
    | (with_reducible apply State.setBit_keeps)
    | (with_reducible apply faultNow_keeps)
    | (with_reducible apply faultRegion_keeps)
    | (with_reducible apply siteEvent_keeps)
    | split

theorem assignGo_keeps (s : State) (r : Nat) {q0 : State} (hK : Keeps q0 s) :
    Keeps q0 (assignGo s r) := by
  unfold assignGo
  repeat' first
    | with_reducible assumption
    | (intro x; refine Keeps.cut (q := q0) (x := x) ?_ ?_; pick_goal 2; clear_value x; intro hx)
    | (lift_lets; intro x)
    | (intro x)
    | (with_reducible apply Keeps.ite)
    | (with_reducible apply State.setRegion_keeps)
    | (with_reducible apply State.wr_keeps)
    | (with_reducible apply badValue_keeps)
    | (with_reducible apply evalRegions_keeps)

theorem queuesEnd_keeps (s : State) (r : Nat) {q0 : State} (hK : Keeps q0 s) :
    Keeps q0 (queuesEnd s r) := by
  unfold queuesEnd
  repeat' first
    | with_reducible assumption
    | (intro x; refine Keeps.cut (q := q0) (x := x) ?_ ?_; pick_goal 2; clear_value x; intro hx)
    | (lift_lets; intro x)
    | (with_reducible apply Keeps.ite)
    | (with_reducible refine Keeps.upTo (fun _ _ _ => ?_) ?_)
    | (with_reducible apply State.wr_keeps)
    | (with_reducible apply State.wrAll_keeps)

theorem coreStop_keeps (s : State) (c : CoreId) {q0 : State} (hK : Keeps q0 s) :
    Keeps q0 (coreStop s c) := by
  unfold coreStop
  repeat' first
    | with_reducible assumption
    | (intro x; refine Keeps.cut (q := q0) (x := x) ?_ ?_; pick_goal 2; clear_value x; intro hx)
    | (lift_lets; intro x)
    | (with_reducible apply Keeps.ite)
    | (with_reducible apply State.setBit_keeps)
    | (with_reducible apply State.wr_keeps)

theorem clearBegin_keeps (s : State) (r : Nat) (keep : Bool) (i : Nat) {q0 : State} (hK : Keeps q0 s) :
    Keeps q0 (clearBegin s r keep i) := by
  unfold clearBegin
  repeat' first
    | with_reducible assumption
    | (intro x; refine Keeps.cut (q := q0) (x := x) ?_ ?_; pick_goal 2; clear_value x; intro hx)
    | (lift_lets; intro x; refine Keeps.cut (q := q0) (x := x) ?_ ?_; pick_goal 2; clear_value x; intro hx)
    | (intro x)
    | (with_reducible apply Keeps.ite)
    | (with_reducible refine Keeps.foldl (fun _ _ _ => ?_) ?_)
    | (with_reducible refine Keeps.upTo (fun _ _ _ => ?_) ?_)
    | (with_reducible apply State.setSite_keeps)
    | (with_reducible apply State.wr_keeps)
    | (with_reducible apply State.wrAll_keeps)
    | (with_reducible apply buddyEnds_keeps)
    | (with_reducible apply clearCounts_keeps)
    | (with_reducible apply clearSram_keeps)
    | (with_reducible apply clearWell_keeps)
    | (with_reducible apply coreStop_keeps)
    | (with_reducible apply endTransfers_keeps)
    | (with_reducible apply nextEpoch_keeps)
    | (with_reducible apply setHopCount_keeps)
    | (with_reducible apply swapRoutes_keeps)
    | (with_reducible refine Keeps.withMem ?_ _ (fun w => Memory.wf_clear w _ _))

theorem joinSite_keeps (s : State) (r cfg i : Nat) {q0 : State} (hK : Keeps q0 s) :
    Keeps q0 (joinSite s r cfg i) := by
  unfold joinSite
  repeat' first
    | with_reducible assumption
    | (intro x; refine Keeps.cut (q := q0) (x := x) ?_ ?_; pick_goal 2; clear_value x; intro hx)
    | (lift_lets; intro x; refine Keeps.cut (q := q0) (x := x) ?_ ?_; pick_goal 2; clear_value x; intro hx)
    | (intro x)
    | (with_reducible apply State.setSite_keeps)
    | (with_reducible apply State.wr_keeps)
    | (with_reducible apply setCfg_keeps)

theorem quitSite_keeps (s : State) (i : Nat) {q0 : State} (hK : Keeps q0 s) :
    Keeps q0 (quitSite s i) := by
  unfold quitSite
  repeat' first
    | with_reducible assumption
    | (lift_lets; intro x)
    | (with_reducible apply State.setSite_keeps)
    | (with_reducible apply uncouple_keeps)

theorem regionChange_keeps (s : State) (r : Nat) {q0 : State} (hK : Keeps q0 s) :
    Keeps q0 (regionChange s r) := by
  unfold regionChange
  repeat' first
    | with_reducible assumption
    | (intro x; refine Keeps.cut (q := q0) (x := x) ?_ ?_; pick_goal 2; clear_value x; intro hx)
    | (lift_lets; intro x)
    | (intro x)
    | (with_reducible apply Keeps.ite)
    | (with_reducible refine Keeps.foldl (fun _ _ _ => ?_) ?_)
    | (with_reducible refine Keeps.upTo (fun _ _ _ => ?_) ?_)
    | (with_reducible apply State.emit_keeps)
    | (with_reducible apply State.setRegion_keeps)
    | (with_reducible apply State.wr_keeps)
    | (with_reducible apply State.wrPair_keeps)
    | (with_reducible apply clearBegin_keeps)
    | (with_reducible apply collRegionEnd_keeps)
    | (with_reducible apply couple_keeps)
    | (with_reducible apply drainEnd_keeps)
    | (with_reducible apply endAt_keeps)
    | (with_reducible apply joinSite_keeps)
    | (with_reducible apply queuesEnd_keeps)
    | (with_reducible apply quitSite_keeps)

theorem reassign_keeps (s : State) (r : Nat) (k : Option Nat) {q0 : State} (hK : Keeps q0 s) :
    Keeps q0 (reassign s r k) := by
  unfold reassign
  repeat' first
    | with_reducible assumption
    | (lift_lets; intro x; refine Keeps.cut (q := q0) (x := x) ?_ ?_; pick_goal 2; clear_value x; intro hx)
    | (with_reducible apply Keeps.ite)
    | (with_reducible refine Keeps.upTo (fun _ _ _ => ?_) ?_)
    | (with_reducible apply actDone_keeps)
    | (with_reducible apply regionChange_keeps)
    | (with_reducible apply slotCancel_keeps)
    | split

theorem clearEnd_keeps (s : State) (i : Nat) {q0 : State} (hK : Keeps q0 s) :
    Keeps q0 (clearEnd s i) := by
  unfold clearEnd
  repeat' first
    | with_reducible assumption
    | (intro x; refine Keeps.cut (q := q0) (x := x) ?_ ?_; pick_goal 2; clear_value x; intro hx)
    | (lift_lets; intro x; refine Keeps.cut (q := q0) (x := x) ?_ ?_; pick_goal 2; clear_value x; intro hx)
    | (intro x)
    | (with_reducible apply Keeps.ite)
    | (with_reducible refine Keeps.upTo (fun _ _ _ => ?_) ?_)
    | (with_reducible apply State.setSite_keeps)
    | (with_reducible apply State.wr_keeps)
    | (with_reducible apply resumeNi_keeps)

theorem regionClearDone_keeps (s : State) (r : Nat) {q0 : State} (hK : Keeps q0 s) :
    Keeps q0 (regionClearDone s r) := by
  unfold regionClearDone
  repeat' first
    | with_reducible assumption
    | (intro x; refine Keeps.cut (q := q0) (x := x) ?_ ?_; pick_goal 2; clear_value x; intro hx)
    | (lift_lets; intro x)
    | (with_reducible apply Keeps.ite)
    | (with_reducible refine Keeps.foldl (fun _ _ _ => ?_) ?_)
    | (with_reducible apply State.wr_keeps)
    | (with_reducible apply clearEnd_keeps)

theorem fabIn_keeps (s : State) (h : Nat) (back : Option (Nat × Nat × Nat)) (w : FWord) {q0 : State} (hK : Keeps q0 s) :
    Keeps q0 (fabIn s h back w) := by
  unfold fabIn
  have hf := fabForward_keeps 20 s h back w hK
  split
  · next e => rw [e] at hf; exact hf
  · next e => rw [e] at hf; exact receive_keeps _ _ _ _ _ _ hf

theorem portErr_keeps (s : State) (h p b : Nat) {q0 : State} (hK : Keeps q0 s) :
    Keeps q0 (portErr s h p b) := by
  unfold portErr
  repeat' first
    | with_reducible assumption
    | (with_reducible apply State.orBits_keeps)

theorem portEvent_keeps (s : State) (h p sub : Nat) {q0 : State} (hK : Keeps q0 s) :
    Keeps q0 (portEvent s h p sub) := by
  unfold portEvent
  repeat' first
    | with_reducible assumption
    | (with_reducible apply logEvent_keeps)

theorem showBridge_keeps (s : State) {q0 : State} (hK : Keeps q0 s) :
    Keeps q0 (showBridge s) := by
  unfold showBridge
  repeat' first
    | with_reducible assumption
    | (lift_lets; intro x)
    | (with_reducible apply State.wr_keeps)

theorem showParent_keeps (s : State) {q0 : State} (hK : Keeps q0 s) :
    Keeps q0 (showParent s) := by
  unfold showParent
  repeat' first
    | with_reducible assumption
    | (with_reducible apply Keeps.ite)
    | (with_reducible apply State.wr_keeps)
    | split

theorem discardWords_keeps (s : State) (h : Nat) (ws : List QWord) {q0 : State} (hK : Keeps q0 s) :
    Keeps q0 (discardWords s h ws) := by
  unfold discardWords
  repeat' first
    | with_reducible assumption
    | (lift_lets; intro x; refine Keeps.cut (q := q0) (x := x) ?_ ?_; pick_goal 2; clear_value x; intro hx)
    | (intro x)
    | (with_reducible apply Keeps.ite)
    | (with_reducible refine Keeps.foldl (fun _ _ _ => ?_) ?_)
    | (with_reducible apply State.emit_keeps)
    | (with_reducible apply creditBack_keeps)
    | (with_reducible apply fabIn_keeps)

theorem collPortDown_keeps (s : State) (h p : Nat) {q0 : State} (hK : Keeps q0 s) :
    Keeps q0 (collPortDown s h p) := by
  unfold collPortDown
  repeat' first
    | with_reducible assumption
    | (lift_lets; intro x)
    | (with_reducible apply Keeps.ite)
    | (with_reducible refine Keeps.upTo (fun _ _ _ => ?_) ?_)
    | (with_reducible apply collHopFail_keeps)
    | (dsimp -zeta only [x])
    | split

theorem portDown_keeps (s : State) (h p st : Nat) {q0 : State} (hK : Keeps q0 s) :
    Keeps q0 (portDown s h p st) := by
  unfold portDown
  repeat' first
    | with_reducible assumption
    | (intro x; refine Keeps.cut (q := q0) (x := x) ?_ ?_; pick_goal 2; clear_value x; intro hx)
    | (lift_lets; intro x)
    | (intro x)
    | (with_reducible apply State.setOptic_keeps)
    | (with_reducible apply State.wr_keeps)
    | (with_reducible apply collPortDown_keeps)
    | (with_reducible apply discardWords_keeps)
    | (with_reducible apply portErr_keeps)
    | (with_reducible apply portEvent_keeps)
    | (with_reducible apply showBridge_keeps)
    | (with_reducible apply showParent_keeps)

theorem trainStart_keeps (s : State) (h p : Nat) (tell : Bool) {q0 : State} (hK : Keeps q0 s) :
    Keeps q0 (trainStart s h p tell) := by
  unfold trainStart
  repeat' first
    | with_reducible assumption
    | (lift_lets; intro x; refine Keeps.cut (q := q0) (x := x) ?_ ?_; pick_goal 2; clear_value x; intro hx)
    | (with_reducible apply Keeps.ite)
    | (with_reducible apply State.wr_keeps)
    | (with_reducible apply portErr_keeps)
    | (with_reducible apply sendBlock_keeps)
    | (with_reducible apply showBridge_keeps)

theorem retrainPort_keeps (s : State) (h p : Nat) (tell : Bool) {q0 : State} (hK : Keeps q0 s) :
    Keeps q0 (retrainPort s h p tell) := by
  unfold retrainPort
  repeat' first
    | with_reducible assumption
    | (intro x; refine Keeps.cut (q := q0) (x := x) ?_ ?_; pick_goal 2; clear_value x; intro hx)
    | (lift_lets; intro x)
    | (intro x)
    | (with_reducible apply Keeps.ite)
    | (with_reducible apply State.bump_keeps)
    | (with_reducible apply State.setOptic_keeps)
    | (with_reducible apply State.wr_keeps)
    | (with_reducible apply portDown_keeps)
    | (with_reducible apply portErr_keeps)
    | (with_reducible apply portEvent_keeps)
    | (with_reducible apply trainStart_keeps)

theorem portTrouble_keeps (s : State) (h p : Nat) (tell : Bool) {q0 : State} (hK : Keeps q0 s) :
    Keeps q0 (portTrouble s h p tell) := by
  unfold portTrouble
  repeat' first
    | with_reducible assumption
    | (with_reducible apply Keeps.ite)
    | (with_reducible apply retrainPort_keeps)

theorem retrainHost_keeps (s : State) (h p : Nat) {q0 : State} (hK : Keeps q0 s) :
    Keeps q0 (retrainHost s h p) := by
  unfold retrainHost
  repeat' first
    | with_reducible assumption
    | (with_reducible apply Keeps.ite)
    | (with_reducible apply trainStart_keeps)

theorem replayFrom_keeps (s : State) (h p seq : Nat) {q0 : State} (hK : Keeps q0 s) :
    Keeps q0 (replayFrom s h p seq) := by
  unfold replayFrom
  repeat' first
    | with_reducible assumption
    | (with_reducible refine Keeps.foldl (fun _ _ _ => ?_) ?_)
    | (with_reducible apply State.emit_keeps)

theorem retrainDone_keeps (s : State) (h p lanes aseq rtt : Nat) {q0 : State} (hK : Keeps q0 s) :
    Keeps q0 (retrainDone s h p lanes aseq rtt) := by
  unfold retrainDone
  repeat' first
    | with_reducible assumption
    | (intro x; refine Keeps.cut (q := q0) (x := x) ?_ ?_; pick_goal 2; clear_value x; intro hx)
    | (lift_lets; intro x)
    | (intro x)
    | (with_reducible apply Keeps.ite)
    | (with_reducible apply State.setOptic_keeps)
    | (with_reducible apply State.wr_keeps)
    | (with_reducible apply drainPort_keeps)
    | (with_reducible apply portDown_keeps)
    | (with_reducible apply portErr_keeps)
    | (with_reducible apply replayFrom_keeps)
    | (with_reducible apply showBridge_keeps)

theorem retrainTimeout_keeps (s : State) (h p : Nat) {q0 : State} (hK : Keeps q0 s) :
    Keeps q0 (retrainTimeout s h p) := by
  unfold retrainTimeout
  repeat' first
    | with_reducible assumption
    | (with_reducible apply Keeps.ite)
    | (with_reducible apply portDown_keeps)

theorem holdEnd_keeps (s : State) (h p : Nat) {q0 : State} (hK : Keeps q0 s) :
    Keeps q0 (holdEnd s h p) := by
  unfold holdEnd
  repeat' first
    | with_reducible assumption
    | (with_reducible apply Keeps.ite)
    | (with_reducible apply State.wr_keeps)
    | (with_reducible apply retrainPort_keeps)

theorem holdClr_keeps (s : State) (h p : Nat) {q0 : State} (hK : Keeps q0 s) :
    Keeps q0 (holdClr s h p) := by
  unfold holdClr
  repeat' first
    | with_reducible assumption
    | (with_reducible apply State.wr_keeps)
    | (with_reducible apply holdEnd_keeps)

theorem portDisable_keeps (s : State) (h p : Nat) (on : Bool) {q0 : State} (hK : Keeps q0 s) :
    Keeps q0 (portDisable s h p on) := by
  unfold portDisable
  repeat' first
    | with_reducible assumption
    | (with_reducible apply Keeps.ite)
    | (with_reducible apply portDown_keeps)
    | (with_reducible apply trainStart_keeps)

theorem fecNote_keeps (s : State) (h p n : Nat) {q0 : State} (hK : Keeps q0 s) :
    Keeps q0 (fecNote s h p n) := by
  unfold fecNote
  repeat' first
    | with_reducible assumption
    | (intro x; refine Keeps.cut (q := q0) (x := x) ?_ ?_; pick_goal 2; clear_value x; intro hx)
    | (lift_lets; intro x)
    | (intro x)
    | (with_reducible apply Keeps.ite)
    | (with_reducible apply State.bump_keeps)
    | (with_reducible apply State.setOptic_keeps)
    | (with_reducible apply portTrouble_keeps)

theorem hdrTake_keeps (s : State) (h p hdr : Nat) {q0 : State} (hK : Keeps q0 s) :
    Keeps q0 (hdrTake s h p hdr) := by
  unfold hdrTake
  repeat' first
    | with_reducible assumption
    | (lift_lets; intro x)
    | (intro x)
    | (with_reducible apply State.setOptic_keeps)
    | (with_reducible apply drainPort_keeps)

theorem askReplay_keeps (s : State) (h p : Nat) {q0 : State} (hK : Keeps q0 s) :
    Keeps q0 (askReplay s h p) := by
  unfold askReplay
  repeat' first
    | with_reducible assumption
    | (with_reducible apply sendPlain_keeps)

theorem blockIn_keeps (s : State) (h p t hdr : Nat) (ws : List FWord) (fec : Nat) {q0 : State} (hK : Keeps q0 s) :
    Keeps q0 (blockIn s h p t hdr ws fec) := by
  unfold blockIn
  repeat' first
    | with_reducible assumption
    | (intro x; refine Keeps.cut (q := q0) (x := x) ?_ ?_; pick_goal 2; clear_value x; intro hx)
    | (lift_lets; intro x)
    | (intro x)
    | (with_reducible apply Keeps.ite)
    | (with_reducible refine Keeps.foldl (fun _ _ _ => ?_) ?_)
    | (with_reducible apply State.setOptic_keeps)
    | (with_reducible apply askReplay_keeps)
    | (with_reducible apply fabIn_keeps)
    | (with_reducible apply fecNote_keeps)
    | (with_reducible apply hdrTake_keeps)

theorem replayReq_keeps (s : State) (h p seq : Nat) {q0 : State} (hK : Keeps q0 s) :
    Keeps q0 (replayReq s h p seq) := by
  unfold replayReq
  repeat' first
    | with_reducible assumption
    | (intro x; refine Keeps.cut (q := q0) (x := x) ?_ ?_; pick_goal 2; clear_value x; intro hx)
    | (lift_lets; intro x)
    | (intro x)
    | (with_reducible apply Keeps.ite)
    | (with_reducible apply State.bump_keeps)
    | (with_reducible apply State.setOptic_keeps)
    | (with_reducible apply portErr_keeps)
    | (with_reducible apply portTrouble_keeps)
    | (with_reducible apply replayFrom_keeps)

theorem identIn_keeps (s : State) (h p : Nat) (ok : Bool) (i : PeerIdent) {q0 : State} (hK : Keeps q0 s) :
    Keeps q0 (identIn s h p ok i) := by
  unfold identIn
  repeat' first
    | with_reducible assumption
    | (intro x; refine Keeps.cut (q := q0) (x := x) ?_ ?_; pick_goal 2; clear_value x; intro hx)
    | (lift_lets; intro x)
    | (intro x)
    | (with_reducible apply Keeps.ite)
    | (with_reducible apply State.setBit_keeps)
    | (with_reducible apply State.setOptic_keeps)
    | (with_reducible apply State.wr_keeps)
    | (with_reducible apply drainPort_keeps)
    | (with_reducible apply portDown_keeps)
    | (with_reducible apply portErr_keeps)
    | (with_reducible apply portEvent_keeps)
    | (with_reducible apply showBridge_keeps)

theorem identSend_keeps (s : State) (h p : Nat) {q0 : State} (hK : Keeps q0 s) :
    Keeps q0 (identSend s h p) := by
  unfold identSend
  repeat' first
    | with_reducible assumption
    | (with_reducible apply Keeps.ite)
    | (with_reducible apply sendPlain_keeps)

theorem moveTime_keeps (s : State) (d : Int) {q0 : State} (hK : Keeps q0 s) :
    Keeps q0 (moveTime s d) := by
  unfold moveTime
  repeat' first
    | with_reducible assumption
    | (simp -zeta only [↓Keeps.lit])

theorem correctTime_keeps (s : State) (th : Int) {q0 : State} (hK : Keeps q0 s) :
    Keeps q0 (correctTime s th) := by
  unfold correctTime
  repeat' first
    | with_reducible assumption
    | (intro x; refine Keeps.cut (q := q0) (x := x) ?_ ?_; pick_goal 2; clear_value x; intro hx)
    | (lift_lets; intro x; refine Keeps.cut (q := q0) (x := x) ?_ ?_; pick_goal 2; clear_value x; intro hx)
    | (with_reducible apply Keeps.ite)
    | (with_reducible apply State.bump_keeps)
    | (with_reducible apply State.wr_keeps)
    | (with_reducible apply moveTime_keeps)
    | (with_reducible apply panelEvent_keeps)

theorem timeIn_keeps (s : State) (h p : Nat) (b : TimeBlk) {q0 : State} (hK : Keeps q0 s) :
    Keeps q0 (timeIn s h p b) := by
  unfold timeIn
  repeat' first
    | with_reducible assumption
    | (intro x; refine Keeps.cut (q := q0) (x := x) ?_ ?_; pick_goal 2; clear_value x; intro hx)
    | (lift_lets; intro x)
    | (intro x)
    | (with_reducible apply Keeps.ite)
    | (with_reducible apply State.emit_keeps)
    | (with_reducible apply State.setOptic_keeps)
    | (with_reducible apply correctTime_keeps)
    | (with_reducible apply showParent_keeps)
    | (dsimp -zeta only [x])
    | split

theorem timeExchange_keeps (s : State) (h p : Nat) {q0 : State} (hK : Keeps q0 s) :
    Keeps q0 (timeExchange s h p) := by
  unfold timeExchange
  repeat' first
    | with_reducible assumption
    | (lift_lets; intro x)
    | (with_reducible apply Keeps.ite)
    | (with_reducible apply State.emit_keeps)

theorem frtCheck_keeps (s : State) (h : Nat) {q0 : State} (hK : Keeps q0 s) :
    Keeps q0 (frtCheck s h) := by
  unfold frtCheck
  repeat' first
    | with_reducible assumption
    | (lift_lets; intro x)
    | (intro x)
    | (with_reducible apply State.wr_keeps)

theorem frtSwap_keeps (s : State) (h : Nat) {q0 : State} (hK : Keeps q0 s) :
    OptKeeps q0 (frtSwap s h) := by
  unfold frtSwap
  repeat' first
    | with_reducible assumption
    | (with_reducible exact OptKeeps.none)
    | (with_reducible apply OptKeeps.some)
    | (intro x; refine Keeps.cut (q := q0) (x := x) ?_ ?_; pick_goal 2; clear_value x; intro hx)
    | (lift_lets; intro x)
    | (intro x)
    | (with_reducible apply OptKeeps.ite)
    | (with_reducible refine Keeps.upTo (fun _ _ _ => ?_) ?_)
    | (with_reducible apply State.wr_keeps)
    | (dsimp -zeta only [x])
    | (simp -zeta only [↓Keeps.lit])

theorem fabStall_keeps (s : State) (h p vc : Nat) {q0 : State} (hK : Keeps q0 s) :
    Keeps q0 (fabStall s h p vc) := by
  unfold fabStall
  repeat' first
    | with_reducible assumption
    | (intro x; refine Keeps.cut (q := q0) (x := x) ?_ ?_; pick_goal 2; clear_value x; intro hx)
    | (lift_lets; intro x)
    | (intro x)
    | (with_reducible apply Keeps.ite)
    | (with_reducible apply State.bump_keeps)
    | (with_reducible apply State.setBit_keeps)
    | (with_reducible apply State.setOptic_keeps)
    | (with_reducible apply discardWords_keeps)
    | (with_reducible apply logEvent_keeps)

end Sys2Proof.Machine
end

