-- ==== Sys2Proof/Laws/KeepsPanel.lean ====
section
/-! SUPPORT. What the register pages, the hub edge, bring-up, service, remapping, host accesses and module signals keep. Each lemma says of one function that a state which keeps what `q0` has still does so after it. -/

namespace Sys2Proof.Machine

theorem dieEvent_keeps (s : State) (h slot : Nat) {q0 : State} (hK : Keeps q0 s) :
    Keeps q0 (dieEvent s h slot) := by
  unfold dieEvent
  repeat' first
    | with_reducible assumption
    | (with_reducible apply logEvent_keeps)

theorem isolate_keeps (s : State) (h slot : Nat) {q0 : State} (hK : Keeps q0 s) :
    Keeps q0 (isolate s h slot) := by
  unfold isolate
  repeat' first
    | with_reducible assumption
    | (lift_lets; intro x; refine Keeps.cut (q := q0) (x := x) ?_ ?_; pick_goal 2; clear_value x; intro hx)
    | (with_reducible apply Keeps.ite)
    | (with_reducible apply State.orBits_keeps)
    | (with_reducible apply State.wr_keeps)
    | (with_reducible apply dieEvent_keeps)
    | (with_reducible apply portDown_keeps)

theorem fwDrop_keeps (s : State) (h slot : Nat) (write : Bool) (addr : Nat) {q0 : State} (hK : Keeps q0 s) :
    Keeps q0 (fwDrop s h slot write addr) := by
  unfold fwDrop
  repeat' first
    | with_reducible assumption
    | (intro x; refine Keeps.cut (q := q0) (x := x) ?_ ?_; pick_goal 2; clear_value x; intro hx)
    | (lift_lets; intro x)
    | (intro x)
    | (with_reducible apply Keeps.ite)
    | (with_reducible apply State.bump_keeps)
    | (with_reducible apply State.orBits_keeps)
    | (with_reducible apply State.setHub_keeps)
    | (with_reducible apply State.wr_keeps)
    | (with_reducible apply dieEvent_keeps)
    | (with_reducible apply isolate_keeps)

theorem firewall_keeps (s : State) (h slot : Nat) (write : Bool) (addr : Nat) (r : FwReq) {q0 : State} (hK : Keeps q0 s) :
    Keeps q0 (firewall s h slot write addr r) := by
  unfold firewall
  repeat' first
    | with_reducible assumption
    | (with_reducible apply Keeps.ite)
    | (with_reducible apply State.emit_keeps)
    | (with_reducible apply fwDrop_keeps)
    | split

theorem x16Err_keeps (s : State) (h b : Nat) {q0 : State} (hK : Keeps q0 s) :
    Keeps q0 (x16Err s h b) := by
  unfold x16Err
  repeat' first
    | with_reducible assumption
    | (with_reducible apply State.orBits_keeps)

theorem hostDone_keeps (s : State) (h k : Nat) (err : Bool) (data poison : Nat) {q0 : State} (hK : Keeps q0 s) :
    Keeps q0 (hostDone s h k err data poison) := by
  unfold hostDone
  repeat' first
    | with_reducible assumption
    | (intro x; refine Keeps.cut (q := q0) (x := x) ?_ ?_; pick_goal 2; clear_value x; intro hx)
    | (lift_lets; intro x)
    | (intro x)
    | (with_reducible apply Keeps.ite)
    | (with_reducible apply ctxDelivered_keeps)
    | (with_reducible apply ctxFinish_keeps)
    | (with_reducible apply ctxPump_keeps)
    | (with_reducible apply respGot_keeps)
    | (with_reducible apply x16Err_keeps)

theorem deepDown_keeps (s : State) (h : Nat) {q0 : State} (hK : Keeps q0 s) :
    Keeps q0 (deepDown s h) := by
  unfold deepDown
  repeat' first
    | with_reducible assumption
    | (lift_lets; intro x; refine Keeps.cut (q := q0) (x := x) ?_ ?_; pick_goal 2; clear_value x; intro hx)
    | (intro x)
    | (with_reducible apply Keeps.ite)
    | (with_reducible refine Keeps.foldl (fun _ _ _ => ?_) ?_)
    | (with_reducible apply State.wr_keeps)
    | (with_reducible apply ctxFinish_keeps)
    | (with_reducible apply x16Err_keeps)

theorem hotReset_keeps (s : State) (h : Nat) {q0 : State} (hK : Keeps q0 s) :
    Keeps q0 (hotReset s h) := by
  unfold hotReset
  repeat' first
    | with_reducible assumption
    | (with_reducible apply Keeps.ite)
    | (with_reducible apply x16Err_keeps)

theorem twinErr_keeps (s : State) (b : Nat) {q0 : State} (hK : Keeps q0 s) :
    Keeps q0 (twinErr s b) := by
  unfold twinErr
  repeat' first
    | with_reducible assumption
    | (with_reducible apply State.orBits_keeps)

theorem twinGo_keeps (s : State) (v : Nat) (leave : Bool) {q0 : State} (hK : Keeps q0 s) :
    Keeps q0 (twinGo s v leave) := by
  unfold twinGo
  repeat' first
    | with_reducible assumption
    | (intro x; refine Keeps.cut (q := q0) (x := x) ?_ ?_; pick_goal 2; clear_value x; intro hx)
    | (lift_lets; intro x)
    | (with_reducible apply Keeps.ite)
    | (with_reducible apply State.wr_keeps)
    | (with_reducible apply panelEvent_keeps)
    | (with_reducible apply pfSet_keeps)

theorem tell_keeps (s : State) (m : TwinMsg) {q0 : State} (hK : Keeps q0 s) :
    Keeps q0 (tell s m) := by
  unfold tell
  repeat' first
    | with_reducible assumption
    | (lift_lets; intro x)
    | (with_reducible apply Keeps.ite)
    | (with_reducible apply State.emit_keeps)

theorem heartbeat_keeps (s : State) {q0 : State} (hK : Keeps q0 s) :
    Keeps q0 (heartbeat s) := by
  unfold heartbeat
  repeat' first
    | with_reducible assumption
    | (lift_lets; intro x)
    | (with_reducible apply State.draw_keeps)
    | (with_reducible apply tell_keeps)
    | (dsimp -zeta only [x])
    | (simp -zeta only [↓Keeps.lit])

theorem hbLoss_keeps (s : State) (b : Nat) {q0 : State} (hK : Keeps q0 s) :
    Keeps q0 (hbLoss s b) := by
  unfold hbLoss
  repeat' first
    | with_reducible assumption
    | (intro x; refine Keeps.cut (q := q0) (x := x) ?_ ?_; pick_goal 2; clear_value x; intro hx)
    | (lift_lets; intro x)
    | (intro x)
    | (with_reducible apply Keeps.ite)
    | (with_reducible apply State.bump_keeps)
    | (with_reducible apply panelEvent_keeps)
    | (with_reducible apply pfSet_keeps)
    | (with_reducible apply twinErr_keeps)
    | (with_reducible apply twinGo_keeps)
    | (dsimp -zeta only [x])
    | (simp -zeta only [↓Keeps.lit])

theorem twinBad_keeps (s : State) {q0 : State} (hK : Keeps q0 s) :
    Keeps q0 (twinBad s) := by
  unfold twinBad
  repeat' first
    | with_reducible assumption
    | (with_reducible apply badValue_keeps)
    | (with_reducible apply twinErr_keeps)

theorem pairMeet_keeps (s : State) {q0 : State} (hK : Keeps q0 s) :
    Keeps q0 (pairMeet s) := by
  unfold pairMeet
  repeat' first
    | with_reducible assumption
    | (lift_lets; intro x)
    | (with_reducible apply Keeps.ite)
    | (with_reducible apply twinErr_keeps)
    | (with_reducible apply twinGo_keeps)
    | (dsimp -zeta only [x])
    | split
    | (simp -zeta only [↓Keeps.lit])

theorem pair_keeps (s : State) (ovr : Bool) {q0 : State} (hK : Keeps q0 s) :
    Keeps q0 (pair s ovr) := by
  unfold pair
  repeat' first
    | with_reducible assumption
    | (intro x; refine Keeps.cut (q := q0) (x := x) ?_ ?_; pick_goal 2; clear_value x; intro hx)
    | (lift_lets; intro x)
    | (with_reducible apply Keeps.ite)
    | (with_reducible apply pairMeet_keeps)
    | (with_reducible apply tell_keeps)
    | (with_reducible apply twinBad_keeps)
    | (with_reducible apply twinErr_keeps)
    | (with_reducible apply twinGo_keeps)
    | (dsimp -zeta only [x])
    | (simp -zeta only [↓Keeps.lit])

theorem pairTimeout_keeps (s : State) {q0 : State} (hK : Keeps q0 s) :
    Keeps q0 (pairTimeout s) := by
  unfold pairTimeout
  repeat' first
    | with_reducible assumption
    | (with_reducible apply Keeps.ite)
    | (with_reducible apply twinErr_keeps)
    | (with_reducible apply twinGo_keeps)

theorem unpair_keeps (s : State) {q0 : State} (hK : Keeps q0 s) :
    Keeps q0 (unpair s) := by
  unfold unpair
  repeat' first
    | with_reducible assumption
    | (with_reducible apply Keeps.ite)
    | (with_reducible apply tell_keeps)
    | (with_reducible apply twinBad_keeps)
    | (with_reducible apply twinGo_keeps)

theorem reqDetach_keeps (s : State) {q0 : State} (hK : Keeps q0 s) :
    Keeps q0 (reqDetach s) := by
  unfold reqDetach
  repeat' first
    | with_reducible assumption
    | (with_reducible apply Keeps.ite)
    | (with_reducible apply tell_keeps)
    | (with_reducible apply twinBad_keeps)
    | (with_reducible apply twinGo_keeps)

theorem detachTimeout_keeps (s : State) {q0 : State} (hK : Keeps q0 s) :
    Keeps q0 (detachTimeout s) := by
  unfold detachTimeout
  repeat' first
    | with_reducible assumption
    | (with_reducible apply Keeps.ite)
    | (with_reducible apply twinErr_keeps)
    | (with_reducible apply twinGo_keeps)

theorem shrunk_keeps (s : State) {q0 : State} (hK : Keeps q0 s) :
    Keeps q0 (shrunk s) := by
  unfold shrunk
  repeat' first
    | with_reducible assumption
    | (with_reducible apply Keeps.ite)
    | (with_reducible apply tell_keeps)
    | (with_reducible apply twinBad_keeps)
    | (with_reducible apply twinGo_keeps)

theorem reqAttach_keeps (s : State) {q0 : State} (hK : Keeps q0 s) :
    Keeps q0 (reqAttach s) := by
  unfold reqAttach
  repeat' first
    | with_reducible assumption
    | (with_reducible apply Keeps.ite)
    | (with_reducible apply State.wr_keeps)
    | (with_reducible apply tell_keeps)
    | (with_reducible apply twinBad_keeps)
    | (with_reducible apply twinGo_keeps)

theorem attach_keeps (s : State) {q0 : State} (hK : Keeps q0 s) :
    Keeps q0 (attach s) := by
  unfold attach
  repeat' first
    | with_reducible assumption
    | (with_reducible apply Keeps.ite)
    | (with_reducible apply tell_keeps)
    | (with_reducible apply twinBad_keeps)
    | (with_reducible apply twinGo_keeps)

theorem twinAbort_keeps (s : State) {q0 : State} (hK : Keeps q0 s) :
    Keeps q0 (twinAbort s) := by
  unfold twinAbort
  repeat' first
    | with_reducible assumption
    | (with_reducible apply Keeps.ite)
    | (with_reducible apply tell_keeps)
    | (with_reducible apply twinBad_keeps)
    | (with_reducible apply twinGo_keeps)

theorem twinDigest_keeps (s : State) (same : Bool) {q0 : State} (hK : Keeps q0 s) :
    Keeps q0 (twinDigest s same) := by
  unfold twinDigest
  repeat' first
    | with_reducible assumption
    | (intro x; refine Keeps.cut (q := q0) (x := x) ?_ ?_; pick_goal 2; clear_value x; intro hx)
    | (lift_lets; intro x)
    | (with_reducible apply Keeps.ite)
    | (with_reducible apply State.wr_keeps)
    | (with_reducible apply twinErr_keeps)
    | (with_reducible apply twinGo_keeps)

theorem onDetach_keeps (s : State) {q0 : State} (hK : Keeps q0 s) :
    Keeps q0 (onDetach s) := by
  unfold onDetach
  repeat' first
    | with_reducible assumption
    | (with_reducible apply Keeps.ite)
    | (with_reducible apply tell_keeps)
    | (with_reducible apply twinErr_keeps)
    | (with_reducible apply twinGo_keeps)

theorem twinIn_keeps (s : State) (b : Nat) (m : TwinMsg) {q0 : State} (hK : Keeps q0 s) :
    Keeps q0 (twinIn s b m) := by
  unfold twinIn
  repeat' first
    | with_reducible assumption
    | (lift_lets; intro x)
    | (with_reducible apply Keeps.ite)
    | (with_reducible apply onDetach_keeps)
    | (with_reducible apply pairMeet_keeps)
    | (with_reducible apply twinDigest_keeps)
    | (with_reducible apply twinErr_keeps)
    | (with_reducible apply twinGo_keeps)
    | (dsimp -zeta only [x])
    | split
    | (simp -zeta only [↓Keeps.lit])

theorem setDir_keeps (s : State) (i d v : Nat) {q0 : State} (hK : Keeps q0 s) :
    Keeps q0 (setDir s i d v) := by
  unfold setDir
  repeat' first
    | with_reducible assumption
    | (lift_lets; intro x)
    | (intro x)
    | (with_reducible apply State.wr_keeps)

theorem setRowReg_keeps (s : State) (i w : Nat) {q0 : State} (hK : Keeps q0 s) :
    Keeps q0 (setRowReg s i w) := by
  unfold setRowReg
  repeat' first
    | with_reducible assumption
    | (lift_lets; intro x)
    | (intro x)
    | (with_reducible apply State.wr_keeps)

theorem setLog_keeps (s : State) (i j u : Nat) {q0 : State} (hK : Keeps q0 s) :
    Keeps q0 (setLog s i j u) := by
  unfold setLog
  repeat' first
    | with_reducible assumption
    | (lift_lets; intro x)
    | (with_reducible apply State.wr_keeps)

theorem setCaps_keeps (s : State) (rows : List Nat) (i : Nat) {q0 : State} (hK : Keeps q0 s) :
    Keeps q0 (setCaps s rows i) := by
  unfold setCaps
  repeat' first
    | with_reducible assumption
    | (lift_lets; intro x)
    | (with_reducible refine Keeps.upTo (fun _ _ _ => ?_) ?_)
    | (with_reducible apply State.wr_keeps)

theorem setEntry_keeps (s : State) (rows : List Nat) (n seq i : Nat) {q0 : State} (hK : Keeps q0 s) :
    Keeps q0 (setEntry s rows n seq i) := by
  unfold setEntry
  repeat' first
    | with_reducible assumption
    | (intro x; refine Keeps.cut (q := q0) (x := x) ?_ ?_; pick_goal 2; clear_value x; intro hx)
    | (lift_lets; intro x; refine Keeps.cut (q := q0) (x := x) ?_ ?_; pick_goal 2; clear_value x; intro hx)
    | (lift_lets; intro x)
    | (intro x)
    | (with_reducible refine Keeps.upTo (fun _ _ _ => ?_) ?_)
    | (with_reducible apply State.wr_keeps)
    | (with_reducible apply setCaps_keeps)
    | (with_reducible apply setDir_keeps)
    | (with_reducible apply setLog_keeps)
    | (with_reducible apply setRowReg_keeps)
    | split

theorem startNi_keeps (s : State) (i : Nat) {q0 : State} (hK : Keeps q0 s) :
    Keeps q0 (startNi s i) := by
  unfold startNi
  repeat' first
    | with_reducible assumption
    | (lift_lets; intro x)
    | (with_reducible apply Keeps.ite)
    | (with_reducible apply State.wr_keeps)

theorem showRows_keeps (s : State) (rows : List Nat) {q0 : State} (hK : Keeps q0 s) :
    Keeps q0 (showRows s rows) := by
  unfold showRows
  repeat' first
    | with_reducible assumption
    | (with_reducible refine Keeps.foldl (fun _ _ _ => ?_) ?_)
    | (with_reducible apply State.wr_keeps)

theorem showMap_keeps (s : State) (cls n seq : Nat) {q0 : State} (hK : Keeps q0 s) :
    Keeps q0 (showMap s cls n seq) := by
  unfold showMap
  repeat' first
    | with_reducible assumption
    | (with_reducible apply State.wr_keeps)

theorem mapRun_keeps (s : State) (body : List Nat) {q0 : State} (hK : Keeps q0 s) :
    Keeps q0 (mapRun s body) := by
  unfold mapRun
  repeat' first
    | with_reducible assumption
    | (intro x; refine Keeps.cut (q := q0) (x := x) ?_ ?_; pick_goal 2; clear_value x; intro hx)
    | (lift_lets; intro x)
    | (intro x)
    | (with_reducible apply Keeps.ite)
    | (with_reducible refine Keeps.upTo (fun _ _ _ => ?_) ?_)
    | (with_reducible apply State.wr_keeps)
    | (with_reducible apply recPut_keeps)
    | (with_reducible apply setEntry_keeps)
    | (with_reducible apply showMap_keeps)
    | (with_reducible apply showRows_keeps)
    | (with_reducible apply startNi_keeps)

theorem regionDrop_keeps (s : State) (r : Nat) {q0 : State} (hK : Keeps q0 s) :
    Keeps q0 (regionDrop s r) := by
  unfold regionDrop
  repeat' first
    | with_reducible assumption
    | (with_reducible apply Keeps.ite)
    | (with_reducible refine Keeps.foldl (fun _ _ _ => ?_) ?_)
    | (with_reducible apply State.setRegion_keeps)
    | (with_reducible apply State.wr_keeps)
    | (with_reducible apply quitSite_keeps)

theorem stepEnd_keeps (s : State) (st code : Nat) {q0 : State} (hK : Keeps q0 s) :
    Keeps q0 (stepEnd s st code) := by
  unfold stepEnd
  repeat' first
    | with_reducible assumption
    | (intro x; refine Keeps.cut (q := q0) (x := x) ?_ ?_; pick_goal 2; clear_value x; intro hx)
    | (lift_lets; intro x; refine Keeps.cut (q := q0) (x := x) ?_ ?_; pick_goal 2; clear_value x; intro hx)
    | (with_reducible apply State.wr_keeps)
    | (with_reducible apply panelEvent_keeps)
    | (with_reducible apply pfSet_keeps)

theorem stepFail_keeps (s : State) (code unit : Nat) {q0 : State} (hK : Keeps q0 s) :
    Keeps q0 (stepFail s code unit) := by
  unfold stepFail
  repeat' first
    | with_reducible assumption
    | (lift_lets; intro x)
    | (intro x)
    | (with_reducible apply stepEnd_keeps)
    | (dsimp -zeta only [x])
    | (simp -zeta only [↓Keeps.lit])

theorem stepPass_keeps (s : State) {q0 : State} (hK : Keeps q0 s) :
    Keeps q0 (stepPass s) := by
  unfold stepPass
  repeat' first
    | with_reducible assumption
    | (lift_lets; intro x)
    | (with_reducible apply State.wr_keeps)
    | (with_reducible apply stepEnd_keeps)

theorem enterFailed_keeps (s : State) (i : Nat) {q0 : State} (hK : Keeps q0 s) :
    Keeps q0 (enterFailed s i) := by
  unfold enterFailed
  repeat' first
    | with_reducible assumption
    | (lift_lets; intro x; refine Keeps.cut (q := q0) (x := x) ?_ ?_; pick_goal 2; clear_value x; intro hx)
    | (intro x)
    | (with_reducible apply Keeps.ite)
    | (with_reducible apply State.orBits_keeps)
    | (dsimp -zeta only [x])
    | (simp -zeta only [↓Keeps.lit])

theorem linkUp_keeps (s : State) (i : Nat) {q0 : State} (hK : Keeps q0 s) :
    Keeps q0 (linkUp s i) := by
  unfold linkUp
  repeat' first
    | with_reducible assumption
    | (intro x; refine Keeps.cut (q := q0) (x := x) ?_ ?_; pick_goal 2; clear_value x; intro hx)
    | (lift_lets; intro x)
    | (with_reducible apply Keeps.ite)
    | (with_reducible apply State.wr_keeps)
    | (with_reducible apply regsReset_keeps)

theorem hubUp_keeps (s : State) (h : Nat) {q0 : State} (hK : Keeps q0 s) :
    Keeps q0 (hubUp s h) := by
  unfold hubUp
  repeat' first
    | with_reducible assumption
    | (intro x; refine Keeps.cut (q := q0) (x := x) ?_ ?_; pick_goal 2; clear_value x; intro hx)
    | (lift_lets; intro x)
    | (with_reducible apply Keeps.ite)
    | (with_reducible apply State.setHubDom_keeps)
    | (with_reducible apply regsReset_keeps)

theorem calLoad_keeps (s : State) (i : Nat) {q0 : State} (hK : Keeps q0 s) :
    Keeps q0 (calLoad s i) := by
  unfold calLoad
  repeat' first
    | with_reducible assumption
    | (intro x; refine Keeps.cut (q := q0) (x := x) ?_ ?_; pick_goal 2; clear_value x; intro hx)
    | (lift_lets; intro x)
    | (intro x)
    | (with_reducible apply State.setBit_keeps)
    | (with_reducible apply State.setSite_keeps)
    | (with_reducible apply State.wr_keeps)
    | (with_reducible apply siteEvent_keeps)
    | (dsimp -zeta only [x])
    | split

theorem logicUp_keeps (s : State) (i : Nat) {q0 : State} (hK : Keeps q0 s) :
    Keeps q0 (logicUp s i) := by
  unfold logicUp
  repeat' first
    | with_reducible assumption
    | (intro x; refine Keeps.cut (q := q0) (x := x) ?_ ?_; pick_goal 2; clear_value x; intro hx)
    | (lift_lets; intro x)
    | (intro x)
    | (with_reducible apply Keeps.ite)
    | (with_reducible refine Keeps.foldl (fun _ _ _ => ?_) ?_)
    | (with_reducible apply State.setCore_keeps)
    | (with_reducible apply State.setSite_keeps)
    | (with_reducible apply State.wr_keeps)
    | (with_reducible apply calLoad_keeps)
    | (with_reducible apply regsReset_keeps)

theorem domainsOff_keeps (s : State) {q0 : State} (hK : Keeps q0 s) :
    Keeps q0 (domainsOff s) := by
  unfold domainsOff
  repeat' first
    | with_reducible assumption
    | (lift_lets; intro x; refine Keeps.cut (q := q0) (x := x) ?_ ?_; pick_goal 2; clear_value x; intro hx)
    | (with_reducible refine Keeps.upTo (fun _ _ _ => ?_) ?_)
    | (with_reducible apply State.wr_keeps)
    | (simp -zeta only [↓Keeps.lit])

theorem baseStart_keeps (s : State) {q0 : State} (hK : Keeps q0 s) :
    Keeps q0 (baseStart s) := by
  unfold baseStart
  repeat' first
    | with_reducible assumption
    | (intro x; refine Keeps.cut (q := q0) (x := x) ?_ ?_; pick_goal 2; clear_value x; intro hx)
    | (lift_lets; intro x; refine Keeps.cut (q := q0) (x := x) ?_ ?_; pick_goal 2; clear_value x; intro hx)
    | (with_reducible apply State.wr_keeps)
    | (with_reducible apply domainsOff_keeps)
    | (dsimp -zeta only [x])
    | (simp -zeta only [↓Keeps.lit])

theorem memStart_keeps (s : State) {q0 : State} (hK : Keeps q0 s) :
    Keeps q0 (memStart s) := by
  unfold memStart
  repeat' first
    | with_reducible assumption
    | (intro x; refine Keeps.cut (q := q0) (x := x) ?_ ?_; pick_goal 2; clear_value x; intro hx)
    | (lift_lets; intro x; refine Keeps.cut (q := q0) (x := x) ?_ ?_; pick_goal 2; clear_value x; intro hx)
    | (with_reducible refine Keeps.foldl (fun _ _ _ => ?_) ?_)
    | (with_reducible refine Keeps.upTo (fun _ _ _ => ?_) ?_)
    | (with_reducible apply State.wr_keeps)
    | (with_reducible apply clearSram_keeps)
    | (with_reducible apply clearWell_keeps)

theorem heldPort_keeps (s : State) {q0 : State} (hK : Keeps q0 s) :
    Keeps q0 (heldPort s) := by
  unfold heldPort
  repeat' first
    | with_reducible assumption
    | (with_reducible apply State.setBit_keeps)
    | (with_reducible apply panelEvent_keeps)

theorem fabricPort_keeps (s : State) (h p : Nat) {q0 : State} (hK : Keeps q0 s) :
    Keeps q0 (fabricPort s h p) := by
  unfold fabricPort
  repeat' first
    | with_reducible assumption
    | (lift_lets; intro x)
    | (with_reducible apply Keeps.ite)
    | (with_reducible apply State.wr_keeps)
    | (with_reducible apply heldPort_keeps)
    | (with_reducible apply portDisable_keeps)

theorem fabricStart_keeps (s : State) {q0 : State} (hK : Keeps q0 s) :
    Keeps q0 (fabricStart s) := by
  unfold fabricStart
  repeat' first
    | with_reducible assumption
    | (intro x; refine Keeps.cut (q := q0) (x := x) ?_ ?_; pick_goal 2; clear_value x; intro hx)
    | (lift_lets; intro x)
    | (with_reducible apply Keeps.ite)
    | (with_reducible refine Keeps.upTo (fun _ _ _ => ?_) ?_)
    | (with_reducible apply fabricPort_keeps)
    | (dsimp -zeta only [x])
    | (simp -zeta only [↓Keeps.lit])

theorem stepStart_keeps (s : State) (n : Nat) {q0 : State} (hK : Keeps q0 s) :
    Keeps q0 (stepStart s n) := by
  unfold stepStart
  repeat' first
    | with_reducible assumption
    | (with_reducible refine Keeps.upTo (fun _ _ _ => ?_) ?_)
    | (with_reducible apply State.setHubDom_keeps)
    | (with_reducible apply State.wr_keeps)
    | (with_reducible apply baseStart_keeps)
    | (with_reducible apply fabricStart_keeps)
    | (with_reducible apply hubUp_keeps)
    | (with_reducible apply linkUp_keeps)
    | (with_reducible apply memStart_keeps)
    | split
    | (simp -zeta only [↓Keeps.lit])

theorem stepGo_keeps (s : State) (n : Nat) {q0 : State} (hK : Keeps q0 s) :
    Keeps q0 (stepGo s n) := by
  unfold stepGo
  repeat' first
    | with_reducible assumption
    | (intro x; refine Keeps.cut (q := q0) (x := x) ?_ ?_; pick_goal 2; clear_value x; intro hx)
    | (lift_lets; intro x; refine Keeps.cut (q := q0) (x := x) ?_ ?_; pick_goal 2; clear_value x; intro hx)
    | (intro x)
    | (with_reducible apply Keeps.ite)
    | (with_reducible refine Keeps.upTo (fun _ _ _ => ?_) ?_)
    | (with_reducible apply State.wr_keeps)
    | (with_reducible apply regionDrop_keeps)
    | (with_reducible apply stepStart_keeps)
    | (dsimp -zeta only [x])
    | (simp -zeta only [↓Keeps.lit])

theorem stepWrite_keeps (s : State) (n : Nat) (via : Option Nat) {q0 : State} (hK : Keeps q0 s) :
    OptKeeps q0 (stepWrite s n via) := by
  unfold stepWrite
  repeat' first
    | with_reducible assumption
    | (with_reducible exact OptKeeps.none)
    | (with_reducible apply OptKeeps.some)
    | (lift_lets; intro x; refine Keeps.cut (q := q0) (x := x) ?_ ?_; pick_goal 2; clear_value x; intro hx)
    | (intro x)
    | (with_reducible apply Keeps.ite)
    | (with_reducible apply OptKeeps.ite)
    | (with_reducible apply stepGo_keeps)
    | (dsimp -zeta only [x])
    | (simp -zeta only [↓Keeps.lit])

theorem boot_keeps (s : State) (k : Nat) {q0 : State} (hK : Keeps q0 s) :
    Keeps q0 (boot s k) := by
  unfold boot
  repeat' first
    | with_reducible assumption
    | (intro x; refine Keeps.cut (q := q0) (x := x) ?_ ?_; pick_goal 2; clear_value x; intro hx)
    | (lift_lets; intro x)
    | (with_reducible apply State.wr_keeps)
    | (with_reducible apply State.wrap_keeps)

theorem showCap_keeps (s : State) (h : Nat) {q0 : State} (hK : Keeps q0 s) :
    Keeps q0 (showCap s h) := by
  unfold showCap
  repeat' first
    | with_reducible assumption
    | (with_reducible apply State.wr_keeps)

theorem baseDone_keeps (s : State) {q0 : State} (hK : Keeps q0 s) :
    Keeps q0 (baseDone s) := by
  unfold baseDone
  repeat' first
    | with_reducible assumption
    | (intro x; refine Keeps.cut (q := q0) (x := x) ?_ ?_; pick_goal 2; clear_value x; intro hx)
    | (lift_lets; intro x; refine Keeps.cut (q := q0) (x := x) ?_ ?_; pick_goal 2; clear_value x; intro hx)
    | (lift_lets; intro x)
    | (with_reducible apply Keeps.ite)
    | (with_reducible apply State.setBit_keeps)
    | (with_reducible apply State.wr_keeps)
    | (with_reducible apply boot_keeps)
    | (with_reducible apply panelEvent_keeps)
    | (with_reducible apply stepFail_keeps)
    | (with_reducible apply stepPass_keeps)
    | (dsimp -zeta only [x])
    | split
    | (simp -zeta only [↓Keeps.lit])

theorem discoverDone_keeps (s : State) {q0 : State} (hK : Keeps q0 s) :
    Keeps q0 (discoverDone s) := by
  unfold discoverDone
  repeat' first
    | with_reducible assumption
    | (with_reducible refine Keeps.upTo (fun _ _ _ => ?_) ?_)
    | (with_reducible apply State.wr_keeps)
    | (with_reducible apply showCap_keeps)
    | (with_reducible apply stepPass_keeps)
    | (simp -zeta only [↓Keeps.lit])

theorem fenceDone_keeps (s : State) (dies : List (BitVec 4 × BitVec 6)) {q0 : State} (hK : Keeps q0 s) :
    Keeps q0 (fenceDone s dies) := by
  unfold fenceDone
  repeat' first
    | with_reducible assumption
    | (intro x; refine Keeps.cut (q := q0) (x := x) ?_ ?_; pick_goal 2; clear_value x; intro hx)
    | (lift_lets; intro x)
    | (intro x)
    | (with_reducible apply Keeps.ite)
    | (with_reducible refine Keeps.upTo (fun _ _ _ => ?_) ?_)
    | (with_reducible apply State.setHub_keeps)
    | (with_reducible apply State.wr_keeps)
    | (with_reducible apply stepFail_keeps)
    | (with_reducible apply stepPass_keeps)

theorem laneLoad_keeps (s : State) {q0 : State} (hK : Keeps q0 s) :
    Keeps q0 (laneLoad s) := by
  unfold laneLoad
  repeat' first
    | with_reducible assumption
    | (lift_lets; intro x)
    | (intro x)
    | (dsimp -zeta only [x])
    | (simp -zeta only [↓Keeps.lit])

theorem laneNote_keeps (s : State) (l : LanePort) {q0 : State} (hK : Keeps q0 s) :
    Keeps q0 (laneNote s l) := by
  unfold laneNote
  repeat' first
    | with_reducible assumption
    | (lift_lets; intro x)
    | (intro x)
    | (dsimp -zeta only [x])
    | (simp -zeta only [↓Keeps.lit])

theorem laneShow_keeps (s : State) (rows : List Nat) (i : Nat) {q0 : State} (hK : Keeps q0 s) :
    Keeps q0 (laneShow s rows i) := by
  unfold laneShow
  repeat' first
    | with_reducible assumption
    | (lift_lets; intro x)
    | (with_reducible apply State.wr_keeps)
    | (with_reducible apply setCaps_keeps)

theorem x16Train_keeps (s : State) (q : BitVec 4 × BitVec 5 × BitVec 3 × BitVec 13) {q0 : State} (hK : Keeps q0 s) :
    Keeps q0 (x16Train s q) := by
  unfold x16Train
  repeat' first
    | with_reducible assumption
    | (intro x; refine Keeps.cut (q := q0) (x := x) ?_ ?_; pick_goal 2; clear_value x; intro hx)
    | (lift_lets; intro x)
    | (intro x)
    | (with_reducible apply Keeps.ite)
    | (with_reducible apply State.wr_keeps)

theorem lanesDone_keeps (s : State) (d : StepRep) {q0 : State} (hK : Keeps q0 s) :
    Keeps q0 (lanesDone s d) := by
  unfold lanesDone
  repeat' first
    | with_reducible assumption
    | (intro x; refine Keeps.cut (q := q0) (x := x) ?_ ?_; pick_goal 2; clear_value x; intro hx)
    | (lift_lets; intro x; refine Keeps.cut (q := q0) (x := x) ?_ ?_; pick_goal 2; clear_value x; intro hx)
    | (intro x)
    | (with_reducible apply Keeps.ite)
    | (with_reducible refine Keeps.foldl (fun _ _ _ => ?_) ?_)
    | (with_reducible refine Keeps.upTo (fun _ _ _ => ?_) ?_)
    | (with_reducible apply State.wr_keeps)
    | (with_reducible apply laneLoad_keeps)
    | (with_reducible apply laneNote_keeps)
    | (with_reducible apply laneShow_keeps)
    | (with_reducible apply recPut_keeps)
    | (with_reducible apply recRead_keeps)
    | (with_reducible apply stepFail_keeps)
    | (with_reducible apply stepPass_keeps)
    | (with_reducible apply x16Train_keeps)

theorem mapDone_keeps (s : State) {q0 : State} (hK : Keeps q0 s) :
    Keeps q0 (mapDone s) := by
  unfold mapDone
  repeat' first
    | with_reducible assumption
    | (lift_lets; intro x; refine Keeps.cut (q := q0) (x := x) ?_ ?_; pick_goal 2; clear_value x; intro hx)
    | (lift_lets; intro x)
    | (with_reducible apply Keeps.ite)
    | (with_reducible apply mapRun_keeps)
    | (with_reducible apply recRead_keeps)
    | (with_reducible apply stepFail_keeps)
    | (with_reducible apply stepPass_keeps)
    | split

theorem powerDone_keeps (s : State) {q0 : State} (hK : Keeps q0 s) :
    Keeps q0 (powerDone s) := by
  unfold powerDone
  repeat' first
    | with_reducible assumption
    | (lift_lets; intro x; refine Keeps.cut (q := q0) (x := x) ?_ ?_; pick_goal 2; clear_value x; intro hx)
    | (with_reducible refine Keeps.foldl (fun _ _ _ => ?_) ?_)
    | (with_reducible apply logicUp_keeps)
    | (with_reducible apply recRead_keeps)
    | (with_reducible apply stepPass_keeps)
    | (simp -zeta only [↓Keeps.lit])

theorem meshDone_keeps (s : State) (comp : List (BitVec 8 × BitVec 24)) {q0 : State} (hK : Keeps q0 s) :
    Keeps q0 (meshDone s comp) := by
  unfold meshDone
  repeat' first
    | with_reducible assumption
    | (lift_lets; intro x; refine Keeps.cut (q := q0) (x := x) ?_ ?_; pick_goal 2; clear_value x; intro hx)
    | (with_reducible apply Keeps.ite)
    | (with_reducible refine Keeps.foldl (fun _ _ _ => ?_) ?_)
    | (with_reducible refine Keeps.upTo (fun _ _ _ => ?_) ?_)
    | (with_reducible apply State.wr_keeps)
    | (with_reducible apply stepPass_keeps)

theorem memDone_keeps (s : State) {q0 : State} (hK : Keeps q0 s) :
    Keeps q0 (memDone s) := by
  unfold memDone
  repeat' first
    | with_reducible assumption
    | (intro x; refine Keeps.cut (q := q0) (x := x) ?_ ?_; pick_goal 2; clear_value x; intro hx)
    | (lift_lets; intro x; refine Keeps.cut (q := q0) (x := x) ?_ ?_; pick_goal 2; clear_value x; intro hx)
    | (with_reducible refine Keeps.foldl (fun _ _ _ => ?_) ?_)
    | (with_reducible refine Keeps.upTo (fun _ _ _ => ?_) ?_)
    | (with_reducible apply State.wr_keeps)
    | (with_reducible apply stepPass_keeps)

theorem setEff_keeps (s : State) (e : Nat × Nat × Nat × Nat × Nat) {q0 : State} (hK : Keeps q0 s) :
    Keeps q0 (setEff s e) := by
  unfold setEff
  repeat' first
    | with_reducible assumption
    | (intro x; refine Keeps.cut (q := q0) (x := x) ?_ ?_; pick_goal 2; clear_value x; intro hx)
    | (lift_lets; intro x)
    | (with_reducible apply State.wr_keeps)

theorem holdX16_keeps (s : State) (hs : List Nat) {q0 : State} (hK : Keeps q0 s) :
    Keeps q0 (holdX16 s hs) := by
  unfold holdX16
  repeat' first
    | with_reducible assumption
    | (lift_lets; intro x; refine Keeps.cut (q := q0) (x := x) ?_ ?_; pick_goal 2; clear_value x; intro hx)
    | (with_reducible refine Keeps.foldl (fun _ _ _ => ?_) ?_)
    | (with_reducible apply State.wr_keeps)
    | (with_reducible apply heldPort_keeps)
    | (simp -zeta only [↓Keeps.lit])

theorem licenceDone_keeps (s : State) {q0 : State} (hK : Keeps q0 s) :
    Keeps q0 (licenceDone s) := by
  unfold licenceDone
  repeat' first
    | with_reducible assumption
    | (intro x; refine Keeps.cut (q := q0) (x := x) ?_ ?_; pick_goal 2; clear_value x; intro hx)
    | (lift_lets; intro x; refine Keeps.cut (q := q0) (x := x) ?_ ?_; pick_goal 2; clear_value x; intro hx)
    | (intro x)
    | (with_reducible apply Keeps.ite)
    | (with_reducible refine Keeps.upTo (fun _ _ _ => ?_) ?_)
    | (with_reducible apply State.setBit_keeps)
    | (with_reducible apply holdX16_keeps)
    | (with_reducible apply panelEvent_keeps)
    | (with_reducible apply recRead_keeps)
    | (with_reducible apply setEff_keeps)
    | (with_reducible apply showCap_keeps)
    | (with_reducible apply showLics_keeps)
    | (with_reducible apply stepFail_keeps)
    | (with_reducible apply stepPass_keeps)

theorem fabricDone_keeps (s : State) {q0 : State} (hK : Keeps q0 s) :
    Keeps q0 (fabricDone s) := by
  unfold fabricDone
  repeat' first
    | with_reducible assumption
    | (with_reducible apply Keeps.ite)
    | (with_reducible apply stepPass_keeps)

theorem readyDone_keeps (s : State) {q0 : State} (hK : Keeps q0 s) :
    Keeps q0 (readyDone s) := by
  unfold readyDone
  repeat' first
    | with_reducible assumption
    | (with_reducible apply Keeps.ite)
    | (with_reducible apply stepFail_keeps)
    | (with_reducible apply stepPass_keeps)
    | (simp -zeta only [↓Keeps.lit])

theorem powerPart_keeps (s : State) (d : StepRep) {q0 : State} (hK : Keeps q0 s) :
    Keeps q0 (powerPart s d) := by
  unfold powerPart
  repeat' first
    | with_reducible assumption
    | (lift_lets; intro x)
    | (intro x)
    | (with_reducible refine Keeps.foldl (fun _ _ _ => ?_) ?_)
    | (with_reducible apply logicUp_keeps)

theorem stepBroken_keeps (s : State) (n : Nat) (d : StepRep) (k unit : Nat) {q0 : State} (hK : Keeps q0 s) :
    Keeps q0 (stepBroken s n d k unit) := by
  unfold stepBroken
  repeat' first
    | with_reducible assumption
    | (lift_lets; intro x; refine Keeps.cut (q := q0) (x := x) ?_ ?_; pick_goal 2; clear_value x; intro hx)
    | (with_reducible apply Keeps.ite)
    | (with_reducible apply powerPart_keeps)
    | (with_reducible apply pwrErr_keeps)
    | (with_reducible apply stepFail_keeps)

theorem stepDone_keeps (s : State) (d : StepRep) {q0 : State} (hK : Keeps q0 s) :
    Keeps q0 (stepDone s d) := by
  unfold stepDone
  repeat' first
    | with_reducible assumption
    | (intro x; refine Keeps.cut (q := q0) (x := x) ?_ ?_; pick_goal 2; clear_value x; intro hx)
    | (lift_lets; intro x; clear_value x)
    | (intro x; clear_value x)
    | (with_reducible apply Keeps.ite)
    | (with_reducible refine Keeps.foldl (fun _ _ _ => ?_) ?_)
    | (with_reducible apply State.wr_keeps)
    | (with_reducible apply baseDone_keeps)
    | (with_reducible apply discoverDone_keeps)
    | (with_reducible apply enterFailed_keeps)
    | (with_reducible apply fabricDone_keeps)
    | (with_reducible apply fenceDone_keeps)
    | (with_reducible apply lanesDone_keeps)
    | (with_reducible apply licenceDone_keeps)
    | (with_reducible apply mapDone_keeps)
    | (with_reducible apply memDone_keeps)
    | (with_reducible apply meshDone_keeps)
    | (with_reducible apply powerDone_keeps)
    | (with_reducible apply readyDone_keeps)
    | (with_reducible apply siteFail_keeps)
    | (with_reducible apply stepBroken_keeps)
    | (with_reducible apply stepPass_keeps)
    | split
    | (simp -zeta only [↓Keeps.lit])

theorem stepTimeout_keeps (s : State) {q0 : State} (hK : Keeps q0 s) :
    Keeps q0 (stepTimeout s) := by
  unfold stepTimeout
  repeat' first
    | with_reducible assumption
    | (with_reducible apply Keeps.ite)
    | (with_reducible apply stepFail_keeps)

theorem powerOn_keeps (s : State) {q0 : State} (hK : Keeps q0 s) :
    Keeps q0 (powerOn s) := by
  unfold powerOn
  repeat' first
    | with_reducible assumption
    | (with_reducible apply Keeps.ite)
    | (with_reducible apply stepGo_keeps)
    | (simp -zeta only [↓Keeps.lit])

theorem stageLoss_keeps (s : State) {q0 : State} (hK : Keeps q0 s) : Keeps q0 (stageLoss s) := by
  unfold stageLoss
  refine ⟨hK.pending, fun _ => (by decide : Memory.wf {} = true), fun _ => ?_, hK.out⟩
  show Rising (tabInsert (tabInsert resetRegs (fldKey pmP Reg.Pm.SVN_FLOOR) _) (fldKey pmP Reg.Pm.FW_STATE) _)
  have hr : Rising resetRegs := of_decide_eq_true (p := resetRegs.Pairwise (fun a b : Nat × Nat => a.1 < b.1)) (by decide)
  have h1 : ∀ p ∈ resetRegs, p.1 ≠ fldKey pmP Reg.Pm.SVN_FLOOR := by decide
  have h2 : ∀ p ∈ resetRegs, p.1 ≠ fldKey pmP Reg.Pm.FW_STATE := by decide
  refine rising_insert (rising_insert hr _ h1) _ (fun p hp => ?_)
  rcases tabInsert_mem hp with rfl | hp
  · show fldKey pmP Reg.Pm.SVN_FLOOR ≠ fldKey pmP Reg.Pm.FW_STATE
    decide
  · exact h2 p hp

theorem domainTimeout_keeps (s : State) (u : PowerUnit) (d : Nat) {q0 : State} (hK : Keeps q0 s) :
    Keeps q0 (domainTimeout s u d) := by
  unfold domainTimeout
  repeat' first
    | with_reducible assumption
    | (intro x; refine Keeps.cut (q := q0) (x := x) ?_ ?_; pick_goal 2; clear_value x; intro hx)
    | (lift_lets; intro x; refine Keeps.cut (q := q0) (x := x) ?_ ?_; pick_goal 2; clear_value x; intro hx)
    | (lift_lets; intro x)
    | (intro x)
    | (with_reducible apply Keeps.ite)
    | (with_reducible apply State.setHubDom_keeps)
    | (with_reducible apply State.wr_keeps)
    | (with_reducible apply enterFailed_keeps)
    | (with_reducible apply pwrErr_keeps)
    | (with_reducible apply siteFail_keeps)
    | (with_reducible apply stepFail_keeps)
    | (dsimp -zeta only [x])
    | split

theorem stepAct_keeps (s : State) (n : Nat) (via : Option Nat) {q0 : State} (hK : Keeps q0 s) :
    Keeps q0 (stepAct s n via) := by
  unfold stepAct
  repeat' first
    | with_reducible assumption
    | (with_reducible apply stepWrite_keeps)
    | (with_reducible apply hostAct_keeps)

theorem install_keeps (s : State) (ok : Bool) {q0 : State} (hK : Keeps q0 s) :
    OptKeeps q0 (install s ok) := by
  unfold install
  repeat' first
    | with_reducible assumption
    | (with_reducible exact OptKeeps.none)
    | (with_reducible apply OptKeeps.some)
    | (intro x; refine Keeps.cut (q := q0) (x := x) ?_ ?_; pick_goal 2; clear_value x; intro hx)
    | (lift_lets; intro x)
    | (intro x)
    | (with_reducible apply OptKeeps.ite)
    | (with_reducible apply State.draw_keeps)
    | (with_reducible apply State.wr_keeps)
    | (with_reducible apply recPut_keeps)
    | (with_reducible apply showLics_keeps)

theorem licRemove_keeps (s : State) (k : Nat) (ok : Bool) {q0 : State} (hK : Keeps q0 s) :
    OptKeeps q0 (licRemove s k ok) := by
  unfold licRemove
  repeat' first
    | with_reducible assumption
    | (with_reducible exact OptKeeps.none)
    | (with_reducible apply OptKeeps.some)
    | (with_reducible apply OptKeeps.ite)
    | (with_reducible apply State.wr_keeps)
    | (with_reducible apply recPut_keeps)
    | (with_reducible apply showLics_keeps)

theorem dateCheck_keeps (s : State) (k : Nat) {q0 : State} (hK : Keeps q0 s) :
    Keeps q0 (dateCheck s k) := by
  unfold dateCheck
  repeat' first
    | with_reducible assumption
    | (lift_lets; intro x)
    | (with_reducible apply Keeps.ite)
    | (with_reducible apply State.setBit_keeps)
    | (with_reducible apply panelEvent_keeps)
    | (dsimp -zeta only [x])
    | (simp -zeta only [↓Keeps.lit])

theorem licDates_keeps (s : State) {q0 : State} (hK : Keeps q0 s) :
    Keeps q0 (licDates s) := by
  unfold licDates
  repeat' first
    | with_reducible assumption
    | (with_reducible apply Keeps.ite)
    | (with_reducible refine Keeps.upTo (fun _ _ _ => ?_) ?_)
    | (with_reducible apply dateCheck_keeps)
    | (with_reducible apply showLics_keeps)

theorem showRange_keeps (s : State) {q0 : State} (hK : Keeps q0 s) :
    Keeps q0 (showRange s) := by
  unfold showRange
  repeat' first
    | with_reducible assumption
    | (with_reducible apply State.wr_keeps)

theorem setTime_keeps (s : State) (t : Nat) {q0 : State} (hK : Keeps q0 s) :
    Keeps q0 (setTime s t) := by
  unfold setTime
  repeat' first
    | with_reducible assumption
    | (intro x; refine Keeps.cut (q := q0) (x := x) ?_ ?_; pick_goal 2; clear_value x; intro hx)
    | (lift_lets; intro x)
    | (with_reducible apply State.bump_keeps)
    | (with_reducible apply State.wr_keeps)
    | (with_reducible apply logAdd_keeps)
    | (with_reducible apply showRange_keeps)
    | (simp -zeta only [↓Keeps.lit])

theorem setGo_keeps (s : State) {q0 : State} (hK : Keeps q0 s) :
    Keeps q0 (setGo s) := by
  unfold setGo
  repeat' first
    | with_reducible assumption
    | (lift_lets; intro x)
    | (with_reducible apply Keeps.ite)
    | (with_reducible apply State.setBit_keeps)
    | (with_reducible apply badValue_keeps)
    | (with_reducible apply setTime_keeps)

theorem calGo_keeps (s : State) {q0 : State} (hK : Keeps q0 s) :
    Keeps q0 (calGo s) := by
  unfold calGo
  repeat' first
    | with_reducible assumption
    | (with_reducible apply Keeps.ite)
    | (with_reducible apply State.setBit_keeps)
    | (with_reducible apply badValue_keeps)
    | (with_reducible apply setTime_keeps)

theorem logCopy_keeps (s : State) (n : Nat) (fail : Bool) {q0 : State} (hK : Keeps q0 s) :
    Keeps q0 (logCopy s n fail) := by
  unfold logCopy
  repeat' first
    | with_reducible assumption
    | (intro x; refine Keeps.cut (q := q0) (x := x) ?_ ?_; pick_goal 2; clear_value x; intro hx)
    | (lift_lets; intro x)
    | (intro x)
    | (with_reducible apply Keeps.ite)
    | (with_reducible apply State.setBit_keeps)
    | (with_reducible apply State.wr_keeps)
    | (dsimp -zeta only [x])
    | split
    | (simp -zeta only [↓Keeps.lit])

theorem timerClear_keeps (s : State) (c : CoreId) (t : Nat) {q0 : State} (hK : Keeps q0 s) :
    Keeps q0 (timerClear s c t) := by
  unfold timerClear
  repeat' first
    | with_reducible assumption
    | (intro x; refine Keeps.cut (q := q0) (x := x) ?_ ?_; pick_goal 2; clear_value x; intro hx)
    | (lift_lets; intro x)
    | (intro x)
    | (with_reducible apply State.wr_keeps)
    | (with_reducible apply State.wrAll_keeps)
    | (with_reducible apply timerRun_keeps)

theorem stageEnd_keeps (s : State) (code : Nat) {q0 : State} (hK : Keeps q0 s) :
    Keeps q0 (stageEnd s code) := by
  unfold stageEnd
  repeat' first
    | with_reducible assumption
    | (lift_lets; intro x; refine Keeps.cut (q := q0) (x := x) ?_ ?_; pick_goal 2; clear_value x; intro hx)
    | (with_reducible apply Keeps.ite)
    | (with_reducible apply State.setBit_keeps)
    | (with_reducible apply State.wr_keeps)
    | (with_reducible apply panelEvent_keeps)

theorem fetch_keeps (s : State) {q0 : State} (hK : Keeps q0 s) :
    OptKeeps q0 (fetch s) := by
  unfold fetch
  repeat' first
    | with_reducible assumption
    | (with_reducible exact OptKeeps.none)
    | (with_reducible apply OptKeeps.some)
    | (intro x; refine Keeps.cut (q := q0) (x := x) ?_ ?_; pick_goal 2; clear_value x; intro hx)
    | (lift_lets; intro x)
    | (intro x)
    | (with_reducible apply OptKeeps.ite)
    | (with_reducible apply State.emit_keeps)
    | (with_reducible apply State.setFw_keeps)
    | (with_reducible apply State.wr_keeps)
    | (with_reducible apply stageEnd_keeps)

theorem stageDone_keeps (s : State) (m : FwImage) (hostErr flashErr : Bool) {q0 : State} (hK : Keeps q0 s) :
    Keeps q0 (stageDone s m hostErr flashErr) := by
  unfold stageDone
  repeat' first
    | with_reducible assumption
    | (intro x; refine Keeps.cut (q := q0) (x := x) ?_ ?_; pick_goal 2; clear_value x; intro hx)
    | (lift_lets; intro x)
    | (with_reducible apply Keeps.ite)
    | (with_reducible apply State.setFw_keeps)
    | (with_reducible apply stageEnd_keeps)

theorem restartGo_keeps (s : State) (ready : Bool) (kind : Nat) {q0 : State} (hK : Keeps q0 s) :
    Keeps q0 (restartGo s ready kind) := by
  unfold restartGo
  repeat' first
    | with_reducible assumption
    | (intro x; refine Keeps.cut (q := q0) (x := x) ?_ ?_; pick_goal 2; clear_value x; intro hx)
    | (lift_lets; intro x; refine Keeps.cut (q := q0) (x := x) ?_ ?_; pick_goal 2; clear_value x; intro hx)
    | (with_reducible apply State.setBit_keeps)
    | (with_reducible apply State.wr_keeps)
    | (with_reducible apply badValue_keeps)
    | (with_reducible apply panelEvent_keeps)
    | split
    | (simp -zeta only [↓Keeps.lit])

theorem activate_keeps (s : State) {q0 : State} (hK : Keeps q0 s) :
    Keeps q0 (activate s) := by
  unfold activate
  repeat' first
    | with_reducible assumption
    | (with_reducible apply restartGo_keeps)

theorem revert_keeps (s : State) {q0 : State} (hK : Keeps q0 s) :
    Keeps q0 (revert s) := by
  unfold revert
  repeat' first
    | with_reducible assumption
    | (with_reducible apply restartGo_keeps)

theorem fwAlive_keeps (s : State) {q0 : State} (hK : Keeps q0 s) :
    Keeps q0 (fwAlive s) := by
  unfold fwAlive
  repeat' first
    | with_reducible assumption
    | (intro x; refine Keeps.cut (q := q0) (x := x) ?_ ?_; pick_goal 2; clear_value x; intro hx)
    | (lift_lets; intro x; refine Keeps.cut (q := q0) (x := x) ?_ ?_; pick_goal 2; clear_value x; intro hx)
    | (with_reducible apply Keeps.ite)
    | (with_reducible refine Keeps.upTo (fun _ _ _ => ?_) ?_)
    | (with_reducible apply State.setBit_keeps)
    | (with_reducible apply State.wr_keeps)
    | (with_reducible apply boot_keeps)
    | (with_reducible apply panelEvent_keeps)
    | (with_reducible apply showCap_keeps)
    | split
    | (simp -zeta only [↓Keeps.lit])

theorem fwBootTimeout_keeps (s : State) {q0 : State} (hK : Keeps q0 s) :
    Keeps q0 (fwBootTimeout s) := by
  unfold fwBootTimeout
  repeat' first
    | with_reducible assumption
    | (intro x; refine Keeps.cut (q := q0) (x := x) ?_ ?_; pick_goal 2; clear_value x; intro hx)
    | (lift_lets; intro x)
    | (with_reducible apply Keeps.ite)
    | (with_reducible apply State.setFw_keeps)
    | split
    | (simp -zeta only [↓Keeps.lit])

theorem confirm_keeps (s : State) {q0 : State} (hK : Keeps q0 s) :
    OptKeeps q0 (confirm s) := by
  unfold confirm
  repeat' first
    | with_reducible assumption
    | (with_reducible exact OptKeeps.none)
    | (with_reducible apply OptKeeps.some)
    | (intro x; refine Keeps.cut (q := q0) (x := x) ?_ ?_; pick_goal 2; clear_value x; intro hx)
    | (lift_lets; intro x)
    | (intro x)
    | (with_reducible apply OptKeeps.ite)
    | (with_reducible apply State.setFw_keeps)
    | (with_reducible apply State.wr_keeps)

theorem fwDiscard_keeps (s : State) {q0 : State} (hK : Keeps q0 s) :
    OptKeeps q0 (fwDiscard s) := by
  unfold fwDiscard
  repeat' first
    | with_reducible assumption
    | (with_reducible exact OptKeeps.none)
    | (with_reducible apply OptKeeps.some)
    | (lift_lets; intro x)
    | (intro x)
    | (with_reducible apply OptKeeps.ite)
    | (with_reducible apply State.setFw_keeps)
    | (with_reducible apply State.wr_keeps)

theorem recWrite_keeps (s : State) (ok : Bool) {q0 : State} (hK : Keeps q0 s) :
    Keeps q0 (recWrite s ok) := by
  unfold recWrite
  repeat' first
    | with_reducible assumption
    | (intro x; refine Keeps.cut (q := q0) (x := x) ?_ ?_; pick_goal 2; clear_value x; intro hx)
    | (lift_lets; intro x)
    | (intro x)
    | (with_reducible apply Keeps.ite)
    | (with_reducible apply State.wr_keeps)
    | (with_reducible apply recPut_keeps)

theorem propose_keeps (s : State) (rows : List Nat) (n inSite regions : Nat) (sites : List Nat) {q0 : State} (hK : Keeps q0 s) :
    Keeps q0 (propose s rows n inSite regions sites) := by
  unfold propose
  repeat' first
    | with_reducible assumption
    | (intro x; refine Keeps.cut (q := q0) (x := x) ?_ ?_; pick_goal 2; clear_value x; intro hx)
    | (lift_lets; intro x)
    | (with_reducible refine Keeps.upTo (fun _ _ _ => ?_) ?_)
    | (with_reducible apply State.wr_keeps)
    | (with_reducible apply panelEvent_keeps)
    | (simp -zeta only [↓Keeps.lit])

theorem refuse_keeps (s : State) (code : Nat) {q0 : State} (hK : Keeps q0 s) :
    Keeps q0 (refuse s code) := by
  unfold refuse
  repeat' first
    | with_reducible assumption
    | (lift_lets; intro x; refine Keeps.cut (q := q0) (x := x) ?_ ?_; pick_goal 2; clear_value x; intro hx)
    | (with_reducible apply State.wr_keeps)
    | (with_reducible apply panelEvent_keeps)
    | (simp -zeta only [↓Keeps.lit])

theorem proposeRegion_keeps (s : State) {q0 : State} (hK : Keeps q0 s) :
    Keeps q0 (proposeRegion s) := by
  unfold proposeRegion
  repeat' first
    | with_reducible assumption
    | (lift_lets; intro x)
    | (intro x)
    | (with_reducible apply Keeps.ite)
    | (with_reducible apply propose_keeps)
    | (with_reducible apply refuse_keeps)
    | (dsimp -zeta only [x])
    | split

theorem proposeFull_keeps (s : State) {q0 : State} (hK : Keeps q0 s) :
    Keeps q0 (proposeFull s) := by
  unfold proposeFull
  repeat' first
    | with_reducible assumption
    | (lift_lets; intro x)
    | (intro x)
    | (with_reducible apply State.wr_keeps)
    | (with_reducible apply propose_keeps)
    | (with_reducible apply refuse_keeps)
    | split

theorem remapGo_keeps (s : State) (kind site : Nat) {q0 : State} (hK : Keeps q0 s) :
    OptKeeps q0 (remapGo s kind site) := by
  unfold remapGo
  repeat' first
    | with_reducible assumption
    | (with_reducible exact OptKeeps.none)
    | (with_reducible apply OptKeeps.some)
    | (intro x; refine Keeps.cut (q := q0) (x := x) ?_ ?_; pick_goal 2; clear_value x; intro hx)
    | (lift_lets; intro x)
    | (intro x)
    | (with_reducible apply OptKeeps.ite)
    | (with_reducible apply State.wr_keeps)
    | (dsimp -zeta only [x])
    | split
    | (simp -zeta only [↓Keeps.lit])

theorem remapProposed_keeps (s : State) {q0 : State} (hK : Keeps q0 s) :
    Keeps q0 (remapProposed s) := by
  unfold remapProposed
  repeat' first
    | with_reducible assumption
    | (with_reducible apply Keeps.ite)
    | (with_reducible apply proposeFull_keeps)
    | (with_reducible apply proposeRegion_keeps)

theorem remapCancel_keeps (s : State) {q0 : State} (hK : Keeps q0 s) :
    OptKeeps q0 (remapCancel s) := by
  unfold remapCancel
  repeat' first
    | with_reducible assumption
    | (with_reducible exact OptKeeps.none)
    | (with_reducible apply OptKeeps.some)
    | (intro x; refine Keeps.cut (q := q0) (x := x) ?_ ?_; pick_goal 2; clear_value x; intro hx)
    | (lift_lets; intro x; refine Keeps.cut (q := q0) (x := x) ?_ ?_; pick_goal 2; clear_value x; intro hx)
    | (with_reducible apply OptKeeps.ite)
    | (with_reducible refine Keeps.upTo (fun _ _ _ => ?_) ?_)
    | (with_reducible apply State.wr_keeps)
    | (simp -zeta only [↓Keeps.lit])

theorem commit_keeps (s : State) {q0 : State} (hK : Keeps q0 s) :
    OptKeeps q0 (commit s) := by
  unfold commit
  repeat' first
    | with_reducible assumption
    | (with_reducible exact OptKeeps.none)
    | (with_reducible apply OptKeeps.some)
    | (with_reducible apply drainGo_keeps)
    | (intro x; refine Keeps.cut (q := q0) (x := x) ?_ ?_; pick_goal 2; clear_value x; intro hx)
    | (lift_lets; intro x)
    | (with_reducible apply Keeps.ite)
    | (with_reducible apply OptKeeps.ite)
    | (with_reducible apply OptKeeps.getD)
    | (with_reducible refine Keeps.foldl (fun _ _ _ => ?_) ?_)
    | (with_reducible refine Keeps.upTo (fun _ _ _ => ?_) ?_)
    | (with_reducible apply State.wr_keeps)
    | (with_reducible apply faultNow_keeps)

theorem remapOut_keeps (s : State) (i : Nat) {q0 : State} (hK : Keeps q0 s) :
    Keeps q0 (remapOut s i) := by
  unfold remapOut
  repeat' first
    | with_reducible assumption
    | (intro x; refine Keeps.cut (q := q0) (x := x) ?_ ?_; pick_goal 2; clear_value x; intro hx)
    | (lift_lets; intro x; refine Keeps.cut (q := q0) (x := x) ?_ ?_; pick_goal 2; clear_value x; intro hx)
    | (intro x)
    | (with_reducible apply State.setSite_keeps)
    | (with_reducible apply State.wr_keeps)
    | (with_reducible apply clearWell_keeps)
    | (with_reducible apply domOff_keeps)
    | (with_reducible apply quitSite_keeps)

theorem remapIn_keeps (s : State) (r i : Nat) {q0 : State} (hK : Keeps q0 s) :
    Keeps q0 (remapIn s r i) := by
  unfold remapIn
  repeat' first
    | with_reducible assumption
    | (intro x; refine Keeps.cut (q := q0) (x := x) ?_ ?_; pick_goal 2; clear_value x; intro hx)
    | (lift_lets; intro x; refine Keeps.cut (q := q0) (x := x) ?_ ?_; pick_goal 2; clear_value x; intro hx)
    | (lift_lets; intro x)
    | (intro x)
    | (with_reducible apply Keeps.ite)
    | (with_reducible refine Keeps.upTo (fun _ _ _ => ?_) ?_)
    | (with_reducible apply State.setSite_keeps)
    | (with_reducible apply State.wr_keeps)
    | (with_reducible apply calLoad_keeps)
    | (with_reducible apply setCfg_keeps)
    | split

theorem remapSite_keeps (s : State) (i : Nat) {q0 : State} (hK : Keeps q0 s) :
    Keeps q0 (remapSite s i) := by
  unfold remapSite
  repeat' first
    | with_reducible assumption
    | (intro x; refine Keeps.cut (q := q0) (x := x) ?_ ?_; pick_goal 2; clear_value x; intro hx)
    | (lift_lets; intro x)
    | (with_reducible apply State.wr_keeps)
    | (with_reducible apply nextEpoch_keeps)
    | (with_reducible apply setHopCount_keeps)
    | (with_reducible apply swapRoutes_keeps)
    | (with_reducible refine Keeps.withMem ?_ _ (fun w => Memory.wf_clear w _ _))

theorem remapFault_keeps (s : State) (r : Nat) {q0 : State} (hK : Keeps q0 s) :
    Keeps q0 (remapFault s r) := by
  unfold remapFault
  repeat' first
    | with_reducible assumption
    | (lift_lets; intro x; refine Keeps.cut (q := q0) (x := x) ?_ ?_; pick_goal 2; clear_value x; intro hx)
    | (with_reducible refine Keeps.foldl (fun _ _ _ => ?_) ?_)
    | (with_reducible apply State.wr_keeps)
    | (with_reducible apply pfSet_keeps)

theorem remapApply_keeps (s : State) (lanes : List LanePort) (ok : Bool) {q0 : State} (hK : Keeps q0 s) :
    Keeps q0 (remapApply s lanes ok) := by
  unfold remapApply
  repeat' first
    | with_reducible assumption
    | (intro x; refine Keeps.cut (q := q0) (x := x) ?_ ?_; pick_goal 2; clear_value x; intro hx)
    | (lift_lets; intro x)
    | (intro x)
    | (with_reducible apply Keeps.ite)
    | (with_reducible refine Keeps.foldl (fun _ _ _ => ?_) ?_)
    | (with_reducible apply State.wr_keeps)
    | (with_reducible apply couple_keeps)
    | (with_reducible apply drainEnd_keeps)
    | (with_reducible apply laneNote_keeps)
    | (with_reducible apply panelEvent_keeps)
    | (with_reducible apply recPut_keeps)
    | (with_reducible apply remapFault_keeps)
    | (with_reducible apply remapIn_keeps)
    | (with_reducible apply remapOut_keeps)
    | (with_reducible apply remapSite_keeps)
    | (with_reducible apply resumeNi_keeps)
    | (with_reducible apply setEntry_keeps)
    | (with_reducible apply showMap_keeps)
    | (with_reducible apply showRows_keeps)
    | (with_reducible apply startNi_keeps)
    | (simp -zeta only [↓Keeps.lit])

theorem remapFull_keeps (s : State) (ok : Bool) {q0 : State} (hK : Keeps q0 s) :
    Keeps q0 (remapFull s ok) := by
  unfold remapFull
  repeat' first
    | with_reducible assumption
    | (intro x; refine Keeps.cut (q := q0) (x := x) ?_ ?_; pick_goal 2; clear_value x; intro hx)
    | (lift_lets; intro x)
    | (intro x)
    | (with_reducible apply Keeps.ite)
    | (with_reducible apply State.wr_keeps)
    | (with_reducible apply panelEvent_keeps)
    | (with_reducible apply recPut_keeps)

theorem remapDone_keeps (s : State) (drained ok : Bool) (lanes : List LanePort) {q0 : State} (hK : Keeps q0 s) :
    Keeps q0 (remapDone s drained ok lanes) := by
  unfold remapDone
  repeat' first
    | with_reducible assumption
    | (with_reducible apply drainAbort_keeps)
    | (lift_lets; intro x; refine Keeps.cut (q := q0) (x := x) ?_ ?_; pick_goal 2; clear_value x; intro hx)
    | (with_reducible apply Keeps.ite)
    | (with_reducible apply OptKeeps.getD)
    | (with_reducible refine Keeps.foldl (fun _ _ _ => ?_) ?_)
    | (with_reducible apply State.wr_keeps)
    | (with_reducible apply remapApply_keeps)
    | (with_reducible apply remapFull_keeps)

theorem storeFld_keeps (code still : Nat) (s : State) (page : Nat) (f : Fld) (v : Nat) {q0 : State} (hK : Keeps q0 s) :
    Keeps q0 (storeFld code still s page f v) := by
  unfold storeFld
  repeat' first
    | with_reducible assumption
    | (with_reducible apply Keeps.ite)
    | (with_reducible apply State.wr_keeps)
    | (with_reducible apply baWrite_keeps)
    | split

theorem storeWord_keeps (code still : Nat) (s : State) (page : Nat) (fs : List Fld) (v : Nat) {q0 : State} (hK : Keeps q0 s) :
    Keeps q0 (storeWord code still s page fs v) := by
  unfold storeWord
  repeat' first
    | with_reducible assumption
    | (with_reducible refine Keeps.foldl (fun _ _ _ => ?_) ?_)
    | (with_reducible apply storeFld_keeps)

theorem HostWr.no_keeps (w : HostWr) (s : State) {q0 : State} (hK : Keeps q0 s) :
    Keeps q0 (HostWr.no w s) := by
  unfold HostWr.no
  repeat' first
    | with_reducible assumption
    | (with_reducible apply badValue_keeps)

theorem HostWr.when_keeps (w : HostWr) (s : State) (ok : Bool) (t : State) {q0 : State} (hK : Keeps q0 s) (hT0 : Keeps q0 t) :
    Keeps q0 (HostWr.when w s ok t) := by
  unfold HostWr.when
  repeat' first
    | with_reducible assumption
    | (with_reducible apply Keeps.ite)
    | (with_reducible apply HostWr.no_keeps)

theorem writeEnables_keeps (s : State) (v : Nat) {q0 : State} (hK : Keeps q0 s) :
    Keeps q0 (writeEnables s v) := by
  unfold writeEnables
  repeat' first
    | with_reducible assumption
    | (lift_lets; intro x)
    | (intro x)
    | (with_reducible apply Keeps.ite)
    | (with_reducible refine Keeps.upTo (fun _ _ _ => ?_) ?_)
    | (with_reducible apply State.wr_keeps)
    | (with_reducible apply pfVector_keeps)

theorem writeId_keeps (s t : State) (w : HostWr) {q0 : State} (hK : Keeps q0 s) (hT0 : Keeps q0 t) :
    Keeps q0 (writeId s t w) := by
  unfold writeId
  repeat' first
    | with_reducible assumption
    | (with_reducible apply HostWr.when_keeps)
    | split

theorem writeMap_keeps (s t : State) (w : HostWr) {q0 : State} (hK : Keeps q0 s) (hT0 : Keeps q0 t) :
    Keeps q0 (writeMap s t w) := by
  unfold writeMap
  repeat' first
    | with_reducible assumption
    | (with_reducible apply commit_keeps)
    | (with_reducible apply remapCancel_keeps)
    | (with_reducible apply remapGo_keeps)
    | (with_reducible apply Keeps.ite)
    | (with_reducible apply OptKeeps.getD)
    | (with_reducible apply HostWr.no_keeps)

theorem writeDrainCtl_keeps (s : State) (w : HostWr) (r : Nat) {q0 : State} (hK : Keeps q0 s) :
    Keeps q0 (writeDrainCtl s w r) := by
  unfold writeDrainCtl
  repeat' first
    | with_reducible assumption
    | (with_reducible apply drainAbort_keeps)
    | (with_reducible apply drainGo_keeps)
    | (with_reducible apply swapGo_keeps)
    | (with_reducible apply OptKeeps.getD)
    | (with_reducible apply HostWr.no_keeps)
    | split

theorem writeDrain_keeps (s t : State) (w : HostWr) {q0 : State} (hK : Keeps q0 s) (hT0 : Keeps q0 t) :
    Keeps q0 (writeDrain s t w) := by
  unfold writeDrain
  repeat' first
    | with_reducible assumption
    | (lift_lets; intro x)
    | (with_reducible apply HostWr.when_keeps)
    | (with_reducible apply writeDrainCtl_keeps)
    | (dsimp -zeta only [x])
    | split

theorem writePm_keeps (s t : State) (w : HostWr) {q0 : State} (hK : Keeps q0 s) (hT0 : Keeps q0 t) :
    Keeps q0 (writePm s t w) := by
  unfold writePm
  repeat' first
    | with_reducible assumption
    | (with_reducible apply confirm_keeps)
    | (with_reducible apply fetch_keeps)
    | (with_reducible apply fwDiscard_keeps)
    | (lift_lets; intro x; refine Keeps.cut (q := q0) (x := x.2) ?_ ?_; pick_goal 2; clear_value x; intro hx)
    | (with_reducible apply Keeps.ite)
    | (with_reducible apply OptKeeps.getD)
    | (with_reducible apply HostWr.no_keeps)
    | (with_reducible apply State.draw_keeps)
    | (with_reducible apply activate_keeps)
    | (with_reducible apply recWrite_keeps)
    | (with_reducible apply revert_keeps)
    | split

theorem writeTime_keeps (s t : State) (w : HostWr) {q0 : State} (hK : Keeps q0 s) (hT0 : Keeps q0 t) :
    Keeps q0 (writeTime s t w) := by
  unfold writeTime
  repeat' first
    | with_reducible assumption
    | (with_reducible apply Keeps.ite)
    | (with_reducible apply HostWr.no_keeps)
    | (with_reducible apply calGo_keeps)
    | (with_reducible apply setGo_keeps)
    | split

theorem writeLic_keeps (s t : State) (w : HostWr) {q0 : State} (hK : Keeps q0 s) (hT0 : Keeps q0 t) :
    Keeps q0 (writeLic s t w) := by
  unfold writeLic
  repeat' first
    | with_reducible assumption
    | (with_reducible apply install_keeps)
    | (with_reducible apply licRemove_keeps)
    | (lift_lets; intro x; refine Keeps.cut (q := q0) (x := x.2) ?_ ?_; pick_goal 2; clear_value x; intro hx)
    | (with_reducible apply Keeps.ite)
    | (with_reducible apply OptKeeps.getD)
    | (with_reducible apply HostWr.no_keeps)
    | (with_reducible apply State.draw_keeps)

theorem writeTwin_keeps (s t : State) (w : HostWr) {q0 : State} (hK : Keeps q0 s) (hT0 : Keeps q0 t) :
    Keeps q0 (writeTwin s t w) := by
  unfold writeTwin
  repeat' first
    | with_reducible assumption
    | (with_reducible apply HostWr.no_keeps)
    | (with_reducible apply HostWr.when_keeps)
    | (with_reducible apply attach_keeps)
    | (with_reducible apply pair_keeps)
    | (with_reducible apply reqAttach_keeps)
    | (with_reducible apply reqDetach_keeps)
    | (with_reducible apply showParent_keeps)
    | (with_reducible apply shrunk_keeps)
    | (with_reducible apply twinAbort_keeps)
    | (with_reducible apply unpair_keeps)
    | split

theorem writeHub_keeps (s t : State) (w : HostWr) (h : Nat) {q0 : State} (hK : Keeps q0 s) (hT0 : Keeps q0 t) :
    Keeps q0 (writeHub s t w h) := by
  unfold writeHub
  repeat' first
    | with_reducible assumption
    | (with_reducible apply frtSwap_keeps)
    | (intro x; refine Keeps.cut (q := q0) (x := x) ?_ ?_; pick_goal 2; clear_value x; intro hx)
    | (lift_lets; intro x)
    | (intro x)
    | (with_reducible apply Keeps.ite)
    | (with_reducible apply OptKeeps.getD)
    | (with_reducible apply HostWr.no_keeps)
    | (with_reducible apply HostWr.when_keeps)
    | (with_reducible apply frtCheck_keeps)
    | (with_reducible apply showCap_keeps)
    | split

theorem writePort_keeps (t : State) (w : HostWr) (h p : Nat) {q0 : State} (hK : Keeps q0 t) :
    Keeps q0 (writePort t w h p) := by
  unfold writePort
  repeat' first
    | with_reducible assumption
    | (intro x; refine Keeps.cut (q := q0) (x := x) ?_ ?_; pick_goal 2; clear_value x; intro hx)
    | (lift_lets; intro x; refine Keeps.cut (q := q0) (x := x) ?_ ?_; pick_goal 2; clear_value x; intro hx)
    | (with_reducible apply Keeps.ite)
    | (with_reducible apply holdClr_keeps)
    | (with_reducible apply portDisable_keeps)
    | (with_reducible apply retrainHost_keeps)

theorem writeX16_keeps (s t : State) (w : HostWr) {q0 : State} (hK : Keeps q0 s) (hT0 : Keeps q0 t) :
    Keeps q0 (writeX16 s t w) := by
  unfold writeX16
  repeat' first
    | with_reducible assumption
    | (lift_lets; intro x)
    | (intro x)
    | (with_reducible apply HostWr.when_keeps)
    | (dsimp -zeta only [x])
    | split

theorem writeSlot_keeps (s t : State) (w : HostWr) (h g : Nat) {q0 : State} (hK : Keeps q0 s) (hT0 : Keeps q0 t) :
    Keeps q0 (writeSlot s t w h g) := by
  unfold writeSlot
  repeat' first
    | with_reducible assumption
    | (lift_lets; intro x)
    | (intro x)
    | (with_reducible apply Keeps.ite)
    | (with_reducible apply HostWr.when_keeps)
    | (with_reducible apply State.setSlot_keeps)
    | (with_reducible apply collAbort_keeps)
    | (dsimp -zeta only [x])
    | split

theorem writeColl_keeps (s t : State) (w : HostWr) (h : Nat) {q0 : State} (hK : Keeps q0 s) (hT0 : Keeps q0 t) :
    Keeps q0 (writeColl s t w h) := by
  unfold writeColl
  repeat' first
    | with_reducible assumption
    | (with_reducible apply Keeps.ite)
    | (with_reducible apply HostWr.when_keeps)
    | (with_reducible apply collPost_keeps)
    | (with_reducible apply writeSlot_keeps)

theorem writeSite_keeps (s t : State) (w : HostWr) {q0 : State} (hK : Keeps q0 s) (hT0 : Keeps q0 t) :
    Keeps q0 (writeSite s t w) := by
  unfold writeSite
  repeat' first
    | with_reducible assumption
    | (lift_lets; intro x)
    | (intro x)
    | (with_reducible apply HostWr.when_keeps)

theorem writeCore_keeps (s t : State) (w : HostWr) (c : CoreId) {q0 : State} (hK : Keeps q0 s) (hT0 : Keeps q0 t) :
    Keeps q0 (writeCore s t w c) := by
  unfold writeCore
  repeat' first
    | with_reducible assumption
    | (with_reducible apply HostWr.no_keeps)
    | (with_reducible apply HostWr.when_keeps)
    | (with_reducible apply armWrite_keeps)
    | (with_reducible apply disarm_keeps)
    | split

theorem writeWell_keeps (s t : State) (w : HostWr) (i : Nat) {q0 : State} (hK : Keeps q0 s) (hT0 : Keeps q0 t) :
    Keeps q0 (writeWell s t w i) := by
  unfold writeWell
  repeat' first
    | with_reducible assumption
    | (with_reducible apply landClr_keeps)
    | (with_reducible apply wstCheck_keeps)
    | (with_reducible apply Keeps.ite)
    | (with_reducible apply OptKeeps.getD)
    | (with_reducible apply HostWr.no_keeps)
    | split

theorem writeTni_keeps (s t : State) (w : HostWr) (i : Nat) {q0 : State} (hK : Keeps q0 s) (hT0 : Keeps q0 t) :
    Keeps q0 (writeTni s t w i) := by
  unfold writeTni
  repeat' first
    | with_reducible assumption
    | (lift_lets; intro x)
    | (with_reducible apply Keeps.ite)
    | (with_reducible apply HostWr.no_keeps)
    | (with_reducible apply HostWr.when_keeps)
    | (with_reducible apply State.setSite_keeps)
    | (dsimp -zeta only [x])
    | split

theorem noteShadow_keeps (s : State) (i k : Nat) {q0 : State} (hK : Keeps q0 s) :
    Keeps q0 (noteShadow s i k) := by
  unfold noteShadow
  repeat' first
    | with_reducible assumption
    | (intro x; refine Keeps.cut (q := q0) (x := x) ?_ ?_; pick_goal 2; clear_value x; intro hx)
    | (lift_lets; intro x)
    | (intro x)
    | (with_reducible apply Keeps.ite)
    | (with_reducible apply State.setSite_keeps)
    | (with_reducible apply State.wr_keeps)

theorem writeCni_keeps (s t : State) (w : HostWr) (i : Nat) {q0 : State} (hK : Keeps q0 s) (hT0 : Keeps q0 t) :
    Keeps q0 (writeCni s t w i) := by
  unfold writeCni
  repeat' first
    | with_reducible assumption
    | (with_reducible apply streamReset_keeps)
    | (lift_lets; intro x)
    | (intro x)
    | (with_reducible apply Keeps.ite)
    | (with_reducible apply OptKeeps.getD)
    | (with_reducible apply HostWr.no_keeps)
    | (with_reducible apply HostWr.when_keeps)
    | (with_reducible apply noteShadow_keeps)

theorem writeClock_keeps (s t : State) (w : HostWr) (i : Nat) {q0 : State} (hK : Keeps q0 s) (hT0 : Keeps q0 t) :
    Keeps q0 (writeClock s t w i) := by
  unfold writeClock
  repeat' first
    | with_reducible assumption
    | (lift_lets; intro x)
    | (with_reducible apply Keeps.ite)
    | (with_reducible apply HostWr.no_keeps)
    | (with_reducible apply HostWr.when_keeps)
    | (with_reducible apply State.setSite_keeps)
    | (dsimp -zeta only [x])
    | split

theorem writeRel_keeps (s t : State) (w : HostWr) (i : Nat) {q0 : State} (hK : Keeps q0 s) (hT0 : Keeps q0 t) :
    Keeps q0 (writeRel s t w i) := by
  unfold writeRel
  repeat' first
    | with_reducible assumption
    | (with_reducible apply shadowEnter_keeps)
    | (lift_lets; intro x; refine Keeps.cut (q := q0) (x := x) ?_ ?_; pick_goal 2; clear_value x; intro hx)
    | (with_reducible apply Keeps.ite)
    | (with_reducible apply OptKeeps.getD)
    | (with_reducible apply HostWr.no_keeps)
    | (with_reducible apply HostWr.when_keeps)
    | (with_reducible apply shadowAbort_keeps)
    | split

theorem writeVf_keeps (s t : State) (w : HostWr) (r : Nat) {q0 : State} (hK : Keeps q0 s) (hT0 : Keeps q0 t) :
    Keeps q0 (writeVf s t w r) := by
  unfold writeVf
  repeat' first
    | with_reducible assumption
    | (with_reducible apply Keeps.ite)
    | (with_reducible apply HostWr.when_keeps)
    | (with_reducible apply frGo_keeps)
    | split

theorem pageWrite_keeps (s t : State) (w : HostWr) (i : PageInfo) (via : Option Nat) {q0 : State} (hK : Keeps q0 s) (hT0 : Keeps q0 t) :
    Keeps q0 (pageWrite s t w i via) := by
  unfold pageWrite
  repeat' first
    | with_reducible assumption
    | (with_reducible apply stepWrite_keeps)
    | (lift_lets; intro x)
    | (intro x)
    | (with_reducible apply Keeps.ite)
    | (with_reducible apply OptKeeps.getD)
    | (with_reducible apply HostWr.no_keeps)
    | (with_reducible apply HostWr.when_keeps)
    | (with_reducible apply assignGo_keeps)
    | (with_reducible apply frGo_keeps)
    | (with_reducible apply minClear_keeps)
    | (with_reducible apply wbPost_keeps)
    | (with_reducible apply writeClock_keeps)
    | (with_reducible apply writeCni_keeps)
    | (with_reducible apply writeColl_keeps)
    | (with_reducible apply writeCore_keeps)
    | (with_reducible apply writeDrain_keeps)
    | (with_reducible apply writeHub_keeps)
    | (with_reducible apply writeId_keeps)
    | (with_reducible apply writeLic_keeps)
    | (with_reducible apply writeMap_keeps)
    | (with_reducible apply writePm_keeps)
    | (with_reducible apply writePort_keeps)
    | (with_reducible apply writeRel_keeps)
    | (with_reducible apply writeSite_keeps)
    | (with_reducible apply writeTime_keeps)
    | (with_reducible apply writeTni_keeps)
    | (with_reducible apply writeTwin_keeps)
    | (with_reducible apply writeVf_keeps)
    | (with_reducible apply writeWell_keeps)
    | (with_reducible apply writeX16_keeps)
    | (dsimp -zeta only [x])
    | split

theorem blockWrite_keeps (s : State) (w : HostWr) (i : PageInfo) (via : Option Nat) {q0 : State} (hK : Keeps q0 s) :
    Keeps q0 (blockWrite s w i via) := by
  unfold blockWrite
  repeat' first
    | with_reducible assumption
    | (lift_lets; intro x)
    | (with_reducible apply Keeps.ite)
    | (with_reducible apply HostWr.no_keeps)
    | (with_reducible apply State.bump_keeps)
    | (with_reducible apply pageWrite_keeps)
    | (with_reducible apply storeWord_keeps)
    | (with_reducible apply writeEnables_keeps)

theorem writeQueue_keeps (s : State) (q v : Nat) (fs : List Fld) {q0 : State} (hK : Keeps q0 s) :
    OptKeeps q0 (writeQueue s q v fs) := by
  unfold writeQueue
  repeat' first
    | with_reducible assumption
    | (with_reducible exact OptKeeps.none)
    | (with_reducible apply OptKeeps.some)
    | (intro x; refine Keeps.cut (q := q0) (x := x) ?_ ?_; pick_goal 2; clear_value x; intro hx)
    | (lift_lets; intro x)
    | (intro x)
    | (with_reducible apply OptKeeps.ite)
    | (with_reducible apply State.wr_keeps)
    | (with_reducible apply State.wrAll_keeps)
    | (with_reducible apply storeWord_keeps)

theorem writeQueueWord_keeps (s : State) (ix v : Nat) (fs : List Fld) {q0 : State} (hK : Keeps q0 s) :
    OptKeeps q0 (writeQueueWord s ix v fs) := by
  unfold writeQueueWord
  repeat' first
    | with_reducible assumption
    | (with_reducible exact OptKeeps.none)
    | (with_reducible apply OptKeeps.some)
    | (with_reducible apply writeQueue_keeps)
    | (lift_lets; intro x)
    | (with_reducible apply OptKeeps.ite)
    | (with_reducible apply storeWord_keeps)
    | (dsimp -zeta only [x])
    | split

theorem ixWrite_keeps (s : State) (page : Nat) (i : PageInfo) (ix v : Nat) {q0 : State} (hK : Keeps q0 s) :
    OptKeeps q0 (ixWrite s page i ix v) := by
  unfold ixWrite
  repeat' first
    | with_reducible assumption
    | (with_reducible exact OptKeeps.none)
    | (with_reducible apply OptKeeps.some)
    | (with_reducible apply writeQueueWord_keeps)
    | (intro x; refine Keeps.cut (q := q0) (x := x) ?_ ?_; pick_goal 2; clear_value x; intro hx)
    | (lift_lets; intro x)
    | (intro x)
    | (with_reducible apply Keeps.ite)
    | (with_reducible apply OptKeeps.ite)
    | (with_reducible apply State.wr_keeps)
    | (with_reducible apply storeWord_keeps)
    | (with_reducible apply timerClear_keeps)
    | split

theorem writeApply_keeps (s : State) (w : HostWr) {q0 : State} (hK : Keeps q0 s) :
    Keeps q0 (writeApply s w) := by
  unfold writeApply
  repeat' first
    | with_reducible assumption
    | (with_reducible apply HostWr.no_keeps)
    | (with_reducible apply applyBa_keeps)
    | split
    | (simp -zeta only [↓Keeps.lit])

theorem writeMbx_keeps (s : State) (w : HostWr) (p : Nat) {q0 : State} (hK : Keeps q0 s) :
    Keeps q0 (writeMbx s w p) := by
  unfold writeMbx
  repeat' first
    | with_reducible assumption
    | (intro x; refine Keeps.cut (q := q0) (x := x) ?_ ?_; pick_goal 2; clear_value x; intro hx)
    | (lift_lets; intro x)
    | (with_reducible apply Keeps.ite)
    | (with_reducible refine Keeps.upTo (fun _ _ _ => ?_) ?_)
    | (with_reducible apply HostWr.no_keeps)
    | (with_reducible apply State.wr_keeps)
    | split

theorem writeInd_keeps (s : State) (w : HostWr) (i : PageInfo) (p : Nat) {q0 : State} (hK : Keeps q0 s) :
    Keeps q0 (writeInd s w i p) := by
  unfold writeInd
  repeat' first
    | with_reducible assumption
    | (with_reducible exact OptKeeps.none)
    | (with_reducible apply ixWrite_keeps)
    | (lift_lets; intro x)
    | (intro x)
    | (with_reducible apply OptKeeps.getD)
    | (with_reducible apply HostWr.no_keeps)
    | (with_reducible apply State.wrap_keeps)
    | (dsimp -zeta only [x])
    | split

theorem readInd_keeps (s : State) (page : Nat) (i : PageInfo) (p : Nat) {q0 : State} (hK : Keeps q0 s) :
    Keeps q0 (readInd s page i p).2 := by
  unfold readInd
  repeat' first
    | with_reducible assumption
    | (lift_lets; intro x)
    | (intro x)
    | (with_reducible apply Keeps.ite)
    | (with_reducible apply State.wrap_keeps)
    | (with_reducible apply badValue_keeps)

theorem writePageErr_keeps (s : State) (w : HostWr) {q0 : State} (hK : Keeps q0 s) :
    Keeps q0 (writePageErr s w) := by
  unfold writePageErr
  repeat' first
    | with_reducible assumption
    | (lift_lets; intro x; refine Keeps.cut (q := q0) (x := x) ?_ ?_; pick_goal 2; clear_value x; intro hx)
    | (with_reducible apply Keeps.ite)
    | (with_reducible apply HostWr.no_keeps)
    | (with_reducible apply State.wr_keeps)

theorem headerWrite_keeps (s : State) (w : HostWr) (i : PageInfo) (p : Nat) {q0 : State} (hK : Keeps q0 s) :
    Keeps q0 (headerWrite s w i p) := by
  unfold headerWrite
  repeat' first
    | with_reducible assumption
    | (with_reducible apply HostWr.no_keeps)
    | (with_reducible apply State.wr_keeps)
    | (with_reducible apply writeApply_keeps)
    | (with_reducible apply writeInd_keeps)
    | (with_reducible apply writeMbx_keeps)
    | (with_reducible apply writePageErr_keeps)
    | split

theorem headerRead_keeps (s : State) (page off : Nat) (i : PageInfo) (p : Nat) {q0 : State} (hK : Keeps q0 s) :
    Keeps q0 (headerRead s page off i p).2 := by
  unfold headerRead
  repeat' first
    | with_reducible assumption
    | (lift_lets; intro x)
    | (intro x)
    | (with_reducible apply Keeps.ite)
    | (with_reducible apply State.wr_keeps)
    | (with_reducible apply readInd_keeps)
    | (dsimp -zeta only [x])
    | split

theorem ctlWrite_keeps (s : State) (w : HostWr) (i : PageInfo) (r : Nat) {q0 : State} (hK : Keeps q0 s) :
    Keeps q0 (ctlWrite s w i r) := by
  unfold ctlWrite
  repeat' first
    | with_reducible assumption
    | (lift_lets; intro x; refine Keeps.cut (q := q0) (x := x) ?_ ?_; pick_goal 2; clear_value x; intro hx)
    | (with_reducible apply Keeps.ite)
    | (with_reducible apply HostWr.no_keeps)
    | (with_reducible apply State.wr_keeps)
    | (with_reducible apply blockWrite_keeps)
    | (with_reducible apply writeDrainCtl_keeps)
    | split

theorem accError_keeps (s : State) (a : HostAcc) (write : Bool) (reason page : Nat) {q0 : State} (hK : Keeps q0 s) :
    Keeps q0 (accError s a write reason page) := by
  unfold accError
  repeat' first
    | with_reducible assumption
    | (intro x; refine Keeps.cut (q := q0) (x := x.2) ?_ ?_; pick_goal 2; clear_value x; intro hx)
    | (lift_lets; intro x; refine Keeps.cut (q := q0) (x := x) ?_ ?_; pick_goal 2; clear_value x; intro hx)
    | (with_reducible apply Keeps.ite)
    | (with_reducible apply State.draw_keeps)
    | (with_reducible apply State.setBit_keeps)
    | (with_reducible apply State.wr_keeps)
    | (with_reducible apply busErrorAt_keeps)
    | split

theorem accServe_keeps (s : State) (a : HostAcc) (page v : Nat) {q0 : State} (hK : Keeps q0 s) :
    Keeps q0 (accServe s a page v) := by
  unfold accServe
  repeat' first
    | with_reducible assumption
    | (lift_lets; intro x)
    | (with_reducible apply Keeps.ite)
    | (with_reducible apply blockWrite_keeps)
    | (with_reducible apply ctlWrite_keeps)
    | (with_reducible apply headerWrite_keeps)
    | (with_reducible apply sideCount_keeps)
    | (dsimp -zeta only [x])
    | split

theorem hostWrite_keeps (s : State) (a : HostAcc) (v : Nat) {q0 : State} (hK : Keeps q0 s) :
    Keeps q0 (hostWrite s a v) := by
  unfold hostWrite
  repeat' first
    | with_reducible assumption
    | (lift_lets; intro x)
    | (with_reducible apply Keeps.ite)
    | (with_reducible apply accError_keeps)
    | (with_reducible apply accServe_keeps)
    | (with_reducible apply unknownWrite_keeps)
    | (dsimp -zeta only [x])
    | split

theorem hostRead_keeps (s : State) (a : HostAcc) {q0 : State} (hK : Keeps q0 s) :
    Keeps q0 (hostRead s a) := by
  unfold hostRead
  repeat' first
    | with_reducible assumption
    | (lift_lets; intro x; refine Keeps.cut (q := q0) (x := x.2) ?_ ?_; pick_goal 2; clear_value x; intro hx)
    | (lift_lets; intro x)
    | (intro x)
    | (with_reducible apply Keeps.ite)
    | (with_reducible apply State.emit_keeps)
    | (with_reducible apply accError_keeps)
    | (with_reducible apply headerRead_keeps)
    | (with_reducible apply sideCount_keeps)
    | (dsimp -zeta only [x])
    | split

theorem hostTimeout_keeps (s : State) (a : HostAcc) (v : Option Nat) {q0 : State} (hK : Keeps q0 s) :
    Keeps q0 (hostTimeout s a v) := by
  unfold hostTimeout
  repeat' first
    | with_reducible assumption
    | (lift_lets; intro x)
    | (with_reducible apply Keeps.ite)
    | (with_reducible apply accError_keeps)
    | (with_reducible apply accServe_keeps)
    | (with_reducible apply unknownWrite_keeps)
    | (dsimp -zeta only [x])
    | split

theorem smbTags_keeps (s : State) (shelf loop rack : Nat) (pecOk : Bool) {q0 : State} (hK : Keeps q0 s) :
    Keeps q0 (smbTags s shelf loop rack pecOk) := by
  unfold smbTags
  repeat' first
    | with_reducible assumption
    | (intro x; refine Keeps.cut (q := q0) (x := x) ?_ ?_; pick_goal 2; clear_value x; intro hx)
    | (lift_lets; intro x)
    | (with_reducible apply Keeps.ite)
    | (with_reducible apply State.bump_keeps)
    | (with_reducible apply panelEvent_keeps)
    | (dsimp -zeta only [x])
    | (simp -zeta only [↓Keeps.lit])

theorem modReset_keeps (s : State) {q0 : State} (hK : Keeps q0 s) :
    Keeps q0 (modReset s) := by
  unfold modReset
  repeat' first
    | with_reducible assumption
    | (lift_lets; intro x; refine Keeps.cut (q := q0) (x := x) ?_ ?_; pick_goal 2; clear_value x; intro hx)
    | (with_reducible apply Keeps.ite)
    | (with_reducible apply State.wr_keeps)
    | (with_reducible apply stepGo_keeps)

theorem leak_keeps (s : State) {q0 : State} (hK : Keeps q0 s) :
    Keeps q0 (leak s) := by
  unfold leak
  repeat' first
    | with_reducible assumption
    | (with_reducible apply Keeps.ite)
    | (with_reducible apply panelShutdown_keeps)

theorem mgmtReset_keeps (s : State) (w : Option (Nat × Nat)) {q0 : State} (hK : Keeps q0 s) :
    Keeps q0 (mgmtReset s w) := by
  unfold mgmtReset
  repeat' first
    | with_reducible assumption
    | (with_reducible apply Keeps.ite)
    | (with_reducible apply hostWrite_keeps)
    | (with_reducible apply unknownWrite_keeps)
    | split

theorem tick_keeps (s : State) {q0 : State} (hK : Keeps q0 s) :
    Keeps q0 (tick s) := by
  unfold tick
  repeat' first
    | with_reducible assumption
    | (lift_lets; intro x; refine Keeps.cut (q := q0) (x := x) ?_ ?_; pick_goal 2; clear_value x; intro hx)
    | (with_reducible apply Keeps.ite)
    | (with_reducible apply showRange_keeps)
    | (simp -zeta only [↓Keeps.lit])

end Sys2Proof.Machine
end

