-- ==== Sys2Proof/Laws/Marks.lean ====
section
/-! SUPPORT. Marks of words: which words are marked after a write, and what a read of several marks is. -/

namespace Sys2Proof.Machine

theorem keyHas_wordsOf (n w mask k : Nat) :
    keyHas (wordsOf n w mask) k = (decide (w ≤ k) && decide (k < w + n) && mask.testBit (k - w)) := by
  induction n generalizing w mask with
  | zero => simp [wordsOf, keyHas]
  | succ n ih =>
    simp only [keyHas] at ih
    have step : (wordsOf n (w + 1) (mask / 2)).contains k =
        (decide (w + 1 ≤ k) && decide (k < w + (n + 1)) && mask.testBit (k - w)) := by
      rw [ih]
      by_cases h : w + 1 ≤ k
      · obtain ⟨d, rfl⟩ : ∃ d, k = w + 1 + d := ⟨k - w - 1, by omega⟩
        have e1 : w + 1 + d - w = d + 1 := by omega
        have e2 : w + 1 + d - (w + 1) = d := by omega
        have e3 : w + 1 + n = w + (n + 1) := by omega
        rw [e1, e2, e3, Nat.testBit_succ]
      · simp [h]
    unfold wordsOf keyHas
    by_cases hw : k = w
    · subst hw
      have h0 : mask.testBit 0 = decide (mask % 2 = 1) := Nat.testBit_zero mask
      split <;> rename_i h
      · simp [h]
      · rw [step]; simp [h]
    · split <;> rename_i h
      · simp only [List.contains_cons, step]
        have : (k == w) = false := by simpa using hw
        have e : decide (w + 1 ≤ k) = decide (w ≤ k) := by simp; omega
        rw [this, e]; simp
      · have e : decide (w + 1 ≤ k) = decide (w ≤ k) := by simp; omega
        rw [step, e]

theorem keyHas_marksPut (t : KeySet) (w n mask k : Nat) :
    keyHas (marksPut t w n mask) k = if w ≤ k ∧ k < w + n then mask.testBit (k - w) else keyHas t k := by
  have hm := keyHas_wordsOf n w mask k
  have f1 : keyHas (t.filter (fun k => decide (k < w))) k = (keyHas t k && decide (k < w)) := by
    rw [Bool.eq_iff_iff]; simp [keyHas, List.mem_filter]
  have f2 : keyHas (t.filter (fun k => decide (w + n ≤ k))) k = (keyHas t k && decide (w + n ≤ k)) := by
    rw [Bool.eq_iff_iff]; simp [keyHas, List.mem_filter]
  have ap : ∀ a b : List Nat, keyHas (a ++ b) k = (keyHas a k || keyHas b k) := by
    intro a b; rw [Bool.eq_iff_iff]; simp [keyHas]
  unfold marksPut
  rw [ap, ap, hm, f1, f2]
  by_cases h : w ≤ k ∧ k < w + n
  · have h1 : ¬(k < w) := by omega
    have h2 : ¬(w + n ≤ k) := by omega
    simp [h, h1, h2]
  · have : k < w ∨ w + n ≤ k := by omega
    rw [if_neg h]
    rcases this with g | g
    · have h1 : ¬(w ≤ k) := by omega
      cases keyHas t k <;> simp [g, h1]
    · have h1 : ¬(k < w + n) := by omega
      cases keyHas t k <;> simp [g, h1]

/-- A read of several marks: bit `i` for word `w + i`. -/
theorem marksGet_sum (t : KeySet) (w n : Nat) (h : keyWf t = true) :
    marksGet t w n = ∑ i ∈ Finset.range n, if keyHas t (w + i) then 2 ^ i else 0 := by
  have gen : ∀ (t : KeySet) (acc : Nat), t.Pairwise (· < ·) →
      t.foldl (fun acc k => if w ≤ k ∧ k < w + n then acc + 2 ^ (k - w) else acc) acc =
        acc + ∑ i ∈ Finset.range n, if keyHas t (w + i) then 2 ^ i else 0 := by
    intro t
    induction t with
    | nil => intro acc _; simp [keyHas]
    | cons k t ih =>
      intro acc hr
      have hk : ∀ q ∈ t, k < q := (List.pairwise_cons.1 hr).1
      have h0 : keyHas t k = false := by
        simp only [keyHas, List.contains_eq_any_beq]
        rw [List.any_eq_false]
        intro q hq
        have := hk q hq
        simp only [beq_iff_eq]; omega
      rw [List.foldl_cons, ih _ (List.pairwise_cons.1 hr).2]
      have e : ∀ i, (if keyHas (k :: t) (w + i) = true then 2 ^ i else 0) =
          (if keyHas t (w + i) = true then 2 ^ i else 0) + if k = w + i then 2 ^ i else 0 := by
        intro i
        by_cases g : k = w + i
        · subst g; simp only [h0]; simp [keyHas]
        · have : ¬(w + i = k) := fun q => g q.symm
          simp [keyHas, this, g]
      rw [Finset.sum_congr rfl (fun i _ => e i), Finset.sum_add_distrib]
      by_cases g : w ≤ k ∧ k < w + n
      · rw [if_pos g]
        have : (∑ i ∈ Finset.range n, if k = w + i then 2 ^ i else 0) = 2 ^ (k - w) := by
          rw [Finset.sum_eq_single (k - w)]
          · rw [if_pos (by omega)]
          · intro b _ hb; rw [if_neg (by omega)]
          · intro hb; exact absurd (Finset.mem_range.2 (by omega)) hb
        rw [this]; ring
      · rw [if_neg g]
        have : (∑ i ∈ Finset.range n, if k = w + i then 2 ^ i else 0) = 0 := by
          apply Finset.sum_eq_zero
          intro i hi
          have := Finset.mem_range.1 hi
          rw [if_neg (by omega)]
        rw [this]; ring
  rw [keyWf, decide_eq_true_iff] at h
  unfold marksGet
  rw [gen t 0 h, Nat.zero_add]

/-- Bit `i` of a read of marks. -/
theorem marksGet_testBit (t : KeySet) (w n i : Nat) (h : keyWf t = true) (hi : i < n) :
    (marksGet t w n).testBit i = keyHas t (w + i) := by
  rw [marksGet_sum t w n h]
  clear h
  induction n generalizing w i with
  | zero => omega
  | succ n ih =>
    rw [Finset.sum_range_succ']
    have e : (∑ k ∈ Finset.range n, if keyHas t (w + (k + 1)) = true then 2 ^ (k + 1) else 0) =
        2 * ∑ k ∈ Finset.range n, if keyHas t (w + 1 + k) = true then 2 ^ k else 0 := by
      rw [Finset.mul_sum]
      apply Finset.sum_congr rfl
      intro k _
      have : w + (k + 1) = w + 1 + k := by omega
      rw [this]; split <;> ring
    rw [e]
    cases i with
    | zero =>
      rw [Nat.testBit_zero]
      simp only [Nat.add_zero, pow_zero]
      split <;> rename_i g
      · rw [g]; simp [Nat.add_mod]
      · rw [Bool.eq_false_iff.2 g]; simp
    | succ i =>
      rw [Nat.testBit_succ]
      have d : (2 * (∑ k ∈ Finset.range n, if keyHas t (w + 1 + k) = true then 2 ^ k else 0) +
          if keyHas t (w + 0) = true then 2 ^ 0 else 0) / 2 = ∑ k ∈ Finset.range n, if keyHas t (w + 1 + k) = true then 2 ^ k else 0 := by
        split <;> omega
      rw [d, ih (w + 1) i (by omega)]
      have : w + 1 + i = w + (i + 1) := by omega
      rw [this]

/-- No mark among several is none of them. -/
theorem marksGet_zero (t : KeySet) (w n : Nat) (h : keyWf t = true) :
    marksGet t w n = 0 ↔ ∀ i < n, keyHas t (w + i) = false := by
  rw [marksGet_sum t w n h, Finset.sum_eq_zero_iff]
  constructor
  · intro g i hi
    have := g i (Finset.mem_range.2 hi)
    by_contra c
    rw [Bool.not_eq_false] at c
    rw [if_pos c] at this
    exact absurd this (by positivity)
  · intro g i hi
    rw [g i (Finset.mem_range.1 hi)]; simp

end Sys2Proof.Machine
end

