-- ==== Sys2Proof/Laws/VectorFile.lean ====
section
/-! SUPPORT. The vector file: what reading an element of a run gives after the run has been written. -/

namespace Sys2Proof.Machine

theorem Keeps.wf {q t : State} (h : Keeps q t) (m : Memory.wf q.mem = true) : Memory.wf t.mem = true := h.mem m

/-- Every byte after a write of the vector file. -/
theorem memByte_vfWrite (s : State) (c : CoreId) (o n v pm x : Nat) :
    memByte (vfWrite s c o n v pm).mem x =
      if vfBase c.site c.n + o ≤ x ∧ x < vfBase c.site c.n + o + n then byteAt v (x - (vfBase c.site c.n + o)) else memByte s.mem x := by
  have hn : n = 8 * (n / 8) + n % 8 := by omega
  have hb : ∀ k, k < 8 * (n / 8) → byteAt (v % 256 ^ (8 * (n / 8))) k = byteAt v k := by
    intro k hk
    unfold byteAt
    apply BitVec.eq_of_toNat_eq
    simp only [BitVec.toNat_ofNat]
    obtain ⟨d, hd⟩ : ∃ d, 8 * (n / 8) = k + 1 + d := ⟨8 * (n / 8) - k - 1, by omega⟩
    rw [hd, show k + 1 + d = k + (1 + d) by ring, pow_add, Nat.mod_mul_right_div_self, pow_add, pow_one]
    exact Nat.mod_mod_of_dvd _ (Dvd.intro _ rfl)
  unfold vfWrite
  simp only
  split
  · rename_i h8
    rw [memByte_write]
    have e : 8 * (n / 8) = n := by omega
    by_cases g : vfBase c.site c.n + o ≤ x ∧ x < vfBase c.site c.n + o + n
    · rw [if_pos (by omega), if_pos g, hb _ (by omega)]
    · rw [if_neg (by omega), if_neg g]
  · rename_i h8
    rw [memByte_mark, memByte_tail, memByte_write]
    by_cases g : vfBase c.site c.n + o ≤ x ∧ x < vfBase c.site c.n + o + n
    · rw [if_pos g]
      by_cases t : vfBase c.site c.n + o + 8 * (n / 8) ≤ x
      · rw [if_pos (by omega)]
        have e : x - (vfBase c.site c.n + o) = 8 * (n / 8) + (x - (vfBase c.site c.n + o + 8 * (n / 8))) := by omega
        rw [e]
        simp [byteAt, pow_add, Nat.div_div_eq_div_mul]
      · rw [if_neg (by omega), if_pos (by omega), hb _ (by omega)]
    · rw [if_neg (by omega), if_neg (by omega), if_neg g]

/-- A read of the vector file inside what has just been written. -/
theorem vfBytes_vfWrite (s : State) (c : CoreId) (o n v pm b k : Nat) (h : Memory.wf s.mem = true) (h1 : o ≤ b) (h2 : b + k ≤ o + n) :
    vfBytes (vfWrite s c o n v pm) c b k = v / 256 ^ (b - o) % 256 ^ k := by
  unfold vfBytes
  rw [memRead_bytes _ _ _ ((vfWrite_keeps s c o n v pm (Keeps.refl s)).wf h), ← numOf_byteAt]
  apply numOf_congr
  intro i hi
  rw [memByte_vfWrite, if_pos (by omega)]
  have : vfBase c.site c.n + b + i - (vfBase c.site c.n + o) = (b - o) + i := by omega
  simp [byteAt, this, pow_add, Nat.div_div_eq_div_mul]

/-- An element of a packed run. -/
theorem packed_elem (sz : Nat) (es : List OutElem) (hes : ∀ e ∈ es, e.code < 256 ^ sz) (k : Nat) (hk : k < es.length) :
    es.foldr (fun e acc => acc * 256 ^ sz + e.code) 0 / 256 ^ (sz * k) % 256 ^ sz = (es[k]).code := by
  induction es generalizing k with
  | nil => simp at hk
  | cons e es ih =>
    have he := hes e (List.mem_cons_self)
    have hp : 0 < 256 ^ sz := Nat.pow_pos (by norm_num)
    rw [List.foldr_cons]
    cases k with
    | zero => simp [Nat.mod_eq_of_lt he]
    | succ k =>
      rw [show sz * (k + 1) = sz + sz * k by ring, pow_add, ← Nat.div_div_eq_div_mul, Nat.mul_comm,
        Nat.add_comm, Nat.add_mul_div_left _ _ hp, Nat.div_eq_of_lt he, Nat.zero_add]
      exact ih (fun e he => hes e (List.mem_cons_of_mem _ he)) k (by simpa using hk)

theorem State.mem_wr (s : State) (p : Nat) (f : Fld) (v : Nat) : (s.wr p f v).mem = s.mem := rfl

theorem State.mem_bump (s : State) (p : Nat) (f : Fld) (k : Nat) : (s.bump p f k).mem = s.mem := by
  unfold State.bump; split <;> rfl

/-- Memory after a run has been written: as after the write itself. -/
theorem vfPutRun_mem (s : State) (c : CoreId) (sz o : Nat) (es : List OutElem) :
    (vfPutRun s c sz o es).mem = (vfWrite s c o (sz * es.length) (es.foldr (fun e acc => acc * 256 ^ sz + e.code) 0)
      ((es.zipIdx).foldl (fun acc e => if e.1.poison then acc ||| 2 ^ (sz * e.2 / 8) else acc) 0)).mem := by
  have hs : ∀ (c : Prop) [Decidable c] (a b : State) (m : Mem), a.mem = m → b.mem = m → (if c then a else b).mem = m := by
    intro c _ a b m ha hb; split <;> assumption
  unfold vfPutRun
  simp only
  refine hs _ _ _ _ ?_ ?_
  · refine hs _ _ _ _ ?_ ?_
    · refine hs _ _ _ _ rfl ?_
      rw [State.mem_bump]; rfl
    · rw [State.mem_bump]; show (State.wr _ _ _ _).mem = _
      rw [State.mem_wr]
      refine hs _ _ _ _ rfl ?_
      rw [State.mem_bump]; rfl
  · rw [State.mem_bump]; show (State.wr _ _ _ _).mem = _
    rw [State.mem_wr]
    refine hs _ _ _ _ ?_ ?_
    · refine hs _ _ _ _ rfl ?_
      rw [State.mem_bump]; rfl
    · rw [State.mem_bump]; show (State.wr _ _ _ _).mem = _
      rw [State.mem_wr]
      refine hs _ _ _ _ rfl ?_
      rw [State.mem_bump]; rfl

/-- The code of an element of a run that has just been written. -/
theorem vfPutRun_code (s : State) (c : CoreId) (sz o : Nat) (es : List OutElem) (h : Memory.wf s.mem = true)
    (hes : ∀ e ∈ es, e.code < 256 ^ sz) (k : Nat) (hk : k < es.length) :
    vfBytes (vfPutRun s c sz o es) c (o + sz * k) sz = (es[k]).code := by
  have hb : sz * k + sz ≤ sz * es.length := by
    rw [show sz * k + sz = sz * (k + 1) by ring]; exact Nat.mul_le_mul_left _ hk
  unfold vfBytes
  rw [vfPutRun_mem]
  have := vfBytes_vfWrite s c o (sz * es.length) (es.foldr (fun e acc => acc * 256 ^ sz + e.code) 0)
      ((es.zipIdx).foldl (fun acc e => if e.1.poison then acc ||| 2 ^ (sz * e.2 / 8) else acc) 0) (o + sz * k) sz h (by omega) (by omega)
  unfold vfBytes at this
  rw [this, show o + sz * k - o = sz * k by omega]
  exact packed_elem sz es hes k hk

/-- R84: a run that has been written changes no byte beside it. -/
theorem vfPutRun_beside (s : State) (c : CoreId) (sz o : Nat) (es : List OutElem) (x : Nat)
    (h : x < vfBase c.site c.n + o ∨ vfBase c.site c.n + o + sz * es.length ≤ x) :
    memByte (vfPutRun s c sz o es).mem x = memByte s.mem x := by
  rw [vfPutRun_mem, memByte_vfWrite, if_neg (by omega)]

/-- The elements of a run are those that single reads give. -/
theorem vfRun_elem (s : State) (c : CoreId) (sz o n k : Nat) (h : Memory.wf s.mem = true) (hk : k < n) (hsz : 0 < sz)
    (ha : o % 8 = 0) : (vfRun s c sz o n)[k]? = some ⟨vfBytes s c (o + sz * k) sz, vfPoison s c (o + sz * k)⟩ := by
  have hb : sz * k + sz ≤ sz * n := by
    rw [show sz * k + sz = sz * (k + 1) by ring]; exact Nat.mul_le_mul_left _ hk
  unfold vfRun
  rw [List.getElem?_map, List.getElem?_range hk]
  simp only [Option.map_some, Option.some.injEq, Elem.mk.injEq]
  constructor
  · unfold vfBytes bits
    have e : ∀ j, 2 ^ (8 * j) = 256 ^ j := fun j => by rw [pow_mul]; norm_num
    rw [show 8 * sz * k = 8 * (sz * k) by ring, e, e, memRead_slice _ _ _ _ _ h hb, Nat.add_assoc]
  · have hw : (vfBase c.site c.n + o) / 8 + sz * k / 8 = (vfBase c.site c.n + (o + sz * k) / 8 * 8) / 8 := by
      unfold vfBase coreBase siteBase; omega
    have hlt : sz * k / 8 < cdiv (sz * n) 8 := by unfold cdiv; omega
    have hwf := Memory.wf_iff.1 h
    unfold vfPoison memPoison bits
    have t1 := marksGet_testBit s.mem.poison ((vfBase c.site c.n + o) / 8) _ _ hwf.2.1 hlt
    have t2 := marksGet_testBit s.mem.ue ((vfBase c.site c.n + o) / 8) _ _ hwf.2.2.2 hlt
    have one : ∀ t : KeySet, keyWf t = true → ∀ w, marksGet t w 1 = if keyHas t w then 1 else 0 := by
      intro t ht w; rw [marksGet_sum t w 1 ht]; simp
    rw [one _ hwf.2.1, one _ hwf.2.2.2, ← hw, ← t1, ← t2]
    rw [pow_one, ← Nat.testBit_eq_decide_div_mod_eq, Nat.testBit_or]
    cases (marksGet s.mem.poison ((vfBase c.site c.n + o) / 8) (cdiv (sz * n) 8)).testBit (sz * k / 8) <;>
      cases (marksGet s.mem.ue ((vfBase c.site c.n + o) / 8) (cdiv (sz * n) 8)).testBit (sz * k / 8) <;> rfl

end Sys2Proof.Machine
end

