-- ==== Sys2Proof/Laws/Core.lean ====
section
/-! SUPPORT. Bundles of one operation: their fields, and what issuing one does. -/

namespace Sys2Proof.Machine

/-! ### Fields of a bundle -/

/-- Bits above a field that is added below them. -/
theorem bits_high (x y k w : Nat) (h : x < 2 ^ k) : bits (x + y * 2 ^ k) k w = y % 2 ^ w := by
  unfold bits
  rw [Nat.add_mul_div_right _ _ (by positivity), Nat.div_eq_of_lt h, Nat.zero_add]

/-- Bits below a field that is added above them. -/
theorem bits_low (x y k l w : Nat) (h : l + w ≤ k) : bits (x + y * 2 ^ k) l w = bits x l w := by
  obtain ⟨d, rfl⟩ : ∃ d, k = l + (w + d) := ⟨k - l - w, by omega⟩
  unfold bits
  rw [pow_add, ← mul_assoc, mul_right_comm, Nat.add_mul_div_right _ _ (by positivity), pow_add, mul_comm (2 ^ w), ← mul_assoc,
    Nat.add_mul_mod_self_right]

theorem bits_zero (x w : Nat) : bits x 0 w = x % 2 ^ w := by unfold bits; simp

theorem add_mod_lt (x y j k m : Nat) (h : x < 2 ^ j) (hm : m = j + k) : x + y % 2 ^ k * 2 ^ j < 2 ^ m := by
  subst hm
  have : y % 2 ^ k < 2 ^ k := Nat.mod_lt _ (by positivity)
  rw [pow_add]
  nlinarith [Nat.pos_of_ne_zero (show (2 ^ j : Nat) ≠ 0 by positivity)]

theorem bundleHdr_of (h mx vx mv lk : Nat) : bundleHdr (bundleOf h mx vx mv lk) = h % 2 ^ 32 := by
  unfold bundleHdr bundleOf
  rw [bits_low _ _ 320 _ _ (by norm_num), bits_low _ _ 256 _ _ (by norm_num), bits_low _ _ 128 _ _ (by norm_num),
    bits_low _ _ 32 _ _ (by norm_num), bits_zero, Nat.mod_mod]

theorem bundleMx_of (h mx vx mv lk : Nat) : bundleMx (bundleOf h mx vx mv lk) = mx % 2 ^ 96 := by
  have h0 : h % 2 ^ 32 < 2 ^ 32 := Nat.mod_lt _ (by positivity)
  unfold bundleMx bundleOf
  rw [bits_low _ _ 320 _ _ (by norm_num), bits_low _ _ 256 _ _ (by norm_num), bits_low _ _ 128 _ _ (by norm_num),
    bits_high _ _ 32 _ h0, Nat.mod_mod]

theorem bundleVx_of (h mx vx mv lk : Nat) : bundleVx (bundleOf h mx vx mv lk) = vx % 2 ^ 128 := by
  have h0 : h % 2 ^ 32 < 2 ^ 32 := Nat.mod_lt _ (by positivity)
  have h1 := add_mod_lt _ mx 32 96 128 h0 rfl
  unfold bundleVx bundleOf
  rw [bits_low _ _ 320 _ _ (by norm_num), bits_low _ _ 256 _ _ (by norm_num), bits_high _ _ 128 _ h1, Nat.mod_mod]

theorem bundleMv_of (h mx vx mv lk : Nat) : bundleMv (bundleOf h mx vx mv lk) = mv % 2 ^ 64 := by
  have h0 : h % 2 ^ 32 < 2 ^ 32 := Nat.mod_lt _ (by positivity)
  have h2 := add_mod_lt _ vx 128 128 256 (add_mod_lt _ mx 32 96 128 h0 rfl) rfl
  unfold bundleMv bundleOf
  rw [bits_low _ _ 320 _ _ (by norm_num), bits_high _ _ 256 _ h2, Nat.mod_mod]

theorem bundle_low (h mx vx mv : Nat) :
    h % 2 ^ 32 + mx % 2 ^ 96 * 2 ^ 32 + vx % 2 ^ 128 * 2 ^ 128 + mv % 2 ^ 64 * 2 ^ 256 < 2 ^ 320 :=
  add_mod_lt _ mv 256 64 320
    (add_mod_lt _ vx 128 128 256 (add_mod_lt _ mx 32 96 128 (Nat.mod_lt _ (by positivity)) rfl) rfl) rfl

theorem bits_top (x lk : Nat) (h : x < 2 ^ 320) : bits (x + lk % 2 ^ 64 * 2 ^ 320) 320 64 = lk % 2 ^ 64 :=
  (bits_high _ _ 320 64 h).trans (Nat.mod_mod _ _)

theorem bundleLk_of (h mx vx mv lk : Nat) : bundleLk (bundleOf h mx vx mv lk) = lk % 2 ^ 64 :=
  bits_top _ _ (bundle_low h mx vx mv)

/-! ### Fields of a VX slot (R82) -/

theorem packBits_cons (p v : Nat) (l : List (Nat × Nat)) : packBits ((p, v) :: l) = v * 2 ^ p + packBits l := by
  have gen : ∀ (l : List (Nat × Nat)) (a b : Nat), l.foldl (fun acc f => acc + f.2 * 2 ^ f.1) (a + b) =
      a + l.foldl (fun acc f => acc + f.2 * 2 ^ f.1) b := by
    intro l
    induction l with
    | nil => intro a b; rfl
    | cons x l ih => intro a b; rw [List.foldl_cons, List.foldl_cons, ← ih, Nat.add_assoc]
  unfold packBits
  rw [List.foldl_cons, Nat.zero_add, ← gen, Nat.add_zero]

theorem packBits_nil : packBits [] = 0 := rfl

theorem vxOf_eq (op : Nat) (a : VxArgs) : vxOf op a = op + a.flags.toNat * 2 ^ 8 + a.count.toNat * 2 ^ 16 + a.dst.toNat * 2 ^ 30 +
    a.srca.toNat * 2 ^ 46 + a.srcb.toNat * 2 ^ 62 + a.imm.toNat * 2 ^ 78 + a.ty.toNat * 2 ^ 110 + a.rsv.toNat * 2 ^ 118 := by
  unfold vxOf
  rw [packBits_cons, packBits_cons, packBits_cons, packBits_cons, packBits_cons, packBits_cons, packBits_cons, packBits_cons,
    packBits_cons, packBits_nil, pow_zero, mul_one]
  ring

theorem vxOf_lt {op : Nat} (ho : op < 256) (a : VxArgs) : vxOf op a < 2 ^ 128 := by
  have := a.flags.isLt; have := a.count.isLt; have := a.dst.isLt; have := a.srca.isLt; have := a.srcb.isLt
  have := a.imm.isLt; have := a.ty.isLt; have := a.rsv.isLt
  rw [vxOf_eq]; omega

theorem vxOf_op {op : Nat} (ho : op < 256) (a : VxArgs) : bits (vxOf op a) 0 8 = op := by
  rw [vxOf_eq]; unfold bits; omega

theorem vxOf_flag {op : Nat} (ho : op < 256) (a : VxArgs) : bits (vxOf op a) 8 1 = a.flags.toNat % 2 := by
  rw [vxOf_eq]; unfold bits; omega

theorem vxOf_count {op : Nat} (ho : op < 256) (a : VxArgs) : bits (vxOf op a) 16 14 = a.count.toNat := by
  have := a.flags.isLt; have := a.count.isLt
  rw [vxOf_eq]; unfold bits; omega

theorem vxOf_dst {op : Nat} (ho : op < 256) (a : VxArgs) : bits (vxOf op a) 30 16 = a.dst.toNat := by
  have := a.flags.isLt; have := a.count.isLt; have := a.dst.isLt
  rw [vxOf_eq]; unfold bits; omega

theorem vxOf_srca {op : Nat} (ho : op < 256) (a : VxArgs) : bits (vxOf op a) 46 16 = a.srca.toNat := by
  have := a.flags.isLt; have := a.count.isLt; have := a.dst.isLt; have := a.srca.isLt
  rw [vxOf_eq]; unfold bits; omega

theorem vxOf_srcb {op : Nat} (ho : op < 256) (a : VxArgs) : bits (vxOf op a) 62 16 = a.srcb.toNat := by
  have := a.flags.isLt; have := a.count.isLt; have := a.dst.isLt; have := a.srca.isLt; have := a.srcb.isLt
  rw [vxOf_eq]; unfold bits; omega

theorem vxOf_imm {op : Nat} (ho : op < 256) (a : VxArgs) : bits (vxOf op a) 78 32 = a.imm.toNat := by
  have := a.flags.isLt; have := a.count.isLt; have := a.dst.isLt; have := a.srca.isLt; have := a.srcb.isLt
  have := a.imm.isLt
  rw [vxOf_eq]; unfold bits; omega

theorem vxOf_ty {op : Nat} (ho : op < 256) (a : VxArgs) : bits (vxOf op a) 110 4 = a.ty.toNat % 16 := by
  have := a.flags.isLt; have := a.count.isLt; have := a.dst.isLt; have := a.srca.isLt; have := a.srcb.isLt
  have := a.imm.isLt; have := a.ty.isLt
  rw [vxOf_eq]; unfold bits; omega

/-- R146: the slots of a bundle of one VX operation. -/
theorem vxBundle_slots {op : Nat} (ho : op < 256) (h : Hdr) (a : VxArgs) :
    bundleMx (vxBundle h op a) = 0 ∧ bundleVx (vxBundle h op a) = vxOf op a ∧ bundleMv (vxBundle h op a) = 0 ∧
      bundleLk (vxBundle h op a) = 0 := by
  unfold vxBundle
  rw [bundleMx_of, bundleVx_of, bundleMv_of, bundleLk_of]
  exact ⟨rfl, Nat.mod_eq_of_lt (vxOf_lt ho a), rfl, rfl⟩

theorem hdrOf_ctl (h : Hdr) (arg : Bool) (op : Nat) (ho : op < 256) : hdrCtl (hdrOf h arg op % 2 ^ 32) = op ∧ hdrArg (hdrOf h arg op % 2 ^ 32) = arg := by
  have := h.delta.isLt
  unfold hdrCtl hdrArg hdrOf bits
  cases arg <;> cases h.fa <;> simp <;> omega

/-! ### Issue -/

/-- R150: a bundle that issues has its effect at its due cycle. -/
theorem issue_of {s : State} {c : CoreId} {b t : Nat} (h : Issues s c b t) (arr : ArrayUpset) :
    issue s c b false arr = bundleEffect (atCycle s c.site t) c t (s.core c).nextPc b arr := by
  obtain ⟨d, hd, ht, hc⟩ := h.due
  have hp : isShadow (atCycle s c.site d.cyc) c.site = false := h.plain
  unfold issue
  simp only [hd]
  rw [if_neg (by simpa [ht] using h.running)]
  simp only [hp, Bool.false_eq_true, if_false, hc, ne_eq, not_true_eq_false]
  rw [ht, h.checks]
  rfl

theorem mxAcc_zero (s : State) (c : CoreId) (t : Nat) : mxAcc s c 0 t = [] := rfl

theorem mxEffect_zero (s : State) (c : CoreId) (t pc : Nat) (arr : ArrayUpset) : mxEffect s c 0 t pc arr = s := rfl

theorem ctlEffect_none (s : State) (c : CoreId) (t p h lk : Nat) (e : hdrCtl h = 0) : ctlEffect s c t p h lk = s := by
  unfold ctlEffect
  simp [e]

/-- A bundle of one VX operation that accesses no scratchpad bank leaves the memory that the operation leaves. -/
theorem bundleEffect_vx_mem {op : Nat} (ho : op < 256) (s : State) (c : CoreId) (t p : Nat) (h : Hdr) (a : VxArgs) (arr : ArrayUpset)
    (hv : vxAcc c (vxOf op a) t = []) : (bundleEffect s c t p (vxBundle h op a) arr).mem = (vxData s c (vxOf op a)).mem := by
  obtain ⟨e1, e2, e3, e4⟩ := vxBundle_slots ho h a
  have eh : hdrCtl (bundleHdr (vxBundle h op a)) = 0 ∧ hdrArg (bundleHdr (vxBundle h op a)) = false := by
    unfold vxBundle; rw [bundleHdr_of]; exact hdrOf_ctl h false 0 (by norm_num)
  have hu : vxUndo s c (vxOf op a) (if vxOf op a = 0 then [] else vxAcc c (vxOf op a) t) = [] := by
    rw [hv]; simp [vxUndo]
  suffices hk : MemIs (vxData s c (vxOf op a)) (bundleEffect s c t p (vxBundle h op a) arr) from hk.mem
  unfold bundleEffect
  rw [e1, e2, e3, e4]
  extract_lets hd mx vx as undo s1 s2 s3 s4 s5 s6 k s7 s8
  have qu : as ++ undo = [] := by
    have e : undo = [] := hu
    rw [e, List.append_nil]; exact mxAcc_zero ..
  have h2 : MemIs (vxData s c (vxOf op a)) s2 := by
    have q1 : s1 = s := mxEffect_zero ..
    have e : s2 = vxOccupy (vxData s1 c (vxOf op a)) c (vxOf op a) t := rfl
    rw [e, q1]; exact vxOccupy_memIs _ _ _ _ (MemIs.refl _)
  have h3 : MemIs (vxData s c (vxOf op a)) s3 := by
    have e : s3 = (placeAll s2 c.site t (as ++ undo)).st := rfl
    rw [e, qu]; exact State.setSite_memIs _ _ _ h2
  have h5 : MemIs (vxData s c (vxOf op a)) s5 := by
    have e4 : s4 = s3 := if_pos rfl
    have e5 : s5 = s4 := if_pos (by simp)
    rw [e5, e4]; exact h3
  have h6 : MemIs (vxData s c (vxOf op a)) s6 := MemIs.ite (digAdd_memIs _ _ _ h5) h5
  have h8 : MemIs (vxData s c (vxOf op a)) s8 := State.setCore_memIs _ _ _ h6
  rw [ctlEffect_none _ _ _ _ _ _ eh.1]
  exact showBusy_memIs _ _ _ (State.wr_memIs _ _ _ _ (State.wr_memIs _ _ _ _ h8))

/-- What an element of the vector file reads as depends on memory alone. -/
theorem vfElem_mem {s t : State} (h : s.mem = t.mem) (c : CoreId) (sz a k : Nat) : vfElem s c sz a k = vfElem t c sz a k := by
  unfold vfElem vfBytes vfPoison; rw [h]

end Sys2Proof.Machine
end

