-- ==== Sys2Proof/Laws/Vector.lean ====
section
/-! SUPPORT. Vector operations over runs of elements: what their beats leave in the vector file. -/

namespace Sys2Proof.Machine

/-! ### Beats -/

/-- The first `j` beats written with what was read in `s`. -/
def beatsDone {β : Type} (read : State → Nat → β) (write : State → Nat → β → State) (s : State) (j : Nat) : State :=
  upTo j (fun t k => write t k (read s k)) s

theorem beatsDone_zero {β : Type} (read : State → Nat → β) (write : State → Nat → β → State) (s : State) :
    beatsDone read write s 0 = s := rfl

theorem beatsDone_succ {β : Type} (read : State → Nat → β) (write : State → Nat → β → State) (s : State) (j : Nat) :
    beatsDone read write s (j + 1) = write (beatsDone read write s j) j (read s j) := by
  unfold beatsDone upTo
  rw [List.range_succ, List.foldl_append]; rfl

theorem beatPop_old {β : Type} {d : Nat} (write : State → Nat → β → State) {s : State} {p : Nat × β} {l : List (Nat × β)} {k : Nat}
    (h : p.1 + d ≤ k) : beatPop d write (s, p :: l) k = (write s p.1 p.2, l) := if_pos h

theorem beatPop_new {β : Type} {d : Nat} (write : State → Nat → β → State) {s : State} {l : List (Nat × β)} {k : Nat}
    (h : ∀ p ∈ l, k < p.1 + d) : beatPop d write (s, l) k = (s, l) := by
  cases l with
  | nil => rfl
  | cons p l => exact if_neg (Nat.not_le.2 (h p List.mem_cons_self))

/-- R96: where no beat reads what an earlier beat has written, every beat reads what stood there at issue. -/
theorem beats_eq {β : Type} (kk d : Nat) (read : State → Nat → β) (write : State → Nat → β → State) (s : State) (hd : 0 < d)
    (h : ∀ k < kk, read (beatsDone read write s (k + 1 - d)) k = read s k) :
    beats kk d read write s = beatsDone read write s kk := by
  unfold beats
  extract_lets r
  have hr : r = (beatsDone read write s (kk - d), (List.range' (kk - d) (kk - (kk - d))).map (fun k => (k, read s k))) := by
    simp only [r]
    clear r
    unfold upTo
    induction kk with
    | zero => simp [beatsDone, upTo]
    | succ k ih =>
      have hk := h k (Nat.lt_succ_self k)
      have ihk := ih (fun k hk => h k (Nat.lt_succ_of_lt hk))
      rw [List.range_succ, List.foldl_append, ihk, List.foldl_cons, List.foldl_nil]
      have pop : beatPop d write (beatsDone read write s (k - d), (List.range' (k - d) (k - (k - d))).map (fun k => (k, read s k))) k =
          (beatsDone read write s (k + 1 - d), (List.range' (k + 1 - d) (k - (k + 1 - d))).map (fun k => (k, read s k))) := by
        by_cases g : d ≤ k
        · have e1 : k - (k - d) = (d - 1) + 1 := by omega
          rw [e1, List.range'_succ, List.map_cons, beatPop_old _ (by simp only; omega), ← beatsDone_succ read write s (k - d)]
          rw [show k + 1 - d = k - d + 1 by omega, show k - (k - d + 1) = d - 1 by omega]
        · rw [beatPop_new]
          · rw [show k + 1 - d = k - d by omega]
          · intro p hp
            obtain ⟨j, hj, rfl⟩ := List.mem_map.1 hp
            have := List.mem_range'.1 hj
            simp only; omega
      rw [pop]
      simp only
      rw [hk]
      refine Prod.ext rfl ?_
      have e2 : k + 1 - (k + 1 - d) = k - (k + 1 - d) + 1 := by omega
      simp only
      rw [e2, List.range'_concat, List.map_append, List.map_cons, List.map_nil, show k + 1 - d + 1 * (k - (k + 1 - d)) = k by omega]
  rw [hr]
  simp only
  have gen : ∀ n j, List.foldl (fun s p => write s p.1 p.2) (beatsDone read write s j)
      (List.map (fun k => (k, read s k)) (List.range' j n)) = beatsDone read write s (j + n) := by
    intro n
    induction n with
    | zero => intro j; rfl
    | succ n ih =>
      intro j
      rw [List.range'_succ, List.map_cons, List.foldl_cons]
      have := ih (j + 1)
      rw [beatsDone_succ] at this
      simp only
      rw [this, show j + 1 + n = j + (n + 1) by omega]
  rw [gen, show kk - d + (kk - (kk - d)) = kk by omega]

/-! ### Codes and marks -/

theorem encodeNear_lt (f : Fp) (v : Val) : (encodeNear f v).code < 256 ^ f.bytes := by
  have hw : ∀ n (m : Nat), m < f.signBit → f.withSign n m < 256 ^ f.bytes := by
    intro n m hm
    have : 2 * f.signBit = 256 ^ f.bytes := by cases f <;> decide
    unfold Fp.withSign; split <;> omega
  have hi : f.infCode < f.signBit := by cases f <;> decide
  have hm : f.maxFin < f.signBit := by cases f <;> decide
  have hz : 0 < f.signBit := by cases f <;> decide
  unfold encodeNear
  split
  · cases f <;> decide
  · exact hw _ _ hi
  · exact hw _ _ hz
  · rename_i n m e
    simp only
    split
    · exact hw _ _ hi
    · rename_i h
      apply hw
      have : ¬ (f.maxFin < (roundFp f .nearest m e).code) := by
        intro g
        apply h
        revert g
        unfold roundFp
        simp only
        split
        · intro g; simp at g
        · intro g; simpa using g
      omega

theorem ewElem_lt (op : Ew) (f : Fp) (a b d : Nat) (k : Int) (ha : a < 256 ^ f.bytes) : (ewElem op f a b d k).code < 256 ^ f.bytes := by
  have hn : f.nan < 256 ^ f.bytes := by cases f <;> decide
  have h2 : 2 * f.signBit = 256 ^ f.bytes := by cases f <;> decide
  have hz : 0 < f.signBit := by cases f <;> decide
  unfold ewElem
  simp only
  split
  all_goals try exact encodeNear_lt _ _
  all_goals split
  all_goals first | exact hn | exact ha | exact encodeNear_lt _ _ | skip
  · show a % f.signBit < _
    have := Nat.mod_lt a hz; omega
  · show (a + f.signBit) % (2 * f.signBit) < _
    rw [← h2]; exact Nat.mod_lt _ (by omega)


/-- What the marks of a state are. -/
theorem noteVf_mem (s : State) (c : CoreId) (o n : Nat) : (noteVf s c o n).mem = s.mem ∨
    ∃ a w, (noteVf s c o n).mem = { memMark s.mem a w (marksGet s.mem.ue (a / 8) w) with
      ue := marksPut (memMark s.mem a w (marksGet s.mem.ue (a / 8) w)).ue (a / 8) w 0 } := by
  unfold noteVf
  simp only
  generalize hs1 : (if marksGet s.mem.ce ((vfBase c.site c.n + o / 8 * 8) / 8) (cdiv (o % 8 + n) 8) = 0 then s
    else (s.setBit (coreP c) Reg.Co.VF_CE).bump (coreP c) Reg.Co.VF_CE_CNT
      (popc (cdiv (o % 8 + n) 8) (marksGet s.mem.ce ((vfBase c.site c.n + o / 8 * 8) / 8) (cdiv (o % 8 + n) 8)))) = s1
  have e1 : s1.mem = s.mem := by
    rw [← hs1]; split
    · rfl
    · rw [State.mem_bump]; rfl
  split
  · exact .inl e1
  · refine .inr ⟨vfBase c.site c.n + o / 8 * 8, cdiv (o % 8 + n) 8, ?_⟩
    simp only [State.setBit, State.mem_wr, e1]

theorem noteVf_byte (s : State) (c : CoreId) (o n x : Nat) : memByte (noteVf s c o n).mem x = memByte s.mem x := by
  rcases noteVf_mem s c o n with h | ⟨a, w, h⟩ <;> rw [h]
  rfl

theorem noteVf_mark (s : State) (c : CoreId) (o n : Nat) (hw : Memory.wf s.mem = true) (k : Nat) :
    (keyHas (noteVf s c o n).mem.poison k || keyHas (noteVf s c o n).mem.ue k) = (keyHas s.mem.poison k || keyHas s.mem.ue k) := by
  have hwf := Memory.wf_iff.1 hw
  rcases noteVf_mem s c o n with h | ⟨a, w, h⟩
  · rw [h]
  · rw [h]
    simp only [memMark, keyHas_marksPut]
    by_cases g : a / 8 ≤ k ∧ k < a / 8 + w
    · have e : k = a / 8 + (k - a / 8) := by omega
      have t1 := marksGet_testBit s.mem.poison (a / 8) w (k - a / 8) hwf.2.1 (by omega)
      have t2 := marksGet_testBit s.mem.ue (a / 8) w (k - a / 8) hwf.2.2.2 (by omega)
      rw [← e] at t1 t2
      simp only [g, and_self, if_true, Nat.testBit_or, t1, t2, Nat.zero_testBit, Bool.or_false]
    · simp only [g, if_false]

theorem marksGet_one (t : KeySet) (h : keyWf t = true) (w : Nat) : marksGet t w 1 = if keyHas t w then 1 else 0 := by
  rw [marksGet_sum t w 1 h]; simp

theorem vfPoison_eq (s : State) (c : CoreId) (o : Nat) (h : Memory.wf s.mem = true) :
    vfPoison s c o = (keyHas s.mem.poison ((vfBase c.site c.n + o / 8 * 8) / 8) || keyHas s.mem.ue ((vfBase c.site c.n + o / 8 * 8) / 8)) := by
  have hwf := Memory.wf_iff.1 h
  unfold vfPoison memPoison
  rw [marksGet_one _ hwf.2.1, marksGet_one _ hwf.2.2.2]
  cases keyHas s.mem.poison ((vfBase c.site c.n + o / 8 * 8) / 8) <;> cases keyHas s.mem.ue ((vfBase c.site c.n + o / 8 * 8) / 8) <;> rfl

theorem noteVf_elem (s : State) (c : CoreId) (o n sz a k : Nat) (h : Memory.wf s.mem = true) :
    vfElem (noteVf s c o n) c sz a k = vfElem s c sz a k := by
  have h' := (noteVf_keeps s c o n (Keeps.refl s)).wf h
  unfold vfElem vfBytes
  rw [vfPoison_eq _ _ _ h', vfPoison_eq _ _ _ h, noteVf_mark _ _ _ _ h, memRead_bytes _ _ _ h', memRead_bytes _ _ _ h]
  congr 1
  exact numOf_congr (fun i _ => noteVf_byte ..)

/-- The code of an element fits its width. -/
theorem vfElem_lt (s : State) (c : CoreId) (sz a k : Nat) (h : Memory.wf s.mem = true) : (vfElem s c sz a k).code < 256 ^ sz := by
  unfold vfElem vfBytes
  simp only
  rw [memRead_bytes _ _ _ h]
  exact numOf_lt _ _

theorem vfRun_length (s : State) (c : CoreId) (sz a n : Nat) : (vfRun s c sz a n).length = n := by simp [vfRun]

theorem ite_wf {p : Prop} [Decidable p] {a b : State} (ha : Memory.wf a.mem = true) (hb : Memory.wf b.mem = true) :
    Memory.wf (if p then a else b).mem = true := by split <;> assumption


/-! ### Words in error -/

/-- A word that reads as poison. -/
def wordBad (m : Mem) (w : Nat) : Bool := keyHas m.poison w || keyHas m.ue w

theorem vfPoison_word (s : State) (c : CoreId) (o : Nat) (h : Memory.wf s.mem = true) :
    vfPoison s c o = wordBad s.mem ((vfBase c.site c.n + o / 8 * 8) / 8) := vfPoison_eq s c o h

/-- Marks of words that a write of the vector file does not touch. -/
theorem wordBad_vfWrite (s : State) (c : CoreId) (o n v pm w : Nat) (ho : o % 8 = 0)
    (h : w < (vfBase c.site c.n + o) / 8 ∨ (vfBase c.site c.n + o) / 8 + cdiv n 8 ≤ w) :
    wordBad (vfWrite s c o n v pm).mem w = wordBad s.mem w := by
  have hb : vfBase c.site c.n % 8 = 0 := by unfold vfBase coreBase siteBase; omega
  unfold cdiv at h
  unfold vfWrite wordBad
  simp only
  split
  · simp only [memWrite, keyHas_marksPut]
    rw [if_neg (by omega), if_neg (by omega)]
  · simp only [memMark, memTail, memWrite, keyHas_marksPut]
    rw [if_neg (by omega), if_neg (by omega), if_neg (by omega)]

theorem wordBad_vfPutRun (s : State) (c : CoreId) (sz o : Nat) (es : List OutElem) (w : Nat) (ho : o % 8 = 0)
    (h : w < (vfBase c.site c.n + o) / 8 ∨ (vfBase c.site c.n + o) / 8 + cdiv (sz * es.length) 8 ≤ w) :
    wordBad (vfPutRun s c sz o es).mem w = wordBad s.mem w := by
  rw [vfPutRun_mem]; exact wordBad_vfWrite _ _ _ _ _ _ _ ho h

/-- A run whose bytes and marks stand unchanged reads as before. -/
theorem vfRun_congr (s t : State) (c : CoreId) (sz o n : Nat) (hs : Memory.wf s.mem = true) (ht : Memory.wf t.mem = true)
    (hsz : 0 < sz) (ho : o % 8 = 0)
    (hb : ∀ x, vfBase c.site c.n + o ≤ x → x < vfBase c.site c.n + o + sz * n → memByte t.mem x = memByte s.mem x)
    (hm : ∀ w, (vfBase c.site c.n + o) / 8 ≤ w → w < (vfBase c.site c.n + o) / 8 + cdiv (sz * n) 8 → wordBad t.mem w = wordBad s.mem w) :
    vfRun t c sz o n = vfRun s c sz o n := by
  have h8 : vfBase c.site c.n % 8 = 0 := by unfold vfBase coreBase siteBase; omega
  apply List.ext_getElem?
  intro k
  by_cases hk : k < n
  · have hsk : sz * k + sz ≤ sz * n := by
      rw [show sz * k + sz = sz * (k + 1) by ring]; exact Nat.mul_le_mul_left _ hk
    rw [vfRun_elem _ _ _ _ _ _ ht hk hsz ho, vfRun_elem _ _ _ _ _ _ hs hk hsz ho, vfPoison_word _ _ _ ht, vfPoison_word _ _ _ hs]
    congr 2
    · unfold vfBytes
      rw [memRead_bytes _ _ _ ht, memRead_bytes _ _ _ hs]
      exact numOf_congr (fun i hi => hb _ (by omega) (by omega))
    · exact hm _ (by omega) (by unfold cdiv at *; omega)
  · rw [List.getElem?_eq_none (by rw [vfRun_length]; omega), List.getElem?_eq_none (by rw [vfRun_length]; omega)]

/-! ### Runs written in beats -/

/-- What a sequence of beats of `n` elements leaves beside the elements written so far. -/
theorem puts_beside (c : CoreId) (sz n cnt o : Nat) (es : Nat → List OutElem) (hl : ∀ k, (es k).length = beatLen n cnt k) (s : State)
    (j x : Nat) (hx : x < vfBase c.site c.n + o ∨ vfBase c.site c.n + o + sz * min (n * j) cnt ≤ x) :
    memByte (upTo j (fun t k => vfPutRun t c sz (o + sz * (n * k)) (es k)) s).mem x = memByte s.mem x := by
  induction j with
  | zero => rfl
  | succ j ih =>
    unfold upTo at *
    have hm : sz * min (n * j) cnt ≤ sz * min (n * (j + 1)) cnt := Nat.mul_le_mul_left _ (by rw [Nat.mul_succ]; omega)
    rw [List.range_succ, List.foldl_append, List.foldl_cons, List.foldl_nil, vfPutRun_beside, ih (by omega)]
    rw [hl]
    unfold beatLen
    by_cases g : n * j ≤ cnt
    · have : sz * (n * j) + sz * min n (cnt - n * j) = sz * min (n * (j + 1)) cnt := by
        rw [← Nat.mul_add]; congr 1; rw [Nat.mul_succ]; omega
      omega
    · rw [show cnt - n * j = 0 by omega, Nat.min_zero, Nat.mul_zero]
      omega

theorem puts_wf (c : CoreId) (sz n o : Nat) (es : Nat → List OutElem) (s : State) (j : Nat) (h : Memory.wf s.mem = true) :
    Memory.wf (upTo j (fun t k => vfPutRun t c sz (o + sz * (n * k)) (es k)) s).mem = true :=
  (Keeps.upTo (fun _ _ g => vfPutRun_keeps _ _ _ _ _ g) (Keeps.refl s)).wf h

/-- The marks of words beside the elements written so far. -/
theorem puts_marks (c : CoreId) (sz n cnt o : Nat) (es : Nat → List OutElem) (hl : ∀ k, (es k).length = beatLen n cnt k) (s : State)
    (ho : o % 8 = 0) (hn : sz * n % 8 = 0)
    (j w : Nat) (hx : w < (vfBase c.site c.n + o) / 8 ∨ (vfBase c.site c.n + o) / 8 + cdiv (sz * min (n * j) cnt) 8 ≤ w) :
    wordBad (upTo j (fun t k => vfPutRun t c sz (o + sz * (n * k)) (es k)) s).mem w = wordBad s.mem w := by
  have h8 : vfBase c.site c.n % 8 = 0 := by unfold vfBase coreBase siteBase; omega
  induction j with
  | zero => rfl
  | succ j ih =>
    unfold upTo at *
    have hm : sz * min (n * j) cnt ≤ sz * min (n * (j + 1)) cnt := Nat.mul_le_mul_left _ (by rw [Nat.mul_succ]; omega)
    have hj : sz * (n * j) % 8 = 0 := by rw [← Nat.mul_assoc, Nat.mul_mod, hn]; simp
    rw [List.range_succ, List.foldl_append, List.foldl_cons, List.foldl_nil, wordBad_vfPutRun _ _ _ _ _ _ (by omega),
      ih (by unfold cdiv at *; omega)]
    rw [hl]
    unfold beatLen cdiv at *
    by_cases g : n * j ≤ cnt
    · have : sz * (n * j) + sz * min n (cnt - n * j) = sz * min (n * (j + 1)) cnt := by
        rw [← Nat.mul_add]; congr 1; rw [Nat.mul_succ]; omega
      omega
    · rw [show cnt - n * j = 0 by omega, Nat.min_zero, Nat.mul_zero]
      have : sz * min (n * (j + 1)) cnt ≤ sz * (n * j) := Nat.mul_le_mul_left _ (by omega)
      omega

/-- The code of an element that a sequence of beats has written. -/
theorem puts_code (c : CoreId) (sz n cnt o : Nat) (es : Nat → List OutElem) (hl : ∀ k, (es k).length = beatLen n cnt k) (s : State)
    (hw : Memory.wf s.mem = true) (hes : ∀ k, ∀ e ∈ es k, e.code < 256 ^ sz) (hn : 0 < n) (j k : Nat) (hk : k < cnt) (hkj : k < n * j) :
    ∃ h : k % n < (es (k / n)).length,
      vfBytes (upTo j (fun t k => vfPutRun t c sz (o + sz * (n * k)) (es k)) s) c (o + sz * k) sz = ((es (k / n))[k % n]'h).code := by
  have hlen : k % n < (es (k / n)).length := by
    rw [hl]; unfold beatLen
    have := Nat.mod_lt k hn
    have := Nat.div_add_mod k n
    omega
  refine ⟨hlen, ?_⟩
  induction j with
  | zero => omega
  | succ j ih =>
    unfold upTo at *
    rw [List.range_succ, List.foldl_append, List.foldl_cons, List.foldl_nil]
    have hwj := puts_wf c sz n o es s j hw
    unfold upTo at hwj
    by_cases g : k < n * j
    · rw [← ih g]
      have hsk : sz * k + sz ≤ sz * (n * j) := by
        rw [show sz * k + sz = sz * (k + 1) by ring]; exact Nat.mul_le_mul_left _ g
      unfold vfBytes
      rw [memRead_bytes _ _ _ ((vfPutRun_keeps _ _ _ _ _ (Keeps.refl _)).wf hwj), memRead_bytes _ _ _ hwj]
      exact numOf_congr (fun i hi => vfPutRun_beside _ _ _ _ _ _ (Or.inl (by omega)))
    · have hq : k / n = j := by
        rw [Nat.mul_succ] at hkj
        exact Nat.div_eq_of_lt_le (by rw [Nat.mul_comm]; omega) (by rw [Nat.mul_comm, Nat.mul_succ]; omega)
      have e : o + sz * k = o + sz * (n * j) + sz * (k % n) := by
        rw [Nat.add_assoc, ← Nat.mul_add]; congr 2; rw [← hq]; exact (Nat.div_add_mod k n).symm
      subst hq
      rw [e]
      exact vfPutRun_code _ c sz _ (es (k / n)) hwj (hes _) _ hlen

/-! ### Element-wise operations and functions -/

/-- R96: a source that is clear of the destination stands unread by earlier beats. -/
theorem puts_source (c : CoreId) (sz n cnt dst src : Nat) (es : Nat → List OutElem) (hl : ∀ k, (es k).length = beatLen n cnt k)
    (s : State) (hw : Memory.wf s.mem = true) (hsz : 0 < sz) (hn : sz * n % 8 = 0) (hc : clearOf sz cnt dst src) (j k : Nat) (hj : j ≤ k) :
    vfRun (upTo j (fun t k => vfPutRun t c sz (vfOff dst + sz * (n * k)) (es k)) s) c sz (vfOff src + sz * (n * k)) (beatLen n cnt k) =
      vfRun s c sz (vfOff src + sz * (n * k)) (beatLen n cnt k) := by
  have hd : vfOff dst % 8 = 0 := by unfold vfOff; omega
  have hs : vfOff src % 8 = 0 := by unfold vfOff; omega
  have h8 : vfBase c.site c.n % 8 = 0 := by unfold vfBase coreBase siteBase; omega
  have hk : sz * (n * k) % 8 = 0 := by rw [← Nat.mul_assoc, Nat.mul_mod, hn]; simp
  have hjk : sz * min (n * j) cnt ≤ sz * (n * k) := Nat.mul_le_mul_left _ (le_trans (Nat.min_le_left _ _) (Nat.mul_le_mul_left _ hj))
  have hb : sz * (n * k) + sz * beatLen n cnt k ≤ sz * max (n * k) cnt := by
    rw [← Nat.mul_add]; exact Nat.mul_le_mul_left _ (by unfold beatLen; omega)
  by_cases g : n * k < cnt
  · have hm : sz * max (n * k) cnt = sz * cnt := by rw [Nat.max_eq_right (by omega)]
    rcases hc with hc | hc
    · refine vfRun_congr s _ c sz _ _ hw (puts_wf _ _ _ _ _ _ _ hw) hsz (by omega) (fun x h1 h2 => ?_) (fun w h1 h2 => ?_)
      · exact puts_beside c sz n cnt _ es hl s j x (Or.inr (by omega))
      · exact puts_marks c sz n cnt _ es hl s hd hn j w (Or.inr (by unfold cdiv at *; omega))
    · refine vfRun_congr s _ c sz _ _ hw (puts_wf _ _ _ _ _ _ _ hw) hsz (by omega) (fun x h1 h2 => ?_) (fun w h1 h2 => ?_)
      · exact puts_beside c sz n cnt _ es hl s j x (Or.inl (by omega))
      · exact puts_marks c sz n cnt _ es hl s hd hn j w (Or.inl (by unfold cdiv at *; omega))
  · have : beatLen n cnt k = 0 := by unfold beatLen; omega
    rw [this]; rfl

theorem clearOf_self (sz cnt a : Nat) : clearOf sz cnt a a := Or.inl (le_refl _)

theorem ewBeat_length (s : State) (c : CoreId) (op : Ew) (f : Fp) (dst srca srcb imm : Nat) (sb : Bool) (e0 m : Nat) :
    (ewBeat s c op f dst srca srcb imm sb e0 m).length = m := by
  have h : ∀ (p : Prop) [Decidable p] (a b : List Elem), a.length = m → b.length = m → (if p then a else b).length = m := by
    intro p _ a b ha hb; split <;> assumption
  unfold ewBeat
  simp only
  rw [List.length_map, List.length_zip, List.length_zip, vfRun_length, h _ _ _ (vfRun_length ..) (List.length_replicate ..),
    h _ _ _ (vfRun_length ..) (List.length_replicate ..)]
  omega

theorem vxType_pos (ty : Nat) : 0 < (vxType ty).bytes := by
  generalize vxType ty = f; cases f <;> decide

theorem mem_vfRun_lt {s : State} {c : CoreId} {sz o n : Nat} (h : Memory.wf s.mem = true) (hsz : 0 < sz) (ho : o % 8 = 0) :
    ∀ e ∈ vfRun s c sz o n, e.code < 256 ^ sz := by
  intro e he
  obtain ⟨j, hj⟩ := List.getElem?_of_mem he
  have hj' : j < n := by
    by_contra g
    rw [List.getElem?_eq_none (by rw [vfRun_length]; omega)] at hj; exact absurd hj (by simp)
  rw [vfRun_elem _ _ _ _ _ _ h hj' hsz ho] at hj
  rw [← Option.some.inj hj]
  simp only
  unfold vfBytes
  rw [memRead_bytes _ _ _ h]
  exact numOf_lt _ _

theorem ewBeat_lt (s : State) (c : CoreId) (op : Ew) (f : Fp) (dst srca srcb imm : Nat) (sb : Bool) (e0 m : Nat)
    (h : Memory.wf s.mem = true) (he : f.bytes * e0 % 8 = 0) :
    ∀ e ∈ ewBeat s c op f dst srca srcb imm sb e0 m, e.code < 256 ^ f.bytes := by
  intro e hm
  unfold ewBeat at hm
  obtain ⟨x, hx, rfl⟩ := List.mem_map.1 hm
  split
  · exact (by cases f <;> decide : f.nan < 256 ^ f.bytes)
  · exact ewElem_lt _ _ _ _ _ _ (mem_vfRun_lt h (by cases f <;> decide) (by unfold vfOff; omega) _ (List.of_mem_zip hx).1)

/-- Element `i` of a beat of an element-wise operation. -/
theorem ewBeat_code (s : State) (c : CoreId) (op : Ew) (f : Fp) (dst srca srcb imm : Nat) (sb : Bool) (e0 m i : Nat)
    (h : Memory.wf s.mem = true) (he : f.bytes * e0 % 8 = 0) (hi : i < m) :
    (ewBeat s c op f dst srca srcb imm sb e0 m)[i]? =
      (let x := vfElem s c f.bytes srca (e0 + i)
       let y := if op.hasB && !sb then vfElem s c f.bytes srcb (e0 + i) else ⟨imm % 256 ^ f.bytes, false⟩
       let z := if op = .fma then vfElem s c f.bytes dst (e0 + i) else ⟨0, false⟩
       some (if x.poison || y.poison || z.poison then { code := f.nan, poison := true } else ewElem op f x.code y.code z.code (sgn 8 imm))) := by
  have run : ∀ a, (vfRun s c f.bytes (vfOff a + f.bytes * e0) m)[i]? = some (vfElem s c f.bytes a (e0 + i)) := by
    intro a
    rw [vfRun_elem _ _ _ _ _ _ h hi (by cases f <;> decide) (by unfold vfOff; omega)]
    unfold vfElem
    rw [Nat.mul_add, ← Nat.add_assoc]
  have sel : ∀ (p : Prop) [Decidable p] (a : Nat) (v : Elem),
      (if p then vfRun s c f.bytes (vfOff a + f.bytes * e0) m else List.replicate m v)[i]? =
        some (if p then vfElem s c f.bytes a (e0 + i) else v) := by
    intro p _ a v; split
    · exact run a
    · rw [List.getElem?_replicate, if_pos hi]
  unfold ewBeat
  simp only
  have hB := sel ((op.hasB && !sb) = true) srcb ⟨imm % 256 ^ f.bytes, false⟩
  have hD := sel (op = .fma) dst ⟨0, false⟩
  generalize hX : vfElem s c f.bytes srca (e0 + i) = X at *
  generalize hY : (if (op.hasB && !sb) = true then vfElem s c f.bytes srcb (e0 + i) else (⟨imm % 256 ^ f.bytes, false⟩ : Elem)) = Y at *
  generalize hZ : (if op = .fma then vfElem s c f.bytes dst (e0 + i) else (⟨0, false⟩ : Elem)) = Z at *
  generalize (if (op.hasB && !sb) = true then _ else _ : List Elem) = bs at *
  generalize (if op = .fma then _ else _ : List Elem) = ds at *
  have hA := run srca
  rw [hX] at hA
  have hz : ((vfRun s c f.bytes (vfOff srca + f.bytes * e0) m).zip (bs.zip ds))[i]? = some (X, Y, Z) :=
    List.getElem?_zip_eq_some.2 ⟨hA, List.getElem?_zip_eq_some.2 ⟨hB, hD⟩⟩
  rw [List.getElem?_map, hz]
  rfl

/-- R82, R96: an element-wise operation whose destination is clear of its sources writes what its elements were at issue. -/
theorem ewBeats_eq (s : State) (c : CoreId) (op : Ew) (f : Fp) (n d cnt dst srca srcb imm : Nat) (sb : Bool) (h : Memory.wf s.mem = true)
    (hd : 0 < d) (hn : f.bytes * n % 8 = 0) (ha : clearOf f.bytes cnt dst srca)
    (hb : (op.hasB && !sb) = true → clearOf f.bytes cnt dst srcb) :
    beats (cdiv cnt n) d (fun s k => ewBeat s c op f dst srca srcb imm sb (n * k) (beatLen n cnt k))
      (fun s k es => vfPutRun s c f.bytes (vfOff dst + f.bytes * (n * k)) es) s =
    upTo (cdiv cnt n) (fun t k => vfPutRun t c f.bytes (vfOff dst + f.bytes * (n * k))
      (ewBeat s c op f dst srca srcb imm sb (n * k) (beatLen n cnt k))) s := by
  refine beats_eq _ _ _ _ _ hd (fun k hk => ?_)
  have hsz : 0 < f.bytes := by cases f <;> decide
  have src : ∀ a, clearOf f.bytes cnt dst a → vfRun (beatsDone (fun s k => ewBeat s c op f dst srca srcb imm sb (n * k) (beatLen n cnt k))
      (fun s k es => vfPutRun s c f.bytes (vfOff dst + f.bytes * (n * k)) es) s (k + 1 - d)) c f.bytes (vfOff a + f.bytes * (n * k)) (beatLen n cnt k) =
      vfRun s c f.bytes (vfOff a + f.bytes * (n * k)) (beatLen n cnt k) := fun a hc =>
    puts_source c f.bytes n cnt dst a (fun k => ewBeat s c op f dst srca srcb imm sb (n * k) (beatLen n cnt k))
      (fun k => ewBeat_length ..) s h hsz hn hc _ k (by omega)
  generalize beatsDone _ _ _ _ = t at *
  unfold ewBeat
  simp only
  rw [src srca ha, src dst (clearOf_self _ _ _)]
  by_cases g : (op.hasB && !sb) = true
  · rw [src srcb (hb g)]
  · rw [if_neg g, if_neg g]

/-- A run of elements written in beats, each element by the beat that holds it. -/
theorem puts_elem (c : CoreId) (sz n cnt dst : Nat) (es : Nat → List OutElem) (r : Nat → OutElem) (hl : ∀ k, (es k).length = beatLen n cnt k)
    (s : State) (hw : Memory.wf s.mem = true) (hes : ∀ k, ∀ e ∈ es k, e.code < 256 ^ sz) (hn : 0 < n)
    (hr : ∀ k i, i < beatLen n cnt k → (es k)[i]? = some (r (n * k + i))) (k : Nat) (hk : k < cnt) :
    (vfElem (upTo (cdiv cnt n) (fun t k => vfPutRun t c sz (vfOff dst + sz * (n * k)) (es k)) s) c sz dst k).code = (r k).code := by
  have hb : k < n * cdiv cnt n := by
    unfold cdiv
    have := Nat.div_add_mod (cnt + n - 1) n
    have := Nat.mod_lt (cnt + n - 1) hn
    omega
  obtain ⟨h, e⟩ := puts_code c sz n cnt (vfOff dst) es hl s hw hes hn (cdiv cnt n) k hk hb
  have hi : k % n < beatLen n cnt (k / n) := by rw [← hl]; exact h
  have := hr (k / n) (k % n) hi
  rw [List.getElem?_eq_getElem h, Nat.div_add_mod] at this
  show vfBytes _ c _ _ = _
  rw [e, Option.some.inj this]

theorem noteVf_wf {s : State} (h : Memory.wf s.mem = true) (c : CoreId) (o n : Nat) : Memory.wf (noteVf s c o n).mem = true :=
  (noteVf_keeps s c o n (Keeps.refl s)).wf h

/-- R86: an element-wise operation writes each element rounded once. -/
theorem vxEw_code (s : State) (c : CoreId) (op : Ew) (ty cnt dst srca srcb imm : Nat) (sb : Bool) (h : Memory.wf s.mem = true)
    (ha : clearOf (vxType ty).bytes cnt dst srca) (hb : (op.hasB && !sb) = true → clearOf (vxType ty).bytes cnt dst srcb)
    (k : Nat) (hk : k < cnt) :
    (vfElem (vxEw s c op ty cnt dst srca srcb imm sb) c (vxType ty).bytes dst k).code =
      (let f := vxType ty
       let x := vfElem s c f.bytes srca k
       let y := if op.hasB && !sb then vfElem s c f.bytes srcb k else ⟨imm % 256 ^ f.bytes, false⟩
       let z := if op = .fma then vfElem s c f.bytes dst k else ⟨0, false⟩
       if x.poison || y.poison || z.poison then f.nan else (ewElem op f x.code y.code z.code (sgn 8 imm)).code) := by
  unfold vxEw
  extract_lets f sz n s1 s2 s3
  have w1 : Memory.wf s1.mem = true := noteVf_wf h _ _ _
  have e1 : ∀ a k, vfElem s1 c sz a k = vfElem s c sz a k := fun a k => noteVf_elem s c _ _ _ _ _ h
  have w2 : Memory.wf s2.mem = true := ite_wf (noteVf_wf w1 _ _ _) w1
  have e2 : ∀ a k, vfElem s2 c sz a k = vfElem s c sz a k := by
    intro a k; simp only [s2]; split
    · rw [noteVf_elem _ _ _ _ _ _ _ w1]; exact e1 _ _
    · exact e1 _ _
  have w3 : Memory.wf s3.mem = true := ite_wf (noteVf_wf w2 _ _ _) w2
  have e3 : ∀ a k, vfElem s3 c sz a k = vfElem s c sz a k := by
    intro a k; simp only [s3]; split
    · rw [noteVf_elem _ _ _ _ _ _ _ w2]; exact e2 _ _
    · exact e2 _ _
  clear_value s3
  have hn : 0 < n := by simp only [n]; split <;> decide
  have h8 : f.bytes * n % 8 = 0 := by simp only [n]; cases f <;> split <;> rfl
  have he : ∀ j, f.bytes * (n * j) % 8 = 0 := fun j => by rw [← Nat.mul_assoc, Nat.mul_mod, h8]; simp
  rw [ewBeats_eq s3 c op f n _ cnt dst srca srcb imm sb w3 (by split <;> decide) h8 ha hb]
  have := puts_elem c sz n cnt dst (fun k => ewBeat s3 c op f dst srca srcb imm sb (n * k) (beatLen n cnt k))
    (fun k => if (vfElem s3 c sz srca k).poison || (if op.hasB && !sb then vfElem s3 c sz srcb k else (⟨imm % 256 ^ sz, false⟩ : Elem)).poison
        || (if op = .fma then vfElem s3 c sz dst k else (⟨0, false⟩ : Elem)).poison
      then { code := f.nan, poison := true }
      else ewElem op f (vfElem s3 c sz srca k).code (if op.hasB && !sb then vfElem s3 c sz srcb k else (⟨imm % 256 ^ sz, false⟩ : Elem)).code
        (if op = .fma then vfElem s3 c sz dst k else (⟨0, false⟩ : Elem)).code (sgn 8 imm))
    (fun _ => ewBeat_length ..) s3 w3 (fun j => ewBeat_lt _ _ _ _ _ _ _ _ _ _ _ w3 (he j)) hn
    (fun j i hi => ewBeat_code _ _ _ _ _ _ _ _ _ _ _ _ w3 (he j) hi) k hk
  simp only [e3] at this
  rw [this, apply_ite OutElem.code]

theorem vxEw_beside (s : State) (c : CoreId) (op : Ew) (ty cnt dst srca srcb imm : Nat) (sb : Bool) (x : Nat) (h : Memory.wf s.mem = true)
    (ha : clearOf (vxType ty).bytes cnt dst srca) (hb : (op.hasB && !sb) = true → clearOf (vxType ty).bytes cnt dst srcb)
    (hx : x < vfBase c.site c.n + vfOff dst ∨ vfBase c.site c.n + vfOff dst + (vxType ty).bytes * cnt ≤ x) :
    memByte (vxEw s c op ty cnt dst srca srcb imm sb).mem x = memByte s.mem x := by
  unfold vxEw
  extract_lets f sz n s1 s2 s3
  have w1 : Memory.wf s1.mem = true := noteVf_wf h _ _ _
  have w2 : Memory.wf s2.mem = true := ite_wf (noteVf_wf w1 _ _ _) w1
  have w3 : Memory.wf s3.mem = true := ite_wf (noteVf_wf w2 _ _ _) w2
  have e1 : memByte s1.mem x = memByte s.mem x := noteVf_byte ..
  have e2 : memByte s2.mem x = memByte s.mem x := by simp only [s2]; split <;> simp only [noteVf_byte, e1]
  have e3 : memByte s3.mem x = memByte s.mem x := by simp only [s3]; split <;> simp only [noteVf_byte, e2]
  clear_value s3
  have h8 : f.bytes * n % 8 = 0 := by simp only [n]; cases f <;> split <;> rfl
  rw [ewBeats_eq s3 c op f n _ cnt dst srca srcb imm sb w3 (by split <;> decide) h8 ha hb,
    puts_beside c sz n cnt (vfOff dst) _ (fun _ => ewBeat_length ..), e3]
  have : sz * min (n * cdiv cnt n) cnt ≤ sz * cnt := Nat.mul_le_mul_left _ (Nat.min_le_right _ _)
  exact hx.imp id (fun h => le_trans (Nat.add_le_add_left this _) h)

/-! ### Functions -/

theorem fnBeat_length (s : State) (c : CoreId) (fn : Fn) (f : Fp) (srca e0 m : Nat) : (fnBeat s c fn f srca e0 m).length = m := by
  unfold fnBeat; rw [List.length_map, vfRun_length]

theorem fnBeat_code (s : State) (c : CoreId) (fn : Fn) (f : Fp) (srca e0 m i : Nat) (h : Memory.wf s.mem = true)
    (he : f.bytes * e0 % 8 = 0) (hi : i < m) :
    (fnBeat s c fn f srca e0 m)[i]? = some (if (vfElem s c f.bytes srca (e0 + i)).poison then { code := f.nan, poison := true }
      else fnElem fn f (vfElem s c f.bytes srca (e0 + i)).code) := by
  unfold fnBeat
  rw [List.getElem?_map, vfRun_elem _ _ _ _ _ _ h hi (by cases f <;> decide) (by unfold vfOff; omega)]
  unfold vfElem
  rw [Nat.mul_add, ← Nat.add_assoc]
  rfl

theorem withSign_lt (n : Bool) (m : Nat) (h : m < Fp.signBit .fp32) : Fp.withSign .fp32 n m < 256 ^ Fp.bytes .fp32 := by
  have : 2 * Fp.signBit .fp32 = 256 ^ Fp.bytes .fp32 := by decide
  unfold Fp.withSign; split <;> omega

theorem fnApply_lt (fn : Fn) (x : BitVec 32) : (fnApply fn x).code < 256 ^ Fp.bytes .fp32 := by
  have hm : Fp.maxFin .fp32 < Fp.signBit .fp32 := by decide
  have hz : 0 < Fp.signBit .fp32 := by decide
  unfold fnApply
  extract_lets one ninf pinf bad
  have hone : one < Fp.signBit .fp32 := by decide
  have hp : pinf < Fp.signBit .fp32 := by decide
  split
  · decide
  · rename_i n _
    cases n <;> cases fn <;> decide
  · rename_i n _
    cases n <;> cases fn <;> decide
  · split
    · decide
    · extract_lets ref r neg
      have hr : ¬ r.ovf = true → r.code < Fp.signBit .fp32 := by
        intro h
        have : ¬ Fp.maxFin .fp32 < r.code := by
          intro g; apply h
          revert g
          simp only [r]
          unfold roundFp
          simp only
          split
          · intro g; simp at g
          · intro g; simpa using g
        omega
      split
      · exact withSign_lt _ _ hp
      · rename_i ho
        split
        · exact withSign_lt _ _ (hr ho)
        · refine withSign_lt _ _ ?_
          unfold fnMove
          extract_lets cand
          split
          · exact hr ho
          · rename_i hc
            split
            · omega
            · exact hr ho

theorem fnElem_lt (fn : Fn) (f : Fp) (a : Nat) : (fnElem fn f a).code < 256 ^ f.bytes := by
  unfold fnElem
  simp only
  split
  · rename_i h; subst h; exact fnApply_lt _ _
  · exact encodeNear_lt _ _

theorem fnBeat_lt (s : State) (c : CoreId) (fn : Fn) (f : Fp) (srca e0 m : Nat) :
    ∀ e ∈ fnBeat s c fn f srca e0 m, e.code < 256 ^ f.bytes := by
  intro e hm
  unfold fnBeat at hm
  obtain ⟨x, hx, rfl⟩ := List.mem_map.1 hm
  split
  · exact (by cases f <;> decide : f.nan < 256 ^ f.bytes)
  · exact fnElem_lt _ _ _

theorem fnBeats_eq (s : State) (c : CoreId) (fn : Fn) (f : Fp) (cnt dst srca : Nat) (h : Memory.wf s.mem = true)
    (ha : clearOf f.bytes cnt dst srca) :
    beats (cdiv cnt 64) 15 (fun s k => fnBeat s c fn f srca (64 * k) (beatLen 64 cnt k))
      (fun s k es => vfPutRun s c f.bytes (vfOff dst + f.bytes * (64 * k)) es) s =
    upTo (cdiv cnt 64) (fun t k => vfPutRun t c f.bytes (vfOff dst + f.bytes * (64 * k)) (fnBeat s c fn f srca (64 * k) (beatLen 64 cnt k))) s := by
  refine beats_eq _ _ _ _ _ (by decide) (fun k hk => ?_)
  have := puts_source c f.bytes 64 cnt dst srca (fun k => fnBeat s c fn f srca (64 * k) (beatLen 64 cnt k))
      (fun k => fnBeat_length ..) s h (by cases f <;> decide) (by cases f <;> rfl) ha (k + 1 - 15) k (by omega)
  simp only [fnBeat]
  unfold beatsDone
  rw [show (fun t k => vfPutRun t c f.bytes (vfOff dst + f.bytes * (64 * k)) (List.map (fun e =>
    if e.poison then ({ code := f.nan, poison := true } : OutElem) else fnElem fn f e.code) (vfRun s c f.bytes (vfOff srca + f.bytes * (64 * k)) (beatLen 64 cnt k)))) =
    (fun t k => vfPutRun t c f.bytes (vfOff dst + f.bytes * (64 * k)) (fnBeat s c fn f srca (64 * k) (beatLen 64 cnt k))) from rfl, this]

/-- R88: a function writes each element's result. -/
theorem vxFn_code (s : State) (c : CoreId) (fn : Fn) (ty cnt dst srca : Nat) (h : Memory.wf s.mem = true)
    (ha : clearOf (vxType ty).bytes cnt dst srca) (k : Nat) (hk : k < cnt) :
    (vfElem (vxFn s c fn ty cnt dst srca) c (vxType ty).bytes dst k).code =
      (let x := vfElem s c (vxType ty).bytes srca k
       if x.poison then (vxType ty).nan else (fnElem fn (vxType ty) x.code).code) := by
  unfold vxFn
  extract_lets f s1
  have w1 : Memory.wf s1.mem = true := noteVf_wf h _ _ _
  have e1 : ∀ a k, vfElem s1 c f.bytes a k = vfElem s c f.bytes a k := fun a k => noteVf_elem s c _ _ _ _ _ h
  clear_value s1
  have he : ∀ j, f.bytes * (64 * j) % 8 = 0 := fun j => by cases f <;> simp only [Fp.bytes] <;> omega
  rw [fnBeats_eq s1 c fn f cnt dst srca w1 ha]
  have := puts_elem c f.bytes 64 cnt dst (fun k => fnBeat s1 c fn f srca (64 * k) (beatLen 64 cnt k))
    (fun k => if (vfElem s1 c f.bytes srca k).poison then { code := f.nan, poison := true } else fnElem fn f (vfElem s1 c f.bytes srca k).code)
    (fun _ => fnBeat_length ..) s1 w1 (fun j => fnBeat_lt _ _ _ _ _ _ _) (by decide)
    (fun j i hi => fnBeat_code _ _ _ _ _ _ _ _ w1 (he j) hi) k hk
  simp only [e1] at this
  rw [this, apply_ite OutElem.code]

theorem vxFn_beside (s : State) (c : CoreId) (fn : Fn) (ty cnt dst srca : Nat) (x : Nat) (h : Memory.wf s.mem = true)
    (ha : clearOf (vxType ty).bytes cnt dst srca)
    (hx : x < vfBase c.site c.n + vfOff dst ∨ vfBase c.site c.n + vfOff dst + (vxType ty).bytes * cnt ≤ x) :
    memByte (vxFn s c fn ty cnt dst srca).mem x = memByte s.mem x := by
  unfold vxFn
  extract_lets f s1
  have w1 : Memory.wf s1.mem = true := noteVf_wf h _ _ _
  have e1 : memByte s1.mem x = memByte s.mem x := noteVf_byte ..
  clear_value s1
  rw [fnBeats_eq s1 c fn f cnt dst srca w1 ha, puts_beside c f.bytes 64 cnt (vfOff dst) _ (fun _ => fnBeat_length ..), e1]
  have : f.bytes * min (64 * cdiv cnt 64) cnt ≤ f.bytes * cnt := Nat.mul_le_mul_left _ (Nat.min_le_right _ _)
  exact hx.imp id (fun h => le_trans (Nat.add_le_add_left this _) h)

/-! ### Reductions -/

/-- The number of equal 32-bit codes packed together. -/
theorem copies_slice (code n k : Nat) (hc : code < 2 ^ 32) (hk : k < n) :
    upTo n (fun acc e => acc + code * 2 ^ (32 * e)) 0 / 256 ^ (4 * k) % 256 ^ 4 = code := by
  have e : ∀ j, (256 : Nat) ^ (4 * j) = 2 ^ (32 * j) := fun j => by rw [show (256 : Nat) = 2 ^ 8 by norm_num, ← pow_mul]; congr 1; ring
  have e4 : (256 : Nat) ^ 4 = 2 ^ 32 := by norm_num
  rw [e, e4]
  have lt : ∀ n, upTo n (fun acc e => acc + code * 2 ^ (32 * e)) 0 < 2 ^ (32 * n) := by
    intro n
    induction n with
    | zero => simp [upTo]
    | succ n ih =>
      unfold upTo at *
      rw [List.range_succ, List.foldl_append, List.foldl_cons, List.foldl_nil, Nat.mul_succ, pow_add]
      have := Nat.mul_le_mul_right (2 ^ (32 * n)) (Nat.le_sub_one_of_lt hc)
      have hp : 0 < 2 ^ (32 * n) := by positivity
      have : (2 ^ 32 - 1) * 2 ^ (32 * n) + 2 ^ (32 * n) = 2 ^ (32 * n) * 2 ^ 32 := by
        rw [← Nat.succ_mul, Nat.mul_comm]; norm_num
      omega
  induction n with
  | zero => omega
  | succ n ih =>
    have hl := lt n
    unfold upTo at *
    rw [List.range_succ, List.foldl_append, List.foldl_cons, List.foldl_nil]
    generalize List.foldl (fun acc e => acc + code * 2 ^ (32 * e)) 0 (List.range n) = v at *
    by_cases g : k < n
    · obtain ⟨d, rfl⟩ : ∃ d, n = k + (1 + d) := ⟨n - k - 1, by omega⟩
      have : code * 2 ^ (32 * (k + (1 + d))) = code * 2 ^ (32 * d) * 2 ^ 32 * 2 ^ (32 * k) := by
        rw [show 32 * (k + (1 + d)) = 32 * d + 32 + 32 * k by ring, pow_add, pow_add]; ring
      rw [this, Nat.add_mul_div_right _ _ (by positivity), Nat.add_mul_mod_self_right]
      exact ih g
    · have : k = n := by omega
      subst this
      rw [Nat.add_mul_div_right _ _ (by positivity), Nat.div_eq_of_lt hl, Nat.zero_add, Nat.mod_eq_of_lt hc]

/-- The elements of a run, one by one. -/
theorem vfRun_map (s : State) (c : CoreId) (sz a n : Nat) (h : Memory.wf s.mem = true) (hsz : 0 < sz) :
    vfRun s c sz (vfOff a) n = (List.range n).map (vfElem s c sz a) := by
  apply List.ext_getElem?
  intro k
  by_cases hk : k < n
  · rw [vfRun_elem _ _ _ _ _ _ h hk hsz (by unfold vfOff; omega), List.getElem?_map, List.getElem?_range hk]; rfl
  · rw [List.getElem?_eq_none (by rw [vfRun_length]; omega), List.getElem?_eq_none (by simp; omega)]

/-- R87: every copy of a reduction's result. -/
theorem vxRd_code (s : State) (c : CoreId) (op : Rd) (ty cnt dst srca copies : Nat) (h : Memory.wf s.mem = true) (k : Nat)
    (hk : k < copies) : (vfElem (vxRd s c op ty cnt dst srca copies) c 4 dst k).code = rdResult s c op ty cnt srca := by
  have nan : Fp.nan .fp32 < 2 ^ 32 := by decide
  have e1 : ∀ a k, vfElem (noteVf s c (vfOff srca) ((vxType ty).bytes * cnt)) c (vxType ty).bytes a k = vfElem s c (vxType ty).bytes a k :=
    fun a k => noteVf_elem s c _ _ _ _ _ h
  have hrun : vfRun (noteVf s c (vfOff srca) ((vxType ty).bytes * cnt)) c (vxType ty).bytes (vfOff srca) cnt =
      (List.range cnt).map (vfElem s c (vxType ty).bytes srca) := by
    rw [vfRun_map _ _ _ _ _ (noteVf_wf h _ _ _) (vxType_pos ty)]
    exact List.map_congr_left (fun k _ => e1 _ _)
  have w1 := noteVf_wf h c (vfOff srca) ((vxType ty).bytes * cnt)
  unfold vxRd
  extract_lets f s1 es pois r code s2 p s3
  have hes : es = (List.range cnt).map (vfElem s c (vxType ty).bytes srca) := hrun
  have hcode : code = rdResult s c op ty cnt srca := by
    have hp : (pois = 0) ↔ ¬ (es.any (fun e => e.poison) = true) := by
      simp only [pois]
      rw [List.length_eq_zero_iff, List.filter_eq_nil_iff, List.any_eq_true]
      constructor
      · rintro g ⟨x, hx, hx'⟩; exact g x hx hx'
      · intro g x hx hx'; exact g ⟨x, hx, hx'⟩
    unfold rdResult
    simp only
    rw [← hes]
    by_cases g : es.any (fun e => e.poison) = true
    · rw [if_pos g]; simp only [code]; rw [if_neg (by rw [hp]; simpa using g)]
    · rw [if_neg g]; simp only [code]; rw [if_pos (hp.2 g)]
  have hlt : code < 2 ^ 32 := by
    simp only [code]; split
    · exact encodeNear_lt .fp32 _
    · exact nan
  have hmem : ∀ u : State, u.mem = s2.mem → (vfElem u c 4 dst k).code = rdResult s c op ty cnt srca := by
    intro u hu
    rw [vfElem_mem hu]
    unfold vfElem
    simp only [s2]
    rw [vfBytes_vfWrite _ _ _ _ _ _ _ _ w1 (by omega) (by omega), show vfOff dst + 4 * k - vfOff dst = 4 * k by omega,
      copies_slice _ _ _ hlt hk, hcode]
  have e3 : s3.mem = s2.mem := by
    simp only [s3]; split
    · rfl
    · rw [State.mem_bump]; rfl
  apply hmem
  split
  · split
    · rw [State.mem_bump]; exact e3
    · exact e3
  · rw [State.mem_bump]; rfl

theorem vxRd_beside (s : State) (c : CoreId) (op : Rd) (ty cnt dst srca copies : Nat) (x : Nat)
    (hx : x < vfBase c.site c.n + vfOff dst ∨ vfBase c.site c.n + vfOff dst + 4 * copies ≤ x) :
    memByte (vxRd s c op ty cnt dst srca copies).mem x = memByte s.mem x := by
  unfold vxRd
  extract_lets f s1 es pois r code s2 p s3
  have e2 : memByte s2.mem x = memByte s.mem x := by
    simp only [s2]; rw [memByte_vfWrite, if_neg (by omega)]; exact noteVf_byte ..
  have e3 : s3.mem = s2.mem := by
    simp only [s3]; split
    · rfl
    · rw [State.mem_bump]; rfl
  rw [← e2]
  congr 1
  split
  · split
    · rw [State.mem_bump]; exact e3
    · exact e3
  · rw [State.mem_bump]; rfl

end Sys2Proof.Machine
end

