-- ==== Sys2Proof/Laws/CoreFrame.lean ====
section
/-! SUPPORT. What an operation of one core leaves alone: other cores, other sites, and every field it does not write. -/

namespace Sys2Proof.Machine

variable {c : CoreId} {ks : List Nat} {q s : State}

theorem CoreFrame.refl (c : CoreId) (ks : List Nat) (q : State) : CoreFrame c ks q q := ⟨rfl, Off.refl _ _, fun _ _ => rfl, fun _ _ => rfl⟩

theorem CoreFrame.mono {ls : List Nat} (h : CoreFrame c ks q s) (hk : ks ⊆ ls) : CoreFrame c ls q s :=
  ⟨h.rest, h.regs.mono hk, h.cores, h.sites⟩

theorem CoreFrame.trans {u : State} (h : CoreFrame c ks q s) (g : CoreFrame c ks s u) : CoreFrame c ks q u := by
  refine ⟨?_, h.regs.trans g.regs, fun x hx => (g.cores x hx).trans (h.cores x hx), fun i hi => (g.sites i hi).trans (h.sites i hi)⟩
  have e := congrArg (fun v : State => { v with regs := q.regs, mem := q.mem, cores := q.cores, sites := q.sites }) g.rest
  exact Eq.trans e h.rest

theorem CoreFrame.ite {a b : State} {p : Prop} [Decidable p] (ha : CoreFrame c ks q a) (hb : CoreFrame c ks q b) :
    CoreFrame c ks q (if p then a else b) := by split <;> assumption

theorem CoreFrame.wr (h : CoreFrame c ks q s) {p : Nat} {f : Fld} {v : Nat} (hk : fldKey p f ∈ ks) : CoreFrame c ks q (s.wr p f v) :=
  ⟨h.rest, h.regs.wr hk, h.cores, h.sites⟩

theorem CoreFrame.setBit (h : CoreFrame c ks q s) {p : Nat} {f : Fld} (hk : fldKey p f ∈ ks) : CoreFrame c ks q (s.setBit p f) := h.wr hk

theorem CoreFrame.bump (h : CoreFrame c ks q s) {p : Nat} {f : Fld} {k : Nat} (hk : fldKey p f ∈ ks) : CoreFrame c ks q (s.bump p f k) :=
  CoreFrame.ite h (h.wr hk)

theorem CoreFrame.withMem (h : CoreFrame c ks q s) (m : Mem) : CoreFrame c ks q { s with mem := m } :=
  ⟨h.rest, ⟨h.regs.find⟩, h.cores, h.sites⟩

theorem CoreFrame.put (h : CoreFrame c ks q s) (a n : Nat) (l : Line) : CoreFrame c ks q (s.put a n l) := h.withMem _

theorem CoreFrame.setCore (h : CoreFrame c ks q s) (v : Core) : CoreFrame c ks q (s.setCore c v) :=
  ⟨h.rest, ⟨h.regs.find⟩, fun x hx => (State.core_setCore_ne s _ _ _ (Ne.symm hx)).trans (h.cores x hx), h.sites⟩

theorem CoreFrame.setSite (h : CoreFrame c ks q s) (v : Site) : CoreFrame c ks q (s.setSite c.site v) :=
  ⟨h.rest, ⟨h.regs.find⟩, h.cores, fun i hi => (State.site_setSite_ne s _ _ _ (Ne.symm hi)).trans (h.sites i hi)⟩

theorem CoreFrame.foldl {α : Type} {g : State → α → State} {l : List α}
    (hg : ∀ s a, CoreFrame c ks q s → CoreFrame c ks q (g s a)) (h : CoreFrame c ks q s) : CoreFrame c ks q (l.foldl g s) := by
  induction l generalizing s with
  | nil => exact h
  | cons a l ih => exact ih (hg _ _ h)

theorem CoreFrame.foldlFst {α β : Type} {p : State × β} {g : State × β → α → State × β} {l : List α}
    (hg : ∀ p a, CoreFrame c ks q p.1 → CoreFrame c ks q (g p a).1) (h : CoreFrame c ks q p.1) : CoreFrame c ks q (l.foldl g p).1 := by
  induction l generalizing p with
  | nil => exact h
  | cons a l ih => exact ih (hg _ _ h)

theorem CoreFrame.upTo {g : State → Nat → State} {n : Nat} (hg : ∀ s a, CoreFrame c ks q s → CoreFrame c ks q (g s a))
    (h : CoreFrame c ks q s) : CoreFrame c ks q (Sys2Proof.upTo n g s) := CoreFrame.foldl hg h

/-! ### Keys -/

theorem keysOf_mem {page : Nat} {fs : List Fld} {f : Fld} (h : f ∈ fs) : fldKey page f ∈ keysOf page fs := List.mem_map_of_mem h

theorem keysOf_append (page : Nat) (a b : List Fld) : keysOf page (a ++ b) = keysOf page a ++ keysOf page b := List.map_append

/-! ### The vector engine -/

theorem noteVf_frame (h : CoreFrame c ks q s) (hk : keysOf (coreP c) vfFields ⊆ ks) (o n : Nat) : CoreFrame c ks q (noteVf s c o n) := by
  have k1 : fldKey (coreP c) Reg.Co.VF_CE ∈ ks := hk (keysOf_mem (by decide))
  have k2 : fldKey (coreP c) Reg.Co.VF_CE_CNT ∈ ks := hk (keysOf_mem (by decide))
  have k3 : fldKey (coreP c) Reg.Co.VF_UE ∈ ks := hk (keysOf_mem (by decide))
  unfold noteVf
  extract_lets a words ce ue p s1 s2 m
  have h1 : CoreFrame c ks q s1 := CoreFrame.ite h ((h.setBit k1).bump k2)
  exact CoreFrame.ite h1 ((h1.setBit k3).withMem _)

theorem vfWrite_frame (h : CoreFrame c ks q s) (o n v pm : Nat) : CoreFrame c ks q (vfWrite s c o n v pm) := h.withMem _

theorem vfPutRun_frame (h : CoreFrame c ks q s) (hk : keysOf (coreP c) vxFields ⊆ ks) (sz o : Nat) (es : List OutElem) :
    CoreFrame c ks q (vfPutRun s c sz o es) := by
  have k1 : fldKey (coreP c) Reg.Co.INF_OUT ∈ ks := hk (keysOf_mem (by decide))
  have k2 : fldKey (coreP c) Reg.Co.VX_INF_CNT ∈ ks := hk (keysOf_mem (by decide))
  have k3 : fldKey (coreP c) Reg.Co.NAN_OUT ∈ ks := hk (keysOf_mem (by decide))
  have k4 : fldKey (coreP c) Reg.Co.VX_NAN_CNT ∈ ks := hk (keysOf_mem (by decide))
  have k5 : fldKey (coreP c) Reg.Co.POISON_PROP ∈ ks := hk (keysOf_mem (by decide))
  have k6 : fldKey (coreP c) Reg.Co.VX_POISON_CNT ∈ ks := hk (keysOf_mem (by decide))
  unfold vfPutRun
  extract_lets v pm s1 p infs nans pois s2 s3
  have h1 : CoreFrame c ks q s1 := vfWrite_frame h _ _ _ _
  have h2 : CoreFrame c ks q s2 := CoreFrame.ite h1 ((h1.setBit k1).bump k2)
  have h3 : CoreFrame c ks q s3 := CoreFrame.ite h2 ((h2.setBit k3).bump k4)
  exact CoreFrame.ite h3 ((h3.setBit k5).bump k6)

theorem vxEw_frame (h : CoreFrame c ks q s) (hk : keysOf (coreP c) (vfFields ++ vxFields) ⊆ ks) (op : Ew)
    (ty cnt dst srca srcb imm : Nat) (sb : Bool) : CoreFrame c ks q (vxEw s c op ty cnt dst srca srcb imm sb) := by
  rw [keysOf_append] at hk
  have hv := fun {s} (h : CoreFrame c ks q s) => noteVf_frame h (fun _ g => hk (List.mem_append_left _ g))
  unfold vxEw
  extract_lets f sz n s1 s2 s3
  have h1 : CoreFrame c ks q s1 := hv h _ _
  have h2 : CoreFrame c ks q s2 := CoreFrame.ite (hv h1 _ _) h1
  have h3 : CoreFrame c ks q s3 := CoreFrame.ite (hv h2 _ _) h2
  exact beats_ind (P := CoreFrame c ks q) (fun _ _ _ h => vfPutRun_frame h (fun _ g => hk (List.mem_append_right _ g)) _ _ _) h3

theorem vxFn_frame (h : CoreFrame c ks q s) (hk : keysOf (coreP c) (vfFields ++ vxFields) ⊆ ks) (fn : Fn)
    (ty cnt dst srca : Nat) : CoreFrame c ks q (vxFn s c fn ty cnt dst srca) := by
  rw [keysOf_append] at hk
  unfold vxFn
  extract_lets f s1
  have h1 : CoreFrame c ks q s1 := noteVf_frame h (fun _ g => hk (List.mem_append_left _ g)) _ _
  exact beats_ind (P := CoreFrame c ks q) (fun _ _ _ h => vfPutRun_frame h (fun _ g => hk (List.mem_append_right _ g)) _ _ _) h1

theorem vxRd_frame (h : CoreFrame c ks q s) (hk : keysOf (coreP c) (vfFields ++ vxFields) ⊆ ks) (op : Rd)
    (ty cnt dst srca copies : Nat) : CoreFrame c ks q (vxRd s c op ty cnt dst srca copies) := by
  rw [keysOf_append] at hk
  have hx : keysOf (coreP c) vxFields ⊆ ks := fun _ g => hk (List.mem_append_right _ g)
  have k1 : fldKey (coreP c) Reg.Co.INF_OUT ∈ ks := hx (keysOf_mem (by decide))
  have k2 : fldKey (coreP c) Reg.Co.VX_INF_CNT ∈ ks := hx (keysOf_mem (by decide))
  have k3 : fldKey (coreP c) Reg.Co.NAN_OUT ∈ ks := hx (keysOf_mem (by decide))
  have k4 : fldKey (coreP c) Reg.Co.VX_NAN_CNT ∈ ks := hx (keysOf_mem (by decide))
  have k5 : fldKey (coreP c) Reg.Co.POISON_PROP ∈ ks := hx (keysOf_mem (by decide))
  have k6 : fldKey (coreP c) Reg.Co.VX_POISON_CNT ∈ ks := hx (keysOf_mem (by decide))
  unfold vxRd
  extract_lets f s1 es pois r code s2 p s3
  have h1 : CoreFrame c ks q s1 := noteVf_frame h (fun _ g => hk (List.mem_append_left _ g)) _ _
  have h2 : CoreFrame c ks q s2 := vfWrite_frame h1 _ _ _ _
  have h3 : CoreFrame c ks q s3 := CoreFrame.ite h2 ((h2.setBit k1).bump k2)
  exact CoreFrame.ite (CoreFrame.ite ((h3.setBit k3).bump k4) h3) ((h2.setBit k5).bump k6)

/-! ### Issue -/

theorem showBusy_frame (h : CoreFrame c ks q s) (hk : keysOf (coreP c) seqFields ⊆ ks) (t : Nat) : CoreFrame c ks q (showBusy s c t) := by
  have k1 : fldKey (coreP c) Reg.Co.LOAD_BUSY ∈ ks := hk (keysOf_mem (by decide))
  have k2 : fldKey (coreP c) Reg.Co.STREAM_BUSY ∈ ks := hk (keysOf_mem (by decide))
  have k3 : fldKey (coreP c) Reg.Co.DRAIN_BUSY ∈ ks := hk (keysOf_mem (by decide))
  have k4 : fldKey (coreP c) Reg.Co.COMPUTE_BUSY ∈ ks := hk (keysOf_mem (by decide))
  have k5 : fldKey (coreP c) Reg.Co.CH0_BUSY ∈ ks := hk (keysOf_mem (by decide))
  have k6 : fldKey (coreP c) Reg.Co.CH1_BUSY ∈ ks := hk (keysOf_mem (by decide))
  unfold showBusy
  exact (((((h.wr k1).wr k2).wr k3).wr k4).wr k5).wr k6

theorem vxOccupy_frame (h : CoreFrame c ks q s) (vx t : Nat) : CoreFrame c ks q (vxOccupy s c vx t) := by
  unfold vxOccupy
  exact CoreFrame.ite h (CoreFrame.ite (h.setCore _) (h.setCore _))

theorem digAdd_frame (h : CoreFrame c ks q s) (xs : List (Nat × DigItem)) : CoreFrame c ks q (digAdd s c.site xs) := by
  unfold digAdd
  exact CoreFrame.ite (h.setSite _) h

theorem atCycle_frame (c : CoreId) (ks : List Nat) (s : State) (t : Nat) : CoreFrame c ks s (atCycle s c.site t) :=
  (CoreFrame.refl c ks s).setSite _

/-- The end of every issued bundle. -/
theorem issued_frame (h : CoreFrame c ks q s) (hk : keysOf (coreP c) seqFields ⊆ ks) (k : Core) (p n t : Nat) :
    CoreFrame c ks q (showBusy (((s.setCore c k).wr (coreP c) Reg.Co.PC p).wr (coreP c) Reg.Co.LOOP_DEPTH n) c t) := by
  have k1 : fldKey (coreP c) Reg.Co.PC ∈ ks := hk (keysOf_mem (by decide))
  have k2 : fldKey (coreP c) Reg.Co.LOOP_DEPTH ∈ ks := hk (keysOf_mem (by decide))
  exact showBusy_frame (((h.setCore k).wr k1).wr k2) hk t

/-- A bundle of one VX operation that accesses no scratchpad bank. -/
theorem bundleEffect_vx_frame {op : Nat} (ho : op < 256) (t p : Nat) (h : Hdr) (a : VxArgs) (arr : ArrayUpset)
    (hv : vxAcc c (vxOf op a) t = []) (hk : keysOf (coreP c) seqFields ⊆ ks) (hd : CoreFrame c ks q (vxData s c (vxOf op a))) :
    CoreFrame c ks q (bundleEffect s c t p (vxBundle h op a) arr) := by
  obtain ⟨e1, e2, e3, e4⟩ := vxBundle_slots ho h a
  have eh : hdrCtl (bundleHdr (vxBundle h op a)) = 0 ∧ hdrArg (bundleHdr (vxBundle h op a)) = false := by
    unfold vxBundle; rw [bundleHdr_of]; exact hdrOf_ctl h false 0 (by norm_num)
  have hu : vxUndo s c (vxOf op a) (if vxOf op a = 0 then [] else vxAcc c (vxOf op a) t) = [] := by
    rw [hv]; simp [vxUndo]
  unfold bundleEffect
  rw [e1, e2, e3, e4]
  extract_lets hd' mx vx as undo s1 s2 s3 s4 s5 s6 k s7 s8
  have qu : as ++ undo = [] := by
    have e : undo = [] := hu
    rw [e, List.append_nil]; exact mxAcc_zero ..
  have h2 : CoreFrame c ks q s2 := by
    have q1 : s1 = s := mxEffect_zero ..
    have e : s2 = vxOccupy (vxData s1 c (vxOf op a)) c (vxOf op a) t := rfl
    rw [e, q1]; exact vxOccupy_frame hd _ _
  have h3 : CoreFrame c ks q s3 := by
    have e : s3 = (placeAll s2 c.site t (as ++ undo)).st := rfl
    rw [e, qu]; exact h2.setSite _
  have h5 : CoreFrame c ks q s5 := by
    have e4 : s4 = s3 := if_pos rfl
    have e5 : s5 = s4 := if_pos (by simp)
    rw [e5, e4]; exact h3
  have h6 : CoreFrame c ks q s6 := CoreFrame.ite (digAdd_frame h5 _) h5
  rw [ctlEffect_none _ _ _ _ _ _ eh.1]
  exact issued_frame h6 hk _ _ _ _

end Sys2Proof.Machine
end

