-- ==== Sys2Proof/Laws/Access.lean ====
section
/-! SUPPORT. Accesses that meet no other, and lines of memory that are written and read again. -/

namespace Sys2Proof.Machine

/-! ### Accesses -/

/-- `r` is `s` with nothing discarded and other accesses listed at one site. -/
structure Granted (s : State) (site : Nat) (as : List Access) (r : Placed) : Prop where
  lost : r.lost = []
  same : { r.st with sites := s.sites } = s
  here : r.st.site site = { s.site site with acc := as }
  there : ∀ i, i ≠ site → r.st.site i = s.site i

theorem placeAcc_quiet {s : State} {site u n t : Nat} {r : Placed} {a : Access} {as : List Access} (h : Granted s site as r)
    (hr : ∀ o ∈ as, o.cyc ≤ t ∨ (o.own = n ∧ o.unit = u)) (ha : t < a.cyc ∧ a.own = n ∧ a.unit = u) :
    Granted s site (as ++ [a]) (placeAcc site r a) := by
  have hacc : (r.st.site site).acc = as := by rw [h.here]
  have ho : (r.st.site site).acc.filter (fun o => decide (o.port < 512) && decide (a.port < 512) && meet a o &&
      !(decide (o.own = a.own) && decide (o.unit = a.unit))) = [] := by
    rw [List.filter_eq_nil_iff, hacc]
    intro o hm
    rcases hr o hm with g | g
    · have : meet a o = false := by
        unfold meet
        have : decide (a.cyc = o.cyc) = false := by rw [decide_eq_false_iff_not]; omega
        rw [this]; simp
      rw [this]; simp
    · rw [g.1, g.2, ha.2.1, ha.2.2]; simp
  have hf : ∀ l : List Access, List.filter (fun o => !(([] : List Access).contains o)) l = l := by
    intro l; rw [List.filter_eq_self]; intro o _; rfl
  unfold placeAcc
  simp only [ho, List.find?_nil, List.foldl_nil, hf]
  refine ⟨h.lost, h.same, ?_, fun i hi => (State.site_setSite_ne _ _ _ _ (Ne.symm hi)).trans (h.there i hi)⟩
  rw [State.site_setSite_same, h.here]

/-- R105: where no accepted access falls after `t`, those of one unit are all granted. -/
theorem placeAll_quiet {s : State} {site u n t : Nat} {as : List Access} (hq : ∀ o ∈ (s.site site).acc, o.cyc ≤ t)
    (ha : ∀ a ∈ as, t < a.cyc ∧ a.own = n ∧ a.unit = u) :
    Granted s site ((s.site site).acc.filter (fun o => decide (t < o.cyc + 4096)) ++ as) (placeAll s site t as) := by
  have gen : ∀ (as pre : List Access) (r : Placed), Granted s site pre r → (∀ a ∈ as, t < a.cyc ∧ a.own = n ∧ a.unit = u) →
      (∀ a ∈ pre, a.cyc ≤ t ∨ (a.own = n ∧ a.unit = u)) → Granted s site (pre ++ as) (as.foldl (placeAcc site) r) := by
    intro as
    induction as with
    | nil => intro pre r h _ _; rw [List.append_nil]; exact h
    | cons a as ih =>
      intro pre r h h1 h2
      have := ih (pre ++ [a]) _ (placeAcc_quiet h h2 (h1 a List.mem_cons_self)) (fun b hb => h1 b (List.mem_cons_of_mem _ hb)) (by
        intro b hb
        rcases List.mem_append.1 hb with g | g
        · exact h2 b g
        · rw [List.mem_singleton.1 g]; exact Or.inr (h1 a List.mem_cons_self).2)
      rw [List.append_assoc] at this
      exact this
  unfold placeAll
  extract_lets v s1
  refine gen as _ _ ⟨rfl, rfl, ?_, ?_⟩ ha (fun o ho => Or.inl (hq o (List.mem_filter.1 ho).1))
  · exact State.site_setSite_same ..
  · intro i hi; exact State.site_setSite_ne _ _ _ _ (Ne.symm hi)

/-- Granted accesses stay within a core's frame. -/
theorem Granted.frame {c : CoreId} {ks : List Nat} {q s : State} {as : List Access} {r : Placed} (g : Granted s c.site as r)
    (h : CoreFrame c ks q s) : CoreFrame c ks q r.st := by
  have e : ∀ (f : State → State), f { r.st with sites := s.sites } = f s := fun f => by rw [g.same]
  refine ⟨?_, ⟨fun k hk => ?_⟩, fun x hx => ?_, fun i hi => (g.there i hi).trans (h.sites i hi)⟩
  · have := e (fun v => { v with regs := q.regs, mem := q.mem, cores := q.cores, sites := q.sites })
    exact Eq.trans this h.rest
  · have : r.st.regs = s.regs := (congrArg State.regs g.same :)
    rw [this]; exact h.regs.find k hk
  · have : r.st.cores = s.cores := (congrArg State.cores g.same :)
    unfold State.core
    rw [this]; exact h.cores x hx

theorem Granted.mem {site : Nat} {s : State} {as : List Access} {r : Placed} (g : Granted s site as r) : r.st.mem = s.mem :=
  (congrArg State.mem g.same :)

/-! ### Lines -/

theorem marksGet_lt (t : KeySet) (w n : Nat) (h : keyWf t = true) : marksGet t w n < 2 ^ n := by
  rw [marksGet_sum t w n h]
  induction n with
  | zero => simp
  | succ n ih =>
    rw [Finset.sum_range_succ, pow_succ]
    split <;> omega

theorem marksGet_congr {t u : KeySet} {w n : Nat} (ht : keyWf t = true) (hu : keyWf u = true)
    (h : ∀ i < n, keyHas t (w + i) = keyHas u (w + i)) : marksGet t w n = marksGet u w n := by
  rw [marksGet_sum t w n ht, marksGet_sum u w n hu]
  exact Finset.sum_congr rfl (fun i hi => by rw [h i (Finset.mem_range.1 hi)])

/-- The marks that have just been put. -/
theorem marksGet_put_same (t : KeySet) (w n mask : Nat) (h : keyWf t = true) : marksGet (marksPut t w n mask) w n = mask % 2 ^ n := by
  have hw := keyWf_marksPut h w n mask
  apply Nat.eq_of_testBit_eq
  intro i
  by_cases g : i < n
  · rw [marksGet_testBit _ _ _ _ hw g, keyHas_marksPut, if_pos (by omega), Nat.add_sub_cancel_left, Nat.testBit_mod_two_pow]
    simp [g]
  · have h1 := Nat.testBit_lt_two_pow (lt_of_lt_of_le (marksGet_lt _ w n hw) (Nat.pow_le_pow_right (by norm_num) (Nat.le_of_not_lt g)))
    rw [h1, Nat.testBit_mod_two_pow]; simp [g]

theorem marksGet_put_ne (t : KeySet) (w n mask v k : Nat) (h : keyWf t = true) (hd : v + k ≤ w ∨ w + n ≤ v) :
    marksGet (marksPut t w n mask) v k = marksGet t v k :=
  marksGet_congr (keyWf_marksPut h _ _ _) h (fun i hi => by rw [keyHas_marksPut, if_neg (by omega)])

theorem State.put_wf {s : State} (h : Memory.wf s.mem = true) (a n : Nat) (l : Line) : Memory.wf (s.put a n l).mem = true :=
  Memory.wf_write h _ _ _ _

/-- Words that have just been written. -/
theorem take_put_same (s : State) (a n : Nat) (l : Line) (h : Memory.wf s.mem = true) :
    (s.put a n l).take a n = ⟨l.data % 256 ^ (8 * n), l.poison % 2 ^ n⟩ := by
  have hwf := Memory.wf_iff.1 h
  unfold State.take State.put
  congr 1
  · rw [memRead_write _ _ _ _ _ _ _ h (le_refl _) (le_refl _), Nat.sub_self, pow_zero, Nat.div_one]
  · unfold memPoison memWrite
    simp only
    rw [marksGet_put_same _ _ _ _ hwf.2.1, marksGet_put_same _ _ _ _ hwf.2.2.2]
    simp

/-- Words apart from those that have been written. -/
theorem take_put_ne (s : State) (a n b k : Nat) (l : Line) (h : Memory.wf s.mem = true) (ha : a % 8 = 0) (hb : b % 8 = 0)
    (hd : b + 8 * k ≤ a ∨ a + 8 * n ≤ b) : (s.put a n l).take b k = s.take b k := by
  have hwf := Memory.wf_iff.1 h
  unfold State.take State.put
  congr 1
  · exact memRead_write_beside _ _ _ _ _ _ _ h hd
  · unfold memPoison memWrite
    simp only
    rw [marksGet_put_ne _ _ _ _ _ _ hwf.2.1 (by omega), marksGet_put_ne _ _ _ _ _ _ hwf.2.2.2 (by omega)]

theorem take_lt (s : State) (a n : Nat) (h : Memory.wf s.mem = true) :
    (s.take a n).data < 256 ^ (8 * n) ∧ (s.take a n).poison < 2 ^ n := by
  have hwf := Memory.wf_iff.1 h
  refine ⟨?_, ?_⟩
  · show memRead _ _ _ < _
    rw [memRead_bytes _ _ _ h]; exact numOf_lt _ _
  · exact Nat.or_lt_two_pow (marksGet_lt _ _ _ hwf.2.1) (marksGet_lt _ _ _ hwf.2.2.2)

theorem spLine_take (s : State) (c : CoreId) (b l : Nat) : s.spLine c b l = s.take (spAddr c.site c.n b l) 16 := rfl

theorem take_mem {s t : State} (h : s.mem = t.mem) (a n : Nat) : s.take a n = t.take a n := by unfold State.take; rw [h]

theorem memByte_put (s : State) (a n x : Nat) (l : Line) (hx : besideMem a (8 * n) x) : memByte (s.put a n l).mem x = memByte s.mem x := by
  unfold State.put
  simp only
  rw [memByte_write, if_neg (by rcases hx with g | g <;> omega)]

theorem noteSp_mem (s : State) (c : CoreId) (b l w n : Nat) : (s.noteSp c b l w n).mem = s.mem := by
  unfold State.noteSp
  extract_lets a ce ue p s1
  have e : s1.mem = s.mem := by
    simp only [s1]; split
    · rfl
    · rw [State.mem_bump]; rfl
  split
  · exact e
  · simp only [State.mem_wr, State.mem_bump]; exact e

theorem noteSp_frame {c : CoreId} {ks : List Nat} {q s : State} (h : CoreFrame c ks q s) (hk : keysOf (coreP c) spFields ⊆ ks)
    (b l w n : Nat) : CoreFrame c ks q (s.noteSp c b l w n) := by
  have k1 : fldKey (coreP c) Reg.Co.CE ∈ ks := hk (keysOf_mem (by decide))
  have k2 : fldKey (coreP c) Reg.Co.SP_CE_CNT ∈ ks := hk (keysOf_mem (by decide))
  have k3 : fldKey (coreP c) Reg.Co.UE ∈ ks := hk (keysOf_mem (by decide))
  have k4 : fldKey (coreP c) Reg.Co.SP_UE_CNT ∈ ks := hk (keysOf_mem (by decide))
  have k5 : fldKey (coreP c) Reg.Co.UE_BANK ∈ ks := hk (keysOf_mem (by decide))
  have k6 : fldKey (coreP c) Reg.Co.UE_LINE ∈ ks := hk (keysOf_mem (by decide))
  have k7 : fldKey (coreP c) Reg.Co.UE_WORD ∈ ks := hk (keysOf_mem (by decide))
  unfold State.noteSp
  extract_lets a ce ue p s1
  have h1 : CoreFrame c ks q s1 := CoreFrame.ite h ((h.setBit k1).bump k2)
  exact CoreFrame.ite h1 (((((h1.setBit k3).bump k4).wr k5).wr k6).wr k7)

theorem memPoison_congr {m k : Mem} (hm : Memory.wf m = true) (hk : Memory.wf k = true) (a n : Nat)
    (h : ∀ i < n, wordBad m (a / 8 + i) = wordBad k (a / 8 + i)) : memPoison m a n = memPoison k a n := by
  have wm := Memory.wf_iff.1 hm
  have wk := Memory.wf_iff.1 hk
  apply Nat.eq_of_testBit_eq
  intro i
  unfold memPoison
  rw [Nat.testBit_or, Nat.testBit_or]
  by_cases g : i < n
  · rw [marksGet_testBit _ _ _ _ wm.2.1 g, marksGet_testBit _ _ _ _ wm.2.2.2 g, marksGet_testBit _ _ _ _ wk.2.1 g,
      marksGet_testBit _ _ _ _ wk.2.2.2 g]
    exact h i g
  · have z : ∀ (t : KeySet), keyWf t = true → (marksGet t (a / 8) n).testBit i = false := fun t ht =>
      Nat.testBit_lt_two_pow (lt_of_lt_of_le (marksGet_lt _ _ n ht) (Nat.pow_le_pow_right (by norm_num) (Nat.le_of_not_lt g)))
    rw [z _ wm.2.1, z _ wm.2.2.2, z _ wk.2.1, z _ wk.2.2.2]

/-- `t` reads as `s` does, byte by byte and word by word. -/
structure ReadsAs (s t : State) : Prop where
  wf : Memory.wf t.mem = true
  take : ∀ a n, t.take a n = s.take a n
  byte : ∀ x, memByte t.mem x = memByte s.mem x

theorem ReadsAs.of_mem {s t : State} (h : Memory.wf s.mem = true) (e : t.mem = s.mem) : ReadsAs s t :=
  ⟨by rw [e]; exact h, fun a n => take_mem e a n, fun x => by rw [e]⟩

theorem noteVf_reads (s : State) (c : CoreId) (o n : Nat) (h : Memory.wf s.mem = true) : ReadsAs s (noteVf s c o n) := by
  have hw := noteVf_wf h c o n
  refine ⟨hw, fun a k => ?_, fun x => noteVf_byte ..⟩
  unfold State.take
  rw [memPoison_congr hw h a k (fun i _ => noteVf_mark s c o n h _), memRead_bytes _ _ _ hw, memRead_bytes _ _ _ h]
  congr 1
  exact numOf_congr (fun i _ => noteVf_byte ..)

/-- A sequence of lines, each copied to its own place from a place that none of them writes. -/
theorem copyLines (n : Nat) (step : State → Nat → State) (dst src : Nat → Nat) (s : State) (h : Memory.wf s.mem = true)
    (hm : ∀ t i, i < n → Memory.wf t.mem = true → ∃ v, ReadsAs t v ∧ (step t i).mem = (v.put (dst i) 16 (t.take (src i) 16)).mem)
    (hd : ∀ i < n, dst i % 8 = 0) (hs : ∀ i < n, src i % 8 = 0)
    (hdd : ∀ i < n, ∀ j < n, i ≠ j → dst i + 128 ≤ dst j ∨ dst j + 128 ≤ dst i)
    (hds : ∀ i < n, ∀ j < n, src i + 128 ≤ dst j ∨ dst j + 128 ≤ src i) :
    ∀ j ≤ n, Memory.wf (upTo j step s).mem = true ∧ (∀ i < j, (upTo j step s).take (dst i) 16 = s.take (src i) 16) ∧
      (∀ i < n, (upTo j step s).take (src i) 16 = s.take (src i) 16) ∧
      (∀ x, (∀ i < j, besideMem (dst i) 128 x) → memByte (upTo j step s).mem x = memByte s.mem x) := by
  intro j
  induction j with
  | zero => intro _; exact ⟨h, fun i hi => absurd hi (Nat.not_lt_zero i), fun _ _ => rfl, fun _ _ => rfl⟩
  | succ j ih =>
    intro hj
    obtain ⟨w, a1, a2, a3⟩ := ih (by omega)
    have e : upTo (j + 1) step s = step (upTo j step s) j := by
      unfold upTo; rw [List.range_succ, List.foldl_append]; rfl
    rw [e]
    generalize upTo j step s = t at *
    obtain ⟨v, hv, em⟩ := hm t j (by omega) w
    have ht : ∀ a, (step t j).take a 16 = (v.put (dst j) 16 (t.take (src j) 16)).take a 16 := fun a => take_mem em a 16
    refine ⟨by rw [em]; exact State.put_wf hv.wf _ _ _, ?_, ?_, ?_⟩
    · intro i hi
      rw [ht]
      by_cases g : i = j
      · subst g
        have hl := take_lt t (src i) 16 w
        rw [take_put_same _ _ _ _ hv.wf, Nat.mod_eq_of_lt hl.1, Nat.mod_eq_of_lt hl.2]
        exact a2 i (by omega)
      · rw [take_put_ne _ _ _ _ _ _ hv.wf (hd j (by omega)) (hd i (by omega)) (by have := hdd i (by omega) j (by omega) g; omega),
          hv.take]
        exact a1 i (by omega)
    · intro i hi
      rw [ht, take_put_ne _ _ _ _ _ _ hv.wf (hd j (by omega)) (hs i hi) (by have := hds i hi j (by omega); omega), hv.take]
      exact a2 i hi
    · intro x hx
      rw [em, memByte_put _ _ _ _ _ (hx j (by omega)), hv.byte]
      exact a3 x (fun i hi => hx i (by omega))

/-! ### A VX operation that moves lines -/

theorem noteSp_regs (s : State) (c : CoreId) (b l w n : Nat) : s.noteSp c b l w n = { s with regs := (s.noteSp c b l w n).regs } := by
  have bump : ∀ (t : State) (p : Nat) (f : Fld) (k : Nat), t.bump p f k = { t with regs := (t.bump p f k).regs } := by
    intro t p f k; unfold State.bump; split <;> rfl
  have h1 : ∀ t : State, (∃ r, t = { s with regs := r }) → t = { s with regs := t.regs } := by rintro t ⟨r, rfl⟩; rfl
  apply h1
  unfold State.noteSp
  extract_lets a ce ue p s1
  have e1 : ∃ r, s1 = { s with regs := r } := by
    simp only [s1]; split
    · exact ⟨s.regs, rfl⟩
    · rw [bump]; exact ⟨_, rfl⟩
  obtain ⟨r, e⟩ := e1
  rw [e]
  split
  · exact ⟨r, rfl⟩
  · rw [bump]; exact ⟨_, rfl⟩

theorem noteVf_sites (s : State) (c : CoreId) (o n : Nat) : (noteVf s c o n).sites = s.sites := by
  have bump : ∀ (t : State) (p : Nat) (f : Fld) (k : Nat), (t.bump p f k).sites = t.sites := by
    intro t p f k; unfold State.bump; split <;> rfl
  unfold noteVf
  extract_lets a words ce ue p s1 s2 m
  have e1 : s1.sites = s.sites := by
    simp only [s1]; split
    · rfl
    · rw [bump]; rfl
  split <;> exact e1

/-- What a bundle leaves: memory as in `v`, and no more than a core's frame away from `q`. -/
structure Leaves (c : CoreId) (ks : List Nat) (v q u : State) : Prop where
  mem : MemIs v u
  frame : CoreFrame c ks q u

/-- A bundle of one VX operation whose accesses meet none: its memory is that of the operation, and nothing else leaves the core. -/
theorem bundleEffect_vx_quiet {c : CoreId} {ks : List Nat} {q s : State} {b vx u : Nat} (t p : Nat) (arr : ArrayUpset)
    (e1 : bundleMx b = 0) (e2 : bundleVx b = vx) (e3 : bundleMv b = 0) (e4 : bundleLk b = 0) (e5 : hdrCtl (bundleHdr b) = 0)
    (hq : Quiet s c t) (hv : ∀ x ∈ vxAcc c vx t, t < x.cyc ∧ x.own = c.n ∧ x.unit = u)
    (hs : (vxData s c vx).sites = s.sites) (hk : keysOf (coreP c) seqFields ⊆ ks) (hd : CoreFrame c ks q (vxData s c vx)) :
    Leaves c ks (vxData s c vx) q (bundleEffect s c t p b arr) := by
  have hu : ∀ x ∈ vxUndo s c vx (if vx = 0 then [] else vxAcc c vx t), t < x.cyc ∧ x.own = c.n ∧ x.unit = u := by
    intro x hx
    unfold vxUndo at hx
    obtain ⟨y, hy, rfl⟩ := List.mem_map.1 hx
    have hy2 := List.fst_mem_of_mem_zipIdx hy
    have hin : y.1 ∈ vxAcc c vx t := by
      split at hy2
      · exact absurd hy2 (by simp)
      · exact hy2
    have := hv _ hin
    split
    · exact this
    · split <;> exact this
  unfold bundleEffect
  rw [e1, e2, e3, e4]
  extract_lets hd' mx vx' as undo s1 s2 s3 s4 s5 s6 k s7 s8
  have q1 : s1 = s := mxEffect_zero ..
  have e2' : s2 = vxOccupy (vxData s c vx) c vx t := by
    have e : s2 = vxOccupy (vxData s1 c vx) c vx t := rfl
    rw [e, q1]
  have h2 : CoreFrame c ks q s2 := by rw [e2']; exact vxOccupy_frame hd _ _
  have hsite : s2.sites = s.sites := by
    have hi : ∀ (p : Prop) [Decidable p] (a b : State), a.sites = s.sites → b.sites = s.sites → (if p then a else b).sites = s.sites := by
      intro p _ a b ha hb; split <;> assumption
    rw [e2']; unfold vxOccupy
    exact hi _ _ _ hs (hi _ _ _ hs hs)
  have qu : as ++ undo = undo := by
    have e : as = [] := mxAcc_zero ..
    rw [e]; rfl
  have hg := placeAll_quiet (s := s2) (site := c.site) (u := u) (n := c.n) (t := t) (as := undo)
    (by unfold State.site; rw [hsite]; exact hq) hu
  have e3' : s3 = (placeAll s2 c.site t undo).st := by
    have : s3 = (placeAll s2 c.site t (as ++ undo)).st := rfl
    rw [this, qu]
  have h3 : CoreFrame c ks q s3 := by rw [e3']; exact hg.frame h2
  have m3 : s3.mem = (vxData s c vx).mem := by
    rw [e3', hg.mem, e2']; exact (vxOccupy_memIs _ _ _ _ (MemIs.refl _)).mem
  have f5 : s5 = s3 := by
    have e4 : s4 = s3 := if_pos rfl
    have e5 : s5 = s4 := if_pos (by simp)
    rw [e5, e4]
  have h6 : CoreFrame c ks q s6 := CoreFrame.ite (digAdd_frame (f5 ▸ h3) _) (f5 ▸ h3)
  have m5 : MemIs (vxData s c vx) s5 := ⟨by rw [f5]; exact m3⟩
  have m6 : MemIs (vxData s c vx) s6 := MemIs.ite (digAdd_memIs _ _ _ m5) m5
  have m8 : MemIs (vxData s c vx) s8 := State.setCore_memIs _ _ _ m6
  rw [ctlEffect_none _ _ _ _ _ _ e5]
  exact ⟨showBusy_memIs _ _ _ (State.wr_memIs _ _ _ _ (State.wr_memIs _ _ _ _ m8)), issued_frame h6 hk _ _ _ _⟩

theorem vxBundle_hdr (op : Nat) (h : Hdr) (a : VxArgs) : hdrCtl (bundleHdr (vxBundle h op a)) = 0 := by
  unfold vxBundle; rw [bundleHdr_of]; exact (hdrOf_ctl h false 0 (by norm_num)).1

/-! ### Checks that an issued bundle has passed -/

theorem append_nil {α : Type} {a b : List α} (h : a ++ b = []) : a = [] ∧ b = [] := List.append_eq_nil_iff.1 h

theorem Issues.vx {s : State} {c : CoreId} {b t : Nat} (h : Issues s c b t) :
    vxBad (atCycle s c.site t) c (bundleVx b) t (mxAcc (atCycle s c.site t) c (bundleMx b) t) = [] := by
  have := h.checks
  unfold bundleBad at this
  exact (append_nil (append_nil (append_nil this).1).1).2

theorem Issues.mx {s : State} {c : CoreId} {b t : Nat} (h : Issues s c b t) : mxBad (atCycle s c.site t) c (bundleMx b) t = [] := by
  have := h.checks
  unfold bundleBad at this
  exact (append_nil (append_nil (append_nil (append_nil this).1).1).1).2

theorem Issues.mv {s : State} {c : CoreId} {b t : Nat} (h : Issues s c b t) : mvBad (atCycle s c.site t) c (bundleMv b) t = [] := by
  have := h.checks
  unfold bundleBad at this
  exact (append_nil (append_nil this).1).2

/-- R81, R84: an accepted VX operation's count and addresses are good. -/
theorem vxBad_fits {s : State} {c : CoreId} {vx t : Nat} {mx : List Access} (h : vxBad s c vx t mx = []) (ho : bits vx 0 8 ≠ 0) :
    vxCount vx = [] ∧ vxAddr vx = [] := by
  have hvx : vx ≠ 0 := by rintro rfl; exact ho (by simp [bits])
  unfold vxBad at h
  extract_lets op cb ab as old at h
  rw [if_neg hvx] at h
  by_cases hk : (!(vxKnown op)) = true
  · rw [if_pos hk] at h; exact absurd h (by simp)
  · rw [if_neg hk, if_neg ho] at h
    have h2 := append_nil (append_nil (append_nil (append_nil h).1).1).1
    have hcb : cb = [] := (append_nil h2.1).2
    have hab : ab = [] := h2.2
    simp only [ab, hcb, if_true] at hab
    exact ⟨hcb, hab⟩

theorem fieldBad_nil {b : Bool} {k sl l w : Nat} (h : fieldBad b k sl l w = []) : b = false := by
  unfold fieldBad at h
  cases b <;> simp_all

end Sys2Proof.Machine
end

