-- ==== Sys2Proof/Tests/Slice0.lean ====
section
/-! SUPPORT. Tests of the model: commands that name no unit of a panel are refused, hypotheses of the statements that concrete
states meet, and single steps whose outcome the spec's rules give. -/

namespace Sys2Proof.Tests

open Sys2Proof Sys2Proof.Machine

/-! ### Well-formed commands -/

theorem test_wf_core : (Instr.arm ⟨255, 7⟩).wf = true ∧ (Instr.arm ⟨256, 7⟩).wf = false ∧ (Instr.arm ⟨255, 8⟩).wf = false := by decide
theorem test_wf_site : (Instr.stretchEnd 255).wf = true ∧ (Instr.stretchEnd 256).wf = false := by decide
theorem test_wf_hub : (Instr.hotReset 15).wf = true ∧ (Instr.hotReset 16).wf = false := by decide
theorem test_wf_region : (Instr.drain 15).wf = true ∧ (Instr.drain 16).wf = false := by decide
theorem test_wf_port : (Instr.train 1 3).wf = true ∧ (Instr.train 1 4).wf = false ∧ (Instr.train 15 4).wf = true := by decide
theorem test_wf_end : (Instr.ctxIdle 271 511).wf = true ∧ (Instr.ctxIdle 272 511).wf = false := by decide
theorem test_wf_unit : (Instr.domainTimeout (.hub 15) 3).wf = true ∧ (Instr.domainTimeout (.hub 16) 3).wf = false ∧
    (Instr.domainTimeout (.site 0) 4).wf = false := by decide
theorem test_wf_cond : (Instr.thermalLevelChange (.flow 1)).wf = true ∧ (Instr.thermalLevelChange (.site 256 0 0 0 0)).wf = false := by decide
theorem test_wf_access : (Instr.busTimeout { fn := 16, port := none, addr := 0 } none).wf = true ∧
    (Instr.busTimeout { fn := 17, port := none, addr := 0 } none).wf = false := by decide

/-- A command that names no unit of the panel ends in the one fault. -/
theorem test_no_such_unit : exec (.stretchEnd 256) State.reset = .fault .noSuchUnit := rfl

/-! ### The queue -/

theorem test_front : step { pending := [.stretchEnd 255, .pairTimeout] } = exec (.stretchEnd 255) { pending := [.pairTimeout] } := rfl
theorem test_idle : State.reset.pending = [] := rfl
theorem test_sound : ({} : State).inv := ⟨by decide, List.Pairwise.nil, by simp⟩
theorem test_next : exec .pairTimeout ({} : State) = .next {} := rfl

/-! ### States of the tests -/

/-- Writes fields of a page. -/
def put (page : Nat) (l : List (Fld × Nat)) (s : State) : State := l.foldl (fun s x => s.wr page x.1 x.2) s

/-- A panel whose Postmaster serves, with hubs 0 and 15 and sites 0 and 17 on. -/
def lit : State :=
  put (spowP 17) [(Reg.Sp.DOM_EN, 15)] (put (spowP 0) [(Reg.Sp.DOM_EN, 15)]
    (put pmP [(Reg.Pm.ALIVE, 1)] { alwaysOn := true, hubDom := [(0, 15), (15, 15)] }))

/-- Core 0 of site 0 runs. -/
def run0 : State := put (coreP ⟨0, 0⟩) [(Reg.Co.STATE, 2)] lit

def c0 : CoreId := ⟨0, 0⟩
def h5 : Hdr := ⟨5, false⟩

/-! ### Operations that issue -/

def issuesB (s : State) (c : CoreId) (b t : Nat) : Bool :=
  coreOk c && (match dueOf s c (bundleHdr b) with | some d => decide (d.cyc = t) && decide (d.cause = 0) | none => false) &&
    mayIssue s c t && !(isShadow s c.site) && (bundleBad (atCycle s c.site t) c t (s.core c).nextPc b).isEmpty

theorem of_issuesB {s : State} {c : CoreId} {b t : Nat} (h : issuesB s c b t = true) : Issues s c b t := by
  unfold issuesB at h
  simp only [Bool.and_eq_true, Bool.not_eq_true', List.isEmpty_iff] at h
  obtain ⟨⟨⟨⟨h1, h2⟩, h3⟩, h4⟩, h5⟩ := h
  cases hd : dueOf s c (bundleHdr b) with
  | none => simp [hd] at h2
  | some d =>
    simp only [hd, Bool.and_eq_true, decide_eq_true_eq] at h2
    exact ⟨h1, ⟨d, hd, h2⟩, h3, h4, h5⟩

/-- One FP32 element, from the first element of the vector file to itself. -/
def v1 : VxArgs := { flags := 0, count := 1, dst := 0xC000, srca := 0xC000, srcb := 0xC000, ty := 0, imm := 0, rsv := 0 }
/-- One line, from the first of the scratchpad to the first of the vector file. -/
def vload1 : VxArgs := { v1 with srca := 0, srcb := 0 }
def h7 : Hdr := ⟨7, false⟩

/-- Every well slot of window 0 belongs to core 0. -/
def wst0 : State := put (wellP 0) [(Reg.We.WST_ACT0, 0x111111)] run0

/-- Two hop entries: 0 sends and 1 receives, both in window 2. -/
def hops : State := { run0.put (hopAddr 0 0 0) 4 ⟨2 * 2 ^ 37 + (2 + 2 ^ 8 + 2 * 2 ^ 20) * 2 ^ 128, 0⟩ with sites := [(0, { hopN0 := 2 })] }

theorem quiet_of {s : State} {c : CoreId} {t : Nat} (h : (s.site c.site).acc = []) : Quiet s c t := by
  intro o ho
  rw [h] at ho
  cases ho

theorem test_elementwise (op : Ew) :
    Issues run0 c0 (vxBundle h5 (ewCode op) { v1 with srcb := if 2 ≤ ewCode op ∧ ewCode op ≤ 7 then 0xC000 else 0 }) 4 ∧
      clearOf 4 1 0xC000 0xC000 ∧ Memory.wf run0.mem = true :=
  ⟨of_issuesB (by cases op <;> decide), Or.inl (by decide), by decide⟩
theorem test_functions (fn : Fn) : Issues run0 c0 (vxBundle h5 fn.code { v1 with srcb := 0 }) 4 := of_issuesB (by cases fn <;> decide)
theorem test_reductions (op : Rd) : Issues run0 c0 (vxBundle h5 (rdCode op) { v1 with srcb := 0, imm := 1 }) 4 :=
  of_issuesB (by cases op <;> decide)
theorem test_convert : Issues run0 c0 (vxBundle h5 0x30 { v1 with dst := 0xC010, srcb := 0 }) 4 ∧ vfOff 0xC000 + 4 ≤ vfOff 0xC010 :=
  ⟨of_issuesB (by decide), by decide⟩
theorem test_seed : Issues run0 c0 (vxBundle h5 0x31 { v1 with dst := 0, srca := 0, srcb := 0 }) 4 := of_issuesB (by decide)
theorem test_load_lines : Issues run0 c0 (vxBundle h5 0x40 { v1 with srca := 0, srcb := 0 }) 4 ∧ Quiet run0 c0 4 :=
  ⟨of_issuesB (by decide), quiet_of (by decide)⟩
theorem test_store_lines : Issues run0 c0 (vxBundle h5 0x41 { v1 with dst := 0, srcb := 0 }) 4 := of_issuesB (by decide)
theorem test_status : Issues run0 c0 (vxBundle h5 0x32 { v1 with srca := 0, srcb := 0 }) 4 ∧
    Issues run0 c0 (vxBundle h5 0x33 { v1 with srca := 0, srcb := 0 }) 4 ∧ Issues run0 c0 (vxBundle h5 0x34 { v1 with srca := 0, srcb := 0 }) 4 :=
  ⟨of_issuesB (by decide), of_issuesB (by decide), of_issuesB (by decide)⟩

theorem test_tile : Issues run0 c0 (mxBundle h5 (mxloadOf 0 1 0 0 4 0 0 0)) 4 := of_issuesB (by decide)
theorem test_exponents : Issues run0 c0 (mxBundle h5 (mxexpOf 1 23 127 0)) 4 := of_issuesB (by decide)
theorem test_rows : Issues run0 c0 (mxBundle h5 (mxmulOf 0 1 0 0 0 0 127 0 127 0 0)) 4 := of_issuesB (by decide)
set_option maxRecDepth 20000 in
theorem test_rows_agree : (mulRes run0 c0 0 1 0 0 0 127 0 127 0 {} 0).groups = 0 := by decide
set_option maxRecDepth 20000 in
theorem test_rows_disagree : (mulRes run0 c0 0 1 0 0 0 127 0 127 0 { lanes := [(0, 5)] } 0).groups ≠ 0 ∧
    run0.rd (coreP c0) Reg.Co.STATE = 2 ∧ run0.rd (coreP c0) Reg.Co.TRAP_TYPE = 0 ∧ 256 ≤ (run0.site 0).mirTo := by decide
theorem test_drain_slots : Issues run0 c0 (mxBundle h5 (mxdrainOf 0 0 0 0 1 0 0)) 4 := of_issuesB (by decide)

/-- An operand of every move that its checks let pass. -/
def mv1 : Mv → MvArgs
  | .cp => ⟨20, 127, 21⟩ | .cr => ⟨20, 0, 1⟩ | .cw => ⟨20, 0, 3⟩ | .xr => ⟨20, 0, 1⟩ | .xw => ⟨20, 0, 9⟩ | .wr => ⟨20, 0, 0⟩ | .ww => ⟨20, 0, 0⟩
theorem test_moves (op : Mv) : Issues wst0 c0 (mvBundle h7 (mvCode op) (mv1 op)) 6 ∧ mvPasses wst0 c0 op (mv1 op) :=
  ⟨of_issuesB (by cases op <;> decide), Or.inr (Or.inr (Or.inr (Or.inr (Or.inl (by decide)))))⟩
theorem test_kick : Issues run0 c0 (mvBundle h5 8 ⟨20, 0, 1⟩) 4 ∧ memPoison run0.mem (kickAddr c0 ⟨20, 0, 1⟩) 8 = 0 :=
  ⟨of_issuesB (by decide), by decide⟩
theorem test_links : Issues hops c0 (lkBundle h5 1 ⟨0, 20, 0, 0, 0, 0⟩) 4 ∧ Issues hops c0 (lkBundle h5 2 ⟨1, 20, 0, 0, 0, 0⟩) 4 ∧
    egressStops hops c0 = false ∧ Quiet hops c0 4 := ⟨of_issuesB (by decide), of_issuesB (by decide), by decide, quiet_of (by decide)⟩
theorem test_poison_leaves :
    let s := (put (relP 0) [(Reg.Re.POISON_EGRESS, 1)] hops).put (spAddr 0 0 20 0) 16 ⟨0, 0xFFFF⟩
    Issues s c0 (lkBundle h5 1 ⟨0, 20, 0, 0, 0, 0⟩) 4 ∧ egressStops s c0 = true ∧ memPoison s.mem (lkAddr c0 ⟨0, 20, 0, 0, 0, 0⟩ 0) 8 ≠ 0 ∧
      Issues s c0 (mvBundle h5 8 ⟨20, 0, 1⟩) 4 ∧ memPoison s.mem (kickAddr c0 ⟨20, 0, 1⟩) 8 ≠ 0 ∧
      Issues s c0 (mvBundle h5 3 ⟨20, 0, 3⟩) 4 ∧ memPoison s.mem (mvOwn c0 ⟨20, 0, 3⟩ 0) 16 ≠ 0 :=
  ⟨of_issuesB (by decide), by decide, by decide, of_issuesB (by decide), by decide, of_issuesB (by decide), by decide⟩
theorem test_control : Issues run0 c0 (ctlBundle h5 1 (loopArg 1 1 0)) 4 ∧ Issues run0 c0 (ctlBundle h5 2 (jumpArg 1 0)) 4 ∧
    Issues run0 c0 (ctlBundle h5 3 0) 4 ∧ Issues run0 c0 (ctlBundle h5 4 (noteArg 1 0)) 4 ∧ RecordsOutside run0 0 :=
  ⟨of_issuesB (by decide), of_issuesB (by decide), of_issuesB (by decide), of_issuesB (by decide), Or.inl (by decide)⟩
theorem test_timers :
    let s := put (timP 0) [(tmFld (Reg.Tm.ENABLE 0) 0 15, 1)] run0
    Issues s c0 (ctlBundle h5 0x1F 0) 4 ∧ Issues s c0 (ctlBundle h5 0x2F 0) 4 ∧ s.rd (timP 0) (tmFld (Reg.Tm.ENABLE 0) 0 15) = 1 ∧
      s.rd (timP 0) (tmFld (Reg.Tm.START_SRC 0) 0 15) = 0 ∧ s.rd (timP 0) (tmFld (Reg.Tm.STOP_SRC 0) 0 15) = 0 :=
  ⟨of_issuesB (by decide), of_issuesB (by decide), by decide, by decide, by decide⟩
theorem test_moves_on : rowOf (.stop c0 h5) = some (c0, ctlBundle h5 3 0, {}) := rfl
/-- STOP, fetched from position 0 of the program buffer. -/
def stops : State := run0.put (pbBase 0 0) 6 ⟨ctlBundle h5 3 0, 0⟩
theorem test_fetch : bundleAt stops c0 0 = ctlBundle h5 3 0 ∧ windowRow (atCycle stops 0 4) c0 0 4 = none ∧
    fetchPoison (atCycle stops 0 4) c0 0 = 0 ∧ noteFetch (atCycle stops 0 4) c0 0 = atCycle stops 0 4 := by decide
/-- A bundle with a reserved opcode fails decode. -/
theorem test_decode_traps : dueOf run0 c0 (bundleHdr (vxBundle h5 5 { v1 with rsv := 1 })) = some ⟨4, 0, 4, 0⟩ ∧
    (firstBad (bundleBad (atCycle run0 0 4) c0 4 0 (vxBundle h5 5 { v1 with rsv := 1 }))).isSome = true := by decide
theorem test_idle_core : lit.rd (coreP c0) Reg.Co.STATE = 0 ∧ coreOk c0 = true := by decide

/-! ### Premises of the statements about the panel -/

theorem hosted_of {s : State} {p off : Nat} (h : (s.alwaysOn && serves s && !(domainOff s p off)) = true) : Hosted s p off := by
  simp only [Bool.and_eq_true, Bool.not_eq_true'] at h
  exact ⟨h.1.1, h.1.2, h.2⟩

/-- Site 17, beside hub 0, and site 255 belong to regions 0 and 15, whose generators run. -/
def grid : State :=
  { put (commonP 17) [(Reg.Sc.LOG_INDEX, 16)] lit with
    sites := [(17, { region := 0, mark := some (1, 0) }), (255, { region := 15 })]
    regions := [(0, { running := true }), (15, { running := true })], rootOn := true, rcnt := 5000 }

theorem test_clock_signals : Hosted lit (sclkP 0) 0x60 ∧ Hosted lit (tniP 0) 0x54 ∧ islandOf grid 255 = 15 ∧
    (put (sclkP 255) [(Reg.Ck.FREE_RUN, 0)] grid).rd (sclkP 255) Reg.Ck.FREE_RUN = 0 := ⟨hosted_of (by decide), hosted_of (by decide), by decide, by decide⟩
theorem test_clock_faults : 0 < stretchDepth (put (spowP 0) [(Reg.Sp.V_SET, 300)] lit) 0 0 ∧
    bits ((put (sclkP 17) [(Reg.Ck.COUPLED, 8)] grid).rd (sclkP 17) Reg.Ck.COUPLED) 3 1 = 1 ∧ 40 < (-41 : Int).natAbs ∧
    grid.rd (sclkP 17) Reg.Ck.STRETCHING ≠ 1 ∧ grid.rd (sclkP 17) Reg.Ck.SETTLING ≠ 1 := by decide
theorem test_site_power : (vsetOf { lit with sites := [(0, { cal := List.replicate 4 ⟨280, 0, 0, 0, 0⟩ })] } 0 0).isSome = true ∧ Hosted lit (spowP 0) 0x64 := ⟨by decide, hosted_of (by decide)⟩
/-- Core 0 of site 17 is armed for frame 0. -/
def armed : State := put (coreP ⟨17, 0⟩) [(Reg.Co.STATE, 1)] grid
theorem test_program_start : Hosted armed (coreP ⟨17, 0⟩) 0x40 ∧ armed.rd (coreP ⟨17, 0⟩) Reg.Co.STATE = 1 ∧ armOk (put (coreP ⟨17, 0⟩) [(Reg.Co.START_FC_LO, 1)] grid) ⟨17, 0⟩ = true ∧
    armOk lit ⟨0, 0⟩ = false ∧ (armed.site 17).fc = startFc armed ⟨17, 0⟩ ∧ 256 ≤ (armed.site 17).mirTo ∧ isShadow armed 17 = false :=
  ⟨hosted_of (by decide), by decide, by decide, by decide, by decide, by decide, by decide⟩
theorem test_marks : (grid.region 15).running = true ∧ (grid.site 17).mark = some (1, 0) ∧ markDue grid 17 3 0 = true ∧
    (grid.site 255).mark = none ∧ 16 ≤ (lit.site 0).region := by decide
theorem test_late : islandOf grid 17 < 16 ∧ (grid.site 17).exec = true ∧ lateAt grid 17 0 ≤ 1008 ∧
    beforeCutoff { grid with rcnt := 0, sites := [(17, { region := 0 })] } 17 0 = true := by decide

/-- Slot 3 of region 0 holds an armed request for frame `f` with actions `a`. -/
def asks (f a : Nat) (s : State) : State :=
  put freqP [(Reg.Fr.SLOT_STATE (slotNo 0 3), 1), (Reg.Fr.SLOT_ACTIONS (slotNo 0 3), a), (Reg.Fr.SLOT_TARGET_LO (slotNo 0 3), f)] s
theorem test_frame_requests : Hosted lit (frPage 0) 0x50 ∧ Hosted lit (frPage 16) 0x58 ∧
    slotState (asks 16 1 grid) 0 3 = 1 ∧ fcAhead (slotTarget (asks 16 1 grid) 0 3) (grid.region 0).fc ≤ 16 ∧
    actDue (asks 0 1 grid) 0 3 actFreq = true ∧ actDue (asks 0 2 grid) 0 3 actCfg = true ∧ actDue (asks 0 4 grid) 0 3 actSwap = true ∧
    slotArmed (asks 48 1 grid) 0 3 actFreq = true ∧ slotFs (asks 48 1 grid) 0 3 < regionFs (put (sclkP 17) [(Reg.Ck.FSTATE, 3)] grid) 0 :=
  ⟨hosted_of (by decide), hosted_of (by decide), by decide, by decide, by decide, by decide, by decide, by decide, by decide⟩
theorem test_ramp_down : ({ grid with regions := [(0, { rampDown := some (1, 0) })] }.region 0).rampDown = some (1, 0) ∧
    (regionSites grid 0).all (fun i => (grid.site i).fc = 0) = true := by decide
theorem test_region_changes : actDue (asks 0 8 grid) 0 3 actEnter = true ∧
    regionState (put regionP [(Reg.Rg.STATE 0, 4)] grid) 0 = 4 ∧ slotArmed (asks 9 16 grid) 0 3 actExit = true ∧
    slotArmed (asks 9 16 grid) 0 3 actReassign = false ∧ waking grid 0 = false ∧
    (put (spowP 17) [(Reg.Sp.SITE_PSTATE, 3)] grid).rd (spowP 17) Reg.Sp.SITE_PSTATE = 3 ∧ grid.rd (sclkP 17) Reg.Ck.MESH_LOCKED ≠ 1 ∧
    Hosted lit regionP 0x238 ∧ ({ grid with regions := [(15, { assign := true })] }.region 15).assign = true ∧
    regionState (put regionP [(Reg.Rg.STATE 15, 1)] grid) 15 = 1 :=
  ⟨by decide, by decide, by decide, by decide, by decide, by decide, by decide, hosted_of (by decide), by decide, by decide⟩
theorem test_probes : (grid.site 17).region < 16 ∧ (grid.site 17).exec = true ∧
    tabGet (fun _ => 0) (grid.site 17).probeNow 7 < (put (relP 17) [(Reg.Re.PROBE_ITEMS, 1)] grid).rd (relP 17) Reg.Re.PROBE_ITEMS ∧
    tabGet (fun _ => 0) (grid.site 17).probeAt 7 < 511 ∧ Hosted lit (relP 17) 0x64 := ⟨by decide, by decide, by decide, by decide, hosted_of (by decide)⟩
theorem test_shadow : isShadow { lit with sites := [(0, { join := 3 })] } 0 = true ∨ isShadow (put (relP 0) [(Reg.Re.SHADOW_STATE, 2)] lit) 0 = true := by decide

/-- The same panel with its map in use; site 17 is logical site 16. -/
def mapped : State := put mapP ((Reg.Ma.W, 15) :: (List.range 16).map (fun y => (Reg.Ma.SPARE_X y, 15))) grid

/-- An envelope of kind `k` from logical site 0 to logical site 16, in region 0. -/
def env (k : Nat) (data : Nat) : Env := { kind := BitVec.ofNat 4 k, dst := 16, src := 0, stream := 511, data := BitVec.ofNat 384 data }
/-- The same, of site 17's stream 511. -/
def sends : State :=
  { put (cniP 17) [(Reg.Cn.STREAM_STATE 511, 1)] mapped with
    streams := [(512 * 17 + 511, { job := 1, ref := 7, num := 9, tx := { win := [env 1 0] } })]
    sites := [(17, { region := 0, wbs := [{ num := 7, wb := 0, pump := 3, core := 8, region := 0 }] })] }
theorem test_waybills : Hosted lit (pumpP 17) 0x90 ∧
    ({ kicks := [{ core := 7, pump := 3, wb := 0 }] } : Site).kicks.find? (fun k => k.pump = 3) = some { core := 7, pump := 3, wb := 0 } ∧
    ({ posts := [(3, 0)] } : Site).posts.find? (fun p => p.1 = 3) = some (3, 0) ∧ wbReady sends 17 { num := 7, wb := 0, pump := 3, core := 8, region := 0 } = true ∧
    streamState (put (cniP 17) [(Reg.Cn.STREAM_STATE 0, 2)] sends) 17 0 = 2 ∧ wbLands sends 17 { num := 7, wb := 0, pump := 3, core := 8, region := 0 } = none ∧
    (wbFind { sends with sites := [(17, { wbs := [{ num := 7, wb := 0, pump := 3, core := 7, region := 0, status := some 1 }] })] } 17 7).map Held.status = some (some 1) :=
  ⟨hosted_of (by decide), by decide, by decide, by decide, by decide, by decide, by decide⟩
theorem test_bad_envelope : badEnv mapped { env 1 0 with rsv := 1 } = true ∧ badEnv mapped { env 1 0 with dst := 0xEF } = false ∧
    badEnv (put mapP [(Reg.Ma.W, 14)] mapped) { env 1 0 with dst := 0xEF } = true := by decide
theorem test_heard (k : Fin 6) : Heard sends 17 (env (k + 1) 0) := by
  match k with
  | 0 | 1 | 2 | 3 | 4 | 5 => exact ⟨by decide, by decide, by decide, by decide⟩
theorem test_opens : ctxFind mapped 17 4096 0 511 = none ∧ openStatus mapped 17 (16 * 2 ^ 40 + 0x8000000000) 128 false = 0 ∧
    targetOf 0x8000000000 128 ≠ some .well ∧ ctxFree mapped 17 0 = some 0 ∧ openStatus mapped 17 0 128 false ≠ 0 :=
  ⟨by decide, by decide, by decide, by decide +kernel, by decide⟩
/-- Every context of site 17 is taken. -/
def taken : State := { mapped with ctxs := (List.range 512).map (fun k => (512 * 17 + k, { live := true })) }
theorem tabFind_row {α : Type} (b j : Nat) (v : α) (l : List Nat) (h : j ∈ l) : tabFind (l.map (fun k => (b + k, v))) (b + j) = some v := by
  induction l with
  | nil => cases h
  | cons x l ih =>
    by_cases e : x = j
    · subst e; simp [tabFind]
    · have : j ∈ l := by cases h with
        | head => exact absurd rfl e
        | tail _ h => exact h
      simp [tabFind, e, ih this]
theorem test_no_context : ctxFree taken 17 0 = none := by
  unfold ctxFree
  rw [if_neg (by omega), List.find?_eq_none]
  intro k hk
  have : taken.ctx 17 k = { live := true } := by
    simp only [State.ctx, tabGet, taken]
    rw [Nat.mul_comm 17 512, tabFind_row _ _ _ _ hk, Option.getD_some]
  simp [this]
/-- Context 0 of site 17 takes data from logical site 0. -/
def takes : State := { mapped with ctxs := [(512 * 17, { live := true, stream := 511, addr := 0x8000000000 })] }
theorem test_data : ctxFind takes 17 4096 0 511 = some 0 ∧ (takes.ctx 17 0).rx.held = [] ∧ (takes.ctx 17 0).act = 0 ∧ (takes.ctx 17 0).write = true ∧
    (targetOf (((takes.ctx 17 0).addr + 48 * (seqAfter 1 (takes.ctx 17 0).s0 - 1)) % 2 ^ 40) 48).isSome = true := by decide
theorem test_answers : streamState sends 17 511 = 1 ∧ (sends.stream 17 511).circ = false ∧ (sends.stream 17 511).job = 1 ∧ (sends.stream 17 511).busy + 1 < 1024 ∧
    bits (9 * 2 ^ 96) 96 32 = (sends.stream 17 511).num ∧ (wbFind sends 17 (sends.stream 17 511).ref).map Held.status = some none ∧
    (sends.stream 17 511).tx.win.head?.any (fun o => decide (o.kind = 1 ∨ o.kind = 2)) = true := by decide
def word1 : Pay := { kind := 3, words := 1, last := true, poison := false, data := 0 }
theorem test_streams :
    let s : State := { put (cniP 17) [(Reg.Cn.INJ_STOPPED, 0)] sends with streams := [(512 * 17 + 511, { tx := { queue := [word1] } })], ctxs := [(512 * 17, { live := true, tx := { queue := [word1] } })] }
    (s.stream 17 511).tx.queue = [word1] ∧ streamState s 17 511 = 1 ∧ injStopped s 17 = false ∧ s.rd (budP 17) Reg.Bu.BUD_COURIER = 0 ∧
      (s.ctx 17 0).tx.queue = [word1] ∧ (s.ctx 17 0).live = true ∧ (sends.stream 17 511).tx.win ≠ [] ∧ Hosted s (cniP 17) 0x60 :=
  ⟨by decide, by decide, by decide, by decide, by decide, by decide, by decide, hosted_of (by decide)⟩
theorem test_waits : ({ sends with streams := [(512 * 17 + 511, { tx := { win := [env 1 0], wait := true } })] } : State).stream 17 511 =
    { tx := { win := [env 1 0], wait := true } } := by decide
theorem test_drains : Hosted lit drainP (drainOff 15 0) ∧ (put drainP [(Reg.Dr.DRAINING 15, 1)] grid).rd drainP (Reg.Dr.DRAINING 15) = 1 ∧ drainSums grid 15 = (0, 0) :=
  ⟨hosted_of (by decide), by decide, by decide⟩

/-! ### Open accesses, scrubbers and beats -/

/-- An open write of a word at an offset of site 0. -/
def asksFor (off : Nat) : OpenReq := { who := 4, arr := 0, off := off, n := 1, wr := true, job := 2, key := 0, at_ := 0 }
def open0 (off : Nat) : State := { lit with sites := [(0, { opens := [asksFor off] })] }
theorem test_open : portPick (open0 0x8100700000) 0 (atCore 7) (fun q => openAt (offBank q.off) 0) = some (asksFor 0x8100700000) ∧
    portPick (open0 0x8000000780) 0 (atSlice 15) (fun _ => true) = some (asksFor 0x8000000780) ∧ openAt 15 3 = true ∧
    portPick (open0 0x780) 0 (atChannel 15) (fun _ => true) = some (asksFor 0x780) ∧ slotOpen (open0 0x780) 0 15 0 = true := by decide
theorem test_refresh : slotStart (14 % 16) = some 5 ∧ wellOwner (put (wellP 0) [(Reg.We.WST_ACT0, 0x900000)] lit) 0 0 5 = 9 ∧ Hosted lit (wellP 0) 0x44 ∧
    Hosted lit (wellP 0) 0x68 := ⟨by decide, by decide, hosted_of (by decide), hosted_of (by decide)⟩
theorem test_scrub : scrubMay lit ⟨0, 7⟩ 0 0 = true ∧ scrubMay lit ⟨0, 7⟩ 1 23 = true ∧ openAt 15 3 = true ∧ portPick lit 0 (atSlice 15) (fun _ => true) = none ∧
    tabFind (lit.site 0).cisScrub 15 = none ∧ bits (lit.site 0).cisSeen 15 1 = 0 ∧ lit.rd (cisP 0) Reg.Ci.SCRUB_EN ≠ 0 ∧ slotOpen lit 0 0 0 = true ∧
    (lit.site 0).wellScrub = none ∧ lit.rd (wellP 0) Reg.We.SCRUB_EN ≠ 0 ∧ (lit.site 0).uSram < lit.rd (budP 0) Reg.Bu.BUD_SCRUB_SRAM := by decide
theorem test_beats : bits ({ lit with sites := [(0, { ttDown := 8 })] } : State).sites.length 0 1 = 1 ∧ bits (hops.site 0).ttDown 0 1 = 0 ∧
    (beatHit hops 0 0 2 0).isSome = true ∧ beatHit hops 0 3 0 0 = none := by decide

/-! ### Hubs, the twin and the Postmaster -/

/-- Port 4 of hub 0 is up, and that of hub 15 has lost its link. -/
def ports : State := put (portP 15 4) [(Reg.Fa.PORT_STATE, 1)] (put (portP 0 4) [(Reg.Fa.PORT_STATE, 3)] lit)
theorem test_fabric : portOk 15 4 = true ∧ Hosted lit (hubP 15 0) 0x44 ∧ Hosted lit (portP 15 4) 0x44 ∧ portState ports 0 4 = 3 ∧ portState ports 15 4 = 1 ∧
    hdrOk (eflHdr 0 0 1 0 0 0) 1 = true ∧ hdrOk (eflHdr 0 0 2 3 0 0) 2 = true ∧ portUp ports 0 4 = true :=
  ⟨by decide, hosted_of (by decide), hosted_of (by decide), by decide, by decide, by decide +kernel, by decide +kernel, by decide⟩
theorem test_hubs : hasPort 15 4 = true ∧ hasPort 1 4 = false ∧ bits (lit.rd (fwP 15) Reg.Fw.ISOLATED) 5 1 = 0 ∧
    bits ((put (fwP 15) [(Reg.Fw.ISOLATED, 32)] lit).rd (fwP 15) Reg.Fw.ISOLATED) 5 1 = 1 ∧
    ({ lit with ctxs := [(512 * 271 + 511, { live := true, act := 1, space := .deep })] }.ctx 271 511).live = true := by decide
theorem test_twin : Hosted lit twinP 0x44 ∧ twinState lit = 0 ∧ lit.twin.wants = none ∧ sameDomain lit = false ∧
    twinState (put twinP [(Reg.Tw.TWIN_STATE, 6), (Reg.Tw.LEAVER, 1)] lit) = 6 ∧ ({ lit with twin := { lost := [0] } } : State).twin.lost = [1 - 1] :=
  ⟨hosted_of (by decide), by decide, by decide, by decide, by decide, by decide⟩
/-- The gate of region 0 at hub 0 is site 17. -/
def gated : State := put (collP 0) [(Reg.Cl.STAGE_Q 0, 256)] (put (cniP 17) [(Reg.Cn.ACT_GATE 0, 16)] mapped)
/-- An ALL_REDUCE of slot 0 over one well line. -/
def reduce0 : Nat := 1 + 3 * 2 ^ 4 + 4096 * 2 ^ 32 + 16 * 2 ^ 104 + 16 * 2 ^ 168
theorem test_collectives : gateOf gated 0 0 = some 17 ∧ Hosted lit (collP 0) 0x90 ∧ Hosted lit (collP 15) (0x10C + 0x10 * 15) ∧
    ({ gated with hubs := [(0, { coll := [(0, { queue := [reduce0] })] })] }.slot 0 0).queue = [reduce0] ∧
    fcAhead (gated.site 17).fc (dFc reduce0) < 2 ^ 47 ∧ stagingOf reduce0 ≤ gated.rd (collP 0) (Reg.Cl.STAGE_Q 0) ∧ 0 < stagingOf reduce0 :=
  ⟨by decide, hosted_of (by decide), hosted_of (by decide), by decide, by decide, by decide, by decide⟩
/-- Segment 0 of a reduction among two is whole, and segment 1 has not ended. -/
def reduces : State :=
  put (collP 0) [(Reg.Cl.M_MINUS_1 0, 1)] (put (cniP 17) [(Reg.Cn.INJ_STOPPED, 0)]
    { gated with hubs := [(0, { coll := [(0, { run := some { desc := 1 + 3 * 2 ^ 4 + 4096 * 2 ^ 32 + (16 * 2 ^ 40 + 0x8000000000) * 2 ^ 128, segs := [(0, { fin := true })] } })] })] })
theorem test_commit : ((reduces.run 0 0).map (fun x => decide (0 ∈ dueSegs reduces 0 0 x) && decide (1 ∈ dueSegs reduces 0 0 x) && (x.seg 0).fin && !(x.seg 1).ended)) = some true ∧
    gateOf reduces 0 0 = some 17 ∧ physOf reduces 16 = some 17 ∧ injStopped reduces 17 = false ∧ targetOf 0x8000000000 4096 ≠ some .well := by decide
theorem test_service : Hosted lit licP 0x4C ∧ Hosted lit timeP 0x50 ∧ Hosted lit (timP 17) 0x14 ∧ Hosted lit pmP 0x70 ∧ Hosted lit pmP 0x58 ∧
    ({ lit with restart := some ⟨1, 0, 0⟩ } : State).restart = some ⟨1, 0, 0⟩ :=
  ⟨hosted_of (by decide), hosted_of (by decide), hosted_of (by decide), hosted_of (by decide), hosted_of (by decide), rfl⟩
theorem test_remap : Hosted lit mapP 0x60 ∧ (put mapP [(Reg.Ma.RM_STATE, 3)] lit).rd mapP Reg.Ma.RM_STATE = 3 := ⟨hosted_of (by decide), by decide⟩
theorem test_module : stepTaken (lit.wr bringP Reg.Br.STATE 0) 1 = true ∧ stepRuns (put bringP [(Reg.Br.STATE, 1), (Reg.Br.CUR_STEP, 7)] lit) 7 = true := by decide
/-- An access of PF0 to an address. -/
def pf0 (a : Nat) : HostAcc := { fn := 0, port := some 0, addr := BitVec.ofNat 32 a }
theorem test_accesses : accReason lit (pf0 0x4C) true = (0, idP) ∧ accReason lit { pf0 0x4C with waiting := 8 } true = (6, 0) ∧
    accReason lit (regOf (pf0 0x120000) 0x18) true = (0, timeP) ∧ accReason lit (regOf (pf0 0x120000) 0x2C) false = (0, timeP) ∧
    accReason lit (regOf (pf0 0x5000) 0x14) true = (0, queueP) ∧ accReason lit (regOf (pf0 0x5000) 0x30) true = (0, queueP) ∧
    (accReason lit (pf0 0x6000) true).1 = 1 ∧ Hosted lit queueP 0x14 :=
  ⟨by decide, by decide, by decide, by decide, by decide, by decide, by decide, hosted_of (by decide)⟩
theorem test_bring_up : Hosted lit bringP 0x40 ∧ stepTaken lit 1 = true ∧ stepTaken lit 2 = false ∧ bootSlot { lit with fwA := shippedFw } = some 0 ∧ bootSlot lit = none :=
  ⟨hosted_of (by decide), by decide, by decide, by decide +kernel, by decide +kernel⟩
theorem test_stands : storesNothing .pairTimeout = true ∧ storesNothing (.brownout 0) = false := by decide

/-! ### What the spec's rules give -/

/-- The state after a command, or reset where it stops. -/
def after (i : Instr) (s : State) : State :=
  match exec i s with
  | .next t => t
  | _ => {}

/-- R70: two advances of the generator from 1. -/
theorem test_generator : lfsr 1 1 = 0x80200003 ∧ lfsr 2 1 = 0xC0300002 := by decide
/-- R70: a seed of 0 loads 1. -/
theorem test_seed_zero : (after (.vseed c0 h5 { v1 with dst := 0, srca := 0, srcb := 0 }) run0).rd (coreP c0) Reg.Co.RNG_STATE = 1 := by decide +kernel
/-- R63: 0xFA is -6 and 0x81 is -127. -/
theorem test_exponent_bytes : e8 0xFA = -6 ∧ e8 0x81 = -127 ∧ e8 0x7F = 127 := by decide
/-- R86: 1 and 2 in FP32 make 3; the greatest finite value doubled is infinite. -/
theorem test_add : (ewElem .add .fp32 0x3F800000 0x40000000 0 0).code = 0x40400000 ∧ (ewElem .add .fp32 0x7F7FFFFF 0x7F7FFFFF 0 0).code = 0x7F800000 := by decide +kernel
/-- R86: max(+0, -0) is +0, and min(+0, -0) is -0. -/
theorem test_zeros : (ewElem .max .fp32 0x80000000 0 0 0).code = 0 ∧ (ewElem .min .fp32 0 0x80000000 0 0).code = 0x80000000 := by decide +kernel
/-- R412: dates that are refused, and one that is not. -/
theorem test_calendar : calOk ⟨2031, 2, 29, 0, 0, 0⟩ = false ∧ calOk ⟨2100, 2, 29, 0, 0, 0⟩ = false ∧ calOk ⟨2024, 13, 1, 0, 0, 0⟩ = false ∧
    calOk ⟨2024, 1, 0, 0, 0, 0⟩ = false ∧ calOk ⟨2024, 4, 31, 0, 0, 0⟩ = false ∧ calOk ⟨2024, 1, 1, 23, 59, 60⟩ = false ∧
    calOk ⟨2000, 2, 29, 23, 59, 59⟩ = true := by decide
/-- R10: hubs lie beside 64 sites, four each. -/
theorem test_hub_sites : hubOf 17 = some 0 ∧ hubOf 0 = none ∧ ((List.range 256).filter (fun i => (hubOf i).isSome)).length = 64 := by decide +kernel
/-- R16: with one position out of the grid, columns from it on move right by one. -/
theorem test_columns : physOf mapped 16 = some 17 ∧ physOf (put mapP [(Reg.Ma.SPARE_X 1, 1)] mapped) 16 = some 18 := by decide +kernel
/-- R372: bits under the mask take the value, the others stay, and a reserved bit is refused. -/
theorem test_mask :
    let s := put idP [(Reg.Id.PF_INT_EN, 0x0F)] lit
    (after (.registerWrite (pf0 0x4C) 0x003000A5) s).rd idP Reg.Id.PF_INT_EN = 0x2F ∧
      (after (.registerWrite (pf0 0x4C) 0x01000100) s).rd idP Reg.Id.PF_INT_EN = 0x0F ∧
      (after (.registerWrite (pf0 0x4C) 0x01000100) s).rd idP Reg.Hd.BAD_VALUE = 1 := by decide +kernel
/-- R183: an envelope with a reserved bit is counted and dropped. -/
theorem test_drop : (after (.ack 17 false { env 5 0 with rsv := 1 }) sends).rd (cniP 17) Reg.Cn.BAD_ENV_CNT = 1 := by decide +kernel
/-- R153: JUMP sets the next position. -/
theorem test_jump : ((after (.jump c0 h5 2047 0) run0).core c0).nextPc = 2047 := by decide +kernel
/-- R151: STOP ends a running core. -/
theorem test_stop : (after (.stop c0 h5) run0).rd (coreP c0) Reg.Co.STATE = 3 := by decide +kernel
/-- R248: a lost heartbeat path is kept until one arrives. -/
theorem test_heartbeat : (after (.hbLoss 1) lit).twin.lost = [1] := by decide +kernel
/-- R410: the time that the host sets holds at once. -/
theorem test_set_time : (after .setGo (put timeP [(Reg.Ti.SET_LO, 77)] lit)).time = 77 := by decide +kernel

end Sys2Proof.Tests
end

section
/-! PROOFS. What the register store answers right after reset: every register holds its table's reset value, but for the
x16 ports that come up as HOST (R240) and the owners of the event queues (R382). -/

namespace Sys2Proof.Machine

theorem tabFind_eq_none {α : Type} {t : Tab α} {k : Nat} (h : ∀ e ∈ t, e.1 ≠ k) : tabFind t k = none := by
  induction t with
  | nil => rfl
  | cons e t ih =>
    obtain ⟨he, ht⟩ := List.forall_mem_cons.mp h
    rw [tabFind, if_neg he, ih ht]

theorem State.rd_reset_unlisted {p : Nat} {f : Fld} (h : ∀ e ∈ resetRegs, e.1 ≠ fldKey p f) : State.reset.rd p f = f.rst := by
  show (tabFind resetRegs (fldKey p f)).getD f.rst = f.rst
  rw [tabFind_eq_none h, Option.getD_none]

/-- The registers listed at reset are direct ones in the groups of the hubs (R249), or IX entries (R382). -/
theorem resetRegs_key : ∀ e ∈ resetRegs, (0x1000000 * 32 ≤ e.1 ∧ e.1 < 0x2000000 * 32) ∨ 2 ^ 80 ≤ e.1 := by decide

/-- A direct register of the 32-bit control space outside the groups of the hubs. -/
theorem State.rd_reset_off_hubs {p : Nat} {f : Fld} (hf : f.ix = false ∧ f.lsb < 32) (ha : p + f.off < 2 ^ 32)
    (hh : p + f.off < 0x1000000 ∨ 0x2000000 ≤ p + f.off) : State.reset.rd p f = f.rst := by
  have hk : fldKey p f = (p + f.off) * 32 + f.lsb := by simp [fldKey, hf]
  refine State.rd_reset_unlisted fun e he => ?_
  have := resetRegs_key e he
  omega

/-- R364: a register in a site's group of pages. -/
theorem State.rd_reset_site {i o : Nat} {f : Fld} (hi : i < 256) (hf : f.ix = false ∧ f.lsb < 32) (ho : o + f.off < 0x100000) :
    State.reset.rd (siteP i o) f = f.rst := by
  refine State.rd_reset_off_hubs hf ?_ ?_ <;> unfold siteP <;> omega

/-- R173: a register in a core's page. -/
theorem State.rd_reset_core {c : CoreId} {f : Fld} (hi : c.site < 256) (hn : c.n < 8) (hf : f.ix = false ∧ f.lsb < 32)
    (ho : f.off < 0x1000) : State.reset.rd (coreP c) f = f.rst :=
  State.rd_reset_site hi hf (by omega)

/-- R240: the four HOST ports. -/
theorem x16Role_reset : ∀ h < 16, State.reset.rd (x16P h) Reg.Xp.X16_ROLE = if h = 0 ∨ h = 3 ∨ h = 12 ∨ h = 15 then 1 else 0 := by
  decide

/-- R359: a region's state is a direct register of the region page. -/
theorem regionState_reset {r : Nat} (hr : r < 16) : regionState State.reset r = 0 := by
  have haddr : regionP + (Reg.Rg.STATE r).off = 0x170054 + 32 * r := by simp only [regionP, Reg.Rg.STATE]; omega
  exact State.rd_reset_off_hubs (f := Reg.Rg.STATE r) ⟨rfl, Nat.succ_pos 31⟩ (by omega) (by omega)

/-- R382: an event queue belongs to its region. -/
theorem queueOwner_reset : ∀ r < 16, State.reset.rd queueP (qFld (Reg.Qu.OWNER 0) (evqIx r)) = r := by decide

/-- R382: an event queue is disabled. -/
theorem queueEnable_reset : ∀ r < 16, State.reset.rd queueP (qFld (Reg.Qu.ENABLE 0) (evqIx r)) = 0 := by decide

/-- Settles O60: R20 and R311 for the sites, R49, R70 and R173 for the cores, R240 for the x16 ports, R359 and R382 for the
regions and their queues, R409, R377 and R378 for the panel. -/
theorem resetValues : Obligations.ResetValues := by
  unfold Obligations.ResetValues
  refine ⟨fun i hi => ?site, fun i hi n hn => ?core, x16Role_reset, fun r hr => ?region, ?time, ?id, ?busErr, ?bring⟩
  case site =>
    have site {o : Nat} {f : Fld} := State.rd_reset_site (o := o) (f := f) hi
    refine ⟨site ?_ ?_, site ?_ ?_, site ?_ ?_, site ?_ ?_⟩ <;> decide
  case core =>
    have core {f : Fld} := State.rd_reset_core (c := ⟨i, n⟩) (f := f) hi hn
    refine ⟨core ?_ ?_, core ?_ ?_, core ?_ ?_, core ?_ ?_, core ?_ ?_⟩ <;> decide
  case region => exact ⟨regionState_reset hr, queueOwner_reset r hr, queueEnable_reset r hr⟩
  case time | id | busErr | bring => exact State.rd_reset_off_hubs (by decide) (by decide) (by decide)

end Sys2Proof.Machine
end

section
/-! PROOFS. Memory word by word: which bytes and marks a run of numbered steps leaves alone, and what it leaves in the blocks of
words that its steps write. -/

namespace Sys2Proof.Machine

/-! ### Numbered steps -/

theorem upTo_succ {α : Type} (n : Nat) (f : α → Nat → α) (a : α) : upTo (n + 1) f a = f (upTo n f a) n := by
  unfold upTo
  rw [List.range_succ, List.foldl_append]
  rfl

/-- What holds before the first step and, of each step, after it if before it, holds after the last. -/
theorem upTo_ind {α : Type} {P : Nat → α → Prop} {f : α → Nat → α} {a : α} (h0 : P 0 a) :
    ∀ n, (∀ i < n, ∀ x, P i x → P (i + 1) (f x i)) → P n (upTo n f a)
  | 0, _ => h0
  | n + 1, hs => by
    rw [upTo_succ]
    exact hs n (Nat.lt_succ_self n) _ (upTo_ind h0 n (fun i hi => hs i (Nat.lt_succ_of_lt hi)))

/-! ### Words that stand -/

/-- Word `k` is one of the `w` words at byte address `a`. -/
def inBlock (a w k : Nat) : Prop := a / 8 ≤ k ∧ k < a / 8 + w

/-- The bytes and marks of the words that `W` picks are in `k` what they are in `m`. -/
structure SameWords (W : Nat → Prop) (m k : Mem) : Prop where
  wfs : Memory.wf m = true
  wf : Memory.wf k = true
  byte : ∀ x, W (x / 8) → memByte k x = memByte m x
  poison : ∀ i, W i → keyHas k.poison i = keyHas m.poison i
  ue : ∀ i, W i → keyHas k.ue i = keyHas m.ue i

variable {W V : Nat → Prop} {m k l : Mem}

theorem SameWords.refl (h : Memory.wf m = true) : SameWords W m m := ⟨h, h, fun _ _ => rfl, fun _ _ => rfl, fun _ _ => rfl⟩

theorem SameWords.trans (h : SameWords W m k) (g : SameWords W k l) : SameWords W m l :=
  ⟨h.wfs, g.wf, fun x hx => (g.byte x hx).trans (h.byte x hx), fun i hi => (g.poison i hi).trans (h.poison i hi),
    fun i hi => (g.ue i hi).trans (h.ue i hi)⟩

theorem SameWords.mono (h : SameWords W m k) (hv : ∀ i, V i → W i) : SameWords V m k :=
  ⟨h.wfs, h.wf, fun x hx => h.byte x (hv _ hx), fun i hi => h.poison i (hv _ hi), fun i hi => h.ue i (hv _ hi)⟩

theorem SameWords.write (h : Memory.wf m = true) {a w v pm : Nat} (ha : a % 8 = 0) (hw : ∀ i, W i → ¬ inBlock a w i) :
    SameWords W m (memWrite m a w v pm) := by
  refine ⟨h, Memory.wf_write h _ _ _ _, fun x hx => ?_, fun i hi => ?_, fun i hi => ?_⟩
  · have := hw _ hx
    unfold inBlock at this
    rw [memByte_write, if_neg (by omega)]
  · exact (keyHas_marksPut ..).trans (if_neg (hw i hi))
  · exact (keyHas_marksPut ..).trans (if_neg (hw i hi))

theorem SameWords.clear (h : Memory.wf m = true) {a n : Nat} (ha : a % 8 = 0) (hn : n % 8 = 0) (hw : ∀ i, W i → ¬ inBlock a (n / 8) i) :
    SameWords W m (memClear m a n) := by
  have hmark : ∀ (t : KeySet) i, W i → keyHas (t.filter (fun k => decide (k < a / 8) || decide ((a + n) / 8 ≤ k))) i = keyHas t i := by
    intro t i hi
    have := hw i hi
    unfold inBlock at this
    have hout : i < a / 8 ∨ (a + n) / 8 ≤ i := by omega
    rw [Bool.eq_iff_iff]
    simp [keyHas, List.mem_filter, hout]
  refine ⟨h, Memory.wf_clear h _ _, fun x hx => ?_, hmark _, hmark _⟩
  have := hw _ hx
  unfold inBlock at this
  rw [memByte_clear, if_neg (by omega)]

/-- A read of bytes that stand. -/
theorem SameWords.read (h : SameWords W m k) {a n : Nat} (hw : ∀ x, a ≤ x → x < a + n → W (x / 8)) : memRead k a n = memRead m a n := by
  rw [memRead_bytes _ _ _ h.wf, memRead_bytes _ _ _ h.wfs]
  exact numOf_congr (fun i hi => h.byte _ (hw _ (by omega) (by omega)))

/-- A read of marks that stand. -/
theorem SameWords.readPoison (h : SameWords W m k) {a w : Nat} (hw : ∀ i, inBlock a w i → W i) : memPoison k a w = memPoison m a w := by
  refine memPoison_congr h.wf h.wfs a w (fun i hi => ?_)
  have hin : W (a / 8 + i) := hw _ ⟨by omega, by omega⟩
  unfold wordBad
  rw [h.poison _ hin, h.ue _ hin]

/-- A read of whole words that stand. -/
theorem SameWords.take {s t : State} (h : SameWords W s.mem t.mem) {a w : Nat} (ha : a % 8 = 0) (hw : ∀ i, inBlock a w i → W i) :
    t.take a w = s.take a w := by
  unfold State.take
  rw [h.readPoison hw, h.read (fun x h1 h2 => hw _ ⟨by omega, by omega⟩)]

/-- A scratchpad line that stands. -/
theorem SameWords.spLine {s t : State} (h : SameWords W s.mem t.mem) {c : CoreId} {b r : Nat}
    (hw : ∀ i, inBlock (spAddr c.site c.n b r) 16 i → W i) : t.spLine c b r = s.spLine c b r :=
  h.take (w := 16) (by unfold spAddr coreBase siteBase; omega) hw

/-! ### Words that have been written -/

/-- The `w` words at `a` hold what a write of line `l` leaves there: its bytes and marks, and no latent error. -/
structure Holds (m : Mem) (a w : Nat) (l : Line) : Prop where
  byte : ∀ i < 8 * w, memByte m (a + i) = byteAt l.data i
  poison : ∀ i < w, keyHas m.poison (a / 8 + i) = l.poison.testBit i
  ue : ∀ i < w, keyHas m.ue (a / 8 + i) = false

theorem Holds.write (m : Mem) (a w : Nat) (l : Line) : Holds (memWrite m a w l.data l.poison) a w l := by
  refine ⟨fun i hi => ?_, fun i hi => ?_, fun i hi => ?_⟩
  · rw [memByte_write, if_pos (by omega), Nat.add_sub_cancel_left]
  · exact (keyHas_marksPut ..).trans (by rw [if_pos (by omega), Nat.add_sub_cancel_left])
  · exact (keyHas_marksPut ..).trans (by rw [if_pos (by omega), Nat.zero_testBit])

theorem Holds.keep {a w : Nat} {v : Line} (h : Holds m a w v) (g : SameWords W m k) (ha : a % 8 = 0) (hw : ∀ i, inBlock a w i → W i) :
    Holds k a w v := by
  refine ⟨fun i hi => ?_, fun i hi => ?_, fun i hi => ?_⟩
  · exact (g.byte _ (hw _ ⟨by omega, by omega⟩)).trans (h.byte i hi)
  · exact (g.poison _ (hw _ ⟨by omega, by omega⟩)).trans (h.poison i hi)
  · exact (g.ue _ (hw _ ⟨by omega, by omega⟩)).trans (h.ue i hi)

theorem Holds.read {a w n : Nat} {v : Line} (h : Holds m a w v) (hm : Memory.wf m = true) (hn : 8 * w = n) (hv : v.data < 256 ^ n) :
    memRead m a n = v.data := by
  subst hn
  rw [memRead_bytes _ _ _ hm, numOf_congr h.byte, numOf_byteAt, Nat.mod_eq_of_lt hv]

theorem Holds.readPoison {a w : Nat} {v : Line} (h : Holds m a w v) (hm : Memory.wf m = true) (hv : v.poison < 2 ^ w) :
    memPoison m a w = v.poison := by
  have hwf := Memory.wf_iff.1 hm
  refine Nat.eq_of_testBit_eq (fun i => ?_)
  unfold memPoison
  rw [Nat.testBit_or]
  by_cases hi : i < w
  · rw [marksGet_testBit _ _ _ _ hwf.2.1 hi, marksGet_testBit _ _ _ _ hwf.2.2.2 hi, h.poison i hi, h.ue i hi, Bool.or_false]
  · have high : ∀ x < 2 ^ w, x.testBit i = false := fun x hx =>
      Nat.testBit_lt_two_pow (lt_of_lt_of_le hx (Nat.pow_le_pow_right (by norm_num) (Nat.le_of_not_lt hi)))
    rw [high _ (marksGet_lt _ _ _ hwf.2.1), high _ (marksGet_lt _ _ _ hwf.2.2.2), high _ hv, Bool.or_false]

/-! ### Runs of writes -/

/-- Steps that each write one block of `w` words, apart from the blocks before it, leave every word beside the blocks and, in each
block, what its step wrote. What a step writes may be found from the words that the steps before it have left. -/
theorem upTo_writes {α : Type} (mem : α → Mem) {f : α → Nat → α} {x : α} {w : Nat} {dst : Nat → Nat} {val : Nat → Line}
    (hx : Memory.wf (mem x) = true) (n : Nat) (ha : ∀ i < n, dst i % 8 = 0)
    (hd : ∀ i < n, ∀ j < i, dst j + 8 * w ≤ dst i ∨ dst i + 8 * w ≤ dst j)
    (hf : ∀ i < n, SameWords (fun k => ∀ j < i, ¬ inBlock (dst j) w k) (mem x) (mem (upTo i f x)) →
      mem (f (upTo i f x) i) = memWrite (mem (upTo i f x)) (dst i) w (val i).data (val i).poison) :
    SameWords (fun k => ∀ j < n, ¬ inBlock (dst j) w k) (mem x) (mem (upTo n f x)) ∧ ∀ i < n, Holds (mem (upTo n f x)) (dst i) w (val i) := by
  induction n with
  | zero => exact ⟨SameWords.refl hx, fun i hi => absurd hi (Nat.not_lt_zero i)⟩
  | succ n ih =>
    obtain ⟨hsame, hold⟩ := ih (fun i hi => ha i (by omega)) (fun i hi => hd i (by omega)) (fun i hi => hf i (by omega))
    have hn : dst n % 8 = 0 := ha n (Nat.lt_succ_self n)
    have hstep := hf n (Nat.lt_succ_self n) hsame
    rw [upTo_succ, hstep]
    have hbeside : SameWords (fun k => ¬ inBlock (dst n) w k) (mem (upTo n f x)) (memWrite (mem (upTo n f x)) (dst n) w (val n).data (val n).poison) :=
      SameWords.write hsame.wf hn (fun _ hi => hi)
    refine ⟨(hsame.mono (fun i hi j hj => hi j (by omega))).trans (hbeside.mono (fun i hi => hi n (by omega))), fun i hi => ?_⟩
    rcases Nat.lt_succ_iff_lt_or_eq.1 hi with hlt | rfl
    · have := hd n (Nat.lt_succ_self n) i hlt
      have := ha i (by omega)
      refine (hold i hlt).keep hbeside (ha i hi) (fun j hj => ?_)
      unfold inBlock at hj ⊢
      omega
    · exact Holds.write ..

end Sys2Proof.Machine
end

section
/-! PROOFS. A bundle of one MX operation (R46 to R50): its fields, its accesses, and what is left once the operation has had its effect. -/

namespace Sys2Proof.Machine

/-! ### Memory and registers alone -/

/-- Nothing but memory and the listed fields changes. -/
structure Touches (ks : List Nat) (s t : State) : Prop where
  rest : t = { s with regs := t.regs, mem := t.mem }
  regs : Off ks s t

section
variable {c : CoreId} {ks ls : List Nat} {q s t : State}

theorem Touches.refl (ks : List Nat) (s : State) : Touches ks s s := ⟨rfl, Off.refl _ _⟩

theorem Touches.trans (h : Touches ks q s) (g : Touches ks s t) : Touches ks q t := by
  refine ⟨?_, h.regs.trans g.regs⟩
  have hs := h.rest
  have ht := g.rest
  rw [hs] at ht
  exact ht

theorem Touches.mono (h : Touches ks s t) (hk : ks ⊆ ls) : Touches ls s t := ⟨h.rest, h.regs.mono hk⟩

theorem Touches.ite {p : Prop} [Decidable p] (hs : Touches ks q s) (ht : Touches ks q t) : Touches ks q (if p then s else t) := by
  split <;> assumption

theorem Touches.withMem (h : Touches ks q s) (m : Mem) : Touches ks q { s with mem := m } :=
  h.trans ⟨rfl, ⟨fun _ _ => rfl⟩⟩

theorem Touches.put (h : Touches ks q s) (a n : Nat) (l : Line) : Touches ks q (s.put a n l) := h.withMem _

theorem Touches.wr (h : Touches ks q s) {p : Nat} {f : Fld} {v : Nat} (hk : fldKey p f ∈ ks) : Touches ks q (s.wr p f v) :=
  h.trans ⟨rfl, (Off.refl ks s).wr hk⟩

theorem Touches.setBit (h : Touches ks q s) {p : Nat} {f : Fld} (hk : fldKey p f ∈ ks) : Touches ks q (s.setBit p f) := h.wr hk

theorem Touches.bump (h : Touches ks q s) {p : Nat} {f : Fld} {n : Nat} (hk : fldKey p f ∈ ks) : Touches ks q (s.bump p f n) :=
  Touches.ite h (h.wr hk)

/-- The bit that an event sets, and the counter that counts it. -/
theorem Touches.note (h : Touches ks q s) {p : Nat} {f g : Fld} {n : Nat} (hf : fldKey p f ∈ ks) (hg : fldKey p g ∈ ks) :
    Touches ks q ((s.setBit p f).bump p g n) := (h.setBit hf).bump hg

theorem Touches.upTo {f : State → Nat → State} {n : Nat} (hf : ∀ s i, Touches ks q s → Touches ks q (f s i)) (h : Touches ks q s) :
    Touches ks q (Sys2Proof.upTo n f s) := upTo_ind (P := fun _ => Touches ks q) h n (fun i _ x hx => hf x i hx)

theorem Touches.cores (h : Touches ks s t) : t.cores = s.cores := by rw [h.rest]

theorem Touches.sites (h : Touches ks s t) : t.sites = s.sites := by rw [h.rest]

theorem Touches.core (h : Touches ks s t) (c : CoreId) : t.core c = s.core c := by unfold State.core; rw [h.cores]

theorem Touches.site (h : Touches ks s t) (i : Nat) : t.site i = s.site i := by unfold State.site; rw [h.sites]

theorem Touches.frame (h : Touches ks s t) : CoreFrame c ks s t :=
  ⟨by rw [h.rest], h.regs, fun _ _ => h.core _, fun _ _ => h.site _⟩

theorem noteSp_touches (hk : keysOf (coreP c) spFields ⊆ ks) (b l w n : Nat) : Touches ks s (s.noteSp c b l w n) := by
  refine ⟨?_, (noteSp_frame (CoreFrame.refl c ks s) hk b l w n).regs⟩
  have h := noteSp_regs s c b l w n
  rw [h]

end

/-! ### Fields of an MX slot -/

theorem mxload_fields (wbuf : BitVec 1) (wmode dq : BitVec 3) (doff : BitVec 7) (sq : BitVec 3) (soff : BitVec 7) (fine : BitVec 1)
    (rsv : BitVec 63) :
    let mx := mxloadOf wbuf wmode dq doff sq soff fine rsv
    mx < 2 ^ 96 ∧ bits mx 0 8 = 1 ∧ bits mx 8 1 = wbuf.toNat ∧ bits mx 9 3 = wmode.toNat ∧ bits mx 12 3 = dq.toNat ∧
      bits mx 15 7 = doff.toNat ∧ bits mx 22 3 = sq.toNat ∧ bits mx 25 7 = soff.toNat ∧ bits mx 32 1 = fine.toNat := by
  have := wbuf.isLt; have := wmode.isLt; have := dq.isLt; have := doff.isLt; have := sq.isLt; have := soff.isLt; have := fine.isLt
  have := rsv.isLt
  simp only [mxloadOf, packBits_cons, packBits_nil, bits]
  omega

theorem mxexp_fields (xsel : BitVec 1) (bank : BitVec 5) (line : BitVec 7) (rsv : BitVec 75) :
    let mx := mxexpOf xsel bank line rsv
    mx < 2 ^ 96 ∧ bits mx 0 8 = 2 ∧ bits mx 8 1 = xsel.toNat ∧ bits mx 9 5 = bank.toNat ∧ bits mx 14 7 = line.toNat := by
  have := xsel.isLt; have := bank.isLt; have := line.isLt; have := rsv.isLt
  simp only [mxexpOf, packBits_cons, packBits_nil, bits]
  omega

theorem mxmul_fields (wbuf acc amode : BitVec 1) (aq : BitVec 3) (aoff mcnt slot : BitVec 7) (xsel : BitVec 1) (xidx : BitVec 7)
    (pshift : BitVec 6) (rsv : BitVec 47) :
    let mx := mxmulOf wbuf acc amode aq aoff mcnt slot xsel xidx pshift rsv
    mx < 2 ^ 96 ∧ bits mx 0 8 = 3 ∧ bits mx 8 1 = wbuf.toNat ∧ bits mx 9 1 = acc.toNat ∧ bits mx 10 1 = amode.toNat ∧
      bits mx 11 3 = aq.toNat ∧ bits mx 14 7 = aoff.toNat ∧ bits mx 21 7 = mcnt.toNat ∧ bits mx 28 7 = slot.toNat ∧
      bits mx 35 1 = xsel.toNat ∧ bits mx 36 7 = xidx.toNat ∧ bits mx 43 6 = pshift.toNat := by
  have := wbuf.isLt; have := acc.isLt; have := amode.isLt; have := aq.isLt; have := aoff.isLt; have := mcnt.isLt; have := slot.isLt
  have := xsel.isLt; have := xidx.isLt; have := pshift.isLt; have := rsv.isLt
  simp only [mxmulOf, packBits_cons, packBits_nil, bits]
  omega

theorem mxdrain_fields (fmt clr : BitVec 1) (slot scnt : BitVec 7) (dq : BitVec 3) (doff : BitVec 7) (rsv : BitVec 62) :
    let mx := mxdrainOf fmt clr slot scnt dq doff rsv
    mx < 2 ^ 96 ∧ bits mx 0 8 = 4 ∧ bits mx 8 1 = fmt.toNat ∧ bits mx 9 1 = clr.toNat ∧ bits mx 10 7 = slot.toNat ∧
      bits mx 17 7 = scnt.toNat ∧ bits mx 24 3 = dq.toNat ∧ bits mx 27 7 = doff.toNat := by
  have := fmt.isLt; have := clr.isLt; have := slot.isLt; have := scnt.isLt; have := dq.isLt; have := doff.isLt; have := rsv.isLt
  simp only [mxdrainOf, packBits_cons, packBits_nil, bits]
  omega

/-- R146: the slots of a bundle of one MX operation. -/
theorem mxBundle_slots {mx : Nat} (hm : mx < 2 ^ 96) (h : Hdr) :
    bundleMx (mxBundle h mx) = mx ∧ bundleVx (mxBundle h mx) = 0 ∧ bundleMv (mxBundle h mx) = 0 ∧ bundleLk (mxBundle h mx) = 0 ∧
      hdrCtl (bundleHdr (mxBundle h mx)) = 0 := by
  unfold mxBundle
  rw [bundleMx_of, bundleVx_of, bundleMv_of, bundleLk_of, bundleHdr_of]
  exact ⟨Nat.mod_eq_of_lt hm, rfl, rfl, rfl, (hdrOf_ctl h false 0 (by norm_num)).1⟩

/-! ### Issue -/

/-- R52, R53: an MX operation's accesses are its core's own, by its array, after the cycle of issue. -/
theorem mxAcc_own (s : State) (c : CoreId) (mx t : Nat) : ∀ a ∈ mxAcc s c mx t, t < a.cyc ∧ a.own = c.n ∧ a.unit = 0 := by
  have hmap : ∀ (n : Nat) (cyc bank : Nat → Nat), (∀ i, t < cyc i) → ∀ a ∈ (List.range n).map (fun i =>
      ({ cyc := cyc i, port := 32 * c.n + bank i, own := c.n, unit := 0, slot := 1, img := mx } : Access)), t < a.cyc ∧ a.own = c.n ∧ a.unit = 0 := by
    intro n cyc bank hc a ha
    obtain ⟨i, _, rfl⟩ := List.mem_map.1 ha
    exact ⟨hc i, rfl, rfl⟩
  intro a ha
  unfold mxAcc at ha
  extract_lets acc dq1 sq aq m mode dq4 at ha
  split at ha
  case h_1 => exact (List.mem_append.1 ha).elim (hmap _ _ _ (fun i => by omega) a) (hmap _ _ _ (fun i => by omega) a)
  case h_2 => rw [List.mem_singleton.1 ha]; exact ⟨Nat.lt_succ_self t, rfl, rfl⟩
  case h_3 =>
    split at ha
    · exact (List.mem_append.1 ha).elim (hmap _ _ _ (fun i => by omega) a) (hmap _ _ _ (fun i => by omega) a)
    · split at ha
      · exact hmap _ _ _ (fun i => by omega) a ha
      · exact hmap _ _ _ (fun i => by omega) a ha
  case h_4 => exact hmap _ _ _ (fun i => by omega) a ha
  case h_5 => exact absurd ha List.not_mem_nil

theorem vxOccupy_zero (s : State) (c : CoreId) (t : Nat) : vxOccupy s c 0 t = s := rfl

theorem vxData_zero (s : State) (c : CoreId) : vxData s c 0 = s := rfl

/-- R105, R150: where no accepted access is still to come, a bundle of one MX operation leaves memory as the operation does, and
beside that shows its issue. -/
theorem bundleEffect_mx_quiet {s : State} {c : CoreId} {mx t : Nat} (hm : mx < 2 ^ 96) (h : Hdr) (p : Nat) (arr : ArrayUpset)
    (hq : Quiet (mxEffect s c mx t p arr) c t) :
    Leaves c (keysOf (coreP c) seqFields) (mxEffect s c mx t p arr) (mxEffect s c mx t p arr) (bundleEffect s c t p (mxBundle h mx) arr) := by
  obtain ⟨e1, e2, e3, e4, e5⟩ := mxBundle_slots hm h
  unfold bundleEffect
  rw [e1, e2, e3, e4]
  extract_lets hd mx' vx as undo s1 s2 s3 s4 s5 s6 k s7 s8
  have hs2 : s2 = s1 := (vxOccupy_zero _ _ _).trans (vxData_zero _ _)
  have has : as ++ undo = as := List.append_nil _
  have hg := placeAll_quiet (s := s1) (site := c.site) hq (mxAcc_own s c mx t)
  have hs3 : s3 = (placeAll s1 c.site t (mxAcc s c mx t)).st := by
    have h3 : s3 = (placeAll s2 c.site t (as ++ undo)).st := rfl
    rw [h3, has, hs2]
  have hs5 : s5 = (placeAll s1 c.site t (mxAcc s c mx t)).st := by
    have h4 : s4 = s3 := if_pos rfl
    have h5 : s5 = s4 := if_pos (by simp)
    rw [h5, h4, hs3]
  have f5 : CoreFrame c (keysOf (coreP c) seqFields) s1 s5 := hs5 ▸ hg.frame (CoreFrame.refl _ _ _)
  have m5 : MemIs s1 s5 := ⟨by rw [hs5]; exact hg.mem⟩
  have f6 : CoreFrame c (keysOf (coreP c) seqFields) s1 s6 := CoreFrame.ite (digAdd_frame f5 _) f5
  have m6 : MemIs s1 s6 := MemIs.ite (digAdd_memIs _ _ _ m5) m5
  have m8 : MemIs s1 s8 := State.setCore_memIs _ _ _ m6
  rw [ctlEffect_none _ _ _ _ _ _ e5]
  exact ⟨showBusy_memIs _ _ _ (State.wr_memIs _ _ _ _ (State.wr_memIs _ _ _ _ m8)), issued_frame f6 (List.Subset.refl _) _ _ _ _⟩

/-- R150: what an MX operation's own row answers once its bundle issues. -/
theorem mxRow_issued {s : State} {c : CoreId} {h : Hdr} {mx t : Nat} (hi : Issues s c (mxBundle h mx) t) (arr : ArrayUpset) :
    mxRow c h mx arr s = .next (bundleEffect (atCycle s c.site t) c t (s.core c).nextPc (mxBundle h mx) arr) := by
  unfold mxRow onUnit
  rw [if_pos hi.core]
  exact congrArg _ (issue_of hi arr)

theorem atCycle_quiet {s : State} {c : CoreId} {t : Nat} (h : Quiet s c t) : Quiet (atCycle s c.site t) c t := by
  unfold Quiet atCycle
  rw [State.site_setSite_same]
  exact h

/-- The same, where the operation leaves the accesses of its site alone: a state with the operation's memory, within a frame of the
operation's result. -/
theorem mxRow_quiet {s : State} {c : CoreId} {h : Hdr} {mx t : Nat} (hi : Issues s c (mxBundle h mx) t) (hm : mx < 2 ^ 96)
    (arr : ArrayUpset) {v : State} (hv : mxEffect (atCycle s c.site t) c mx t (s.core c).nextPc arr = v) (hq : Quiet v c t) :
    ∃ u, mxRow c h mx arr s = .next u ∧ u.mem = v.mem ∧ CoreFrame c (keysOf (coreP c) seqFields) v u := by
  subst hv
  have hl := bundleEffect_mx_quiet hm h (s.core c).nextPc arr hq
  exact ⟨_, mxRow_issued hi arr, hl.mem.mem, hl.frame⟩

end Sys2Proof.Machine
end

section
/-! PROOFS. What MXEXP and MXLOAD copy from the scratchpad into the array's registers and buffers (R33 to R36, R40, R53). -/

namespace Sys2Proof.Machine

/-! ### Registers of an issued operation -/

/-- A field of a page that shares its place with none of those listed. -/
theorem fldKey_not_mem {p : Nat} {f : Fld} {fs : List Fld} (h : ∀ g ∈ fs, g.ix = f.ix ∧ g.off * 32 + g.lsb ≠ f.off * 32 + f.lsb) :
    fldKey p f ∉ keysOf p fs := by
  intro hm
  obtain ⟨g, hg, e⟩ := List.mem_map.1 hm
  exact fldKey_ne (h g hg).1 (h g hg).2 e

theorem keysOf_subset {p : Nat} {fs gs : List Fld} (h : fs ⊆ gs) : keysOf p fs ⊆ keysOf p gs := List.map_subset _ h

/-! ### Bytes of a line -/

theorem memRead_lt {m : Mem} (h : Memory.wf m = true) (a n : Nat) : memRead m a n < 256 ^ n := by
  rw [memRead_bytes _ _ _ h]
  exact numOf_lt _ _

/-- Byte `k` of several that have been read as one number. -/
theorem memRead_byte {m : Mem} (h : Memory.wf m = true) {a n k : Nat} (hk : k < n) : memRead m a n / 256 ^ k % 256 = (memByte m (a + k)).toNat := by
  have hs := memRead_slice m a n k 1 h (by omega)
  have h1 : memRead m (a + k) 1 = (memByte m (a + k)).toNat := by rw [memRead_bytes _ _ _ h]; simp [numOf]
  rw [pow_one] at hs
  rw [hs, h1]

/-- A field of a number replaced by another value. -/
theorem testBit_replace (x p w v i : Nat) (hv : v < 2 ^ w) :
    (x - bits x p w * 2 ^ p + v * 2 ^ p).testBit i = if p ≤ i ∧ i < p + w then v.testBit (i - p) else x.testBit i := by
  have hx : x = 2 ^ p * (2 ^ w * (x / 2 ^ p / 2 ^ w) + bits x p w) + x % 2 ^ p := by
    unfold bits
    rw [Nat.div_add_mod, Nat.div_add_mod]
  have hlow : x % 2 ^ p < 2 ^ p := Nat.mod_lt _ (by positivity)
  have hmid : bits x p w < 2 ^ w := Nat.mod_lt _ (by positivity)
  generalize x % 2 ^ p = lo at hx hlow
  generalize bits x p w = mid at hx hmid ⊢
  generalize x / 2 ^ p / 2 ^ w = hi at hx
  have hnew : x - mid * 2 ^ p + v * 2 ^ p = 2 ^ p * (2 ^ w * hi + v) + lo := by
    have : x = mid * 2 ^ p + (2 ^ p * (2 ^ w * hi) + lo) := by rw [hx]; ring
    rw [this, Nat.add_sub_cancel_left]
    ring
  rw [hnew, hx, Nat.testBit_two_pow_mul_add _ hlow, Nat.testBit_two_pow_mul_add _ hlow]
  by_cases h1 : i < p
  · rw [if_pos h1, if_pos h1, if_neg (by omega)]
  · rw [if_neg h1, if_neg h1, Nat.testBit_two_pow_mul_add _ hv, Nat.testBit_two_pow_mul_add _ hmid]
    by_cases h2 : i - p < w
    · rw [if_pos h2, if_pos (by omega)]
    · rw [if_neg h2, if_neg h2, if_neg (by omega)]

/-- R315: bit `i` of a line whose poisoned words read 0x80 in every byte. -/
theorem poisonBytes_testBit (l : Line) (i : Nat) :
    (poisonBytes l).testBit i = if i < 1024 ∧ bits l.poison (i / 64) 1 = 1 then decide (i % 8 = 7) else l.data.testBit i := by
  have hword : ∀ j < 64, (0x8080808080808080 : Nat).testBit j = decide (j % 8 = 7) := by decide
  unfold poisonBytes
  have hrun := upTo_ind (P := fun w acc => ∀ i, acc.testBit i =
      if i < 64 * w ∧ bits l.poison (i / 64) 1 = 1 then decide (i % 8 = 7) else l.data.testBit i)
    (f := fun acc w => if bits l.poison w 1 = 1 then
      acc - bits acc (64 * w) 64 * 2 ^ (64 * w) + 0x8080808080808080 * 2 ^ (64 * w) else acc) (a := l.data)
    (fun i => by simp) 16 ?step
  · exact hrun i
  case step =>
    intro w _ acc hacc i
    have hi : 64 * w ≤ i ∧ i < 64 * w + 64 ↔ i / 64 = w := by omega
    split
    case isTrue hp =>
      rw [testBit_replace _ _ _ _ _ (by norm_num), hacc]
      by_cases hin : i / 64 = w
      · rw [if_pos (hi.2 hin), hword _ (by omega), if_pos ⟨by omega, by rw [hin]; exact hp⟩]
        exact decide_eq_decide.2 (by omega)
      · rw [if_neg (fun g => hin (hi.1 g))]
        have : i < 64 * w ↔ i < 64 * (w + 1) := by omega
        simp only [this]
    case isFalse hp =>
      rw [hacc]
      by_cases hin : i / 64 = w
      · rw [hin, if_neg (fun g => hp g.2), if_neg (fun g => hp g.2)]
      · have : i < 64 * w ↔ i < 64 * (w + 1) := by omega
        simp only [this]

/-- R315: byte `b` of such a line. -/
theorem poisonBytes_byte (l : Line) {b : Nat} (hb : b < 128) :
    poisonBytes l / 256 ^ b % 256 = if bits l.poison (b / 8) 1 = 1 then 0x80 else l.data / 256 ^ b % 256 := by
  have hpow : 256 ^ b = 2 ^ (8 * b) := by rw [pow_mul]; norm_num
  have h80 : ∀ j < 8, (0x80 : Nat).testBit j = decide (j = 7) := by decide
  refine Nat.eq_of_testBit_eq (fun j => ?_)
  rw [hpow, show (256 : Nat) = 2 ^ 8 from rfl, Nat.testBit_mod_two_pow, Nat.testBit_div_two_pow, poisonBytes_testBit]
  by_cases hj : j < 8
  · have hword : (j + 8 * b) / 64 = b / 8 := by omega
    have hbit : (j + 8 * b) % 8 = j := by omega
    rw [hword, hbit]
    by_cases hp : bits l.poison (b / 8) 1 = 1
    · rw [if_pos ⟨by omega, hp⟩, if_pos hp, h80 j hj]
      simp [hj]
    · rw [if_neg (fun g => hp g.2), if_neg hp, Nat.testBit_mod_two_pow, Nat.testBit_div_two_pow]
  · have hlt : (if bits l.poison (b / 8) 1 = 1 then 0x80 else l.data / 2 ^ (8 * b) % 2 ^ 8) < 2 ^ 8 := by split <;> omega
    rw [Nat.testBit_lt_two_pow (lt_of_lt_of_le hlt (Nat.pow_le_pow_right (by norm_num) (Nat.le_of_not_lt hj)))]
    simp [hj]

/-! ### MXEXP -/

/-- R36: memory after MXEXP. -/
theorem mxExp_mem (s : State) (c : CoreId) (xsel bank line : Nat) :
    (mxExp s c xsel bank line).mem = memWrite s.mem (xregBase c.site c.n xsel) 16 (poisonBytes (s.spLine c bank line)) 0 := by
  unfold mxExp State.put
  rw [noteSp_mem]

theorem mxExp_touches (s : State) (c : CoreId) (xsel bank line : Nat) : Touches (keysOf (coreP c) spFields) s (mxExp s c xsel bank line) :=
  (noteSp_touches (List.Subset.refl _) _ _ _ _).put _ _ _

theorem mxEffect_mxexp (s : State) (c : CoreId) (xsel : BitVec 1) (bank : BitVec 5) (line : BitVec 7) (rsv : BitVec 75) (t pc : Nat)
    (arr : ArrayUpset) : mxEffect s c (mxexpOf xsel bank line rsv) t pc arr = mxExp s c xsel.toNat bank.toNat line.toNat := by
  obtain ⟨_, hop, hx, hb, hl⟩ := mxexp_fields xsel bank line rsv
  unfold mxEffect
  simp only [hop, hx, hb, hl]

theorem Touches.quiet {ks : List Nat} {s u : State} {c : CoreId} {t : Nat} (h : Touches ks s u) (hq : Quiet s c t) : Quiet u c t := by
  unfold Quiet
  rw [h.site]
  exact hq

/-- Settles O16: R36 copies the bytes of the line, and R315 puts 0x80 for those of its poisoned words. -/
theorem exponentsStandInTheirRegister : Obligations.ExponentsStandInTheirRegister := by
  unfold Obligations.ExponentsStandInTheirRegister
  intro s c h xsel bank line rsv t hwf hq hi x a
  have hm : (atCycle s c.site t).mem = s.mem := rfl
  have htouch := mxExp_touches (atCycle s c.site t) c xsel.toNat bank.toNat line.toNat
  obtain ⟨u, hu, humem, hframe⟩ := mxRow_quiet hi (mxexp_fields xsel bank line rsv).1 {} (mxEffect_mxexp ..) (htouch.quiet (atCycle_quiet hq))
  rw [mxExp_mem] at humem
  refine ⟨u, hu, fun b hb => ?byte, fun y hy => ?beside, ?frame⟩
  case byte =>
    rw [humem, memByte_write, if_pos ⟨Nat.le_add_right _ _, Nat.add_lt_add_left hb _⟩, Nat.add_sub_cancel_left]
    exact (poisonBytes_byte _ hb).trans (by rw [← memRead_byte hwf hb]; rfl)
  case beside => rw [humem, memByte_write, if_neg (not_and_or.2 (by rcases hy with g | g <;> omega)), hm]
  case frame =>
    exact ((atCycle_frame c _ s t).trans (htouch.mono (keysOf_subset (List.subset_append_right _ _))).frame).trans
      (hframe.mono (keysOf_subset (List.subset_append_left _ _)))

end Sys2Proof.Machine
end

section
/-! PROOFS. MXLOAD (R33, R34, R40, R53): the lines of a tile in the buffer that it names, and what is shown of them. -/

namespace Sys2Proof.Machine

/-! ### Where the array's memories lie -/

theorem spAddr_mod (i n b l : Nat) : spAddr i n b l % 8 = 0 := by unfold spAddr coreBase siteBase; omega

theorem spLine_lt {s : State} (h : Memory.wf s.mem = true) (c : CoreId) (b l : Nat) : (s.spLine c b l).data < 256 ^ 128 := memRead_lt h _ _

theorem wbufBase_mod (i n x : Nat) : wbufBase i n x % 8 = 0 := by unfold wbufBase siteBase; omega

/-- R25, R28: the weight buffers and exponent registers of a site lie behind the windows of its cores. -/
def arrayBase (i : Nat) : Nat := siteBase i + 0x8200000000

theorem spAddr_lt {c : CoreId} (hc : c.n < 8) {b l : Nat} (hb : b < 32) (hl : l < 256) : spAddr c.site c.n b l + 128 ≤ arrayBase c.site := by
  unfold spAddr coreBase arrayBase; omega

theorem arrayBase_le_wbuf (i n x : Nat) : arrayBase i ≤ wbufBase i n x := by unfold arrayBase wbufBase; omega

theorem coreOk_n {c : CoreId} (h : coreOk c = true) : c.n < 8 := by
  unfold coreOk at h
  simp only [Bool.and_eq_true, decide_eq_true_eq] at h
  exact h.2

/-! ### Lines into a buffer -/

section
variable {β : Type} {c : CoreId} {f : State × β → Nat → State × β} {bank row dst : Nat → Nat} {n : Nat} {a : State × β}

/-- Steps that each copy the bytes of one scratchpad line to a place of its own behind the cores' windows. -/
theorem upTo_loadLines (hwf : Memory.wf a.1.mem = true)
    (hf : ∀ p i, (f p i).1 = (p.1.noteSp c (bank i) (row i) 0 16).put (dst i) 16 ⟨(p.1.spLine c (bank i) (row i)).data, 0⟩)
    (ha : ∀ i < n, dst i % 8 = 0) (hd : ∀ i < n, ∀ j < i, dst j + 128 ≤ dst i)
    (hs : ∀ i < n, ∀ j < n, spAddr c.site c.n (bank i) (row i) + 128 ≤ dst j) :
    SameWords (fun k => ∀ j < n, ¬ inBlock (dst j) 16 k) a.1.mem (upTo n f a).1.mem ∧
      ∀ i < n, Holds (upTo n f a).1.mem (dst i) 16 ⟨(a.1.spLine c (bank i) (row i)).data, 0⟩ := by
  refine upTo_writes (fun p : State × β => p.1.mem) hwf n ha (fun i hi j hj => Or.inl (hd i hi j hj)) (fun i hi hsame => ?_)
  have hread : ((upTo i f a).1.spLine c (bank i) (row i)).data = (a.1.spLine c (bank i) (row i)).data :=
    hsame.read (fun x h1 h2 j hj hin => by
      have := hs i hi j (by omega)
      have := ha j (by omega)
      unfold inBlock at hin
      omega)
  simp only [hf, hread, State.put, noteSp_mem]

theorem upTo_loadLines_touches
    (hf : ∀ p i, (f p i).1 = (p.1.noteSp c (bank i) (row i) 0 16).put (dst i) 16 ⟨(p.1.spLine c (bank i) (row i)).data, 0⟩) :
    Touches (keysOf (coreP c) spFields) a.1 (upTo n f a).1 :=
  upTo_ind (P := fun _ (p : State × β) => Touches (keysOf (coreP c) spFields) a.1 p.1) (a := a) (Touches.refl _ _) n (fun i _ p hp => by
    rw [hf]
    exact hp.trans ((noteSp_touches (List.Subset.refl _) _ _ _ _).put _ _ _))

end

/-! ### A tile -/

/-- R33, R34: the scratchpad bank and line of line `i` of a stream over quad `q` from line `off`. -/
def streamBank (q i : Nat) : Nat := 4 * q + i % 4
def streamRow (off i : Nat) : Nat := off + i / 4

/-- R33: data line `i` of a tile goes into the buffer at `wb`. -/
def loadData (c : CoreId) (wb mode dq doff : Nat) (p : State × Nat × Nat) (i : Nat) : State × Nat × Nat :=
  let ln := p.1.spLine c (streamBank dq i) (streamRow doff i)
  let w2t := if mode = 2 then w2tGroups ln.data else 0
  ((p.1.noteSp c (streamBank dq i) (streamRow doff i) 0 16).put (wb + 128 * i) 16 ⟨ln.data, 0⟩,
    p.2.1 ||| lineGroups mode i ln.poison ||| w2t, p.2.2 ||| w2t)

/-- R34: side line `k` of a tile goes into the buffer at `wb`. -/
def loadSide (c : CoreId) (wb sq soff : Nat) (p : State × Nat × Nat) (k : Nat) : State × Nat × Nat :=
  let ln := p.1.spLine c (streamBank sq k) (streamRow soff k)
  ((p.1.noteSp c (streamBank sq k) (streamRow soff k) 0 16).put (wb + 0x4000 + 128 * k) 16 ⟨ln.data, 0⟩,
    if ln.poison = 0 then p.2.1 else 0xFF, p.2.2)

theorem loadData_state (c : CoreId) (wb mode dq doff : Nat) (p : State × Nat × Nat) (i : Nat) : (loadData c wb mode dq doff p i).1 =
    (p.1.noteSp c (streamBank dq i) (streamRow doff i) 0 16).put (wb + 128 * i) 16 ⟨(p.1.spLine c (streamBank dq i) (streamRow doff i)).data, 0⟩ :=
  rfl

theorem loadSide_state (c : CoreId) (wb sq soff : Nat) (p : State × Nat × Nat) (k : Nat) : (loadSide c wb sq soff p k).1 =
    (p.1.noteSp c (streamBank sq k) (streamRow soff k) 0 16).put (wb + 0x4000 + 128 * k) 16
      ⟨(p.1.spLine c (streamBank sq k) (streamRow soff k)).data, 0⟩ := rfl

theorem loadTile_eq (s : State) (c : CoreId) (x mode dq doff sq soff fine : Nat) : loadTile s c x mode dq doff sq soff fine =
    upTo (sideLines mode fine) (loadSide c (wbufBase c.site c.n x) sq soff)
      (upTo 128 (loadData c (wbufBase c.site c.n x) mode dq doff) (s, 0, 0)) := rfl

theorem sideLines_le {mode fine : Nat} (h : fine < 2) : sideLines mode fine ≤ 34 := by unfold sideLines; split <;> omega

/-- Scratchpad lines of a stream end before the buffers. -/
theorem streamLine_le {c : CoreId} (hc : c.n < 8) {q off : Nat} (hq : q < 8) (ho : off < 128) {i : Nat} (hi : i < 128) (x : Nat) :
    spAddr c.site c.n (streamBank q i) (streamRow off i) + 128 ≤ wbufBase c.site c.n x :=
  (spAddr_lt hc (by unfold streamBank; omega) (by unfold streamRow; omega)).trans (arrayBase_le_wbuf ..)

/-- Memory `m` holds a tile of `s` in the buffer at `wb`, and beside that the bytes of `s`. -/
structure TileIn (s : State) (c : CoreId) (wb mode dq doff sq soff fine : Nat) (m : Mem) : Prop where
  wf : Memory.wf m = true
  data : ∀ i < 128, memRead m (wb + 128 * i) 128 = (s.spLine c (streamBank dq i) (streamRow doff i)).data
  side : ∀ k < sideLines mode fine, memRead m (wb + 0x4000 + 128 * k) 128 = (s.spLine c (streamBank sq k) (streamRow soff k)).data
  beside : ∀ y, besideMem wb (0x4000 + 128 * sideLines mode fine) y → memByte m y = memByte s.mem y

section
variable {s : State} {c : CoreId} {x mode dq doff sq soff fine : Nat}

/-- R33: the data lines of a tile in its buffer. -/
theorem loadData_holds (hwf : Memory.wf s.mem = true) (hc : c.n < 8) (hdq : dq < 8) (hdo : doff < 128) {n : Nat} (hn : n ≤ 128) :
    SameWords (fun k => ∀ j < n, ¬ inBlock (wbufBase c.site c.n x + 128 * j) 16 k) s.mem
        (upTo n (loadData c (wbufBase c.site c.n x) mode dq doff) (s, 0, 0)).1.mem ∧
      ∀ i < n, Holds (upTo n (loadData c (wbufBase c.site c.n x) mode dq doff) (s, 0, 0)).1.mem (wbufBase c.site c.n x + 128 * i) 16
        ⟨(s.spLine c (streamBank dq i) (streamRow doff i)).data, 0⟩ := by
  have hwb := wbufBase_mod c.site c.n x
  refine upTo_loadLines (a := (s, 0, 0)) hwf (loadData_state _ _ _ _ _) (fun i _ => by omega) (fun i _ j _ => by omega) (fun i hi j _ => ?_)
  exact (streamLine_le hc hdq hdo (by omega) x).trans (Nat.le_add_right _ _)

/-- R40: a code that W2T leaves unused is found where a data line of a W2T tile holds one. -/
theorem loadData_w2t (hwf : Memory.wf s.mem = true) (hc : c.n < 8) (hdq : dq < 8) (hdo : doff < 128) {n : Nat} (hn : n ≤ 128) :
    (upTo n (loadData c (wbufBase c.site c.n x) mode dq doff) (s, 0, 0)).2.2 = 0 ↔
      ∀ i < n, mode = 2 → w2tGroups (s.spLine c (streamBank dq i) (streamRow doff i)).data = 0 := by
  induction n with
  | zero => exact ⟨fun _ i hi => absurd hi (Nat.not_lt_zero i), fun _ => rfl⟩
  | succ n ih =>
    have hsame := (loadData_holds (x := x) (mode := mode) hwf hc hdq hdo (show n ≤ 128 by omega)).1
    have hline := streamLine_le hc hdq hdo (show n < 128 by omega) x
    have hread : ((upTo n (loadData c (wbufBase c.site c.n x) mode dq doff) (s, 0, 0)).1.spLine c (streamBank dq n) (streamRow doff n)).data =
        (s.spLine c (streamBank dq n) (streamRow doff n)).data := hsame.read (fun y _ h2 j _ hin => by
      have := wbufBase_mod c.site c.n x
      unfold inBlock at hin
      omega)
    rw [upTo_succ, loadData]
    simp only [hread, Nat.or_eq_zero_iff, ih (by omega), Nat.forall_lt_succ_right, and_congr_right_iff]
    intro _
    by_cases h : mode = 2 <;> simp [h]

/-- R33, R34: what a tile leaves in its buffer: both kinds of lines, and nothing beside them. -/
theorem loadTile_mem (hwf : Memory.wf s.mem = true) (hc : c.n < 8) (hdq : dq < 8) (hdo : doff < 128) (hsq : sq < 8) (hso : soff < 128)
    (hfine : fine < 2) :
    TileIn s c (wbufBase c.site c.n x) mode dq doff sq soff fine (loadTile s c x mode dq doff sq soff fine).1.mem := by
  have hwb := wbufBase_mod c.site c.n x
  have hside := sideLines_le (mode := mode) hfine
  have hline : ∀ q off i, q < 8 → off < 128 → i < 128 → spAddr c.site c.n (streamBank q i) (streamRow off i) + 128 ≤ wbufBase c.site c.n x :=
    fun q off i hq ho hi => streamLine_le hc hq ho hi x
  have hdata := loadData_holds (x := x) (mode := mode) hwf hc hdq hdo (le_refl 128)
  rw [loadTile_eq]
  generalize wbufBase c.site c.n x = wb at *
  generalize upTo 128 (loadData c wb mode dq doff) (s, 0, 0) = r at *
  obtain ⟨hsame1, hold1⟩ := hdata
  obtain ⟨hsame2, hold2⟩ := upTo_loadLines (c := c) (f := loadSide c wb sq soff) (bank := streamBank sq) (row := streamRow soff)
    (dst := fun k => wb + 0x4000 + 128 * k) (n := sideLines mode fine) (a := r) hsame1.wf (loadSide_state c wb sq soff) (fun i _ => by omega)
    (fun i _ j _ => by omega) (fun i hi j _ => by have := hline sq soff i hsq hso (by omega); omega)
  refine ⟨hsame2.wf, fun i hi => ?data, fun k hk => ?side, fun y hy => ?beside⟩
  case data =>
    have hold := (hold1 i hi).keep hsame2 (by omega) (fun k hk j _ hin => by unfold inBlock at hk hin; omega)
    exact hold.read hsame2.wf rfl (spLine_lt hwf ..)
  case side =>
    have hread : r.1.spLine c (streamBank sq k) (streamRow soff k) = s.spLine c (streamBank sq k) (streamRow soff k) := by
      have hend := hline sq soff k hsq hso (by omega)
      exact hsame1.spLine (fun w hw j _ hin => by unfold inBlock at hw hin; omega)
    rw [(hold2 k hk).read hsame2.wf rfl (spLine_lt hsame1.wf ..), hread]
  case beside =>
    have hb1 := hsame1.byte y (fun j hj hin => by unfold inBlock at hin; rcases hy with g | g <;> omega)
    have hb2 := hsame2.byte y (fun j hj hin => by unfold inBlock at hin; rcases hy with g | g <;> omega)
    exact hb2.trans hb1

theorem loadTile_touches : Touches (keysOf (coreP c) spFields) s (loadTile s c x mode dq doff sq soff fine).1 :=
  (upTo_loadLines_touches (a := (s, 0, 0)) (f := loadData c (wbufBase c.site c.n x) mode dq doff) (loadData_state _ _ _ _ _)).trans
    (upTo_loadLines_touches (f := loadSide c (wbufBase c.site c.n x) sq soff) (loadSide_state _ _ _ _))

theorem loadTile_w2t (hwf : Memory.wf s.mem = true) (hc : c.n < 8) (hdq : dq < 8) (hdo : doff < 128) :
    (loadTile s c x mode dq doff sq soff fine).2.2 = 0 ↔
      ∀ i < 128, mode = 2 → w2tGroups (s.spLine c (streamBank dq i) (streamRow doff i)).data = 0 := by
  rw [loadTile_eq, ← loadData_w2t (x := x) hwf hc hdq hdo (le_refl 128)]
  exact upTo_ind (P := fun _ (p : State × Nat × Nat) => p.2.2 = 0 ↔ (upTo 128 (loadData c (wbufBase c.site c.n x) mode dq doff) (s, 0, 0)).2.2 = 0)
    Iff.rfl _ (fun _ _ _ h => h)

end

/-! ### What is shown of the buffer -/

/-- R58: the registers of buffer `x`. -/
def bufValid (x : Nat) : Fld := if x = 0 then Reg.Co.BUF_A_VALID else Reg.Co.BUF_B_VALID
def bufModeFld (x : Nat) : Fld := if x = 0 then Reg.Co.BUF_A_MODE else Reg.Co.BUF_B_MODE

/-- R53: MXLOAD in the terms of its tile. -/
theorem mxEffect_mxload (s : State) (c : CoreId) (wbuf : BitVec 1) (wmode dq : BitVec 3) (doff : BitVec 7) (sq : BitVec 3) (soff : BitVec 7)
    (fine : BitVec 1) (rsv : BitVec 63) (t pc : Nat) (arr : ArrayUpset) :
    let r := loadTile s c wbuf.toNat wmode.toNat dq.toNat doff.toNat sq.toNat soff.toNat fine.toNat
    ∃ k k' : Core, mxEffect s c (mxloadOf wbuf wmode dq doff sq soff fine rsv) t pc arr =
      ((((if r.2.2 = 0 then r.1.setCore c k else (r.1.setCore c k).setBit (coreP c) Reg.Co.W2T_CODE).setBit (coreP c)
        (bufValid wbuf.toNat)).wr (coreP c) (bufModeFld wbuf.toNat) wmode.toNat)).setCore c k' := by
  obtain ⟨_, hop, hx, hm, hdq, hdo, hsq, hso, hf⟩ := mxload_fields wbuf wmode dq doff sq soff fine rsv
  unfold mxEffect
  simp only [hop, hx, hm, hdq, hdo, hsq, hso, hf]
  unfold mxLoad bufValid bufModeFld
  generalize loadTile s c wbuf.toNat wmode.toNat dq.toNat doff.toNat sq.toNat soff.toNat fine.toNat = r
  obtain ⟨v, bad, w2t⟩ := r
  by_cases h : wbuf.toNat = 0
  · simp only [h, if_true]; exact ⟨_, _, rfl⟩
  · simp only [h, if_false]; exact ⟨_, _, rfl⟩

/-- What MXLOAD leaves, beside its tile: the buffer's registers, and the frame. -/
structure TileShown (s : State) (c : CoreId) (wbuf wmode w2t : Nat) (r v : State) : Prop where
  mem : v.mem = r.mem
  sites : v.sites = s.sites
  valid : v.rd (coreP c) (bufValid wbuf) = 1
  mode : v.rd (coreP c) (bufModeFld wbuf) = wmode
  code : v.rd (coreP c) Reg.Co.W2T_CODE = if w2t = 0 then s.rd (coreP c) Reg.Co.W2T_CODE else 1
  frame : CoreFrame c (keysOf (coreP c) (spFields ++ [bufValid wbuf, bufModeFld wbuf, Reg.Co.W2T_CODE])) s v

/-- The fields of both buffers lie apart from each other and from the other fields of MXLOAD's row. -/
theorem bufFields_apart (x : Nat) (p : Nat) :
    fldKey p (bufModeFld x) ≠ fldKey p (bufValid x) ∧ fldKey p (bufModeFld x) ≠ fldKey p Reg.Co.W2T_CODE ∧
      fldKey p (bufValid x) ≠ fldKey p Reg.Co.W2T_CODE ∧ fldKey p (bufValid x) ∉ keysOf p seqFields ∧
      fldKey p (bufModeFld x) ∉ keysOf p seqFields := by
  unfold bufModeFld bufValid
  split <;> exact ⟨fldKey_ne rfl (by decide), fldKey_ne rfl (by decide), fldKey_ne rfl (by decide), fldKey_not_mem (by decide), fldKey_not_mem (by decide)⟩

theorem tileShown {s r : State} {c : CoreId} (wbuf w2t : Nat) {wmode : Nat} (k k' : Core) (hw : wmode < 8)
    (ht : Touches (keysOf (coreP c) spFields) s r) :
    TileShown s c wbuf wmode w2t r (((((if w2t = 0 then r.setCore c k else (r.setCore c k).setBit (coreP c) Reg.Co.W2T_CODE).setBit (coreP c)
      (bufValid wbuf)).wr (coreP c) (bufModeFld wbuf) wmode)).setCore c k') := by
  obtain ⟨hmv, hmc, hvc, _, _⟩ := bufFields_apart wbuf (coreP c)
  have hmodeW : (bufModeFld wbuf).w = 3 := by unfold bufModeFld; split <;> rfl
  have hvalidW : (bufValid wbuf).w = 1 := by unfold bufValid; split <;> rfl
  have hmem : ∀ f ∈ [bufValid wbuf, bufModeFld wbuf, Reg.Co.W2T_CODE],
      fldKey (coreP c) f ∈ keysOf (coreP c) (spFields ++ [bufValid wbuf, bufModeFld wbuf, Reg.Co.W2T_CODE]) :=
    fun f hf => keysOf_mem (List.mem_append_right _ hf)
  constructor
  case mem => simp only [State.setBit, State.setCore_mem, State.wr_mem]; split <;> rfl
  case sites => simp only [State.setBit, State.setCore_sites, State.wr_sites]; split <;> exact ht.sites
  case valid =>
    rw [State.rd_setCore, State.rd_wr_ne _ _ _ _ _ _ hmv, State.setBit, State.rd_wr_same, hvalidW]
    rfl
  case mode => rw [State.rd_setCore, State.rd_wr_same, hmodeW]; exact Nat.mod_eq_of_lt hw
  case code =>
    rw [State.rd_setCore, State.rd_wr_ne _ _ _ _ _ _ hmc, State.setBit, State.rd_wr_ne _ _ _ _ _ _ hvc]
    split
    · rw [State.rd_setCore]
      exact ht.regs.rd _ _ (fldKey_not_mem (by decide))
    · exact State.rd_wr_same ..
  case frame =>
    have hr := (ht.mono (keysOf_subset (List.subset_append_left _ _))).frame (c := c)
      (ks := keysOf (coreP c) (spFields ++ [bufValid wbuf, bufModeFld wbuf, Reg.Co.W2T_CODE]))
    have hcode := CoreFrame.ite (p := w2t = 0) (hr.setCore k) ((hr.setCore k).setBit (hmem Reg.Co.W2T_CODE (by simp)))
    exact ((hcode.setBit (hmem (bufValid wbuf) (by simp))).wr (hmem (bufModeFld wbuf) (by simp))).setCore k'

theorem bitVec1_zero_iff (x : BitVec 1) : x = 0 ↔ x.toNat = 0 := by rw [← BitVec.toNat_inj]; rfl

/-- Settles O15: R33 and R34 for the lines of both kinds, R53 for the buffer's registers, R40 for the unused code. -/
theorem tilesStandInTheirBuffer : Obligations.TilesStandInTheirBuffer := by
  unfold Obligations.TilesStandInTheirBuffer
  intro s c h wbuf wmode dq doff sq soff fine rsv t hwf hq hi wb valid mode line
  have hvalid : valid = bufValid wbuf.toNat := if_congr (bitVec1_zero_iff wbuf) rfl rfl
  have hmode : mode = bufModeFld wbuf.toNat := if_congr (bitVec1_zero_iff wbuf) rfl rfl
  have hc := coreOk_n hi.core
  have htile := loadTile_mem (s := atCycle s c.site t) (c := c) (x := wbuf.toNat) (mode := wmode.toNat) hwf hc dq.isLt doff.isLt sq.isLt
    soff.isLt fine.isLt
  have hw2t := loadTile_w2t (s := atCycle s c.site t) (x := wbuf.toNat) (mode := wmode.toNat) (sq := sq.toNat) (soff := soff.toNat)
    (fine := fine.toNat) hwf hc dq.isLt doff.isLt
  have htouch := loadTile_touches (s := atCycle s c.site t) (c := c) (x := wbuf.toNat) (mode := wmode.toNat) (dq := dq.toNat)
    (doff := doff.toNat) (sq := sq.toNat) (soff := soff.toNat) (fine := fine.toNat)
  obtain ⟨k, k', heff⟩ := mxEffect_mxload (atCycle s c.site t) c wbuf wmode dq doff sq soff fine rsv t (s.core c).nextPc {}
  have hshown := tileShown wbuf.toNat (loadTile (atCycle s c.site t) c wbuf.toNat wmode.toNat dq.toNat doff.toNat sq.toNat soff.toNat
    fine.toNat).2.2 k k' wmode.isLt htouch
  rw [← heff] at hshown
  generalize loadTile (atCycle s c.site t) c wbuf.toNat wmode.toNat dq.toNat doff.toNat sq.toNat soff.toNat fine.toNat = r at htile hw2t hshown
  have hquiet : Quiet (mxEffect (atCycle s c.site t) c (mxloadOf wbuf wmode dq doff sq soff fine rsv) t (s.core c).nextPc {}) c t := by
    unfold Quiet State.site
    rw [hshown.sites]
    exact atCycle_quiet hq
  obtain ⟨u, hu, humem, hframe⟩ := mxRow_quiet hi (mxload_fields wbuf wmode dq doff sq soff fine rsv).1 {} rfl hquiet
  obtain ⟨_, _, _, hvseq, hmseq⟩ := bufFields_apart wbuf.toNat (coreP c)
  rw [hshown.mem] at humem
  rw [hvalid, hmode]
  refine ⟨u, hu, ?data, ?side, ?valid, ?mode, ?code, ?beside, ?frame⟩
  case data => rw [humem]; exact htile.data
  case side => rw [humem]; exact htile.side
  case valid => rw [hframe.regs.rd _ _ hvseq]; exact hshown.valid
  case mode => rw [hframe.regs.rd _ _ hmseq]; exact hshown.mode
  case code =>
    rw [hframe.regs.rd _ _ (fldKey_not_mem (by decide)), hshown.code]
    have hiff : (r.2.2 = 0) ↔ ¬ (wmode = 2 ∧ (List.range 128).any (fun i => w2tGroups (line i) != 0) = true) := by
      have h2 : wmode.toNat = 2 ↔ wmode = 2 := by rw [← BitVec.toNat_inj]; rfl
      rw [hw2t, h2]
      simp only [List.any_eq_true, List.mem_range, bne_iff_ne, not_and, not_exists, ne_eq, not_not]
      exact ⟨fun g e i hlt => g i hlt e, fun g i hlt e => g e i hlt⟩
    by_cases h0 : r.2.2 = 0
    · rw [if_pos h0, if_neg (hiff.1 h0)]; rfl
    · rw [if_neg h0, if_pos (not_not.1 (fun g => h0 (hiff.2 g)))]
  case beside => rw [humem]; exact htile.beside
  case frame =>
    refine ((atCycle_frame c _ s t).trans (hshown.frame.mono ?_)).trans (hframe.mono ?_)
    · rw [List.append_assoc]
      exact keysOf_subset (List.subset_append_right _ _)
    · rw [List.append_assoc]
      exact keysOf_subset (List.subset_append_left _ _)

end Sys2Proof.Machine
end

section
/-! PROOFS. MXDRAIN (R50, R55): the slots that it reads, the lines that it writes, and the slots that it clears. -/

namespace Sys2Proof.Machine

/-! ### Slots -/

theorem slotAddr_mod (c : CoreId) (m : Nat) : slotAddr c m % 8 = 0 := by unfold slotAddr accBase coreBase siteBase; omega

theorem slotAddr_add (c : CoreId) (m k : Nat) : slotAddr c (m + k) = slotAddr c m + 2048 * k := by unfold slotAddr; omega

/-- R25, R28: the slots of a core lie behind its scratchpad lines. -/
theorem spAddr_le_slot (c : CoreId) {b l : Nat} (hb : b < 32) (hl : l < 256) (m : Nat) : spAddr c.site c.n b l + 128 ≤ slotAddr c m := by
  unfold spAddr slotAddr accBase; omega

theorem slotAddr_le_array {c : CoreId} (hc : c.n < 8) {m : Nat} (hm : m < 256) : slotAddr c m + 2048 ≤ arrayBase c.site := by
  unfold slotAddr accBase coreBase arrayBase; omega

theorem upTo_congr {α : Type} {f g : α → Nat → α} {n : Nat} (a : α) (h : ∀ i < n, ∀ x, f x i = g x i) : upTo n f a = upTo n g a := by
  induction n with
  | zero => rfl
  | succ n ih => rw [upTo_succ, upTo_succ, ih (fun i hi => h i (by omega)), h n (by omega)]

/-- R45: what a slot counts as poisoned is found from its words. -/
theorem SameWords.slotBad {W : Nat → Prop} {s t : State} (h : SameWords W s.mem t.mem) (c : CoreId) (m : Nat)
    (hw : ∀ i, inBlock (slotAddr c m) 256 i → W i) : slotBad t c m = slotBad s c m := by
  have hpoison : slotPoison t c m = slotPoison s c m :=
    upTo_congr _ (fun g hg x => by rw [h.poison _ (hw _ ⟨by omega, by omega⟩)])
  have hue : marksGet t.mem.ue (slotAddr c m / 8) 256 = marksGet s.mem.ue (slotAddr c m / 8) 256 :=
    marksGet_congr (Memory.wf_iff.1 h.wf).2.2.2 (Memory.wf_iff.1 h.wfs).2.2.2 (fun i hi => h.ue _ (hw _ ⟨by omega, by omega⟩))
  unfold Sys2Proof.Machine.slotBad noteSlot
  simp only [hpoison, hue]

theorem noteSlot_mem (s : State) (c : CoreId) (m : Nat) : (noteSlot s c m).1.mem = s.mem := (noteSlot_memIs s c m (MemIs.refl s)).mem

theorem noteSlot_touches (s : State) (c : CoreId) (m : Nat) : Touches (keysOf (coreP c) mxFields) s (noteSlot s c m).1 := by
  unfold noteSlot
  extract_lets w ce ue p s1 s2
  have h1 : Touches (keysOf (coreP c) mxFields) s s1 :=
    Touches.ite (Touches.refl _ _) ((Touches.refl _ _).note (keysOf_mem (by decide)) (keysOf_mem (by decide)))
  exact Touches.ite h1 (h1.setBit (keysOf_mem (by decide)))

/-! ### Lines of a slot -/

/-- R50: lines that a slot drains to. -/
def drainPer (fmt : Nat) : Nat := if fmt = 0 then 16 else 8

/-- R50: drain line `j` of a slot of codes `codes` with bad groups `bad`. -/
def drainLine (fmt codes bad j : Nat) : Line :=
  ⟨if fmt = 0 then bits codes (1024 * j) 1024 else drainBf16 codes (64 * j), if bits bad (if fmt = 0 then j / 2 else j) 1 = 1 then 0xFFFF else 0⟩

/-- R32, R50: the place of drain line `i`. -/
def drainOut (c : CoreId) (dq doff i : Nat) : Nat := spAddr c.site c.n (streamBank dq i) (streamRow doff i)

theorem drainSlot_eq (s : State) (c : CoreId) (fmt m dq doff i0 : Nat) : drainSlot s c fmt m dq doff i0 =
    upTo (drainPer fmt) (fun v j => v.put (drainOut c dq doff (i0 + j)) 16 (drainLine fmt (memRead s.mem (slotAddr c m) 2048) (slotBad s c m) j))
      (noteSlot s c m).1 := by
  have hp : slotPoison (noteSlot s c m).1 c m = slotPoison s c m := by unfold slotPoison; rw [noteSlot_mem]
  unfold drainSlot
  simp only [noteSlot_mem, hp]
  rfl

/-- Digits below a power, one more put on top. -/
theorem add_digit_lt {x v w k : Nat} (hx : x < 2 ^ (w * k)) (hv : v < 2 ^ w) : x + v * 2 ^ (w * k) < 2 ^ (w * (k + 1)) := by
  have : (v + 1) * 2 ^ (w * k) ≤ 2 ^ w * 2 ^ (w * k) := Nat.mul_le_mul_right _ hv
  rw [Nat.mul_succ, pow_add, Nat.mul_comm (2 ^ (w * k))]
  linarith

/-- R69: a magnitude that does not overflow has the code of a finite one. -/
theorem roundFp_le {f : Fp} {r : Rnd} {m : Nat} {e : Int} (h : ¬ (roundFp f r m e).ovf = true) : (roundFp f r m e).code ≤ f.maxFin := by
  unfold roundFp at h ⊢
  by_cases hm : m = 0
  · rw [if_pos hm]
    exact Nat.zero_le _
  · rw [if_neg hm] at h ⊢
    simpa using h

theorem withSign_bytes {f : Fp} {n : Bool} {m : Nat} (hm : m < f.signBit) : f.withSign n m < 256 ^ f.bytes := by
  have : 2 * f.signBit = 256 ^ f.bytes := by cases f <;> decide
  unfold Fp.withSign
  split <;> omega

/-- R71: a converted element has a code of its format's width. -/
theorem convFp_lt (f : Fp) (r : Rnd) (nov : Bool) (v : Val) : (convFp f r nov v).pieces.headD 0 < 256 ^ f.bytes := by
  have hnan : f.nan < 256 ^ f.bytes := by cases f <;> decide
  have hfin : f.maxFin < f.signBit := by cases f <;> decide
  have hinf : f.infCode < f.signBit := by cases f <;> decide
  have hlim : ∀ n : Bool, (if nov then (⟨[f.nan], true⟩ : ConvRes) else ⟨[f.withSign n f.maxFin], true⟩).pieces.headD 0 < 256 ^ f.bytes := by
    intro n
    split
    · exact hnan
    · exact withSign_bytes hfin
  unfold convFp
  cases v with
  | nan => exact hnan
  | inf n =>
    dsimp only
    split
    · exact withSign_bytes hinf
    · exact hlim n
  | zero n => exact withSign_bytes (lt_of_le_of_lt (Nat.zero_le _) hfin)
  | fin n m e =>
    dsimp only
    split
    · exact hlim n
    · rename_i h
      exact withSign_bytes (lt_of_le_of_lt (roundFp_le h) hfin)

theorem drainBf16_lt (codes n0 : Nat) : drainBf16 codes n0 < 2 ^ 1024 := by
  rw [show 1024 = 16 * 64 from rfl]
  exact upTo_ind (P := fun k acc => acc < 2 ^ (16 * k)) (by norm_num) 64 (fun _ _ _ h => add_digit_lt h (convFp_lt .bf16 ..))

theorem drainLine_lt (fmt codes bad j : Nat) : (drainLine fmt codes bad j).data < 256 ^ 128 ∧ (drainLine fmt codes bad j).poison < 2 ^ 16 := by
  have hp : (256 : Nat) ^ 128 = 2 ^ 1024 := by rw [show 256 = 2 ^ 8 from rfl, ← pow_mul]
  unfold drainLine
  refine ⟨?_, ?_⟩
  · rw [hp]
    dsimp only
    split
    · exact Nat.mod_lt _ (by positivity)
    · exact drainBf16_lt _ _
  · have hmark : ∀ (b : Prop) [Decidable b], (if b then 0xFFFF else 0) < 2 ^ 16 := fun b _ => by split <;> norm_num
    exact hmark _

section
variable {s : State} {c : CoreId} {fmt slot dq doff : Nat}

/-- R32: the lines of a stream that stays in its quad lie apart. -/
theorem drainOut_apart {i j : Nat} (hi : streamRow doff i < 128) (hj : streamRow doff j < 128) (hne : i ≠ j) :
    drainOut c dq doff i + 128 ≤ drainOut c dq doff j ∨ drainOut c dq doff j + 128 ≤ drainOut c dq doff i := by
  unfold drainOut spAddr streamBank
  unfold streamRow at *
  omega

theorem drainOut_le_slot (hdq : dq < 8) {i : Nat} (hi : streamRow doff i < 128) (m : Nat) : drainOut c dq doff i + 128 ≤ slotAddr c m :=
  spAddr_le_slot c (by unfold streamBank; omega) (by omega) m

/-- R50: one slot's drain lines. -/
theorem drainSlot_holds (hwf : Memory.wf s.mem = true) (m i0 : Nat) (hrow : ∀ j < drainPer fmt, streamRow doff (i0 + j) < 128) :
    SameWords (fun k => ∀ j < drainPer fmt, ¬ inBlock (drainOut c dq doff (i0 + j)) 16 k) s.mem (drainSlot s c fmt m dq doff i0).mem ∧
      ∀ j < drainPer fmt, Holds (drainSlot s c fmt m dq doff i0).mem (drainOut c dq doff (i0 + j)) 16
        (drainLine fmt (memRead s.mem (slotAddr c m) 2048) (slotBad s c m) j) := by
  have h := upTo_writes State.mem (f := fun v j => v.put (drainOut c dq doff (i0 + j)) 16
      (drainLine fmt (memRead s.mem (slotAddr c m) 2048) (slotBad s c m) j)) (x := (noteSlot s c m).1) (w := 16)
    (dst := fun j => drainOut c dq doff (i0 + j)) (val := drainLine fmt (memRead s.mem (slotAddr c m) 2048) (slotBad s c m))
    (by rw [noteSlot_mem]; exact hwf) (drainPer fmt) (fun _ _ => spAddr_mod ..)
    (fun i hi j hj => drainOut_apart (hrow j (hj.trans hi)) (hrow i hi) (by omega)) (fun _ _ _ => rfl)
  rw [noteSlot_mem] at h
  rw [drainSlot_eq]
  exact h

theorem drainSlot_touches (m i0 : Nat) : Touches (keysOf (coreP c) mxFields) s (drainSlot s c fmt m dq doff i0) := by
  rw [drainSlot_eq]
  exact Touches.upTo (fun _ _ h => h.put _ _ _) (noteSlot_touches s c m)

/-- R50: the drain lines of several slots. -/
theorem drainSlots_hold (hwf : Memory.wf s.mem = true) (hdq : dq < 8) (n : Nat) (hrow : ∀ i < drainPer fmt * n, streamRow doff i < 128) :
    let r := upTo n (fun v q => drainSlot v c fmt (slot + q) dq doff (drainPer fmt * q)) s
    SameWords (fun k => ∀ i < drainPer fmt * n, ¬ inBlock (drainOut c dq doff i) 16 k) s.mem r.mem ∧
      ∀ q < n, ∀ j < drainPer fmt, Holds r.mem (drainOut c dq doff (drainPer fmt * q + j)) 16
        (drainLine fmt (memRead s.mem (slotAddr c (slot + q)) 2048) (slotBad s c (slot + q)) j) := by
  induction n with
  | zero => exact ⟨SameWords.refl hwf, fun q hq => absurd hq (Nat.not_lt_zero q)⟩
  | succ n ih =>
    have hsplit : drainPer fmt * (n + 1) = drainPer fmt * n + drainPer fmt := by ring
    obtain ⟨hsame, hold⟩ := ih (fun i hi => hrow i (by omega))
    intro r
    have hr : r = drainSlot (upTo n (fun v q => drainSlot v c fmt (slot + q) dq doff (drainPer fmt * q)) s) c fmt (slot + n) dq doff
        (drainPer fmt * n) := upTo_succ ..
    clear_value r
    generalize upTo n (fun v q => drainSlot v c fmt (slot + q) dq doff (drainPer fmt * q)) s = v at *
    have hslot : ∀ k, inBlock (slotAddr c (slot + n)) 256 k → ∀ i < drainPer fmt * n, ¬ inBlock (drainOut c dq doff i) 16 k := by
      intro k hk i hi hin
      have := drainOut_le_slot (c := c) hdq (hrow i (by omega)) (slot + n)
      unfold inBlock at hk hin
      omega
    have hmod := slotAddr_mod c (slot + n)
    have hcodes : memRead v.mem (slotAddr c (slot + n)) 2048 = memRead s.mem (slotAddr c (slot + n)) 2048 :=
      hsame.read (fun x h1 h2 => hslot _ ⟨by omega, by omega⟩)
    obtain ⟨hsame2, hold2⟩ := drainSlot_holds (c := c) (fmt := fmt) (dq := dq) (doff := doff) hsame.wf (slot + n) (drainPer fmt * n)
      (fun j hj => hrow _ (by omega))
    rw [hcodes, hsame.slotBad c (slot + n) hslot, ← hr] at hold2
    rw [← hr] at hsame2
    refine ⟨(hsame.mono (fun k hk i hi => hk i (by omega))).trans (hsame2.mono (fun k hk j hj => hk _ (by omega))), fun q hq j hj => ?_⟩
    rcases Nat.lt_succ_iff_lt_or_eq.1 hq with hlt | rfl
    · have hle : drainPer fmt * (q + 1) ≤ drainPer fmt * n := Nat.mul_le_mul_left _ hlt
      have hq1 : drainPer fmt * (q + 1) = drainPer fmt * q + drainPer fmt := by ring
      refine (hold q hlt j hj).keep hsame2 (spAddr_mod ..) (fun k hk i hi hin => ?_)
      have := drainOut_apart (c := c) (dq := dq) (hrow (drainPer fmt * q + j) (by omega)) (hrow (drainPer fmt * n + i) (by omega)) (by omega)
      have h1 : drainOut c dq doff (drainPer fmt * q + j) % 8 = 0 := spAddr_mod ..
      have h2 : drainOut c dq doff (drainPer fmt * n + i) % 8 = 0 := spAddr_mod ..
      unfold inBlock at hk hin
      omega
    · exact hold2 j hj

/-! ### Clears -/

/-- R55: the slots of a clearing drain: those to keep stand, the others are zero. -/
theorem clearSlots_read (keep : List Nat) (hwf : Memory.wf s.mem = true) (n : Nat) :
    let r := upTo n (fun v q => if keep.contains (slot + q) then v else v.put (slotAddr c (slot + q)) 256 ⟨0, 0⟩) s
    SameWords (fun k => ∀ q < n, ¬ inBlock (slotAddr c (slot + q)) 256 k) s.mem r.mem ∧
      ∀ q, memRead r.mem (slotAddr c (slot + q)) 2048 =
        if q < n ∧ slot + q ∉ keep then 0 else memRead s.mem (slotAddr c (slot + q)) 2048 := by
  induction n with
  | zero => exact ⟨SameWords.refl hwf, fun q => by simp [upTo]⟩
  | succ n ih =>
    intro r
    have hr := upTo_succ n (fun (v : State) q => if keep.contains (slot + q) then v else v.put (slotAddr c (slot + q)) 256 ⟨0, 0⟩) s
    change r = _ at hr
    clear_value r
    obtain ⟨hsame, hread⟩ := ih
    generalize upTo n (fun (v : State) q => if keep.contains (slot + q) then v else v.put (slotAddr c (slot + q)) 256 ⟨0, 0⟩) s = v at *
    by_cases hk : slot + n ∈ keep
    · rw [if_pos (by simpa using hk)] at hr
      subst hr
      refine ⟨hsame.mono (fun k h q hq => h q (by omega)), fun q => ?_⟩
      rw [hread]
      refine if_congr ?_ rfl rfl
      constructor
      · exact fun g => ⟨by omega, g.2⟩
      · exact fun g => ⟨lt_of_le_of_ne (by omega) (fun e => g.2 (e ▸ hk)), g.2⟩
    · rw [if_neg (by simpa using hk)] at hr
      subst hr
      have hput : SameWords (fun k => ¬ inBlock (slotAddr c (slot + n)) 256 k) v.mem (v.put (slotAddr c (slot + n)) 256 ⟨0, 0⟩).mem :=
        SameWords.write hsame.wf (slotAddr_mod ..) (fun _ h => h)
      refine ⟨(hsame.mono (fun k h q hq => h q (by omega))).trans (hput.mono (fun k h => h n (by omega))), fun q => ?_⟩
      by_cases hq : q = n
      · subst hq
        rw [if_pos ⟨Nat.lt_succ_self _, hk⟩]
        exact (Holds.write v.mem (slotAddr c (slot + q)) 256 ⟨0, 0⟩).read hput.wf rfl (by positivity)
      · rw [show memRead (v.put (slotAddr c (slot + n)) 256 ⟨0, 0⟩).mem (slotAddr c (slot + q)) 2048 = memRead v.mem (slotAddr c (slot + q)) 2048 from
          memRead_write_beside _ _ _ _ _ _ _ hsame.wf (by rw [slotAddr_add, slotAddr_add]; omega), hread]
        exact if_congr (and_congr_left' (by omega)) rfl rfl

end

/-! ### The operation -/

section
variable {s : State} {c : CoreId} {fmt clr slot cnt dq doff : Nat} {keep : List Nat}

/-- R50, R55: memory after MXDRAIN: its lines, its slots, and the bytes beside both. -/
structure Drained (s : State) (c : CoreId) (fmt clr slot cnt dq doff : Nat) (keep : List Nat) (m : Mem) : Prop where
  wf : Memory.wf m = true
  line : ∀ q < cnt, ∀ j < drainPer fmt, Holds m (drainOut c dq doff (drainPer fmt * q + j)) 16
    (drainLine fmt (memRead s.mem (slotAddr c (slot + q)) 2048) (slotBad s c (slot + q)) j)
  slots : ∀ q < cnt, memRead m (slotAddr c (slot + q)) 2048 =
    if clr ≠ 0 ∧ slot + q ∉ keep then 0 else memRead s.mem (slotAddr c (slot + q)) 2048
  beside : ∀ x, (∀ i < drainPer fmt * cnt, besideMem (drainOut c dq doff i) 128 x) → besideMem (slotAddr c slot) (2048 * cnt) x →
    memByte m x = memByte s.mem x

theorem mxDrain_eq (s : State) (c : CoreId) (fmt clr slot cnt dq doff : Nat) (keep : List Nat) :
    ∃ v, (v = upTo cnt (fun v q => drainSlot v c fmt (slot + q) dq doff (drainPer fmt * q)) s ∧
      ((clr = 0 ∧ mxDrain s c fmt clr slot cnt dq doff keep = v) ∨ (clr ≠ 0 ∧ mxDrain s c fmt clr slot cnt dq doff keep =
        upTo cnt (fun v q => if keep.contains (slot + q) then v else v.put (slotAddr c (slot + q)) 256 ⟨0, 0⟩)
          (if keep = [] then v else v.setBit (coreP c) Reg.Co.CLR_LOST)))) := by
  refine ⟨_, rfl, ?_⟩
  unfold mxDrain
  by_cases h : clr = 0
  · exact Or.inl ⟨h, if_pos h⟩
  · exact Or.inr ⟨h, if_neg h⟩

theorem mxDrain_touches : Touches (keysOf (coreP c) mxFields) s (mxDrain s c fmt clr slot cnt dq doff keep) := by
  obtain ⟨v, hv, h⟩ := mxDrain_eq s c fmt clr slot cnt dq doff keep
  have hlines : Touches (keysOf (coreP c) mxFields) s v := by
    rw [hv]
    exact Touches.upTo (fun _ _ h => h.trans (drainSlot_touches _ _)) (Touches.refl _ _)
  rcases h with ⟨_, e⟩ | ⟨_, e⟩ <;> rw [e]
  · exact hlines
  · exact Touches.upTo (fun _ _ h => Touches.ite h (h.put _ _ _)) (Touches.ite hlines (hlines.setBit (keysOf_mem (by decide))))

theorem mxDrain_drained (hwf : Memory.wf s.mem = true) (hdq : dq < 8) (hrow : ∀ i < drainPer fmt * cnt, streamRow doff i < 128) :
    Drained s c fmt clr slot cnt dq doff keep (mxDrain s c fmt clr slot cnt dq doff keep).mem := by
  obtain ⟨hsame, hold⟩ := drainSlots_hold (c := c) (slot := slot) hwf hdq cnt hrow
  obtain ⟨v, hv, h⟩ := mxDrain_eq s c fmt clr slot cnt dq doff keep
  rw [← hv] at hsame hold
  clear hv
  have hapart : ∀ i < drainPer fmt * cnt, ∀ m k, inBlock (slotAddr c m) 256 k → ¬ inBlock (drainOut c dq doff i) 16 k := by
    intro i hi m k hk hin
    have := drainOut_le_slot (c := c) hdq (hrow i hi) m
    unfold inBlock at hk hin
    omega
  have hslots : ∀ q, memRead v.mem (slotAddr c (slot + q)) 2048 = memRead s.mem (slotAddr c (slot + q)) 2048 := fun q => by
    have hmod := slotAddr_mod c (slot + q)
    exact hsame.read (fun x h1 h2 i hi => hapart i hi (slot + q) _ ⟨by omega, by omega⟩)
  have hbeside : ∀ x, (∀ i < drainPer fmt * cnt, besideMem (drainOut c dq doff i) 128 x) → memByte v.mem x = memByte s.mem x :=
    fun x hx => hsame.byte x (fun i hi hin => by
      have hmod : drainOut c dq doff i % 8 = 0 := spAddr_mod ..
      have := hx i hi
      unfold inBlock at hin
      unfold besideMem at this
      omega)
  rcases h with ⟨hclr, e⟩ | ⟨hclr, e⟩ <;> rw [e]
  · exact ⟨hsame.wf, hold, fun q _ => by rw [if_neg (fun g => g.1 hclr)]; exact hslots q, fun x hx _ => hbeside x hx⟩
  · have hm : (if keep = [] then v else v.setBit (coreP c) Reg.Co.CLR_LOST).mem = v.mem := by split <;> rfl
    obtain ⟨hsame2, hread⟩ := clearSlots_read (c := c) (slot := slot) (s := if keep = [] then v else v.setBit (coreP c) Reg.Co.CLR_LOST) keep
      (by rw [hm]; exact hsame.wf) cnt
    rw [hm] at hsame2 hread
    refine ⟨hsame2.wf, fun q hq j hj => ?line, fun q hq => ?slots, fun x hx hs => ?beside⟩
    case line =>
      have hlt : drainPer fmt * (q + 1) ≤ drainPer fmt * cnt := Nat.mul_le_mul_left _ hq
      have hq1 : drainPer fmt * (q + 1) = drainPer fmt * q + drainPer fmt := by ring
      exact (hold q hq j hj).keep hsame2 (spAddr_mod ..) (fun k hk p _ hin => hapart _ (by omega) _ k hin hk)
    case slots =>
      rw [hread, hslots]
      exact if_congr ⟨fun g => ⟨hclr, g.2⟩, fun g => ⟨hq, g.2⟩⟩ rfl rfl
    case beside =>
      rw [← hbeside x hx]
      refine hsame2.byte x (fun q hq hin => ?_)
      have hmod := slotAddr_mod c (slot + q)
      have hadd := slotAddr_add c slot q
      unfold inBlock at hin
      unfold besideMem at hs
      omega

end

/-- R51: an accepted MXDRAIN keeps its lines in their banks. -/
theorem mxdrain_rows {s : State} {c : CoreId} {mx t : Nat} (h : mxBad s c mx t = []) (hop : bits mx 0 8 = 4) :
    ∀ i < drainPer (bits mx 8 1) * (bits mx 17 7 + 1), streamRow (bits mx 27 7) i < 128 := by
  intro i hi
  unfold mxBad at h
  simp only [hop] at h
  have hfit := fieldBad_nil (append_nil (append_nil (append_nil (append_nil h).1).1).1).2
  rw [decide_eq_false_iff_not] at hfit
  have hper : (bits mx 17 7 + 1) * (if bits mx 8 1 = 0 then 16 else 8) = drainPer (bits mx 8 1) * (bits mx 17 7 + 1) := Nat.mul_comm _ _
  rw [hper] at hfit
  unfold cdiv at hfit
  unfold streamRow
  omega

theorem mxEffect_mxdrain (s : State) (c : CoreId) (fmt clr : BitVec 1) (slot scnt : BitVec 7) (dq : BitVec 3) (doff : BitVec 7) (rsv : BitVec 62)
    (t pc : Nat) (arr : ArrayUpset) :
    let keep := if clr.toNat = 0 then [] else lostClears (s.core c) t slot.toNat (scnt.toNat + 1) (drainPer fmt.toNat)
    ∃ k, mxEffect s c (mxdrainOf fmt clr slot scnt dq doff rsv) t pc arr =
      (mxDrain s c fmt.toNat clr.toNat slot.toNat (scnt.toNat + 1) dq.toNat doff.toNat keep).setCore c k := by
  obtain ⟨_, hop, hf, hc, hs, hn, hdq, hdo⟩ := mxdrain_fields fmt clr slot scnt dq doff rsv
  unfold mxEffect
  simp only [hop, hf, hc, hs, hn, hdq, hdo]
  exact ⟨_, rfl⟩

/-- Settles O19: R50 for the lines, R55 for the slots that a clearing drain zeroes. -/
theorem slotsDrain : Obligations.SlotsDrain := by
  unfold Obligations.SlotsDrain
  intro s c h fmt clr slot scnt dq doff rsv t hwf hq hi n per out codes
  have hfmt : fmt = 0 ↔ fmt.toNat = 0 := bitVec1_zero_iff fmt
  have hclr : clr = 1 ↔ clr.toNat ≠ 0 := by
    have := clr.isLt
    rw [← BitVec.toNat_inj]
    exact ⟨fun e => by rw [e]; decide, fun e => by show clr.toNat = 1; omega⟩
  have hper : per = drainPer fmt.toNat := if_congr hfmt rfl rfl
  obtain ⟨hlt, hop, hf8, _, _, hn17, _, hdo27⟩ := mxdrain_fields fmt clr slot scnt dq doff rsv
  obtain ⟨hmx, _⟩ := mxBundle_slots hlt h
  have hrow : ∀ i < drainPer fmt.toNat * n, streamRow doff.toNat i < 128 := by
    have hchecks := hi.mx
    rw [hmx] at hchecks
    have := mxdrain_rows hchecks hop
    rwa [hf8, hn17, hdo27] at this
  obtain ⟨k, heff⟩ := mxEffect_mxdrain (atCycle s c.site t) c fmt clr slot scnt dq doff rsv t (s.core c).nextPc {}
  have hcore : (atCycle s c.site t).core c = s.core c := rfl
  rw [hcore] at heff
  generalize hkeep : (if clr.toNat = 0 then [] else lostClears (s.core c) t slot.toNat (scnt.toNat + 1) (drainPer fmt.toNat)) = keep at heff
  have htouch := mxDrain_touches (s := atCycle s c.site t) (c := c) (fmt := fmt.toNat) (clr := clr.toNat) (slot := slot.toNat)
    (cnt := scnt.toNat + 1) (dq := dq.toNat) (doff := doff.toNat) (keep := keep)
  have hdrain := mxDrain_drained (s := atCycle s c.site t) (c := c) (clr := clr.toNat) (slot := slot.toNat) (keep := keep) hwf dq.isLt hrow
  obtain ⟨u, hu, humem, hframe⟩ := mxRow_quiet hi hlt {} heff (htouch.quiet (atCycle_quiet hq))
  rw [State.setCore_mem] at humem
  rw [← humem] at hdrain
  refine ⟨u, hu, fun q hq' j hj => ?line, fun q hq' => ?slots, fun x hx hs => ?beside, ?frame⟩
  case line =>
    rw [hper] at hj ⊢
    have hold := hdrain.line q hq' j hj
    obtain ⟨hd, hp⟩ := drainLine_lt fmt.toNat (memRead s.mem (slotAddr c (slot.toNat + q)) 2048) (slotBad s c (slot.toNat + q)) j
    refine ⟨(hold.read hdrain.wf rfl hd).trans (if_congr hfmt.symm rfl rfl), (hold.readPoison hdrain.wf hp).trans ?_⟩
    show (if bits _ (if fmt.toNat = 0 then j / 2 else j) 1 = 1 then 0xFFFF else 0) = _
    simp only [hfmt]
    rfl
  case slots =>
    rw [hdrain.slots q hq']
    refine if_congr ?_ rfl rfl
    rw [hclr, ← hkeep, hper]
    exact and_congr_right (fun g => by rw [if_neg g])
  case beside =>
    rw [hper] at hx
    exact hdrain.beside x hx hs
  case frame =>
    exact ((atCycle_frame c _ s t).trans ((htouch.frame.setCore k).mono (keysOf_subset (List.subset_append_right _ _)))).trans
      (hframe.mono (keysOf_subset (List.subset_append_left _ _)))

end Sys2Proof.Machine
end

section
/-! PROOFS. The rows of an MXMUL (R37 to R45): each row is found from what stood before the operation, and leaves its codes and marks in
its own slot. -/

namespace Sys2Proof.Machine

/-! ### Operands of a row -/

/-- `t` has the operands of the array of core `c` that `s` has: modes and marks of the buffers, buffers and exponent registers, and
scratchpad lines. -/
structure SameOperands (c : CoreId) (s t : State) : Prop where
  modeA : t.rd (coreP c) Reg.Co.BUF_A_MODE = s.rd (coreP c) Reg.Co.BUF_A_MODE
  modeB : t.rd (coreP c) Reg.Co.BUF_B_MODE = s.rd (coreP c) Reg.Co.BUF_B_MODE
  core : t.core c = s.core c
  array : ∀ a n, arrayBase c.site ≤ a → memRead t.mem a n = memRead s.mem a n
  lines : ∀ b l, b < 32 → l < 256 → t.spLine c b l = s.spLine c b l

section
variable {c : CoreId} {s t : State}

theorem SameOperands.wbuf (h : SameOperands c s t) (x j n : Nat) :
    memRead t.mem (wbufBase c.site c.n x + j) n = memRead s.mem (wbufBase c.site c.n x + j) n :=
  h.array _ _ ((arrayBase_le_wbuf ..).trans (Nat.le_add_right _ _))

theorem SameOperands.xreg (h : SameOperands c s t) (x j n : Nat) :
    memRead t.mem (xregBase c.site c.n x + j) n = memRead s.mem (xregBase c.site c.n x + j) n :=
  h.array _ _ (by unfold arrayBase xregBase; omega)

/-- R35: the activation row, in each layout. -/
theorem SameOperands.actRow (h : SameOperands c s t) {aq aoff i : Nat} (haq : aq < 8) (ha : aoff < 128) (hi : i < 128) (mode : Nat) :
    actRow t c mode aq aoff i = actRow s c mode aq aoff i := by
  unfold Sys2Proof.Machine.actRow
  split
  · rw [h.lines _ _ (by omega) (by omega), h.lines _ _ (by omega) (by omega)]
  · dsimp only
    rw [h.lines _ _ (by omega) (by omega)]
  · dsimp only
    rw [h.lines _ _ (by omega) (by omega)]
  · rw [h.lines _ _ (by omega) (by omega)]

theorem SameOperands.rowStep (h : SameOperands c s t) (x amode xsel xidx : Nat) {aq aoff i : Nat} (psh : Int) (bad base : Nat)
    (haq : aq < 8) (ha : aoff < 128) (hi : i < 128) :
    rowStep t c x amode aq aoff xsel xidx psh bad i base = rowStep s c x amode aq aoff xsel xidx psh bad i base := by
  unfold Sys2Proof.Machine.rowStep
  simp only [h.modeA, h.modeB, h.core, h.actRow haq ha hi, h.wbuf, h.xreg, Nat.add_assoc]

end

/-! ### What a row gives -/

theorem rowHalf_lt (mode : Nat) (ds : List (Int × Int)) (ea psh : Int) (scale fine : Nat → Nat) (hasFine : Bool) (base : Nat) :
    (rowHalf mode ds ea psh scale fine hasFine base).1 < 2 ^ (32 * 512) :=
  upTo_ind (P := fun k (acc : Nat × Nat × Nat × Bool) => acc.1 < 2 ^ (32 * k)) (by norm_num) 512
    (fun _ _ _ h => add_digit_lt h (encodeNear_lt .fp32 _))

/-- R38: a row's codes fill its slot. -/
theorem rowStep_codes_lt (s : State) (c : CoreId) (x amode aq aoff xsel xidx : Nat) (psh : Int) (bad i base : Nat) :
    (rowStep s c x amode aq aoff xsel xidx psh bad i base).codes < 2 ^ (32 * 512) := by
  unfold rowStep
  extract_lets p k mode hasFine marked wb line blk scales fines fine act exb exOf es0 tab0 es1 tab1 look d0 d1 g0 g1 h0 h1
  dsimp only
  split
  · exact upTo_ind (P := fun k acc => acc < 2 ^ (32 * k)) (by norm_num) 512 (fun _ _ _ h => add_digit_lt h (by decide))
  · have hh0 : h0.1 < 2 ^ (32 * 512) := rowHalf_lt ..
    have hite : ∀ q r : Nat × Nat × Nat × Bool, q.1 < 2 ^ (32 * 512) → r.1 < 2 ^ (32 * 512) → (if mode = 0 then q else r).1 < 2 ^ (32 * 512) :=
      fun _ _ hq hr => by split <;> assumption
    clear_value h0
    exact hite _ _ (rowHalf_lt ..) hh0

theorem rowStep_groups_lt (s : State) (c : CoreId) (x amode aq aoff xsel xidx : Nat) (psh : Int) (bad i base : Nat) :
    (rowStep s c x amode aq aoff xsel xidx psh bad i base).groups < 256 := Nat.mod_lt _ (by norm_num)

/-! ### Group poison bits (R28) -/

theorem testBit_add_digit {x v w k : Nat} (hx : x < 2 ^ (w * k)) (i : Nat) :
    (x + v * 2 ^ (w * k)).testBit i = if i < w * k then x.testBit i else v.testBit (i - w * k) := by
  rw [Nat.add_comm, Nat.mul_comm v, Nat.testBit_two_pow_mul_add _ hx]

theorem slotMarks_testBit (g : Nat) {k : Nat} (hk : k < 8) : (slotMarks g).testBit (32 * k) = g.testBit k := by
  refine (upTo_ind (P := fun n acc => acc < 2 ^ (32 * n) ∧ ∀ k < n, acc.testBit (32 * k) = g.testBit k)
    (f := fun acc k => acc + bits g k 1 * 2 ^ (32 * k)) (a := 0) ⟨by norm_num, fun k hk => absurd hk (Nat.not_lt_zero k)⟩ 8
    (fun n _ acc h => ⟨add_digit_lt h.1 (lt_of_lt_of_le (Nat.mod_lt _ (by norm_num)) (by norm_num)), fun k hk => ?_⟩)).2 k hk
  rw [testBit_add_digit h.1]
  rcases Nat.lt_succ_iff_lt_or_eq.1 hk with hlt | rfl
  · rw [if_pos (by omega), h.2 k hlt]
  · rw [if_neg (by omega), Nat.sub_self, bits, pow_one, Nat.testBit_zero, Nat.mod_mod, Nat.testBit_eq_decide_div_mod_eq]

/-- The group poison bits of a slot that has been written. -/
theorem slotPoison_of_holds {u : State} {c : CoreId} {m codes p : Nat} (h : Holds u.mem (slotAddr c m) 256 ⟨codes, slotMarks p⟩) :
    slotPoison u c m = p % 256 := by
  have hbit : ∀ g < 8, keyHas u.mem.poison (slotAddr c m / 8 + 32 * g) = p.testBit g := fun g hg =>
    (h.poison _ (by omega)).trans (slotMarks_testBit p hg)
  have hrun := upTo_ind (P := fun n acc => acc < 2 ^ (1 * n) ∧ ∀ k < n, acc.testBit k = p.testBit k)
    (f := fun acc g => if keyHas u.mem.poison (slotAddr c m / 8 + 32 * g) then acc + 2 ^ g else acc) (a := 0)
    ⟨by norm_num, fun k hk => absurd hk (Nat.not_lt_zero k)⟩ 8 (fun n hn acc h => ?step)
  · obtain ⟨hlt, hlow⟩ := hrun
    unfold slotPoison
    refine Nat.eq_of_testBit_eq (fun i => ?_)
    rw [show (256 : Nat) = 2 ^ 8 from rfl, Nat.testBit_mod_two_pow]
    by_cases hi : i < 8
    · simpa [hi] using hlow i hi
    · simpa [hi] using Nat.testBit_lt_two_pow (lt_of_lt_of_le hlt (Nat.pow_le_pow_right (by norm_num) (by omega)))
  case step =>
    have hif : (if keyHas u.mem.poison (slotAddr c m / 8 + 32 * n) then acc + 2 ^ n else acc) = acc + (p.testBit n).toNat * 2 ^ (1 * n) := by
      rw [hbit n hn]
      cases p.testBit n <;> simp
    rw [hif]
    refine ⟨add_digit_lt h.1 (Bool.toNat_lt _), fun k hk => ?_⟩
    rw [testBit_add_digit h.1]
    rcases Nat.lt_succ_iff_lt_or_eq.1 hk with hlt | rfl
    · rw [if_pos (by omega), h.2 k hlt]
    · rw [if_neg (by omega), Nat.one_mul, Nat.sub_self]
      cases p.testBit k <;> rfl

/-! ### One row into its slot -/

/-- The fields of an MXMUL that its rows share (R49), with the array's upsets. -/
structure MulOp where
  wbuf : Nat
  acc : Nat
  amode : Nat
  aq : Nat
  aoff : Nat
  slot : Nat
  xsel : Nat
  xidx : Nat
  psh : Int
  arr : ArrayUpset

/-- Row `i` of `o` as `mulRow` runs it. -/
def MulOp.step (o : MulOp) (c : CoreId) : MulRes → Nat → MulRes := mulRow c o.wbuf o.acc o.amode o.aq o.aoff o.slot o.xsel o.xidx o.psh o.arr

/-- What row `i` of `o` makes of what stands in `s`. -/
def MulOp.row (o : MulOp) (c : CoreId) (s : State) (i : Nat) : RowRes :=
  rowStep s c o.wbuf o.amode o.aq o.aoff o.xsel o.xidx o.psh (hitGroups o.arr.lanes i) i
    (if o.acc = 1 then 0 else memRead s.mem (slotAddr c (o.slot + i)) 2048)

/-- The group poison that row `i` of `o` leaves in its slot (R38, R40, R43, R44). -/
def MulOp.marks (o : MulOp) (c : CoreId) (s : State) (i : Nat) : Nat :=
  (if o.acc = 1 then 0 else slotBad s c (o.slot + i)) ||| (o.row c s i).poison ||| (if o.arr.act.contains i || o.arr.exp.contains i then 0xFF else 0) |||
    hitGroups o.arr.scale i % 256

/-- What every row may note of errors, and what a row that disagrees counts beside that. -/
def rowKeys (c : CoreId) : List Nat := keysOf (coreP c) (spFields ++ mxFields)
def checkKeys (c : CoreId) : List Nat := keysOf (coreP c) (spFields ++ mxFields ++ [Reg.Co.CHECK_CNT])

theorem noteRow_touches {c : CoreId} (s : State) (mode aq aoff i : Nat) : Touches (keysOf (coreP c) spFields) s (noteRow s c mode aq aoff i) := by
  have hn := fun (s : State) (b l w n : Nat) => noteSp_touches (s := s) (c := c) (List.Subset.refl (keysOf (coreP c) spFields)) b l w n
  unfold noteRow
  split
  · exact (hn _ _ _ _ _).trans (hn _ _ _ _ _)
  · exact hn _ _ _ _ _
  · exact hn _ _ _ _ _
  · exact hn _ _ _ _ _

theorem noteRow_mem (s : State) (c : CoreId) (mode aq aoff i : Nat) : (noteRow s c mode aq aoff i).mem = s.mem :=
  (noteRow_memIs s c mode aq aoff i (MemIs.refl s)).mem

section
variable {c : CoreId} {s t : State}

theorem Touches.operands {ks : List Nat} (h : Touches ks s t) (hm : t.mem = s.mem) (hA : fldKey (coreP c) Reg.Co.BUF_A_MODE ∉ ks)
    (hB : fldKey (coreP c) Reg.Co.BUF_B_MODE ∉ ks) : SameOperands c s t :=
  ⟨h.regs.rd _ _ hA, h.regs.rd _ _ hB, h.core c, fun _ _ _ => by rw [hm], fun _ _ _ _ => take_mem hm _ 16⟩

theorem slotPoison_congr (c : CoreId) (m : Nat) (h : t.mem = s.mem) : slotPoison t c m = slotPoison s c m := by
  unfold slotPoison
  rw [h]

theorem noteSlot_groups_congr (c : CoreId) (m : Nat) (h : t.mem = s.mem) : (noteSlot t c m).2 = (noteSlot s c m).2 := by
  unfold noteSlot
  dsimp only
  rw [h]

/-- What `mulRow` notes before it finds the row, with the groups of uncorrectable words of the slot. -/
theorem noted_row (o : MulOp) (st : State) (mode i : Nat) :
    let v := if o.acc = 1 then (noteRow st c mode o.aq o.aoff i, 0) else noteSlot (noteRow st c mode o.aq o.aoff i) c (o.slot + i)
    v.1.mem = st.mem ∧ Touches (rowKeys c) st v.1 ∧
      (if o.acc = 1 then 0 else slotPoison v.1 c (o.slot + i) ||| v.2) = if o.acc = 1 then 0 else slotBad st c (o.slot + i) := by
  have hrow := (noteRow_touches (c := c) st mode o.aq o.aoff i).mono (keysOf_subset (List.subset_append_left _ mxFields))
  have hmem := noteRow_mem st c mode o.aq o.aoff i
  by_cases h : o.acc = 1
  · simp only [if_pos h]
    exact ⟨hmem, hrow, trivial⟩
  · simp only [if_neg h]
    have hm := (noteSlot_mem (noteRow st c mode o.aq o.aoff i) c (o.slot + i)).trans hmem
    refine ⟨hm, hrow.trans ((noteSlot_touches ..).mono (keysOf_subset (List.subset_append_right _ _))), ?_⟩
    unfold slotBad
    exact congrArg₂ (· ||| ·) (slotPoison_congr c _ hm) (noteSlot_groups_congr c _ hmem)

end

/-- What a row notes once it stands in its slot (R38, R43, R44). -/
def rowFlags (c : CoreId) (arr : ArrayUpset) (i : Nat) (q : RowRes) (s : State) : State :=
  let p := coreP c
  let s := if q.scalePoison then s.setBit p Reg.Co.SCALE_POISON else s
  let s := if q.infs = 0 then s else (s.setBit p Reg.Co.ACC_INF).bump p Reg.Co.INF_CNT q.infs
  let s := if arr.act.contains i then (s.setBit p Reg.Co.ACT_PARITY).bump p Reg.Co.PARITY_CNT 1 else s
  let s := if arr.exp.contains i then (s.setBit p Reg.Co.XREG_PARITY).bump p Reg.Co.PARITY_CNT 1 else s
  let s := if hitGroups arr.scale i % 256 = 0 then s else (s.setBit p Reg.Co.SCALE_PARITY).bump p Reg.Co.PARITY_CNT 1
  if q.groups = 0 then s else s.bump p Reg.Co.CHECK_CNT 1

theorem rowFlags_touches {ks : List Nat} {c : CoreId} {arr : ArrayUpset} {i : Nat} {q : RowRes} {s : State} (hk : rowKeys c ⊆ ks)
    (hcheck : q.groups = 0 ∨ fldKey (coreP c) Reg.Co.CHECK_CNT ∈ ks) : Touches ks s (rowFlags c arr i q s) := by
  have key : ∀ f ∈ spFields ++ mxFields, fldKey (coreP c) f ∈ ks := fun f hf => hk (keysOf_mem hf)
  have parity : fldKey (coreP c) Reg.Co.PARITY_CNT ∈ ks := key _ (by decide)
  unfold rowFlags
  extract_lets p s1 s2 s3 s4 s5
  have h0 : Touches ks s s := Touches.refl ks s
  have h1 : Touches ks s s1 := Touches.ite (h0.setBit (key _ (by decide))) h0
  have h2 : Touches ks s s2 := Touches.ite h1 (h1.note (key _ (by decide)) (key _ (by decide)))
  have h3 : Touches ks s s3 := Touches.ite (h2.note (key _ (by decide)) parity) h2
  have h4 : Touches ks s s4 := Touches.ite (h3.note (key _ (by decide)) parity) h3
  have h5 : Touches ks s s5 := Touches.ite h4 (h4.note (key _ (by decide)) parity)
  rcases hcheck with hg | hg
  · rw [if_pos hg]
    exact h5
  · exact Touches.ite h5 (h5.bump hg)

theorem rowFlags_mem (c : CoreId) (arr : ArrayUpset) (i : Nat) (q : RowRes) (s : State) : (rowFlags c arr i q s).mem = s.mem := by
  have note := fun (p f g n) {u} (h : MemIs s u) => State.bump_memIs (u.setBit p f) p g n (State.setBit_memIs u p f h)
  unfold rowFlags
  refine MemIs.mem ?_
  extract_lets p s1 s2 s3 s4 s5
  have h1 : MemIs s s1 := MemIs.ite (State.setBit_memIs _ _ _ (MemIs.refl s)) (MemIs.refl s)
  have h2 : MemIs s s2 := MemIs.ite h1 (note _ _ _ _ h1)
  have h3 : MemIs s s3 := MemIs.ite (note _ _ _ _ h2) h2
  have h4 : MemIs s s4 := MemIs.ite (note _ _ _ _ h3) h3
  have h5 : MemIs s s5 := MemIs.ite h4 (note _ _ _ _ h4)
  exact MemIs.ite h5 (State.bump_memIs _ _ _ _ h5)

/-- R43: the first row that disagrees is kept. -/
def rowCheck (o : MulOp) (i : Nat) (q : RowRes) (k : Option (Nat × Nat × Nat)) : Option (Nat × Nat × Nat) :=
  if q.groups = 0 then k else some (k.getD (i, q.groups, o.slot + i))

/-- R38: one row: its operands and its slot are those before it, its codes and marks go into its slot, and the rest is notes. -/
theorem MulOp.step_eq (o : MulOp) (c : CoreId) (r : MulRes) {i : Nat} (haq : o.aq < 8) (ha : o.aoff < 128) (hi : i < 128) :
    ∃ v, v.mem = r.st.mem ∧ Touches (rowKeys c) r.st v ∧ o.step c r i =
      ⟨rowFlags c o.arr i (o.row c r.st i) (v.put (slotAddr c (o.slot + i)) 256 ⟨(o.row c r.st i).codes, slotMarks (o.marks c r.st i)⟩),
        rowCheck o i (o.row c r.st i) r.check⟩ := by
  obtain ⟨hmem, htouch, hold⟩ := noted_row (c := c) o r.st (bufMode r.st c o.wbuf) i
  generalize hv : (if o.acc = 1 then (noteRow r.st c (bufMode r.st c o.wbuf) o.aq o.aoff i, 0)
    else noteSlot (noteRow r.st c (bufMode r.st c o.wbuf) o.aq o.aoff i) c (o.slot + i)) = v at hmem htouch hold
  have hops : SameOperands c r.st v.1 := htouch.operands hmem (fldKey_not_mem (by decide)) (fldKey_not_mem (by decide))
  have hrow : rowStep v.1 c o.wbuf o.amode o.aq o.aoff o.xsel o.xidx o.psh (hitGroups o.arr.lanes i) i
      (if o.acc = 1 then 0 else memRead v.1.mem (slotAddr c (o.slot + i)) 2048) = o.row c r.st i := by
    rw [hmem]
    exact hops.rowStep _ _ _ _ _ _ _ haq ha hi
  refine ⟨v.1, hmem, htouch, ?_⟩
  unfold MulOp.marks
  rw [← hold, ← hrow, ← hv]
  unfold MulOp.step mulRow rowCheck
  cases r.check <;> rfl

end Sys2Proof.Machine
end

section
/-! PROOFS. A run of rows of one MXMUL (R37, R43): slots, notes, and the first row that disagrees. -/

namespace Sys2Proof.Machine

/-- The first `n` rows of `o`. -/
def MulOp.run (o : MulOp) (c : CoreId) (s : State) (n : Nat) : MulRes := upTo n (o.step c) ⟨s, none⟩

/-- The operands of `o` are fields of their widths (R49). -/
structure MulOp.InRange (o : MulOp) : Prop where
  aq : o.aq < 8
  aoff : o.aoff < 128

/-- The words beside the first `n` slots of `o`. -/
def MulOp.beside (o : MulOp) (c : CoreId) (n k : Nat) : Prop := ∀ j < n, ¬ inBlock (slotAddr c (o.slot + j)) 256 k

section
variable {o : MulOp} {c : CoreId} {s t : State} {n i : Nat}

theorem MulOp.run_succ : o.run c s (n + 1) = o.step c (o.run c s n) n := upTo_succ ..

/-- A row's step touches what a row notes, and the count of failed checks where it disagrees. -/
theorem MulOp.step_touches {ks : List Nat} (ho : o.InRange) (r : MulRes) (hi : i < 128) (hk : rowKeys c ⊆ ks)
    (hcheck : (o.row c r.st i).groups = 0 ∨ fldKey (coreP c) Reg.Co.CHECK_CNT ∈ ks) : Touches ks r.st (o.step c r i).st := by
  obtain ⟨v, _, htouch, e⟩ := o.step_eq c r ho.aq ho.aoff hi
  rw [e]
  exact ((htouch.mono hk).put _ _ _).trans (rowFlags_touches hk hcheck)

theorem MulOp.run_touches (ho : o.InRange) (hn : n ≤ 128) : Touches (checkKeys c) s (o.run c s n).st :=
  upTo_ind (P := fun _ r => Touches (checkKeys c) s r.st) (f := o.step c) (Touches.refl _ _) n (fun i hi r h =>
    h.trans (MulOp.step_touches (ks := checkKeys c) ho r (show i < 128 by omega) (keysOf_subset (List.subset_append_left _ _))
      (Or.inr (keysOf_mem (fs := spFields ++ mxFields ++ [Reg.Co.CHECK_CNT]) (by decide)))))

/-- Rows after `n` find in `t` what they find in `s`, where the two differ in the first `n` slots and in notes only. -/
theorem MulOp.row_congr (ho : o.InRange) (hc : c.n < 8) (ht : Touches (checkKeys c) s t) (hsame : SameWords (o.beside c n) s.mem t.mem)
    (hni : n ≤ i) (hi : i < 128) (hslot : o.slot + n ≤ 256) : o.row c t i = o.row c s i ∧ o.marks c t i = o.marks c s i := by
  have hblock : ∀ k, inBlock (slotAddr c (o.slot + i)) 256 k → o.beside c n k := fun k hk j hj hin => by
    have := slotAddr_add c o.slot i
    have := slotAddr_add c o.slot j
    unfold inBlock at hk hin
    omega
  have hops : SameOperands c s t := by
    refine ⟨ht.regs.rd _ _ (fldKey_not_mem (by decide)), ht.regs.rd _ _ (fldKey_not_mem (by decide)), ht.core c, fun a m ha => ?array,
      fun b l hb hl => ?lines⟩
    case array =>
      refine hsame.read (fun x hx _ j hj hin => ?_)
      have := slotAddr_le_array hc (show o.slot + j < 256 by omega)
      have := slotAddr_mod c (o.slot + j)
      unfold inBlock at hin
      omega
    case lines =>
      refine hsame.spLine (fun k hk j hj hin => ?_)
      have := spAddr_le_slot c hb hl (o.slot + j)
      unfold inBlock at hk hin
      omega
  have hbase : memRead t.mem (slotAddr c (o.slot + i)) 2048 = memRead s.mem (slotAddr c (o.slot + i)) 2048 := by
    have := slotAddr_mod c (o.slot + i)
    exact hsame.read (fun x h1 h2 => hblock _ ⟨by omega, by omega⟩)
  have hrow : o.row c t i = o.row c s i := by
    unfold MulOp.row
    rw [hbase]
    exact hops.rowStep _ _ _ _ _ _ _ ho.aq ho.aoff hi
  refine ⟨hrow, ?_⟩
  unfold MulOp.marks
  rw [hrow, hsame.slotBad c (o.slot + i) hblock]

/-- R38: the slots after a run of rows. -/
theorem MulOp.run_holds (ho : o.InRange) (hc : c.n < 8) (hwf : Memory.wf s.mem = true) (hn : n ≤ 128) (hslot : o.slot + n ≤ 256) :
    SameWords (o.beside c n) s.mem (o.run c s n).st.mem ∧
      ∀ i < n, Holds (o.run c s n).st.mem (slotAddr c (o.slot + i)) 256 ⟨(o.row c s i).codes, slotMarks (o.marks c s i)⟩ := by
  refine upTo_writes (fun r : MulRes => r.st.mem) (val := fun i => ⟨(o.row c s i).codes, slotMarks (o.marks c s i)⟩)
    (x := ⟨s, none⟩) hwf n (fun i _ => slotAddr_mod ..) (fun i _ j hj => Or.inl ?_) (fun i hi hsame => ?_)
  · rw [slotAddr_add, slotAddr_add]
    omega
  · obtain ⟨v, hmem, _, e⟩ := o.step_eq c (o.run c s i) ho.aq ho.aoff (show i < 128 by omega)
    obtain ⟨hrow, hmarks⟩ := MulOp.row_congr ho hc (MulOp.run_touches ho (by omega)) hsame le_rfl (show i < 128 by omega) (by omega)
    show (o.step c (o.run c s i) i).st.mem = _
    rw [e, rowFlags_mem, hrow, hmarks]
    exact congrArg (fun m => memWrite m _ _ _ _) hmem

/-- What a row finds during its run is what it finds before it. -/
theorem MulOp.row_run (ho : o.InRange) (hc : c.n < 8) (hwf : Memory.wf s.mem = true) (hi : i < 128) (hslot : o.slot + i ≤ 256) :
    o.row c (o.run c s i).st i = o.row c s i :=
  (MulOp.row_congr ho hc (MulOp.run_touches ho hi.le) (MulOp.run_holds ho hc hwf hi.le hslot).1 le_rfl hi hslot).1

theorem MulOp.run_check_succ (ho : o.InRange) (hc : c.n < 8) (hwf : Memory.wf s.mem = true) (hi : i < 128) (hslot : o.slot + i ≤ 256) :
    (o.run c s (i + 1)).check = rowCheck o i (o.row c s i) (o.run c s i).check := by
  obtain ⟨v, _, _, e⟩ := o.step_eq c (o.run c s i) ho.aq ho.aoff hi
  rw [MulOp.run_succ, e, MulOp.row_run ho hc hwf hi hslot]

/-- R43: a run of rows that all agree meets no mismatch, and notes no more than rows do. -/
theorem MulOp.run_quiet (ho : o.InRange) (hc : c.n < 8) (hwf : Memory.wf s.mem = true) (hn : n ≤ 128) (hslot : o.slot + n ≤ 256)
    (hz : ∀ i < n, (o.row c s i).groups = 0) : (o.run c s n).check = none ∧ Touches (rowKeys c) s (o.run c s n).st := by
  induction n with
  | zero => exact ⟨rfl, Touches.refl _ _⟩
  | succ n ih =>
    obtain ⟨hcheck, htouch⟩ := ih (by omega) (by omega) (fun i hi => hz i (by omega))
    have hg := hz n (Nat.lt_succ_self n)
    refine ⟨?_, ?_⟩
    · rw [MulOp.run_check_succ ho hc hwf (by omega) (by omega), rowCheck, if_pos hg, hcheck]
    · rw [MulOp.run_succ]
      refine htouch.trans (MulOp.step_touches ho _ (by omega) (List.Subset.refl _) (Or.inl ?_))
      rw [MulOp.row_run ho hc hwf (by omega) (by omega), hg]

/-- R58: a run keeps the first row that disagrees. -/
theorem MulOp.run_first (ho : o.InRange) (hc : c.n < 8) (hwf : Memory.wf s.mem = true) (hslot : o.slot + n ≤ 256) (hg : (o.row c s i).groups ≠ 0)
    (hz : ∀ j < i, (o.row c s j).groups = 0) (hi : i + 1 ≤ n) (hn : n ≤ 128) :
    (o.run c s n).check = some (i, (o.row c s i).groups, o.slot + i) := by
  induction n, hi using Nat.le_induction with
  | base =>
    rw [MulOp.run_check_succ ho hc hwf (by omega) (by omega), rowCheck, if_neg hg, (MulOp.run_quiet ho hc hwf (by omega) (by omega) hz).1]
    rfl
  | succ m hm ih =>
    rw [MulOp.run_check_succ ho hc hwf (by omega) (by omega), ih (by omega) (by omega), rowCheck]
    exact ite_self _

end

end Sys2Proof.Machine
end

section
/-! PROOFS. What the trap of a failed check leaves alone (R169, R326, R335): the memory of its core's site, the accesses that the site
has accepted, and the registers of the core's page. -/

namespace Sys2Proof.Machine

/-! ### Registers and sites -/

/-- No register beside the keys `K` has changed, nor what `π` reads of any site. -/
structure Aside {α : Type} (π : Site → α) (K : Nat → Prop) (s t : State) : Prop where
  find : ∀ k, ¬ K k → tabFind t.regs k = tabFind s.regs k
  sites : ∀ i, π (t.site i) = π (s.site i)

section
variable {α : Type} {π : Site → α} {K L : Nat → Prop} {q s t : State}

theorem Aside.refl (s : State) : Aside π K s s := ⟨fun _ _ => rfl, fun _ => rfl⟩

theorem Aside.trans (h : Aside π K q s) (g : Aside π K s t) : Aside π K q t :=
  ⟨fun k hk => (g.find k hk).trans (h.find k hk), fun i => (g.sites i).trans (h.sites i)⟩

theorem Aside.mono (h : Aside π K s t) (hk : ∀ k, K k → L k) : Aside π L s t := ⟨fun k hn => h.find k (fun g => hn (hk k g)), h.sites⟩

theorem Aside.ite {p : Prop} [Decidable p] (hs : Aside π K q s) (ht : Aside π K q t) : Aside π K q (if p then s else t) := by
  split <;> assumption

theorem Aside.ofOff {ks : List Nat} (h : Off ks s t) (hk : ∀ k ∈ ks, K k) (hs : t.sites = s.sites) : Aside π K s t :=
  ⟨fun k hn => h.find k (fun g => hn (hk k g)), fun i => by unfold State.site; rw [hs]⟩

/-- A change of neither registers nor sites. -/
theorem Aside.same (h : Aside π K q s) (hr : t.regs = s.regs := by rfl) (hs : t.sites = s.sites := by rfl) : Aside π K q t :=
  h.trans (Aside.ofOff (ks := []) ⟨fun _ _ => by rw [hr]⟩ (fun _ hk => absurd hk List.not_mem_nil) hs)

theorem Aside.wr (h : Aside π K q s) {p : Nat} {f : Fld} {v : Nat} (hk : K (fldKey p f)) : Aside π K q (s.wr p f v) :=
  h.trans (Aside.ofOff ((Off.refl [fldKey p f] s).wr (List.mem_singleton_self _)) (fun _ g => List.mem_singleton.1 g ▸ hk) rfl)

theorem Aside.setBit (h : Aside π K q s) {p : Nat} {f : Fld} (hk : K (fldKey p f)) : Aside π K q (s.setBit p f) := h.wr hk

theorem Aside.orBits (h : Aside π K q s) {p : Nat} {f : Fld} {m : Nat} (hk : K (fldKey p f)) : Aside π K q (s.orBits p f m) := h.wr hk

theorem Aside.bump (h : Aside π K q s) {p : Nat} {f : Fld} {n : Nat} (hk : K (fldKey p f)) : Aside π K q (s.bump p f n) :=
  Aside.ite h (h.wr hk)

theorem Aside.setSite (h : Aside π K q s) {j : Nat} {v : Site} (hv : π v = π (s.site j)) : Aside π K q (s.setSite j v) := by
  refine h.trans ⟨fun _ _ => rfl, fun i => ?_⟩
  by_cases hij : j = i
  · subst hij
    rw [State.site_setSite_same, hv]
  · rw [State.site_setSite_ne _ _ _ _ hij]

theorem Aside.foldl {β : Type} {g : State → β → State} {l : List β} (hg : ∀ s a, Aside π K q s → Aside π K q (g s a))
    (h : Aside π K q s) : Aside π K q (l.foldl g s) := by
  induction l generalizing s with
  | nil => exact h
  | cons a l ih => exact ih (hg _ _ h)

theorem Aside.upTo {g : State → Nat → State} {n : Nat} (hg : ∀ s a, Aside π K q s → Aside π K q (g s a)) (h : Aside π K q s) :
    Aside π K q (Sys2Proof.upTo n g s) := Aside.foldl hg h

theorem Aside.rd (h : Aside π K s t) {p : Nat} {f : Fld} (hk : ¬ K (fldKey p f)) : t.rd p f = s.rd p f := by
  unfold State.rd
  rw [h.find _ hk]

end

/-! ### Records and faults -/

theorem State.bump_sites (s : State) (p : Nat) (f : Fld) (n : Nat) : (s.bump p f n).sites = s.sites := by
  unfold State.bump
  split <;> rfl

theorem logAdd_sites (s : State) (tag rec : Nat) : (logAdd s tag rec).sites = s.sites := by
  have drop : ∀ (u : State) (n : Nat),
      (({ u with logLost := n }.bump logP Reg.Lo.LOG_DROP_CNT 1).setBit logP Reg.Lo.DROP).sites = u.sites := fun u n =>
    State.bump_sites { u with logLost := n } _ _ _
  unfold logAdd
  extract_lets gap s1
  split
  · exact drop s _
  · split
    · rfl
    · split
      · exact drop s1 _
      · rfl

theorem faultRegion_sites (s : State) (r fc k : Nat) : (faultRegion s r fc k).sites = s.sites := by
  unfold faultRegion
  split <;> rfl

/-- The keys that the queue of region `r` writes. -/
def queueKeys (r : Nat) : List Nat := keysOf queueP [qFld (Reg.Qu.HEAD 0) (evqIx r), Reg.Qu.EVQ_DROP (r % 16)]

/-- The keys that a suspect event on site `i` writes (R24, R326, R414). -/
def suspectKeys (i : Nat) : List Nat :=
  keysOf (relP i) [Reg.Re.SUSPECT, Reg.Re.SUSPECT_CNT, Reg.Re.MARGIN_STEP] ++ keysOf (commonP i) [Reg.Sc.ROLE] ++
    keysOf prelP [Reg.Pr.SUSPECT_REGIONS] ++ keysOf bringP [Reg.Br.FAILED (i / 32)] ++
    keysOf mapP [Reg.Ma.RM_STATE, Reg.Ma.RM_CODE, Reg.Ma.MAP_CLASS, Reg.Ma.RETIRED (i / 16)] ++ logKeys

section
variable {α : Type} {π : Site → α} {K : Nat → Prop} {q s : State}

theorem logAdd_aside (h : Aside π K q s) (hk : ∀ k ∈ logKeys, K k) (tag rec : Nat) : Aside π K q (logAdd s tag rec) :=
  h.trans (Aside.ofOff (logAdd_off tag rec (Off.refl _ s) (List.Subset.refl _)) hk (logAdd_sites s tag rec))

theorem siteEvent_aside (h : Aside π K q s) (hk : ∀ k ∈ logKeys, K k) (i code sev page : Nat) (t : List RegDef) (sub n : Nat) :
    Aside π K q (siteEvent s i code sev page t sub n) := logAdd_aside h hk _ _

theorem qPut_aside (h : Aside π K q s) (x rec : Nat) (hk : K (fldKey queueP (qFld (Reg.Qu.HEAD 0) x))) : Aside π K q (qPut s x rec) := by
  unfold qPut
  extract_lets head owner a s1 s2
  have h1 : Aside π K q s1 := by
    refine Aside.ite h.same ?_
    split
    · exact h.same
    · exact h
  have h2 : Aside π K q s2 := h1.wr hk
  exact Aside.ite h2.same h2

theorem evqPut_aside (h : Aside π K q s) (r rec : Nat) (hk : ∀ k ∈ queueKeys r, K k) : Aside π K q (evqPut s r rec) := by
  unfold evqPut
  split
  next => exact h
  next hr =>
    refine Aside.ite (qPut_aside h _ _ (hk _ (keysOf_mem (List.mem_cons_self ..)))) (h.bump ?_)
    have hdrop := hk _ (keysOf_mem (f := Reg.Qu.EVQ_DROP (r % 16)) (List.mem_cons_of_mem _ (List.mem_singleton_self _)))
    rwa [Nat.mod_eq_of_lt (Nat.lt_of_not_le hr)] at hdrop

/-- R383: a record whose entry stands in host memory or is lost writes no memory of the panel. -/
theorem evqPut_mem {r : Nat} (rec : Nat)
    (h : 16 ≤ r ∨ qRoom s (evqIx r) = false ∨ s.rd queueP (qFld (Reg.Qu.HOST 0) (evqIx r)) = 1) : (evqPut s r rec).mem = s.mem := by
  refine MemIs.mem ?_
  unfold evqPut
  refine iteInduction (fun _ => MemIs.refl s) (fun hr => ?_)
  cases hroom : qRoom s (evqIx r)
  case false =>
    rw [if_neg Bool.false_ne_true]
    exact State.bump_memIs _ _ _ _ (MemIs.refl s)
  case true =>
    have hhost : s.rd queueP (qFld (Reg.Qu.HOST 0) (evqIx r)) = 1 := by simpa [hr, hroom] using h
    unfold qPut
    simp only [if_true, if_pos hhost]
    exact MemIs.ite ⟨rfl⟩ ⟨rfl⟩

theorem outOfService_aside (h : Aside π K q s) (b : Bool) : Aside π K q { s with outOfService := b } := h.same

theorem baWrite_aside (h : Aside π K q s) (p r : Nat) (f : Fld) (v : Nat) : Aside π K q (baWrite s p r f v) := h.same

theorem setRegion_aside (h : Aside π K q s) (r : Nat) (g : Region) : Aside π K q (s.setRegion r g) := h.same

theorem faultRegion_aside (h : Aside π K q s) (r fc k : Nat) : Aside π K q (faultRegion s r fc k) :=
  h.same (faultRegion_regs ..) (faultRegion_sites ..)

theorem faultRow_aside (h : Aside π K q s) (y : Nat) : Aside π K q (faultRow s y) :=
  Aside.foldl (fun _ _ g => faultRegion_aside g _ _ _) h

theorem remapRefuse_aside (h : Aside π K q s) (i : Nat) (hs : K (fldKey mapP Reg.Ma.RM_STATE)) (hc : K (fldKey mapP Reg.Ma.RM_CODE)) :
    Aside π K q (remapRefuse s i) := Aside.ite ((h.wr hs).wr hc).same h

/-- R24: a site that fails, of which `π` does not read whether it has. -/
theorem siteFail_aside (hf : ∀ x : Site, π { x with failed := true } = π x) (s : State) (i : Nat) (link : Bool) :
    Aside π (· ∈ suspectKeys i) s (siteFail s i link) := by
  have hlog : ∀ k ∈ logKeys, k ∈ suspectKeys i := fun k hk => List.mem_append_right _ hk
  unfold siteFail
  extract_lets y st again role s1 s2 s3 s4 s5 s6 s7
  have h1 : Aside π (· ∈ suspectKeys i) s s1 := remapRefuse_aside ((Aside.refl s).setSite (hf _)) i (by simp [suspectKeys, keysOf])
    (by simp [suspectKeys, keysOf])
  have h2 : Aside π (· ∈ suspectKeys i) s s2 := h1.orBits (by simp [suspectKeys, keysOf])
  have h3 : Aside π (· ∈ suspectKeys i) s s3 := faultRow_aside h2 y
  have h4 : Aside π (· ∈ suspectKeys i) s s4 := h2.wr (by simp [suspectKeys, keysOf])
  have h5 : Aside π (· ∈ suspectKeys i) s s5 := h4.orBits (by simp [suspectKeys, keysOf, y])
  have h6 : Aside π (· ∈ suspectKeys i) s s6 := faultRow_aside h5 y
  have h7 : Aside π (· ∈ suspectKeys i) s s7 := Aside.ite (h5.wr (by simp [suspectKeys, keysOf])) h5
  exact Aside.ite (Aside.ite (outOfService_aside h3 true) h3) (Aside.ite (outOfService_aside h6 true) (siteEvent_aside h7 hlog _ _ _ _ _ _ _))

/-- R326: a suspect event, where `π` reads neither the hold-off of a site nor whether it has failed. -/
theorem suspect_aside (hh : ∀ (x : Site) n, π { x with holdOff := n } = π x) (hf : ∀ x : Site, π { x with failed := true } = π x) (s : State)
    (i : Nat) : Aside π (· ∈ suspectKeys i) s (suspect s i) := by
  have hlog : ∀ k ∈ logKeys, k ∈ suspectKeys i := fun k hk => List.mem_append_right _ hk
  unfold suspect
  extract_lets p s1 x r act m s2 s3 g s4
  have h1 : Aside π (· ∈ suspectKeys i) s s1 :=
    ((Aside.refl s).setBit (by simp [suspectKeys, keysOf, p])).bump (by simp [suspectKeys, keysOf, p])
  have hact : ∀ u, Aside π (· ∈ suspectKeys i) s u → Aside π (· ∈ suspectKeys i) s (act u) := fun u h => h.setSite (hh _ _)
  have hb : Aside π (· ∈ suspectKeys i) s (baWrite s1 (spowP i) 16 Reg.Sp.MARGIN (m + 1)) := baWrite_aside h1 _ _ _ _
  have h2 : Aside π (· ∈ suspectKeys i) s s2 := hb.setBit (by simp [suspectKeys, keysOf, p])
  have h3 : Aside π (· ∈ suspectKeys i) s s3 := h1.orBits (by simp [suspectKeys, keysOf])
  have h4 : Aside π (· ∈ suspectKeys i) s s4 := setRegion_aside h3 _ _
  have hfail : Aside π (· ∈ suspectKeys i) s (siteFail s1 i false) := h1.trans (siteFail_aside hf s1 i false)
  clear_value s4 s3 s2 s1 act
  exact Aside.ite h1 (Aside.ite (hact _ (siteEvent_aside h2 hlog _ _ _ _ _ _ _)) (Aside.ite h1
    (Aside.ite (hact _ (siteEvent_aside h4 hlog _ _ _ _ _ _ _)) (Aside.ite (hact _ hfail) h1))))

end

/-! ### The end of a shadow run -/

/-- R116: clearing the memories of a site. -/
theorem clearSram_mem (s : State) (i : Nat) : (clearSram s i).mem = memClear s.mem (siteBase i + 0x8000000000) 0x300000000 := by
  unfold clearSram
  refine (MemIs.upTo (q := { s with mem := memClear s.mem (siteBase i + 0x8000000000) 0x300000000 }) (fun u n h => ?_) (MemIs.refl _)).mem
  exact MemIs.upTo (fun _ _ h => ⟨h.mem⟩) ⟨h.mem⟩

theorem clearSram_aside {α : Type} (π : Site → α) (s : State) (i : Nat) : Aside π (fun _ => True) s (clearSram s i) := by
  unfold clearSram
  refine Aside.upTo (fun u n h => Aside.upTo (fun _ _ h => h.wr trivial) (Aside.wr ?_ trivial)) (Aside.refl s).same
  have hvalid : Aside π (fun _ => True) s ((u.wr (coreP ⟨i, n⟩) Reg.Co.BUF_A_VALID 0).wr (coreP ⟨i, n⟩) Reg.Co.BUF_B_VALID 0) :=
    (h.wr trivial).wr trivial
  exact hvalid.same

theorem mirrorEnds_aside {K : Nat → Prop} {q s : State} (h : Aside Site.acc K q s) (b : Nat) :
    Aside Site.acc K q (s.setSite b { (s.site b) with mirTo := 256, digOn := false }) := h.setSite rfl

/-- R335: a shadow run of site `j` ends with the memories of `j` as they are or cleared. -/
theorem shadowEnd_mem (s : State) (j st why : Nat) :
    (shadowEnd s j st why).mem = s.mem ∨ (shadowEnd s j st why).mem = memClear s.mem (siteBase j + 0x8000000000) 0x300000000 := by
  unfold shadowEnd
  extract_lets p s1 s2 s3 s4 s5 s6 s7 s8 s9 s10
  have h1 : MemIs s s1 := State.wr_memIs _ _ _ _ (State.wr_memIs _ _ _ _ (MemIs.refl s))
  have h2 : MemIs s s2 := MemIs.ite (State.setBit_memIs _ _ _ h1) h1
  have h3 : MemIs s s3 := MemIs.ite (State.setBit_memIs _ _ _ h2) h2
  have h4 : MemIs s s4 := siteEvent_memIs _ _ _ _ _ _ _ _ h3
  have h5 : MemIs s s5 := MemIs.ite (suspect_memIs _ _ h4) h4
  have h7 : MemIs s6 s7 := MemIs.foldl (fun _ _ h => State.wr_memIs _ _ _ _ h) (MemIs.refl s6)
  have h8 : MemIs s6 s8 := State.wr_memIs _ _ _ _ (State.wr_memIs _ _ _ _ h7)
  have h9 : MemIs s6 s9 := State.wr_memIs _ _ _ _ h8
  clear_value s9
  have h10 : MemIs s6 s10 := MemIs.upTo (n := 256) (s := s9) (fun _ _ h => MemIs.ite (State.setSite_memIs _ _ _ h) h) h9
  split
  · exact Or.inl rfl
  · split
    · exact Or.inl h5.mem
    · exact Or.inr ((State.setSite_memIs _ _ _ h10).mem.trans ((clearSram_mem s5 j).trans (by rw [h5.mem])))

/-- R335: every site's accepted accesses stand. -/
theorem shadowEnd_acc (s : State) (j st why : Nat) : Aside Site.acc (fun _ => True) s (shadowEnd s j st why) := by
  have hevent : ∀ k ∈ logKeys, True := fun _ _ => trivial
  unfold shadowEnd
  extract_lets p s1 s2 s3 s4 s5 s6 s7 s8 s9 s10
  have h1 : Aside Site.acc (fun _ => True) s s1 := ((Aside.refl s).wr trivial).wr trivial
  have h2 : Aside Site.acc (fun _ => True) s s2 := Aside.ite (h1.setBit trivial) h1
  have h3 : Aside Site.acc (fun _ => True) s s3 := Aside.ite (h2.setBit trivial) h2
  have h4 : Aside Site.acc (fun _ => True) s s4 := siteEvent_aside h3 hevent _ _ _ _ _ _ _
  have h5 : Aside Site.acc (fun _ => True) s s5 :=
    Aside.ite (h4.trans ((suspect_aside (fun _ _ => rfl) (fun _ => rfl) s4 j).mono (fun _ _ => trivial))) h4
  have h6 : Aside Site.acc (fun _ => True) s s6 := h5.trans (clearSram_aside _ _ _)
  have h7 : Aside Site.acc (fun _ => True) s s7 := Aside.foldl (fun _ _ h => h.wr trivial) h6
  have h9 : Aside Site.acc (fun _ => True) s s9 := ((h7.wr trivial).wr trivial).wr trivial
  clear_value s9
  have h10 : Aside Site.acc (fun _ => True) s s10 := Aside.upTo (n := 256) (s := s9) (fun u b h => Aside.ite (mirrorEnds_aside h b) h) h9
  clear_value s10
  exact Aside.ite (Aside.refl s) (Aside.ite h5 (h10.setSite rfl))

end Sys2Proof.Machine
end

section
/-! PROOFS. The trap of a failed check (R43, R169): what it stops and records, and what of its core's site it leaves as it was. -/

namespace Sys2Proof.Machine

/-! ### Keys of other pages -/

/-- Keys outside the pages of the sites: the panel's own fields, and indexed fields. -/
def panelKey (k : Nat) : Prop := k < 2 ^ 33 ∨ 2 ^ 80 ≤ k

/-- A field that stands in its page. -/
def Paged (f : Fld) : Prop := f.ix = false ∧ f.off * 32 + f.lsb < 0x20000

theorem paged_key {p : Nat} {f : Fld} (h : Paged f) : p * 32 ≤ fldKey p f ∧ fldKey p f < p * 32 + 0x20000 := by
  obtain ⟨hix, hoff⟩ := h
  unfold fldKey
  rw [hix, if_neg Bool.false_ne_true]
  omega

theorem panelKey_ix {p : Nat} {f : Fld} (h : f.ix = true) : panelKey (fldKey p f) := by
  unfold fldKey
  rw [if_pos h]
  exact Or.inr (by omega)

theorem panelKey_paged {p : Nat} {f : Fld} (h : Paged f) (hp : p ≤ 0xFFFF000) : panelKey (fldKey p f) :=
  Or.inl (by have := paged_key (p := p) h; omega)

theorem logKeys_panel : ∀ k ∈ logKeys, panelKey k := by
  intro k hk
  obtain ⟨f, hf, rfl⟩ := List.mem_map.1 hk
  have hpaged : ∀ f ∈ [Reg.Lo.LOG_NEXT_SEQ, Reg.Lo.LOG_DROP_CNT, Reg.Lo.DROP], f.ix = false ∧ f.off * 32 + f.lsb < 0x20000 := by decide
  exact panelKey_paged (hpaged f hf) (by decide)

theorem queueKeys_panel (r : Nat) : ∀ k ∈ queueKeys r, panelKey k := by
  intro k hk
  rcases List.mem_cons.1 hk with rfl | hk
  · exact panelKey_ix rfl
  · rw [List.mem_singleton.1 hk]
    exact panelKey_paged ⟨rfl, by simp only [Reg.Qu.EVQ_DROP]; omega⟩ (by decide)

theorem suspectKeys_cases {i k : Nat} (h : k ∈ suspectKeys i) :
    k ∈ keysOf (relP i) [Reg.Re.SUSPECT, Reg.Re.SUSPECT_CNT, Reg.Re.MARGIN_STEP] ∨ k = fldKey (commonP i) Reg.Sc.ROLE ∨ panelKey k := by
  unfold suspectKeys at h
  simp only [List.mem_append] at h
  obtain ((((hrel | hrole) | hreg) | hfailed) | hmap) | hlog := h
  · exact Or.inl hrel
  · exact Or.inr (Or.inl (List.mem_singleton.1 hrole))
  · rw [List.mem_singleton.1 hreg]
    exact Or.inr (Or.inr (panelKey_paged ⟨rfl, by decide⟩ (by decide)))
  · rw [List.mem_singleton.1 hfailed]
    exact Or.inr (Or.inr (panelKey_ix rfl))
  · have hpaged : ∀ f ∈ [Reg.Ma.RM_STATE, Reg.Ma.RM_CODE, Reg.Ma.MAP_CLASS], f.ix = false ∧ f.off * 32 + f.lsb < 0x20000 := by decide
    rw [show keysOf mapP [Reg.Ma.RM_STATE, Reg.Ma.RM_CODE, Reg.Ma.MAP_CLASS, Reg.Ma.RETIRED (i / 16)] =
      keysOf mapP ([Reg.Ma.RM_STATE, Reg.Ma.RM_CODE, Reg.Ma.MAP_CLASS] ++ [Reg.Ma.RETIRED (i / 16)]) from rfl, keysOf_append, List.mem_append] at hmap
    rcases hmap with hmap | hmap
    · obtain ⟨f, hf, rfl⟩ := List.mem_map.1 hmap
      exact Or.inr (Or.inr (panelKey_paged (hpaged f hf) (by decide)))
    · rw [List.mem_singleton.1 hmap]
      exact Or.inr (Or.inr (panelKey_ix rfl))
  · exact Or.inr (Or.inr (logKeys_panel k hlog))

/-- Two fields of one page that do not share their place. -/
theorem rd_wr_apart (s : State) (f g : Fld) (p v : Nat) (h : f.ix = g.ix ∧ f.off * 32 + f.lsb ≠ g.off * 32 + g.lsb) :
    (s.wr p f v).rd p g = s.rd p g := State.rd_wr_ne _ _ _ _ _ _ (fldKey_ne h.1 h.2)

section
variable {c : CoreId} {f : Fld}

/-- The pages of a core that the panel has are no panel pages. -/
theorem coreKey_not_panel (hc : coreOk c = true) (h : Paged f) : ¬ panelKey (fldKey (coreP c) f) := by
  have hk := paged_key (p := coreP c) h
  unfold coreOk at hc
  simp only [Bool.and_eq_true, decide_eq_true_eq] at hc
  unfold panelKey
  unfold coreP siteP at *
  omega

theorem coreKey_not_suspect (hc : coreOk c = true) (h : Paged f) : fldKey (coreP c) f ∉ suspectKeys c.site := by
  have hk := paged_key (p := coreP c) h
  have hn := coreOk_n hc
  intro hmem
  rcases suspectKeys_cases hmem with hrel | hrole | hpanel
  · have hpaged : ∀ f ∈ [Reg.Re.SUSPECT, Reg.Re.SUSPECT_CNT, Reg.Re.MARGIN_STEP], f.ix = false ∧ f.off * 32 + f.lsb < 0x20000 := by decide
    obtain ⟨g, hg, e⟩ := List.mem_map.1 hrel
    have := paged_key (p := relP c.site) (hpaged g hg)
    unfold coreP relP siteP at *
    omega
  · have := paged_key (p := commonP c.site) (f := Reg.Sc.ROLE) ⟨rfl, by decide⟩
    unfold coreP commonP siteP at *
    omega
  · exact coreKey_not_panel hc h hpanel

/-- R332: whether a site is a shadow stands where only keys of the panel, of the suspect event and of a core's page are written. -/
theorem shadowKey_not_panel (hc : coreOk c = true) : ¬ panelKey (fldKey (relP c.site) Reg.Re.SHADOW_STATE) := by
  have hk := paged_key (p := relP c.site) (f := Reg.Re.SHADOW_STATE) ⟨rfl, by decide⟩
  unfold coreOk at hc
  simp only [Bool.and_eq_true, decide_eq_true_eq] at hc
  unfold panelKey
  unfold relP siteP at *
  omega

theorem shadowKey_not_suspect (hc : coreOk c = true) : fldKey (relP c.site) Reg.Re.SHADOW_STATE ∉ suspectKeys c.site := by
  intro hmem
  rcases suspectKeys_cases hmem with hrel | hrole | hpanel
  · exact fldKey_not_mem (by decide) hrel
  · have hk := paged_key (p := relP c.site) (f := Reg.Re.SHADOW_STATE) ⟨rfl, by decide⟩
    have := paged_key (p := commonP c.site) (f := Reg.Sc.ROLE) ⟨rfl, by decide⟩
    unfold relP commonP siteP at *
    omega
  · exact shadowKey_not_panel hc hpanel

theorem shadowKey_ne_core (hc : coreOk c = true) (h : Paged f) : fldKey (relP c.site) Reg.Re.SHADOW_STATE ≠ fldKey (coreP c) f := by
  have hk := paged_key (p := relP c.site) (f := Reg.Re.SHADOW_STATE) ⟨rfl, by decide⟩
  have := paged_key (p := coreP c) h
  have hn := coreOk_n hc
  unfold relP coreP siteP at *
  omega

end

/-! ### Record and stop (R169, R171) -/

/-- The fields of its page that a core's trap writes. -/
def stopFields : List Fld := [Reg.Co.RECORD_SEQ, Reg.Co.STATE, Reg.Co.TRAP_TYPE, Reg.Co.TRAP_CAUSE, Reg.Co.TRAP_SLOT]

/-- The keys that a core's record writes, and others of the panel. -/
def recordKey (c : CoreId) (k : Nat) : Prop := panelKey k ∨ k = fldKey (coreP c) Reg.Co.RECORD_SEQ

/-- The keys that the trap of a failed check writes before the region takes its fault. -/
def stopKey (c : CoreId) (k : Nat) : Prop := panelKey k ∨ k ∈ suspectKeys c.site ∨ k ∈ keysOf (coreP c) stopFields

theorem stopKey_core {c : CoreId} {f : Fld} (h : f ∈ stopFields) : stopKey c (fldKey (coreP c) f) := Or.inr (Or.inr (keysOf_mem h))

theorem recordKey_stop {c : CoreId} {k : Nat} (h : recordKey c k) : stopKey c k :=
  h.imp_right (fun e => Or.inr (by rw [e]; exact keysOf_mem (by decide)))

theorem shadowKey_not_stop {c : CoreId} (hc : coreOk c = true) : ¬ stopKey c (fldKey (relP c.site) Reg.Re.SHADOW_STATE) := by
  rintro (h | h | h)
  · exact shadowKey_not_panel hc h
  · exact shadowKey_not_suspect hc h
  · obtain ⟨f, hf, e⟩ := List.mem_map.1 h
    have hpaged : ∀ f ∈ stopFields, f.ix = false ∧ f.off * 32 + f.lsb < 0x20000 := by decide
    exact shadowKey_ne_core hc (hpaged f hf) e.symm

/-- A field of the core's page that the trap does not write. -/
theorem coreKey_not_stop {c : CoreId} {f : Fld} (hc : coreOk c = true) (h : Paged f)
    (hf : ∀ g ∈ stopFields, g.ix = f.ix ∧ g.off * 32 + g.lsb ≠ f.off * 32 + f.lsb) : ¬ stopKey c (fldKey (coreP c) f) := by
  rintro (hp | hs | hk)
  · exact coreKey_not_panel hc h hp
  · exact coreKey_not_suspect hc h hs
  · exact fldKey_not_mem hf hk

/-- R383: what the queue's words and the site's region say of a record. -/
theorem recordsOutside_congr {s t : State} {i : Nat} (h : RecordsOutside s i) (hq : ∀ f : Fld, f.ix = true → t.rd queueP f = s.rd queueP f)
    (hr : (t.site i).region = (s.site i).region) : RecordsOutside t i := by
  unfold RecordsOutside qRoom qLen at *
  dsimp only at h ⊢
  rw [hr, hq (qFld _ _) rfl, hq (qFld _ _) rfl, hq (qFld _ _) rfl, hq (qFld _ _) rfl, hq (qFld _ _) rfl]
  exact h

section
variable {α : Type} {π : Site → α} {q s : State} {c : CoreId}

theorem coreRecord_aside (h : Aside π (recordKey c) q s) (t : TrapInfo) : Aside π (recordKey c) q (coreRecord s c t).1 := by
  unfold coreRecord
  exact logAdd_aside (evqPut_aside (h.wr (Or.inr rfl)) _ _ (fun k hk => Or.inl (queueKeys_panel _ k hk)))
    (fun k hk => Or.inl (logKeys_panel k hk)) _ _

theorem coreRecord_mem (hc : coreOk c = true) (h : RecordsOutside s c.site) (t : TrapInfo) : (coreRecord s c t).1.mem = s.mem := by
  have hqueue : RecordsOutside (s.wr (coreP c) Reg.Co.RECORD_SEQ ((s.rd (coreP c) Reg.Co.RECORD_SEQ + 1) % 2 ^ 32)) c.site := by
    refine recordsOutside_congr h (fun f hf => State.rd_wr_ne _ _ _ _ _ _ (fun e => ?_)) rfl
    exact coreKey_not_panel hc ⟨rfl, by decide⟩ (e ▸ panelKey_ix hf)
  unfold coreRecord
  exact ((logAdd_memIs _ _ _ (MemIs.refl _)).mem).trans (evqPut_mem _ hqueue)

/-- R169: what a trap writes of the core's page once it is recorded. -/
def stopped (s : State) (c : CoreId) (t : TrapInfo) : State :=
  let p := coreP c
  let s := s.wr p Reg.Co.STATE 4
  if s.rd p Reg.Co.TRAP_TYPE = 0 then
    ((s.wr p Reg.Co.TRAP_TYPE t.ty).wr p Reg.Co.TRAP_CAUSE t.cause).wr p Reg.Co.TRAP_SLOT t.slot
  else s

theorem stopped_aside (h : Aside π (stopKey c) q s) (t : TrapInfo) : Aside π (stopKey c) q (stopped s c t) := by
  have h1 := h.wr (v := 4) (stopKey_core (f := Reg.Co.STATE) (by decide))
  exact Aside.ite (((h1.wr (stopKey_core (by decide))).wr (stopKey_core (by decide))).wr (stopKey_core (by decide))) h1

theorem stopped_memIs (s : State) (c : CoreId) (t : TrapInfo) : MemIs s (stopped s c t) := MemIs.ite ⟨rfl⟩ ⟨rfl⟩

/-- A failed check's trap up to the fault of its region: recorded, the core stopped, its site suspect. -/
def checkStop (s : State) (c : CoreId) (t : TrapInfo) (k : Core) : State := suspect ((stopped (coreRecord s c t).1 c t).setCore c k) c.site

theorem coreTrap_check {t : TrapInfo} (hty : t.ty = 9) (hst : ¬ (s.rd (coreP c) Reg.Co.STATE = 4 ∨ s.rd (coreP c) Reg.Co.STATE = 5)) :
    ∃ k, coreTrap s c t true = if isShadow (checkStop s c t k) c.site then shadowEnd (checkStop s c t k) c.site 4 2
      else faultRegion (buddyEnds (checkStop s c t k) c.site) ((checkStop s c t k).site c.site).region ((checkStop s c t k).site c.site).fc 1 := by
  have hne : ∀ n, n ≠ 9 → ¬ t.ty = n := fun n hn h => hn (h.symm.trans hty)
  unfold coreTrap
  rw [if_neg hst]
  rcases hrec : coreRecord s c t with ⟨u, b⟩
  dsimp -zeta only
  extract_lets s1 s2 k s3 s4 s5 s6 s7
  have h4 : s4 = s3 := if_neg (hne 5 (by decide))
  have h5 : s5 = s4 := if_neg (hne 7 (by decide))
  have h6 : s6 = s5 := if_neg (hne 8 (by decide))
  have h7 : s7 = suspect s6 c.site := if_pos hty
  obtain ⟨k', h3⟩ : ∃ k', s3 = s2.setCore c k' := ⟨_, rfl⟩
  have hstop : s7 = checkStop s c t k' := by
    rw [h7, h6, h5, h4, h3, checkStop, hrec]
    rfl
  exact ⟨k', by rw [hstop]⟩

theorem checkStop_aside (hh : ∀ (x : Site) n, π { x with holdOff := n } = π x) (hf : ∀ x : Site, π { x with failed := true } = π x)
    (s : State) (t : TrapInfo) (k : Core) : Aside π (stopKey c) s (checkStop s c t k) := by
  have hstop : Aside π (stopKey c) s (stopped (coreRecord s c t).1 c t) := stopped_aside ((coreRecord_aside (Aside.refl s) t).mono (fun _ => recordKey_stop)) t
  have hcore : Aside π (stopKey c) s ((stopped (coreRecord s c t).1 c t).setCore c k) := hstop.same
  exact hcore.trans ((suspect_aside hh hf _ _).mono (fun _ hk => Or.inr (Or.inl hk)))

theorem checkStop_mem (hc : coreOk c = true) (h : RecordsOutside s c.site) (t : TrapInfo) (k : Core) : (checkStop s c t k).mem = s.mem :=
  ((suspect_memIs _ _ (State.setCore_memIs _ _ _ (stopped_memIs _ _ _))).mem).trans (coreRecord_mem hc h t)

theorem checkStop_plain (hc : coreOk c = true) (h : isShadow s c.site = false) (t : TrapInfo) (k : Core) :
    isShadow (checkStop s c t k) c.site = false := by
  have ha := checkStop_aside (π := Site.acc) (fun _ _ => rfl) (fun _ => rfl) s t k (c := c)
  unfold isShadow at h ⊢
  rw [ha.rd (shadowKey_not_stop hc)]
  exact h

end

/-! ### What stands of the site -/

/-- The words of site `i`. -/
def siteWord (i k : Nat) : Prop := siteBase i ≤ 8 * k ∧ 8 * k < siteBase i + 2 ^ 40

/-- R335: where a site is no shadow itself, the end of its shadow's run leaves it its memory. -/
theorem buddyEnds_words {s : State} {i : Nat} (hwf : Memory.wf s.mem = true) (h : isShadow s i = false) :
    SameWords (siteWord i) s.mem (buddyEnds s i).mem := by
  unfold buddyEnds
  split
  case isFalse => exact SameWords.refl hwf
  case isTrue hto =>
    by_cases hi : (s.site i).mirTo = i
    · have hend : shadowEnd s (s.site i).mirTo 5 4 = s := by
        unfold shadowEnd
        rw [hi, h]
        rfl
      rw [hend]
      exact SameWords.refl hwf
    · rcases shadowEnd_mem s (s.site i).mirTo 5 4 with e | e <;> rw [e]
      · exact SameWords.refl hwf
      · refine SameWords.clear hwf (by unfold siteBase; omega) (by norm_num) (fun k hk hin => ?_)
        unfold siteWord siteBase at hk
        unfold inBlock siteBase at hin
        omega

theorem buddyEnds_acc (s : State) (i : Nat) : Aside Site.acc (fun _ => True) s (buddyEnds s i) :=
  Aside.ite (shadowEnd_acc ..) (Aside.refl s)

section
variable {s : State} {c : CoreId} {t : TrapInfo}

/-- The trap of a failed check leaves its core's site its memory, where its record stands outside the panel's memory. -/
theorem coreTrap_words (hty : t.ty = 9) (hc : coreOk c = true) (hplain : isShadow s c.site = false) (hwf : Memory.wf s.mem = true)
    (h : RecordsOutside s c.site) : SameWords (siteWord c.site) s.mem (coreTrap s c t true).mem := by
  by_cases hst : s.rd (coreP c) Reg.Co.STATE = 4 ∨ s.rd (coreP c) Reg.Co.STATE = 5
  · unfold coreTrap
    rw [if_pos hst, (State.bump_memIs s _ _ 1 (MemIs.refl s)).mem]
    exact SameWords.refl hwf
  · obtain ⟨k, e⟩ := coreTrap_check hty hst
    have hmem := checkStop_mem hc h t k
    have hwords := buddyEnds_words (by rw [hmem]; exact hwf) (checkStop_plain hc hplain t k)
    rw [e, checkStop_plain hc hplain t k, if_neg Bool.false_ne_true, (faultRegion_memIs _ _ _ _ (MemIs.refl _)).mem]
    rwa [hmem] at hwords

/-- It leaves every site the accesses that it has accepted. -/
theorem coreTrap_acc (hty : t.ty = 9) (i : Nat) : ((coreTrap s c t true).site i).acc = (s.site i).acc := by
  by_cases hst : s.rd (coreP c) Reg.Co.STATE = 4 ∨ s.rd (coreP c) Reg.Co.STATE = 5
  · unfold coreTrap State.site
    rw [if_pos hst, State.bump_sites]
  · obtain ⟨k, e⟩ := coreTrap_check hty hst
    have hstop := (checkStop_aside (c := c) (π := Site.acc) (fun _ _ => rfl) (fun _ => rfl) s t k).mono (L := fun _ => True) (fun _ _ => trivial)
    rw [e]
    exact (Aside.ite (hstop.trans (shadowEnd_acc ..)) (faultRegion_aside (hstop.trans (buddyEnds_acc ..)) _ _ _)).sites i

end

/-- R169: where no shadow runs beside it, the trap of a failed check stops a running core that has no trap yet, names itself, and
writes no other field of the core's page. -/
theorem coreTrap_regs {s : State} {c : CoreId} {t : TrapInfo} (hty : t.ty = 9) (hc : coreOk c = true) (hplain : isShadow s c.site = false)
    (hst : s.rd (coreP c) Reg.Co.STATE = 2) (htrap : s.rd (coreP c) Reg.Co.TRAP_TYPE = 0) (hmir : 256 ≤ (s.site c.site).mirTo) :
    (coreTrap s c t true).rd (coreP c) Reg.Co.STATE = 4 ∧ (coreTrap s c t true).rd (coreP c) Reg.Co.TRAP_TYPE = 9 ∧
      ∀ f, ¬ stopKey c (fldKey (coreP c) f) → (coreTrap s c t true).rd (coreP c) f = s.rd (coreP c) f := by
  obtain ⟨k, e⟩ := coreTrap_check (s := s) (c := c) hty (by omega)
  have hall := checkStop_aside (π := Site.mirTo) (c := c) (fun _ _ => rfl) (fun _ => rfl) s t k
  have hto : ((checkStop s c t k).site c.site).mirTo = (s.site c.site).mirTo := hall.sites c.site
  have hrd : ∀ f, (coreTrap s c t true).rd (coreP c) f = (checkStop s c t k).rd (coreP c) f := fun f => by
    rw [e, checkStop_plain hc hplain t k, if_neg Bool.false_ne_true, buddyEnds, if_neg (by rw [hto]; omega)]
    unfold State.rd
    rw [faultRegion_regs]
  have hrec : (coreRecord s c t).1.rd (coreP c) Reg.Co.TRAP_TYPE = 0 := by
    have hkey : fldKey (coreP c) Reg.Co.TRAP_TYPE ≠ fldKey (coreP c) Reg.Co.RECORD_SEQ := fldKey_ne (by decide) (by decide)
    rw [(coreRecord_aside (π := Site.acc) (c := c) (Aside.refl s) t).rd (fun h => h.elim (coreKey_not_panel hc ⟨rfl, by decide⟩) hkey)]
    exact htrap
  have hstop : stopped (coreRecord s c t).1 c t = (((((coreRecord s c t).1.wr (coreP c) Reg.Co.STATE 4).wr (coreP c) Reg.Co.TRAP_TYPE t.ty).wr
      (coreP c) Reg.Co.TRAP_CAUSE t.cause).wr (coreP c) Reg.Co.TRAP_SLOT t.slot) :=
    if_pos ((rd_wr_apart _ Reg.Co.STATE Reg.Co.TRAP_TYPE _ _ (by decide)).trans hrec)
  have hsus : ∀ f, Paged f → (checkStop s c t k).rd (coreP c) f = (stopped (coreRecord s c t).1 c t).rd (coreP c) f := fun f hf =>
    (suspect_aside (π := Site.acc) (fun _ _ => rfl) (fun _ => rfl) _ c.site).rd (coreKey_not_suspect hc hf)
  refine ⟨?_, ?_, fun f hf => (hrd f).trans (hall.rd hf)⟩
  · rw [hrd, hsus _ ⟨rfl, by decide⟩, hstop, rd_wr_apart _ Reg.Co.TRAP_SLOT Reg.Co.STATE _ _ (by decide),
      rd_wr_apart _ Reg.Co.TRAP_CAUSE Reg.Co.STATE _ _ (by decide), rd_wr_apart _ Reg.Co.TRAP_TYPE Reg.Co.STATE _ _ (by decide), State.rd_wr_same]
    rfl
  · rw [hrd, hsus _ ⟨rfl, by decide⟩, hstop, rd_wr_apart _ Reg.Co.TRAP_SLOT Reg.Co.TRAP_TYPE _ _ (by decide),
      rd_wr_apart _ Reg.Co.TRAP_CAUSE Reg.Co.TRAP_TYPE _ _ (by decide), State.rd_wr_same, hty]
    rfl

end Sys2Proof.Machine
end

section
/-! PROOFS. MXMUL (R37 to R45, R58): its rows in their slots, and the trap of the first row that disagrees. -/

namespace Sys2Proof.Machine

/-! ### The operation -/

/-- R49: the rows that an MXMUL slot runs. -/
def mulOp (mx : Nat) (arr : ArrayUpset) : MulOp :=
  { wbuf := bits mx 8 1, acc := bits mx 9 1, amode := bits mx 10 1, aq := bits mx 11 3, aoff := bits mx 14 7, slot := bits mx 28 7,
    xsel := bits mx 35 1, xidx := bits mx 36 7, psh := sgn 6 (bits mx 43 6), arr := arr }

/-- R49: how many. -/
def mulRows (mx : Nat) : Nat := bits mx 21 7 + 1

theorem mulOp_inRange (mx : Nat) (arr : ArrayUpset) : (mulOp mx arr).InRange := ⟨Nat.mod_lt _ (by norm_num), Nat.mod_lt _ (by norm_num)⟩

theorem mulRows_le (mx : Nat) : mulRows mx ≤ 128 := Nat.mod_lt _ (by norm_num)

/-- R51: an accepted MXMUL keeps its slots in the accumulator. -/
theorem mulOp_slots {s : State} {c : CoreId} {mx t : Nat} (h : mxBad s c mx t = []) (hop : bits mx 0 8 = 3) (arr : ArrayUpset) :
    (mulOp mx arr).slot + mulRows mx ≤ 128 := by
  unfold mxBad at h
  simp only [hop] at h
  have hfit := fieldBad_nil (append_nil (append_nil (append_nil (append_nil (append_nil h).1).1).1).1).2
  rw [decide_eq_false_iff_not] at hfit
  exact Nat.le_of_not_lt hfit

/-- `mxMul` of the rows of `o`. -/
def MulOp.mul (o : MulOp) (c : CoreId) (s : State) (n e0 : Nat) : MulRes :=
  mxMul s c o.wbuf o.acc o.amode o.aq o.aoff n o.slot o.xsel o.xidx o.psh o.arr e0

/-- R58: what the CHECK registers take from a row of group mismatches `g` in slot `m`. -/
def noteCheck (s : State) (c : CoreId) (g m cyc : Nat) : State :=
  (((s.setBit (coreP c) Reg.Co.CHECK).wr (coreP c) Reg.Co.GROUPS g).wr (coreP c) Reg.Co.SLOT m).wr (coreP c) Reg.Co.CYCLE_208 cyc

/-- What the rows of an MXMUL and its CHECK registers write. -/
def mulFields : List Fld := spFields ++ mxFields ++ [Reg.Co.CHECK_CNT, Reg.Co.CHECK, Reg.Co.GROUPS, Reg.Co.SLOT, Reg.Co.CYCLE_208]

theorem mulFields_paged : ∀ f ∈ mulFields, f.ix = false ∧ f.off * 32 + f.lsb < 0x20000 := by decide

theorem noteCheck_touches {s : State} {c : CoreId} (g m cyc : Nat) : Touches (keysOf (coreP c) mulFields) s (noteCheck s c g m cyc) :=
  ((((Touches.refl _ s).setBit (keysOf_mem (by decide))).wr (keysOf_mem (by decide))).wr (keysOf_mem (by decide))).wr (keysOf_mem (by decide))

theorem noteCheck_rd (s : State) (c : CoreId) {g m : Nat} (cyc : Nat) (hg : g < 256) (hm : m < 128) :
    (noteCheck s c g m cyc).rd (coreP c) Reg.Co.CHECK = 1 ∧ (noteCheck s c g m cyc).rd (coreP c) Reg.Co.GROUPS = g ∧
      (noteCheck s c g m cyc).rd (coreP c) Reg.Co.SLOT = m := by
  unfold noteCheck State.setBit
  refine ⟨?_, ?_, ?_⟩
  · rw [rd_wr_apart _ Reg.Co.CYCLE_208 Reg.Co.CHECK _ _ (by decide), rd_wr_apart _ Reg.Co.SLOT Reg.Co.CHECK _ _ (by decide),
      rd_wr_apart _ Reg.Co.GROUPS Reg.Co.CHECK _ _ (by decide), State.rd_wr_same]
    rfl
  · rw [rd_wr_apart _ Reg.Co.CYCLE_208 Reg.Co.GROUPS _ _ (by decide), rd_wr_apart _ Reg.Co.SLOT Reg.Co.GROUPS _ _ (by decide), State.rd_wr_same]
    exact Nat.mod_eq_of_lt hg
  · rw [rd_wr_apart _ Reg.Co.CYCLE_208 Reg.Co.SLOT _ _ (by decide), State.rd_wr_same]
    exact Nat.mod_eq_of_lt hm

section
variable {s : State} {c : CoreId}

theorem MulOp.mul_none {o : MulOp} {n e0 : Nat} (h : (o.run c s n).check = none) : o.mul c s n e0 = o.run c s n := by
  unfold MulOp.mul mxMul
  show (match (o.run c s n).check with | none => o.run c s n | some (i, g, sl) => _) = _
  rw [h]

theorem MulOp.mul_some {o : MulOp} {n e0 i g m : Nat} (h : (o.run c s n).check = some (i, g, m)) :
    ∃ cyc, o.mul c s n e0 = ⟨noteCheck (o.run c s n).st c g m cyc, some (i, g, m)⟩ := by
  refine ⟨e0 + i - (s.site c.site).base, ?_⟩
  rw [← h]
  unfold MulOp.mul mxMul
  show (match (o.run c s n).check with
    | none => o.run c s n
    | some (i, g, sl) => ⟨noteCheck (o.run c s n).st c g sl (e0 + i - (s.site c.site).base), (o.run c s n).check⟩) = _
  rw [h]

/-- An MXMUL's effect: its rows, then the trap of the first that disagrees. -/
theorem mxEffect_mul (s : State) (c : CoreId) {mx : Nat} (hop : bits mx 0 8 = 3) (t pc : Nat) (arr : ArrayUpset) :
    ∃ e0 k, mxEffect s c mx t pc arr = checkTrap (((mulOp mx arr).mul c s (mulRows mx) e0).st.setCore c k) c mx pc e0
      ((mulOp mx arr).mul c s (mulRows mx) e0).check := by
  unfold mxEffect
  simp only [hop]
  exact ⟨_, _, rfl⟩

theorem checkTrap_some (s : State) (c : CoreId) (mx pc e0 i g m : Nat) :
    ∃ tr : TrapInfo, tr.ty = 9 ∧ checkTrap s c mx pc e0 (some (i, g, m)) = coreTrap s c tr true :=
  ⟨{ ty := 9, slot := 1, d0 := g + m * 256, d1 := e0 + i - (s.site c.site).base, img := mx, pc := pc, cyc := e0 + i + 7 }, rfl, rfl⟩

/-- R43: rows that all agree leave what they leave, and nothing else. -/
theorem mxEffect_mul_none {mx : Nat} (hop : bits mx 0 8 = 3) (t pc : Nat) {arr : ArrayUpset}
    (h : ((mulOp mx arr).run c s (mulRows mx)).check = none) :
    ∃ k, mxEffect s c mx t pc arr = ((mulOp mx arr).run c s (mulRows mx)).st.setCore c k := by
  obtain ⟨e0, k, e⟩ := mxEffect_mul s c hop t pc arr
  rw [MulOp.mul_none h, h] at e
  exact ⟨k, e⟩

/-- R43, R58: those of which one disagrees end with the trap of the first such row. -/
theorem mxEffect_mul_some {mx : Nat} (hop : bits mx 0 8 = 3) (t pc : Nat) {arr : ArrayUpset} {i g m : Nat}
    (h : ((mulOp mx arr).run c s (mulRows mx)).check = some (i, g, m)) :
    ∃ cyc k tr, tr.ty = 9 ∧
      mxEffect s c mx t pc arr = coreTrap ((noteCheck ((mulOp mx arr).run c s (mulRows mx)).st c g m cyc).setCore c k) c tr true := by
  obtain ⟨e0, k, e⟩ := mxEffect_mul s c hop t pc arr
  obtain ⟨cyc, hmul⟩ := MulOp.mul_some (e0 := e0) h
  rw [hmul] at e
  obtain ⟨tr, hty, htrap⟩ := checkTrap_some ((noteCheck ((mulOp mx arr).run c s (mulRows mx)).st c g m cyc).setCore c k) c mx pc e0 i g m
  exact ⟨cyc, k, tr, hty, e.trans htrap⟩

end

section
variable {wbuf acc amode : BitVec 1} {aq : BitVec 3} {aoff mcnt slot : BitVec 7} {xsel : BitVec 1} {xidx : BitVec 7} {pshift : BitVec 6}
  {rsv : BitVec 47} {arr : ArrayUpset}

theorem bitVec1_one_iff (b : BitVec 1) : b = 1 ↔ b.toNat = 1 := by
  rw [← BitVec.toNat_inj]
  rfl

theorem mulRows_mxmul : mulRows (mxmulOf wbuf acc amode aq aoff mcnt slot xsel xidx pshift rsv) = mcnt.toNat + 1 := by
  obtain ⟨_, _, _, _, _, _, _, hcount, _⟩ := mxmul_fields wbuf acc amode aq aoff mcnt slot xsel xidx pshift rsv
  exact congrArg (· + 1) hcount

theorem mulOp_mxmul : mulOp (mxmulOf wbuf acc amode aq aoff mcnt slot xsel xidx pshift rsv) arr =
    ⟨wbuf.toNat, acc.toNat, amode.toNat, aq.toNat, aoff.toNat, slot.toNat, xsel.toNat, xidx.toNat, sgn 6 pshift.toNat, arr⟩ := by
  obtain ⟨_, _, hwbuf, hacc, hamode, haq, haoff, _, hslot, hxsel, hxidx, hpshift⟩ :=
    mxmul_fields wbuf acc amode aq aoff mcnt slot xsel xidx pshift rsv
  unfold mulOp
  rw [hwbuf, hacc, hamode, haq, haoff, hslot, hxsel, hxidx, hpshift]

theorem mulOp_slot : (mulOp (mxmulOf wbuf acc amode aq aoff mcnt slot xsel xidx pshift rsv) arr).slot = slot.toNat :=
  congrArg MulOp.slot mulOp_mxmul

theorem mulOp_row (s : State) (c : CoreId) (i : Nat) :
    (mulOp (mxmulOf wbuf acc amode aq aoff mcnt slot xsel xidx pshift rsv) arr).row c s i =
      mulRes s c wbuf acc amode aq aoff slot xsel xidx pshift arr i := by
  unfold MulOp.row mulRes
  rw [mulOp_mxmul, if_congr (bitVec1_one_iff acc) rfl rfl]

theorem mulOp_marks (s : State) (c : CoreId) (i : Nat) :
    (mulOp (mxmulOf wbuf acc amode aq aoff mcnt slot xsel xidx pshift rsv) arr).marks c s i =
      (if acc = 1 then 0 else slotBad s c (slot.toNat + i)) ||| (mulRes s c wbuf acc amode aq aoff slot xsel xidx pshift arr i).poison |||
        (if i ∈ arr.act ∨ i ∈ arr.exp then 0xFF else 0) ||| hitGroups arr.scale i % 256 := by
  unfold MulOp.marks
  rw [mulOp_row, mulOp_mxmul, if_congr (bitVec1_one_iff acc) rfl rfl]
  simp only [Bool.or_eq_true, List.contains_iff_mem]

end

/-- What a row finds does not depend on its site's clock. -/
theorem MulOp.row_atCycle {o : MulOp} (ho : o.InRange) (s : State) (c : CoreId) (t : Nat) {i : Nat} (hi : i < 128) :
    o.row c (atCycle s c.site t) i = o.row c s i ∧ o.marks c (atCycle s c.site t) i = o.marks c s i := by
  have hops : SameOperands c s (atCycle s c.site t) := ⟨rfl, rfl, rfl, fun _ _ _ => rfl, fun _ _ _ _ => rfl⟩
  have hrow : o.row c (atCycle s c.site t) i = o.row c s i := hops.rowStep _ _ _ _ _ _ _ ho.aq ho.aoff hi
  refine ⟨hrow, ?_⟩
  unfold MulOp.marks
  rw [hrow]
  rfl

end Sys2Proof.Machine
end

section
/-! PROOFS. What an MXMUL leaves (R37 to R45) and when it traps (R43, R58). -/

namespace Sys2Proof.Machine

section
variable {o : MulOp} {c : CoreId} {s t : State} {n : Nat}

/-- R43: either all rows agree, or the run keeps the first that does not. -/
theorem MulOp.run_cases (ho : o.InRange) (hc : c.n < 8) (hwf : Memory.wf s.mem = true) (hn : n ≤ 128) (hslot : o.slot + n ≤ 256) :
    (∀ i < n, (o.row c s i).groups = 0) ∨ ∃ i < n, (o.row c s i).groups ≠ 0 ∧
      (o.run c s n).check = some (i, (o.row c s i).groups, o.slot + i) := by
  classical
  by_cases hz : ∀ i < n, (o.row c s i).groups = 0
  · exact Or.inl hz
  · have hex : ∃ i, i < n ∧ (o.row c s i).groups ≠ 0 := by simpa only [not_forall, exists_prop] using hz
    obtain ⟨hi, hg⟩ := Nat.find_spec hex
    refine Or.inr ⟨Nat.find hex, hi, hg, MulOp.run_first ho hc hwf hslot hg (fun j hj => ?_) hi hn⟩
    by_contra hne
    exact Nat.find_min hex hj ⟨hj.trans hi, hne⟩

theorem MulOp.row_codes_lt (o : MulOp) (c : CoreId) (s : State) (i : Nat) : (o.row c s i).codes < 2 ^ (32 * 512) := by
  unfold MulOp.row
  exact rowStep_codes_lt ..

theorem MulOp.row_groups_lt (o : MulOp) (c : CoreId) (s : State) (i : Nat) : (o.row c s i).groups < 256 := by
  unfold MulOp.row
  exact rowStep_groups_lt ..

/-- A slot that holds a row reads as its codes, with its group poison. -/
theorem MulOp.slot_reads {i : Nat} (hwf : Memory.wf t.mem = true)
    (h : Holds t.mem (slotAddr c (o.slot + i)) 256 ⟨(o.row c s i).codes, slotMarks (o.marks c s i)⟩) :
    memRead t.mem (slotAddr c (o.slot + i)) 2048 = (o.row c s i).codes ∧ slotPoison t c (o.slot + i) = o.marks c s i % 256 := by
  have hpow : 2 ^ (32 * 512) = 256 ^ 2048 := by
    rw [show (256 : Nat) = 2 ^ 8 from rfl, ← pow_mul]
  exact ⟨h.read hwf (by norm_num) ((MulOp.row_codes_lt ..).trans_eq hpow), slotPoison_of_holds h⟩

/-- The registers that name where records go and which site is a shadow are none of a core's. -/
theorem Touches.records {fs : List Fld} (h : Touches (keysOf (coreP c) fs) s t) (hc : coreOk c = true)
    (hfs : ∀ f ∈ fs, f.ix = false ∧ f.off * 32 + f.lsb < 0x20000) (hr : RecordsOutside s c.site) : RecordsOutside t c.site := by
  refine recordsOutside_congr hr (fun f hf => h.regs.rd _ _ (fun hmem => ?_)) (by rw [h.site])
  obtain ⟨g, hg, e⟩ := List.mem_map.1 hmem
  exact coreKey_not_panel hc (hfs g hg) (e ▸ panelKey_ix hf)

theorem Touches.shadow {fs : List Fld} (h : Touches (keysOf (coreP c) fs) s t) (hc : coreOk c = true)
    (hfs : ∀ f ∈ fs, f.ix = false ∧ f.off * 32 + f.lsb < 0x20000) : isShadow t c.site = isShadow s c.site := by
  unfold isShadow
  rw [h.regs.rd _ _ (fun hmem => ?_)]
  obtain ⟨g, hg, e⟩ := List.mem_map.1 hmem
  exact shadowKey_ne_core hc (hfs g hg) e.symm

/-- The state in which the trap of a failed check strikes. -/
theorem MulOp.noted_touches (ho : o.InRange) (hn : n ≤ 128) (g m cyc : Nat) :
    Touches (keysOf (coreP c) mulFields) s (noteCheck (o.run c s n).st c g m cyc) :=
  ((MulOp.run_touches ho hn).mono (keysOf_subset (by decide))).trans (noteCheck_touches ..)

end

section
variable {v : State} {c : CoreId} {mx t pc : Nat} {arr : ArrayUpset}

theorem Quiet.setCore {u : State} (h : Quiet u c t) (k : Core) : Quiet (u.setCore c k) c t := h

/-- R105: an MXMUL leaves its site's accepted accesses. -/
theorem mulEffect_quiet (hop : bits mx 0 8 = 3) (hq : Quiet v c t) : Quiet (mxEffect v c mx t pc arr) c t := by
  have ho := mulOp_inRange mx arr
  cases hcheck : ((mulOp mx arr).run c v (mulRows mx)).check with
  | none =>
    obtain ⟨k, e⟩ := mxEffect_mul_none hop t pc hcheck
    rw [e]
    exact ((MulOp.run_touches ho (mulRows_le mx)).quiet hq).setCore k
  | some x =>
    obtain ⟨i, g, m⟩ := x
    obtain ⟨cyc, k, tr, hty, e⟩ := mxEffect_mul_some hop t pc hcheck
    rw [e]
    unfold Quiet
    rw [coreTrap_acc hty]
    exact ((MulOp.noted_touches ho (mulRows_le mx) g m cyc).quiet hq).setCore k

/-- Rows that all agree: their slots, and nothing but what rows note. -/
theorem mulEffect_agree (hc : coreOk c = true) (hwf : Memory.wf v.mem = true) (hop : bits mx 0 8 = 3)
    (hslot : (mulOp mx arr).slot + mulRows mx ≤ 128) (hz : ∀ i < mulRows mx, ((mulOp mx arr).row c v i).groups = 0) :
    (mxEffect v c mx t pc arr).mem = ((mulOp mx arr).run c v (mulRows mx)).st.mem ∧ CoreFrame c (rowKeys c) v (mxEffect v c mx t pc arr) := by
  obtain ⟨hcheck, htouch⟩ := MulOp.run_quiet (mulOp_inRange mx arr) (coreOk_n hc) hwf (mulRows_le mx) (by omega) hz
  obtain ⟨k, e⟩ := mxEffect_mul_none hop t pc hcheck
  rw [e]
  exact ⟨rfl, htouch.frame.setCore k⟩

/-- R38: the slots of an MXMUL, where nothing of it is recorded in the panel's memory. -/
theorem mulEffect_slots (hc : coreOk c = true) (hplain : isShadow v c.site = false) (hwf : Memory.wf v.mem = true) (hop : bits mx 0 8 = 3)
    (hslot : (mulOp mx arr).slot + mulRows mx ≤ 128)
    (h : RecordsOutside v c.site ∨ ∀ i < mulRows mx, ((mulOp mx arr).row c v i).groups = 0) :
    Memory.wf (mxEffect v c mx t pc arr).mem = true ∧ ∀ i < mulRows mx,
      Holds (mxEffect v c mx t pc arr).mem (slotAddr c ((mulOp mx arr).slot + i)) 256
        ⟨((mulOp mx arr).row c v i).codes, slotMarks ((mulOp mx arr).marks c v i)⟩ := by
  have ho := mulOp_inRange mx arr
  have hn := mulRows_le mx
  obtain ⟨hsame, hold⟩ := MulOp.run_holds ho (coreOk_n hc) hwf hn (show (mulOp mx arr).slot + mulRows mx ≤ 256 by omega)
  rcases MulOp.run_cases ho (coreOk_n hc) hwf hn (show (mulOp mx arr).slot + mulRows mx ≤ 256 by omega) with hz | ⟨i, hi, hg, hcheck⟩
  · rw [(mulEffect_agree hc hwf hop hslot hz).1]
    exact ⟨hsame.wf, hold⟩
  · have hr : RecordsOutside v c.site := h.resolve_right (fun hz => hg (hz i hi))
    obtain ⟨cyc, k, tr, hty, e⟩ := mxEffect_mul_some hop t pc hcheck
    have hnoted := MulOp.noted_touches (c := c) (s := v) ho hn ((mulOp mx arr).row c v i).groups ((mulOp mx arr).slot + i) cyc
    have hmem : (noteCheck ((mulOp mx arr).run c v (mulRows mx)).st c ((mulOp mx arr).row c v i).groups ((mulOp mx arr).slot + i) cyc).mem =
      ((mulOp mx arr).run c v (mulRows mx)).st.mem := rfl
    generalize noteCheck _ c _ _ cyc = u at e hnoted hmem
    rw [← hmem] at hsame hold
    have hwords := coreTrap_words (s := u.setCore c k) hty hc ((hnoted.shadow hc mulFields_paged).trans hplain) hsame.wf
      (hnoted.records hc mulFields_paged hr)
    rw [← e] at hwords
    refine ⟨hwords.wf, fun j hj => (hold j hj).keep hwords (slotAddr_mod ..) (fun w hw => ?_)⟩
    have hend := slotAddr_le_array (coreOk_n hc) (show (mulOp mx arr).slot + j < 256 by omega)
    have hmod := slotAddr_mod c ((mulOp mx arr).slot + j)
    have hbase : siteBase c.site ≤ slotAddr c ((mulOp mx arr).slot + j) := by unfold slotAddr accBase coreBase; omega
    unfold inBlock at hw
    unfold siteWord
    unfold arrayBase siteBase at *
    omega

end

section
variable {s : State} {c : CoreId} {t : Nat}

theorem recordsOutside_atCycle (h : RecordsOutside s c.site) : RecordsOutside (atCycle s c.site t) c.site := by
  refine recordsOutside_congr h (fun _ _ => rfl) ?_
  unfold atCycle
  rw [State.site_setSite_same]

/-- R51: what decode has found of an MXMUL that issues. -/
theorem Issues.mulSlots {h : Hdr} {mx : Nat} (hi : Issues s c (mxBundle h mx) t) (hlt : mx < 2 ^ 96) (hop : bits mx 0 8 = 3) (arr : ArrayUpset) :
    (mulOp mx arr).slot + mulRows mx ≤ 128 := by
  have hchecks := hi.mx
  rw [(mxBundle_slots hlt h).1] at hchecks
  exact mulOp_slots hchecks hop arr

/-- An issued MXMUL: its slots, and its frame where all of its rows agree. -/
theorem mxRow_mul {h : Hdr} {mx : Nat} (hwf : Memory.wf s.mem = true) (hq : Quiet s c t) (hi : Issues s c (mxBundle h mx) t)
    (hlt : mx < 2 ^ 96) (hop : bits mx 0 8 = 3) (arr : ArrayUpset) :
    ∃ u, mxRow c h mx arr s = .next u ∧
      (RecordsOutside s c.site ∨ (∀ i < mulRows mx, ((mulOp mx arr).row c s i).groups = 0) → ∀ i < mulRows mx,
        memRead u.mem (slotAddr c ((mulOp mx arr).slot + i)) 2048 = ((mulOp mx arr).row c s i).codes ∧
          slotPoison u c ((mulOp mx arr).slot + i) = (mulOp mx arr).marks c s i % 256) ∧
      ((∀ i < mulRows mx, ((mulOp mx arr).row c s i).groups = 0) → SameWords ((mulOp mx arr).beside c (mulRows mx)) s.mem u.mem ∧
        CoreFrame c (keysOf (coreP c) (seqFields ++ spFields ++ mxFields)) s u) := by
  have ho := mulOp_inRange mx arr
  have hrows := mulRows_le mx
  have hfit := hi.mulSlots hlt hop arr
  have hat := fun {i} (hin : i < mulRows mx) => MulOp.row_atCycle ho s c t (show i < 128 by omega)
  have hzero : (∀ i < mulRows mx, ((mulOp mx arr).row c s i).groups = 0) →
      ∀ i < mulRows mx, ((mulOp mx arr).row c (atCycle s c.site t) i).groups = 0 := fun hz i hin => by rw [(hat hin).1]; exact hz i hin
  obtain ⟨u, hu, humem, hframe⟩ := mxRow_quiet hi hlt arr rfl (mulEffect_quiet (pc := (s.core c).nextPc) (arr := arr) hop (atCycle_quiet hq))
  refine ⟨u, hu, fun hr i hin => ?slots, fun hz => ?agree⟩
  case slots =>
    obtain ⟨hwfv, hold⟩ := mulEffect_slots (v := atCycle s c.site t) (t := t) (pc := (s.core c).nextPc) (arr := arr) hi.core hi.plain hwf hop hfit
      (hr.imp recordsOutside_atCycle hzero)
    have hslot := hold i hin
    rw [(hat hin).1, (hat hin).2, ← humem] at hslot
    exact MulOp.slot_reads (humem ▸ hwfv) hslot
  case agree =>
    obtain ⟨hmem, heff⟩ := mulEffect_agree (v := atCycle s c.site t) (t := t) (pc := (s.core c).nextPc) hi.core hwf hop hfit (hzero hz)
    have hsame := (MulOp.run_holds (s := atCycle s c.site t) ho (coreOk_n hi.core) hwf hrows (show (mulOp mx arr).slot + mulRows mx ≤ 256 by omega)).1
    rw [← hmem, ← humem] at hsame
    refine ⟨hsame, ((atCycle_frame c _ s t).trans (heff.mono (keysOf_subset ?_))).trans (hframe.mono (keysOf_subset ?_))⟩
    · exact List.append_subset.2 ⟨fun _ hf => List.mem_append_left _ (List.mem_append_right _ hf), List.subset_append_right _ _⟩
    · exact fun _ hf => List.mem_append_left _ (List.mem_append_left _ hf)

end

/-- Settles O17: R38 for the slots, R43 to R45 for their poison. -/
theorem rowsMultiply : Obligations.RowsMultiply := by
  unfold Obligations.RowsMultiply
  intro s c h wbuf acc amode aq aoff mcnt slot xsel xidx pshift rsv arr t hwf hq hi n row
  obtain ⟨hlt, hop, _⟩ := mxmul_fields wbuf acc amode aq aoff mcnt slot xsel xidx pshift rsv
  obtain ⟨u, hu, hslots, hagree⟩ := mxRow_mul hwf hq hi hlt hop arr
  simp only [mulOp_row, mulOp_marks, mulRows_mxmul, mulOp_slot] at hslots hagree
  refine ⟨u, hu, hslots, fun hz => ⟨fun x hx => (hagree hz).1.byte x (fun i hin hblock => ?_), (hagree hz).2⟩⟩
  have := slotAddr_mod c (slot.toNat + i)
  have := slotAddr_add c slot.toNat i
  rw [mulOp_slot] at hblock
  unfold inBlock at hblock
  unfold besideMem at hx
  omega

/-- An issued MXMUL of a running core without a shadow, of which row `i` is the first to disagree. -/
theorem mxRow_mul_trap {s : State} {c : CoreId} {t : Nat} {h : Hdr} {mx i : Nat} {arr : ArrayUpset} (hwf : Memory.wf s.mem = true)
    (hq : Quiet s c t) (hi : Issues s c (mxBundle h mx) t) (hlt : mx < 2 ^ 96) (hop : bits mx 0 8 = 3)
    (hst : s.rd (coreP c) Reg.Co.STATE = 2) (htrap : s.rd (coreP c) Reg.Co.TRAP_TYPE = 0) (hmir : 256 ≤ (s.site c.site).mirTo)
    (hin : i < mulRows mx) (hg : ((mulOp mx arr).row c s i).groups ≠ 0) (hz : ∀ j < i, ((mulOp mx arr).row c s j).groups = 0) :
    ∃ u, mxRow c h mx arr s = .next u ∧ u.rd (coreP c) Reg.Co.STATE = 4 ∧ u.rd (coreP c) Reg.Co.TRAP_TYPE = 9 ∧
      u.rd (coreP c) Reg.Co.CHECK = 1 ∧ u.rd (coreP c) Reg.Co.GROUPS = ((mulOp mx arr).row c s i).groups ∧
      u.rd (coreP c) Reg.Co.SLOT = (mulOp mx arr).slot + i := by
  have ho := mulOp_inRange mx arr
  have hrows := mulRows_le mx
  have hfit := hi.mulSlots hlt hop arr
  have hat := fun {j} (hj : j ≤ i) => (MulOp.row_atCycle ho s c t (show j < 128 by omega)).1
  have hcheck := MulOp.run_first (s := atCycle s c.site t) ho (coreOk_n hi.core) hwf (show (mulOp mx arr).slot + mulRows mx ≤ 256 by omega)
    (by rwa [hat le_rfl]) (fun j hj => by rw [hat hj.le]; exact hz j hj) hin hrows
  rw [hat le_rfl] at hcheck
  obtain ⟨cyc, k, tr, hty, e⟩ := mxEffect_mul_some hop t (s.core c).nextPc hcheck
  have hnoted := MulOp.noted_touches (c := c) (s := atCycle s c.site t) ho hrows ((mulOp mx arr).row c s i).groups ((mulOp mx arr).slot + i) cyc
  obtain ⟨hC, hG, hS⟩ := noteCheck_rd ((mulOp mx arr).run c (atCycle s c.site t) (mulRows mx)).st c cyc (MulOp.row_groups_lt (mulOp mx arr) c s i)
    (show (mulOp mx arr).slot + i < 128 by omega)
  obtain ⟨u, hu, _, hframe⟩ := mxRow_quiet hi hlt arr rfl (mulEffect_quiet (pc := (s.core c).nextPc) (arr := arr) hop (atCycle_quiet hq))
  generalize noteCheck _ c _ _ cyc = v at e hnoted hC hG hS
  rw [e] at hframe
  have hsite : ((v.setCore c k).site c.site).mirTo = (s.site c.site).mirTo := by
    rw [State.site_setCore, hnoted.site, atCycle, State.site_setSite_same]
  obtain ⟨hstate, htype, hkept⟩ := coreTrap_regs (s := v.setCore c k) (t := tr) hty hi.core
    ((hnoted.shadow hi.core mulFields_paged).trans hi.plain)
    ((hnoted.regs.rd _ _ (fldKey_not_mem (by decide))).trans hst) ((hnoted.regs.rd _ _ (fldKey_not_mem (by decide))).trans htrap)
    (hsite ▸ hmir)
  have hrd : ∀ f : Fld, (∀ g ∈ seqFields, g.ix = f.ix ∧ g.off * 32 + g.lsb ≠ f.off * 32 + f.lsb) →
      u.rd (coreP c) f = (coreTrap (v.setCore c k) c tr true).rd (coreP c) f := fun f hf => hframe.regs.rd _ _ (fldKey_not_mem hf)
  refine ⟨u, hu, (hrd _ (by decide)).trans hstate, (hrd _ (by decide)).trans htype, (hrd _ (by decide)).trans ?_, (hrd _ (by decide)).trans ?_,
    (hrd _ (by decide)).trans ?_⟩
  · exact (hkept _ (coreKey_not_stop hi.core ⟨rfl, by decide⟩ (by decide))).trans hC
  · exact (hkept _ (coreKey_not_stop hi.core ⟨rfl, by decide⟩ (by decide))).trans hG
  · exact (hkept _ (coreKey_not_stop hi.core ⟨rfl, by decide⟩ (by decide))).trans hS

/-- Settles O18: R58 for the CHECK registers, R169 for the trap of the first row that disagrees. -/
theorem failedChecksTrap : Obligations.FailedChecksTrap := by
  unfold Obligations.FailedChecksTrap
  intro s c h wbuf acc amode aq aoff mcnt slot xsel xidx pshift rsv arr t i hwf hq hi hst htrap hmir row hin hg hz
  obtain ⟨hlt, hop, _⟩ := mxmul_fields wbuf acc amode aq aoff mcnt slot xsel xidx pshift rsv
  have htrapped := mxRow_mul_trap (i := i) (arr := arr) hwf hq hi hlt hop hst htrap hmir (by rw [mulRows_mxmul]; omega)
  simp only [mulOp_row, mulOp_slot] at htrapped
  exact htrapped hg hz

end Sys2Proof.Machine
end

section
/-! PROOFS. A VX operation that accesses no bank of the scratchpad (R82, R150), and the generator's seed (R70, R91). -/

namespace Sys2Proof.Machine

/-! ### Issue -/

/-- R150: what a VX operation's own row answers once its bundle issues. -/
theorem vxRow_issued {s : State} {c : CoreId} {h : Hdr} {op : Nat} {a : VxArgs} {t : Nat} (hi : Issues s c (vxBundle h op a) t) :
    vxRow c h op a s = .next (bundleEffect (atCycle s c.site t) c t (s.core c).nextPc (vxBundle h op a) {}) := by
  unfold vxRow onUnit
  rw [if_pos hi.core]
  exact congrArg _ (issue_of hi {})

/-- R150: an issued VX operation without accesses leaves memory as the operation does, and beside that shows its issue. -/
theorem vxRow_plain {s : State} {c : CoreId} {h : Hdr} {op : Nat} {a : VxArgs} {t : Nat} (hi : Issues s c (vxBundle h op a) t)
    (ho : op < 256) (hacc : vxAcc c (vxOf op a) t = []) {v : State} (hv : vxData (atCycle s c.site t) c (vxOf op a) = v) :
    ∃ u, vxRow c h op a s = .next u ∧ u.mem = v.mem ∧ CoreFrame c (keysOf (coreP c) seqFields) v u := by
  subst hv
  exact ⟨_, vxRow_issued hi, bundleEffect_vx_mem ho _ _ _ _ _ _ _ hacc,
    bundleEffect_vx_frame ho _ _ _ _ _ hacc (List.Subset.refl _) (CoreFrame.refl _ _ _)⟩

/-! ### VSEED -/

theorem vxAcc_vseed (c : CoreId) (a : VxArgs) (t : Nat) : vxAcc c (vxOf 0x31 a) t = [] := by
  simp [vxAcc, vxOf_op]

theorem vxData_vseed (s : State) (c : CoreId) (a : VxArgs) : vxData s c (vxOf 0x31 a) = vxSeed s c a.imm.toNat := by
  simp only [vxData, vxOf_op (show 0x31 < 256 by decide), vxOf_imm (show 0x31 < 256 by decide)]

/-- R70: the generator after a seed of 32 bits. -/
theorem vxSeed_generator (s : State) (c : CoreId) {imm : Nat} (h : imm < 2 ^ 32) :
    (vxSeed s c imm).rd (coreP c) Reg.Co.RNG_STATE = if imm = 0 then 1 else imm := by
  unfold vxSeed
  rw [State.rd_wr_same]
  refine Nat.mod_eq_of_lt ?_
  show _ < 2 ^ 32
  split <;> omega

theorem vxSeed_frame (s : State) (c : CoreId) (imm : Nat) : CoreFrame c (keysOf (coreP c) [Reg.Co.RNG_STATE]) s (vxSeed s c imm) :=
  (CoreFrame.refl _ _ _).wr (keysOf_mem List.mem_cons_self)

/-- Settles O12: R70 and R91; the issue itself writes no field of the generator. -/
theorem seedSetsTheGenerator : Obligations.SeedSetsTheGenerator := by
  unfold Obligations.SeedSetsTheGenerator
  intro s c h a t hi
  obtain ⟨u, hu, humem, hframe⟩ := vxRow_plain hi (by decide) (vxAcc_vseed ..) (vxData_vseed ..)
  refine ⟨u, hu, ?generator, humem, ?frame⟩
  case generator => exact (hframe.regs.rd _ _ (fldKey_not_mem (by decide))).trans (vxSeed_generator _ _ a.imm.isLt)
  case frame =>
    have hseed := (atCycle_frame c _ s t).trans (vxSeed_frame (atCycle s c.site t) c a.imm.toNat)
    exact (hseed.mono (keysOf_subset (List.subset_append_right _ _))).trans (hframe.mono (keysOf_subset (List.subset_append_left _ _)))

end Sys2Proof.Machine
end

section
/-! PROOFS. Memory that is written within one run of bytes, and the elements of a CONVERT's source beside that run (R64 to R67, R96). -/

namespace Sys2Proof.Machine

/-! ### Writes within a run -/

/-- `k` is `m` with no more than the `n` bytes at `a` written; a word that holds none of them keeps its error marks. -/
structure WritesWithin (a n : Nat) (m k : Mem) : Prop where
  wfs : Memory.wf m = true
  wf : Memory.wf k = true
  byte : ∀ x, besideMem a n x → memByte k x = memByte m x
  bad : ∀ w, 8 * w + 8 ≤ a ∨ a + n ≤ 8 * w → wordBad k w = wordBad m w

section
variable {a b n j : Nat} {m k l : Mem} {s t : State} {c : CoreId} {o : Nat}

theorem WritesWithin.refl (h : Memory.wf m = true) : WritesWithin a n m m := ⟨h, h, fun _ _ => rfl, fun _ _ => rfl⟩

theorem WritesWithin.trans (h : WritesWithin a n m k) (g : WritesWithin a n k l) : WritesWithin a n m l :=
  ⟨h.wfs, g.wf, fun x hx => (g.byte x hx).trans (h.byte x hx), fun w hw => (g.bad w hw).trans (h.bad w hw)⟩

theorem WritesWithin.mono (h : WritesWithin b j m k) (ha : a ≤ b) (hn : b + j ≤ a + n) : WritesWithin a n m k :=
  ⟨h.wfs, h.wf, fun x hx => h.byte x (hx.imp (fun g => by omega) (fun g => by omega)), fun w hw => h.bad w (by omega)⟩

theorem WritesWithin.tail (h : Memory.wf m = true) (a n v : Nat) : WritesWithin a n m (memTail m a n v) := by
  refine ⟨h, Memory.wf_tail h a n v, fun x hx => ?_, fun _ _ => rfl⟩
  unfold besideMem at hx
  rw [memByte_tail, if_neg (by omega)]

theorem WritesWithin.upTo {f : State → Nat → State} (hs : Memory.wf s.mem = true) {i : Nat}
    (hf : ∀ p < i, ∀ t : State, Memory.wf t.mem = true → WritesWithin a n t.mem (f t p).mem) :
    WritesWithin a n s.mem (Sys2Proof.upTo i f s).mem :=
  upTo_ind (P := fun _ t => WritesWithin a n s.mem t.mem) (.refl hs) i (fun p hp t ht => ht.trans (hf p hp t ht.wf))

theorem vfBase_mod (i n : Nat) : vfBase i n % 8 = 0 := by unfold vfBase coreBase siteBase; omega

theorem vfOff_mod (a : Nat) : vfOff a % 8 = 0 := Nat.mul_mod_right ..

/-- R84: a write of the vector file at a word. -/
theorem WritesWithin.vfWrite (h : Memory.wf s.mem = true) (ho : o % 8 = 0) (n v pm : Nat) :
    WritesWithin (vfBase c.site c.n + o) n s.mem (vfWrite s c o n v pm).mem := by
  have hb := vfBase_mod c.site c.n
  refine ⟨h, (vfWrite_keeps s c o n v pm (Keeps.refl s)).wf h, fun x hx => ?_, fun w hw => ?_⟩
  · unfold besideMem at hx
    rw [memByte_vfWrite, if_neg (by omega)]
  · exact wordBad_vfWrite _ _ _ _ _ _ _ ho (by unfold cdiv; omega)

/-- R98: noting latent errors writes no byte and leaves every word readable as before. -/
theorem WritesWithin.noteVf (h : Memory.wf s.mem = true) (o j : Nat) : WritesWithin a n s.mem (noteVf s c o j).mem :=
  ⟨h, noteVf_wf h c o j, fun _ _ => noteVf_byte .., fun w _ => noteVf_mark s c o j h w⟩

theorem WritesWithin.vfBytes (h : WritesWithin (vfBase c.site c.n + o) n s.mem t.mem) (hb : b + j ≤ o ∨ o + n ≤ b) :
    vfBytes t c b j = vfBytes s c b j := by
  unfold Machine.vfBytes
  rw [memRead_bytes _ _ _ h.wf, memRead_bytes _ _ _ h.wfs]
  exact numOf_congr (fun i hi => h.byte _ (by unfold besideMem; omega))

theorem WritesWithin.vfPoison (h : WritesWithin (vfBase c.site c.n + o) n s.mem t.mem) (ho : o % 8 = 0) (hb : b < o ∨ o + n ≤ b / 8 * 8) :
    vfPoison t c b = vfPoison s c b := by
  have := vfBase_mod c.site c.n
  rw [vfPoison_word _ _ _ h.wf, vfPoison_word _ _ _ h.wfs]
  exact h.bad _ (by omega)

end

/-! ### Source elements -/

/-- R64 to R67, R76: element `k` of a source run of `cnt`. -/
def srcElem (s : State) (c : CoreId) (f : Fmt) (a cnt k : Nat) : SrcElem :=
  match f with
  | .fp f => ⟨f.decode (vfElem s c f.bytes a k).code, (vfElem s c f.bytes a k).poison⟩
  | .bs f => bsElem s c f (vfOff a) cnt k

section
variable {s t : State} {c : CoreId} {f : Fmt} {a cnt : Nat}

/-- A run of one element, wherever in a word it begins. -/
theorem vfRun_one (h : Memory.wf s.mem = true) {sz o : Nat} (hsz : 0 < sz ∧ sz ≤ 8) :
    vfRun s c sz o 1 = [⟨vfBytes s c o sz, vfPoison s c o⟩] := by
  have hlt : vfBytes s c o sz < 2 ^ (8 * sz) := by rw [pow_mul]; exact memRead_lt h _ _
  have hw : (vfBase c.site c.n + o) / 8 = (vfBase c.site c.n + o / 8 * 8) / 8 := by
    have := vfBase_mod c.site c.n
    omega
  have hone : cdiv sz 8 = 1 := by unfold cdiv; omega
  have hbit : memPoison s.mem (vfBase c.site c.n + o) 1 % 2 ^ 1 = 1 ↔ vfPoison s c o = true := by
    have hwf := Memory.wf_iff.1 h
    rw [vfPoison_eq _ _ _ h]
    unfold memPoison
    rw [marksGet_one _ hwf.2.1, marksGet_one _ hwf.2.2.2, hw]
    cases keyHas s.mem.poison ((vfBase c.site c.n + o / 8 * 8) / 8) <;> cases keyHas s.mem.ue ((vfBase c.site c.n + o / 8 * 8) / 8) <;> decide
  simp only [vfRun, Nat.mul_one, List.range_one, List.map_cons, List.map_nil, Nat.mul_zero, Nat.zero_div, hone, hbit, bits_zero,
    Nat.mod_eq_of_lt hlt, Bool.decide_eq_true]

theorem Fp.bytes_range (f : Fp) : 0 < f.bytes ∧ f.bytes ≤ 8 := by cases f <;> decide

theorem convSrc_one (h : Memory.wf s.mem = true) (k : Nat) : convSrc s c f a cnt k 1 = [srcElem s c f a cnt k] := by
  cases f with
  | fp f =>
    simp only [convSrc, vfRun_one h f.bytes_range]
    rfl
  | bs f => rfl

/-- R67: a beat's source elements. -/
theorem convSrc_eq (h : Memory.wf s.mem = true) {e0 : Nat} (he : e0 % 8 = 0) (m : Nat) :
    convSrc s c f a cnt e0 m = (List.range m).map (fun i => srcElem s c f a cnt (e0 + i)) := by
  cases f with
  | fp f =>
    have ho : (vfOff a + f.bytes * e0) % 8 = 0 := by
      have := vfOff_mod a
      have := Nat.mul_mod f.bytes e0 8
      rw [he, Nat.mul_zero, Nat.zero_mod] at this
      omega
    refine List.ext_getElem? (fun i => ?_)
    by_cases hi : i < m
    · simp only [convSrc]
      rw [List.getElem?_map, vfRun_elem _ _ _ _ _ _ h hi f.bytes_range.1 ho, List.getElem?_map, List.getElem?_range hi, Nat.add_assoc,
        ← Nat.mul_add]
      rfl
    · simp only [convSrc]
      rw [List.getElem?_eq_none (by rw [List.length_map, vfRun_length]; omega), List.getElem?_eq_none (by simp; omega)]
  | bs f => rfl

theorem convElem_eq (h : Memory.wf s.mem = true) (a : VxArgs) (k : Nat) :
    convElem s c a k = srcElem s c (cvFmt (a.ty.toNat % 16)) a.srca.toNat a.count.toNat k := by
  unfold convElem
  rw [convSrc_one h]
  rfl

/-- R65: a line of a piece plane lies before the exponent plane. -/
theorem planeLine_lt {p b pieces blocks : Nat} (hp : p < pieces) (hb : b < blocks) : p * blocks + b < pieces * blocks :=
  calc p * blocks + b < (p + 1) * blocks := by rw [Nat.succ_mul]; exact Nat.add_lt_add_left hb _
    _ ≤ pieces * blocks := Nat.mul_le_mul_right _ hp

/-- R65: element `e` belongs to a block of the run, whose exponent byte lies in the exponent plane. -/
theorem block_lt {e : Nat} (h : e < cnt) : e / 128 < cdiv cnt 128 ∧ e / 128 < 128 * cdiv (cdiv cnt 128) 128 := by
  unfold cdiv
  omega

theorem any_congr_mem {α : Type} {l : List α} {p q : α → Bool} (h : ∀ x ∈ l, p x = q x) : l.any p = l.any q := by
  rw [Bool.eq_iff_iff, List.any_eq_true, List.any_eq_true]
  exact exists_congr (fun x => and_congr_right (fun hx => by rw [h x hx]))

/-- R96: a source element beside the run that is written reads as before. -/
theorem srcElem_within {dst n k : Nat} (h : WritesWithin (vfBase c.site c.n + vfOff dst) n s.mem t.mem)
    (hc : vfOff dst + n ≤ vfOff a ∨ vfOff a + fmtExtent f cnt ≤ vfOff dst) (hk : k < cnt) : srcElem t c f a cnt k = srcElem s c f a cnt k := by
  have hd := vfOff_mod dst
  have ha := vfOff_mod a
  have clear : ∀ o j, 0 < j → vfOff a ≤ o → o + j ≤ vfOff a + fmtExtent f cnt →
      vfBytes t c o j = vfBytes s c o j ∧ vfPoison t c o = vfPoison s c o :=
    fun o j hj h1 h2 => ⟨h.vfBytes (by omega), h.vfPoison hd (by omega)⟩
  cases f with
  | fp f =>
    have hsz : f.bytes * k + f.bytes ≤ f.bytes * cnt := Nat.mul_le_mul_left f.bytes hk
    obtain ⟨hbytes, hpoison⟩ := clear (vfOff a + f.bytes * k) f.bytes f.bytes_range.1 (Nat.le_add_right _ _) (by simp only [fmtExtent]; omega)
    simp only [srcElem, vfElem, hbytes, hpoison]
  | bs f =>
    obtain ⟨hb, hline⟩ := block_lt hk
    simp only [fmtExtent, bsLines] at clear
    obtain ⟨hexp, hexpPoison⟩ := clear (vfOff a + 128 * (f.pieces * cdiv cnt 128) + k / 128) 1 one_pos (by omega) (by omega)
    have hpiece : ∀ p < f.pieces, vfBytes t c (vfOff a + 128 * (p * cdiv cnt 128 + k / 128) + k % 128) 1 =
          vfBytes s c (vfOff a + 128 * (p * cdiv cnt 128 + k / 128) + k % 128) 1 ∧
        vfPoison t c (vfOff a + 128 * (p * cdiv cnt 128 + k / 128) + k % 128) =
          vfPoison s c (vfOff a + 128 * (p * cdiv cnt 128 + k / 128) + k % 128) :=
      fun p hp => by
        have := planeLine_lt hp hb
        exact clear _ 1 one_pos (by omega) (by omega)
    have hpieces := List.map_congr_left (fun p hp => (hpiece p (List.mem_range.1 hp)).1)
    have hpoisons := any_congr_mem (fun p hp => (hpiece p (List.mem_range.1 hp)).2)
    simp only [srcElem, bsElem, hexp, hexpPoison, hpieces]
    rw [hpoisons]

end

end Sys2Proof.Machine
end

section
/-! PROOFS. What the beats of a CONVERT write (R68 to R76, R90, R93), in floating and in block-scaled destinations. -/

namespace Sys2Proof.Machine

/-! ### The write of a beat -/

/-- The elements `es` from element `e0` written in their format, before anything is counted. -/
def convWrite (s : State) (c : CoreId) (q : Conv) (e0 : Nat) (es : List SrcElem) : State :=
  match q.dst_ with
  | .fp f => (convToFp s c f q.stoch q.nanOvf q.g q.dst e0 es).1
  | .bs f => upTo (cdiv es.length 128) (fun t b => (convBlock t c f q.stoch q.nanOvf q.xauto q.g (q.imm % 256) q.dst q.cnt (e0 / 128 + b)
      ((es.drop (128 * b)).take 128)).1) s

/-- R77, R79: what a beat counts. -/
def countFields : List Fld := [Reg.Co.SAT, Reg.Co.NAN_OVF, Reg.Co.CONV_SAT_CNT, Reg.Co.POISON_IN, Reg.Co.CONV_POISON_CNT, Reg.Co.NAN_IN,
  Reg.Co.INF_IN] ++ (List.range 8).map Reg.Co.RMAX

section
variable {c : CoreId} {ks : List Nat} {v q u : State} {p : Nat} {f g : Fld}

theorem Leaves.refl (c : CoreId) (ks : List Nat) (q : State) : Leaves c ks q q q := ⟨.refl q, .refl c ks q⟩

theorem Leaves.ite {w : State} {b : Prop} [Decidable b] (hu : Leaves c ks v q u) (hw : Leaves c ks v q w) : Leaves c ks v q (if b then u else w) := by
  split <;> assumption

theorem Leaves.wr (h : Leaves c ks v q u) (hf : fldKey p f ∈ ks) (n : Nat) : Leaves c ks v q (u.wr p f n) :=
  ⟨State.wr_memIs _ _ _ _ h.mem, h.frame.wr hf⟩

theorem Leaves.bump (h : Leaves c ks v q u) (hf : fldKey p f ∈ ks) (n : Nat) : Leaves c ks v q (u.bump p f n) := h.ite (h.wr hf _)

end

/-- What a step does to the state, where it also keeps a number. -/
theorem foldl_fst {α β : Type} (l : List α) (f : β → α → β × Nat) (p : β × Nat) :
    (l.foldl (fun p x => ((f p.1 x).1, p.2 + (f p.1 x).2)) p).1 = l.foldl (fun b x => (f b x).1) p.1 := by
  induction l generalizing p with
  | nil => rfl
  | cons x l ih => exact ih _

/-- A beat writes its elements; beside that it counts. -/
theorem convBeat_leaves (s : State) (c : CoreId) (q : Conv) (e0 : Nat) (es : List SrcElem) :
    Leaves c (keysOf (coreP c) countFields) (convWrite s c q e0 es) (convWrite s c q e0 es) (convBeat s c q e0 es) := by
  have key : ∀ f ∈ countFields, fldKey (coreP c) f ∈ keysOf (coreP c) countFields := fun _ hf => keysOf_mem hf
  have hmax : Reg.Co.RMAX (bits q.imm 8 3) ∈ countFields :=
    List.mem_append_right _ (List.mem_map_of_mem (List.mem_range.2 (Nat.mod_lt _ (by norm_num))))
  have hsat : (if q.nanOvf then Reg.Co.NAN_OVF else Reg.Co.SAT) ∈ countFields := by split <;> decide
  unfold convBeat
  extract_lets p live r s2 s3 npois s4 s5 s6
  have h2 : Leaves c (keysOf (coreP c) countFields) (convWrite s c q e0 es) (convWrite s c q e0 es) s2 := by
    have e : s2 = convWrite s c q e0 es := by
      cases hd : q.dst_ with
      | fp f => simp only [s2, r, convWrite, hd]
      | bs f =>
        simp only [s2, r, convWrite, hd]
        exact foldl_fst _ (fun t b => convBlock t c f q.stoch q.nanOvf q.xauto q.g (q.imm % 256) q.dst q.cnt (e0 / 128 + b)
          ((es.drop (128 * b)).take 128)) _
    rw [e]
    exact Leaves.refl _ _ _
  have h3 := h2.ite (b := r.2 = 0) ((h2.wr (key _ hsat) 1).bump (key Reg.Co.CONV_SAT_CNT (by decide)) r.2)
  have h4 := h3.ite (b := npois = 0) ((h3.wr (key Reg.Co.POISON_IN (by decide)) 1).bump (key Reg.Co.CONV_POISON_CNT (by decide)) npois)
  have h5 := (h4.wr (key Reg.Co.NAN_IN (by decide)) 1).ite (b := live.any (fun e => e.v = .nan)) h4
  have h6 := (h5.wr (key Reg.Co.INF_IN (by decide)) 1).ite (b := live.any (fun e => e.v = .inf true || e.v = .inf false)) h5
  split
  · exact h6
  · exact h6.wr (key _ hmax) _

end Sys2Proof.Machine
end

section
/-! PROOFS. A CONVERT's elements in the vector file: one code each in a floating destination (R71, R75), pieces and exponent bytes
in a block-scaled one (R64, R65, R72, R73). -/

namespace Sys2Proof.Machine

/-! ### A floating destination -/

/-- R71, R75, R76: element `k` in a floating destination. -/
def fpOut (f : Fp) (stoch nanOvf : Bool) (g k : Nat) (x : SrcElem) : OutElem :=
  if x.poison then { code := f.nan, poison := true } else { code := (convFp f (convRnd stoch g k) nanOvf x.v).pieces.headD 0 }

theorem fpOut_lt (f : Fp) (stoch nanOvf : Bool) (g k : Nat) (x : SrcElem) : (fpOut f stoch nanOvf g k x).code < 256 ^ f.bytes := by
  unfold fpOut
  split
  · cases f <;> decide
  · exact convFp_lt ..

section
variable {s t : State} {c : CoreId} {dst : Nat}

/-- A run of the vector file written by CONVERT leaves memory as one written by any other operation. -/
theorem convToFp_mem (s : State) (c : CoreId) (f : Fp) (stoch nanOvf : Bool) (g dst e0 : Nat) (es : List SrcElem) :
    (convToFp s c f stoch nanOvf g dst e0 es).1.mem =
      (vfPutRun s c f.bytes (vfOff dst + f.bytes * e0) (es.zipIdx.map (fun e => fpOut f stoch nanOvf g (e0 + e.2) e.1))).mem := by
  have hout : es.zipIdx.map (fun e => fpOut f stoch nanOvf g (e0 + e.2) e.1) = (es.zipIdx.map (fun e =>
      if e.1.poison then (({ code := f.nan, poison := true } : OutElem), false)
      else ({ code := (convFp f (convRnd stoch g (e0 + e.2)) nanOvf e.1.v).pieces.headD 0 },
        (convFp f (convRnd stoch g (e0 + e.2)) nanOvf e.1.v).ovf))).map Prod.fst := by
    rw [List.map_map]
    refine List.map_congr_left (fun e _ => ?_)
    unfold fpOut
    simp only [Function.comp, apply_ite Prod.fst]
  rw [hout, vfPutRun_mem, List.foldr_map, List.zipIdx_map, List.foldl_map, List.length_map, List.length_map, List.length_zipIdx]
  rfl

theorem vfPutRun_within (h : Memory.wf s.mem = true) (sz : Nat) {o : Nat} (ho : o % 8 = 0) (es : List OutElem) :
    WritesWithin (vfBase c.site c.n + o) (sz * es.length) s.mem (vfPutRun s c sz o es).mem := by
  rw [vfPutRun_mem]
  exact .vfWrite h ho _ _ _

theorem convToFp_within (h : Memory.wf s.mem = true) (f : Fp) (stoch nanOvf : Bool) (g dst : Nat) {e0 cnt : Nat} (he : e0 % 8 = 0)
    {es : List SrcElem} (hn : e0 + es.length ≤ cnt) :
    WritesWithin (vfBase c.site c.n + vfOff dst) (fmtExtent (.fp f) cnt) s.mem (convToFp s c f stoch nanOvf g dst e0 es).1.mem := by
  have hd := vfOff_mod dst
  have hoff : f.bytes * e0 % 8 = 0 := by rw [Nat.mul_mod, he, Nat.mul_zero, Nat.zero_mod]
  have hext : f.bytes * e0 + f.bytes * es.length ≤ f.bytes * cnt := by rw [← Nat.mul_add]; exact Nat.mul_le_mul_left _ hn
  rw [convToFp_mem]
  refine (vfPutRun_within h f.bytes (by omega) _).mono (by omega) ?_
  simp only [fmtExtent, List.length_map, List.length_zipIdx]
  omega

end

/-! ### A block-scaled destination -/

/-- R72, R73, R76: the exponent byte of a block that holds the elements `es`. -/
def blockExp (f : Bs) (stoch xauto : Bool) (exp : Nat) (es : List SrcElem) : Nat :=
  let big := es.foldl (fun (m : Val) e => if e.poison || e.v = .nan then m else m.max e.v.abs) (.zero false)
  if es.any (fun e => e.poison) then 0x80 else if xauto then unsgn 8 (chooseExp f stoch big) else exp

/-- R64, R72, R76: piece `p` of element `k`, of value `v`, in a block of exponent byte `eb`. -/
def bsPiece (f : Bs) (stoch nanOvf : Bool) (g eb p k : Nat) (v : Val) : Nat :=
  if eb = 0x80 then 0 else (convBs f (convRnd stoch g k) nanOvf (e8 eb) v).pieces.getD p 0

theorem unsgn_lt (w : Nat) (z : Int) : unsgn w z < 2 ^ w := by
  have hp : (0 : Int) < ((2 ^ w : Nat) : Int) := by positivity
  have h0 := Int.emod_nonneg z hp.ne'
  have h1 := Int.emod_lt_of_pos z hp
  unfold unsgn
  omega

/-- R64: piece bytes are bytes. -/
theorem bsPieces_lt (f : Bs) (r : Rnd) (nanOvf : Bool) (eb : Int) (v : Val) : ∀ x ∈ (convBs f r nanOvf eb v).pieces, x < 256 := by
  have hsplit : ∀ z, ∀ x ∈ f.split z, x < 256 := by
    intro z x hx
    cases f <;> simp only [Bs.split, List.mem_cons, List.not_mem_nil, or_false] at hx <;> rcases hx with rfl | rfl | rfl <;> exact unsgn_lt 8 _
  have hnan : ∀ x ∈ f.nanPieces, x < 256 := by cases f <;> decide
  have hlim : ∀ n : Bool, ∀ x ∈ (if nanOvf then (⟨f.nanPieces, true⟩ : ConvRes)
      else ⟨f.split (if n then -(f.lo : Int) else f.hi), true⟩).pieces, x < 256 := by
    intro n
    split
    · exact hnan
    · exact hsplit _
  unfold convBs
  cases v with
  | nan => exact hnan
  | inf n => exact hlim n
  | zero n => exact hsplit 0
  | fin n m e =>
    dsimp only
    by_cases h : (if n then f.lo else f.hi) < roundMag r m e eb
    · rw [if_pos h]
      exact hlim n
    · rw [if_neg h]
      exact hsplit _

theorem bsPiece_lt (f : Bs) (stoch nanOvf : Bool) (g eb p k : Nat) (v : Val) : bsPiece f stoch nanOvf g eb p k v < 256 := by
  unfold bsPiece
  split
  · norm_num
  · generalize hl : (convBs f (convRnd stoch g k) nanOvf (e8 eb) v).pieces = l
    by_cases hp : p < l.length
    · rw [List.getD_eq_getElem _ _ hp]
      exact bsPieces_lt f (convRnd stoch g k) nanOvf (e8 eb) v _ (by rw [hl]; exact List.getElem_mem hp)
    · rw [List.getD_eq_default _ _ (Nat.le_of_not_lt hp)]
      norm_num

theorem blockExp_lt (f : Bs) (stoch xauto : Bool) {exp : Nat} (h : exp < 256) (es : List SrcElem) : blockExp f stoch xauto exp es < 256 := by
  unfold blockExp
  extract_lets big
  split
  · norm_num
  · split
    · exact unsgn_lt 8 _
    · exact h

/-! ### Bytes that stand where they belong -/

/-- The bytes that `D` picks are in `k` what `B` names, and every other byte is that or what it is in `m`. -/
structure Puts (B : Nat → Byte) (D : Nat → Prop) (m k : Mem) : Prop where
  put : ∀ x, D x → memByte k x = B x
  keep : ∀ x, memByte k x = B x ∨ memByte k x = memByte m x

section
variable {B : Nat → Byte} {D E : Nat → Prop} {m k l : Mem} {s : State}

theorem Puts.trans (h : Puts B D m k) (g : Puts B E k l) : Puts B (fun x => D x ∨ E x) m l := by
  refine ⟨fun x hx => ?_, fun x => ?_⟩
  · rcases hx with hx | hx
    · exact (g.keep x).elim id (fun e => e.trans (h.put x hx))
    · exact g.put x hx
  · exact (g.keep x).elim Or.inl (fun e => (h.keep x).imp e.trans e.trans)

theorem Puts.mono (h : Puts B D m k) (he : ∀ x, E x → D x) : Puts B E m k := ⟨fun x hx => h.put x (he x hx), h.keep⟩

theorem Puts.upTo {D : Nat → Nat → Prop} {f : State → Nat → State} {n : Nat} (hf : ∀ i < n, ∀ t : State, Puts B (D i) t.mem (f t i).mem) :
    Puts B (fun x => ∃ i < n, D i x) s.mem (Sys2Proof.upTo n f s).mem :=
  upTo_ind (P := fun j t => Puts B (fun x => ∃ i < j, D i x) s.mem t.mem)
    ⟨fun _ ⟨_, hi, _⟩ => absurd hi (Nat.not_lt_zero _), fun _ => .inr rfl⟩ n
    (fun j hj t ht => (ht.trans (hf j hj t)).mono (fun _ ⟨i, hi, hx⟩ =>
      (Nat.lt_succ_iff_lt_or_eq.1 hi).imp (fun h => ⟨i, h, hx⟩) (fun h => h ▸ hx)))

end

/-- Byte `i` of a number of bytes. -/
theorem byteAt_packed {l : List Nat} (hl : ∀ x ∈ l, x < 256) {i : Nat} (hi : i < l.length) :
    byteAt (l.foldr (fun x acc => acc * 256 + x) 0) i = BitVec.ofNat 8 l[i] := by
  have h := packed_elem 1 (l.map (fun x => { code := x })) (by simpa using hl) i (by simpa using hi)
  rw [List.foldr_map, Nat.one_mul, pow_one, List.getElem_map] at h
  unfold byteAt
  apply BitVec.eq_of_toNat_eq
  rw [BitVec.toNat_ofNat, BitVec.toNat_ofNat]
  exact (h.trans (Nat.mod_eq_of_lt (hl _ (List.getElem_mem hi))).symm)

/-! ### Blocks -/

/-- The elements of block `b` of a run of `cnt`, whose element `k` is `E k`. -/
def blockElems (E : Nat → SrcElem) (cnt b : Nat) : List SrcElem := (List.range (min 128 (cnt - 128 * b))).map (fun i => E (128 * b + i))

/-- What a CONVERT into format `f` under the modes of `q` makes of a run whose element `k` is `E k`: the exponent byte of block `b`. -/
def runExp (f : Bs) (q : Conv) (E : Nat → SrcElem) (b : Nat) : Nat := blockExp f q.stoch q.xauto (q.imm % 256) (blockElems E q.cnt b)

/-- And piece `p` of element `k`. -/
def runPiece (f : Bs) (q : Conv) (E : Nat → SrcElem) (p k : Nat) : Nat :=
  bsPiece f q.stoch q.nanOvf q.g (runExp f q E (k / 128)) p k (E k).v

/-- R65: the byte at offset `off` of the run's planes. -/
def bsByte (f : Bs) (q : Conv) (E : Nat → SrcElem) (off : Nat) : Byte :=
  let blocks := cdiv q.cnt 128
  BitVec.ofNat 8 (if off / 128 < f.pieces * blocks then runPiece f q E (off / 128 / blocks) (128 * (off / 128 % blocks) + off % 128)
    else runExp f q E (off - 128 * (f.pieces * blocks)))

/-- R65: where the exponent byte of block `b` lies, and piece `p` of element `k`. -/
def expAt (f : Bs) (cnt b : Nat) : Nat := 128 * (f.pieces * cdiv cnt 128) + b
def pieceAt (cnt p k : Nat) : Nat := 128 * (p * cdiv cnt 128 + k / 128) + k % 128

section
variable {f : Bs} {q : Conv} {E : Nat → SrcElem} {b p k : Nat}

theorem bsByte_exp (f : Bs) (q : Conv) (E : Nat → SrcElem) (b : Nat) : bsByte f q E (expAt f q.cnt b) = BitVec.ofNat 8 (runExp f q E b) := by
  have hline : ¬ expAt f q.cnt b / 128 < f.pieces * cdiv q.cnt 128 := by unfold expAt; omega
  have hsub : expAt f q.cnt b - 128 * (f.pieces * cdiv q.cnt 128) = b := Nat.add_sub_cancel_left ..
  simp only [bsByte]
  rw [if_neg hline, hsub]

theorem bsByte_piece (hp : p < f.pieces) (hk : k < q.cnt) : bsByte f q E (pieceAt q.cnt p k) = BitVec.ofNat 8 (runPiece f q E p k) := by
  have hb := (block_lt hk).1
  have hline : pieceAt q.cnt p k / 128 = p * cdiv q.cnt 128 + k / 128 := by unfold pieceAt; omega
  have hpos : pieceAt q.cnt p k % 128 = k % 128 := by unfold pieceAt; omega
  have hdiv : (p * cdiv q.cnt 128 + k / 128) / cdiv q.cnt 128 = p := by
    rw [Nat.mul_comm, Nat.mul_add_div (by omega), Nat.div_eq_of_lt hb, Nat.add_zero]
  have hmod : (p * cdiv q.cnt 128 + k / 128) % cdiv q.cnt 128 = k / 128 := by rw [Nat.mul_add_mod', Nat.mod_eq_of_lt hb]
  simp only [bsByte]
  rw [hline, hpos, if_pos (planeLine_lt hp hb), hdiv, hmod, Nat.div_add_mod]

theorem zipIdx_range {α : Type} (n : Nat) (h : Nat → α) : ((List.range n).map h).zipIdx = (List.range n).map (fun i => (h i, i)) := by
  refine List.ext_getElem (by simp) (fun i _ _ => ?_)
  simp

theorem blockElems_length (E : Nat → SrcElem) (cnt b : Nat) : (blockElems E cnt b).length = min 128 (cnt - 128 * b) := by
  unfold blockElems
  rw [List.length_map, List.length_range]

end

/-- R72: what becomes of each element of a block. -/
def blockRes (f : Bs) (q : Conv) (E : Nat → SrcElem) (b : Nat) : List ConvRes :=
  (blockElems E q.cnt b).zipIdx.map (fun e => if runExp f q E b = 0x80 then { pieces := List.replicate f.pieces 0 }
    else convBs f (convRnd q.stoch q.g (128 * b + e.2)) q.nanOvf (e8 (runExp f q E b)) e.1.v)

theorem blockRes_pieces (f : Bs) (q : Conv) (E : Nat → SrcElem) (b p : Nat) : (blockRes f q E b).map (fun r => r.pieces.getD p 0) =
    (List.range (min 128 (q.cnt - 128 * b))).map (fun i => runPiece f q E p (128 * b + i)) := by
  unfold blockRes blockElems
  rw [zipIdx_range, List.map_map, List.map_map]
  refine List.map_congr_left (fun i hi => ?_)
  have hb : (128 * b + i) / 128 = b := by have := List.mem_range.1 hi; omega
  simp only [Function.comp, runPiece, bsPiece, hb]
  split
  · simp
  · rfl

/-- R65, R72: the piece lines of a block, from the top piece down. -/
def blockLines (t : State) (c : CoreId) (f : Bs) (q : Conv) (E : Nat → SrcElem) (b : Nat) : State :=
  upTo f.pieces (fun t p => vfWrite t c (vfOff q.dst + 128 * (p * cdiv q.cnt 128 + b)) (blockElems E q.cnt b).length
    ((blockRes f q E b).foldr (fun r acc => acc * 256 + r.pieces.getD p 0) 0) 0) t

/-- R65, R72: a block is written line by line, and its exponent byte last. -/
theorem convBlock_mem (t : State) (c : CoreId) (f : Bs) (q : Conv) (E : Nat → SrcElem) (b : Nat) :
    (convBlock t c f q.stoch q.nanOvf q.xauto q.g (q.imm % 256) q.dst q.cnt b (blockElems E q.cnt b)).1.mem =
      memTail (blockLines t c f q E b).mem (vfBase c.site c.n + vfOff q.dst + expAt f q.cnt b) 1 (runExp f q E b) := by
  rw [expAt, ← Nat.add_assoc]
  rfl

section
variable {B : Nat → Byte} {t : State} {c : CoreId} {o n v pm a : Nat} {m : Mem}

theorem Puts.vfWrite (h : ∀ i < n, byteAt v i = B (vfBase c.site c.n + o + i)) :
    Puts B (fun x => vfBase c.site c.n + o ≤ x ∧ x < vfBase c.site c.n + o + n) t.mem (vfWrite t c o n v pm).mem := by
  have inside : ∀ x, vfBase c.site c.n + o ≤ x ∧ x < vfBase c.site c.n + o + n → memByte (Machine.vfWrite t c o n v pm).mem x = B x := by
    intro x hx
    rw [memByte_vfWrite, if_pos hx, h _ (by omega)]
    congr 1
    omega
  refine ⟨inside, fun x => ?_⟩
  by_cases hx : vfBase c.site c.n + o ≤ x ∧ x < vfBase c.site c.n + o + n
  · exact .inl (inside x hx)
  · exact .inr (by rw [memByte_vfWrite, if_neg hx])

theorem Puts.tailByte (h : BitVec.ofNat 8 v = B a) : Puts B (fun x => x = a) m (memTail m a 1 v) := by
  have inside : memByte (memTail m a 1 v) a = B a := by
    rw [memByte_tail, if_pos ⟨le_refl _, Nat.lt_succ_self _⟩, Nat.sub_self, ← h]
    simp [byteAt]
  refine ⟨fun x hx => hx ▸ inside, fun x => ?_⟩
  by_cases hx : x = a
  · exact .inl (hx ▸ inside)
  · exact .inr (by rw [memByte_tail, if_neg (by omega)])

end

section
variable {f : Bs} {q : Conv} {E : Nat → SrcElem} {b : Nat} {t : State} {c : CoreId}

theorem runPiece_lt (f : Bs) (q : Conv) (E : Nat → SrcElem) (p k : Nat) : runPiece f q E p k < 256 := bsPiece_lt ..

theorem runExp_lt (f : Bs) (q : Conv) (E : Nat → SrcElem) (b : Nat) : runExp f q E b < 256 :=
  blockExp_lt _ _ _ (Nat.mod_lt _ (by norm_num)) _

/-- A byte of a block's line of piece `p`. -/
theorem blockRes_byte (p : Nat) {i : Nat} (hi : i < min 128 (q.cnt - 128 * b)) :
    byteAt ((blockRes f q E b).foldr (fun r acc => acc * 256 + r.pieces.getD p 0) 0) i = BitVec.ofNat 8 (runPiece f q E p (128 * b + i)) := by
  have hlt : ∀ x ∈ (blockRes f q E b).map (fun r => r.pieces.getD p 0), x < 256 := by
    rw [blockRes_pieces]
    intro x hx
    obtain ⟨j, _, rfl⟩ := List.mem_map.1 hx
    exact runPiece_lt ..
  have hlen : i < ((blockRes f q E b).map (fun r => r.pieces.getD p 0)).length := by rw [blockRes_pieces]; simpa using hi
  have h := byteAt_packed hlt hlen
  rw [List.foldr_map, List.getElem_of_eq (blockRes_pieces f q E b p)] at h
  simpa using h

/-- R65: the bytes of the run's planes that block `b` fills. -/
def blockAt (f : Bs) (q : Conv) (base b x : Nat) : Prop :=
  x = base + expAt f q.cnt b ∨ ∃ p < f.pieces, ∃ k < q.cnt, k / 128 = b ∧ x = base + pieceAt q.cnt p k

theorem blockLines_puts : Puts (fun x => bsByte f q E (x - (vfBase c.site c.n + vfOff q.dst)))
    (fun x => ∃ p < f.pieces, ∃ k < q.cnt, k / 128 = b ∧ x = vfBase c.site c.n + vfOff q.dst + pieceAt q.cnt p k) t.mem
    (blockLines t c f q E b).mem := by
  refine (Puts.upTo (fun p hp t => Puts.vfWrite (fun i hi => ?byte))).mono (fun x hx => ?place)
  case byte =>
    rw [blockElems_length] at hi
    have hdiv : (128 * b + i) / 128 = b := by omega
    have hat : vfBase c.site c.n + (vfOff q.dst + 128 * (p * cdiv q.cnt 128 + b)) + i - (vfBase c.site c.n + vfOff q.dst) =
        pieceAt q.cnt p (128 * b + i) := by
      unfold pieceAt
      rw [hdiv]
      omega
    rw [blockRes_byte p hi, hat, bsByte_piece hp (by omega)]
  case place =>
    obtain ⟨p, hp, k, hk, rfl, rfl⟩ := hx
    refine ⟨p, hp, ?_⟩
    rw [blockElems_length]
    unfold pieceAt
    omega

theorem convBlock_puts : Puts (fun x => bsByte f q E (x - (vfBase c.site c.n + vfOff q.dst))) (blockAt f q (vfBase c.site c.n + vfOff q.dst) b)
    t.mem (convBlock t c f q.stoch q.nanOvf q.xauto q.g (q.imm % 256) q.dst q.cnt b (blockElems E q.cnt b)).1.mem := by
  rw [convBlock_mem]
  exact (blockLines_puts.trans (Puts.tailByte (by rw [Nat.add_sub_cancel_left, bsByte_exp]))).mono (fun _ hx => hx.symm)

theorem blockLines_within (ht : Memory.wf t.mem = true) (hb : b < cdiv q.cnt 128) :
    WritesWithin (vfBase c.site c.n + vfOff q.dst) (fmtExtent (.bs f) q.cnt) t.mem (blockLines t c f q E b).mem := by
  have hd := vfOff_mod q.dst
  refine WritesWithin.upTo ht (fun p hp t ht => ?_)
  have hline := planeLine_lt hp hb
  refine (WritesWithin.vfWrite ht (by omega) _ _ _).mono (by omega) ?_
  rw [blockElems_length]
  simp only [fmtExtent, bsLines]
  omega

theorem convBlock_within (ht : Memory.wf t.mem = true) (hb : b < cdiv q.cnt 128) :
    WritesWithin (vfBase c.site c.n + vfOff q.dst) (fmtExtent (.bs f) q.cnt) t.mem
      (convBlock t c f q.stoch q.nanOvf q.xauto q.g (q.imm % 256) q.dst q.cnt b (blockElems E q.cnt b)).1.mem := by
  have hlines := blockLines_within (E := E) (f := f) (c := c) ht hb
  have hexp : b < 128 * cdiv (cdiv q.cnt 128) 128 := by unfold cdiv at *; omega
  rw [convBlock_mem]
  refine hlines.trans ((WritesWithin.tail hlines.wf _ _ _).mono (by omega) ?_)
  simp only [fmtExtent, bsLines, expAt]
  omega

end

end Sys2Proof.Machine
end

section
/-! PROOFS. CONVERT as a whole (R68 to R79, R90, R93, R96): its beats one after the other, and what an issued CONVERT leaves. -/

namespace Sys2Proof.Machine

/-! ### Beats -/

/-- The elements of beat `k` of a run of `cnt`, whose element `k` is `E k`. -/
def beatElems (E : Nat → SrcElem) (cnt k : Nat) : List SrcElem := (List.range (beatLen 256 cnt k)).map (fun i => E (256 * k + i))

/-- The first `j` beats of a CONVERT of a run whose element `k` is `E k`. -/
def convBeats (s : State) (c : CoreId) (q : Conv) (E : Nat → SrcElem) (j : Nat) : State :=
  upTo j (fun t k => convBeat t c q (256 * k) (beatElems E q.cnt k)) s

section
variable {s t p : State} {ks : List Nat} {c : CoreId} {q : Conv} {E : Nat → SrcElem} {k b j : Nat}

theorem beatElems_length (E : Nat → SrcElem) (cnt k : Nat) : (beatElems E cnt k).length = beatLen 256 cnt k := by
  unfold beatElems
  rw [List.length_map, List.length_range]

theorem beatElems_congr {F : Nat → SrcElem} {cnt : Nat} (h : ∀ k < cnt, E k = F k) (k : Nat) : beatElems E cnt k = beatElems F cnt k := by
  refine List.map_congr_left (fun i hi => h _ ?_)
  have := List.mem_range.1 hi
  unfold beatLen at this
  omega

/-- A beat holds two blocks. -/
theorem beatElems_block {cnt : Nat} (hb : b < cdiv (beatElems E cnt k).length 128) :
    ((beatElems E cnt k).drop (128 * b)).take 128 = blockElems E cnt (256 * k / 128 + b) ∧ 256 * k / 128 + b < cdiv cnt 128 := by
  rw [beatElems_length] at hb
  unfold beatLen cdiv at hb
  refine ⟨?_, by unfold cdiv; omega⟩
  unfold beatElems blockElems beatLen
  refine List.ext_getElem (by simp; omega) (fun i _ _ => ?_)
  simp only [List.getElem_take, List.getElem_drop, List.getElem_map, List.getElem_range]
  congr 1
  omega

theorem convWrite_fp {f : Fp} (hd : q.dst_ = .fp f) (t : State) (e0 : Nat) (es : List SrcElem) :
    convWrite t c q e0 es = (convToFp t c f q.stoch q.nanOvf q.g q.dst e0 es).1 := by
  simp only [convWrite, hd]

/-- R72, R93: a beat's blocks. -/
theorem convWrite_bs {f : Bs} (hd : q.dst_ = .bs f) (t : State) (k : Nat) :
    convWrite t c q (256 * k) (beatElems E q.cnt k) = upTo (cdiv (beatElems E q.cnt k).length 128) (fun t b =>
      (convBlock t c f q.stoch q.nanOvf q.xauto q.g (q.imm % 256) q.dst q.cnt (256 * k / 128 + b)
        (blockElems E q.cnt (256 * k / 128 + b))).1) t := by
  simp only [convWrite, hd]
  exact upTo_congr t (fun b hb t => by rw [(beatElems_block hb).1])

theorem convBlock_frame (h : CoreFrame c ks p s) (f : Bs) (stoch nanOvf xauto : Bool) (g exp dst cnt b : Nat) (es : List SrcElem) :
    CoreFrame c ks p (convBlock s c f stoch nanOvf xauto g exp dst cnt b es).1 := by
  unfold convBlock
  exact (CoreFrame.foldl (fun _ _ h => vfWrite_frame h _ _ _ _) h).withMem _

theorem convWrite_frame (h : CoreFrame c ks p s) (q : Conv) (e0 : Nat) (es : List SrcElem) : CoreFrame c ks p (convWrite s c q e0 es) := by
  cases hd : q.dst_ with
  | fp f =>
    rw [convWrite_fp hd]
    exact vfWrite_frame h _ _ _ _
  | bs f =>
    simp only [convWrite, hd]
    exact CoreFrame.upTo (fun _ _ h => convBlock_frame h _ _ _ _ _ _ _ _ _ _) h

theorem convBeats_frame (s : State) (c : CoreId) (q : Conv) (E : Nat → SrcElem) (j : Nat) :
    CoreFrame c (keysOf (coreP c) countFields) s (convBeats s c q E j) :=
  CoreFrame.upTo (fun _ _ h => (convWrite_frame h q _ _).trans (convBeat_leaves _ c q _ _).frame) (CoreFrame.refl _ _ _)

/-- R84: a beat writes within its operand. -/
theorem convBeat_within (ht : Memory.wf t.mem = true) (hk : k < cdiv q.cnt 256) :
    WritesWithin (vfBase c.site c.n + vfOff q.dst) (fmtExtent q.dst_ q.cnt) t.mem (convBeat t c q (256 * k) (beatElems E q.cnt k)).mem := by
  rw [(convBeat_leaves t c q _ _).mem.mem]
  cases hd : q.dst_ with
  | fp f =>
    rw [convWrite_fp hd]
    refine convToFp_within ht f _ _ _ _ (by omega) ?_
    rw [beatElems_length]
    unfold beatLen cdiv at *
    omega
  | bs f =>
    rw [convWrite_bs hd]
    exact WritesWithin.upTo ht (fun b hb t ht => convBlock_within ht (beatElems_block hb).2)

theorem convBeats_within (hs : Memory.wf s.mem = true) (hj : j ≤ cdiv q.cnt 256) :
    WritesWithin (vfBase c.site c.n + vfOff q.dst) (fmtExtent q.dst_ q.cnt) s.mem (convBeats s c q E j).mem :=
  WritesWithin.upTo hs (fun _ hk _ ht => convBeat_within ht (by omega))

/-- R96: where the operands are apart, every beat reads its elements as they stood at issue. -/
theorem convBeats_eq {src : Fmt} {a d : Nat} (hs : Memory.wf s.mem = true) (hd : 0 < d)
    (hc : vfOff q.dst + fmtExtent q.dst_ q.cnt ≤ vfOff a ∨ vfOff a + fmtExtent src q.cnt ≤ vfOff q.dst) :
    beats (cdiv q.cnt 256) d (fun s k => convSrc s c src a q.cnt (256 * k) (beatLen 256 q.cnt k)) (fun s k es => convBeat s c q (256 * k) es) s =
      convBeats s c q (srcElem s c src a q.cnt) (cdiv q.cnt 256) := by
  have hread : ∀ t : State, Memory.wf t.mem = true → ∀ k,
      convSrc t c src a q.cnt (256 * k) (beatLen 256 q.cnt k) = beatElems (srcElem t c src a q.cnt) q.cnt k :=
    fun t ht k => convSrc_eq ht (by omega) _
  have hdone : ∀ j, beatsDone (fun s k => convSrc s c src a q.cnt (256 * k) (beatLen 256 q.cnt k)) (fun s k es => convBeat s c q (256 * k) es) s j =
      convBeats s c q (srcElem s c src a q.cnt) j := by
    intro j
    unfold beatsDone convBeats
    simp only [hread s hs]
  rw [beats_eq _ _ _ _ _ hd (fun k hk => ?_), hdone]
  have hwithin := convBeats_within (E := srcElem s c src a q.cnt) (c := c) hs (show k + 1 - d ≤ cdiv q.cnt 256 by omega)
  rw [hdone, hread _ hwithin.wf, hread s hs]
  exact beatElems_congr (fun k hk => srcElem_within hwithin hc hk) _

/-! ### What the beats leave in the vector file -/

theorem vfPutRun_mem_congr (h : s.mem = t.mem) (sz o : Nat) (es : List OutElem) : (vfPutRun s c sz o es).mem = (vfPutRun t c sz o es).mem := by
  rw [vfPutRun_mem, vfPutRun_mem]
  unfold vfWrite
  rw [h]

/-- R68, R71: the code of an element in a floating destination. -/
theorem convBeats_fp {f : Fp} (hd : q.dst_ = .fp f) (hs : Memory.wf s.mem = true) (hk : k < q.cnt) :
    vfBytes (convBeats s c q E (cdiv q.cnt 256)) c (vfOff q.dst + f.bytes * k) f.bytes = (fpOut f q.stoch q.nanOvf q.g k (E k)).code := by
  have hmem : ∀ j, (convBeats s c q E j).mem = (upTo j (fun t k => vfPutRun t c f.bytes (vfOff q.dst + f.bytes * (256 * k))
      ((List.range (beatLen 256 q.cnt k)).map (fun i => fpOut f q.stoch q.nanOvf q.g (256 * k + i) (E (256 * k + i))))) s).mem := by
    intro j
    induction j with
    | zero => rfl
    | succ j ih =>
      have hstep : convBeats s c q E (j + 1) = convBeat (convBeats s c q E j) c q (256 * j) (beatElems E q.cnt j) := upTo_succ ..
      rw [hstep, upTo_succ, (convBeat_leaves _ c q _ _).mem.mem, convWrite_fp hd, convToFp_mem, beatElems, zipIdx_range, List.map_map]
      exact vfPutRun_mem_congr ih _ _ _
  have h := puts_elem c f.bytes 256 q.cnt q.dst (fun k => (List.range (beatLen 256 q.cnt k)).map (fun i =>
    fpOut f q.stoch q.nanOvf q.g (256 * k + i) (E (256 * k + i)))) (fun k => fpOut f q.stoch q.nanOvf q.g k (E k)) (fun k => by simp) s hs
    (fun k e he => ?_) (by norm_num) (fun k i hi => ?_) k hk
  · rw [← h]
    unfold vfBytes
    rw [hmem]
    rfl
  · obtain ⟨i, _, rfl⟩ := List.mem_map.1 he
    exact fpOut_lt ..
  · rw [List.getElem?_map, List.getElem?_range hi]
    rfl

theorem vfBytes_one (ht : Memory.wf t.mem = true) (o : Nat) : vfBytes t c o 1 = (memByte t.mem (vfBase c.site c.n + o)).toNat := by
  unfold vfBytes
  rw [memRead_bytes _ _ _ ht]
  simp [numOf]

/-- R65: the bytes of the run's planes after all beats. -/
theorem convBeats_puts {f : Bs} (hd : q.dst_ = .bs f) : Puts (fun x => bsByte f q E (x - (vfBase c.site c.n + vfOff q.dst)))
    (fun x => ∃ b < cdiv q.cnt 128, blockAt f q (vfBase c.site c.n + vfOff q.dst) b x) s.mem (convBeats s c q E (cdiv q.cnt 256)).mem := by
  refine (Puts.upTo (D := fun k x => ∃ b < cdiv (beatElems E q.cnt k).length 128,
    blockAt f q (vfBase c.site c.n + vfOff q.dst) (256 * k / 128 + b) x)
    (fun k _ t => ?beat)).mono (fun x ⟨b, hb, hx⟩ => ?place)
  case beat =>
    rw [(convBeat_leaves t c q _ _).mem.mem, convWrite_bs hd]
    exact Puts.upTo (fun _ _ _ => convBlock_puts)
  case place =>
    refine ⟨b / 2, by unfold cdiv at *; omega, b % 2, ?_, ?_⟩
    · rw [beatElems_length]
      unfold beatLen cdiv at *
      omega
    · rw [show 256 * (b / 2) / 128 + b % 2 = b by omega]
      exact hx

/-- R65, R72, R73: the exponent byte of an element's block, and the element's pieces. -/
theorem convBeats_bs {f : Bs} (hd : q.dst_ = .bs f) (hs : Memory.wf s.mem = true) (hk : k < q.cnt) :
    vfBytes (convBeats s c q E (cdiv q.cnt 256)) c (vfOff q.dst + expAt f q.cnt (k / 128)) 1 = runExp f q E (k / 128) ∧
      ∀ p < f.pieces, vfBytes (convBeats s c q E (cdiv q.cnt 256)) c (vfOff q.dst + pieceAt q.cnt p k) 1 = runPiece f q E p k := by
  have hwf := (convBeats_within (E := E) (c := c) (q := q) hs (le_refl _)).wf
  have hput := (convBeats_puts (E := E) (c := c) (s := s) hd).put
  have hb := (block_lt hk).1
  refine ⟨?_, fun p hp => ?_⟩
  · rw [vfBytes_one hwf, ← Nat.add_assoc, hput _ ⟨_, hb, .inl rfl⟩, Nat.add_sub_cancel_left, bsByte_exp]
    exact Nat.mod_eq_of_lt (runExp_lt ..)
  · rw [vfBytes_one hwf, ← Nat.add_assoc, hput _ ⟨_, hb, .inr ⟨p, hp, k, hk, rfl, rfl⟩⟩, Nat.add_sub_cancel_left, bsByte_piece hp hk]
    exact Nat.mod_eq_of_lt (runPiece_lt ..)

end

end Sys2Proof.Machine
end

section
/-! PROOFS. What an issued CONVERT leaves in every state (R68 to R79, R90), and why the statement about it asks too much of a generator
register that holds more than its 32 bits. -/

namespace Sys2Proof.Machine

/-! ### Fields of a CONVERT -/

/-- What a CONVERT with the operands `a` fixes at issue. -/
def convQ (s : State) (c : CoreId) (a : VxArgs) : Conv :=
  ⟨cvFmt (a.ty.toNat / 16), convStoch a, convNanOvf a, convAuto a, s.rd (coreP c) Reg.Co.RNG_STATE, a.imm.toNat, a.count.toNat, a.dst.toNat⟩

theorem bits_bits (x i w j : Nat) (h : j < w) : bits (bits x i w) j 1 = bits x (i + j) 1 := by
  obtain ⟨d, rfl⟩ : ∃ d, w = j + (1 + d) := ⟨w - j - 1, by omega⟩
  unfold bits
  rw [pow_add 2 j, Nat.mod_mul_right_div_self, Nat.div_div_eq_div_mul, ← pow_add]
  exact Nat.mod_mod_of_dvd _ (Nat.pow_dvd_pow 2 (Nat.le_add_right _ _))

theorem vxOf_modes {op : Nat} (ho : op < 256) (a : VxArgs) : bits (vxOf op a) 9 3 = bits a.flags.toNat 1 3 := by
  rw [vxOf_eq]; unfold bits; omega

theorem vxOf_destType {op : Nat} (ho : op < 256) (a : VxArgs) : bits (vxOf op a) 114 4 = a.ty.toNat / 16 := by
  have := a.flags.isLt; have := a.count.isLt; have := a.dst.isLt; have := a.srca.isLt; have := a.srcb.isLt
  have := a.imm.isLt; have := a.ty.isLt
  rw [vxOf_eq]; unfold bits; omega

theorem vxAcc_convert (c : CoreId) (a : VxArgs) (t : Nat) : vxAcc c (vxOf 0x30 a) t = [] := by
  simp [vxAcc, vxOf_op]

theorem vxData_convert (s : State) (c : CoreId) (a : VxArgs) : vxData s c (vxOf 0x30 a) =
    vxConvert s c (cvFmt (a.ty.toNat % 16)) (cvFmt (a.ty.toNat / 16)) a.count.toNat a.dst.toNat a.srca.toNat a.imm.toNat
      (bits a.flags.toNat 1 3) := by
  have ho : 0x30 < 256 := by decide
  simp only [vxData, vxOf_op ho, vxOf_count ho, vxOf_dst ho, vxOf_srca ho, vxOf_imm ho, vxOf_ty ho, vxOf_destType ho, vxOf_modes ho]

/-! ### The operation -/

section
variable {s : State} {c : CoreId} {a : VxArgs}

/-- The two operands of a CONVERT lie apart. -/
def convApart (a : VxArgs) : Prop :=
  vfOff a.dst.toNat + fmtExtent (cvFmt (a.ty.toNat / 16)) a.count.toNat ≤ vfOff a.srca.toNat ∨
    vfOff a.srca.toNat + fmtExtent (cvFmt (a.ty.toNat % 16)) a.count.toNat ≤ vfOff a.dst.toNat

/-- The state after a CONVERT's beats. -/
def convDone (s : State) (c : CoreId) (a : VxArgs) : State :=
  convBeats (noteVf s c (vfOff a.srca.toNat) (fmtExtent (cvFmt (a.ty.toNat % 16)) a.count.toNat)) c (convQ s c a) (convElem s c a)
    (cdiv a.count.toNat 256)

theorem convBeats_congr {q : Conv} {E F : Nat → SrcElem} (h : ∀ k < q.cnt, E k = F k) (s : State) (c : CoreId) (j : Nat) :
    convBeats s c q E j = convBeats s c q F j := by
  unfold convBeats
  simp only [beatElems_congr h]

theorem noteVf_generator (s : State) (c : CoreId) (o n : Nat) : (noteVf s c o n).rd (coreP c) Reg.Co.RNG_STATE = s.rd (coreP c) Reg.Co.RNG_STATE :=
  (noteVf_frame (CoreFrame.refl c _ s) (List.Subset.refl _) o n).regs.rd _ _ (fldKey_not_mem (by decide))

/-- R70, R90: a CONVERT is its beats, and then the claimed advances of the generator. -/
theorem vxConvert_eq (h : Memory.wf s.mem = true) (hc : convApart a) :
    vxConvert s c (cvFmt (a.ty.toNat % 16)) (cvFmt (a.ty.toNat / 16)) a.count.toNat a.dst.toNat a.srca.toNat a.imm.toNat (bits a.flags.toNat 1 3) =
      if convStoch a then (convDone s c a).wr (coreP c) Reg.Co.RNG_STATE (lfsr (16 * a.count.toNat) (s.rd (coreP c) Reg.Co.RNG_STATE))
      else convDone s c a := by
  have hw := WritesWithin.noteVf (a := vfBase c.site c.n + vfOff a.dst.toNat) (n := fmtExtent (cvFmt (a.ty.toNat / 16)) a.count.toNat)
    (c := c) h (vfOff a.srca.toNat) (fmtExtent (cvFmt (a.ty.toNat % 16)) a.count.toNat)
  unfold vxConvert
  extract_lets p s1 g q s2
  have hg : g = s.rd (coreP c) Reg.Co.RNG_STATE := noteVf_generator ..
  have hq : q = convQ s c a := by
    simp only [q, convQ, convStoch, convNanOvf, convAuto, hg]
    rw [bits_bits _ _ _ _ (by norm_num), bits_bits _ _ _ _ (by norm_num), bits_bits _ _ _ _ (by norm_num)]
  have h2 : s2 = convDone s c a := by
    have hbeats := convBeats_eq (c := c) (q := q) (src := cvFmt (a.ty.toNat % 16)) (a := a.srca.toNat) (d := if q.xauto then 9 else 7) hw.wf
      (by split <;> norm_num) hc
    refine hbeats.trans ((convBeats_congr (F := convElem s c a) (fun k hk => ?_) _ _ _).trans (hq ▸ rfl))
    rw [convElem_eq h]
    exact srcElem_within hw hc hk
  rw [h2, hg, hq]
  rfl

/-- R72, R73, R76: the exponent byte of a block, as the statements give it. -/
theorem convExp_eq (s : State) (c : CoreId) (a : VxArgs) (f : Bs) (b : Nat) : convExp s c a f b = runExp f (convQ s c a) (convElem s c a) b := by
  unfold convExp runExp blockExp
  extract_lets es big big'
  have hes : blockElems (convElem s c a) (convQ s c a).cnt b = es := rfl
  by_cases hp : es.any (fun e => e.poison) = true
  · rw [hes, if_pos hp, if_pos hp]
  · have hbig : big' = big := by
      refine List.foldl_ext _ _ _ (fun m e he => ?_)
      have hpe : e.poison = false := by
        by_contra g
        exact hp (List.any_eq_true.2 ⟨e, he, by simpa using g⟩)
      simp [hpe]
    rw [hes, hbig]
    rfl

end

/-! ### What is left -/

/-- What an issued CONVERT with the operands `a` leaves of `s`. The generator is cut to the 32 bits of its register. -/
structure Converted (s : State) (c : CoreId) (a : VxArgs) (u : State) : Prop where
  code : ∀ f, cvFmt (a.ty.toNat / 16) = .fp f → ∀ k < a.count.toNat, vfBytes u c (vfOff a.dst.toNat + f.bytes * k) f.bytes =
    if (convElem s c a k).poison then f.nan
    else (convFp f (convRnd (convStoch a) (s.rd (coreP c) Reg.Co.RNG_STATE) k) (convNanOvf a) (convElem s c a k).v).pieces.headD 0
  block : ∀ f, cvFmt (a.ty.toNat / 16) = .bs f → ∀ k < a.count.toNat,
    vfBytes u c (vfOff a.dst.toNat + 128 * (f.pieces * cdiv a.count.toNat 128) + k / 128) 1 = convExp s c a f (k / 128) ∧
      ∀ p < f.pieces, vfBytes u c (vfOff a.dst.toNat + 128 * (p * cdiv a.count.toNat 128 + k / 128) + k % 128) 1 =
        if convExp s c a f (k / 128) = 0x80 then 0
        else (convBs f (convRnd (convStoch a) (s.rd (coreP c) Reg.Co.RNG_STATE) k) (convNanOvf a) (e8 (convExp s c a f (k / 128)))
          (convElem s c a k).v).pieces.getD p 0
  generator : u.rd (coreP c) Reg.Co.RNG_STATE = if convStoch a then lfsr (16 * a.count.toNat) (s.rd (coreP c) Reg.Co.RNG_STATE) % 2 ^ 32
    else s.rd (coreP c) Reg.Co.RNG_STATE
  beside : ∀ x, besideVf c a.dst.toNat (fmtExtent (cvFmt (a.ty.toNat / 16)) a.count.toNat) x → memByte u.mem x = memByte s.mem x
  frame : CoreFrame c (keysOf (coreP c) (seqFields ++ vfFields ++ convFields)) s u

section
variable {s u : State} {c : CoreId} {a : VxArgs} {t : Nat} {h : Hdr}

/-- R84: a CONVERT writes within its destination operand. -/
theorem convDone_within (hwf : Memory.wf s.mem = true) : WritesWithin (vfBase c.site c.n + vfOff a.dst.toNat)
    (fmtExtent (cvFmt (a.ty.toNat / 16)) a.count.toNat) s.mem (convDone s c a).mem :=
  (WritesWithin.noteVf hwf _ _).trans (convBeats_within (q := convQ s c a) (noteVf_wf hwf _ _ _) (le_refl _))

theorem convDone_frame (s : State) (c : CoreId) (a : VxArgs) : CoreFrame c (keysOf (coreP c) (vfFields ++ countFields)) s (convDone s c a) :=
  (noteVf_frame (CoreFrame.refl _ _ _) (keysOf_subset (List.subset_append_left _ _)) _ _).trans
    ((convBeats_frame _ _ _ _ _).mono (keysOf_subset (List.subset_append_right _ _)))

/-- R68 to R76: the elements of a state whose memory is that after the beats. -/
theorem convDone_code (hwf : Memory.wf s.mem = true) (hu : u.mem = (convDone s c a).mem) {f : Fp} (hd : cvFmt (a.ty.toNat / 16) = .fp f)
    {k : Nat} (hk : k < a.count.toNat) : vfBytes u c (vfOff a.dst.toNat + f.bytes * k) f.bytes =
      if (convElem s c a k).poison then f.nan
      else (convFp f (convRnd (convStoch a) (s.rd (coreP c) Reg.Co.RNG_STATE) k) (convNanOvf a) (convElem s c a k).v).pieces.headD 0 := by
  have hcode := convBeats_fp (s := noteVf s c (vfOff a.srca.toNat) (fmtExtent (cvFmt (a.ty.toNat % 16)) a.count.toNat)) (c := c)
    (q := convQ s c a) (E := convElem s c a) hd (noteVf_wf hwf _ _ _) hk
  unfold vfBytes at hcode ⊢
  rw [hu]
  refine hcode.trans ?_
  unfold fpOut
  exact apply_ite OutElem.code ..

theorem convDone_block (hwf : Memory.wf s.mem = true) (hu : u.mem = (convDone s c a).mem) {f : Bs} (hd : cvFmt (a.ty.toNat / 16) = .bs f)
    {k : Nat} (hk : k < a.count.toNat) :
    vfBytes u c (vfOff a.dst.toNat + expAt f a.count.toNat (k / 128)) 1 = convExp s c a f (k / 128) ∧
      ∀ p < f.pieces, vfBytes u c (vfOff a.dst.toNat + pieceAt a.count.toNat p k) 1 =
        bsPiece f (convStoch a) (convNanOvf a) (s.rd (coreP c) Reg.Co.RNG_STATE) (convExp s c a f (k / 128)) p k (convElem s c a k).v := by
  have hblock := convBeats_bs (s := noteVf s c (vfOff a.srca.toNat) (fmtExtent (cvFmt (a.ty.toNat % 16)) a.count.toNat)) (c := c)
    (q := convQ s c a) (E := convElem s c a) hd (noteVf_wf hwf _ _ _) hk
  unfold vfBytes at hblock ⊢
  rw [hu, convExp_eq]
  exact hblock

/-- R70: the generator is a register of 32 bits. -/
theorem convDone_generator (s : State) (c : CoreId) (a : VxArgs) : (convDone s c a).rd (coreP c) Reg.Co.RNG_STATE = s.rd (coreP c) Reg.Co.RNG_STATE :=
  (convDone_frame s c a).regs.rd _ _ (fldKey_not_mem (by decide))

theorem Converted.of_data (hwf : Memory.wf s.mem = true) (hc : convApart a) (hmem : u.mem = (vxData s c (vxOf 0x30 a)).mem)
    (hframe : CoreFrame c (keysOf (coreP c) seqFields) (vxData s c (vxOf 0x30 a)) u) : Converted s c a u := by
  rw [vxData_convert, vxConvert_eq hwf hc] at hmem hframe
  have hmem : u.mem = (convDone s c a).mem := hmem.trans (by split <;> rfl)
  have hkeys : keysOf (coreP c) (vfFields ++ countFields) ⊆ keysOf (coreP c) (seqFields ++ vfFields ++ convFields) := keysOf_subset (by decide)
  have hrng : fldKey (coreP c) Reg.Co.RNG_STATE ∈ keysOf (coreP c) (seqFields ++ vfFields ++ convFields) := keysOf_mem (by decide)
  have hdone := (convDone_frame s c a).mono hkeys
  refine ⟨fun f hf k hk => convDone_code hwf hmem hf hk, fun f hf k hk => ?block, ?generator, fun x hx => ?beside, ?frame⟩
  case block =>
    have h := convDone_block hwf hmem hf hk
    simp only [expAt, pieceAt, bsPiece, ← Nat.add_assoc] at h
    exact h
  case generator =>
    rw [hframe.regs.rd _ _ (fldKey_not_mem (by decide))]
    split
    · exact State.rd_wr_same ..
    · exact convDone_generator s c a
  case beside =>
    rw [hmem]
    exact (convDone_within hwf).byte x hx
  case frame =>
    exact (CoreFrame.ite (hdone.wr hrng) hdone).trans
      (hframe.mono (keysOf_subset (fun _ hf => List.mem_append_left _ (List.mem_append_left _ hf))))

/-- R68 to R79, R90: what an issued CONVERT whose operands lie apart leaves, in every state. -/
theorem convert_issued (hwf : Memory.wf s.mem = true) (hi : Issues s c (vxBundle h 0x30 a) t) (hc : convApart a) :
    ∃ u, exec (.convert c h a) s = .next u ∧ Converted s c a u := by
  obtain ⟨u, hu, hmem, hframe⟩ := vxRow_plain hi (by decide) (vxAcc_convert ..) rfl
  obtain ⟨hcode, hblock, hgen, hbeside, hframe⟩ := Converted.of_data (s := atCycle s c.site t) hwf hc hmem hframe
  exact ⟨u, hu, hcode, hblock, hgen, hbeside, (atCycle_frame c _ s t).trans hframe⟩

end

/-! ### The generator's register -/

/-- R70: an advance keeps a state of 32 bits within 32 bits. -/
theorem lfsr_lt {g : Nat} (hg : g < 2 ^ 32) (n : Nat) : lfsr n g < 2 ^ 32 := by
  have hstep : ∀ g < 2 ^ 32, lfsrStep g < 2 ^ 32 := by
    intro g hg
    unfold lfsrStep
    split
    · exact Nat.xor_lt_two_pow (by omega) (by norm_num)
    · omega
  induction n generalizing g with
  | zero => exact hg
  | succ n ih => exact ih (hstep g hg)

/-- R70: where the register holds no more than its 32 bits, the generator moves 16 steps an element. -/
theorem Converted.generator_of_lt {s u : State} {c : CoreId} {a : VxArgs} (h : Converted s c a u) (hg : s.rd (coreP c) Reg.Co.RNG_STATE < 2 ^ 32) :
    u.rd (coreP c) Reg.Co.RNG_STATE =
      if convStoch a then lfsr (16 * a.count.toNat) (s.rd (coreP c) Reg.Co.RNG_STATE) else s.rd (coreP c) Reg.Co.RNG_STATE := by
  rw [h.generator, Nat.mod_eq_of_lt (lfsr_lt hg _)]

/-- The core of the counterexample. -/
def wideCore : CoreId := ⟨0, 0⟩

/-- A core that runs, whose generator register is listed with 49 bits. `State.wr` cuts a value to its field's width, so no command
writes it so; the statement does not exclude it. -/
def wideGenerator : State :=
  { regs := [(fldKey (coreP wideCore) Reg.Co.STATE, 2), (fldKey (coreP wideCore) Reg.Co.RNG_STATE, 2 ^ 48)] }

/-- One FP32 element converted to FP32 with stochastic rounding. -/
def stochasticOne : VxArgs := { flags := 2, count := 1, dst := 0xC010, srca := 0xC000, srcb := 0, ty := 0, imm := 0, rsv := 0 }

theorem wideGenerator_issues : Issues wideGenerator wideCore (vxBundle ⟨5, false⟩ 0x30 stochasticOne) 4 where
  core := by decide
  due := ⟨⟨4, 0, 4, 0⟩, by decide, rfl, rfl⟩
  running := by decide
  plain := by decide
  checks := by decide

/-- Refutes O11: the statement lets the generator's register hold more than 32 bits. From 2 ^ 48 the sixteen steps of one element
reach 2 ^ 32, of which the register keeps 0. With a register of 32 bits every clause holds (`convert_issued`, `Converted.generator_of_lt`). -/
theorem not_convertRuns : ¬ Obligations.ConvertRuns := by
  unfold Obligations.ConvertRuns
  intro h
  have hapart : convApart stochasticOne := .inr (by decide)
  obtain ⟨u, hu, _, hgen, _⟩ := h wideGenerator wideCore ⟨5, false⟩ stochasticOne 4 (by decide) wideGenerator_issues hapart
  obtain ⟨v, hv, hleft⟩ := convert_issued (by decide) wideGenerator_issues hapart
  obtain rfl : u = v := by simpa using hu.symm.trans hv
  have hcut := hgen.symm.trans hleft.generator
  revert hcut
  decide

end Sys2Proof.Machine
end

section
/-! PROOFS. Vector operations over runs of the vector file (R86 to R89): element-wise operations, functions and reductions. -/

namespace Sys2Proof.Machine

section
variable {s u v : State} {c : CoreId} {h : Hdr} {op : Nat} {a : VxArgs} {t : Nat}

/-! ### Issue -/

/-- What an operation writes of its core's fields, and then what its issue shows. -/
theorem CoreFrame.issued {fs : List Fld} (hd : CoreFrame c (keysOf (coreP c) fs) (atCycle s c.site t) v)
    (hu : CoreFrame c (keysOf (coreP c) seqFields) v u) : CoreFrame c (keysOf (coreP c) (seqFields ++ fs)) s u :=
  (((atCycle_frame c _ s t).trans hd).mono (keysOf_subset (List.subset_append_right _ _))).trans
    (hu.mono (keysOf_subset (List.subset_append_left _ _)))

/-- R92, R95: the opcodes below the status operations access no bank of the scratchpad. -/
theorem vxAcc_compute (c : CoreId) (a : VxArgs) (t : Nat) (ho : op < 0x32) : vxAcc c (vxOf op a) t = [] := by
  simp only [vxAcc, vxOf_op (show op < 256 by omega)]
  rw [if_neg (by omega), if_neg (by omega), if_neg (by simp only [Bool.and_eq_true, decide_eq_true_eq]; omega)]

/-- R82, R150: an issued operation on runs of the vector file leaves memory as the operation does, within the fields of the vector
engine. -/
theorem vxRow_runs (hi : Issues s c (vxBundle h op a) t) (ho : op < 0x32) (hv : vxData (atCycle s c.site t) c (vxOf op a) = v)
    (hf : CoreFrame c (keysOf (coreP c) (vfFields ++ vxFields)) (atCycle s c.site t) v) :
    ∃ u, vxRow c h op a s = .next u ∧ u.mem = v.mem ∧ CoreFrame c (vectorKeys c) s u := by
  obtain ⟨u, hu, hmem, hframe⟩ := vxRow_plain hi (show op < 256 by omega) (vxAcc_compute c a t ho) hv
  refine ⟨u, hu, hmem, ?_⟩
  unfold vectorKeys
  rw [List.append_assoc]
  exact hf.issued hframe

end

/-! ### Element-wise operations -/

theorem exec_ewInstr (op : Ew) (c : CoreId) (h : Hdr) (a : VxArgs) (s : State) : exec (ewInstr op c h a) s = vxRow c h (ewCode op) a s := by
  cases op <;> rfl

theorem ewCode_lt (op : Ew) : ewCode op < 0x32 := by cases op <;> decide

theorem vxData_ew (s : State) (c : CoreId) (op : Ew) (a : VxArgs) : vxData s c (vxOf (ewCode op) a) =
    vxEw s c op (a.ty.toNat % 16) a.count.toNat a.dst.toNat a.srca.toNat a.srcb.toNat a.imm.toNat (a.flags.toNat % 2 = 1) := by
  have ho : ewCode op < 256 := (ewCode_lt op).trans (by decide)
  simp only [vxData, vxOf_op ho, vxOf_flag ho, vxOf_count ho, vxOf_dst ho, vxOf_srca ho, vxOf_srcb ho, vxOf_imm ho, vxOf_ty ho]
  cases op <;> rfl

/-- R82, R83: operand B is a run where the operation has one and SB is clear. -/
theorem ew_readsB (op : Ew) (a : VxArgs) : (op.hasB && !(decide (a.flags.toNat % 2 = 1))) = true ↔ op.hasB = true ∧ a.flags.toNat % 2 = 0 := by
  rw [Bool.and_eq_true, Bool.not_eq_true', decide_eq_false_iff_not, Nat.mod_two_not_eq_one]

theorem hasB_iff (op : Ew) : op.hasB = true ↔ 2 ≤ ewCode op ∧ ewCode op ≤ 7 := by cases op <;> decide

theorem ewB_eq (s : State) (c : CoreId) (op : Ew) (a : VxArgs) (k : Nat) : ewB s c op a k =
    if op.hasB && !(decide (a.flags.toNat % 2 = 1)) then vfElem s c (vxType (a.ty.toNat % 16)).bytes a.srcb.toNat k
    else ⟨a.imm.toNat % 256 ^ (vxType (a.ty.toNat % 16)).bytes, false⟩ :=
  if_congr (by rw [ew_readsB, hasB_iff, and_assoc]) rfl rfl

/-- Settles O8: R86 for the elements, R84 for the bytes beside them. -/
theorem elementwiseOperations : Obligations.ElementwiseOperations := by
  unfold Obligations.ElementwiseOperations
  intro op s c h a t hwf hi hA hB
  have hB' := fun hb => hB ((ew_readsB op a).1 hb)
  obtain ⟨u, hu, hmem, hframe⟩ := vxRow_runs hi (ewCode_lt op) (vxData_ew _ c op a) (vxEw_frame (.refl ..) (List.Subset.refl _) ..)
  refine ⟨u, (exec_ewInstr ..).trans hu, fun k hk => ?code, fun x hx => ?beside, hframe⟩
  case code =>
    intro f x y z
    have hcode := vxEw_code (atCycle s c.site t) c op (a.ty.toNat % 16) a.count.toNat a.dst.toNat a.srca.toNat a.srcb.toNat a.imm.toNat
      (a.flags.toNat % 2 = 1) hwf hA hB' k hk
    have hy : y = _ := ewB_eq s c op a k
    rw [vfElem_mem hmem, hy]
    exact hcode
  case beside => rw [hmem]; exact vxEw_beside (atCycle s c.site t) c op _ _ _ _ _ _ _ x hwf hA hB' hx

/-! ### Functions -/

theorem exec_fnInstr (fn : Fn) (c : CoreId) (h : Hdr) (a : VxArgs) (s : State) : exec (fnInstr fn c h a) s = vxRow c h fn.code a s := by
  cases fn <;> rfl

theorem fnCode_lt (fn : Fn) : fn.code < 0x32 := by cases fn <;> decide

theorem vxData_fn (s : State) (c : CoreId) (fn : Fn) (a : VxArgs) :
    vxData s c (vxOf fn.code a) = vxFn s c fn (a.ty.toNat % 16) a.count.toNat a.dst.toNat a.srca.toNat := by
  have ho : fn.code < 256 := (fnCode_lt fn).trans (by decide)
  simp only [vxData, vxOf_op ho, vxOf_count ho, vxOf_dst ho, vxOf_srca ho, vxOf_ty ho]
  cases fn <;> rfl

/-- Settles O9: R88 and R89 for the elements, R84 for the bytes beside them. -/
theorem vectorFunctions : Obligations.VectorFunctions := by
  unfold Obligations.VectorFunctions
  intro fn s c h a t hwf hi hA
  obtain ⟨u, hu, hmem, hframe⟩ := vxRow_runs hi (fnCode_lt fn) (vxData_fn _ c fn a) (vxFn_frame (.refl ..) (List.Subset.refl _) ..)
  refine ⟨u, (exec_fnInstr ..).trans hu, fun k hk => ?code, fun x hx => ?beside, hframe⟩
  case code =>
    intro f x
    rw [vfElem_mem hmem]
    exact vxFn_code (atCycle s c.site t) c fn _ _ _ _ hwf hA k hk
  case beside => rw [hmem]; exact vxFn_beside (atCycle s c.site t) c fn _ _ _ _ x hwf hA hx

/-! ### Reductions -/

theorem exec_rdInstr (op : Rd) (c : CoreId) (h : Hdr) (a : VxArgs) (s : State) : exec (rdInstr op c h a) s = vxRow c h (rdCode op) a s := by
  cases op <;> rfl

theorem rdCode_lt (op : Rd) : rdCode op < 0x32 := by cases op <;> decide

theorem vxData_rd (s : State) (c : CoreId) (op : Rd) (a : VxArgs) : vxData s c (vxOf (rdCode op) a) =
    vxRd s c op (a.ty.toNat % 16) a.count.toNat a.dst.toNat a.srca.toNat (a.imm.toNat % 2 ^ 14) := by
  have ho : rdCode op < 256 := (rdCode_lt op).trans (by decide)
  simp only [vxData, vxOf_op ho, vxOf_count ho, vxOf_dst ho, vxOf_srca ho, vxOf_imm ho, vxOf_ty ho, bits_zero]
  cases op <;> rfl

/-- Settles O10: R87 for the copies of the result, R84 for the bytes beside them. -/
theorem reductions : Obligations.Reductions := by
  unfold Obligations.Reductions
  intro op s c h a t hwf hi
  obtain ⟨u, hu, hmem, hframe⟩ := vxRow_runs hi (rdCode_lt op) (vxData_rd _ c op a) (vxRd_frame (.refl ..) (List.Subset.refl _) ..)
  refine ⟨u, (exec_rdInstr ..).trans hu, fun k hk => ?code, fun x hx => ?beside, hframe⟩
  case code =>
    rw [vfElem_mem hmem]
    exact vxRd_code (atCycle s c.site t) c op _ _ _ _ _ hwf k hk
  case beside => rw [hmem]; exact vxRd_beside (atCycle s c.site t) c op _ _ _ _ _ x hx

end Sys2Proof.Machine
end

section
/-! PROOFS. What a bundle of one VX operation leaves where its accesses meet no other (R91, R92, R105), and the lines that VLOAD and
VSTORE copy (R92). -/

namespace Sys2Proof.Machine

/-! ### Issue -/

section
variable {s v : State} {c : CoreId} {h : Hdr} {op : Nat} {a : VxArgs} {t : Nat}

/-- R91, R92: a VX operation's accesses are its core's own, by one unit, after the cycle of issue. -/
theorem vxAcc_own (c : CoreId) (vx t : Nat) : ∃ u, ∀ x ∈ vxAcc c vx t, t < x.cyc ∧ x.own = c.n ∧ x.unit = u := by
  unfold vxAcc
  extract_lets op cnt dst a acc
  split
  · refine ⟨2, fun x hx => ?_⟩
    obtain ⟨i, _, rfl⟩ := List.mem_map.1 hx
    exact ⟨show t < t + 1 + i by omega, rfl, rfl⟩
  · split
    · refine ⟨2, fun x hx => ?_⟩
      obtain ⟨i, _, rfl⟩ := List.mem_map.1 hx
      exact ⟨show t < t + 2 + i by omega, rfl, rfl⟩
    · split
      · refine ⟨3, fun x hx => ?_⟩
        rw [List.mem_singleton.1 hx]
        exact ⟨show t < t + 2 by omega, rfl, rfl⟩
      · exact ⟨0, fun x hx => absurd hx List.not_mem_nil⟩

/-- R105, R150: where no accepted access is still to come, an issued VX operation that touches memory and registers alone leaves memory
as the operation does, and beside that shows its issue. -/
theorem vxRow_quiet {fs : List Fld} (hi : Issues s c (vxBundle h op a) t) (hq : Quiet s c t) (ho : op < 256)
    (hv : vxData (atCycle s c.site t) c (vxOf op a) = v) (ht : Touches (keysOf (coreP c) fs) (atCycle s c.site t) v) :
    ∃ u, vxRow c h op a s = .next u ∧ u.mem = v.mem ∧ CoreFrame c (keysOf (coreP c) seqFields) v u := by
  subst hv
  obtain ⟨e1, e2, e3, e4⟩ := vxBundle_slots ho h a
  obtain ⟨unit, hacc⟩ := vxAcc_own c (vxOf op a) t
  have hl := bundleEffect_vx_quiet t (s.core c).nextPc {} e1 e2 e3 e4 (vxBundle_hdr op h a) (atCycle_quiet hq) hacc ht.sites
    (List.Subset.refl _) (CoreFrame.refl c (keysOf (coreP c) seqFields) _)
  exact ⟨_, vxRow_issued hi, hl.mem.mem, hl.frame⟩

/-- R81, R84: the addresses of an issued VX operation are good. -/
theorem Issues.goodAddr (hi : Issues s c (vxBundle h op a) t) (ho : op < 256) (h0 : op ≠ 0) : vxAddr (vxOf op a) = [] := by
  have hbad := hi.vx
  rw [(vxBundle_slots ho h a).2.1] at hbad
  exact (vxBad_fits hbad (by rwa [vxOf_op ho])).2

end

/-! ### Stream lines -/

section
variable {s : State} {c : CoreId} {h : Hdr} {a : VxArgs} {dst src n t : Nat}

theorem noteVf_touches (s : State) (c : CoreId) (o n : Nat) : Touches (keysOf (coreP c) vfFields) s (noteVf s c o n) := by
  unfold noteVf
  extract_lets b words ce ue p s1 s2 m
  have h1 : Touches (keysOf (coreP c) vfFields) s s1 :=
    Touches.ite (Touches.refl _ _) ((Touches.refl _ _).note (keysOf_mem (by decide)) (keysOf_mem (by decide)))
  exact Touches.ite h1 ((h1.setBit (keysOf_mem (by decide))).withMem _)

theorem moveLine_mod (c : CoreId) (src i : Nat) : moveLine c src i % 8 = 0 := spAddr_mod ..

theorem moveFits_iff : moveFits src n = true ↔ src < 0xC000 ∧ (moveBank src (n - 1)).2 < 128 := by
  rw [moveFits, Bool.and_eq_true, decide_eq_true_eq, decide_eq_true_eq]

/-- R80, R92: the lines of a stream that stays in its quad lie before the vector file. -/
theorem moveLine_le (hf : moveFits src n = true) {i : Nat} (hi : i < n) : moveLine c src i + 128 ≤ vfBase c.site c.n := by
  obtain ⟨hpad, hlast⟩ := moveFits_iff.1 hf
  simp only [moveBank] at hlast
  simp only [moveLine, moveBank, spAddr, vfBase]
  omega

/-- R92: two lines of a stream do not overlap: they lie in different banks of the quad, or in different lines of one bank. -/
theorem moveLine_apart {i j : Nat} (hf : moveFits src n = true) (hi : i < n) (hj : j < n) (hij : i ≠ j) :
    moveLine c src i + 128 ≤ moveLine c src j ∨ moveLine c src j + 128 ≤ moveLine c src i := by
  obtain ⟨hpad, hlast⟩ := moveFits_iff.1 hf
  simp only [moveBank] at hlast
  simp only [moveLine, moveBank, spAddr]
  rw [← Nat.mod_add_mod _ _ i, ← Nat.mod_add_mod _ _ j]
  generalize 8 * src / 0x4000 = b at *
  have hx : 8 * src % 0x4000 / 128 + (b % 4 + i) / 4 < 128 := by omega
  have hy : 8 * src % 0x4000 / 128 + (b % 4 + j) / 4 < 128 := by omega
  have hxy : b % 4 + i ≠ b % 4 + j := by omega
  generalize b % 4 + i = x at *
  generalize b % 4 + j = y at *
  generalize 8 * src % 0x4000 / 128 = l at *
  rcases lt_trichotomy (x % 4) (y % 4) with hlt | heq | hgt
  · exact .inl (by omega)
  · have hrow : x / 4 ≠ y / 4 := by omega
    omega
  · exact .inr (by omega)

/-- What a run of line copies leaves: each line with its poison, and no other byte changed. -/
structure Copied (dst src : Nat → Nat) (n : Nat) (s u : State) : Prop where
  line : ∀ i < n, u.take (dst i) 16 = s.take (src i) 16
  beside : ∀ x, (∀ i < n, besideMem (dst i) 128 x) → memByte u.mem x = memByte s.mem x

/-- The line of the vector file that stream line `i` names. -/
def vfLine (c : CoreId) (a i : Nat) : Nat := vfBase c.site c.n + vfOff a + 128 * i

theorem vfLine_mod (c : CoreId) (a i : Nat) : vfLine c a i % 8 = 0 := by
  have := vfBase_mod c.site c.n
  have := vfOff_mod a
  unfold vfLine
  omega

/-- R92: VLOAD's lines. -/
theorem vxLoadLines_copied (hwf : Memory.wf s.mem = true) (hf : moveFits src n = true) :
    Copied (vfLine c dst) (moveLine c src) n s (upTo n (fun s i => vxLoadLine s c dst src i) s) := by
  have hbefore := fun i (hi : i < n) => moveLine_le (c := c) hf hi
  obtain ⟨_, hline, _, hbeside⟩ := copyLines n (fun s i => vxLoadLine s c dst src i) (vfLine c dst) (moveLine c src) s hwf
    (fun t i _ ht => ⟨t.noteSp c (moveBank src i).1 (moveBank src i).2 0 16, .of_mem ht (noteSp_mem ..), rfl⟩)
    (fun i _ => vfLine_mod c dst i) (fun i _ => moveLine_mod c src i)
    (fun i _ j _ hij => by unfold vfLine; omega)
    (fun i hi j _ => by have := hbefore i hi; unfold vfLine; omega) n (le_refl n)
  exact ⟨hline, hbeside⟩

/-- R92: VSTORE's lines. -/
theorem vxStoreLines_copied (hwf : Memory.wf s.mem = true) (hf : moveFits dst n = true) :
    Copied (moveLine c dst) (vfLine c src) n s (upTo n (fun s i => vxStoreLine s c dst src i) s) := by
  have hbefore := fun i (hi : i < n) => moveLine_le (c := c) hf hi
  have hstep : ∀ (t : State) i, i < n → Memory.wf t.mem = true → ∃ v, ReadsAs t v ∧
      (vxStoreLine t c dst src i).mem = (v.put (moveLine c dst i) 16 (t.take (vfLine c src i) 16)).mem := by
    intro t i _ ht
    have hreads := noteVf_reads t c (vfOff src + 128 * i) 128 ht
    refine ⟨_, hreads, ?_⟩
    rw [← hreads.take]
    rfl
  obtain ⟨_, hline, _, hbeside⟩ := copyLines n (fun s i => vxStoreLine s c dst src i) (moveLine c dst) (vfLine c src) s hwf hstep
    (fun i _ => moveLine_mod c dst i) (fun i _ => vfLine_mod c src i) (fun i hi j hj => moveLine_apart hf hi hj)
    (fun i _ j hj => by have := hbefore j hj; unfold vfLine; omega) n (le_refl n)
  exact ⟨hline, hbeside⟩

theorem vxLoadLines_touches (s : State) (c : CoreId) (dst src n : Nat) :
    Touches (keysOf (coreP c) spFields) s (upTo n (fun s i => vxLoadLine s c dst src i) s) :=
  Touches.upTo (fun _ _ ht => (ht.trans (noteSp_touches (List.Subset.refl _) ..)).put ..) (.refl ..)

theorem vxStoreLines_touches (s : State) (c : CoreId) (dst src n : Nat) :
    Touches (keysOf (coreP c) vfFields) s (upTo n (fun s i => vxStoreLine s c dst src i) s) :=
  Touches.upTo (fun _ _ ht => (ht.trans (noteVf_touches ..)).put ..) (.refl ..)

theorem vxData_vload (s : State) (c : CoreId) (a : VxArgs) : vxData s c (vxOf 0x40 a) =
    upTo a.count.toNat (fun s i => vxLoadLine s c a.dst.toNat a.srca.toNat i) s := by
  have ho : 0x40 < 256 := by decide
  simp only [vxData, vxOf_op ho, vxOf_count ho, vxOf_dst ho, vxOf_srca ho]

theorem vxData_vstore (s : State) (c : CoreId) (a : VxArgs) : vxData s c (vxOf 0x41 a) =
    upTo a.count.toNat (fun s i => vxStoreLine s c a.dst.toNat a.srca.toNat i) s := by
  have ho : 0x41 < 256 := by decide
  simp only [vxData, vxOf_op ho, vxOf_count ho, vxOf_dst ho, vxOf_srca ho]

/-- R92: the scratchpad operand of an issued VLOAD stays in its quad. -/
theorem Issues.vloadFits (hi : Issues s c (vxBundle h 0x40 a) t) : moveFits a.srca.toNat a.count.toNat = true := by
  have ho : 0x40 < 256 := by decide
  have haddr := hi.goodAddr ho (by decide)
  simp only [vxAddr, vxOf_op ho, vxOf_count ho, vxOf_dst ho, vxOf_srca ho, if_true] at haddr
  have hsrc := fieldBad_nil (append_nil haddr).2
  rw [Bool.or_eq_false_iff, Bool.not_eq_false'] at hsrc
  exact hsrc.1

/-- R92: the scratchpad operand of an issued VSTORE stays in its quad. -/
theorem Issues.vstoreFits (hi : Issues s c (vxBundle h 0x41 a) t) : moveFits a.dst.toNat a.count.toNat = true := by
  have ho : 0x41 < 256 := by decide
  have haddr := hi.goodAddr ho (by decide)
  simp only [vxAddr, vxOf_op ho, vxOf_count ho, vxOf_dst ho, vxOf_srca ho, if_true] at haddr
  rw [if_neg (by decide)] at haddr
  have hdst := fieldBad_nil (append_nil haddr).1
  rw [Bool.or_eq_false_iff, Bool.not_eq_false'] at hdst
  exact hdst.1

/-- A byte beside a run of lines of the vector file is beside each of them. -/
theorem besideVf_line {x i : Nat} (hx : besideVf c dst (128 * n) x) (hi : i < n) : besideMem (vfLine c dst i) 128 x := by
  unfold besideVf at hx
  unfold besideMem vfLine
  omega

end

/-- Settles O13: R92 for the lines of both moves, with their poison. -/
theorem vectorStreams : Obligations.VectorStreams := by
  unfold Obligations.VectorStreams
  intro s c h a t hwf hq
  refine ⟨fun hi => ?load, fun hi => ?store⟩
  case load =>
    have htouch := vxLoadLines_touches (atCycle s c.site t) c a.dst.toNat a.srca.toNat a.count.toNat
    have hcopy := vxLoadLines_copied (s := atCycle s c.site t) (c := c) (dst := a.dst.toNat) hwf hi.vloadFits
    obtain ⟨u, hu, hmem, hframe⟩ := vxRow_quiet hi hq (by decide) (vxData_vload ..) htouch
    refine ⟨u, hu, fun i hlt => ?_, fun x hx => ?_, htouch.frame.issued hframe⟩
    · exact (take_mem hmem _ _).trans (hcopy.line i hlt)
    · rw [hmem]
      exact hcopy.beside x (fun i hlt => besideVf_line hx hlt)
  case store =>
    have htouch := vxStoreLines_touches (atCycle s c.site t) c a.dst.toNat a.srca.toNat a.count.toNat
    have hcopy := vxStoreLines_copied (s := atCycle s c.site t) (c := c) (src := a.srca.toNat) hwf hi.vstoreFits
    obtain ⟨u, hu, hmem, hframe⟩ := vxRow_quiet hi hq (by decide) (vxData_vstore ..) htouch
    refine ⟨u, hu, fun i hlt => ?_, fun x hx => ?_, htouch.frame.issued hframe⟩
    · exact (take_mem hmem _ _).trans (hcopy.line i hlt)
    · rw [hmem]
      exact hcopy.beside x hx

end Sys2Proof.Machine
end

section
/-! PROOFS. The words that the status operations of the vector engine write (R91). -/

namespace Sys2Proof.Machine

section
variable {s : State} {c : CoreId} {dst n v : Nat}

/-- A read of what a write of bytes has left. -/
theorem memRead_tail {m : Mem} (hwf : Memory.wf m = true) (a n v : Nat) : memRead (memTail m a n v) a n = v % 256 ^ n := by
  rw [memRead_bytes _ _ _ (Memory.wf_tail hwf a n v), ← numOf_byteAt]
  refine numOf_congr (fun i hi => ?_)
  rw [memByte_tail, if_pos (by omega), Nat.add_sub_cancel_left]

/-- R91: what stands where a status write points. -/
theorem memRead_statusPut (hwf : Memory.wf s.mem = true) : memRead (statusPut s c dst n v).mem (statusAddr c dst) n = v % 256 ^ n := by
  unfold statusPut
  split
  case isTrue hn =>
    have h8 : 8 * (n / 8) = n := by omega
    refine (memRead_write _ _ _ _ _ _ _ hwf (le_refl _) (by omega)).trans ?_
    rw [Nat.sub_self, pow_zero, Nat.div_one]
  case isFalse => exact memRead_tail hwf _ _ _

/-- R91: a status write changes no byte beside its own. -/
theorem memByte_statusPut {x : Nat} (hx : besideMem (statusAddr c dst) n x) : memByte (statusPut s c dst n v).mem x = memByte s.mem x := by
  unfold besideMem at hx
  unfold statusPut
  split
  case isTrue hn => exact (memByte_write ..).trans (if_neg (by omega))
  case isFalse => exact (memByte_tail ..).trans (if_neg (by omega))

theorem statusPut_touches (s : State) (c : CoreId) (dst n v : Nat) (ks : List Nat) : Touches ks s (statusPut s c dst n v) :=
  Touches.ite ((Touches.refl ks s).withMem _) ((Touches.refl ks s).withMem _)

theorem vxData_vrmaxrd (s : State) (c : CoreId) (a : VxArgs) :
    vxData s c (vxOf 0x32 a) = statusPut s c a.dst.toNat 4 (s.rd (coreP c) (Reg.Co.RMAX (a.imm.toNat % 8))) := by
  have ho : 0x32 < 256 := by decide
  simp only [vxData, vxOf_op ho, vxOf_dst ho, vxOf_imm ho, bits_zero]
  rfl

theorem vxData_vrmaxrr (s : State) (c : CoreId) (a : VxArgs) : vxData s c (vxOf 0x33 a) =
    (statusPut s c a.dst.toNat 4 (s.rd (coreP c) (Reg.Co.RMAX (a.imm.toNat % 8)))).wr (coreP c) (Reg.Co.RMAX (a.imm.toNat % 8)) 0 := by
  have ho : 0x33 < 256 := by decide
  simp only [vxData, vxOf_op ho, vxOf_dst ho, vxOf_imm ho, bits_zero]
  rfl

theorem vxData_vcstat (s : State) (c : CoreId) (a : VxArgs) : vxData s c (vxOf 0x34 a) = vxCstat s c a.dst.toNat := by
  have ho : 0x34 < 256 := by decide
  simp only [vxData, vxOf_op ho, vxOf_dst ho]

/-- R91: what an issued status operation leaves whose effect on memory is a write of `n` bytes of `w` at DST. -/
theorem vxRow_status {fs : List Fld} {u : State} {h : Hdr} {op t w : Nat} {a : VxArgs} (hwf : Memory.wf s.mem = true) (hq : Quiet s c t)
    (hi : Issues s c (vxBundle h op a) t) (ho : op < 256) (hv : vxData (atCycle s c.site t) c (vxOf op a) = u)
    (ht : Touches (keysOf (coreP c) fs) (statusPut (atCycle s c.site t) c a.dst.toNat n w) u)
    (hm : u.mem = (statusPut (atCycle s c.site t) c a.dst.toNat n w).mem) :
    ∃ r, vxRow c h op a s = .next r ∧ memRead r.mem (statusAddr c a.dst.toNat) n = w % 2 ^ (8 * n) ∧
      (∀ x, besideMem (statusAddr c a.dst.toNat) n x → memByte r.mem x = memByte s.mem x) ∧
      CoreFrame c (keysOf (coreP c) (seqFields ++ fs)) s r ∧ CoreFrame c (keysOf (coreP c) seqFields) u r := by
  have htouch := (statusPut_touches (atCycle s c.site t) c a.dst.toNat n w _).trans ht
  obtain ⟨r, hr, hmem, hframe⟩ := vxRow_quiet hi hq ho hv htouch
  rw [pow_mul]
  refine ⟨r, hr, ?word, fun x hx => ?beside, htouch.frame.issued hframe, hframe⟩
  case word =>
    rw [hmem, hm]
    exact memRead_statusPut (s := atCycle s c.site t) hwf
  case beside =>
    rw [hmem, hm]
    exact memByte_statusPut (s := atCycle s c.site t) hx

/-- R79: the running maxima are no fields of the sequencer. -/
theorem rmax_not_seq (p : Nat) {k : Nat} (hk : k < 8) : fldKey p (Reg.Co.RMAX k) ∉ keysOf p seqFields :=
  fldKey_not_mem (by revert k; decide)

end

/-- Settles O14: R91 for the words that are written, and for the running maximum that VRMAXRR resets. -/
theorem statusWrites : Obligations.StatusWrites := by
  unfold Obligations.StatusWrites
  intro s c h a t hwf hq d k p
  refine ⟨fun hi => ?read, fun hi => ?reset, fun hi => ?counts⟩
  case read =>
    obtain ⟨u, hu, hword, hbeside, hframe, _⟩ := vxRow_status (fs := []) hwf hq hi (by decide) (vxData_vrmaxrd ..) (.refl ..) rfl
    exact ⟨u, hu, hword, hbeside, hframe⟩
  case reset =>
    obtain ⟨u, hu, hword, hbeside, hframe, hissue⟩ := vxRow_status (fs := [Reg.Co.RMAX k]) hwf hq hi (by decide) (vxData_vrmaxrr ..)
      ((Touches.refl _ _).wr (keysOf_mem List.mem_cons_self)) rfl
    refine ⟨u, hu, hword, ?_, hbeside, hframe⟩
    rw [hissue.regs.rd _ _ (rmax_not_seq p (Nat.mod_lt _ (by norm_num))), State.rd_wr_same, Nat.zero_mod]
  case counts =>
    obtain ⟨u, hu, hword, hbeside, hframe, _⟩ := vxRow_status (fs := []) hwf hq hi (by decide) (vxData_vcstat ..) (.refl ..) rfl
    exact ⟨u, hu, hword, hbeside, hframe⟩

end Sys2Proof.Machine
end

section
/-! PROOFS. An open write at a site with a shadow (R106, R333, R335): the cycle of the grant decides whether the mirror port overflows. -/

namespace Sys2Proof.Machine

/-! ### Memory after a mirrored write -/

/-- R335: a shadow run that ends, but for a CLEAN end, clears the memories of its site. -/
theorem shadowEnd_mem_eq (s : State) (j st why : Nat) : (shadowEnd s j st why).mem =
    if isShadow s j = true ∧ st ≠ 3 then memClear s.mem (siteBase j + 0x8000000000) 0x300000000 else s.mem := by
  unfold shadowEnd
  extract_lets p s1 s2 s3 s4 s5 s6 s7 s8 s9 s10
  have h2 : MemIs s s2 := MemIs.ite ⟨rfl⟩ ⟨rfl⟩
  have h3 : MemIs s s3 := MemIs.ite ⟨h2.mem⟩ h2
  have h5 : MemIs s s5 := MemIs.ite (suspect_memIs _ _ (siteEvent_memIs _ _ _ _ _ _ _ _ h3)) (siteEvent_memIs _ _ _ _ _ _ _ _ h3)
  have h7 : MemIs s6 s7 := MemIs.foldl (fun _ _ h => ⟨h.mem⟩) (MemIs.refl s6)
  have h9 : MemIs s6 s9 := State.wr_memIs _ _ _ _ (State.wr_memIs _ _ _ _ (State.wr_memIs _ _ _ _ h7))
  clear_value s9
  have h10 : MemIs s6 s10 := MemIs.upTo (fun _ _ h => MemIs.ite ⟨h.mem⟩ h) h9
  have hclear : s10.mem = memClear s.mem (siteBase j + 0x8000000000) 0x300000000 := by
    rw [h10.mem, clearSram_mem, h5.mem]
  clear_value s10
  by_cases hrun : isShadow s j = true
  · by_cases hclean : st = 3
    · simp [hrun, hclean, h5.mem]
    · simp [hrun, hclean, hclear]
  · simp [hrun]

/-- R335: one more write of `words` words at buddy `b` in its current cycle overflows the buffer of its mirror port. -/
def mirrorFull (s : State) (b words : Nat) : Bool :=
  decide (0x100000 + mirrorRate s (s.site b).mirTo ((s.site b).now - (s.site b).base) < (s.site (s.site b).mirTo).mirLoad + 64 * cdiv words 8)

/-- R333, R335: mirroring a write touches memory only where it overflows the buffer, which ends the shadow run. -/
theorem mirrorPut_mem (s : State) (b kind core off words data poison : Nat) : (mirrorPut s b kind core off words data poison).mem =
    if (s.site b).mirTo < 256 ∧ mirrorFull s b words = true ∧ isShadow s (s.site b).mirTo = true then
      memClear s.mem (siteBase (s.site b).mirTo + 0x8000000000) 0x300000000
    else s.mem := by
  unfold mirrorPut
  extract_lets st t x v n s1
  by_cases hto : 256 ≤ t
  · rw [if_pos hto, if_neg (fun h => absurd h.1 (Nat.not_lt.2 hto))]
  · rw [if_neg hto]
    by_cases hfull : mirrorFull s b words = true
    · rw [if_pos (show 0x100000 + mirrorRate s1 t x.cyc < n from of_decide_eq_true hfull), shadowEnd_mem_eq]
      have hlt : (s.site b).mirTo < 256 := Nat.lt_of_not_le hto
      have hshadow : isShadow s1 t = isShadow s (s.site b).mirTo := rfl
      exact if_congr (by simp [hlt, hfull, hshadow]) rfl rfl
    · rw [if_neg (show ¬ 0x100000 + mirrorRate s1 t x.cyc < n from fun h => hfull (decide_eq_true h)), if_neg (fun h => hfull h.2.1)]
      rfl

/-- R106, R333: an open write into a scratchpad is mirrored. -/
theorem openWrite_scratchpad_mem {s : State} {i off n k : Nat} {l : Line} (ht : targetOf off (8 * n) = some (.scratchpad k)) :
    (openWrite s i off n l).mem = (mirrorPut (s.put (siteBase i + off) n l) i 0 0 off n l.data l.poison).mem := by
  unfold openWrite
  rw [ht]

/-! ### A grant near the bound of the buffer -/

/-- A word that a context of site 0 writes into bank 0 of core 0. -/
def lateWrite : OpenReq := { who := 4, arr := 0, off := 0x8100000000, n := 1, wr := true, data := 1, job := 2, key := 0, at_ := 0 }

/-- Site 1 shadows site 0 and holds a byte in its cistern; 1 MiB has been mirrored to it in this frame, and the write waits. -/
def fullMirror : State :=
  State.wr { mem := { cells := [(cisBase 1, 1)] }, ctxs := [(0, { live := true, write := true, piece := { n := 1, left := 1 } })]
             sites := [(0, { opens := [lateWrite], mirTo := 1 }), (1, { mirLoad := 0x100000 })] } (relP 1) Reg.Re.SHADOW_STATE 1

theorem portPick_fullMirror : portPick fullMirror 0 (atCore 0) (fun q => openAt (offBank q.off) 160) = some lateWrite := by decide

/-- R335: granted in frame cycle 160, the write fits what the port has carried by then, and the shadow's byte stands. -/
theorem openGrant_fullMirror_byte : memByte (openGrant (strike fullMirror []) ⟨0, 0⟩ 160 0).mem (cisBase 1) = 1 := by rfl

/-- R335: in the cycle that the site has named last, its cycle 0, the same write overflows the buffer, and the shadow's memories are cleared. -/
theorem openWrite_fullMirror_byte :
    memByte (openWrite (strike fullMirror []) 0 lateWrite.off lateWrite.n ⟨lateWrite.data, lateWrite.poison⟩).mem (cisBase 1) = 0 := by
  rw [openWrite_scratchpad_mem (k := 0) (by decide), mirrorPut_mem, if_pos (by decide), memByte_clear, if_pos (by decide)]
  rfl

/-- Refutes O44: the memory that `Served` names is that of a write in the cycle which the site has named last, while the grant moves the
site on to its own cycle first. At a site with a shadow the cycle decides whether the mirrored write overflows the buffer of the mirror
port (R335): in `fullMirror` it does in cycle 0 and does not in cycle 160, where the write is granted. -/
theorem not_openAccessesAreServed : ¬ Obligations.OpenAccessesAreServed := by
  unfold Obligations.OpenAccessesAreServed
  intro h
  obtain ⟨t, hexec, _, _, hserved⟩ := (h fullMirror 0 [] (by decide)).1 0 160 0 (by decide) rfl lateWrite portPick_fullMirror
  have hgrant : openGrant (strike fullMirror []) ⟨0, 0⟩ 160 0 = t := Host.Outcome.next.inj hexec
  have hmem : t.mem = (openWrite (strike fullMirror []) 0 lateWrite.off lateWrite.n ⟨lateWrite.data, lateWrite.poison⟩).mem := (hserved rfl).1
  have hbyte := openGrant_fullMirror_byte
  rw [hgrant, hmem, openWrite_fullMirror_byte] at hbyte
  exact absurd hbyte (by decide)

end Sys2Proof.Machine
end

section
/-! PROOFS. The scrubbers (R108, R113, R210, R349): what a scrub access counts, what its read keeps, and what its rewriting leaves. -/

namespace Sys2Proof.Machine

/-- A command of a unit that a panel has completes with what it computes. -/
theorem completes_onUnit {i : Instr} {s t : State} {ok : Bool} {P : State → Prop} (hexec : exec i s = onUnit ok t) (hok : ok = true) (hP : P t) :
    Completes i s P := ⟨t, by rw [hexec, hok]; rfl, hP⟩

/-! ### Budgets (R349) -/

theorem chargeSram_within {s : State} {i : Nat} (h : (s.site i).uSram < s.rd (budP i) Reg.Bu.BUD_SCRUB_SRAM) :
    chargeSram s i = some (s.setSite i { (s.site i) with uSram := (s.site i).uSram + 1 }) := if_pos h

theorem chargeSram_spent {s : State} {i : Nat} (h : ¬ (s.site i).uSram < s.rd (budP i) Reg.Bu.BUD_SCRUB_SRAM) : chargeSram s i = none := if_neg h

theorem chargeWell_within {s : State} {i : Nat} (h : (s.site i).uWell < s.rd (budP i) Reg.Bu.BUD_SCRUB_WELL) :
    chargeWell s i = some (s.setSite i { (s.site i) with uWell := (s.site i).uWell + 1 }) := if_pos h

theorem chargeWell_spent {s : State} {i : Nat} (h : ¬ (s.site i).uWell < s.rd (budP i) Reg.Bu.BUD_SCRUB_WELL) : chargeWell s i = none := if_neg h

/-- R349: BUD_HIT shows a budget that is spent, and nothing else changes. -/
structure BudgetHit (s t : State) (i b : Nat) : Prop where
  shown : bits (t.rd (budP i) Reg.Bu.BUD_HIT) b 1 = 1
  mem : t.mem = s.mem
  regs : OnlyRegs (keysOf (budP i) [Reg.Bu.BUD_HIT]) s t

theorem bits_or_two_pow (x : Nat) {b w : Nat} (hb : b < w) : bits ((x ||| 2 ^ b) % 2 ^ w) b 1 = 1 := by
  have h : ((x ||| 2 ^ b) % 2 ^ w).testBit b = true := by simp [Nat.testBit_mod_two_pow, Nat.testBit_two_pow_self, hb]
  simpa [bits, Nat.testBit_eq_decide_div_mod_eq] using h

theorem orBits_budgetHit (s : State) (i : Nat) {b : Nat} (hb : b < Reg.Bu.BUD_HIT.w) : BudgetHit s (s.orBits (budP i) Reg.Bu.BUD_HIT (2 ^ b)) i b where
  shown := by rw [State.orBits, State.rd_wr_same]; exact bits_or_two_pow _ hb
  mem := rfl
  regs := ⟨rfl, (Off.refl _ s).orBits (keysOf_mem List.mem_cons_self)⟩

/-! ### What a read notes (R101, R119, R222) -/

theorem noteCisWords_touches {ks : List Nat} {s : State} {i : Nat} (hk : keysOf (cisP i) cisFields ⊆ ks) (off n : Nat) :
    Touches ks s (noteCisWords s i off n) := by
  have key : ∀ f ∈ cisFields, fldKey (cisP i) f ∈ ks := fun f hf => hk (keysOf_mem hf)
  unfold noteCisWords
  extract_lets a ce ue p s1
  have h1 : Touches ks s s1 := (Touches.refl ks s).ite ((Touches.refl ks s).note (key _ (by decide)) (key _ (by decide)))
  exact h1.ite ((((h1.note (key _ (by decide)) (key _ (by decide))).wr (key _ (by decide))).wr (key _ (by decide))).wr (key _ (by decide)))

theorem noteWellHalves_touches {ks : List Nat} {s : State} {i : Nat} (hk : keysOf (wellP i) wellFields ⊆ ks) (w mask : Nat) :
    Touches ks s (noteWellHalves s i w mask) := by
  have key : ∀ f ∈ wellFields, fldKey (wellP i) f ∈ ks := fun f hf => hk (keysOf_mem hf)
  unfold noteWellHalves
  extract_lets a sel ce ue p s1
  have h1 : Touches ks s s1 := (Touches.refl ks s).ite ((Touches.refl ks s).note (key _ (by decide)) (key _ (by decide)))
  exact h1.ite (((h1.note (key _ (by decide)) (key _ (by decide))).wr (key _ (by decide))).wr (key _ (by decide)))

/-! ### Rewriting (R108, R210) -/

/-- R108: a line that a scrubber has read as `x` is rewritten, unless it has changed. -/
def scrubRewrite (s : State) (a : Nat) (x : Nat × Nat × Nat) (half : Bool) : State := if scrubSnap s a = x then scrubWrite s a x.2.2 half else s

/-- What a scrub read keeps depends on memory alone. -/
theorem scrubSnap_congr {s u : State} (h : s.mem = u.mem) (a : Nat) : scrubSnap s a = scrubSnap u a := by unfold scrubSnap; rw [h]

/-- So does what is rewritten. -/
theorem scrubRewrite_mem {s u : State} (h : s.mem = u.mem) (a : Nat) (x : Nat × Nat × Nat) (half : Bool) :
    (scrubRewrite s a x half).mem = if scrubSnap u a = x then (scrubWrite u a x.2.2 half).mem else u.mem := by
  have hwrite : (scrubWrite s a x.2.2 half).mem = (scrubWrite u a x.2.2 half).mem := by unfold scrubWrite; simp only [h]
  unfold scrubRewrite
  rw [scrubSnap_congr h]
  split
  · exact hwrite
  · exact h

@[simp] theorem scrubRewrite_regs (s : State) (a : Nat) (x : Nat × Nat × Nat) (half : Bool) : (scrubRewrite s a x half).regs = s.regs := by
  unfold scrubRewrite; split <;> rfl

@[simp] theorem site_scrubRewrite (s : State) (a : Nat) (x : Nat × Nat × Nat) (half : Bool) (i : Nat) : (scrubRewrite s a x half).site i = s.site i := by
  unfold scrubRewrite; split <;> rfl

/-- A scrubber's place moves on by one line, or to the first line of the next pass. -/
theorem rd_advance (s : State) {p : Nat} {pos passes : Fld} (n last : Nat) (hne : fldKey p passes ≠ fldKey p pos) :
    (if n = last then (s.wr p pos 0).wrap p passes 1 else s.wr p pos n).rd p pos = if n = last then 0 else n % 2 ^ pos.w := by
  split
  · rw [State.wrap, State.rd_wr_ne _ _ _ _ _ _ hne, State.rd_wr_same, Nat.zero_mod]
  · exact State.rd_wr_same _ _ _ _

/-! ### The scrubber of a core (R108) -/

section
variable {s : State} {c : CoreId} {cyc bank line : Nat}

/-- R118: an access to one of the banks 0 to 19 takes a grant of the core's open-cycle port. -/
def scrubGrant (s : State) (c : CoreId) (b : Nat) : State := if b < 20 then noteGrant s c 0 else s

@[simp] theorem scrubGrant_mem (s : State) (c : CoreId) (b : Nat) : (scrubGrant s c b).mem = s.mem := by unfold scrubGrant; split <;> rfl
@[simp] theorem scrubGrant_regs (s : State) (c : CoreId) (b : Nat) : (scrubGrant s c b).regs = s.regs := by unfold scrubGrant; split <;> rfl
@[simp] theorem site_scrubGrant (s : State) (c : CoreId) (b i : Nat) : (scrubGrant s c b).site i = s.site i := by unfold scrubGrant; split <;> rfl
theorem scrubGrant_scrub (s : State) (c : CoreId) (b : Nat) : ((scrubGrant s c b).core c).scrub = (s.core c).scrub := by
  unfold scrubGrant
  split
  · unfold noteGrant
    rw [State.core_setCore_same]
  · rfl

/-- R108: the read of a line: one with an error waits to be rewritten. -/
def scrubRead (s : State) (c : CoreId) (bank line : Nat) : State :=
  let v := scrubSnap s (spAddr c.site c.n bank line)
  let s := s.noteSp c bank line 0 16
  if v.2 = (0, 0) then s else s.setCore c { (s.core c) with scrub := some (bank, line, v) }

theorem scrubRead_mem (s : State) (c : CoreId) (bank line : Nat) : (scrubRead s c bank line).mem = s.mem := by
  unfold scrubRead
  extract_lets v s1
  split <;> exact noteSp_mem ..

theorem scrubRead_frame (s : State) (c : CoreId) (bank line : Nat) : CoreFrame c (keysOf (coreP c) spFields) s (scrubRead s c bank line) := by
  unfold scrubRead
  extract_lets v s1
  have h1 : CoreFrame c (keysOf (coreP c) spFields) s s1 := noteSp_frame (.refl ..) (List.Subset.refl _) ..
  exact .ite h1 (h1.setCore _)

theorem site_scrubRead (s : State) (c : CoreId) (bank line i : Nat) : (scrubRead s c bank line).site i = s.site i := by
  unfold scrubRead
  extract_lets v s1
  have h1 : s1.site i = s.site i := (noteSp_touches (List.Subset.refl _) ..).site i
  split <;> exact h1

theorem scrubRead_scrub (hnone : (s.core c).scrub = none) : ((scrubRead s c bank line).core c).scrub =
    if (scrubSnap s (spAddr c.site c.n bank line)).2 = (0, 0) then none else some (bank, line, scrubSnap s (spAddr c.site c.n bank line)) := by
  unfold scrubRead
  extract_lets v s1
  have h1 : s1.core c = s.core c := (noteSp_touches (List.Subset.refl _) ..).core c
  split
  · rw [h1, hnone]
  · rw [State.core_setCore_same]

theorem scrubStep_read (hclear : (s.site c.site).clearing = false) (hline : line < 128) (hmay : scrubMay s c cyc bank = true)
    (hnone : (s.core c).scrub = none) : scrubStep s c cyc bank line =
      (chargeSram s c.site).elim (s.orBits (budP c.site) Reg.Bu.BUD_HIT 1) (fun v => scrubRead (scrubGrant v c bank) c bank line) := by
  unfold scrubMay at hmay
  unfold scrubStep
  simp only [hnone, hclear, hmay, Nat.not_le.2 hline, Bool.not_true, Bool.false_eq_true, or_self, if_false]
  cases chargeSram s c.site <;> rfl

theorem scrubStep_rewrite {x : Nat × Nat × Nat × Nat × Nat} (hclear : (s.site c.site).clearing = false) (hline : line < 128)
    (hmay : scrubMay s c cyc x.1 = true) (hwait : (s.core c).scrub = some x) : scrubStep s c cyc bank line =
      (chargeSram s c.site).elim (s.orBits (budP c.site) Reg.Bu.BUD_HIT 1) (fun v =>
        let r := scrubRewrite (scrubGrant v c x.1) (spAddr c.site c.n x.1 x.2.1) x.2.2 false
        r.setCore c { (r.core c) with scrub := none }) := by
  unfold scrubMay at hmay
  unfold scrubStep
  simp only [hwait, hclear, hmay, Nat.not_le.2 hline, Bool.not_true, Bool.false_eq_true, or_self, if_false]
  cases chargeSram s c.site <;> rfl

/-- The state after a scrub access of core `c` to bank `b` within the budget has been counted. -/
def coreCharged (s : State) (c : CoreId) (b : Nat) : State := scrubGrant (s.setSite c.site { (s.site c.site) with uSram := (s.site c.site).uSram + 1 }) c b

/-- R108, R349: a read within the budget. -/
theorem scrubStep_read_within (hclear : (s.site c.site).clearing = false) (hline : line < 128) (hmay : scrubMay s c cyc bank = true)
    (hnone : (s.core c).scrub = none) (hbudget : (s.site c.site).uSram < s.rd (budP c.site) Reg.Bu.BUD_SCRUB_SRAM) :
    let snap := scrubSnap s (spAddr c.site c.n bank line)
    let t := scrubStep s c cyc bank line
    (t.core c).scrub = (if snap.2 = (0, 0) then none else some (bank, line, snap)) ∧ (t.site c.site).uSram = (s.site c.site).uSram + 1 ∧
      t.mem = s.mem ∧ Off (keysOf (coreP c) spFields) s t := by
  intro snap t
  have ht : t = scrubRead (coreCharged s c bank) c bank line := by
    simp only [t, scrubStep_read hclear hline hmay hnone, chargeSram_within hbudget]; rfl
  have hmem : (coreCharged s c bank).mem = s.mem := scrubGrant_mem ..
  have hregs : (coreCharged s c bank).regs = s.regs := scrubGrant_regs ..
  have hidle : ((coreCharged s c bank).core c).scrub = none := (scrubGrant_scrub ..).trans hnone
  rw [ht]
  refine ⟨?kept, ?counted, (scrubRead_mem ..).trans hmem, ((Off.refl _ s).same hregs).trans (scrubRead_frame ..).regs⟩
  case kept => rw [scrubRead_scrub hidle, scrubSnap_congr hmem]
  case counted => rw [site_scrubRead, coreCharged, site_scrubGrant, State.site_setSite_same]

/-- R108, R349: a read that the budget does not allow. -/
theorem scrubStep_read_spent (hclear : (s.site c.site).clearing = false) (hline : line < 128) (hmay : scrubMay s c cyc bank = true)
    (hnone : (s.core c).scrub = none) (hbudget : ¬ (s.site c.site).uSram < s.rd (budP c.site) Reg.Bu.BUD_SCRUB_SRAM) :
    scrubStep s c cyc bank line = s.orBits (budP c.site) Reg.Bu.BUD_HIT 1 := by
  rw [scrubStep_read hclear hline hmay hnone, chargeSram_spent hbudget, Option.elim_none]

/-- R108, R349: a rewriting within the budget. -/
theorem scrubStep_rewrite_within {x : Nat × Nat × Nat × Nat × Nat} (hclear : (s.site c.site).clearing = false) (hline : line < 128)
    (hmay : scrubMay s c cyc x.1 = true) (hwait : (s.core c).scrub = some x)
    (hbudget : (s.site c.site).uSram < s.rd (budP c.site) Reg.Bu.BUD_SCRUB_SRAM) :
    let a := spAddr c.site c.n x.1 x.2.1
    let t := scrubStep s c cyc bank line
    (t.core c).scrub = none ∧ (t.site c.site).uSram = (s.site c.site).uSram + 1 ∧
      t.mem = (if scrubSnap s a = x.2.2 then (scrubWrite s a x.2.2.2.2 false).mem else s.mem) ∧ t.regs = s.regs := by
  intro a t
  obtain ⟨r, hr⟩ : ∃ r, r = scrubRewrite (coreCharged s c x.1) a x.2.2 false := ⟨_, rfl⟩
  have ht : t = r.setCore c { (r.core c) with scrub := none } := by
    simp only [t, hr, scrubStep_rewrite hclear hline hmay hwait, chargeSram_within hbudget]; rfl
  rw [ht]
  refine ⟨by rw [State.core_setCore_same], ?counted, ?written, ?regs⟩
  case counted => rw [State.site_setCore, hr, site_scrubRewrite, coreCharged, site_scrubGrant, State.site_setSite_same]
  case written => rw [State.setCore_mem, hr]; exact scrubRewrite_mem (scrubGrant_mem ..) ..
  case regs => rw [State.setCore_regs, hr, scrubRewrite_regs]; exact scrubGrant_regs ..

end

/-! ### The scrubber of the cistern (R113) -/

section
variable {s : State} {i sl cyc : Nat}

theorem cisAdvance_mem (s : State) (i : Nat) : (cisAdvance s i).mem = s.mem := by
  unfold cisAdvance
  extract_lets st p n s1
  split
  · split <;> rfl
  · rfl

theorem site_cisAdvance (s : State) (i : Nat) :
    (cisAdvance s i).site i = if (s.site i).cisSeen = 0xFFFF ∧ (s.site i).cisScrub = [] then { (s.site i) with cisSeen := 0 } else s.site i := by
  unfold cisAdvance
  extract_lets st p n s1
  have h1 : s1.site i = { (s.site i) with cisSeen := 0 } := State.site_setSite_same ..
  by_cases hdone : (s.site i).cisSeen = 0xFFFF ∧ (s.site i).cisScrub = []
  · rw [if_pos hdone, if_pos hdone, ← h1]
    split
    · rw [State.wrap, State.site_wr, State.site_wr]
    · rw [State.site_wr]
  · rw [if_neg hdone, if_neg hdone, State.site_wr]

/-- What the advance keeps of its site: all but the slices seen. -/
theorem cisAdvance_keeps_site {α : Type} {π : Site → α} (hπ : ∀ x : Site, π { x with cisSeen := 0 } = π x) (s : State) (i : Nat) :
    π ((cisAdvance s i).site i) = π (s.site i) := by
  rw [site_cisAdvance]
  split
  · exact hπ _
  · rfl

theorem cisAdvance_pos {s : State} {i : Nat} (h : (s.site i).cisSeen = 0xFFFF ∧ (s.site i).cisScrub = []) :
    (cisAdvance s i).rd (cisP i) Reg.Ci.SCRUB_POS =
      if s.rd (cisP i) Reg.Ci.SCRUB_POS + 1 = 24576 then 0 else (s.rd (cisP i) Reg.Ci.SCRUB_POS + 1) % 2 ^ Reg.Ci.SCRUB_POS.w := by
  unfold cisAdvance
  extract_lets st p n s1
  rw [if_pos h]
  exact rd_advance _ _ _ (fldKey_ne rfl (by decide))

/-- R113: the read of slice `sl` at the scrubber's line, before the scrubber moves on. -/
def cisRead (s : State) (i sl : Nat) : State :=
  let l := s.rd (cisP i) Reg.Ci.SCRUB_POS
  let v := scrubSnap s (cisAddr i sl l)
  let s := noteCisWords s i (0x8000000000 + l * 2048 + sl * 128) 16
  let st := s.site i
  s.setSite i { st with cisSeen := st.cisSeen ||| 2 ^ sl, cisScrub := if v.2 = (0, 0) then st.cisScrub else tabInsert st.cisScrub sl (l, v) }

/-- R113: the rewriting of what slice `sl` has read, before the scrubber moves on. -/
def cisRewrite (s : State) (i sl : Nat) (x : Nat × Nat × Nat × Nat) : State :=
  let s := scrubRewrite s (cisAddr i sl x.1) x.2 false
  s.setSite i { (s.site i) with cisScrub := tabErase (s.site i).cisScrub sl }

theorem cisternScrub_read (hclear : (s.site i).clearing = false) (hopen : openAt sl cyc = true)
    (hpick : portPick s i (atSlice sl) (fun _ => true) = none) (hnone : tabFind (s.site i).cisScrub sl = none)
    (hseen : bits (s.site i).cisSeen sl 1 = 0) (hen : s.rd (cisP i) Reg.Ci.SCRUB_EN ≠ 0) : cisternScrub s i sl cyc =
      (chargeSram s i).elim (s.orBits (budP i) Reg.Bu.BUD_HIT 1) (fun v => cisAdvance (cisRead (noteSlice v i 0) i sl) i) := by
  unfold cisternScrub
  simp only [hclear, Bool.false_eq_true, hopen, Bool.not_true, hnone, Option.isNone_none, hseen, zero_ne_one, decide_false, hen,
    Bool.and_false, Bool.or_self, hpick, Option.isSome_none, or_self, if_false]
  cases chargeSram s i <;> rfl

theorem cisternScrub_rewrite {x : Nat × Nat × Nat × Nat} (hclear : (s.site i).clearing = false) (hopen : openAt sl cyc = true)
    (hpick : portPick s i (atSlice sl) (fun _ => true) = none) (hwait : tabFind (s.site i).cisScrub sl = some x) : cisternScrub s i sl cyc =
      (chargeSram s i).elim (s.orBits (budP i) Reg.Bu.BUD_HIT 1) (fun v => cisAdvance (cisRewrite (noteSlice v i 0) i sl x) i) := by
  unfold cisternScrub
  simp only [hclear, Bool.false_eq_true, hopen, Bool.not_true, hwait, Option.isNone_some, Bool.false_and, hpick, Option.isSome_none,
    or_self, if_false]
  cases chargeSram s i <;> rfl

/-- The state after a scrub access to a slice of site `i` within the budget has been counted. -/
def cisCharged (s : State) (i : Nat) : State := noteSlice (s.setSite i { (s.site i) with uSram := (s.site i).uSram + 1 }) i 0

theorem site_cisCharged (s : State) (i : Nat) : (cisCharged s i).site i =
    { (s.site i) with uSram := (s.site i).uSram + 1, cisGrants := (s.site i).cisGrants + 1, cisWait := max (s.site i).cisWait 0 } := by
  unfold cisCharged noteSlice
  rw [State.site_setSite_same, State.site_setSite_same]

/-- R113: a slice that has read the line is seen, and the line waits there where it has an error. -/
theorem site_cisRead (s : State) (i sl : Nat) :
    let l := s.rd (cisP i) Reg.Ci.SCRUB_POS
    let v := scrubSnap s (cisAddr i sl l)
    (cisRead s i sl).site i = { (s.site i) with
      cisSeen := (s.site i).cisSeen ||| 2 ^ sl
      cisScrub := if v.2 = (0, 0) then (s.site i).cisScrub else tabInsert (s.site i).cisScrub sl (l, v) } := by
  intro l v
  have hnoted : (noteCisWords s i (0x8000000000 + l * 2048 + sl * 128) 16).site i = s.site i :=
    (noteCisWords_touches (List.Subset.refl _) ..).site i
  show State.site (State.setSite _ _ _) i = _
  rw [State.site_setSite_same, hnoted]

theorem cisRead_mem (s : State) (i sl : Nat) : (cisRead s i sl).mem = s.mem := (noteCisWords_memIs _ _ _ _ (.refl s)).mem

theorem cisRead_pos (s : State) (i sl : Nat) : (cisRead s i sl).rd (cisP i) Reg.Ci.SCRUB_POS = s.rd (cisP i) Reg.Ci.SCRUB_POS :=
  (noteCisWords_touches (List.Subset.refl _) ..).regs.rd _ _ (fldKey_not_mem (by decide))

/-- R113, R349: a read within the budget. -/
theorem cisternScrub_read_within (hclear : (s.site i).clearing = false) (hopen : openAt sl cyc = true)
    (hpick : portPick s i (atSlice sl) (fun _ => true) = none) (hnone : tabFind (s.site i).cisScrub sl = none)
    (hseen : bits (s.site i).cisSeen sl 1 = 0) (hen : s.rd (cisP i) Reg.Ci.SCRUB_EN ≠ 0)
    (hbudget : (s.site i).uSram < s.rd (budP i) Reg.Bu.BUD_SCRUB_SRAM) :
    let l := s.rd (cisP i) Reg.Ci.SCRUB_POS
    let snap := scrubSnap s (cisAddr i sl l)
    let t := cisternScrub s i sl cyc
    tabFind (t.site i).cisScrub sl = (if snap.2 = (0, 0) then none else some (l, snap)) ∧ (t.site i).uSram = (s.site i).uSram + 1 ∧
      ((s.site i).cisSeen ||| 2 ^ sl = 0xFFFF → (t.site i).cisScrub = [] → (t.site i).cisSeen = 0 ∧
        t.rd (cisP i) Reg.Ci.SCRUB_POS = (if l + 1 = 24576 then 0 else (l + 1) % 2 ^ Reg.Ci.SCRUB_POS.w)) ∧ t.mem = s.mem := by
  intro l snap t
  obtain ⟨r, hr⟩ : ∃ r, r = cisRead (cisCharged s i) i sl := ⟨_, rfl⟩
  have ht : t = cisAdvance r i := by
    simp only [t, hr, cisternScrub_read hclear hopen hpick hnone hseen hen, chargeSram_within hbudget]; rfl
  have hmem : (cisCharged s i).mem = s.mem := rfl
  have hpos : (cisCharged s i).rd (cisP i) Reg.Ci.SCRUB_POS = l := rfl
  have hsite := site_cisRead (cisCharged s i) i sl
  simp only [hpos, scrubSnap_congr hmem, site_cisCharged, ← hr] at hsite
  have hkept : (t.site i).cisScrub = (r.site i).cisScrub := by rw [ht]; exact cisAdvance_keeps_site (fun _ => rfl) _ _
  refine ⟨?waits, ?counted, fun hall hdone => ?moves, ?mem⟩
  case waits =>
    rw [hkept, hsite]
    show tabFind (if snap.2 = (0, 0) then _ else _) sl = _
    split
    · exact hnone
    · exact tabFind_insert_same _ _ _ hnone
  case counted =>
    have hsram : (t.site i).uSram = (r.site i).uSram := by rw [ht]; exact cisAdvance_keeps_site (fun _ => rfl) _ _
    rw [hsram, hsite]
  case moves =>
    have hend : (r.site i).cisSeen = 0xFFFF ∧ (r.site i).cisScrub = [] := ⟨by rw [hsite]; exact hall, hkept ▸ hdone⟩
    have hline : r.rd (cisP i) Reg.Ci.SCRUB_POS = l := by rw [hr, cisRead_pos, hpos]
    rw [ht, site_cisAdvance, if_pos hend, cisAdvance_pos hend, hline]
    exact ⟨rfl, rfl⟩
  case mem => rw [ht, cisAdvance_mem, hr, cisRead_mem, hmem]

/-- R113, R349: a read that the budget does not allow. -/
theorem cisternScrub_read_spent (hclear : (s.site i).clearing = false) (hopen : openAt sl cyc = true)
    (hpick : portPick s i (atSlice sl) (fun _ => true) = none) (hnone : tabFind (s.site i).cisScrub sl = none)
    (hseen : bits (s.site i).cisSeen sl 1 = 0) (hen : s.rd (cisP i) Reg.Ci.SCRUB_EN ≠ 0)
    (hbudget : ¬ (s.site i).uSram < s.rd (budP i) Reg.Bu.BUD_SCRUB_SRAM) : cisternScrub s i sl cyc = s.orBits (budP i) Reg.Bu.BUD_HIT 1 := by
  rw [cisternScrub_read hclear hopen hpick hnone hseen hen, chargeSram_spent hbudget, Option.elim_none]

/-- R113, R349: a rewriting within the budget. -/
theorem cisternScrub_rewrite_within {x : Nat × Nat × Nat × Nat} (hclear : (s.site i).clearing = false) (hopen : openAt sl cyc = true)
    (hpick : portPick s i (atSlice sl) (fun _ => true) = none) (hwait : tabFind (s.site i).cisScrub sl = some x)
    (hbudget : (s.site i).uSram < s.rd (budP i) Reg.Bu.BUD_SCRUB_SRAM) :
    let a := cisAddr i sl x.1
    let t := cisternScrub s i sl cyc
    (t.site i).cisGrants = (s.site i).cisGrants + 1 ∧ t.mem = (if scrubSnap s a = x.2 then (scrubWrite s a x.2.2.2 false).mem else s.mem) := by
  intro a t
  have ht : t = cisAdvance (cisRewrite (cisCharged s i) i sl x) i := by
    simp only [t, cisternScrub_rewrite hclear hopen hpick hwait, chargeSram_within hbudget]; rfl
  have hmem : (cisCharged s i).mem = s.mem := rfl
  rw [ht]
  refine ⟨?counted, (cisAdvance_mem ..).trans (scrubRewrite_mem hmem ..)⟩
  case counted =>
    rw [cisAdvance_keeps_site (π := Site.cisGrants) (fun _ => rfl), cisRewrite, State.site_setSite_same, site_scrubRewrite, site_cisCharged]

end

/-! ### The scrubber of the well (R210) -/

section
variable {s : State} {i cyc : Nat}

theorem wellAdvance_rest (s : State) (i : Nat) : wellAdvance s i = { s with regs := (wellAdvance s i).regs } := by
  unfold wellAdvance
  extract_lets p n
  split <;> rfl

theorem wellAdvance_pos (s : State) (i : Nat) : (wellAdvance s i).rd (wellP i) Reg.We.SCRUB_POS =
    if s.rd (wellP i) Reg.We.SCRUB_POS + 1 = 335544320 then 0 else (s.rd (wellP i) Reg.We.SCRUB_POS + 1) % 2 ^ Reg.We.SCRUB_POS.w := by
  unfold wellAdvance
  extract_lets p n
  exact rd_advance _ _ _ (fldKey_ne rfl (by decide))

/-- R210: the read of the scrubber's line, after which the scrubber moves on unless the line is to be rewritten. -/
def wellRead (s : State) (i l : Nat) : State :=
  let v := scrubSnap s (wellAddr i l)
  let s := noteWellHalves s i l 3
  if v.2 = (0, 0) then wellAdvance s i else s.setSite i { (s.site i) with wellScrub := some (l, v) }

/-- R210: the rewriting of what the scrubber has read, before it moves on. -/
def wellRewrite (s : State) (i l : Nat) (x : Nat × Nat × Nat × Nat) : State :=
  let s := scrubRewrite s (wellAddr i l) x.2 true
  s.setSite i { (s.site i) with wellScrub := none }

theorem wellScrub_read (hclear : (s.site i).clearing = false) (hopen : slotOpen s i (s.rd (wellP i) Reg.We.SCRUB_POS % 16) cyc = true)
    (hpick : portPick s i (atChannel (s.rd (wellP i) Reg.We.SCRUB_POS % 16)) (fun _ => true) = none)
    (hnone : (s.site i).wellScrub = none) (hen : s.rd (wellP i) Reg.We.SCRUB_EN ≠ 0) : wellScrub s i cyc =
      (chargeWell s i).elim (s.orBits (budP i) Reg.Bu.BUD_HIT 2)
        (fun v => wellRead (noteWellSlot v i 0) i (s.rd (wellP i) Reg.We.SCRUB_POS)) := by
  unfold wellScrub
  simp only [hclear, Bool.false_eq_true, hnone, Option.isNone_none, hen, decide_false, Bool.and_false, hopen, Bool.not_true, hpick,
    Option.isSome_none, or_self, if_false]
  cases chargeWell s i <;> rfl

theorem wellScrub_rewrite {x : Nat × Nat × Nat × Nat} (hclear : (s.site i).clearing = false)
    (hopen : slotOpen s i (s.rd (wellP i) Reg.We.SCRUB_POS % 16) cyc = true)
    (hpick : portPick s i (atChannel (s.rd (wellP i) Reg.We.SCRUB_POS % 16)) (fun _ => true) = none)
    (hwait : (s.site i).wellScrub = some x) : wellScrub s i cyc =
      (chargeWell s i).elim (s.orBits (budP i) Reg.Bu.BUD_HIT 2)
        (fun v => wellAdvance (wellRewrite (noteWellSlot v i 0) i (s.rd (wellP i) Reg.We.SCRUB_POS) x) i) := by
  unfold wellScrub
  simp only [hclear, Bool.false_eq_true, hwait, Option.isNone_some, Bool.false_and, hopen, Bool.not_true, hpick, Option.isSome_none,
    or_self, if_false]
  cases chargeWell s i <;> rfl

/-- The state after a scrub access to the well of site `i` within the budget has been counted. -/
def wellCharged (s : State) (i : Nat) : State := noteWellSlot (s.setSite i { (s.site i) with uWell := (s.site i).uWell + 1 }) i 0

theorem site_wellCharged (s : State) (i : Nat) : (wellCharged s i).site i =
    { (s.site i) with uWell := (s.site i).uWell + 1, openLines := (s.site i).openLines + 1, openWait := max (s.site i).openWait 0 } := by
  unfold wellCharged noteWellSlot
  rw [State.site_setSite_same, State.site_setSite_same]

theorem site_wellRewrite (s : State) (i l : Nat) (x : Nat × Nat × Nat × Nat) :
    (wellRewrite s i l x).site i = { (s.site i) with wellScrub := none } := by
  unfold wellRewrite
  rw [State.site_setSite_same, site_scrubRewrite]

theorem wellAdvance_site (s : State) (i j : Nat) : (wellAdvance s i).site j = s.site j := by rw [wellAdvance_rest]; rfl
theorem wellAdvance_mem (s : State) (i : Nat) : (wellAdvance s i).mem = s.mem := by rw [wellAdvance_rest]

theorem wellRead_mem (s : State) (i l : Nat) : (wellRead s i l).mem = s.mem := by
  have hnoted : (noteWellHalves s i l 3).mem = s.mem := (noteWellHalves_memIs _ _ _ _ (.refl s)).mem
  unfold wellRead
  extract_lets v s1
  split
  · exact (wellAdvance_mem ..).trans hnoted
  · exact hnoted

/-- R210: a line with an error waits to be rewritten, and the scrubber stands at it; else the scrubber moves on. -/
theorem wellRead_waits (s : State) (i l : Nat) (h : (scrubSnap s (wellAddr i l)).2 ≠ (0, 0)) :
    (wellRead s i l).site i = { (s.site i) with wellScrub := some (l, scrubSnap s (wellAddr i l)) } ∧
      (wellRead s i l).rd (wellP i) Reg.We.SCRUB_POS = s.rd (wellP i) Reg.We.SCRUB_POS := by
  have hnoted : Touches (keysOf (wellP i) wellFields) s (noteWellHalves s i l 3) := noteWellHalves_touches (List.Subset.refl _) ..
  unfold wellRead
  extract_lets v s1
  have hsite : s1.site i = s.site i := hnoted.site i
  rw [if_neg h]
  refine ⟨(State.site_setSite_same ..).trans ?_, hnoted.regs.rd _ _ (fldKey_not_mem (by decide))⟩
  exact congrArg (fun x : Site => { x with wellScrub := some (l, v) }) hsite

theorem wellRead_clean (s : State) (i l : Nat) (h : (scrubSnap s (wellAddr i l)).2 = (0, 0)) :
    (wellRead s i l).site i = s.site i ∧ (wellRead s i l).rd (wellP i) Reg.We.SCRUB_POS =
      if s.rd (wellP i) Reg.We.SCRUB_POS + 1 = 335544320 then 0 else (s.rd (wellP i) Reg.We.SCRUB_POS + 1) % 2 ^ Reg.We.SCRUB_POS.w := by
  have hnoted : Touches (keysOf (wellP i) wellFields) s (noteWellHalves s i l 3) := noteWellHalves_touches (List.Subset.refl _) ..
  unfold wellRead
  extract_lets v s1
  rw [if_pos h, wellAdvance_site, wellAdvance_pos, hnoted.site, hnoted.regs.rd _ _ (fldKey_not_mem (by decide))]
  exact ⟨rfl, rfl⟩

/-- R210, R349: a read within the budget. -/
theorem wellScrub_read_within (hclear : (s.site i).clearing = false) (hopen : slotOpen s i (s.rd (wellP i) Reg.We.SCRUB_POS % 16) cyc = true)
    (hpick : portPick s i (atChannel (s.rd (wellP i) Reg.We.SCRUB_POS % 16)) (fun _ => true) = none)
    (hnone : (s.site i).wellScrub = none) (hen : s.rd (wellP i) Reg.We.SCRUB_EN ≠ 0)
    (hbudget : (s.site i).uWell < s.rd (budP i) Reg.Bu.BUD_SCRUB_WELL) :
    let l := s.rd (wellP i) Reg.We.SCRUB_POS
    let snap := scrubSnap s (wellAddr i l)
    let t := wellScrub s i cyc
    (t.site i).uWell = (s.site i).uWell + 1 ∧ (t.site i).openLines = (s.site i).openLines + 1 ∧ t.mem = s.mem ∧
      (if snap.2 = (0, 0) then (t.site i).wellScrub = none ∧
          t.rd (wellP i) Reg.We.SCRUB_POS = (if l + 1 = 335544320 then 0 else (l + 1) % 2 ^ Reg.We.SCRUB_POS.w)
        else (t.site i).wellScrub = some (l, snap) ∧ t.rd (wellP i) Reg.We.SCRUB_POS = l) := by
  intro l snap t
  have ht : t = wellRead (wellCharged s i) i l := by
    simp only [t, wellScrub_read hclear hopen hpick hnone hen, chargeWell_within hbudget]; rfl
  have hmem : (wellCharged s i).mem = s.mem := rfl
  have hpos : (wellCharged s i).rd (wellP i) Reg.We.SCRUB_POS = l := rfl
  have hsnap : scrubSnap (wellCharged s i) (wellAddr i l) = snap := scrubSnap_congr hmem _
  have htmem : t.mem = s.mem := by rw [ht]; exact (wellRead_mem ..).trans hmem
  by_cases herr : snap.2 = (0, 0)
  · obtain ⟨hsite, hnext⟩ := wellRead_clean (wellCharged s i) i l (by rw [hsnap]; exact herr)
    rw [← ht, site_wellCharged] at hsite
    rw [← ht, hpos] at hnext
    rw [if_pos herr, hsite]
    exact ⟨rfl, rfl, htmem, hnone, hnext⟩
  · obtain ⟨hsite, hstays⟩ := wellRead_waits (wellCharged s i) i l (by rw [hsnap]; exact herr)
    rw [← ht, site_wellCharged, hsnap] at hsite
    rw [← ht, hpos] at hstays
    rw [if_neg herr, hsite]
    exact ⟨rfl, rfl, htmem, rfl, hstays⟩

/-- R210, R349: a read that the budget does not allow. -/
theorem wellScrub_read_spent (hclear : (s.site i).clearing = false) (hopen : slotOpen s i (s.rd (wellP i) Reg.We.SCRUB_POS % 16) cyc = true)
    (hpick : portPick s i (atChannel (s.rd (wellP i) Reg.We.SCRUB_POS % 16)) (fun _ => true) = none)
    (hnone : (s.site i).wellScrub = none) (hen : s.rd (wellP i) Reg.We.SCRUB_EN ≠ 0)
    (hbudget : ¬ (s.site i).uWell < s.rd (budP i) Reg.Bu.BUD_SCRUB_WELL) : wellScrub s i cyc = s.orBits (budP i) Reg.Bu.BUD_HIT 2 := by
  rw [wellScrub_read hclear hopen hpick hnone hen, chargeWell_spent hbudget, Option.elim_none]

/-- R210, R349: a rewriting within the budget. -/
theorem wellScrub_rewrite_within {x : Nat × Nat × Nat × Nat} (hclear : (s.site i).clearing = false)
    (hopen : slotOpen s i (s.rd (wellP i) Reg.We.SCRUB_POS % 16) cyc = true)
    (hpick : portPick s i (atChannel (s.rd (wellP i) Reg.We.SCRUB_POS % 16)) (fun _ => true) = none)
    (hwait : (s.site i).wellScrub = some x) (hbudget : (s.site i).uWell < s.rd (budP i) Reg.Bu.BUD_SCRUB_WELL) :
    let a := wellAddr i (s.rd (wellP i) Reg.We.SCRUB_POS)
    let t := wellScrub s i cyc
    (t.site i).wellScrub = none ∧ (t.site i).uWell = (s.site i).uWell + 1 ∧
      t.mem = (if scrubSnap s a = x.2 then (scrubWrite s a x.2.2.2 true).mem else s.mem) := by
  intro a t
  have ht : t = wellAdvance (wellRewrite (wellCharged s i) i (s.rd (wellP i) Reg.We.SCRUB_POS) x) i := by
    simp only [t, wellScrub_rewrite hclear hopen hpick hwait, chargeWell_within hbudget]; rfl
  have hmem : (wellCharged s i).mem = s.mem := rfl
  have hsite : (t.site i) = { (wellCharged s i).site i with wellScrub := none } := by rw [ht, wellAdvance_site, site_wellRewrite]
  rw [site_wellCharged] at hsite
  rw [hsite]
  refine ⟨rfl, rfl, ?_⟩
  rw [ht]
  exact (wellAdvance_mem ..).trans (scrubRewrite_mem hmem ..)

end

/-- Settles O45: each scrubber's access is its read or its rewriting where the budget lasts, and else shows in BUD_HIT. -/
theorem scrubbersPass : Obligations.ScrubbersPass := by
  unfold Obligations.ScrubbersPass
  intro s i ups hi st u hit rewritten sram
  have hhit : ∀ b < Reg.Bu.BUD_HIT.w, hit (u.orBits (budP i) Reg.Bu.BUD_HIT (2 ^ b)) b := fun b hb =>
    have h := orBits_budgetHit u i hb
    ⟨h.shown, h.mem, h.regs⟩
  have hsite : siteOk i = true := decide_eq_true hi
  refine ⟨?core, ?cistern, ?well⟩
  case core =>
    intro n cyc bank line hn hclear hline c snap
    have hcore : coreOk c = true := by simp [coreOk, c, hi, hn]
    refine ⟨fun hnone hmay => ?read, fun x hwait hmay hwithin => ?rewrite⟩
    case read =>
      refine completes_onUnit (t := scrubStep u c cyc bank line) rfl hcore ?_
      by_cases hwithin : sram
      · rw [if_pos hwithin]
        obtain ⟨hkept, hcounted, hmem, hnoted⟩ := scrubStep_read_within (s := u) (c := c) hclear hline hmay hnone hwithin
        exact ⟨hkept, hcounted, hmem, ⟨hnoted.find⟩⟩
      · rw [if_neg hwithin, scrubStep_read_spent (s := u) (c := c) hclear hline hmay hnone hwithin]
        exact hhit 0 (by decide)
    case rewrite =>
      exact completes_onUnit (t := scrubStep u c cyc bank line) rfl hcore
        (scrubStep_rewrite_within (s := u) (c := c) hclear hline hmay hwait hwithin)
  case cistern =>
    intro sl cyc hsl hclear hopen hpick p l snap
    have hslice : (siteOk i && decide (sl < 16)) = true := by simp [hsite, hsl]
    refine ⟨fun hnone hseen hen => ?read, fun x hwait hwithin => ?rewrite⟩
    case read =>
      refine completes_onUnit (t := cisternScrub u i sl cyc) rfl hslice ?_
      by_cases hwithin : sram
      · rw [if_pos hwithin]
        exact cisternScrub_read_within (s := u) hclear hopen hpick hnone hseen hen hwithin
      · rw [if_neg hwithin, cisternScrub_read_spent (s := u) hclear hopen hpick hnone hseen hen hwithin]
        exact hhit 0 (by decide)
    case rewrite =>
      exact completes_onUnit (t := cisternScrub u i sl cyc) rfl hslice
        (cisternScrub_rewrite_within (s := u) hclear hopen hpick hwait hwithin)
  case well =>
    intro cyc p l snap hclear hopen hpick
    refine ⟨fun hnone hen => ?read, fun x hwait hwithin => ?rewrite⟩
    case read =>
      refine completes_onUnit (t := wellScrub u i cyc) rfl hsite ?_
      by_cases hwithin : st.uWell < s.rd (budP i) Reg.Bu.BUD_SCRUB_WELL
      · rw [if_pos hwithin]
        exact wellScrub_read_within (s := u) hclear hopen hpick hnone hen hwithin
      · rw [if_neg hwithin, wellScrub_read_spent (s := u) hclear hopen hpick hnone hen hwithin]
        exact hhit 1 (by decide)
    case rewrite =>
      exact completes_onUnit (t := wellScrub u i cyc) rfl hsite
        (wellScrub_rewrite_within (s := u) hclear hopen hpick hwait hwithin)

end Sys2Proof.Machine
end

section
/-! PROOFS. LKSEND and LKRECV (R134, R135, R162 to R164, R316): the hop entry that an issued operation binds, and the beats of a send. -/

namespace Sys2Proof.Machine

/-! ### Fields of an LK slot (R162) -/

section
variable {op : Nat} (a : LkArgs)

theorem lkOf_fields (ho : op < 256) :
    let lk := lkOf op a
    lk < 2 ^ 64 ∧ bits lk 0 8 = op ∧ bits lk 8 12 = a.hopId.toNat ∧ bits lk 20 5 = a.bb.toNat ∧ bits lk 25 5 = a.nb.toNat ∧
      bits lk 30 7 = a.line0.toNat ∧ bits lk 37 7 = a.rl.toNat := by
  have := a.hopId.isLt; have := a.bb.isLt; have := a.nb.isLt; have := a.line0.isLt; have := a.rl.isLt; have := a.rsv.isLt
  simp only [lkOf, packBits_cons, packBits_nil, bits]
  omega

theorem lkOf_ne_zero (ho : op < 256) (h0 : op ≠ 0) : lkOf op a ≠ 0 := by
  intro h
  have hop := (lkOf_fields a ho).2.1
  rw [h] at hop
  exact h0 (hop.symm.trans (by decide))

/-- R146: the slots of a bundle of one LK operation. -/
theorem lkBundle_slots (ho : op < 256) (h : Hdr) :
    bundleMx (lkBundle h op a) = 0 ∧ bundleVx (lkBundle h op a) = 0 ∧ bundleMv (lkBundle h op a) = 0 ∧
      bundleLk (lkBundle h op a) = lkOf op a ∧ hdrCtl (bundleHdr (lkBundle h op a)) = 0 ∧ hdrArg (bundleHdr (lkBundle h op a)) = false := by
  obtain ⟨hctl, harg⟩ := hdrOf_ctl h false 0 (by norm_num)
  unfold lkBundle
  rw [bundleMx_of, bundleVx_of, bundleMv_of, bundleLk_of, bundleHdr_of]
  exact ⟨rfl, rfl, rfl, Nat.mod_eq_of_lt (lkOf_fields a ho).1, hctl, harg⟩

/-- R163: an LK operand's half-line, by the fields of its slot. -/
theorem lkAddr_fields (ho : op < 256) (c : CoreId) (j : Nat) :
    lkAddr c a j = spAddr c.site c.n (ringPlace (bits (lkOf op a) 20 5) (bits (lkOf op a) 25 5) (bits (lkOf op a) 30 7) (bits (lkOf op a) 37 7) j).1
      (ringPlace (bits (lkOf op a) 20 5) (bits (lkOf op a) 25 5) (bits (lkOf op a) 30 7) (bits (lkOf op a) 37 7) j).2 + 64 * (j % 2) := by
  obtain ⟨_, _, _, hbb, hnb, hline, hrl⟩ := lkOf_fields a ho
  rw [hbb, hnb, hline, hrl, lkAddr]

end

/-! ### What the checks of an issued LK operation say (R135, R162) -/

theorem Issues.lk {s : State} {c : CoreId} {b t : Nat} (h : Issues s c b t) (harg : hdrArg (bundleHdr b) = false) :
    lkBad (atCycle s c.site t) c (bundleLk b) t (mvAcc (atCycle s c.site t) c (bundleMv b) t (s.core c).nextPc) = [] := by
  have hlk := h.checks
  unfold bundleBad at hlk
  simpa [harg] using (append_nil hlk).2

theorem foldl_min_le {α : Type} (f : α → Nat) (l : List α) (m : Nat) :
    l.foldl (fun m x => min m (f x)) m ≤ m ∧ ∀ x ∈ l, l.foldl (fun m x => min m (f x)) m ≤ f x := by
  induction l generalizing m with
  | nil => exact ⟨le_refl m, fun x hx => absurd hx List.not_mem_nil⟩
  | cons y l ih =>
    obtain ⟨hm, hl⟩ := ih (min m (f y))
    refine ⟨hm.trans (min_le_left _ _), fun x hx => ?_⟩
    rcases List.mem_cons.1 hx with rfl | hx
    · exact hm.trans (min_le_right _ _)
    · exact hl x hx

/-- An accepted LK operation names an entry of the active table, and its accesses fall four cycles after its issue or later. -/
theorem lkBad_nil {s : State} {c : CoreId} {lk t : Nat} {mv : List Access} (h : lkBad s c lk t mv = [])
    (hop : bits lk 0 8 = 1 ∨ bits lk 0 8 = 2) :
    ∃ e, hopFind s c.site (bits lk 8 12) = some e ∧ ∀ a ∈ lkAcc s c lk e 0, t + 4 ≤ a.cyc := by
  have hlk : lk ≠ 0 := by rintro rfl; rcases hop with hop | hop <;> exact absurd hop (by decide)
  unfold lkBad at h
  extract_lets op st rsv ent wrong addr at h
  rw [if_neg hlk, if_neg (show ¬ op = 0 by omega), if_neg (show ¬ 2 < op by omega)] at h
  split at h
  case h_1 e _ hent =>
    refine ⟨e, hent, fun x hx => ?_⟩
    by_contra hlt
    have hlate := (append_nil h).2
    rw [if_pos] at hlate
    · exact absurd hlate (List.cons_ne_nil _ _)
    · exact lt_of_le_of_lt ((foldl_min_le Access.cyc _ _).2 x hx) (Nat.lt_of_not_le hlt)
  case h_2 hnone =>
    have hwrong : wrong = false := fieldBad_nil (append_nil (append_nil (append_nil h).2).1).1
    cases hent : ent with
    | none => simp only [wrong, hent] at hwrong; exact absurd hwrong (by decide)
    | some e => exact absurd hent (hnone e h)

/-! ### Binding and accesses (R135, R164) -/

theorem lkAcc_own {s : State} {c : CoreId} {lk e pc t : Nat} (h : ∀ a ∈ lkAcc s c lk e 0, t + 4 ≤ a.cyc) :
    ∀ a ∈ lkAcc s c lk e pc, t < a.cyc ∧ a.own = c.n ∧ a.unit = 1 := by
  intro a ha
  obtain ⟨j, hj, rfl⟩ := List.mem_map.1 ha
  have := h (beatAcc s c lk e 0 j) (List.mem_map_of_mem hj)
  exact ⟨by unfold beatAcc at *; dsimp only at *; omega, rfl, rfl⟩

/-- What an LK operation reads of the state: memory, registers, and beside the accesses of its site, its fields. -/
structure SameSchedule (c : CoreId) (s u : State) : Prop where
  mem : u.mem = s.mem
  regs : u.regs = s.regs
  hopN0 : (u.site c.site).hopN0 = (s.site c.site).hopN0
  hopN1 : (u.site c.site).hopN1 = (s.site c.site).hopN1
  base : (u.site c.site).base = (s.site c.site).base

theorem SameSchedule.trans {c : CoreId} {q s u : State} (h : SameSchedule c q s) (g : SameSchedule c s u) : SameSchedule c q u :=
  ⟨g.mem.trans h.mem, g.regs.trans h.regs, g.hopN0.trans h.hopN0, g.hopN1.trans h.hopN1, g.base.trans h.base⟩

theorem SameSchedule.rd {c : CoreId} {s u : State} (h : SameSchedule c s u) (p : Nat) (f : Fld) : u.rd p f = s.rd p f := by
  unfold State.rd; rw [h.regs]

theorem SameSchedule.hopFind {c : CoreId} {s u : State} (h : SameSchedule c s u) (id : Nat) : hopFind u c.site id = hopFind s c.site id := by
  unfold Sys2Proof.Machine.hopFind hopTable hopEntry
  simp only [h.rd, h.mem, h.hopN0, h.hopN1]

theorem SameSchedule.lkAcc {c : CoreId} {s u : State} (h : SameSchedule c s u) (lk e pc : Nat) : lkAcc u c lk e pc = lkAcc s c lk e pc := by
  unfold Sys2Proof.Machine.lkAcc beatAcc departAt deliverAt hopLat
  simp only [h.rd, h.base]

/-- The core of `c` with a binding of an LK slot added. -/
def bindCore (s : State) (c : CoreId) (lk pc : Nat) : Core :=
  { s.core c with binds := (s.core c).binds ++ [{ hop := bits lk 8 12, recv := bits lk 0 8 = 2, bb := bits lk 20 5, nb := bits lk 25 5, line0 := bits lk 30 7, rl := bits lk 37 7, pc := pc, img := lk }] }

theorem lkEffect_eq {s : State} {c : CoreId} {lk e : Nat} (t pc : Nat) (hop : bits lk 0 8 = 1 ∨ bits lk 0 8 = 2)
    (he : hopFind s c.site (bits lk 8 12) = some e) :
    let u := s.setCore c (bindCore s c lk pc)
    let r := placeAll u c.site t (lkAcc u c lk e pc)
    lkEffect s c lk t pc = if bits lk 0 8 = 1 then upTo (hopBeats e) (sendBeat c lk e pc r.lost) r.st else r.st := by
  unfold lkEffect
  rw [he]
  rcases hop with hop | hop <;> rw [hop] <;> unfold bindCore <;> rw [hop] <;> rfl

/-! ### The beats of a send (R135, R140, R163, R316) -/

/-- The keys of a site's reliability page are none of a core's page. -/
theorem relKey_not_core {c : CoreId} {f : Fld} {fs : List Fld} (hc : coreOk c = true) (hf : Paged f) (hfs : ∀ g ∈ fs, Paged g) :
    fldKey (relP c.site) f ∉ keysOf (coreP c) fs := by
  intro hm
  obtain ⟨g, hg, e⟩ := List.mem_map.1 hm
  have hrel := paged_key (p := relP c.site) hf
  have hcore := paged_key (p := coreP c) (hfs g hg)
  have hn := coreOk_n hc
  unfold relP coreP siteP at *
  omega

theorem spFields_paged : ∀ f ∈ spFields, Paged f := by
  unfold Paged; decide

/-- What beats that leave have changed since `w`: they have been sent, and their reads noted. -/
structure Sent (c : CoreId) (w u : State) (os : List Out) : Prop where
  out : u.out = w.out ++ os
  rest : u = { w with regs := u.regs, out := u.out }
  regs : Off (keysOf (coreP c) spFields) w u

section
variable {c : CoreId} {w u : State} {os : List Out}

theorem Sent.refl (c : CoreId) (w : State) : Sent c w w [] := ⟨(List.append_nil _).symm, rfl, Off.refl _ _⟩

theorem Sent.emit (h : Sent c w u os) (o : Out) : Sent c w (u.emit o) (os ++ [o]) where
  out := by rw [← List.append_assoc, ← h.out]; rfl
  rest := by conv_lhs => rw [h.rest]
             rfl
  regs := h.regs.same

theorem Sent.noteSp (h : Sent c w u os) (b l k n : Nat) : Sent c w (u.noteSp c b l k n) os where
  out := by rw [noteSp_regs]; exact h.out
  rest := by rw [noteSp_regs, h.rest]
  regs := h.regs.trans (noteSp_frame (CoreFrame.refl c _ u) (List.Subset.refl _) b l k n).regs

theorem Sent.mem (h : Sent c w u os) : u.mem = w.mem := by rw [h.rest]

theorem Sent.cores (h : Sent c w u os) : u.cores = w.cores := by rw [h.rest]

theorem Sent.frame (h : Sent c w u os) : CoreFrame c (keysOf (coreP c) spFields) w { u with out := w.out } := by
  have hrest := h.rest
  refine ⟨by rw [hrest], ⟨h.regs.find⟩, fun x _ => ?_, fun i _ => ?_⟩
  · rw [hrest]; rfl
  · rw [hrest]; rfl

/-- Neither whether the site is a shadow nor whether the core stops on poison depends on what a core notes of its reads. -/
theorem Sent.shadow (h : Sent c w u os) (hc : coreOk c = true) : isShadow u c.site = isShadow w c.site := by
  unfold isShadow
  rw [h.regs.rd _ _ (relKey_not_core hc ⟨rfl, by decide⟩ spFields_paged)]

theorem Sent.stops (h : Sent c w u os) (hc : coreOk c = true) : egressStops u c = egressStops w c := by
  unfold egressStops
  rw [h.regs.rd _ _ (relKey_not_core hc ⟨rfl, by decide⟩ spFields_paged)]

/-- R163, R316: beat `j` of a send of entry `e`. -/
def sentBeat (s : State) (c : CoreId) (a : LkArgs) (e j : Nat) : Out :=
  .beat c.site (hopOut e) (outSlot e j).1 (outSlot e j).2 (memRead s.mem (lkAddr c a j) 64) (memPoison s.mem (lkAddr c a j) 8 != 0)

theorem sendBeat_sent {op : Nat} {a : LkArgs} (ho : op < 256) (h : Sent c w u os) (hc : coreOk c = true) (hplain : isShadow w c.site = false)
    (hstop : egressStops w c = false) (e pc j : Nat) : Sent c w (sendBeat c (lkOf op a) e pc [] u j) (os ++ [sentBeat w c a e j]) := by
  unfold sendBeat
  extract_lets acc pl ad pm data gone s1 s2
  have h1 : Sent c w s1 os := h.noteSp _ _ _ _
  have h2 : s2 = s1.emit (sentBeat w c a e j) := by
    have hshadow : isShadow s1 c.site = false := (h1.shadow hc).trans hplain
    have had : ad = lkAddr c a j := (lkAddr_fields a ho c j).symm
    have hgone : gone = false := rfl
    have : s2 = s1.emit (.beat c.site (hopOut e) (outSlot e j).1 (outSlot e j).2 data (gone || pm ≠ 0)) := by
      simp only [s2, hshadow, Bool.false_eq_true, if_false]
    have hbad : (gone || decide (pm ≠ 0)) = (memPoison u.mem ad 8 != 0) := by
      rw [hgone, Bool.eq_iff_iff]
      simp [pm]
    rw [this, hbad, sentBeat, ← h.mem, ← had]
  have h3 : Sent c w s2 (os ++ [sentBeat w c a e j]) := h2 ▸ h1.emit _
  have hstops : egressStops s2 c = false := (h3.stops hc).trans hstop
  simpa [hstops] using h3

theorem sendBeats_sent {op : Nat} {a : LkArgs} (ho : op < 256) (hc : coreOk c = true) (hplain : isShadow w c.site = false)
    (hstop : egressStops w c = false) (e pc n : Nat) :
    Sent c w (upTo n (sendBeat c (lkOf op a) e pc []) w) ((List.range n).map (sentBeat w c a e)) := by
  refine upTo_ind (P := fun j u => Sent c w u ((List.range j).map (sentBeat w c a e))) (Sent.refl c w) n (fun j _ u hu => ?_)
  rw [List.range_succ, List.map_append]
  exact sendBeat_sent ho hu hc hplain hstop e pc j

end

/-! ### Issue -/

section
variable {s : State} {c : CoreId} {h : Hdr} {op : Nat} {a : LkArgs} {t : Nat}

@[simp] theorem advance_binds (k : Core) (p h lk : Nat) : (advance k p h lk).binds = k.binds := by
  unfold advance
  split <;> rfl

theorem CoreFrame.out {ks : List Nat} {u : State} (h : CoreFrame c ks s u) : u.out = s.out := (congrArg State.out h.rest :)

/-- What a bundle leaves whose effect is `v`: memory and the bindings of its core as in `v`, and no more than its issue beside. -/
structure LeavesBound (c : CoreId) (v u : State) : Prop where
  mem : u.mem = v.mem
  binds : (u.core c).binds = (v.core c).binds
  frame : CoreFrame c (keysOf (coreP c) seqFields) v u

theorem digAdd_core (s : State) (i : Nat) (xs : List (Nat × DigItem)) (c : CoreId) : (digAdd s i xs).core c = s.core c := by
  unfold digAdd
  extract_lets st
  split <;> rfl

theorem showBusy_core (s : State) (c : CoreId) (t : Nat) (x : CoreId) : (showBusy s c t).core x = s.core x := by
  unfold showBusy
  simp only [State.core_wr]

/-- A bundle whose one operation is in its LK slot: the slot's effect, and its issue. -/
theorem bundleEffect_onlyLk (s : State) (c : CoreId) (t p : Nat) {b : Nat} (e1 : bundleMx b = 0) (e2 : bundleVx b = 0)
    (e3 : bundleMv b = 0) (e4 : bundleLk b ≠ 0) (e5 : hdrCtl (bundleHdr b) = 0) (e6 : hdrArg (bundleHdr b) = false) :
    LeavesBound c (lkEffect (placeAll s c.site t []).st c (bundleLk b) t p) (bundleEffect s c t p b {}) := by
  unfold bundleEffect
  rw [e1, e2, e3]
  extract_lets hd mx as undo s1 s2 s3 s3' s4 s6 k' k s7 s8
  have hs1 : s1 = s := mxEffect_zero ..
  have hs2 : s2 = s1 := (vxOccupy_zero _ _ _).trans (vxData_zero _ _)
  have has : as ++ undo = [] := (List.append_nil as).trans (mxAcc_zero ..)
  have hs3 : s3' = (placeAll s c.site t []).st := by
    have h3 : s3 = (placeAll s2 c.site t (as ++ undo)).st := rfl
    have h4 : s3' = s3 := if_pos rfl
    rw [h4, h3, has, hs2, hs1]
  have hs4 : s4 = lkEffect (placeAll s c.site t []).st c (bundleLk b) t p := by
    rw [← hs3]
    exact if_neg (by simp [hd, e6, e4])
  rw [← hs4, ctlEffect_none _ _ _ _ _ _ e5]
  clear_value s4
  have f6 : CoreFrame c (keysOf (coreP c) seqFields) s4 s6 := CoreFrame.ite (digAdd_frame (CoreFrame.refl _ _ _) _) (CoreFrame.refl _ _ _)
  have m6 : MemIs s4 s6 := MemIs.ite (digAdd_memIs _ _ _ (MemIs.refl _)) (MemIs.refl _)
  have k6 : s6.core c = s4.core c := by
    simp only [s6]
    split
    · exact digAdd_core ..
    · rfl
  clear_value s6
  refine ⟨(showBusy_memIs _ _ _ (State.wr_memIs _ _ _ _ (State.wr_memIs _ _ _ _ (State.setCore_memIs _ _ _ m6)))).mem, ?_,
    issued_frame f6 (List.Subset.refl _) _ _ _ _⟩
  rw [showBusy_core, ← k6]
  simp only [s8, s7, State.core_wr, State.core_setCore_same, k, advance_binds, k']

theorem bundleEffect_lk (s : State) (c : CoreId) (t p : Nat) (h : Hdr) {op : Nat} (ho : op < 256) (h0 : op ≠ 0) (a : LkArgs) :
    LeavesBound c (lkEffect (placeAll s c.site t []).st c (lkOf op a) t p) (bundleEffect s c t p (lkBundle h op a) {}) := by
  obtain ⟨e1, e2, e3, e4, e5, e6⟩ := lkBundle_slots a ho h
  rw [← e4]
  exact bundleEffect_onlyLk s c t p e1 e2 e3 (e4 ▸ lkOf_ne_zero a ho h0) e5 e6

/-- R150: what an LK operation's own row answers once its bundle issues. -/
theorem lkRow_issued (hi : Issues s c (lkBundle h op a) t) :
    lkRow c h op a s = .next (bundleEffect (atCycle s c.site t) c t (s.core c).nextPc (lkBundle h op a) {}) := by
  unfold lkRow onUnit
  rw [if_pos hi.core]
  exact congrArg _ (issue_of hi {})

/-- R164: what an issued LK operation has bound, and whose accesses it has placed, before any beat leaves. -/
structure Bound (s : State) (c : CoreId) (b : Bind) (w : State) : Prop where
  binds : (w.core c).binds = (s.core c).binds ++ [b]
  mem : w.mem = s.mem
  frame : CoreFrame c [] s w

theorem Granted.core {site : Nat} {as : List Access} {r : Placed} (g : Granted s site as r) (c : CoreId) : r.st.core c = s.core c := by
  have hcores : r.st.cores = s.cores := (congrArg State.cores g.same :)
  unfold State.core
  rw [hcores]

theorem Granted.schedule {as : List Access} {r : Placed} (g : Granted s c.site as r) : SameSchedule c s r.st :=
  ⟨g.mem, (congrArg State.regs g.same :), by rw [g.here], by rw [g.here], by rw [g.here]⟩

/-- R135, R164: an issued LK operation has bound its entry before a send's beats leave; none of its accesses is discarded. -/
theorem lkEffect_issued (hi : Issues s c (lkBundle h op a) t) (hq : Quiet s c t) (hop : op = 1 ∨ op = 2) :
    ∃ e w, hopFind s c.site a.hopId.toNat = some e ∧ Bound s c (lkBind s c (op = 2) a) w ∧
      lkEffect (placeAll (atCycle s c.site t) c.site t []).st c (lkOf op a) t (s.core c).nextPc =
        if op = 1 then upTo (hopBeats e) (sendBeat c (lkOf op a) e (s.core c).nextPc []) w else w := by
  have ho : op < 256 := by omega
  obtain ⟨hlt, hopc, hid, hbb, hnb, hline, hrl⟩ := lkOf_fields a ho
  obtain ⟨_, _, _, e4, _, e6⟩ := lkBundle_slots a ho h
  have hbad := hi.lk e6
  rw [e4] at hbad
  obtain ⟨e, he, hlate⟩ := lkBad_nil hbad (by rw [hopc]; exact hop)
  have hat : SameSchedule c s (atCycle s c.site t) := by
    refine ⟨rfl, rfl, ?_, ?_, ?_⟩ <;> unfold atCycle <;> rw [State.site_setSite_same]
  have hnil := placeAll_quiet (u := 1) (n := c.n) (as := []) (atCycle_quiet hq) (fun a ha => absurd ha List.not_mem_nil)
  have hplaced : SameSchedule c s (placeAll (atCycle s c.site t) c.site t []).st := hat.trans hnil.schedule
  have hcore : (placeAll (atCycle s c.site t) c.site t []).st.core c = s.core c := hnil.core c
  have hquiet : Quiet (placeAll (atCycle s c.site t) c.site t []).st c t := fun o ho => by
    rw [hnil.here, List.append_nil] at ho
    exact atCycle_quiet hq o (List.mem_filter.1 ho).1
  have hframe : CoreFrame c [] s (placeAll (atCycle s c.site t) c.site t []).st := (atCycle_frame c [] s t).trans (hnil.frame (CoreFrame.refl _ _ _))
  rw [hat.hopFind] at he
  simp only [hat.lkAcc] at hlate
  generalize (placeAll (atCycle s c.site t) c.site t []).st = v at *
  have heff := lkEffect_eq t (s.core c).nextPc (by rw [hopc]; exact hop) ((hplaced.hopFind _).trans he)
  have hset : SameSchedule c s (v.setCore c (bindCore v c (lkOf op a) (s.core c).nextPc)) := hplaced.trans ⟨rfl, rfl, rfl, rfl, rfl⟩
  have hbind : (bindCore v c (lkOf op a) (s.core c).nextPc).binds = (s.core c).binds ++ [lkBind s c (op = 2) a] := by
    unfold bindCore lkBind
    rw [hcore, hopc, hid, hbb, hnb, hline, hrl]
    rcases hop with rfl | rfl <;> rfl
  have hg := placeAll_quiet (s := v.setCore c (bindCore v c (lkOf op a) (s.core c).nextPc)) (site := c.site) hquiet
    (lkAcc_own (lk := lkOf op a) (pc := (s.core c).nextPc) (by rw [hset.lkAcc]; exact hlate))
  refine ⟨e, _, by rw [← hid]; exact he, ⟨?_, hg.mem.trans hplaced.mem, hg.frame (hframe.setCore _)⟩, ?_⟩
  · rw [hg.core, State.core_setCore_same, hbind]
  · rw [heff, hopc, hg.lost]

end

theorem CoreFrame.withOut {c : CoreId} {ks : List Nat} {s u : State} (h : CoreFrame c ks s u) (os : List Out) :
    CoreFrame c ks { s with out := os } { u with out := os } :=
  ⟨congrArg (fun v : State => { v with out := os }) h.rest, ⟨h.regs.find⟩, h.cores, h.sites⟩

/-- Settles O22: the bindings of R164, and the beats of R163 with the poison of R316. -/
theorem linkOperationsBind : Obligations.LinkOperationsBind := by
  unfold Obligations.LinkOperationsBind
  intro s c h a t _ hq keys
  refine ⟨fun hi => ?recv, fun hi hstop => ?send⟩
  case recv =>
    obtain ⟨e, w, _, hbound, heff⟩ := lkEffect_issued hi hq (Or.inr rfl)
    have hl := bundleEffect_lk (atCycle s c.site t) c t (s.core c).nextPc h (op := 2) (by decide) (by decide) a
    rw [heff, if_neg (by decide)] at hl
    refine ⟨_, lkRow_issued hi, hl.binds.trans hbound.binds, hl.mem.trans hbound.mem, ?_⟩
    exact (hbound.frame.mono (List.nil_subset _)).trans (hl.frame.mono (keysOf_subset (List.subset_append_left _ _)))
  case send =>
    obtain ⟨e, w, he, hbound, heff⟩ := lkEffect_issued hi hq (Or.inl rfl)
    have hl := bundleEffect_lk (atCycle s c.site t) c t (s.core c).nextPc h (op := 1) (by decide) (by decide) a
    rw [heff, if_pos rfl] at hl
    have hplain : isShadow w c.site = false := by
      unfold isShadow
      rw [hbound.frame.regs.rd _ _ List.not_mem_nil]
      exact hi.plain
    have hstops : egressStops w c = false := by
      unfold egressStops
      rw [hbound.frame.regs.rd _ _ List.not_mem_nil]
      exact hstop
    have hbinds : (w.core c).binds = (s.core c).binds ++ [lkBind s c false a] := hbound.binds
    have hsent := sendBeats_sent (op := 1) (a := a) (by decide) hi.core hplain hstops e (s.core c).nextPc (hopBeats e)
    generalize upTo (hopBeats e) (sendBeat c (lkOf 1 a) e (s.core c).nextPc []) w = v at *
    refine ⟨_, e, he, lkRow_issued hi, ?_, ?_, hl.mem.trans (hsent.mem.trans hbound.mem), ?_⟩
    · rw [hl.binds, ← hbinds]
      unfold State.core
      rw [hsent.cores]
    · rw [hl.frame.out, hsent.out, hbound.frame.out]
      unfold sentBeat
      rw [hbound.mem]
    · have hout := hl.frame.withOut w.out
      rw [hbound.frame.out] at hout
      have hframe := hsent.frame
      rw [hbound.frame.out] at hframe
      exact ((hbound.frame.mono (List.nil_subset _)).trans (hframe.mono (keysOf_subset (List.subset_append_right _ _)))).trans
        (hout.mono (keysOf_subset (List.subset_append_left _ _)))

end Sys2Proof.Machine
end

section
/-! PROOFS. Keys of the pages of a site, what a record of the log and an interrupt change, and what a suspect event sets (R24, R326, R364, R414, R447). -/

namespace Sys2Proof.Machine

/-! ### Keys of site pages (R364) -/

/-- Fields of site pages at two places have two keys: another site, another page of the group, or another place in the page. -/
theorem sitePageKey_ne {i j a b : Nat} {f g : Fld} (hf : Paged f) (hg : Paged g) (ha : a < 256) (hb : b < 256)
    (h : i ≠ j ∨ a ≠ b ∨ f.off * 32 + f.lsb ≠ g.off * 32 + g.lsb) :
    fldKey (siteP i (0x1000 * a)) f ≠ fldKey (siteP j (0x1000 * b)) g := by
  obtain ⟨hfx, hfo⟩ := hf
  obtain ⟨hgx, hgo⟩ := hg
  unfold fldKey siteP
  rw [hfx, hgx, if_neg Bool.false_ne_true, if_neg Bool.false_ne_true]
  omega

/-- A field of a site page is no key of the panel. -/
theorem sitePageKey_not_panel {i o : Nat} {f : Fld} (hf : Paged f) (hi : i < 2 ^ 40) (ho : o < 0x100000) : ¬ panelKey (fldKey (siteP i o) f) := by
  have := paged_key (p := siteP i o) hf
  unfold panelKey
  unfold siteP at *
  omega

/-! ### Registers -/

section
variable {s t : State}

theorem State.rd_bump_same {p : Nat} {f : Fld} {k : Nat} (hk : k ≠ 0) : (s.bump p f k).rd p f = satAdd (2 ^ f.w - 1) (s.rd p f) k := by
  have hlt : satAdd (2 ^ f.w - 1) (s.rd p f) k < 2 ^ f.w := by
    have := Nat.two_pow_pos f.w
    unfold satAdd
    omega
  rw [State.bump, if_neg hk, State.rd_wr_same, Nat.mod_eq_of_lt hlt]

theorem State.rd_bump_ne {p q : Nat} {f g : Fld} {k : Nat} (h : fldKey p f ≠ fldKey q g) : (s.bump p f k).rd q g = s.rd q g := by
  unfold State.bump
  split
  · rfl
  · exact State.rd_wr_ne _ _ _ _ _ _ h

theorem rd_bump_apart (s : State) (f g : Fld) (p k : Nat) (h : f.ix = g.ix ∧ f.off * 32 + f.lsb ≠ g.off * 32 + g.lsb) :
    (s.bump p f k).rd p g = s.rd p g := State.rd_bump_ne (fldKey_ne h.1 h.2)

/-- A count, and nothing else. -/
theorem OnlyRegs.bump (s : State) (p : Nat) (f : Fld) (k : Nat) : OnlyRegs (keysOf p [f]) s (s.bump p f k) := by
  refine ⟨?_, (Off.refl _ s).bump (keysOf_mem (List.mem_singleton_self _))⟩
  unfold State.bump
  split <;> rfl

theorem OnlyRegs.wr (s : State) (p : Nat) (f : Fld) (v : Nat) : OnlyRegs (keysOf p [f]) s (s.wr p f v) :=
  ⟨rfl, (Off.refl _ s).wr (keysOf_mem (List.mem_singleton_self _))⟩

/-! ### Records and interrupts -/

/-- Nothing but registers and the records of the log changes. -/
structure Logged (s t : State) : Prop where
  rest : t = { s with regs := t.regs, logRam := t.logRam, logLost := t.logLost }

theorem Logged.refl (s : State) : Logged s s := ⟨rfl⟩

theorem Logged.trans {u : State} (h : Logged s t) (g : Logged t u) : Logged s u := by
  have hs := h.rest
  have ht := g.rest
  rw [hs] at ht
  exact ⟨ht⟩

theorem Logged.ite {p : Prop} [Decidable p] {u : State} (h : Logged s t) (g : Logged s u) : Logged s (if p then t else u) := by
  split <;> assumption

theorem Logged.wr (h : Logged s t) (p : Nat) (f : Fld) (v : Nat) : Logged s (t.wr p f v) := h.trans ⟨rfl⟩

theorem Logged.setBit (h : Logged s t) (p : Nat) (f : Fld) : Logged s (t.setBit p f) := h.trans ⟨rfl⟩

theorem Logged.bump (h : Logged s t) (p : Nat) (f : Fld) (k : Nat) : Logged s (t.bump p f k) := Logged.ite h (h.wr _ _ _)

theorem Logged.withLog (s : State) (l : List LogRec) (n : Nat) : Logged s { s with logRam := l, logLost := n } := ⟨rfl⟩

theorem logEnter_logged (s : State) (tag rec : Nat) : Logged s (logEnter s tag rec) := by
  unfold logEnter
  exact (Logged.withLog s _ _).wr _ _ _

theorem logAdd_logged (s : State) (tag rec : Nat) : Logged s (logAdd s tag rec) := by
  have drop : ∀ (u : State) (n : Nat), Logged u (({ u with logLost := n }.bump logP Reg.Lo.LOG_DROP_CNT 1).setBit logP Reg.Lo.DROP) :=
    fun u n => ((Logged.withLog u _ n).bump _ _ _).setBit _ _
  unfold logAdd
  extract_lets gap u
  have hu : Logged s u := (Logged.withLog s _ 0).trans (logEnter_logged ..)
  clear_value u
  exact Logged.ite (drop s _) (Logged.ite (logEnter_logged ..) (Logged.ite (hu.trans (drop u 1)) (hu.trans (logEnter_logged ..))))

theorem siteEvent_logged (s : State) (i code sev page : Nat) (tb : List RegDef) (sub n : Nat) : Logged s (siteEvent s i code sev page tb sub n) :=
  logAdd_logged ..

theorem Logged.regions (h : Logged s t) : t.regions = s.regions := by rw [h.rest]

theorem Logged.sites (h : Logged s t) : t.sites = s.sites := by rw [h.rest]

/-- What an interrupt to PF0 changes beside the registers. -/
theorem pfSet_rest (s : State) (b : Nat) : pfSet s b = { s with regs := (pfSet s b).regs, out := (pfSet s b).out } := by
  unfold pfSet
  extract_lets was u
  split
  · unfold pfVector
    extract_lets up h0
    split <;> rfl
  · rfl

/-! ### What stays a fault -/

/-- No region that takes a fault has lost it. -/
structure FaultsStand (s t : State) : Prop where
  kept : ∀ r, (s.region r).faultAt ≠ none → (t.region r).faultAt ≠ none

theorem FaultsStand.refl (s : State) : FaultsStand s s := ⟨fun _ h => h⟩

theorem FaultsStand.trans {u : State} (h : FaultsStand s t) (g : FaultsStand t u) : FaultsStand s u := ⟨fun r hr => g.kept r (h.kept r hr)⟩

theorem FaultsStand.ofRegions (h : t.regions = s.regions) : FaultsStand s t := ⟨fun r hr => by unfold State.region at *; rw [h]; exact hr⟩

theorem FaultsStand.wr (h : FaultsStand s t) (p : Nat) (f : Fld) (v : Nat) : FaultsStand s (t.wr p f v) := h.trans (FaultsStand.ofRegions rfl)

theorem FaultsStand.setSite (h : FaultsStand s t) (i : Nat) (v : Site) : FaultsStand s (t.setSite i v) := h.trans (FaultsStand.ofRegions rfl)

theorem FaultsStand.baWrite (h : FaultsStand s t) (p r : Nat) (f : Fld) (v : Nat) : FaultsStand s (baWrite t p r f v) :=
  h.trans (FaultsStand.ofRegions rfl)

theorem FaultsStand.logged (h : FaultsStand s t) {u : State} (g : Logged t u) : FaultsStand s u := h.trans (FaultsStand.ofRegions g.regions)

theorem FaultsStand.ite {p : Prop} [Decidable p] {u : State} (h : FaultsStand s t) (g : FaultsStand s u) : FaultsStand s (if p then t else u) := by
  split <;> assumption

theorem FaultsStand.foldl {β : Type} {g : State → β → State} (hg : ∀ u a, FaultsStand u (g u a)) (l : List β) (u : State) :
    FaultsStand u (l.foldl g u) := by
  induction l generalizing u with
  | nil => exact FaultsStand.refl u
  | cons a l ih => exact (hg u a).trans (ih _)

theorem FaultsStand.setRegion (s : State) (r : Nat) {g : Region} (h : (s.region r).faultAt ≠ none → g.faultAt ≠ none) :
    FaultsStand s (s.setRegion r g) := by
  refine ⟨fun k hk => ?_⟩
  by_cases hr : r = k
  · subst hr
    rw [State.region_setRegion_same]
    exact h hk
  · rwa [State.region_setRegion_ne _ _ _ _ hr]

/-- R170: a region of the panel that takes a fault. -/
theorem faultRegion_faulted (s : State) {r : Nat} (hr : r < 16) (fc k : Nat) : ((faultRegion s r fc k).region r).faultAt ≠ none := by
  unfold faultRegion
  rw [if_neg (Nat.not_le.2 hr), State.region_setRegion_same]
  dsimp only
  split
  · split <;> exact Option.some_ne_none _
  · exact Option.some_ne_none _

theorem faultRegion_stands (s : State) (r fc k : Nat) : FaultsStand s (faultRegion s r fc k) := by
  by_cases hr : r < 16
  · have h := faultRegion_faulted s hr fc k
    unfold faultRegion at h ⊢
    rw [if_neg (Nat.not_le.2 hr)] at h ⊢
    rw [State.region_setRegion_same] at h
    exact FaultsStand.setRegion s r (fun _ => h)
  · unfold faultRegion
    rw [if_pos (Nat.le_of_not_lt hr)]
    exact FaultsStand.refl s

theorem faultRow_stands (s : State) (y : Nat) : FaultsStand s (faultRow s y) := FaultsStand.foldl (fun _ _ => faultRegion_stands _ _ _ _) _ _

theorem outOfService_stands (s : State) (b : Bool) : FaultsStand s { s with outOfService := b } := FaultsStand.ofRegions rfl

theorem remapRefuse_stands (s : State) (i : Nat) : FaultsStand s (remapRefuse s i) := by
  unfold remapRefuse
  exact FaultsStand.ite (FaultsStand.ofRegions rfl) (FaultsStand.refl s)

/-- R24: a site that fails takes no fault back. -/
theorem siteFail_stands (s : State) (i : Nat) (link : Bool) : FaultsStand s (siteFail s i link) := by
  unfold siteFail
  extract_lets y st again role s1 s2 s3 s4 s5 s6 s7
  have h1 : FaultsStand s s1 := ((FaultsStand.refl s).setSite ..).trans (remapRefuse_stands ..)
  have h2 : FaultsStand s s2 := h1.wr ..
  have h3 : FaultsStand s s3 := h2.trans (faultRow_stands ..)
  have h5 : FaultsStand s s5 := (h2.wr ..).wr ..
  have h6 : FaultsStand s s6 := h5.trans (faultRow_stands ..)
  have h7 : FaultsStand s s7 := FaultsStand.ite (h5.wr ..) h5
  exact FaultsStand.ite (FaultsStand.ite (h3.trans (outOfService_stands ..)) h3) (FaultsStand.ite (h6.trans (outOfService_stands ..))
    (h7.logged (siteEvent_logged ..)))

/-- R326: a suspect event takes no fault back. -/
theorem suspect_stands (s : State) (i : Nat) : FaultsStand s (suspect s i) := by
  unfold suspect
  extract_lets p s1 x r act m s2 s3 g s4
  have h1 : FaultsStand s s1 := (FaultsStand.refl s).logged (((Logged.refl s).setBit ..).bump ..)
  have hact : ∀ u, FaultsStand s u → FaultsStand s (act u) := fun u h => h.setSite ..
  have h2 : FaultsStand s s2 := (h1.baWrite ..).wr ..
  have h3 : FaultsStand s s3 := h1.wr ..
  have h4 : FaultsStand s s4 := h3.trans (FaultsStand.setRegion s3 r (fun h => h))
  clear_value s4 s3 s2 s1 act
  exact FaultsStand.ite h1 (FaultsStand.ite (hact _ (h2.logged (siteEvent_logged ..))) (FaultsStand.ite h1
    (FaultsStand.ite (hact _ (h4.logged (siteEvent_logged ..))) (FaultsStand.ite (hact _ (h1.trans (siteFail_stands ..))) h1))))

end

/-! ### A suspect site (R326) -/

/-- The keys that a site which fails writes (R24, R407, R414): its role, and keys of the panel. -/
def failKey (i k : Nat) : Prop := k = fldKey (commonP i) Reg.Sc.ROLE ∨ panelKey k

theorem failKey_map (i : Nat) {f : Fld} (h : f.ix = true ∨ Paged f) : failKey i (fldKey mapP f) :=
  Or.inr (h.elim panelKey_ix (fun h => panelKey_paged h (by decide)))

theorem failKey_log (i : Nat) : ∀ k ∈ logKeys, failKey i k := fun k hk => Or.inr (logKeys_panel k hk)

section
variable {α : Type} {π : Site → α}

theorem siteFail_failKey (hf : ∀ x : Site, π { x with failed := true } = π x) (s : State) (i : Nat) (link : Bool) :
    Aside π (failKey i) s (siteFail s i link) := by
  unfold siteFail
  extract_lets y st again role s1 s2 s3 s4 s5 s6 s7
  have h1 : Aside π (failKey i) s s1 := remapRefuse_aside ((Aside.refl s).setSite (hf _)) i (failKey_map i (Or.inr ⟨rfl, by decide⟩))
    (failKey_map i (Or.inr ⟨rfl, by decide⟩))
  have h2 : Aside π (failKey i) s s2 := h1.orBits (Or.inr (panelKey_ix rfl))
  have h3 : Aside π (failKey i) s s3 := faultRow_aside h2 y
  have h4 : Aside π (failKey i) s s4 := h2.wr (Or.inl rfl)
  have h5 : Aside π (failKey i) s s5 := h4.orBits (failKey_map i (Or.inl rfl))
  have h6 : Aside π (failKey i) s s6 := faultRow_aside h5 y
  have h7 : Aside π (failKey i) s s7 := Aside.ite (h5.wr (failKey_map i (Or.inr ⟨rfl, by decide⟩))) h5
  exact Aside.ite (Aside.ite (outOfService_aside h3 true) h3)
    (Aside.ite (outOfService_aside h6 true) (siteEvent_aside h7 (failKey_log i) _ _ _ _ _ _ _))

/-- The keys that a suspect event writes beside SUSPECT and its counter. -/
def marginKey (i k : Nat) : Prop := k = fldKey (relP i) Reg.Re.MARGIN_STEP ∨ failKey i k

/-- R326: a suspect event sets SUSPECT and counts, and writes neither again. -/
theorem suspect_noted (hh : ∀ (x : Site) n, π { x with holdOff := n } = π x) (hf : ∀ x : Site, π { x with failed := true } = π x) (s : State)
    (i : Nat) : Aside π (marginKey i) ((s.setBit (relP i) Reg.Re.SUSPECT).bump (relP i) Reg.Re.SUSPECT_CNT 1) (suspect s i) := by
  have hlog : ∀ k ∈ logKeys, marginKey i k := fun k hk => Or.inr (failKey_log i k hk)
  unfold suspect
  extract_lets p s1 x r act m s2 s3 g s4
  have h1 : Aside π (marginKey i) s1 s1 := Aside.refl s1
  have hact : ∀ u, Aside π (marginKey i) s1 u → Aside π (marginKey i) s1 (act u) := fun u h => h.setSite (hh _ _)
  have h2 : Aside π (marginKey i) s1 s2 := (baWrite_aside h1 _ _ _ _).setBit (Or.inl rfl)
  have h3 : Aside π (marginKey i) s1 s3 := h1.orBits (Or.inr (Or.inr (panelKey_paged ⟨rfl, by decide⟩ (by decide))))
  have h4 : Aside π (marginKey i) s1 s4 := setRegion_aside h3 _ _
  have hfail : Aside π (marginKey i) s1 (siteFail s1 i false) := (siteFail_failKey hf s1 i false).mono (fun _ => Or.inr)
  have hs1 : s1 = (s.setBit (relP i) Reg.Re.SUSPECT).bump (relP i) Reg.Re.SUSPECT_CNT 1 := rfl
  rw [← hs1]
  clear_value s4 s3 s2 s1 act
  exact Aside.ite h1 (Aside.ite (hact _ (siteEvent_aside h2 hlog _ _ _ _ _ _ _)) (Aside.ite h1
    (Aside.ite (hact _ (siteEvent_aside h4 hlog _ _ _ _ _ _ _)) (Aside.ite (hact _ hfail) h1))))

end

theorem siteKey_not_margin {i a : Nat} {f : Fld} (hi : i < 256) (ha : a < 256) (hf : Paged f) (h0 : a ≠ 0)
    (h : a ≠ 0x17 ∨ f.off * 32 + f.lsb ≠ Reg.Re.MARGIN_STEP.off * 32 + Reg.Re.MARGIN_STEP.lsb) :
    ¬ marginKey i (fldKey (siteP i (0x1000 * a)) f) := by
  rintro (e | e | e)
  · exact sitePageKey_ne (b := 0x17) hf (⟨rfl, by decide⟩ : Paged Reg.Re.MARGIN_STEP) ha (by decide) (Or.inr h) e
  · exact sitePageKey_ne (b := 0) hf (⟨rfl, by decide⟩ : Paged Reg.Sc.ROLE) ha (by decide) (Or.inr (Or.inl h0)) e
  · exact sitePageKey_not_panel hf (by omega) (by omega) e

/-- R326: the site shows that it is suspect. -/
theorem suspect_suspect (s : State) {i : Nat} (hi : i < 256) : (suspect s i).rd (relP i) Reg.Re.SUSPECT = 1 := by
  have h := suspect_noted (π := fun _ => ()) (fun _ _ => rfl) (fun _ => rfl) s i
  have hk : ¬ marginKey i (fldKey (relP i) Reg.Re.SUSPECT) := siteKey_not_margin (a := 0x17) hi (by decide) ⟨rfl, by decide⟩ (by decide) (Or.inr (by decide))
  rw [h.rd hk, State.rd_bump_ne (f := Reg.Re.SUSPECT_CNT) (g := Reg.Re.SUSPECT) (fldKey_ne rfl (by decide)), State.setBit, State.rd_wr_same]
  rfl

/-- R326: a field of the site's pages that a suspect event does not write. -/
theorem suspect_rd (s : State) {i a : Nat} {f : Fld} (hi : i < 256) (ha : a < 256) (hf : Paged f) (h0 : a ≠ 0) (h : a ≠ 0x17) :
    (suspect s i).rd (siteP i (0x1000 * a)) f = s.rd (siteP i (0x1000 * a)) f := by
  have hn := suspect_noted (π := fun _ => ()) (fun _ _ => rfl) (fun _ => rfl) s i
  rw [hn.rd (siteKey_not_margin hi ha hf h0 (Or.inl h)), State.rd_bump_ne, State.setBit, State.rd_wr_ne]
  · exact sitePageKey_ne (a := 0x17) ⟨rfl, by decide⟩ hf (by decide) ha (Or.inr (Or.inl h.symm))
  · exact sitePageKey_ne (a := 0x17) ⟨rfl, by decide⟩ hf (by decide) ha (Or.inr (Or.inl h.symm))

end Sys2Proof.Machine
end

section
/-! PROOFS. Clock faults (R126, R275 to R277, R282, R321, R413): what a droop costs an island, a port that falls out of the mesh, samples
beyond their limits, and a root that fails. -/

namespace Sys2Proof.Machine

/-! ### Stretch and lag (R126, R277) -/

section
variable (s : State) (u d : Nat)

/-- R277: what a stretch leaves of the site that it costs `u` sixteenths of a cycle. -/
structure Stretched (k : Nat) (t : State) : Prop where
  loss : (t.site k).loss = (s.site k).loss + u
  depth : d ≤ (t.site k).depth
  lag : t.rd (tniP k) Reg.Tn.LAG_NOW =
    min 0xFFFF (s.rd (tniP k) Reg.Tn.LAG_NOW + (((s.site k).loss + u) / 16 - (s.site k).loss / 16))

theorem addLag_rd_same (i n : Nat) : (addLag s i n).rd (tniP i) Reg.Tn.LAG_NOW = min 0xFFFF (s.rd (tniP i) Reg.Tn.LAG_NOW + n) := by
  have hlt : min 0xFFFF (s.rd (tniP i) Reg.Tn.LAG_NOW + n) < 2 ^ 16 := by omega
  unfold addLag
  rw [State.rd_wr_same]
  exact Nat.mod_eq_of_lt hlt

theorem lagKey_ne {i k : Nat} (h : i ≠ k) : fldKey (tniP i) Reg.Tn.LAG_NOW ≠ fldKey (tniP k) Reg.Tn.LAG_NOW :=
  sitePageKey_ne (a := 0x12) (b := 0x12) ⟨rfl, by decide⟩ ⟨rfl, by decide⟩ (by decide) (by decide) (Or.inl h)

theorem addLoss_stretched (k : Nat) : Stretched s u d k (addLoss s k u d) := by
  unfold addLoss
  extract_lets st whole v
  have hv : v.site k = { st with loss := st.loss + u, lost := min 0xFFFF (st.lost + whole), depth := max st.depth d } :=
    State.site_setSite_same ..
  have hsite : ((addLag v k whole).site k).loss = (v.site k).loss ∧ ((addLag v k whole).site k).depth = (v.site k).depth := by
    unfold addLag
    rw [State.site_wr, State.site_setSite_same]
    exact ⟨rfl, rfl⟩
  exact ⟨hsite.1.trans (by rw [hv]), by rw [hsite.2, hv]; exact Nat.le_max_right .., addLag_rd_same v k whole⟩

theorem addLoss_site_ne {j k : Nat} (h : j ≠ k) : (addLoss s j u d).site k = s.site k := by
  unfold addLoss addLag
  rw [State.site_wr, State.site_setSite_ne _ _ _ _ h, State.site_setSite_ne _ _ _ _ h]

theorem addLoss_rd_ne {j p : Nat} {f : Fld} (h : fldKey (tniP j) Reg.Tn.LAG_NOW ≠ fldKey p f) : (addLoss s j u d).rd p f = s.rd p f := by
  unfold addLoss addLag
  rw [State.rd_wr_ne _ _ _ _ _ _ h]
  rfl

/-- A field other than LAG_NOW of every site. -/
theorem addLosses_rd {l : List Nat} {p : Nat} {f : Fld} (h : ∀ j ∈ l, fldKey (tniP j) Reg.Tn.LAG_NOW ≠ fldKey p f) :
    (l.foldl (fun s k => addLoss s k u d) s).rd p f = s.rd p f := by
  induction l generalizing s with
  | nil => rfl
  | cons a l ih =>
    exact (ih _ (fun j hj => h j (List.mem_cons_of_mem a hj))).trans (addLoss_rd_ne s u d (h a List.mem_cons_self))

theorem addLosses_site {l : List Nat} {k : Nat} (h : k ∉ l) : (l.foldl (fun s k => addLoss s k u d) s).site k = s.site k := by
  induction l generalizing s with
  | nil => rfl
  | cons a l ih =>
    have hne : a ≠ k := fun e => h (e ▸ List.mem_cons_self)
    exact (ih _ (fun hk => h (List.mem_cons_of_mem a hk))).trans (addLoss_site_ne s u d hne)

/-- R276: each site of the list is stretched once. -/
theorem addLosses_stretched {l : List Nat} (hl : l.Nodup) {k : Nat} (hk : k ∈ l) :
    Stretched s u d k (l.foldl (fun s k => addLoss s k u d) s) := by
  induction l generalizing s with
  | nil => exact absurd hk List.not_mem_nil
  | cons a l ih =>
    obtain ⟨ha, hnd⟩ := List.nodup_cons.1 hl
    rw [List.foldl_cons]
    by_cases hka : k = a
    · subst hka
      obtain ⟨hloss, hdepth, hlag⟩ := addLoss_stretched s u d k
      have hsite := addLosses_site (addLoss s k u d) u d ha
      exact ⟨by rw [hsite, hloss], by rw [hsite]; exact hdepth,
        by rw [addLosses_rd _ _ _ (fun j hj => lagKey_ne (ne_of_mem_of_not_mem hj ha)), hlag]⟩
    · obtain ⟨hloss, hdepth, hlag⟩ := ih (addLoss s a u d) hnd ((List.mem_cons.1 hk).resolve_left hka)
      have hsite := addLoss_site_ne s u d (Ne.symm hka)
      have hrd := addLoss_rd_ne s u d (lagKey_ne (Ne.symm hka))
      exact ⟨by rw [hloss, hsite], hdepth, by rw [hlag, hsite, hrd]⟩

end

/-- R276: the sites that a droop on site `i` stretches. -/
def droopSites (s : State) (i : Nat) : List Nat :=
  if islandOf s i < 16 then (List.range 256).filter (fun k => islandOf s k = islandOf s i) else [i]

theorem mem_droopSites {s : State} {i k : Nat} (hk : k < 256) (h : k = i ∨ (islandOf s i < 16 ∧ islandOf s k = islandOf s i)) :
    k ∈ droopSites s i := by
  unfold droopSites
  split
  next hr => exact List.mem_filter.2 ⟨List.mem_range.2 hk, decide_eq_true (h.elim (congrArg _) And.right)⟩
  next hr => exact List.mem_singleton.2 (h.resolve_right (fun g => hr g.1))

theorem droopSites_nodup (s : State) (i : Nat) : (droopSites s i).Nodup := by
  unfold droopSites
  split
  · exact List.nodup_range.filter _
  · exact List.nodup_singleton i

/-- A droop of depth `d` on site `i` is noted, before it costs cycles. -/
def droopNoted (s : State) (i d : Nat) : State :=
  let s := s.setBit (sclkP i) Reg.Ck.STRETCHING
  if d = 8 then s.setBit (sclkP i) Reg.Ck.STRETCH_MAX else s

theorem droop_eq {s : State} {i v : Nat} (h : 0 < stretchDepth s i v) (loss : Nat) : droop s i v loss =
    (droopSites s i).foldl (fun u k => addLoss u k loss (stretchDepth s i v)) (droopNoted s i (stretchDepth s i v)) := by
  have hisland : ∀ k, islandOf (droopNoted s i (stretchDepth s i v)) k = islandOf s k := fun k => by
    unfold droopNoted
    split <;> rfl
  unfold droop droopSites
  rw [if_neg (Nat.ne_of_gt h)]
  extract_lets s1 s2 r sites
  have h2 : s2 = droopNoted s i (stretchDepth s i v) := rfl
  have hsites : sites = if islandOf s i < 16 then (List.range 256).filter (fun k => islandOf s k = islandOf s i) else [i] := by
    simp only [sites, r, h2, hisland]
  rw [h2, hsites]

theorem droopNoted_site (s : State) (i d k : Nat) : (droopNoted s i d).site k = s.site k := by
  unfold droopNoted
  split <;> rfl

theorem droopNoted_lag (s : State) (i d k : Nat) : (droopNoted s i d).rd (tniP k) Reg.Tn.LAG_NOW = s.rd (tniP k) Reg.Tn.LAG_NOW := by
  have hne : ∀ f, Paged f → fldKey (sclkP i) f ≠ fldKey (tniP k) Reg.Tn.LAG_NOW := fun f hf =>
    sitePageKey_ne (a := 0x16) (b := 0x12) hf ⟨rfl, by decide⟩ (by decide) (by decide) (Or.inr (Or.inl (by decide)))
  unfold droopNoted
  split
  · rw [State.setBit, State.rd_wr_ne _ _ _ _ _ _ (hne _ ⟨rfl, by decide⟩), State.setBit, State.rd_wr_ne _ _ _ _ _ _ (hne _ ⟨rfl, by decide⟩)]
  · rw [State.setBit, State.rd_wr_ne _ _ _ _ _ _ (hne _ ⟨rfl, by decide⟩)]

theorem droopNoted_bits (s : State) (i d : Nat) : (droopNoted s i d).rd (sclkP i) Reg.Ck.STRETCHING = 1 ∧
    (d = 8 → (droopNoted s i d).rd (sclkP i) Reg.Ck.STRETCH_MAX = 1) := by
  unfold droopNoted
  refine ⟨?_, fun hd => by rw [if_pos hd, State.setBit, State.rd_wr_same]; rfl⟩
  split
  · rw [State.setBit, rd_wr_apart _ _ _ _ _ (by decide), State.setBit, State.rd_wr_same]
    rfl
  · rw [State.setBit, State.rd_wr_same]
    rfl

/-! ### Alarms (R282) -/

/-- What an alarm records of its bit. -/
theorem clockAlarm_eq (s : State) (i : Nat) (f : Fld) : ∃ u, clockAlarm s i f = suspect u i ∧
    Aside (fun _ => ()) (· ∈ logKeys) (s.setBit (sclkP i) f) u := by
  unfold clockAlarm
  extract_lets p s1 st s2
  have h1 : Aside (fun _ => ()) (· ∈ logKeys) s1 (s1.setSite i { st with clkLogged := st.clkLogged + 2 ^ f.lsb }) := (Aside.refl s1).setSite rfl
  exact ⟨s2, rfl, Aside.ite (Aside.refl s1) (siteEvent_aside h1 (fun _ hk => hk) _ _ _ _ _ _ _)⟩

/-- R282: an alarm sets its bit, and the site is suspect. -/
theorem clockAlarm_marks (s : State) {i : Nat} (hi : i < 256) {f : Fld} (hf : Paged f) (hw : f.w = 1) :
    (clockAlarm s i f).rd (sclkP i) f = 1 ∧ (clockAlarm s i f).rd (relP i) Reg.Re.SUSPECT = 1 := by
  obtain ⟨u, heq, hu⟩ := clockAlarm_eq s i f
  have hlog : fldKey (sclkP i) f ∉ logKeys := fun h => sitePageKey_not_panel hf (by omega) (by decide) (logKeys_panel _ h)
  have hset : u.rd (sclkP i) f = 1 := by
    rw [hu.rd hlog, State.setBit, State.rd_wr_same, hw]
    rfl
  rw [heq]
  exact ⟨(suspect_rd u (a := 0x16) hi (by decide) hf (by decide) (by decide)).trans hset, suspect_suspect u hi⟩

/-- R282: an alarm changes no other field of the clock page. -/
theorem clockAlarm_rd (s : State) {i : Nat} (hi : i < 256) {f g : Fld} (hf : Paged f) (hg : Paged g)
    (h : f.off * 32 + f.lsb ≠ g.off * 32 + g.lsb) : (clockAlarm s i f).rd (sclkP i) g = s.rd (sclkP i) g := by
  obtain ⟨u, heq, hu⟩ := clockAlarm_eq s i f
  have hlog : fldKey (sclkP i) g ∉ logKeys := fun h => sitePageKey_not_panel hg (by omega) (by decide) (logKeys_panel _ h)
  rw [heq]
  exact (suspect_rd u (a := 0x16) hi (by decide) hg (by decide) (by decide)).trans
    ((hu.rd hlog).trans (State.rd_wr_ne _ _ _ _ _ _ (fldKey_ne (hf.1.trans hg.1.symm) h)))

/-- R282: no suspect event writes a count of the histogram. -/
theorem histKey_not_suspect (i b : Nat) : fldKey (sclkP i) (Reg.Ck.JIT_HIST b) ∉ suspectKeys i := by
  unfold sclkP siteP
  simp [suspectKeys, logKeys, keysOf, fldKey, Reg.Ck.JIT_HIST, Reg.Re.SUSPECT, Reg.Re.SUSPECT_CNT, Reg.Re.MARGIN_STEP, Reg.Sc.ROLE,
    Reg.Pr.SUSPECT_REGIONS, Reg.Br.FAILED, Reg.Ma.RM_STATE, Reg.Ma.RM_CODE, Reg.Ma.MAP_CLASS, Reg.Ma.RETIRED, Reg.Lo.LOG_NEXT_SEQ,
    Reg.Lo.LOG_DROP_CNT, Reg.Lo.DROP, relP, commonP, siteP, prelP, bringP, mapP, logP]
  omega

theorem clockKey_ne_hist {i : Nat} {f : Fld} (hf : Paged f) (hi : i < 256) (b : Nat) :
    fldKey (sclkP i) f ≠ fldKey (sclkP i) (Reg.Ck.JIT_HIST b) := fun e =>
  sitePageKey_not_panel (i := i) (o := 0x16000) hf (by omega) (by decide)
    (show panelKey (fldKey (sclkP i) f) from e ▸ panelKey_ix (f := Reg.Ck.JIT_HIST b) rfl)

theorem clockAlarm_hist (s : State) (i : Nat) {f : Fld} (hf : Paged f) (hi : i < 256) (b : Nat) :
    (clockAlarm s i f).rd (sclkP i) (Reg.Ck.JIT_HIST b) = s.rd (sclkP i) (Reg.Ck.JIT_HIST b) := by
  obtain ⟨u, heq, hu⟩ := clockAlarm_eq s i f
  have hlog : fldKey (sclkP i) (Reg.Ck.JIT_HIST b) ∉ logKeys := fun h => histKey_not_suspect i b (List.mem_append_right _ h)
  rw [heq, (suspect_aside (π := fun _ => ()) (fun _ _ => rfl) (fun _ => rfl) u i).rd (histKey_not_suspect i b), hu.rd hlog]
  exact State.rd_wr_ne _ _ _ _ _ _ (clockKey_ne_hist hf hi b)

/-- R282: a sample is counted, and one beyond the limit sets the alarm of its source. -/
theorem jitterSample_counts (s : State) {i : Nat} (hi : i < 256) (dev : Int) (hst : s.rd (sclkP i) Reg.Ck.STRETCHING ≠ 1)
    (hse : s.rd (sclkP i) Reg.Ck.SETTLING ≠ 1) :
    let b := Reg.Ck.JIT_HIST (min 31 (max 0 (dev + 16))).toNat
    let t := jitterSample s i dev
    t.rd (sclkP i) b = satAdd (2 ^ b.w - 1) (s.rd (sclkP i) b) 1 ∧
    (s.rd (sclkP i) Reg.Ck.JIT_LIMIT < dev.natAbs →
      t.rd (sclkP i) (if s.rd (sclkP i) Reg.Ck.JIT_SRC = 0 then Reg.Ck.JIT_ROOT else Reg.Ck.JIT_CORE) = 1 ∧ t.rd (relP i) Reg.Re.SUSPECT = 1) ∧
    (dev.natAbs ≤ s.rd (sclkP i) Reg.Ck.JIT_LIMIT → OnlyRegs (keysOf (sclkP i) [b]) s t) := by
  unfold jitterSample
  generalize (min 31 (max 0 (dev + 16))).toNat = n
  intro b
  rw [if_neg (not_or.2 ⟨hst, hse⟩)]
  extract_lets m s1 t
  have hcount : s1.rd (sclkP i) b = satAdd (2 ^ b.w - 1) (s.rd (sclkP i) b) 1 := State.rd_bump_same Nat.one_ne_zero
  have hrd : ∀ f, Paged f → s1.rd (sclkP i) f = s.rd (sclkP i) f := fun f hf =>
    State.rd_bump_ne (clockKey_ne_hist hf hi _).symm
  have hlimit := hrd Reg.Ck.JIT_LIMIT ⟨rfl, by decide⟩
  have hsrc := hrd Reg.Ck.JIT_SRC ⟨rfl, by decide⟩
  by_cases hdev : dev.natAbs ≤ s.rd (sclkP i) Reg.Ck.JIT_LIMIT
  · have ht : t = s1 := if_pos (by rw [hlimit]; exact hdev)
    rw [ht]
    exact ⟨hcount, fun h => absurd hdev (Nat.not_le.2 h), fun _ => OnlyRegs.bump ..⟩
  · have ht : t = clockAlarm s1 i (if s.rd (sclkP i) Reg.Ck.JIT_SRC = 0 then Reg.Ck.JIT_ROOT else Reg.Ck.JIT_CORE) := by
      simp only [t, hlimit, hsrc, if_neg hdev]
    have hf : Paged (if s.rd (sclkP i) Reg.Ck.JIT_SRC = 0 then Reg.Ck.JIT_ROOT else Reg.Ck.JIT_CORE) := by split <;> exact ⟨rfl, by decide⟩
    have hw : (if s.rd (sclkP i) Reg.Ck.JIT_SRC = 0 then Reg.Ck.JIT_ROOT else Reg.Ck.JIT_CORE).w = 1 := by split <;> rfl
    rw [ht]
    exact ⟨(clockAlarm_hist s1 i hf hi _).trans hcount, fun _ => clockAlarm_marks s1 hi hf hw, fun h => absurd h hdev⟩

/-- R282: a window shows its deviation, and one beyond 20 sets the alarm of its clock. -/
theorem dutyWindow_shows (s : State) {i : Nat} (hi : i < 256) (core : Bool) (frac : Int) :
    let f := if core then Reg.Ck.DUTY_CORE_LAST else Reg.Ck.DUTY_ROOT_LAST
    let t := dutyWindow s i core frac
    t.rd (sclkP i) f = unsgn 8 frac ∧
    (20 < frac.natAbs → t.rd (sclkP i) (if core then Reg.Ck.DUTY_CORE else Reg.Ck.DUTY_ROOT) = 1 ∧ t.rd (relP i) Reg.Re.SUSPECT = 1) ∧
    (frac.natAbs ≤ 20 → OnlyRegs (keysOf (sclkP i) [f]) s t) := by
  intro f
  unfold dutyWindow
  extract_lets p s1 t
  have hlt : unsgn 8 frac < 2 ^ 8 := by
    unfold unsgn
    omega
  have hfw : f.w = 8 := by cases core <;> rfl
  have hshow : s1.rd p f = unsgn 8 frac := by
    rw [show s1 = s.wr p f (unsgn 8 frac) from rfl, State.rd_wr_same, hfw, Nat.mod_eq_of_lt hlt]
  by_cases hfrac : frac.natAbs ≤ 20
  · have ht : t = s1 := if_pos hfrac
    rw [ht]
    exact ⟨hshow, fun h => absurd hfrac (Nat.not_le.2 h), fun _ => OnlyRegs.wr ..⟩
  · have ht : t = clockAlarm (s1.bump p Reg.Ck.DUTY_ALARM_CNT 1) i (if core then Reg.Ck.DUTY_CORE else Reg.Ck.DUTY_ROOT) := if_neg hfrac
    have ha : Paged (if core then Reg.Ck.DUTY_CORE else Reg.Ck.DUTY_ROOT) ∧ (if core then Reg.Ck.DUTY_CORE else Reg.Ck.DUTY_ROOT).w = 1 := by
      cases core <;> exact ⟨⟨rfl, by decide⟩, rfl⟩
    have hf : Paged f := by cases core <;> exact ⟨rfl, by decide⟩
    have hkeep : t.rd p f = s1.rd p f := by
      rw [ht, clockAlarm_rd _ hi ha.1 hf (by cases core <;> decide), State.rd_bump_ne (fldKey_ne (by cases core <;> rfl) (by cases core <;> decide))]
    rw [ht] at hkeep ⊢
    exact ⟨hkeep.trans hshow, fun _ => clockAlarm_marks _ hi ha.1 ha.2, fun h => absurd h hfrac⟩

/-! ### A port beyond its bound (R275) -/

/-- What a coupled port that is lost leaves of the clock page before the event is recorded. -/
def unlocked (s : State) (i d : Nat) (phase : Int) : State :=
  let p := sclkP i
  let cp := s.rd p Reg.Ck.COUPLED
  let s := (s.setBit p Reg.Ck.LOCK_LOST).bump p Reg.Ck.LOCK_LOST_CNT 1
  let s := (s.wr p Reg.Ck.MESH_LOCKED 0).wr p Reg.Ck.COUPLED (cp - 2 ^ d)
  let ph := s.rd p Reg.Ck.PHASE
  let s := s.wr p Reg.Ck.PHASE (ph - bits ph (8 * d) 8 * 2 ^ (8 * d))
  let st := s.site i
  showFree (s.setSite i { st with phaseMax := max st.phaseMax phase.natAbs }) i

theorem lockLost_eq {s : State} {i d : Nat} {phase : Int} (hd : d < 4) (hc : bits (s.rd (sclkP i) Reg.Ck.COUPLED) d 1 = 1)
    (hp : 40 < phase.natAbs) :
    lockLost s i d phase = suspect (faultSite (siteEvent (unlocked s i d phase) i 0x10 2 (sclkP i) Reg.Ck.regs 0) i) i := by
  unfold lockLost
  extract_lets p cp
  rw [if_neg (by simp [cp, p, hc]; omega)]
  rfl

/-- One bit of a bitmap that is cut to four. -/
theorem bits_sub_two_pow {n d : Nat} (hd : d < 4) (h : bits n d 1 = 1) : bits ((n - 2 ^ d) % 2 ^ 4) d 1 = 0 := by
  unfold bits at *
  interval_cases d <;> omega

theorem unlocked_rd (s : State) {i d : Nat} (phase : Int) (hd : d < 4) (hc : bits (s.rd (sclkP i) Reg.Ck.COUPLED) d 1 = 1) :
    (unlocked s i d phase).rd (sclkP i) Reg.Ck.LOCK_LOST = 1 ∧ (unlocked s i d phase).rd (sclkP i) Reg.Ck.MESH_LOCKED = 0 ∧
      bits ((unlocked s i d phase).rd (sclkP i) Reg.Ck.COUPLED) d 1 = 0 := by
  unfold unlocked showFree State.setBit
  dsimp only
  simp only [State.rd_setSite]
  refine ⟨?_, ?_, ?_⟩
  · rw [rd_wr_apart _ _ _ _ _ (by decide), State.rd_setSite, rd_wr_apart _ _ _ _ _ (by decide), rd_wr_apart _ _ _ _ _ (by decide),
      rd_wr_apart _ _ _ _ _ (by decide), rd_bump_apart _ _ _ _ _ (by decide), State.rd_wr_same]
    rfl
  · rw [rd_wr_apart _ _ _ _ _ (by decide), State.rd_setSite, rd_wr_apart _ _ _ _ _ (by decide), rd_wr_apart _ _ _ _ _ (by decide),
      State.rd_wr_same]
    rfl
  · rw [rd_wr_apart _ _ _ _ _ (by decide), State.rd_setSite, rd_wr_apart _ _ _ _ _ (by decide), State.rd_wr_same]
    exact bits_sub_two_pow hd hc

theorem unlocked_region (s : State) (i d : Nat) (phase : Int) : ((unlocked s i d phase).site i).region = (s.site i).region := by
  unfold unlocked
  extract_lets p cp s1 s2 ph s3 st
  have h1 : Aside Site.region (fun _ => True) s s1 := ((Aside.refl s).setBit trivial).bump trivial
  have h3 : Aside Site.region (fun _ => True) s s3 := ((h1.wr trivial).wr trivial).wr trivial
  have h4 : Aside Site.region (fun _ => True) s (s3.setSite i { st with phaseMax := max st.phaseMax phase.natAbs }) := h3.setSite rfl
  clear_value s3
  unfold showFree
  exact (h4.wr trivial).sites i

/-- R275: a port beyond its bound. -/
theorem lockLost_marks (s : State) {i d : Nat} {phase : Int} (hi : i < 256) (hd : d < 4)
    (hc : bits (s.rd (sclkP i) Reg.Ck.COUPLED) d 1 = 1) (hp : 40 < phase.natAbs) :
    let t := lockLost s i d phase
    t.rd (sclkP i) Reg.Ck.LOCK_LOST = 1 ∧ t.rd (sclkP i) Reg.Ck.MESH_LOCKED = 0 ∧ bits (t.rd (sclkP i) Reg.Ck.COUPLED) d 1 = 0 ∧
      t.rd (relP i) Reg.Re.SUSPECT = 1 ∧ ((s.site i).region < 16 → (t.region (s.site i).region).faultAt ≠ none) := by
  intro t
  have ht : t = suspect (faultSite (siteEvent (unlocked s i d phase) i 0x10 2 (sclkP i) Reg.Ck.regs 0) i) i := lockLost_eq hd hc hp
  have hu := unlocked_rd s phase hd hc
  have hregion := unlocked_region s i d phase
  rw [ht]
  clear ht t
  generalize unlocked s i d phase = u at hu hregion ⊢
  have hlog := siteEvent_logged u i 0x10 2 (sclkP i) Reg.Ck.regs 0 1
  have hoff := siteEvent_off i 0x10 2 (sclkP i) Reg.Ck.regs 0 1 (Off.refl logKeys u) (List.Subset.refl _)
  generalize siteEvent u i 0x10 2 (sclkP i) Reg.Ck.regs 0 = v at hlog hoff ⊢
  have hrd : ∀ f, Paged f → (suspect (faultSite v i) i).rd (sclkP i) f = u.rd (sclkP i) f := fun f hf => by
    have hkey : fldKey (sclkP i) f ∉ logKeys := fun h => sitePageKey_not_panel hf (by omega) (by decide) (logKeys_panel _ h)
    have hfault : (faultSite v i).rd (sclkP i) f = v.rd (sclkP i) f := by
      unfold State.rd faultSite
      rw [faultRegion_regs]
    exact (suspect_rd _ (a := 0x16) hi (by decide) hf (by decide) (by decide)).trans (hfault.trans (hoff.rd _ _ hkey))
  have hsite : (v.site i).region = (s.site i).region := by
    rw [← hregion]
    unfold State.site
    rw [hlog.sites]
  rw [hrd _ ⟨rfl, by decide⟩, hrd _ ⟨rfl, by decide⟩, hrd _ ⟨rfl, by decide⟩]
  refine ⟨hu.1, hu.2.1, hu.2.2, suspect_suspect _ hi, fun hr => (suspect_stands _ i).kept _ ?_⟩
  rw [← hsite] at hr ⊢
  exact faultRegion_faulted v hr _ _

/-! ### A failed root (R321, R413) -/

theorem haltCore_state (s : State) (c d : CoreId) : (haltCore s d).rd (coreP c) Reg.Co.STATE = 2 → s.rd (coreP c) Reg.Co.STATE = 2 := by
  unfold haltCore
  split
  · intro h
    by_cases hkey : fldKey (coreP d) Reg.Co.STATE = fldKey (coreP c) Reg.Co.STATE
    · unfold State.rd at h
      rw [← hkey] at h
      have := State.rd_wr_same (s := s) (coreP d) Reg.Co.STATE 4
      unfold State.rd at this
      rw [this] at h
      exact absurd h (by decide)
    · rwa [State.rd_wr_ne _ _ _ _ _ _ hkey] at h
  · exact id

theorem haltCore_stops (s : State) (c : CoreId) : (haltCore s c).rd (coreP c) Reg.Co.STATE ≠ 2 := by
  unfold haltCore
  split
  · rw [State.rd_wr_same]
    decide
  · assumption

/-- R169: none of the cores runs on. -/
theorem haltCores_stop (l : List CoreId) (s : State) {c : CoreId} (h : c ∈ l ∨ s.rd (coreP c) Reg.Co.STATE ≠ 2) :
    (l.foldl haltCore s).rd (coreP c) Reg.Co.STATE ≠ 2 := by
  induction l generalizing s with
  | nil => exact h.resolve_left List.not_mem_nil
  | cons d l ih =>
    refine ih (haltCore s d) ?_
    rcases h with h | h
    · rcases List.mem_cons.1 h with rfl | h
      · exact Or.inr (haltCore_stops s c)
      · exact Or.inl h
    · exact Or.inr (fun g => h (haltCore_state s c d g))

theorem haltCore_rd (s : State) (c : CoreId) {p : Nat} {f : Fld} (h : fldKey (coreP c) Reg.Co.STATE ≠ fldKey p f) :
    (haltCore s c).rd p f = s.rd p f := by
  unfold haltCore
  split
  · exact State.rd_wr_ne _ _ _ _ _ _ h
  · rfl

theorem mem_coresOf {l : List Nat} {c : CoreId} (hc : c.site ∈ l) (hn : c.n < 8) : c ∈ coresOf l :=
  List.mem_flatMap.2 ⟨c.site, hc, List.mem_map.2 ⟨c.n, List.mem_range.2 hn, rfl⟩⟩

/-- Registers that a halt of cores does not write. -/
theorem haltCores_rd (l : List CoreId) (s : State) {p : Nat} {f : Fld} (h : ∀ c, fldKey (coreP c) Reg.Co.STATE ≠ fldKey p f) :
    (l.foldl haltCore s).rd p f = s.rd p f := by
  induction l generalizing s with
  | nil => rfl
  | cons c l ih => exact (ih _).trans (haltCore_rd s c (h c))

theorem coreState_ne_panel {p : Nat} {f : Fld} (hf : Paged f) (hp : p ≤ 0xFFFF000) (c : CoreId) :
    fldKey (coreP c) Reg.Co.STATE ≠ fldKey p f := by
  have hk := paged_key (p := p) hf
  have hc := paged_key (p := coreP c) (f := Reg.Co.STATE) ⟨rfl, by decide⟩
  unfold coreP siteP at *
  omega

/-- R170: the regions that are not free take faults, whatever else a fold of faults meets. -/
theorem faultRegions_faulted (l : List Nat) (s : State) {r : Nat} (hr : r < 16) (hst : regionState s r ≠ 0) (hl : r ∈ l) :
    ((l.foldl (fun s r => if regionState s r = 0 then s else faultNow s r) s).region r).faultAt ≠ none := by
  induction l generalizing s with
  | nil => exact absurd hl List.not_mem_nil
  | cons a l ih =>
    rw [List.foldl_cons]
    have hregs : (if regionState s a = 0 then s else faultNow s a).regs = s.regs := by
      split
      · rfl
      · exact faultRegion_regs ..
    rcases List.mem_cons.1 hl with rfl | hl
    · rw [if_neg hst]
      have hstep : ∀ u k, FaultsStand u (if regionState u k = 0 then u else faultNow u k) := fun u k =>
        FaultsStand.ite (FaultsStand.refl u) (faultRegion_stands ..)
      exact (FaultsStand.foldl hstep l _).kept r (faultRegion_faulted s hr _ _)
    · have hstate : regionState (if regionState s a = 0 then s else faultNow s a) r = regionState s r := by
        unfold regionState State.rd at hregs ⊢
        rw [hregs]
      exact ih _ (hstate ▸ hst) hl

/-- R285, R321: no core of the panel runs, and every region that is not free takes a fault. -/
structure Halted (s t : State) : Prop where
  cores : ∀ k n, k < 256 → n < 8 → t.rd (coreP ⟨k, n⟩) Reg.Co.STATE ≠ 2
  regions : ∀ r < 16, regionState s r ≠ 0 → (t.region r).faultAt ≠ none

theorem haltPanel_regs (s : State) : (haltPanel s).regs = ((coresOf (List.range 256)).foldl haltCore s).regs := by
  unfold haltPanel
  generalize (coresOf (List.range 256)).foldl haltCore s = u
  exact upTo_ind (P := fun _ (v : State) => v.regs = u.regs) rfl 16 (fun r _ (v : State) hv => by
    show (if regionState v r = 0 then v else faultNow v r).regs = u.regs
    split
    · exact hv
    · exact (faultRegion_regs ..).trans hv)

theorem haltPanel_halted (s : State) : Halted s (haltPanel s) := by
  refine ⟨fun k n hk hn => ?_, fun r hr hst => ?_⟩
  · unfold State.rd
    rw [haltPanel_regs]
    exact haltCores_stop _ s (Or.inl (mem_coresOf (List.mem_range.2 hk) hn))
  · unfold haltPanel upTo
    refine faultRegions_faulted (List.range 16) _ hr ?_ (List.mem_range.2 hr)
    have hrd : ((coresOf (List.range 256)).foldl haltCore s).rd regionP (Reg.Rg.STATE r) = s.rd regionP (Reg.Rg.STATE r) :=
      haltCores_rd _ s (coreState_ne_panel ⟨rfl, by simp only [Reg.Rg.STATE]; omega⟩ (by decide))
    unfold regionState at hst ⊢
    rwa [hrd]

theorem haltPanel_rd (s : State) {p : Nat} {f : Fld} (hf : Paged f) (hp : p ≤ 0xFFFF000) : (haltPanel s).rd p f = s.rd p f := by
  unfold State.rd
  rw [haltPanel_regs]
  exact haltCores_rd _ s (coreState_ne_panel hf hp)

/-- R321: what a panel-level error writes of the reliability page, after the halt. -/
def errorShown (s : State) (code : Nat) (hub : Bool) (idx : Nat) : State :=
  (((s.wr prelP Reg.Pr.PANEL_ERR 1).wr prelP Reg.Pr.PANEL_ERR_CODE code).wr prelP Reg.Pr.SRC_IS_HUB (if hub then 1 else 0)).wr prelP
    Reg.Pr.SRC_INDEX idx

/-- The keys that its record and its interrupt write. -/
def tellKeys : List Nat := logKeys ++ [fldKey idP (pfBit intPanelErr)]

/-- R321: a panel-level error halts the panel, shows itself, and tells of itself. -/
structure PanelErred (s w t : State) : Prop where
  off : Off tellKeys w t
  regions : t.regions = s.regions
  out : t.outOfService = true

theorem errorShown_regions (s : State) (code : Nat) (hub : Bool) (idx : Nat) : (errorShown s code hub idx).regions = s.regions := rfl

/-- What a panel-level error tells, and that the panel is out of service. -/
theorem outOfService_told (w : State) (rec tag : Nat) (o : Out) :
    PanelErred w w ((pfSet (logAdd { w with outOfService := true } tag rec) intPanelErr).emit o) := by
  have hlog := logAdd_logged { w with outOfService := true } tag rec
  have hoff := logAdd_off (P := tellKeys) tag rec (Off.same (t := { w with outOfService := true }) (Off.refl _ w) rfl) (List.subset_append_left _ _)
  generalize logAdd { w with outOfService := true } tag rec = y at *
  have hpf := pfSet_rest y intPanelErr
  refine ⟨(pfSet_off intPanelErr hoff (List.mem_append_right _ (List.mem_singleton_self _))).same, ?_, ?_⟩
  · show (pfSet y intPanelErr).regions = _
    rw [hpf, hlog.rest]
  · show (pfSet y intPanelErr).outOfService = _
    rw [hpf, hlog.rest]

theorem panelError_erred (s : State) (code : Nat) (hub : Bool) (idx : Nat) :
    PanelErred (haltPanel s) (errorShown (haltPanel s) code hub idx) (panelError s code hub idx) := by
  obtain ⟨hoff, hregions, hout⟩ := outOfService_told (errorShown (haltPanel s) code hub idx)
    (eventRec { errorShown (haltPanel s) code hub idx with outOfService := true } 2 3
      { kind := if code = 3 then 0 else if hub then 2 else 1, index := idx, page := prelP, table := Reg.Pr.regs } 1 0) (logTag 4 16) (.twin 0 code)
  exact ⟨hoff, hregions.trans (errorShown_regions ..), hout⟩

theorem paged_not_tell {p : Nat} {f : Fld} (hf : Paged f) (hp : 0x120000 ≤ p) : fldKey p f ∉ tellKeys := by
  have hk := paged_key (p := p) hf
  intro hmem
  rcases List.mem_append.1 hmem with h | h
  · obtain ⟨g, hg, e⟩ := List.mem_map.1 h
    have hpaged : ∀ g ∈ [Reg.Lo.LOG_NEXT_SEQ, Reg.Lo.LOG_DROP_CNT, Reg.Lo.DROP], g.ix = false ∧ g.off * 32 + g.lsb < 0x20000 := by decide
    have := paged_key (p := logP) (hpaged g hg)
    unfold logP at *
    omega
  · have e := List.mem_singleton.1 h
    have := paged_key (p := idP) (f := pfBit intPanelErr) ⟨rfl, by decide⟩
    unfold idP at *
    omega

theorem errorShown_rd (s : State) (code : Nat) (hub : Bool) (idx : Nat) {p : Nat} {f : Fld} (hf : Paged f) (hp : p + 0x1000 ≤ prelP ∨ prelP + 0x1000 ≤ p) :
    (errorShown s code hub idx).rd p f = s.rd p f := by
  have hne : ∀ g, Paged g → fldKey prelP g ≠ fldKey p f := fun g hg => by
    have := paged_key (p := p) hf
    have := paged_key (p := prelP) hg
    omega
  unfold errorShown
  rw [State.rd_wr_ne _ _ _ _ _ _ (hne _ ⟨rfl, by decide⟩), State.rd_wr_ne _ _ _ _ _ _ (hne _ ⟨rfl, by decide⟩),
    State.rd_wr_ne _ _ _ _ _ _ (hne _ ⟨rfl, by decide⟩), State.rd_wr_ne _ _ _ _ _ _ (hne _ ⟨rfl, by decide⟩)]

theorem errorShown_error (s : State) (code : Nat) (hub : Bool) (idx : Nat) : (errorShown s code hub idx).rd prelP Reg.Pr.PANEL_ERR = 1 ∧
    (errorShown s code hub idx).rd prelP Reg.Pr.PANEL_ERR_CODE = code % 2 ^ 3 := by
  unfold errorShown
  rw [rd_wr_apart _ _ _ _ _ (by decide), rd_wr_apart _ _ _ _ _ (by decide), rd_wr_apart _ _ _ _ _ (by decide), State.rd_wr_same,
    rd_wr_apart _ _ _ _ _ (by decide), rd_wr_apart _ _ _ _ _ (by decide), State.rd_wr_same]
  exact ⟨rfl, rfl⟩

/-- R321, R413: a root that fails stops the panel. -/
theorem rootFault_stops (s : State) (t : State) (ht : t = panelError ((s.setBit timeP Reg.Ti.ROOT_FAULT).wr timeP Reg.Ti.ROOT_LOCKED 0) 3 false 0) :
    t.rd timeP Reg.Ti.ROOT_FAULT = 1 ∧ t.rd timeP Reg.Ti.ROOT_LOCKED = 0 ∧ t.rd prelP Reg.Pr.PANEL_ERR = 1 ∧
      t.rd prelP Reg.Pr.PANEL_ERR_CODE = 3 ∧ t.outOfService = true ∧
      (∀ k n, k < 256 → n < 8 → t.rd (coreP ⟨k, n⟩) Reg.Co.STATE ≠ 2) ∧ ∀ r < 16, regionState s r ≠ 0 → (t.region r).faultAt ≠ none := by
  have hroot : ((s.setBit timeP Reg.Ti.ROOT_FAULT).wr timeP Reg.Ti.ROOT_LOCKED 0).rd timeP Reg.Ti.ROOT_FAULT = 1 ∧
      ((s.setBit timeP Reg.Ti.ROOT_FAULT).wr timeP Reg.Ti.ROOT_LOCKED 0).rd timeP Reg.Ti.ROOT_LOCKED = 0 := by
    rw [rd_wr_apart _ _ _ _ _ (by decide), State.setBit, State.rd_wr_same, State.rd_wr_same]
    exact ⟨rfl, rfl⟩
  have hstate : ∀ r < 16, regionState ((s.setBit timeP Reg.Ti.ROOT_FAULT).wr timeP Reg.Ti.ROOT_LOCKED 0) r = regionState s r := fun r hr => by
    have hpaged : Paged (Reg.Rg.STATE r) := ⟨rfl, by simp only [Reg.Rg.STATE]; omega⟩
    have hne : ∀ g, Paged g → fldKey timeP g ≠ fldKey regionP (Reg.Rg.STATE r) := fun g hg => by
      have := paged_key (p := timeP) hg
      have := paged_key (p := regionP) hpaged
      unfold timeP regionP at *
      omega
    unfold regionState
    rw [State.rd_wr_ne _ _ _ _ _ _ (hne _ ⟨rfl, by decide⟩), State.setBit, State.rd_wr_ne _ _ _ _ _ _ (hne _ ⟨rfl, by decide⟩)]
  generalize (s.setBit timeP Reg.Ti.ROOT_FAULT).wr timeP Reg.Ti.ROOT_LOCKED 0 = u at *
  obtain ⟨hoff, hregions, hout⟩ := ht ▸ panelError_erred u 3 false 0
  obtain ⟨herr, hcode⟩ := errorShown_error (haltPanel u) 3 false 0
  obtain ⟨hcores, hfaults⟩ := haltPanel_halted u
  have htime : ∀ f, Paged f → t.rd timeP f = u.rd timeP f := fun f hf =>
    (hoff.rd _ _ (paged_not_tell hf (by decide))).trans ((errorShown_rd _ _ _ _ hf (by decide)).trans (haltPanel_rd u hf (by decide)))
  refine ⟨(htime _ ⟨rfl, by decide⟩).trans hroot.1, (htime _ ⟨rfl, by decide⟩).trans hroot.2, ?_, ?_, hout, fun k n hk hn => ?_, fun r hr hst => ?_⟩
  · exact (hoff.rd _ _ (paged_not_tell ⟨rfl, by decide⟩ (by decide))).trans herr
  · exact (hoff.rd _ _ (paged_not_tell ⟨rfl, by decide⟩ (by decide))).trans hcode
  · have hcp : 0x10001000 ≤ coreP ⟨k, n⟩ := by
      unfold coreP siteP
      omega
    rw [hoff.rd _ _ (paged_not_tell ⟨rfl, by decide⟩ (by omega)), errorShown_rd _ _ _ _ ⟨rfl, by decide⟩ (Or.inr (by unfold prelP; omega))]
    exact hcores k n hk hn
  · have h := hfaults r hr (by rw [hstate r hr]; exact hst)
    unfold State.region at h ⊢
    rwa [hregions]

/-- Settles O30: the stretch of R276 and R277 at every site of the island, the port of R275, the samples of R282, and the root of R413. -/
theorem clockFaults : Obligations.ClockFaults := by
  unfold Obligations.ClockFaults
  intro s i hi p
  have hsite : siteOk i = true := decide_eq_true hi
  refine ⟨fun v loss hdepth => ?droop, fun d phase hd hc hp => completes_onUnit rfl hsite (lockLost_marks s hi hd hc hp),
    fun dev hst hse => completes_onUnit rfl hsite (jitterSample_counts s hi dev hst hse),
    fun core frac => completes_onUnit rfl hsite (dutyWindow_shows s hi core frac), ⟨_, rfl, rootFault_stops s _ rfl⟩⟩
  case droop =>
    refine completes_onUnit (t := droop s i v loss) rfl hsite ?_
    rw [droop_eq hdepth]
    obtain ⟨hstretch, hmax⟩ := droopNoted_bits s i (stretchDepth s i v)
    have hclock : ∀ f, Paged f → ∀ j, fldKey (tniP j) Reg.Tn.LAG_NOW ≠ fldKey (sclkP i) f := fun f hf j =>
      sitePageKey_ne (a := 0x12) (b := 0x16) ⟨rfl, by decide⟩ hf (by decide) (by decide) (Or.inr (Or.inl (by decide)))
    refine ⟨?_, fun h => ?_, fun k hk hisland => ?_⟩
    · rw [addLosses_rd _ _ _ (fun j _ => hclock _ ⟨rfl, by decide⟩ j), hstretch]
    · rw [addLosses_rd _ _ _ (fun j _ => hclock _ ⟨rfl, by decide⟩ j), hmax h]
    · obtain ⟨hloss, hdeep, hlag⟩ := addLosses_stretched (droopNoted s i (stretchDepth s i v)) loss (stretchDepth s i v) (droopSites_nodup s i)
        (mem_droopSites hk hisland)
      rw [droopNoted_site] at hloss hlag
      exact ⟨hloss, hdeep, by rw [hlag, droopNoted_lag]⟩

end Sys2Proof.Machine
end

section
/-! PROOFS. What an operation of one site leaves of every other site (R364): the keys of a page group, and one operation after the other on
the sites of a list. -/

namespace Sys2Proof.Machine

/-! ### Keys of a page group (R364) -/

/-- The page address, or the address in a page, that a key stands for. -/
def keyAddr (k : Nat) : Nat := if k < 2 ^ 80 then k / 32 else (k - 2 ^ 80) / 2 ^ 37

/-- A key of the page group of site `i`. -/
def groupKey (i k : Nat) : Prop := siteP i 0 ≤ keyAddr k ∧ keyAddr k < siteP (i + 1) 0

/-- An indexed field of a page. -/
def Indexed (f : Fld) : Prop := f.ix = true ∧ f.off < 2 ^ 32 ∧ f.lsb < 32

theorem groupKey_paged {i o : Nat} {f : Fld} (hf : Paged f) (hi : i < 256) (ho : o + 0x1000 ≤ 0x100000) : groupKey i (fldKey (siteP i o) f) := by
  have := paged_key (p := siteP i o) hf
  unfold groupKey keyAddr
  unfold siteP at *
  rw [if_pos (by omega)]
  omega

theorem groupKey_indexed {i o : Nat} {f : Fld} (hf : Indexed f) (ho : o < 0x100000) : groupKey i (fldKey (siteP i o) f) := by
  obtain ⟨hix, hoff, hlsb⟩ := hf
  unfold groupKey keyAddr fldKey siteP
  rw [if_pos hix, if_neg (by omega)]
  omega

/-- No key is of two sites. -/
theorem groupKey_unique {i j k : Nat} (h : groupKey i k) (g : groupKey j k) : i = j := by
  unfold groupKey siteP at *
  omega

theorem indexedKey_ne {p q : Nat} {f g : Fld} (hf : Indexed f) (hg : Indexed g) (h : p ≠ q ∨ f.off ≠ g.off ∨ f.lsb ≠ g.lsb) :
    fldKey p f ≠ fldKey q g := by
  obtain ⟨hfx, hfo, hfl⟩ := hf
  obtain ⟨hgx, hgo, hgl⟩ := hg
  unfold fldKey
  rw [if_pos hfx, if_pos hgx]
  omega

theorem indexedKey_ge {p : Nat} {f : Fld} (hf : f.ix = true) : 2 ^ 80 ≤ fldKey p f := by
  unfold fldKey
  rw [if_pos hf]
  omega

theorem indexedKey_ne_paged {p q : Nat} {f g : Fld} (hf : f.ix = true) (hg : Paged g) (hq : q < 2 ^ 70) : fldKey p f ≠ fldKey q g := by
  have := paged_key (p := q) hg
  have := indexedKey_ge (p := p) hf
  omega

/-- A key of a page group is none of a page below the sites. -/
theorem groupKey_not_low {i p : Nat} {f : Fld} (hf : Paged f ∨ Indexed f) (hp : p + 0x1000 ≤ 0x10000000) : ¬ groupKey i (fldKey p f) := by
  unfold groupKey keyAddr siteP
  rcases hf with hf | hf
  · have := paged_key (p := p) hf
    rw [if_pos (by omega)]
    omega
  · obtain ⟨hix, hoff, hlsb⟩ := hf
    unfold fldKey
    rw [if_pos hix, if_neg (by omega)]
    omega

/-! ### One site after the other -/

section
variable {β : Type} {g : State → Nat → State} {l : List Nat}

/-- What an operation of every site of a list leaves as it was. -/
theorem foldl_keeps (f : State → β) (h : ∀ u, ∀ j ∈ l, f (g u j) = f u) (s : State) : f (l.foldl g s) = f s := by
  induction l generalizing s with
  | nil => rfl
  | cons a l ih =>
    exact (ih (fun u j hj => h u j (List.mem_cons_of_mem a hj)) _).trans (h s a List.mem_cons_self)

/-- An operation of every site of a list does at each what it does there alone, where it changes nothing that `V` views of the others. -/
theorem foldl_view (V : State → Nat → β) (F : β → β) (hl : l.Nodup) {i : Nat} (hi : i ∈ l) (hsame : ∀ u, V (g u i) i = F (V u i))
    (hother : ∀ u, ∀ j ∈ l, j ≠ i → V (g u j) i = V u i) (s : State) : V (l.foldl g s) i = F (V s i) := by
  induction l generalizing s with
  | nil => exact absurd hi List.not_mem_nil
  | cons a l ih =>
    obtain ⟨ha, hnd⟩ := List.nodup_cons.1 hl
    rw [List.foldl_cons]
    rcases List.mem_cons.1 hi with rfl | hi
    · have hrest : V (l.foldl g (g s i)) i = V (g s i) i := foldl_keeps (fun u => V u i)
        (fun u j hj => hother u j (List.mem_cons_of_mem i hj) (ne_of_mem_of_not_mem hj ha)) _
      rw [hrest, hsame]
    · have hne : a ≠ i := fun e => ha (e ▸ hi)
      rw [ih hnd hi (fun u j hj => hother u j (List.mem_cons_of_mem a hj)), hother s a List.mem_cons_self hne]

end

theorem regionSites_nodup (s : State) (r : Nat) : (regionSites s r).Nodup := List.nodup_range.filter _

theorem regionSites_lt {s : State} {r i : Nat} (h : i ∈ regionSites s r) : i < 256 := List.mem_range.1 (List.mem_filter.1 h).1

/-! ### Operations of one site -/

/-- No register beside the page group of site `j` has changed, nor what `π` reads of another site. -/
structure AtSite {α : Type} (π : Site → α) (j : Nat) (s t : State) : Prop where
  find : ∀ k, ¬ groupKey j k → tabFind t.regs k = tabFind s.regs k
  sites : ∀ i, i ≠ j → π (t.site i) = π (s.site i)

section
variable {α : Type} {π : Site → α} {j : Nat} {s t u : State}

theorem AtSite.refl (s : State) : AtSite π j s s := ⟨fun _ _ => rfl, fun _ _ => rfl⟩

theorem AtSite.trans (h : AtSite π j s t) (g : AtSite π j t u) : AtSite π j s u :=
  ⟨fun k hk => (g.find k hk).trans (h.find k hk), fun i hi => (g.sites i hi).trans (h.sites i hi)⟩

theorem AtSite.ite {p : Prop} [Decidable p] (h : AtSite π j s t) (g : AtSite π j s u) : AtSite π j s (if p then t else u) := by
  split <;> assumption

theorem AtSite.wr (h : AtSite π j s t) {p v : Nat} {f : Fld} (hk : groupKey j (fldKey p f)) : AtSite π j s (t.wr p f v) := by
  refine h.trans ⟨fun k hn => ?_, fun _ _ => rfl⟩
  exact ((Off.refl [fldKey p f] t).wr (List.mem_singleton_self _)).find k (fun g => hn (List.mem_singleton.1 g ▸ hk))

theorem AtSite.setSite (h : AtSite π j s t) (v : Site) : AtSite π j s (t.setSite j v) :=
  h.trans ⟨fun _ _ => rfl, fun i hi => by rw [State.site_setSite_ne _ _ _ _ (Ne.symm hi)]⟩

theorem AtSite.upTo {f : State → Nat → State} {n : Nat} (hf : ∀ u k, k < n → AtSite π j s u → AtSite π j s (f u k)) (h : AtSite π j s t) :
    AtSite π j s (Sys2Proof.upTo n f t) := upTo_ind (P := fun _ u => AtSite π j s u) h n (fun k hk u hu => hf u k hk hu)

theorem AtSite.rd (h : AtSite π j s t) {p : Nat} {f : Fld} (hk : ¬ groupKey j (fldKey p f)) : t.rd p f = s.rd p f := by
  unfold State.rd
  rw [h.find _ hk]

/-- A field of another site's pages. -/
theorem AtSite.rd_other (h : AtSite π j s t) {i : Nat} (hij : j ≠ i) {p : Nat} {f : Fld} (hk : groupKey i (fldKey p f)) : t.rd p f = s.rd p f :=
  h.rd (fun g => hij (groupKey_unique g hk))

end

end Sys2Proof.Machine
end

section
/-! PROOFS. Frame requests (R139, R142, R143, R279, R380): FR_GO and the slot it arms, cancellation, the ramps, and the actions that take
effect on every site of a region. -/

namespace Sys2Proof.Machine

/-! ### Slots (R380) -/

/-- The keys that a slot which leaves ARMED writes. -/
def leaveKeys (r k : Nat) : List Nat := [fldKey freqP (Reg.Fr.SLOT_STATE (slotNo r k)), fldKey idP (pfBit intFrameReq)]

section
variable {s : State} {r k st : Nat}

theorem frameReqBit_ne_indexed {p : Nat} {f : Fld} (hf : f.ix = true) : fldKey idP (pfBit intFrameReq) ≠ fldKey p f :=
  (indexedKey_ne_paged hf ⟨rfl, by decide⟩ (by decide)).symm

/-- R377, R380: an armed slot leaves for the state `st`. -/
theorem slotLeave_armed (hs : slotState s r k = 1) : slotLeave s r k st = pfSet (s.wr freqP (Reg.Fr.SLOT_STATE (slotNo r k)) st) intFrameReq :=
  if_pos hs

theorem slotLeave_state (hs : slotState s r k = 1) (hst : st < 8) : slotState (slotLeave s r k st) r k = st := by
  have hoff := pfSet_off (P := [fldKey idP (pfBit intFrameReq)]) intFrameReq
    (Off.refl _ (s.wr freqP (Reg.Fr.SLOT_STATE (slotNo r k)) st)) (List.mem_singleton_self _)
  rw [slotLeave_armed hs]
  unfold slotState
  rw [hoff.rd _ _ (fun h => frameReqBit_ne_indexed rfl (List.mem_singleton.1 h).symm), State.rd_wr_same]
  exact Nat.mod_eq_of_lt hst

theorem slotLeave_off : Off (leaveKeys r k) s (slotLeave s r k st) := by
  unfold slotLeave
  exact Off.ite (pfSet_off _ ((Off.refl _ s).wr List.mem_cons_self) (List.mem_cons_of_mem _ (List.mem_singleton_self _))) (Off.refl _ s)

theorem slotLeave_sites : (slotLeave s r k st).sites = s.sites := by
  unfold slotLeave
  split
  · rw [pfSet_rest]
    rfl
  · rfl

theorem slotLeave_regions : (slotLeave s r k st).regions = s.regions := by
  unfold slotLeave
  split
  · rw [pfSet_rest]
    rfl
  · rfl

end

/-! ### Actions that take effect (R142, R143) -/

/-- The request `k` of region `r` has taken the effect `a`, and beside that `t` is as `u`, up to the list of done actions. -/
structure Applied (r k a : Nat) (u t : State) : Prop where
  state : slotState t r k = 2
  done : bits (tabGet (fun _ => 0) (t.region r).reqDone k) a 1 = 1
  rampUp : (t.region r).rampUp = (u.region r).rampUp
  off : Off (leaveKeys r k) u t
  sites : t.sites = u.sites

theorem actDone_applied {u : State} {r k a : Nat} (hs : slotState u r k = 1) : Applied r k a u (actDone u r k a) := by
  unfold actDone
  extract_lets g d
  have hregion : ∀ st, (slotLeave (u.setRegion r { g with reqDone := tabSet (fun _ => 0) g.reqDone k (d ||| 2 ^ a) }) r k st).region r =
      { g with reqDone := tabSet (fun _ => 0) g.reqDone k (d ||| 2 ^ a) } := fun st => by
    have h := State.region_setRegion_same (s := u) r { g with reqDone := tabSet (fun _ => 0) g.reqDone k (d ||| 2 ^ a) }
    unfold State.region at h ⊢
    rwa [slotLeave_regions]
  have hbit : bits (d ||| 2 ^ a) a 1 = 1 := by
    have h : (d ||| 2 ^ a).testBit a = true := by simp
    simpa [bits, Nat.testBit_eq_decide_div_mod_eq] using h
  refine ⟨slotLeave_state hs (by decide), ?_, ?_, ⟨slotLeave_off.find⟩, slotLeave_sites⟩
  · rw [hregion, tabGet_set_same, hbit]
  · rw [hregion]

/-- The slots of a region of the panel stand outside the sites' pages. -/
theorem slotFld_indexed {r k : Nat} (hr : r < 16) (hk : k < 4) {f : Nat → Fld}
    (hf : f ∈ [Reg.Fr.SLOT_TARGET_LO, Reg.Fr.SLOT_TARGET_HI, Reg.Fr.SLOT_ACTIONS, Reg.Fr.SLOT_FSTATE, Reg.Fr.SLOT_STATE]) : Indexed (f (slotNo r k)) := by
  have hn : slotNo r k < 64 := by
    unfold slotNo
    omega
  simp only [List.mem_cons, List.not_mem_nil, or_false] at hf
  rcases hf with rfl | rfl | rfl | rfl | rfl
  all_goals
    refine ⟨rfl, ?_, ?_⟩ <;> simp only [Reg.Fr.SLOT_TARGET_LO, Reg.Fr.SLOT_TARGET_HI, Reg.Fr.SLOT_ACTIONS, Reg.Fr.SLOT_FSTATE, Reg.Fr.SLOT_STATE] <;> omega

/-- A field of a site's pages stands where a slot leaves ARMED. -/
theorem groupKey_not_leave {i j r k : Nat} (hr : r < 16) (hk : k < 4) (h : groupKey i j) : j ∉ leaveKeys r k := by
  have hid : ¬ groupKey i (fldKey idP (pfBit intFrameReq)) := groupKey_not_low (Or.inl ⟨rfl, by decide⟩) (by decide)
  have hslot : ¬ groupKey i (fldKey freqP (Reg.Fr.SLOT_STATE (slotNo r k))) :=
    groupKey_not_low (Or.inr (slotFld_indexed (f := Reg.Fr.SLOT_STATE) hr hk (by simp))) (by decide)
  intro hmem
  rcases List.mem_cons.1 hmem with rfl | hmem
  · exact hslot h
  · exact hid (List.mem_singleton.1 hmem ▸ h)

/-! ### FREQ (R279) -/

/-- What FREQ sets of a site: FSTATE, SETTLING, TRANSITION, and how many boundaries its transition lasts. -/
def freqView (s : State) (i : Nat) : Nat × Nat × Nat × Nat :=
  (s.rd (sclkP i) Reg.Ck.FSTATE, s.rd (sclkP i) Reg.Ck.SETTLING, s.rd (tniP i) Reg.Tn.TRANSITION, (s.site i).trans)

theorem freqSite_view (u : State) (fs i : Nat) : freqView (freqSite u fs i) i =
    (fs % 4, if u.rd (sclkP i) Reg.Ck.FSTATE = fs then u.rd (sclkP i) Reg.Ck.SETTLING else 1, 1, 2) := by
  have hpage : ∀ f, Paged f → fldKey (tniP i) Reg.Tn.TRANSITION ≠ fldKey (sclkP i) f := fun f hf =>
    sitePageKey_ne (a := 0x12) (b := 0x16) ⟨rfl, by decide⟩ hf (by decide) (by decide) (Or.inr (Or.inl (by decide)))
  unfold freqView freqSite
  extract_lets was s1 s2
  have hfs : s2.rd (sclkP i) Reg.Ck.FSTATE = fs % 4 := by
    have h1 : s1.rd (sclkP i) Reg.Ck.FSTATE = fs % 4 := State.rd_wr_same ..
    rw [← h1]
    simp only [s2]
    split
    · rfl
    · exact rd_wr_apart _ _ _ _ _ (by decide)
  have hset : s2.rd (sclkP i) Reg.Ck.SETTLING = if was = fs then u.rd (sclkP i) Reg.Ck.SETTLING else 1 := by
    simp only [s2]
    split
    · exact rd_wr_apart _ _ _ _ _ (by decide)
    · exact State.rd_wr_same ..
  rw [State.rd_wr_ne _ _ _ _ _ _ (hpage _ ⟨rfl, by decide⟩), State.rd_wr_ne _ _ _ _ _ _ (hpage _ ⟨rfl, by decide⟩), State.rd_setSite,
    State.rd_setSite, hfs, hset, State.rd_wr_same, State.site_wr, State.site_setSite_same]
  rfl

theorem freqSite_atSite (u : State) (fs : Nat) {j : Nat} (hj : j < 256) : AtSite Site.trans j u (freqSite u fs j) := by
  unfold freqSite
  extract_lets was s1 s2
  have hclock : ∀ f, Paged f → groupKey j (fldKey (sclkP j) f) := fun f hf => groupKey_paged (o := 0x16000) hf hj (by decide)
  have h1 : AtSite Site.trans j u s1 := (AtSite.refl u).wr (hclock _ ⟨rfl, by decide⟩)
  have h2 : AtSite Site.trans j u s2 := AtSite.ite h1 (h1.wr (hclock _ ⟨rfl, by decide⟩))
  exact (h2.setSite _).wr (groupKey_paged (o := 0x12000) ⟨rfl, by decide⟩ hj (by decide))

theorem freqView_other (u : State) (fs : Nat) {i j : Nat} (hi : i < 256) (hj : j < 256) (h : j ≠ i) :
    freqView (freqSite u fs j) i = freqView u i := by
  have ha := freqSite_atSite u fs hj
  have hclock : ∀ f, Paged f → groupKey i (fldKey (sclkP i) f) := fun f hf => groupKey_paged (o := 0x16000) hf hi (by decide)
  unfold freqView
  rw [ha.rd_other h (hclock _ ⟨rfl, by decide⟩), ha.rd_other h (hclock _ ⟨rfl, by decide⟩),
    ha.rd_other (p := tniP i) h (groupKey_paged (o := 0x12000) ⟨rfl, by decide⟩ hi (by decide)), ha.sites i (Ne.symm h)]

/-- A slot stands where only pages of sites are written. -/
theorem slotState_atSites {α : Type} {π : Site → α} {g : State → Nat → State} {l : List Nat} (hg : ∀ u, ∀ j ∈ l, AtSite π j u (g u j)) (s : State)
    {r k : Nat} (hr : r < 16) (hk : k < 4) : slotState (l.foldl g s) r k = slotState s r k :=
  foldl_keeps (fun u => slotState u r k) (fun u j hj =>
    (hg u j hj).rd (groupKey_not_low (Or.inr (slotFld_indexed (f := Reg.Fr.SLOT_STATE) hr hk (by simp))) (by decide))) s

/-- R279: FREQ takes effect. -/
theorem freq_applied {s : State} {r k : Nat} (hr : r < 16) (hk : k < 4) (hdue : actDue s r k actFreq = true) (hs : slotState s r k = 1) :
    ∃ u, Applied r k actFreq u (freq s r k) ∧ (u.region r).rampUp = none ∧
      ∀ i ∈ regionSites s r, freqView u i =
        (slotFs s r k % 4, if s.rd (sclkP i) Reg.Ck.FSTATE = slotFs s r k then s.rd (sclkP i) Reg.Ck.SETTLING else 1, 1, 2) := by
  unfold freq
  rw [hdue, Bool.not_true, if_neg Bool.false_ne_true]
  extract_lets fs was s1 g down
  have hstate : slotState s1 r k = 1 := (slotState_atSites (π := Site.trans) (fun u j hj => freqSite_atSite u fs (regionSites_lt hj)) s hr hk).trans hs
  refine ⟨s1.setRegion r { g with rampUp := none, rampDown := down }, actDone_applied hstate, by rw [State.region_setRegion_same], fun i hi => ?_⟩
  have hview : freqView s1 i = _ := foldl_view freqView
    (fun v => (fs % 4, if v.1 = fs then v.2.1 else 1, 1, 2)) (regionSites_nodup s r) hi (fun u => freqSite_view u fs i)
    (fun u j hj h => freqView_other u fs (regionSites_lt hi) (regionSites_lt hj) h) s
  exact hview

/-! ### FRAME_CFG and SCHED_SWAP (R120, R139, R142, R205) -/

/-- The frame parameters of a site. -/
def cfgView (s : State) (i : Nat) : Nat × Nat × Nat :=
  (s.rd (tniP i) Reg.Tn.FL_CODE, s.rd (tniP i) Reg.Tn.SL, s.rd (tniP i) Reg.Tn.CFG_COMPL)

/-- R120: the frame parameters that a configuration word names, as the page shows them. -/
def cfgShown (v : Nat) : Nat × Nat × Nat := (bits v 0 3, bits v 3 7, 0xFFFF - v % 65536)

theorem nextEpoch_atSite {α : Type} {π : Site → α} {j : Nat} {s u : State} (h : AtSite π j s u) (hj : j < 256) : AtSite π j s (nextEpoch u j) :=
  h.wr (groupKey_paged (o := 0x15000) ⟨rfl, by decide⟩ hj (by decide))

/-- The epoch of a site is in its power page alone. -/
theorem nextEpoch_rd (s : State) (i : Nat) {a : Nat} {f : Fld} (hf : Paged f) (ha : a < 256) (h : a ≠ 0x15) :
    (nextEpoch s i).rd (siteP i (0x1000 * a)) f = s.rd (siteP i (0x1000 * a)) f :=
  State.rd_wr_ne _ _ _ _ _ _ (sitePageKey_ne (a := 0x15) (b := a) ⟨rfl, by decide⟩ hf (by decide) ha (Or.inr (Or.inl h.symm)))

theorem setCfg_view (u : State) (v i : Nat) : cfgView (nextEpoch (setCfg u v i) i) i = cfgShown v := by
  have hfl : bits v 0 3 % 2 ^ 3 = bits v 0 3 := Nat.mod_eq_of_lt (by unfold bits; omega)
  have hsl : bits v 3 7 % 2 ^ 7 = bits v 3 7 := Nat.mod_eq_of_lt (by unfold bits; omega)
  have hcp : (0xFFFF - v % 65536) % 2 ^ 16 = 0xFFFF - v % 65536 := Nat.mod_eq_of_lt (by omega)
  have hepoch : ∀ f, Paged f → (nextEpoch (setCfg u v i) i).rd (tniP i) f = (setCfg u v i).rd (tniP i) f := fun f hf =>
    nextEpoch_rd _ i (a := 0x12) hf (by decide) (by decide)
  unfold cfgView
  rw [hepoch _ ⟨rfl, by decide⟩, hepoch _ ⟨rfl, by decide⟩, hepoch _ ⟨rfl, by decide⟩]
  unfold setCfg
  rw [rd_wr_apart _ _ _ _ _ (by decide), rd_wr_apart _ _ _ _ _ (by decide), State.rd_wr_same, rd_wr_apart _ _ _ _ _ (by decide),
    State.rd_wr_same, State.rd_wr_same]
  exact congrArg₂ Prod.mk hfl (congrArg₂ Prod.mk hsl hcp)

theorem setCfg_atSite (u : State) (v : Nat) {j : Nat} (hj : j < 256) : AtSite (fun _ => ()) j u (nextEpoch (setCfg u v j) j) := by
  have hkey : ∀ f, Paged f → groupKey j (fldKey (tniP j) f) := fun f hf => groupKey_paged (o := 0x12000) hf hj (by decide)
  exact nextEpoch_atSite ((((AtSite.refl u).wr (hkey _ ⟨rfl, by decide⟩)).wr (hkey _ ⟨rfl, by decide⟩)).wr (hkey _ ⟨rfl, by decide⟩)) hj

theorem cfgView_other {α : Type} {π : Site → α} {u v : State} {i j : Nat} (ha : AtSite π j u v) (hi : i < 256) (h : j ≠ i) : cfgView v i = cfgView u i := by
  have hkey : ∀ f, Paged f → groupKey i (fldKey (tniP i) f) := fun f hf => groupKey_paged (o := 0x12000) hf hi (by decide)
  unfold cfgView
  rw [ha.rd_other h (hkey _ ⟨rfl, by decide⟩), ha.rd_other h (hkey _ ⟨rfl, by decide⟩), ha.rd_other h (hkey _ ⟨rfl, by decide⟩)]

/-- R142: FRAME_CFG takes effect. -/
theorem frameCfg_applied {s : State} {r k : Nat} (hr : r < 16) (hk : k < 4) (hdue : actDue s r k actCfg = true) (hs : slotState s r k = 1) :
    ∃ u, Applied r k actCfg u (frameCfg s r k) ∧ ∀ i ∈ regionSites s r, cfgView u i =
      cfgShown (tabGet (fun _ => 0) (s.region r).reqCfg k) := by
  unfold frameCfg
  rw [hdue, Bool.not_true, if_neg Bool.false_ne_true]
  extract_lets v
  refine ⟨_, actDone_applied ((slotState_atSites (fun u j hj => setCfg_atSite u v (regionSites_lt hj)) s hr hk).trans hs), fun i hi => ?_⟩
  exact foldl_view (g := fun s i => nextEpoch (setCfg s v i) i) cfgView (fun _ => cfgShown v) (regionSites_nodup s r) hi (fun u => setCfg_view u v i)
    (fun u j hj h => cfgView_other (setCfg_atSite u v (regionSites_lt hj)) (regionSites_lt hi) h) s

/-- R222: a word of the active well slot table is an indexed word of the page. -/
theorem wstAct_fields (e : Nat) : (wstAct e).ix = true ∧ (wstAct e).off = 0x30040 + e ∧ (wstAct e).lsb = 0 ∧ (wstAct e).w = 32 := by
  unfold wstAct
  split
  next h => exact ⟨rfl, by rw [h]; rfl, rfl, rfl⟩
  next h => exact ⟨rfl, by simp only [Reg.We.WST_ACT]; omega, rfl, rfl⟩

theorem wstAct_indexed {e : Nat} (he : e < 48) : Indexed (wstAct e) := by
  obtain ⟨hix, hoff, hlsb, _⟩ := wstAct_fields e
  exact ⟨hix, by omega, by omega⟩

theorem wstSh_indexed {e : Nat} (he : e < 48) : Indexed (Reg.We.WST_SH e) := ⟨rfl, by simp only [Reg.We.WST_SH]; omega, by simp only [Reg.We.WST_SH]; omega⟩

/-- No word of the active table is one of the shadow table. -/
theorem wstAct_ne_sh (p : Nat) {e k : Nat} (he : e < 48) (hk : k < 48) : fldKey p (wstAct e) ≠ fldKey p (Reg.We.WST_SH k) := by
  obtain ⟨_, hoff, _, _⟩ := wstAct_fields e
  exact indexedKey_ne (wstAct_indexed he) (wstSh_indexed hk) (Or.inr (Or.inl (by rw [hoff]; simp only [Reg.We.WST_SH]; omega)))

theorem wstAct_ne (p : Nat) {e k : Nat} (he : e < 48) (hk : k < 48) (h : e ≠ k) : fldKey p (wstAct e) ≠ fldKey p (wstAct k) :=
  indexedKey_ne (wstAct_indexed he) (wstAct_indexed hk) (Or.inr (Or.inl (by
    rw [(wstAct_fields e).2.1, (wstAct_fields k).2.1]
    omega)))

theorem wstSh_ne (p : Nat) {e k : Nat} (he : e < 48) (hk : k < 48) (h : e ≠ k) : fldKey p (Reg.We.WST_SH e) ≠ fldKey p (Reg.We.WST_SH k) :=
  indexedKey_ne (wstSh_indexed he) (wstSh_indexed hk) (Or.inr (Or.inl (by simp only [Reg.We.WST_SH]; omega)))

/-- The two words of entry `e` of a site's well slot tables. -/
def wstView (e : Nat) (s : State) (i : Nat) : Nat × Nat := (s.rd (wellP i) (wstAct e), s.rd (wellP i) (Reg.We.WST_SH e))

/-- The bits of a site's tables. -/
def tableView (s : State) (i : Nat) : Nat × Nat × Nat :=
  (s.rd (tniP i) Reg.Tn.TABLE_ACTIVE, s.rd (tniP i) Reg.Tn.SHADOW_VALID, s.rd (wellP i) Reg.We.SHADOW_VALID)

/-- One entry of the well slot tables is exchanged for what `s` holds. -/
def swapEntry (s : State) (i : Nat) (u : State) (k : Nat) : State :=
  (u.wr (wellP i) (wstAct k) (s.rd (wellP i) (Reg.We.WST_SH k))).wr (wellP i) (Reg.We.WST_SH k) (s.rd (wellP i) (wstAct k))

theorem swapEntry_same (s u : State) (i : Nat) {e : Nat} (he : e < 48) :
    wstView e (swapEntry s i u e) i = ((wstView e s i).2 % 2 ^ 32, (wstView e s i).1 % 2 ^ 32) := by
  unfold wstView swapEntry
  rw [State.rd_wr_ne _ _ _ _ _ _ (wstAct_ne_sh _ he he).symm, State.rd_wr_same, State.rd_wr_same, (wstAct_fields e).2.2.2]
  rfl

theorem swapEntry_ne (s u : State) (i : Nat) {e k : Nat} (he : e < 48) (hk : k < 48) (h : k ≠ e) : wstView e (swapEntry s i u k) i = wstView e u i := by
  unfold wstView swapEntry
  rw [State.rd_wr_ne _ _ _ _ _ _ (wstAct_ne_sh _ he hk).symm, State.rd_wr_ne _ _ _ _ _ _ (wstAct_ne _ hk he h),
    State.rd_wr_ne _ _ _ _ _ _ (wstSh_ne _ hk he h), State.rd_wr_ne _ _ _ _ _ _ (wstAct_ne_sh _ hk he)]

theorem swapEntries_view (s u : State) (i : Nat) {e : Nat} (he : e < 48) :
    wstView e (upTo 48 (swapEntry s i) u) i = ((wstView e s i).2 % 2 ^ 32, (wstView e s i).1 % 2 ^ 32) := by
  refine upTo_ind (P := fun n v => e < n → wstView e v i = ((wstView e s i).2 % 2 ^ 32, (wstView e s i).1 % 2 ^ 32))
    (fun h => absurd h (Nat.not_lt_zero e)) 48 (fun k hk v hv hlt => ?_) he
  by_cases hke : k = e
  · subst hke
    exact swapEntry_same s v i he
  · rw [swapEntry_ne s v i he hk hke]
    exact hv (by omega)

/-- The fields of the well page that an exchange sets beside the tables, and of the page of the timetable network. -/
def swapBits (s : State) (i : Nat) (u : State) : State :=
  let w := wellP i
  let u := (u.wr w Reg.We.ACT_PW (s.rd w Reg.We.SH_PW)).wr w Reg.We.SH_PW (s.rd w Reg.We.ACT_PW)
  (u.wr w Reg.We.TABLE_ACTIVE (1 - s.rd w Reg.We.TABLE_ACTIVE)).wr w Reg.We.SHADOW_VALID 0

theorem swapSite_eq (s : State) (i : Nat) : swapSite s i = swapBits s i (upTo 48 (swapEntry s i)
    ((s.wr (tniP i) Reg.Tn.TABLE_ACTIVE (1 - s.rd (tniP i) Reg.Tn.TABLE_ACTIVE)).wr (tniP i) Reg.Tn.SHADOW_VALID 0)) := rfl

/-- The keys of the well page of site `i`. -/
def wellKey (i k : Nat) : Prop := ∃ f, (Paged f ∨ Indexed f) ∧ k = fldKey (wellP i) f

theorem wellKey_group {i k : Nat} (hi : i < 256) (h : wellKey i k) : groupKey i k := by
  obtain ⟨f, hf | hf, rfl⟩ := h
  · exact groupKey_paged (o := 0x11000) hf hi (by decide)
  · exact groupKey_indexed (o := 0x11000) hf (by decide)

theorem tniKey_not_well {i : Nat} {f : Fld} (hf : Paged f) (hi : i < 256) : ¬ wellKey i (fldKey (tniP i) f) := by
  rintro ⟨g, hg | hg, e⟩
  · exact sitePageKey_ne (a := 0x12) (b := 0x11) hf hg (by decide) (by decide) (Or.inr (Or.inl (by decide))) e
  · exact indexedKey_ne_paged hg.1 hf (by unfold tniP siteP; omega) e.symm

theorem swapEntries_well (s u : State) (i : Nat) : Aside (fun _ => ()) (wellKey i) u (upTo 48 (swapEntry s i) u) := by
  refine upTo_ind (P := fun _ v => Aside (fun _ => ()) (wellKey i) u v) (Aside.refl u) 48 (fun k hk v hv => ?_)
  exact (hv.wr ⟨_, Or.inr (wstAct_indexed hk), rfl⟩).wr ⟨_, Or.inr (wstSh_indexed hk), rfl⟩

theorem swapBits_well (s u : State) (i : Nat) : Aside (fun _ => ()) (wellKey i) u (swapBits s i u) := by
  have hkey : ∀ f, Paged f → wellKey i (fldKey (wellP i) f) := fun f hf => ⟨f, Or.inl hf, rfl⟩
  exact ((((Aside.refl u).wr (hkey _ ⟨rfl, by decide⟩)).wr (hkey _ ⟨rfl, by decide⟩)).wr (hkey _ ⟨rfl, by decide⟩)).wr (hkey _ ⟨rfl, by decide⟩)

theorem swapBits_wst (s u : State) {i : Nat} (hi : i < 256) {e : Nat} (he : e < 48) : wstView e (swapBits s i u) i = wstView e u i := by
  have hne : ∀ {f g : Fld}, Paged f → Indexed g → fldKey (wellP i) f ≠ fldKey (wellP i) g := fun hf hg =>
    (indexedKey_ne_paged hg.1 hf (by unfold wellP siteP; omega)).symm
  have hrd : ∀ g, Indexed g → (swapBits s i u).rd (wellP i) g = u.rd (wellP i) g := fun g hg => by
    unfold swapBits
    rw [State.rd_wr_ne _ _ _ _ _ _ (hne ⟨rfl, by decide⟩ hg), State.rd_wr_ne _ _ _ _ _ _ (hne ⟨rfl, by decide⟩ hg),
      State.rd_wr_ne _ _ _ _ _ _ (hne ⟨rfl, by decide⟩ hg), State.rd_wr_ne _ _ _ _ _ _ (hne ⟨rfl, by decide⟩ hg)]
  unfold wstView
  rw [hrd _ (wstAct_indexed he), hrd _ (wstSh_indexed he)]

/-- R222: the entries of the well slot tables are exchanged. -/
theorem swapSite_wst (s : State) {i : Nat} (hi : i < 256) {e : Nat} (he : e < 48) :
    wstView e (swapSite s i) i = ((wstView e s i).2 % 2 ^ 32, (wstView e s i).1 % 2 ^ 32) := by
  rw [swapSite_eq, swapBits_wst _ _ hi he, swapEntries_view _ _ _ he]

/-- R139, R205: the bits of the tables. -/
theorem swapSite_table (s : State) {i : Nat} (hi : i < 256) : tableView (swapSite s i) i = ((1 - (tableView s i).1) % 2, 0, 0) := by
  rw [swapSite_eq]
  generalize hu : (s.wr (tniP i) Reg.Tn.TABLE_ACTIVE (1 - s.rd (tniP i) Reg.Tn.TABLE_ACTIVE)).wr (tniP i) Reg.Tn.SHADOW_VALID 0 = u
  have hwell := (swapEntries_well s u i).trans (swapBits_well s (upTo 48 (swapEntry s i) u) i)
  have hvalid : (swapBits s i (upTo 48 (swapEntry s i) u)).rd (wellP i) Reg.We.SHADOW_VALID = 0 := State.rd_wr_same ..
  unfold tableView
  rw [hwell.rd (tniKey_not_well ⟨rfl, by decide⟩ hi), hwell.rd (tniKey_not_well ⟨rfl, by decide⟩ hi), hvalid, ← hu,
    rd_wr_apart _ _ _ _ _ (by decide), State.rd_wr_same, State.rd_wr_same]
  rfl

theorem swapSite_atSite (s : State) {j : Nat} (hj : j < 256) : AtSite (fun _ => ()) j s (swapSite s j) := by
  rw [swapSite_eq]
  have hkey : ∀ f, Paged f → groupKey j (fldKey (tniP j) f) := fun f hf => groupKey_paged (o := 0x12000) hf hj (by decide)
  have hu : AtSite (fun _ => ()) j s ((s.wr (tniP j) Reg.Tn.TABLE_ACTIVE (1 - s.rd (tniP j) Reg.Tn.TABLE_ACTIVE)).wr (tniP j) Reg.Tn.SHADOW_VALID 0) :=
    ((AtSite.refl s).wr (hkey _ ⟨rfl, by decide⟩)).wr (hkey _ ⟨rfl, by decide⟩)
  generalize (s.wr (tniP j) Reg.Tn.TABLE_ACTIVE (1 - s.rd (tniP j) Reg.Tn.TABLE_ACTIVE)).wr (tniP j) Reg.Tn.SHADOW_VALID 0 = u at hu ⊢
  have hwell := (swapEntries_well s u j).trans (swapBits_well s (upTo 48 (swapEntry s j) u) j)
  exact hu.trans ⟨fun k hk => hwell.find k (fun h => hk (wellKey_group hj h)), fun _ _ => rfl⟩

/-- What SCHED_SWAP does at a site, by whether its request wakes the region (R300). -/
def swapStep (wake : Bool) (s : State) (i : Nat) : State := if wake then swapSite s i else nextEpoch (swapSite s i) i

theorem swapStep_atSite (wake : Bool) (s : State) {j : Nat} (hj : j < 256) : AtSite (fun _ => ()) j s (swapStep wake s j) :=
  AtSite.ite (swapSite_atSite s hj) (nextEpoch_atSite (swapSite_atSite s hj) hj)

theorem swapStep_table (wake : Bool) (s : State) {i : Nat} (hi : i < 256) : tableView (swapStep wake s i) i = ((1 - (tableView s i).1) % 2, 0, 0) := by
  cases wake
  · have hview : tableView (nextEpoch (swapSite s i) i) i = tableView (swapSite s i) i := by
      have htn : ∀ f, Paged f → (nextEpoch (swapSite s i) i).rd (tniP i) f = (swapSite s i).rd (tniP i) f := fun f hf =>
        nextEpoch_rd _ i (a := 0x12) hf (by decide) (by decide)
      have hwe : ∀ f, Paged f → (nextEpoch (swapSite s i) i).rd (wellP i) f = (swapSite s i).rd (wellP i) f := fun f hf =>
        nextEpoch_rd _ i (a := 0x11) hf (by decide) (by decide)
      unfold tableView
      rw [htn _ ⟨rfl, by decide⟩, htn _ ⟨rfl, by decide⟩, hwe _ ⟨rfl, by decide⟩]
    exact hview.trans (swapSite_table s hi)
  · exact swapSite_table s hi

theorem swapStep_wst (wake : Bool) (s : State) {i : Nat} (hi : i < 256) {e : Nat} (he : e < 48) :
    wstView e (swapStep wake s i) i = ((wstView e s i).2 % 2 ^ 32, (wstView e s i).1 % 2 ^ 32) := by
  cases wake
  · have hrd : ∀ g, Indexed g → (nextEpoch (swapSite s i) i).rd (wellP i) g = (swapSite s i).rd (wellP i) g := fun g hg =>
      State.rd_wr_ne _ _ _ _ _ _ (indexedKey_ne_paged hg.1 ⟨rfl, by decide⟩ (by unfold spowP siteP; omega)).symm
    have hview : wstView e (nextEpoch (swapSite s i) i) i = wstView e (swapSite s i) i := by
      unfold wstView
      rw [hrd _ (wstAct_indexed he), hrd _ (wstSh_indexed he)]
    exact hview.trans (swapSite_wst s hi he)
  · exact swapSite_wst s hi he

/-- What stands of another site's tables. -/
theorem tables_other {α : Type} {π : Site → α} {u v : State} {i j : Nat} (ha : AtSite π j u v) (hi : i < 256) (h : j ≠ i) :
    tableView v i = tableView u i ∧ ∀ e < 48, wstView e v i = wstView e u i := by
  have htn : ∀ f, Paged f → groupKey i (fldKey (tniP i) f) := fun f hf => groupKey_paged (o := 0x12000) hf hi (by decide)
  have hwe : ∀ f, Indexed f → groupKey i (fldKey (wellP i) f) := fun f hf => groupKey_indexed (o := 0x11000) hf (by decide)
  have hwp : ∀ f, Paged f → groupKey i (fldKey (wellP i) f) := fun f hf => groupKey_paged (o := 0x11000) hf hi (by decide)
  unfold tableView wstView
  refine ⟨?_, fun e he => ?_⟩
  · rw [ha.rd_other h (htn _ ⟨rfl, by decide⟩), ha.rd_other h (htn _ ⟨rfl, by decide⟩), ha.rd_other h (hwp _ ⟨rfl, by decide⟩)]
  · rw [ha.rd_other h (hwe _ (wstAct_indexed he)), ha.rd_other h (hwe _ (wstSh_indexed he))]

/-- R139: SCHED_SWAP takes effect. -/
theorem schedSwap_applied {s : State} {r k : Nat} (hr : r < 16) (hk : k < 4) (hdue : actDue s r k actSwap = true) (hs : slotState s r k = 1) :
    ∃ u, Applied r k actSwap u (schedSwap s r k) ∧ ∀ i ∈ regionSites s r, tableView u i = ((1 - (tableView s i).1) % 2, 0, 0) ∧
      ∀ e < 48, wstView e u i = ((wstView e s i).2 % 2 ^ 32, (wstView e s i).1 % 2 ^ 32) := by
  have heq : schedSwap s r k = actDone ((regionSites s r).foldl (swapStep (decide (bits (slotActs s r k) actExit 1 = 1))) s) r k actSwap := by
    unfold schedSwap
    rw [hdue, Bool.not_true, if_neg Bool.false_ne_true]
    unfold swapStep
    simp only [decide_eq_true_eq]
  rw [heq]
  generalize decide (bits (slotActs s r k) actExit 1 = 1) = wake
  have hat : ∀ u, ∀ j ∈ regionSites s r, AtSite (fun _ => ()) j u (swapStep wake u j) := fun u j hj => swapStep_atSite wake u (regionSites_lt hj)
  refine ⟨_, actDone_applied ((slotState_atSites hat s hr hk).trans hs), fun i hi => ⟨?_, fun e he => ?_⟩⟩
  · exact foldl_view (g := swapStep wake) tableView (fun v => ((1 - v.1) % 2, 0, 0)) (regionSites_nodup s r) hi
      (fun u => swapStep_table wake u (regionSites_lt hi)) (fun u j hj h => (tables_other (hat u j hj) (regionSites_lt hi) h).1) s
  · exact foldl_view (g := swapStep wake) (wstView e) (fun v => (v.2 % 2 ^ 32, v.1 % 2 ^ 32)) (regionSites_nodup s r) hi
      (fun u => swapStep_wst wake u (regionSites_lt hi) he) (fun u j hj h => (tables_other (hat u j hj) (regionSites_lt hi) h).2 e he) s

/-! ### Cancellation and ramps (R143, R279, R303) -/

theorem requestCancel_state {s : State} {r k : Nat} (missing : Bool) (hs : slotState s r k = 1)
    (hlead : fcAhead (slotTarget s r k) (s.region r).fc ≤ 16) : slotState (requestCancel s r k missing) r k =
      if missing = true ∨ (slotArmed s r k actFreq = true ∧ slotFs s r k < s.rd ppowP (Reg.Pp.TL r)) then 3 else 1 := by
  have hcancel : slotState (slotCancel s r k) r k = 3 := by
    unfold slotCancel
    extract_lets g u
    have hu : slotState u r k = 1 := by
      simp only [u]
      split <;> exact hs
    exact slotLeave_state hu (by decide)
  unfold requestCancel
  extract_lets fast
  have hcond : (slotState s r k = 1 ∧ fcAhead (slotTarget s r k) (s.region r).fc ≤ 16 ∧ (missing || fast) = true) ↔
      (missing = true ∨ (slotArmed s r k actFreq = true ∧ slotFs s r k < s.rd ppowP (Reg.Pp.TL r))) := by
    simp [fast, hs, hlead]
  rw [if_congr hcond rfl rfl, apply_ite (fun u => slotState u r k), hcancel, hs]

theorem freqRampUp_shown {s : State} {r k : Nat} (ha : slotArmed s r k actFreq = true) (hl : fcAhead (slotTarget s r k) (s.region r).fc ≤ 48)
    (hf : slotFs s r k < regionFs s r) : ((freqRampUp s r k).region r).rampUp = some (slotFs s r k) ∧ (freqRampUp s r k).regs = s.regs ∧
      (freqRampUp s r k).sites = s.sites := by
  unfold freqRampUp
  rw [if_pos (by simp [ha, hl, hf]), State.region_setRegion_same]
  exact ⟨rfl, rfl, rfl⟩

theorem freqRampDown_shown {s : State} {r fs f : Nat} (hd : (s.region r).rampDown = some (fs, f)) (hf : ∀ i ∈ regionSites s r, (s.site i).fc = f) :
    ((freqRampDown s r).region r).rampDown = none ∧ (freqRampDown s r).regs = s.regs ∧ (freqRampDown s r).sites = s.sites := by
  have hall : (regionSites s r).all (fun i => (s.site i).fc = f) = true := List.all_eq_true.2 (fun i hi => decide_eq_true (hf i hi))
  unfold freqRampDown
  extract_lets g
  rw [show g.rampDown = some (fs, f) from hd]
  dsimp only
  rw [if_pos hall, State.region_setRegion_same]
  exact ⟨rfl, rfl, rfl⟩

/-! ### FR_GO (R143, R380) -/

/-- A host action of PF0 or a VF on a page outside the sites' groups, where the panel serves it. -/
theorem hostAct_hosted {s t : State} {page off : Nat} (h : Hosted s page off) (hp : page < 0x10000000 ∨ 0x20000000 ≤ page) :
    hostAct s page off (some t) = t := by
  obtain ⟨hon, hserves, hdomain⟩ := h
  unfold hostAct hostPath takenOr sideCount
  simp [hon, hserves, hdomain, hp]

/-- FR_GO shows its code and its slot. -/
def frAnswered (s : State) (p : Nat) (j : Nat × Nat) : State :=
  ((s.wr (frPage p) (frFld p Reg.Fr.BUSY) 0).wr (frPage p) (frFld p Reg.Fr.RESULT) j.1).wr (frPage p) (frFld p Reg.Fr.SLOT) j.2

/-- FR_GO evaluates the assignment that a request carries. -/
def frAssessed (s : State) (q : FrReq) (j : Nat × Nat) : State :=
  if bits q.acts actReassign 1 = 1 ∧ (j.1 = 5 ∨ j.1 = 1) then
    (if s.rd regionP (Reg.Rg.PEND_VALID q.r) = 0 then s else evalRegions s).wr regionP (Reg.Rg.ASSIGN_ERR q.r)
      (assignCode s q.r (regionState s q.r = 2 || regionState s q.r = 3 || regionState s q.r = 4))
  else s

/-- FR_GO arms slot `k`. -/
def frArmed (s : State) (q : FrReq) (k : Nat) : State :=
  let n := slotNo q.r k
  let s := (s.wr freqP (Reg.Fr.SLOT_TARGET_LO n) q.target).wr freqP (Reg.Fr.SLOT_TARGET_HI n) (q.target / 2 ^ 32)
  let s := ((s.wr freqP (Reg.Fr.SLOT_ACTIONS n) q.acts).wr freqP (Reg.Fr.SLOT_FSTATE n) q.fs).wr freqP (Reg.Fr.SLOT_STATE n) 1
  let g := s.region q.r
  s.setRegion q.r { g with reqCfg := tabSet (fun _ => 0) g.reqCfg k q.cfg, reqDone := tabSet (fun _ => 0) g.reqDone k 0 }

theorem frGo_eq (s : State) (p : Nat) : frGo s p =
    if (frJudge s (frRead s p)).1 ≠ 1 then frAssessed (frAnswered s p (frJudge s (frRead s p))) (frRead s p) (frJudge s (frRead s p))
    else frArmed (frAssessed (frAnswered s p (frJudge s (frRead s p))) (frRead s p) (frJudge s (frRead s p))) (frRead s p) (frJudge s (frRead s p)).2 := rfl

/-- R143: the codes, and the slots of a region. -/
theorem frJudge_range (s : State) (q : FrReq) : (frJudge s q).1 ≤ 5 ∧ (frJudge s q).2 < 4 := by
  unfold frJudge
  extract_lets lead armed
  split
  · exact ⟨by decide, by decide⟩
  · split
    · exact ⟨by decide, by decide⟩
    · split
      · exact ⟨by decide, by decide⟩
      · split
        next => exact ⟨by decide, by decide⟩
        next k hk =>
          have hlt : k < 4 := List.mem_range.1 (List.mem_of_find?_eq_some hk)
          split
          · exact ⟨by decide, by decide⟩
          · exact ⟨(by decide : 1 ≤ 5), hlt⟩

theorem frAnswered_shows (s : State) (p : Nat) {j : Nat × Nat} (hcode : j.1 ≤ 5) (hslot : j.2 < 4) :
    (frAnswered s p j).rd (frPage p) (frFld p Reg.Fr.RESULT) = j.1 ∧ (frAnswered s p j).rd (frPage p) (frFld p Reg.Fr.SLOT) = j.2 ∧
      (frAnswered s p j).rd (frPage p) (frFld p Reg.Fr.BUSY) = 0 := by
  have hapart : ∀ f ∈ [Reg.Fr.BUSY, Reg.Fr.RESULT, Reg.Fr.SLOT], ∀ g ∈ [Reg.Fr.BUSY, Reg.Fr.RESULT, Reg.Fr.SLOT], f ≠ g →
      (frFld p f).ix = (frFld p g).ix ∧ (frFld p f).off * 32 + (frFld p f).lsb ≠ (frFld p g).off * 32 + (frFld p g).lsb := by
    unfold frFld
    split <;> decide
  have hwidth : ∀ f, (frFld p f).w = f.w := fun f => by
    unfold frFld
    split <;> rfl
  unfold frAnswered
  refine ⟨?_, ?_, ?_⟩
  · rw [rd_wr_apart _ _ _ _ _ (hapart _ (by decide) _ (by decide) (by decide)), State.rd_wr_same, hwidth]
    exact Nat.mod_eq_of_lt (show j.1 < 2 ^ 3 by omega)
  · rw [State.rd_wr_same, hwidth]
    exact Nat.mod_eq_of_lt (show j.2 < 2 ^ 2 by omega)
  · rw [rd_wr_apart _ _ _ _ _ (hapart _ (by decide) _ (by decide) (by decide)), rd_wr_apart _ _ _ _ _ (hapart _ (by decide) _ (by decide) (by decide)),
      State.rd_wr_same]
    exact Nat.zero_mod _

/-- The keys that an evaluation of the licensed regions writes (R398). -/
def evalKeys : List Nat := keysOf licP [Reg.Li.EFF_REGIONS, Reg.Li.EFF_COMPL, Reg.Li.REDUCED] ++ logKeys

theorem evalRegions_off (s : State) : Off evalKeys s (evalRegions s) := by
  unfold evalRegions
  extract_lets e old c u
  have hu : Off evalKeys s u := ((Off.refl _ s).wr (by simp [evalKeys, keysOf])).wr (by simp [evalKeys, keysOf])
  exact Off.ite (panelEvent_off _ _ _ _ _ _ (hu.setBit (by simp [evalKeys, keysOf])) (List.subset_append_right _ _)) hu

/-- Their keys are those of two pages of the panel. -/
theorem evalKeys_range {k : Nat} (h : k ∈ evalKeys) : logP * 32 ≤ k ∧ k < licP * 32 + 0x20000 := by
  have hlic : ∀ f ∈ [Reg.Li.EFF_REGIONS, Reg.Li.EFF_COMPL, Reg.Li.REDUCED], f.ix = false ∧ f.off * 32 + f.lsb < 0x20000 := by decide
  have hlog : ∀ f ∈ [Reg.Lo.LOG_NEXT_SEQ, Reg.Lo.LOG_DROP_CNT, Reg.Lo.DROP], f.ix = false ∧ f.off * 32 + f.lsb < 0x20000 := by decide
  unfold licP logP
  rcases List.mem_append.1 h with h | h
  · obtain ⟨f, hf, rfl⟩ := List.mem_map.1 h
    have := paged_key (p := licP) (hlic f hf)
    unfold licP at *
    omega
  · obtain ⟨f, hf, rfl⟩ := List.mem_map.1 h
    have := paged_key (p := logP) (hlog f hf)
    unfold logP at *
    omega

theorem frAssessed_off (s : State) (q : FrReq) (j : Nat × Nat) : Off (fldKey regionP (Reg.Rg.ASSIGN_ERR q.r) :: evalKeys) s (frAssessed s q j) := by
  have heval : Off (fldKey regionP (Reg.Rg.ASSIGN_ERR q.r) :: evalKeys) s (evalRegions s) := (evalRegions_off s).mono (List.subset_cons_self ..)
  unfold frAssessed
  exact Off.ite ((Off.ite (Off.refl _ s) heval).wr List.mem_cons_self) (Off.refl _ s)

theorem assignErrKey (r : Nat) : fldKey regionP (Reg.Rg.ASSIGN_ERR r) = (regionP + (0x54 + 32 * r)) * 32 + 4 := rfl

/-- The page of PF0's request lies below the region page; a VF's lies above, and names its own region. -/
theorem frPage_cases (s : State) {p : Nat} (hp : p ≤ 16) : frPage p = 0x3000 ∨ (0x40000000 ≤ frPage p ∧ frPage p < 0x60000000 ∧ (frRead s p).r ≤ 15) := by
  by_cases h0 : p = 0
  · subst h0
    exact Or.inl rfl
  · refine Or.inr ?_
    have hr : (frRead s p).r = p - 1 := if_neg h0
    rw [hr, frPage, if_neg h0, vfP]
    omega

/-- A field of a party's request is none of those that an assessment writes. -/
theorem frAssessed_rd (s u : State) {p : Nat} (j : Nat × Nat) {f : Fld} (hf : f ∈ [Reg.Fr.BUSY, Reg.Fr.RESULT, Reg.Fr.SLOT]) (hp : p ≤ 16) :
    (frAssessed u (frRead s p) j).rd (frPage p) (frFld p f) = u.rd (frPage p) (frFld p f) := by
  have hpaged : Paged (frFld p f) := by
    unfold frFld Paged
    revert f
    split <;> decide
  have hk := paged_key (p := frPage p) hpaged
  refine (frAssessed_off u (frRead s p) j).rd _ _ (fun hmem => ?_)
  have hpage := frPage_cases s hp
  rcases List.mem_cons.1 hmem with hassign | heval
  · rw [assignErrKey] at hassign
    unfold regionP at hassign
    omega
  · have := evalKeys_range heval
    unfold licP logP at this
    omega

/-- A slot's field is none of those that an answer or an assessment writes. -/
theorem frAssessed_slot (s u : State) {p : Nat} (j j' : Nat × Nat) {g : Fld} (hp : p ≤ 16) (hg : g.ix = true) (hl : g.lsb % 32 ≠ 4) :
    (frAssessed (frAnswered u p j) (frRead s p) j').rd freqP g = u.rd freqP g := by
  have hpage := frPage_cases s hp
  have hge := indexedKey_ge (p := freqP) hg
  have hmod : fldKey freqP g % 32 = g.lsb % 32 := by
    unfold fldKey
    rw [if_pos hg]
    omega
  have hpaged : ∀ f ∈ [Reg.Fr.BUSY, Reg.Fr.RESULT, Reg.Fr.SLOT], Paged (frFld p f) := by
    unfold frFld Paged
    split <;> decide
  have hne : ∀ f ∈ [Reg.Fr.BUSY, Reg.Fr.RESULT, Reg.Fr.SLOT], fldKey (frPage p) (frFld p f) ≠ fldKey freqP g := fun f hf =>
    (indexedKey_ne_paged hg (hpaged f hf) (by omega)).symm
  rw [(frAssessed_off _ _ _).rd _ _ (fun hmem => ?_)]
  · unfold frAnswered
    rw [State.rd_wr_ne _ _ _ _ _ _ (hne _ (by decide)), State.rd_wr_ne _ _ _ _ _ _ (hne _ (by decide)), State.rd_wr_ne _ _ _ _ _ _ (hne _ (by decide))]
  · rcases List.mem_cons.1 hmem with hassign | heval
    · rw [assignErrKey] at hassign
      omega
    · have := evalKeys_range heval
      unfold licP at this
      omega

/-- The fields of a slot stand apart. -/
theorem slotFlds_apart (n : Nat) : ([Reg.Fr.SLOT_TARGET_LO n, Reg.Fr.SLOT_TARGET_HI n, Reg.Fr.SLOT_ACTIONS n, Reg.Fr.SLOT_FSTATE n,
    Reg.Fr.SLOT_STATE n].map (fun f => (f.ix, f.off * 32 + f.lsb))) =
      [(true, (0x20000 + 2 * n) * 32), (true, (0x20001 + 2 * n) * 32), (true, (0x20001 + 2 * n) * 32 + 16), (true, (0x20001 + 2 * n) * 32 + 22),
        (true, (0x20001 + 2 * n) * 32 + 24)] := rfl

/-- Two indexed fields of one page. -/
theorem rd_wr_place (s : State) {f g : Fld} {x y : Nat} (p v : Nat) (hf : (f.ix, f.off * 32 + f.lsb) = (true, x))
    (hg : (g.ix, g.off * 32 + g.lsb) = (true, y)) (h : x ≠ y) : (s.wr p f v).rd p g = s.rd p g := by
  obtain ⟨hfx, hfo⟩ := Prod.mk.inj hf
  obtain ⟨hgx, hgo⟩ := Prod.mk.inj hg
  exact rd_wr_apart s f g p v ⟨hfx.trans hgx.symm, by rwa [hfo, hgo]⟩

/-- R380: an armed slot holds what was written. -/
theorem frArmed_shows (s : State) (q : FrReq) (k : Nat) :
    slotState (frArmed s q k) q.r k = 1 ∧ slotTarget (frArmed s q k) q.r k = q.target % 2 ^ 48 ∧
      slotActs (frArmed s q k) q.r k = q.acts % 2 ^ (Reg.Fr.SLOT_ACTIONS 0).w ∧
      tabGet (fun _ => 0) ((frArmed s q k).region q.r).reqCfg k = q.cfg ∧ tabGet (fun _ => 0) ((frArmed s q k).region q.r).reqDone k = 0 := by
  unfold slotState slotTarget slotActs frArmed
  generalize slotNo q.r k = n
  have hplaces := slotFlds_apart n
  simp only [List.map_cons, List.map_nil, List.cons.injEq, and_true] at hplaces
  obtain ⟨hlo, hhi, hacts, hfs, hst⟩ := hplaces
  extract_lets m s1 s2 g
  rw [State.region_setRegion_same]
  simp only [State.rd_setRegion]
  have hs1 : s1.rd freqP (Reg.Fr.SLOT_TARGET_LO n) = q.target % 2 ^ 32 ∧ s1.rd freqP (Reg.Fr.SLOT_TARGET_HI n) = q.target / 2 ^ 32 % 2 ^ 16 := by
    refine ⟨?_, State.rd_wr_same ..⟩
    rw [show s1 = (s.wr freqP (Reg.Fr.SLOT_TARGET_LO n) q.target).wr freqP (Reg.Fr.SLOT_TARGET_HI n) (q.target / 2 ^ 32) from rfl,
      rd_wr_place _ _ _ hhi hlo (by omega), State.rd_wr_same]
    rfl
  have hs2 : ∀ f x, (f.ix, f.off * 32 + f.lsb) = (true, x) → x < (0x20001 + 2 * n) * 32 + 16 → s2.rd freqP f = s1.rd freqP f := fun f x hf hx => by
    rw [show s2 = ((s1.wr freqP (Reg.Fr.SLOT_ACTIONS n) q.acts).wr freqP (Reg.Fr.SLOT_FSTATE n) q.fs).wr freqP (Reg.Fr.SLOT_STATE n) 1 from rfl,
      rd_wr_place _ _ _ hst hf (by omega), rd_wr_place _ _ _ hfs hf (by omega), rd_wr_place _ _ _ hacts hf (by omega)]
  refine ⟨State.rd_wr_same .., ?_, ?_, tabGet_set_same .., tabGet_set_same ..⟩
  · rw [hs2 _ _ hlo (by omega), hs2 _ _ hhi (by omega), hs1.1, hs1.2]
    omega
  · rw [show s2 = ((s1.wr freqP (Reg.Fr.SLOT_ACTIONS n) q.acts).wr freqP (Reg.Fr.SLOT_FSTATE n) q.fs).wr freqP (Reg.Fr.SLOT_STATE n) 1 from rfl,
      rd_wr_place _ _ _ hst hacts (by omega), rd_wr_place _ _ _ hfs hacts (by omega), State.rd_wr_same]
    rfl

theorem frArmed_answer (u : State) (q : FrReq) (k : Nat) {s : State} {p : Nat} (hp : p ≤ 16) {f : Fld} (hf : f ∈ [Reg.Fr.BUSY, Reg.Fr.RESULT, Reg.Fr.SLOT]) :
    (frArmed u q k).rd (frPage p) (frFld p f) = u.rd (frPage p) (frFld p f) := by
  have hpaged : Paged (frFld p f) := by
    unfold frFld Paged
    revert f
    split <;> decide
  have hpage := frPage_cases s hp
  have hne : ∀ g : Fld, g.ix = true → fldKey freqP g ≠ fldKey (frPage p) (frFld p f) := fun g hg => indexedKey_ne_paged hg hpaged (by omega)
  unfold frArmed
  simp only [State.rd_setRegion]
  rw [State.rd_wr_ne _ _ _ _ _ _ (hne _ rfl), State.rd_wr_ne _ _ _ _ _ _ (hne _ rfl), State.rd_wr_ne _ _ _ _ _ _ (hne _ rfl),
    State.rd_wr_ne _ _ _ _ _ _ (hne _ rfl), State.rd_wr_ne _ _ _ _ _ _ (hne _ rfl)]

/-- R143, R380: FR_GO answers what it judges of the request. -/
theorem frGo_answers (s : State) {p : Nat} (hp : p ≤ 16) {f : Fld} (hf : f ∈ [Reg.Fr.BUSY, Reg.Fr.RESULT, Reg.Fr.SLOT]) :
    (frGo s p).rd (frPage p) (frFld p f) = (frAnswered s p (frJudge s (frRead s p))).rd (frPage p) (frFld p f) := by
  rw [frGo_eq]
  split
  · exact frAssessed_rd s _ _ hf hp
  · exact (frArmed_answer (s := s) _ _ _ hp hf).trans (frAssessed_rd s _ _ hf hp)

/-- R143: a request that is refused leaves every slot. -/
theorem frGo_refused (s : State) {p : Nat} (hp : p ≤ 16) (hj : (frJudge s (frRead s p)).1 ≠ 1) (x y : Nat) :
    slotState (frGo s p) x y = slotState s x y := by
  rw [frGo_eq, if_pos hj]
  exact frAssessed_slot s s _ _ hp rfl (by simp only [Reg.Fr.SLOT_STATE]; omega)

/-- Settles O36: FR_GO by its code, and each action by what it leaves of every site of the region and of its slot. -/
theorem frameRequests : Obligations.FrameRequests := by
  unfold Obligations.FrameRequests
  intro s r k hr hk is applied
  have hunit : (regionOk r && decide (k < 4)) = true := by simp [regionOk, hr, hk]
  have hkey : ∀ (p : Nat → Nat) (f : Fld) (o i : Nat), i ∈ is → p i = siteP i o → (Paged f ∧ o + 0x1000 ≤ 0x100000 ∨ Indexed f ∧ o < 0x100000) →
      fldKey (p i) f ∉ leaveKeys r k := fun p f o i hi hp hf => by
    rw [hp]
    exact groupKey_not_leave hr hk (hf.elim (fun h => groupKey_paged h.1 (regionSites_lt hi) h.2) (fun h => groupKey_indexed h.1 h.2))
  refine ⟨fun p hp hhost => ?go, fun missing hs hlead => ?cancel, fun hdue hs => ?freq, fun ha hl hf => ?up, fun fs f hd hf => ?down,
    fun hdue hs => ?cfg, fun hdue hs => ?swap⟩
  case go =>
    have hpage := frPage_cases s hp
    refine completes_onUnit rfl (decide_eq_true hp) ?_
    rw [hostAct_hosted hhost (by omega)]
    obtain ⟨hcode, hslot⟩ := frJudge_range s (frRead s p)
    obtain ⟨hres, hsl, hbusy⟩ := frAnswered_shows s p hcode hslot
    refine ⟨(frGo_answers s hp (by decide)).trans hres, (frGo_answers s hp (by decide)).trans hsl, (frGo_answers s hp (by decide)).trans hbusy,
      fun hj => ?_, fun hj x _ y _ => frGo_refused s hp hj x y⟩
    rw [frGo_eq, if_neg (not_not.2 hj)]
    exact frArmed_shows _ _ _
  case cancel => exact completes_onUnit rfl hunit (requestCancel_state missing hs hlead)
  case freq =>
    obtain ⟨u, happ, hramp, hview⟩ := freq_applied hr hk hdue hs
    refine completes_onUnit rfl hunit ⟨⟨happ.state, happ.done⟩, happ.rampUp.trans hramp, fun i hi => ?_⟩
    obtain ⟨hfs, hset, htr, hn⟩ : _ ∧ _ ∧ _ ∧ _ := by simpa only [freqView, Prod.mk.injEq] using hview i hi
    have hck : ∀ f, Paged f → (freq s r k).rd (sclkP i) f = u.rd (sclkP i) f := fun f hf =>
      happ.off.rd _ _ (hkey sclkP f 0x16000 i hi rfl (Or.inl ⟨hf, by decide⟩))
    have htn := happ.off.rd (tniP i) Reg.Tn.TRANSITION (hkey tniP _ 0x12000 i hi rfl (Or.inl ⟨⟨rfl, by decide⟩, by decide⟩))
    refine ⟨(hck _ ⟨rfl, by decide⟩).trans hfs, ?_, htn.trans htr, fun h => (hck _ ⟨rfl, by decide⟩).trans (hset.trans (if_neg h))⟩
    unfold State.site
    rw [happ.sites]
    exact hn
  case up => exact completes_onUnit rfl hunit (freqRampUp_shown ha hl hf)
  case down => exact completes_onUnit rfl (decide_eq_true hr) (freqRampDown_shown hd hf)
  case cfg =>
    obtain ⟨u, happ, hview⟩ := frameCfg_applied hr hk hdue hs
    refine completes_onUnit rfl hunit ⟨⟨happ.state, happ.done⟩, fun i hi => ?_⟩
    obtain ⟨hfl, hsl, hcp⟩ : _ ∧ _ ∧ _ := by simpa only [cfgView, cfgShown, Prod.mk.injEq] using hview i hi
    have htn : ∀ f, Paged f → (frameCfg s r k).rd (tniP i) f = u.rd (tniP i) f := fun f hf =>
      happ.off.rd _ _ (hkey tniP f 0x12000 i hi rfl (Or.inl ⟨hf, by decide⟩))
    exact ⟨(htn _ ⟨rfl, by decide⟩).trans hfl, (htn _ ⟨rfl, by decide⟩).trans hsl, (htn _ ⟨rfl, by decide⟩).trans hcp⟩
  case swap =>
    obtain ⟨u, happ, hview⟩ := schedSwap_applied hr hk hdue hs
    refine completes_onUnit rfl hunit ⟨⟨happ.state, happ.done⟩, fun i hi => ?_⟩
    obtain ⟨htable, hwst⟩ := hview i hi
    obtain ⟨hact, hsv, hwv⟩ : _ ∧ _ ∧ _ := by simpa only [tableView, Prod.mk.injEq] using htable
    have htn : ∀ f, Paged f → (schedSwap s r k).rd (tniP i) f = u.rd (tniP i) f := fun f hf =>
      happ.off.rd _ _ (hkey tniP f 0x12000 i hi rfl (Or.inl ⟨hf, by decide⟩))
    have hwe : ∀ f, Indexed f → (schedSwap s r k).rd (wellP i) f = u.rd (wellP i) f := fun f hf =>
      happ.off.rd _ _ (hkey wellP f 0x11000 i hi rfl (Or.inr ⟨hf, by decide⟩))
    refine ⟨(htn _ ⟨rfl, by decide⟩).trans hact, (htn _ ⟨rfl, by decide⟩).trans hsv, fun e he => ?_, ?_⟩
    · obtain ⟨hnew, hold⟩ := Prod.mk.inj (hwst e he)
      exact ⟨(hwe _ (wstAct_indexed he)).trans hnew, (hwe _ (wstSh_indexed he)).trans hold⟩
    · exact (happ.off.rd _ _ (hkey wellP Reg.We.SHADOW_VALID 0x11000 i hi rfl (Or.inl ⟨⟨rfl, by decide⟩, by decide⟩))).trans hwv

end Sys2Proof.Machine
end

section
/-! PROOFS. The end of a shadow run (R335): it writes no field of a timetable network's page, and beside keys of the panel only the pages of
the shadow; it sends nothing and draws nothing, and leaves nothing new to be applied but steps of margins. -/

namespace Sys2Proof.Machine

/-! ### Keys beside the timetable network (R364) -/

/-- A key that is none of a field of a site's timetable network page. -/
def besideNet (k : Nat) : Prop := ∀ i < 256, ∀ f, Paged f → k ≠ fldKey (tniP i) f

/-- The keys that the end of site `j`'s shadow run may write. -/
def shadowKey (j k : Nat) : Prop := besideNet k ∧ (panelKey k ∨ groupKey j k)

theorem besideNet_panel {k : Nat} (h : panelKey k) : besideNet k := fun i hi _ hf e =>
  sitePageKey_not_panel (i := i) (o := 0x12000) hf (by omega) (by decide) (e ▸ h)

theorem besideNet_page {j a : Nat} {f : Fld} (hf : Paged f) (ha : a < 256) (h : a ≠ 0x12) : besideNet (fldKey (siteP j (0x1000 * a)) f) :=
  fun _ _ _ hg => sitePageKey_ne (b := 0x12) hf hg ha (by decide) (Or.inr (Or.inl h))

theorem shadowKey_panel {j k : Nat} (h : panelKey k) : shadowKey j k := ⟨besideNet_panel h, Or.inl h⟩

theorem shadowKey_page {j a : Nat} {f : Fld} (hj : j < 256) (hf : Paged f) (ha : a < 256) (h : a ≠ 0x12) :
    shadowKey j (fldKey (siteP j (0x1000 * a)) f) :=
  ⟨besideNet_page hf ha h, Or.inr (groupKey_paged hf hj (by omega))⟩

/-- A core's page among the pages of its site (R364). -/
theorem coreP_eq (c : CoreId) : coreP c = siteP c.site (0x1000 * (c.n + 1)) := by
  unfold coreP siteP
  omega

theorem shadowKey_core {j n : Nat} {f : Fld} (hj : j < 256) (hn : n < 8) (hf : Paged f) : shadowKey j (fldKey (coreP ⟨j, n⟩) f) := by
  rw [coreP_eq]
  exact shadowKey_page (a := n + 1) hj hf (by omega) (by omega)

theorem shadowKey_log (j : Nat) : ∀ k ∈ logKeys, shadowKey j k := fun k hk => shadowKey_panel (logKeys_panel k hk)

theorem shadowKey_suspect {j k : Nat} (hj : j < 256) (h : k ∈ suspectKeys j) : shadowKey j k := by
  rcases suspectKeys_cases h with hrel | rfl | hpanel
  · have hpaged : ∀ f ∈ [Reg.Re.SUSPECT, Reg.Re.SUSPECT_CNT, Reg.Re.MARGIN_STEP], f.ix = false ∧ f.off * 32 + f.lsb < 0x20000 := by decide
    obtain ⟨f, hf, rfl⟩ := List.mem_map.1 hrel
    exact shadowKey_page (a := 0x17) hj (hpaged f hf) (by decide) (by decide)
  · exact shadowKey_page (a := 0) hj ⟨rfl, by decide⟩ (by decide) (by decide)
  · exact shadowKey_panel hpanel

/-! ### What `π` may read of a site -/

/-- `π` reads nothing that the end of a shadow run changes of a site (R326, R335). -/
structure ShadowBlind {α : Type} (π : Site → α) : Prop where
  held : ∀ (x : Site) n, π { x with holdOff := n } = π x
  failed : ∀ x : Site, π { x with failed := true } = π x
  mirrors : ∀ x : Site, π { x with mirTo := 256, digOn := false } = π x
  left : ∀ (x : Site) l, π { x with leftAt := l, join := 16, digOn := false, digs := [], mirDig := [], mirror := [] } = π x

section
variable {α : Type} {π : Site → α} {q s : State} {j : Nat}

theorem mem_coresOf_site {c : CoreId} (h : c ∈ coresOf [j]) : c.site = j ∧ c.n < 8 := by
  obtain ⟨i, hi, hc⟩ := List.mem_flatMap.1 h
  obtain ⟨n, hn, rfl⟩ := List.mem_map.1 hc
  exact ⟨List.mem_singleton.1 hi, List.mem_range.1 hn⟩

/-- A list's operations, of which each stays within `K`. -/
theorem Aside.foldlMem {K : Nat → Prop} {β : Type} {g : State → β → State} {l : List β} (hg : ∀ s, ∀ a ∈ l, Aside π K q s → Aside π K q (g s a))
    (h : Aside π K q s) : Aside π K q (l.foldl g s) := by
  induction l generalizing s with
  | nil => exact h
  | cons a l ih => exact ih (fun s b hb => hg s b (List.mem_cons_of_mem a hb)) (hg _ a List.mem_cons_self h)

theorem Aside.setCore {K : Nat → Prop} (h : Aside π K q s) (c : CoreId) (v : Core) : Aside π K q (s.setCore c v) := h.same

theorem clearCore_shadowKey (hj : j < 256) {n : Nat} (hn : n < 8) (h : Aside π (shadowKey j) q s) (v : Core) :
    Aside π (shadowKey j) q (upTo 8 (fun s k => s.wr (coreP ⟨j, n⟩) (Reg.Co.RMAX k) 0)
      ((((s.wr (coreP ⟨j, n⟩) Reg.Co.BUF_A_VALID 0).wr (coreP ⟨j, n⟩) Reg.Co.BUF_B_VALID 0).setCore ⟨j, n⟩ v).wr (coreP ⟨j, n⟩) Reg.Co.RNG_STATE 1)) := by
  have hkey : ∀ f, Paged f → shadowKey j (fldKey (coreP ⟨j, n⟩) f) := fun f hf => shadowKey_core hj hn hf
  refine Aside.foldlMem (fun u k hk hu => hu.wr (hkey _ ⟨rfl, ?_⟩)) ((((h.wr (hkey _ ⟨rfl, by decide⟩)).wr (hkey _ ⟨rfl, by decide⟩)).setCore _ _).wr
    (hkey _ ⟨rfl, by decide⟩))
  have := List.mem_range.1 hk
  simp only [Reg.Co.RMAX]
  omega

theorem clearSram_shadowKey (hj : j < 256) (s : State) : Aside π (shadowKey j) s (clearSram s j) := by
  unfold clearSram
  exact Aside.foldlMem (fun u n hn hu => clearCore_shadowKey hj (List.mem_range.1 hn) hu _) (Aside.refl s).same

/-- R335: the end of a shadow run, but for the keys that it may write and what it changes of sites. -/
theorem shadowEnd_shadowKey (hπ : ShadowBlind π) (hj : j < 256) (s : State) (st why : Nat) : Aside π (shadowKey j) s (shadowEnd s j st why) := by
  have hrel : ∀ f, Paged f → shadowKey j (fldKey (relP j) f) := fun f hf => shadowKey_page (a := 0x17) hj hf (by decide) (by decide)
  have hspow : ∀ f, Paged f → shadowKey j (fldKey (spowP j) f) := fun f hf => shadowKey_page (a := 0x15) hj hf (by decide) (by decide)
  unfold shadowEnd
  extract_lets p s1 s2 s3 s4 s5 s6 s7 s8 s9 s10
  have h1 : Aside π (shadowKey j) s s1 := ((Aside.refl s).wr (hrel _ ⟨rfl, by decide⟩)).wr (hrel _ ⟨rfl, by decide⟩)
  have h2 : Aside π (shadowKey j) s s2 := Aside.ite (h1.setBit (hrel _ ⟨rfl, by decide⟩)) h1
  have h3 : Aside π (shadowKey j) s s3 := Aside.ite (h2.setBit (hrel _ ⟨rfl, by decide⟩)) h2
  have h4 : Aside π (shadowKey j) s s4 := siteEvent_aside h3 (shadowKey_log j) _ _ _ _ _ _ _
  have h5 : Aside π (shadowKey j) s s5 :=
    Aside.ite (h4.trans ((suspect_aside hπ.held hπ.failed s4 j).mono (fun _ => shadowKey_suspect hj))) h4
  have h6 : Aside π (shadowKey j) s s6 := h5.trans (clearSram_shadowKey hj _)
  have h7 : Aside π (shadowKey j) s s7 := Aside.foldlMem (fun u c hc hu => by
    obtain ⟨hsite, hn⟩ := mem_coresOf_site hc
    exact hu.wr (hsite ▸ shadowKey_core (hsite ▸ hj) hn ⟨rfl, by decide⟩)) h6
  have h9 : Aside π (shadowKey j) s s9 := ((h7.wr (hspow _ ⟨rfl, by decide⟩)).wr (hspow _ ⟨rfl, by decide⟩)).wr (hspow _ ⟨rfl, by decide⟩)
  clear_value s9
  have h10 : Aside π (shadowKey j) s s10 := Aside.upTo (n := 256) (s := s9) (fun u b h => Aside.ite (h.setSite (hπ.mirrors _)) h) h9
  clear_value s10
  exact Aside.ite (Aside.refl s) (Aside.ite h5 (h10.setSite (hπ.left _ _)))

/-- A key that the end of site `j`'s shadow run does not write, if there is one. -/
theorem shadowEnd_find (hj : j < 256) (st why : Nat) {κ : Nat} (h : isShadow s j = true → ¬ shadowKey j κ) :
    tabFind (shadowEnd s j st why).regs κ = tabFind s.regs κ := by
  by_cases hrun : isShadow s j = true
  · exact (shadowEnd_shadowKey (π := fun _ => ()) ⟨fun _ _ => rfl, fun _ => rfl, fun _ => rfl, fun _ _ => rfl⟩ hj s st why).find κ (h hrun)
  · unfold shadowEnd
    rw [if_pos (by simp [hrun])]

end

/-! ### What a site sends -/

/-- A step of a site's margin that waits to be applied (R326, R373). -/
def marginStep (b : Nat × Nat × Nat × Nat) : Prop := ∃ j, b.1 = spowP j ∧ b.2.2.1 = fldKey (spowP j) Reg.Sp.MARGIN

/-- Nothing is sent, nothing drawn, and nothing new waits to be applied but steps of margins. -/
structure Silent (s t : State) : Prop where
  out : t.out = s.out
  drawn : t.drawn = s.drawn
  waits : ∀ b ∈ t.pendBa, b ∈ s.pendBa ∨ marginStep b

section
variable {s t u : State}

theorem Silent.refl (s : State) : Silent s s := ⟨rfl, rfl, fun _ h => Or.inl h⟩

theorem Silent.trans (h : Silent s t) (g : Silent t u) : Silent s u :=
  ⟨g.out.trans h.out, g.drawn.trans h.drawn, fun b hb => (g.waits b hb).elim (h.waits b) Or.inr⟩

/-- A change of nothing that is sent, drawn or waits. -/
theorem Silent.same (h : Silent s t) (ho : u.out = t.out := by rfl) (hd : u.drawn = t.drawn := by rfl) (hp : u.pendBa = t.pendBa := by rfl) :
    Silent s u := h.trans ⟨ho, hd, fun _ hb => Or.inl (hp ▸ hb)⟩

theorem Silent.ite {p : Prop} [Decidable p] (h : Silent s t) (g : Silent s u) : Silent s (if p then t else u) := by split <;> assumption

theorem Silent.wr (h : Silent s t) (p : Nat) (f : Fld) (v : Nat) : Silent s (t.wr p f v) := h.same

theorem Silent.bump (h : Silent s t) (p : Nat) (f : Fld) (k : Nat) : Silent s (t.bump p f k) := Silent.ite h (h.wr ..)

theorem Silent.setSite (h : Silent s t) (i : Nat) (v : Site) : Silent s (t.setSite i v) := h.same

theorem Silent.setCore (h : Silent s t) (c : CoreId) (v : Core) : Silent s (t.setCore c v) := h.same

theorem Silent.setRegion (h : Silent s t) (r : Nat) (v : Region) : Silent s (t.setRegion r v) := h.same

/-- R326: a step of a site's margin that is to be applied. -/
theorem Silent.margin (h : Silent s t) (j r v : Nat) : Silent s (baWrite t (spowP j) r Reg.Sp.MARGIN v) := by
  refine h.trans ⟨rfl, rfl, fun b hb => (List.mem_append.1 hb).imp_right (fun hb => ?_)⟩
  rw [List.mem_singleton.1 hb]
  exact ⟨j, rfl, rfl⟩

theorem Silent.withMem (h : Silent s t) (m : Mem) : Silent s { t with mem := m } := h.same

theorem Silent.outOfService (h : Silent s t) (b : Bool) : Silent s { t with outOfService := b } := h.same

theorem Silent.logged (h : Silent s t) (g : Logged t u) : Silent s u := h.same (by rw [g.rest]) (by rw [g.rest]) (by rw [g.rest])

theorem Silent.foldl {β : Type} {g : State → β → State} {l : List β} (hg : ∀ u a, Silent s u → Silent s (g u a)) (h : Silent s t) :
    Silent s (l.foldl g t) := by
  induction l generalizing t with
  | nil => exact h
  | cons a l ih => exact ih (hg _ _ h)

theorem faultRegion_silent (s : State) (r fc k : Nat) : Silent s (faultRegion s r fc k) := by
  unfold faultRegion
  exact Silent.ite (Silent.refl s) ((Silent.refl s).setRegion _ _)

theorem remapRefuse_silent (s : State) (i : Nat) : Silent s (remapRefuse s i) := by
  unfold remapRefuse
  exact Silent.ite (Silent.refl s).same (Silent.refl s)

theorem siteFail_silent (s : State) (i : Nat) (link : Bool) : Silent s (siteFail s i link) := by
  have hrow : ∀ u y, Silent u (faultRow u y) := fun u y => Silent.foldl (fun v _ h => h.trans (faultRegion_silent ..)) (Silent.refl u)
  unfold siteFail
  extract_lets y st again role s1 s2 s3 s4 s5 s6 s7
  have h1 : Silent s s1 := ((Silent.refl s).setSite ..).trans (remapRefuse_silent ..)
  have h2 : Silent s s2 := h1.wr ..
  have h3 : Silent s s3 := h2.trans (hrow ..)
  have h5 : Silent s s5 := (h2.wr ..).wr ..
  have h6 : Silent s s6 := h5.trans (hrow ..)
  have h7 : Silent s s7 := Silent.ite (h5.wr ..) h5
  exact Silent.ite (Silent.ite (h3.outOfService true) h3) (Silent.ite (h6.outOfService true) (h7.logged (siteEvent_logged ..)))

theorem suspect_silent (s : State) (i : Nat) : Silent s (suspect s i) := by
  unfold suspect
  extract_lets p s1 x r act m s2 s3 g s4
  have h1 : Silent s s1 := (Silent.refl s).logged (((Logged.refl s).setBit ..).bump ..)
  have hact : ∀ u, Silent s u → Silent s (act u) := fun u h => h.setSite ..
  have h2 : Silent s s2 := (h1.margin ..).wr ..
  have h3 : Silent s s3 := h1.wr ..
  have h4 : Silent s s4 := h3.setRegion ..
  clear_value s4 s3 s2 s1 act
  exact Silent.ite h1 (Silent.ite (hact _ (h2.logged (siteEvent_logged ..))) (Silent.ite h1
    (Silent.ite (hact _ (h4.logged (siteEvent_logged ..))) (Silent.ite (hact _ (h1.trans (siteFail_silent ..))) h1))))

theorem clearSram_silent (s : State) (i : Nat) : Silent s (clearSram s i) := by
  unfold clearSram
  exact Silent.foldl (fun u n hu => Silent.foldl (fun v k hv => hv.wr ..) ((((hu.wr ..).wr ..).setCore ..).wr ..)) ((Silent.refl s).withMem _)

theorem shadowEnd_silent (s : State) (j st why : Nat) : Silent s (shadowEnd s j st why) := by
  unfold shadowEnd
  extract_lets p s1 s2 s3 s4 s5 s6 s7 s8 s9 s10
  have h1 : Silent s s1 := ((Silent.refl s).wr ..).wr ..
  have h2 : Silent s s2 := Silent.ite (h1.wr ..) h1
  have h3 : Silent s s3 := Silent.ite (h2.wr ..) h2
  have h4 : Silent s s4 := h3.logged (siteEvent_logged ..)
  have h5 : Silent s s5 := Silent.ite (h4.trans (suspect_silent ..)) h4
  have h6 : Silent s s6 := h5.trans (clearSram_silent ..)
  have h7 : Silent s s7 := Silent.foldl (fun _ _ h => h.wr ..) h6
  have h9 : Silent s s9 := ((h7.wr ..).wr ..).wr ..
  clear_value s9
  have h10 : Silent s s10 := Silent.foldl (fun _ _ h => Silent.ite (h.setSite ..) h) h9
  clear_value s10
  exact Silent.ite (Silent.refl s) (Silent.ite h5 (h10.setSite ..))

end

end Sys2Proof.Machine
end

section
/-! PROOFS. A site late before the cutoff (R127 to R130): the extension that its island takes, and the trap of every running core of its
region once the frame has been extended twice. -/

namespace Sys2Proof.Machine

/-! ### The trap of the extension limit (R129, R169) -/

/-- A key of a page group that is none of the panel is a key of that site's shadow alone. -/
theorem shadowKey_site {j k κ : Nat} (h : shadowKey j κ) (hg : groupKey k κ) (hp : ¬ panelKey κ) : j = k :=
  groupKey_unique (h.2.resolve_left hp) hg

/-- What a core's stop writes, its site's shadow run may write. -/
theorem stopKey_shadow {c : CoreId} {κ : Nat} (hc : coreOk c = true) (h : stopKey c κ) : shadowKey c.site κ := by
  have hsite : c.site < 256 ∧ c.n < 8 := by simpa [coreOk] using hc
  rcases h with h | h | h
  · exact shadowKey_panel h
  · exact shadowKey_suspect hsite.1 h
  · obtain ⟨f, hf, rfl⟩ := List.mem_map.1 h
    have hpaged : ∀ f ∈ stopFields, f.ix = false ∧ f.off * 32 + f.lsb < 0x20000 := by decide
    exact shadowKey_core hsite.1 hsite.2 (hpaged f hf)

section
variable {s : State} {c : CoreId} {t : TrapInfo} {κ : Nat}

/-- A late frame's trap up to what the stop does to a shadow, a buddy or a region: recorded, the core stopped, the event told. -/
def lateStop (s : State) (c : CoreId) (t : TrapInfo) (k : Core) : State :=
  siteEvent ((stopped (coreRecord s c t).1 c t).setCore c k) c.site 4 2 (tniP c.site) Reg.Tn.regs

theorem coreTrap_late (hty : t.ty = 7) (hst : ¬ (s.rd (coreP c) Reg.Co.STATE = 4 ∨ s.rd (coreP c) Reg.Co.STATE = 5)) :
    ∃ k, coreTrap s c t true = if isShadow (lateStop s c t k) c.site then shadowEnd (lateStop s c t k) c.site 4 2
      else faultRegion (buddyEnds (lateStop s c t k) c.site) ((lateStop s c t k).site c.site).region ((lateStop s c t k).site c.site).fc 1 := by
  have hne : ∀ n, n ≠ 7 → ¬ t.ty = n := fun n hn h => hn (h.symm.trans hty)
  unfold coreTrap
  rw [if_neg hst]
  rcases hrec : coreRecord s c t with ⟨u, b⟩
  dsimp -zeta only
  extract_lets s1 s2 k s3 s4 s5 s6 s7
  have h4 : s4 = s3 := if_neg (hne 5 (by decide))
  have h5 : s5 = siteEvent s4 c.site 4 2 (tniP c.site) Reg.Tn.regs := if_pos hty
  have h6 : s6 = s5 := if_neg (hne 8 (by decide))
  have h7 : s7 = s6 := if_neg (hne 9 (by decide))
  obtain ⟨k', h3⟩ : ∃ k', s3 = s2.setCore c k' := ⟨_, rfl⟩
  have hstop : s7 = lateStop s c t k' := by
    rw [h7, h6, h5, h4, h3, lateStop, hrec]
    rfl
  exact ⟨k', by rw [hstop]⟩

theorem lateStop_aside (k : Core) : Aside (fun _ => ()) (stopKey c) s (lateStop s c t k) := by
  have hstop : Aside (fun _ => ()) (stopKey c) s (stopped (coreRecord s c t).1 c t) :=
    stopped_aside ((coreRecord_aside (Aside.refl s) t).mono (fun _ => recordKey_stop)) t
  exact siteEvent_aside (hstop.setCore c k) (fun κ hκ => Or.inl (logKeys_panel κ hκ)) _ _ _ _ _ _ _

/-- A key that neither the stop of core `c` nor the end of a shadow run writes stands. -/
theorem coreTrap_late_find (hty : t.ty = 7) (hc : coreOk c = true) (hstop : ¬ stopKey c κ) (hsupp : κ ≠ fldKey (coreP c) Reg.Co.SEQ_TRAP_SUPP)
    (hshadow : ∀ j < 256, isShadow s j = true → ¬ shadowKey j κ) : tabFind (coreTrap s c t true).regs κ = tabFind s.regs κ := by
  have hsite : c.site < 256 ∧ c.n < 8 := by simpa [coreOk] using hc
  by_cases hst : s.rd (coreP c) Reg.Co.STATE = 4 ∨ s.rd (coreP c) Reg.Co.STATE = 5
  · unfold coreTrap
    rw [if_pos hst]
    exact ((Off.refl [fldKey (coreP c) Reg.Co.SEQ_TRAP_SUPP] s).bump (List.mem_singleton_self _)).find κ (fun h => hsupp (List.mem_singleton.1 h))
  · obtain ⟨k, heq⟩ := coreTrap_late hty hst
    have hu : Aside (fun _ => ()) (stopKey c) s (lateStop s c t k) := lateStop_aside k
    rw [heq]
    generalize lateStop s c t k = u at hu ⊢
    have hstate : ∀ j < 256, isShadow u j = isShadow s j := fun j hj => by
      have hkey : ¬ stopKey c (fldKey (relP j) Reg.Re.SHADOW_STATE) := fun h => by
        have hj' : c.site = j := shadowKey_site (stopKey_shadow hc h) (groupKey_paged (o := 0x17000) ⟨rfl, by decide⟩ hj (by decide))
          (sitePageKey_not_panel (o := 0x17000) ⟨rfl, by decide⟩ (by omega) (by decide))
        exact shadowKey_not_stop hc (hj' ▸ h)
      unfold isShadow
      rw [hu.rd hkey]
    have hend : ∀ j < 256, ∀ st why, tabFind (shadowEnd u j st why).regs κ = tabFind s.regs κ := fun j hj st why =>
      (shadowEnd_find hj st why (fun h => hshadow j hj ((hstate j hj).symm.trans h))).trans (hu.find κ hstop)
    split
    · exact hend _ hsite.1 _ _
    · rw [faultRegion_regs]
      unfold buddyEnds
      split
      next hbuddy => exact hend _ hbuddy _ _
      next => exact hu.find κ hstop

/-- A page of a site that is no shadow stands at the end of a shadow run. -/
theorem shadowKey_plain {u : State} {i j : Nat} (hplain : isShadow u i = false) (hg : groupKey i κ) (hp : ¬ panelKey κ) (h : isShadow u j = true) :
    ¬ shadowKey j κ := fun hk => by
  rw [shadowKey_site hk hg hp, hplain] at h
  exact Bool.false_ne_true h

/-- A field of a core's page. -/
theorem coreKey_group (hc : coreOk c = true) {f : Fld} (hf : Paged f) : groupKey c.site (fldKey (coreP c) f) := by
  have hsite : c.site < 256 ∧ c.n < 8 := by simpa [coreOk] using hc
  exact groupKey_paged hf hsite.1 (by omega)

theorem stopped_state (u : State) (c : CoreId) (t : TrapInfo) : (stopped u c t).rd (coreP c) Reg.Co.STATE = 4 := by
  have hset : (u.wr (coreP c) Reg.Co.STATE 4).rd (coreP c) Reg.Co.STATE = 4 := State.rd_wr_same ..
  unfold stopped
  extract_lets p v
  split
  · rw [rd_wr_apart _ _ _ _ _ (by decide), rd_wr_apart _ _ _ _ _ (by decide), rd_wr_apart _ _ _ _ _ (by decide), hset]
  · exact hset

/-- R169: the trap leaves its core stopped, where its site is no shadow. -/
theorem coreTrap_late_state (hty : t.ty = 7) (hc : coreOk c = true) (hplain : isShadow s c.site = false)
    (hst : s.rd (coreP c) Reg.Co.STATE = 2 ∨ s.rd (coreP c) Reg.Co.STATE = 4) : (coreTrap s c t true).rd (coreP c) Reg.Co.STATE = 4 := by
  rcases hst with hrun | hstopped
  · obtain ⟨k, heq⟩ := coreTrap_late (s := s) (c := c) hty (by omega)
    have hu : Aside (fun _ => ()) (stopKey c) s (lateStop s c t k) := lateStop_aside k
    have hpanel := coreKey_not_panel hc (f := Reg.Co.STATE) ⟨rfl, by decide⟩
    have hstate : (lateStop s c t k).rd (coreP c) Reg.Co.STATE = 4 := by
      have hlog := siteEvent_off c.site 4 2 (tniP c.site) Reg.Tn.regs 0 1 (Off.refl logKeys ((stopped (coreRecord s c t).1 c t).setCore c k)) (List.Subset.refl _)
      exact (hlog.rd _ _ (fun h => hpanel (logKeys_panel _ h))).trans (stopped_state ..)
    have hshadow : isShadow (lateStop s c t k) c.site = false := by
      unfold isShadow at hplain ⊢
      rw [hu.rd (shadowKey_not_stop hc)]
      exact hplain
    rw [heq, if_neg (by simp [hshadow])]
    generalize lateStop s c t k = u at hstate hshadow ⊢
    unfold State.rd at hstate ⊢
    rw [faultRegion_regs]
    unfold buddyEnds
    split
    next hbuddy =>
      rw [shadowEnd_find hbuddy _ _ (shadowKey_plain hshadow (coreKey_group hc ⟨rfl, by decide⟩) hpanel)]
      exact hstate
    next => exact hstate
  · unfold coreTrap
    rw [if_pos (Or.inl hstopped), rd_bump_apart _ _ _ _ _ (by decide)]
    exact hstopped

/-- A trap at another core leaves a core's state, where its site is no shadow. -/
theorem coreTrap_late_other {d : CoreId} (hty : t.ty = 7) (hc : coreOk c = true) (hd : coreOk d = true) (hne : c ≠ d)
    (hplain : isShadow s d.site = false) : (coreTrap s c t true).rd (coreP d) Reg.Co.STATE = s.rd (coreP d) Reg.Co.STATE := by
  have hcn : c.site < 256 ∧ c.n < 8 := by simpa [coreOk] using hc
  have hdn : d.site < 256 ∧ d.n < 8 := by simpa [coreOk] using hd
  have hpanel := coreKey_not_panel hd (f := Reg.Co.STATE) ⟨rfl, by decide⟩
  have hgroup := coreKey_group hd (f := Reg.Co.STATE) ⟨rfl, by decide⟩
  have hpage : ∀ f, Paged f → fldKey (coreP d) Reg.Co.STATE ≠ fldKey (coreP c) f := fun f hf => by
    have hplace : d.site ≠ c.site ∨ d.n + 1 ≠ c.n + 1 := by
      by_contra h
      exact hne (by cases c; cases d; simp_all)
    rw [coreP_eq, coreP_eq]
    exact sitePageKey_ne ⟨rfl, by decide⟩ hf (by omega) (by omega) (hplace.imp_right Or.inl)
  have hstop : ¬ stopKey c (fldKey (coreP d) Reg.Co.STATE) := fun h => by
    have hsite : c.site = d.site := shadowKey_site (stopKey_shadow hc h) hgroup hpanel
    rcases h with h | h | h
    · exact hpanel h
    · exact coreKey_not_suspect hd ⟨rfl, by decide⟩ (hsite ▸ h)
    · obtain ⟨f, hf, e⟩ := List.mem_map.1 h
      have hpaged : ∀ f ∈ stopFields, f.ix = false ∧ f.off * 32 + f.lsb < 0x20000 := by decide
      exact hpage f (hpaged f hf) e.symm
  unfold State.rd
  rw [coreTrap_late_find hty hc hstop (hpage _ ⟨rfl, by decide⟩) (fun j _ h => shadowKey_plain hplain hgroup hpanel h)]

/-- Whether a site is a shadow stands at every trap, where it is none. -/
theorem coreTrap_late_plain {i : Nat} (hty : t.ty = 7) (hc : coreOk c = true) (hi : i < 256) (hplain : isShadow s i = false) :
    isShadow (coreTrap s c t true) i = false := by
  have hcn : c.site < 256 ∧ c.n < 8 := by simpa [coreOk] using hc
  have hpanel : ¬ panelKey (fldKey (relP i) Reg.Re.SHADOW_STATE) := sitePageKey_not_panel (o := 0x17000) ⟨rfl, by decide⟩ (by omega) (by decide)
  have hgroup : groupKey i (fldKey (relP i) Reg.Re.SHADOW_STATE) := groupKey_paged (o := 0x17000) ⟨rfl, by decide⟩ hi (by decide)
  have hstop : ¬ stopKey c (fldKey (relP i) Reg.Re.SHADOW_STATE) := fun h =>
    shadowKey_not_stop hc ((shadowKey_site (stopKey_shadow hc h) hgroup hpanel : c.site = i) ▸ h)
  have hsupp : fldKey (relP i) Reg.Re.SHADOW_STATE ≠ fldKey (coreP c) Reg.Co.SEQ_TRAP_SUPP := by
    rw [coreP_eq]
    exact sitePageKey_ne (a := 0x17) ⟨rfl, by decide⟩ ⟨rfl, by decide⟩ (by decide) (by omega) (Or.inr (Or.inl (by omega)))
  unfold isShadow State.rd at hplain ⊢
  rw [coreTrap_late_find hty hc hstop hsupp (fun j _ h => shadowKey_plain (u := s) hplain hgroup hpanel h)]
  exact hplain

/-- A field of a timetable network's page stands at every trap. -/
theorem coreTrap_late_net {i : Nat} {f : Fld} (hty : t.ty = 7) (hc : coreOk c = true) (hi : i < 256) (hf : Paged f) :
    (coreTrap s c t true).rd (tniP i) f = s.rd (tniP i) f := by
  have hcn : c.site < 256 ∧ c.n < 8 := by simpa [coreOk] using hc
  have hshadow : ∀ j, ¬ shadowKey j (fldKey (tniP i) f) := fun j h => h.1 i hi f hf rfl
  have hsupp : fldKey (tniP i) f ≠ fldKey (coreP c) Reg.Co.SEQ_TRAP_SUPP := by
    rw [coreP_eq]
    exact sitePageKey_ne (a := 0x12) hf ⟨rfl, by decide⟩ (by decide) (by omega) (Or.inr (Or.inl (by omega)))
  unfold State.rd
  rw [coreTrap_late_find hty hc (fun h => hshadow _ (stopKey_shadow hc h)) hsupp (fun j _ _ => hshadow j)]

end

/-! ### The extension limit (R129) -/

/-- What the traps of cores of a list leave. -/
structure Trapped (s t : State) : Prop where
  net : ∀ i < 256, ∀ f, Paged f → t.rd (tniP i) f = s.rd (tniP i) f
  plain : ∀ i < 256, isShadow s i = false → isShadow t i = false

theorem lateTraps_trapped {l : List CoreId} {info : State → CoreId → TrapInfo} (hty : ∀ u c, (info u c).ty = 7) (hl : ∀ c ∈ l, coreOk c = true)
    (s : State) : Trapped s (l.foldl (fun u c => coreTrap u c (info u c) true) s) := by
  induction l generalizing s with
  | nil => exact ⟨fun _ _ _ _ => rfl, fun _ _ h => h⟩
  | cons c l ih =>
    have hc := hl c List.mem_cons_self
    obtain ⟨hnet, hplain⟩ := ih (fun d hd => hl d (List.mem_cons_of_mem c hd)) (coreTrap s c (info s c) true)
    exact ⟨fun i hi f hf => (hnet i hi f hf).trans (coreTrap_late_net (hty s c) hc hi hf),
      fun i hi h => hplain i hi (coreTrap_late_plain (hty s c) hc hi h)⟩

/-- R129: each core of the list that runs is stopped, where its site is no shadow. -/
theorem lateTraps_stop {l : List CoreId} {info : State → CoreId → TrapInfo} (hty : ∀ u c, (info u c).ty = 7) (hl : ∀ c ∈ l, coreOk c = true)
    (s : State) {d : CoreId} (hd : coreOk d = true) (hplain : isShadow s d.site = false)
    (hst : (d ∈ l ∧ s.rd (coreP d) Reg.Co.STATE = 2) ∨ s.rd (coreP d) Reg.Co.STATE = 4) :
    (l.foldl (fun u c => coreTrap u c (info u c) true) s).rd (coreP d) Reg.Co.STATE = 4 := by
  induction l generalizing s with
  | nil => exact hst.resolve_left (fun h => absurd h.1 List.not_mem_nil)
  | cons c l ih =>
    have hc := hl c List.mem_cons_self
    have hdn : d.site < 256 ∧ d.n < 8 := by simpa [coreOk] using hd
    refine ih (fun e he => hl e (List.mem_cons_of_mem c he)) _ (coreTrap_late_plain (hty s c) hc hdn.1 hplain) ?_
    by_cases hcd : c = d
    · subst hcd
      exact Or.inr (coreTrap_late_state (hty s c) hc hplain (hst.imp_left And.right))
    · rw [coreTrap_late_other (hty s c) hc hd hcd hplain]
      exact hst.imp_left (fun h => ⟨(List.mem_cons.1 h.1).resolve_left (Ne.symm hcd), h.2⟩)

/-! ### The extension (R128, R130) -/

/-- What an extension shows at a site. -/
def extView (s : State) (i : Nat) : Nat × Nat := (s.rd (tniP i) Reg.Tn.EXT_NOW, s.rd (tniP i) Reg.Tn.EXT)

/-- R128: a site takes the extension that makes `n`. -/
def extSite (n : Nat) (s : State) (k : Nat) : State := (s.wr (tniP k) Reg.Tn.EXT_NOW n).setBit (tniP k) Reg.Tn.EXT

theorem extSite_view (n : Nat) (s : State) (k : Nat) : extView (extSite n s k) k = (n % 4, 1) := by
  unfold extView extSite State.setBit
  rw [rd_wr_apart _ _ _ _ _ (by decide), State.rd_wr_same, State.rd_wr_same]
  rfl

theorem extSite_atSite (n : Nat) (s : State) {k : Nat} (hk : k < 256) : AtSite (fun _ => ()) k s (extSite n s k) := by
  have hkey : ∀ f, Paged f → groupKey k (fldKey (tniP k) f) := fun f hf => groupKey_paged (o := 0x12000) hf hk (by decide)
  exact ((AtSite.refl s).wr (hkey _ ⟨rfl, by decide⟩)).wr (hkey _ ⟨rfl, by decide⟩)

theorem extSites_view (n : Nat) (s : State) {l : List Nat} (hl : l.Nodup) (hlt : ∀ k ∈ l, k < 256) {i : Nat} (hi : i ∈ l) :
    extView (l.foldl (extSite n) s) i = (n % 4, 1) := by
  have hkey : ∀ f, Paged f → groupKey i (fldKey (tniP i) f) := fun f hf => groupKey_paged (o := 0x12000) hf (hlt i hi) (by decide)
  refine foldl_view extView (fun _ => (n % 4, 1)) hl hi (fun u => extSite_view n u i) (fun u j hj h => ?_) s
  have ha := extSite_atSite n u (hlt j hj)
  unfold extView
  rw [ha.rd_other h (hkey _ ⟨rfl, by decide⟩), ha.rd_other h (hkey _ ⟨rfl, by decide⟩)]

/-- The sites of region `r`'s island. -/
def islandSites (s : State) (r : Nat) : List Nat := (List.range 256).filter (fun k => islandOf s k = r)

theorem extendFrame_regs (s : State) (r n : Nat) : Off logKeys ((islandSites s r).foldl (extSite (n + 1)) s) (extendFrame s r n) := by
  unfold extendFrame
  extract_lets is u g
  have hu : u = (islandSites s r).foldl (extSite (n + 1)) s := rfl
  rw [← hu]
  clear_value u
  exact Off.ite ((Off.refl _ u).same rfl) (regionEvent_off _ _ _ _ _ _ _ ((Off.refl _ u).same rfl) (List.Subset.refl _))

theorem lateKey_group {i : Nat} (hi : i < 256) {f : Fld} (hf : Paged f) : fldKey (tniP i) f ∉ logKeys := fun h =>
  sitePageKey_not_panel (o := 0x12000) hf (by omega) (by decide) (logKeys_panel _ h)

/-- R127: what a late site notes of itself. -/
def lateNoted (s : State) (i lag : Nat) : State :=
  let st := s.site i
  let p := tniP i
  let s := s.wr p Reg.Tn.LAG_NOW (min lag 0xFFFF)
  let s := s.setSite i { st with lagMax := max st.lagMax (min lag 0xFFFF), lateMine := true }
  let s := if st.lateMine then s else s.bump p Reg.Tn.LATE_CNT 1
  s.setBit p Reg.Tn.LATE

theorem late_eq {s : State} {i cyc lag : Nat} (hr : islandOf s i < 16) (hexec : (s.site i).exec = true)
    (hlag : lateAt s i (s.rd (tniP i) Reg.Tn.EXT_NOW) ≤ lag) (hcut : beforeCutoff s i (s.rd (tniP i) Reg.Tn.EXT_NOW) = true) :
    late s i cyc lag = if 2 ≤ s.rd (tniP i) Reg.Tn.EXT_NOW then lateLimit (lateNoted s i lag) (islandOf s i) cyc lag
      else extendFrame (lateNoted s i lag) (islandOf s i) (s.rd (tniP i) Reg.Tn.EXT_NOW) := by
  unfold late
  extract_lets st r p n
  rw [if_neg (by simp only [n, p, r, st, hexec, hcut]; simp; omega)]
  rfl

/-- What a late site notes leaves the membership of every site. -/
theorem lateNoted_aside (s : State) (i lag : Nat) : Aside (fun x => (x.region, x.join)) (· ∈ keysOf (tniP i) [Reg.Tn.LAG_NOW, Reg.Tn.LATE_CNT, Reg.Tn.LATE]) s
    (lateNoted s i lag) := by
  unfold lateNoted
  extract_lets st p s1 s2 s3
  have h1 : Aside (fun x => (x.region, x.join)) (· ∈ keysOf (tniP i) [Reg.Tn.LAG_NOW, Reg.Tn.LATE_CNT, Reg.Tn.LATE]) s s1 :=
    (Aside.refl s).wr (by simp [keysOf, p])
  have h2 : Aside (fun x => (x.region, x.join)) (· ∈ keysOf (tniP i) [Reg.Tn.LAG_NOW, Reg.Tn.LATE_CNT, Reg.Tn.LATE]) s s2 := h1.setSite rfl
  have h3 : Aside (fun x => (x.region, x.join)) (· ∈ keysOf (tniP i) [Reg.Tn.LAG_NOW, Reg.Tn.LATE_CNT, Reg.Tn.LATE]) s s3 :=
    Aside.ite h2 (h2.bump (by simp [keysOf, p]))
  exact h3.setBit (by simp [keysOf, p])

theorem lateNoted_island (s : State) (i lag k : Nat) : islandOf (lateNoted s i lag) k = islandOf s k ∧
    ((lateNoted s i lag).site k).region = (s.site k).region := by
  obtain ⟨hregion, hjoin⟩ := Prod.mk.inj ((lateNoted_aside s i lag).sites k)
  unfold islandOf
  rw [hregion, hjoin]
  exact ⟨rfl, rfl⟩

theorem lateNoted_late (s : State) (i lag : Nat) : (lateNoted s i lag).rd (tniP i) Reg.Tn.LATE = 1 := State.rd_wr_same ..

/-- A field of a page that is not the network's stands. -/
theorem lateNoted_rd (s : State) (i lag : Nat) {j a : Nat} {f : Fld} (hf : Paged f) (ha : a < 256) (h : a ≠ 0x12) :
    (lateNoted s i lag).rd (siteP j (0x1000 * a)) f = s.rd (siteP j (0x1000 * a)) f := by
  refine (lateNoted_aside s i lag).rd (fun hmem => ?_)
  obtain ⟨g, hg, e⟩ := List.mem_map.1 hmem
  have hpaged : ∀ g ∈ [Reg.Tn.LAG_NOW, Reg.Tn.LATE_CNT, Reg.Tn.LATE], g.ix = false ∧ g.off * 32 + g.lsb < 0x20000 := by decide
  exact sitePageKey_ne (a := 0x12) (b := a) (hpaged g hg) hf (by decide) ha (Or.inr (Or.inl h.symm)) e

/-- R128: every site of the island takes the extension, and a late site's bit stands. -/
theorem extendFrame_shows (s : State) {i r n : Nat} (hi : i < 256) : (extendFrame s r n).rd (tniP i) Reg.Tn.LATE = s.rd (tniP i) Reg.Tn.LATE ∧
    ∀ k ∈ islandSites s r, extView (extendFrame s r n) k = ((n + 1) % 4, 1) := by
  have hoff := extendFrame_regs s r n
  have hlt : ∀ k ∈ islandSites s r, k < 256 := fun k hk => List.mem_range.1 (List.mem_filter.1 hk).1
  refine ⟨?_, fun k hk => ?_⟩
  · rw [hoff.rd _ _ (lateKey_group hi ⟨rfl, by decide⟩)]
    refine foldl_keeps (fun u => u.rd (tniP i) Reg.Tn.LATE) (fun u j hj => ?_) s
    have hne : ∀ f, Paged f → f.off * 32 + f.lsb ≠ Reg.Tn.LATE.off * 32 + Reg.Tn.LATE.lsb → fldKey (tniP j) f ≠ fldKey (tniP i) Reg.Tn.LATE := fun f hf h =>
      sitePageKey_ne (a := 0x12) (b := 0x12) hf ⟨rfl, by decide⟩ (by decide) (by decide) (Or.inr (Or.inr h))
    exact (State.rd_wr_ne _ _ _ _ _ _ (hne _ ⟨rfl, by decide⟩ (by decide))).trans (State.rd_wr_ne _ _ _ _ _ _ (hne _ ⟨rfl, by decide⟩ (by decide)))
  · have hview := extSites_view (n + 1) s (List.nodup_range.filter _) hlt hk
    unfold extView at hview ⊢
    rw [hoff.rd _ _ (lateKey_group (hlt k hk) ⟨rfl, by decide⟩), hoff.rd _ _ (lateKey_group (hlt k hk) ⟨rfl, by decide⟩)]
    exact hview

/-- R129: the trap that the limit records at a core. -/
def limitTrap (cyc lag : Nat) (s : State) (c : CoreId) : TrapInfo :=
  { ty := 7, cause := 1, d0 := lag, d1 := (s.site c.site).fc % 2 ^ 32, pc := s.rd (coreP c) Reg.Co.PC, cyc := (s.site c.site).base + cyc }

/-- R129: what the limit leaves. -/
theorem lateLimit_shows (s : State) (r cyc lag : Nat) : Trapped s (lateLimit s r cyc lag) ∧
    ∀ k ∈ regionSites s r, ∀ m < 8, s.rd (coreP ⟨k, m⟩) Reg.Co.STATE = 2 → isShadow s k = false →
      (lateLimit s r cyc lag).rd (coreP ⟨k, m⟩) Reg.Co.STATE = 4 := by
  have hok : ∀ c ∈ coresOf (regionSites s r), coreOk c = true := fun c hc => by
    obtain ⟨i, hi, hcore⟩ := List.mem_flatMap.1 hc
    obtain ⟨n, hn, rfl⟩ := List.mem_map.1 hcore
    simp [coreOk, regionSites_lt hi, List.mem_range.1 hn]
  refine ⟨lateTraps_trapped (info := limitTrap cyc lag) (fun _ _ => rfl) hok s, fun k hk m hm hst hplain => ?_⟩
  have hd : coreOk ⟨k, m⟩ = true := by simp [coreOk, regionSites_lt hk, hm]
  exact lateTraps_stop (info := limitTrap cyc lag) (fun _ _ => rfl) hok s hd hplain
    (Or.inl ⟨mem_coresOf hk hm, hst⟩)

/-- Settles O35: the extension of R128 at every site of the island, and at the limit the trap of R129 at every running core. -/
theorem lateSitesExtendTheFrame : Obligations.LateSitesExtendTheFrame := by
  unfold Obligations.LateSitesExtendTheFrame
  intro s i cyc lag hi hisland hexec n hlag hcut
  refine completes_onUnit (t := late s i cyc lag) rfl (decide_eq_true hi) ?_
  rw [late_eq hisland hexec hlag hcut]
  have hregions : regionSites (lateNoted s i lag) (islandOf s i) = regionSites s (islandOf s i) := by
    unfold regionSites
    simp only [(lateNoted_island s i lag _).2]
  have hislands : islandSites (lateNoted s i lag) (islandOf s i) = islandSites s (islandOf s i) := by
    unfold islandSites
    simp only [(lateNoted_island s i lag _).1]
  by_cases hn : 2 ≤ n
  · rw [if_pos hn]
    obtain ⟨htrapped, hstops⟩ := lateLimit_shows (lateNoted s i lag) (islandOf s i) cyc lag
    refine ⟨(htrapped.net i hi _ ⟨rfl, by decide⟩).trans (lateNoted_late s i lag), fun h => absurd hn (Nat.not_le.2 h), fun _ k hk m hm hst _ hplain => ?_⟩
    refine hstops k (hregions ▸ hk) m hm ?_ ?_
    · rw [coreP_eq, lateNoted_rd s i lag (a := m + 1) ⟨rfl, by decide⟩ (by omega) (by omega), ← coreP_eq ⟨k, m⟩]
      exact hst
    · unfold isShadow at hplain ⊢
      rwa [show relP k = siteP k (0x1000 * 0x17) from rfl, lateNoted_rd s i lag ⟨rfl, by decide⟩ (by decide) (by decide)]
  · rw [if_neg hn]
    obtain ⟨hlate, hext⟩ := extendFrame_shows (lateNoted s i lag) (r := islandOf s i) (n := n) hi
    refine ⟨hlate.trans (lateNoted_late s i lag), fun hlt k hk hkr => ?_, fun h => absurd h hn⟩
    have hmem : k ∈ islandSites (lateNoted s i lag) (islandOf s i) := by
      rw [hislands]
      exact List.mem_filter.2 ⟨List.mem_range.2 hk, decide_eq_true hkr⟩
    obtain ⟨hnow, hbit⟩ := Prod.mk.inj (hext k hmem)
    exact ⟨hnow.trans (Nat.mod_eq_of_lt (by omega)), hbit⟩

end Sys2Proof.Machine
end

section
/-! PROOFS. Beats of the timetable plane (R136, R138, R140, R141, R164): what a received word is counted as, what a beat that is passed on,
written or unclaimed leaves, and that a beat is written alike before and after it is counted. -/

namespace Sys2Proof.Machine

/-! ### What a received word is counted as (R140, R141) -/

/-- Memory, cores, what has been sent and what has been drawn stand. -/
structure Noted (s t : State) : Prop where
  mem : t.mem = s.mem
  cores : t.cores = s.cores
  silent : Silent s t

section
variable {s t u : State}

theorem Noted.refl (s : State) : Noted s s := ⟨rfl, rfl, Silent.refl s⟩

theorem Noted.trans (h : Noted s t) (g : Noted t u) : Noted s u := ⟨g.mem.trans h.mem, g.cores.trans h.cores, h.silent.trans g.silent⟩

theorem Noted.ite {p : Prop} [Decidable p] (h : Noted s t) (g : Noted s u) : Noted s (if p then t else u) := by split <;> assumption

theorem Noted.wr (h : Noted s t) (p : Nat) (f : Fld) (v : Nat) : Noted s (t.wr p f v) := h.trans ⟨rfl, rfl, (Silent.refl t).wr ..⟩

theorem Noted.bump (h : Noted s t) (p : Nat) (f : Fld) (k : Nat) : Noted s (t.bump p f k) := Noted.ite h (h.wr ..)

theorem Noted.setSite (h : Noted s t) (i : Nat) (v : Site) : Noted s (t.setSite i v) := h.trans ⟨rfl, rfl, (Silent.refl t).setSite ..⟩

theorem Noted.logged (h : Noted s t) (g : Logged t u) : Noted s u :=
  h.trans ⟨by rw [g.rest], by rw [g.rest], (Silent.refl t).logged g⟩

theorem faultRegion_noted (s : State) (r fc k : Nat) : Noted s (faultRegion s r fc k) := by
  refine ⟨?_, ?_, faultRegion_silent ..⟩ <;> unfold faultRegion <;> split <;> rfl

end

/-- The fields of the network's page that count received words. -/
def noteFields : List Fld := [Reg.Tn.TT_CE_CNT, Reg.Tn.STOMP_IN, Reg.Tn.UNCORR, Reg.Tn.TT_UE_CNT, Reg.Tn.LINK_DOWN]

/-- The keys that counting a received word writes. -/
def noteKey (i k : Nat) : Prop := panelKey k ∨ k ∈ keysOf (tniP i) noteFields

/-- What a beat's way into memory reads of a site. -/
def beatSite (x : Site) : List Access × Nat × Nat × Nat := (x.acc, x.base, x.mirTo, x.mirLoad)

theorem netKey_not_panel {i : Nat} {f : Fld} (hi : i < 256) (hf : Paged f) : ¬ panelKey (fldKey (tniP i) f) :=
  sitePageKey_not_panel (o := 0x12000) hf (by omega) (by decide)

/-- R141: an uncorrectable word on lane group `d` is counted, and told once a frame. -/
def ueCounted (s : State) (i d : Nat) : State :=
  let s := (s.setBit (tniP i) Reg.Tn.UNCORR).bump (tniP i) Reg.Tn.TT_UE_CNT 1
  let st := s.site i
  let u := s.setSite i { st with ttUe := tabSet (fun _ => 0) st.ttUe d (tabGet (fun _ => 0) st.ttUe d + 1), ttLogged := st.ttLogged ||| 2 ^ d }
  if bits st.ttLogged d 1 = 0 then siteEvent u i 6 2 (tniP i) Reg.Tn.regs 0 else u

/-- R141: a lane group goes out of use. -/
def laneDown (s : State) (i d : Nat) : State :=
  faultSite (siteEvent ((s.setBit (tniP i) Reg.Tn.LINK_DOWN).setSite i { (s.site i) with ttDown := (s.site i).ttDown ||| 2 ^ d }) i 7 2 (tniP i)
    Reg.Tn.regs 7) i

theorem noteBeat_uncorrectable (s : State) (i d : Nat) : noteBeat s i d .uncorrectable =
    if (ueCounted s i d).rd (tniP i) Reg.Tn.UE_LIMIT ≠ 0 ∧
      tabGet (fun _ => 0) (((s.setBit (tniP i) Reg.Tn.UNCORR).bump (tniP i) Reg.Tn.TT_UE_CNT 1).site i).ttUe d + 1 =
        (ueCounted s i d).rd (tniP i) Reg.Tn.UE_LIMIT
    then laneDown (ueCounted s i d) i d else ueCounted s i d := rfl

section
variable (s : State) (i d : Nat)

theorem ueCounted_aside : Aside beatSite panelKey ((s.setBit (tniP i) Reg.Tn.UNCORR).bump (tniP i) Reg.Tn.TT_UE_CNT 1) (ueCounted s i d) := by
  unfold ueCounted
  extract_lets s1 st u
  have hu : Aside beatSite panelKey s1 u := (Aside.refl s1).setSite rfl
  exact Aside.ite (siteEvent_aside hu logKeys_panel _ _ _ _ _ _ _) hu

theorem ueCounted_noted : Noted s (ueCounted s i d) := by
  unfold ueCounted
  extract_lets s1 st u
  have h1 : Noted s s1 := ((Noted.refl s).wr ..).bump ..
  have hu : Noted s u := h1.setSite ..
  exact Noted.ite (hu.logged (siteEvent_logged ..)) hu

theorem laneDown_aside : Aside beatSite (fun k => panelKey k ∨ k = fldKey (tniP i) Reg.Tn.LINK_DOWN) s (laneDown s i d) := by
  have hset : Aside beatSite (fun k => panelKey k ∨ k = fldKey (tniP i) Reg.Tn.LINK_DOWN) s
      ((s.setBit (tniP i) Reg.Tn.LINK_DOWN).setSite i { (s.site i) with ttDown := (s.site i).ttDown ||| 2 ^ d }) :=
    ((Aside.refl s).setBit (Or.inr rfl)).setSite rfl
  exact faultRegion_aside (siteEvent_aside hset (fun k hk => Or.inl (logKeys_panel k hk)) _ _ _ _ _ _ _) _ _ _

theorem laneDown_noted : Noted s (laneDown s i d) :=
  ((((Noted.refl s).wr ..).setSite ..).logged (siteEvent_logged ..)).trans (faultRegion_noted ..)

theorem laneDown_shows (hi : i < 256) : bits ((laneDown s i d).site i).ttDown d 1 = 1 ∧ (laneDown s i d).rd (tniP i) Reg.Tn.LINK_DOWN = 1 := by
  unfold laneDown
  have hset : ((s.setBit (tniP i) Reg.Tn.LINK_DOWN).setSite i { (s.site i) with ttDown := (s.site i).ttDown ||| 2 ^ d }).rd (tniP i) Reg.Tn.LINK_DOWN = 1 :=
    State.rd_wr_same ..
  have hsite := State.site_setSite_same (s := s.setBit (tniP i) Reg.Tn.LINK_DOWN) i { (s.site i) with ttDown := (s.site i).ttDown ||| 2 ^ d }
  generalize (s.setBit (tniP i) Reg.Tn.LINK_DOWN).setSite i { (s.site i) with ttDown := (s.site i).ttDown ||| 2 ^ d } = u at hset hsite ⊢
  have hbit : bits ((s.site i).ttDown ||| 2 ^ d) d 1 = 1 := by
    have h : ((s.site i).ttDown ||| 2 ^ d).testBit d = true := by simp
    simpa [bits, Nat.testBit_eq_decide_div_mod_eq] using h
  have hevent := siteEvent_aside (π := id) (Aside.refl u) logKeys_panel i 7 2 (tniP i) Reg.Tn.regs 7 1
  have hfault : Aside id panelKey u (faultSite (siteEvent u i 7 2 (tniP i) Reg.Tn.regs 7) i) := faultRegion_aside hevent _ _ _
  refine ⟨?_, ?_⟩
  · rw [show ((faultSite (siteEvent u i 7 2 (tniP i) Reg.Tn.regs 7) i).site i) = u.site i from hfault.sites i, hsite]
    exact hbit
  · exact (hfault.rd (netKey_not_panel hi ⟨rfl, by decide⟩)).trans hset

/-- The counts of an uncorrectable word, before its lane group may go down. -/
theorem ueCounted_rd (hi : i < 256) {f : Fld} (hf : Paged f) :
    (ueCounted s i d).rd (tniP i) f = ((s.setBit (tniP i) Reg.Tn.UNCORR).bump (tniP i) Reg.Tn.TT_UE_CNT 1).rd (tniP i) f :=
  (ueCounted_aside s i d).rd (netKey_not_panel hi hf)

theorem ueLimit_stands (hi : i < 256) : (ueCounted s i d).rd (tniP i) Reg.Tn.UE_LIMIT = s.rd (tniP i) Reg.Tn.UE_LIMIT := by
  rw [ueCounted_rd s i d hi ⟨rfl, by decide⟩, rd_bump_apart _ _ _ _ _ (by decide), State.setBit, rd_wr_apart _ _ _ _ _ (by decide)]

theorem noteBeat_noted (k : BeatKind) : Noted s (noteBeat s i d k) := by
  cases k with
  | clean => exact Noted.refl s
  | corrected => exact (Noted.refl s).bump ..
  | stomped => exact (Noted.refl s).wr ..
  | uncorrectable =>
    rw [noteBeat_uncorrectable]
    exact Noted.ite ((ueCounted_noted s i d).trans (laneDown_noted ..)) (ueCounted_noted s i d)

theorem noteKey_field {f : Fld} (h : f ∈ noteFields) : noteKey i (fldKey (tniP i) f) := Or.inr (keysOf_mem h)

/-- R140, R141: counting a word changes nothing that its way into memory reads, and writes its counts alone. -/
theorem noteBeat_aside (k : BeatKind) : Aside beatSite (noteKey i) s (noteBeat s i d k) := by
  have hbit : Aside beatSite (noteKey i) s ((s.setBit (tniP i) Reg.Tn.UNCORR).bump (tniP i) Reg.Tn.TT_UE_CNT 1) :=
    ((Aside.refl s).setBit (noteKey_field i (by decide))).bump (noteKey_field i (by decide))
  have hcount : Aside beatSite (noteKey i) s (ueCounted s i d) := hbit.trans ((ueCounted_aside s i d).mono (fun _ => Or.inl))
  cases k with
  | clean => exact Aside.refl s
  | corrected => exact (Aside.refl s).bump (noteKey_field i (by decide))
  | stomped => exact (Aside.refl s).setBit (noteKey_field i (by decide))
  | uncorrectable =>
    rw [noteBeat_uncorrectable]
    exact Aside.ite (hcount.trans ((laneDown_aside _ i d).mono (fun _ => Or.imp_right (fun e => e ▸ keysOf_mem (by decide))))) hcount

/-- R140, R141: what the page shows of a received word. -/
theorem noteBeat_counts (hi : i < 256) (k : BeatKind) :
    (k = .corrected → (noteBeat s i d k).rd (tniP i) Reg.Tn.TT_CE_CNT = satAdd (2 ^ Reg.Tn.TT_CE_CNT.w - 1) (s.rd (tniP i) Reg.Tn.TT_CE_CNT) 1) ∧
    (k = .stomped → (noteBeat s i d k).rd (tniP i) Reg.Tn.STOMP_IN = 1) ∧
    (k = .uncorrectable → (noteBeat s i d k).rd (tniP i) Reg.Tn.UNCORR = 1 ∧
      (noteBeat s i d k).rd (tniP i) Reg.Tn.TT_UE_CNT = satAdd (2 ^ Reg.Tn.TT_UE_CNT.w - 1) (s.rd (tniP i) Reg.Tn.TT_UE_CNT) 1 ∧
      (s.rd (tniP i) Reg.Tn.UE_LIMIT ≠ 0 → tabGet (fun _ => 0) (s.site i).ttUe d + 1 = s.rd (tniP i) Reg.Tn.UE_LIMIT →
        bits ((noteBeat s i d k).site i).ttDown d 1 = 1 ∧ (noteBeat s i d k).rd (tniP i) Reg.Tn.LINK_DOWN = 1)) := by
  refine ⟨?_, ?_, ?_⟩
  · rintro rfl
    exact State.rd_bump_same Nat.one_ne_zero
  · rintro rfl
    exact State.rd_wr_same ..
  · rintro rfl
    have hrd : ∀ f, Paged f → f.off * 32 + f.lsb ≠ Reg.Tn.LINK_DOWN.off * 32 + Reg.Tn.LINK_DOWN.lsb →
        (noteBeat s i d .uncorrectable).rd (tniP i) f = (ueCounted s i d).rd (tniP i) f := fun f hf h => by
      have hkey : ¬ (panelKey (fldKey (tniP i) f) ∨ fldKey (tniP i) f = fldKey (tniP i) Reg.Tn.LINK_DOWN) := by
        rintro (hp | e)
        · exact sitePageKey_not_panel (o := 0x12000) hf (by omega) (by decide) hp
        · exact fldKey_ne hf.1 h e
      rw [noteBeat_uncorrectable]
      split
      · exact (laneDown_aside _ i d).rd hkey
      · rfl
    refine ⟨?_, ?_, fun hlim hn => ?_⟩
    · rw [hrd _ ⟨rfl, by decide⟩ (by decide), ueCounted_rd s i d hi ⟨rfl, by decide⟩, rd_bump_apart _ _ _ _ _ (by decide), State.setBit, State.rd_wr_same]
      rfl
    · rw [hrd _ ⟨rfl, by decide⟩ (by decide), ueCounted_rd s i d hi ⟨rfl, by decide⟩, State.rd_bump_same Nat.one_ne_zero, State.setBit,
        rd_wr_apart _ _ _ _ _ (by decide)]
    · have hsite : ((s.setBit (tniP i) Reg.Tn.UNCORR).bump (tniP i) Reg.Tn.TT_UE_CNT 1).site i = s.site i := by
        unfold State.site
        rw [State.bump_sites]
        rfl
      rw [noteBeat_uncorrectable, hsite, ueLimit_stands s i d hi, if_pos ⟨hlim, hn⟩]
      exact laneDown_shows _ i d hi

end

/-! ### A beat's way into memory (R105, R135, R333) -/

section
variable {s u v : State} {i : Nat}

/-- What a beat's way into memory at site `i` reads. -/
structure BeatSame (i : Nat) (s v : State) : Prop where
  mem : v.mem = s.mem
  aside : Aside beatSite (noteKey i) s v

theorem noteKey_cases {k : Nat} (h : noteKey i k) : panelKey k ∨ ∃ f ∈ noteFields, k = fldKey (tniP i) f :=
  h.imp_right (fun h => by
    obtain ⟨f, hf, e⟩ := List.mem_map.1 h
    exact ⟨f, hf, e.symm⟩)

/-- A field of a site's pages that is none of the counts. -/
theorem BeatSame.rd (h : BeatSame i s v) {j a : Nat} {f : Fld} (hj : j < 256) (ha : a < 256) (hf : Paged f)
    (hne : a ≠ 0x12 ∨ ∀ g ∈ noteFields, g.off * 32 + g.lsb ≠ f.off * 32 + f.lsb) : v.rd (siteP j (0x1000 * a)) f = s.rd (siteP j (0x1000 * a)) f := by
  refine h.aside.rd (fun hk => ?_)
  have hpaged : ∀ g ∈ noteFields, g.ix = false ∧ g.off * 32 + g.lsb < 0x20000 := by decide
  rcases noteKey_cases hk with hp | ⟨g, hg, e⟩
  · exact sitePageKey_not_panel hf (by omega) (by omega) hp
  · exact sitePageKey_ne (b := 0x12) hf (hpaged g hg) ha (by decide) (Or.inr (hne.imp_right (fun h => (h g hg).symm))) e

theorem BeatSame.acc (h : BeatSame i s v) (j : Nat) : (v.site j).acc = (s.site j).acc ∧ (v.site j).base = (s.site j).base ∧
    (v.site j).mirTo = (s.site j).mirTo ∧ (v.site j).mirLoad = (s.site j).mirLoad := by
  simpa only [beatSite, Prod.mk.injEq] using h.aside.sites j

theorem BeatSame.tn (h : BeatSame i s v) {j : Nat} (hj : j < 256) {n : Nat} (hn : n < 8) :
    v.rd (tniP j) (Reg.Tn.B n) = s.rd (tniP j) (Reg.Tn.B n) := by
  refine h.rd (a := 0x12) hj (by decide) ⟨rfl, by simp only [Reg.Tn.B]; omega⟩ (Or.inr ?_)
  have hlow : ∀ g ∈ noteFields, g.off < 0x70 ∧ g.lsb < 32 := by decide
  intro g hg
  have := hlow g hg
  simp only [Reg.Tn.B]
  omega

theorem BeatSame.hopLat (h : BeatSame i s v) {j : Nat} (hj : j < 256) (d : Nat) : hopLat v j d = hopLat s j d := by
  have hrd : ∀ f, Paged f → v.rd (commonP j) f = s.rd (commonP j) f := fun f hf => h.rd (a := 0) hj (by decide) hf (Or.inl (by decide))
  unfold Machine.hopLat
  split
  · exact hrd _ ⟨rfl, by decide⟩
  · exact hrd _ ⟨rfl, by decide⟩
  · exact hrd _ ⟨rfl, by decide⟩
  · exact hrd _ ⟨rfl, by decide⟩

theorem BeatSame.beatAcc (h : BeatSame i s v) {c : CoreId} (hc : c.site < 256) (lk e pc j : Nat) : beatAcc v c lk e pc j = beatAcc s c lk e pc j := by
  have hout : hopOut e < 8 := by unfold hopOut bits; omega
  have hin : hopIn e < 8 := by unfold hopIn bits; omega
  obtain ⟨_, hbase, _⟩ := h.acc c.site
  unfold Machine.beatAcc departAt deliverAt
  rw [h.tn hc hout, h.tn hc hin, h.hopLat hc, hbase]

/-- R333: what mirroring a beat that is written at cycle `t` leaves in memory, which holds `m` with the beat. -/
def mirroredMem (s : State) (m : Mem) (b t : Nat) : Mem :=
  if (s.site b).mirTo < 256 ∧ 0x100000 + mirrorRate s (s.site b).mirTo (t - (s.site b).base) < (s.site (s.site b).mirTo).mirLoad + 64 * cdiv 8 8 ∧
      isShadow s (s.site b).mirTo = true then
    memClear m (siteBase (s.site b).mirTo + 0x8000000000) 0x300000000
  else m

theorem digAdd_aside {α : Type} {π : Site → α} (hπ : ∀ (x : Site) l, π { x with digs := l } = π x) (s : State) (i : Nat) (xs : List (Nat × DigItem)) :
    Aside π (fun _ => False) s (digAdd s i xs) := by
  unfold digAdd
  exact Aside.ite ((Aside.refl s).setSite (hπ _ _)) (Aside.refl s)

theorem digAdd_silent (s : State) (i : Nat) (xs : List (Nat × DigItem)) : Silent s (digAdd s i xs) := by
  unfold digAdd
  exact Silent.ite ((Silent.refl s).setSite ..) (Silent.refl s)

/-- The state in which a written beat is mirrored reads as `s`, but for the cycle that its site names. -/
theorem beatDig_facts (s : State) (m : Mem) (b t : Nat) (xs : List (Nat × DigItem)) :
    let u := digAdd (atCycle { s with mem := m } b t) b xs
    u.mem = m ∧ (u.site b).now = t ∧ Aside (fun x => (x.base, x.mirTo, x.mirLoad)) (fun _ => False) s u := by
  have hat : Aside (fun x => (x.base, x.mirTo, x.mirLoad)) (fun _ => False) s (atCycle { s with mem := m } b t) := (Aside.refl s).same.setSite rfl
  have hnow : ((atCycle { s with mem := m } b t).site b).now = t := by
    unfold atCycle
    rw [State.site_setSite_same]
  exact ⟨(digAdd_memIs _ _ _ (atCycle_memIs _ _ _ (MemIs.refl { s with mem := m }))).mem,
    ((digAdd_aside (π := Site.now) (fun _ _ => rfl) _ b xs).sites b).trans hnow, hat.trans (digAdd_aside (fun _ _ => rfl) _ b xs)⟩

theorem mirrorBeat_mem (s : State) (m : Mem) (b t : Nat) (xs : List (Nat × DigItem)) (kind core off data pm : Nat) :
    (mirrorPut (digAdd (atCycle { s with mem := m } b t) b xs) b kind core off 8 data pm).mem = mirroredMem s m b t := by
  obtain ⟨hmem, hnow, haside⟩ := beatDig_facts s m b t xs
  rw [mirrorPut_mem]
  generalize digAdd (atCycle { s with mem := m } b t) b xs = u at hmem hnow haside ⊢
  have hrd : ∀ p f, u.rd p f = s.rd p f := fun p f => haside.rd not_false
  obtain ⟨hbase, hto, _⟩ : _ ∧ _ ∧ _ := by simpa only [Prod.mk.injEq] using haside.sites b
  obtain ⟨_, _, hload⟩ : _ ∧ _ ∧ _ := by simpa only [Prod.mk.injEq] using haside.sites (s.site b).mirTo
  unfold mirrorFull mirroredMem mirrorRate isShadow
  rw [hnow, hbase, hto, hload, hmem]
  simp only [hrd, decide_eq_true_eq]

/-- Where beat `j` of a bound receive is written. -/
def beatPlace (c : CoreId) (b : Bind) (j : Nat) : Nat :=
  spAddr c.site c.n (ringPlace b.bb b.nb b.line0 b.rl j).1 (ringPlace b.bb b.nb b.line0 b.rl j).2 + 64 * (j % 2)

theorem beatWrite_mem (s : State) (c : CoreId) (b : Bind) (e j data : Nat) (poison : Bool) : (beatWrite s c b e j data poison).mem =
    if (s.site c.site).acc.any (fun x => x.port = (beatAcc s c b.img e b.pc j).port && x.cyc = (beatAcc s c b.img e b.pc j).cyc && x.own = c.n && x.unit = 1) then
      mirroredMem s (memWrite s.mem (beatPlace c b j) 8 data (if poison then 0xFF else 0)) c.site (beatAcc s c b.img e b.pc j).cyc
    else s.mem := by
  unfold beatWrite
  extract_lets a pl at_ pm s1 s2
  rw [apply_ite State.mem]
  exact if_congr Iff.rfl (mirrorBeat_mem s _ c.site a.cyc _ 0 0 _ data pm) rfl

/-- R140: a word is written alike before and after it is counted. -/
theorem BeatSame.beatWrite (h : BeatSame i s v) {c : CoreId} (hc : c.site < 256) (b : Bind) (e j data : Nat) (poison : Bool) :
    (beatWrite v c b e j data poison).mem = (beatWrite s c b e j data poison).mem := by
  have hrel : ∀ t < 256, ∀ f, Paged f → v.rd (relP t) f = s.rd (relP t) f := fun t ht f hf => h.rd (a := 0x17) ht (by decide) hf (Or.inl (by decide))
  have hmirror : ∀ m t, mirroredMem v m c.site t = mirroredMem s m c.site t := fun m t => by
    obtain ⟨_, hbase, hto, _⟩ := h.acc c.site
    obtain ⟨_, _, _, hload⟩ := h.acc (s.site c.site).mirTo
    unfold mirroredMem
    rw [hbase, hto, hload]
    by_cases hlt : (s.site c.site).mirTo < 256
    · unfold mirrorRate isShadow
      rw [hrel _ hlt _ ⟨rfl, by decide⟩, hrel _ hlt _ ⟨rfl, by decide⟩]
    · rw [if_neg (fun g => hlt g.1), if_neg (fun g => hlt g.1)]
  rw [beatWrite_mem, beatWrite_mem, h.beatAcc hc, (h.acc c.site).1, h.mem, hmirror]

/-- What the write of a beat leaves of every timetable network, and that it sends nothing. -/
structure BeatWritten (s t : State) : Prop where
  aside : Aside Site.ttDown besideNet s t
  silent : Silent s t

theorem mirrorPut_written (s : State) (b kind core off words data poison : Nat) : BeatWritten s (mirrorPut s b kind core off words data poison) := by
  unfold mirrorPut
  extract_lets st t x w n u
  have hu : Aside Site.ttDown besideNet s u := (Aside.refl s).setSite rfl
  have hs : Silent s u := (Silent.refl s).setSite ..
  clear_value u
  split
  · exact ⟨Aside.refl s, Silent.refl s⟩
  · next ht =>
    have hend := shadowEnd_shadowKey (π := Site.ttDown) ⟨fun _ _ => rfl, fun _ => rfl, fun _ => rfl, fun _ _ => rfl⟩ (Nat.lt_of_not_le ht) u 5 3
    exact ⟨Aside.ite (hu.trans (hend.mono (fun _ => And.left))) hu, Silent.ite (hs.trans (shadowEnd_silent ..)) hs⟩

theorem beatWrite_written (s : State) (c : CoreId) (b : Bind) (e j data : Nat) (poison : Bool) : BeatWritten s (beatWrite s c b e j data poison) := by
  unfold beatWrite
  extract_lets a pl at_ pm s1 s2
  have h1 : Aside Site.ttDown besideNet s s1 := (Aside.refl s).same.setSite rfl
  have n1 : Silent s s1 := (Silent.refl s).same
  have h2 : Aside Site.ttDown besideNet s s2 := h1.trans ((digAdd_aside (fun _ _ => rfl) s1 _ _).mono (fun _ => False.elim))
  have n2 : Silent s s2 := n1.trans (digAdd_silent ..)
  clear_value s2
  obtain ⟨hm, nm⟩ := mirrorPut_written s2 c.site 0 0 (at_ - siteBase c.site) 8 data pm
  exact ⟨Aside.ite (h2.trans hm) (Aside.refl s), Silent.ite (n2.trans nm) (Silent.refl s)⟩

end

/-! ### Beats that arrive (R136, R138) -/

section
variable (s : State) (i : Nat)

/-- R136: a beat that nobody takes is counted. -/
def unclaimed : State := (s.setBit (tniP i) Reg.Tn.UNCLAIMED).bump (tniP i) Reg.Tn.TT_UNCLAIMED 1

/-- R138: a beat that is missing is counted. -/
def missed : State := (s.setBit (tniP i) Reg.Tn.MISSING).bump (tniP i) Reg.Tn.TT_MISSING 1

/-- The fields of the network's page that show what became of a beat. -/
def takeFields : List Fld := [Reg.Tn.UNCLAIMED, Reg.Tn.TT_UNCLAIMED, Reg.Tn.MISSING, Reg.Tn.TT_MISSING]

/-- The keys that taking a beat writes. -/
def takeKey (k : Nat) : Prop := besideNet k ∨ k ∈ keysOf (tniP i) takeFields

theorem unclaimed_shows : (unclaimed s i).rd (tniP i) Reg.Tn.UNCLAIMED = 1 ∧
    (unclaimed s i).rd (tniP i) Reg.Tn.TT_UNCLAIMED = satAdd (2 ^ Reg.Tn.TT_UNCLAIMED.w - 1) (s.rd (tniP i) Reg.Tn.TT_UNCLAIMED) 1 := by
  unfold unclaimed
  rw [rd_bump_apart _ _ _ _ _ (by decide), State.setBit, State.rd_wr_same, State.rd_bump_same Nat.one_ne_zero, rd_wr_apart _ _ _ _ _ (by decide)]
  exact ⟨rfl, rfl⟩

theorem missed_shows : (missed s i).rd (tniP i) Reg.Tn.MISSING = 1 ∧
    (missed s i).rd (tniP i) Reg.Tn.TT_MISSING = satAdd (2 ^ Reg.Tn.TT_MISSING.w - 1) (s.rd (tniP i) Reg.Tn.TT_MISSING) 1 := by
  unfold missed
  rw [rd_bump_apart _ _ _ _ _ (by decide), State.setBit, State.rd_wr_same, State.rd_bump_same Nat.one_ne_zero, rd_wr_apart _ _ _ _ _ (by decide)]
  exact ⟨rfl, rfl⟩

theorem unclaimed_noted : Noted s (unclaimed s i) := ((Noted.refl s).wr ..).bump ..

theorem unclaimed_aside : Aside Site.ttDown (takeKey i) s (unclaimed s i) :=
  ((Aside.refl s).setBit (Or.inr (keysOf_mem (by decide)))).bump (Or.inr (keysOf_mem (by decide)))

end

section
variable {s t : State} {i d : Nat}

/-- A count of received words stands while a beat is taken. -/
theorem takeKey_not_note (hi : i < 256) {f : Fld} (hf : f ∈ noteFields) : ¬ takeKey i (fldKey (tniP i) f) := by
  have hpaged : ∀ f ∈ noteFields, f.ix = false ∧ f.off * 32 + f.lsb < 0x20000 := by decide
  have hapart : ∀ f ∈ noteFields, ∀ g ∈ takeFields, g.ix = f.ix ∧ g.off * 32 + g.lsb ≠ f.off * 32 + f.lsb := by decide
  rintro (h | h)
  · exact h i hi f (hpaged f hf) rfl
  · exact fldKey_not_mem (hapart f hf) h

/-- What becomes of a beat is no count of received words. -/
theorem noteKey_not_take (hi : i < 256) {f : Fld} (hf : f ∈ takeFields) : ¬ noteKey i (fldKey (tniP i) f) := by
  have hpaged : ∀ f ∈ takeFields, f.ix = false ∧ f.off * 32 + f.lsb < 0x20000 := by decide
  have hapart : ∀ f ∈ takeFields, ∀ g ∈ noteFields, g.ix = f.ix ∧ g.off * 32 + g.lsb ≠ f.off * 32 + f.lsb := by decide
  rintro (h | h)
  · exact netKey_not_panel hi (hpaged f hf) h
  · exact fldKey_not_mem (hapart f hf) h

/-- R140, R141: the counts of a word, where it is taken without writing them. -/
theorem taken_counts (hi : i < 256) (k : BeatKind) (ht : Aside Site.ttDown (takeKey i) (noteBeat s i d k) t) :
    (k = .corrected → t.rd (tniP i) Reg.Tn.TT_CE_CNT = satAdd (2 ^ Reg.Tn.TT_CE_CNT.w - 1) (s.rd (tniP i) Reg.Tn.TT_CE_CNT) 1) ∧
    (k = .stomped → t.rd (tniP i) Reg.Tn.STOMP_IN = 1) ∧
    (k = .uncorrectable → t.rd (tniP i) Reg.Tn.UNCORR = 1 ∧
      t.rd (tniP i) Reg.Tn.TT_UE_CNT = satAdd (2 ^ Reg.Tn.TT_UE_CNT.w - 1) (s.rd (tniP i) Reg.Tn.TT_UE_CNT) 1 ∧
      (s.rd (tniP i) Reg.Tn.UE_LIMIT ≠ 0 → tabGet (fun _ => 0) (s.site i).ttUe d + 1 = s.rd (tniP i) Reg.Tn.UE_LIMIT →
        bits (t.site i).ttDown d 1 = 1 ∧ t.rd (tniP i) Reg.Tn.LINK_DOWN = 1)) := by
  have hrd : ∀ f ∈ noteFields, t.rd (tniP i) f = (noteBeat s i d k).rd (tniP i) f := fun f hf => ht.rd (takeKey_not_note hi hf)
  rw [hrd _ (by decide), hrd _ (by decide), hrd _ (by decide), hrd _ (by decide), hrd _ (by decide), ht.sites i]
  exact noteBeat_counts s i d hi k

theorem boundBy_site {id : Nat} {y : CoreId × Bind} (h : boundBy s i id = some y) : y.1.site = i := by
  obtain ⟨n, _, hn⟩ := List.exists_of_findSome?_eq_some h
  obtain ⟨b, _, rfl⟩ := Option.map_eq_some_iff.1 hn
  rfl

theorem Noted.boundBy (h : Noted s t) (i id : Nat) : boundBy t i id = boundBy s i id := by
  unfold Machine.boundBy State.core
  rw [h.cores]

/-- R136: an entry's beat as it is passed on, unless the entry only delivers. -/
def relayed (s : State) (i e j data : Nat) (bad : Bool) : State :=
  if hopType e = 2 then s else s.emit (.beat i (hopOut e) (outSlot e j).1 (outSlot e j).2 data bad)

theorem relayed_out (s : State) (i e j data : Nat) (bad : Bool) : (relayed s i e j data bad).out =
    s.out ++ (if hopType e = 2 then [] else [.beat i (hopOut e) (outSlot e j).1 (outSlot e j).2 data bad]) := by
  unfold relayed
  split
  · exact (List.append_nil _).symm
  · rfl

theorem relayed_same (s : State) (i e j data : Nat) (bad : Bool) : (relayed s i e j data bad).mem = s.mem ∧ (relayed s i e j data bad).regs = s.regs ∧
    (relayed s i e j data bad).sites = s.sites := by
  unfold relayed
  split <;> exact ⟨rfl, rfl, rfl⟩

theorem beatTake_word (s : State) (i e j : Nat) (k : BeatKind) (data : BitVec 512) :
    let bad := decide (k = .stomped) || decide (k = .uncorrectable)
    (∀ y, beatBound s i e = some y → beatTake s i e j (.word k data) = beatWrite (relayed s i e j data.toNat bad) y.1 y.2 e j data.toNat bad) ∧
    (beatBound s i e = none → beatTake s i e j (.word k data) =
      if hopType e = 2 then unclaimed (relayed s i e j data.toNat bad) i else relayed s i e j data.toNat bad) := by
  intro bad
  refine ⟨fun y hy => ?_, fun hn => ?_⟩
  · unfold beatBound at hy
    unfold beatTake
    simp only [hy]
    rfl
  · unfold beatBound at hn
    unfold beatTake
    simp only [hn]
    rfl

/-- What a received word leaves once it is counted and taken. -/
theorem beatTake_shows (hi : i < 256) (k : BeatKind) (data : BitVec 512) (e j : Nat) :
    let bad := decide (k = .stomped) || decide (k = .uncorrectable)
    let t := beatTake (noteBeat s i d k) i e j (.word k data)
    Aside Site.ttDown (takeKey i) (noteBeat s i d k) t ∧
    t.out = s.out ++ (if hopType e = 2 then [] else [.beat i (hopOut e) (outSlot e j).1 (outSlot e j).2 data.toNat bad]) ∧
    (beatBound s i e = none → t.mem = s.mem ∧ (hopType e = 2 → t.rd (tniP i) Reg.Tn.UNCLAIMED = 1 ∧
      t.rd (tniP i) Reg.Tn.TT_UNCLAIMED = satAdd (2 ^ Reg.Tn.TT_UNCLAIMED.w - 1) (s.rd (tniP i) Reg.Tn.TT_UNCLAIMED) 1)) ∧
    (∀ y, beatBound s i e = some y → t.mem = (beatWrite s y.1 y.2 e j data.toNat bad).mem) := by
  intro bad
  have hn := noteBeat_noted s i d k
  have ha := noteBeat_aside s i d k
  have hbound : beatBound (noteBeat s i d k) i e = beatBound s i e := by
    unfold beatBound
    rw [hn.boundBy]
  obtain ⟨hsome, hnone⟩ := beatTake_word (noteBeat s i d k) i e j k data
  rw [hbound] at hsome hnone
  obtain ⟨hmem, hregs, hsites⟩ := relayed_same (noteBeat s i d k) i e j data.toNat bad
  have hout := relayed_out (noteBeat s i d k) i e j data.toNat bad
  rw [hn.silent.out] at hout
  have hrelay : Aside Site.ttDown (takeKey i) (noteBeat s i d k) (relayed (noteBeat s i d k) i e j data.toNat bad) := (Aside.refl _).same hregs hsites
  have hsame : BeatSame i s (relayed (noteBeat s i d k) i e j data.toNat bad) := ⟨hmem.trans hn.mem, ha.same hregs hsites⟩
  have hcount : ∀ f ∈ takeFields, (relayed (noteBeat s i d k) i e j data.toNat bad).rd (tniP i) f = s.rd (tniP i) f := fun f hf =>
    hsame.aside.rd (noteKey_not_take hi hf)
  generalize relayed (noteBeat s i d k) i e j data.toNat bad = v at *
  cases hb : beatBound s i e with
  | none =>
    rw [hnone hb]
    by_cases htype : hopType e = 2
    · rw [if_pos htype]
      have hu := unclaimed_noted v i
      refine ⟨hrelay.trans (unclaimed_aside v i), hu.silent.out.trans hout, fun _ => ⟨hu.mem.trans hsame.mem, fun _ => ?_⟩, fun y hy => absurd hy.symm (Option.some_ne_none y)⟩
      rw [← hcount _ (by decide)]
      exact unclaimed_shows v i
    · rw [if_neg htype]
      exact ⟨hrelay, hout, fun _ => ⟨hsame.mem, fun h => absurd h htype⟩, fun y hy => absurd hy.symm (Option.some_ne_none y)⟩
  | some y =>
    rw [hsome y hb]
    obtain ⟨hwa, hws⟩ := beatWrite_written v y.1 y.2 e j data.toNat bad
    have hsite : y.1.site = i := by
      unfold beatBound at hb
      split at hb
      · exact absurd hb.symm (Option.some_ne_none y)
      · exact boundBy_site hb
    refine ⟨hrelay.trans (hwa.mono (fun _ => Or.inl)), hws.out.trans hout, fun h => absurd h (Option.some_ne_none y), fun z hz => ?_⟩
    rw [← Option.some.inj hz]
    exact hsame.beatWrite (hsite ▸ hi) _ _ _ _ _

/-- R138, R141: a word on a lane group in use. -/
theorem beatReceive_word {w sl : Nat} (hup : bits (s.site i).ttDown d 1 = 0) (k : BeatKind) (data : BitVec 512) :
    (beatHit s i d w sl = none → beatReceive s i d w sl (.word k data) = unclaimed (noteBeat s i d k) i) ∧
    ∀ x, beatHit s i d w sl = some x → beatReceive s i d w sl (.word k data) = beatTake (noteBeat s i d k) i x.1 x.2 (.word k data) := by
  refine ⟨fun hn => ?_, fun x hx => ?_⟩
  · unfold beatHit at hn
    unfold beatReceive
    simp only [hup, hn]
    rfl
  · unfold beatHit at hx
    unfold beatReceive
    simp only [hup, hx]
    rfl

/-- R138: an idle slot on a lane group in use. -/
theorem beatReceive_idle {w sl : Nat} (hup : bits (s.site i).ttDown d 1 = 0) :
    (((beatHit s i d w sl).bind (fun x => beatBound s i x.1)) = none → beatReceive s i d w sl .idle = s) ∧
    ∀ x y, beatHit s i d w sl = some x → beatBound s i x.1 = some y → beatReceive s i d w sl .idle =
      beatWrite (missed (s.draw 512).2 i) y.1 y.2 x.1 x.2 (s.draw 512).1.toNat true := by
  refine ⟨fun hn => ?_, fun x y hx hy => ?_⟩
  · unfold beatReceive
    rw [if_neg (by omega)]
    cases hhit : beatHit s i d w sl with
    | none =>
      unfold beatHit at hhit
      simp only [hhit]
    | some x =>
      rw [hhit] at hn
      have hb : beatBound s i x.1 = none := hn
      unfold beatHit at hhit
      unfold beatBound at hb
      simp only [hhit]
      unfold beatTake
      simp only [hb]
  · unfold beatHit at hx
    unfold beatBound at hy
    unfold beatReceive
    simp only [hup, hx]
    unfold beatTake
    simp only [hy]
    rfl

end

/-- Settles O46: what is counted, passed on, written and unclaimed of a beat that arrives, and what one that is missing counts. -/
theorem beatsArrive : Obligations.BeatsArrive := by
  unfold Obligations.BeatsArrive
  intro s i d w sl hi hd p st up hit
  have hunit : (siteOk i && decide (d < 4)) = true := by simp [siteOk, hi, hd]
  refine ⟨fun b hdown => ?down, fun hup k data => ?word, fun hup => ?idle⟩
  case down =>
    refine completes_onUnit (t := beatReceive s i d w sl b) rfl hunit ?_
    unfold beatReceive
    exact if_pos hdown
  case word =>
    refine completes_onUnit (t := beatReceive s i d w sl (.word k data)) rfl hunit ?_
    obtain ⟨hmiss, hhit⟩ := beatReceive_word (w := w) (sl := sl) hup k data
    cases hh : beatHit s i d w sl with
    | none =>
      rw [hmiss hh]
      have hn := noteBeat_noted s i d k
      have hu := unclaimed_noted (noteBeat s i d k) i
      obtain ⟨hce, hst, hue⟩ := taken_counts hi k (unclaimed_aside (noteBeat s i d k) i)
      refine ⟨hce, hst, hue, fun _ => ?_, fun x hx => absurd (hh.symm.trans hx).symm (Option.some_ne_none x)⟩
      obtain ⟨hbit, hcnt⟩ := unclaimed_shows (noteBeat s i d k) i
      rw [(noteBeat_aside s i d k).rd (noteKey_not_take hi (by decide))] at hcnt
      exact ⟨hbit, hcnt, hu.silent.out.trans hn.silent.out, hu.mem.trans hn.mem⟩
    | some x =>
      rw [hhit x hh]
      obtain ⟨haside, hout, hnone, hsome⟩ := beatTake_shows (s := s) (d := d) hi k data x.1 x.2
      obtain ⟨hce, hst, hue⟩ := taken_counts hi k haside
      refine ⟨hce, hst, hue, fun h => absurd (hh.symm.trans h) (Option.some_ne_none x), fun z hz => ?_⟩
      obtain rfl : x = z := Option.some.inj (hh.symm.trans hz)
      exact ⟨hout, hnone, hsome⟩
  case idle =>
    refine completes_onUnit (t := beatReceive s i d w sl .idle) rfl hunit ?_
    obtain ⟨hnone, hsome⟩ := beatReceive_idle (w := w) (sl := sl) hup
    refine ⟨hnone, fun y hy => ?_⟩
    obtain ⟨x, hx, hb⟩ := Option.bind_eq_some_iff.1 hy
    rw [hsome x y hx hb]
    obtain ⟨ha, hs⟩ := beatWrite_written (missed (s.draw 512).2 i) y.1 y.2 x.1 x.2 (s.draw 512).1.toNat true
    have hpaged : ∀ f ∈ takeFields, f.ix = false ∧ f.off * 32 + f.lsb < 0x20000 := by decide
    have hrd : ∀ f ∈ takeFields, ¬ besideNet (fldKey (tniP i) f) := fun f hf h => h i hi f (hpaged f hf) rfl
    obtain ⟨hbit, hcnt⟩ := missed_shows (s.draw 512).2 i
    have hm : Silent (s.draw 512).2 (missed (s.draw 512).2 i) := (((Noted.refl _).wr ..).bump ..).silent
    exact ⟨(ha.rd (hrd _ (by decide))).trans hbit, (ha.rd (hrd _ (by decide))).trans hcnt, hs.drawn.trans hm.drawn, hs.out.trans hm.out⟩

end Sys2Proof.Machine
end

section
/-! PROOFS. Marks and what a frame's end and start change (R122 to R124, R271, R306, R343): neither end nor start of a frame takes a site's count,
base, mark or its frame length back, and nothing of them writes the lag that the frame begins with. -/

namespace Sys2Proof.Machine

/-! ### Silent changes beside some registers -/

/-- No register beside `K` has changed, nor what `π` reads of any site, and the change is silent. -/
structure Within {α : Type} (π : Site → α) (K : Nat → Prop) (s t : State) : Prop where
  aside : Aside π K s t
  silent : Silent s t

section
variable {α : Type} {π : Site → α} {K L : Nat → Prop} {q s t : State}

theorem Within.refl (s : State) : Within π K s s := ⟨Aside.refl s, Silent.refl s⟩

theorem Within.trans (h : Within π K q s) (g : Within π K s t) : Within π K q t := ⟨h.aside.trans g.aside, h.silent.trans g.silent⟩

theorem Within.mono (h : Within π K s t) (hk : ∀ k, K k → L k) : Within π L s t := ⟨h.aside.mono hk, h.silent⟩

theorem Within.ite {p : Prop} [Decidable p] (hs : Within π K q s) (ht : Within π K q t) : Within π K q (if p then s else t) := by
  split <;> assumption

theorem Within.same (h : Within π K q s) (hr : t.regs = s.regs := by rfl) (hs : t.sites = s.sites := by rfl)
    (ho : t.out = s.out := by rfl) (hd : t.drawn = s.drawn := by rfl) (hp : t.pendBa = s.pendBa := by rfl) : Within π K q t :=
  ⟨h.aside.same hr hs, h.silent.same ho hd hp⟩

theorem Within.wr (h : Within π K q s) {p : Nat} {f : Fld} {v : Nat} (hk : K (fldKey p f)) : Within π K q (s.wr p f v) :=
  ⟨h.aside.wr hk, h.silent.same⟩

theorem Within.setBit (h : Within π K q s) {p : Nat} {f : Fld} (hk : K (fldKey p f)) : Within π K q (s.setBit p f) := h.wr hk

theorem Within.bump (h : Within π K q s) {p : Nat} {f : Fld} {n : Nat} (hk : K (fldKey p f)) : Within π K q (s.bump p f n) :=
  ⟨h.aside.bump hk, h.silent.bump ..⟩

theorem Within.setSite (h : Within π K q s) {j : Nat} {v : Site} (hv : π v = π (s.site j)) : Within π K q (s.setSite j v) :=
  ⟨h.aside.setSite hv, h.silent.same⟩

theorem Within.setCore (h : Within π K q s) (c : CoreId) (v : Core) : Within π K q (s.setCore c v) := h.same

theorem Within.foldl {β : Type} {g : State → β → State} {l : List β} (hg : ∀ s, ∀ a ∈ l, Within π K q s → Within π K q (g s a))
    (h : Within π K q s) : Within π K q (l.foldl g s) := by
  induction l generalizing s with
  | nil => exact h
  | cons a l ih => exact ih (fun s b hb => hg s b (List.mem_cons_of_mem a hb)) (hg _ a List.mem_cons_self h)

/-- Fields of one page, all written alike. -/
theorem Within.wrAll (h : Within π K q s) {p v : Nat} {fs : List Fld} (hk : ∀ f ∈ fs, K (fldKey p f)) : Within π K q (s.wrAll p v fs) :=
  Within.foldl (fun _ f hf hu => hu.wr (hk f hf)) h

/-! ### Timers (R418) -/

section
variable (hp : ∀ k, panelKey k → K k)
include hp

theorem timerRecord_within (h : Within π K q s) (c : CoreId) (t cc ns : Nat) (co : Bool) : Within π K q (timerRecord s c t cc ns co) := by
  unfold timerRecord
  extract_lets p cc' s1 s2 s3 s4 s5
  have h3 : Within π K q s3 := ((h.wr (hp _ (panelKey_ix rfl))).wr (hp _ (panelKey_ix rfl))).wr (hp _ (panelKey_ix rfl))
  have h4 : Within π K q s4 := h3.bump (hp _ (panelKey_ix rfl))
  clear_value s4
  exact (h4.wr (hp _ (panelKey_ix rfl))).wr (hp _ (panelKey_ix rfl))

variable {c : CoreId} (hc : K (fldKey (timP c.site) (Reg.Tm.RUNNING c.n)))
include hc

theorem timerRun_within (h : Within π K q s) (t : Nat) (on : Bool) (cc ns : Nat) : Within π K q (timerRun s c t on cc ns) := by
  unfold timerRun
  exact ((h.wr (hp _ (panelKey_ix rfl))).wr hc).same

theorem timerEvent_within (h : Within π K q s) (t : Nat) (start stop : Bool) (cc ns : Nat) : Within π K q (timerEvent s c t start stop cc ns) := by
  unfold timerEvent
  extract_lets p run c0
  clear_value run c0
  refine Within.ite h ?_
  have hrec : ∀ cc ns co, Within π K q (timerRecord s c t cc ns co) := fun cc ns co => timerRecord_within hp h c t cc ns co
  split
  case h_1 => exact h
  case h_2 => exact timerRun_within hp hc (Within.ite (h.wr (hp _ (panelKey_ix rfl))) h) ..
  case h_3 => exact h.bump (hp _ (panelKey_ix rfl))
  case h_4 => exact hrec ..
  case h_5 => exact timerRun_within hp hc (hrec ..) ..
  case h_6 => exact h.bump (hp _ (panelKey_ix rfl))
  case h_7 => exact timerRun_within hp hc (hrec ..) ..

theorem timerSource_within (h : Within π K q s) (src : Nat) (only : Option Nat) (isStart isStop : Bool) (cc ns : Nat) :
    Within π K q (timerSource s c src only isStart isStop cc ns) :=
  Within.foldl (fun _ _ _ hu => Within.ite (timerEvent_within hp hc hu ..) hu) h

theorem timerFrame_within (h : Within π K q s) (late : Bool) (cc ns : Nat) : Within π K q (timerFrame s c late cc ns) :=
  Within.foldl (fun _ _ _ hu => Within.ite (timerEvent_within hp hc hu ..) hu) h

end

end

/-! ### What a site keeps over the end of a frame -/

/-- What FRAME_MARK sets of a site. -/
def markView (x : Site) : Nat × Nat × Option (Nat × Nat) × Bool := (x.fc, x.base, x.mark, x.exec)

theorem markView_blind : ShadowBlind markView := ⟨fun _ _ => rfl, fun _ => rfl, fun _ => rfl, fun _ _ => rfl⟩

/-- Every key but that of site `i`'s frame length. -/
def lenKey (i k : Nat) : Prop := k ≠ fldKey (tniP i) Reg.Tn.FL_CODE

/-- Every key but those of site `i`'s frame length and of its power state. -/
def endKey (i k : Nat) : Prop := lenKey i k ∧ k ≠ fldKey (spowP i) Reg.Sp.SITE_PSTATE

section
variable {q s t : State} {i : Nat}

theorem endKey_panel (hi : i < 256) {k : Nat} (h : panelKey k) : endKey i k :=
  ⟨fun e => sitePageKey_not_panel (i := i) (o := 0x12000) (f := Reg.Tn.FL_CODE) ⟨rfl, by decide⟩ (by omega) (by decide) (e ▸ h),
    fun e => sitePageKey_not_panel (i := i) (o := 0x15000) (f := Reg.Sp.SITE_PSTATE) ⟨rfl, by decide⟩ (by omega) (by decide) (e ▸ h)⟩

/-- A field of site `i`'s pages that stands at another place than the two. -/
theorem endKey_field {a : Nat} {f : Fld} (hf : Paged f) (ha : a < 256)
    (hn : a ≠ 0x12 ∨ f.off * 32 + f.lsb ≠ Reg.Tn.FL_CODE.off * 32 + Reg.Tn.FL_CODE.lsb)
    (hs : a ≠ 0x15 ∨ f.off * 32 + f.lsb ≠ Reg.Sp.SITE_PSTATE.off * 32 + Reg.Sp.SITE_PSTATE.lsb) : endKey i (fldKey (siteP i (0x1000 * a)) f) :=
  ⟨sitePageKey_ne (b := 0x12) hf ⟨rfl, by decide⟩ ha (by decide) (Or.inr hn), sitePageKey_ne (b := 0x15) hf ⟨rfl, by decide⟩ ha (by decide) (Or.inr hs)⟩

theorem endKey_page {a : Nat} {f : Fld} (hf : Paged f) (ha : a < 256) (hn : a ≠ 0x12) (hs : a ≠ 0x15) : endKey i (fldKey (siteP i (0x1000 * a)) f) :=
  endKey_field hf ha (Or.inl hn) (Or.inl hs)

theorem endKey_net {f : Fld} (hf : Paged f) (h : f.off * 32 + f.lsb ≠ Reg.Tn.FL_CODE.off * 32 + Reg.Tn.FL_CODE.lsb) :
    endKey i (fldKey (tniP i) f) := endKey_field (a := 0x12) hf (by decide) (Or.inr h) (Or.inl (by decide))

theorem endKey_core {c : CoreId} (hc : c ∈ coresOf [i]) {f : Fld} (hf : Paged f) : endKey i (fldKey (coreP c) f) := by
  obtain ⟨hsite, hn⟩ := mem_coresOf_site hc
  rw [coreP_eq, hsite]
  exact endKey_page hf (by omega) (by omega) (by omega)

theorem running_paged {n : Nat} (hn : n < 8) : Paged (Reg.Tm.RUNNING n) := ⟨rfl, by simp only [Reg.Tm.RUNNING]; omega⟩

/-- R121, R418: the keys that a slack window's opening writes. -/
def slackKey (i k : Nat) : Prop := panelKey k ∨ (∃ n < 8, k = fldKey (timP i) (Reg.Tm.RUNNING n)) ∨ k = fldKey (tniP i) Reg.Tn.IN_SLACK

theorem enterSlack_within {α : Type} {π : Site → α} (s : State) (i t : Nat) : Within π (slackKey i) s (enterSlack s i t) := by
  unfold enterSlack
  refine Within.ite (Within.refl s) (Within.foldl (fun u c hc hu => ?_) ((Within.refl s).wr (Or.inr (Or.inr rfl))))
  obtain ⟨hsite, hn⟩ := mem_coresOf_site hc
  have hrun : slackKey i (fldKey (timP c.site) (Reg.Tm.RUNNING c.n)) := Or.inr (Or.inl ⟨c.n, hn, by rw [hsite]⟩)
  exact timerSource_within (K := slackKey i) (fun _ => Or.inl) hrun hu ..

/-- A field of site `i`'s pages that the opening of the slack window leaves. -/
theorem enterSlack_rd (hi : i < 256) (t : Nat) {a : Nat} {f : Fld} (hf : Paged f) (ha : a < 256) (h19 : a ≠ 0x19)
    (hs : a ≠ 0x12 ∨ f.off * 32 + f.lsb ≠ Reg.Tn.IN_SLACK.off * 32 + Reg.Tn.IN_SLACK.lsb) :
    (enterSlack s i t).rd (siteP i (0x1000 * a)) f = s.rd (siteP i (0x1000 * a)) f := by
  refine (enterSlack_within (π := fun _ => ()) s i t).aside.rd ?_
  rintro (h | ⟨n, hn, e⟩ | e)
  · exact sitePageKey_not_panel hf (by omega) (by omega) h
  · exact sitePageKey_ne (b := 0x19) hf (running_paged hn) ha (by decide) (Or.inr (Or.inl h19)) e
  · exact sitePageKey_ne (b := 0x12) (g := Reg.Tn.IN_SLACK) hf ⟨rfl, by decide⟩ ha (by decide) (Or.inr hs) e

/-! ### The digests of the frame that ends (R333, R334) -/

theorem hopRefuse_within (h : Within markView (endKey i) q s) (code ix : Nat) : Within markView (endKey i) q (hopRefuse s i code ix) := by
  unfold hopRefuse
  extract_lets p s1
  have h1 : Within markView (endKey i) q s1 := Within.ite ((h.wr (endKey_net ⟨rfl, by decide⟩ (by decide))).wr (endKey_net ⟨rfl, by decide⟩ (by decide))) h
  clear_value s1
  exact (h1.wr (endKey_net ⟨rfl, by decide⟩ (by decide))).setBit (endKey_net ⟨rfl, by decide⟩ (by decide))

theorem setHopCount_within {K : Nat → Prop} (h : Within markView K q s) (j t n : Nat) : Within markView K q (setHopCount s j t n) := by
  unfold setHopCount
  split
  · exact h.setSite rfl
  · exact h.setSite rfl

theorem hopWord_within (h : Within markView (endKey i) q s) (k w : Nat) : Within markView (endKey i) q (hopWord s i k w) := by
  unfold hopWord
  extract_lets p t s1 s2 n bad src s3 m old code s4
  have h1 : Within markView (endKey i) q s1 := setHopCount_within (s := { s with mem := memClear s.mem (hopAddr i t 0) 0x10000 }) h.same i t 0
  have h2 : Within markView (endKey i) q s2 := (h1.wr (endKey_net ⟨rfl, by decide⟩ (by decide))).wr (endKey_net ⟨rfl, by decide⟩ (by decide))
  have h3 : Within markView (endKey i) q s3 := h2.setSite rfl
  have h4 : Within markView (endKey i) q s4 := setHopCount_within (s := s.put (hopAddr i t old.length) 2 ⟨w, 0⟩) h.same ..
  clear_value s4 s3
  exact Within.ite (Within.ite (hopRefuse_within h3 ..) h3) (Within.ite (hopRefuse_within h ..) (Within.ite (hopRefuse_within h ..)
    (Within.ite (h4.setBit (endKey_net ⟨rfl, by decide⟩ (by decide))) h4)))

theorem accWrite_within {K : Nat → Prop} (h : Within markView K q s) (c : CoreId) (o n : Nat) (l : Line) : Within markView K q (accWrite s c o n l) := by
  unfold accWrite
  exact Within.foldl (fun u w _ hu => Within.ite hu.same hu) h.same

theorem spaceWrite_within (h : Within markView (endKey i) q s) (space core o n : Nat) (win : Bool) (l : Line) :
    Within markView (endKey i) q ((spaceWrite s i space core o n win l).getD s) := by
  unfold spaceWrite
  split
  · rw [apply_ite (Option.getD · s)]
    exact Within.ite (accWrite_within h ..) h
  · rw [apply_ite (Option.getD · s)]
    exact Within.ite h.same h
  · rw [apply_ite (Option.getD · s)]
    exact Within.ite h (Within.foldl (fun u k _ hu => hopWord_within hu ..) h)

theorem mirrorEnd_within (s : State) (i : Nat) : Within markView (endKey i) s (mirrorEnd s i) := by
  unfold mirrorEnd
  extract_lets st due late s1 s2
  have h1 : Within markView (endKey i) s s1 := (Within.refl s).setSite rfl
  have h2 : Within markView (endKey i) s s2 := Within.foldl (fun u x _ hu => Within.ite hu.same hu) h1
  exact Within.foldl (fun u x _ hu => Within.ite (spaceWrite_within hu ..) hu) h2

theorem shadowEnd_within (hi : i < 256) (s : State) (st why : Nat) : Within markView (lenKey i) s (shadowEnd s i st why) :=
  ⟨(shadowEnd_shadowKey markView_blind hi s st why).mono (fun _ h => h.1 i hi _ ⟨rfl, by decide⟩), shadowEnd_silent s i st why⟩

theorem shadowCompare_within (hi : i < 256) (s : State) : Within markView (lenKey i) s (shadowCompare s i) := by
  have hrel : ∀ f, Paged f → lenKey i (fldKey (relP i) f) := fun f hf => (endKey_page (a := 0x17) hf (by decide) (by decide) (by decide)).1
  unfold shadowCompare
  extract_lets st mine
  split
  · exact Within.refl s
  · extract_lets s1 n s2 src s3
    have h1 : Within markView (lenKey i) s s1 := (Within.refl s).setSite rfl
    have h2 : Within markView (lenKey i) s s2 := h1.wr (hrel _ ⟨rfl, by decide⟩)
    have h3 : Within markView (lenKey i) s s3 := h1.setSite rfl
    have h4 : Within markView (lenKey i) s (s3.wr (relP i) Reg.Re.MISMATCH_FC st.fc) := h3.wr (hrel _ ⟨rfl, by decide⟩)
    clear_value s2 s3
    exact Within.ite (Within.ite (Within.refl s) h1) (Within.ite (Within.ite (h2.trans (shadowEnd_within hi ..)) h2)
      (h4.trans (shadowEnd_within hi ..)))

/-- R334: a site that neither is nor has a shadow only drops its digests. -/
theorem digestEnd_plain (hs : isShadow s i = false) (hm : 256 ≤ (s.site i).mirTo) : Within markView (endKey i) s (digestEnd s i) := by
  unfold digestEnd buddyDigest
  rw [hs, if_neg Bool.false_ne_true, if_pos hm]
  exact Within.ite (Within.refl s) ((Within.refl s).setSite rfl)

theorem digestEnd_within (hi : i < 256) (s : State) : Within markView (lenKey i) s (digestEnd s i) := by
  unfold digestEnd
  extract_lets s1
  have h1 : Within markView (lenKey i) s s1 := by
    refine Within.ite (((mirrorEnd_within s i).mono (fun _ => And.left)).trans (shadowCompare_within hi _)) ?_
    unfold buddyDigest
    exact Within.ite (Within.refl s) ((Within.refl s).setSite rfl)
  exact Within.ite (Within.refl s) (h1.setSite rfl)

/-! ### The counts of the frame that ends -/

theorem coreFrameEnd_within {c : CoreId} (hc : c ∈ coresOf [i]) (h : Within markView (endKey i) q s) : Within markView (endKey i) q (coreFrameEnd s c) := by
  have hkey : ∀ f, Paged f → endKey i (fldKey (coreP c) f) := fun f hf => endKey_core hc hf
  have hskip : Within markView (endKey i) q (noteSkipped s c) := by
    unfold noteSkipped
    refine Within.ite h ?_
    split
    · exact h
    · exact h.setCore ..
  unfold coreFrameEnd
  extract_lets s1 k p s2 s3 s4
  have h2 : Within markView (endKey i) q s2 := (hskip.wr (hkey _ ⟨rfl, by decide⟩)).wr (hkey _ ⟨rfl, by decide⟩)
  have h3 : Within markView (endKey i) q s3 := h2.wr (hkey _ ⟨rfl, by decide⟩)
  have h4 : Within markView (endKey i) q s4 := (h3.wr (hkey _ ⟨rfl, by decide⟩)).wr (hkey _ ⟨rfl, by decide⟩)
  exact h4.setCore ..

theorem budgetEnd_within (s : State) (i : Nat) : Within markView (endKey i) s (budgetEnd s i) := by
  have hbud : ∀ f, Paged f → endKey i (fldKey (budP i) f) := fun f hf => endKey_page (a := 0x18) hf (by decide) (by decide) (by decide)
  unfold budgetEnd
  extract_lets st p s1 s2 s3 s4
  have h1 : Within markView (endKey i) s s1 := ((Within.refl s).wr (hbud _ ⟨rfl, by decide⟩)).wr (hbud _ ⟨rfl, by decide⟩)
  have h2 : Within markView (endKey i) s s2 := (h1.wr (hbud _ ⟨rfl, by decide⟩)).wr (hbud _ ⟨rfl, by decide⟩)
  have h3 : Within markView (endKey i) s s3 := (h2.wr (hbud _ ⟨rfl, by decide⟩)).wr (hbud _ ⟨rfl, by decide⟩)
  have h4 : Within markView (endKey i) s s4 := h3.wr (endKey_page (a := 0x14) ⟨rfl, by decide⟩ (by decide) (by decide) (by decide))
  have e4 : s4.sites = s.sites := rfl
  clear_value s4
  refine h4.setSite ?_
  unfold State.site
  rw [e4]
  rfl

theorem portsEnd_within (s : State) (i : Nat) : Within markView (endKey i) s (portsEnd s i) := by
  have hcis : ∀ f, Paged f → endKey i (fldKey (cisP i) f) := fun f hf => endKey_page (a := 0x10) hf (by decide) (by decide) (by decide)
  have hwell : ∀ f, Paged f → endKey i (fldKey (wellP i) f) := fun f hf => endKey_page (a := 0x11) hf (by decide) (by decide) (by decide)
  unfold portsEnd
  extract_lets st s1 s2
  have h1 : Within markView (endKey i) s s1 := ((Within.refl s).wr (hcis _ ⟨rfl, by decide⟩)).wr (hcis _ ⟨rfl, by decide⟩)
  have h2 : Within markView (endKey i) s s2 := (h1.wr (hwell _ ⟨rfl, by decide⟩)).wr (hwell _ ⟨rfl, by decide⟩)
  exact h2.setSite rfl

theorem lagEnd_within (hi : i < 256) (s : State) : Within markView (endKey i) s (lagEnd s i) := by
  unfold lagEnd
  extract_lets st p s1 s2 s3 s4
  have h1 : Within markView (endKey i) s s1 := (Within.refl s).wr (endKey_net ⟨rfl, by decide⟩ (by decide))
  have h2 : Within markView (endKey i) s s2 := by
    unfold s2
    clear_value s1
    split
    · exact h1
    · exact h1.bump (endKey_net ⟨rfl, by decide⟩ (by decide))
    · exact h1.bump (endKey_net ⟨rfl, by decide⟩ (by decide))
  have h3 : Within markView (endKey i) s s3 := h2.bump (endKey_panel hi (panelKey_ix rfl))
  have h4 : Within markView (endKey i) s s4 := Within.ite (h3.wrAll (fun f hf => by
    obtain ⟨k, _, rfl⟩ := List.mem_map.1 hf
    exact endKey_panel hi (panelKey_ix rfl))) h3
  clear_value s4
  exact (h4.wr (endKey_net ⟨rfl, by decide⟩ (by decide))).wr (endKey_net ⟨rfl, by decide⟩ (by decide))

theorem clockEnd_within (hi : i < 256) (s : State) : Within markView (endKey i) s (clockEnd s i) := by
  have hclk : ∀ f, Paged f → endKey i (fldKey (sclkP i) f) := fun f hf => endKey_page (a := 0x16) hf (by decide) (by decide) (by decide)
  unfold clockEnd
  extract_lets st p s1 s2 s3 s4
  have h1 : Within markView (endKey i) s s1 := ((Within.refl s).wr (hclk _ ⟨rfl, by decide⟩)).wr (hclk _ ⟨rfl, by decide⟩)
  have h2 : Within markView (endKey i) s s2 := Within.ite h1 (h1.bump (hclk _ ⟨rfl, by decide⟩))
  have h3 : Within markView (endKey i) s s3 := h2.wr (hclk _ ⟨rfl, by decide⟩)
  have h4 : Within markView (endKey i) s s4 := Within.ite (h3.wrAll (fun f hf => by
    obtain ⟨k, _, rfl⟩ := List.mem_map.1 hf
    exact endKey_panel hi (panelKey_ix rfl))) h3
  clear_value s4
  exact h4.wr (endKey_field (a := 0x15) ⟨rfl, by decide⟩ (by decide) (Or.inl (by decide)) (Or.inr (by decide)))

theorem suspect_within (hi : i < 256) (s : State) : Within markView (endKey i) s (suspect s i) := by
  refine ⟨(suspect_aside (fun _ _ => rfl) (fun _ => rfl) s i).mono (fun k hk => ?_), suspect_silent s i⟩
  have hpaged : ∀ f ∈ [Reg.Re.SUSPECT, Reg.Re.SUSPECT_CNT, Reg.Re.MARGIN_STEP], f.ix = false ∧ f.off * 32 + f.lsb < 0x20000 := by decide
  rcases suspectKeys_cases hk with hrel | rfl | hpanel
  · obtain ⟨f, hf, rfl⟩ := List.mem_map.1 hrel
    exact endKey_page (a := 0x17) (hpaged f hf) (by decide) (by decide) (by decide)
  · exact endKey_page (a := 0) ⟨rfl, by decide⟩ (by decide) (by decide) (by decide)
  · exact endKey_panel hi hpanel

theorem ceEnd_within (hi : i < 256) (s : State) : Within markView (endKey i) s (ceEnd s i) := by
  unfold ceEnd
  extract_lets st now lim seen hit last s1
  have h1 : Within markView (endKey i) s s1 := (Within.refl s).setSite rfl
  clear_value s1
  exact Within.ite ((h1.setBit (endKey_page (a := 0x17) ⟨rfl, by decide⟩ (by decide) (by decide) (by decide))).trans (suspect_within hi _)) h1

theorem probeEnd_within (s : State) (i : Nat) : Within markView (endKey i) s (probeEnd s i) := by
  unfold probeEnd
  extract_lets st n s1
  have h1 : Within markView (endKey i) s s1 := (Within.refl s).setSite rfl
  exact Within.ite (h1.setBit (endKey_page (a := 0x17) ⟨rfl, by decide⟩ (by decide) (by decide) (by decide))) h1

/-- What a site does at the end of its frame after the digests. -/
def countsEnd (s : State) (i : Nat) : State :=
  let s := (coresOf [i]).foldl coreFrameEnd s
  let s := ceEnd (clockEnd (lagEnd (portsEnd (budgetEnd s i) i) i) i) i
  if (s.site i).exec then probeEnd s i else s

theorem frameEnd_eq (s : State) (i : Nat) : frameEnd s i = countsEnd (digestEnd s i) i := rfl

theorem countsEnd_within (hi : i < 256) (s : State) : Within markView (endKey i) s (countsEnd s i) := by
  unfold countsEnd
  extract_lets s1 s2
  have h1 : Within markView (endKey i) s s1 := Within.foldl (fun _ _ hc hu => coreFrameEnd_within hc hu) (Within.refl s)
  have h2 : Within markView (endKey i) s s2 := h1.trans ((budgetEnd_within s1 i).trans ((portsEnd_within _ i).trans ((lagEnd_within hi _).trans
    ((clockEnd_within hi _).trans (ceEnd_within hi _)))))
  clear_value s2
  exact Within.ite (h2.trans (probeEnd_within s2 i)) h2

/-- The end of a frame keeps the site's count, base and mark, and its frame length. -/
theorem frameEnd_within (hi : i < 256) (s : State) : Within markView (lenKey i) s (frameEnd s i) :=
  (digestEnd_within hi s).trans ((countsEnd_within hi _).mono (fun _ => And.left))

/-- The end of a frame of a site without a shadow run keeps its power state. -/
theorem frameEnd_plain (hi : i < 256) (hs : isShadow s i = false) (hm : 256 ≤ (s.site i).mirTo) : Within markView (endKey i) s (frameEnd s i) :=
  (digestEnd_plain hs hm).trans (countsEnd_within hi _)

end

end Sys2Proof.Machine
end

section
/-! PROOFS. The start of a frame, marks and free sites (R122 to R124, R170, R197, R271, R306, R343, R373). -/

namespace Sys2Proof.Machine

/-! ### Shared operations beside the timetable network -/

section
variable {α : Type} {π : Site → α} {K : Nat → Prop} {q s : State}

theorem pfSet_aside (h : Aside π K q s) (b : Nat) (hk : K (fldKey idP (pfBit b))) : Aside π K q (pfSet s b) := by
  refine h.trans (Aside.ofOff (pfSet_off b (Off.refl [fldKey idP (pfBit b)] s) (List.mem_singleton_self _))
    (fun _ hm => List.mem_singleton.1 hm ▸ hk) ?_)
  rw [pfSet_rest]

variable (hnet : ∀ k, besideNet k → K k)
include hnet

/-- A field of a site's page that is not the network's. -/
theorem net_page {j a : Nat} {f : Fld} (hf : Paged f) (ha : a < 256) (h : a ≠ 0x12) : K (fldKey (siteP j (0x1000 * a)) f) :=
  hnet _ (besideNet_page hf ha h)

theorem net_panel {k : Nat} (h : panelKey k) : K k := hnet k (besideNet_panel h)

theorem net_core {c : CoreId} (hn : c.n < 8) {f : Fld} (hf : Paged f) : K (fldKey (coreP c) f) := by
  rw [coreP_eq]
  exact net_page hnet hf (by omega) (by omega)

theorem net_log : ∀ k ∈ logKeys, K k := fun k hk => net_panel hnet (logKeys_panel k hk)

theorem showBusy_within {c : CoreId} (hn : c.n < 8) (h : Within π K q s) (t : Nat) : Within π K q (showBusy s c t) := by
  have hkey : ∀ f, Paged f → K (fldKey (coreP c) f) := fun f hf => net_core hnet hn hf
  unfold showBusy
  exact ((((((h.wr (hkey _ ⟨rfl, by decide⟩)).wr (hkey _ ⟨rfl, by decide⟩)).wr (hkey _ ⟨rfl, by decide⟩)).wr (hkey _ ⟨rfl, by decide⟩)).wr
    (hkey _ ⟨rfl, by decide⟩)).wr (hkey _ ⟨rfl, by decide⟩))

/-! ### Panel errors and region faults (R170, R321) -/

theorem haltPanel_aside (h : Aside π K q s) : Aside π K q (haltPanel s) := by
  unfold haltPanel
  extract_lets s1
  have h1 : Aside π K q s1 := Aside.foldlMem (fun u c hc hu => by
    have hn : c.n < 8 := by
      obtain ⟨i, _, hm⟩ := List.mem_flatMap.1 hc
      obtain ⟨n, hn, rfl⟩ := List.mem_map.1 hm
      exact List.mem_range.1 hn
    unfold haltCore
    exact Aside.ite (hu.wr (net_core hnet hn ⟨rfl, by decide⟩)) hu) h
  clear_value s1
  exact Aside.upTo (fun u r hu => Aside.ite hu (faultRegion_aside hu ..)) h1

theorem outOfService_told_aside (w : State) (rec tag : Nat) (o : Out) :
    Aside π K w ((pfSet (logAdd { w with outOfService := true } tag rec) intPanelErr).emit o) := by
  have hlog : Aside π K w (logAdd { w with outOfService := true } tag rec) := logAdd_aside (outOfService_aside (Aside.refl w) true) (net_log hnet) tag rec
  generalize logAdd { w with outOfService := true } tag rec = y at *
  exact (pfSet_aside hlog intPanelErr (net_panel hnet (panelKey_paged ⟨rfl, by decide⟩ (by decide)))).same

theorem panelError_aside (h : Aside π K q s) (code : Nat) (hub : Bool) (idx : Nat) : Aside π K q (panelError s code hub idx) := by
  have hrel : ∀ f, Paged f → K (fldKey prelP f) := fun f hf => net_panel hnet (panelKey_paged hf (by decide))
  have hshown : Aside π K q (errorShown (haltPanel s) code hub idx) :=
    ((((haltPanel_aside hnet h).wr (hrel _ ⟨rfl, by decide⟩)).wr (hrel _ ⟨rfl, by decide⟩)).wr (hrel _ ⟨rfl, by decide⟩)).wr (hrel _ ⟨rfl, by decide⟩)
  exact hshown.trans (outOfService_told_aside hnet (errorShown (haltPanel s) code hub idx)
    (eventRec { errorShown (haltPanel s) code hub idx with outOfService := true } 2 3
      { kind := if code = 3 then 0 else if hub then 2 else 1, index := idx, page := prelP, table := Reg.Pr.regs } 1 0) (logTag 4 16) (.twin 0 code))

theorem slotCancel_aside (h : Aside π K q s) (r k : Nat) : Aside π K q (slotCancel s r k) := by
  unfold slotCancel slotLeave
  extract_lets g s1
  have h1 : Aside π K q s1 := Aside.ite (setRegion_aside h _ _) h
  clear_value s1
  have hbit : K (fldKey idP (pfBit intFrameReq)) := net_panel hnet (panelKey_paged ⟨rfl, by decide⟩ (by decide))
  exact Aside.ite (pfSet_aside (h1.wr (net_panel hnet (panelKey_ix rfl))) _ hbit) h1

theorem faultPanel_aside (h : Aside π K q s) {r : Nat} (hr : r < 16) : Aside π K q (faultPanel s r) := by
  unfold faultPanel
  extract_lets wk s1 g s2 s3 s4
  have h1 : Aside π K q s1 := Aside.upTo (fun u k hu => Aside.ite (slotCancel_aside hnet hu r k) hu) h
  have h2 : Aside π K q s2 := logAdd_aside h1 (net_log hnet) ..
  have h3 : Aside π K q s3 := setRegion_aside h2 _ _
  have h4 : Aside π K q s4 := Aside.ite h3 (h3.wr (net_panel hnet (panelKey_paged ⟨rfl, by simp only [Reg.Rg.STATE]; omega⟩ (by decide))))
  clear_value s4
  exact pfSet_aside h4 intFault (net_panel hnet (panelKey_paged ⟨rfl, by decide⟩ (by decide)))

theorem buddyEnds_aside (hπ : ShadowBlind π) (h : Aside π K q s) (b : Nat) : Aside π K q (buddyEnds s b) := by
  unfold buddyEnds
  split
  next hlt => exact h.trans ((shadowEnd_shadowKey hπ hlt s 5 4).mono (fun k hk => hnet k hk.1))
  next => exact h

theorem faultCores_aside (hπ : ShadowBlind π) (h : Aside π K q s) (i : Nat) : Aside π K q (faultCores s i) := by
  unfold faultCores
  refine buddyEnds_aside hnet hπ (Aside.foldlMem (fun u c hc hu => ?_) h) i
  have hkey : ∀ f, Paged f → K (fldKey (coreP c) f) := fun f hf => net_core hnet (mem_coresOf_site hc).2 hf
  exact (Aside.ite ((hu.setBit (hkey _ ⟨rfl, by decide⟩)).wr (hkey _ ⟨rfl, by decide⟩)) hu).wr (hkey _ ⟨rfl, by decide⟩)

theorem faultAtMark_aside (hπ : ShadowBlind π) (h : Aside π K q s) (i f : Nat) (first : Bool) : Aside π K q (faultAtMark s i f first) := by
  unfold faultAtMark
  extract_lets r s1
  have h1 : Aside π K q s1 := faultCores_aside hnet hπ h i
  clear_value s1
  split
  · exact h
  · next hr => exact Aside.ite (faultPanel_aside hnet h1 (by omega)) h1

/-! ### Route tables and injection (R196, R197) -/

theorem sendBack_aside (hw : ∀ (x : Site) l, π { x with waiting := l } = π x) (h : Aside π K q s) (ep r : Nat) (resp : Bool) (attempt : Nat) (e : Env) :
    Aside π K q (sendBack s ep r resp attempt e) := by
  unfold sendBack
  split
  · exact h
  · refine Aside.ite (Aside.ite (h.setSite (hw _ _)) h.same) ?_
    unfold sendEnv
    split
    · exact h
    · exact (h.wr (net_page hnet (a := 0x13) (f := Reg.Cn.INJ_TOTAL) ⟨rfl, by decide⟩ (by decide) (by decide))).same

theorem flushWaiting_aside (hw : ∀ (x : Site) l, π { x with waiting := l } = π x) (h : Aside π K q s) (ep : Nat) : Aside π K q (flushWaiting s ep) := by
  unfold flushWaiting
  extract_lets l st hub s1
  have h1 : Aside π K q s1 := Aside.ite (h.setSite (hw _ _)) h.same
  clear_value s1
  exact Aside.foldl (fun u x hu => sendBack_aside hnet hw hu ..) h1

theorem resumeNi_aside (hw : ∀ (x : Site) l, π { x with waiting := l } = π x) (h : Aside π K q s) (i : Nat) : Aside π K q (resumeNi s i) := by
  unfold resumeNi
  extract_lets s1
  have h1 : Aside π K q s1 := flushWaiting_aside hnet hw (h.wr (net_page hnet (a := 0x13) ⟨rfl, by decide⟩ (by decide) (by decide))) i
  clear_value s1
  split
  · exact flushWaiting_aside hnet hw h1 _
  · exact h1

theorem swapRoutes_aside (hd : ∀ x : Site, π { x with down := [], shWritten := 0 } = π x) (h : Aside π K q s) (i : Nat) : Aside π K q (swapRoutes s i) := by
  have hcni : ∀ f, Paged f → K (fldKey (cniP i) f) := fun f hf => net_page hnet (a := 0x13) hf (by decide) (by decide)
  have hpair : ∀ {u : State} {f g : Fld} (v : Nat), Paged f → Paged g → Aside π K q u → Aside π K q (u.wrPair (cniP i) f g v) := fun v hf hg hu =>
    (hu.wr (hcni _ hf)).wr (hcni _ hg)
  unfold swapRoutes
  extract_lets p g t1 t2 t3 t4 st t5
  have h1 : Aside π K q t1 :=
    hpair _ ⟨rfl, by decide⟩ ⟨rfl, by decide⟩ (hpair _ ⟨rfl, by decide⟩ ⟨rfl, by decide⟩ (hpair _ ⟨rfl, by decide⟩ ⟨rfl, by decide⟩ h))
  clear_value t1
  have h2 : Aside π K q t2 :=
    hpair _ ⟨rfl, by decide⟩ ⟨rfl, by decide⟩ (hpair _ ⟨rfl, by decide⟩ ⟨rfl, by decide⟩ (hpair _ ⟨rfl, by decide⟩ ⟨rfl, by decide⟩ h1))
  clear_value t2
  have h3 : Aside π K q t3 := Aside.foldlMem (fun u k hk hu => by
    have hk := List.mem_range.1 hk
    refine (((hpair _ ⟨rfl, ?_⟩ ⟨rfl, ?_⟩ hu).wr (hcni _ ⟨rfl, ?_⟩)).wr (hcni _ ⟨rfl, ?_⟩)).wr (hcni _ ⟨rfl, ?_⟩)
    all_goals simp only [Reg.Cn.ACT_GATE, Reg.Cn.ACT_GATE_COMPL, Reg.Cn.SH_GATE, Reg.Cn.EGRESS, Reg.Cn.GATE_COMPL]; omega) h2
  clear_value t3
  have h4 : Aside π K q t4 := (h3.wr (hcni _ ⟨rfl, by decide⟩)).wr (hcni _ ⟨rfl, by decide⟩)
  clear_value t4
  have h5 : Aside π K q t5 := h4.setSite (hd _)
  clear_value t5
  split
  · exact h5.same
  · exact h5

theorem swapAtMark_aside (hd : ∀ x : Site, π { x with down := [], shWritten := 0 } = π x) (hw : ∀ (x : Site) l, π { x with waiting := l } = π x)
    (h : Aside π K q s) (i fc : Nat) : Aside π K q (swapAtMark s i fc) := by
  unfold swapAtMark
  extract_lets r s1 s2 s3 g
  split
  · exact h
  · next hr =>
    have hdr : ∀ f, Paged f → K (fldKey drainP f) := fun f hf => net_panel hnet (panelKey_paged hf (by decide))
    split
    · exact h
    · have h1 : Aside π K q s1 := resumeNi_aside hnet hw (swapRoutes_aside hnet hd h i) i
      clear_value s1
      have h2 : Aside π K q s2 := (h1.wr (hdr _ ⟨rfl, by simp only [Reg.Dr.DRAINING]; omega⟩)).wr (hdr _ ⟨rfl, by simp only [Reg.Dr.DRAIN_DONE]; omega⟩)
      have h3 : Aside π K q s3 := h2.setBit (hdr _ ⟨rfl, by simp only [Reg.Dr.SWAPPED]; omega⟩)
      clear_value s3
      exact Aside.ite h (Aside.ite (setRegion_aside h3 _ _) h3)

end

end Sys2Proof.Machine
end

section
/-! PROOFS. The marks of a region, the frames that they begin, and free sites (R122 to R124, R271, R306, R343, R373). -/

namespace Sys2Proof.Machine

/-! ### Writes that are applied (R373) -/

section
variable {α : Type} {π : Site → α} {K : Nat → Prop} {q s : State}

theorem noteApply_aside (h : Aside π K q s) {page : Nat} (host : Bool) (hby : K (fldKey page Reg.Hd.LAST_BY)) (hcnt : K (fldKey page Reg.Hd.APPLY_CNT)) :
    Aside π K q (noteApply s page host) := (h.wr hby).wr hcnt

/-- The pages whose writes a boundary applies are pages of writes. -/
theorem applied_page (l : List (Nat × Nat × Nat × Nat)) (acc : List Nat) {p : Nat}
    (h : p ∈ l.foldl (fun (l : List Nat) b => if l.contains b.1 then l else l ++ [b.1]) acc) : p ∈ acc ∨ ∃ b ∈ l, b.1 = p := by
  induction l generalizing acc with
  | nil => exact Or.inl h
  | cons a l ih =>
    rcases ih _ h with hacc | ⟨b, hb, e⟩
    · beta_reduce at hacc
      by_cases hc : acc.contains a.1 = true
      · exact Or.inl (by simpa only [if_pos hc] using hacc)
      · rw [if_neg hc] at hacc
        exact (List.mem_append.1 hacc).imp_right (fun h => ⟨a, List.mem_cons_self, (List.mem_singleton.1 h).symm⟩)
    · exact Or.inr ⟨b, List.mem_cons_of_mem a hb, e⟩

/-- The keys that applying a write of a page writes. -/
def appliedKeys (b : Nat × Nat × Nat × Nat) : List Nat := [b.2.2.1, fldKey b.1 Reg.Hd.LAST_BY, fldKey b.1 Reg.Hd.APPLY_CNT]

/-- The registers once writes have been entered. -/
theorem entered_find (l : List (Nat × Nat × Nat × Nat)) (r : Tab Nat) {k : Nat} (hk : ∀ b ∈ l, k ≠ b.2.2.1) :
    tabFind (l.foldl (fun t b => tabInsert (tabErase t b.2.2.1) b.2.2.1 b.2.2.2) r) k = tabFind r k := by
  induction l generalizing r with
  | nil => rfl
  | cons b l ih =>
    have hb := hk b List.mem_cons_self
    rw [List.foldl_cons, ih _ (fun c hc => hk c (List.mem_cons_of_mem b hc)), tabFind_insert_ne _ _ hb, tabFind_erase_ne _ hb]

theorem applyBa_aside (host : Bool) (sel : Nat × Nat × Nat × Nat → Bool) (hk : ∀ b ∈ s.pendBa, ∀ k ∈ appliedKeys b, K k) :
    Aside π K s (applyBa s host sel) := by
  unfold applyBa
  extract_lets now pages s1
  have hnow : ∀ b ∈ now, ∀ k ∈ appliedKeys b, K k := fun b hb => hk b (List.mem_filter.1 hb).1
  have h1 : Aside π K s s1 := ⟨fun k hn => entered_find now s.regs (fun b hb e => hn (e ▸ hnow b hb _ List.mem_cons_self)), fun _ => rfl⟩
  clear_value s1
  refine Aside.foldlMem (fun u p hp hu => ?_) h1
  obtain ⟨b, hb, rfl⟩ := (applied_page now [] hp).resolve_left List.not_mem_nil
  exact noteApply_aside hu host (hnow b hb _ (by simp [appliedKeys])) (hnow b hb _ (by simp [appliedKeys]))

/-- What waits after a boundary has waited before. -/
theorem applyBa_pendBa (s : State) (host : Bool) (sel : Nat × Nat × Nat × Nat → Bool) : (applyBa s host sel).pendBa = s.pendBa.filter (fun b => !(sel b)) := by
  unfold applyBa
  extract_lets now pages s1
  exact foldl_keeps (g := fun s p => noteApply s p host) State.pendBa (fun _ _ _ => rfl) s1

theorem applyBa_sites (s : State) (host : Bool) (sel : Nat × Nat × Nat × Nat → Bool) : (applyBa s host sel).sites = s.sites := by
  unfold applyBa
  extract_lets now pages s1
  exact foldl_keeps (g := fun s p => noteApply s p host) State.sites (fun _ _ _ => rfl) s1

end

/-! ### The start of a frame (R123) -/

section
variable {s : State} {i : Nat}

/-- Site `i` as its frame `f` begins, with lag `lag`. -/
def begunSite (s : State) (i f lag : Nat) : Site :=
  let st := s.site i
  let base := st.base + s.frameLen i
  { st with
    fc := f, base := base, mark := none, exec := decide (s.rd (spowP i) Reg.Sp.SITE_PSTATE = 1), lagMax := lag, lateMine := false
    histClr := false, jitClr := false, loss := 0, lost := 0, depth := 0, phaseMax := 0, tjMax := 0
    acc := st.acc.filter (fun a => decide (base ≤ a.cyc)), ttUe := [], ttLogged := 0, voteLogged := 0, clkLogged := 0, holdOff := st.holdOff - 1 }

/-- The panel as frame `f` of site `i` begins. -/
def frameBegun (s : State) (i f lag : Nat) : State := (s.setSite i (begunSite s i f lag)).wr (tniP i) Reg.Tn.LAG_NOW lag

/-- What the frame that has begun brings to the site; `first` at the first of region `r`'s sites. -/
def frameBrings (s : State) (i f r base : Nat) (first : Bool) : State :=
  let s := transAtMark s i
  let s := (coresOf [i]).foldl (fun s c => showBusy s c base) s
  let s := applySite s i
  let s := if first then applyRegion s r else s
  let s := if siteCritical s i then s else panelError s 1 false i
  let s := faultAtMark s i f first
  let s := resumeAfterClear (swapAtMark s i f) i
  timersAtMark s i

theorem frameStart_eq (s : State) (i f lag : Nat) : frameStart s i f lag = frameBrings (frameBegun s i f lag) i f (s.site i).region
    ((s.site i).base + s.frameLen i) (decide ((s.site i).region < 16) && (regionSites s (s.site i).region).all (fun k => k = i || (s.site k).fc ≠ f)) := rfl

theorem frameBegun_view (s : State) (i f lag : Nat) : markView ((frameBegun s i f lag).site i) =
    (f, (s.site i).base + s.frameLen i, none, decide (s.rd (spowP i) Reg.Sp.SITE_PSTATE = 1)) := by
  have hsite : (frameBegun s i f lag).site i = begunSite s i f lag := State.site_setSite_same (s := s) i _
  rw [hsite]
  rfl

/-- The keys of a write that waits, of a page beside the networks. -/
theorem marginStep_beside {b : Nat × Nat × Nat × Nat} (h : marginStep b) : ∀ k ∈ appliedKeys b, besideNet k := by
  obtain ⟨j, hpage, hkey⟩ := h
  have hspow : ∀ f, Paged f → besideNet (fldKey (spowP j) f) := fun f hf => besideNet_page (a := 0x15) hf (by decide) (by decide)
  unfold appliedKeys
  rw [hpage, hkey]
  intro k hk
  simp only [List.mem_cons, List.not_mem_nil, or_false] at hk
  rcases hk with rfl | rfl | rfl
  · exact hspow _ ⟨rfl, by decide⟩
  · exact hspow _ ⟨rfl, by decide⟩
  · exact hspow _ ⟨rfl, by decide⟩

theorem resumeAfterClear_aside {K : Nat → Prop} {q : State} (hnet : ∀ k, besideNet k → K k) (h : Aside markView K q s) (i : Nat) :
    Aside markView K q (resumeAfterClear s i) := by
  unfold resumeAfterClear
  extract_lets st
  have hset : Aside markView K q (s.setSite i { st with held := false }) := h.setSite rfl
  exact Aside.ite h (resumeNi_aside hnet (fun _ _ => rfl) hset i)

theorem timersAtMark_aside {K : Nat → Prop} {q : State} (hnet : ∀ k, besideNet k → K k) (h : Aside markView K q s) (i : Nat) :
    Aside markView K q (timersAtMark s i) := by
  unfold timersAtMark
  extract_lets st
  refine Aside.ite h (Aside.foldlMem (fun u c hc hu => ?_) (h.setSite rfl))
  exact hu.trans (timerFrame_within (K := K) (fun _ => net_panel hnet)
    (net_page hnet (a := 0x19) (running_paged (mem_coresOf_site hc).2) (by decide) (by decide)) (Within.refl u) ..).aside

/-- R123: what a frame brings takes back nothing of the count, base, mark and execution that it begins with, nor a register beside `K`. -/
theorem frameBrings_aside {K : Nat → Prop} (hnet : ∀ k, besideNet k → K k) (htrans : K (fldKey (tniP i) Reg.Tn.TRANSITION))
    (hpend : ∀ b, b ∈ s.pendBa ∨ marginStep b → ∀ k ∈ appliedKeys b, K k) (f r base : Nat) (first : Bool) :
    Aside markView K s (frameBrings s i f r base first) := by
  unfold frameBrings
  extract_lets s1 s2 s3 s4 s5 s6 s7
  have h1 : Within markView K s s1 := by
    unfold s1 transAtMark
    extract_lets st n
    have hset : Within markView K s (s.setSite i { st with trans := n }) := (Within.refl s).setSite rfl
    exact hset.wr htrans
  have h2 : Within markView K s s2 := Within.foldl (fun u c hc hu => showBusy_within hnet (mem_coresOf_site hc).2 hu base) h1
  clear_value s2
  have h3 : Aside markView K s s3 := h2.aside.trans (applyBa_aside false _ (fun b hb => hpend b (h2.silent.waits b hb)))
  have hp3 : ∀ b ∈ s3.pendBa, b ∈ s2.pendBa := fun b hb => by
    rw [show s3 = applyBa s2 false (fun b => pageOfSite i b.1) from rfl, applyBa_pendBa] at hb
    exact (List.mem_filter.1 hb).1
  clear_value s3
  have h4 : Aside markView K s s4 := Aside.ite (h3.trans (applyBa_aside false _ (fun b hb => hpend b (h2.silent.waits b (hp3 b hb))))) h3
  clear_value s4
  have h5 : Aside markView K s s5 := Aside.ite h4 (panelError_aside hnet h4 1 false i)
  clear_value s5
  have h6 : Aside markView K s s6 := faultAtMark_aside hnet markView_blind h5 i f first
  clear_value s6
  have h7 : Aside markView K s s7 := resumeAfterClear_aside hnet (swapAtMark_aside hnet (fun _ => rfl) (fun _ _ => rfl) h6 i f) i
  clear_value s7
  exact timersAtMark_aside hnet h7 i

/-- R123: the site's count, base, mark and execution in the frame that begins. -/
theorem frameStart_view (s : State) (i f lag : Nat) : markView ((frameStart s i f lag).site i) =
    (f, (s.site i).base + s.frameLen i, none, decide (s.rd (spowP i) Reg.Sp.SITE_PSTATE = 1)) := by
  rw [frameStart_eq]
  exact ((frameBrings_aside (K := fun _ => True) (fun _ _ => trivial) trivial (fun _ _ _ _ => trivial) f _ _ _).sites i).trans (frameBegun_view s i f lag)

/-- The lag that the frame begins with stands, where nothing waits but steps of margins. -/
theorem frameStart_lag (hi : i < 256) (hpend : ∀ b ∈ s.pendBa, marginStep b) (f lag : Nat) :
    (frameStart s i f lag).rd (tniP i) Reg.Tn.LAG_NOW = lag % 2 ^ 16 := by
  have hnet : ∀ k, besideNet k → k ≠ fldKey (tniP i) Reg.Tn.LAG_NOW := fun k hk => hk i hi _ ⟨rfl, by decide⟩
  have hbrings := frameBrings_aside (K := (· ≠ fldKey (tniP i) Reg.Tn.LAG_NOW)) (s := frameBegun s i f lag) (i := i) hnet (fldKey_ne rfl (by decide))
    (fun b hb k hk => hnet k (marginStep_beside (hb.elim (fun hb => hpend b hb) id) k hk))
  rw [frameStart_eq, (hbrings f _ _ _).rd (fun h => h rfl)]
  exact State.rd_wr_same ..

end

/-! ### FRAME_MARK (R123) -/

section
variable {s : State} {i : Nat}

theorem frameMark_eq {cyc lag slackT f at0 : Nat} (hm : (s.site i).mark = some (f, at0)) (hdue : markDue s i cyc at0 = true) :
    frameMark s i cyc lag slackT = frameStart (frameEnd (enterSlack s i slackT) i) i f (min lag 0xFFFF) := by
  unfold frameMark
  rw [hm]
  simp only [hdue, Bool.not_true, Bool.false_eq_true, if_false]

/-- The state that a due mark leaves of the frame that ends. -/
theorem frameOver_view (hi : i < 256) (slackT : Nat) :
    ((frameEnd (enterSlack s i slackT) i).site i).base = (s.site i).base ∧ (frameEnd (enterSlack s i slackT) i).frameLen i = s.frameLen i := by
  have hend := frameEnd_within hi (enterSlack s i slackT)
  have hsite := (enterSlack_within (π := markView) s i slackT).aside.sites i
  have hview := (hend.aside.sites i).trans hsite
  simp only [markView, Prod.mk.injEq] at hview
  refine ⟨hview.2.1, ?_⟩
  unfold State.frameLen
  rw [hend.aside.rd (f := Reg.Tn.FL_CODE) (fun h => h rfl)]
  rw [show (enterSlack s i slackT).rd (tniP i) Reg.Tn.FL_CODE = s.rd (tniP i) Reg.Tn.FL_CODE from
    enterSlack_rd hi slackT (a := 0x12) ⟨rfl, by decide⟩ (by decide) (by decide) (Or.inr (by decide))]

theorem frameOver_power (hi : i < 256) (hs : isShadow s i = false) (hmir : 256 ≤ (s.site i).mirTo) (slackT : Nat) :
    (frameEnd (enterSlack s i slackT) i).rd (spowP i) Reg.Sp.SITE_PSTATE = s.rd (spowP i) Reg.Sp.SITE_PSTATE := by
  have hrd : ∀ f, Paged f → (enterSlack s i slackT).rd (relP i) f = s.rd (relP i) f := fun f hf =>
    enterSlack_rd hi slackT (a := 0x17) hf (by decide) (by decide) (Or.inl (by decide))
  have hsite : (enterSlack s i slackT).site i = s.site i := (enterSlack_within (π := id) s i slackT).aside.sites i
  have hend := frameEnd_plain (s := enterSlack s i slackT) hi (by unfold isShadow at *; rwa [hrd _ ⟨rfl, by decide⟩]) (by rwa [hsite])
  rw [hend.aside.rd (f := Reg.Sp.SITE_PSTATE) (fun h => h.2 rfl)]
  exact enterSlack_rd hi slackT (a := 0x15) ⟨rfl, by decide⟩ (by decide) (by decide) (Or.inl (by decide))

theorem frameOver_waits (hi : i < 256) (hp : s.pendBa = []) (slackT : Nat) : ∀ b ∈ (frameEnd (enterSlack s i slackT) i).pendBa, marginStep b := by
  have hw := (enterSlack_within (π := markView) s i slackT).silent.trans (frameEnd_within hi (enterSlack s i slackT)).silent
  intro b hb
  exact (hw.waits b hb).resolve_left (by rw [hp]; exact List.not_mem_nil)

end

/-! ### The mark generator (R122, R130, R306, R307) -/

/-- What the next mark of region `r` is made of, and what has been sent. -/
structure Paced (r : Nat) (s t : State) : Prop where
  fc : (t.region r).fc = (s.region r).fc
  at_ : (t.region r).markAt = (s.region r).markAt
  out : t.out = s.out

section
variable {r : Nat} {s t u : State}

theorem Paced.refl (s : State) : Paced r s s := ⟨rfl, rfl, rfl⟩

theorem Paced.trans (h : Paced r s t) (g : Paced r t u) : Paced r s u := ⟨g.fc.trans h.fc, g.at_.trans h.at_, g.out.trans h.out⟩

theorem Paced.wr (h : Paced r s t) (p : Nat) (f : Fld) (v : Nat) : Paced r s (t.wr p f v) := h.trans ⟨rfl, rfl, rfl⟩

theorem Paced.logged (h : Paced r s t) (g : Logged t u) : Paced r s u := by
  have hr : u.region r = t.region r := by
    unfold State.region
    rw [g.regions]
  exact h.trans ⟨by rw [hr], by rw [hr], by rw [g.rest]⟩

theorem Paced.ite {p : Prop} [Decidable p] (h : Paced r s t) (g : Paced r s u) : Paced r s (if p then t else u) := by split <;> assumption

theorem Paced.setRegion (h : Paced r s t) {v : Region} (hf : v.fc = (t.region r).fc) (ha : v.markAt = (t.region r).markAt) :
    Paced r s (t.setRegion r v) :=
  h.trans ⟨by rw [State.region_setRegion_same, hf], by rw [State.region_setRegion_same, ha], rfl⟩

theorem nextDilation_paced (s : State) (r : Nat) : Paced r s (nextDilation s r) := by
  unfold nextDilation
  extract_lets g d q s1 s2
  have h1 : Paced r s s1 := (Paced.refl s).setRegion rfl rfl
  have h2 : Paced r s s2 := (h1.wr ..).wr ..
  clear_value s2
  exact Paced.ite (h2.wr ..) h2

theorem extSummary_paced (s : State) (r : Nat) : Paced r s (extSummary s r) := by
  unfold extSummary
  extract_lets g n s1
  have h1 : Paced r s s1 := (Paced.refl s).setRegion rfl rfl
  clear_value s1
  exact Paced.ite ((Paced.refl s).setRegion rfl rfl) (Paced.ite h1 (h1.logged (logAdd_logged ..)))

theorem capCheck_paced (s : State) (r power : Nat) : Paced r s (capCheck s r power) := by
  unfold capCheck
  exact Paced.ite ((Paced.refl s).wr ..) (Paced.refl s)

/-- R122: the generator of a region emits the mark of the next frame. -/
theorem markGenerate_shows {s : State} {r : Nat} (power : Nat) (hrun : (s.region r).running = true) :
    ((markGenerate s r power).region r).fc = ((s.region r).fc + 1) % 2 ^ 48 ∧
    ((markGenerate s r power).region r).markAt =
      (s.region r).markAt + (1024 * 2 ^ (s.region r).genFl + (s.region r).dilation) * cycleThirds (s.region r).genFs ∧
    (markGenerate s r power).out = s.out ++ [.mark r (((s.region r).fc + 1) % 2 ^ 48) (((markGenerate s r power).region r).markAt / 3)] := by
  unfold markGenerate
  extract_lets g f at_ rows q s1 s2
  rw [hrun, if_neg (by decide)]
  have hpaced : Paced r s1 s2 := (nextDilation_paced s1 r).trans ((extSummary_paced _ r).trans (capCheck_paced _ r power))
  have hfc : (s1.region r).fc = f := by
    unfold s1
    rw [State.region_setRegion_same]
  have hat : (s1.region r).markAt = at_ := by
    unfold s1
    rw [State.region_setRegion_same]
  have hout : s1.out = s.out := rfl
  clear_value s1 s2
  have hmark : (s2.region r).markAt = at_ := hpaced.at_.trans hat
  refine ⟨hpaced.fc.trans hfc, hmark, ?_⟩
  show s2.out ++ [.mark r f (at_ / 3)] = s.out ++ [.mark r f ((s2.region r).markAt / 3)]
  rw [hpaced.out, hout, hmark]

end

/-! ### Marks at a site (R271) -/

/-- R271: a site relays every mark, and keeps one of its island. -/
theorem markMessage_shows (s : State) (i r fc at0 : Nat) : (markMessage s i r fc at0).out = s.out ++ [.mark r fc at0] ∧
    (islandOf s i = r → r < 16 → ((markMessage s i r fc at0).site i).mark = some (fc % 2 ^ 48, at0) ∧
      (at0 < s.rcnt → (markMessage s i r fc at0).rd (sclkP i) Reg.Ck.MARK_LATE = 1)) ∧
    Off (keysOf (sclkP i) [Reg.Ck.MARK_LATE]) s (markMessage s i r fc at0) := by
  unfold markMessage
  extract_lets s1 st s2
  have hoff : Off (keysOf (sclkP i) [Reg.Ck.MARK_LATE]) s s2 := ((Off.refl _ s).same rfl).same rfl
  have hlate : Off (keysOf (sclkP i) [Reg.Ck.MARK_LATE]) s (s2.setBit (sclkP i) Reg.Ck.MARK_LATE) := hoff.wr (keysOf_mem (List.mem_singleton_self _))
  have hmark : (s2.site i).mark = some (fc % 2 ^ 48, at0) := by
    unfold s2
    rw [State.site_setSite_same]
  have hisl : islandOf s1 i = islandOf s i := rfl
  have hout : s2.out = s.out ++ [.mark r fc at0] := rfl
  have hcnt : s2.rcnt = s.rcnt := rfl
  rw [hisl]
  by_cases hmine : islandOf s i ≠ r ∨ 16 ≤ r
  · rw [if_pos hmine]
    exact ⟨rfl, fun h hr => absurd hmine (by simp [h]; omega), (Off.refl _ s).same rfl⟩
  · rw [if_neg hmine, hcnt]
    clear_value s2
    by_cases ht : at0 < s.rcnt
    · rw [if_pos ht]
      exact ⟨hout, fun _ _ => ⟨hmark, fun _ => State.rd_wr_same ..⟩, hlate⟩
    · rw [if_neg ht]
      exact ⟨hout, fun _ _ => ⟨hmark, fun h => absurd h ht⟩, hoff⟩

/-! ### Free sites (R343) -/

/-- R343: a boundary of a free site applies what waited for it, and starts its counts anew. -/
theorem periodBoundary_shows {s : State} {i : Nat} (h : 16 ≤ (s.site i).region) :
    (periodBoundary s i).pendBa = s.pendBa.filter (fun b => !(pageOfSite i b.1)) ∧ ((periodBoundary s i).site i).uSram = 0 ∧
    ((periodBoundary s i).site i).uWell = 0 ∧ ((periodBoundary s i).site i).uTelem = 0 ∧ ((periodBoundary s i).site i).moved = 0 := by
  have hsite : (applySite (budgetEnd s i) i).site i = (budgetEnd s i).site i := by
    unfold State.site applySite
    rw [applyBa_sites]
  unfold periodBoundary
  rw [if_neg (Nat.not_lt.2 h), hsite]
  refine ⟨applyBa_pendBa (budgetEnd s i) false _, ?_⟩
  unfold budgetEnd
  extract_lets st p s1 s2 s3 s4
  rw [State.site_setSite_same]
  exact ⟨rfl, rfl, rfl, rfl⟩

/-- Settles O34: the end and the start of a frame keep, of what FRAME_MARK sets, the site's view (`markView`) and the registers beside the
timetable network; the region's pace and the free site's boundary are lemmas of their own. -/
theorem marksBeginFrames : Obligations.MarksBeginFrames := by
  unfold Obligations.MarksBeginFrames
  intro s i hi
  have hok : siteOk i = true := decide_eq_true hi
  refine ⟨fun r power hr hrun => ?_, fun r fc at0 => completes_onUnit rfl hok (markMessage_shows s i r fc at0), fun cyc lag slackT f at0 hm hdue => ?_,
    fun cyc lag slackT hm => ?_, fun h => completes_onUnit rfl hok (periodBoundary_shows h)⟩
  · exact completes_onUnit rfl (decide_eq_true hr) (markGenerate_shows power hrun)
  · refine completes_onUnit rfl hok ?_
    rw [frameMark_eq hm hdue]
    have hview := frameStart_view (frameEnd (enterSlack s i slackT) i) i f (min lag 0xFFFF)
    simp only [markView, Prod.mk.injEq] at hview
    obtain ⟨hfc, hbase, hmark, hexec⟩ := hview
    obtain ⟨hold, hlen⟩ := frameOver_view hi slackT (s := s)
    refine ⟨hfc, by rw [hbase, hold, hlen], hmark, fun hs hmir => by rw [hexec, frameOver_power hi hs hmir], fun hp => ?_⟩
    rw [frameStart_lag hi (frameOver_waits hi hp slackT)]
    exact Nat.mod_eq_of_lt (by omega)
  · show onUnit (siteOk i) (frameMark s i cyc lag slackT) = .next s
    unfold onUnit frameMark
    rw [hok, hm]
    rfl

end Sys2Proof.Machine
end

section
/-! PROOFS. The row of an operation and the bundle that it issues (R150; log entry 13). -/

namespace Sys2Proof.Machine

/-- Log entry 13: an operation's row issues the bundle of its operation, whose fetch is not judged (`rowOf` names no bundle for the last
of its cases, every other command). -/
theorem exec_rowOf {i : Instr} {c : CoreId} {b : Nat} {arr : ArrayUpset} (h : rowOf i = some (c, b, arr)) (s : State) :
    exec i s = onUnit (coreOk c) (issue s c b false arr) := by
  unfold rowOf at h
  split at h
  case h_50 => contradiction
  all_goals
    simp only [Option.some.injEq, Prod.mk.injEq] at h
    obtain ⟨rfl, rfl, rfl⟩ := h
    rfl

/-- R150: where no upset strikes the bundle, its core issues what its program buffer holds. -/
theorem exec_bundleDue_nil (c : CoreId) (arr : ArrayUpset) (s : State) :
    exec (.bundleDue c [] arr) s = onUnit (coreOk c) (issue s c (bundleAt s c (s.core c).nextPc) true arr) := rfl

theorem onUnit_true {ok : Bool} (h : ok = true) (t : State) : onUnit ok t = .next t := by rw [h]; rfl

theorem issue_of_notDue {s : State} {c : CoreId} {b : Nat} (h : dueOf s c (bundleHdr b) = none) (fetched : Bool) (arr : ArrayUpset) :
    issue s c b fetched arr = s := by unfold issue; simp only [h]

theorem issue_of_held {s : State} {c : CoreId} {b : Nat} {d : Due} (h : dueOf s c (bundleHdr b) = some d) (hrun : mayIssue s c d.cyc = false)
    (fetched : Bool) (arr : ArrayUpset) : issue s c b fetched arr = s := by unfold issue; simp only [h, hrun]; rfl

theorem mayIssue_idle {s : State} {c : CoreId} (h2 : s.rd (coreP c) Reg.Co.STATE ≠ 2) (h4 : s.rd (coreP c) Reg.Co.STATE ≠ 4) (t : Nat) :
    mayIssue s c t = false := by unfold mayIssue; simp [h2, h4]

theorem issue_idle {s : State} {c : CoreId} (h2 : s.rd (coreP c) Reg.Co.STATE ≠ 2) (h4 : s.rd (coreP c) Reg.Co.STATE ≠ 4) (b : Nat)
    (fetched : Bool) (arr : ArrayUpset) : issue s c b fetched arr = s := by
  cases hd : dueOf s c (bundleHdr b) with
  | none => exact issue_of_notDue hd fetched arr
  | some d => exact issue_of_held hd (mayIssue_idle h2 h4 d.cyc) fetched arr

/-- R165, R314, R316: the fetch of a clean bundle changes nothing of its issue. -/
theorem issue_clean {s : State} {c : CoreId} {b : Nat} (hs : isShadow s c.site = false)
    (hf : ∀ d, dueOf s c (bundleHdr b) = some d → FetchesCleanly (atCycle s c.site d.cyc) c d.cyc) (arr : ArrayUpset) :
    issue s c b true arr = issue s c b false arr := by
  cases hd : dueOf s c (bundleHdr b) with
  | none => rw [issue_of_notDue hd, issue_of_notDue hd]
  | some d =>
    obtain ⟨hwin, hpoison, hnote⟩ := hf d hd
    have hplain : isShadow (atCycle s c.site d.cyc) c.site = false := hs
    have hpc : ((atCycle s c.site d.cyc).core c).nextPc = (s.core c).nextPc := rfl
    rw [hpc] at hwin hpoison hnote
    unfold issue
    simp only [hd, hplain, Bool.false_eq_true, if_false, if_true, hwin, hpoison, hnote]

/-- Settles O24: the fetch's own outcomes, an open window, poison or a corrected word, are what a clean fetch has none of. -/
theorem fetchedBundlesDoWhatTheirRowsDo : Obligations.FetchedBundlesDoWhatTheirRowsDo := by
  unfold Obligations.FetchedBundlesDoWhatTheirRowsDo
  intro i s c b arr hrow _ hb hs hf
  rw [exec_rowOf hrow, exec_bundleDue_nil, hb, issue_clean hs hf]

/-- Settles O28: issue asks `mayIssue` first. -/
theorem idleCoresIssueNothing : Obligations.IdleCoresIssueNothing := by
  unfold Obligations.IdleCoresIssueNothing
  intro i s c b arr hi hok h2 h4
  rcases hi with hrow | rfl
  · rw [exec_rowOf hrow, issue_idle h2 h4, onUnit_true hok]
  · rw [exec_bundleDue_nil, issue_idle h2 h4, onUnit_true hok]

end Sys2Proof.Machine
end

section
/-! PROOFS. Arming, disarming and the start of programs (R151, R170, R173). -/

namespace Sys2Proof.Machine

/-! ### Keys by the place in their page -/

/-- Two fields that stand at different places of their pages. -/
theorem pageKey_ne {p q : Nat} {f g : Fld} (hp : p % 0x1000 = 0) (hq : q % 0x1000 = 0) (hf : Paged f) (hg : Paged g)
    (h : f.off * 32 + f.lsb ≠ g.off * 32 + g.lsb) : fldKey p f ≠ fldKey q g := by
  obtain ⟨hfx, hfo⟩ := hf
  obtain ⟨hgx, hgo⟩ := hg
  unfold fldKey
  rw [hfx, hgx, if_neg Bool.false_ne_true, if_neg Bool.false_ne_true]
  omega

theorem coreP_mod (c : CoreId) : coreP c % 0x1000 = 0 := by unfold coreP siteP; omega

theorem tniP_mod (i : Nat) : tniP i % 0x1000 = 0 := by unfold tniP siteP; omega

theorem relP_mod (i : Nat) : relP i % 0x1000 = 0 := by unfold relP siteP; omega

/-! ### Host accesses to a core's page (R349, R376) -/

section
variable {s t : State} {c : CoreId}

theorem hostPath_hosted {page off : Nat} (h : Hosted s page off) (t : State) : hostPath s page off t = sideCount t page := by
  obtain ⟨hon, hserves, hdomain⟩ := h
  unfold hostPath
  simp [hon, hserves, hdomain]

theorem coreP_site (hc : coreOk c = true) : coreP c / 0x100000 - 0x100 = c.site := by
  have := coreOk_n hc
  unfold coreP siteP
  omega

theorem sideCount_off (t : State) (page : Nat) : Off (keysOf (budP (page / 0x100000 - 0x100)) [Reg.Bu.BUD_HIT]) t (sideCount t page) := by
  unfold sideCount
  refine Off.ite (Off.refl _ t) (Off.ite (Off.orBits (Off.refl _ t).same ?_) (Off.refl _ t).same)
  exact keysOf_mem (List.mem_singleton_self _)

theorem sideCount_coreOff (hc : coreOk c = true) (t : State) : Off (keysOf (budP c.site) [Reg.Bu.BUD_HIT]) t (sideCount t (coreP c)) := by
  have h := sideCount_off t (coreP c)
  rwa [coreP_site hc] at h

theorem coreKey_ne_budget (hc : coreOk c = true) {f g : Fld} (hf : Paged f) (hg : Paged g) : fldKey (coreP c) f ≠ fldKey (budP c.site) g := by
  rw [coreP_eq]
  have := coreOk_n hc
  exact sitePageKey_ne (b := 0x18) hf hg (by omega) (by decide) (Or.inr (Or.inl (by omega)))

theorem sideCount_rd (hc : coreOk c = true) (t : State) {f : Fld} (hf : Paged f) : (sideCount t (coreP c)).rd (coreP c) f = t.rd (coreP c) f :=
  (sideCount_coreOff hc t).rd _ _ (fun h => coreKey_ne_budget hc hf ⟨rfl, by decide⟩ (List.mem_singleton.1 h))

theorem sideCount_core (t : State) (page : Nat) (x : CoreId) : (sideCount t page).core x = t.core x := by
  unfold sideCount
  split
  · rfl
  · dsimp only
    split <;> rfl

/-- A hosted command on a core's page leaves what its action leaves, and counts against the site's budget. -/
theorem hosted_core {ks : List Nat} (hc : coreOk c = true) (h : Off ks s t) :
    Off (ks ++ keysOf (budP c.site) [Reg.Bu.BUD_HIT]) s (sideCount t (coreP c)) :=
  (h.mono (List.subset_append_left ..)).trans ((sideCount_coreOff hc t).mono (List.subset_append_right ..))

end

/-! ### ARM and DISARM (R151, R173) -/

section
variable {s : State} {c : CoreId}

def armedFields : List Fld := [Reg.Co.STATE, Reg.Co.ARM, Reg.Co.TRAP_TYPE, Reg.Co.TRAP_CAUSE, Reg.Co.TRAP_SLOT, Reg.Co.SEQ_TRAP_SUPP]

theorem armCore_off (s : State) (c : CoreId) : Off (keysOf (coreP c) armedFields) s (armCore s c) := by
  have h := ((((((Off.refl _ s).wr (p := coreP c) (f := Reg.Co.STATE) (v := 1) (keysOf_mem (fs := armedFields) (by decide))).wr
    (p := coreP c) (f := Reg.Co.ARM) (v := 1) (keysOf_mem (by decide))).wr
    (p := coreP c) (f := Reg.Co.TRAP_TYPE) (v := 0) (keysOf_mem (by decide))).wr
    (p := coreP c) (f := Reg.Co.TRAP_CAUSE) (v := 0) (keysOf_mem (by decide))).wr
    (p := coreP c) (f := Reg.Co.TRAP_SLOT) (v := 7) (keysOf_mem (by decide))).wr
    (p := coreP c) (f := Reg.Co.SEQ_TRAP_SUPP) (v := 0) (keysOf_mem (by decide))
  exact h.same

theorem armCore_shows (s : State) (c : CoreId) :
    let t := armCore s c
    let p := coreP c
    t.rd p Reg.Co.STATE = 1 ∧ t.rd p Reg.Co.ARM = 1 ∧ t.rd p Reg.Co.TRAP_TYPE = 0 ∧ t.rd p Reg.Co.TRAP_CAUSE = 0 ∧
      t.rd p Reg.Co.TRAP_SLOT = 7 ∧ t.rd p Reg.Co.SEQ_TRAP_SUPP = 0 ∧ (t.core c).trapRec = none := by
  dsimp only [armCore]
  simp (disch := decide) only [State.rd_setCore, rd_wr_apart, State.rd_wr_same, State.core_setCore_same]
  decide

theorem armWrite_taken (h : armOk s c = true) : armWrite s c = armCore s c := by
  unfold armWrite arm
  rw [if_pos h]
  rfl

theorem armWrite_refused (h : ¬ armOk s c = true) : armWrite s c = (badValue s (coreP c) 0x40).setBit (coreP c) Reg.Co.ARM_REFUSED := by
  unfold armWrite arm
  rw [if_neg h]
  rfl

theorem refusedArm_shows (s : State) (c : CoreId) :
    let t := (badValue s (coreP c) 0x40).setBit (coreP c) Reg.Co.ARM_REFUSED
    t.rd (coreP c) Reg.Co.ARM_REFUSED = 1 ∧ t.rd (coreP c) Reg.Hd.BAD_VALUE = 1 ∧ t.rd (coreP c) Reg.Hd.LAST_OFFSET = 0x40 ∧
      Off (keysOf (coreP c) [Reg.Co.ARM_REFUSED, Reg.Hd.BAD_VALUE, Reg.Hd.LAST_OFFSET]) s t := by
  dsimp only [badValue, State.setBit]
  refine ⟨?_, ?_, ?_, (((Off.refl _ s).wr ?_).wr ?_).wr ?_⟩
  case refine_4 | refine_5 | refine_6 => exact keysOf_mem (by decide)
  all_goals
    simp (disch := decide) only [rd_wr_apart, State.rd_wr_same]
    decide

theorem disarm_armed (h : s.rd (coreP c) Reg.Co.STATE = 1) : disarm s c = (s.wr (coreP c) Reg.Co.STATE 0).wr (coreP c) Reg.Co.ARM 0 := if_pos h

theorem disarm_other (h : s.rd (coreP c) Reg.Co.STATE ≠ 1) : disarm s c = s := if_neg h

theorem disarm_off (s : State) (c : CoreId) : Off (keysOf (coreP c) [Reg.Co.STATE, Reg.Co.ARM]) s (disarm s c) := by
  unfold disarm
  exact Off.ite (((Off.refl _ s).wr (keysOf_mem (by decide))).wr (keysOf_mem (by decide))) (Off.refl _ s)

theorem execArm_shows (hc : coreOk c = true) (h : Hosted s (coreP c) 0x40) : Completes (.arm c) s (fun t =>
    if armOk s c then t.rd (coreP c) Reg.Co.STATE = 1 ∧ t.rd (coreP c) Reg.Co.ARM = 1 ∧ t.rd (coreP c) Reg.Co.TRAP_TYPE = 0 ∧
      t.rd (coreP c) Reg.Co.TRAP_CAUSE = 0 ∧ t.rd (coreP c) Reg.Co.TRAP_SLOT = 7 ∧ t.rd (coreP c) Reg.Co.SEQ_TRAP_SUPP = 0 ∧
      (t.core c).trapRec = none ∧ Off (keysOf (coreP c) armedFields ++ keysOf (budP c.site) [Reg.Bu.BUD_HIT]) s t
    else t.rd (coreP c) Reg.Co.ARM_REFUSED = 1 ∧ t.rd (coreP c) Reg.Hd.BAD_VALUE = 1 ∧ t.rd (coreP c) Reg.Hd.LAST_OFFSET = 0x40 ∧
      Off (keysOf (coreP c) [Reg.Co.ARM_REFUSED, Reg.Hd.BAD_VALUE, Reg.Hd.LAST_OFFSET] ++ keysOf (budP c.site) [Reg.Bu.BUD_HIT]) s t) := by
  refine completes_onUnit rfl hc ?_
  rw [hostPath_hosted h]
  split
  next harm =>
    obtain ⟨hstate, harmed, htype, hcause, hslot, hsupp, hrec⟩ := armCore_shows s c
    rw [armWrite_taken harm]
    refine ⟨(sideCount_rd hc _ ⟨rfl, by decide⟩).trans hstate, (sideCount_rd hc _ ⟨rfl, by decide⟩).trans harmed,
      (sideCount_rd hc _ ⟨rfl, by decide⟩).trans htype, (sideCount_rd hc _ ⟨rfl, by decide⟩).trans hcause,
      (sideCount_rd hc _ ⟨rfl, by decide⟩).trans hslot, (sideCount_rd hc _ ⟨rfl, by decide⟩).trans hsupp, ?_, hosted_core hc (armCore_off s c)⟩
    rw [sideCount_core]
    exact hrec
  next harm =>
    obtain ⟨hrefused, hbad, hoff, hrest⟩ := refusedArm_shows s c
    rw [armWrite_refused harm]
    exact ⟨(sideCount_rd hc _ ⟨rfl, by decide⟩).trans hrefused, (sideCount_rd hc _ ⟨rfl, by decide⟩).trans hbad,
      (sideCount_rd hc _ ⟨rfl, by decide⟩).trans hoff, hosted_core hc hrest⟩

theorem execDisarm_shows (hc : coreOk c = true) (h : Hosted s (coreP c) 0x40) : Completes (.disarm c) s (fun t =>
    (s.rd (coreP c) Reg.Co.STATE = 1 → t.rd (coreP c) Reg.Co.STATE = 0 ∧ t.rd (coreP c) Reg.Co.ARM = 0) ∧
      (s.rd (coreP c) Reg.Co.STATE ≠ 1 → t.rd (coreP c) Reg.Co.STATE = s.rd (coreP c) Reg.Co.STATE) ∧
      Off (keysOf (coreP c) [Reg.Co.STATE, Reg.Co.ARM] ++ keysOf (budP c.site) [Reg.Bu.BUD_HIT]) s t) := by
  refine completes_onUnit (t := hostPath s (coreP c) 0x40 (disarm s c)) rfl hc ?_
  rw [hostPath_hosted h]
  refine ⟨fun h1 => ?_, fun h1 => ?_, hosted_core hc (disarm_off s c)⟩
  · rw [sideCount_rd hc _ ⟨rfl, by decide⟩, sideCount_rd hc _ ⟨rfl, by decide⟩, disarm_armed h1, rd_wr_apart _ _ _ _ _ (by decide),
      State.rd_wr_same, State.rd_wr_same]
    decide
  · rw [sideCount_rd hc _ ⟨rfl, by decide⟩, disarm_other h1]

end

/-! ### A region leaves the fault state (R170) -/

/-- A core in the fault state is idle again. -/
def faultIdle (s : State) (c : CoreId) : State := if s.rd (coreP c) Reg.Co.STATE = 5 then s.wr (coreP c) Reg.Co.STATE 0 else s

theorem leaveFault_other {s : State} {r : Nat} (h : regionState s r ≠ 3) : leaveFault s r = s := if_pos h

theorem leaveFault_fault {s : State} {r : Nat} (h : regionState s r = 3) :
    leaveFault s r = (coresOf (regionSites s r)).foldl faultIdle (s.wr regionP (Reg.Rg.STATE r) 2) := if_neg (not_not.2 h)

theorem faultIdle_rest (s : State) (c : CoreId) : faultIdle s c = { s with regs := (faultIdle s c).regs } := by
  unfold faultIdle
  split <;> rfl

theorem faultIdle_rd (s : State) (c : CoreId) {p : Nat} {f : Fld} (h : fldKey (coreP c) Reg.Co.STATE ≠ fldKey p f) :
    (faultIdle s c).rd p f = s.rd p f := by
  unfold faultIdle
  split
  · exact State.rd_wr_ne _ _ _ _ _ _ h
  · rfl

/-- A core that is not in the fault state stays as it is. -/
theorem faultIdle_state {s : State} {c : CoreId} (h : s.rd (coreP c) Reg.Co.STATE ≠ 5) (x : CoreId) :
    (faultIdle s x).rd (coreP c) Reg.Co.STATE = s.rd (coreP c) Reg.Co.STATE := by
  by_cases hk : fldKey (coreP x) Reg.Co.STATE = fldKey (coreP c) Reg.Co.STATE
  · have hsame : s.rd (coreP x) Reg.Co.STATE = s.rd (coreP c) Reg.Co.STATE := by unfold State.rd; rw [hk]
    unfold faultIdle
    rw [hsame, if_neg h]
  · exact faultIdle_rd s x hk

theorem faultIdles_rest (l : List CoreId) (s : State) : l.foldl faultIdle s = { s with regs := (l.foldl faultIdle s).regs } := by
  induction l generalizing s with
  | nil => rfl
  | cons c l ih =>
    rw [List.foldl_cons, ih, faultIdle_rest s c]

theorem faultIdles_rd (l : List CoreId) (s : State) {p : Nat} {f : Fld} (h : ∀ c, fldKey (coreP c) Reg.Co.STATE ≠ fldKey p f) :
    (l.foldl faultIdle s).rd p f = s.rd p f := by
  induction l generalizing s with
  | nil => rfl
  | cons c l ih => exact (ih _).trans (faultIdle_rd s c (h c))

theorem faultIdles_state (l : List CoreId) {s : State} {c : CoreId} (h : s.rd (coreP c) Reg.Co.STATE ≠ 5) :
    (l.foldl faultIdle s).rd (coreP c) Reg.Co.STATE = s.rd (coreP c) Reg.Co.STATE := by
  induction l generalizing s with
  | nil => rfl
  | cons x l ih =>
    have hx := faultIdle_state h x
    exact (ih (by rwa [hx])).trans hx

theorem leaveFault_rest (s : State) (r : Nat) : leaveFault s r = { s with regs := (leaveFault s r).regs } := by
  by_cases h : regionState s r = 3
  · rw [leaveFault_fault h, faultIdles_rest]
    rfl
  · rw [leaveFault_other h]

theorem coreKey_ne_regionState (c : CoreId) {f : Fld} (hf : Paged f) {r : Nat} (hr : r < 16) :
    fldKey (coreP c) f ≠ fldKey regionP (Reg.Rg.STATE r) := by
  have hk := paged_key (p := coreP c) hf
  have hs := paged_key (p := regionP) (f := Reg.Rg.STATE r) ⟨rfl, by simp only [Reg.Rg.STATE]; omega⟩
  unfold coreP siteP regionP at *
  omega

/-- A field of a site's page that is at another place than a core's STATE. -/
theorem leaveFault_rd (s : State) {r p : Nat} {f : Fld} (hp : p % 0x1000 = 0) (hsite : 0x10000000 ≤ p) (hf : Paged f)
    (h : Reg.Co.STATE.off * 32 + Reg.Co.STATE.lsb ≠ f.off * 32 + f.lsb) (hr : r < 16) : (leaveFault s r).rd p f = s.rd p f := by
  by_cases hst : regionState s r = 3
  · rw [leaveFault_fault hst, faultIdles_rd _ _ (fun c => pageKey_ne (coreP_mod c) hp ⟨rfl, by decide⟩ hf h)]
    refine State.rd_wr_ne _ _ _ _ _ _ (fun e => ?_)
    have hk := paged_key (p := p) hf
    have hs := paged_key (p := regionP) (f := Reg.Rg.STATE r) ⟨rfl, by simp only [Reg.Rg.STATE]; omega⟩
    unfold regionP at *
    omega
  · rw [leaveFault_other hst]

theorem leaveFault_state {s : State} {c : CoreId} {r : Nat} (h : s.rd (coreP c) Reg.Co.STATE ≠ 5) (hr : r < 16) :
    (leaveFault s r).rd (coreP c) Reg.Co.STATE = s.rd (coreP c) Reg.Co.STATE := by
  have hne := (coreKey_ne_regionState c (f := Reg.Co.STATE) ⟨rfl, by decide⟩ hr).symm
  have hwr : (s.wr regionP (Reg.Rg.STATE r) 2).rd (coreP c) Reg.Co.STATE = s.rd (coreP c) Reg.Co.STATE := State.rd_wr_ne _ _ _ _ _ _ hne
  by_cases hst : regionState s r = 3
  · rw [leaveFault_fault hst, faultIdles_state _ (by rwa [hwr]), hwr]
  · rw [leaveFault_other hst]

theorem leaveFault_region {s : State} {r : Nat} (hst : regionState s r = 3) (hr : r < 16) : regionState (leaveFault s r) r = 2 := by
  unfold regionState
  rw [leaveFault_fault hst, faultIdles_rd _ _ (fun c => coreKey_ne_regionState c ⟨rfl, by decide⟩ hr), State.rd_wr_same]
  rfl

/-! ### PROGRAM_START (R151) -/

section
variable {s : State} {c : CoreId}

/-- R151: the registers of a program that starts. -/
def startRegs (s : State) (c : CoreId) : State :=
  ((s.wr (coreP c) Reg.Co.STATE 2).wr (coreP c) Reg.Co.ARM 0).wr (coreP c) Reg.Co.LOOP_DEPTH 0

/-- R151: its core, at the start position. -/
def startCore (s : State) (c : CoreId) : Core :=
  { ((startRegs s c).core c) with
    nextPc := (startRegs s c).rd (coreP c) Reg.Co.START_PC, prev := (s.site c.site).base
    prevFc := ((s.site c.site).fc + 2 ^ 48 - 1) % 2 ^ 48, loops := [], issued := 0, lastCyc := 0, skipped := none }

def startRun (s : State) (c : CoreId) : State := (startRegs s c).setCore c (startCore s c)

/-- R149: a start in a frame that does not execute skips its first bundle. -/
def startSkip (s : State) (c : CoreId) : State :=
  if (s.site c.site).exec then startRun s c
  else (startRun s c).setCore c { ((startRun s c).core c) with skipped := some (firstDue (startRun s c) c) }

theorem startRun_rd (s : State) (c : CoreId) {p : Nat} {f : Fld} (hstate : fldKey (coreP c) Reg.Co.STATE ≠ fldKey p f)
    (harm : fldKey (coreP c) Reg.Co.ARM ≠ fldKey p f) (hdepth : fldKey (coreP c) Reg.Co.LOOP_DEPTH ≠ fldKey p f) :
    (startRun s c).rd p f = s.rd p f := by
  unfold startRun startRegs
  rw [State.rd_setCore, State.rd_wr_ne _ _ _ _ _ _ hdepth, State.rd_wr_ne _ _ _ _ _ _ harm, State.rd_wr_ne _ _ _ _ _ _ hstate]

theorem startRun_shows (s : State) (c : CoreId) :
    (startRun s c).rd (coreP c) Reg.Co.STATE = 2 ∧ (startRun s c).rd (coreP c) Reg.Co.ARM = 0 ∧
      (startRun s c).rd (coreP c) Reg.Co.START_PC = s.rd (coreP c) Reg.Co.START_PC := by
  unfold startRun startRegs
  simp (disch := decide) only [State.rd_setCore, rd_wr_apart, State.rd_wr_same]
  decide

theorem startRun_core (s : State) (c : CoreId) : (startRun s c).core c = startCore s c := by
  unfold startRun
  rw [State.core_setCore_same]

theorem startSkip_rd (s : State) (c : CoreId) (p : Nat) (f : Fld) : (startSkip s c).rd p f = (startRun s c).rd p f := by
  unfold startSkip
  split
  · rfl
  · rw [State.rd_setCore]

theorem startSkip_site (s : State) (c : CoreId) (i : Nat) : (startSkip s c).site i = s.site i := by
  unfold startSkip
  split
  · rfl
  · rw [State.site_setCore]
    rfl

theorem startSkip_mem (s : State) (c : CoreId) : (startSkip s c).mem = s.mem := by
  unfold startSkip
  split
  · rfl
  · rw [State.setCore_mem]
    rfl

theorem startSkip_core (s : State) (c : CoreId) :
    (startSkip s c).core c = { (startCore s c) with skipped := if (s.site c.site).exec then none else some (firstDue (startRun s c) c) } := by
  unfold startSkip
  by_cases h : (s.site c.site).exec = true
  · rw [if_pos h, if_pos h, startRun_core]
    rfl
  · rw [if_neg h, if_neg h, State.core_setCore_same, startRun_core]

theorem startSkip_shadow (s : State) (hc : coreOk c = true) : isShadow (startSkip s c) c.site = isShadow s c.site := by
  have hne : ∀ f : Fld, Paged f → fldKey (coreP c) f ≠ fldKey (relP c.site) Reg.Re.SHADOW_STATE := fun f hf => (shadowKey_ne_core hc hf).symm
  unfold isShadow
  rw [startSkip_rd, startRun_rd s c (hne _ ⟨rfl, by decide⟩) (hne _ ⟨rfl, by decide⟩) (hne _ ⟨rfl, by decide⟩)]

/-- The region of the core's site leaves the fault state. -/
def startEnd (s : State) (c : CoreId) : State :=
  if (s.site c.site).region < 16 then leaveFault (startSkip s c) (s.site c.site).region else startSkip s c

theorem startEnd_rest (s : State) (c : CoreId) : startEnd s c = { startSkip s c with regs := (startEnd s c).regs } := by
  unfold startEnd
  split
  · exact leaveFault_rest _ _
  · rfl

theorem startEnd_site (s : State) (c : CoreId) (i : Nat) : (startEnd s c).site i = s.site i := by
  rw [startEnd_rest]
  exact startSkip_site s c i

theorem startEnd_mem (s : State) (c : CoreId) : (startEnd s c).mem = s.mem := by
  rw [startEnd_rest]
  exact startSkip_mem s c

theorem startEnd_core (s : State) (c : CoreId) : (startEnd s c).core c = (startSkip s c).core c := by
  rw [startEnd_rest]
  rfl

theorem startEnd_rd (s : State) (c : CoreId) {p : Nat} {f : Fld} (hp : p % 0x1000 = 0) (hsite : 0x10000000 ≤ p) (hf : Paged f)
    (h : Reg.Co.STATE.off * 32 + Reg.Co.STATE.lsb ≠ f.off * 32 + f.lsb) : (startEnd s c).rd p f = (startRun s c).rd p f := by
  unfold startEnd
  split
  next hr => rw [leaveFault_rd _ hp hsite hf h hr, startSkip_rd]
  next => rw [startSkip_rd]

theorem startEnd_state (s : State) (c : CoreId) : (startEnd s c).rd (coreP c) Reg.Co.STATE = 2 := by
  have hrun := (startRun_shows s c).1
  unfold startEnd
  split
  next hr =>
    rw [leaveFault_state (by rw [startSkip_rd, hrun]; decide) hr, startSkip_rd, hrun]
  next => rw [startSkip_rd, hrun]

theorem startEnd_region (hr : (s.site c.site).region < 16) (hst : regionState s (s.site c.site).region = 3) :
    regionState (startEnd s c) (s.site c.site).region = 2 := by
  have hne : ∀ f : Fld, Paged f → fldKey (coreP c) f ≠ fldKey regionP (Reg.Rg.STATE (s.site c.site).region) :=
    fun f hf => coreKey_ne_regionState c hf hr
  have hkept : regionState (startSkip s c) (s.site c.site).region = 3 := by
    unfold regionState
    rw [startSkip_rd, startRun_rd s c (hne _ ⟨rfl, by decide⟩) (hne _ ⟨rfl, by decide⟩) (hne _ ⟨rfl, by decide⟩)]
    exact hst
  unfold startEnd
  rw [if_pos hr]
  exact leaveFault_region hkept hr

theorem programStart_eq (hc : coreOk c = true) (hstate : s.rd (coreP c) Reg.Co.STATE = 1) (hfc : (s.site c.site).fc = startFc s c)
    (hmir : 256 ≤ (s.site c.site).mirTo) (hplain : isShadow s c.site = false) : programStart s c = startEnd s c := by
  have hnot : ¬ (s.rd (coreP c) Reg.Co.STATE ≠ 1 ∨ (s.site c.site).fc ≠ startFc s c) := by simp [hstate, hfc]
  have hbegun : programStart s c = if isShadow (startSkip s c) c.site then (startSkip s c).wr (relP c.site) Reg.Re.SHADOW_STATE 2
      else shadowStart (startEnd s c) c := if_neg hnot
  have halone : 256 ≤ ((startEnd s c).site c.site).mirTo := by rw [startEnd_site]; exact hmir
  rw [hbegun, startSkip_shadow s hc, hplain, if_neg Bool.false_ne_true]
  exact if_pos halone

/-- R149: what the first bundle's due cycle is read from. -/
theorem firstDue_congr {t u : State} (hmem : u.mem = t.mem) (hpc : (u.core c).nextPc = (t.core c).nextPc)
    (hlen : u.rd (tniP c.site) Reg.Tn.FL_CODE = t.rd (tniP c.site) Reg.Tn.FL_CODE) (hfc : (u.site c.site).fc = (t.site c.site).fc) :
    firstDue u c = firstDue t c := by
  unfold firstDue bundleAt State.frameLen
  rw [hmem, hpc, hlen, hfc]

theorem startEnd_firstDue (s : State) (c : CoreId) : firstDue (startEnd s c) c = firstDue (startRun s c) c := by
  refine firstDue_congr ((startEnd_mem s c).trans rfl) ?_ ?_ ?_
  · rw [startEnd_core, startSkip_core, startRun_core]
  · exact startEnd_rd s c (tniP_mod _) (by unfold tniP siteP; omega) ⟨rfl, by decide⟩ (by decide)
  · rw [startEnd_site]
    rfl

theorem programStart_shows (hc : coreOk c = true) (hstate : s.rd (coreP c) Reg.Co.STATE = 1) (hfc : (s.site c.site).fc = startFc s c)
    (hmir : 256 ≤ (s.site c.site).mirTo) (hplain : isShadow s c.site = false) :
    let st := s.site c.site
    let k := s.core c
    Completes (.programStart c) s (fun t =>
      t.rd (coreP c) Reg.Co.STATE = 2 ∧ t.rd (coreP c) Reg.Co.ARM = 0 ∧ (t.core c).nextPc = s.rd (coreP c) Reg.Co.START_PC ∧
      (t.core c).prev = st.base ∧ (t.core c).loops = [] ∧ (t.core c).issued = 0 ∧
      (t.core c).skipped = (if st.exec then none else some (firstDue t c)) ∧
      (st.region < 16 → regionState s st.region = 3 → regionState t st.region = 2) ∧
      ({ k with nextPc := 0, prev := 0, prevFc := 0, loops := [], issued := 0, lastCyc := 0, skipped := none } : Core) =
        { t.core c with nextPc := 0, prev := 0, prevFc := 0, loops := [], issued := 0, lastCyc := 0, skipped := none }) := by
  obtain ⟨_, harm, hpc⟩ := startRun_shows s c
  refine completes_onUnit (t := programStart s c) rfl hc ?_
  rw [programStart_eq hc hstate hfc hmir hplain]
  refine ⟨startEnd_state s c, ?_, ?_, ?_, ?_, ?_, ?_, startEnd_region, ?_⟩
  · exact (startEnd_rd s c (coreP_mod c) (by unfold coreP siteP; omega) ⟨rfl, by decide⟩ (by decide)).trans harm
  all_goals rw [startEnd_core, startSkip_core]
  · exact hpc
  · rfl
  · rfl
  · rfl
  · rw [startEnd_firstDue]
  · rfl

end

/-- Settles O33: the host's writes reach the core's page and count in the site's budget; the start is `startEnd`, as the site has no
shadow to start. -/
theorem programsStart : Obligations.ProgramsStart := by
  unfold Obligations.ProgramsStart
  intro s c hc
  exact ⟨execArm_shows hc, execDisarm_shows hc, programStart_shows hc⟩

end Sys2Proof.Machine
end

section
/-! PROOFS. What no effect of an operation changes of the sequencers (R147, R149): their positions, loops and counts, and the frames
that the sites execute. -/

namespace Sys2Proof.Machine

/-- R147, R149, R153: what a core's sequencer holds. -/
def seqView (k : Core) : Nat × List LoopEnt × Nat × Nat × Nat × Nat := (k.nextPc, k.loops, k.prev, k.prevFc, k.issued, k.bundles)

/-- Every core's sequencer and every site's frame stand. -/
structure SeqKept (s t : State) : Prop where
  cores : ∀ x, seqView (t.core x) = seqView (s.core x)
  frames : ∀ i, (t.site i).fc = (s.site i).fc

section
variable {q s t : State}

theorem SeqKept.refl (s : State) : SeqKept s s := ⟨fun _ => rfl, fun _ => rfl⟩

theorem SeqKept.trans (h : SeqKept q s) (g : SeqKept s t) : SeqKept q t :=
  ⟨fun x => (g.cores x).trans (h.cores x), fun i => (g.frames i).trans (h.frames i)⟩

theorem SeqKept.same (h : SeqKept q s) (hc : t.cores = s.cores := by rfl) (hs : t.sites = s.sites := by rfl) : SeqKept q t :=
  h.trans ⟨fun x => by unfold State.core; rw [hc], fun i => by unfold State.site; rw [hs]⟩

theorem SeqKept.ite {p : Prop} [Decidable p] (h : SeqKept q s) (g : SeqKept q t) : SeqKept q (if p then s else t) := by split <;> assumption

theorem SeqKept.wr (h : SeqKept q s) (p : Nat) (f : Fld) (v : Nat) : SeqKept q (s.wr p f v) := h.same

theorem SeqKept.bump (h : SeqKept q s) (p : Nat) (f : Fld) (k : Nat) : SeqKept q (s.bump p f k) := SeqKept.ite h (h.wr ..)

theorem SeqKept.setRegion (h : SeqKept q s) (r : Nat) (v : Region) : SeqKept q (s.setRegion r v) := h.same

theorem SeqKept.baWrite (h : SeqKept q s) (p r : Nat) (f : Fld) (v : Nat) : SeqKept q (baWrite s p r f v) := h.same

theorem SeqKept.withMem (h : SeqKept q s) (m : Mem) : SeqKept q { s with mem := m } := h.same

theorem SeqKept.outOfService (h : SeqKept q s) (b : Bool) : SeqKept q { s with outOfService := b } := h.same

theorem SeqKept.logged (h : SeqKept q s) (g : Logged s t) : SeqKept q t := h.same (by rw [g.rest]) g.sites

theorem SeqKept.setCore (h : SeqKept q s) {c : CoreId} {v : Core} (hv : seqView v = seqView (s.core c)) : SeqKept q (s.setCore c v) := by
  refine h.trans ⟨fun x => ?_, fun _ => rfl⟩
  by_cases hx : coreKey c = coreKey x
  · have hsame : ∀ u : State, u.core x = u.core c := fun u => by unfold State.core; rw [hx]
    rw [hsame, hsame, State.core_setCore_same]
    exact hv
  · rw [State.core_setCore_ne _ _ _ _ hx]

theorem SeqKept.setSite (h : SeqKept q s) {i : Nat} {v : Site} (hv : v.fc = (s.site i).fc) : SeqKept q (s.setSite i v) := by
  refine h.trans ⟨fun _ => rfl, fun k => ?_⟩
  by_cases hk : i = k
  · subst hk
    rw [State.site_setSite_same]
    exact hv
  · rw [State.site_setSite_ne _ _ _ _ hk]

theorem SeqKept.foldl {β : Type} {g : State → β → State} (hg : ∀ u a, SeqKept u (g u a)) (l : List β) (h : SeqKept q s) :
    SeqKept q (l.foldl g s) := by
  induction l generalizing s with
  | nil => exact h
  | cons a l ih => exact ih (h.trans (hg s a))

theorem SeqKept.upTo {g : State → Nat → State} (hg : ∀ u a, SeqKept u (g u a)) (n : Nat) (h : SeqKept q s) :
    SeqKept q (Sys2Proof.upTo n g s) := SeqKept.foldl hg _ h

/-- An operation of core `c` that writes registers and memory alone. -/
theorem SeqKept.touches {ks : List Nat} (h : SeqKept q s) (g : Touches ks s t) : SeqKept q t := h.same (by rw [g.rest]) (by rw [g.rest])

end

/-! ### Faults, suspects and the end of shadow runs (R24, R326, R335) -/

theorem faultRegion_seqKept (s : State) (r fc k : Nat) : SeqKept s (faultRegion s r fc k) := by
  unfold faultRegion
  exact SeqKept.ite (SeqKept.refl s) ((SeqKept.refl s).setRegion _ _)

theorem faultRow_seqKept (s : State) (y : Nat) : SeqKept s (faultRow s y) :=
  SeqKept.foldl (fun _ _ => faultRegion_seqKept ..) _ (SeqKept.refl s)

theorem remapRefuse_seqKept (s : State) (i : Nat) : SeqKept s (remapRefuse s i) := by
  unfold remapRefuse
  exact SeqKept.ite (SeqKept.refl s).same (SeqKept.refl s)

theorem siteFail_seqKept (s : State) (i : Nat) (link : Bool) : SeqKept s (siteFail s i link) := by
  unfold siteFail
  extract_lets y st again role s1 s2 s3 s4 s5 s6 s7
  have h0 : SeqKept s (s.setSite i { st with failed := true }) := (SeqKept.refl s).setSite rfl
  have h1 : SeqKept s s1 := h0.trans (remapRefuse_seqKept ..)
  have h2 : SeqKept s s2 := h1.wr ..
  have h3 : SeqKept s s3 := h2.trans (faultRow_seqKept ..)
  have h5 : SeqKept s s5 := (h2.wr ..).wr ..
  have h6 : SeqKept s s6 := h5.trans (faultRow_seqKept ..)
  have h7 : SeqKept s s7 := SeqKept.ite (h5.wr ..) h5
  exact SeqKept.ite (SeqKept.ite (h3.outOfService true) h3) (SeqKept.ite (h6.outOfService true) (h7.logged (siteEvent_logged ..)))

theorem suspect_seqKept (s : State) (i : Nat) : SeqKept s (suspect s i) := by
  unfold suspect
  extract_lets p s1 x r act m s2 s3 g s4
  have h1 : SeqKept s s1 := (SeqKept.refl s).logged (((Logged.refl s).setBit ..).bump ..)
  have hact : ∀ u, SeqKept s u → SeqKept s (act u) := fun u h => h.setSite rfl
  have h2 : SeqKept s s2 := (h1.baWrite ..).wr ..
  have h3 : SeqKept s s3 := h1.wr ..
  have h4 : SeqKept s s4 := h3.setRegion ..
  clear_value s4 s3 s2 s1 act
  exact SeqKept.ite h1 (SeqKept.ite (hact _ (h2.logged (siteEvent_logged ..))) (SeqKept.ite h1
    (SeqKept.ite (hact _ (h4.logged (siteEvent_logged ..))) (SeqKept.ite (hact _ (h1.trans (siteFail_seqKept ..))) h1))))

theorem clearSram_seqKept (s : State) (i : Nat) : SeqKept s (clearSram s i) := by
  unfold clearSram
  refine SeqKept.upTo (fun u n => ?_) 8 ((SeqKept.refl s).withMem _)
  exact SeqKept.upTo (fun v k => (SeqKept.refl v).wr ..) 8 (SeqKept.wr (SeqKept.setCore (((SeqKept.refl u).wr ..).wr ..) (by rfl)) ..)

theorem shadowEnd_seqKept (s : State) (j st why : Nat) : SeqKept s (shadowEnd s j st why) := by
  unfold shadowEnd
  extract_lets p s1 s2 s3 s4 s5 s6 s7 s8 s9 s10
  have h1 : SeqKept s s1 := ((SeqKept.refl s).wr ..).wr ..
  have h2 : SeqKept s s2 := SeqKept.ite (h1.wr ..) h1
  have h3 : SeqKept s s3 := SeqKept.ite (h2.wr ..) h2
  have h4 : SeqKept s s4 := h3.logged (siteEvent_logged ..)
  have h5 : SeqKept s s5 := SeqKept.ite (h4.trans (suspect_seqKept ..)) h4
  have h6 : SeqKept s s6 := h5.trans (clearSram_seqKept ..)
  have h7 : SeqKept s s7 := SeqKept.foldl (fun u _ => (SeqKept.refl u).wr ..) _ h6
  have h9 : SeqKept s s9 := ((h7.wr ..).wr ..).wr ..
  clear_value s9
  have h10 : SeqKept s s10 := SeqKept.upTo (fun u _ => SeqKept.ite ((SeqKept.refl u).setSite (by rfl)) (SeqKept.refl u)) 256 h9
  clear_value s10
  exact SeqKept.ite (SeqKept.refl s) (SeqKept.ite h5 (h10.setSite (by rfl)))

theorem buddyEnds_seqKept (s : State) (b : Nat) : SeqKept s (buddyEnds s b) := SeqKept.ite (shadowEnd_seqKept ..) (SeqKept.refl s)

/-! ### Records (R171, R383) -/

theorem qPut_rest (s : State) (x rec : Nat) :
    qPut s x rec = { s with regs := (qPut s x rec).regs, mem := (qPut s x rec).mem, out := (qPut s x rec).out } := by
  unfold qPut
  extract_lets head owner a s1 s2
  have h1 : s1 = { s with mem := s1.mem, out := s1.out } := by
    by_cases h : s.rd queueP (qFld (Reg.Qu.HOST 0) x) = 1
    · have e : s1 = s.emit (.hostWrite (bits a 60 4) (owner + 1) (a % 2 ^ 60) 64 rec false) := if_pos h
      rw [e]
      rfl
    · have e : s1 = match dataKey s (a % 2 ^ 48) with | some k => s.put k 8 ⟨rec, 0⟩ | none => s := if_neg h
      rw [e]
      split <;> rfl
  have h2 : s2 = { s1 with regs := s2.regs } := rfl
  clear_value s2
  clear_value s1
  rw [h1] at h2
  split
  · show { s2 with out := _ } = _
    rw [h2]
    rfl
  · rw [h2]

theorem qPut_seqKept (s : State) (x rec : Nat) : SeqKept s (qPut s x rec) :=
  (SeqKept.refl s).same (by rw [qPut_rest]) (by rw [qPut_rest])

theorem evqPut_seqKept (s : State) (r rec : Nat) : SeqKept s (evqPut s r rec) := by
  unfold evqPut
  exact SeqKept.ite (SeqKept.refl s) (SeqKept.ite (qPut_seqKept ..) ((SeqKept.refl s).bump ..))

theorem coreRecord_seqKept (s : State) (c : CoreId) (t : TrapInfo) : SeqKept s (coreRecord s c t).1 := by
  unfold coreRecord
  exact (((SeqKept.refl s).wr ..).trans (evqPut_seqKept ..)).logged (logAdd_logged ..)

/-! ### Traps (R169) -/

section
variable {s : State} {c : CoreId} {t : TrapInfo}

/-- R169: what a trap does by its type, once its core has stopped: core `c` is `k`. -/
def trapStop (s : State) (c : CoreId) (t : TrapInfo) (k : Core) : State :=
  let s := (stopped (coreRecord s c t).1 c t).setCore c k
  let s := if t.ty = 5 then s.setBit (coreP c) Reg.Co.OWNER_ONLY else s
  let s := if t.ty = 7 then siteEvent s c.site 4 2 (tniP c.site) Reg.Tn.regs else s
  let s := if t.ty = 8 then s.setBit (relP c.site) Reg.Re.POISON_TRAP else s
  if t.ty = 9 then suspect s c.site else s

theorem stopped_seqKept (s : State) (c : CoreId) (t : TrapInfo) : SeqKept s (stopped s c t) := by
  unfold stopped
  exact SeqKept.ite ((((SeqKept.refl s).wr ..).wr ..).wr .. |>.wr ..) ((SeqKept.refl s).wr ..)

theorem trapStop_seqKept {k : Core} (hk : seqView k = seqView (s.core c)) : SeqKept s (trapStop s c t k) := by
  have hrec : SeqKept s (stopped (coreRecord s c t).1 c t) := (coreRecord_seqKept s c t).trans (stopped_seqKept ..)
  have h0 : SeqKept s ((stopped (coreRecord s c t).1 c t).setCore c k) := hrec.setCore (hk.trans (hrec.cores c).symm)
  unfold trapStop
  extract_lets s0 s1 s2 s3
  have h1 : SeqKept s s1 := SeqKept.ite (h0.wr ..) h0
  have h2 : SeqKept s s2 := SeqKept.ite (h1.logged (siteEvent_logged ..)) h1
  have h3 : SeqKept s s3 := SeqKept.ite (h2.wr ..) h2
  exact SeqKept.ite (h3.trans (suspect_seqKept ..)) h3

/-- R169, R170: a trap of a core that has none yet, by whatever check: it stops the core and ends in its region's fault, or in the end
of a shadow's run. -/
theorem coreTrap_stop (hst : ¬ (s.rd (coreP c) Reg.Co.STATE = 4 ∨ s.rd (coreP c) Reg.Co.STATE = 5)) (runtime : Bool) :
    ∃ k, seqView k = seqView (s.core c) ∧ coreTrap s c t runtime =
      if isShadow (trapStop s c t k) c.site then shadowEnd (trapStop s c t k) c.site 4 2
      else faultRegion (buddyEnds (trapStop s c t k) c.site) ((trapStop s c t k).site c.site).region ((trapStop s c t k).site c.site).fc 1 := by
  have hkept := (coreRecord_seqKept s c t).trans (stopped_seqKept (coreRecord s c t).1 c t)
  unfold coreTrap
  rw [if_neg hst]
  rcases hrec : coreRecord s c t with ⟨u, b⟩
  rw [hrec] at hkept
  dsimp -zeta only
  extract_lets s1 s2 k s3 s4 s5 s6 s7
  have h2 : s2 = stopped u c t := rfl
  obtain ⟨k', h3, hview⟩ : ∃ k', s3 = s2.setCore c k' ∧ seqView k' = seqView k := ⟨_, rfl, rfl⟩
  have hk : seqView k = seqView (s.core c) := by
    rw [show k = s2.core c from rfl, h2]
    exact hkept.cores c
  have hstop : s7 = trapStop s c t k' := by
    unfold trapStop
    rw [hrec]
    dsimp only
    rw [← h2, ← h3]
  exact ⟨k', hview.trans hk, by rw [hstop]⟩

theorem coreTrap_seqKept (s : State) (c : CoreId) (t : TrapInfo) (runtime : Bool) : SeqKept s (coreTrap s c t runtime) := by
  by_cases hst : s.rd (coreP c) Reg.Co.STATE = 4 ∨ s.rd (coreP c) Reg.Co.STATE = 5
  · unfold coreTrap
    rw [if_pos hst]
    exact (SeqKept.refl s).bump ..
  · obtain ⟨k, hk, e⟩ := coreTrap_stop (t := t) hst runtime
    have hstop := trapStop_seqKept (t := t) hk
    rw [e]
    exact SeqKept.ite (hstop.trans (shadowEnd_seqKept ..)) ((hstop.trans (buddyEnds_seqKept ..)).trans (faultRegion_seqKept ..))

end

end Sys2Proof.Machine
end

section
/-! PROOFS. The traps of decode (R155, R167, R169, R171). -/

namespace Sys2Proof.Machine

section
variable {s : State} {c : CoreId} {t : TrapInfo}

/-- The keys that a trap writes after its core's record and its stop: those of the suspect event and of the panel, OWNER_ONLY and POISON_TRAP. -/
def trapKey (c : CoreId) (k : Nat) : Prop :=
  panelKey k ∨ k ∈ suspectKeys c.site ∨ k = fldKey (coreP c) Reg.Co.OWNER_ONLY ∨ k = fldKey (relP c.site) Reg.Re.POISON_TRAP

theorem trapStop_aside {α : Type} {π : Site → α} (hh : ∀ (x : Site) n, π { x with holdOff := n } = π x)
    (hf : ∀ x : Site, π { x with failed := true } = π x) (k : Core) :
    Aside π (trapKey c) (stopped (coreRecord s c t).1 c t) (trapStop s c t k) := by
  unfold trapStop
  extract_lets s0 s1 s2 s3
  have h0 : Aside π (trapKey c) (stopped (coreRecord s c t).1 c t) s0 := (Aside.refl _).setCore ..
  have h1 : Aside π (trapKey c) (stopped (coreRecord s c t).1 c t) s1 := Aside.ite (h0.setBit (Or.inr (Or.inr (Or.inl rfl)))) h0
  have h2 : Aside π (trapKey c) (stopped (coreRecord s c t).1 c t) s2 :=
    Aside.ite (siteEvent_aside h1 (fun κ hκ => Or.inl (logKeys_panel κ hκ)) _ _ _ _ _ _ _) h1
  have h3 : Aside π (trapKey c) (stopped (coreRecord s c t).1 c t) s3 := Aside.ite (h2.setBit (Or.inr (Or.inr (Or.inr rfl)))) h2
  exact Aside.ite (h3.trans ((suspect_aside hh hf _ _).mono (fun _ hk => Or.inr (Or.inl hk)))) h3

theorem trapStop_memIs (k : Core) : MemIs (coreRecord s c t).1 (trapStop s c t k) := by
  unfold trapStop
  extract_lets s0 s1 s2 s3
  have h0 : MemIs (coreRecord s c t).1 s0 := State.setCore_memIs _ _ _ (stopped_memIs _ _ _)
  have h1 : MemIs (coreRecord s c t).1 s1 := MemIs.ite (State.setBit_memIs _ _ _ h0) h0
  have h2 : MemIs (coreRecord s c t).1 s2 := MemIs.ite (siteEvent_memIs _ _ _ _ _ _ _ _ h1) h1
  have h3 : MemIs (coreRecord s c t).1 s3 := MemIs.ite (State.setBit_memIs _ _ _ h2) h2
  exact MemIs.ite (suspect_memIs _ _ h3) h3

theorem coreKey_not_trap (hc : coreOk c = true) {f : Fld} (hf : Paged f)
    (h : f.off * 32 + f.lsb ≠ Reg.Co.OWNER_ONLY.off * 32 + Reg.Co.OWNER_ONLY.lsb) : ¬ trapKey c (fldKey (coreP c) f) := by
  have hn := coreOk_n hc
  rintro (hp | hs | ho | hr)
  · exact coreKey_not_panel hc hf hp
  · exact coreKey_not_suspect hc hf hs
  · exact fldKey_ne hf.1 h ho
  · rw [coreP_eq] at hr
    exact sitePageKey_ne (b := 0x17) hf (⟨rfl, by decide⟩ : Paged Reg.Re.POISON_TRAP) (by omega) (by decide) (Or.inr (Or.inl (by omega))) hr

theorem trapStop_rd (hc : coreOk c = true) (k : Core) {f : Fld} (hf : Paged f)
    (h : f.off * 32 + f.lsb ≠ Reg.Co.OWNER_ONLY.off * 32 + Reg.Co.OWNER_ONLY.lsb) :
    (trapStop s c t k).rd (coreP c) f = (stopped (coreRecord s c t).1 c t).rd (coreP c) f :=
  (trapStop_aside (π := fun _ => ()) (fun _ _ => rfl) (fun _ => rfl) k).rd (coreKey_not_trap hc hf h)

theorem shadowKey_not_trap (hc : coreOk c = true) : ¬ trapKey c (fldKey (relP c.site) Reg.Re.SHADOW_STATE) := by
  rintro (hp | hs | ho | hr)
  · exact shadowKey_not_panel hc hp
  · exact shadowKey_not_suspect hc hs
  · exact shadowKey_ne_core hc ⟨rfl, by decide⟩ ho
  · exact fldKey_ne (f := Reg.Re.SHADOW_STATE) (g := Reg.Re.POISON_TRAP) (by decide) (by decide) hr

/-- R171: the core's registers once its trap is recorded, where they named no trap yet. -/
theorem stopped_shows (hc : coreOk c = true) (htrap : s.rd (coreP c) Reg.Co.TRAP_TYPE = 0) :
    let u := stopped (coreRecord s c t).1 c t
    u.rd (coreP c) Reg.Co.STATE = 4 ∧ u.rd (coreP c) Reg.Co.TRAP_TYPE = t.ty % 256 ∧ u.rd (coreP c) Reg.Co.TRAP_CAUSE = t.cause % 256 ∧
      u.rd (coreP c) Reg.Co.TRAP_SLOT = t.slot % 8 := by
  have hrec : (coreRecord s c t).1.rd (coreP c) Reg.Co.TRAP_TYPE = 0 := by
    have hkey : fldKey (coreP c) Reg.Co.TRAP_TYPE ≠ fldKey (coreP c) Reg.Co.RECORD_SEQ := fldKey_ne (by decide) (by decide)
    rw [(coreRecord_aside (π := Site.acc) (c := c) (Aside.refl s) t).rd (fun h => h.elim (coreKey_not_panel hc ⟨rfl, by decide⟩) hkey)]
    exact htrap
  dsimp only
  unfold stopped
  rw [if_pos ((rd_wr_apart _ Reg.Co.STATE Reg.Co.TRAP_TYPE _ _ (by decide)).trans hrec)]
  simp (disch := decide) only [rd_wr_apart, State.rd_wr_same]
  exact ⟨rfl, rfl, rfl, rfl⟩

/-- R169, R171: where no shadow runs beside it and its record stands outside the panel's memory, the trap of a running core stops it,
names itself where no trap is named yet, and leaves memory and the sequencers as they are. -/
theorem coreTrap_shows (hc : coreOk c = true) (hplain : isShadow s c.site = false) (hst : s.rd (coreP c) Reg.Co.STATE = 2)
    (htrap : s.rd (coreP c) Reg.Co.TRAP_TYPE = 0) (hmir : 256 ≤ (s.site c.site).mirTo) (hrec : RecordsOutside s c.site) (runtime : Bool) :
    let u := coreTrap s c t runtime
    u.rd (coreP c) Reg.Co.STATE = 4 ∧ u.rd (coreP c) Reg.Co.TRAP_TYPE = t.ty % 256 ∧ u.rd (coreP c) Reg.Co.TRAP_CAUSE = t.cause % 256 ∧
      u.rd (coreP c) Reg.Co.TRAP_SLOT = t.slot % 8 ∧ u.mem = s.mem := by
  obtain ⟨k, _, e⟩ := coreTrap_stop (s := s) (c := c) (t := t) (by omega) runtime
  have hrecord := coreRecord_aside (π := Site.mirTo) (c := c) (Aside.refl s) t
  have hsites : Aside Site.mirTo (stopKey c) s (stopped (coreRecord s c t).1 c t) := stopped_aside (hrecord.mono (fun _ => recordKey_stop)) t
  have hnoted := trapStop_aside (s := s) (c := c) (t := t) (π := Site.mirTo) (fun _ _ => rfl) (fun _ => rfl) k
  have hto : ((trapStop s c t k).site c.site).mirTo = (s.site c.site).mirTo := (hnoted.sites c.site).trans (hsites.sites c.site)
  have hshadow : isShadow (trapStop s c t k) c.site = false := by
    unfold isShadow at hplain ⊢
    rw [hnoted.rd (shadowKey_not_trap hc), hsites.rd (shadowKey_not_stop hc)]
    exact hplain
  have hend : coreTrap s c t runtime =
      faultRegion (trapStop s c t k) ((trapStop s c t k).site c.site).region ((trapStop s c t k).site c.site).fc 1 := by
    rw [e, hshadow, if_neg Bool.false_ne_true, buddyEnds, if_neg (by rw [hto]; omega)]
  have hrd : ∀ f, Paged f → f.off * 32 + f.lsb ≠ Reg.Co.OWNER_ONLY.off * 32 + Reg.Co.OWNER_ONLY.lsb →
      (coreTrap s c t runtime).rd (coreP c) f = (stopped (coreRecord s c t).1 c t).rd (coreP c) f := fun f hf h => by
    rw [← trapStop_rd hc k hf h, hend]
    unfold State.rd
    rw [faultRegion_regs]
  obtain ⟨hstate, htype, hcause, hslot⟩ := stopped_shows (t := t) hc htrap
  refine ⟨(hrd _ ⟨rfl, by decide⟩ (by decide)).trans hstate, (hrd _ ⟨rfl, by decide⟩ (by decide)).trans htype,
    (hrd _ ⟨rfl, by decide⟩ (by decide)).trans hcause, (hrd _ ⟨rfl, by decide⟩ (by decide)).trans hslot, ?_⟩
  rw [hend, (faultRegion_memIs _ _ _ _ (MemIs.refl _)).mem, (trapStop_memIs k).mem, coreRecord_mem hc hrec]

end

/-- R155: a bundle that fails a check of decode at its due cycle traps there with the failure that decides. -/
theorem issue_bad {s : State} {c : CoreId} {b : Nat} {d : Due} {x : Bad} (hdue : dueOf s c (bundleHdr b) = some d) (hcause : d.cause = 0)
    (hst : s.rd (coreP c) Reg.Co.STATE = 2) (hplain : isShadow s c.site = false)
    (hbad : firstBad (bundleBad (atCycle s c.site d.cyc) c d.cyc (s.core c).nextPc b) = some x) (arr : ArrayUpset) :
    issue s c b false arr = decodeTrap (atCycle s c.site d.cyc) c d.cyc (s.core c).nextPc b
      (bundleBad (atCycle s c.site d.cyc) c d.cyc (s.core c).nextPc b) x := by
  have hrun : mayIssue s c d.cyc = true := by unfold mayIssue; simp [hst]
  have hp : isShadow (atCycle s c.site d.cyc) c.site = false := hplain
  unfold issue
  simp only [hdue, hrun, hp, hcause, Bool.not_true, Bool.false_eq_true, if_false, ne_eq, not_true_eq_false]
  rw [hbad]

theorem atCycle_mirTo (s : State) (i t : Nat) : ((atCycle s i t).site i).mirTo = (s.site i).mirTo := by
  unfold atCycle
  rw [State.site_setSite_same]

theorem atCycle_records {s : State} {i : Nat} (t : Nat) (h : RecordsOutside s i) : RecordsOutside (atCycle s i t) i := by
  refine recordsOutside_congr h (fun _ _ => rfl) ?_
  unfold atCycle
  rw [State.site_setSite_same]

theorem atCycle_seqKept (s : State) (i t : Nat) : SeqKept s (atCycle s i t) := by
  unfold atCycle
  exact (SeqKept.refl s).setSite (by rfl)

/-- R171: what the trap of decode records. -/
def decodeInfo (s : State) (c : CoreId) (t p b : Nat) (bs : List Bad) (x : Bad) : TrapInfo :=
  { ty := classTrap x.cls, cause := x.cause, slot := x.slot, failed := failedMask bs, lsb := x.lsb, width := x.width
    d0 := x.d0, d1 := if x.cls = 7 then x.d1 - (s.site c.site).base else x.d1, img := slotImage b x.slot, pc := p, cyc := t }

theorem decodeTrap_eq (s : State) (c : CoreId) (t p b : Nat) (bs : List Bad) (x : Bad) :
    decodeTrap s c t p b bs x = coreTrap s c (decodeInfo s c t p b bs x) false := rfl

/-- Settles O27: the trap of the failure that decides (`issue_bad`), whose registers, memory and sequencer are those of any trap of a
running core (`coreTrap_shows`, `coreTrap_seqKept`). -/
theorem decodeTraps : Obligations.DecodeTraps := by
  unfold Obligations.DecodeTraps
  intro i s c b arr d x hrow hc hdue hcause hst hplain hbad hmir hrec htrap
  have hissue := issue_bad hdue hcause hst hplain hbad arr
  rw [decodeTrap_eq] at hissue
  generalize hinfo : decodeInfo (atCycle s c.site d.cyc) c d.cyc (s.core c).nextPc b
    (bundleBad (atCycle s c.site d.cyc) c d.cyc (s.core c).nextPc b) x = info at hissue
  have hview := ((atCycle_seqKept s c.site d.cyc).trans (coreTrap_seqKept _ c info false)).cores c
  simp only [seqView, Prod.mk.injEq] at hview
  obtain ⟨hpc, _, _, _, hissued, _⟩ := hview
  obtain ⟨hstate, htype, hslotcause, hslot, hmem⟩ := coreTrap_shows (s := atCycle s c.site d.cyc) (c := c) (t := info) hc hplain hst htrap
    ((atCycle_mirTo s _ _).symm ▸ hmir) (atCycle_records _ hrec) false
  refine ⟨_, (exec_rowOf hrow s).trans (onUnit_true hc _), ?_⟩
  rw [hissue]
  refine ⟨hstate, ?_, ?_, ?_, hmem, hpc, hissued⟩
  · rw [htype, ← hinfo]
    rfl
  · rw [hslotcause, ← hinfo]
    rfl
  · rw [hslot, ← hinfo]
    rfl

end Sys2Proof.Machine
end

section
/-! PROOFS. Control operations (R152 to R154): what their bundles leave but for their own effects. -/

namespace Sys2Proof.Machine

/-! ### Bundles of one control operation (R146, R148) -/

section
variable {s : State} {c : CoreId} {h : Hdr} {op arg t : Nat}

theorem ctlBundle_slots (ho : op < 256) (ha : arg < 2 ^ 64) (h : Hdr) :
    bundleMx (ctlBundle h op arg) = 0 ∧ bundleVx (ctlBundle h op arg) = 0 ∧ bundleMv (ctlBundle h op arg) = 0 ∧
      bundleLk (ctlBundle h op arg) = arg ∧ hdrCtl (bundleHdr (ctlBundle h op arg)) = op ∧
      hdrArg (bundleHdr (ctlBundle h op arg)) = ctlArg op := by
  obtain ⟨hctl, harg⟩ := hdrOf_ctl h (ctlArg op) op ho
  unfold ctlBundle
  rw [bundleMx_of, bundleVx_of, bundleMv_of, bundleLk_of, bundleHdr_of]
  exact ⟨rfl, rfl, rfl, Nat.mod_eq_of_lt ha, hctl, harg⟩

theorem loopArg_fields (count : BitVec 16) (len : BitVec 12) (rsv : BitVec 36) :
    loopArg count len rsv < 2 ^ 64 ∧ bits (loopArg count len rsv) 0 16 = count.toNat ∧ bits (loopArg count len rsv) 16 12 = len.toNat := by
  have := count.isLt; have := len.isLt; have := rsv.isLt
  simp only [loopArg, packBits_cons, packBits_nil, bits]
  omega

theorem jumpArg_fields (target : BitVec 12) (rsv : BitVec 52) :
    jumpArg target rsv < 2 ^ 64 ∧ bits (jumpArg target rsv) 0 12 = target.toNat := by
  have := target.isLt; have := rsv.isLt
  simp only [jumpArg, packBits_cons, packBits_nil, bits]
  omega

theorem noteArg_lt (tag rsv : BitVec 32) : noteArg tag rsv < 2 ^ 64 := by
  have := tag.isLt; have := rsv.isLt
  simp only [noteArg, packBits_cons, packBits_nil]
  omega

/-! ### Their issue (R149, R150, R173) -/

/-- The sequencer of core `c` has moved past the bundle `b` at position `p`, and nothing else has happened but at its site's ports and in
its digests. -/
structure Advanced (s : State) (c : CoreId) (b p : Nat) (w : State) : Prop where
  frame : CoreFrame c (keysOf (coreP c) [Reg.Co.PC, Reg.Co.LOOP_DEPTH]) s w
  mem : w.mem = s.mem
  site : ∃ n l d, w.site c.site = { (s.site c.site) with now := n, acc := l, digs := d }
  nextPc : (w.core c).nextPc = (advance (s.core c) p (bundleHdr b) (bundleLk b)).nextPc
  loops : (w.core c).loops = (advance (s.core c) p (bundleHdr b) (bundleLk b)).loops

theorem digAdd_site (s : State) (i : Nat) (xs : List (Nat × DigItem)) : ∃ d, (digAdd s i xs).site i = { (s.site i) with digs := d } := by
  unfold digAdd
  extract_lets st
  split
  · exact ⟨_, State.site_setSite_same ..⟩
  · exact ⟨(s.site i).digs, rfl⟩

/-- R150: a bundle of one control operation leaves what the operation leaves, once its sequencer has moved. -/
theorem bundleEffect_ctl (s : State) (c : CoreId) (t p : Nat) {b : Nat} (e1 : bundleMx b = 0) (e2 : bundleVx b = 0)
    (e3 : bundleMv b = 0) (e4 : hdrArg (bundleHdr b) = true ∨ bundleLk b = 0) :
    ∃ w, Advanced s c b p w ∧ bundleEffect s c t p b {} = showBusy (ctlEffect w c t p (bundleHdr b) (bundleLk b)) c t := by
  unfold bundleEffect
  rw [e1, e2, e3]
  extract_lets hd mx as undo s1 s2 s3 s3' s4 s6 k' k s7 s8
  have hs2 : s2 = s := (vxOccupy_zero _ _ _).trans ((vxData_zero _ _).trans (mxEffect_zero ..))
  have has : as ++ undo = [] := (List.append_nil as).trans (mxAcc_zero ..)
  have hs3 : s3 = (placeAll s2 c.site t (as ++ undo)).st := rfl
  have hs4 : s4 = s3 := (if_pos (by simpa using e4)).trans (if_pos rfl)
  obtain ⟨l, h4⟩ : ∃ l, s4 = s.setSite c.site { (s.site c.site) with acc := l } := by
    rw [hs4, hs3, has, hs2]
    exact ⟨_, rfl⟩
  clear_value s4
  have f6 : CoreFrame c (keysOf (coreP c) [Reg.Co.PC, Reg.Co.LOOP_DEPTH]) s s6 := by
    rw [show s6 = if _ then _ else s4 from rfl, h4]
    exact CoreFrame.ite (digAdd_frame ((CoreFrame.refl _ _ _).setSite _) _) ((CoreFrame.refl _ _ _).setSite _)
  have m6 : s6.mem = s.mem := by
    have hm : MemIs s4 s6 := MemIs.ite (digAdd_memIs _ _ _ (MemIs.refl _)) (MemIs.refl _)
    rw [hm.mem, h4]
    rfl
  have k6 : s6.core c = s.core c := by
    rw [show s6 = if _ then _ else s4 from rfl, apply_ite (fun u : State => u.core c), digAdd_core, ite_self, h4]
    rfl
  have hsite4 : s4.site c.site = { (s.site c.site) with acc := l } := by rw [h4, State.site_setSite_same]
  have i6 : ∃ n l d, s6.site c.site = { (s.site c.site) with now := n, acc := l, digs := d } := by
    by_cases hon : (s4.site c.site).digOn = true
    · obtain ⟨d, hd⟩ := digAdd_site s4 c.site (digMx s4 c mx t ++ [] ++ digMv s4 c 0 t ++ (if hdrArg hd then [] else digLk s4 c (bundleLk b)))
      refine ⟨(s.site c.site).now, l, d, ?_⟩
      rw [show s6 = if _ then _ else s4 from rfl, if_pos hon]
      exact hd.trans (by rw [hsite4])
    · refine ⟨(s.site c.site).now, l, (s.site c.site).digs, ?_⟩
      rw [show s6 = if _ then _ else s4 from rfl, if_neg hon]
      exact hsite4
  clear_value s6
  refine ⟨s8, ⟨((f6.setCore _).wr (keysOf_mem (by decide))).wr (keysOf_mem (by decide)), m6, i6, ?_, ?_⟩, rfl⟩
  · rw [← k6]
    simp only [s8, s7, State.core_wr, State.core_setCore_same]
    rfl
  · rw [← k6]
    simp only [s8, s7, State.core_wr, State.core_setCore_same]
    rfl

/-- R150: what a control operation's own row answers once its bundle issues. -/
theorem ctlRow_issued (hi : Issues s c (ctlBundle h op arg) t) (ho : op < 256) (ha : arg < 2 ^ 64) (hz : ctlArg op = true ∨ arg = 0) :
    ∃ w, Advanced s c (ctlBundle h op arg) (s.core c).nextPc w ∧
      ctlRow c h op arg s = .next (showBusy (ctlEffect w c t (s.core c).nextPc (bundleHdr (ctlBundle h op arg)) arg) c t) := by
  obtain ⟨e1, e2, e3, e4, _, e6⟩ := ctlBundle_slots ho ha h
  obtain ⟨w, hw, he⟩ := bundleEffect_ctl (atCycle s c.site t) c t (s.core c).nextPc e1 e2 e3 (by rw [e4, e6]; exact hz)
  obtain ⟨n, l, d, hsite⟩ := hw.site
  have hat : (atCycle s c.site t).site c.site = { (s.site c.site) with now := t } := State.site_setSite_same ..
  refine ⟨w, ⟨(atCycle_frame c _ s t).trans hw.frame, hw.mem, ⟨n, l, d, by rw [hsite, hat]⟩, hw.nextPc, hw.loops⟩, ?_⟩
  have hissue : issue s c (ctlBundle h op arg) false {} = _ := (issue_of hi {}).trans he
  rw [e4] at hissue
  exact (onUnit_true hi.core _).trans (congrArg _ hissue)

end

end Sys2Proof.Machine
end

section
/-! PROOFS. LOOP, JUMP, STOP and NOTE (R153, R154, R349). -/

namespace Sys2Proof.Machine

/-! ### Records (R171, R383) -/

section
variable {s : State} {c : CoreId}

theorem evqPut_off (s : State) (r rec : Nat) :
    Off (keysOf queueP [qFld (Reg.Qu.HEAD 0) (evqIx r), Reg.Qu.EVQ_DROP r]) s (evqPut s r rec) := by
  by_cases hr : 16 ≤ r
  · unfold evqPut
    rw [if_pos hr]
    exact Off.refl ..
  · have hkeys : queueKeys r = keysOf queueP [qFld (Reg.Qu.HEAD 0) (evqIx r), Reg.Qu.EVQ_DROP r] := by
      unfold queueKeys
      rw [Nat.mod_eq_of_lt (Nat.lt_of_not_le hr)]
    rw [← hkeys]
    exact ⟨(evqPut_aside (π := fun _ => ()) (K := (· ∈ queueKeys r)) (Aside.refl s) r rec (fun _ hk => hk)).find⟩

theorem coreRecord_off (s : State) (c : CoreId) (t : TrapInfo) : Off (recordKeys c (s.site c.site).region) s (coreRecord s c t).1 := by
  unfold coreRecord recordKeys
  have hseq : Off (keysOf (coreP c) [Reg.Co.RECORD_SEQ]) s (s.wr (coreP c) Reg.Co.RECORD_SEQ ((s.rd (coreP c) Reg.Co.RECORD_SEQ + 1) % 2 ^ 32)) :=
    (Off.refl _ s).wr (keysOf_mem (List.mem_singleton_self _))
  refine logAdd_off _ _ (Off.trans (hseq.mono ?_) ((evqPut_off ..).mono ?_)) ?_
  · exact fun _ hk => List.mem_append_left _ (List.mem_append_left _ hk)
  · exact fun _ hk => List.mem_append_right _ hk
  · exact fun _ hk => List.mem_append_left _ (List.mem_append_right _ hk)

/-- A field of the core's page that its record does not write. -/
theorem coreRecord_rd (hc : coreOk c = true) (t : TrapInfo) {f : Fld} (hf : Paged f)
    (h : f.off * 32 + f.lsb ≠ Reg.Co.RECORD_SEQ.off * 32 + Reg.Co.RECORD_SEQ.lsb) : (coreRecord s c t).1.rd (coreP c) f = s.rd (coreP c) f := by
  refine (coreRecord_aside (π := fun _ => ()) (c := c) (Aside.refl s) t).rd (fun hk => ?_)
  exact hk.elim (coreKey_not_panel hc hf) (fldKey_ne hf.1 h)

theorem coreRecord_seq (hc : coreOk c = true) (t : TrapInfo) :
    (coreRecord s c t).1.rd (coreP c) Reg.Co.RECORD_SEQ = (s.rd (coreP c) Reg.Co.RECORD_SEQ + 1) % 2 ^ 32 := by
  have hpanel : ¬ panelKey (fldKey (coreP c) Reg.Co.RECORD_SEQ) := coreKey_not_panel hc ⟨rfl, by decide⟩
  have hrest : ∀ (q : State) (r rec tag : Nat), (logAdd (evqPut q r rec) tag rec).rd (coreP c) Reg.Co.RECORD_SEQ = q.rd (coreP c) Reg.Co.RECORD_SEQ :=
    fun q r rec tag => (logAdd_aside (π := fun _ => ()) (K := panelKey) (evqPut_aside (Aside.refl q) r rec (queueKeys_panel r)) logKeys_panel
      tag rec).rd hpanel
  unfold coreRecord
  refine (hrest _ _ _ _).trans ?_
  rw [State.rd_wr_same]
  exact Nat.mod_mod _ _

theorem coreRecord_site (s : State) (c : CoreId) (t : TrapInfo) (i : Nat) : (coreRecord s c t).1.site i = s.site i :=
  (coreRecord_aside (π := fun x => x) (c := c) (Aside.refl s) t).sites i

/-- The registers that name where records go, and the site's region, are none of what a step of core `c` writes. -/
theorem recordsOutside_wr {t : State} {i : Nat} (h : RecordsOutside s i) {ks : List Nat} (hoff : Off ks s t)
    (hks : ∀ k ∈ ks, ¬ panelKey k) (hr : (t.site i).region = (s.site i).region) : RecordsOutside t i :=
  recordsOutside_congr h (fun _ hf => hoff.rd _ _ (fun hk => hks _ hk (panelKey_ix hf))) hr

end

/-! ### After the sequencer has moved -/

section
variable {s w : State} {c : CoreId} {b p : Nat}

theorem coreKeys_not_panel (hc : coreOk c = true) {fs : List Fld} (hfs : ∀ f ∈ fs, f.ix = false ∧ f.off * 32 + f.lsb < 0x20000) :
    ∀ k ∈ keysOf (coreP c) fs, ¬ panelKey k := by
  intro k hk
  obtain ⟨f, hf, rfl⟩ := List.mem_map.1 hk
  exact coreKey_not_panel hc (hfs f hf)

theorem Advanced.region (h : Advanced s c b p w) : (w.site c.site).region = (s.site c.site).region := by
  obtain ⟨n, l, d, e⟩ := h.site
  rw [e]

theorem Advanced.telem (h : Advanced s c b p w) : (w.site c.site).uTelem = (s.site c.site).uTelem := by
  obtain ⟨n, l, d, e⟩ := h.site
  rw [e]

theorem Advanced.records (h : Advanced s c b p w) (hc : coreOk c = true) (hr : RecordsOutside s c.site) : RecordsOutside w c.site :=
  recordsOutside_wr hr h.frame.regs (coreKeys_not_panel hc (by decide)) h.region

/-- A field of the core's page that shows nothing of its sequencer. -/
theorem Advanced.rd (h : Advanced s c b p w) {f : Fld}
    (hf : ∀ g ∈ [Reg.Co.PC, Reg.Co.LOOP_DEPTH], g.ix = f.ix ∧ g.off * 32 + g.lsb ≠ f.off * 32 + f.lsb) :
    w.rd (coreP c) f = s.rd (coreP c) f := h.frame.regs.rd _ _ (fldKey_not_mem hf)

theorem Advanced.shown (h : Advanced s c b p w) (t : Nat) : CoreFrame c (keysOf (coreP c) seqFields) s (showBusy w c t) :=
  showBusy_frame (h.frame.mono (keysOf_subset (by decide))) (List.Subset.refl _) t

theorem showBusy_off (s : State) (c : CoreId) (t : Nat) : Off (keysOf (coreP c) seqFields) s (showBusy s c t) :=
  (showBusy_frame (CoreFrame.refl c _ s) (List.Subset.refl _) t).regs

theorem showBusy_rd (s : State) (c : CoreId) (t : Nat) {f : Fld} (hf : ∀ g ∈ seqFields, g.ix = f.ix ∧ g.off * 32 + g.lsb ≠ f.off * 32 + f.lsb) :
    (showBusy s c t).rd (coreP c) f = s.rd (coreP c) f := (showBusy_off s c t).rd _ _ (fldKey_not_mem hf)

theorem showBusy_mem (s : State) (c : CoreId) (t : Nat) : (showBusy s c t).mem = s.mem := (showBusy_memIs _ _ _ (MemIs.refl s)).mem

theorem showBusy_site (s : State) (c : CoreId) (t i : Nat) : (showBusy s c t).site i = s.site i := by
  unfold showBusy
  simp only [State.site_wr]

end

/-! ### LOOP and JUMP (R153, R154) -/

section
variable {s : State} {c : CoreId} {h : Hdr} {t : Nat}

theorem loop_runs (count : BitVec 16) (len : BitVec 12) (rsv : BitVec 36) (hi : Issues s c (ctlBundle h 1 (loopArg count len rsv)) t) :
    ∃ u, exec (.loop c h count len rsv) s = .next u ∧
      (u.core c).loops = ⟨((s.core c).nextPc + 1) % ringLen, ((s.core c).nextPc + 1 + len.toNat) % ringLen, count.toNat⟩ :: (s.core c).loops ∧
      (u.core c).nextPc = ((s.core c).nextPc + 1) % ringLen ∧ u.mem = s.mem ∧ CoreFrame c (keysOf (coreP c) seqFields) s u := by
  obtain ⟨hlt, hcount, hlen⟩ := loopArg_fields count len rsv
  obtain ⟨_, _, _, e4, e5, _⟩ := ctlBundle_slots (op := 1) (by decide) hlt h
  obtain ⟨w, hw, hexec⟩ := ctlRow_issued hi (by decide) hlt (Or.inl rfl)
  have hnone : ctlEffect w c t (s.core c).nextPc (bundleHdr (ctlBundle h 1 (loopArg count len rsv))) (loopArg count len rsv) = w := by
    unfold ctlEffect
    simp [e5]
  rw [hnone] at hexec
  refine ⟨_, hexec, ?_, ?_, (showBusy_mem ..).trans hw.mem, hw.shown t⟩
  · rw [showBusy_core, hw.loops, e4]
    simp only [advance, e5, hcount, hlen]
  · rw [showBusy_core, hw.nextPc, e4]
    simp only [advance, e5]

theorem jump_runs (target : BitVec 12) (rsv : BitVec 52) (hi : Issues s c (ctlBundle h 2 (jumpArg target rsv)) t) :
    ∃ u, exec (.jump c h target rsv) s = .next u ∧ (u.core c).nextPc = target.toNat ∧ u.mem = s.mem ∧
      CoreFrame c (keysOf (coreP c) seqFields) s u := by
  obtain ⟨hlt, htarget⟩ := jumpArg_fields target rsv
  obtain ⟨_, _, _, e4, e5, _⟩ := ctlBundle_slots (op := 2) (by decide) hlt h
  obtain ⟨w, hw, hexec⟩ := ctlRow_issued hi (by decide) hlt (Or.inl rfl)
  have hnone : ctlEffect w c t (s.core c).nextPc (bundleHdr (ctlBundle h 2 (jumpArg target rsv))) (jumpArg target rsv) = w := by
    unfold ctlEffect
    simp [e5]
  rw [hnone] at hexec
  refine ⟨_, hexec, ?_, (showBusy_mem ..).trans hw.mem, hw.shown t⟩
  rw [showBusy_core, hw.nextPc, e4]
  simp only [advance, e5, htarget]

end

/-! ### STOP (R154) -/

section
variable {w : State} {c : CoreId}

/-- R154: the state in which STOP enters its record. -/
def stopState (s : State) (c : CoreId) : State :=
  let s := s.setCore c { (s.core c) with lastCyc := 0 }
  if s.rd (coreP c) Reg.Co.STATE = 2 then s.wr (coreP c) Reg.Co.STATE 3 else s

theorem stopEffect_eq (s : State) (c : CoreId) (t p : Nat) :
    stopEffect s c t p = (coreRecord (stopState s c) c { ty := 0, d0 := (s.core c).issued % 2 ^ 32, pc := p, cyc := t }).1 := rfl

theorem stopState_off (s : State) (c : CoreId) : Off (keysOf (coreP c) [Reg.Co.STATE]) s (stopState s c) := by
  have h : Off (keysOf (coreP c) [Reg.Co.STATE]) s (s.setCore c { (s.core c) with lastCyc := 0 }) := (Off.refl _ s).same
  exact Off.ite (h.wr (keysOf_mem (List.mem_singleton_self _))) h

theorem stopState_mem (s : State) (c : CoreId) : (stopState s c).mem = s.mem := by
  unfold stopState
  extract_lets u
  split <;> rfl

theorem stopState_site (s : State) (c : CoreId) (i : Nat) : (stopState s c).site i = s.site i := by
  unfold stopState
  extract_lets u
  split <;> rfl

theorem stopState_state (s : State) (c : CoreId) :
    (stopState s c).rd (coreP c) Reg.Co.STATE = if s.rd (coreP c) Reg.Co.STATE = 2 then 3 else s.rd (coreP c) Reg.Co.STATE := by
  unfold stopState
  extract_lets k u
  have hu : u.rd (coreP c) Reg.Co.STATE = s.rd (coreP c) Reg.Co.STATE := State.rd_setCore ..
  rw [← hu]
  split
  · exact State.rd_wr_same ..
  · rfl

theorem stopEffect_shows (hc : coreOk c = true) (hr : RecordsOutside w c.site) (t p : Nat) :
    let u := stopEffect w c t p
    u.rd (coreP c) Reg.Co.STATE = (if w.rd (coreP c) Reg.Co.STATE = 2 then 3 else w.rd (coreP c) Reg.Co.STATE) ∧
      u.rd (coreP c) Reg.Co.RECORD_SEQ = (w.rd (coreP c) Reg.Co.RECORD_SEQ + 1) % 2 ^ 32 ∧ u.mem = w.mem ∧
      Off (keysOf (coreP c) [Reg.Co.STATE] ++ recordKeys c (w.site c.site).region) w u := by
  have hrec : RecordsOutside (stopState w c) c.site :=
    recordsOutside_wr hr (stopState_off w c) (coreKeys_not_panel hc (by decide)) (by rw [stopState_site])
  dsimp only
  rw [stopEffect_eq]
  refine ⟨?_, ?_, (coreRecord_mem hc hrec _).trans (stopState_mem w c), ?_⟩
  · rw [coreRecord_rd hc _ ⟨rfl, by decide⟩ (by decide), stopState_state]
  · rw [coreRecord_seq hc, (stopState_off w c).rd _ _ (fldKey_not_mem (by decide))]
  · have hoff := coreRecord_off (stopState w c) c { ty := 0, d0 := (w.core c).issued % 2 ^ 32, pc := p, cyc := t }
    rw [stopState_site] at hoff
    exact ((stopState_off w c).mono (List.subset_append_left ..)).trans (hoff.mono (List.subset_append_right ..))

end

/-! ### NOTE (R154, R349) -/

section
variable {w : State} {c : CoreId}

theorem noteEffect_spent (h : w.rd (budP c.site) Reg.Bu.BUD_TELEM ≤ (w.site c.site).uTelem) (t p tag : Nat) : noteEffect w c t p tag =
    ((w.setBit (coreP c) Reg.Co.NOTE_DROPPED).bump (coreP c) Reg.Co.NOTE_DROP_CNT 1).orBits (budP c.site) Reg.Bu.BUD_HIT 8 := if_pos h

theorem noteEffect_within (h : ¬ w.rd (budP c.site) Reg.Bu.BUD_TELEM ≤ (w.site c.site).uTelem) (t p tag : Nat) : noteEffect w c t p tag =
    (coreRecord (w.setSite c.site { (w.site c.site) with uTelem := (w.site c.site).uTelem + 1 }) c { ty := 0x0A, d0 := tag, pc := p, cyc := t }).1 :=
  if_neg h

/-- The fields that a dropped NOTE writes. -/
def dropKeys (c : CoreId) : List Nat := keysOf (coreP c) [Reg.Co.NOTE_DROPPED, Reg.Co.NOTE_DROP_CNT] ++ keysOf (budP c.site) [Reg.Bu.BUD_HIT]

theorem noteEffect_dropped (hc : coreOk c = true) (h : w.rd (budP c.site) Reg.Bu.BUD_TELEM ≤ (w.site c.site).uTelem) (t p tag : Nat) :
    let u := noteEffect w c t p tag
    u.rd (coreP c) Reg.Co.NOTE_DROPPED = 1 ∧ u.rd (coreP c) Reg.Co.RECORD_SEQ = w.rd (coreP c) Reg.Co.RECORD_SEQ ∧ u.mem = w.mem ∧
      Off (dropKeys c) w u := by
  have hbud : ∀ f, Paged f → fldKey (budP c.site) Reg.Bu.BUD_HIT ≠ fldKey (coreP c) f :=
    fun f hf => (coreKey_ne_budget hc hf ⟨rfl, by decide⟩).symm
  dsimp only
  rw [noteEffect_spent h]
  unfold State.setBit State.orBits
  refine ⟨?_, ?_, ?_, ?_⟩
  · rw [State.rd_wr_ne _ _ _ _ _ _ (hbud _ ⟨rfl, by decide⟩), rd_bump_apart _ _ _ _ _ (by decide), State.rd_wr_same]
    rfl
  · rw [State.rd_wr_ne _ _ _ _ _ _ (hbud _ ⟨rfl, by decide⟩), rd_bump_apart _ _ _ _ _ (by decide), rd_wr_apart _ _ _ _ _ (by decide)]
  · exact (State.wr_memIs _ _ _ _ (State.bump_memIs _ _ _ _ (State.wr_memIs _ _ _ _ (MemIs.refl w)))).mem
  · refine (((Off.refl _ w).wr ?_).bump ?_).wr ?_
    · exact List.mem_append_left _ (keysOf_mem (by decide))
    · exact List.mem_append_left _ (keysOf_mem (by decide))
    · exact List.mem_append_right _ (keysOf_mem (by decide))

theorem noteEffect_entered (hc : coreOk c = true) (hr : RecordsOutside w c.site)
    (h : ¬ w.rd (budP c.site) Reg.Bu.BUD_TELEM ≤ (w.site c.site).uTelem) (t p tag : Nat) :
    let u := noteEffect w c t p tag
    u.rd (coreP c) Reg.Co.RECORD_SEQ = (w.rd (coreP c) Reg.Co.RECORD_SEQ + 1) % 2 ^ 32 ∧ (u.site c.site).uTelem = (w.site c.site).uTelem + 1 ∧
      u.mem = w.mem ∧ Off (recordKeys c (w.site c.site).region) w u := by
  dsimp only
  rw [noteEffect_within h]
  generalize hv : w.setSite c.site { (w.site c.site) with uTelem := (w.site c.site).uTelem + 1 } = v
  have hsite : v.site c.site = { (w.site c.site) with uTelem := (w.site c.site).uTelem + 1 } := by rw [← hv, State.site_setSite_same]
  have hregs : v.regs = w.regs := by rw [← hv, State.setSite_regs]
  have hmem : v.mem = w.mem := by rw [← hv, State.setSite_mem]
  have hsame : Off [] w v := (Off.refl _ w).same hregs
  have hrec : RecordsOutside v c.site := recordsOutside_wr hr hsame (fun _ hk => absurd hk List.not_mem_nil) (by rw [hsite])
  have hoff := coreRecord_off v c { ty := 0x0A, d0 := tag, pc := p, cyc := t }
  rw [hsite] at hoff
  refine ⟨?_, ?_, (coreRecord_mem hc hrec _).trans hmem, (hsame.mono (List.nil_subset _)).trans hoff⟩
  · rw [coreRecord_seq hc, hsame.rd _ _ List.not_mem_nil]
  · rw [coreRecord_site, hsite]

end

section
variable {s : State} {c : CoreId} {h : Hdr} {t : Nat}

theorem stop_runs (hi : Issues s c (ctlBundle h 3 0) t) (hr : RecordsOutside s c.site) : ∃ u, exec (.stop c h) s = .next u ∧
    u.rd (coreP c) Reg.Co.STATE = (if s.rd (coreP c) Reg.Co.STATE = 2 then 3 else s.rd (coreP c) Reg.Co.STATE) ∧
    u.rd (coreP c) Reg.Co.RECORD_SEQ = (s.rd (coreP c) Reg.Co.RECORD_SEQ + 1) % 2 ^ 32 ∧ u.mem = s.mem ∧
    Off (keysOf (coreP c) (seqFields ++ [Reg.Co.STATE]) ++ recordKeys c (s.site c.site).region) s u := by
  obtain ⟨_, _, _, _, e5, _⟩ := ctlBundle_slots (op := 3) (arg := 0) (by decide) (by decide) h
  obtain ⟨w, hw, hexec⟩ := ctlRow_issued hi (by decide) (by decide) (Or.inr rfl)
  have heff : ctlEffect w c t (s.core c).nextPc (bundleHdr (ctlBundle h 3 0)) 0 = stopEffect w c t (s.core c).nextPc := by
    unfold ctlEffect
    rw [e5]
    exact if_pos rfl
  rw [heff] at hexec
  obtain ⟨hstate, hseq, hmem, hoff⟩ := stopEffect_shows hi.core (hw.records hi.core hr) t (s.core c).nextPc
  rw [hw.region] at hoff
  refine ⟨_, hexec, ?_, ?_, (showBusy_mem ..).trans (hmem.trans hw.mem), ?_⟩
  · rw [showBusy_rd _ _ _ (by decide), hstate, hw.rd (by decide)]
  · rw [showBusy_rd _ _ _ (by decide), hseq, hw.rd (by decide)]
  · rw [keysOf_append]
    refine ((hw.frame.regs.mono ?_).trans (hoff.mono ?_)).trans ((showBusy_off _ c t).mono ?_)
    · exact fun _ hk => List.mem_append_left _ (List.mem_append_left _ (keysOf_subset (by decide) hk))
    · exact fun _ hk => (List.mem_append.1 hk).elim (fun hk => List.mem_append_left _ (List.mem_append_right _ hk)) (List.mem_append_right _)
    · exact fun _ hk => List.mem_append_left _ (List.mem_append_left _ hk)

theorem note_runs (tag rsv : BitVec 32) (hi : Issues s c (ctlBundle h 4 (noteArg tag rsv)) t) (hr : RecordsOutside s c.site) :
    ∃ u, exec (.note c h tag rsv) s = .next u ∧
    (if s.rd (budP c.site) Reg.Bu.BUD_TELEM ≤ (s.site c.site).uTelem then
        u.rd (coreP c) Reg.Co.NOTE_DROPPED = 1 ∧ u.rd (coreP c) Reg.Co.RECORD_SEQ = s.rd (coreP c) Reg.Co.RECORD_SEQ
      else u.rd (coreP c) Reg.Co.RECORD_SEQ = (s.rd (coreP c) Reg.Co.RECORD_SEQ + 1) % 2 ^ 32 ∧ (u.site c.site).uTelem = (s.site c.site).uTelem + 1) ∧
    u.mem = s.mem ∧ Off (keysOf (coreP c) (seqFields ++ [Reg.Co.NOTE_DROPPED, Reg.Co.NOTE_DROP_CNT]) ++ keysOf (budP c.site) [Reg.Bu.BUD_HIT] ++
      recordKeys c (s.site c.site).region) s u := by
  have hlt := noteArg_lt tag rsv
  obtain ⟨_, _, _, _, e5, _⟩ := ctlBundle_slots (op := 4) (by decide) hlt h
  obtain ⟨w, hw, hexec⟩ := ctlRow_issued hi (by decide) hlt (Or.inl rfl)
  have heff : ctlEffect w c t (s.core c).nextPc (bundleHdr (ctlBundle h 4 (noteArg tag rsv))) (noteArg tag rsv) =
      noteEffect w c t (s.core c).nextPc (bits (noteArg tag rsv) 0 32) := by
    unfold ctlEffect
    rw [e5]
    exact if_neg (by decide)
  rw [heff] at hexec
  have hbud : w.rd (budP c.site) Reg.Bu.BUD_TELEM = s.rd (budP c.site) Reg.Bu.BUD_TELEM := hw.frame.regs.rd _ _ (fun hk => by
    obtain ⟨f, hf, e⟩ := List.mem_map.1 hk
    have hpaged : ∀ f ∈ [Reg.Co.PC, Reg.Co.LOOP_DEPTH], f.ix = false ∧ f.off * 32 + f.lsb < 0x20000 := by decide
    exact coreKey_ne_budget hi.core (hpaged f hf) ⟨rfl, by decide⟩ e)
  rw [keysOf_append]
  have hpc : Off (keysOf (coreP c) seqFields ++ keysOf (coreP c) [Reg.Co.NOTE_DROPPED, Reg.Co.NOTE_DROP_CNT] ++ keysOf (budP c.site) [Reg.Bu.BUD_HIT] ++
      recordKeys c (s.site c.site).region) s w :=
    hw.frame.regs.mono (fun _ hk => List.mem_append_left _ (List.mem_append_left _ (List.mem_append_left _ (keysOf_subset (by decide) hk))))
  have hbusy : ∀ v, Off (keysOf (coreP c) seqFields ++ keysOf (coreP c) [Reg.Co.NOTE_DROPPED, Reg.Co.NOTE_DROP_CNT] ++
      keysOf (budP c.site) [Reg.Bu.BUD_HIT] ++ recordKeys c (s.site c.site).region) v (showBusy v c t) := fun v =>
    (showBusy_off v c t).mono (fun _ hk => List.mem_append_left _ (List.mem_append_left _ (List.mem_append_left _ hk)))
  by_cases hb : s.rd (budP c.site) Reg.Bu.BUD_TELEM ≤ (s.site c.site).uTelem
  · obtain ⟨hdrop, hseq, hmem, hoff⟩ :=
      noteEffect_dropped hi.core (by rw [hbud, hw.telem]; exact hb) t (s.core c).nextPc (bits (noteArg tag rsv) 0 32)
    refine ⟨_, hexec, ?_, (showBusy_mem ..).trans (hmem.trans hw.mem), ?_⟩
    · rw [if_pos hb, showBusy_rd _ _ _ (by decide), hdrop, showBusy_rd _ _ _ (by decide), hseq, hw.rd (by decide)]
      exact ⟨rfl, rfl⟩
    · refine (hpc.trans (hoff.mono (fun k hk => ?_))).trans (hbusy _)
      unfold dropKeys at hk
      rw [List.append_assoc (keysOf (coreP c) seqFields)]
      exact List.mem_append_left _ (List.mem_append_right _ hk)
  · obtain ⟨hseq, htelem, hmem, hoff⟩ := noteEffect_entered hi.core (hw.records hi.core hr) (by rw [hbud, hw.telem]; exact hb) t
      (s.core c).nextPc (bits (noteArg tag rsv) 0 32)
    rw [hw.region] at hoff
    refine ⟨_, hexec, ?_, (showBusy_mem ..).trans (hmem.trans hw.mem), (hpc.trans (hoff.mono (List.subset_append_right ..))).trans (hbusy _)⟩
    rw [if_neg hb, showBusy_rd _ _ _ (by decide), hseq, hw.rd (by decide), showBusy_site, htelem, hw.telem]
    exact ⟨rfl, rfl⟩

end

end Sys2Proof.Machine
end

section
/-! PROOFS. TSTART and TSTOP (R152, R418, R419). -/

namespace Sys2Proof.Machine

/-! ### Fields of a timer (R421) -/

section
variable (s : State) {f g : Fld} (p n t v : Nat)

/-- Two fields of one timer. -/
theorem timerFld_ne (p n t : Nat) (h : f.ix = g.ix ∧ f.off * 32 + f.lsb ≠ g.off * 32 + g.lsb) : fldKey p (tmFld f n t) ≠ fldKey p (tmFld g n t) := by
  obtain ⟨hx, hne⟩ := h
  refine fldKey_ne hx ?_
  simp only [tmFld]
  omega

theorem timer_rd_wr (h : f.ix = g.ix ∧ f.off * 32 + f.lsb ≠ g.off * 32 + g.lsb) : (s.wr p (tmFld f n t) v).rd p (tmFld g n t) = s.rd p (tmFld g n t) :=
  State.rd_wr_ne _ _ _ _ _ _ (timerFld_ne p n t h)

theorem timer_rd_bump (h : f.ix = g.ix ∧ f.off * 32 + f.lsb ≠ g.off * 32 + g.lsb) :
    (s.bump p (tmFld f n t) v).rd p (tmFld g n t) = s.rd p (tmFld g n t) := State.rd_bump_ne (timerFld_ne p n t h)

/-- The page's bitmap of running timers is apart from every timer's own fields. -/
theorem timer_rd_running (k : Nat) (h : g.ix = true) (hk : k < 8) (hp : p < 2 ^ 70) :
    (s.wr p (Reg.Tm.RUNNING k) v).rd p (tmFld g n t) = s.rd p (tmFld g n t) :=
  State.rd_wr_ne _ _ _ _ _ _ (indexedKey_ne_paged (g := Reg.Tm.RUNNING k) (f := tmFld g n t) h (running_paged hk) hp).symm

end

/-! ### What one event does (R419) -/

section
variable {w : State} {c : CoreId} {n cc ns : Nat}

theorem timP_lt (hc : coreOk c = true) : timP c.site < 2 ^ 70 := by
  have hsite : c.site < 256 ∧ c.n < 8 := by simpa [coreOk] using hc
  unfold timP siteP
  omega

/-- What `timerRun` leaves of the timer's fields but RUN. -/
theorem timerRun_rd (s : State) (hc : coreOk c = true) (on : Bool) {g : Fld} (hg : g.ix = true)
    (h : (Reg.Tm.RUN 0).off * 32 + (Reg.Tm.RUN 0).lsb ≠ g.off * 32 + g.lsb) :
    (timerRun s c n on cc ns).rd (timP c.site) (tmFld g c.n n) = s.rd (timP c.site) (tmFld g c.n n) := by
  refine (timer_rd_running _ _ _ _ _ c.n hg (coreOk_n hc) (timP_lt hc)).trans ?_
  exact timer_rd_wr s _ _ _ _ ⟨hg.symm, h⟩

theorem timerRun_run (s : State) (hc : coreOk c = true) (on : Bool) :
    (timerRun s c n on cc ns).rd (timP c.site) (tmFld (Reg.Tm.RUN 0) c.n n) = if on then 1 else 0 := by
  refine (timer_rd_running _ _ _ _ _ c.n rfl (coreOk_n hc) (timP_lt hc)).trans ?_
  rw [State.rd_wr_same]
  cases on <;> rfl

theorem timerRecord_shows (s : State) (cc ns : Nat) (co : Bool) :
    let u := timerRecord s c n cc ns co
    u.rd (timP c.site) (tmFld (Reg.Tm.LAST_CC 0) c.n n) = min cc 0xFFFFFFFF ∧
      u.rd (timP c.site) (tmFld (Reg.Tm.COUNT 0) c.n n) = satAdd 0xFFFFFFFF (s.rd (timP c.site) (tmFld (Reg.Tm.COUNT 0) c.n n)) 1 := by
  unfold timerRecord
  dsimp only
  refine ⟨?_, ?_⟩
  · simp (disch := decide) only [timer_rd_wr, timer_rd_bump, State.rd_wr_same]
    refine Nat.mod_eq_of_lt ?_
    show min cc 0xFFFFFFFF < 2 ^ 32
    omega
  · simp (disch := decide) only [timer_rd_wr, State.rd_bump_same]
    rfl

/-- The keys of the timer's fields and of the bitmap. -/
def timerKeys (c : CoreId) (n : Nat) (fs : List Fld) : List Nat := keysOf (timP c.site) (fs.map (fun f => tmFld f c.n n) ++ [Reg.Tm.RUNNING c.n])

theorem timerKeys_mem {fs : List Fld} {f : Fld} (h : f ∈ fs) : fldKey (timP c.site) (tmFld f c.n n) ∈ timerKeys c n fs :=
  keysOf_mem (List.mem_append_left _ (List.mem_map_of_mem h))

theorem timerKeys_running (fs : List Fld) : fldKey (timP c.site) (Reg.Tm.RUNNING c.n) ∈ timerKeys c n fs :=
  keysOf_mem (List.mem_append_right _ (List.mem_singleton_self _))

/-- `u` differs from `s` in registers `ks` of core `c`'s operation, and in the timers' last events. -/
def TimerFrame (c : CoreId) (ks : List Nat) (s u : State) : Prop := CoreFrame c ks s { u with timers := s.timers }

section
variable {ks : List Nat} {s u : State}

theorem CoreFrame.timer (h : CoreFrame c ks s u) : TimerFrame c ks s u := by
  have ht : u.timers = s.timers := (congrArg State.timers h.rest :)
  unfold TimerFrame
  rw [← ht]
  exact h

theorem TimerFrame.wr (h : TimerFrame c ks s u) {p : Nat} {f : Fld} {v : Nat} (hk : fldKey p f ∈ ks) : TimerFrame c ks s (u.wr p f v) :=
  CoreFrame.wr (s := { u with timers := s.timers }) h hk

theorem TimerFrame.ite {v : State} {p : Prop} [Decidable p] (h : TimerFrame c ks s u) (g : TimerFrame c ks s v) :
    TimerFrame c ks s (if p then u else v) := by split <;> assumption

theorem TimerFrame.bump (h : TimerFrame c ks s u) {p : Nat} {f : Fld} {k : Nat} (hk : fldKey p f ∈ ks) : TimerFrame c ks s (u.bump p f k) :=
  TimerFrame.ite h (h.wr hk)

theorem TimerFrame.withTimers (h : TimerFrame c ks s u) (x : List (Nat × (Nat × Nat))) : TimerFrame c ks s { u with timers := x } := h

theorem TimerFrame.timerRun (h : TimerFrame c ks s u) (on : Bool) (hr : fldKey (timP c.site) (tmFld (Reg.Tm.RUN 0) c.n n) ∈ ks)
    (hb : fldKey (timP c.site) (Reg.Tm.RUNNING c.n) ∈ ks) : TimerFrame c ks s (timerRun u c n on cc ns) := (h.wr hr).wr hb

theorem TimerFrame.showBusy (h : TimerFrame c ks s u) (hk : keysOf (coreP c) seqFields ⊆ ks) (t : Nat) : TimerFrame c ks s (showBusy u c t) := by
  unfold Sys2Proof.Machine.showBusy
  exact (((((h.wr (hk (keysOf_mem (by decide)))).wr (hk (keysOf_mem (by decide)))).wr (hk (keysOf_mem (by decide)))).wr
    (hk (keysOf_mem (by decide)))).wr (hk (keysOf_mem (by decide)))).wr (hk (keysOf_mem (by decide)))

end

/-- The fields that a start writes, and those that a stop writes. -/
def startFields : List Fld := [Reg.Tm.RUN 0, Reg.Tm.LAST_COINCIDENT 0, Reg.Tm.DOUBLE_CNT 0]

def stopRunFields : List Fld := [Reg.Tm.RUN 0, Reg.Tm.LAST_CC 0, Reg.Tm.LAST_NS 0, Reg.Tm.LAST_COINCIDENT 0, Reg.Tm.COUNT 0, Reg.Tm.MIN_CC 0,
  Reg.Tm.MAX_CC 0, Reg.Tm.ORPHAN_CNT 0]

theorem timerEvent_start_idle (he : w.rd (timP c.site) (tmFld (Reg.Tm.ENABLE 0) c.n n) = 1)
    (hr : w.rd (timP c.site) (tmFld (Reg.Tm.RUN 0) c.n n) ≠ 1) (cc ns : Nat) :
    timerEvent w c n true false cc ns = timerRun (if tabGet (fun _ => (0, 0)) w.timers (timerKey c n) = (cc, ns) ∧
      tabGet (fun _ => (0, 0)) w.timers (timerKey c n) ≠ (0, 0) then w.wr (timP c.site) (tmFld (Reg.Tm.LAST_COINCIDENT 0) c.n n) 1 else w) c n true cc ns := by
  unfold timerEvent
  simp only [he, hr, one_ne_zero, if_false, decide_false]

theorem timerEvent_start_run (he : w.rd (timP c.site) (tmFld (Reg.Tm.ENABLE 0) c.n n) = 1)
    (hr : w.rd (timP c.site) (tmFld (Reg.Tm.RUN 0) c.n n) = 1) (cc ns : Nat) :
    timerEvent w c n true false cc ns = w.bump (timP c.site) (tmFld (Reg.Tm.DOUBLE_CNT 0) c.n n) 1 := by
  unfold timerEvent
  simp only [he, hr, one_ne_zero, if_false, decide_true]

theorem timerEvent_stop_idle (he : w.rd (timP c.site) (tmFld (Reg.Tm.ENABLE 0) c.n n) = 1)
    (hr : w.rd (timP c.site) (tmFld (Reg.Tm.RUN 0) c.n n) ≠ 1) (cc ns : Nat) :
    timerEvent w c n false true cc ns = w.bump (timP c.site) (tmFld (Reg.Tm.ORPHAN_CNT 0) c.n n) 1 := by
  unfold timerEvent
  simp only [he, hr, one_ne_zero, if_false, decide_false]

theorem timerEvent_stop_run (he : w.rd (timP c.site) (tmFld (Reg.Tm.ENABLE 0) c.n n) = 1)
    (hr : w.rd (timP c.site) (tmFld (Reg.Tm.RUN 0) c.n n) = 1) (cc ns : Nat) :
    let c0 := tabGet (fun _ => (0, 0)) w.timers (timerKey c n)
    timerEvent w c n false true cc ns = timerRun (timerRecord w c n (cc - c0.1) ((ns - c0.2) / 10) (cc = c0.1)) c n false cc ns := by
  unfold timerEvent
  simp only [he, hr, one_ne_zero, if_false, decide_true]

theorem timerRecord_frame (s : State) (cc ns : Nat) (co : Bool) : TimerFrame c (timerKeys c n stopRunFields) s (timerRecord s c n cc ns co) := by
  unfold timerRecord
  refine ((((((CoreFrame.refl c _ s).timer.wr ?_).wr ?_).wr ?_).bump ?_).wr ?_).wr ?_ <;> exact timerKeys_mem (by decide)

/-- R419: a start of an enabled timer: it runs, and a start of a running timer counts as doubled. -/
theorem timerEvent_start (hc : coreOk c = true) (he : w.rd (timP c.site) (tmFld (Reg.Tm.ENABLE 0) c.n n) = 1) (cc ns : Nat) :
    let q := timP c.site
    let u := timerEvent w c n true false cc ns
    u.rd q (tmFld (Reg.Tm.RUN 0) c.n n) = 1 ∧
      (w.rd q (tmFld (Reg.Tm.RUN 0) c.n n) = 1 →
        u.rd q (tmFld (Reg.Tm.DOUBLE_CNT 0) c.n n) = satAdd 0xFFFF (w.rd q (tmFld (Reg.Tm.DOUBLE_CNT 0) c.n n)) 1) ∧
      TimerFrame c (timerKeys c n startFields) w u := by
  have hw : TimerFrame c (timerKeys c n startFields) w w := (CoreFrame.refl c _ w).timer
  dsimp only
  by_cases hr : w.rd (timP c.site) (tmFld (Reg.Tm.RUN 0) c.n n) = 1
  · rw [timerEvent_start_run he hr]
    refine ⟨?_, fun _ => State.rd_bump_same one_ne_zero, hw.bump (timerKeys_mem (by decide))⟩
    rw [timer_rd_bump _ _ _ _ _ (by decide)]
    exact hr
  · rw [timerEvent_start_idle he hr]
    refine ⟨timerRun_run _ hc true, fun h => absurd h hr, ?_⟩
    exact (TimerFrame.ite (hw.wr (timerKeys_mem (by decide))) hw).timerRun true (timerKeys_mem (by decide)) (timerKeys_running _)

/-- R419: a stop of an enabled timer records its interval; a stop of one that is idle counts as orphaned. -/
theorem timerEvent_stop (hc : coreOk c = true) (he : w.rd (timP c.site) (tmFld (Reg.Tm.ENABLE 0) c.n n) = 1) (cc ns : Nat) :
    let q := timP c.site
    let u := timerEvent w c n false true cc ns
    (if w.rd q (tmFld (Reg.Tm.RUN 0) c.n n) = 1 then u.rd q (tmFld (Reg.Tm.RUN 0) c.n n) = 0 ∧
        u.rd q (tmFld (Reg.Tm.LAST_CC 0) c.n n) = min (cc - (tabGet (fun _ => (0, 0)) w.timers (timerKey c n)).1) 0xFFFFFFFF ∧
        u.rd q (tmFld (Reg.Tm.COUNT 0) c.n n) = satAdd 0xFFFFFFFF (w.rd q (tmFld (Reg.Tm.COUNT 0) c.n n)) 1
      else u.rd q (tmFld (Reg.Tm.ORPHAN_CNT 0) c.n n) = satAdd 0xFFFF (w.rd q (tmFld (Reg.Tm.ORPHAN_CNT 0) c.n n)) 1) ∧
      TimerFrame c (timerKeys c n stopRunFields) w u := by
  dsimp only
  by_cases hr : w.rd (timP c.site) (tmFld (Reg.Tm.RUN 0) c.n n) = 1
  · obtain ⟨hlast, hcount⟩ := timerRecord_shows (c := c) (n := n) w (cc - (tabGet (fun _ => (0, 0)) w.timers (timerKey c n)).1)
      ((ns - (tabGet (fun _ => (0, 0)) w.timers (timerKey c n)).2) / 10) (cc = (tabGet (fun _ => (0, 0)) w.timers (timerKey c n)).1)
    rw [if_pos hr, timerEvent_stop_run he hr]
    refine ⟨⟨timerRun_run _ hc false, (timerRun_rd _ hc false rfl (by decide)).trans hlast, (timerRun_rd _ hc false rfl (by decide)).trans hcount⟩, ?_⟩
    exact (timerRecord_frame w _ _ _).timerRun false (timerKeys_mem (by decide)) (timerKeys_running _)
  · rw [if_neg hr, timerEvent_stop_idle he hr]
    exact ⟨State.rd_bump_same one_ne_zero, (CoreFrame.refl c _ w).timer.bump (timerKeys_mem (by decide))⟩

end

/-! ### The timer that the operation names (R418) -/

/-- A run of steps of which only step `n` does anything. -/
theorem upTo_single {α : Type} {f : α → Nat → α} {n : Nat} (h : ∀ a k, k ≠ n → f a k = a) (a : α) :
    ∀ m, upTo m f a = if n < m then f a n else a
  | 0 => rfl
  | m + 1 => by
    rw [upTo_succ, upTo_single h a m]
    rcases Nat.lt_trichotomy n m with hlt | rfl | hgt
    · rw [if_pos hlt, if_pos (by omega), h _ _ (by omega)]
    · rw [if_neg (Nat.lt_irrefl _), if_pos (by omega)]
    · rw [if_neg (by omega), if_neg (by omega), h _ _ (by omega)]

theorem timerSource_one (s : State) (c : CoreId) {n : Nat} (hn : n < 16) (a b : Bool) (cc ns : Nat) :
    timerSource s c 0 (some n) a b cc ns =
      if ((a && s.rd (timP c.site) (tmFld (Reg.Tm.START_SRC 0) c.n n) = 0) || (b && s.rd (timP c.site) (tmFld (Reg.Tm.STOP_SRC 0) c.n n) = 0)) = true
      then timerEvent s c n (a && s.rd (timP c.site) (tmFld (Reg.Tm.START_SRC 0) c.n n) = 0)
        (b && s.rd (timP c.site) (tmFld (Reg.Tm.STOP_SRC 0) c.n n) = 0) cc ns else s := by
  unfold timerSource
  rw [upTo_single (n := n) (fun u k hk => ?_), if_pos hn]
  · simp
  · have hne : ¬ n = k := fun e => hk e.symm
    simp [hne]

theorem timerSource_start {s : State} {c : CoreId} {n : Nat} (hn : n < 16) (h : s.rd (timP c.site) (tmFld (Reg.Tm.START_SRC 0) c.n n) = 0)
    (cc ns : Nat) : timerSource s c 0 (some n) true false cc ns = timerEvent s c n true false cc ns := by
  rw [timerSource_one s c hn]
  simp [h]

theorem timerSource_stop {s : State} {c : CoreId} {n : Nat} (hn : n < 16) (h : s.rd (timP c.site) (tmFld (Reg.Tm.STOP_SRC 0) c.n n) = 0)
    (cc ns : Nat) : timerSource s c 0 (some n) false true cc ns = timerEvent s c n false true cc ns := by
  rw [timerSource_one s c hn]
  simp [h]

/-! ### TSTART and TSTOP -/

section
variable {s w : State} {c : CoreId} {h : Hdr} {t : Nat} {n : BitVec 4} {b p : Nat}

/-- An indexed field is none of a core's page. -/
theorem coreKeys_not_indexed (hc : coreOk c = true) {fs : List Fld} (hfs : ∀ f ∈ fs, f.ix = false ∧ f.off * 32 + f.lsb < 0x20000) {p : Nat} {g : Fld}
    (hg : g.ix = true) : fldKey p g ∉ keysOf (coreP c) fs := fun hk => coreKeys_not_panel hc hfs _ hk (panelKey_ix hg)

theorem Advanced.timer (h : Advanced s c b p w) (hc : coreOk c = true) {f : Fld} (hf : f.ix = true) (q n : Nat) :
    w.rd q (tmFld f c.n n) = s.rd q (tmFld f c.n n) := h.frame.regs.rd _ _ (coreKeys_not_indexed hc (by decide) hf)

theorem showBusy_timer (hc : coreOk c = true) (v : State) {f : Fld} (hf : f.ix = true) (q n : Nat) :
    (showBusy v c t).rd q (tmFld f c.n n) = v.rd q (tmFld f c.n n) := (showBusy_off v c t).rd _ _ (coreKeys_not_indexed hc (by decide) hf)

/-- The frame of a timer's operation, in the statement's order of keys. -/
theorem Advanced.timerFrame (h : Advanced s c b p w) {u : State} {fs : List Fld} (hu : TimerFrame c (timerKeys c n.toNat fs) w u)
    {ks : List Nat} (hks : timerKeys c n.toNat fs ⊆ ks) :
    CoreFrame c (keysOf (coreP c) seqFields ++ ks) s { showBusy u c t with timers := s.timers } := by
  have ht : w.timers = s.timers := (congrArg State.timers h.frame.rest :)
  have hbusy : TimerFrame c (keysOf (coreP c) seqFields ++ ks) w (showBusy u c t) :=
    TimerFrame.showBusy (CoreFrame.mono hu (List.Subset.trans hks (List.subset_append_right ..))) (List.subset_append_left ..) t
  unfold TimerFrame at hbusy
  rw [ht] at hbusy
  exact (h.frame.mono (List.Subset.trans (keysOf_subset (by decide)) (List.subset_append_left ..))).trans hbusy

theorem timerOp_lt (n : BitVec 4) : 0x20 + n.toNat < 256 := by have := n.isLt; omega

theorem tstart_runs (hi : Issues s c (ctlBundle h (0x10 + n.toNat) 0) t) (he : s.rd (timP c.site) (tmFld (Reg.Tm.ENABLE 0) c.n n.toNat) = 1)
    (hsrc : s.rd (timP c.site) (tmFld (Reg.Tm.START_SRC 0) c.n n.toNat) = 0) :
    let q := timP c.site
    let f := fun (g : Nat → Fld) => tmFld (g 0) c.n n.toNat
    ∃ u, exec (.tstart c h n) s = .next u ∧ u.rd q (f Reg.Tm.RUN) = 1 ∧ u.mem = s.mem ∧
      (s.rd q (f Reg.Tm.RUN) = 1 → u.rd q (f Reg.Tm.DOUBLE_CNT) = satAdd 0xFFFF (s.rd q (f Reg.Tm.DOUBLE_CNT)) 1) ∧
      CoreFrame c (keysOf (coreP c) seqFields ++ keysOf q [f Reg.Tm.RUN, Reg.Tm.RUNNING c.n, f Reg.Tm.LAST_COINCIDENT, f Reg.Tm.DOUBLE_CNT]) s
        { u with timers := s.timers } := by
  have hn := n.isLt
  have hc := hi.core
  obtain ⟨_, _, _, _, e5, _⟩ := ctlBundle_slots (op := 0x10 + n.toNat) (arg := 0) (by omega) (by decide) h
  obtain ⟨w, hw, hexec⟩ := ctlRow_issued hi (by omega) (by decide) (Or.inr rfl)
  have heff : ctlEffect w c t (s.core c).nextPc (bundleHdr (ctlBundle h (0x10 + n.toNat) 0)) 0 = timerEvent w c n.toNat true false t w.rcnt := by
    unfold ctlEffect
    rw [e5, if_neg (by omega), if_neg (by omega), if_pos (by omega), Nat.add_sub_cancel_left,
      timerSource_start hn ((hw.timer hc rfl _ _).trans hsrc)]
  rw [heff] at hexec
  obtain ⟨hrun, hdouble, hframe⟩ := timerEvent_start hc ((hw.timer hc rfl _ _).trans he) t w.rcnt
  refine ⟨_, hexec, ?_, ?_, fun hr => ?_, hw.timerFrame hframe ?_⟩
  · exact (showBusy_timer hc _ rfl _ _).trans hrun
  · exact (showBusy_mem ..).trans ((timerEvent_memIs _ _ _ _ _ _ _ (MemIs.refl w)).mem.trans hw.mem)
  · rw [showBusy_timer hc _ rfl, hdouble ((hw.timer hc rfl _ _).trans hr), hw.timer hc rfl]
  · unfold timerKeys startFields
    exact keysOf_subset (by simp)

theorem tstop_runs (hi : Issues s c (ctlBundle h (0x20 + n.toNat) 0) t) (he : s.rd (timP c.site) (tmFld (Reg.Tm.ENABLE 0) c.n n.toNat) = 1)
    (hsrc : s.rd (timP c.site) (tmFld (Reg.Tm.STOP_SRC 0) c.n n.toNat) = 0) :
    let q := timP c.site
    let f := fun (g : Nat → Fld) => tmFld (g 0) c.n n.toNat
    ∃ u, exec (.tstop c h n) s = .next u ∧ u.mem = s.mem ∧
      (if s.rd q (f Reg.Tm.RUN) = 1 then u.rd q (f Reg.Tm.RUN) = 0 ∧
          u.rd q (f Reg.Tm.LAST_CC) = min (t - (tabGet (fun _ => (0, 0)) s.timers (timerKey c n.toNat)).1) 0xFFFFFFFF ∧
            u.rd q (f Reg.Tm.COUNT) = satAdd 0xFFFFFFFF (s.rd q (f Reg.Tm.COUNT)) 1
        else u.rd q (f Reg.Tm.ORPHAN_CNT) = satAdd 0xFFFF (s.rd q (f Reg.Tm.ORPHAN_CNT)) 1) ∧
      CoreFrame c (keysOf (coreP c) seqFields ++ keysOf q [f Reg.Tm.RUN, Reg.Tm.RUNNING c.n, f Reg.Tm.LAST_CC, f Reg.Tm.LAST_NS,
        f Reg.Tm.LAST_COINCIDENT, f Reg.Tm.COUNT, f Reg.Tm.MIN_CC, f Reg.Tm.MAX_CC, f Reg.Tm.ORPHAN_CNT]) s { u with timers := s.timers } := by
  dsimp only
  have hn := n.isLt
  have hc := hi.core
  obtain ⟨_, _, _, _, e5, _⟩ := ctlBundle_slots (op := 0x20 + n.toNat) (arg := 0) (by omega) (by decide) h
  obtain ⟨w, hw, hexec⟩ := ctlRow_issued hi (by omega) (by decide) (Or.inr rfl)
  have heff : ctlEffect w c t (s.core c).nextPc (bundleHdr (ctlBundle h (0x20 + n.toNat) 0)) 0 = timerEvent w c n.toNat false true t w.rcnt := by
    unfold ctlEffect
    rw [e5, if_neg (by omega), if_neg (by omega), if_neg (by omega), if_pos (by omega), Nat.add_sub_cancel_left,
      timerSource_stop hn ((hw.timer hc rfl _ _).trans hsrc)]
  rw [heff] at hexec
  obtain ⟨hstop, hframe⟩ := timerEvent_stop hc ((hw.timer hc rfl _ _).trans he) t w.rcnt
  have ht : w.timers = s.timers := (congrArg State.timers hw.frame.rest :)
  refine ⟨_, hexec, ?_, ?_, hw.timerFrame hframe ?_⟩
  · exact (showBusy_mem ..).trans ((timerEvent_memIs _ _ _ _ _ _ _ (MemIs.refl w)).mem.trans hw.mem)
  · rw [hw.timer hc (f := Reg.Tm.RUN 0) rfl, hw.timer hc (f := Reg.Tm.COUNT 0) rfl, hw.timer hc (f := Reg.Tm.ORPHAN_CNT 0) rfl, ht] at hstop
    rw [showBusy_timer hc _ (f := Reg.Tm.RUN 0) rfl, showBusy_timer hc _ (f := Reg.Tm.LAST_CC 0) rfl,
      showBusy_timer hc _ (f := Reg.Tm.COUNT 0) rfl, showBusy_timer hc _ (f := Reg.Tm.ORPHAN_CNT 0) rfl]
    exact hstop
  · unfold timerKeys stopRunFields
    exact keysOf_subset (by simp)

end

/-- Settles O26: each operation's effect once its bundle's sequencer has moved (`ctlRow_issued`). -/
theorem controlOperations : Obligations.ControlOperations := by
  unfold Obligations.ControlOperations
  intro s c h t
  exact ⟨loop_runs, jump_runs, stop_runs, note_runs, fun n he => ⟨fun hi hsrc => tstart_runs hi he hsrc, fun hi hsrc => tstop_runs hi he hsrc⟩⟩

end Sys2Proof.Machine
end

section
/-! PROOFS. The MV slot (R157, R158, R161, R165): its fields, its accesses, and a KICK. -/

namespace Sys2Proof.Machine

/-! ### Fields of an MV slot (R158) -/

section
variable {op : Nat} (a : MvArgs)

theorem mvOf_eq (op : Nat) : mvOf op a = op + a.bank.toNat * 2 ^ 8 + a.line.toNat * 2 ^ 13 + a.rest.toNat * 2 ^ 20 := by
  simp only [mvOf, packBits_cons, packBits_nil]
  omega

theorem mvOf_fields (ho : op < 256) : mvOf op a < 2 ^ 64 ∧ bits (mvOf op a) 0 8 = op ∧ mvBank (mvOf op a) = a.bank.toNat ∧
    mvLine (mvOf op a) = a.line.toNat := by
  have := a.bank.isLt; have := a.line.isLt; have := a.rest.isLt
  rw [mvOf_eq]
  unfold mvBank mvLine bits
  omega

/-- The fields above the line are those of the slot's rest. -/
theorem mvOf_rest (ho : op < 256) (k w : Nat) : bits (mvOf op a) (20 + k) w = bits a.rest.toNat k w := by
  have := a.bank.isLt; have := a.line.isLt
  have hdiv : mvOf op a / 2 ^ 20 = a.rest.toNat := by
    rw [mvOf_eq]
    omega
  unfold bits
  rw [pow_add, ← Nat.div_div_eq_div_mul, hdiv]

theorem mvOf_ne_zero (ho : op < 256) (h0 : op ≠ 0) : mvOf op a ≠ 0 := by
  intro h
  have hop := (mvOf_fields a ho).2.1
  rw [h] at hop
  exact h0 (hop.symm.trans (by decide))

/-- R146: the slots of a bundle of one MV operation. -/
theorem mvBundle_slots (ho : op < 256) (h : Hdr) :
    bundleMx (mvBundle h op a) = 0 ∧ bundleVx (mvBundle h op a) = 0 ∧ bundleMv (mvBundle h op a) = mvOf op a ∧
      bundleLk (mvBundle h op a) = 0 ∧ hdrCtl (bundleHdr (mvBundle h op a)) = 0 := by
  unfold mvBundle
  rw [bundleMx_of, bundleVx_of, bundleMv_of, bundleLk_of, bundleHdr_of]
  exact ⟨rfl, rfl, Nat.mod_eq_of_lt (mvOf_fields a ho).1, rfl, (hdrOf_ctl h false 0 (by norm_num)).1⟩

end

/-! ### Issue -/

/-- R159, R207: an MV operation's accesses are its core's own, by its move unit, after the cycle of issue. -/
theorem mvAcc_own (s : State) (c : CoreId) (mv t pc : Nat) : ∀ a ∈ mvAcc s c mv t pc, t < a.cyc ∧ a.own = c.n ∧ a.unit = 1 := by
  have hlines : ∀ (n : Nat) (f : Nat → List Access), (∀ i, ∀ a ∈ f i, t < a.cyc ∧ a.own = c.n ∧ a.unit = 1) →
      ∀ a ∈ (List.range n).flatMap f, t < a.cyc ∧ a.own = c.n ∧ a.unit = 1 := by
    intro n f hf a ha
    obtain ⟨i, _, hi⟩ := List.mem_flatMap.1 ha
    exact hf i a hi
  unfold mvAcc
  extract_lets n b l lat acc lines
  split
  case h_8 =>
    intro a ha
    rw [List.mem_singleton.1 ha]
    exact ⟨Nat.lt_succ_self t, rfl, rfl⟩
  case h_9 => exact fun a ha => absurd ha List.not_mem_nil
  all_goals
    refine hlines _ _ (fun i a ha => ?_)
    simp only [List.mem_cons, List.not_mem_nil, or_false] at ha
    rcases ha with rfl | rfl | rfl | rfl
  all_goals exact ⟨by simp only [withUndo, acc]; omega, rfl, rfl⟩

/-- What a bundle leaves whose effect is `v`: memory, the kicks of its site and the write window of its core as in `v`, and no more than
its issue beside. -/
structure LeavesMoved (c : CoreId) (v u : State) : Prop where
  mem : u.mem = v.mem
  window : (u.core c).window = (v.core c).window
  kicks : (u.site c.site).kicks = (v.site c.site).kicks
  frame : CoreFrame c (keysOf (coreP c) seqFields) v u

theorem advance_window (k : Core) (p h lk : Nat) : (advance k p h lk).window = k.window := by
  unfold advance
  split <;> rfl

section
variable {s : State} {c : CoreId} {h : Hdr} {op : Nat} {a : MvArgs} {t : Nat}

/-- A bundle whose one operation is in its MV slot: the slot's effect, and its issue. -/
theorem bundleEffect_onlyMv (s : State) (c : CoreId) (t p : Nat) {b : Nat} (e1 : bundleMx b = 0) (e2 : bundleVx b = 0)
    (e3 : bundleMv b ≠ 0) (e4 : bundleLk b = 0) (e5 : hdrCtl (bundleHdr b) = 0) :
    LeavesMoved c (mvEffect (placeAll s c.site t []).st c (bundleMv b) t p) (bundleEffect s c t p b {}) := by
  unfold bundleEffect
  rw [e1, e2, e4]
  extract_lets hd mx mv as undo s1 s2 s3 s3' s4 s6 k' k s7 s8
  have hs2 : s2 = s := (vxOccupy_zero _ _ _).trans ((vxData_zero _ _).trans (mxEffect_zero ..))
  have has : as ++ undo = [] := (List.append_nil as).trans (mxAcc_zero ..)
  have hs3 : s3 = (placeAll s c.site t []).st := by rw [show s3 = (placeAll s2 c.site t (as ++ undo)).st from rfl, has, hs2]
  have hs4 : s4 = mvEffect (placeAll s c.site t []).st c (bundleMv b) t p := by
    rw [← hs3]
    exact (if_pos (by simp)).trans (if_neg e3)
  rw [← hs4, ctlEffect_none _ _ _ _ _ _ e5]
  clear_value s4
  have f6 : CoreFrame c (keysOf (coreP c) seqFields) s4 s6 := CoreFrame.ite (digAdd_frame (CoreFrame.refl _ _ _) _) (CoreFrame.refl _ _ _)
  have m6 : MemIs s4 s6 := MemIs.ite (digAdd_memIs _ _ _ (MemIs.refl _)) (MemIs.refl _)
  have k6 : s6.core c = s4.core c := by
    rw [show s6 = if _ then _ else s4 from rfl, apply_ite (fun u : State => u.core c), digAdd_core, ite_self]
  have i6 : (s6.site c.site).kicks = (s4.site c.site).kicks := by
    have hdig : Aside Site.kicks (fun _ => False) s4 s6 := Aside.ite (digAdd_aside (fun _ _ => rfl) _ _ _) (Aside.refl _)
    exact hdig.sites c.site
  clear_value s6
  refine ⟨(showBusy_memIs _ _ _ (State.wr_memIs _ _ _ _ (State.wr_memIs _ _ _ _ (State.setCore_memIs _ _ _ m6)))).mem, ?_, ?_,
    issued_frame f6 (List.Subset.refl _) _ _ _ _⟩
  · rw [showBusy_core, ← k6]
    simp only [s8, s7, State.core_wr, State.core_setCore_same, k, advance_window, k']
  · rw [showBusy_site, ← i6]
    rfl

/-- R150: what an MV operation's own row answers once its bundle issues. -/
theorem mvRow_issued (hi : Issues s c (mvBundle h op a) t) (ho : op < 256) (h0 : op ≠ 0) : ∃ u, mvRow c h op a s = .next u ∧
    LeavesMoved c (mvEffect (placeAll (atCycle s c.site t) c.site t []).st c (mvOf op a) t (s.core c).nextPc) u := by
  obtain ⟨e1, e2, e3, e4, e5⟩ := mvBundle_slots a ho h
  have hl := bundleEffect_onlyMv (atCycle s c.site t) c t (s.core c).nextPc e1 e2 (e3 ▸ mvOf_ne_zero a ho h0) e4 e5
  rw [e3] at hl
  exact ⟨_, (onUnit_true hi.core _).trans (congrArg _ (issue_of hi {})), hl⟩

/-- R105: what the site's ports have granted before a bundle's own accesses: nothing is lost, and only what they list has changed. -/
theorem granted_none (hq : Quiet s c t) :
    Granted (atCycle s c.site t) c.site (((atCycle s c.site t).site c.site).acc.filter (fun o => decide (t < o.cyc + 4096)))
      (placeAll (atCycle s c.site t) c.site t []) := by
  have hg := placeAll_quiet (u := 1) (n := c.n) (as := []) (atCycle_quiet hq) (fun a ha => absurd ha List.not_mem_nil)
  rwa [List.append_nil] at hg

theorem granted_quiet (hq : Quiet s c t) : Quiet (placeAll (atCycle s c.site t) c.site t []).st c t := fun o ho => by
  rw [(granted_none hq).here] at ho
  exact atCycle_quiet hq o (List.mem_filter.1 ho).1

/-! ### A KICK (R161, R165, R173) -/

/-- R161: what a KICK of the half-line `wb` hands to pump `pump`. -/
def kickOf (s : State) (c : CoreId) (pump wb pc : Nat) : Kick :=
  { core := c.n, pump := pump, wb := wb, pc := pc, win := decide (bits wb 12 4 = 2 ∧ bits wb 24 3 = c.n ∧ (s.core c).window = none) }

/-- What a KICK that stands leaves of the core before its window opens: `s`, with the half-line handed to the pump. -/
def handed (s : State) (c : CoreId) (k : Kick) : State :=
  (s.setSite c.site { (s.site c.site) with kicks := (s.site c.site).kicks ++ [k] }).wr (coreP c) Reg.Co.KICKS_OUT
    (s.rd (coreP c) Reg.Co.KICKS_OUT + 4 ^ k.pump)

theorem kickEffect_clean {v : State} {mv pc : Nat} (hpm : memPoison v.mem (spAddr c.site c.n (mvBank mv) (mvLine mv) + 64 * bits mv 20 1) 8 = 0)
    (hc : coreOk c = true) (hplain : isShadow v c.site = false) :
    let wb := memRead v.mem (spAddr c.site c.n (mvBank mv) (mvLine mv) + 64 * bits mv 20 1) 64
    let w := v.noteSp c (mvBank mv) (mvLine mv) (8 * bits mv 20 1) 8
    kickEffect v c mv t pc = kickWindow (handed w c (kickOf v c (bits mv 21 2) wb pc)) c wb (bits mv 21 2) t := by
  intro wb w
  have htouch : Touches (keysOf (coreP c) spFields) v w := noteSp_touches (List.Subset.refl _) _ _ _ _
  have hshadow : isShadow w c.site = false := (htouch.shadow hc (by decide)).trans hplain
  unfold kickEffect kickOf
  dsimp only
  rw [hpm, if_neg (fun h => h rfl), if_neg (by rw [hshadow]; decide), htouch.core c]
  rfl

theorem kickWindow_opens {w : State} {wb pump : Nat} (h : bits wb 12 4 = 2 ∧ bits wb 24 3 = c.n ∧ (w.core c).window = none) (t : Nat) :
    ∃ hi, kickWindow w c wb pump t =
      (w.setCore c { (w.core c) with window := some ⟨bits wb 128 64 / 128, hi, t + 1, pump⟩ }).wr (coreP c) Reg.Co.WINDOW_OPEN 1 :=
  ⟨_, if_pos h⟩

theorem kickWindow_other {w : State} {wb pump : Nat} (h : ¬ (bits wb 12 4 = 2 ∧ bits wb 24 3 = c.n ∧ (w.core c).window = none)) (t : Nat) :
    kickWindow w c wb pump t = w := if_neg h

/-- The fields that a KICK writes. -/
def kickKeys (c : CoreId) : List Nat := keysOf (coreP c) (spFields ++ [Reg.Co.KICKS_OUT, Reg.Co.WINDOW_OPEN])

/-- R161, R165: a KICK of a clean half-line hands it to its pump; a waybill into the core's own program buffer opens the window. -/
structure Kicked (s : State) (c : CoreId) (k : Kick) (opens : Prop) [Decidable opens] (t : Nat) (v : State) : Prop where
  kicks : (v.site c.site).kicks = (s.site c.site).kicks ++ [k]
  out : v.rd (coreP c) Reg.Co.KICKS_OUT = (s.rd (coreP c) Reg.Co.KICKS_OUT + 4 ^ k.pump) % 256
  window : if opens then ∃ w, (v.core c).window = some w ∧ w.lo = bits k.wb 128 64 / 128 ∧ w.opens = t + 1 ∧ w.pump = k.pump ∧
      v.rd (coreP c) Reg.Co.WINDOW_OPEN = 1
    else (v.core c).window = (s.core c).window ∧ v.rd (coreP c) Reg.Co.WINDOW_OPEN = s.rd (coreP c) Reg.Co.WINDOW_OPEN
  mem : v.mem = s.mem
  frame : CoreFrame c (kickKeys c) s v

theorem handed_shows (s : State) (c : CoreId) (k : Kick) :
    ((handed s c k).site c.site).kicks = (s.site c.site).kicks ++ [k] ∧
      (handed s c k).rd (coreP c) Reg.Co.KICKS_OUT = (s.rd (coreP c) Reg.Co.KICKS_OUT + 4 ^ k.pump) % 256 ∧
      (handed s c k).rd (coreP c) Reg.Co.WINDOW_OPEN = s.rd (coreP c) Reg.Co.WINDOW_OPEN ∧ CoreFrame c (kickKeys c) s (handed s c k) := by
  unfold handed
  refine ⟨?_, State.rd_wr_same .., ?_, ((CoreFrame.refl _ _ s).setSite _).wr (keysOf_mem (by decide))⟩
  · rw [State.site_wr, State.site_setSite_same]
  · exact rd_wr_apart _ _ _ _ _ (by decide)

/-- A KICK's own effect, where its half-line is clean. -/
theorem kickEffect_kicked {v : State} {mv pc : Nat}
    (hpm : memPoison v.mem (spAddr c.site c.n (mvBank mv) (mvLine mv) + 64 * bits mv 20 1) 8 = 0) (hc : coreOk c = true)
    (hplain : isShadow v c.site = false) :
    let wb := memRead v.mem (spAddr c.site c.n (mvBank mv) (mvLine mv) + 64 * bits mv 20 1) 64
    let opens := bits wb 12 4 = 2 ∧ bits wb 24 3 = c.n ∧ (v.core c).window = none
    Kicked v c (kickOf v c (bits mv 21 2) wb pc) opens t (kickEffect v c mv t pc) := by
  intro wb opens
  have heq := kickEffect_clean (t := t) (pc := pc) hpm hc hplain
  dsimp only at heq
  rw [heq]
  have htouch : Touches (keysOf (coreP c) spFields) v (v.noteSp c (mvBank mv) (mvLine mv) (8 * bits mv 20 1) 8) :=
    noteSp_touches (List.Subset.refl _) _ _ _ _
  have hmem := noteSp_mem v c (mvBank mv) (mvLine mv) (8 * bits mv 20 1) 8
  clear heq
  generalize v.noteSp c (mvBank mv) (mvLine mv) (8 * bits mv 20 1) 8 = w at *
  have hrd : ∀ f, (∀ g ∈ spFields, g.ix = f.ix ∧ g.off * 32 + g.lsb ≠ f.off * 32 + f.lsb) → w.rd (coreP c) f = v.rd (coreP c) f :=
    fun f hf => htouch.regs.rd _ _ (fldKey_not_mem hf)
  generalize hk : kickOf v c (bits mv 21 2) wb pc = k
  have hpump : bits mv 21 2 = k.pump := by rw [← hk]; rfl
  have hwb : wb = k.wb := by rw [← hk]; rfl
  obtain ⟨hkicks, hout, hopen, hframe⟩ := handed_shows w c k
  rw [htouch.site] at hkicks
  rw [hrd _ (by decide)] at hout hopen
  have hcore : (handed w c k).core c = v.core c := htouch.core c
  have hall : CoreFrame c (kickKeys c) v (handed w c k) :=
    ((htouch.mono (keysOf_subset (List.subset_append_left _ _))).frame).trans hframe
  have hmemk : (handed w c k).mem = v.mem := hmem
  by_cases h : opens
  · obtain ⟨hi, e⟩ := kickWindow_opens (w := handed w c k) (pump := bits mv 21 2) (by rw [hcore]; exact h) t
    have e' : kickWindow (handed w c k) c wb (bits mv 21 2) t = _ := e
    rw [e']
    refine ⟨?_, ?_, ?_, ?_, (hall.setCore _).wr (keysOf_mem (by decide))⟩
    · rw [State.site_wr, State.site_setCore]
      exact hkicks
    · rw [rd_wr_apart _ _ _ _ _ (by decide), State.rd_setCore]
      exact hout
    · rw [if_pos h, State.core_wr, State.core_setCore_same, State.rd_wr_same, ← hwb, hpump]
      exact ⟨_, rfl, rfl, rfl, rfl, rfl⟩
    · rw [State.wr_mem, State.setCore_mem]
      exact hmemk
  · have e : kickWindow (handed w c k) c wb (bits mv 21 2) t = handed w c k := kickWindow_other (by rw [hcore]; exact h) t
    rw [e]
    exact ⟨hkicks, hout, by rw [if_neg h, hcore]; exact ⟨rfl, hopen⟩, hmemk, hall⟩

theorem kickAddr_fields (a : MvArgs) (c : CoreId) :
    spAddr c.site c.n (mvBank (mvOf 8 a)) (mvLine (mvOf 8 a)) + 64 * bits (mvOf 8 a) 20 1 = kickAddr c a := by
  obtain ⟨_, _, hbank, hline⟩ := mvOf_fields a (op := 8) (by decide)
  rw [hbank, hline, show (20 : Nat) = 20 + 0 from rfl, mvOf_rest a (by decide)]
  rfl

end

/-- What an operation of core `c` finds once its accesses are granted: all but its site's ports and clock is as it was. -/
structure Ported (s : State) (c : CoreId) (v : State) : Prop where
  core : v.core c = s.core c
  kicks : (v.site c.site).kicks = (s.site c.site).kicks
  mem : v.mem = s.mem
  regs : v.regs = s.regs
  frame : ∀ ks, CoreFrame c ks s v

theorem atCycle_ported (s : State) (c : CoreId) (t : Nat) : Ported s c (atCycle s c.site t) := by
  refine ⟨State.core_setSite .., ?_, State.setSite_mem .., State.setSite_regs .., fun ks => atCycle_frame c ks s t⟩
  unfold atCycle
  rw [State.site_setSite_same]

theorem Ported.granted {s v : State} {c : CoreId} {as : List Access} {r : Placed} (h : Ported s c v) (g : Granted v c.site as r) :
    Ported s c r.st :=
  ⟨(g.core c).trans h.core, by rw [g.here]; exact h.kicks, g.mem.trans h.mem, (congrArg State.regs g.same :).trans h.regs,
    fun ks => g.frame (h.frame ks)⟩

theorem Ported.rd {s v : State} {c : CoreId} (h : Ported s c v) (p : Nat) (f : Fld) : v.rd p f = s.rd p f := by
  unfold State.rd
  rw [h.regs]

theorem Ported.plain {s v : State} {c : CoreId} (h : Ported s c v) (i : Nat) : isShadow v i = isShadow s i := by
  unfold isShadow
  rw [h.rd]

/-- What an issued KICK does to the core and its site, its accesses granted. -/
theorem kick_effect {s : State} {c : CoreId} {h : Hdr} {a : MvArgs} {t : Nat} (hq : Quiet s c t) (hi : Issues s c (mvBundle h 8 a) t)
    (hpm : memPoison s.mem (kickAddr c a) 8 = 0) (pc : Nat) :
    let wb := memRead s.mem (kickAddr c a) 64
    ∃ v, Ported s c v ∧ Kicked v c (kickOf v c (bits a.rest.toNat 1 2) wb pc) (bits wb 12 4 = 2 ∧ bits wb 24 3 = c.n ∧ (v.core c).window = none) t
      (mvEffect (placeAll (atCycle s c.site t) c.site t []).st c (mvOf 8 a) t pc) := by
  obtain ⟨_, hop, _, _⟩ := mvOf_fields a (op := 8) (by decide)
  have hport := (atCycle_ported s c t).granted (granted_none hq)
  have hquiet := granted_quiet hq
  generalize (placeAll (atCycle s c.site t) c.site t []).st = v0 at *
  have hg := placeAll_quiet hquiet (mvAcc_own v0 c (mvOf 8 a) t pc)
  have hv := hport.granted hg
  have heff : mvEffect v0 c (mvOf 8 a) t pc = kickEffect (placeAll v0 c.site t (mvAcc v0 c (mvOf 8 a) t pc)).st c (mvOf 8 a) t pc := by
    unfold mvEffect
    rw [if_pos hop, if_pos hg.lost]
  have hk := kickEffect_kicked (pc := pc) (t := t) (by rw [kickAddr_fields, hv.mem]; exact hpm) hi.core ((hv.plain _).trans hi.plain)
  dsimp only at hk
  rw [kickAddr_fields, hv.mem, show (21 : Nat) = 20 + 1 from rfl, mvOf_rest a (by decide)] at hk
  rw [heff]
  exact ⟨_, hv, hk⟩

/-- Settles O21: the bundle's accesses are granted, so the KICK's own effect stands (`kickEffect_kicked`). -/
theorem kicksReachTheirPump : Obligations.KicksReachTheirPump := by
  unfold Obligations.KicksReachTheirPump
  intro s c h a t _ hq hi hpm wb pump opens
  obtain ⟨u, hexec, hleft⟩ := mvRow_issued hi (by decide) (by decide)
  obtain ⟨v, hv, hk⟩ := kick_effect hq hi hpm (s.core c).nextPc
  generalize mvEffect (placeAll (atCycle s c.site t) c.site t []).st c (mvOf 8 a) t (s.core c).nextPc = w at *
  unfold kickOf at hk
  rw [hv.core] at hk
  obtain ⟨hkicks, hout, hwindow, hmem, hframe⟩ := hk
  have hrd : ∀ f, (∀ g ∈ seqFields, g.ix = f.ix ∧ g.off * 32 + g.lsb ≠ f.off * 32 + f.lsb) → u.rd (coreP c) f = w.rd (coreP c) f :=
    fun f hf => hleft.frame.regs.rd _ _ (fldKey_not_mem hf)
  refine ⟨u, hexec, ?_, ?_, ?_, ?_, ?_⟩
  · rw [hleft.kicks, hkicks, hv.kicks]
  · rw [hrd _ (by decide), hout, hv.rd]
  · rw [hv.core, hv.rd] at hwindow
    rw [hleft.window, hrd _ (by decide)]
    exact hwindow
  · exact hleft.mem.trans (hmem.trans hv.mem)
  · rw [List.append_assoc, keysOf_append]
    exact ((hv.frame _).trans (hframe.mono (List.subset_append_right ..))).trans (hleft.frame.mono (List.subset_append_left ..))

end Sys2Proof.Machine
end

section
/-! PROOFS. Moves (R158, R159, R207, R208, R215): the lines of a run, one after the other. -/

namespace Sys2Proof.Machine

/-! ### Places of lines -/

section
variable (c : CoreId) (op : Mv) (a : MvArgs)

theorem mvCode_lt : mvCode op < 256 := by cases op <;> decide

theorem mvCode_ne_zero : mvCode op ≠ 0 := by cases op <;> decide

theorem mvCode_ne_kick : mvCode op ≠ 8 := by cases op <;> decide

theorem mvCount_le : mvCount op a ≤ 64 := by
  cases op <;> simp only [mvCount, bits] <;> omega

theorem mvC_mvOf : mvC (mvOf (mvCode op) a) = mvCount op a := by
  have hop := (mvOf_fields a (mvCode_lt op)).2.1
  have hrest := mvOf_rest a (mvCode_lt op)
  unfold mvC
  rw [hop]
  cases op
  · exact congrArg (· + 1) (hrest 12 6)
  · exact congrArg (· + 1) (hrest 19 6)
  · exact congrArg (· + 1) (hrest 19 6)
  · exact congrArg (· + 1) (hrest 15 6)
  · exact congrArg (· + 1) (hrest 15 6)
  · exact congrArg (· + 1) (hrest 29 4)
  · exact congrArg (· + 1) (hrest 29 4)

theorem mvOwn_mod (i : Nat) : mvOwn c a i % 8 = 0 := spAddr_mod ..

theorem mvOther_mod (i : Nat) : mvOther c op a i % 8 = 0 := by
  cases op <;> simp only [mvOther, spAddr, cisAddr, wellAddr, cisBase, coreBase, siteBase] <;> omega

theorem mvTo_mod (i : Nat) : mvTo c op a i % 8 = 0 := by
  unfold mvTo
  split
  case h_4 => exact mvOther_mod c op a i
  all_goals exact mvOwn_mod c a i

theorem mvFrom_mod (i : Nat) : mvFrom c op a i % 8 = 0 := by
  unfold mvFrom
  split
  case h_4 => exact mvOwn_mod c a i
  all_goals exact mvOther_mod c _ a i

theorem mvFrom_own (h : op = .cp ∨ op = .cw ∨ op = .xw ∨ op = .ww) (i : Nat) : mvFrom c op a i = mvOwn c a i := by
  rcases h with rfl | rfl | rfl | rfl <;> rfl

/-- The lines that a run writes follow each other. -/
theorem mvTo_next {i j : Nat} (h : j < i) : mvTo c op a j + 128 ≤ mvTo c op a i := by
  cases op <;> simp only [mvTo, mvOwn, mvOther, spAddr, cisAddr, wellAddr] <;> omega

/-- R158: the two ends of a move lie in different memories, but for an MVCP's. -/
theorem mvOwn_apart (hn : c.n < 8) (hcp : op ≠ .cp) (hx : op = .xr ∨ op = .xw → bits a.rest.toNat 0 3 ≠ c.n) {i j : Nat} (hi : i < 64)
    (hj : j < 64) : mvOwn c a i + 128 ≤ mvOther c op a j ∨ mvOther c op a j + 128 ≤ mvOwn c a i := by
  have := a.bank.isLt; have := a.line.isLt
  have h0 : bits a.rest.toNat 0 3 < 8 := Nat.mod_lt _ (by norm_num)
  have h1 : bits a.rest.toNat 3 5 < 32 := Nat.mod_lt _ (by norm_num)
  have h2 : bits a.rest.toNat 8 7 < 128 := Nat.mod_lt _ (by norm_num)
  have h3 : bits a.rest.toNat 4 15 < 32768 := Nat.mod_lt _ (by norm_num)
  have h4 : bits a.rest.toNat 0 4 < 16 := Nat.mod_lt _ (by norm_num)
  have h5 : bits a.rest.toNat 0 29 < 536870912 := Nat.mod_lt _ (by norm_num)
  cases op
  case cp => exact absurd rfl hcp
  case xr | xw =>
    have := hx (by decide)
    simp only [mvOwn, mvOther, spAddr, coreBase]
    omega
  all_goals
    simp only [mvOwn, mvOther, spAddr, cisAddr, wellAddr, coreBase, cisBase]
    omega

theorem mvFrom_apart (hn : c.n < 8) (hcp : op ≠ .cp) (hx : op = .xr ∨ op = .xw → bits a.rest.toNat 0 3 ≠ c.n) {i j : Nat} (hi : i < 64)
    (hj : j < 64) : mvFrom c op a i + 128 ≤ mvTo c op a j ∨ mvTo c op a j + 128 ≤ mvFrom c op a i := by
  cases op
  case cp => exact absurd rfl hcp
  case cr => exact (mvOwn_apart c .cr a hn hcp hx hj hi).symm
  case xr => exact (mvOwn_apart c .xr a hn hcp hx hj hi).symm
  case wr => exact (mvOwn_apart c .wr a hn hcp hx hj hi).symm
  case cw => exact mvOwn_apart c .cw a hn hcp hx hi hj
  case xw => exact mvOwn_apart c .xw a hn hcp hx hi hj
  case ww => exact mvOwn_apart c .ww a hn hcp hx hi hj

end

/-! ### What a line's move notes -/

section
variable {c : CoreId} {op : Mv} {a : MvArgs} {s t : State}

/-- The fields that a move may write lie in the pages of a core, the cistern and the well of its site. -/
theorem mvKeys_page (hn : c.n < 8) {k : Nat} (h : k ∈ mvKeys c op a) :
    ∃ o f, o < 0x17 ∧ Paged f ∧ k = fldKey (siteP c.site (0x1000 * o)) f := by
  have hpage : ∀ (o : Nat) (fs : List Fld), o < 0x17 → (∀ f ∈ fs, f.ix = false ∧ f.off * 32 + f.lsb < 0x20000) →
      k ∈ keysOf (siteP c.site (0x1000 * o)) fs → ∃ o f, o < 0x17 ∧ Paged f ∧ k = fldKey (siteP c.site (0x1000 * o)) f := by
    intro o fs ho hfs hk
    obtain ⟨f, hf, rfl⟩ := List.mem_map.1 hk
    exact ⟨o, f, ho, hfs f hf, rfl⟩
  unfold mvKeys at h
  rcases List.mem_append.1 h with h | h
  · rw [coreP_eq] at h
    exact hpage _ _ (by omega) (by decide) h
  · cases op
    case cp | cw | xw => exact absurd h List.not_mem_nil
    case cr => exact hpage 0x10 _ (by decide) (by decide) h
    case xr =>
      have hx : bits a.rest.toNat 0 3 < 8 := Nat.mod_lt _ (by norm_num)
      dsimp only at h
      rw [coreP_eq] at h
      exact hpage _ _ (by dsimp only; omega) (by decide) h
    case wr | ww => exact hpage 0x11 _ (by decide) (by decide) h

theorem relKey_not_moved (hn : c.n < 8) {f : Fld} (hf : Paged f) : fldKey (relP c.site) f ∉ mvKeys c op a := by
  intro h
  obtain ⟨o, g, ho, hg, e⟩ := mvKeys_page hn h
  exact sitePageKey_ne (a := 0x17) hf hg (by decide) (by omega) (Or.inr (Or.inl (by omega))) e

theorem indexedKey_not_moved (hc : coreOk c = true) {p : Nat} {f : Fld} (hf : f.ix = true) : fldKey p f ∉ mvKeys c op a := by
  intro h
  obtain ⟨o, g, ho, hg, e⟩ := mvKeys_page (coreOk_n hc) h
  have hsite : c.site < 256 ∧ c.n < 8 := by simpa [coreOk] using hc
  exact sitePageKey_not_panel hg (by omega) (by omega) (e ▸ panelKey_ix hf)

/-- What a step within a move's fields leaves that later steps ask for. -/
theorem Touches.moved_shadow (h : Touches (mvKeys c op a) s t) (hc : coreOk c = true) : isShadow t c.site = isShadow s c.site := by
  unfold isShadow
  rw [h.regs.rd _ _ (relKey_not_moved (coreOk_n hc) ⟨rfl, by decide⟩)]

theorem Touches.moved_egress (h : Touches (mvKeys c op a) s t) (hc : coreOk c = true) : egressStops t c = egressStops s c := by
  unfold egressStops
  rw [h.regs.rd _ _ (relKey_not_moved (coreOk_n hc) ⟨rfl, by decide⟩)]

theorem Touches.moved_landing (h : Touches (mvKeys c op a) s t) (hc : coreOk c = true) (w : Nat) : inLanding t c.site w = inLanding s c.site w := by
  have hrd : ∀ f : Fld, f.ix = true → t.rd (wellP c.site) f = s.rd (wellP c.site) f := fun f hf => h.regs.rd _ _ (indexedKey_not_moved hc hf)
  unfold inLanding
  simp only [hrd (Reg.We.LAND_STATE _) rfl, hrd (Reg.We.LAND_START _) rfl, hrd (Reg.We.LAND_END _) rfl]

theorem noteCis_touches {ks : List Nat} {i : Nat} (hk : keysOf (cisP i) cisFields ⊆ ks) (s : State) (sl l : Nat) : Touches ks s (noteCis s i sl l) := by
  have hf : ∀ f ∈ cisFields, fldKey (cisP i) f ∈ ks := fun f hf => hk (keysOf_mem hf)
  unfold noteCis
  extract_lets d ce ue p s1
  have h1 : Touches ks s s1 := Touches.ite (Touches.refl _ s) ((Touches.refl _ s).note (hf _ (by decide)) (hf _ (by decide)))
  exact Touches.ite h1 ((((h1.note (hf _ (by decide)) (hf _ (by decide))).wr (hf _ (by decide))).wr (hf _ (by decide))).wr (hf _ (by decide)))

theorem noteWell_touches {ks : List Nat} {i : Nat} (hk : keysOf (wellP i) wellFields ⊆ ks) (s : State) (w : Nat) : Touches ks s (noteWell s i w) := by
  have hf : ∀ f ∈ wellFields, fldKey (wellP i) f ∈ ks := fun f hf => hk (keysOf_mem hf)
  unfold noteWell
  extract_lets d ce ue halves p s1
  have h1 : Touches ks s s1 := Touches.ite (Touches.refl _ s) ((Touches.refl _ s).note (hf _ (by decide)) (hf _ (by decide)))
  exact Touches.ite h1 (((h1.note (hf _ (by decide)) (hf _ (by decide))).wr (hf _ (by decide))).wr (hf _ (by decide)))

theorem noteLanding_touches {ks : List Nat} {i : Nat} (hk : keysOf (wellP i) wellFields ⊆ ks) (s : State) (hit : Bool) :
    Touches ks s (noteLanding s i hit) := by
  have hf : ∀ f ∈ wellFields, fldKey (wellP i) f ∈ ks := fun f hf => hk (keysOf_mem hf)
  have h1 : Touches ks s (s.setBit (wellP i) Reg.We.LANDING) := (Touches.refl _ s).setBit (hf _ (by decide))
  exact Touches.ite (h1.bump (hf _ (by decide))) h1

/-! ### One line, where nothing stops it -/

/-- What reading line `i` notes. -/
def mvNote (c : CoreId) (op : Mv) (a : MvArgs) (s : State) (i : Nat) : State :=
  let r := a.rest.toNat
  match op with
  | .cr => noteCis s c.site (bits r 0 4) (bits r 4 15 + i)
  | .xr => s.noteSp ⟨c.site, bits r 0 3⟩ (bits r 3 5) (bits r 8 7 + i) 0 16
  | .wr => if inLanding s c.site (bits r 0 29 + i) then noteLanding s c.site true else noteWell s c.site (bits r 0 29 + i)
  | _ => s.noteSp c a.bank.toNat (a.line.toNat + i) 0 16

/-- Line `i` as it arrives: an MVCP reads it in `s0`, the state in which it was issued. -/
def mvArrives (c : CoreId) (op : Mv) (a : MvArgs) (s0 s : State) (i : Nat) : Line :=
  let l := (if op = .cp then s0 else s).take (mvFrom c op a i) 16
  ⟨l.data, mvMarks s c op a i l.poison⟩

/-- Line `i` of a move that nothing stops. -/
def mvMoved (c : CoreId) (op : Mv) (a : MvArgs) (s0 s : State) (i : Nat) : State :=
  let u := (mvNote c op a s i).put (mvTo c op a i) 16 (mvArrives c op a s0 s i)
  if op = .ww ∧ inLanding u c.site (bits a.rest.toNat 0 29 + i) = true then noteLanding u c.site false else u

theorem mvKeys_core (c : CoreId) (op : Mv) (a : MvArgs) : keysOf (coreP c) (seqFields ++ spFields) ⊆ mvKeys c op a := List.subset_append_left ..

theorem mvKeys_sp (c : CoreId) (op : Mv) (a : MvArgs) : keysOf (coreP c) spFields ⊆ mvKeys c op a :=
  List.Subset.trans (keysOf_subset (List.subset_append_right ..)) (mvKeys_core c op a)

theorem mvKeys_well (c : CoreId) (a : MvArgs) (h : op = .wr ∨ op = .ww) : keysOf (wellP c.site) wellFields ⊆ mvKeys c op a := by
  rcases h with rfl | rfl <;> exact List.subset_append_right ..

theorem mvNote_touches (c : CoreId) (op : Mv) (a : MvArgs) (s : State) (i : Nat) : Touches (mvKeys c op a) s (mvNote c op a s i) := by
  cases op
  case cr => exact noteCis_touches (List.subset_append_right ..) _ _ _
  case xr => exact noteSp_touches (c := ⟨c.site, bits a.rest.toNat 0 3⟩) (List.subset_append_right ..) _ _ _ _
  case wr => exact Touches.ite (noteLanding_touches (mvKeys_well c a (Or.inl rfl)) _ _) (noteWell_touches (mvKeys_well c a (Or.inl rfl)) _ _)
  case cp | cw | xw | ww => exact noteSp_touches (mvKeys_sp ..) _ _ _ _

theorem mvNote_mem (c : CoreId) (op : Mv) (a : MvArgs) (s : State) (i : Nat) : (mvNote c op a s i).mem = s.mem := by
  cases op
  case cr => exact (noteCis_memIs _ _ _ _ (MemIs.refl s)).mem
  case wr => exact (MemIs.ite (noteLanding_memIs _ _ _ (MemIs.refl s)) (noteWell_memIs _ _ _ (MemIs.refl s))).mem
  case xr | cp | cw | xw | ww => exact noteSp_mem ..

theorem mvMoved_touches (c : CoreId) (op : Mv) (a : MvArgs) (s0 s : State) (i : Nat) : Touches (mvKeys c op a) s (mvMoved c op a s0 s i) := by
  have hput := (mvNote_touches c op a s i).put (mvTo c op a i) 16 (mvArrives c op a s0 s i)
  unfold mvMoved
  dsimp only
  split
  next h => exact hput.trans (noteLanding_touches (mvKeys_well c a (Or.inr h.1)) _ _)
  next => exact hput

theorem mvMoved_mem (c : CoreId) (op : Mv) (a : MvArgs) (s0 s : State) (i : Nat) : (mvMoved c op a s0 s i).mem =
    memWrite s.mem (mvTo c op a i) 16 (mvArrives c op a s0 s i).data (mvArrives c op a s0 s i).poison := by
  rw [← mvNote_mem c op a s i]
  unfold mvMoved
  exact (MemIs.ite (noteLanding_memIs _ _ _ (MemIs.refl _)) (MemIs.refl _)).mem

/-- R316, R317: line `i` of a move out of the core does not trap. -/
def linePasses (s : State) (c : CoreId) (op : Mv) (a : MvArgs) (i : Nat) : Prop :=
  op = .cp ∨ op = .cr ∨ op = .xr ∨ op = .wr ∨ egressStops s c = false ∨ memPoison s.mem (mvOwn c a i) 16 = 0

theorem egress_quiet {u : State} {pm : Nat} {x : State} (h : pm = 0 ∨ egressStops u c = false) :
    (if (decide (pm ≠ 0) && egressStops u c) = true then x else u) = u := by
  rcases h with h | h <;> simp [h]

theorem mvMoved_of_ne (h : op ≠ .ww) (s0 : State) (i : Nat) :
    mvMoved c op a s0 s i = (mvNote c op a s i).put (mvTo c op a i) 16 (mvArrives c op a s0 s i) := if_neg (fun hw => h hw.1)

theorem linePasses.egress {i : Nat} (h : linePasses s c op a i) (hop : op = .cw ∨ op = .xw ∨ op = .ww) (ht : Touches (mvKeys c op a) s t)
    (hc : coreOk c = true) : memPoison s.mem (mvOwn c a i) 16 = 0 ∨ egressStops t c = false := by
  rw [ht.moved_egress hc]
  rcases h with h | h | h | h | h | h
  iterate 4 exact absurd hop (by rw [h]; decide)
  · exact Or.inr h
  · exact Or.inl h

/-- R159, R207, R208, R215: a line that nothing stops, at a site that is no shadow and has none. -/
theorem mvLineEffect_moved (hc : coreOk c = true) (hplain : isShadow s c.site = false) (hmir : 256 ≤ (s.site c.site).mirTo) {i : Nat}
    (hpass : linePasses s c op a i) (s0 : State) (t pc : Nat) :
    mvLineEffect c (mvOf (mvCode op) a) t pc s0 s i = mvMoved c op a s0 s i := by
  obtain ⟨_, hop, hbank, hline⟩ := mvOf_fields a (mvCode_lt op)
  have hrest := mvOf_rest a (mvCode_lt op)
  have hput := (mvNote_touches c op a s i).put (mvTo c op a i) 16 (mvArrives c op a s0 s i)
  unfold mvLineEffect
  rw [hop, hbank, hline]
  cases op
  case cp =>
    have h0 : bits (mvOf 1 a) 20 5 = _ := hrest 0 5
    have h1 : bits (mvOf 1 a) 25 7 = _ := hrest 5 7
    dsimp only [mvCode]
    rw [mvMoved_of_ne (by decide), h0, h1]
    rfl
  case cr =>
    have h0 : bits (mvOf 2 a) 20 4 = _ := hrest 0 4
    have h1 : bits (mvOf 2 a) 24 15 = _ := hrest 4 15
    dsimp only [mvCode]
    rw [mvMoved_of_ne (by decide), h0, h1]
    rfl
  case cw =>
    have h0 : bits (mvOf 3 a) 20 4 = _ := hrest 0 4
    have h1 : bits (mvOf 3 a) 24 15 = _ := hrest 4 15
    dsimp only [mvCode]
    rw [h0, h1, mvMoved_of_ne (by decide)]
    exact egress_quiet (hpass.egress (by decide) hput hc)
  case xr =>
    have h0 : bits (mvOf 4 a) 20 3 = _ := hrest 0 3
    have h1 : bits (mvOf 4 a) 23 5 = _ := hrest 3 5
    have h2 : bits (mvOf 4 a) 28 7 = _ := hrest 8 7
    dsimp only [mvCode]
    rw [mvMoved_of_ne (by decide), h0, h1, h2]
    rfl
  case xw =>
    have h0 : bits (mvOf 5 a) 20 3 = _ := hrest 0 3
    have h1 : bits (mvOf 5 a) 23 5 = _ := hrest 3 5
    have h2 : bits (mvOf 5 a) 28 7 = _ := hrest 8 7
    dsimp only [mvCode]
    rw [h0, h1, h2, mvMoved_of_ne (by decide)]
    exact egress_quiet (hpass.egress (by decide) hput hc)
  case wr =>
    have h0 : bits (mvOf 6 a) 20 29 = _ := hrest 0 29
    rw [mvMoved_of_ne (by decide)]
    simp only [mvCode, h0, hplain, Bool.false_eq_true, if_false]
    change mirrorPut (State.put _ _ _ (mvArrives c .wr a s0 s i)) _ _ _ _ _ _ _ = _
    exact if_pos ((congrArg Site.mirTo (hput.site c.site)).symm ▸ hmir)
  case ww =>
    have h0 : bits (mvOf 7 a) 20 29 = _ := hrest 0 29
    have hshadow : isShadow (s.noteSp c a.bank.toNat (a.line.toNat + i) 0 16) c.site = false :=
      ((mvNote_touches c .ww a s i).moved_shadow hc).trans hplain
    simp only [mvCode, h0, hshadow, Bool.false_eq_true, if_false]
    refine (egress_quiet (hpass.egress (by decide) ?_ hc)).trans ?_
    · exact Touches.ite (hput.trans (noteLanding_touches (mvKeys_well c a (Or.inr rfl)) _ _)) hput
    · unfold mvMoved
      rw [if_congr (and_iff_right rfl) rfl rfl]
      rfl

/-! ### The run -/

/-- What nothing stops at any line of the run: `mvPasses`, line by line. -/
theorem linePasses_of (h : mvPasses s c op a) {i : Nat} (hi : i < mvCount op a) : linePasses s c op a i := by
  unfold mvPasses at h
  unfold linePasses
  exact h.imp_right (Or.imp_right (Or.imp_right (Or.imp_right (Or.imp_right (fun hp => hp i hi)))))

theorem mvRun_touches (c : CoreId) (op : Mv) (a : MvArgs) (s : State) (n : Nat) : Touches (mvKeys c op a) s (upTo n (mvMoved c op a s) s) :=
  Touches.upTo (fun _ i ht => ht.trans (mvMoved_touches c op a s _ i)) (Touches.refl _ s)

/-- The words beside the lines that a run has written. -/
def besideRun (c : CoreId) (op : Mv) (a : MvArgs) (i k : Nat) : Prop := ∀ j < i, ¬ inBlock (mvTo c op a j) 16 k

theorem mvFrom_beside (hn : c.n < 8) (hcp : op ≠ .cp) (hx : op = .xr ∨ op = .xw → bits a.rest.toNat 0 3 ≠ c.n) {i : Nat} (hi : i < 64) {k : Nat}
    (hk : inBlock (mvFrom c op a i) 16 k) : besideRun c op a i k := by
  intro j hj
  have hapart := mvFrom_apart c op a hn hcp hx hi (show j < 64 by omega)
  have := mvTo_mod c op a j; have := mvFrom_mod c op a i
  unfold inBlock at hk ⊢
  omega

/-- The lines before it leave line `i` as it was: it arrives as it stood when the run was issued. -/
theorem mvArrives_same (hc : coreOk c = true) (hx : op = .xr ∨ op = .xw → bits a.rest.toNat 0 3 ≠ c.n) {i : Nat} (hi : i < 64)
    (ht : Touches (mvKeys c op a) s t) (hw : SameWords (besideRun c op a i) s.mem t.mem) :
    mvArrives c op a s t i = mvArrives c op a s s i := by
  have hmarks : ∀ m, mvMarks t c op a i m = mvMarks s c op a i m := by
    intro m
    unfold mvMarks
    rw [ht.moved_landing hc]
  have htake : (if op = .cp then s else t).take (mvFrom c op a i) 16 = s.take (mvFrom c op a i) 16 := by
    by_cases hcp : op = .cp
    · rw [if_pos hcp]
    · rw [if_neg hcp]
      exact hw.take (mvFrom_mod c op a i) (fun k hk => mvFrom_beside (coreOk_n hc) hcp hx hi hk)
  unfold mvArrives
  dsimp only
  rw [hmarks, htake, ite_self]

theorem mvRun_writes (hc : coreOk c = true) (hx : op = .xr ∨ op = .xw → bits a.rest.toNat 0 3 ≠ c.n) (hm : Memory.wf s.mem = true) {n : Nat}
    (hn : n ≤ 64) : SameWords (besideRun c op a n) s.mem (upTo n (mvMoved c op a s) s).mem ∧
      ∀ i < n, Holds (upTo n (mvMoved c op a s) s).mem (mvTo c op a i) 16 (mvArrives c op a s s i) :=
  upTo_writes State.mem hm n (fun i _ => mvTo_mod c op a i) (fun i _ j hj => Or.inl (mvTo_next c op a hj)) (fun i hi hw => by
    rw [mvMoved_mem, mvArrives_same hc hx (by omega) (mvRun_touches c op a s i) hw])

theorem linePasses_same (hc : coreOk c = true) (hx : op = .xr ∨ op = .xw → bits a.rest.toNat 0 3 ≠ c.n) {i : Nat} (hi : i < 64)
    (ht : Touches (mvKeys c op a) s t) (hw : SameWords (besideRun c op a i) s.mem t.mem) (h : linePasses s c op a i) : linePasses t c op a i := by
  have hpoison : op ≠ .cp → memPoison t.mem (mvFrom c op a i) 16 = memPoison s.mem (mvFrom c op a i) 16 := fun hcp =>
    hw.readPoison (fun k hk => mvFrom_beside (coreOk_n hc) hcp hx hi hk)
  unfold linePasses at h ⊢
  rw [ht.moved_egress hc]
  cases op
  case cp | cr | xr | wr => simp
  case cw | xw | ww =>
    rw [mvFrom_own c _ a (by decide)] at hpoison
    rwa [hpoison (by decide)]

/-- Every line of a run that nothing stops is a line that nothing stops: what the lines before it write is not what it reads. -/
theorem mvRun_eq (hc : coreOk c = true) (hx : op = .xr ∨ op = .xw → bits a.rest.toNat 0 3 ≠ c.n) (hm : Memory.wf s.mem = true)
    (hplain : isShadow s c.site = false) (hmir : 256 ≤ (s.site c.site).mirTo) (t pc : Nat) {n : Nat} (hn : n ≤ 64)
    (hp : ∀ i < n, linePasses s c op a i) :
    upTo n (mvLineEffect c (mvOf (mvCode op) a) t pc s) s = upTo n (mvMoved c op a s) s := by
  induction n with
  | zero => simp only [upTo, List.range_zero, List.foldl_nil]
  | succ n ih =>
    have ht := mvRun_touches c op a s n
    have hw := (mvRun_writes hc hx hm (by omega : n ≤ 64)).1
    rw [upTo_succ, upTo_succ, ih (by omega) (fun i hi => hp i (by omega))]
    exact mvLineEffect_moved hc ((ht.moved_shadow hc).trans hplain) (by rw [ht.site]; exact hmir)
      (linePasses_same hc hx (by omega) ht hw (hp n (Nat.lt_succ_self n))) s t pc

theorem mvMarks_lt {i m : Nat} (hm : m < 2 ^ 16) : mvMarks s c op a i m < 2 ^ 16 := by
  have hhalf : halfPoison m < 2 ^ 16 := by
    unfold halfPoison
    split <;> split <;> omega
  cases op
  case wr =>
    dsimp only [mvMarks]
    split
    · decide
    · exact hhalf
  case ww => exact hhalf
  case cp | cr | cw | xr | xw => exact hm

/-- What a run of `n` lines, issued in `s`, has left. -/
structure RunMoved (s : State) (c : CoreId) (op : Mv) (a : MvArgs) (n : Nat) (u : State) : Prop where
  touches : Touches (mvKeys c op a) s u
  line : ∀ i < n, u.take (mvTo c op a i) 16 = ⟨(s.take (mvFrom c op a i) 16).data, mvMarks s c op a i (s.take (mvFrom c op a i) 16).poison⟩
  beside : ∀ x, (∀ i < n, besideMem (mvTo c op a i) 128 x) → memByte u.mem x = memByte s.mem x

theorem mvRun_moved (hc : coreOk c = true) (hx : op = .xr ∨ op = .xw → bits a.rest.toNat 0 3 ≠ c.n) (hm : Memory.wf s.mem = true) {n : Nat}
    (hn : n ≤ 64) : RunMoved s c op a n (upTo n (mvMoved c op a s) s) := by
  obtain ⟨hw, hold⟩ := mvRun_writes hc hx hm hn
  refine ⟨mvRun_touches c op a s n, fun i hi => ?_, fun x hb => hw.byte x (fun j hj hin => ?_)⟩
  · have hlt := take_lt s (mvFrom c op a i) 16 hm
    have harr : mvArrives c op a s s i = ⟨(s.take (mvFrom c op a i) 16).data, mvMarks s c op a i (s.take (mvFrom c op a i) 16).poison⟩ := by
      unfold mvArrives
      rw [ite_self]
    have h := hold i hi
    rw [harr] at h
    unfold State.take
    rw [h.read hw.wf rfl hlt.1, h.readPoison hw.wf (mvMarks_lt hlt.2)]
    rfl
  · have hbj := hb j hj
    have := mvTo_mod c op a j
    unfold besideMem at hbj
    unfold inBlock at hin
    omega

end

/-! ### A move's bundle -/

section
variable {s : State} {c : CoreId} {h : Hdr} {op : Mv} {a : MvArgs} {t : Nat}

theorem codeBad_nil {b : Bool} {sl l w : Nat} (h : codeBad b sl l w = []) : b = false := by
  unfold codeBad at h
  split at h
  · exact absurd h (List.cons_ne_nil _ _)
  · next hb => exact Bool.eq_false_iff.2 hb

/-- Nothing is refused only where the first findings are none. -/
theorem ite_ne_nil {α : Type} {p q : List α} (h : (if p ≠ [] then p else q) = []) : p = [] := by
  by_contra hp
  exact hp ((if_pos hp).symm.trans h)

/-- R158: a move between cores names another core. -/
theorem mvBad_other {v : State} {mv : Nat} (h0 : mv ≠ 0) (hop : bits mv 0 8 = 4 ∨ bits mv 0 8 = 5) (hbad : mvBad v c mv t = []) :
    bits mv 20 3 ≠ c.n := by
  unfold mvBad at hbad
  dsimp only at hbad
  rw [if_neg h0, if_neg (by omega), if_neg (by omega)] at hbad
  have hrsv := (append_nil (append_nil (append_nil (ite_ne_nil hbad)).1).1).2
  rcases hop with hop | hop
  all_goals
    rw [hop] at hrsv
    simpa using codeBad_nil (append_nil (append_nil hrsv).1).1

theorem mv_other (hi : Issues s c (mvBundle h (mvCode op) a) t) (hop : op = .xr ∨ op = .xw) : bits a.rest.toNat 0 3 ≠ c.n := by
  have hcode := (mvOf_fields a (mvCode_lt op)).2.1
  have hmv := hi.mv
  rw [(mvBundle_slots a (mvCode_lt op) h).2.2.1] at hmv
  have hne := mvBad_other (mvOf_ne_zero a (mvCode_lt op) (mvCode_ne_zero op)) (by rw [hcode]; rcases hop with rfl | rfl <;> decide) hmv
  rwa [show bits (mvOf (mvCode op) a) 20 3 = bits a.rest.toNat 0 3 from mvOf_rest a (mvCode_lt op) 0 3] at hne

theorem Ported.refl (s : State) (c : CoreId) : Ported s c s := ⟨rfl, rfl, rfl, rfl, fun ks => CoreFrame.refl c ks s⟩

theorem Ported.marks {v : State} (hv : Ported s c v) (i m : Nat) : mvMarks v c op a i m = mvMarks s c op a i m := by
  unfold mvMarks inLanding
  simp only [hv.rd]

theorem Ported.passes {v : State} (hv : Ported s c v) (hp : mvPasses s c op a) : mvPasses v c op a := by
  unfold mvPasses egressStops at *
  rwa [hv.rd, hv.mem]

theorem Ported.take {v : State} (hv : Ported s c v) (x n : Nat) : v.take x n = s.take x n := by
  unfold State.take
  rw [hv.mem]

/-- R157: what a move that is issued in `v` leaves, its accesses granted. -/
theorem mvEffect_moved {v : State} (hq : Quiet v c t) (hx : op = .xr ∨ op = .xw → bits a.rest.toNat 0 3 ≠ c.n) (hc : coreOk c = true)
    (hm : Memory.wf v.mem = true) (hplain : isShadow v c.site = false) (hmir : 256 ≤ (v.site c.site).mirTo) (hp : mvPasses v c op a) (pc : Nat) :
    ∃ u, RunMoved v c op a (mvCount op a) u ∧ Ported u c (mvEffect v c (mvOf (mvCode op) a) t pc) := by
  have hcode := (mvOf_fields a (mvCode_lt op)).2.1
  have hrun : RunMoved v c op a (mvCount op a) (upTo (mvCount op a) (mvMoved c op a v) v) := mvRun_moved hc hx hm (mvCount_le op a)
  refine ⟨_, hrun, ?_⟩
  unfold mvEffect
  dsimp only
  rw [hcode, if_neg (mvCode_ne_kick op), if_neg (mvCode_ne_zero op), mvC_mvOf,
    mvRun_eq hc hx hm hplain hmir t pc (mvCount_le op a) (fun i hi => linePasses_of hp hi)]
  generalize upTo (mvCount op a) (mvMoved c op a v) v = u at *
  have hquiet : Quiet u c t := fun o ho => hq o (by rwa [hrun.touches.site] at ho)
  exact (Ported.refl u c).granted (placeAll_quiet hquiet (mvAcc_own v c _ t pc))

theorem exec_mv (s : State) (c : CoreId) (h : Hdr) (op : Mv) (a : MvArgs) : exec (mvInstr op c h a) s = mvRow c h (mvCode op) a s := by
  cases op <;> rfl

theorem mvKeys_seq (c : CoreId) (op : Mv) (a : MvArgs) : keysOf (coreP c) seqFields ⊆ mvKeys c op a :=
  List.Subset.trans (keysOf_subset (List.subset_append_left ..)) (mvKeys_core c op a)

/-- Settles O20: the lines of the run move one after the other (`mvRun_moved`), and the bundle's accesses are granted. -/
theorem movesCopyLines : Obligations.MovesCopyLines := by
  unfold Obligations.MovesCopyLines
  intro op s c h a t hm hq hi hp hmir
  obtain ⟨u, hexec, hleft⟩ := mvRow_issued hi (mvCode_lt op) (mvCode_ne_zero op)
  have hv := (atCycle_ported s c t).granted (granted_none hq)
  have hquiet := granted_quiet hq
  have hsite : ((placeAll (atCycle s c.site t) c.site t []).st.site c.site).mirTo = (s.site c.site).mirTo := by
    rw [(granted_none hq).here]
    unfold atCycle
    rw [State.site_setSite_same]
  generalize (placeAll (atCycle s c.site t) c.site t []).st = v at *
  obtain ⟨w, hrun, hport⟩ := mvEffect_moved hquiet (mv_other hi) hi.core (hv.mem ▸ hm) ((hv.plain _).trans hi.plain) (hsite ▸ hmir) (hv.passes hp)
    (s.core c).nextPc
  have hmem : u.mem = w.mem := hleft.mem.trans hport.mem
  refine ⟨u, (exec_mv s c h op a).trans hexec, fun i hin => ?_, fun x hx => ?_, ?_⟩
  · have hline := hrun.line i hin
    rw [hv.marks, hv.take] at hline
    rw [take_mem hmem, hline]
    exact ⟨rfl, rfl⟩
  · rw [hmem, hrun.beside x hx, hv.mem]
  · exact ((hv.frame _).trans hrun.touches.frame).trans ((hport.frame _).trans (hleft.frame.mono (mvKeys_seq c op a)))

end

end Sys2Proof.Machine
end

section
/-! PROOFS. Operations and the sequencers (R147, R149): no effect of a bundle's operations moves a sequencer. -/

namespace Sys2Proof.Machine

section
variable {q s t : State}

theorem SeqKept.put (h : SeqKept q s) (a w : Nat) (l : Line) : SeqKept q (s.put a w l) := h.same

theorem SeqKept.setBit (h : SeqKept q s) (p : Nat) (f : Fld) : SeqKept q (s.setBit p f) := h.wr ..

theorem SeqKept.emit (h : SeqKept q s) (o : Out) : SeqKept q (s.emit o) := h.same

/-- The bit that an event sets, and the counter that counts it. -/
theorem SeqKept.note (h : SeqKept q s) (p : Nat) (f g : Fld) (n : Nat) : SeqKept q ((s.setBit p f).bump p g n) := (h.setBit ..).bump ..

theorem SeqKept.noteSp (h : SeqKept q s) (c : CoreId) (b l w n : Nat) : SeqKept q (s.noteSp c b l w n) :=
  h.touches (noteSp_touches (List.Subset.refl _) ..)

theorem SeqKept.noteVf (h : SeqKept q s) (c : CoreId) (o n : Nat) : SeqKept q (noteVf s c o n) := h.touches (noteVf_touches ..)

end

/-! ### The matrix array (R33 to R58) -/

section
variable (s : State) (c : CoreId)

theorem mxLoad_seqKept (x mode dq doff sq soff fine : Nat) : SeqKept s (mxLoad s c x mode dq doff sq soff fine) := by
  have hload : SeqKept s (loadTile s c x mode dq doff sq soff fine).1 := (SeqKept.refl s).touches loadTile_touches
  unfold mxLoad
  generalize loadTile s c x mode dq doff sq soff fine = r at hload
  obtain ⟨v, bad, w2t⟩ := r
  dsimp -zeta only at hload ⊢
  extract_lets p k k' s1 s2
  have hk : seqView k' = seqView (v.core c) := (apply_ite seqView ..).trans (ite_self _)
  have h1 : SeqKept s s1 := hload.setCore hk
  have h2 : SeqKept s s2 := SeqKept.ite h1 (h1.setBit ..)
  exact SeqKept.ite ((h2.setBit ..).wr ..) ((h2.setBit ..).wr ..)

theorem mulRow_seqKept (x accm amode aq aoff slot xsel xidx : Nat) (psh : Int) (arr : ArrayUpset) (r : MulRes) (i : Nat) :
    SeqKept r.st (mulRow c x accm amode aq aoff slot xsel xidx psh arr r i).st := by
  unfold mulRow
  extract_lets m p mode s0 at_ pAct pExp pScale
  have h0 : SeqKept r.st s0 := (SeqKept.refl _).touches (noteRow_touches ..)
  have hslot : SeqKept r.st (if accm = 1 then (s0, 0) else noteSlot s0 c m).1 := by
    split
    · exact h0
    · exact h0.touches (noteSlot_touches ..)
  generalize (if accm = 1 then (s0, 0) else noteSlot s0 c m) = v at hslot ⊢
  obtain ⟨v, ueg⟩ := v
  dsimp -zeta only at hslot ⊢
  extract_lets base old row poison s1 s2 s3 s4 s5 s6 s7
  have h1 : SeqKept r.st s1 := hslot.put ..
  clear_value s1 row
  have h2 : SeqKept r.st s2 := SeqKept.ite (h1.setBit ..) h1
  have h3 : SeqKept r.st s3 := SeqKept.ite h2 (h2.note ..)
  have h4 : SeqKept r.st s4 := SeqKept.ite (h3.note ..) h3
  have h5 : SeqKept r.st s5 := SeqKept.ite (h4.note ..) h4
  have h6 : SeqKept r.st s6 := SeqKept.ite h5 (h5.note ..)
  exact SeqKept.ite h6 (h6.bump ..)

theorem mxMul_seqKept (x accm amode aq aoff m slot xsel xidx : Nat) (psh : Int) (arr : ArrayUpset) (e0 : Nat) :
    SeqKept s (mxMul s c x accm amode aq aoff m slot xsel xidx psh arr e0).st := by
  have hrows : SeqKept s (upTo m (mulRow c x accm amode aq aoff slot xsel xidx psh arr) ⟨s, none⟩).st :=
    upTo_ind (P := fun _ (r : MulRes) => SeqKept s r.st) (SeqKept.refl s) m (fun i _ r hr => hr.trans (mulRow_seqKept ..))
  unfold mxMul
  extract_lets r p
  split
  · exact hrows
  · exact (((hrows.setBit ..).wr ..).wr ..).wr ..

theorem checkTrap_seqKept (mx pc e0 : Nat) (chk : Option (Nat × Nat × Nat)) : SeqKept s (checkTrap s c mx pc e0 chk) := by
  unfold checkTrap
  split
  · exact SeqKept.refl s
  · exact coreTrap_seqKept ..

theorem mxEffect_seqKept (mx t pc : Nat) (arr : ArrayUpset) : SeqKept s (mxEffect s c mx t pc arr) := by
  unfold mxEffect
  extract_lets x s1 k1 ready m e0 r k2 k3 s3 n per k4 keep s4 k5
  have h1 : SeqKept s s1 := mxLoad_seqKept ..
  have hr : SeqKept s r.st := mxMul_seqKept ..
  have h4 : SeqKept s s4 := (SeqKept.refl s).touches mxDrain_touches
  clear_value s1 r s4
  have h3 : SeqKept s s3 := hr.setCore ((apply_ite seqView ..).trans (ite_self _))
  split
  · exact h1.setCore ((apply_ite seqView ..).trans (ite_self _))
  · exact (SeqKept.refl s).touches (mxExp_touches ..)
  · exact h3.trans (checkTrap_seqKept ..)
  · exact h4.setCore (by rfl)
  · exact SeqKept.refl s

/-! ### The vector engine (R82 to R92) -/

theorem vfWrite_seqKept (o n v pm : Nat) : SeqKept s (vfWrite s c o n v pm) := (SeqKept.refl s).withMem _

theorem vfPutRun_seqKept (sz o : Nat) (es : List OutElem) : SeqKept s (vfPutRun s c sz o es) := by
  unfold vfPutRun
  extract_lets v pm s1 p infs nans pois s2 s3
  have h1 : SeqKept s s1 := vfWrite_seqKept ..
  have h2 : SeqKept s s2 := SeqKept.ite h1 (h1.note ..)
  have h3 : SeqKept s s3 := SeqKept.ite h2 (h2.note ..)
  exact SeqKept.ite h3 (h3.note ..)

theorem vxEw_seqKept (op : Ew) (ty cnt dst srca srcb imm : Nat) (sb : Bool) : SeqKept s (vxEw s c op ty cnt dst srca srcb imm sb) := by
  unfold vxEw
  extract_lets f sz n s1 s2 s3
  have h1 : SeqKept s s1 := (SeqKept.refl s).noteVf ..
  have h2 : SeqKept s s2 := SeqKept.ite (h1.noteVf ..) h1
  have h3 : SeqKept s s3 := SeqKept.ite (h2.noteVf ..) h2
  exact beats_ind (fun _ _ _ h => h.trans (vfPutRun_seqKept ..)) h3

theorem vxRd_seqKept (op : Rd) (ty cnt dst srca copies : Nat) : SeqKept s (vxRd s c op ty cnt dst srca copies) := by
  unfold vxRd
  extract_lets f s1 es pois r code s2 p s3
  have h1 : SeqKept s s1 := (SeqKept.refl s).noteVf ..
  have h2 : SeqKept s s2 := h1.trans (vfWrite_seqKept ..)
  have h3 : SeqKept s s3 := SeqKept.ite h2 (h2.note ..)
  exact SeqKept.ite (SeqKept.ite (h3.note ..) h3) (h2.note ..)

theorem vxFn_seqKept (fn : Fn) (ty cnt dst srca : Nat) : SeqKept s (vxFn s c fn ty cnt dst srca) := by
  unfold vxFn
  exact beats_ind (fun _ _ _ h => h.trans (vfPutRun_seqKept ..)) ((SeqKept.refl s).noteVf ..)

theorem convBlock_seqKept (f : Bs) (stoch nanOvf xauto : Bool) (g exp dst cnt b : Nat) (es : List SrcElem) :
    SeqKept s (convBlock s c f stoch nanOvf xauto g exp dst cnt b es).1 := by
  unfold convBlock
  exact (SeqKept.foldl (fun _ _ => vfWrite_seqKept ..) _ (SeqKept.refl s)).withMem _

theorem convBeat_seqKept (v : Conv) (e0 : Nat) (es : List SrcElem) : SeqKept s (convBeat s c v e0 es) := by
  unfold convBeat
  extract_lets p live r s1 s2 npois s3 s4 s5
  have hr : SeqKept s r.1 := by
    simp only [r]
    split
    · exact vfWrite_seqKept ..
    · exact Keeps.fold (P := fun a : State × Nat => SeqKept s a.1) (fun _ _ h => h.trans (convBlock_seqKept ..)) (SeqKept.refl s)
  have h2 : SeqKept s s2 := SeqKept.ite hr (hr.note ..)
  have h3 : SeqKept s s3 := SeqKept.ite h2 (h2.note ..)
  have h4 : SeqKept s s4 := SeqKept.ite (h3.setBit ..) h3
  have h5 : SeqKept s s5 := SeqKept.ite (h4.setBit ..) h4
  split
  · exact h5
  · exact h5.wr ..

theorem vxConvert_seqKept (src dst_ : Fmt) (cnt dst srca imm mode : Nat) : SeqKept s (vxConvert s c src dst_ cnt dst srca imm mode) := by
  unfold vxConvert
  extract_lets p s1 g v s2
  have h2 : SeqKept s s2 := beats_ind (fun _ _ _ h => h.trans (convBeat_seqKept ..)) ((SeqKept.refl s).noteVf ..)
  exact SeqKept.ite (h2.wr ..) h2

theorem statusPut_seqKept (dst n v : Nat) : SeqKept s (statusPut s c dst n v) :=
  (SeqKept.refl s).touches (statusPut_touches s c dst n v [])

theorem vxCstat_seqKept (dst : Nat) : SeqKept s (vxCstat s c dst) := by
  unfold vxCstat
  exact statusPut_seqKept ..

theorem vxData_seqKept (vx : Nat) : SeqKept s (vxData s c vx) := by
  unfold vxData
  extract_lets cnt dst a b imm ty sb
  split
  case h_1 | h_2 | h_3 | h_4 | h_5 | h_6 | h_7 | h_8 | h_9 | h_10 => exact vxEw_seqKept ..
  case h_11 | h_12 | h_13 | h_14 => exact vxRd_seqKept ..
  case h_15 | h_16 | h_17 | h_18 | h_19 | h_20 | h_21 | h_22 => exact vxFn_seqKept ..
  case h_23 => exact vxConvert_seqKept ..
  case h_24 => exact (SeqKept.refl s).wr ..
  case h_25 => exact statusPut_seqKept ..
  case h_26 => exact (statusPut_seqKept ..).wr ..
  case h_27 => exact vxCstat_seqKept ..
  case h_28 => exact (SeqKept.refl s).touches (vxLoadLines_touches ..)
  case h_29 => exact (SeqKept.refl s).touches (vxStoreLines_touches ..)
  case h_30 => exact SeqKept.refl s

theorem vxOccupy_seqKept (vx t : Nat) : SeqKept s (vxOccupy s c vx t) := by
  unfold vxOccupy
  exact SeqKept.ite (SeqKept.refl s)
    (SeqKept.ite ((SeqKept.refl s).setCore ((apply_ite seqView ..).trans (ite_self _))) ((SeqKept.refl s).setCore (by rfl)))

/-! ### Accesses (R105) -/

theorem loseTo_seqKept (site : Nat) (w l : Access) : SeqKept s (loseTo s site w l) := by
  unfold loseTo
  extract_lets s1 bank fcyc p p' s2 d0
  have h1 : SeqKept s s1 := SeqKept.ite (SeqKept.refl s) ((SeqKept.refl s).put ..)
  have h2 : SeqKept s s2 := SeqKept.ite (((((h1.setBit ..).wr ..).wr ..).wr ..).wr ..) (((((h1.setBit ..).wr ..).wr ..).wr ..).wr ..)
  exact h2.trans (coreTrap_seqKept ..)

theorem placeAcc_seqKept (site : Nat) (r : Placed) (a : Access) : SeqKept r.st (placeAcc site r a).st := by
  unfold placeAcc
  extract_lets v olds
  split
  · exact loseTo_seqKept ..
  · exact (SeqKept.foldl (fun _ _ => loseTo_seqKept ..) _ (SeqKept.refl _)).setSite (by rfl)

theorem placeAll_seqKept (site now : Nat) (as : List Access) : SeqKept s (placeAll s site now as).st := by
  unfold placeAll
  exact Keeps.fold (P := fun r : Placed => SeqKept s r.st) (fun _ _ h => h.trans (placeAcc_seqKept ..)) ((SeqKept.refl s).setSite (by rfl))

/-! ### Moves, kicks and links (R157 to R164) -/

theorem poisonTrap_seqKept (point bank line pm slot img pc cyc : Nat) : SeqKept s (poisonTrap s c point bank line pm slot img pc cyc) :=
  coreTrap_seqKept ..

theorem mirrorLine_seqKept (own : Nat) : SeqKept s (mirrorLine s c own) := by
  unfold mirrorLine
  extract_lets st mine
  split
  · exact SeqKept.refl s
  · extract_lets s1
    exact ((SeqKept.refl s).setSite (by rfl)).put ..

theorem mirrorPut_seqKept (b kind core off words data poison : Nat) : SeqKept s (mirrorPut s b kind core off words data poison) := by
  unfold mirrorPut
  extract_lets st t x v n s1
  have h1 : SeqKept s s1 := (SeqKept.refl s).setSite (by rfl)
  exact SeqKept.ite (SeqKept.refl s) (SeqKept.ite (h1.trans (shadowEnd_seqKept ..)) h1)

theorem SeqKept.egress {q u : State} (h : SeqKept q u) (p : Prop) [Decidable p] (point bank line pm slot img pc cyc : Nat) :
    SeqKept q (if p then poisonTrap u c point bank line pm slot img pc cyc else u) := SeqKept.ite (h.trans (poisonTrap_seqKept ..)) h

theorem noteLanding_seqKept (i : Nat) (hit : Bool) : SeqKept s (noteLanding s i hit) :=
  (SeqKept.refl s).touches (noteLanding_touches (List.Subset.refl _) s hit)

theorem mvLineEffect_seqKept (mv t pc : Nat) (s0 : State) (i : Nat) : SeqKept s (mvLineEffect c mv t pc s0 s i) := by
  have hread : ∀ (x : CoreId) (b l w n : Nat), SeqKept s (s.noteSp x b l w n) := fun x b l w n => (SeqKept.refl s).noteSp x b l w n
  unfold mvLineEffect
  extract_lets b l own egress l0 sl cl l1 l2 x xb xl l3 w l4 hit l5 s6 s7 s8
  have h8 : SeqKept s s8 := (hread ..).put ..
  split
  · exact (hread ..).put ..
  · exact ((SeqKept.refl s).touches (noteCis_touches (List.Subset.refl _) ..)).put ..
  · exact ((hread ..).put ..).egress ..
  · exact (hread ..).put ..
  · exact ((hread ..).put ..).egress ..
  · have h6 : SeqKept s s6 := SeqKept.put (SeqKept.ite (noteLanding_seqKept ..)
      ((SeqKept.refl s).touches (noteWell_touches (List.Subset.refl _) ..))) ..
    exact SeqKept.ite (mirrorLine_seqKept ..) (h6.trans (mirrorPut_seqKept ..))
  · exact SeqKept.ite ((hread ..).egress ..) (SeqKept.egress c (SeqKept.ite (h8.trans (noteLanding_seqKept ..)) h8) ..)
  · exact SeqKept.refl s

theorem kickWindow_seqKept (wb pump t : Nat) : SeqKept s (kickWindow s c wb pump t) := by
  unfold kickWindow
  extract_lets k lo hi
  exact SeqKept.ite (((SeqKept.refl s).setCore (by rfl)).wr ..) (SeqKept.refl s)

theorem kickEffect_seqKept (mv t pc : Nat) : SeqKept s (kickEffect s c mv t pc) := by
  unfold kickEffect
  extract_lets b h a pm wb s1 pump st opens k s2 s3
  have h1 : SeqKept s s1 := (SeqKept.refl s).noteSp ..
  have h3 : SeqKept s s3 := (h1.setSite (by rfl)).wr ..
  exact SeqKept.ite (h1.trans (poisonTrap_seqKept ..)) (SeqKept.ite h1 (h3.trans (kickWindow_seqKept ..)))

theorem mvEffect_seqKept (mv t pc : Nat) : SeqKept s (mvEffect s c mv t pc) := by
  unfold mvEffect
  extract_lets as r s1
  have hr : SeqKept s r.st := placeAll_seqKept ..
  have h1 : SeqKept s s1 := SeqKept.upTo (fun _ _ => mvLineEffect_seqKept ..) _ (SeqKept.refl s)
  exact SeqKept.ite (SeqKept.ite (hr.trans (kickEffect_seqKept ..)) hr) (h1.trans (placeAll_seqKept ..))

theorem sendBeat_seqKept (lk e pc : Nat) (lost : List Access) (j : Nat) : SeqKept s (sendBeat c lk e pc lost s j) := by
  unfold sendBeat
  extract_lets a pl ad pm data gone s1 s2
  have h1 : SeqKept s s1 := (SeqKept.refl s).noteSp ..
  exact SeqKept.egress c (SeqKept.ite h1 (h1.emit _)) ..

theorem lkEffect_seqKept (lk t pc : Nat) : SeqKept s (lkEffect s c lk t pc) := by
  unfold lkEffect
  split
  · exact SeqKept.refl s
  · exact SeqKept.refl s
  · extract_lets k b s1 r
    have h1 : SeqKept s s1 := (SeqKept.refl s).setCore (by rfl)
    have hr : SeqKept s r.st := h1.trans (placeAll_seqKept ..)
    exact SeqKept.ite (SeqKept.upTo (fun _ _ => sendBeat_seqKept ..) _ hr) hr

theorem digAdd_seqKept (i : Nat) (xs : List (Nat × DigItem)) : SeqKept s (digAdd s i xs) := by
  unfold digAdd
  exact SeqKept.ite ((SeqKept.refl s).setSite (by rfl)) (SeqKept.refl s)

end

end Sys2Proof.Machine
end

section
/-! PROOFS. The sequencer moves on (R147, R149, R153): what an issued bundle leaves of it, and of the registers that show it. -/

namespace Sys2Proof.Machine

/-! ### Control operations and the sequencers (R152) -/

section
variable (s : State) (c : CoreId)

theorem timerRecord_seqKept (t cc ns : Nat) (co : Bool) : SeqKept s (timerRecord s c t cc ns co) := by
  unfold timerRecord
  extract_lets p cc' s1 s2 s3 s4 s5
  have h3 : SeqKept s s3 := (((SeqKept.refl s).wr ..).wr ..).wr ..
  have h4 : SeqKept s s4 := h3.bump ..
  have h5 : SeqKept s s5 := h4.wr ..
  exact h5.wr ..

theorem timerRun_seqKept (t : Nat) (on : Bool) (cc ns : Nat) : SeqKept s (timerRun s c t on cc ns) := (SeqKept.refl s).same

theorem timerEvent_seqKept (t : Nat) (start stop : Bool) (cc ns : Nat) : SeqKept s (timerEvent s c t start stop cc ns) := by
  unfold timerEvent
  extract_lets p run c0 s1
  have h1 : SeqKept s s1 := SeqKept.ite ((SeqKept.refl s).wr ..) (SeqKept.refl s)
  clear_value run c0 s1
  refine SeqKept.ite (SeqKept.refl s) ?_
  split
  case h_1 => exact SeqKept.refl s
  case h_2 => exact h1.trans (timerRun_seqKept ..)
  case h_3 | h_6 => exact (SeqKept.refl s).bump ..
  case h_4 => exact timerRecord_seqKept ..
  case h_5 | h_7 => exact (timerRecord_seqKept ..).trans (timerRun_seqKept ..)

theorem timerSource_seqKept (src : Nat) (only : Option Nat) (isStart isStop : Bool) (cc ns : Nat) :
    SeqKept s (timerSource s c src only isStart isStop cc ns) :=
  SeqKept.upTo (fun u _ => SeqKept.ite (timerEvent_seqKept ..) (SeqKept.refl u)) 16 (SeqKept.refl s)

theorem stopEffect_seqKept (t p : Nat) : SeqKept s (stopEffect s c t p) := by
  have hidle : SeqKept s (s.setCore c { (s.core c) with lastCyc := 0 }) := (SeqKept.refl s).setCore (by rfl)
  have hstop : SeqKept s (stopState s c) := SeqKept.ite (hidle.wr ..) hidle
  rw [stopEffect_eq]
  exact hstop.trans (coreRecord_seqKept ..)

theorem noteEffect_seqKept (t p tag : Nat) : SeqKept s (noteEffect s c t p tag) := by
  by_cases h : s.rd (budP c.site) Reg.Bu.BUD_TELEM ≤ (s.site c.site).uTelem
  · rw [noteEffect_spent h]
    exact ((SeqKept.refl s).note ..).wr ..
  · rw [noteEffect_within h]
    exact ((SeqKept.refl s).setSite (by rfl)).trans (coreRecord_seqKept ..)

theorem ctlEffect_seqKept (t p h lk : Nat) : SeqKept s (ctlEffect s c t p h lk) := by
  unfold ctlEffect
  exact SeqKept.ite (stopEffect_seqKept ..) (SeqKept.ite (noteEffect_seqKept ..) (SeqKept.ite (timerSource_seqKept ..)
    (SeqKept.ite (timerSource_seqKept ..) (SeqKept.refl s))))

theorem showBusy_seqKept (t : Nat) : SeqKept s (showBusy s c t) := by
  unfold showBusy
  exact ((((((SeqKept.refl s).wr ..).wr ..).wr ..).wr ..).wr ..).wr ..

end

/-! ### Where control operations and busy bits are shown -/

/-- The registers that show the sequencer. -/
def seqShown : List Fld := [Reg.Co.PC, Reg.Co.LOOP_DEPTH]

/-- The fields that a control operation may write: those of records, of the state, of dropped notes and of timers. -/
def ctlKey (c : CoreId) (k : Nat) : Prop :=
  recordKey c k ∨ k ∈ keysOf (coreP c) [Reg.Co.STATE] ∨ k ∈ dropKeys c ∨ k = fldKey (timP c.site) (Reg.Tm.RUNNING c.n)

section
variable {s : State} {c : CoreId}

theorem stopEffect_aside (s : State) (c : CoreId) (t p : Nat) : Aside (fun _ => ()) (ctlKey c) s (stopEffect s c t p) := by
  rw [stopEffect_eq]
  have hstop : Aside (fun _ => ()) (ctlKey c) s (stopState s c) := ⟨fun k hk => (stopState_off s c).find k (fun h => hk (Or.inr (Or.inl h))), fun _ => rfl⟩
  exact hstop.trans ((coreRecord_aside (c := c) (Aside.refl _) _).mono (fun _ hk => Or.inl hk))

theorem noteEffect_aside (s : State) (c : CoreId) (t p tag : Nat) : Aside (fun _ => ()) (ctlKey c) s (noteEffect s c t p tag) := by
  have hdrop : ∀ k ∈ dropKeys c, ctlKey c k := fun _ hk => Or.inr (Or.inr (Or.inl hk))
  by_cases h : s.rd (budP c.site) Reg.Bu.BUD_TELEM ≤ (s.site c.site).uTelem
  · rw [noteEffect_spent h]
    refine (((Aside.refl s).setBit (hdrop _ ?_)).bump (hdrop _ ?_)).orBits (hdrop _ ?_)
    · exact List.mem_append_left _ (keysOf_mem (by decide))
    · exact List.mem_append_left _ (keysOf_mem (by decide))
    · exact List.mem_append_right _ (keysOf_mem (by decide))
  · rw [noteEffect_within h]
    generalize hv : s.setSite c.site { (s.site c.site) with uTelem := (s.site c.site).uTelem + 1 } = v
    have hsame : Aside (fun _ => ()) (ctlKey c) s v := ⟨fun _ _ => by rw [← hv, State.setSite_regs], fun _ => rfl⟩
    exact hsame.trans ((coreRecord_aside (c := c) (Aside.refl _) _).mono (fun _ hk => Or.inl hk))

theorem timerSource_aside (s : State) (c : CoreId) (src : Nat) (only : Option Nat) (isStart isStop : Bool) (cc ns : Nat) :
    Aside (fun _ => ()) (ctlKey c) s (timerSource s c src only isStart isStop cc ns) :=
  (timerSource_within (K := ctlKey c) (fun _ hk => Or.inl (Or.inl hk)) (Or.inr (Or.inr (Or.inr rfl))) (Within.refl s) ..).aside

theorem ctlEffect_aside (s : State) (c : CoreId) (t p h lk : Nat) : Aside (fun _ => ()) (ctlKey c) s (ctlEffect s c t p h lk) := by
  unfold ctlEffect
  exact Aside.ite (stopEffect_aside ..) (Aside.ite (noteEffect_aside ..) (Aside.ite (timerSource_aside ..)
    (Aside.ite (timerSource_aside ..) (Aside.refl s))))

theorem seqShown_not_ctl (hc : coreOk c = true) {f : Fld} (hf : f ∈ seqShown) : ¬ ctlKey c (fldKey (coreP c) f) := by
  have hpaged : Paged f := (show ∀ f ∈ seqShown, f.ix = false ∧ f.off * 32 + f.lsb < 0x20000 by decide) f hf
  have happart : ∀ {gs : List Fld}, (∀ f ∈ seqShown, ∀ g ∈ gs, g.ix = f.ix ∧ g.off * 32 + g.lsb ≠ f.off * 32 + f.lsb) →
      fldKey (coreP c) f ∉ keysOf (coreP c) gs := fun h => fldKey_not_mem (h f hf)
  rintro ((hpanel | hrec) | hstate | hdrop | hrun)
  · exact coreKey_not_panel hc hpaged hpanel
  · exact happart (gs := [Reg.Co.RECORD_SEQ]) (by decide) (List.mem_singleton.2 hrec)
  · exact happart (by decide) hstate
  · rcases List.mem_append.1 hdrop with h | h
    · exact happart (by decide) h
    · exact coreKey_ne_budget hc hpaged ⟨rfl, by decide⟩ (List.mem_singleton.1 h)
  · have hn := coreOk_n hc
    rw [coreP_eq] at hrun
    exact sitePageKey_ne (b := 0x19) hpaged (running_paged hn) (by omega) (by decide) (Or.inr (Or.inl (by omega))) hrun

theorem ctlEffect_shown (hc : coreOk c = true) {f : Fld} (hf : f ∈ seqShown) (t p h lk : Nat) :
    (ctlEffect s c t p h lk).rd (coreP c) f = s.rd (coreP c) f := (ctlEffect_aside s c t p h lk).rd (seqShown_not_ctl hc hf)

/-- R54, R94, R173: the fields that `showBusy` writes. -/
def busyFields : List Fld := [Reg.Co.LOAD_BUSY, Reg.Co.STREAM_BUSY, Reg.Co.DRAIN_BUSY, Reg.Co.COMPUTE_BUSY, Reg.Co.CH0_BUSY, Reg.Co.CH1_BUSY]

theorem showBusy_busy (s : State) (c : CoreId) (t : Nat) : Off (keysOf (coreP c) busyFields) s (showBusy s c t) := by
  have hk : ∀ f ∈ busyFields, fldKey (coreP c) f ∈ keysOf (coreP c) busyFields := fun _ hf => keysOf_mem hf
  unfold showBusy
  exact ((((((Off.refl _ s).wr (hk _ (by decide))).wr (hk _ (by decide))).wr (hk _ (by decide))).wr (hk _ (by decide))).wr
    (hk _ (by decide))).wr (hk _ (by decide))

theorem showBusy_shown {f : Fld} (hf : f ∈ seqShown) (t : Nat) : (showBusy s c t).rd (coreP c) f = s.rd (coreP c) f := by
  have happart : ∀ f ∈ seqShown, ∀ g ∈ busyFields, g.ix = f.ix ∧ g.off * 32 + g.lsb ≠ f.off * 32 + f.lsb := by decide
  exact (showBusy_busy s c t).rd _ _ (fldKey_not_mem (happart f hf))

end

/-! ### Issue -/

/-- Where the sequencer goes depends on its loops alone. -/
theorem advance_congr {k l : Core} (h : k.loops = l.loops) (p hdr lk : Nat) :
    (advance k p hdr lk).nextPc = (advance l p hdr lk).nextPc ∧ (advance k p hdr lk).loops = (advance l p hdr lk).loops := by
  unfold advance
  split <;> simp only [h, and_self]

/-- The sequencer of core `c` has moved past the bundle `b` at position `p`, issued at cycle `t`. -/
structure SeqMoved (s : State) (c : CoreId) (t p b : Nat) (u : State) : Prop where
  view : let n := advance (s.core c) p (bundleHdr b) (bundleLk b)
    seqView (u.core c) = (n.nextPc, n.loops, t + 1, (s.site c.site).fc, (s.core c).issued + 1, (s.core c).bundles + 1)
  position : u.rd (coreP c) Reg.Co.PC = p % 4096
  depth : u.rd (coreP c) Reg.Co.LOOP_DEPTH = (advance (s.core c) p (bundleHdr b) (bundleLk b)).loops.length % 8

section
variable {s : State} {c : CoreId}

/-- What ends an issued bundle once its operations have had their effects: `s` moves its sequencer, and the rest leaves it. -/
theorem sequenced (hc : coreOk c = true) (t p b : Nat) :
    let v := s.setCore c { (advance (s.core c) p (bundleHdr b) (bundleLk b)) with
      prev := t + 1, prevFc := (s.site c.site).fc, issued := (s.core c).issued + 1, bundles := (s.core c).bundles + 1 }
    let w := (v.wr (coreP c) Reg.Co.PC p).wr (coreP c) Reg.Co.LOOP_DEPTH (v.core c).loops.length
    SeqMoved s c t p b (showBusy (ctlEffect w c t p (bundleHdr b) (bundleLk b)) c t) := by
  intro v w
  have hkept : SeqKept w (showBusy (ctlEffect w c t p (bundleHdr b) (bundleLk b)) c t) := (ctlEffect_seqKept ..).trans (showBusy_seqKept ..)
  have hcore : w.core c = v.core c := by rw [State.core_wr, State.core_wr]
  have hv : v.core c = _ := State.core_setCore_same ..
  refine ⟨?_, ?_, ?_⟩
  · dsimp only
    rw [hkept.cores, hcore, hv]
    rfl
  · rw [showBusy_shown (by decide), ctlEffect_shown hc (by decide), rd_wr_apart _ _ _ _ _ (by decide), State.rd_wr_same]
    rfl
  · rw [showBusy_shown (by decide), ctlEffect_shown hc (by decide), State.rd_wr_same, hv]
    rfl

/-- What a bundle's operations do leaves where its sequencer goes. -/
theorem SeqMoved.before {v u : State} {t p b : Nat} (h : SeqKept s v) (g : SeqMoved v c t p b u) : SeqMoved s c t p b u := by
  have hview := h.cores c
  simp only [seqView, Prod.mk.injEq] at hview
  obtain ⟨_, hloops, _, _, hissued, hbundles⟩ := hview
  obtain ⟨hnext, hadv⟩ := advance_congr hloops p (bundleHdr b) (bundleLk b)
  obtain ⟨gview, gpos, gdepth⟩ := g
  dsimp only at gview
  rw [hnext, hadv, h.frames, hissued, hbundles] at gview
  rw [hadv] at gdepth
  exact ⟨gview, gpos, gdepth⟩

/-- R147, R149, R150, R153: every bundle that issues moves its sequencer, whatever its operations do. -/
theorem bundleEffect_moved (hc : coreOk c = true) (s : State) (t p b : Nat) (arr : ArrayUpset) : SeqMoved s c t p b (bundleEffect s c t p b arr) := by
  unfold bundleEffect
  extract_lets hd mx vx mv as undo s1 s2 s3 s4 s5 s6 k' k s7 s8
  have h1 : SeqKept s s1 := mxEffect_seqKept ..
  have h2 : SeqKept s s2 := h1.trans ((vxData_seqKept ..).trans (vxOccupy_seqKept ..))
  have h3 : SeqKept s s3 := h2.trans (placeAll_seqKept ..)
  have h4 : SeqKept s s4 := SeqKept.ite h3 (h3.trans (mvEffect_seqKept ..))
  have h5 : SeqKept s s5 := SeqKept.ite h4 (h4.trans (lkEffect_seqKept ..))
  have h6 : SeqKept s s6 := SeqKept.ite (h5.trans (digAdd_seqKept ..)) h5
  clear_value s6
  exact (sequenced hc t p b).before h6

theorem atCycle_moved {t p b : Nat} {u : State} (h : SeqMoved (atCycle s c.site t) c t p b u) : SeqMoved s c t p b u :=
  h.before (atCycle_seqKept ..)

/-- R150: a bundle that issues does so from its row and, where its fetch is clean, from the program buffer. -/
theorem exec_issued {i : Instr} {b : Nat} {arr : ArrayUpset} {t : Nat} (hi : Issues s c b t) (h : rowOf i = some (c, b, arr) ∨
    (i = .bundleDue c [] arr ∧ bundleAt s c (s.core c).nextPc = b ∧ FetchesCleanly (atCycle s c.site t) c t)) :
    exec i s = .next (bundleEffect (atCycle s c.site t) c t (s.core c).nextPc b arr) := by
  obtain ⟨d, hd, ht, _⟩ := hi.due
  rw [← issue_of hi]
  rcases h with hrow | ⟨rfl, hb, hclean⟩
  · rw [exec_rowOf hrow, onUnit_true hi.core]
  · have hfetch : ∀ x, dueOf s c (bundleHdr b) = some x → FetchesCleanly (atCycle s c.site x.cyc) c x.cyc := by
      intro x hx
      rw [hd, Option.some.injEq] at hx
      rwa [← hx, ht]
    rw [exec_bundleDue_nil, hb, issue_clean hi.plain hfetch, onUnit_true hi.core]

end

/-- Settles O23: the sequencer moves once the operations have had their effects, none of which moves it (`bundleEffect_moved`). -/
theorem issueMovesTheSequencer : Obligations.IssueMovesTheSequencer := by
  unfold Obligations.IssueMovesTheSequencer
  intro i s c b arr t hi hfrom k n
  obtain ⟨hview, hpos, hdepth⟩ := atCycle_moved (bundleEffect_moved hi.core (atCycle s c.site t) t k.nextPc b arr)
  simp only [seqView, Prod.mk.injEq] at hview
  obtain ⟨hnext, hloops, hprev, hfc, hissued, hbundles⟩ := hview
  exact ⟨_, exec_issued hi hfrom, hnext, hloops, hprev, hfc, hissued, hbundles, hpos, hdepth⟩

end Sys2Proof.Machine
end
